-- ==== Sys2Proof/Word.lean ====
section
/-! DEFINITION. The words of the machine and their plainest arithmetic (spec/00_scope.md R1-R3). -/

namespace Sys2Proof

/-- A byte. -/
abbrev Byte := BitVec 8
/-- An instruction or header word (04_encoding.md R54). -/
abbrev Word32 := BitVec 32
/-- A scalar register value, an address, a handle (02_numbers.md R25). -/
abbrev Word64 := BitVec 64
/-- The 2,048 bits of a global register (02_numbers.md R25). -/
abbrev Vec := BitVec 2048

/-- Bits lo+n-1 : lo of x (R1). -/
def fld {m : Nat} (x : BitVec m) (lo n : Nat) : BitVec n := BitVec.ofNat n (x.toNat / 2 ^ lo)

/-- Bits lo+n-1 : lo of x, as a number. -/
def fldN {m : Nat} (x : BitVec m) (lo n : Nat) : Nat := x.toNat / 2 ^ lo % 2 ^ n

/-- Bit k of x. -/
def bit {m : Nat} (x : BitVec m) (k : Nat) : Bool := x.toNat / 2 ^ k % 2 == 1

/-- x with bits lo+n-1 : lo replaced by the low n bits of v. -/
def setFld {m : Nat} (x : BitVec m) (lo n v : Nat) : BitVec m :=
  BitVec.ofNat m (x.toNat - fldN x lo n * 2 ^ lo + v % 2 ^ n * 2 ^ lo)

/-- The bits of x below n, read as an n-bit two's complement number. -/
def sgnN (n x : Nat) : Int :=
  let y := x % 2 ^ n
  if n ≠ 0 ∧ y / 2 ^ (n - 1) = 1 then (y : Int) - 2 ^ n else y

/-- The low n bits of an exact integer (R6). -/
def lowN (n : Nat) (v : Int) : Nat := (v % (2 ^ n : Int)).toNat

/-- 1 for true, 0 for false. -/
def b2n (b : Bool) : Nat := if b then 1 else 0

end Sys2Proof
end

