-- ==== Sys2Proof/Syntax.lean ====
section
/-! DEFINITION. The instructions of the Treide architecture (spec/04_encoding.md R54-R67) and the
events of the machine: one constructor for each row of spec/opcode_table.json. The first 199
constructors are the 32-bit instruction words, the other 137 are events that have no instruction word
(a timer runs out, a card arrives, the host writes a doorbell). The fields of a word are those
of its row, at their exact widths; `p` is the predicate field PR of R61, `l` the LSID of R58, and
`t`, `u`, `v` are targets (R59). Where an event takes place (die, tile, context) and, where several
are pending there, which of them (an index), stand in the state, at `State.focus` and `State.index`,
as the place and the index of a firing instruction do; the fields of an event are what else it
brings from outside. -/

namespace Sys2Proof

/-- A mesh router's output port (16_message_engine.md R239). -/
inductive Port where
  | west | east | north | south
  deriving DecidableEq, Repr

/-- An SPDM 1.2 request over DOE (29_host_firmware.md R372). -/
inductive SpdmReq where
  /-- the algorithms and the identity of the responder -/
  | identity
  /-- the certificate chain fixed at manufacture -/
  | certificate
  /-- the measurement of the given index, 1 to 5 -/
  | measurement (index : Nat)
  deriving DecidableEq, Repr

/-- The registers outside the tiles that are written by the host or by firmware and have no
behaviour of their own beyond their access code (00_scope.md R5). -/
inductive HwReg where
  /-- queue word 0, RBASE (R374) -/
  | queueRbase (fn q : Nat)
  /-- queue word 1, CBASE (R374) -/
  | queueCbase (fn q : Nat)
  /-- queue word 4 EXPECT, writable only while EN = 0 (R374) -/
  | queueExpect (fn q : Nat)
  /-- queue word 4 REGION, written by firmware (R374, R295) -/
  | queueRegion (fn q : Nat)
  /-- CODERATE0 to CODERATE7 of a hub (17_erasure_coding.md R257) -/
  | coderate (die index : Nat)
  /-- MELDCFG of a hub (R257) -/
  | meldcfg (die : Nat)
  /-- a tile-table entry of an object, written by firmware (11_tensor_access.md R170) -/
  | tileTable (obj : BitVec 32) (index : Nat)
  /-- the base of the module's meld aperture (R245, R255) -/
  | aperture
  /-- the module that firmware binds to a UALink requester identity (R255) -/
  | requester (ident : Nat)
  /-- eight bytes of the boot window (R369, R371) -/
  | bootWindow (offset : Nat)
  /-- a chord table entry of a die: destination and chord; the value is its validity (R242) -/
  | chordValid (die dest chord : Nat)
  /-- eight bytes of a tile's local store, written by firmware through the on-chip map (06_block_engine.md R102) -/
  | mapStore (die tile offset : Nat)
  /-- eight bytes of the data of a tile's landing entries, written by firmware through the map (R102) -/
  | mapLanding (die tile offset : Nat)
  /-- any offset that reads zero and ignores writes (R369) -/
  | unused (offset : Nat)
  deriving DecidableEq, Repr

/-- One look at the sensors (R384): the module's power in watts, and the temperature in °C of its hottest die, the one in focus. -/
structure Reading where
  watts : Nat
  dieC : Nat
  deriving DecidableEq, Repr

/-- The instructions and events of the machine, one constructor per row of the opcode table. -/
inductive Instr where
  /-- BRO (R104): Branch to the current block plus OFF20 times 32. -/
  | bro (p : BitVec 2) (e : BitVec 3) (o : BitVec 20)
  /-- BRB (R107): Branch after every gang tile reaches this barrier instance. -/
  | brb (p : BitVec 2) (e : BitVec 3) (o : BitVec 20)
  /-- CALLO (R105): Push the next sequential block and branch by offset. -/
  | callo (p : BitVec 2) (e : BitVec 3) (o : BitVec 20)
  /-- RET (R105): Pop the return-address store and go to that block. -/
  | ret (p : BitVec 2) (e : BitVec 3)
  /-- TRAP (R112): Fault the block with cause TRAP and the code. -/
  | trap (p : BitVec 2) (i : BitVec 11)
  /-- BRI (R106): Branch to the block offset in an I64 token. -/
  | bri (p : BitVec 2) (e : BitVec 3)
  /-- CALLI (R106): Push the next block and branch to the offset in a token. -/
  | calli (p : BitVec 2) (e : BitVec 3)
  /-- TEXIT (R109): End context 0's part of the task with an exit code. -/
  | texit (p : BitVec 2) (c : BitVec 5)
  /-- HRET (R110): End the handler; the context becomes IDLE. -/
  | hret (p : BitVec 2)
  /-- ERET (R111): End the trap handler and resume the FCTX context at FRESUME. -/
  | eret (p : BitVec 2) (e : BitVec 3)
  /-- NULL (R114): Send null tokens to both targets. -/
  | null (p : BitVec 2) (t : BitVec 7) (u : BitVec 7)
  /-- MOV (R115): Copy the left token to two targets. -/
  | mov (p : BitVec 2) (t : BitVec 7) (u : BitVec 7)
  /-- MOV3 (R115): Copy the left token to three targets. -/
  | mov3 (p : BitVec 2) (t : BitVec 7) (u : BitVec 7) (v : BitVec 7)
  /-- MOVI (R116): Create a sign-extended 16-bit I64 constant. -/
  | movi (p : BitVec 2) (i : BitVec 16) (t : BitVec 7)
  /-- GENU (R116): Create a zero-extended 16-bit I64 constant. -/
  | genu (p : BitVec 2) (i : BitVec 16) (t : BitVec 7)
  /-- ADD (R127): Integer add. -/
  | add (p : BitVec 2) (w : BitVec 2) (t : BitVec 7) (u : BitVec 7)
  /-- SUB (R127): Integer subtract. -/
  | sub (p : BitVec 2) (w : BitVec 2) (t : BitVec 7) (u : BitVec 7)
  /-- AND (R127): Bitwise AND. -/
  | and (p : BitVec 2) (w : BitVec 2) (t : BitVec 7) (u : BitVec 7)
  /-- OR (R127): Bitwise OR. -/
  | or (p : BitVec 2) (w : BitVec 2) (t : BitVec 7) (u : BitVec 7)
  /-- XOR (R127): Bitwise XOR. -/
  | xor (p : BitVec 2) (w : BitVec 2) (t : BitVec 7) (u : BitVec 7)
  /-- ANDN (R127): A AND NOT B. -/
  | andn (p : BitVec 2) (w : BitVec 2) (t : BitVec 7) (u : BitVec 7)
  /-- SHL (R127): Shift left. -/
  | shl (p : BitVec 2) (w : BitVec 2) (t : BitVec 7) (u : BitVec 7)
  /-- SHR (R127): Logical shift right. -/
  | shr (p : BitVec 2) (w : BitVec 2) (t : BitVec 7) (u : BitVec 7)
  /-- SRA (R127): Arithmetic shift right. -/
  | sra (p : BitVec 2) (w : BitVec 2) (t : BitVec 7) (u : BitVec 7)
  /-- ROTL (R127): Rotate left. -/
  | rotl (p : BitVec 2) (w : BitVec 2) (t : BitVec 7) (u : BitVec 7)
  /-- MIN (R127): Signed minimum. -/
  | min (p : BitVec 2) (w : BitVec 2) (t : BitVec 7) (u : BitVec 7)
  /-- MAX (R127): Signed maximum. -/
  | max (p : BitVec 2) (w : BitVec 2) (t : BitVec 7) (u : BitVec 7)
  /-- MINU (R127): Unsigned minimum. -/
  | minu (p : BitVec 2) (w : BitVec 2) (t : BitVec 7) (u : BitVec 7)
  /-- MAXU (R127): Unsigned maximum. -/
  | maxu (p : BitVec 2) (w : BitVec 2) (t : BitVec 7) (u : BitVec 7)
  /-- MUL (R127): Multiply, low bits. -/
  | mul (p : BitVec 2) (w : BitVec 2) (t : BitVec 7) (u : BitVec 7)
  /-- MULH (R127): Signed multiply, high bits. -/
  | mulh (p : BitVec 2) (w : BitVec 2) (t : BitVec 7) (u : BitVec 7)
  /-- MULHU (R127): Unsigned multiply, high bits. -/
  | mulhu (p : BitVec 2) (w : BitVec 2) (t : BitVec 7) (u : BitVec 7)
  /-- DIV (R127): Signed divide with defined zero and overflow results. -/
  | div (p : BitVec 2) (w : BitVec 2) (t : BitVec 7) (u : BitVec 7)
  /-- DIVU (R127): Unsigned divide. -/
  | divu (p : BitVec 2) (w : BitVec 2) (t : BitVec 7) (u : BitVec 7)
  /-- REM (R127): Signed remainder. -/
  | rem (p : BitVec 2) (w : BitVec 2) (t : BitVec 7) (u : BitVec 7)
  /-- REMU (R127): Unsigned remainder. -/
  | remu (p : BitVec 2) (w : BitVec 2) (t : BitVec 7) (u : BitVec 7)
  /-- CLZ (R127): Count leading zeros. -/
  | clz (p : BitVec 2) (w : BitVec 2) (t : BitVec 7) (u : BitVec 7)
  /-- CTZ (R127): Count trailing zeros. -/
  | ctz (p : BitVec 2) (w : BitVec 2) (t : BitVec 7) (u : BitVec 7)
  /-- POPC (R127): Population count. -/
  | popc (p : BitVec 2) (w : BitVec 2) (t : BitVec 7) (u : BitVec 7)
  /-- SEXT (R127): Sign-extend a byte, half or word. -/
  | sext (p : BitVec 2) (k : BitVec 2) (t : BitVec 7) (u : BitVec 7)
  /-- ZEXT (R127): Zero-extend a byte, half or word. -/
  | zext (p : BitVec 2) (k : BitVec 2) (t : BitVec 7) (u : BitVec 7)
  /-- ADDS (R127): Saturating signed add. -/
  | adds (p : BitVec 2) (w : BitVec 2) (t : BitVec 7) (u : BitVec 7)
  /-- SUBS (R127): Saturating signed subtract. -/
  | subs (p : BitVec 2) (w : BitVec 2) (t : BitVec 7) (u : BitVec 7)
  /-- ADDI (R128): Add an immediate. -/
  | addi (p : BitVec 2) (i : BitVec 11) (t : BitVec 7)
  /-- ANDI (R128): AND with an immediate. -/
  | andi (p : BitVec 2) (i : BitVec 11) (t : BitVec 7)
  /-- ORI (R128): OR with an immediate. -/
  | ori (p : BitVec 2) (i : BitVec 11) (t : BitVec 7)
  /-- XORI (R128): XOR with an immediate. -/
  | xori (p : BitVec 2) (i : BitVec 11) (t : BitVec 7)
  /-- SHLI (R128): Shift left by an immediate. -/
  | shli (p : BitVec 2) (i : BitVec 11) (t : BitVec 7)
  /-- SHRI (R128): Logical shift right by an immediate. -/
  | shri (p : BitVec 2) (i : BitVec 11) (t : BitVec 7)
  /-- SRAI (R128): Arithmetic shift right by an immediate. -/
  | srai (p : BitVec 2) (i : BitVec 11) (t : BitVec 7)
  /-- MINI (R128): Signed minimum with an immediate. -/
  | mini (p : BitVec 2) (i : BitVec 11) (t : BitVec 7)
  /-- MAXI (R128): Signed maximum with an immediate. -/
  | maxi (p : BitVec 2) (i : BitVec 11) (t : BitVec 7)
  /-- MULI (R128): Multiply by an immediate. -/
  | muli (p : BitVec 2) (i : BitVec 11) (t : BitVec 7)
  /-- TEQ (R117): Test equal. -/
  | teq (p : BitVec 2) (t : BitVec 7) (u : BitVec 7)
  /-- TNE (R117): Test not equal. -/
  | tne (p : BitVec 2) (t : BitVec 7) (u : BitVec 7)
  /-- TLT (R117): Test signed less than. -/
  | tlt (p : BitVec 2) (t : BitVec 7) (u : BitVec 7)
  /-- TLE (R117): Test signed less or equal. -/
  | tle (p : BitVec 2) (t : BitVec 7) (u : BitVec 7)
  /-- TLTU (R117): Test unsigned less than. -/
  | tltu (p : BitVec 2) (t : BitVec 7) (u : BitVec 7)
  /-- TLEU (R117): Test unsigned less or equal. -/
  | tleu (p : BitVec 2) (t : BitVec 7) (u : BitVec 7)
  /-- TEQI (R118): Test equal to an immediate. -/
  | teqi (p : BitVec 2) (i : BitVec 11) (t : BitVec 7)
  /-- TNEI (R118): Test not equal to an immediate. -/
  | tnei (p : BitVec 2) (i : BitVec 11) (t : BitVec 7)
  /-- TLTI (R118): Test less than an immediate. -/
  | tlti (p : BitVec 2) (i : BitVec 11) (t : BitVec 7)
  /-- TLEI (R118): Test less or equal to an immediate. -/
  | tlei (p : BitVec 2) (i : BitVec 11) (t : BitVec 7)
  /-- TLTUI (R118): Test unsigned less than an immediate. -/
  | tltui (p : BitVec 2) (i : BitVec 11) (t : BitVec 7)
  /-- TLEUI (R118): Test unsigned less or equal to an immediate. -/
  | tleui (p : BitVec 2) (i : BitVec 11) (t : BitVec 7)
  /-- TGTI (R118): Test greater than an immediate. -/
  | tgti (p : BitVec 2) (i : BitVec 11) (t : BitVec 7)
  /-- TGEI (R118): Test greater or equal to an immediate. -/
  | tgei (p : BitVec 2) (i : BitVec 11) (t : BitVec 7)
  /-- PAND (R119): Predicate AND. -/
  | pand (p : BitVec 2) (t : BitVec 7) (u : BitVec 7)
  /-- POR (R119): Predicate OR. -/
  | por (p : BitVec 2) (t : BitVec 7) (u : BitVec 7)
  /-- PNOT (R119): Predicate NOT. -/
  | pnot (p : BitVec 2) (t : BitVec 7) (u : BitVec 7)
  /-- MFS (R123): Read a special register as an I64. -/
  | mfs (p : BitVec 2) (n : BitVec 9) (t : BitVec 7) (u : BitVec 7)
  /-- MTS (R124): Write a special register at commit. -/
  | mts (p : BitVec 2) (l : BitVec 5) (n : BitVec 9)
  /-- NOP (R113): No effect; absorbs a predicate. -/
  | nop (p : BitVec 2)
  /-- LDL (R157): Load a scalar from the local store. -/
  | ldl (p : BitVec 2) (l : BitVec 5) (s : BitVec 1) (z : BitVec 2) (i : BitVec 7) (t : BitVec 7)
  /-- STL (R158): Store a scalar to the local store at commit. -/
  | stl (p : BitVec 2) (l : BitVec 5) (z : BitVec 2) (i : BitVec 14)
  /-- VLDL (R159): Load a register from the local store with a tag. -/
  | vldl (p : BitVec 2) (l : BitVec 5) (g : BitVec 4) (i : BitVec 7) (t : BitVec 7)
  /-- VSTL (R159): Store a register to the local store at commit. -/
  | vstl (p : BitVec 2) (l : BitVec 5) (i : BitVec 14)
  /-- VGTL (R160): Gather lanes from the local store. -/
  | vgtl (p : BitVec 2) (l : BitVec 5) (g : BitVec 4) (i : BitVec 7) (t : BitVec 7)
  /-- VSCL (R160): Scatter lanes to the local store at commit. -/
  | vscl (l : BitVec 5) (i : BitVec 14)
  /-- LAND (R162): Wait for a FULL landing entry, deliver it and free it at commit. -/
  | land (p : BitVec 2) (l : BitVec 5) (n : BitVec 6) (t : BitVec 7)
  /-- FENCE (R163): A fence with firing and commit parts over orders, scopes and engines. -/
  | fence (p : BitVec 2) (l : BitVec 5) (e : BitVec 3) (o : BitVec 2) (c : BitVec 2)
  /-- TLDX (R183): Load one register from tensor memory through a generator. -/
  | tldx (p : BitVec 2) (l : BitVec 5) (g : BitVec 3) (k : BitVec 7) (t : BitVec 7)
  /-- TLDX_OFFSET (R183): Load lanes at per-lane offsets through a generator. -/
  | tldxOffset (p : BitVec 2) (l : BitVec 5) (g : BitVec 3) (h : BitVec 3) (i : BitVec 4) (t : BitVec 7)
  /-- TSTX (R183): Store one register to tensor memory at commit. -/
  | tstx (p : BitVec 2) (l : BitVec 5) (g : BitVec 3) (k : BitVec 14)
  /-- TSTX_OFFSET (R183): Store lanes at per-lane offsets at commit. -/
  | tstxOffset (l : BitVec 5) (g : BitVec 3) (h : BitVec 3) (i : BitVec 4)
  /-- TLDS (R184): Load one tensor element. -/
  | tlds (p : BitVec 2) (l : BitVec 5) (g : BitVec 3) (k : BitVec 7) (t : BitVec 7)
  /-- TSTS (R184): Store one tensor element at commit. -/
  | tsts (p : BitVec 2) (l : BitVec 5) (g : BitVec 3) (k : BitVec 14)
  /-- AMOL (R161): Local atomic read-modify-write at commit. -/
  | amol (p : BitVec 2) (l : BitVec 5) (m : BitVec 4) (o : BitVec 2) (z : BitVec 1) (t : BitVec 7)
  /-- AMOT (R185): Tensor atomic at the home at commit. -/
  | amot (p : BitVec 2) (l : BitVec 5) (m : BitVec 4) (o : BitVec 2) (z : BitVec 1) (g : BitVec 3) (t : BitVec 7)
  /-- CAS_LOCAL (R161): Local compare-and-swap at commit. -/
  | casLocal (l : BitVec 5) (o : BitVec 2) (z : BitVec 1) (t : BitVec 7)
  /-- CAS_TENSOR (R185): Tensor compare-and-swap at the home at commit. -/
  | casTensor (l : BitVec 5) (g : BitVec 3) (o : BitVec 2) (z : BitVec 1) (t : BitVec 7)
  /-- VAMOT (R186): Vector atomic add into tensor memory. -/
  | vamot (p : BitVec 2) (l : BitVec 5) (g : BitVec 3) (o : BitVec 2)
  /-- VADD (R137): Lane add. -/
  | vadd (p : BitVec 2) (t : BitVec 7) (u : BitVec 7)
  /-- VSUB (R137): Lane subtract. -/
  | vsub (p : BitVec 2) (t : BitVec 7) (u : BitVec 7)
  /-- VMUL (R137): Lane multiply. -/
  | vmul (p : BitVec 2) (t : BitVec 7) (u : BitVec 7)
  /-- VMIN (R137): Lane minimum. -/
  | vmin (p : BitVec 2) (t : BitVec 7) (u : BitVec 7)
  /-- VMAX (R137): Lane maximum. -/
  | vmax (p : BitVec 2) (t : BitVec 7) (u : BitVec 7)
  /-- VABS (R137): Lane absolute value. -/
  | vabs (p : BitVec 2) (t : BitVec 7) (u : BitVec 7)
  /-- VNEG (R137): Lane negate. -/
  | vneg (p : BitVec 2) (t : BitVec 7) (u : BitVec 7)
  /-- VAND (R137): Lane bitwise AND. -/
  | vand (p : BitVec 2) (t : BitVec 7) (u : BitVec 7)
  /-- VOR (R137): Lane bitwise OR. -/
  | vor (p : BitVec 2) (t : BitVec 7) (u : BitVec 7)
  /-- VXOR (R137): Lane bitwise XOR. -/
  | vxor (p : BitVec 2) (t : BitVec 7) (u : BitVec 7)
  /-- VSHL (R137): Lane shift left. -/
  | vshl (p : BitVec 2) (t : BitVec 7) (u : BitVec 7)
  /-- VSHR (R137): Lane logical shift right. -/
  | vshr (p : BitVec 2) (t : BitVec 7) (u : BitVec 7)
  /-- VSRA (R137): Lane arithmetic shift right. -/
  | vsra (p : BitVec 2) (t : BitVec 7) (u : BitVec 7)
  /-- VADDS (R137): Lane saturating add. -/
  | vadds (p : BitVec 2) (t : BitVec 7) (u : BitVec 7)
  /-- VSUBS (R137): Lane saturating subtract. -/
  | vsubs (p : BitVec 2) (t : BitVec 7) (u : BitVec 7)
  /-- VFMA (R138): Fused a·b+c per lane. -/
  | vfma (t : BitVec 7) (u : BitVec 7)
  /-- VFMS (R138): Fused a·b−c per lane. -/
  | vfms (t : BitVec 7) (u : BitVec 7)
  /-- VFNMA (R138): Fused c−a·b per lane. -/
  | vfnma (t : BitVec 7) (u : BitVec 7)
  /-- VCEQ (R139): Lane compare equal to a mask. -/
  | vceq (p : BitVec 2) (t : BitVec 7) (u : BitVec 7)
  /-- VCNE (R139): Lane compare not equal. -/
  | vcne (p : BitVec 2) (t : BitVec 7) (u : BitVec 7)
  /-- VCLT (R139): Lane compare less than. -/
  | vclt (p : BitVec 2) (t : BitVec 7) (u : BitVec 7)
  /-- VCLE (R139): Lane compare less or equal. -/
  | vcle (p : BitVec 2) (t : BitVec 7) (u : BitVec 7)
  /-- VCGT (R139): Lane compare greater than. -/
  | vcgt (p : BitVec 2) (t : BitVec 7) (u : BitVec 7)
  /-- VCGE (R139): Lane compare greater or equal. -/
  | vcge (p : BitVec 2) (t : BitVec 7) (u : BitVec 7)
  /-- VSEL (R140): Select lanes by a mask. -/
  | vsel (t : BitVec 7) (u : BitVec 7)
  /-- VRCP (R141): Correctly rounded reciprocal. -/
  | vrcp (p : BitVec 2) (t : BitVec 7) (u : BitVec 7)
  /-- VRSQ (R141): Correctly rounded reciprocal square root. -/
  | vrsq (p : BitVec 2) (t : BitVec 7) (u : BitVec 7)
  /-- VSQRT (R141): Correctly rounded square root. -/
  | vsqrt (p : BitVec 2) (t : BitVec 7) (u : BitVec 7)
  /-- VEXP2 (R141): Correctly rounded power of two. -/
  | vexp2 (p : BitVec 2) (t : BitVec 7) (u : BitVec 7)
  /-- VLOG2 (R141): Correctly rounded base-2 logarithm. -/
  | vlog2 (p : BitVec 2) (t : BitVec 7) (u : BitVec 7)
  /-- VTANH (R141): Correctly rounded hyperbolic tangent. -/
  | vtanh (p : BitVec 2) (t : BitVec 7) (u : BitVec 7)
  /-- VRSUM (R142): Tree-sum reduction of the lanes. -/
  | vrsum (p : BitVec 2) (t : BitVec 7) (u : BitVec 7)
  /-- VRMAX (R142): Maximum reduction of the lanes. -/
  | vrmax (p : BitVec 2) (t : BitVec 7) (u : BitVec 7)
  /-- VRMIN (R142): Minimum reduction of the lanes. -/
  | vrmin (p : BitVec 2) (t : BitVec 7) (u : BitVec 7)
  /-- VBCAST (R143): Broadcast a scalar to every lane. -/
  | vbcast (p : BitVec 2) (g : BitVec 4) (t : BitVec 7) (u : BitVec 7)
  /-- VEXT (R144): Extract one lane as a scalar. -/
  | vext (p : BitVec 2) (t : BitVec 7) (u : BitVec 7)
  /-- VINS (R144): Insert a scalar into one lane. -/
  | vins (t : BitVec 7) (u : BitVec 7)
  /-- VPERM (R145): Permute lanes by an index vector. -/
  | vperm (p : BitVec 2) (t : BitVec 7) (u : BitVec 7)
  /-- VROT (R145): Rotate lanes. -/
  | vrot (p : BitVec 2) (t : BitVec 7) (u : BitVec 7)
  /-- VIOTA (R146): Lane index vector. -/
  | viota (p : BitVec 2) (g : BitVec 4) (t : BitVec 7) (u : BitVec 7)
  /-- VPSUM (R147): Sequential prefix sum. -/
  | vpsum (p : BitVec 2) (t : BitVec 7) (u : BitVec 7)
  /-- VCVT (R148): Convert lanes between formats of equal lane count. -/
  | vcvt (p : BitVec 2) (g : BitVec 4) (t : BitVec 7) (u : BitVec 7)
  /-- VQNT (R152): Quantise one Q4N block. -/
  | vqnt (b : BitVec 3) (t : BitVec 7) (u : BitVec 7)
  /-- VDQNT (R153): Dequantise Q4N blocks. -/
  | vdqnt (f : BitVec 1) (b : BitVec 3) (t : BitVec 7) (u : BitVec 7)
  /-- VPACK (R150): Narrow two registers into one. -/
  | vpack (p : BitVec 2) (g : BitVec 4) (t : BitVec 7) (u : BitVec 7)
  /-- VUNPK (R149): Widen part of a register. -/
  | vunpk (p : BitVec 2) (f : BitVec 1) (h : BitVec 1) (q : BitVec 2) (t : BitVec 7) (u : BitVec 7)
  /-- VRETAG (R151): Give the bits a new tag without conversion. -/
  | vretag (p : BitVec 2) (g : BitVec 4) (t : BitVec 7) (u : BitVec 7)
  /-- MAND (R154): Mask AND. -/
  | mand (p : BitVec 2) (t : BitVec 7) (u : BitVec 7)
  /-- MOR (R154): Mask OR. -/
  | mor (p : BitVec 2) (t : BitVec 7) (u : BitVec 7)
  /-- MXOR (R154): Mask XOR. -/
  | mxor (p : BitVec 2) (t : BitVec 7) (u : BitVec 7)
  /-- MNOT (R154): Mask NOT. -/
  | mnot (p : BitVec 2) (t : BitVec 7) (u : BitVec 7)
  /-- MPOP (R154): Count set mask lanes. -/
  | mpop (p : BitVec 2) (t : BitVec 7) (u : BitVec 7)
  /-- MFIRST (R154): Lowest set mask lane. -/
  | mfirst (p : BitVec 2) (t : BitVec 7) (u : BitVec 7)
  /-- GSET (R188): Bind a generator to a window after the home race check. -/
  | gset (p : BitVec 2) (l : BitVec 5) (g : BitVec 3) (t : BitVec 7)
  /-- SBIND (R189): Bind or unbind a stream port. -/
  | sbind (p : BitVec 2) (l : BitVec 5) (n : BitVec 3)
  /-- CSETG (R190): Write a copy geometry register from the local store. -/
  | csetg (p : BitVec 2) (l : BitVec 5) (c : BitVec 4)
  /-- CPY (R192): Copy a window between tensor memory and the local store. -/
  | cpy (p : BitVec 2) (l : BitVec 5) (d : BitVec 1) (c : BitVec 4) (t : BitVec 7)
  /-- CPYW (R193): Copy between two tensor windows. -/
  | cpyw (p : BitVec 2) (l : BitVec 5) (c : BitVec 4) (t : BitVec 7)
  /-- CPYM (R194): Copy a window into a rectangle of gang tiles. -/
  | cpym (p : BitVec 2) (l : BitVec 5) (c : BitVec 4) (t : BitVec 7)
  /-- DEAL (R195): Distribute a window over the gang through the Dealer. -/
  | deal (p : BitVec 2) (l : BitVec 5) (c : BitVec 4) (t : BitVec 7)
  /-- CPYT (R196): Copy local bytes into the on-chip map. -/
  | cpyt (p : BitVec 2) (l : BitVec 5) (n : BitVec 5) (t : BitVec 7)
  /-- CPYT_LAND (R196): Copy 256 bytes into a landing entry with a tag. -/
  | cpytLand (p : BitVec 2) (l : BitVec 5) (g : BitVec 4) (t : BitVec 7)
  /-- TWAIT (R197): Wait on the context's timeline for an engine. -/
  | twait (p : BitVec 2) (l : BitVec 5) (e : BitVec 2) (t : BitVec 7)
  /-- TREAD (R198): Read a completed value or issue count. -/
  | tread (p : BitVec 2) (l : BitVec 5) (w : BitVec 1) (e : BitVec 2) (t : BitVec 7)
  /-- MSETG (R214): Write a matrix geometry register. -/
  | msetg (p : BitVec 2) (l : BitVec 5) (g : BitVec 4) (t : BitVec 7)
  /-- MMA (R215): Multiply A by a latch and add into an accumulator in sequence. -/
  | mma (p : BitVec 2) (l : BitVec 5) (g : BitVec 4) (a : BitVec 2) (t : BitVec 7)
  /-- MMAZ (R215): Open an accumulator with a product. -/
  | mmaz (p : BitVec 2) (l : BitVec 5) (g : BitVec 4) (a : BitVec 2) (t : BitVec 7)
  /-- MMAQ (R215): Q4N multiply-accumulate. -/
  | mmaq (p : BitVec 2) (l : BitVec 5) (g : BitVec 4) (a : BitVec 2) (t : BitVec 7)
  /-- MLDB (R216): Load a latch from the local store. -/
  | mldb (p : BitVec 2) (l : BitVec 5) (b : BitVec 1) (t : BitVec 7)
  /-- MPLAY (R217): Hand a latch to the next seat. -/
  | mplay (p : BitVec 2) (l : BitVec 5) (b : BitVec 1) (t : BitVec 7)
  /-- MST (R218): Store accumulator elements to the local store or a landing entry. -/
  | mst (p : BitVec 2) (l : BitVec 5) (g : BitVec 4) (a : BitVec 2) (t : BitVec 7)
  /-- MLDA (R219): Load an accumulator and set its tag and sequence. -/
  | mlda (p : BitVec 2) (l : BitVec 5) (a : BitVec 2) (t : BitVec 7)
  /-- MZERO (R219): Zero an accumulator and open a tag. -/
  | mzero (p : BitVec 2) (l : BitVec 5) (a : BitVec 2) (t : BitVec 7)
  /-- MRLS (R217): Free a latch. -/
  | mrls (p : BitVec 2) (l : BitVec 5) (b : BitVec 1) (t : BitVec 7)
  /-- MSEAT (R220): Write the seat register. -/
  | mseat (p : BitVec 2) (l : BitVec 5) (t : BitVec 7)
  /-- SEND (R272): Send a card to a frame or landing mailbox. -/
  | send (p : BitVec 2) (l : BitVec 5) (u : BitVec 1) (n : BitVec 5) (t : BitVec 7)
  /-- SENDQ (R273): Send a card to a queue mailbox under allowance. -/
  | sendq (p : BitVec 2) (l : BitVec 5) (u : BitVec 1) (n : BitVec 5) (t : BitVec 7)
  /-- REQ (R274): Send a request reserving a reply frame. -/
  | req (p : BitVec 2) (l : BitVec 5) (u : BitVec 1) (n : BitVec 5) (t : BitVec 7)
  /-- REPLY (R275): Send a reply into a reserved reply frame. -/
  | reply (p : BitVec 2) (l : BitVec 5) (u : BitVec 1) (n : BitVec 5) (t : BitVec 7)
  /-- XPUT (R276): Write bytes into consecutive slots of a frame. -/
  | xput (p : BitVec 2) (l : BitVec 5) (u : BitVec 1) (n : BitVec 5) (t : BitVec 7)
  /-- XAMO (R277): Remote 8-byte atomic in another tile's local store. -/
  | xamo (p : BitVec 2) (l : BitVec 5) (u : BitVec 1) (o : BitVec 4) (t : BitVec 7)
  /-- MBXSET (R278): Write a mailbox, allowance record or exchange configuration. -/
  | mbxset (p : BitVec 2) (l : BitVec 5) (k : BitVec 2) (t : BitVec 7)
  /-- FRGET (R279): Read, or wait for, a mailbox's state. -/
  | frget (p : BitVec 2) (l : BitVec 5) (w : BitVec 1) (t : BitVec 7)
  /-- FRPUT (R280): Rearm a frame or pass queue cards at commit. -/
  | frput (p : BitVec 2) (l : BitVec 5) (t : BitVec 7)
  /-- XROUTE (R281): Append an exchange record to a send list. -/
  | xroute (p : BitVec 2) (l : BitVec 5) (t : BitVec 7)
  /-- XFLUSH (R282): Flush send lists and write their counters. -/
  | xflush (p : BitVec 2) (l : BitVec 5) (t : BitVec 7)
  /-- TDEC (R315): Decrement a task's counter at commit. -/
  | tdec (p : BitVec 2) (l : BitVec 5)
  /-- TSPAWN (R316): Create a task from a record image. -/
  | tspawn (p : BitVec 2) (l : BitVec 5) (t : BitVec 7)
  /-- TJOIN (R318): Wait for a join to fire and return its counts. -/
  | tjoin (p : BitVec 2) (l : BitVec 5) (t : BitVec 7)
  /-- TSTAT (R319): Read one word of a task record. -/
  | tstat (p : BitVec 2) (l : BitVec 5) (s : BitVec 2) (t : BitVec 7)
  /-- TKILL (R320): Kill a task at commit, optionally with its subgraph. -/
  | tkill (p : BitVec 2) (l : BitVec 5) (k : BitVec 1)
  /-- GINST (R317): Instantiate a template with a rename table. -/
  | ginst (p : BitVec 2) (l : BitVec 5) (t : BitVec 7)
  /-- NOPEN (R341): Open a name for a handle, optionally waiting for a bind. -/
  | nopen (p : BitVec 2) (l : BitVec 5) (w : BitVec 1) (n : BitVec 5) (t : BitVec 7)
  /-- NCLOSE (R342): Close a handle. -/
  | nclose (p : BitVec 2) (l : BitVec 5)
  /-- NBIND (R343): Bind or unbind a name. -/
  | nbind (p : BitVec 2) (l : BitVec 5)
  /-- NTXB (R345): Begin a transaction. -/
  | ntxb (p : BitVec 2) (l : BitVec 5) (t : BitVec 7)
  /-- NTXA (R345): Add a bind or unbind to a transaction. -/
  | ntxa (l : BitVec 5)
  /-- NTXC (R346): Commit a transaction by two-phase commit. -/
  | ntxc (p : BitVec 2) (l : BitVec 5) (t : BitVec 7)
  /-- NTXX (R346): Abort a transaction. -/
  | ntxx (p : BitVec 2) (l : BitVec 5)
  /-- NSNAP (R347): Snapshot an object. -/
  | nsnap (p : BitVec 2) (l : BitVec 5) (t : BitVec 7)
  /-- NMAKE (R348): Make an object from a descriptor. -/
  | nmake (p : BitVec 2) (l : BitVec 5) (t : BitVec 7)
  /-- NQRY (R344): Query a binding, generation or count. -/
  | nqry (p : BitVec 2) (l : BitVec 5) (s : BitVec 2) (t : BitVec 7)
  /-- SVC (R360): Request a die-controller service. -/
  | svc (p : BitVec 2) (l : BitVec 5) (t : BitVec 7)
  /-- BKPT (R361): Breakpoint: fault, or halt the die when DBGEN is set. -/
  | bkpt (p : BitVec 2) (l : BitVec 5) (c : BitVec 6)
  /-- CTXSV (R363): Save a context image to the local store. -/
  | ctxsv (p : BitVec 2) (l : BitVec 5)
  /-- CTXRS (R364): Restore a context from an image and run it. -/
  | ctxrs (p : BitVec 2) (l : BitVec 5)
  /-- TLBI (R365): Invalidate translations at a scope. -/
  | tlbi (p : BitVec 2) (l : BitVec 5) (s : BitVec 2)
  /-- BOOT_GO_WRITE (R371): The host writes GO in the boot window; the loader checks and verifies the image, then distributes it or waits for a new image. -/
  | bootGoWrite (len : BitVec 32)
  /-- SPDM_REQUEST (R372): An SPDM 1.2 request over DOE is answered with the identity, certificates or measurements. -/
  | spdmRequest (what : SpdmReq)
  /-- PCIE_OUT_OF_WINDOW_REQUEST (R369): A PCIe request outside the granted BAR windows freezes the function. -/
  | pcieOutOfWindowRequest (fn : Nat) (word : BitVec 64)
  /-- DOORBELL (R374): The host writes TAIL in a queue's registers, which makes new packets available for acceptance. -/
  | doorbell (fn : Nat) (q : Nat) (tail : BitVec 32)
  /-- CDONE_WRITE (R378): The host writes CDONE, which frees completion ring slots for posting. -/
  | cdoneWrite (fn : Nat) (q : Nat) (v : BitVec 32)
  /-- QUEUE_ENABLE (R374): A write of EN sets the queue running from EXPECT and clears ERR, or stops acceptance. -/
  | queueEnable (fn : Nat) (q : Nat) (en : Bool)
  /-- REGISTER_WRITE (R5): A write to a register that has no behaviour of its own stores the value per the access code. -/
  | registerWrite (reg : HwReg) (v : BitVec 64)
  /-- QUEUE_ACCEPT (R376): The presiding controller accepts the next packet when TAIL and room permit, or sets the queue in error on a gap or a bad tail. -/
  | queueAccept (fn : Nat) (q : Nat)
  /-- COMPLETION_POST (R378): A completion record is posted in SEQ order once completion ring room exists; a non-zero STATUS raises MSI-X. -/
  | completionPost (fn : Nat) (q : Nat)
  /-- HOST_NOP (R379): Host NOP completes at acceptance. -/
  | hostNop (fn : Nat) (q : Nat)
  /-- KICK (R379): Host KICK posts a handler start request to the named die and tile. -/
  | kick (fn : Nat) (q : Nat)
  /-- LAUNCH (R379): Host LAUNCH instantiates a template as GINST does, and optionally waits for its first join. -/
  | launch (fn : Nat) (q : Nat)
  /-- MAKEOBJ (R379): Host MAKEOBJ makes an object from a descriptor and binds a name to it. -/
  | makeobj (fn : Nat) (q : Nat)
  /-- BINDN (R379): Host BINDN binds up to three names, singly or as one transaction. -/
  | bindn (fn : Nat) (q : Nat)
  /-- COPYIN (R379): Host COPYIN writes host memory into an object window as a window owner. -/
  | copyin (fn : Nat) (q : Nat)
  /-- COPYOUT (R379): Host COPYOUT reads an object window into host memory as a window owner. -/
  | copyout (fn : Nat) (q : Nat)
  /-- HOST_FENCE (R377): Host FENCE completes after every earlier command and holds back later ones. -/
  | hostFence (fn : Nat) (q : Nat)
  /-- QSTAT (R379): Host QSTAT returns the queue's sequence words and its status word. -/
  | qstat (fn : Nat) (q : Nat)
  /-- PREEMPT (R305): Host PREEMPT starts the ladder at the drain rung on a queue or region. -/
  | preempt (fn : Nat) (q : Nat)
  /-- RESUME (R306): Host RESUME makes SUSPENDED tasks ARMED on their recorded rectangles and ends the ladder. -/
  | resume (fn : Nat) (q : Nat)
  /-- SNAPSHOT (R379): Host SNAPSHOT snapshots an object and binds a name to the snapshot. -/
  | snapshot (fn : Nat) (q : Nat)
  /-- PARTSTAT (R379): Host PARTSTAT returns live C-dies, the presiding die and whether quorum is held. -/
  | partstat (fn : Nat) (q : Nat)
  /-- LB_TAG_STATE_WRITE (R102): A map write to a landing tag and state word sets the tag and makes the entry FULL. -/
  | lbTagStateWrite (byte : BitVec 8)
  /-- MAILBOX_MAP_WRITE (R228): A firmware write to a mailbox configuration through the map resets and reconfigures the mailbox. -/
  | mailboxMapWrite (words : BitVec 768)
  /-- ALLOWANCE_RETURN_TIMER (R233): 256 cycles after unreturned CONS growth, the receiver returns CONS. -/
  | allowanceReturnTimer (sender : Nat)
  /-- UALINK_INBOUND_WRITE (R255): An inbound 64-byte aperture write is taken as one fragment. -/
  | ualinkInboundWrite (requester : Nat) (station : Nat) (addr : BitVec 64) (data : BitVec 512)
  /-- UALINK_UNSUPPORTED_REQUEST (R245): An inbound read, or a write outside the aperture, completes unsupported with no effect. -/
  | ualinkUnsupportedRequest (read : Bool) (addr : BitVec 64)
  /-- VOTE_LIMIT_EXPIRY (R333): A home's vote does not arrive within the limit, and the decision is ABORT. -/
  | voteLimitExpiry (home : Nat)
  /-- TXN_INDOUBT (R334): An entry PREPARED for 1 ms is in doubt: TXN_INDOUBT is posted and the coordinator is asked again. -/
  | txnIndoubt (key : BitVec 64)
  /-- TXN_SETTLE (R334): Firmware settles an in-doubt transaction from the coordinator's record. -/
  | txnSettle (key : BitVec 64)
  /-- KEY_SLOT_LOAD (R380): Firmware loads a key slot, refusing it while E frames use the slot. -/
  | keySlotLoad (slot : Nat) (dataKey : BitVec 128) (tweakKey : BitVec 128)
  /-- ROUTER_TABLE_WRITE (R240): Firmware writes the mesh override tables, refusing illegal ones. -/
  | routerTableWrite (table : List (Nat × Nat × Port))
  /-- REGION_BLOCK_WRITE (R295): Firmware writes a region control block, refusing a bad PARENT chain. -/
  | regionBlockWrite (region : Nat) (image : BitVec 1024)
  /-- THROTTLE_STEP_UP (R384): A power or temperature threshold crossing enters a higher throttle step: firmware takes a reading. -/
  | throttleStepUp (reading : Reading)
  /-- OVERTEMP_RESET (R384): A die above 110 C, or a coolant inlet above 45 C, makes firmware reset the device. -/
  | overtempReset (dieC : Nat) (inletC : Nat)
  /-- HALTED_CONTEXT_WRITE (R368): While a debug halt is in force, firmware reads and writes the contexts of the halted die in the image layout of R362, with the effect of CTXSV and CTXRS. -/
  | haltedContextWrite (image : Option (List (BitVec 8)))
  /-- POWER_UP (R371): Power-up runs the boot sequence: the boot ROMs start, tiles are held in reset, and the rim dies train their links. -/
  | powerUp
  /-- DEVICE_RESET (R371): A device reset clears every key slot and reruns the whole boot sequence; no firmware survives it. -/
  | deviceReset
  /-- DIE_RESET (R83): A die reset sets contexts, registers, mailboxes, counters and exchange state to their reset values. -/
  | dieReset
  /-- KICK_DELIVERY (R101): A KICK held in the hub is queued at the tile once its start queue has room. -/
  | kickDelivery
  /-- PRESIDING_ELECTION (R373): After a change in live dies or links, the presiding controller is elected again, and a hand-over puts queues in error. -/
  | presidingElection
  /-- BLOCK_FETCH (R88): A block's header and body are fetched through the code handle; fetch faults are checked in order. -/
  | blockFetch
  /-- BLOCK_DECODE (R66): The next block is decoded with the ordered checks, and its read entries deliver their tokens. -/
  | blockDecode
  /-- BLOCK_COMMIT (R94): The block commits: counted operations in LSID order, write entries, generator advance and exit effect. -/
  | blockCommit
  /-- BLOCK_STALL_TIMEOUT (R95): TMO_BLOCK cycles pass without commit, and the block faults BLOCK_STALL. -/
  | blockStallTimeout
  /-- WAIT_TIMEOUT_EXPIRY (R95): A single wait exceeds TMO_WAIT, and it faults or returns its timeout status. -/
  | waitTimeoutExpiry
  /-- CONTEXT_DRAINED (R84): A DRAINING context 0 whose timelines have all completed goes IDLE and reports the tile's part done. -/
  | contextDrained
  /-- HANDLER_START (R101): An IDLE context 1-7 takes the oldest start request and starts the handler. -/
  | handlerStart
  /-- TRAP_START (R354): A queued trap start runs the region's trap handler at SUPER with FCTX and FRESUME set. -/
  | trapStart
  /-- LANDING_FILL (R99): A transfer fills a FREE landing entry with data and tag and makes it FULL, completing waiting LANDs. -/
  | landingFill
  /-- FAULT_RECORD_WRITE (R353): The fault record is written into the context's fault-record landing entry four cycles after the fault. -/
  | faultRecordWrite
  /-- WINDOW_REQUEST (R50): A window sent by placement or GSET is checked at the object's home against the active list. -/
  | windowRequest
  /-- WINDOW_WITHDRAW (R51): A grant made for a refused placement or GSET is withdrawn at its home. -/
  | windowWithdraw
  /-- TENSOR_REQUEST (R387): A tensor access or atomic is performed once at its home Cheryn die, and the reply is sent. -/
  | tensorRequest
  /-- TENSOR_REPLY (R387): A tensor reply reaches the tile and delivers its value or acknowledgement. -/
  | tensorReply
  /-- TABLE_WALK (R172): A frame walk returns a tile-table entry to the generator, TLB and table cache. -/
  | tableWalk
  /-- LINK_FLIT_RETRY (R387): An unacknowledged or failed flit is resent over its link or recomputed route. -/
  | linkFlitRetry
  /-- COW_COMPLETE (R176): The frame copy ends, the entry is rewritten and translations are invalidated, and waiting writes proceed. -/
  | cowComplete
  /-- COPY_START (R179): The copy queue starts its next command in queue order. -/
  | copyStart
  /-- COPY_COMPLETE (R179): A copy command completes, possibly with a fault, and its CE number completes. -/
  | copyComplete
  /-- DEALER_RUN (R180): The Dealer reads a window and writes each element to its gang tile. -/
  | dealerRun
  /-- STREAM_READAHEAD (R174): A generator reads up to four elements ahead of its position without faults. -/
  | streamReadahead
  /-- ME_ENTRY_START (R207): The matrix engine starts the oldest ready matching-store entry and makes its start-time checks. -/
  | meEntryStart
  /-- ME_COMMAND_APPLY (R207): An ME command is applied at the end of its engine time and its ME number completes. -/
  | meCommandApply
  /-- PLAY_REQUEST (R206): A play asks the next seat for a latch over VC2. -/
  | playRequest
  /-- PLAY_GRANT (R206): The next seat grants and reserves its lower free latch when one is available. -/
  | playGrant
  /-- LATCH_ARRIVAL (R206): The ninth play card makes the latch FULL and queues the latch-arrival handler start. -/
  | latchArrival
  /-- CARD_SEND (R271): A card leaves the card unit when allowance, retention and back-pressure permit. -/
  | cardSend
  /-- FRAME_CARD_ARRIVAL (R229): A card is written into a frame slot and may fire the frame's handler. -/
  | frameCardArrival
  /-- QUEUE_CARD_ARRIVAL (R232): A card is placed in a queue ring, with PAD when it wraps, or is discarded. -/
  | queueCardArrival
  /-- LANDING_CARD_ARRIVAL (R231): A landing-mode card fills a landing entry, or is discarded as malformed. -/
  | landingCardArrival
  /-- REPLY_CARD_ARRIVAL (R237): A CLASS 1 card is delivered into its reserved reply frame. -/
  | replyCardArrival
  /-- ATOMIC_CARD_ARRIVAL (R277): An XAMO card performs its 8-byte atomic at the target local store. -/
  | atomicCardArrival
  /-- CARD_ACK (R226): The acknowledgement of a card reaches the sender and completes its MSE number. -/
  | cardAck
  /-- QUEUE_MAILBOX_FIRE (R232): A queue mailbox fires its handler when RD differs from WR and none of its handlers runs. -/
  | queueMailboxFire
  /-- MAILBOX_CONFIG_APPLY (R278): The card unit applies an MBXSET configuration or refuses it, and resets the mailbox. -/
  | mailboxConfigApply
  /-- ALLOWANCE_RETURN_ARRIVAL (R233): A returned CONS value reaches the sender, which takes it if it is newer. -/
  | allowanceReturnArrival
  /-- REFRESH_TIMER (R233): A sender blocked for 1,024 cycles sends a refresh request. -/
  | refreshTimer
  /-- REFRESH_REQUEST_ARRIVAL (R233): The receiver answers a refresh request with its CONS. -/
  | refreshRequestArrival
  /-- MESSAGE_SEND (R258): The fabric interface codes a message and sprays its fragments over chords or planes. -/
  | messageSend
  /-- FRAGMENT_ARRIVAL (R259): A fragment is checked, filtered and stored in a meld buffer, or a BUSY is returned. -/
  | fragmentArrival
  /-- MELD_DELIVERY (R260): A buffer with k fragments delivers its message on the fast or decode path. -/
  | meldDelivery
  /-- MESSAGE_COMPLETED (R261): A message completes at its destination, the filter advances and held ORDERED messages are released. -/
  | messageCompleted
  /-- ACK_TIMER (R263): 1,024 cycles after unacknowledged growth of H, an ACK is sent. -/
  | ackTimer
  /-- ACK_ARRIVAL (R263): An ACK frees retention copies and completes the numbers of covered cards. -/
  | ackArrival
  /-- BUSY_ARRIVAL (R259): A BUSY reaches the source, which schedules a resend of the whole message. -/
  | busyArrival
  /-- BUSY_RESEND_TIMER (R259): One microsecond after a BUSY, the source resends the whole message. -/
  | busyResendTimer
  /-- MELD_TIMEOUT (R264): A short meld buffer sends a REPAIR, or after its last permitted REPAIR gives the message up. -/
  | meldTimeout
  /-- REPAIR_ARRIVAL (R264): The source answers a REPAIR as one attempt with fresh fragments. -/
  | repairArrival
  /-- SOURCE_TIMER_EXPIRY (R264): The source's timer expires: it resends the whole message, or gives up with MSG_UNRECOVERABLE and GIVEUP. -/
  | sourceTimerExpiry
  /-- GIVEUP_ARRIVAL (R265): GIVEUP makes the destination drop its partial buffer and mark the ID completed. -/
  | giveupArrival
  /-- LINK_LOSS_OF_LOCK (R244): A link loses lock and starts to retrain, losing fragments in flight. -/
  | linkLossOfLock
  /-- LINK_DOWN_DECLARE (R244): A link not retrained after 10 microseconds is declared down and the news is sent. -/
  | linkDownDeclare
  /-- CHORD_NEWS_ARRIVAL (R244): News of a down link marks the crossing chords unavailable on a die. -/
  | chordNewsArrival
  /-- LINK_UP (R244): A link comes back up and is used again after its chords are validated. -/
  | linkUp
  /-- EXCHANGE_CONFIG_APPLY (R386): The hub applies an .xchg configuration to an exchange destination or to the overflow queue. -/
  | exchangeConfigApply
  /-- EXCHANGE_FLUSH_ARRIVAL (R249): The receiving exchange unit writes or refuses the records and returns the refused ones. -/
  | exchangeFlushArrival
  /-- EXCHANGE_RETURN_ARRIVAL (R249): The source routes returned records to their second choice or to overflow and makes fates final. -/
  | exchangeReturnArrival
  /-- OVERFLOW_RECORD_ARRIVAL (R389): A dropped record is written to the overflow mailbox or discarded. -/
  | overflowRecordArrival
  /-- XFLUSH_COUNTER_WRITE (R282): Once every fate is final, XFLUSH writes the destination counters and completes. -/
  | xflushCounterWrite
  /-- HEARTBEAT_TIMER (R251): Every 10 microseconds die controllers send heartbeats, and three misses decide liveness and quorum. -/
  | heartbeatTimer
  /-- HEARTBEAT_ARRIVAL (R251): A heartbeat from another die controller is received. -/
  | heartbeatArrival
  /-- REJOIN (R252): Rejoining dies take the chord tables and resume after in-doubt transactions are settled. -/
  | rejoin
  /-- DECREMENT_APPLY (R293): A decrement is applied to a record at its hub and may arm it, or is ignored. -/
  | decrementApply
  /-- KILL_APPLY (R320): A kill is applied at a record's hub per its state and passed on under KILL_SUBGRAPH. -/
  | killApply
  /-- PLACEMENT_PASS (R299): A placement pass places armed tasks in priority order, or reserves a rectangle and may pre-empt. -/
  | placementPass
  /-- T_RES_EXPIRY (R299): An armed task passes T_RES, which triggers a placement pass with a reservation. -/
  | tResExpiry
  /-- STAGING_MERGE_CLOSE (R298): The 256-cycle merge window closes and the merged multicast read is issued. -/
  | stagingMergeClose
  /-- STAGING_COMPLETE (R298): Every staged image of the task has been written and the task becomes READY. -/
  | stagingComplete
  /-- TASK_START (R292): A READY task starts: its gang is seated per TABLE, its handles fill the landing entries, and its contexts start. -/
  | taskStart
  /-- PIPELINE_START (R304): When all PIPE stages are READY, channels and allowances are configured and the stages start sinks first. -/
  | pipelineStart
  /-- BARRIER_ARRIVAL (R107): A gang tile's arrival at a barrier instance is counted at the Task Dispatcher. -/
  | barrierArrival
  /-- TASK_COMPLETION (R301): Every live tile has reported done: windows are removed, successors decremented, and the join and STATUS updated. -/
  | taskCompletion
  /-- LADDER_T1_EXPIRY (R305): The drain limit expires and the ladder enters the save rung. -/
  | ladderT1Expiry
  /-- LADDER_T2_EXPIRY (R305): The save limit expires and the ladder resets and kills unsaved tasks. -/
  | ladderT2Expiry
  /-- TASK_SAVE_COMPLETE (R307): A task's engines have quiesced and its state is written; the task becomes SUSPENDED and its tiles are released. -/
  | taskSaveComplete
  /-- HANG_PROGRESS_REPORT (R309): Every 1,024 cycles hubs report progress, and the presiding controller decides hangs. -/
  | hangProgressReport
  /-- DEBUG_HALT (R311): A die enters debug halt, stops dispatch and broadcasts HALT freezing timers. -/
  | debugHalt
  /-- DEBUG_HALT_RELEASE (R311): The halt is released and every frozen count resumes. -/
  | debugHaltRelease
  /-- OPEN_REQUEST (R329): An open is applied at the name's home: it returns a handle, returns status 1, or is queued. -/
  | openRequest
  /-- OPEN_REPRESENT_TIMER (R330): An open refused by a full queue is presented again every 1,024 cycles. -/
  | openRepresentTimer
  /-- BIND_APPLY (R329): A bind or unbind is applied at the home and serves waiting opens. -/
  | bindApply
  /-- CONFIRMATION_ARRIVAL (R339): A commit confirmation makes a provisional directory or dispatcher event final. -/
  | confirmationArrival
  /-- PROVISIONAL_WITHDRAW (R339): A block that does not commit withdraws its provisional events. -/
  | provisionalWithdraw
  /-- HUB_REPLY_ARRIVAL (R339): A hub's reply reaches the waiting command and delivers its result and LSID. -/
  | hubReplyArrival
  /-- PREPARE_REQUEST (R333): A home prepares a transaction's names and votes yes or no. -/
  | prepareRequest
  /-- PREPARE_REPLY_ARRIVAL (R333): A vote reaches the coordinator, which decides when all have voted yes or one has voted no. -/
  | prepareReplyArrival
  /-- DECISION_ARRIVAL (R329): A commit or abort decision is applied to a home's prepared entries. -/
  | decisionArrival
  /-- DECISION_ACK_ARRIVAL (R333): A home's acknowledgement of the decision reaches the coordinator. -/
  | decisionAckArrival
  /-- NTXC_ACK_TIMER (R346): 1,250,000 cycles after a COMMIT decision without every acknowledgement, NTXC returns code 5. -/
  | ntxcAckTimer
  /-- RECLAIM (R328): An object whose count is 0 and whose window list is empty is reclaimed and RECLAIMED is posted. -/
  | reclaim
  /-- SNAPSHOT_REQUEST (R336): A snapshot is made at the source's home as one event. -/
  | snapshotRequest
  /-- MACHINE_CHECK (R355): An uncorrectable atomic word is reported; the die controller ends the task and posts TASK_FAULTED. -/
  | machineCheck
  /-- MASTER_UNFREEZE (R368): Firmware unfreezes a master and its held requests proceed in order. -/
  | masterUnfreeze
  /-- MASTER_RESET (R368): Firmware resets a frozen master, discards its requests and ends its context. -/
  | masterReset
  /-- LIFE_LOG_EPOCH (R382): Every 60 s of power-on, or at an orderly reset, firmware appends an epoch and merges when the log is full. -/
  | lifeLogEpoch
  /-- THROTTLE_STEP_DOWN (R384): After 10 ms below the threshold, the throttle falls back one step. -/
  | throttleStepDown
  deriving DecidableEq, Repr

end Sys2Proof
end

