-- ==== Sys2Proof/Decode.lean ====
section
/-! DEFINITION. The decoder of the 32-bit instruction words (spec/04_encoding.md R60-R66, the
encodings of the instruction chapters) and the encoder. `decodeWord` makes check 4 of R66 (the opcode
and the XOP or sub-op are defined) and the part of check 5 that concerns bits R64 fixes; the reserved
values of the other fields are judged by `Instr.wf`. -/

namespace Sys2Proof

/-- Why a word does not decode (R66 checks 4 and 5): no instruction has its opcode or sub-op, or a bit that R64 fixes is wrong in a
word of the instruction given. -/
inductive DecErr where
  | illegalOpcode
  | reservedField (i : Instr)
  deriving DecidableEq, Repr

/-- What a word decodes to. -/
abbrev DecRes := Except DecErr Instr

/-- A number from its fields (width, value), the lowest first. -/
def pack : List (Nat × Nat) → Nat
  | [] => 0
  | (n, v) :: r => v % 2 ^ n + 2 ^ n * pack r

/-- The instruction i where the fixed fields hold, else a reserved field (R64). -/
def chk (b : Bool) (i : Instr) : DecRes := if b then .ok i else .error (.reservedField i)

/-- The words of OP 0x10 (R64). -/
def decode10 (x : Word32) : DecRes :=
  match fldN x 18 5 with
  | 0 => chk (fldN x 16 2 == 0) (.add (fld x 23 2) (fld x 14 2) (fld x 7 7) (fld x 0 7))
  | 1 => chk (fldN x 16 2 == 0) (.sub (fld x 23 2) (fld x 14 2) (fld x 7 7) (fld x 0 7))
  | 2 => chk (fldN x 16 2 == 0) (.and (fld x 23 2) (fld x 14 2) (fld x 7 7) (fld x 0 7))
  | 3 => chk (fldN x 16 2 == 0) (.or (fld x 23 2) (fld x 14 2) (fld x 7 7) (fld x 0 7))
  | 4 => chk (fldN x 16 2 == 0) (.xor (fld x 23 2) (fld x 14 2) (fld x 7 7) (fld x 0 7))
  | 5 => chk (fldN x 16 2 == 0) (.andn (fld x 23 2) (fld x 14 2) (fld x 7 7) (fld x 0 7))
  | 6 => chk (fldN x 16 2 == 0) (.shl (fld x 23 2) (fld x 14 2) (fld x 7 7) (fld x 0 7))
  | 7 => chk (fldN x 16 2 == 0) (.shr (fld x 23 2) (fld x 14 2) (fld x 7 7) (fld x 0 7))
  | 8 => chk (fldN x 16 2 == 0) (.sra (fld x 23 2) (fld x 14 2) (fld x 7 7) (fld x 0 7))
  | 9 => chk (fldN x 16 2 == 0) (.rotl (fld x 23 2) (fld x 14 2) (fld x 7 7) (fld x 0 7))
  | 10 => chk (fldN x 16 2 == 0) (.min (fld x 23 2) (fld x 14 2) (fld x 7 7) (fld x 0 7))
  | 11 => chk (fldN x 16 2 == 0) (.max (fld x 23 2) (fld x 14 2) (fld x 7 7) (fld x 0 7))
  | 12 => chk (fldN x 16 2 == 0) (.minu (fld x 23 2) (fld x 14 2) (fld x 7 7) (fld x 0 7))
  | 13 => chk (fldN x 16 2 == 0) (.maxu (fld x 23 2) (fld x 14 2) (fld x 7 7) (fld x 0 7))
  | 14 => chk (fldN x 16 2 == 0) (.mul (fld x 23 2) (fld x 14 2) (fld x 7 7) (fld x 0 7))
  | 15 => chk (fldN x 16 2 == 0) (.mulh (fld x 23 2) (fld x 14 2) (fld x 7 7) (fld x 0 7))
  | 16 => chk (fldN x 16 2 == 0) (.mulhu (fld x 23 2) (fld x 14 2) (fld x 7 7) (fld x 0 7))
  | 17 => chk (fldN x 16 2 == 0) (.div (fld x 23 2) (fld x 14 2) (fld x 7 7) (fld x 0 7))
  | 18 => chk (fldN x 16 2 == 0) (.divu (fld x 23 2) (fld x 14 2) (fld x 7 7) (fld x 0 7))
  | 19 => chk (fldN x 16 2 == 0) (.rem (fld x 23 2) (fld x 14 2) (fld x 7 7) (fld x 0 7))
  | 20 => chk (fldN x 16 2 == 0) (.remu (fld x 23 2) (fld x 14 2) (fld x 7 7) (fld x 0 7))
  | 21 => chk (fldN x 16 2 == 0) (.clz (fld x 23 2) (fld x 14 2) (fld x 7 7) (fld x 0 7))
  | 22 => chk (fldN x 16 2 == 0) (.ctz (fld x 23 2) (fld x 14 2) (fld x 7 7) (fld x 0 7))
  | 23 => chk (fldN x 16 2 == 0) (.popc (fld x 23 2) (fld x 14 2) (fld x 7 7) (fld x 0 7))
  | 24 => chk (fldN x 14 2 == 0) (.sext (fld x 23 2) (fld x 16 2) (fld x 7 7) (fld x 0 7))
  | 25 => chk (fldN x 14 2 == 0) (.zext (fld x 23 2) (fld x 16 2) (fld x 7 7) (fld x 0 7))
  | 26 => chk (fldN x 16 2 == 0) (.adds (fld x 23 2) (fld x 14 2) (fld x 7 7) (fld x 0 7))
  | 27 => chk (fldN x 16 2 == 0) (.subs (fld x 23 2) (fld x 14 2) (fld x 7 7) (fld x 0 7))
  | _ => .error .illegalOpcode

/-- The words of OP 0x11 (R64). -/
def decode11 (x : Word32) : DecRes :=
  match fldN x 18 5 with
  | 0 => .ok (.addi (fld x 23 2) (fld x 7 11) (fld x 0 7))
  | 1 => .ok (.andi (fld x 23 2) (fld x 7 11) (fld x 0 7))
  | 2 => .ok (.ori (fld x 23 2) (fld x 7 11) (fld x 0 7))
  | 3 => .ok (.xori (fld x 23 2) (fld x 7 11) (fld x 0 7))
  | 4 => .ok (.shli (fld x 23 2) (fld x 7 11) (fld x 0 7))
  | 5 => .ok (.shri (fld x 23 2) (fld x 7 11) (fld x 0 7))
  | 6 => .ok (.srai (fld x 23 2) (fld x 7 11) (fld x 0 7))
  | 7 => .ok (.mini (fld x 23 2) (fld x 7 11) (fld x 0 7))
  | 8 => .ok (.maxi (fld x 23 2) (fld x 7 11) (fld x 0 7))
  | 9 => .ok (.muli (fld x 23 2) (fld x 7 11) (fld x 0 7))
  | _ => .error .illegalOpcode

/-- The words of OP 0x12 (R64). -/
def decode12 (x : Word32) : DecRes :=
  match fldN x 18 5 with
  | 0 => chk (fldN x 14 4 == 0) (.teq (fld x 23 2) (fld x 7 7) (fld x 0 7))
  | 1 => chk (fldN x 14 4 == 0) (.tne (fld x 23 2) (fld x 7 7) (fld x 0 7))
  | 2 => chk (fldN x 14 4 == 0) (.tlt (fld x 23 2) (fld x 7 7) (fld x 0 7))
  | 3 => chk (fldN x 14 4 == 0) (.tle (fld x 23 2) (fld x 7 7) (fld x 0 7))
  | 4 => chk (fldN x 14 4 == 0) (.tltu (fld x 23 2) (fld x 7 7) (fld x 0 7))
  | 5 => chk (fldN x 14 4 == 0) (.tleu (fld x 23 2) (fld x 7 7) (fld x 0 7))
  | _ => .error .illegalOpcode

/-- The words of OP 0x13 (R64). -/
def decode13 (x : Word32) : DecRes :=
  match fldN x 18 5 with
  | 0 => .ok (.teqi (fld x 23 2) (fld x 7 11) (fld x 0 7))
  | 1 => .ok (.tnei (fld x 23 2) (fld x 7 11) (fld x 0 7))
  | 2 => .ok (.tlti (fld x 23 2) (fld x 7 11) (fld x 0 7))
  | 3 => .ok (.tlei (fld x 23 2) (fld x 7 11) (fld x 0 7))
  | 4 => .ok (.tltui (fld x 23 2) (fld x 7 11) (fld x 0 7))
  | 5 => .ok (.tleui (fld x 23 2) (fld x 7 11) (fld x 0 7))
  | 6 => .ok (.tgti (fld x 23 2) (fld x 7 11) (fld x 0 7))
  | 7 => .ok (.tgei (fld x 23 2) (fld x 7 11) (fld x 0 7))
  | _ => .error .illegalOpcode

/-- The words of OP 0x14 (R64). -/
def decode14 (x : Word32) : DecRes :=
  match fldN x 18 5 with
  | 0 => chk (fldN x 14 4 == 0) (.pand (fld x 23 2) (fld x 7 7) (fld x 0 7))
  | 1 => chk (fldN x 14 4 == 0) (.por (fld x 23 2) (fld x 7 7) (fld x 0 7))
  | 2 => chk (fldN x 14 4 == 0) (.pnot (fld x 23 2) (fld x 7 7) (fld x 0 7))
  | _ => .error .illegalOpcode

/-- The words of OP 0x17 (R64). -/
def decode17 (x : Word32) : DecRes :=
  match fldN x 18 5 with
  | 0 => chk (fldN x 0 7 == 127 && fldN x 7 6 == 63 && fldN x 13 1 == 1 && fldN x 14 4 == 0) (.nop (fld x 23 2))
  | _ => .error .illegalOpcode

/-- The words of OP 0x28 (R64). -/
def decode28 (x : Word32) : DecRes :=
  match fldN x 17 1 with
  | 0 => .ok (.tldx (fld x 23 2) (fld x 18 5) (fld x 14 3) (fld x 7 7) (fld x 0 7))
  | 1 => .ok (.tldxOffset (fld x 23 2) (fld x 18 5) (fld x 14 3) (fld x 11 3) (fld x 7 4) (fld x 0 7))
  | _ => .error .illegalOpcode

/-- The words of OP 0x29 (R64). -/
def decode29 (x : Word32) : DecRes :=
  match fldN x 17 1 with
  | 0 => .ok (.tstx (fld x 23 2) (fld x 18 5) (fld x 14 3) (fld x 0 14))
  | 1 => chk (fldN x 7 6 == 0 && fldN x 13 1 == 0 && fldN x 23 2 == 0) (.tstxOffset (fld x 18 5) (fld x 14 3) (fld x 4 3) (fld x 0 4))
  | _ => .error .illegalOpcode

/-- The words of OP 0x2E (R64). -/
def decode2E (x : Word32) : DecRes :=
  match fldN x 17 1 with
  | 0 => chk (fldN x 7 4 == 0 && fldN x 14 3 == 0 && fldN x 23 2 == 0) (.casLocal (fld x 18 5) (fld x 12 2) (fld x 11 1) (fld x 0 7))
  | 1 => chk (fldN x 7 4 == 0 && fldN x 23 2 == 0) (.casTensor (fld x 18 5) (fld x 14 3) (fld x 12 2) (fld x 11 1) (fld x 0 7))
  | _ => .error .illegalOpcode

/-- The words of OP 0x30 (R64). -/
def decode30 (x : Word32) : DecRes :=
  match fldN x 18 5 with
  | 0 => chk (fldN x 14 4 == 0) (.vadd (fld x 23 2) (fld x 7 7) (fld x 0 7))
  | 1 => chk (fldN x 14 4 == 0) (.vsub (fld x 23 2) (fld x 7 7) (fld x 0 7))
  | 2 => chk (fldN x 14 4 == 0) (.vmul (fld x 23 2) (fld x 7 7) (fld x 0 7))
  | 3 => chk (fldN x 14 4 == 0) (.vmin (fld x 23 2) (fld x 7 7) (fld x 0 7))
  | 4 => chk (fldN x 14 4 == 0) (.vmax (fld x 23 2) (fld x 7 7) (fld x 0 7))
  | 5 => chk (fldN x 14 4 == 0) (.vabs (fld x 23 2) (fld x 7 7) (fld x 0 7))
  | 6 => chk (fldN x 14 4 == 0) (.vneg (fld x 23 2) (fld x 7 7) (fld x 0 7))
  | 7 => chk (fldN x 14 4 == 0) (.vand (fld x 23 2) (fld x 7 7) (fld x 0 7))
  | 8 => chk (fldN x 14 4 == 0) (.vor (fld x 23 2) (fld x 7 7) (fld x 0 7))
  | 9 => chk (fldN x 14 4 == 0) (.vxor (fld x 23 2) (fld x 7 7) (fld x 0 7))
  | 10 => chk (fldN x 14 4 == 0) (.vshl (fld x 23 2) (fld x 7 7) (fld x 0 7))
  | 11 => chk (fldN x 14 4 == 0) (.vshr (fld x 23 2) (fld x 7 7) (fld x 0 7))
  | 12 => chk (fldN x 14 4 == 0) (.vsra (fld x 23 2) (fld x 7 7) (fld x 0 7))
  | 13 => chk (fldN x 14 4 == 0) (.vadds (fld x 23 2) (fld x 7 7) (fld x 0 7))
  | 14 => chk (fldN x 14 4 == 0) (.vsubs (fld x 23 2) (fld x 7 7) (fld x 0 7))
  | _ => .error .illegalOpcode

/-- The words of OP 0x31 (R64). -/
def decode31 (x : Word32) : DecRes :=
  match fldN x 18 5 with
  | 0 => chk (fldN x 14 4 == 0 && fldN x 23 2 == 0) (.vfma (fld x 7 7) (fld x 0 7))
  | 1 => chk (fldN x 14 4 == 0 && fldN x 23 2 == 0) (.vfms (fld x 7 7) (fld x 0 7))
  | 2 => chk (fldN x 14 4 == 0 && fldN x 23 2 == 0) (.vfnma (fld x 7 7) (fld x 0 7))
  | _ => .error .illegalOpcode

/-- The words of OP 0x32 (R64). -/
def decode32 (x : Word32) : DecRes :=
  match fldN x 18 5 with
  | 0 => chk (fldN x 14 4 == 0) (.vceq (fld x 23 2) (fld x 7 7) (fld x 0 7))
  | 1 => chk (fldN x 14 4 == 0) (.vcne (fld x 23 2) (fld x 7 7) (fld x 0 7))
  | 2 => chk (fldN x 14 4 == 0) (.vclt (fld x 23 2) (fld x 7 7) (fld x 0 7))
  | 3 => chk (fldN x 14 4 == 0) (.vcle (fld x 23 2) (fld x 7 7) (fld x 0 7))
  | 4 => chk (fldN x 14 4 == 0) (.vcgt (fld x 23 2) (fld x 7 7) (fld x 0 7))
  | 5 => chk (fldN x 14 4 == 0) (.vcge (fld x 23 2) (fld x 7 7) (fld x 0 7))
  | _ => .error .illegalOpcode

/-- The words of OP 0x33 (R64). -/
def decode33 (x : Word32) : DecRes :=
  match fldN x 18 5 with
  | 0 => chk (fldN x 14 4 == 0 && fldN x 23 2 == 0) (.vsel (fld x 7 7) (fld x 0 7))
  | _ => .error .illegalOpcode

/-- The words of OP 0x34 (R64). -/
def decode34 (x : Word32) : DecRes :=
  match fldN x 18 5 with
  | 0 => chk (fldN x 14 4 == 0) (.vrcp (fld x 23 2) (fld x 7 7) (fld x 0 7))
  | 1 => chk (fldN x 14 4 == 0) (.vrsq (fld x 23 2) (fld x 7 7) (fld x 0 7))
  | 2 => chk (fldN x 14 4 == 0) (.vsqrt (fld x 23 2) (fld x 7 7) (fld x 0 7))
  | 3 => chk (fldN x 14 4 == 0) (.vexp2 (fld x 23 2) (fld x 7 7) (fld x 0 7))
  | 4 => chk (fldN x 14 4 == 0) (.vlog2 (fld x 23 2) (fld x 7 7) (fld x 0 7))
  | 5 => chk (fldN x 14 4 == 0) (.vtanh (fld x 23 2) (fld x 7 7) (fld x 0 7))
  | _ => .error .illegalOpcode

/-- The words of OP 0x35 (R64). -/
def decode35 (x : Word32) : DecRes :=
  match fldN x 18 5 with
  | 0 => chk (fldN x 14 4 == 0) (.vrsum (fld x 23 2) (fld x 7 7) (fld x 0 7))
  | 1 => chk (fldN x 14 4 == 0) (.vrmax (fld x 23 2) (fld x 7 7) (fld x 0 7))
  | 2 => chk (fldN x 14 4 == 0) (.vrmin (fld x 23 2) (fld x 7 7) (fld x 0 7))
  | _ => .error .illegalOpcode

/-- The words of OP 0x36 (R64). -/
def decode36 (x : Word32) : DecRes :=
  match fldN x 18 5 with
  | 0 => .ok (.vbcast (fld x 23 2) (fld x 14 4) (fld x 7 7) (fld x 0 7))
  | 1 => chk (fldN x 14 4 == 0) (.vext (fld x 23 2) (fld x 7 7) (fld x 0 7))
  | 2 => chk (fldN x 14 4 == 0 && fldN x 23 2 == 0) (.vins (fld x 7 7) (fld x 0 7))
  | 3 => chk (fldN x 14 4 == 0) (.vperm (fld x 23 2) (fld x 7 7) (fld x 0 7))
  | 4 => chk (fldN x 14 4 == 0) (.vrot (fld x 23 2) (fld x 7 7) (fld x 0 7))
  | 5 => .ok (.viota (fld x 23 2) (fld x 14 4) (fld x 7 7) (fld x 0 7))
  | 6 => chk (fldN x 14 4 == 0) (.vpsum (fld x 23 2) (fld x 7 7) (fld x 0 7))
  | _ => .error .illegalOpcode

/-- The words of OP 0x37 (R64). -/
def decode37 (x : Word32) : DecRes :=
  match fldN x 18 5 with
  | 0 => .ok (.vcvt (fld x 23 2) (fld x 14 4) (fld x 7 7) (fld x 0 7))
  | 1 => chk (fldN x 17 1 == 0 && fldN x 23 2 == 0) (.vqnt (fld x 14 3) (fld x 7 7) (fld x 0 7))
  | 2 => chk (fldN x 23 2 == 0) (.vdqnt (fld x 17 1) (fld x 14 3) (fld x 7 7) (fld x 0 7))
  | 3 => .ok (.vpack (fld x 23 2) (fld x 14 4) (fld x 7 7) (fld x 0 7))
  | 4 => .ok (.vunpk (fld x 23 2) (fld x 17 1) (fld x 16 1) (fld x 14 2) (fld x 7 7) (fld x 0 7))
  | 5 => .ok (.vretag (fld x 23 2) (fld x 14 4) (fld x 7 7) (fld x 0 7))
  | _ => .error .illegalOpcode

/-- The words of OP 0x38 (R64). -/
def decode38 (x : Word32) : DecRes :=
  match fldN x 18 5 with
  | 0 => chk (fldN x 14 4 == 0) (.mand (fld x 23 2) (fld x 7 7) (fld x 0 7))
  | 1 => chk (fldN x 14 4 == 0) (.mor (fld x 23 2) (fld x 7 7) (fld x 0 7))
  | 2 => chk (fldN x 14 4 == 0) (.mxor (fld x 23 2) (fld x 7 7) (fld x 0 7))
  | 3 => chk (fldN x 14 4 == 0) (.mnot (fld x 23 2) (fld x 7 7) (fld x 0 7))
  | 4 => chk (fldN x 14 4 == 0) (.mpop (fld x 23 2) (fld x 7 7) (fld x 0 7))
  | 5 => chk (fldN x 14 4 == 0) (.mfirst (fld x 23 2) (fld x 7 7) (fld x 0 7))
  | _ => .error .illegalOpcode

/-- The words of OP 0x40 (R64). -/
def decode40 (x : Word32) : DecRes :=
  match fldN x 13 5 with
  | 0 => chk (fldN x 10 3 == 0) (.gset (fld x 23 2) (fld x 18 5) (fld x 7 3) (fld x 0 7))
  | 1 => chk (fldN x 0 7 == 127 && fldN x 10 3 == 0) (.sbind (fld x 23 2) (fld x 18 5) (fld x 7 3))
  | 2 => chk (fldN x 0 7 == 127 && fldN x 11 2 == 0) (.csetg (fld x 23 2) (fld x 18 5) (fld x 7 4))
  | 3 => chk (fldN x 12 1 == 0) (.cpy (fld x 23 2) (fld x 18 5) (fld x 11 1) (fld x 7 4) (fld x 0 7))
  | 4 => chk (fldN x 11 2 == 0) (.cpyw (fld x 23 2) (fld x 18 5) (fld x 7 4) (fld x 0 7))
  | 5 => chk (fldN x 11 2 == 0) (.cpym (fld x 23 2) (fld x 18 5) (fld x 7 4) (fld x 0 7))
  | 6 => chk (fldN x 11 2 == 0) (.deal (fld x 23 2) (fld x 18 5) (fld x 7 4) (fld x 0 7))
  | 8 => chk (fldN x 9 4 == 0) (.twait (fld x 23 2) (fld x 18 5) (fld x 7 2) (fld x 0 7))
  | 9 => chk (fldN x 10 3 == 0) (.tread (fld x 23 2) (fld x 18 5) (fld x 9 1) (fld x 7 2) (fld x 0 7))
  | 7 =>
    match fldN x 12 1 with
    | 0 => .ok (.cpyt (fld x 23 2) (fld x 18 5) (fld x 7 5) (fld x 0 7))
    | _ => chk (fldN x 11 1 == 0) (.cpytLand (fld x 23 2) (fld x 18 5) (fld x 7 4) (fld x 0 7))
  | _ => .error .illegalOpcode

/-- The words of OP 0x41 (R64). -/
def decode41 (x : Word32) : DecRes :=
  match fldN x 13 5 with
  | 0 => chk (fldN x 11 2 == 0) (.msetg (fld x 23 2) (fld x 18 5) (fld x 7 4) (fld x 0 7))
  | 1 => .ok (.mma (fld x 23 2) (fld x 18 5) (fld x 9 4) (fld x 7 2) (fld x 0 7))
  | 2 => .ok (.mmaz (fld x 23 2) (fld x 18 5) (fld x 9 4) (fld x 7 2) (fld x 0 7))
  | 3 => .ok (.mmaq (fld x 23 2) (fld x 18 5) (fld x 9 4) (fld x 7 2) (fld x 0 7))
  | 4 => chk (fldN x 8 5 == 0) (.mldb (fld x 23 2) (fld x 18 5) (fld x 7 1) (fld x 0 7))
  | 5 => chk (fldN x 8 5 == 0) (.mplay (fld x 23 2) (fld x 18 5) (fld x 7 1) (fld x 0 7))
  | 6 => .ok (.mst (fld x 23 2) (fld x 18 5) (fld x 9 4) (fld x 7 2) (fld x 0 7))
  | 7 => chk (fldN x 9 4 == 0) (.mlda (fld x 23 2) (fld x 18 5) (fld x 7 2) (fld x 0 7))
  | 8 => chk (fldN x 9 4 == 0) (.mzero (fld x 23 2) (fld x 18 5) (fld x 7 2) (fld x 0 7))
  | 9 => chk (fldN x 8 5 == 0) (.mrls (fld x 23 2) (fld x 18 5) (fld x 7 1) (fld x 0 7))
  | 10 => chk (fldN x 7 6 == 0) (.mseat (fld x 23 2) (fld x 18 5) (fld x 0 7))
  | _ => .error .illegalOpcode

/-- The words of OP 0x42 (R64). -/
def decode42 (x : Word32) : DecRes :=
  match fldN x 13 5 with
  | 0 => .ok (.send (fld x 23 2) (fld x 18 5) (fld x 12 1) (fld x 7 5) (fld x 0 7))
  | 1 => .ok (.sendq (fld x 23 2) (fld x 18 5) (fld x 12 1) (fld x 7 5) (fld x 0 7))
  | 2 => .ok (.req (fld x 23 2) (fld x 18 5) (fld x 12 1) (fld x 7 5) (fld x 0 7))
  | 3 => .ok (.reply (fld x 23 2) (fld x 18 5) (fld x 12 1) (fld x 7 5) (fld x 0 7))
  | 4 => .ok (.xput (fld x 23 2) (fld x 18 5) (fld x 12 1) (fld x 7 5) (fld x 0 7))
  | 5 => chk (fldN x 11 1 == 0) (.xamo (fld x 23 2) (fld x 18 5) (fld x 12 1) (fld x 7 4) (fld x 0 7))
  | 6 => chk (fldN x 9 4 == 0) (.mbxset (fld x 23 2) (fld x 18 5) (fld x 7 2) (fld x 0 7))
  | 7 => chk (fldN x 8 5 == 0) (.frget (fld x 23 2) (fld x 18 5) (fld x 7 1) (fld x 0 7))
  | 8 => chk (fldN x 7 6 == 0) (.frput (fld x 23 2) (fld x 18 5) (fld x 0 7))
  | 9 => chk (fldN x 7 6 == 0) (.xroute (fld x 23 2) (fld x 18 5) (fld x 0 7))
  | 10 => chk (fldN x 7 6 == 0) (.xflush (fld x 23 2) (fld x 18 5) (fld x 0 7))
  | _ => .error .illegalOpcode

/-- The words of OP 0x43 (R64). -/
def decode43 (x : Word32) : DecRes :=
  match fldN x 13 5 with
  | 0 => chk (fldN x 0 7 == 127 && fldN x 7 6 == 0) (.tdec (fld x 23 2) (fld x 18 5))
  | 1 => chk (fldN x 7 6 == 0) (.tspawn (fld x 23 2) (fld x 18 5) (fld x 0 7))
  | 2 => chk (fldN x 7 6 == 0) (.tjoin (fld x 23 2) (fld x 18 5) (fld x 0 7))
  | 3 => chk (fldN x 9 4 == 0) (.tstat (fld x 23 2) (fld x 18 5) (fld x 7 2) (fld x 0 7))
  | 4 => chk (fldN x 0 7 == 127 && fldN x 8 5 == 0) (.tkill (fld x 23 2) (fld x 18 5) (fld x 7 1))
  | 5 => chk (fldN x 7 6 == 0) (.ginst (fld x 23 2) (fld x 18 5) (fld x 0 7))
  | _ => .error .illegalOpcode

/-- The words of OP 0x44 (R64). -/
def decode44 (x : Word32) : DecRes :=
  match fldN x 13 5 with
  | 0 => .ok (.nopen (fld x 23 2) (fld x 18 5) (fld x 12 1) (fld x 7 5) (fld x 0 7))
  | 1 => chk (fldN x 0 7 == 127 && fldN x 7 6 == 0) (.nclose (fld x 23 2) (fld x 18 5))
  | 2 => chk (fldN x 0 7 == 127 && fldN x 7 6 == 0) (.nbind (fld x 23 2) (fld x 18 5))
  | 3 => chk (fldN x 7 6 == 0) (.ntxb (fld x 23 2) (fld x 18 5) (fld x 0 7))
  | 4 => chk (fldN x 0 7 == 127 && fldN x 7 6 == 0 && fldN x 23 2 == 0) (.ntxa (fld x 18 5))
  | 5 => chk (fldN x 7 6 == 0) (.ntxc (fld x 23 2) (fld x 18 5) (fld x 0 7))
  | 6 => chk (fldN x 0 7 == 127 && fldN x 7 6 == 0) (.ntxx (fld x 23 2) (fld x 18 5))
  | 7 => chk (fldN x 7 6 == 0) (.nsnap (fld x 23 2) (fld x 18 5) (fld x 0 7))
  | 8 => chk (fldN x 7 6 == 0) (.nmake (fld x 23 2) (fld x 18 5) (fld x 0 7))
  | 9 => chk (fldN x 9 4 == 0) (.nqry (fld x 23 2) (fld x 18 5) (fld x 7 2) (fld x 0 7))
  | _ => .error .illegalOpcode

/-- The words of OP 0x45 (R64). -/
def decode45 (x : Word32) : DecRes :=
  match fldN x 13 5 with
  | 0 => chk (fldN x 7 6 == 0) (.svc (fld x 23 2) (fld x 18 5) (fld x 0 7))
  | 1 => chk (fldN x 0 7 == 127) (.bkpt (fld x 23 2) (fld x 18 5) (fld x 7 6))
  | 2 => chk (fldN x 0 7 == 127 && fldN x 7 6 == 0) (.ctxsv (fld x 23 2) (fld x 18 5))
  | 3 => chk (fldN x 0 7 == 127 && fldN x 7 6 == 0) (.ctxrs (fld x 23 2) (fld x 18 5))
  | 4 => chk (fldN x 0 7 == 127 && fldN x 9 4 == 0) (.tlbi (fld x 23 2) (fld x 18 5) (fld x 7 2))
  | _ => .error .illegalOpcode

/-- The instruction of a word (R63-R66). OP 0x00 (`ILL`) and every undefined opcode are illegal. -/
def decodeWord (x : Word32) : DecRes :=
  match fldN x 25 7 with
  | 0x01 => .ok (.bro (fld x 23 2) (fld x 20 3) (fld x 0 20))
  | 0x02 => .ok (.brb (fld x 23 2) (fld x 20 3) (fld x 0 20))
  | 0x03 => .ok (.callo (fld x 23 2) (fld x 20 3) (fld x 0 20))
  | 0x04 => chk (fldN x 0 7 == 0 && fldN x 7 6 == 0 && fldN x 13 1 == 0 && fldN x 14 4 == 0 && fldN x 18 2 == 0) (.ret (fld x 23 2) (fld x 20 3))
  | 0x05 => chk (fldN x 0 7 == 127 && fldN x 18 5 == 0) (.trap (fld x 23 2) (fld x 7 11))
  | 0x06 => chk (fldN x 0 7 == 127 && fldN x 7 6 == 63 && fldN x 13 1 == 1 && fldN x 14 4 == 0 && fldN x 21 2 == 0) (.bri (fld x 23 2) (fld x 18 3))
  | 0x07 => chk (fldN x 0 7 == 127 && fldN x 7 6 == 63 && fldN x 13 1 == 1 && fldN x 14 4 == 0 && fldN x 21 2 == 0) (.calli (fld x 23 2) (fld x 18 3))
  | 0x08 => chk (fldN x 0 7 == 127 && fldN x 7 6 == 63 && fldN x 13 1 == 1 && fldN x 14 4 == 0) (.texit (fld x 23 2) (fld x 18 5))
  | 0x09 => chk (fldN x 0 7 == 127 && fldN x 7 6 == 63 && fldN x 13 1 == 1 && fldN x 14 4 == 0 && fldN x 18 5 == 0) (.hret (fld x 23 2))
  | 0x0A => chk (fldN x 0 7 == 0 && fldN x 7 6 == 0 && fldN x 13 1 == 0 && fldN x 14 4 == 0 && fldN x 18 2 == 0) (.eret (fld x 23 2) (fld x 20 3))
  | 0x0B => chk (fldN x 14 4 == 0 && fldN x 18 5 == 0) (.null (fld x 23 2) (fld x 7 7) (fld x 0 7))
  | 0x0C => chk (fldN x 14 4 == 0 && fldN x 18 5 == 0) (.mov (fld x 23 2) (fld x 7 7) (fld x 0 7))
  | 0x0D => chk (fldN x 21 2 == 0) (.mov3 (fld x 23 2) (fld x 14 7) (fld x 7 7) (fld x 0 7))
  | 0x0E => .ok (.movi (fld x 23 2) (fld x 7 16) (fld x 0 7))
  | 0x0F => .ok (.genu (fld x 23 2) (fld x 7 16) (fld x 0 7))
  | 0x10 => decode10 x
  | 0x11 => decode11 x
  | 0x12 => decode12 x
  | 0x13 => decode13 x
  | 0x14 => decode14 x
  | 0x15 => .ok (.mfs (fld x 23 2) (fld x 14 9) (fld x 7 7) (fld x 0 7))
  | 0x16 => chk (fldN x 9 4 == 0 && fldN x 13 1 == 0 && fldN x 14 4 == 0) (.mts (fld x 23 2) (fld x 18 5) (fld x 0 9))
  | 0x17 => decode17 x
  | 0x20 => chk (fldN x 17 1 == 0) (.ldl (fld x 23 2) (fld x 18 5) (fld x 16 1) (fld x 14 2) (fld x 7 7) (fld x 0 7))
  | 0x21 => chk (fldN x 16 2 == 0) (.stl (fld x 23 2) (fld x 18 5) (fld x 14 2) (fld x 0 14))
  | 0x22 => .ok (.vldl (fld x 23 2) (fld x 18 5) (fld x 14 4) (fld x 7 7) (fld x 0 7))
  | 0x23 => chk (fldN x 14 4 == 0) (.vstl (fld x 23 2) (fld x 18 5) (fld x 0 14))
  | 0x24 => .ok (.vgtl (fld x 23 2) (fld x 18 5) (fld x 14 4) (fld x 7 7) (fld x 0 7))
  | 0x25 => chk (fldN x 14 4 == 0 && fldN x 23 2 == 0) (.vscl (fld x 18 5) (fld x 0 14))
  | 0x26 => chk (fldN x 13 1 == 0 && fldN x 14 4 == 0) (.land (fld x 23 2) (fld x 18 5) (fld x 7 6) (fld x 0 7))
  | 0x27 => chk (fldN x 7 6 == 0 && fldN x 13 1 == 0 && fldN x 14 4 == 0) (.fence (fld x 23 2) (fld x 18 5) (fld x 4 3) (fld x 2 2) (fld x 0 2))
  | 0x28 => decode28 x
  | 0x29 => decode29 x
  | 0x2A => chk (fldN x 17 1 == 0) (.tlds (fld x 23 2) (fld x 18 5) (fld x 14 3) (fld x 7 7) (fld x 0 7))
  | 0x2B => chk (fldN x 17 1 == 0) (.tsts (fld x 23 2) (fld x 18 5) (fld x 14 3) (fld x 0 14))
  | 0x2C => chk (fldN x 7 4 == 0) (.amol (fld x 23 2) (fld x 18 5) (fld x 14 4) (fld x 12 2) (fld x 11 1) (fld x 0 7))
  | 0x2D => chk (fldN x 10 1 == 0) (.amot (fld x 23 2) (fld x 18 5) (fld x 14 4) (fld x 12 2) (fld x 11 1) (fld x 7 3) (fld x 0 7))
  | 0x2E => decode2E x
  | 0x2F => chk (fldN x 0 7 == 127 && fldN x 7 5 == 0 && fldN x 17 1 == 0) (.vamot (fld x 23 2) (fld x 18 5) (fld x 14 3) (fld x 12 2))
  | 0x30 => decode30 x
  | 0x31 => decode31 x
  | 0x32 => decode32 x
  | 0x33 => decode33 x
  | 0x34 => decode34 x
  | 0x35 => decode35 x
  | 0x36 => decode36 x
  | 0x37 => decode37 x
  | 0x38 => decode38 x
  | 0x40 => decode40 x
  | 0x41 => decode41 x
  | 0x42 => decode42 x
  | 0x43 => decode43 x
  | 0x44 => decode44 x
  | 0x45 => decode45 x
  | _ => .error .illegalOpcode

/-- The word whose four bytes stand at rising addresses (R2, R54). -/
def word4 (b0 b1 b2 b3 : Byte) : Word32 :=
  BitVec.ofNat 32 (b0.toNat + 256 * b1.toNat + 65536 * b2.toNat + 16777216 * b3.toNat)

/-- The instruction read from the front of a list of bytes, and the bytes that follow it. -/
def decodeBytes : List Byte → Except DecErr (Instr × List Byte)
  | b0 :: b1 :: b2 :: b3 :: rest =>
    match decodeWord (word4 b0 b1 b2 b3) with
    | .ok i => .ok (i, rest)
    | .error e => .error e
  | _ => .error .illegalOpcode

/-- The bytes of a word, lowest address first (R2). -/
def wordBytes (x : Word32) : List Byte := [fld x 0 8, fld x 8 8, fld x 16 8, fld x 24 8]

/-- The instruction of a row of the opcode table, from its bits as the table numbers them. -/
def decodeTableWord (nbits w : Nat) : Option Instr :=
  match decodeBytes (wordBytes (BitVec.ofNat 32 (w % 2 ^ nbits))) with
  | .ok (i, _) => some i
  | .error _ => none

/-- The word of an instruction, none for an event, which has no word. -/
def encode : Instr → Option Word32
  | .bro p e o =>
    some (BitVec.ofNat 32 (pack [(20, o.toNat), (3, e.toNat), (2, p.toNat), (7, 1)]))
  | .brb p e o =>
    some (BitVec.ofNat 32 (pack [(20, o.toNat), (3, e.toNat), (2, p.toNat), (7, 2)]))
  | .callo p e o =>
    some (BitVec.ofNat 32 (pack [(20, o.toNat), (3, e.toNat), (2, p.toNat), (7, 3)]))
  | .ret p e =>
    some (BitVec.ofNat 32 (pack [(7, 0), (6, 0), (1, 0), (4, 0), (2, 0), (3, e.toNat), (2, p.toNat), (7, 4)]))
  | .trap p i =>
    some (BitVec.ofNat 32 (pack [(7, 127), (11, i.toNat), (5, 0), (2, p.toNat), (7, 5)]))
  | .bri p e =>
    some (BitVec.ofNat 32 (pack [(7, 127), (6, 63), (1, 1), (4, 0), (3, e.toNat), (2, 0), (2, p.toNat), (7, 6)]))
  | .calli p e =>
    some (BitVec.ofNat 32 (pack [(7, 127), (6, 63), (1, 1), (4, 0), (3, e.toNat), (2, 0), (2, p.toNat), (7, 7)]))
  | .texit p c =>
    some (BitVec.ofNat 32 (pack [(7, 127), (6, 63), (1, 1), (4, 0), (5, c.toNat), (2, p.toNat), (7, 8)]))
  | .hret p =>
    some (BitVec.ofNat 32 (pack [(7, 127), (6, 63), (1, 1), (4, 0), (5, 0), (2, p.toNat), (7, 9)]))
  | .eret p e =>
    some (BitVec.ofNat 32 (pack [(7, 0), (6, 0), (1, 0), (4, 0), (2, 0), (3, e.toNat), (2, p.toNat), (7, 10)]))
  | .null p t u =>
    some (BitVec.ofNat 32 (pack [(7, u.toNat), (7, t.toNat), (4, 0), (5, 0), (2, p.toNat), (7, 11)]))
  | .mov p t u =>
    some (BitVec.ofNat 32 (pack [(7, u.toNat), (7, t.toNat), (4, 0), (5, 0), (2, p.toNat), (7, 12)]))
  | .mov3 p t u v =>
    some (BitVec.ofNat 32 (pack [(7, v.toNat), (7, u.toNat), (7, t.toNat), (2, 0), (2, p.toNat), (7, 13)]))
  | .movi p i t =>
    some (BitVec.ofNat 32 (pack [(7, t.toNat), (16, i.toNat), (2, p.toNat), (7, 14)]))
  | .genu p i t =>
    some (BitVec.ofNat 32 (pack [(7, t.toNat), (16, i.toNat), (2, p.toNat), (7, 15)]))
  | .add p w t u =>
    some (BitVec.ofNat 32 (pack [(7, u.toNat), (7, t.toNat), (2, w.toNat), (2, 0), (5, 0), (2, p.toNat), (7, 16)]))
  | .sub p w t u =>
    some (BitVec.ofNat 32 (pack [(7, u.toNat), (7, t.toNat), (2, w.toNat), (2, 0), (5, 1), (2, p.toNat), (7, 16)]))
  | .and p w t u =>
    some (BitVec.ofNat 32 (pack [(7, u.toNat), (7, t.toNat), (2, w.toNat), (2, 0), (5, 2), (2, p.toNat), (7, 16)]))
  | .or p w t u =>
    some (BitVec.ofNat 32 (pack [(7, u.toNat), (7, t.toNat), (2, w.toNat), (2, 0), (5, 3), (2, p.toNat), (7, 16)]))
  | .xor p w t u =>
    some (BitVec.ofNat 32 (pack [(7, u.toNat), (7, t.toNat), (2, w.toNat), (2, 0), (5, 4), (2, p.toNat), (7, 16)]))
  | .andn p w t u =>
    some (BitVec.ofNat 32 (pack [(7, u.toNat), (7, t.toNat), (2, w.toNat), (2, 0), (5, 5), (2, p.toNat), (7, 16)]))
  | .shl p w t u =>
    some (BitVec.ofNat 32 (pack [(7, u.toNat), (7, t.toNat), (2, w.toNat), (2, 0), (5, 6), (2, p.toNat), (7, 16)]))
  | .shr p w t u =>
    some (BitVec.ofNat 32 (pack [(7, u.toNat), (7, t.toNat), (2, w.toNat), (2, 0), (5, 7), (2, p.toNat), (7, 16)]))
  | .sra p w t u =>
    some (BitVec.ofNat 32 (pack [(7, u.toNat), (7, t.toNat), (2, w.toNat), (2, 0), (5, 8), (2, p.toNat), (7, 16)]))
  | .rotl p w t u =>
    some (BitVec.ofNat 32 (pack [(7, u.toNat), (7, t.toNat), (2, w.toNat), (2, 0), (5, 9), (2, p.toNat), (7, 16)]))
  | .min p w t u =>
    some (BitVec.ofNat 32 (pack [(7, u.toNat), (7, t.toNat), (2, w.toNat), (2, 0), (5, 10), (2, p.toNat), (7, 16)]))
  | .max p w t u =>
    some (BitVec.ofNat 32 (pack [(7, u.toNat), (7, t.toNat), (2, w.toNat), (2, 0), (5, 11), (2, p.toNat), (7, 16)]))
  | .minu p w t u =>
    some (BitVec.ofNat 32 (pack [(7, u.toNat), (7, t.toNat), (2, w.toNat), (2, 0), (5, 12), (2, p.toNat), (7, 16)]))
  | .maxu p w t u =>
    some (BitVec.ofNat 32 (pack [(7, u.toNat), (7, t.toNat), (2, w.toNat), (2, 0), (5, 13), (2, p.toNat), (7, 16)]))
  | .mul p w t u =>
    some (BitVec.ofNat 32 (pack [(7, u.toNat), (7, t.toNat), (2, w.toNat), (2, 0), (5, 14), (2, p.toNat), (7, 16)]))
  | .mulh p w t u =>
    some (BitVec.ofNat 32 (pack [(7, u.toNat), (7, t.toNat), (2, w.toNat), (2, 0), (5, 15), (2, p.toNat), (7, 16)]))
  | .mulhu p w t u =>
    some (BitVec.ofNat 32 (pack [(7, u.toNat), (7, t.toNat), (2, w.toNat), (2, 0), (5, 16), (2, p.toNat), (7, 16)]))
  | .div p w t u =>
    some (BitVec.ofNat 32 (pack [(7, u.toNat), (7, t.toNat), (2, w.toNat), (2, 0), (5, 17), (2, p.toNat), (7, 16)]))
  | .divu p w t u =>
    some (BitVec.ofNat 32 (pack [(7, u.toNat), (7, t.toNat), (2, w.toNat), (2, 0), (5, 18), (2, p.toNat), (7, 16)]))
  | .rem p w t u =>
    some (BitVec.ofNat 32 (pack [(7, u.toNat), (7, t.toNat), (2, w.toNat), (2, 0), (5, 19), (2, p.toNat), (7, 16)]))
  | .remu p w t u =>
    some (BitVec.ofNat 32 (pack [(7, u.toNat), (7, t.toNat), (2, w.toNat), (2, 0), (5, 20), (2, p.toNat), (7, 16)]))
  | .clz p w t u =>
    some (BitVec.ofNat 32 (pack [(7, u.toNat), (7, t.toNat), (2, w.toNat), (2, 0), (5, 21), (2, p.toNat), (7, 16)]))
  | .ctz p w t u =>
    some (BitVec.ofNat 32 (pack [(7, u.toNat), (7, t.toNat), (2, w.toNat), (2, 0), (5, 22), (2, p.toNat), (7, 16)]))
  | .popc p w t u =>
    some (BitVec.ofNat 32 (pack [(7, u.toNat), (7, t.toNat), (2, w.toNat), (2, 0), (5, 23), (2, p.toNat), (7, 16)]))
  | .sext p k t u =>
    some (BitVec.ofNat 32 (pack [(7, u.toNat), (7, t.toNat), (2, 0), (2, k.toNat), (5, 24), (2, p.toNat), (7, 16)]))
  | .zext p k t u =>
    some (BitVec.ofNat 32 (pack [(7, u.toNat), (7, t.toNat), (2, 0), (2, k.toNat), (5, 25), (2, p.toNat), (7, 16)]))
  | .adds p w t u =>
    some (BitVec.ofNat 32 (pack [(7, u.toNat), (7, t.toNat), (2, w.toNat), (2, 0), (5, 26), (2, p.toNat), (7, 16)]))
  | .subs p w t u =>
    some (BitVec.ofNat 32 (pack [(7, u.toNat), (7, t.toNat), (2, w.toNat), (2, 0), (5, 27), (2, p.toNat), (7, 16)]))
  | .addi p i t =>
    some (BitVec.ofNat 32 (pack [(7, t.toNat), (11, i.toNat), (5, 0), (2, p.toNat), (7, 17)]))
  | .andi p i t =>
    some (BitVec.ofNat 32 (pack [(7, t.toNat), (11, i.toNat), (5, 1), (2, p.toNat), (7, 17)]))
  | .ori p i t =>
    some (BitVec.ofNat 32 (pack [(7, t.toNat), (11, i.toNat), (5, 2), (2, p.toNat), (7, 17)]))
  | .xori p i t =>
    some (BitVec.ofNat 32 (pack [(7, t.toNat), (11, i.toNat), (5, 3), (2, p.toNat), (7, 17)]))
  | .shli p i t =>
    some (BitVec.ofNat 32 (pack [(7, t.toNat), (11, i.toNat), (5, 4), (2, p.toNat), (7, 17)]))
  | .shri p i t =>
    some (BitVec.ofNat 32 (pack [(7, t.toNat), (11, i.toNat), (5, 5), (2, p.toNat), (7, 17)]))
  | .srai p i t =>
    some (BitVec.ofNat 32 (pack [(7, t.toNat), (11, i.toNat), (5, 6), (2, p.toNat), (7, 17)]))
  | .mini p i t =>
    some (BitVec.ofNat 32 (pack [(7, t.toNat), (11, i.toNat), (5, 7), (2, p.toNat), (7, 17)]))
  | .maxi p i t =>
    some (BitVec.ofNat 32 (pack [(7, t.toNat), (11, i.toNat), (5, 8), (2, p.toNat), (7, 17)]))
  | .muli p i t =>
    some (BitVec.ofNat 32 (pack [(7, t.toNat), (11, i.toNat), (5, 9), (2, p.toNat), (7, 17)]))
  | .teq p t u =>
    some (BitVec.ofNat 32 (pack [(7, u.toNat), (7, t.toNat), (4, 0), (5, 0), (2, p.toNat), (7, 18)]))
  | .tne p t u =>
    some (BitVec.ofNat 32 (pack [(7, u.toNat), (7, t.toNat), (4, 0), (5, 1), (2, p.toNat), (7, 18)]))
  | .tlt p t u =>
    some (BitVec.ofNat 32 (pack [(7, u.toNat), (7, t.toNat), (4, 0), (5, 2), (2, p.toNat), (7, 18)]))
  | .tle p t u =>
    some (BitVec.ofNat 32 (pack [(7, u.toNat), (7, t.toNat), (4, 0), (5, 3), (2, p.toNat), (7, 18)]))
  | .tltu p t u =>
    some (BitVec.ofNat 32 (pack [(7, u.toNat), (7, t.toNat), (4, 0), (5, 4), (2, p.toNat), (7, 18)]))
  | .tleu p t u =>
    some (BitVec.ofNat 32 (pack [(7, u.toNat), (7, t.toNat), (4, 0), (5, 5), (2, p.toNat), (7, 18)]))
  | .teqi p i t =>
    some (BitVec.ofNat 32 (pack [(7, t.toNat), (11, i.toNat), (5, 0), (2, p.toNat), (7, 19)]))
  | .tnei p i t =>
    some (BitVec.ofNat 32 (pack [(7, t.toNat), (11, i.toNat), (5, 1), (2, p.toNat), (7, 19)]))
  | .tlti p i t =>
    some (BitVec.ofNat 32 (pack [(7, t.toNat), (11, i.toNat), (5, 2), (2, p.toNat), (7, 19)]))
  | .tlei p i t =>
    some (BitVec.ofNat 32 (pack [(7, t.toNat), (11, i.toNat), (5, 3), (2, p.toNat), (7, 19)]))
  | .tltui p i t =>
    some (BitVec.ofNat 32 (pack [(7, t.toNat), (11, i.toNat), (5, 4), (2, p.toNat), (7, 19)]))
  | .tleui p i t =>
    some (BitVec.ofNat 32 (pack [(7, t.toNat), (11, i.toNat), (5, 5), (2, p.toNat), (7, 19)]))
  | .tgti p i t =>
    some (BitVec.ofNat 32 (pack [(7, t.toNat), (11, i.toNat), (5, 6), (2, p.toNat), (7, 19)]))
  | .tgei p i t =>
    some (BitVec.ofNat 32 (pack [(7, t.toNat), (11, i.toNat), (5, 7), (2, p.toNat), (7, 19)]))
  | .pand p t u =>
    some (BitVec.ofNat 32 (pack [(7, u.toNat), (7, t.toNat), (4, 0), (5, 0), (2, p.toNat), (7, 20)]))
  | .por p t u =>
    some (BitVec.ofNat 32 (pack [(7, u.toNat), (7, t.toNat), (4, 0), (5, 1), (2, p.toNat), (7, 20)]))
  | .pnot p t u =>
    some (BitVec.ofNat 32 (pack [(7, u.toNat), (7, t.toNat), (4, 0), (5, 2), (2, p.toNat), (7, 20)]))
  | .mfs p n t u =>
    some (BitVec.ofNat 32 (pack [(7, u.toNat), (7, t.toNat), (9, n.toNat), (2, p.toNat), (7, 21)]))
  | .mts p l n =>
    some (BitVec.ofNat 32 (pack [(9, n.toNat), (4, 0), (1, 0), (4, 0), (5, l.toNat), (2, p.toNat), (7, 22)]))
  | .nop p =>
    some (BitVec.ofNat 32 (pack [(7, 127), (6, 63), (1, 1), (4, 0), (5, 0), (2, p.toNat), (7, 23)]))
  | .ldl p l s z i t =>
    some (BitVec.ofNat 32 (pack [(7, t.toNat), (7, i.toNat), (2, z.toNat), (1, s.toNat), (1, 0), (5, l.toNat), (2, p.toNat), (7, 32)]))
  | .stl p l z i =>
    some (BitVec.ofNat 32 (pack [(14, i.toNat), (2, z.toNat), (2, 0), (5, l.toNat), (2, p.toNat), (7, 33)]))
  | .vldl p l g i t =>
    some (BitVec.ofNat 32 (pack [(7, t.toNat), (7, i.toNat), (4, g.toNat), (5, l.toNat), (2, p.toNat), (7, 34)]))
  | .vstl p l i =>
    some (BitVec.ofNat 32 (pack [(14, i.toNat), (4, 0), (5, l.toNat), (2, p.toNat), (7, 35)]))
  | .vgtl p l g i t =>
    some (BitVec.ofNat 32 (pack [(7, t.toNat), (7, i.toNat), (4, g.toNat), (5, l.toNat), (2, p.toNat), (7, 36)]))
  | .vscl l i =>
    some (BitVec.ofNat 32 (pack [(14, i.toNat), (4, 0), (5, l.toNat), (2, 0), (7, 37)]))
  | .land p l n t =>
    some (BitVec.ofNat 32 (pack [(7, t.toNat), (6, n.toNat), (1, 0), (4, 0), (5, l.toNat), (2, p.toNat), (7, 38)]))
  | .fence p l e o c =>
    some (BitVec.ofNat 32 (pack [(2, c.toNat), (2, o.toNat), (3, e.toNat), (6, 0), (1, 0), (4, 0), (5, l.toNat), (2, p.toNat), (7, 39)]))
  | .tldx p l g k t =>
    some (BitVec.ofNat 32 (pack [(7, t.toNat), (7, k.toNat), (3, g.toNat), (1, 0), (5, l.toNat), (2, p.toNat), (7, 40)]))
  | .tldxOffset p l g h i t =>
    some (BitVec.ofNat 32 (pack [(7, t.toNat), (4, i.toNat), (3, h.toNat), (3, g.toNat), (1, 1), (5, l.toNat), (2, p.toNat), (7, 40)]))
  | .tstx p l g k =>
    some (BitVec.ofNat 32 (pack [(14, k.toNat), (3, g.toNat), (1, 0), (5, l.toNat), (2, p.toNat), (7, 41)]))
  | .tstxOffset l g h i =>
    some (BitVec.ofNat 32 (pack [(4, i.toNat), (3, h.toNat), (6, 0), (1, 0), (3, g.toNat), (1, 1), (5, l.toNat), (2, 0), (7, 41)]))
  | .tlds p l g k t =>
    some (BitVec.ofNat 32 (pack [(7, t.toNat), (7, k.toNat), (3, g.toNat), (1, 0), (5, l.toNat), (2, p.toNat), (7, 42)]))
  | .tsts p l g k =>
    some (BitVec.ofNat 32 (pack [(14, k.toNat), (3, g.toNat), (1, 0), (5, l.toNat), (2, p.toNat), (7, 43)]))
  | .amol p l m o z t =>
    some (BitVec.ofNat 32 (pack [(7, t.toNat), (4, 0), (1, z.toNat), (2, o.toNat), (4, m.toNat), (5, l.toNat), (2, p.toNat), (7, 44)]))
  | .amot p l m o z g t =>
    some (BitVec.ofNat 32 (pack [(7, t.toNat), (3, g.toNat), (1, 0), (1, z.toNat), (2, o.toNat), (4, m.toNat), (5, l.toNat), (2, p.toNat), (7, 45)]))
  | .casLocal l o z t =>
    some (BitVec.ofNat 32 (pack [(7, t.toNat), (4, 0), (1, z.toNat), (2, o.toNat), (3, 0), (1, 0), (5, l.toNat), (2, 0), (7, 46)]))
  | .casTensor l g o z t =>
    some (BitVec.ofNat 32 (pack [(7, t.toNat), (4, 0), (1, z.toNat), (2, o.toNat), (3, g.toNat), (1, 1), (5, l.toNat), (2, 0), (7, 46)]))
  | .vamot p l g o =>
    some (BitVec.ofNat 32 (pack [(7, 127), (5, 0), (2, o.toNat), (3, g.toNat), (1, 0), (5, l.toNat), (2, p.toNat), (7, 47)]))
  | .vadd p t u =>
    some (BitVec.ofNat 32 (pack [(7, u.toNat), (7, t.toNat), (4, 0), (5, 0), (2, p.toNat), (7, 48)]))
  | .vsub p t u =>
    some (BitVec.ofNat 32 (pack [(7, u.toNat), (7, t.toNat), (4, 0), (5, 1), (2, p.toNat), (7, 48)]))
  | .vmul p t u =>
    some (BitVec.ofNat 32 (pack [(7, u.toNat), (7, t.toNat), (4, 0), (5, 2), (2, p.toNat), (7, 48)]))
  | .vmin p t u =>
    some (BitVec.ofNat 32 (pack [(7, u.toNat), (7, t.toNat), (4, 0), (5, 3), (2, p.toNat), (7, 48)]))
  | .vmax p t u =>
    some (BitVec.ofNat 32 (pack [(7, u.toNat), (7, t.toNat), (4, 0), (5, 4), (2, p.toNat), (7, 48)]))
  | .vabs p t u =>
    some (BitVec.ofNat 32 (pack [(7, u.toNat), (7, t.toNat), (4, 0), (5, 5), (2, p.toNat), (7, 48)]))
  | .vneg p t u =>
    some (BitVec.ofNat 32 (pack [(7, u.toNat), (7, t.toNat), (4, 0), (5, 6), (2, p.toNat), (7, 48)]))
  | .vand p t u =>
    some (BitVec.ofNat 32 (pack [(7, u.toNat), (7, t.toNat), (4, 0), (5, 7), (2, p.toNat), (7, 48)]))
  | .vor p t u =>
    some (BitVec.ofNat 32 (pack [(7, u.toNat), (7, t.toNat), (4, 0), (5, 8), (2, p.toNat), (7, 48)]))
  | .vxor p t u =>
    some (BitVec.ofNat 32 (pack [(7, u.toNat), (7, t.toNat), (4, 0), (5, 9), (2, p.toNat), (7, 48)]))
  | .vshl p t u =>
    some (BitVec.ofNat 32 (pack [(7, u.toNat), (7, t.toNat), (4, 0), (5, 10), (2, p.toNat), (7, 48)]))
  | .vshr p t u =>
    some (BitVec.ofNat 32 (pack [(7, u.toNat), (7, t.toNat), (4, 0), (5, 11), (2, p.toNat), (7, 48)]))
  | .vsra p t u =>
    some (BitVec.ofNat 32 (pack [(7, u.toNat), (7, t.toNat), (4, 0), (5, 12), (2, p.toNat), (7, 48)]))
  | .vadds p t u =>
    some (BitVec.ofNat 32 (pack [(7, u.toNat), (7, t.toNat), (4, 0), (5, 13), (2, p.toNat), (7, 48)]))
  | .vsubs p t u =>
    some (BitVec.ofNat 32 (pack [(7, u.toNat), (7, t.toNat), (4, 0), (5, 14), (2, p.toNat), (7, 48)]))
  | .vfma t u =>
    some (BitVec.ofNat 32 (pack [(7, u.toNat), (7, t.toNat), (4, 0), (5, 0), (2, 0), (7, 49)]))
  | .vfms t u =>
    some (BitVec.ofNat 32 (pack [(7, u.toNat), (7, t.toNat), (4, 0), (5, 1), (2, 0), (7, 49)]))
  | .vfnma t u =>
    some (BitVec.ofNat 32 (pack [(7, u.toNat), (7, t.toNat), (4, 0), (5, 2), (2, 0), (7, 49)]))
  | .vceq p t u =>
    some (BitVec.ofNat 32 (pack [(7, u.toNat), (7, t.toNat), (4, 0), (5, 0), (2, p.toNat), (7, 50)]))
  | .vcne p t u =>
    some (BitVec.ofNat 32 (pack [(7, u.toNat), (7, t.toNat), (4, 0), (5, 1), (2, p.toNat), (7, 50)]))
  | .vclt p t u =>
    some (BitVec.ofNat 32 (pack [(7, u.toNat), (7, t.toNat), (4, 0), (5, 2), (2, p.toNat), (7, 50)]))
  | .vcle p t u =>
    some (BitVec.ofNat 32 (pack [(7, u.toNat), (7, t.toNat), (4, 0), (5, 3), (2, p.toNat), (7, 50)]))
  | .vcgt p t u =>
    some (BitVec.ofNat 32 (pack [(7, u.toNat), (7, t.toNat), (4, 0), (5, 4), (2, p.toNat), (7, 50)]))
  | .vcge p t u =>
    some (BitVec.ofNat 32 (pack [(7, u.toNat), (7, t.toNat), (4, 0), (5, 5), (2, p.toNat), (7, 50)]))
  | .vsel t u =>
    some (BitVec.ofNat 32 (pack [(7, u.toNat), (7, t.toNat), (4, 0), (5, 0), (2, 0), (7, 51)]))
  | .vrcp p t u =>
    some (BitVec.ofNat 32 (pack [(7, u.toNat), (7, t.toNat), (4, 0), (5, 0), (2, p.toNat), (7, 52)]))
  | .vrsq p t u =>
    some (BitVec.ofNat 32 (pack [(7, u.toNat), (7, t.toNat), (4, 0), (5, 1), (2, p.toNat), (7, 52)]))
  | .vsqrt p t u =>
    some (BitVec.ofNat 32 (pack [(7, u.toNat), (7, t.toNat), (4, 0), (5, 2), (2, p.toNat), (7, 52)]))
  | .vexp2 p t u =>
    some (BitVec.ofNat 32 (pack [(7, u.toNat), (7, t.toNat), (4, 0), (5, 3), (2, p.toNat), (7, 52)]))
  | .vlog2 p t u =>
    some (BitVec.ofNat 32 (pack [(7, u.toNat), (7, t.toNat), (4, 0), (5, 4), (2, p.toNat), (7, 52)]))
  | .vtanh p t u =>
    some (BitVec.ofNat 32 (pack [(7, u.toNat), (7, t.toNat), (4, 0), (5, 5), (2, p.toNat), (7, 52)]))
  | .vrsum p t u =>
    some (BitVec.ofNat 32 (pack [(7, u.toNat), (7, t.toNat), (4, 0), (5, 0), (2, p.toNat), (7, 53)]))
  | .vrmax p t u =>
    some (BitVec.ofNat 32 (pack [(7, u.toNat), (7, t.toNat), (4, 0), (5, 1), (2, p.toNat), (7, 53)]))
  | .vrmin p t u =>
    some (BitVec.ofNat 32 (pack [(7, u.toNat), (7, t.toNat), (4, 0), (5, 2), (2, p.toNat), (7, 53)]))
  | .vbcast p g t u =>
    some (BitVec.ofNat 32 (pack [(7, u.toNat), (7, t.toNat), (4, g.toNat), (5, 0), (2, p.toNat), (7, 54)]))
  | .vext p t u =>
    some (BitVec.ofNat 32 (pack [(7, u.toNat), (7, t.toNat), (4, 0), (5, 1), (2, p.toNat), (7, 54)]))
  | .vins t u =>
    some (BitVec.ofNat 32 (pack [(7, u.toNat), (7, t.toNat), (4, 0), (5, 2), (2, 0), (7, 54)]))
  | .vperm p t u =>
    some (BitVec.ofNat 32 (pack [(7, u.toNat), (7, t.toNat), (4, 0), (5, 3), (2, p.toNat), (7, 54)]))
  | .vrot p t u =>
    some (BitVec.ofNat 32 (pack [(7, u.toNat), (7, t.toNat), (4, 0), (5, 4), (2, p.toNat), (7, 54)]))
  | .viota p g t u =>
    some (BitVec.ofNat 32 (pack [(7, u.toNat), (7, t.toNat), (4, g.toNat), (5, 5), (2, p.toNat), (7, 54)]))
  | .vpsum p t u =>
    some (BitVec.ofNat 32 (pack [(7, u.toNat), (7, t.toNat), (4, 0), (5, 6), (2, p.toNat), (7, 54)]))
  | .vcvt p g t u =>
    some (BitVec.ofNat 32 (pack [(7, u.toNat), (7, t.toNat), (4, g.toNat), (5, 0), (2, p.toNat), (7, 55)]))
  | .vqnt b t u =>
    some (BitVec.ofNat 32 (pack [(7, u.toNat), (7, t.toNat), (3, b.toNat), (1, 0), (5, 1), (2, 0), (7, 55)]))
  | .vdqnt f b t u =>
    some (BitVec.ofNat 32 (pack [(7, u.toNat), (7, t.toNat), (3, b.toNat), (1, f.toNat), (5, 2), (2, 0), (7, 55)]))
  | .vpack p g t u =>
    some (BitVec.ofNat 32 (pack [(7, u.toNat), (7, t.toNat), (4, g.toNat), (5, 3), (2, p.toNat), (7, 55)]))
  | .vunpk p f h q t u =>
    some (BitVec.ofNat 32 (pack [(7, u.toNat), (7, t.toNat), (2, q.toNat), (1, h.toNat), (1, f.toNat), (5, 4), (2, p.toNat), (7, 55)]))
  | .vretag p g t u =>
    some (BitVec.ofNat 32 (pack [(7, u.toNat), (7, t.toNat), (4, g.toNat), (5, 5), (2, p.toNat), (7, 55)]))
  | .mand p t u =>
    some (BitVec.ofNat 32 (pack [(7, u.toNat), (7, t.toNat), (4, 0), (5, 0), (2, p.toNat), (7, 56)]))
  | .mor p t u =>
    some (BitVec.ofNat 32 (pack [(7, u.toNat), (7, t.toNat), (4, 0), (5, 1), (2, p.toNat), (7, 56)]))
  | .mxor p t u =>
    some (BitVec.ofNat 32 (pack [(7, u.toNat), (7, t.toNat), (4, 0), (5, 2), (2, p.toNat), (7, 56)]))
  | .mnot p t u =>
    some (BitVec.ofNat 32 (pack [(7, u.toNat), (7, t.toNat), (4, 0), (5, 3), (2, p.toNat), (7, 56)]))
  | .mpop p t u =>
    some (BitVec.ofNat 32 (pack [(7, u.toNat), (7, t.toNat), (4, 0), (5, 4), (2, p.toNat), (7, 56)]))
  | .mfirst p t u =>
    some (BitVec.ofNat 32 (pack [(7, u.toNat), (7, t.toNat), (4, 0), (5, 5), (2, p.toNat), (7, 56)]))
  | .gset p l g t =>
    some (BitVec.ofNat 32 (pack [(7, t.toNat), (3, g.toNat), (3, 0), (5, 0), (5, l.toNat), (2, p.toNat), (7, 64)]))
  | .sbind p l n =>
    some (BitVec.ofNat 32 (pack [(7, 127), (3, n.toNat), (3, 0), (5, 1), (5, l.toNat), (2, p.toNat), (7, 64)]))
  | .csetg p l c =>
    some (BitVec.ofNat 32 (pack [(7, 127), (4, c.toNat), (2, 0), (5, 2), (5, l.toNat), (2, p.toNat), (7, 64)]))
  | .cpy p l d c t =>
    some (BitVec.ofNat 32 (pack [(7, t.toNat), (4, c.toNat), (1, d.toNat), (1, 0), (5, 3), (5, l.toNat), (2, p.toNat), (7, 64)]))
  | .cpyw p l c t =>
    some (BitVec.ofNat 32 (pack [(7, t.toNat), (4, c.toNat), (2, 0), (5, 4), (5, l.toNat), (2, p.toNat), (7, 64)]))
  | .cpym p l c t =>
    some (BitVec.ofNat 32 (pack [(7, t.toNat), (4, c.toNat), (2, 0), (5, 5), (5, l.toNat), (2, p.toNat), (7, 64)]))
  | .deal p l c t =>
    some (BitVec.ofNat 32 (pack [(7, t.toNat), (4, c.toNat), (2, 0), (5, 6), (5, l.toNat), (2, p.toNat), (7, 64)]))
  | .cpyt p l n t =>
    some (BitVec.ofNat 32 (pack [(7, t.toNat), (5, n.toNat), (1, 0), (5, 7), (5, l.toNat), (2, p.toNat), (7, 64)]))
  | .cpytLand p l g t =>
    some (BitVec.ofNat 32 (pack [(7, t.toNat), (4, g.toNat), (1, 0), (1, 1), (5, 7), (5, l.toNat), (2, p.toNat), (7, 64)]))
  | .twait p l e t =>
    some (BitVec.ofNat 32 (pack [(7, t.toNat), (2, e.toNat), (4, 0), (5, 8), (5, l.toNat), (2, p.toNat), (7, 64)]))
  | .tread p l w e t =>
    some (BitVec.ofNat 32 (pack [(7, t.toNat), (2, e.toNat), (1, w.toNat), (3, 0), (5, 9), (5, l.toNat), (2, p.toNat), (7, 64)]))
  | .msetg p l g t =>
    some (BitVec.ofNat 32 (pack [(7, t.toNat), (4, g.toNat), (2, 0), (5, 0), (5, l.toNat), (2, p.toNat), (7, 65)]))
  | .mma p l g a t =>
    some (BitVec.ofNat 32 (pack [(7, t.toNat), (2, a.toNat), (4, g.toNat), (5, 1), (5, l.toNat), (2, p.toNat), (7, 65)]))
  | .mmaz p l g a t =>
    some (BitVec.ofNat 32 (pack [(7, t.toNat), (2, a.toNat), (4, g.toNat), (5, 2), (5, l.toNat), (2, p.toNat), (7, 65)]))
  | .mmaq p l g a t =>
    some (BitVec.ofNat 32 (pack [(7, t.toNat), (2, a.toNat), (4, g.toNat), (5, 3), (5, l.toNat), (2, p.toNat), (7, 65)]))
  | .mldb p l b t =>
    some (BitVec.ofNat 32 (pack [(7, t.toNat), (1, b.toNat), (5, 0), (5, 4), (5, l.toNat), (2, p.toNat), (7, 65)]))
  | .mplay p l b t =>
    some (BitVec.ofNat 32 (pack [(7, t.toNat), (1, b.toNat), (5, 0), (5, 5), (5, l.toNat), (2, p.toNat), (7, 65)]))
  | .mst p l g a t =>
    some (BitVec.ofNat 32 (pack [(7, t.toNat), (2, a.toNat), (4, g.toNat), (5, 6), (5, l.toNat), (2, p.toNat), (7, 65)]))
  | .mlda p l a t =>
    some (BitVec.ofNat 32 (pack [(7, t.toNat), (2, a.toNat), (4, 0), (5, 7), (5, l.toNat), (2, p.toNat), (7, 65)]))
  | .mzero p l a t =>
    some (BitVec.ofNat 32 (pack [(7, t.toNat), (2, a.toNat), (4, 0), (5, 8), (5, l.toNat), (2, p.toNat), (7, 65)]))
  | .mrls p l b t =>
    some (BitVec.ofNat 32 (pack [(7, t.toNat), (1, b.toNat), (5, 0), (5, 9), (5, l.toNat), (2, p.toNat), (7, 65)]))
  | .mseat p l t =>
    some (BitVec.ofNat 32 (pack [(7, t.toNat), (6, 0), (5, 10), (5, l.toNat), (2, p.toNat), (7, 65)]))
  | .send p l u n t =>
    some (BitVec.ofNat 32 (pack [(7, t.toNat), (5, n.toNat), (1, u.toNat), (5, 0), (5, l.toNat), (2, p.toNat), (7, 66)]))
  | .sendq p l u n t =>
    some (BitVec.ofNat 32 (pack [(7, t.toNat), (5, n.toNat), (1, u.toNat), (5, 1), (5, l.toNat), (2, p.toNat), (7, 66)]))
  | .req p l u n t =>
    some (BitVec.ofNat 32 (pack [(7, t.toNat), (5, n.toNat), (1, u.toNat), (5, 2), (5, l.toNat), (2, p.toNat), (7, 66)]))
  | .reply p l u n t =>
    some (BitVec.ofNat 32 (pack [(7, t.toNat), (5, n.toNat), (1, u.toNat), (5, 3), (5, l.toNat), (2, p.toNat), (7, 66)]))
  | .xput p l u n t =>
    some (BitVec.ofNat 32 (pack [(7, t.toNat), (5, n.toNat), (1, u.toNat), (5, 4), (5, l.toNat), (2, p.toNat), (7, 66)]))
  | .xamo p l u o t =>
    some (BitVec.ofNat 32 (pack [(7, t.toNat), (4, o.toNat), (1, 0), (1, u.toNat), (5, 5), (5, l.toNat), (2, p.toNat), (7, 66)]))
  | .mbxset p l k t =>
    some (BitVec.ofNat 32 (pack [(7, t.toNat), (2, k.toNat), (4, 0), (5, 6), (5, l.toNat), (2, p.toNat), (7, 66)]))
  | .frget p l w t =>
    some (BitVec.ofNat 32 (pack [(7, t.toNat), (1, w.toNat), (5, 0), (5, 7), (5, l.toNat), (2, p.toNat), (7, 66)]))
  | .frput p l t =>
    some (BitVec.ofNat 32 (pack [(7, t.toNat), (6, 0), (5, 8), (5, l.toNat), (2, p.toNat), (7, 66)]))
  | .xroute p l t =>
    some (BitVec.ofNat 32 (pack [(7, t.toNat), (6, 0), (5, 9), (5, l.toNat), (2, p.toNat), (7, 66)]))
  | .xflush p l t =>
    some (BitVec.ofNat 32 (pack [(7, t.toNat), (6, 0), (5, 10), (5, l.toNat), (2, p.toNat), (7, 66)]))
  | .tdec p l =>
    some (BitVec.ofNat 32 (pack [(7, 127), (6, 0), (5, 0), (5, l.toNat), (2, p.toNat), (7, 67)]))
  | .tspawn p l t =>
    some (BitVec.ofNat 32 (pack [(7, t.toNat), (6, 0), (5, 1), (5, l.toNat), (2, p.toNat), (7, 67)]))
  | .tjoin p l t =>
    some (BitVec.ofNat 32 (pack [(7, t.toNat), (6, 0), (5, 2), (5, l.toNat), (2, p.toNat), (7, 67)]))
  | .tstat p l s t =>
    some (BitVec.ofNat 32 (pack [(7, t.toNat), (2, s.toNat), (4, 0), (5, 3), (5, l.toNat), (2, p.toNat), (7, 67)]))
  | .tkill p l k =>
    some (BitVec.ofNat 32 (pack [(7, 127), (1, k.toNat), (5, 0), (5, 4), (5, l.toNat), (2, p.toNat), (7, 67)]))
  | .ginst p l t =>
    some (BitVec.ofNat 32 (pack [(7, t.toNat), (6, 0), (5, 5), (5, l.toNat), (2, p.toNat), (7, 67)]))
  | .nopen p l w n t =>
    some (BitVec.ofNat 32 (pack [(7, t.toNat), (5, n.toNat), (1, w.toNat), (5, 0), (5, l.toNat), (2, p.toNat), (7, 68)]))
  | .nclose p l =>
    some (BitVec.ofNat 32 (pack [(7, 127), (6, 0), (5, 1), (5, l.toNat), (2, p.toNat), (7, 68)]))
  | .nbind p l =>
    some (BitVec.ofNat 32 (pack [(7, 127), (6, 0), (5, 2), (5, l.toNat), (2, p.toNat), (7, 68)]))
  | .ntxb p l t =>
    some (BitVec.ofNat 32 (pack [(7, t.toNat), (6, 0), (5, 3), (5, l.toNat), (2, p.toNat), (7, 68)]))
  | .ntxa l =>
    some (BitVec.ofNat 32 (pack [(7, 127), (6, 0), (5, 4), (5, l.toNat), (2, 0), (7, 68)]))
  | .ntxc p l t =>
    some (BitVec.ofNat 32 (pack [(7, t.toNat), (6, 0), (5, 5), (5, l.toNat), (2, p.toNat), (7, 68)]))
  | .ntxx p l =>
    some (BitVec.ofNat 32 (pack [(7, 127), (6, 0), (5, 6), (5, l.toNat), (2, p.toNat), (7, 68)]))
  | .nsnap p l t =>
    some (BitVec.ofNat 32 (pack [(7, t.toNat), (6, 0), (5, 7), (5, l.toNat), (2, p.toNat), (7, 68)]))
  | .nmake p l t =>
    some (BitVec.ofNat 32 (pack [(7, t.toNat), (6, 0), (5, 8), (5, l.toNat), (2, p.toNat), (7, 68)]))
  | .nqry p l s t =>
    some (BitVec.ofNat 32 (pack [(7, t.toNat), (2, s.toNat), (4, 0), (5, 9), (5, l.toNat), (2, p.toNat), (7, 68)]))
  | .svc p l t =>
    some (BitVec.ofNat 32 (pack [(7, t.toNat), (6, 0), (5, 0), (5, l.toNat), (2, p.toNat), (7, 69)]))
  | .bkpt p l c =>
    some (BitVec.ofNat 32 (pack [(7, 127), (6, c.toNat), (5, 1), (5, l.toNat), (2, p.toNat), (7, 69)]))
  | .ctxsv p l =>
    some (BitVec.ofNat 32 (pack [(7, 127), (6, 0), (5, 2), (5, l.toNat), (2, p.toNat), (7, 69)]))
  | .ctxrs p l =>
    some (BitVec.ofNat 32 (pack [(7, 127), (6, 0), (5, 3), (5, l.toNat), (2, p.toNat), (7, 69)]))
  | .tlbi p l s =>
    some (BitVec.ofNat 32 (pack [(7, 127), (2, s.toNat), (4, 0), (5, 4), (5, l.toNat), (2, p.toNat), (7, 69)]))
  | .bootGoWrite _ => none
  | .spdmRequest _ => none
  | .pcieOutOfWindowRequest _ _ => none
  | .doorbell _ _ _ => none
  | .cdoneWrite _ _ _ => none
  | .queueEnable _ _ _ => none
  | .registerWrite _ _ => none
  | .queueAccept _ _ => none
  | .completionPost _ _ => none
  | .hostNop _ _ => none
  | .kick _ _ => none
  | .launch _ _ => none
  | .makeobj _ _ => none
  | .bindn _ _ => none
  | .copyin _ _ => none
  | .copyout _ _ => none
  | .hostFence _ _ => none
  | .qstat _ _ => none
  | .preempt _ _ => none
  | .resume _ _ => none
  | .snapshot _ _ => none
  | .partstat _ _ => none
  | .lbTagStateWrite _ => none
  | .mailboxMapWrite _ => none
  | .allowanceReturnTimer _ => none
  | .ualinkInboundWrite _ _ _ _ => none
  | .ualinkUnsupportedRequest _ _ => none
  | .voteLimitExpiry _ => none
  | .txnIndoubt _ => none
  | .txnSettle _ => none
  | .keySlotLoad _ _ _ => none
  | .routerTableWrite _ => none
  | .regionBlockWrite _ _ => none
  | .throttleStepUp _ => none
  | .overtempReset _ _ => none
  | .haltedContextWrite _ => none
  | .powerUp => none
  | .deviceReset => none
  | .dieReset => none
  | .kickDelivery => none
  | .presidingElection => none
  | .blockFetch => none
  | .blockDecode => none
  | .blockCommit => none
  | .blockStallTimeout => none
  | .waitTimeoutExpiry => none
  | .contextDrained => none
  | .handlerStart => none
  | .trapStart => none
  | .landingFill => none
  | .faultRecordWrite => none
  | .windowRequest => none
  | .windowWithdraw => none
  | .tensorRequest => none
  | .tensorReply => none
  | .tableWalk => none
  | .linkFlitRetry => none
  | .cowComplete => none
  | .copyStart => none
  | .copyComplete => none
  | .dealerRun => none
  | .streamReadahead => none
  | .meEntryStart => none
  | .meCommandApply => none
  | .playRequest => none
  | .playGrant => none
  | .latchArrival => none
  | .cardSend => none
  | .frameCardArrival => none
  | .queueCardArrival => none
  | .landingCardArrival => none
  | .replyCardArrival => none
  | .atomicCardArrival => none
  | .cardAck => none
  | .queueMailboxFire => none
  | .mailboxConfigApply => none
  | .allowanceReturnArrival => none
  | .refreshTimer => none
  | .refreshRequestArrival => none
  | .messageSend => none
  | .fragmentArrival => none
  | .meldDelivery => none
  | .messageCompleted => none
  | .ackTimer => none
  | .ackArrival => none
  | .busyArrival => none
  | .busyResendTimer => none
  | .meldTimeout => none
  | .repairArrival => none
  | .sourceTimerExpiry => none
  | .giveupArrival => none
  | .linkLossOfLock => none
  | .linkDownDeclare => none
  | .chordNewsArrival => none
  | .linkUp => none
  | .exchangeConfigApply => none
  | .exchangeFlushArrival => none
  | .exchangeReturnArrival => none
  | .overflowRecordArrival => none
  | .xflushCounterWrite => none
  | .heartbeatTimer => none
  | .heartbeatArrival => none
  | .rejoin => none
  | .decrementApply => none
  | .killApply => none
  | .placementPass => none
  | .tResExpiry => none
  | .stagingMergeClose => none
  | .stagingComplete => none
  | .taskStart => none
  | .pipelineStart => none
  | .barrierArrival => none
  | .taskCompletion => none
  | .ladderT1Expiry => none
  | .ladderT2Expiry => none
  | .taskSaveComplete => none
  | .hangProgressReport => none
  | .debugHalt => none
  | .debugHaltRelease => none
  | .openRequest => none
  | .openRepresentTimer => none
  | .bindApply => none
  | .confirmationArrival => none
  | .provisionalWithdraw => none
  | .hubReplyArrival => none
  | .prepareRequest => none
  | .prepareReplyArrival => none
  | .decisionArrival => none
  | .decisionAckArrival => none
  | .ntxcAckTimer => none
  | .reclaim => none
  | .snapshotRequest => none
  | .machineCheck => none
  | .masterUnfreeze => none
  | .masterReset => none
  | .lifeLogEpoch => none
  | .throttleStepDown => none

end Sys2Proof
end

