-- ==== Sys2Proof/Config.lean ====
section
/-! DEFINITION. What the spec leaves to an implementation, to the loaded firmware or to chance: constants
without a body, so that nothing can be proved of their values. Each is named in the assumption log. Marks: DESIGN
CHOICE (log 4, 20, 21, 22, 70). -/

namespace Sys2Proof.Config

/-- Free choices, drawn one after another by the counter `State.freeCtr`: which free frame of a pool is taken
(11_tensor_access.md R171), which free graph-memory slot (22_task_dispatcher.md R294), which free entry of an
object table (25_name_directory.md R326). Log 4. -/
opaque freeChoice : Nat → Nat

/-- A value that the spec does not state, drawn by the counter `State.freeCtr`. Log 4. -/
opaque freeValue : Nat → BitVec 64

/-- The chords that die-controller firmware computes from a die to another, shortest first, each as its panel
links (16_message_engine.md R242). Log 20. -/
opaque chords : Nat → Nat → List (List Nat)

/-- A switch plane of the pod leads to a module (16_message_engine.md R246). Log 70. -/
opaque planeOpen : Nat → Nat → Bool

/-- The fused minimum security version and the fused digest of the public key (29_host_firmware.md R370, R371).
Log 21. -/
opaque fusedSvn : Nat

@[inherit_doc fusedSvn]
opaque fusedKeyDigest : BitVec 256

/-- The hash SM3 and the verification of an SM2 signature: public key, signature, digest (R370-R372). Log 21. -/
opaque sm3 : List Byte → BitVec 256

@[inherit_doc sm3]
opaque sm2Verify : BitVec 512 → BitVec 512 → BitVec 256 → Bool

/-- The answers of the SPDM responder that are fixed at manufacture, the digest of the boot ROM (measurement 1), and the fused part number (R372).
Log 21. -/
opaque spdmIdentity : List Byte

@[inherit_doc spdmIdentity]
opaque spdmCertificate : List Byte

@[inherit_doc spdmIdentity]
opaque bootRomDigest : BitVec 256

@[inherit_doc spdmIdentity]
opaque partNumber : List Byte

/-- The signature, with the device's SM2 identity key, of a measurement record (R372). Log 21. -/
opaque sm2Sign : List Byte → BitVec 512

/-- The build number that the firmware of an image reports for itself (R381 service 0). Log 22. -/
opaque buildNumber : BitVec 256 → BitVec 32

/-- The keys that firmware generates for a key slot (R380): data key and tweak key. Log 22. -/
opaque regionKey : Nat → BitVec 256

end Sys2Proof.Config
end

