-- ==== Sys2Proof/Machine/State.lean ====
section
/-! DEFINITION. The state of the machine, as plain data: one module of the pod, its 32 C-dies with
their tiles, contexts and hubs, the stacks' memory, the host's queues and the fabric between them.
Every field stands at its value after reset by default, so that `{}` is the part after reset.
Sparse maps are lists of (key, value) with keys rising; an unlisted key holds the reset value. Marks: DEDUCED (log 13,
14, 39, 44, 45, 47, 51, 52, 54, 59, 66); DESIGN CHOICE (log 1, 2, 3, 4, 5, 6, 8, 12, 20, 22, 32, 34, 36, 43, 68, 70,
71, 73, 77). -/

namespace Sys2Proof.Machine

/-- The 4-bit format tags (02_numbers.md R25). -/
inductive Tag where
  | empty | i64 | f32s | hndl | mask64 | mask128 | mask256 | vi32 | vf32 | vbf16 | vi16
  | vf8e4 | vf8e5 | vi8 | vq4n | reserved15
  deriving DecidableEq, Repr

/-- A register value: 2,048 bits and a tag (R25). -/
structure Reg where
  tag : Tag := .empty
  bits : Vec := 0#2048
  deriving DecidableEq, Repr

/-- A token: a value or a null (06_block_engine.md R91). -/
inductive Token where
  | val (r : Reg)
  | null
  deriving DecidableEq, Repr

/-- The engines with a timeline, CE = 0, ME = 1, MSE = 2 (01_machine.md R17). -/
inductive Engine where
  | ce | me | mse
  deriving DecidableEq, Repr

/-- The cause codes of a fault (28_traps_preemption.md R358). -/
inductive Cause where
  | illegalOpcode | reservedField | privileged | tagFault | blockMultiExit | blockStall
  | rasOverflow | rasUnderflow | lsBounds | align | handlerWait | tokenCollision
  | tensorNotPresent | window | rights | frameExhausted | mmRace | uncorrectable
  | waitTimeout | msgUnrecoverable | cardTooLong | reqInService | matrixGeometry | matrixSeq
  | nameUnbound | nameCapacity | txnConflict | trap | bkpt | preempted | machineCheck
  deriving DecidableEq, Repr

/-- A context: die, tile and number (R82). -/
structure Place where
  die : Nat := 0
  tile : Nat := 0
  ctx : Nat := 0
  deriving DecidableEq, Repr

/-- A coordinate, an origin or an extent: one number per dimension (11_tensor_access.md R169). -/
structure C4 where
  c0 : Nat := 0
  c1 : Nat := 0
  c2 : Nat := 0
  c3 : Nat := 0
  deriving DecidableEq, Repr

/-- The owner of a window (03_memory_model.md R48, 29_host_firmware.md R377). -/
inductive Owner where
  | task (id : BitVec 32)
  | handler (p : Place) (run : Nat)
  | host (fn q seq : Nat)
  deriving DecidableEq, Repr

/-- A window on an object, kept at the object's home (R48, R50). A window granted to a `GSET` is
inactive until its block commits. -/
structure Win where
  owner : Owner
  org : C4
  ext : C4
  rw : Bool
  sync : Bool
  active : Bool
  deriving DecidableEq, Repr

/-- One count for each engine (R17). -/
structure Tl where
  ce : Nat := 0
  me : Nat := 0
  mse : Nat := 0
  deriving DecidableEq, Repr

/-- A fault recorded on a timeline number and not yet raised (R18, R179, R362). -/
structure RecFault where
  eng : Engine
  num : Nat
  cause : Cause
  more : Bool := false
  deriving DecidableEq, Repr

/-- The contents of a fault record (R353). -/
structure FaultRec where
  block : BitVec 32 := 0#32
  ctx : Nat := 0
  index : Option Nat := none
  cause : Cause := .illegalOpcode
  task : BitVec 32 := 0#32
  priv : Bool := false
  eng : Nat := 0
  more : Bool := false
  ended : Bool := false
  async : Bool := false
  bar : Bool := false
  fetch : Bool := false
  hdr : Bool := false
  code : Word64 := 0#64
  d0 : Word64 := 0#64
  d1 : Word64 := 0#64
  cycle : Nat := 0
  region : Nat := 0
  /-- the record is written and no trap starts: DBGEN was set at a `BKPT` (R361), or no trap handler serves it and its context has been ended
  (R355) -/
  noTrap : Bool := false
  deriving DecidableEq, Repr

/-- What a fired exit does at commit (07_be_control.md R103-R111). -/
inductive ExitKind where
  | branch (target : BitVec 32)
  | barrier (target : BitVec 32)
  | call (target : BitVec 32)
  | ret
  | eret
  | texit (code : Nat)
  | hret
  deriving DecidableEq, Repr

/-- A copy-engine command with the geometry it read at issue (12_tae_instructions.md R191-R196). -/
inductive CopyCmd where
  | cpy (out : Bool) (cg : BitVec 512) (h : Word64) (a : Nat)
  | cpyw (cgs cgd : BitVec 512) (hd hs : Word64)
  | cpym (cg : BitVec 512) (h : Word64) (r : Word64)
  | deal (cg : BitVec 512) (h : Word64)
  | cpyt (d s : Word64) (bytes : Nat)
  | cpytLand (d s : Word64) (tag : Nat)
  deriving DecidableEq, Repr

/-- A matrix command with the geometry it read at issue (14_me_instructions.md R210-R220). -/
inductive MeCmd where
  | setg
  /-- kind 0 `MMA`, 1 `MMAZ`, 2 `MMAQ` -/
  | mma (kind acc : Nat) (g0 g1 : Word64) (a w : Word64)
  | ldb (l : Nat) (a h : Word64)
  | play (l : Nat)
  | st (acc : Nat) (g0 g1 : Word64) (a : Word64) (sat : Bool)
  | lda (acc : Nat) (a w : Word64)
  | zero (acc : Nat) (w : Word64)
  | rls (l : Nat)
  | seat (s : Word64) (code : Word64)
  deriving DecidableEq, Repr

/-- A card: its header words, its payload and the command whose number it completes (R224). -/
structure Card where
  hw0 : Word64 := 0#64
  hw1 : Word64 := 0#64
  payload : List Byte := []
  src : Place := {}
  num : Nat := 0
  ordered : Bool := true
  /-- entered the destination die's mesh in this cycle (R224 ENTRY) -/
  entry : Nat := 0
  /-- operation of an `XAMO`, carried with the card (18_msg_instructions.md R277) -/
  op : Nat := 0
  deriving DecidableEq, Repr

/-- A card in a die's mesh, its destination tile (R226); `ack` tells its sender's completion. -/
structure MeshCard where
  tile : Nat
  card : Card
  /-- brought by a message of another die: source, class, sequence (R261) -/
  msg : Option (Nat × Nat × Nat) := none
  /-- refused for a full start queue: it waits under back-pressure (06_block_engine.md R101) -/
  refused : Bool := false
  deriving DecidableEq, Repr

/-- A message-engine command (18_msg_instructions.md R268-R282). -/
inductive MseCmd where
  /-- cards still to leave, with the allowance record to which they are charged (18_msg_instructions.md R273) -/
  | cards (cs : List Card) (charged : Option Nat)
  /-- an `XPUT`: destination word, local address, length, cards already sent -/
  | xput (dw : Word64) (a len sent : Nat) (ordered : Bool)
  | mbxset (kind : Nat) (sel : Word64) (bytes : List Byte)
  | xflush (d : Word64) (a : Nat)
  | xroute
  deriving DecidableEq, Repr

/-- An issued message-engine command (R271). -/
structure MseEntry where
  ctx : Nat
  num : Nat
  cmd : MseCmd
  /-- presence record of the reply frame that a `REQ` has reserved (R274) -/
  frame : Option Nat := none
  /-- cards that have left and are not yet acknowledged -/
  out : Nat := 0
  fault : Option Cause := none
  deriving DecidableEq, Repr

/-- A record on its way through an exchange unit: its bytes, the command that appended it (R248, R249). -/
structure XRec where
  hdr : Word64
  bytes : List Byte
  src : Place
  num : Nat
  deriving DecidableEq, Repr

/-- The engine commands of a block, as they wait for its commit. -/
inductive Cmd where
  | gset (ag : Nat) (h : Word64) (cg : BitVec 512)
  | sbind (port : Nat) (g : Option Nat)
  | csetg (cg a : Nat)
  | cpy (out : Bool) (cg : Nat) (h : Word64) (a : Word64)
  | cpyw (cg : Nat) (hd hs : Word64)
  | cpym (cg : Nat) (h r : Word64)
  | deal (cg : Nat) (h : Word64)
  | cpyt (d s : Word64) (bytes : Nat)
  | cpytLand (d s : Word64) (tag : Nat)
  | msetg (g a : Nat)
  | mma (kind acc g : Nat) (a w : Word64)
  | mldb (l : Nat) (a h : Word64)
  | mplay (l : Nat)
  | mst (acc g : Nat) (a : Word64) (sat : Bool)
  | mlda (acc : Nat) (a w : Word64)
  | mzero (acc : Nat) (w : Word64)
  | mrls (l : Nat)
  | mseat (s code : Word64)
  /-- `SEND`, `SENDQ`, `REQ`, `REPLY`: payload in local memory (address, length) or in a register -/
  | send (dw : Word64) (local_ : Option (Nat × Nat)) (reg : List Byte) (ptag : Nat)
      (charged : Option Nat) (frame : Option Nat) (unordered : Bool)
  | xput (dw : Word64) (a len : Nat) (unordered : Bool)
  | xamo (dw v : Word64) (op : Nat) (unordered : Bool)
  | mbxset (kind : Nat) (sel a : Word64)
  | frput (sel n : Word64)
  | xroute (h : Word64) (a : Nat)
  | xflush (d : Word64) (a : Nat)
  | tdec (id : BitVec 32) (n : Nat)
  | tkill (id : BitVec 32) (sub : Bool)
  | tjoined (id : BitVec 32)
  | ntxa (t : Nat) (key h : Word64)
  | ntxc (t : Nat) (dst : BitVec 7)
  | ntxx (t : Nat)
  | nbind (key h : Word64)
  | svc (n v : Word64)
  | ctxsv (c a : Nat)
  | ctxrs (c : Nat) (img : List Byte)
  | tlbi (scope : Nat) (h i : Word64)
  /-- received, nothing more to do at commit than confirm what was provisional -/
  | confirm
  deriving DecidableEq, Repr

/-- What a received counted instruction does at its block's commit (R58, R94). -/
inductive CommitOp where
  /-- predicated off, fired on a null, or without effect; an X command consumes its number (R17) -/
  | idle (eng : Option Engine)
  | storeLocal (addr : Nat) (bytes : List Byte)
  | scatterLocal (lanes : List (Nat × List Byte))
  | amoLocal (addr size op : Nat) (b : Word64) (dst : BitVec 7)
  | casLocal (addr size : Nat) (e n : Word64) (dst : BitVec 7)
  | land (entry : Nat)
  | fence (eng : BitVec 3) (ord scope : Nat)
  | mts (num : Nat) (v : Word64)
  | storeTensor (ag : Nat) (h : Word64) (pieces : List (C4 × List Byte))
  | amoTensor (ag : Nat) (h : Word64) (at_ : C4) (size op : Nat) (b : Word64) (dst : BitVec 7)
  | casTensor (ag : Nat) (h : Word64) (at_ : C4) (size : Nat) (e n : Word64) (dst : BitVec 7)
  | vamot (ag : Nat) (h : Word64) (tag : Tag) (els : List (C4 × Nat)) (mode : Nat) (sat : Bool)
  | cmd (eng : Option Engine) (c : Cmd)
  deriving DecidableEq, Repr

/-- A received counted instruction (R93). -/
structure Counted where
  lsid : Nat
  index : Nat
  op : CommitOp
  deriving DecidableEq, Repr

/-- What a waiting instruction awaits (22_task_dispatcher.md R310 KIND). -/
inductive WaitKind where
  | tokens | timeline | mailbox | latch | barrier | join | opn | replySlot | landing | allowance
  deriving DecidableEq, Repr

/-- An instruction that has begun to wait (R95). -/
structure Wait where
  index : Nat
  kind : WaitKind
  detail : Word64 := 0#64
  since : Nat
  deriving DecidableEq, Repr

/-- A provisional event of a block, made final by its commit or withdrawn (26_nd_instructions.md R339). -/
inductive Prov where
  | window (obj : BitVec 32) (w : Win)
  | openRef (obj : BitVec 32) (region : Nat)
  | close (obj : BitVec 32) (region : Nat)
  | bind (key : Word64) (obj : Option (BitVec 32)) (region : Nat)
  | made (obj : BitVec 32) (region : Nat)
  /-- transactions with the context and the run that began them -/
  | txn (t : Nat) (p : Place) (run : Nat)
  | txnAdd (t : Nat) (p : Place) (run : Nat) (key h : Word64)
  | spawn (die slot : Nat) (raw : Vec)
  | inst (die n : Nat)
  | frame (f : Nat)
  | joined (id : BitVec 32)
  deriving DecidableEq, Repr

/-- An exit that has fired: its index, its exit number and its kind (R93, R103). -/
structure FiredExit where
  index : Nat
  num : Nat
  kind : ExitKind
  deriving DecidableEq, Repr

/-- A block in flight (R89, R93). -/
structure Run where
  /-- header words H0-H7 and the body -/
  words : List Word32 := []
  /-- decoded: its tokens may pass -/
  live : Bool := false
  /-- MODEL'S OWN: the cycle of its decode, by which late replies know their block -/
  serial : Nat := 0
  /-- the commit has begun; `rest` holds the counted operations still to be performed (R94, R164) -/
  committing : Bool := false
  rest : List Counted := []
  decodedAt : Nat := 0
  /-- issue counts at decode (R163, R197) -/
  issueAt : Tl := {}
  /-- tokens by target value: operand slots 0x00-0x5F, write entries 0x60-0x67 (R59) -/
  tokens : List (Nat × Token) := []
  /-- read entries that have delivered (R89) -/
  reads : List Nat := []
  /-- stream pops taken, by generator, one entry for each element (R87) -/
  pops : List Nat := []
  /-- instructions that have fired, with values or on a null -/
  fired : List Nat := []
  /-- instructions predicated off (R90) -/
  off : List Nat := []
  /-- loads fired whose value has not returned, by instruction index (R42) -/
  loading : List Nat := []
  counted : List Counted := []
  /-- exits fired (R93) -/
  exits : List FiredExit := []
  waits : List Wait := []
  /-- instructions that have asked a hub, by index, with what they do at commit (26_nd_instructions.md R339) -/
  asked : List (Nat × CommitOp) := []
  /-- provisional events, each with the index of its instruction -/
  provs : List (Nat × Prov) := []
  /-- its task is to end while it commits: the rest of the commit passes its fences and takes commands for a full engine as preempted
  (03_memory_model.md R42, 10_be_local_memory.md R164, 23_td_instructions.md R320) -/
  cut : Bool := false
  /-- write entries reserved for an atomic or `NTXC` (R161) -/
  reserved : List Nat := []
  deriving DecidableEq, Repr

/-- The states of a context (R84). -/
inductive Phase where
  | idle | running | draining | faulted | saved
  deriving DecidableEq, Repr

/-- Where a handler's run came from (R100, R229, R237). -/
structure Source where
  /-- mailbox and frame that fired it -/
  mb : Option (Nat × Nat) := none
  /-- started from a card of CLASS 0 (R237) -/
  inService : Bool := false
  deriving DecidableEq, Repr

/-- A handler start request (R100). -/
structure Start where
  code : Word64 := 0#64
  block : BitVec 32 := 0#32
  g0 : Word64 := 0#64
  g1 : Word64 := 0#64
  region : Nat := 0
  hops : Option Word64 := none
  src : Source := {}
  deriving DecidableEq, Repr

/-- A context's state (R83). -/
structure Ctx where
  phase : Phase := .idle
  super : Bool := false
  /-- runs as its region's trap handler (R355) -/
  trapRun : Bool := false
  /-- has committed no block since a debug release from its `BKPT` (R361) -/
  bkptSkip : Bool := false
  regs : List (Nat × Reg) := []
  /-- port g120+p is bound to this generator (R87) -/
  ports : List (Nat × Nat) := []
  /-- held return addresses, oldest first (R96) -/
  ras : List (BitVec 32) := []
  /-- spilled return addresses; RASDEPTH is held plus spilled (R97) -/
  spilled : Nat := 0
  rasptr : BitVec 24 := 0#24
  raslim : BitVec 24 := 0#24
  /-- ROUND, a mode 0-4 (R26) -/
  round : Nat := 0
  /-- SAT (R27) -/
  sat : Bool := true
  /-- generator state x (R28, R29) -/
  srseed : BitVec 32 := 1#32
  issue : Tl := {}
  done : Tl := {}
  /-- issue counts when the current run started: lower numbers are of ended runs (R179) -/
  base : Tl := {}
  /-- numbers completed beyond the contiguous prefix (R18) -/
  doneOut : List (Engine × Nat) := []
  recf : List RecFault := []
  tmoBlock : BitVec 32 := 0x100000#32
  tmoWait : BitVec 32 := 0x100000#32
  lastExit : BitVec 3 := 0#3
  hops : Word64 := 0#64
  faultRec : Word64 := 0#64
  /-- `TASK`, `GANG`, `AGSTAT0`-`AGSTAT7` and `FAULTREC` as of the context's last commit (R123) -/
  seen : List Word64 := []
  fctx : BitVec 3 := 0#3
  /-- the contexts whose faults this trap handler does not settle: for whose record with ENDED = 1 it was started, or into which a
  `CTXRS` has taken effect since (R356) -/
  fended : List (BitVec 3) := []
  fresume : BitVec 32 := 0#32
  code : Word64 := 0#64
  block : BitVec 32 := 0#32
  region : Nat := 0
  /-- tokens last delivered by read entries with RU = 1: code, block, entry, register, token (R98) -/
  reuse : List (Word64 × BitVec 32 × Nat × Nat × Token) := []
  run : Option Run := none
  /-- the KIND that the entry block must have, until it is decoded (R55) -/
  kind : Option (BitVec 2) := none
  /-- barriers committed (R107) -/
  barriers : Nat := 0
  /-- exit code of a committed `TEXIT` (R109) -/
  texit : Nat := 0
  /-- waiting at a barrier instance since a cycle (R107, R108) -/
  atBarrier : Option (Nat × Nat) := none
  /-- faults whose records are not yet written, oldest first (R353) -/
  pend : List FaultRec := []
  /-- the last fault while the context is FAULTED -/
  fault : Option FaultRec := none
  src : Source := {}
  /-- number of this handler's run, for window ownership (R48) -/
  runNo : Nat := 0
  /-- frozen by a protection violation (R368) -/
  frozen : Bool := false
  deriving DecidableEq, Repr

/-- A landing entry (R99). -/
structure Landing where
  bits : Vec := 0#2048
  tag : Tag := .empty
  full : Bool := false
  /-- it holds an uncorrectable word (01_machine.md R11) -/
  bad : Bool := false
  /-- the command whose transfer filled it: a `LAND` acquires its number (11_tensor_access.md R179, 18_msg_instructions.md R271) -/
  cmd : Option (Place × Engine × Nat) := none
  deriving DecidableEq, Repr

/-- A transfer waiting to fill a landing entry, and the number it completes (R99). -/
structure Fill where
  entry : Nat
  reg : Reg
  done : Option (Place × Engine × Nat) := none
  /-- a landing-mode card waiting: acknowledged when the entry is filled -/
  card : Option MeshCard := none
  deriving DecidableEq, Repr

/-- A translation: object, table index, table entry (R172). -/
structure Tr where
  obj : BitVec 32
  index : Nat
  entry : Word64
  deriving DecidableEq, Repr

/-- An address generator (R173). -/
structure Ag where
  bound : Bool := false
  owner : Nat := 0
  handle : Word64 := 0#64
  org : C4 := {}
  ext : C4 := {}
  rw : Bool := false
  sync : Bool := false
  ord : Nat := 0
  scope : Nat := 0
  tag : Tag := .empty
  pos : Nat := 0
  tr : Option Tr := none
  cause : Option Cause := none
  /-- elements read ahead, from `pos` on (R174) -/
  ahead : List Reg := []
  deriving DecidableEq, Repr

/-- A rectangle of tiles: origin, width and height in tiles (R290). -/
structure Rect where
  ox : Nat
  oy : Nat
  w : Nat
  h : Nat
  deriving DecidableEq, Repr

/-- A command in the copy queue (R179). -/
structure CopyEntry where
  ctx : Nat
  num : Nat
  cmd : CopyCmd
  super : Bool := false
  /-- owners under whose windows it reads and writes (R48) -/
  owners : List Owner
  /-- region of the issuing run -/
  region : Nat := 0
  /-- rectangle of the gang of the issuing tile's task (12_tae_instructions.md R194, R195) -/
  gang : Option Rect := none
  running : Bool := false
  /-- its transfer waits at a landing entry (R99) -/
  sent : Bool := false
  deriving DecidableEq, Repr

/-- What a home answers a tensor load: a register, or a refusal with its cause. -/
inductive Answer where
  | value (r : Reg)
  | refused (c : Cause) (index : Word64)
  deriving DecidableEq, Repr

/-- A tensor load in flight (R387): the instruction it serves, the elements it reads, the format of
its result, its translation still to be walked, the value once its home has replied. -/
structure TReq where
  ctx : Nat
  serial : Nat
  index : Nat
  ag : Nat
  h : Word64
  els : List C4
  /-- bits of one element -/
  size : Nat
  /-- format of a scalar result, or none for a register of the generator's tag -/
  scalar : Option Nat
  tag : Tag
  target : BitVec 7
  lsid : Nat
  /-- walked through the edge TLB (offset forms, R172) -/
  tlb : Bool := false
  /-- tile-table entries found so far, by index (R172) -/
  entries : List (Nat × Word64) := []
  value : Option Answer := none
  deriving DecidableEq, Repr

/-- An accumulator (R201). -/
structure Acc where
  elems : List (Nat × BitVec 32) := []
  int : Bool := false
  atag : Nat := 0
  nseq : Nat := 0
  deriving DecidableEq, Repr

/-- A latch: FREE, FULL or reserved for an incoming play (R203, R206). -/
inductive LatchState where
  | free | full | reserved
  deriving DecidableEq, Repr

/-- A latch's data and header (R203). -/
structure Latch where
  st : LatchState := .free
  data : List Byte := []
  hw0 : Word64 := 0#64
  /-- it holds an uncorrectable word (14_me_instructions.md R215) -/
  bad : Bool := false
  deriving DecidableEq, Repr

/-- An entry of the matching store (R207). -/
structure MeEntry where
  ctx : Nat
  num : Nat
  cmd : MeCmd
  /-- place in the order of issue across the tile's contexts (R207) -/
  stamp : Nat := 0
  /-- a play: it has asked, and the seat's tile and latch that it was granted (R206) -/
  asked : Bool := false
  granted : Option (Nat × Nat) := none
  /-- a play: the number of the seat that its tile held when its latch was granted, or when it started: its SRCSEAT (14_me_instructions.md R220) -/
  seat : Option Nat := none
  /-- the bytes it read from the local store and from its latches when it started (R213) -/
  loaded : List Byte := []
  latched : List Byte := []
  deriving DecidableEq, Repr

/-- The seat register (R205). -/
structure Seat where
  v : Bool := false
  seat : Nat := 0
  seats : Nat := 0
  next : Nat := 0
  prev : Nat := 0
  code : Word64 := 0#64
  off : BitVec 32 := 0#32
  deriving DecidableEq, Repr

/-- A play on its way to this tile: the latch it fills, its data and header, its sender (R206). -/
structure Play where
  latch : Nat
  data : List Byte
  hw0 : Word64
  /-- the latch it was read from held an uncorrectable word -/
  bad : Bool := false
  src : Place
  num : Nat
  /-- cards that have arrived -/
  sent : Nat := 0
  /-- cycle in which the last card entered the mesh -/
  entry : Nat := 0
  deriving DecidableEq, Repr

/-- The matrix engine (R201). -/
structure Me where
  accs : List (Nat × Acc) := []
  latches : List (Nat × Latch) := []
  mg : List (Nat × (Word64 × Word64)) := []
  store : List MeEntry := []
  running : Option MeEntry := none
  seat : Seat := {}
  /-- requests for a latch of this tile: asking tile and entry's number -/
  asks : List (Nat × Nat × Nat) := []
  plays : List Play := []
  deriving DecidableEq, Repr

/-- A mailbox: its twelve configuration words and what the card unit keeps of it (R227). -/
structure Mbx where
  words : BitVec 768 := 0#768
  wr : Nat := 0
  rd : Nat := 0
  cons : List (Nat × Nat) := []
  /-- CONS last returned to each sender, and since when a growth is unreturned (R233) -/
  returned : List (Nat × Nat) := []
  grownAt : List (Nat × Nat) := []
  /-- exchange records taken (R249) -/
  rcount : Nat := 0
  /-- a handler it started is queued or running (R232) -/
  busy : Bool := false
  /-- HOPS of the cards in the ring, by the slot of their headers -/
  hops : List (Nat × Word64) := []
  deriving DecidableEq, Repr

/-- A presence record (R229). -/
structure Pres where
  present : BitVec 16 := 0#16
  fired : Bool := false
  fof : Bool := false
  /-- reserved by a `REQ` (R237), or for a block not yet committed (R274) -/
  reserved : Bool := false
  filled : Bool := false
  deriving DecidableEq, Repr

/-- An allowance record of a sender (R233). -/
structure Allow where
  v : Bool := false
  dw : Word64 := 0#64
  alw : Nat := 0
  sent : Nat := 0
  c : Nat := 0
  blockedSince : Option Nat := none
  deriving DecidableEq, Repr

/-- A trap start (R354): the faulted context and whether its run had already ended. -/
structure TrapStart where
  ctx : Nat
  rec_ : FaultRec
  deriving DecidableEq, Repr

/-- A tile (01_machine.md R11). -/
structure Tile where
  ctxs : List (Nat × Ctx) := []
  /-- the task that runs or is placed here: its ID -/
  task : Option (BitVec 32) := none
  /-- that task has started here and runs (R292) -/
  runs : Bool := false
  /-- owning region (R100) -/
  region : Nat := 0
  gang : Word64 := 0#64
  landing : List (Nat × Landing) := []
  fills : List Fill := []
  ags : List (Nat × Ag) := []
  cgs : List (Nat × BitVec 512) := []
  tlb : List Tr := []
  /-- 32-byte pieces of code objects, by handle and number, whose copies in the instruction cache hold an uncorrectable error (R88) -/
  icache : List (Word64 × Nat) := []
  copyQ : List CopyEntry := []
  copyFrozen : Bool := false
  reqs : List TReq := []
  me : Me := {}
  mbx : List (Nat × Mbx) := []
  pres : List (Nat × Pres) := []
  alw : List (Nat × Allow) := []
  mse : List MseEntry := []
  startQ : List Start := []
  trapQ : List TrapStart := []
  /-- its cards are held after a hang (R309) -/
  held : Bool := false
  /-- saved, and no task holds it (R236) -/
  savedFlag : Bool := false
  /-- waiting opens of a full slice, presented again (R330): context, block serial, index, key, waits, since -/
  represent : List (Nat × Nat × Nat × Word64 × Bool × Nat) := []
  deriving DecidableEq, Repr

/-- What a graph-memory slot holds (R287). -/
inductive SlotKind where
  | free | task | join | succ
  deriving DecidableEq, Repr

/-- A placement whose windows have been sent: the cycle in which they were, replies still to come, windows granted
(03_memory_model.md R50, R51). -/
structure Asking where
  serial : Nat
  left : Nat
  granted : List (BitVec 32 × Win) := []
  deriving DecidableEq, Repr

/-- An end of a task that waits for the commits in progress on its tiles (10_be_local_memory.md R164, 23_td_instructions.md R320). -/
structure Ending where
  /-- STATE, CAUSE and EXIT with which it ends -/
  st : Nat
  cause : Nat
  exit : Nat
  /-- the end passes on to its successors -/
  sub : Bool
  deriving DecidableEq, Repr

/-- The scope of a ladder (R305). -/
inductive Scope where
  | queue (fn q : Nat)
  | region (r : Nat)
  /-- of a ladder that another queue's has replaced on its scope: kept for its queue's status word (R308) -/
  | gone
  deriving DecidableEq, Repr

/-- A graph-memory slot: its 256 bytes, and what the dispatcher keeps of it (R288-R294). -/
structure Slot where
  kind : SlotKind := .free
  /-- region to whose budget it is charged -/
  region : Nat := 0
  raw : Vec := 0#2048
  armedAt : Nat := 0
  rect : Option Rect := none
  /-- restricted to its recorded rectangle, its state restored at start (R292) -/
  restoring : Bool := false
  /-- instance it belongs to, as (die, number), or none for a `TSPAWN` (R294) -/
  inst : Option (Nat × Nat) := none
  /-- ranks that have reported their part done, with their exit codes -/
  reported : List (Nat × Nat) := []
  /-- images still to be staged: operand indices (R298) -/
  staging : List Nat := []
  /-- handles it holds references on -/
  refs : List Word64 := []
  /-- host queue whose LAUNCH made it (R305) -/
  queue : Option (Nat × Nat) := none
  /-- at the save rung since this cycle, engines quiescing (R307) -/
  saving : Option Nat := none
  /-- who has it saved: the scopes of ladders, and none for a reservation (R306) -/
  savers : List (Option Scope) := []
  /-- ARMED with a rectangle held, its windows sent to their homes (03_memory_model.md R50, R51) -/
  asking : Option Asking := none
  /-- decrements of its end that have not yet been applied (R294) -/
  owing : Nat := 0
  /-- its end, once the commits in progress on its tiles have ended (23_td_instructions.md R320) -/
  ending : Option Ending := none
  deriving DecidableEq, Repr

/-- A task's save image: each live tile with its local bytes by address, the windows of the task, and the part of the save area that it
takes: the area's handle, offset and length (R307, 12_tae_instructions.md R199). -/
structure Saved where
  slot : Nat
  tiles : List (Nat × Tile × List (Nat × List Byte))
  wins : List (BitVec 32 × Win) := []
  area : Word64 := 0#64
  off : Nat := 0
  len : Nat := 0
  deriving DecidableEq, Repr

/-- An instance (R294). -/
structure Inst where
  n : Nat
  region : Nat
  /-- template, rename table, runs of slots for successor lists by die: first slot and length -/
  tmpl : BitVec 32 := 0#32
  table : List Word64 := []
  runs : List (Nat × Nat × Nat) := []
  queue : Option (Nat × Nat) := none
  /-- records and joins as (die, slot) -/
  tasks : List (Nat × Nat)
  joins : List (Nat × Nat)
  succs : List (Nat × Nat)
  /-- every record as made, by task index (R303) -/
  order : List (Nat × Nat) := []
  /-- slots of joins whose `TJOIN` has returned -/
  joined : List Nat := []
  refs : List Word64 := []
  live : Bool := false
  deriving DecidableEq, Repr

/-- A decrement or kill on its way to a record (R300, R302, R315, R320). -/
structure Dec where
  target : BitVec 32
  n : Nat
  source : BitVec 32
  region : Nat
  /-- sent by the end of its source, not by a `TDEC` -/
  final : Bool := false
  deriving DecidableEq, Repr

/-- A kill: whether it passes on to successors, and whether it is a policy kill, which only WAITING
and ARMED records take (R302, R320). -/
structure Kill where
  target : BitVec 32
  sub : Bool
  policy : Bool
  deriving DecidableEq, Repr

/-- A merged staging read: its window and the operand declarations it serves (R298). -/
structure Merge where
  h : Word64
  org : C4
  ext : C4
  opened : Nat
  users : List (Nat × Nat)
  deriving DecidableEq, Repr

/-- A host's `KICK` held in the hub: its tile, its start request, its command (06_block_engine.md R101,
29_host_firmware.md R379). -/
structure Kick where
  tile : Nat
  start : Start
  host : Nat × Nat × Nat
  deriving DecidableEq, Repr

/-- The Task Dispatcher of a hub (R287-R311). -/
structure Td where
  slots : List (Nat × Slot) := []
  /-- slots whose 256 bytes of graph memory hold an uncorrectable word (01_machine.md R11) -/
  bad : List Nat := []
  insts : List Inst := []
  nextInst : Nat := 0
  decs : List Dec := []
  kills : List Kill := []
  /-- slot that holds the die's reservation, and its rectangle (R299) -/
  reservation : Option (Nat × Rect) := none
  merges : List Merge := []
  /-- barrier arrivals: task slot, instance, ranks arrived (R107) -/
  barriers : List (Nat × Nat × List Nat) := []
  /-- arrivals on their way to the dispatcher: slot, instance, rank -/
  arrivals : List (Nat × Nat × Nat) := []
  saved : List Saved := []
  /-- pipeline channels of an instance: instance, channel records (R303) -/
  chans : List (Nat × List (BitVec 192)) := []
  /-- last cycle in which a region made progress on this die (R309) -/
  progress : List (Nat × Nat) := []
  /-- host commands `KICK` not yet queued at their tile -/
  kicks : List Kick := []
  /-- answers of homes to the windows of placements: slot, serial, object, window, granted -/
  grants : List (Nat × Nat × BitVec 32 × Win × Bool) := []
  deriving DecidableEq, Repr

/-- The states of a name entry (R325). -/
inductive NState where
  | unbound | bound | prepared
  deriving DecidableEq, Repr

/-- An open waiting at a name's home (R330). -/
structure Opener where
  place : Place
  serial : Nat
  index : Nat
  region : Nat
  wait : Bool
  since : Nat
  deriving DecidableEq, Repr

/-- A bind or unbind, to be applied at a name's home (R329, R343). -/
structure Bind where
  key : Word64
  /-- object bound, or none to unbind -/
  obj : Option (BitVec 32)
  region : Nat
  stamp : Nat := 0
  /-- host command it completes -/
  host : Option (Nat × Nat × Nat) := none
  deriving DecidableEq, Repr

/-- A name entry (R325). -/
structure Name where
  key : Word64
  state : NState := .unbound
  gen : Nat := 0
  obj : BitVec 32 := 0#32
  txn : BitVec 32 := 0#32
  newobj : BitVec 32 := 0#32
  region : Nat := 0
  /-- state before the prepare, and since when it is PREPARED -/
  before : NState := .unbound
  since : Nat := 0
  /-- region of the transaction that holds it, and whether TXN_INDOUBT has been posted (R334) -/
  newRegion : Nat := 0
  doubt : Bool := false
  waiters : List Opener := []
  held : List Bind := []
  /-- binds answered and not yet applied or withdrawn, for which the entry is kept (26_nd_instructions.md R343) -/
  claims : Nat := 0
  deriving DecidableEq, Repr

/-- An object of a home's object table (R166, R326-R328). -/
structure Obj where
  live : Bool := false
  inc : Nat := 0
  desc : BitVec 512 := 0#512
  region : Nat := 0
  table : List (Nat × Word64) := []
  /-- reference count (R327) -/
  refs : Nat := 0
  /-- open counts by region -/
  opens : List (Nat × Nat) := []
  /-- source of a snapshot -/
  source : Option (BitVec 32) := none
  wins : List Win := []
  deriving DecidableEq, Repr

/-- The phases of a transaction (R332, R333). -/
inductive TxnPhase where
  | collecting | preparing | committed | aborted
  deriving DecidableEq, Repr

/-- A transaction at its coordinator. -/
structure Txn where
  id : Nat
  owner : Place
  region : Nat
  runNo : Nat := 0
  phase : TxnPhase := .collecting
  /-- key, and handle bits or 0 to unbind -/
  entries : List (Word64 × Word64) := []
  /-- keys of entries of blocks not yet committed (26_nd_instructions.md R339) -/
  asked : List Word64 := []
  /-- homes that have not yet voted; that have not yet acknowledged -/
  votes : List Nat := []
  acks : List Nat := []
  sentAt : Nat := 0
  decidedAt : Nat := 0
  /-- outcome code that the decision gives, the outcome once known, and whether it has been taken -/
  code : Nat := 0
  outcome : Option Nat := none
  taken : Bool := false
  /-- host command it serves -/
  host : Option (Nat × Nat × Nat) := none
  deriving DecidableEq, Repr

/-- A prepare that reaches a home (R333). -/
structure Prepare where
  coord : Nat
  txn : BitVec 32
  entries : List (Word64 × Word64)
  region : Nat
  stamp : Nat := 0
  deriving DecidableEq, Repr

/-- A home's question to a coordinator about a transaction in doubt: its ID, the home, the name's key (R334). -/
structure Inquiry where
  txn : BitVec 32
  home : Nat
  key : Word64
  deriving DecidableEq, Repr

/-- A decision on its way to a home (R333). -/
structure Decision where
  txn : BitVec 32
  coord : Nat
  commit : Bool
  stamp : Nat := 0
  deriving DecidableEq, Repr

/-- What a context asks of a hub (R188, R314, R339, R360). -/
inductive ReqKind where
  | window (ag : Nat) (h : Word64) (w : Win)
  | opn (key : Word64) (wait : Bool)
  | snap (h : Word64)
  | svc (n v : Word64)
  /-- a window of a placement: the slot of its task, the cycle of its sending, the object (R51) -/
  | place (slot serial : Nat) (obj : BitVec 32) (w : Win)
  | stat (slot sel : Nat)
  | spawn (raw : Vec)
  | close (h : Word64)
  | bind (key : Word64) (h : Option Word64)
  | query (sel : Nat) (x : Word64)
  deriving DecidableEq, Repr

/-- A request on its way to a hub. -/
structure Req where
  place : Place
  serial : Nat
  index : Nat
  region : Nat
  kind : ReqKind
  since : Nat
  /-- place in the order of arrival at its home (25_name_directory.md R329) -/
  stamp : Nat := 0
  /-- host command that made it, instead of a context (MAKEOBJ, SNAPSHOT, copies, R379) -/
  host : Option (Nat × Nat × Nat) := none
  deriving DecidableEq, Repr

/-- What a hub answers: the tokens of a result and of a status, or a fault's cause. -/
inductive Result where
  | tokens (t : Token) (u : Option Token)
  | refused (c : Cause)
  deriving DecidableEq, Repr

/-- A hub's answer: the tokens of a result and of a status, or a refusal, or a timeout of an open,
and the provisional event behind it (R339). -/
structure Reply where
  place : Place
  serial : Nat
  index : Nat
  result : Result
  prov : Option Prov := none
  deriving DecidableEq, Repr

/-- A confirmation or withdrawal on its way to a hub (R339). -/
structure Conf where
  prov : Prov
  deriving DecidableEq, Repr

/-- The Name Directory slice of a hub. -/
structure Nd where
  names : List Name := []
  objs : List (Nat × Obj) := []
  txns : List Txn := []
  opens : List Req := []
  windows : List Req := []
  snaps : List Req := []
  replies : List Reply := []
  /-- requests that have come from other dies and are served at once (26_nd_instructions.md R339) -/
  asks : List Req := []
  binds : List Bind := []
  confirms : List Conf := []
  withdraws : List Conf := []
  prepares : List Prepare := []
  /-- votes on their way to this coordinator: transaction index, home, yes, cause code of R333 when no -/
  voteIn : List (Nat × Nat × Bool × Nat) := []
  decisions : List Decision := []
  /-- stamp of the next open, bind, prepare or decision that arrives (R329) -/
  arrived : Nat := 0
  /-- acknowledgements on their way to this coordinator: transaction index, home -/
  ackIn : List (Nat × Nat) := []
  /-- questions of homes in doubt that this coordinator has not yet answered (R334) -/
  inquiries : List Inquiry := []
  deriving DecidableEq, Repr

/-- A destination of the exchange unit (R247). -/
structure XDest where
  dest : Word64 := 0#64
  w1 : Word64 := 0#64
  sent : Nat := 0
  overflowed : Nat := 0
  dropped : Nat := 0
  list : List XRec := []
  deriving DecidableEq, Repr

/-- A flush sent and not yet answered (R249). -/
structure Flush where
  n : Nat
  dest : Nat
  recs : List XRec
  deriving DecidableEq, Repr

/-- A flush that reaches its receiving exchange unit. -/
structure FlushIn where
  src : Nat
  n : Nat
  /-- receive buffer: tile and mailbox; record size; the records -/
  dest : Word64
  size : Nat
  recs : List XRec
  deriving DecidableEq, Repr

/-- A dropped record on its way to an overflow mailbox: its destination word, its size, the die of its
home (R250). -/
structure XOvf where
  dest : Word64
  rec_ : XRec
  size : Nat
  src : Nat
  deriving DecidableEq, Repr

/-- A `.xchg` configuration on its way: its tile, context and number, the selector and the bytes (R278). -/
structure XConf where
  place : Place
  num : Nat
  sel : Nat
  bytes : List Byte
  deriving DecidableEq, Repr

/-- An `XFLUSH` that waits for the fates of records: the lists it names, the address of its counters, the
records awaited (R282). -/
structure XWait where
  place : Place
  num : Nat
  lists : Word64
  addr : Nat
  await : List (Place × Nat)
  deriving DecidableEq, Repr

/-- The exchange unit of a hub (R247-R250, R389). -/
structure Xu where
  dests : List (Nat × XDest) := []
  ovf : Word64 := 0#64
  ovfV : Bool := false
  flushes : List Flush := []
  nextFlush : Nat := 0
  flushIn : List FlushIn := []
  /-- answers: flush number, refused records -/
  returns : List (Nat × List XRec) := []
  /-- dropped records on their way to an overflow mailbox -/
  overflow : List XOvf := []
  /-- `.xchg` configurations on their way -/
  configs : List XConf := []
  /-- records dropped here that have not reached the overflow mailbox (R389), with their ST from before -/
  dropping : List XRec := []
  /-- `XFLUSH` commands waiting for fates -/
  xflush : List XWait := []
  deriving DecidableEq, Repr

/-- Link control messages (R263-R265). -/
inductive Link where
  | ack (h : Nat)
  | repair (seq : Nat) (present : BitVec 24)
  | busy (seq : Nat)
  | giveup (seq : Nat)
  deriving DecidableEq, Repr

/-- What a message carries (17_erasure_coding.md R253). -/
inductive Body where
  | card (c : Card)
  | flush (f : FlushIn)
  | xreturn (n : Nat) (recs : List XRec)
  | xoverflow (dest : Word64) (r : XRec) (size : Nat)
  | dec (d : Dec)
  | kill (k : Kill)
  /-- allowance return: tile, allowance record's destination, CONS -/
  | allow (tile : Nat) (src : Word64) (cons : Nat)
  /-- refresh request: tile, mailbox, sender's module, die, tile -/
  | refresh (tile mb : Nat) (sender : Word64)
  | openReq (r : Req)
  | windowReq (r : Req)
  | snapReq (r : Req)
  | ask (r : Req)
  /-- a home's answer to a window of a placement (03_memory_model.md R51) -/
  | granted (slot serial : Nat) (obj : BitVec 32) (w : Win) (ok : Bool)
  | reply (r : Reply)
  | bind (b : Bind)
  | confirm (c : Conf)
  | withdraw (c : Conf)
  | prepare (p : Prepare)
  | vote (t home : Nat) (yes : Bool) (code : Nat)
  | decision (t : BitVec 32) (coord : Nat) (commit : Bool)
  | decisionAck (t home : Nat)
  | inquiry (q : Inquiry)
  | joinUpdate (target : BitVec 32) (how : Nat) (task : BitVec 32) (cause exit : Nat)
  /-- a heartbeat of a die controller; the news that a panel link is down; a debug halt of the sending die begins or ends (22_task_dispatcher.md R311) -/
  | beat (src : Nat)
  | news (src link : Nat)
  | halt (src : Nat) (on : Bool) (regions : List Nat)
  /-- link control, about messages of a class -/
  | link (cls : Nat) (b : Link)
  deriving DecidableEq, Repr

/-- A message (R253, R261). -/
structure Msg where
  src : Nat
  dst : Nat
  cls : Nat
  ordered : Bool
  mtype : Nat
  seq : Nat := 0
  body : Body
  bytes : List Byte := []
  /-- destination word and source word of its fragments (R254) -/
  dest : Word64 := 0#64
  srcw : Word64 := 0#64
  deriving DecidableEq, Repr

/-- A fragment in flight (R254, R256). -/
structure Frag where
  msg : Msg
  k : Nat
  idx : Nat
  chord : Nat
  payload : List Byte
  /-- the reserved bits 13:11 of header word 2, and header word 3 with FCRC -/
  rsv : BitVec 3 := 0#3
  w3 : Word64 := 0#64
  deriving DecidableEq, Repr

/-- A write on its way from a station of this module into another module's meld aperture: plane, module, offset in the aperture, data
(R255, 16_message_engine.md R245, R246). -/
structure PodWrite where
  plane : Nat
  module_ : Nat
  off : Nat
  data : List Byte
  deriving DecidableEq, Repr

/-- A message the source retains (R263, R264). -/
structure Ret where
  msg : Msg
  k : Nat
  /-- fragments sent, parity fragments sent, attempts made -/
  sent : Nat
  parity : Nat
  attempts : Nat := 0
  /-- parity count, `MELD_TIMEOUT` and REPAIR_LIMIT as they stood when it was sent (R257) -/
  par : Nat
  tmo : Nat
  limit : Nat
  timer : Nat
  resendAt : Option Nat := none
  /-- chord or plane on which each index was last sent -/
  used : List (Nat × Nat) := []
  deriving DecidableEq, Repr

/-- A meld buffer (R259). -/
structure Meld where
  msg : Msg
  k : Nat
  frags : List (Nat × List Byte)
  opened : Nat
  /-- `MELD_TIMEOUT` and REPAIR_LIMIT as they stood when it opened (R257) -/
  tmo : Nat
  limit : Nat
  repairs : Nat := 0
  /-- decoded and held until its turn (R262) -/
  ready : Bool := false
  deriving DecidableEq, Repr

/-- A completed-ID filter (R261). -/
structure Filter where
  src : Nat
  cls : Nat
  h : Nat := 0
  marked : List Nat := []
  done : List Nat := []
  /-- H last acknowledged, and since when a growth is not (R263) -/
  acked : Nat := 0
  grownAt : Option Nat := none
  deriving DecidableEq, Repr

/-- The counters of a fabric interface (R266). -/
structure Counters where
  lateFrag : BitVec 32 := 0#32
  fragBad : BitVec 32 := 0#32
  decodes : BitVec 32 := 0#32
  repairs : BitVec 32 := 0#32
  attempts : BitVec 32 := 0#32
  givenup : BitVec 32 := 0#32
  busys : BitVec 32 := 0#32
  deriving DecidableEq, Repr

/-- A chord (R242): its validity, its availability, its links. -/
structure Chord where
  valid : Bool := false
  up : Bool := true
  links : List Nat := []
  deriving DecidableEq, Repr

/-- The fabric interface of a hub (R253-R266). -/
structure Fab where
  /-- (M_PER16, M_BASE) of CODERATE0-7 where written (R257) -/
  coderate : List (Nat × (Nat × Nat)) := []
  tmoPod : Nat := 0x3D090
  tmoPanel : Nat := 0x61A8
  repairLimit : Nat := 2
  counters : Counters := {}
  /-- last SEQ for each (destination, class) -/
  seqs : List (Nat × Nat × Nat) := []
  outbox : List Msg := []
  retained : List Ret := []
  melds : List Meld := []
  filters : List Filter := []
  /-- delivered messages with which the destination has finished: source, class, sequence -/
  finishing : List (Nat × Nat × Nat) := []
  /-- link control messages acted on: source, class, cycle, body (R263) -/
  acted : List (Nat × Nat × Nat × Link) := []
  chords : List (Nat × Chord) := []
  deriving DecidableEq, Repr

/-- A die controller: the registers and the pc of its RV32IMC core, its tightly coupled memory, and the firmware that the loader has copied to it
(01_machine.md R11, 29_host_firmware.md R371). What its core does is the events that the spec gives firmware. -/
structure Controller where
  regs : List (Nat × BitVec 32) := []
  pc : BitVec 32 := 0#32
  tcm : List (Nat × Byte) := []
  firmware : List Byte := []
  deriving DecidableEq, Repr

/-- A debug halt that a die knows of: the die halted, the cycle from which it freezes counts here, the regions that had a task on that die when it
began (22_task_dispatcher.md R311). -/
structure HaltNote where
  die : Nat
  since : Nat
  regions : List Nat
  deriving DecidableEq, Repr

/-- A die of the panel with its hub (01_machine.md R11). -/
structure Die where
  live : Bool := true
  /-- dispatch stopped by a group without quorum (R252) -/
  stopped : Bool := false
  /-- the cycle in which it was stopped -/
  stoppedAt : Nat := 0
  /-- in debug halt since (R311) -/
  halt : Option Nat := none
  /-- debug halts that the die knows of, its own among them (22_task_dispatcher.md R311) -/
  halts : List HaltNote := []
  dbgen : Bool := false
  defects : List Nat := []
  td : Td := {}
  nd : Nd := {}
  xu : Xu := {}
  fab : Fab := {}
  mesh : List MeshCard := []
  /-- acknowledgements on their way: tile, context, number, fault -/
  acks : List (Nat × Nat × Nat × Option Cause) := []
  /-- allowance returns arriving: tile, destination word of the record, CONS -/
  allowIn : List (Nat × Word64 × Nat) := []
  /-- refresh requests arriving: tile, mailbox, sender -/
  refreshIn : List (Nat × Nat × Word64) := []
  /-- deals issued and not yet run: tile and entry -/
  deals : List (Nat × CopyEntry) := []
  /-- machine checks reported to the die controller and not yet served: tiles (28_traps_preemption.md R355) -/
  checks : List Nat := []
  tableCache : List Tr := []
  /-- router overrides: (router, destination) -/
  routers : List ((Nat × Nat) × Port) := []
  /-- heartbeats: dies heard from since the last round, and rounds missed (R251) -/
  heard : List Nat := []
  missed : List (Nat × Nat) := []
  /-- cycle of the last round of heartbeats; heartbeats on their way here -/
  beat : Nat := 0
  beatIn : List Nat := []
  /-- links declared down whose news has not yet reached this die (R244) -/
  news : List Nat := []
  ctl : Controller := {}
  /-- uncorrectable errors that its tiles' accesses and commands have met (29_host_firmware.md R382) -/
  errors : Nat := 0
  /-- the die controller's copy of an image read during a debug halt (R368) -/
  image : List Byte := []
  deriving DecidableEq, Repr

/-- The state of a host queue (R374). -/
inductive QState where
  | off | running | error
  deriving DecidableEq, Repr

/-- A host queue's registers (R374). -/
structure Queue where
  rbase : Word64 := 0#64
  cbase : Word64 := 0#64
  cdone : BitVec 32 := 0#32
  tail : BitVec 32 := 0#32
  lastAcc : BitVec 32 := 0#32
  lastComp : BitVec 32 := 0#32
  expect : BitVec 32 := 1#32
  state : QState := .off
  err : Nat := 0
  en : Bool := false
  region : Nat := 0
  deriving DecidableEq, Repr

/-- The progress of an accepted command (R377). -/
inductive CmdPhase where
  | accepted | started | completed
  deriving DecidableEq, Repr

/-- An accepted host command (R375, R377). -/
structure HostCmd where
  fn : Nat
  q : Nat
  seq : BitVec 32
  kind : Nat
  flags : Nat
  args : List Word64
  phase : CmdPhase := .accepted
  status : Nat := 0
  w1 : Word64 := 0#64
  w2 : Word64 := 0#64
  /-- object it has made, or the join it waits for -/
  obj : Option (BitVec 32) := none
  join : Option (BitVec 32) := none
  deriving DecidableEq, Repr

/-- A pre-emption ladder (R305-R308). -/
structure Ladder where
  scope : Scope
  region : Nat
  /-- queue whose command began it, which shows it in its status word -/
  queue : Nat × Nat
  rung : Nat := 1
  /-- PHASE: 0 idle, 1 in progress, 2 complete, 3 resumed -/
  phase : Nat := 1
  /-- cycle in which its rung began; T1, T2 and SAVE as read at its start (R297) -/
  started : Nat := 0
  t1 : Nat := 0
  t2 : Nat := 0
  save : Word64 := 0#64
  susp : Nat := 0
  killed : Nat := 0
  run : Nat := 0
  deriving DecidableEq, Repr

/-- The state of a panel link (R244). -/
inductive LinkState where
  | up
  | retraining (since : Nat)
  | down
  deriving DecidableEq, Repr

/-- An allocated frame: stack, number and size in 64 KiB units, share count, region of its pool (R171, R176). -/
structure Frame where
  stack : Nat
  no : Nat
  units : Nat
  share : Nat
  region : Nat
  deriving DecidableEq, Repr

/-- A frame copy in progress: object, table index, new frame (R176). -/
structure Cow where
  obj : BitVec 32
  index : Nat
  frame : Frame
  /-- incarnation of the object's entry -/
  inc : Nat := 0
  deriving DecidableEq, Repr

/-- A frozen master (R368). -/
inductive Master where
  | context (p : Place)
  | copyQueue (die tile : Nat)
  | function (fn : Nat)
  | peer (ident : Nat)
  deriving DecidableEq, Repr

/-- A frozen master with its held requests. -/
structure Frozen where
  who : Master
  held : List Word64
  deriving DecidableEq, Repr

/-- The boot sequence (R371). -/
inductive BootStep where
  /-- waiting for an image in the boot window -/
  | waiting
  /-- an image failed its check at the given step -/
  | failed (step : Nat)
  | ready
  deriving DecidableEq, Repr

/-- The boot window and what the loader keeps: the image as the host has written it into the loader's partner stack, at an address that R371 does not
state, and what is read of it (R370, R371). -/
structure Boot where
  step : BootStep := .waiting
  image : List (Nat × Byte) := []
  svn : BitVec 32 := 0#32
  digest : BitVec 256 := 0#256
  /-- panel links that were not up when firmware started (R372) -/
  failed : List Nat := []
  deriving DecidableEq, Repr

/-- A life-log epoch: power-on seconds, SVN, and counts by counter index (R382). -/
structure Epoch where
  seconds : Nat
  svn : BitVec 32
  counts : List (Nat × Nat)
  /-- histograms, each of eight bins of 16 bits -/
  hists : List (Nat × List Nat) := []
  deriving DecidableEq, Repr

/-- One scheduled move: which agent moves next. -/
inductive Move where
  /-- the context's instruction of that index fires -/
  | fire (p : Place) (index : Nat)
  /-- an event of the opcode table takes place, there, upon the pending item of that index -/
  | event (e : Instr) (p : Place) (index : Nat)
  /-- so many cycles pass -/
  | wait (n : Nat)
  deriving DecidableEq, Repr

/-- The state of the module. -/
structure State where
  /-- cycles since the module's reset was released (R12) -/
  cycle : Nat := 0
  /-- MODEL'S OWN: the moves to come, in order -/
  agenda : List Move := []
  /-- MODEL'S OWN: where the next move takes place: the context whose instruction fires and the
  instruction's index, or the place of an event and the number of the item it concerns -/
  focus : Place := {}
  index : Nat := 0
  /-- MODEL'S OWN: free values and free choices drawn so far -/
  freeCtr : Nat := 0
  mem : List Host.Cell := []
  /-- 8-byte words, by memory key / 8, that hold an uncorrectable error (R155) -/
  bad : List Nat := []
  tiles : List (Nat × Tile) := []
  dies : List (Nat × Die) := []
  regions : List (Nat × BitVec 1024) := []
  /-- effective values of a region's block as last read (22_task_dispatcher.md R295, R297) -/
  readings : List (Nat × BitVec 1024) := []
  frames : List Frame := []
  cow : List Cow := []
  links : List (Nat × LinkState) := []
  /-- fragments on the panel and the pod (R254) -/
  frags : List Frag := []
  /-- writes into the apertures of other modules -/
  podOut : List PodWrite := []
  /-- fragments of the pod whose destination die is not yet known (17_erasure_coding.md R255) -/
  podIn : List Frag := []
  /-- link control messages received and not yet acted on: source, destination, class, body (R263) -/
  linkMsgs : List (Nat × Nat × Nat × Link) := []
  keys : List (Nat × (BitVec 128 × BitVec 128)) := []
  boot : Boot := {}
  queues : List ((Nat × Nat) × Queue) := []
  cmds : List HostCmd := []
  /-- raised MSI-X vectors: function, vector: a queue's number, or 8 for events (R369, R378) -/
  msix : List (Nat × Nat) := []
  /-- the last answer over the DOE of each PCI Express link's function 0 (R369, R372) -/
  doe : List (Nat × List Byte) := []
  /-- the PCI Express links that are trained and live: 0 West, 1 East (R371, R373) -/
  hostLinks : List Nat := [0, 1]
  ladders : List Ladder := []
  presiding : Option Nat := none
  /-- last agreed membership (R251) -/
  members : List Nat := []
  lifeLog : List Epoch := []
  /-- life-log counters since the last epoch -/
  counts : List (Nat × Nat) := []
  /-- life-log histograms since the last epoch, and the cycle of that epoch (R382) -/
  hists : List (Nat × List Nat) := []
  lastEpoch : Nat := 0
  /-- hardware counters as the last epoch copied them, by die and counter index (29_host_firmware.md R382) -/
  epochBase : List ((Nat × Nat) × Nat) := []
  throttle : Nat := 0
  /-- the cycle from which the readings have been below the threshold of the current throttle step (R384) -/
  coolSince : Option Nat := none
  /-- the latest reading of power and temperature (R384) -/
  reading : Option Reading := none
  frozen : List Frozen := []
  /-- UALink requester identities bound to modules (R255), the aperture base (R245) -/
  requesters : List (Nat × Nat) := []
  aperture : Word64 := 0#64
  moduleId : Nat := 0
  deriving DecidableEq, Repr

/-- The reasons for which the machine stops. -/
inductive Fault where
  /-- raised by `step` alone, when `focus` or the agenda names a die, tile or context that the panel
  does not have (01_machine.md R7, R11). SAFE: the machine has no such place. -/
  | noSuchPlace (p : Place)
  deriving DecidableEq, Repr

/-- The reasons for which an instruction has no meaning. -/
inductive Refusal where
  /-- raised by an arm of `exec` whose instruction has no meaning yet. SAFE: nothing is said of it. -/
  | notModelled (mnemonic : String)
  /-- raised by `step` alone, for an event of the agenda whose operands name no part of the machine
  (`Instr.wf`). SAFE: no such event can take place. -/
  | illFormed (e : Instr)
  deriving DecidableEq, Repr

/-- The module after power-up (29_host_firmware.md R371 steps 1-3): every context IDLE, memory with
nothing listed, the boot window waiting for an image. -/
def State.reset : State := {}

end Sys2Proof.Machine
end

