-- ==== Sys2Proof/Machine/Ops.lean ====
section
/-! DEFINITION. The named operations over memory, places and contexts: reading and writing bytes, the
timelines, the messages between hubs, raising a fault, starting a handler and returning from a trap. Marks: DEDUCED
(log 13, 16, 45, 46, 47, 56, 59, 63, 66); DESIGN CHOICE (log 2, 3, 4, 6, 34, 62, 64, 65, 69, 76). -/

namespace Sys2Proof.Machine

/-! ### Sparse maps -/

/-- The value of a key, d where it is not listed. -/
def look {α : Type} (d : α) : List (Nat × α) → Nat → α
  | [], _ => d
  | (j, v) :: r, k => if j = k then v else look d r k

/-- The map with the key's value replaced, keys kept rising. -/
def put {α : Type} : List (Nat × α) → Nat → α → List (Nat × α)
  | [], k, v => [(k, v)]
  | (j, w) :: r, k, v =>
    if k < j then (k, v) :: (j, w) :: r else if k = j then (k, v) :: r else (j, w) :: put r k v

/-- The map without a key. -/
def del {α : Type} (l : List (Nat × α)) (k : Nat) : List (Nat × α) := l.filter fun e => e.1 != k

/-- The value of a listed key. -/
def look? {α : Type} : List (Nat × α) → Nat → Option α
  | [], _ => none
  | (j, v) :: r, k => if j = k then some v else look? r k

/-- The list without its element number i. -/
def dropAt {α : Type} (l : List α) (i : Nat) : List α := l.take i ++ l.drop (i + 1)

/-! ### Bytes -/

/-- The number of a little-endian list of bytes (00_scope.md R2). -/
def leNat : List Byte → Nat
  | [] => 0
  | b :: r => b.toNat + 256 * leNat r

/-- The n little-endian bytes of a number (R2). -/
def leBytes : Nat → Nat → List Byte
  | 0, _ => []
  | n + 1, v => BitVec.ofNat 8 v :: leBytes n (v / 256)

/-- The memory keys of a byte of a tile's local store, of a stack, of host memory (03_memory_model.md R39,
11_tensor_access.md R170, 29_host_firmware.md R379). The three ranges are disjoint. -/
def lsKey (d t a : Nat) : Nat := (d * 144 + t) * 2097152 + a

@[inherit_doc lsKey]
def hbmKey (stack a : Nat) : Nat := 2 ^ 34 + stack * 2 ^ 36 + a

@[inherit_doc lsKey]
def hostKey (a : Nat) : Nat := 2 ^ 42 + a % 2 ^ 64

/-- The size of a local store (R39). -/
def lsSize : Nat := 0x200000

/-- The byte at a key. A byte that nothing has written reads 0. -/
def Memory.read (m : List Host.Cell) (k : Nat) : Byte := look 0#8 m k

/-- Memory with one byte replaced; a byte 0 is not listed. -/
def Memory.write (m : List Host.Cell) (k : Nat) (b : Byte) : List Host.Cell :=
  if b = 0#8 then del m k else put m k b

/-- Keys from n on strictly rising, and no byte 0 listed. -/
def Memory.wfFrom : Nat → List Host.Cell → Bool
  | _, [] => true
  | n, (k, b) :: r => decide (n ≤ k) && b != 0#8 && Memory.wfFrom (k + 1) r

/-- The canonical form of memory. -/
def Memory.wf (m : List Host.Cell) : Bool := Memory.wfFrom 0 m

/-- The n bytes from a key on. -/
def Memory.readN (m : List Host.Cell) (k : Nat) : Nat → List Byte
  | 0 => []
  | n + 1 => Memory.read m k :: Memory.readN m (k + 1) n

/-- Memory with the bytes from a key on replaced. -/
def Memory.writeN (m : List Host.Cell) (k : Nat) : List Byte → List Host.Cell
  | [] => m
  | b :: r => Memory.writeN (Memory.write m k b) (k + 1) r

/-- The 8-byte words that a write of n bytes covers whole (10_be_local_memory.md R155). -/
def coveredWords (k n : Nat) : List Nat :=
  ((List.range (n / 8 + 1)).map fun i => (k + 7) / 8 + i).filter fun w => decide (w * 8 + 8 ≤ k + n)

/-- Bytes from a key on are written; a word written whole is good again (R155). -/
def State.writeAt (s : State) (k : Nat) (bs : List Byte) : State :=
  { s with mem := Memory.writeN s.mem k bs
           bad := if s.bad = [] then [] else s.bad.filter fun w => !(coveredWords k bs.length).contains w }

/-- The n bytes from a key on. -/
def State.readAt (s : State) (k n : Nat) : List Byte := Memory.readN s.mem k n

/-- One of the n bytes from a key on lies in an uncorrectable word (R155, R177). -/
def State.badAt (s : State) (k n : Nat) : Bool :=
  s.bad.any fun w => decide (k < w * 8 + 8 ∧ w * 8 < k + n)

/-! ### Places -/

/-- The place exists (01_machine.md R7, R11, 06_block_engine.md R82). -/
def Place.ok (p : Place) : Bool := decide (p.die < 32 ∧ p.tile < 144 ∧ p.ctx < 8)

def State.tile (s : State) (d t : Nat) : Tile := look {} s.tiles (d * 144 + t)

def State.setTile (s : State) (d t : Nat) (x : Tile) : State :=
  { s with tiles := put s.tiles (d * 144 + t) x }

def State.updTile (s : State) (d t : Nat) (f : Tile → Tile) : State := s.setTile d t (f (s.tile d t))

def State.die (s : State) (d : Nat) : Die := look {} s.dies d

def State.setDie (s : State) (d : Nat) (x : Die) : State := { s with dies := put s.dies d x }

def State.updDie (s : State) (d : Nat) (f : Die → Die) : State := s.setDie d (f (s.die d))

def State.updTd (s : State) (d : Nat) (f : Td → Td) : State := s.updDie d fun x => { x with td := f x.td }

def State.updNd (s : State) (d : Nat) (f : Nd → Nd) : State := s.updDie d fun x => { x with nd := f x.nd }

def State.updXu (s : State) (d : Nat) (f : Xu → Xu) : State := s.updDie d fun x => { x with xu := f x.xu }

def State.updFab (s : State) (d : Nat) (f : Fab → Fab) : State := s.updDie d fun x => { x with fab := f x.fab }

def State.ctx (s : State) (p : Place) : Ctx := look {} (s.tile p.die p.tile).ctxs p.ctx

def State.setCtx (s : State) (p : Place) (c : Ctx) : State :=
  s.updTile p.die p.tile fun t => { t with ctxs := put t.ctxs p.ctx c }

def State.updCtx (s : State) (p : Place) (f : Ctx → Ctx) : State := s.setCtx p (f (s.ctx p))

def State.updRun (s : State) (p : Place) (f : Run → Run) : State :=
  s.updCtx p fun c => { c with run := c.run.map f }

/-- The task that runs on a tile: one that is placed and has not started does not run (07_be_control.md R120). -/
def Tile.runTask (t : Tile) : Option (BitVec 32) := if t.runs then t.task else none

/-- The ID of the task that runs on the tile of p, 0 where none does. -/
def State.taskOn (s : State) (p : Place) : BitVec 32 := ((s.tile p.die p.tile).runTask).getD 0#32

/-- A free choice below n, and the state after it is drawn. -/
def State.draw (s : State) (n : Nat) : Nat × State :=
  (Config.freeChoice s.freeCtr % n, { s with freeCtr := s.freeCtr + 1 })

/-- The n bytes of a tile's local store from a on. -/
def State.readLs (s : State) (p : Place) (a n : Nat) : List Byte := s.readAt (lsKey p.die p.tile a) n

/-- Bytes are written into a tile's local store. -/
def State.writeLs (s : State) (p : Place) (a : Nat) (bs : List Byte) : State :=
  s.writeAt (lsKey p.die p.tile a) bs

/-- An element of a list is defective: this tile can be neither placed nor addressed (R11). -/
def State.defective (s : State) (d t : Nat) : Bool := (s.die d).defects.contains t

/-- The state of a register: EMPTY where nothing has written it (06_block_engine.md R83). -/
def Ctx.reg (c : Ctx) (n : Nat) : Reg := look {} c.regs n

def Ctx.setReg (c : Ctx) (n : Nat) (r : Reg) : Ctx := { c with regs := put c.regs n r }

/-- An I64 register value (02_numbers.md R25). -/
def Reg.ofW (w : Word64) : Reg := { tag := .i64, bits := w.setWidth 2048 }

/-- A handle as a register value (R25). -/
def Reg.ofH (w : Word64) : Reg := { tag := .hndl, bits := w.setWidth 2048 }

/-- Bits 63:0 of a register. -/
def Reg.w (r : Reg) : Word64 := r.bits.setWidth 64

/-! ### Numbers of tags, engines and causes -/

def Tag.num : Tag → Nat
  | .empty => 0 | .i64 => 1 | .f32s => 2 | .hndl => 3 | .mask64 => 4 | .mask128 => 5 | .mask256 => 6
  | .vi32 => 7 | .vf32 => 8 | .vbf16 => 9 | .vi16 => 10 | .vf8e4 => 11 | .vf8e5 => 12 | .vi8 => 13
  | .vq4n => 14 | .reserved15 => 15

def Tag.ofNum : Nat → Tag
  | 0 => .empty | 1 => .i64 | 2 => .f32s | 3 => .hndl | 4 => .mask64 | 5 => .mask128 | 6 => .mask256
  | 7 => .vi32 | 8 => .vf32 | 9 => .vbf16 | 10 => .vi16 | 11 => .vf8e4 | 12 => .vf8e5 | 13 => .vi8
  | 14 => .vq4n | _ => .reserved15

def Engine.num : Engine → Nat
  | .ce => 0 | .me => 1 | .mse => 2

def Engine.ofNum : Nat → Engine
  | 0 => .ce | 1 => .me | _ => .mse

/-- The code of a cause (28_traps_preemption.md R358). -/
def Cause.code : Cause → Nat
  | .illegalOpcode => 0x01 | .reservedField => 0x02 | .privileged => 0x03 | .tagFault => 0x04
  | .blockMultiExit => 0x05 | .blockStall => 0x06 | .rasOverflow => 0x07 | .rasUnderflow => 0x08
  | .lsBounds => 0x09 | .align => 0x0A | .handlerWait => 0x0B | .tokenCollision => 0x0C
  | .tensorNotPresent => 0x10 | .window => 0x11 | .rights => 0x12 | .frameExhausted => 0x13
  | .mmRace => 0x14 | .uncorrectable => 0x15 | .waitTimeout => 0x18 | .msgUnrecoverable => 0x19
  | .cardTooLong => 0x1A | .reqInService => 0x1B | .matrixGeometry => 0x20 | .matrixSeq => 0x21
  | .nameUnbound => 0x28 | .nameCapacity => 0x29 | .txnConflict => 0x2A | .trap => 0x30 | .bkpt => 0x31
  | .preempted => 0x38 | .machineCheck => 0x3F

/-- The causes by their codes, for a context image (R362). -/
def Cause.ofCode (n : Nat) : Option Cause :=
  [Cause.illegalOpcode, .reservedField, .privileged, .tagFault, .blockMultiExit, .blockStall, .rasOverflow,
   .rasUnderflow, .lsBounds, .align, .handlerWait, .tokenCollision, .tensorNotPresent, .window, .rights,
   .frameExhausted, .mmRace, .uncorrectable, .waitTimeout, .msgUnrecoverable, .cardTooLong, .reqInService,
   .matrixGeometry, .matrixSeq, .nameUnbound, .nameCapacity, .txnConflict, .trap, .bkpt, .preempted,
   .machineCheck].find? fun c => c.code == n

def Tl.get (t : Tl) : Engine → Nat
  | .ce => t.ce | .me => t.me | .mse => t.mse

def Tl.set (t : Tl) (e : Engine) (n : Nat) : Tl :=
  match e with
  | .ce => { t with ce := n } | .me => { t with me := n } | .mse => { t with mse := n }

/-! ### Regions (22_task_dispatcher.md R295) -/

/-- A word of a region control block. -/
def rcbWord (b : BitVec 1024) (i : Nat) : Word64 := fld b (64 * i) 64

def State.rcb (s : State) (r : Nat) : Option (BitVec 1024) := look? s.regions r

/-- The nearest block, from region r toward the root, that sets an override bit. -/
def State.effGo (s : State) (ovr : Nat) : Nat → Nat → BitVec 1024
  | 0, _ => 0#1024
  | n + 1, r =>
    match s.rcb r with
    | none => 0#1024
    | some b => if bit b (960 + ovr) then b else s.effGo ovr n (fldN b 52 12)

/-- The fields of a block that are inherited: override bit, first bit, length. -/
def effFields : List (Nat × Nat × Nat) :=
  [(0, 32, 8), (1, 26, 6), (2, 20, 6), (3, 18, 2), (4, 10, 8), (5, 5, 5), (6, 114, 14), (7, 96, 18), (8, 64, 32), (9, 160, 32),
   (10, 128, 32), (11, 224, 32), (12, 192, 32), (13, 256, 64), (13, 352, 32), (14, 384, 64), (15, 448, 64), (16, 512, 64)]

/-- Region r's effective values as its blocks stand. -/
def State.effNow (s : State) (r : Nat) : BitVec 1024 :=
  effFields.foldl (fun b f => setFld b f.2.1 f.2.2 (fldN (s.effGo f.1 4096 r) f.2.1 f.2.2)) 0#1024

/-- The blocks of regions are read: at a placement, at the start of a ladder or of a hang check (R295, R297). -/
def State.readBlocks (s : State) (l : List Nat) : State :=
  { s with readings := l.foldl (fun m r => put m r (s.effNow r)) s.readings }

/-- A block that holds region r's effective value of the field with that override bit, as last read; as it stands where the region has
not yet been read (log 66). -/
def State.eff (s : State) (r ovr : Nat) : BitVec 1024 :=
  match look? s.readings r with
  | some b => b
  | none => s.effGo ovr 4096 r

/-- Region a is region r or one of its ancestors. -/
def State.ancGo (s : State) (a : Nat) : Nat → Nat → Bool
  | 0, _ => false
  | n + 1, r =>
    if r = a then true
    else match s.rcb r with
      | none => false
      | some b => if fldN b 52 12 = r then false else s.ancGo a n (fldN b 52 12)

def State.isAncestor (s : State) (a r : Nat) : Bool := s.ancGo a 4096 r

/-! ### Between hubs (16_message_engine.md R386, 17_erasure_coding.md R253) -/

/-- The address of a hub: a die of this module, or beyond 31 a die of another module. -/
def State.hub (s : State) (m d : Nat) : Nat := if m = s.moduleId then d else 32 + 32 * m + d

/-- The home die of an object ID (25_name_directory.md R326). -/
def objDie (o : BitVec 32) : Nat := fldN o 17 5

/-- The hub of an object's home. -/
def State.objHub (s : State) (o : BitVec 32) : Nat := s.hub (fldN o 22 10) (objDie o)

/-- The hub that homes a name key (R324). -/
def State.nameHub (s : State) (k : Word64) : Nat :=
  let d := (fldN k 0 5) ^^^ (fldN k 32 5)
  if bit k 63 then s.hub (fldN k 53 10) d else d

/-- The hub of a task or join ID (22_task_dispatcher.md R287). -/
def State.taskHub (s : State) (id : BitVec 32) : Nat := s.hub (fldN id 21 10) (fldN id 16 5)

/-- A join counts one more outcome, and fires (22_task_dispatcher.md R291): `how` is 0 done, 1 faulted, 2 killed. -/
def joinCount (raw : Vec) (how : Nat) (task : BitVec 32) (cause exit : Nat) : Vec :=
  let lo := if how = 0 then 32 else if how = 1 then 16 else 0
  let r1 := setFld raw lo 16 (fldN raw lo 16 + 1)
  let first := how = 1 ∧ fldN raw 16 16 = 0
  let r2 := if first then setFld (setFld (setFld r1 64 32 task.toNat) (128 + 56) 8 cause) (128 + 48) 8 exit else r1
  let sum := fldN r2 32 16 + fldN r2 16 16 + fldN r2 0 16
  let fire := sum = fldN r2 48 16 ∨ (how = 1 ∧ bit r2 127)
  if fire then setFld r2 126 1 1 else r2

/-- A debug halt covers a region on die d: a task of it was on the halted die when the halt began (22_task_dispatcher.md R311). -/
def State.haltCovers (s : State) (d r : Nat) : Bool := (s.die d).halts.any fun h => h.regions.contains r

/-- Die d hears of a debug halt. -/
def State.haltHeard (s : State) (d src : Nat) (regions : List Nat) : State :=
  s.updDie d fun x => if (x.halts.any fun h => h.die == src) then x else { x with halts := x.halts ++ [⟨src, s.cycle, regions⟩] }

/-- The starting point of a count that stood still from `since` to `till`, or from its start where it began later. -/
def thawed (since till start : Nat) : Nat := start + (till - max since start)

/-- The counts of a context go on from their frozen values. -/
def Ctx.thaw (c : Ctx) (f : Nat → Nat) : Ctx :=
  { c with atBarrier := c.atBarrier.map fun b => (b.1, f b.2)
           run := c.run.map fun r => { r with decodedAt := f r.decodedAt
                                              waits := r.waits.map fun w => { w with since := f w.since } } }

/-- The fabric timers of a die go on from their frozen values (17_erasure_coding.md R267). -/
def Fab.thaw (x : Fab) (f : Nat → Nat) : Fab :=
  { x with melds := x.melds.map fun m => { m with opened := f m.opened }
           retained := x.retained.map fun r => { r with timer := f r.timer }
           filters := x.filters.map fun y => { y with grownAt := y.grownAt.map f } }

/-- Die d hears that the debug halt of a die is over: every count that it froze here goes on, up to where another halt freezes it (R311). The
ladders' limits are counted by the presiding controller. -/
def State.haltOver (s : State) (d src : Nat) : State :=
  match (s.die d).halts.find? fun h => h.die == src with
  | none => s
  | some h =>
    let rest := (s.die d).halts.filter fun g => g.die != src
    let till (also : HaltNote → Bool) : Nat := ((rest.filter also).map HaltNote.since).foldl min s.cycle
    let on (r start : Nat) : Nat := if h.regions.contains r then thawed h.since (till fun g => g.regions.contains r) start else start
    let tile (y : Nat × Tile) : Nat × Tile :=
      if y.1 / 144 = d then (y.1, { y.2 with ctxs := y.2.ctxs.map fun c => (c.1, c.2.thaw (on c.2.region)) }) else y
    let s1 : State := { s with
      tiles := s.tiles.map tile
      ladders := if s.presiding = some d then s.ladders.map fun l => { l with started := on l.region l.started } else s.ladders }
    s1.updDie d fun y => { y with
      halts := rest, fab := y.fab.thaw (thawed h.since (till fun _ => true))
      td := { y.td with
        progress := y.td.progress.map fun p => (p.1, on p.1 p.2)
        slots := y.td.slots.map fun n => (n.1, { n.2 with saving := n.2.saving.map (on (fldN n.2.raw 12 12)) }) } }

/-- A body reaches the hub unit it names. -/
def State.accept (s : State) (d : Nat) (msg : Option (Nat × Nat × Nat)) : Body → State
  | .card c => s.updDie d fun x => { x with mesh := x.mesh ++ [{ tile := fldN c.hw0 41 8, card := c, msg := msg }] }
  | .flush f => s.updXu d fun x => { x with flushIn := x.flushIn ++ [f] }
  | .xreturn n r => s.updXu d fun x => { x with returns := x.returns ++ [(n, r)] }
  | .xoverflow w r z => s.updXu d fun x => { x with overflow := x.overflow ++ [⟨w, r, z, d⟩] }
  | .dec y => s.updTd d fun x => { x with decs := x.decs ++ [y] }
  | .kill y => s.updTd d fun x => { x with kills := x.kills ++ [y] }
  | .allow t w n => s.updDie d fun x => { x with allowIn := x.allowIn ++ [(t, w, n)] }
  | .refresh t m w => s.updDie d fun x => { x with refreshIn := x.refreshIn ++ [(t, m, w)] }
  | .openReq r => s.updNd d fun x => { x with opens := x.opens ++ [{ r with stamp := x.arrived }], arrived := x.arrived + 1 }
  | .windowReq r => s.updNd d fun x => { x with windows := x.windows ++ [r] }
  | .snapReq r => s.updNd d fun x => { x with snaps := x.snaps ++ [r] }
  | .ask r => s.updNd d fun x => { x with asks := x.asks ++ [r] }
  | .granted n k o w y => s.updTd d fun x => { x with grants := x.grants ++ [(n, k, o, w, y)] }
  | .reply r => s.updNd d fun x => { x with replies := x.replies ++ [r] }
  | .bind b => s.updNd d fun x => { x with binds := x.binds ++ [{ b with stamp := x.arrived }], arrived := x.arrived + 1 }
  | .confirm c => s.updNd d fun x => { x with confirms := x.confirms ++ [c] }
  | .withdraw c => s.updNd d fun x => { x with withdraws := x.withdraws ++ [c] }
  | .prepare p => s.updNd d fun x => { x with prepares := x.prepares ++ [{ p with stamp := x.arrived }], arrived := x.arrived + 1 }
  | .vote t h y c => s.updNd d fun x => { x with voteIn := x.voteIn ++ [(t, h, y, c)] }
  | .decision t c y => s.updNd d fun x => { x with decisions := x.decisions ++ [⟨t, c, y, x.arrived⟩], arrived := x.arrived + 1 }
  | .decisionAck t h => s.updNd d fun x => { x with ackIn := x.ackIn ++ [(t, h)] }
  | .inquiry q => s.updNd d fun x => { x with inquiries := x.inquiries ++ [q] }
  | .joinUpdate j how task cause exit =>
      let n := fldN j 0 16
      let y := look {} (s.die d).td.slots n
      if y.kind = .join then
        let raw := joinCount y.raw how task cause exit
        let done (c : HostCmd) : HostCmd :=
          if c.join = some j ∧ c.phase ≠ .completed ∧ bit raw 126 = true then { c with phase := .completed, w2 := fld raw 0 64 } else c
        let t := s.updTd d fun x => { x with slots := put x.slots n { y with raw := raw } }
        { t with cmds := t.cmds.map done }
      else s
  | .beat e => if e < 32 then s.updDie d fun x => { x with beatIn := x.beatIn ++ [e] } else s
  | .news e l => if e < 32 then s.updDie d fun x => { x with news := if x.news.contains l then x.news else x.news ++ [l] } else s
  | .halt e on rs => if e < 32 then (if on then s.haltHeard d e rs else s.haltOver d e) else s
  | .link _ _ => s

/-- The message type, class and order of a body (R253). -/
def Body.kind : Body → Nat × Nat × Bool
  | .card c => (0, fldN c.hw0 0 2, c.ordered)
  | .flush _ | .xoverflow _ _ _ => (1, 3, true)
  | .xreturn _ _ => (2, 3, true)
  | .dec _ | .kill _ => (3, 2, false)
  | .allow _ _ _ | .refresh _ _ _ => (5, 2, false)
  | .beat _ | .news _ _ | .halt _ _ _ => (10, 2, true)
  | .link _ b => (match b with | .ack _ => 6 | .repair _ _ => 7 | .busy _ => 8 | .giveup _ => 9, 2, false)
  | _ => (4, 2, true)

/-- MODULE, DIE and TILE 0xFF of a hub, at bits 63:41 (17_erasure_coding.md R254). -/
def State.hubBits (s : State) (h : Nat) : Nat :=
  (if h < 32 then s.moduleId else (h - 32) / 32) * 2 ^ 54 + h % 32 * 2 ^ 49 + 255 * 2 ^ 41

/-- Destination word and source word of the fragments of a body (R254): a card's header words, else the two hubs. A flush names its mailbox,
and in FRAME, which the spec leaves free there, its tile and record size (log 69). -/
def State.bodyWords (s : State) (src dst : Nat) : Body → Word64 × Word64
  | .card x => (x.hw0, x.hw1)
  | .flush f => (setFld (setFld f.dest 16 15 (f.size / 64 % 8 * 256 - 256 + fldN f.dest 41 8)) 41 8 255, BitVec.ofNat 64 (s.hubBits src))
  | _ => (BitVec.ofNat 64 (s.hubBits dst), BitVec.ofNat 64 (s.hubBits src))

/-- A hub sends a body: within the die at once, else as a message (R253). -/
def State.send (s : State) (src dst : Nat) (b : Body) : State :=
  if dst = src then s.accept dst none b
  else s.updFab src fun f =>
    let (m, c, o) := b.kind
    let bytes := match b with
      | .card x => x.payload
      | _ => []
    let (w0, w1) := s.bodyWords src dst b
    { f with outbox := f.outbox ++
        [{ src := src, dst := dst, cls := c, ordered := o, mtype := m, body := b, bytes := bytes, dest := w0, srcw := w1 }] }

/-! ### Timelines (01_machine.md R17-R19) -/

/-- The contexts of a region that are not IDLE. -/
def State.regionCtxs (s : State) (r : Nat) : List Place :=
  s.tiles.flatMap fun t => (t.2.ctxs.filter fun c => c.2.phase != .idle && c.2.region == r).map fun c =>
    { die := t.1 / 144, tile := t.1 % 144, ctx := c.1 }

/-- The region made progress on the die in this cycle (22_task_dispatcher.md R309). -/
def State.progress (s : State) (d r : Nat) : State :=
  s.updTd d fun x => { x with progress := put x.progress r s.cycle }

/-- The window of a region in which t starts a context begins there where it had none in s (22_task_dispatcher.md R309, log 45). -/
def State.opensWindow (s t : State) (d r : Nat) : State := if s.regionCtxs r = [] then t.progress d r else t

/-- The completed value advances over the contiguous prefix of completed numbers (R18). -/
def advance (e : Engine) : Nat → Ctx → Ctx
  | 0, c => c
  | n + 1, c =>
    if c.doneOut.contains (e, c.done.get e + 1) then
      advance e n { c with done := c.done.set e (c.done.get e + 1)
                           doneOut := c.doneOut.filter fun x => x != (e, c.done.get e + 1) }
    else c

/-- Word 0 of a fault record (R353). -/
def FaultRec.word0 (r : FaultRec) : Word64 :=
  BitVec.ofNat 64 (r.block.toNat * 2 ^ 32 + r.ctx % 8 * 2 ^ 16 + b2n r.index.isSome * 2 ^ 15
    + (r.index.getD 0) % 32 * 2 ^ 8 + r.cause.code)

/-- Word 1 of a fault record (R353). -/
def FaultRec.word1 (r : FaultRec) : Word64 :=
  BitVec.ofNat 64 (r.task.toNat * 2 ^ 32 + b2n r.priv * 2 ^ 16 + r.eng % 4 * 2 ^ 8 + b2n r.more * 2 ^ 5
    + b2n r.ended * 2 ^ 4 + b2n r.async * 2 ^ 3 + b2n r.bar * 2 ^ 2 + b2n r.fetch * 2 + b2n r.hdr)

/-- The special register `FAULTREC` of a record: word 0 with bits 18:16 cleared (R353). -/
def FaultRec.special (r : FaultRec) : Word64 := { r with ctx := 0 }.word0

/-- The record of a fault raised at or after the end of the run that issued the command (R179, R353). -/
def endedRec (s : State) (p : Place) (c : Ctx) (f : RecFault) : FaultRec :=
  { ctx := p.ctx, cause := f.cause, task := s.taskOn p, priv := c.super,
    eng := f.eng.num, more := f.more, ended := true, async := true, code := c.code,
    d0 := BitVec.ofNat 64 f.num, cycle := s.cycle, region := c.region }

/-- An uncorrectable error is counted for the life log (29_host_firmware.md R382). -/
def State.noteError (s : State) (d : Nat) (f : Option Cause) : State :=
  if f = some .uncorrectable then s.updDie d fun x => { x with errors := x.errors + 1 } else s

/-- A command completes, its fault recorded on its number (R18). A fault recorded for a handler run that has
ended queues a trap start with ENDED = 1, and `FAULTREC` takes it (R179, 07_be_control.md R122). A command that a reset has
completed already stands at a context number from 8 on and completes nothing. -/
def State.completeIn (s : State) (p : Place) (e : Engine) (n : Nat) (f : Option Cause) : State :=
  let c := s.ctx p
  let c1 := advance e (c.doneOut.length + 1) { c with doneOut := c.doneOut ++ [(e, n)] }
  let c2 := match f with
    | none => c1
    | some k =>
      if p.ctx ≠ 0 ∧ (c.phase = .idle ∨ n ≤ c.base.get e) then
        let r := endedRec s p c ⟨e, n, k, false⟩
        { c1 with pend := c1.pend ++ [r], faultRec := r.special }
      else { c1 with recf := c1.recf ++ [⟨e, n, k, false⟩] }
  (s.setCtx p c2).progress p.die c.region

@[inherit_doc State.completeIn]
def State.complete (s : State) (p : Place) (e : Engine) (n : Nat) (f : Option Cause) : State :=
  if 8 ≤ p.ctx then s else (s.completeIn p e n f).noteError p.die f

/-- The lowest unraised fault recorded on a number of engine e up to n (R197). -/
def Ctx.lowestFault (c : Ctx) (e : Engine) (n : Nat) : Option RecFault :=
  c.recf.foldl (fun b x =>
    if x.eng = e ∧ x.num ≤ n then
      match b with
      | none => some x
      | some y => if x.num < y.num then some x else b
    else b) none

/-- Of an engine's unraised faults a save keeps the lowest, which will be raised with MORE = 1 where it kept it alone (R362). -/
def Ctx.mergeFaults (c : Ctx) : Ctx :=
  let kept (e : Engine) : Option RecFault :=
    (c.lowestFault e (c.issue.get e)).map fun f => { f with more := f.more || decide (1 < (c.recf.filter fun x => x.eng == e).length) }
  { c with recf := [Engine.ce, .me, .mse].filterMap kept }

/-- A recorded fault is marked raised. -/
def Ctx.markRaised (c : Ctx) (f : RecFault) : Ctx := { c with recf := c.recf.filter fun x => x != f }

/-! ### The landing buffer (06_block_engine.md R99) -/

def Tile.lb (t : Tile) (n : Nat) : Landing := look {} t.landing n

def Tile.setLb (t : Tile) (n : Nat) (l : Landing) : Tile := { t with landing := put t.landing n l }

/-- A transfer reaches a landing entry; it fills the entry when its turn comes. -/
def State.fill (s : State) (d t : Nat) (f : Fill) : State := s.updTile d t fun x => { x with fills := x.fills ++ [f] }

/-! ### Taking a fault (28_traps_preemption.md R352-R356) -/

/-- A provisional event of a block that does not commit is withdrawn (26_nd_instructions.md R339, R188, R274, R316). -/
def State.withdraw (s : State) (p : Place) (v : Prov) : State :=
  match v with
  | .bind k _ _ => s.send p.die (s.nameHub k) (.withdraw ⟨v⟩)
  | .window o _ | .openRef o _ | .close o _ | .made o _ => s.send p.die (s.objHub o) (.withdraw ⟨v⟩)
  | .txn _ _ _ | .txnAdd _ _ _ _ _ => s.send p.die p.die (.withdraw ⟨v⟩)
  | .spawn d _ _ | .inst d _ => s.send p.die d (.withdraw ⟨v⟩)
  | .frame f => s.updTile p.die p.tile fun t => { t with pres := put t.pres f { look {} t.pres f with reserved := false } }
  | .joined _ => s

/-- An entry that is UNBOUND, has no waiter, belongs to no transaction and is kept for no bind is freed (25_name_directory.md R324). -/
def Nd.tidy (n : Nd) (key : Word64) : Nd :=
  { n with names := n.names.filter fun x => !(x.key == key && x.state == .unbound && x.waiters == [] && x.held == [] && x.claims == 0) }

/-- An open is taken out of wherever it waits, and an entry that it alone kept is freed (25_name_directory.md R324, R330). -/
def State.dropOpen (s : State) (p : Place) (serial index : Nat) : State :=
  let mine (w : Opener) : Bool := w.place == p && w.serial == serial && w.index == index
  let nd (n : Nd) : Nd :=
    (n.names.filter fun x => x.waiters.any mine).foldl (fun n x => n.tidy x.key) { n with
      names := n.names.map fun x => { x with waiters := x.waiters.filter fun w => !mine w }
      opens := n.opens.filter fun r => !(r.place == p && r.serial == serial && r.index == index) }
  let s1 : State := { s with dies := s.dies.map fun d => (d.1, { d.2 with nd := nd d.2.nd }) }
  s1.updTile p.die p.tile fun t =>
    { t with represent := t.represent.filter fun x => !(x.1 == p.ctx && x.2.1 == serial && x.2.2.1 == index) }

/-- What the block in flight has provisionally asked for is withdrawn, opens that wait with it, and the block is abandoned
(06_block_engine.md R95, R367, 26_nd_instructions.md R341). -/
def State.abandon (s : State) (p : Place) : State :=
  let (serial, asked, provs) : Nat × List Nat × List (Nat × Prov) := match (s.ctx p).run with
    | some r => (r.serial, (r.asked.map (·.1)).filter fun k => !r.fired.contains k, r.provs)
    | none => (0, [], [])
  let s1 := asked.foldl (fun s k => s.dropOpen p serial k) (provs.foldl (fun s v => s.withdraw p v.2) s)
  s1.updCtx p fun c => { c with run := none }

/-- TAKING A FAULT. The block of the context at p is abandoned, nothing of it is performed, its provisional events
are withdrawn; the context becomes FAULTED; the fault is recorded with the context's block, code, task and
privilege, `FAULTREC` takes it, and its record waits to be written (R352, R353, R367). A wait at a barrier is kept for a
resume (07_be_control.md R108). With DBGEN set, no trap starts
for a `BKPT` (R361). -/
def State.raiseFault (s : State) (p : Place) (r : FaultRec) : State :=
  let c := s.ctx p
  let r1 := { r with ctx := p.ctx, block := c.block, task := s.taskOn p, priv := c.super,
                     code := c.code, cycle := s.cycle, region := c.region
                     noTrap := r.cause == Cause.bkpt && (s.die p.die).dbgen }
  (State.updCtx { s.abandon p with freeCtr := s.freeCtr + 1 } p fun c =>
    { c with phase := .faulted, pend := c.pend ++ [r1], fault := some r1, faultRec := r1.special
             atBarrier := if r.bar then c.atBarrier else none }).noteError p.die (some r.cause)

/-- The lowest-numbered IDLE context of 1 to 7 (06_block_engine.md R101). -/
def Tile.idleCtx (t : Tile) : Option Nat :=
  [1, 2, 3, 4, 5, 6, 7].find? fun c => (look {} t.ctxs c).phase == .idle

/-- A handler starts in context p from a start request (06_block_engine.md R83, R86, R100). -/
def State.startHandler (s : State) (p : Place) (q : Start) (super : Bool) : State :=
  s.updCtx p fun c =>
    { c with
      phase := .running, super := super, trapRun := super
      regs := [(0, Reg.ofW q.g0), (1, Reg.ofW q.g1)]
      ras := [], spilled := 0, lastExit := 0#3, reuse := []
      base := c.issue
      hops := q.hops.getD c.hops
      code := q.code, block := q.block, region := q.region
      run := none, kind := some 2#2, atBarrier := none, src := q.src, runNo := s.cycle + 1
      bkptSkip := false }

/-- TRAP ENTRY (R354). The region's trap handler starts at SUPER: g0 the record entry's offset in the tile's window,
g1 record word 0, `FCTX` the faulted context, `FRESUME` the faulting block's offset. -/
def State.startTrap (s : State) (p : Place) (r : FaultRec) : State :=
  let b := s.eff r.region 13
  let q : Start := { code := rcbWord b 4, block := fld b (5 * 64 + 32) 32
                     g0 := BitVec.ofNat 64 (0x1000000 + 256 * (48 + r.ctx)), g1 := r.word0, region := r.region }
  (s.startHandler p q true).updCtx p fun c =>
    { c with fctx := BitVec.ofNat 3 r.ctx, fresume := r.block
             fended := if r.ended then [BitVec.ofNat 3 r.ctx] else [] }

/-- RETURN FROM A TRAP (07_be_control.md R111, R356): the context that `FCTX` names goes from FAULTED to RUNNING and
decodes the block at `FRESUME`, its registers as they were, without a new judgement of its KIND (04_encoding.md R55 speaks of a start; log 16).
A context that is not FAULTED stays as it is, and so does one whose fault the handler does not settle. -/
def State.resumeFaulted (s : State) (p : Place) : State :=
  let c := s.ctx p
  let q : Place := { p with ctx := c.fctx.toNat }
  if (s.ctx q).phase = .faulted ∧ c.fended.contains c.fctx = false then
    s.updCtx q fun x => { x with phase := .running, block := c.fresume, run := none, kind := none, fault := none
                                 atBarrier := if x.block = c.fresume then x.atBarrier.map fun b => (b.1, s.cycle) else none }
  else s

/-- A handler's run ends and the context becomes IDLE (R84, R110). Faults recorded on its numbers and not yet raised
queue trap starts with ENDED = 1, and `FAULTREC` takes the last (R179, 07_be_control.md R122). -/
def State.idleHandler (s : State) (p : Place) : State :=
  s.updCtx p fun c =>
    let recs := c.recf.map (endedRec s p c)
    { c with faultRec := (recs.getLast?.map FaultRec.special).getD c.faultRec, phase := .idle, super := false, trapRun := false, run := none, kind := none, fault := none
             pend := c.pend ++ recs, recf := [], src := {} }

end Sys2Proof.Machine
end

