-- ==== Sys2Proof/Machine/Num.lean ====
section
/-! DEFINITION. The number formats and their arithmetic (02_numbers.md): exact values, one rounding, the
stochastic generator, Q4N, the fixed summation orders. Marks: DEDUCED (log 9, 10). -/

namespace Sys2Proof.Machine

/-! ### Floating-point formats (R20, R22) -/

/-- A floating-point format: fraction and exponent bits, bias, the code of the largest finite magnitude, the
canonical NaN, the code of infinity where there is one, whether `SAT` is consulted. -/
structure Fmt where
  fb : Nat
  eb : Nat
  bias : Nat
  maxc : Nat
  nanc : Nat
  infc : Option Nat
  sats : Bool
  deriving DecidableEq, Repr

def fp32 : Fmt := ⟨23, 8, 127, 0x7F7FFFFF, 0x7FC00000, some 0x7F800000, false⟩
def bf16 : Fmt := ⟨7, 8, 127, 0x7F7F, 0x7FC0, some 0x7F80, false⟩
def e4m3 : Fmt := ⟨3, 4, 7, 0x7E, 0x7F, none, true⟩
def e5m2 : Fmt := ⟨2, 5, 15, 0x7B, 0x7E, some 0x7C, true⟩

/-- The width of a format. -/
def Fmt.w (f : Fmt) : Nat := f.fb + f.eb + 1

/-- An exact value: NaN, an infinity, or ±m·2^e with a sign also on zero. -/
inductive FV where
  | nan
  | inf (neg : Bool)
  | fin (neg : Bool) (m : Nat) (e : Int)
  deriving DecidableEq, Repr

/-- The value of a code (R20). -/
def Fmt.dec (f : Fmt) (c : Nat) : FV :=
  let neg := c / 2 ^ (f.fb + f.eb) % 2 == 1
  let mag := c % 2 ^ (f.fb + f.eb)
  let e := mag / 2 ^ f.fb
  let m := mag % 2 ^ f.fb
  if f.infc = some mag then .inf neg
  else if f.maxc < mag then .nan
  else if e = 0 then .fin neg m (1 - f.bias - f.fb)
  else .fin neg (2 ^ f.fb + m) ((e : Int) - f.bias - f.fb)

/-- A number n·2^e / d with the power of two taken into numerator or denominator. -/
def scaled (n d : Nat) (e : Int) : Nat × Nat :=
  if 0 ≤ e then (n * 2 ^ e.toNat, d) else (n, d * 2 ^ (-e).toNat)

/-- The exponent of a positive rational: 2^x ≤ n/d < 2^(x+1). -/
def expOf (n d : Nat) : Int :=
  let x : Int := (n.log2 : Int) - d.log2
  let (a, b) := scaled n d (-x)
  if a < b then x - 1 else x

/-- Does rounding go to the neighbour of larger magnitude (R26, R28)? The remainder is r of d quanta, the truncated
magnitude is odd or even; `x` is a draw of the stochastic generator where one is taken. -/
def roundsUp (mode : Nat) (x : Option Nat) (neg odd : Bool) (r d : Nat) : Bool :=
  if r = 0 then false
  else match x with
    | some y => decide (y * d < r * 2 ^ 32)
    | none =>
      match mode with
      | 1 => false
      | 2 => neg
      | 3 => !neg
      | _ => decide (d < 2 * r) || (decide (2 * r = d) && odd)

/-- What an overflow gives (R27). -/
def Fmt.overflow (f : Fmt) (mode : Nat) (sat neg : Bool) : Nat :=
  let s := b2n neg * 2 ^ (f.fb + f.eb)
  if f.sats && sat then s + f.maxc
  else match f.infc with
    | none => f.nanc
    | some i =>
      match mode with
      | 1 => s + f.maxc
      | 2 => if neg then s + i else s + f.maxc
      | 3 => if neg then s + f.maxc else s + i
      | _ => s + i

/-- round(fmt, mode, v) of the rational ±n/d·2^e (R6, R26-R28). Under RSTOCH with a draw that chose lo where lo itself lies beyond the largest
finite magnitude (1000.0 to E4M3), R27 says both that nothing overflows and that the chosen neighbour overflows; it overflows here (log 10). -/
def Fmt.roundRat (f : Fmt) (mode : Nat) (sat : Bool) (x : Option Nat) (neg : Bool) (n d : Nat) (e : Int) : Nat :=
  let s := b2n neg * 2 ^ (f.fb + f.eb)
  if n = 0 then s
  else
    let (n1, d1) := scaled n d e
    let q := max (expOf n1 d1) (1 - (f.bias : Int)) - f.fb
    let (n2, d2) := scaled n1 d1 (-q)
    let t := n2 / d2
    let u := if roundsUp mode x neg (t % 2 == 1) (n2 % d2) d2 then t + 1 else t
    let code := (q + f.fb + f.bias).toNat * 2 ^ f.fb + u - 2 ^ f.fb
    if f.maxc < code then f.overflow mode sat neg else s + code

/-- round(fmt, mode, v) of an exact value; `x` is the draw of a stochastic conversion. -/
def Fmt.round (f : Fmt) (mode : Nat) (sat : Bool) (x : Option Nat) : FV → Nat
  | .nan => f.nanc
  | .inf neg =>
    let s := b2n neg * 2 ^ (f.fb + f.eb)
    if f.sats && sat then s + f.maxc
    else match f.infc with
      | some i => s + i
      | none => f.nanc
  | .fin neg m e => f.roundRat mode sat x neg m 1 e

/-- Rounding under RNE with `SAT` as given. -/
def Fmt.rne (f : Fmt) (sat : Bool) (v : FV) : Nat := f.round 0 sat none v

/-- The modes as they act where no draw is taken: 4 reads as RNE (R26). -/
def noDraw (mode : Nat) : Nat := if mode = 4 then 0 else mode

/-! ### Exact arithmetic (R22, R23) -/

def FV.neg : FV → Bool
  | .nan => false
  | .inf n => n
  | .fin n _ _ => n

def FV.isNan : FV → Bool
  | .nan => true
  | _ => false

def FV.isZero : FV → Bool
  | .fin _ m _ => m == 0
  | _ => false

/-- −v, the sign of a zero reversed. -/
def FV.negate : FV → FV
  | .nan => .nan
  | .inf n => .inf !n
  | .fin n m e => .fin (!n) m e

def FV.abs : FV → FV
  | .nan => .nan
  | .inf _ => .inf false
  | .fin _ m e => .fin false m e

/-- a·b; ∞·0 is NaN (R22). -/
def FV.mul : FV → FV → FV
  | .nan, _ | _, .nan => .nan
  | .inf a, .inf b => .inf (a != b)
  | .inf a, .fin b m _ => if m = 0 then .nan else .inf (a != b)
  | .fin a m _, .inf b => if m = 0 then .nan else .inf (a != b)
  | .fin a m e, .fin b n g => .fin (a != b) (m * n) (e + g)

/-- The signed numerator of a finite value at exponent e, at most its own. -/
def FV.at (e : Int) : FV → Int
  | .fin n m g => if n then -((m * 2 ^ (g - e).toNat : Nat) : Int) else ((m * 2 ^ (g - e).toNat : Nat) : Int)
  | _ => 0

/-- The least exponent of finite terms. -/
def minExp : List FV → Int
  | [] => 0
  | [.fin _ _ e] => e
  | .fin _ _ e :: r => min e (minExp r)
  | _ :: r => minExp r

/-- The exact sum (R22, R23): NaN for +∞ and −∞ together; −0 only where every term is negative. -/
def FV.sum (l : List FV) : FV :=
  if l.any FV.isNan then .nan
  else
    let pi := l.any fun v => v == .inf false
    let ni := l.any fun v => v == .inf true
    if pi && ni then .nan
    else if pi then .inf false
    else if ni then .inf true
    else
      let e := minExp l
      let t : Int := l.foldl (fun a v => a + v.at e) 0
      if t = 0 then .fin (l.all FV.neg) 0 0 else .fin (decide (t < 0)) t.natAbs e

def FV.add (a b : FV) : FV := FV.sum [a, b]

/-- A signed number of a finite value for comparison with another: both at one exponent. -/
def FV.cmpKey (a b : FV) : Int × Int :=
  let e := minExp [a, b]
  (a.at e, b.at e)

/-- a < b by value; false with a NaN (09_be_vector.md R139). -/
def FV.lt : FV → FV → Bool
  | .nan, _ | _, .nan => false
  | .inf a, .inf b => a && !b
  | .inf a, _ => a
  | _, .inf b => !b
  | a, b => decide ((a.cmpKey b).1 < (a.cmpKey b).2)

/-- a = b by value: −0 = +0; false with a NaN (R139). -/
def FV.eqv (a b : FV) : Bool := !a.isNan && !b.isNan && !a.lt b && !b.lt a

/-- The smaller: −0 below +0, NaN from any NaN (R22). -/
def FV.fmin (a b : FV) : FV :=
  if a.isNan || b.isNan then .nan
  else if a.lt b then a else if b.lt a then b else if a.neg then a else b

/-- The larger: −0 below +0, NaN from any NaN (R22). -/
def FV.fmax (a b : FV) : FV :=
  if a.isNan || b.isNan then .nan
  else if a.lt b then b else if b.lt a then a else if a.neg then b else a

/-! ### Integers (R6, R24, R26, R27) -/

/-- An integer clamped to w-bit two's complement. -/
def clampS (w : Nat) (v : Int) : Int := max (-(2 ^ (w - 1) : Int)) (min v (2 ^ (w - 1) - 1))

/-- ±n/d·2^e rounded to an integer under a mode; 4 rounds RNE. -/
def roundIntRat (mode : Nat) (neg : Bool) (n d : Nat) (e : Int) : Int :=
  let (a, b) := scaled n d e
  let t := a / b
  let u := if roundsUp mode none neg (t % 2 == 1) (a % b) b then t + 1 else t
  if neg then -(u : Int) else u

/-- A conversion to a w-bit integer: rounded, clamped; NaN gives 0, ±∞ the limits (R27). -/
def FV.toInt (mode w : Nat) : FV → Int
  | .nan => 0
  | .inf n => if n then -(2 ^ (w - 1) : Int) else 2 ^ (w - 1) - 1
  | .fin n m e => clampS w (roundIntRat mode n m 1 e)

/-- An integer as an exact value. -/
def FV.ofInt (v : Int) : FV := .fin (decide (v < 0)) v.natAbs 0

/-! ### Stochastic rounding (R28, R29) -/

/-- One step of the generator. -/
def xorshift (x : Nat) : Nat :=
  let a := x ^^^ (x * 2 ^ 13 % 2 ^ 32)
  let b := a ^^^ (a / 2 ^ 17)
  b ^^^ (b * 2 ^ 5 % 2 ^ 32)

/-- The state after n draws. -/
def drawsAfter : Nat → Nat → Nat
  | 0, x => x
  | n + 1, x => drawsAfter n (xorshift x)

/-- The values of n draws from a state. -/
def drawList : Nat → Nat → List Nat
  | 0, _ => []
  | n + 1, x => xorshift x :: drawList n (xorshift x)

/-! ### Lanes (00_scope.md R2) -/

/-- The lanes of a register: n of them, w bits each. -/
def lanesGo (w : Nat) : Nat → Nat → List Nat
  | 0, _ => []
  | n + 1, x => x % 2 ^ w :: lanesGo w n (x / 2 ^ w)

def lanes (n w : Nat) (v : Vec) : List Nat := lanesGo w n v.toNat

/-- A number made of lanes of w bits, the first lowest. -/
def packLanes (w : Nat) : List Nat → Nat
  | [] => 0
  | x :: r => x % 2 ^ w + 2 ^ w * packLanes w r

/-- A register made of lanes of w bits; bits above them are zero. -/
def ofLanes (w : Nat) (l : List Nat) : Vec := BitVec.ofNat 2048 (packLanes w l)

/-- Lanes and element width of a tag; scalars have one element (02_numbers.md R25). -/
def Tag.shape : Tag → Nat × Nat
  | .empty | .reserved15 => (0, 0)
  | .i64 | .hndl => (1, 64)
  | .f32s => (1, 32)
  | .mask64 => (64, 1)
  | .mask128 => (128, 1)
  | .mask256 => (256, 1)
  | .vi32 | .vf32 => (64, 32)
  | .vbf16 | .vi16 => (128, 16)
  | .vf8e4 | .vf8e5 | .vi8 => (256, 8)
  | .vq4n => (512, 4)

/-- The float format of a tag. -/
def Tag.fmt : Tag → Option Fmt
  | .f32s | .vf32 => some fp32
  | .vbf16 => some bf16
  | .vf8e4 => some e4m3
  | .vf8e5 => some e5m2
  | _ => none

/-- A float vector, an integer vector, a mask (09_be_vector.md R132). -/
def Tag.isFloatV : Tag → Bool
  | .vf32 | .vbf16 | .vf8e4 | .vf8e5 => true
  | _ => false

@[inherit_doc Tag.isFloatV]
def Tag.isIntV : Tag → Bool
  | .vi32 | .vi16 | .vi8 => true
  | _ => false

@[inherit_doc Tag.isFloatV]
def Tag.isMask : Tag → Bool
  | .mask64 | .mask128 | .mask256 => true
  | _ => false

/-- A numeric vector (R132). -/
def Tag.isNumV (t : Tag) : Bool := t.isFloatV || t.isIntV

/-- The mask of a lane count (R139). -/
def maskTag (n : Nat) : Tag := if n = 64 then .mask64 else if n = 128 then .mask128 else .mask256

/-- The bits of a register that its tag keeps: the unused bits of masks and scalars are zero (R25). -/
def Tag.keep (t : Tag) (v : Vec) : Vec :=
  match t with
  | .i64 | .hndl | .f32s | .mask64 | .mask128 | .mask256 =>
    BitVec.ofNat 2048 (v.toNat % 2 ^ (t.shape.1 * t.shape.2))
  | .empty | .reserved15 => 0#2048
  | _ => v

/-- A register as it is written: its unused high bits zero (R25). -/
def Reg.clean (r : Reg) : Reg := { r with bits := r.tag.keep r.bits }

/-! ### Conversions (R30) -/

/-- The format of an element: a float, or an integer of a width. -/
inductive Elem where
  | flt (f : Fmt)
  | int (w : Nat)
  deriving DecidableEq, Repr

/-- The element format of a numeric tag. -/
def Tag.elem : Tag → Option Elem
  | .i64 => some (.int 64)
  | .vi32 => some (.int 32)
  | .vi16 => some (.int 16)
  | .vi8 => some (.int 8)
  | t => t.fmt.map Elem.flt

def Elem.w : Elem → Nat
  | .flt f => f.w
  | .int w => w

/-- The exact value of an element's code. -/
def Elem.val : Elem → Nat → FV
  | .flt f, c => f.dec c
  | .int w, c => FV.ofInt (sgnN w c)

/-- One element converted (R30): `x` is its draw where the conversion is stochastic. -/
def convert (src dst : Elem) (mode : Nat) (sat : Bool) (x : Option Nat) (c : Nat) : Nat :=
  if src = dst then c % 2 ^ dst.w
  else match dst with
    | .flt f => f.round (noDraw mode) sat x (src.val c)
    | .int w => match src with
      | .int v => lowN w (clampS w (sgnN v c))
      | .flt f => lowN w ((f.dec c).toInt (noDraw mode) w)

/-! ### Q4N (R31-R34) -/

/-- The level L[m], in units of 2^-7. -/
def q4level : Nat → Nat
  | 0 => 0 | 1 => 13 | 2 => 26 | 3 => 40 | 4 => 55 | 5 => 72 | 6 => 93 | _ => 128

/-- The sign and level of a code, as an exact value; 0b1000 decodes as +0. -/
def q4val (c : Nat) : FV :=
  let m := c % 8
  if m = 0 then .fin false 0 0 else .fin (c / 8 % 2 == 1) (q4level m) (-7)

/-- The level index for q = n/d below 1 (R33): the nearer level, a tie to the smaller; with a draw, per R28. -/
def q4index (x : Option Nat) (n d : Nat) : Nat :=
  let lo := ([1, 2, 3, 4, 5, 6].filter fun m => decide (q4level m * d ≤ n * 128)).length
  let r := n * 128 - q4level lo * d
  let g := (q4level (lo + 1) - q4level lo) * d
  if r = 0 then lo
  else match x with
    | some y => if y * g < r * 2 ^ 32 then lo + 1 else lo
    | none => if g < 2 * r then lo + 1 else lo

/-- One block quantised (R33): 64 FP32 codes, the super-scale's code, a draw for each element under mode 4. -/
def q4quant (xs : List Nat) (sc : Nat) (draws : List Nat) : List Nat × Nat :=
  let vs := xs.map fp32.dec
  match fp32.dec sc with
  | .fin false (m + 1) e =>
    if vs.all (fun v => match v with | .fin _ _ _ => true | _ => false) then
      let a := vs.foldl (fun b v => FV.fmax b v.abs) (.fin false 0 0)
      match a with
      | .fin _ am ae =>
        let s := (max 1 (min 255 (roundIntRat 0 false (255 * am) (m + 1) (ae - e)))).toNat
        let codes := (vs.zip (draws.map some ++ List.replicate 64 none)).map fun vx =>
          match vx.1 with
          | .fin neg xm xe =>
            let (n, d) := scaled (xm * 256) (s * (m + 1)) (xe - e)
            let k := if d ≤ n then 7 else q4index vx.2 n d
            if k = 0 then 0 else b2n neg * 8 + k
          | _ => 0
        (codes, s)
      | _ => (xs.map fun _ => 0, 0)
    else (xs.map fun _ => 0, 0)
  | _ => (xs.map fun _ => 0, 0)

/-- One element dequantised, exact (R34). -/
def q4deq (c s sc : Nat) : FV :=
  if s = 0 then .fin false 0 0 else ((q4val c).mul (.fin false s (-8))).mul (fp32.dec sc)

/-! ### Transcendentals (09_be_vector.md R141): exact, or enclosed to far more bits than a result has -/

/-- The integer square root, built bit by bit. -/
def isqrtGo (n : Nat) : Nat → Nat → Nat
  | 0, r => r
  | k + 1, r => isqrtGo n k (if (r + 2 ^ k) * (r + 2 ^ k) ≤ n then r + 2 ^ k else r)

def isqrt (n : Nat) : Nat := isqrtGo n (n.log2 / 2 + 1) 0

/-- √(n·2^e) as a value with a sticky last bit: every rounding to 24 bits or fewer comes out as of the exact root. -/
def sqrtSticky (n : Nat) (e : Int) : Nat × Int :=
  let t : Nat := 64
  let n1 := if e % 2 = 0 then n * 4 ^ t else n * 2 * 4 ^ t
  let e1 : Int := (if e % 2 = 0 then e else e - 1) / 2 - t
  let r := isqrt n1
  (2 * r + b2n (r * r != n1), e1 - 1)

/-- 1/√(n·2^e) with a sticky last bit. -/
def rsqrtSticky (n : Nat) (e : Int) : Nat × Int :=
  let n1 := if e % 2 = 0 then n else n * 2
  let e1 : Int := if e % 2 = 0 then e else e - 1
  let t : Nat := n1.log2 + 64
  let q := 4 ^ t / n1
  let r := isqrt q
  (2 * r + b2n (r * r * n1 != 4 ^ t), -(t : Int) - e1 / 2 - 1)

/-- The fixed point of the series: values in units of 2^-320. -/
def fxOne : Nat := 2 ^ 320

/-- ln 2, in units of 2^-320, as Σ 1/(k·2^k). -/
def fxLn2 : Nat := ((List.range 330).map fun k => fxOne / ((k + 1) * 2 ^ (k + 1))).sum

/-- exp(x) for x below 1 in units of 2^-320, by its series. -/
def fxExpGo (x : Nat) : Nat → Nat → Nat → Nat → Nat
  | 0, _, _, acc => acc
  | n + 1, k, t, acc => fxExpGo x n (k + 1) (t * x / fxOne / k) (acc + t)

def fxExp (x : Nat) : Nat := fxExpGo x 80 1 fxOne 0

/-- 2^(t·2^-320) as (m, e): the value m·2^e. -/
def fxExp2 (t : Int) : Nat × Int :=
  let k := t / (fxOne : Int)
  let f := (t % (fxOne : Int)).toNat
  (fxExp (f * fxLn2 / fxOne), k - 320)

/-- A finite value in units of 2^-320, rounded down. -/
def fxOf (neg : Bool) (m : Nat) (e : Int) : Int :=
  let (n, d) := scaled m 1 (e + 320)
  if neg then -(((n + d - 1) / d : Nat) : Int) else ((n / d : Nat) : Int)

/-- The binary digits of log₂ x for x in [1, 2), in units of 2^-n, x in units of 2^-320. -/
def fxLogGo : Nat → Nat → Nat → Nat
  | 0, _, acc => acc
  | n + 1, x, acc =>
    let y := x * x / fxOne
    if 2 * fxOne ≤ y then fxLogGo n (y / 2) (2 * acc + 1) else fxLogGo n y (2 * acc)

/-- The functions of R141, rounded once. -/
inductive Trans where
  | rcp | rsq | sqrt | exp2 | log2 | tanh
  deriving DecidableEq, Repr

/-- 2^a for a finite a (R141). -/
def exp2Round (f : Fmt) (mode : Nat) (neg : Bool) (m : Nat) (e : Int) : Nat :=
  let (n, d) := scaled m 1 e
  if n % d = 0 then
    let k := min (n / d) 1000
    f.roundRat mode false none false 1 1 (if neg then -(k : Int) else k)
  else if 1000 * d ≤ n then f.roundRat mode false none false 3 1 (if neg then -1001 else 1000)
  else
    let (r, g) := fxExp2 (fxOf neg m e)
    f.roundRat mode false none false (2 * r + 1) 1 (g - 1)

/-- log₂ a for a positive finite a (R141). -/
def log2Round (f : Fmt) (mode : Nat) (m : Nat) (e : Int) : Nat :=
  let k : Int := (m.log2 : Int) + e
  if m = 2 ^ m.log2 then
    f.roundRat mode false none (decide (k < 0)) k.natAbs 1 0
  else
    let x := m * fxOne / 2 ^ m.log2
    let t : Int := k * 2 ^ 160 + (fxLogGo 160 x 0 : Nat)
    let u := 2 * t + 1
    f.roundRat mode false none (decide (u < 0)) u.natAbs 1 (-161)

/-- tanh a for a finite a that is not zero (R141). -/
def tanhRound (f : Fmt) (mode : Nat) (neg : Bool) (m : Nat) (e : Int) : Nat :=
  let (n, d) := scaled m 1 e
  if n * 2 ^ 40 < d then f.roundRat mode false none neg (m * (2 ^ 70 - 1)) 1 (e - 70)
  else if 32 * d ≤ n then f.roundRat mode false none neg (2 ^ 70 - 1) 1 (-70)
  else
    let t := 2 * n * fxOne * fxOne / (d * fxLn2)
    let (r, g) := fxExp2 (t : Nat)
    let (a, b) := scaled r 1 g
    f.roundRat mode false none neg (a - b) (a + b) 0

/-- f(a), correctly rounded (R141). -/
def Fmt.trans (f : Fmt) (mode : Nat) (op : Trans) (v : FV) : Nat :=
  let s (neg : Bool) : Nat := b2n neg * 2 ^ (f.fb + f.eb)
  let inf (neg : Bool) : Nat := s neg + f.infc.getD 0
  let one (neg : Bool) : Nat := s neg + f.bias * 2 ^ f.fb
  match op, v with
  | _, .nan => f.nanc
  | .rcp, .inf n => s n
  | .rcp, .fin n m e => if m = 0 then inf n else f.roundRat mode false none n 1 m (-e)
  | .rsq, .inf n => if n then f.nanc else s false
  | .rsq, .fin n m e =>
    if m = 0 then inf n else if n then f.nanc
    else f.roundRat mode false none false (rsqrtSticky m e).1 1 (rsqrtSticky m e).2
  | .sqrt, .inf n => if n then f.nanc else inf false
  | .sqrt, .fin n m e =>
    if m = 0 then s n else if n then f.nanc
    else f.roundRat mode false none false (sqrtSticky m e).1 1 (sqrtSticky m e).2
  | .exp2, .inf n => if n then s false else inf false
  | .exp2, .fin n m e => if m = 0 then one false else exp2Round f mode n m e
  | .log2, .inf n => if n then f.nanc else inf false
  | .log2, .fin n m e => if m = 0 then inf true else if n then f.nanc else log2Round f mode m e
  | .tanh, .inf n => one n
  | .tanh, .fin n m e => if m = 0 then s n else tanhRound f mode n m e

/-! ### Summation orders (R36, R37) -/

/-- One step of the pairwise tree: lane i with lane i + n/2. -/
def treeStep {α : Type} (op : α → α → α) (l : List α) : List α :=
  let w := l.length / 2
  List.zipWith op (l.take w) (l.drop w)

/-- The pairwise tree over 2^k lanes. -/
def treeGo {α : Type} (op : α → α → α) : Nat → List α → List α
  | 0, l => l
  | k + 1, l => treeGo op k (treeStep op l)

/-- The sequential prefix sum: lane 0 copied, then each step's result (R37). -/
def prefixGo (op : Nat → Nat → Nat) : Nat → List Nat → List Nat
  | _, [] => []
  | s, x :: r => op s x :: prefixGo op (op s x) r

def prefixSum (op : Nat → Nat → Nat) : List Nat → List Nat
  | [] => []
  | x :: r => x :: prefixGo op x r

end Sys2Proof.Machine
end

