-- ==== Sys2Proof/Machine/Flags.lean ====
section
/-! DEFINITION. Status words and truth values: the special registers that report state (07_be_control.md R121,
R122), a generator's status (11_tensor_access.md R175), the results of comparisons. Marks: DEDUCED (log 18, 23);
DESIGN CHOICE (log 61). -/

namespace Sys2Proof.Machine

/-- A truth value as a token's register: I64 of 1 or 0 (07_be_control.md R117). -/
def Reg.truth (b : Bool) : Reg := Reg.ofW (BitVec.ofNat 64 (b2n b))

/-- A truth value as a token (R117). -/
def truth (b : Bool) : Token := .val (Reg.truth b)

/-- `CTX`: context number and privilege (R121). -/
def ctxWord (n : Nat) (super : Bool) : Word64 := BitVec.ofNat 64 (n % 8 + b2n super * 8)

/-- `TILE` (R122). -/
def tileWord (module_ d t : Nat) : Word64 :=
  BitVec.ofNat 64 (module_ % 1024 * 2 ^ 22 + d % 32 * 2 ^ 17 + t % 256 * 2 ^ 8 + t / 12 % 16 * 16 + t % 12)

/-- `TASK` (R121). -/
def taskWord : Option (BitVec 32) → Word64
  | none => 0#64
  | some id => BitVec.ofNat 64 (2 ^ 32 + id.toNat)

/-- `HOPS`: source tile, mesh latency and hops of a card (R122). -/
def hopsWord (src lat count : Nat) : Word64 :=
  BitVec.ofNat 64 (src % 256 * 2 ^ 24 + lat % 2 ^ 16 * 2 ^ 8 + count % 256)

/-- Lanes of a stream element; for Q4N, codes (11_tensor_access.md R173). -/
def Tag.lanes (t : Tag) : Nat := t.shape.1

/-- Stream elements along d0: the last of a row may be short (R174). -/
def Ag.rowLen (a : Ag) : Nat := if a.tag.lanes = 0 then 0 else (a.ext.c0 + a.tag.lanes - 1) / a.tag.lanes

/-- Stream elements in a generator's window (R174). -/
def Ag.len (a : Ag) : Nat :=
  if a.tag = .empty then 0 else a.rowLen * a.ext.c1 * a.ext.c2 * a.ext.c3

/-- The origin, within the object, of stream element k of a generator's window (R174). -/
def Ag.at (a : Ag) (k : Nat) : C4 :=
  let r := a.rowLen
  { c0 := a.org.c0 + k % r * a.tag.lanes
    c1 := a.org.c1 + k / r % a.ext.c1
    c2 := a.org.c2 + k / r / a.ext.c1 % a.ext.c2
    c3 := a.org.c3 + k / r / a.ext.c1 / a.ext.c2 }

/-- Lanes that stream element k holds (R174). -/
def Ag.lanesAt (a : Ag) (k : Nat) : Nat :=
  min a.tag.lanes (a.ext.c0 - k % a.rowLen * a.tag.lanes)

/-- `AGSTAT` of a generator, read by its owner or by another context (R175). -/
def Ag.stat (a : Ag) (port owner : Bool) : Word64 :=
  let common := a.owner % 8 * 2 ^ 16 + b2n a.bound
  if owner then
    BitVec.ofNat 64 (a.pos % 2 ^ 32 * 2 ^ 32 + common
      + ((a.cause.map Cause.code).getD 0) * 2 ^ 8
      + b2n (a.bound && a.tag != .empty && decide (a.len ≤ a.pos)) * 2 ^ 6
      + b2n port * 2 ^ 5 + b2n a.rw * 2 ^ 4 + b2n a.tr.isSome * 2 ^ 3)
  else BitVec.ofNat 64 common

def Tile.ag (t : Tile) (g : Nat) : Ag := look {} t.ags g

def Tile.setAg (t : Tile) (g : Nat) (a : Ag) : Tile := { t with ags := put t.ags g a }

/-- `TASK`, `GANG` and `AGSTAT0`-`AGSTAT7` of the tile and the context's `FAULTREC` as they stand, for the context at p (R120, R121, R175). -/
def State.statusWords (s : State) (p : Place) : List Word64 :=
  let t := s.tile p.die p.tile
  [taskWord t.runTask, if t.runs then t.gang else 0#64] ++ ((List.range 8).map fun g =>
    let a := t.ag g
    a.stat ((look {} t.ctxs 0).ports.any fun b => b.2 == g) (a.bound && a.owner == p.ctx)) ++ [(s.ctx p).faultRec]

/-- The context at p commits, or its run starts: from now on it reads the status words as they stand (R123). -/
def State.see (s : State) (p : Place) : State := s.updCtx p fun c => { c with seen := s.statusWords p }

/-- A special register read by the context at p: `CYCLE` as it stands, every other as of the context's last commit (R121, R123).
`TASK`, `GANG`, `AGSTAT` and `FAULTREC` can change between its commits and are kept as of the last one. -/
def State.sreg (s : State) (p : Place) (n : Nat) : Word64 :=
  let c := s.ctx p
  if n = 0x000 then ctxWord p.ctx c.super
  else if n = 0x001 then tileWord s.moduleId p.die p.tile
  else if n = 0x002 then c.seen.getD 0 0#64
  else if n = 0x003 then c.seen.getD 1 0#64
  else if n = 0x004 then BitVec.ofNat 64 (c.region % 4096)
  else if n = 0x008 then BitVec.ofNat 64 s.cycle
  else if n = 0x009 then c.hops
  else if n = 0x00A then c.lastExit.setWidth 64
  else if n = 0x010 then BitVec.ofNat 64 c.round
  else if n = 0x011 then BitVec.ofNat 64 (b2n c.sat)
  else if n = 0x012 then c.srseed.setWidth 64
  else if n = 0x018 then c.rasptr.setWidth 64
  else if n = 0x019 then c.raslim.setWidth 64
  else if n = 0x01A then BitVec.ofNat 64 (c.ras.length + c.spilled)
  else if n = 0x020 then c.tmoBlock.setWidth 64
  else if n = 0x021 then c.tmoWait.setWidth 64
  else if 0x030 ≤ n ∧ n < 0x038 then c.seen.getD (n - 0x02E) 0#64
  else if n = 0x040 then c.seen.getD 10 0#64
  else if n = 0x100 then c.fctx.setWidth 64
  else if n = 0x101 then c.fresume.setWidth 64
  else 0#64

/-- A special register written at commit by the context at p (R97, R120, R121, R26-R29). A `RASDEPTH` below the
entries held has been refused when its `MTS` fired; R121 gives no width for it, and it takes all 64 bits (log 18). -/
def Ctx.setSreg (c : Ctx) (ctx n : Nat) (v : Word64) : Ctx :=
  if n = 0x010 then { c with round := if fldN v 0 3 < 5 then fldN v 0 3 else 0 }
  else if n = 0x011 then { c with sat := bit v 0 }
  else if n = 0x012 then { c with srseed := if fldN v 0 32 = 0 then 1#32 else fld v 0 32 }
  else if n = 0x018 then { c with rasptr := BitVec.ofNat 24 (fldN v 3 21 * 8) }
  else if n = 0x019 then { c with raslim := BitVec.ofNat 24 (fldN v 3 21 * 8) }
  else if n = 0x01A then { c with spilled := v.toNat - c.ras.length }
  else if n = 0x020 then { c with tmoBlock := if fldN v 0 32 < 1024 then 1024#32 else fld v 0 32 }
  else if n = 0x021 then { c with tmoWait := if fldN v 0 32 < 1024 then 1024#32 else fld v 0 32 }
  else if n = 0x100 then
    if fldN v 0 3 = 0 ∨ fldN v 0 3 = ctx then c else { c with fctx := fld v 0 3 }
  else if n = 0x101 then { c with fresume := fld v 0 32 }
  else c

end Sys2Proof.Machine
end

