-- ==== Sys2Proof/Machine/Shape.lean ====
section
/-! DEFINITION. What the encoding fixes of each instruction (04_encoding.md R58-R64): its predication, the slots
it takes, its targets, its LSID and class, its timeline, its draws. -/

namespace Sys2Proof.Machine

/-- How an instruction holds back loads of its block with a higher LSID (03_memory_model.md R42, 10_be_local_memory.md
R156, R163, 12_tae_instructions.md R197, 18_msg_instructions.md R279, 23_td_instructions.md R318, 26_nd_instructions.md R341). -/
inductive Gate where
  | none | localStore | tensorStore | sync
  /-- a load through this generator: it holds back where the generator's order is ACQ -/
  | tload (g : Nat)
  deriving DecidableEq, Repr

/-- The fixed properties of an instruction. -/
structure Shape where
  /-- PR (R61) -/
  pr : BitVec 2 := 0#2
  /-- data slots taken: none, left, left and right, or with slot 2 (R61) -/
  slots : Nat := 0
  /-- targets in the order of the results (R62) -/
  targets : List Nat := []
  /-- LSID (R58) -/
  lsid : Option Nat := none
  counted : Bool := false
  /-- timeline on which it takes a number (R17) -/
  eng : Option Engine := none
  isExit : Bool := false
  /-- draws under `ROUND` = 4 (09_be_vector.md R134) -/
  draws : Nat := 0
  gate : Gate := .none
  deriving DecidableEq, Repr

/-- The shape of an instruction that stands at index `own` of its block. Events have none. -/
def shapeOf (i : Instr) (own : Nat) : Shape :=
  match i with
  | .bro p _ _ => { pr := p, isExit := true }
  | .brb p _ _ => { pr := p, isExit := true }
  | .callo p _ _ => { pr := p, isExit := true }
  | .ret p _ => { pr := p, isExit := true }
  | .trap p _ => { pr := p }
  | .bri p _ => { pr := p, slots := 1, isExit := true }
  | .calli p _ => { pr := p, slots := 1, isExit := true }
  | .texit p _ => { pr := p, isExit := true }
  | .hret p => { pr := p, isExit := true }
  | .eret p _ => { pr := p, isExit := true }
  | .null p t u => { pr := p, targets := [t.toNat, u.toNat] }
  | .mov p t u => { pr := p, slots := 1, targets := [t.toNat, u.toNat] }
  | .mov3 p t u v => { pr := p, slots := 1, targets := [t.toNat, u.toNat, v.toNat] }
  | .movi p _ t => { pr := p, targets := [t.toNat] }
  | .genu p _ t => { pr := p, targets := [t.toNat] }
  | .add p _ t u => { pr := p, slots := 2, targets := [t.toNat, u.toNat] }
  | .sub p _ t u => { pr := p, slots := 2, targets := [t.toNat, u.toNat] }
  | .and p _ t u => { pr := p, slots := 2, targets := [t.toNat, u.toNat] }
  | .or p _ t u => { pr := p, slots := 2, targets := [t.toNat, u.toNat] }
  | .xor p _ t u => { pr := p, slots := 2, targets := [t.toNat, u.toNat] }
  | .andn p _ t u => { pr := p, slots := 2, targets := [t.toNat, u.toNat] }
  | .shl p _ t u => { pr := p, slots := 2, targets := [t.toNat, u.toNat] }
  | .shr p _ t u => { pr := p, slots := 2, targets := [t.toNat, u.toNat] }
  | .sra p _ t u => { pr := p, slots := 2, targets := [t.toNat, u.toNat] }
  | .rotl p _ t u => { pr := p, slots := 2, targets := [t.toNat, u.toNat] }
  | .min p _ t u => { pr := p, slots := 2, targets := [t.toNat, u.toNat] }
  | .max p _ t u => { pr := p, slots := 2, targets := [t.toNat, u.toNat] }
  | .minu p _ t u => { pr := p, slots := 2, targets := [t.toNat, u.toNat] }
  | .maxu p _ t u => { pr := p, slots := 2, targets := [t.toNat, u.toNat] }
  | .mul p _ t u => { pr := p, slots := 2, targets := [t.toNat, u.toNat] }
  | .mulh p _ t u => { pr := p, slots := 2, targets := [t.toNat, u.toNat] }
  | .mulhu p _ t u => { pr := p, slots := 2, targets := [t.toNat, u.toNat] }
  | .div p _ t u => { pr := p, slots := 2, targets := [t.toNat, u.toNat] }
  | .divu p _ t u => { pr := p, slots := 2, targets := [t.toNat, u.toNat] }
  | .rem p _ t u => { pr := p, slots := 2, targets := [t.toNat, u.toNat] }
  | .remu p _ t u => { pr := p, slots := 2, targets := [t.toNat, u.toNat] }
  | .clz p _ t u => { pr := p, slots := 1, targets := [t.toNat, u.toNat] }
  | .ctz p _ t u => { pr := p, slots := 1, targets := [t.toNat, u.toNat] }
  | .popc p _ t u => { pr := p, slots := 1, targets := [t.toNat, u.toNat] }
  | .sext p _ t u => { pr := p, slots := 1, targets := [t.toNat, u.toNat] }
  | .zext p _ t u => { pr := p, slots := 1, targets := [t.toNat, u.toNat] }
  | .adds p _ t u => { pr := p, slots := 2, targets := [t.toNat, u.toNat] }
  | .subs p _ t u => { pr := p, slots := 2, targets := [t.toNat, u.toNat] }
  | .addi p _ t => { pr := p, slots := 1, targets := [t.toNat] }
  | .andi p _ t => { pr := p, slots := 1, targets := [t.toNat] }
  | .ori p _ t => { pr := p, slots := 1, targets := [t.toNat] }
  | .xori p _ t => { pr := p, slots := 1, targets := [t.toNat] }
  | .shli p _ t => { pr := p, slots := 1, targets := [t.toNat] }
  | .shri p _ t => { pr := p, slots := 1, targets := [t.toNat] }
  | .srai p _ t => { pr := p, slots := 1, targets := [t.toNat] }
  | .mini p _ t => { pr := p, slots := 1, targets := [t.toNat] }
  | .maxi p _ t => { pr := p, slots := 1, targets := [t.toNat] }
  | .muli p _ t => { pr := p, slots := 1, targets := [t.toNat] }
  | .teq p t u => { pr := p, slots := 2, targets := [t.toNat, u.toNat] }
  | .tne p t u => { pr := p, slots := 2, targets := [t.toNat, u.toNat] }
  | .tlt p t u => { pr := p, slots := 2, targets := [t.toNat, u.toNat] }
  | .tle p t u => { pr := p, slots := 2, targets := [t.toNat, u.toNat] }
  | .tltu p t u => { pr := p, slots := 2, targets := [t.toNat, u.toNat] }
  | .tleu p t u => { pr := p, slots := 2, targets := [t.toNat, u.toNat] }
  | .teqi p _ t => { pr := p, slots := 1, targets := [t.toNat] }
  | .tnei p _ t => { pr := p, slots := 1, targets := [t.toNat] }
  | .tlti p _ t => { pr := p, slots := 1, targets := [t.toNat] }
  | .tlei p _ t => { pr := p, slots := 1, targets := [t.toNat] }
  | .tltui p _ t => { pr := p, slots := 1, targets := [t.toNat] }
  | .tleui p _ t => { pr := p, slots := 1, targets := [t.toNat] }
  | .tgti p _ t => { pr := p, slots := 1, targets := [t.toNat] }
  | .tgei p _ t => { pr := p, slots := 1, targets := [t.toNat] }
  | .pand p t u => { pr := p, slots := 2, targets := [t.toNat, u.toNat] }
  | .por p t u => { pr := p, slots := 2, targets := [t.toNat, u.toNat] }
  | .pnot p t u => { pr := p, slots := 1, targets := [t.toNat, u.toNat] }
  | .mfs p _ t u => { pr := p, targets := [t.toNat, u.toNat] }
  | .mts p l _ => { pr := p, slots := 1, lsid := some l.toNat, counted := true }
  | .nop p => { pr := p }
  | .ldl p l _ _ _ t => { pr := p, slots := 1, targets := [t.toNat], lsid := some l.toNat }
  | .stl p l _ _ => { pr := p, slots := 2, lsid := some l.toNat, counted := true, gate := .localStore }
  | .vldl p l _ _ t => { pr := p, slots := 1, targets := [t.toNat], lsid := some l.toNat }
  | .vstl p l _ => { pr := p, slots := 2, lsid := some l.toNat, counted := true, gate := .localStore }
  | .vgtl p l _ _ t => { pr := p, slots := 2, targets := [t.toNat], lsid := some l.toNat }
  | .vscl l _ => { slots := 3, lsid := some l.toNat, counted := true, gate := .localStore }
  | .land p l _ t => { pr := p, targets := [t.toNat], lsid := some l.toNat, counted := true }
  | .fence p l _ _ _ => { pr := p, lsid := some l.toNat, counted := true, gate := .sync }
  | .tldx p l g _ t => { pr := p, slots := 1, targets := [t.toNat], lsid := some l.toNat, gate := .tload g.toNat }
  | .tldxOffset p l g _ _ t => { pr := p, slots := 2, targets := [t.toNat], lsid := some l.toNat, gate := .tload g.toNat }
  | .tstx p l _ _ => { pr := p, slots := 2, lsid := some l.toNat, counted := true, gate := .tensorStore }
  | .tstxOffset l _ _ _ => { slots := 3, lsid := some l.toNat, counted := true, gate := .tensorStore }
  | .tlds p l g _ t => { pr := p, slots := 1, targets := [t.toNat], lsid := some l.toNat, gate := .tload g.toNat }
  | .tsts p l _ _ => { pr := p, slots := 2, lsid := some l.toNat, counted := true, gate := .tensorStore }
  | .amol p l _ _ _ t => { pr := p, slots := 2, targets := [t.toNat], lsid := some l.toNat, counted := true }
  | .amot p l _ _ _ _ t => { pr := p, slots := 2, targets := [t.toNat], lsid := some l.toNat, counted := true }
  | .casLocal l _ _ t => { slots := 3, targets := [t.toNat], lsid := some l.toNat, counted := true }
  | .casTensor l _ _ _ t => { slots := 3, targets := [t.toNat], lsid := some l.toNat, counted := true }
  | .vamot p l _ _ => { pr := p, slots := 2, lsid := some l.toNat, counted := true }
  | .vadd p t u => { pr := p, slots := 2, targets := [t.toNat, u.toNat] }
  | .vsub p t u => { pr := p, slots := 2, targets := [t.toNat, u.toNat] }
  | .vmul p t u => { pr := p, slots := 2, targets := [t.toNat, u.toNat] }
  | .vmin p t u => { pr := p, slots := 2, targets := [t.toNat, u.toNat] }
  | .vmax p t u => { pr := p, slots := 2, targets := [t.toNat, u.toNat] }
  | .vabs p t u => { pr := p, slots := 1, targets := [t.toNat, u.toNat] }
  | .vneg p t u => { pr := p, slots := 1, targets := [t.toNat, u.toNat] }
  | .vand p t u => { pr := p, slots := 2, targets := [t.toNat, u.toNat] }
  | .vor p t u => { pr := p, slots := 2, targets := [t.toNat, u.toNat] }
  | .vxor p t u => { pr := p, slots := 2, targets := [t.toNat, u.toNat] }
  | .vshl p t u => { pr := p, slots := 2, targets := [t.toNat, u.toNat] }
  | .vshr p t u => { pr := p, slots := 2, targets := [t.toNat, u.toNat] }
  | .vsra p t u => { pr := p, slots := 2, targets := [t.toNat, u.toNat] }
  | .vadds p t u => { pr := p, slots := 2, targets := [t.toNat, u.toNat] }
  | .vsubs p t u => { pr := p, slots := 2, targets := [t.toNat, u.toNat] }
  | .vfma t u => { slots := 3, targets := [t.toNat, u.toNat] }
  | .vfms t u => { slots := 3, targets := [t.toNat, u.toNat] }
  | .vfnma t u => { slots := 3, targets := [t.toNat, u.toNat] }
  | .vceq p t u => { pr := p, slots := 2, targets := [t.toNat, u.toNat] }
  | .vcne p t u => { pr := p, slots := 2, targets := [t.toNat, u.toNat] }
  | .vclt p t u => { pr := p, slots := 2, targets := [t.toNat, u.toNat] }
  | .vcle p t u => { pr := p, slots := 2, targets := [t.toNat, u.toNat] }
  | .vcgt p t u => { pr := p, slots := 2, targets := [t.toNat, u.toNat] }
  | .vcge p t u => { pr := p, slots := 2, targets := [t.toNat, u.toNat] }
  | .vsel t u => { slots := 3, targets := [t.toNat, u.toNat] }
  | .vrcp p t u => { pr := p, slots := 1, targets := [t.toNat, u.toNat] }
  | .vrsq p t u => { pr := p, slots := 1, targets := [t.toNat, u.toNat] }
  | .vsqrt p t u => { pr := p, slots := 1, targets := [t.toNat, u.toNat] }
  | .vexp2 p t u => { pr := p, slots := 1, targets := [t.toNat, u.toNat] }
  | .vlog2 p t u => { pr := p, slots := 1, targets := [t.toNat, u.toNat] }
  | .vtanh p t u => { pr := p, slots := 1, targets := [t.toNat, u.toNat] }
  | .vrsum p t u => { pr := p, slots := 1, targets := [t.toNat, u.toNat] }
  | .vrmax p t u => { pr := p, slots := 1, targets := [t.toNat, u.toNat] }
  | .vrmin p t u => { pr := p, slots := 1, targets := [t.toNat, u.toNat] }
  | .vbcast p _ t u => { pr := p, slots := 1, targets := [t.toNat, u.toNat] }
  | .vext p t u => { pr := p, slots := 2, targets := [t.toNat, u.toNat] }
  | .vins t u => { slots := 3, targets := [t.toNat, u.toNat] }
  | .vperm p t u => { pr := p, slots := 2, targets := [t.toNat, u.toNat] }
  | .vrot p t u => { pr := p, slots := 2, targets := [t.toNat, u.toNat] }
  | .viota p _ t u => { pr := p, targets := [t.toNat, u.toNat] }
  | .vpsum p t u => { pr := p, slots := 1, targets := [t.toNat, u.toNat] }
  | .vcvt p g t u => { pr := p, slots := 1, targets := [t.toNat, u.toNat], draws := (if g == 9#4 then 128 else if g == 11#4 || g == 12#4 then 256 else 0) }
  | .vqnt _ t u => { slots := 3, targets := [t.toNat, u.toNat], draws := 64 }
  | .vdqnt _ _ t u => { slots := 3, targets := [t.toNat, u.toNat] }
  | .vpack p g t u => { pr := p, slots := 2, targets := [t.toNat, u.toNat], draws := (if g == 9#4 then 128 else if g == 11#4 || g == 12#4 then 256 else 0) }
  | .vunpk p _ _ _ t u => { pr := p, slots := 1, targets := [t.toNat, u.toNat] }
  | .vretag p _ t u => { pr := p, slots := 1, targets := [t.toNat, u.toNat] }
  | .mand p t u => { pr := p, slots := 2, targets := [t.toNat, u.toNat] }
  | .mor p t u => { pr := p, slots := 2, targets := [t.toNat, u.toNat] }
  | .mxor p t u => { pr := p, slots := 2, targets := [t.toNat, u.toNat] }
  | .mnot p t u => { pr := p, slots := 1, targets := [t.toNat, u.toNat] }
  | .mpop p t u => { pr := p, slots := 1, targets := [t.toNat, u.toNat] }
  | .mfirst p t u => { pr := p, slots := 1, targets := [t.toNat, u.toNat] }
  | .gset p l _ t => { pr := p, slots := 2, targets := [t.toNat], lsid := some l.toNat, counted := true }
  | .sbind p l _ => { pr := p, slots := 1, lsid := some l.toNat, counted := true }
  | .csetg p l _ => { pr := p, slots := 1, lsid := some l.toNat, counted := true }
  | .cpy p l _ _ t => { pr := p, slots := 2, targets := [t.toNat], lsid := some l.toNat, counted := true, eng := some .ce }
  | .cpyw p l _ t => { pr := p, slots := 2, targets := [t.toNat], lsid := some l.toNat, counted := true, eng := some .ce }
  | .cpym p l _ t => { pr := p, slots := 2, targets := [t.toNat], lsid := some l.toNat, counted := true, eng := some .ce }
  | .deal p l _ t => { pr := p, slots := 1, targets := [t.toNat], lsid := some l.toNat, counted := true, eng := some .ce }
  | .cpyt p l _ t => { pr := p, slots := 2, targets := [t.toNat], lsid := some l.toNat, counted := true, eng := some .ce }
  | .cpytLand p l _ t => { pr := p, slots := 2, targets := [t.toNat], lsid := some l.toNat, counted := true, eng := some .ce }
  | .twait p l _ t => { pr := p, slots := 1, targets := [t.toNat], lsid := some l.toNat, counted := true, gate := .sync }
  | .tread p l _ _ t => { pr := p, targets := [t.toNat], lsid := some l.toNat, counted := true }
  | .msetg p l _ t => { pr := p, slots := 1, targets := [t.toNat], lsid := some l.toNat, counted := true, eng := some .me }
  | .mma p l _ _ t => { pr := p, slots := 2, targets := [t.toNat], lsid := some l.toNat, counted := true, eng := some .me }
  | .mmaz p l _ _ t => { pr := p, slots := 2, targets := [t.toNat], lsid := some l.toNat, counted := true, eng := some .me }
  | .mmaq p l _ _ t => { pr := p, slots := 2, targets := [t.toNat], lsid := some l.toNat, counted := true, eng := some .me }
  | .mldb p l _ t => { pr := p, slots := 2, targets := [t.toNat], lsid := some l.toNat, counted := true, eng := some .me }
  | .mplay p l _ t => { pr := p, targets := [t.toNat], lsid := some l.toNat, counted := true, eng := some .me }
  | .mst p l _ _ t => { pr := p, slots := 1, targets := [t.toNat], lsid := some l.toNat, counted := true, eng := some .me }
  | .mlda p l _ t => { pr := p, slots := 2, targets := [t.toNat], lsid := some l.toNat, counted := true, eng := some .me }
  | .mzero p l _ t => { pr := p, slots := 1, targets := [t.toNat], lsid := some l.toNat, counted := true, eng := some .me }
  | .mrls p l _ t => { pr := p, targets := [t.toNat], lsid := some l.toNat, counted := true, eng := some .me }
  | .mseat p l t => { pr := p, slots := 2, targets := [t.toNat], lsid := some l.toNat, counted := true, eng := some .me }
  | .send p l _ _ t => { pr := p, slots := 2, targets := [t.toNat], lsid := some l.toNat, counted := true, eng := some .mse }
  | .sendq p l _ _ t => { pr := p, slots := 2, targets := [t.toNat], lsid := some l.toNat, counted := true, eng := some .mse }
  | .req p l _ _ t => { pr := p, slots := 2, targets := [t.toNat], lsid := some l.toNat, counted := true, eng := some .mse }
  | .reply p l _ _ t => { pr := p, slots := 2, targets := [t.toNat], lsid := some l.toNat, counted := true, eng := some .mse }
  | .xput p l _ _ t => { pr := p, slots := 2, targets := [t.toNat], lsid := some l.toNat, counted := true, eng := some .mse }
  | .xamo p l _ _ t => { pr := p, slots := 2, targets := [t.toNat], lsid := some l.toNat, counted := true, eng := some .mse }
  | .mbxset p l _ t => { pr := p, slots := 2, targets := [t.toNat], lsid := some l.toNat, counted := true, eng := some .mse }
  | .frget p l _ t => { pr := p, slots := 1, targets := [t.toNat], lsid := some l.toNat, counted := true, gate := .sync }
  | .frput p l t => { pr := p, slots := 2, targets := [t.toNat], lsid := some l.toNat, counted := true, eng := some .mse }
  | .xroute p l t => { pr := p, slots := 2, targets := [t.toNat], lsid := some l.toNat, counted := true, eng := some .mse }
  | .xflush p l t => { pr := p, slots := 2, targets := [t.toNat], lsid := some l.toNat, counted := true, eng := some .mse }
  | .tdec p l => { pr := p, slots := 2, lsid := some l.toNat, counted := true }
  | .tspawn p l t => { pr := p, slots := 2, targets := [t.toNat], lsid := some l.toNat, counted := true }
  | .tjoin p l t => { pr := p, slots := 1, targets := [t.toNat], lsid := some l.toNat, counted := true, gate := .sync }
  | .tstat p l _ t => { pr := p, slots := 1, targets := [t.toNat], lsid := some l.toNat, counted := true }
  | .tkill p l _ => { pr := p, slots := 1, lsid := some l.toNat, counted := true }
  | .ginst p l t => { pr := p, slots := 2, targets := [t.toNat], lsid := some l.toNat, counted := true }
  | .nopen p l _ n t => { pr := p, slots := 1, targets := if n.toNat = own then [t.toNat] else [t.toNat, n.toNat], lsid := some l.toNat, counted := true, gate := .sync }
  | .nclose p l => { pr := p, slots := 1, lsid := some l.toNat, counted := true }
  | .nbind p l => { pr := p, slots := 2, lsid := some l.toNat, counted := true }
  | .ntxb p l t => { pr := p, targets := [t.toNat], lsid := some l.toNat, counted := true }
  | .ntxa l => { slots := 3, lsid := some l.toNat, counted := true }
  | .ntxc p l t => { pr := p, slots := 1, targets := [t.toNat], lsid := some l.toNat, counted := true }
  | .ntxx p l => { pr := p, slots := 1, lsid := some l.toNat, counted := true }
  | .nsnap p l t => { pr := p, slots := 1, targets := [t.toNat], lsid := some l.toNat, counted := true }
  | .nmake p l t => { pr := p, slots := 1, targets := [t.toNat], lsid := some l.toNat, counted := true }
  | .nqry p l _ t => { pr := p, slots := 1, targets := [t.toNat], lsid := some l.toNat, counted := true }
  | .svc p l t => { pr := p, slots := 2, targets := [t.toNat], lsid := some l.toNat, counted := true, gate := .sync }
  | .bkpt p l _ => { pr := p, lsid := some l.toNat, counted := true }
  | .ctxsv p l => { pr := p, slots := 2, lsid := some l.toNat, counted := true }
  | .ctxrs p l => { pr := p, slots := 2, lsid := some l.toNat, counted := true }
  | .tlbi p l _ => { pr := p, slots := 2, lsid := some l.toNat, counted := true }
  | .bootGoWrite _ => {}
  | .spdmRequest _ => {}
  | .pcieOutOfWindowRequest _ _ => {}
  | .doorbell _ _ _ => {}
  | .cdoneWrite _ _ _ => {}
  | .queueEnable _ _ _ => {}
  | .registerWrite _ _ => {}
  | .queueAccept _ _ => {}
  | .completionPost _ _ => {}
  | .hostNop _ _ => {}
  | .kick _ _ => {}
  | .launch _ _ => {}
  | .makeobj _ _ => {}
  | .bindn _ _ => {}
  | .copyin _ _ => {}
  | .copyout _ _ => {}
  | .hostFence _ _ => {}
  | .qstat _ _ => {}
  | .preempt _ _ => {}
  | .resume _ _ => {}
  | .snapshot _ _ => {}
  | .partstat _ _ => {}
  | .lbTagStateWrite _ => {}
  | .mailboxMapWrite _ => {}
  | .allowanceReturnTimer _ => {}
  | .ualinkInboundWrite _ _ _ _ => {}
  | .ualinkUnsupportedRequest _ _ => {}
  | .voteLimitExpiry _ => {}
  | .txnIndoubt _ => {}
  | .txnSettle _ => {}
  | .keySlotLoad _ _ _ => {}
  | .routerTableWrite _ => {}
  | .regionBlockWrite _ _ => {}
  | .throttleStepUp _ => {}
  | .overtempReset _ _ => {}
  | .haltedContextWrite _ => {}
  | .powerUp => {}
  | .deviceReset => {}
  | .dieReset => {}
  | .kickDelivery => {}
  | .presidingElection => {}
  | .blockFetch => {}
  | .blockDecode => {}
  | .blockCommit => {}
  | .blockStallTimeout => {}
  | .waitTimeoutExpiry => {}
  | .contextDrained => {}
  | .handlerStart => {}
  | .trapStart => {}
  | .landingFill => {}
  | .faultRecordWrite => {}
  | .windowRequest => {}
  | .windowWithdraw => {}
  | .tensorRequest => {}
  | .tensorReply => {}
  | .tableWalk => {}
  | .linkFlitRetry => {}
  | .cowComplete => {}
  | .copyStart => {}
  | .copyComplete => {}
  | .dealerRun => {}
  | .streamReadahead => {}
  | .meEntryStart => {}
  | .meCommandApply => {}
  | .playRequest => {}
  | .playGrant => {}
  | .latchArrival => {}
  | .cardSend => {}
  | .frameCardArrival => {}
  | .queueCardArrival => {}
  | .landingCardArrival => {}
  | .replyCardArrival => {}
  | .atomicCardArrival => {}
  | .cardAck => {}
  | .queueMailboxFire => {}
  | .mailboxConfigApply => {}
  | .allowanceReturnArrival => {}
  | .refreshTimer => {}
  | .refreshRequestArrival => {}
  | .messageSend => {}
  | .fragmentArrival => {}
  | .meldDelivery => {}
  | .messageCompleted => {}
  | .ackTimer => {}
  | .ackArrival => {}
  | .busyArrival => {}
  | .busyResendTimer => {}
  | .meldTimeout => {}
  | .repairArrival => {}
  | .sourceTimerExpiry => {}
  | .giveupArrival => {}
  | .linkLossOfLock => {}
  | .linkDownDeclare => {}
  | .chordNewsArrival => {}
  | .linkUp => {}
  | .exchangeConfigApply => {}
  | .exchangeFlushArrival => {}
  | .exchangeReturnArrival => {}
  | .overflowRecordArrival => {}
  | .xflushCounterWrite => {}
  | .heartbeatTimer => {}
  | .heartbeatArrival => {}
  | .rejoin => {}
  | .decrementApply => {}
  | .killApply => {}
  | .placementPass => {}
  | .tResExpiry => {}
  | .stagingMergeClose => {}
  | .stagingComplete => {}
  | .taskStart => {}
  | .pipelineStart => {}
  | .barrierArrival => {}
  | .taskCompletion => {}
  | .ladderT1Expiry => {}
  | .ladderT2Expiry => {}
  | .taskSaveComplete => {}
  | .hangProgressReport => {}
  | .debugHalt => {}
  | .debugHaltRelease => {}
  | .openRequest => {}
  | .openRepresentTimer => {}
  | .bindApply => {}
  | .confirmationArrival => {}
  | .provisionalWithdraw => {}
  | .hubReplyArrival => {}
  | .prepareRequest => {}
  | .prepareReplyArrival => {}
  | .decisionArrival => {}
  | .decisionAckArrival => {}
  | .ntxcAckTimer => {}
  | .reclaim => {}
  | .snapshotRequest => {}
  | .machineCheck => {}
  | .masterUnfreeze => {}
  | .masterReset => {}
  | .lifeLogEpoch => {}
  | .throttleStepDown => {}

end Sys2Proof.Machine
end

