-- ==== Sys2Proof/WellFormed.lean ====
section
/-! DEFINITION. Well-formed instructions: the values that a word's fields may hold where the word's
opcode and fixed bits are defined (check 5 of spec/04_encoding.md R66; R59, R61, R64, R65 and the
decode fates of the instruction chapters), and the operands an event may have. What depends on the
rest of the block or on the context is judged by `BLOCK_DECODE`. -/

namespace Sys2Proof

/-- PR = 01 is reserved (R61). -/
def prOk (p : BitVec 2) : Bool := p != 1#2

/-- The target values 0x68 to 0x7E are reserved (R59). -/
def tgtOk (t : BitVec 7) : Bool := decide (t.toNat < 0x68) || t == 0x7F#7

/-- A target that must be a write entry or 0x7F (10_be_local_memory.md R161, 26_nd_instructions.md R346). -/
def wrOk (t : BitVec 7) : Bool := (0x60 ≤ t.toNat && decide (t.toNat < 0x68)) || t == 0x7F#7

/-- The special registers that MTS may name, at some privilege (07_be_control.md R120, R121). -/
def sregWritable (n : Nat) : Bool :=
  [0x10, 0x11, 0x12, 0x18, 0x19, 0x1A, 0x20, 0x21, 0x100, 0x101].contains n

/-- The implemented special registers (R121). -/
def sregImplemented (n : Nat) : Bool :=
  sregWritable n || [0, 1, 2, 3, 4, 8, 9, 10, 0x40].contains n || (0x30 ≤ n && decide (n ≤ 0x37))

/-- Firmware has five measurements (29_host_firmware.md R372). -/
def SpdmReq.wf : SpdmReq → Bool
  | .measurement index => 1 ≤ index && decide (index ≤ 5)
  | .identity | .certificate => true

/-- The registers that exist. -/
def HwReg.wf : HwReg → Bool
  | .queueRbase fn q | .queueCbase fn q | .queueExpect fn q | .queueRegion fn q =>
    decide (fn < 34 ∧ q < 8)
  | .coderate die index => decide (die < 32 ∧ index < 8)
  | .meldcfg die => decide (die < 32)
  | .tileTable _ _ | .aperture | .requester _ | .bootWindow _ | .unused _ => true
  | .chordValid die dest chord => decide (die < 32 ∧ dest < 32 ∧ chord < 4)
  | .mapStore die tile offset => decide (die < 32 ∧ tile < 144 ∧ offset + 8 ≤ 0x200000)
  | .mapLanding die tile offset => decide (die < 32 ∧ tile < 144 ∧ offset + 8 ≤ 0x4000)

/-- The field values of an instruction are defined ones. -/
def Instr.wf : Instr → Bool
  | .bro p _ _ => prOk p
  | .brb p _ _ => prOk p
  | .callo p _ _ => prOk p
  | .ret p _ => prOk p
  | .trap p _ => prOk p
  | .bri p _ => prOk p
  | .calli p _ => prOk p
  | .texit p _ => prOk p
  | .hret p => prOk p
  | .eret p _ => prOk p
  | .null p t u => prOk p && tgtOk t && tgtOk u
  | .mov p t u => prOk p && tgtOk t && tgtOk u
  | .mov3 p t u v => prOk p && tgtOk t && tgtOk u && tgtOk v
  | .movi p _ t => prOk p && tgtOk t
  | .genu p _ t => prOk p && tgtOk t
  | .add p w t u => prOk p && tgtOk t && tgtOk u && w != 3#2
  | .sub p w t u => prOk p && tgtOk t && tgtOk u && w != 3#2
  | .and p w t u => prOk p && tgtOk t && tgtOk u && w != 3#2
  | .or p w t u => prOk p && tgtOk t && tgtOk u && w != 3#2
  | .xor p w t u => prOk p && tgtOk t && tgtOk u && w != 3#2
  | .andn p w t u => prOk p && tgtOk t && tgtOk u && w != 3#2
  | .shl p w t u => prOk p && tgtOk t && tgtOk u && w != 3#2
  | .shr p w t u => prOk p && tgtOk t && tgtOk u && w != 3#2
  | .sra p w t u => prOk p && tgtOk t && tgtOk u && w != 3#2
  | .rotl p w t u => prOk p && tgtOk t && tgtOk u && w != 3#2
  | .min p w t u => prOk p && tgtOk t && tgtOk u && w != 3#2
  | .max p w t u => prOk p && tgtOk t && tgtOk u && w != 3#2
  | .minu p w t u => prOk p && tgtOk t && tgtOk u && w != 3#2
  | .maxu p w t u => prOk p && tgtOk t && tgtOk u && w != 3#2
  | .mul p w t u => prOk p && tgtOk t && tgtOk u && w != 3#2
  | .mulh p w t u => prOk p && tgtOk t && tgtOk u && w != 3#2
  | .mulhu p w t u => prOk p && tgtOk t && tgtOk u && w != 3#2
  | .div p w t u => prOk p && tgtOk t && tgtOk u && w != 3#2
  | .divu p w t u => prOk p && tgtOk t && tgtOk u && w != 3#2
  | .rem p w t u => prOk p && tgtOk t && tgtOk u && w != 3#2
  | .remu p w t u => prOk p && tgtOk t && tgtOk u && w != 3#2
  | .clz p w t u => prOk p && tgtOk t && tgtOk u && w != 3#2
  | .ctz p w t u => prOk p && tgtOk t && tgtOk u && w != 3#2
  | .popc p w t u => prOk p && tgtOk t && tgtOk u && w != 3#2
  | .sext p k t u => prOk p && tgtOk t && tgtOk u && k != 3#2
  | .zext p k t u => prOk p && tgtOk t && tgtOk u && k != 3#2
  | .adds p w t u => prOk p && tgtOk t && tgtOk u && w != 3#2
  | .subs p w t u => prOk p && tgtOk t && tgtOk u && w != 3#2
  | .addi p _ t => prOk p && tgtOk t
  | .andi p _ t => prOk p && tgtOk t
  | .ori p _ t => prOk p && tgtOk t
  | .xori p _ t => prOk p && tgtOk t
  | .shli p i t => prOk p && tgtOk t && decide (i.toNat < 64)
  | .shri p i t => prOk p && tgtOk t && decide (i.toNat < 64)
  | .srai p i t => prOk p && tgtOk t && decide (i.toNat < 64)
  | .mini p _ t => prOk p && tgtOk t
  | .maxi p _ t => prOk p && tgtOk t
  | .muli p _ t => prOk p && tgtOk t
  | .teq p t u => prOk p && tgtOk t && tgtOk u
  | .tne p t u => prOk p && tgtOk t && tgtOk u
  | .tlt p t u => prOk p && tgtOk t && tgtOk u
  | .tle p t u => prOk p && tgtOk t && tgtOk u
  | .tltu p t u => prOk p && tgtOk t && tgtOk u
  | .tleu p t u => prOk p && tgtOk t && tgtOk u
  | .teqi p _ t => prOk p && tgtOk t
  | .tnei p _ t => prOk p && tgtOk t
  | .tlti p _ t => prOk p && tgtOk t
  | .tlei p _ t => prOk p && tgtOk t
  | .tltui p _ t => prOk p && tgtOk t
  | .tleui p _ t => prOk p && tgtOk t
  | .tgti p _ t => prOk p && tgtOk t
  | .tgei p _ t => prOk p && tgtOk t
  | .pand p t u => prOk p && tgtOk t && tgtOk u
  | .por p t u => prOk p && tgtOk t && tgtOk u
  | .pnot p t u => prOk p && tgtOk t && tgtOk u
  | .mfs p n t u => prOk p && tgtOk t && tgtOk u && sregImplemented n.toNat
  | .mts p _ n => prOk p && sregWritable n.toNat
  | .nop p => prOk p
  | .ldl p _ s z _ t => prOk p && tgtOk t && !(s == 1#1 && z == 3#2)
  | .stl p _ _ _ => prOk p
  | .vldl p _ g _ t => prOk p && tgtOk t && 4 ≤ g.toNat && g.toNat ≤ 14
  | .vstl p _ _ => prOk p
  | .vgtl p _ g _ t => prOk p && tgtOk t && 7 ≤ g.toNat && g.toNat ≤ 13
  | .vscl _ _ => true
  | .land p _ _ t => prOk p && tgtOk t
  | .fence p _ e o c => prOk p && !(o == 0#2 && (e == 0#3 || c != 0#2))
  | .tldx p _ _ _ t => prOk p && tgtOk t
  | .tldxOffset p _ _ _ _ t => prOk p && tgtOk t
  | .tstx p _ _ _ => prOk p
  | .tstxOffset _ _ _ _ => true
  | .tlds p _ _ _ t => prOk p && tgtOk t
  | .tsts p _ _ _ => prOk p
  | .amol p _ m _ _ t => prOk p && wrOk t && decide (m.toNat ≤ 8)
  | .amot p _ m _ _ _ t => prOk p && wrOk t && decide (m.toNat ≤ 8)
  | .casLocal _ _ _ t => wrOk t
  | .casTensor _ _ _ _ t => wrOk t
  | .vamot p _ _ o => prOk p && (o == 0#2 || o == 2#2)
  | .vadd p t u => prOk p && tgtOk t && tgtOk u
  | .vsub p t u => prOk p && tgtOk t && tgtOk u
  | .vmul p t u => prOk p && tgtOk t && tgtOk u
  | .vmin p t u => prOk p && tgtOk t && tgtOk u
  | .vmax p t u => prOk p && tgtOk t && tgtOk u
  | .vabs p t u => prOk p && tgtOk t && tgtOk u
  | .vneg p t u => prOk p && tgtOk t && tgtOk u
  | .vand p t u => prOk p && tgtOk t && tgtOk u
  | .vor p t u => prOk p && tgtOk t && tgtOk u
  | .vxor p t u => prOk p && tgtOk t && tgtOk u
  | .vshl p t u => prOk p && tgtOk t && tgtOk u
  | .vshr p t u => prOk p && tgtOk t && tgtOk u
  | .vsra p t u => prOk p && tgtOk t && tgtOk u
  | .vadds p t u => prOk p && tgtOk t && tgtOk u
  | .vsubs p t u => prOk p && tgtOk t && tgtOk u
  | .vfma t u => tgtOk t && tgtOk u
  | .vfms t u => tgtOk t && tgtOk u
  | .vfnma t u => tgtOk t && tgtOk u
  | .vceq p t u => prOk p && tgtOk t && tgtOk u
  | .vcne p t u => prOk p && tgtOk t && tgtOk u
  | .vclt p t u => prOk p && tgtOk t && tgtOk u
  | .vcle p t u => prOk p && tgtOk t && tgtOk u
  | .vcgt p t u => prOk p && tgtOk t && tgtOk u
  | .vcge p t u => prOk p && tgtOk t && tgtOk u
  | .vsel t u => tgtOk t && tgtOk u
  | .vrcp p t u => prOk p && tgtOk t && tgtOk u
  | .vrsq p t u => prOk p && tgtOk t && tgtOk u
  | .vsqrt p t u => prOk p && tgtOk t && tgtOk u
  | .vexp2 p t u => prOk p && tgtOk t && tgtOk u
  | .vlog2 p t u => prOk p && tgtOk t && tgtOk u
  | .vtanh p t u => prOk p && tgtOk t && tgtOk u
  | .vrsum p t u => prOk p && tgtOk t && tgtOk u
  | .vrmax p t u => prOk p && tgtOk t && tgtOk u
  | .vrmin p t u => prOk p && tgtOk t && tgtOk u
  | .vbcast p g t u => prOk p && tgtOk t && tgtOk u && 7 ≤ g.toNat && g.toNat ≤ 13
  | .vext p t u => prOk p && tgtOk t && tgtOk u
  | .vins t u => tgtOk t && tgtOk u
  | .vperm p t u => prOk p && tgtOk t && tgtOk u
  | .vrot p t u => prOk p && tgtOk t && tgtOk u
  | .viota p g t u => prOk p && tgtOk t && tgtOk u && [7, 10, 13].contains g.toNat
  | .vpsum p t u => prOk p && tgtOk t && tgtOk u
  | .vcvt p g t u => prOk p && tgtOk t && tgtOk u && [1, 2, 7, 8, 9, 10, 11, 12, 13].contains g.toNat
  | .vqnt _ t u => tgtOk t && tgtOk u
  | .vdqnt f b t u => tgtOk t && tgtOk u && decide (b.toNat ≤ if f == 0#1 then 6 else 4)
  | .vpack p g t u => prOk p && tgtOk t && tgtOk u && 9 ≤ g.toNat && g.toNat ≤ 13
  | .vunpk p f _ q t u => prOk p && tgtOk t && tgtOk u && !(f == 0#1 && 1 < q.toNat)
  | .vretag p g t u => prOk p && tgtOk t && tgtOk u && (g == 1#4 || g == 2#4 || (4 ≤ g.toNat && g.toNat ≤ 14))
  | .mand p t u => prOk p && tgtOk t && tgtOk u
  | .mor p t u => prOk p && tgtOk t && tgtOk u
  | .mxor p t u => prOk p && tgtOk t && tgtOk u
  | .mnot p t u => prOk p && tgtOk t && tgtOk u
  | .mpop p t u => prOk p && tgtOk t && tgtOk u
  | .mfirst p t u => prOk p && tgtOk t && tgtOk u
  | .gset p _ _ t => prOk p && tgtOk t
  | .sbind p _ _ => prOk p
  | .csetg p _ _ => prOk p
  | .cpy p _ _ _ t => prOk p && tgtOk t
  | .cpyw p _ c t => prOk p && tgtOk t && c != 15#4
  | .cpym p _ _ t => prOk p && tgtOk t
  | .deal p _ _ t => prOk p && tgtOk t
  | .cpyt p _ _ t => prOk p && tgtOk t
  | .cpytLand p _ g t => prOk p && tgtOk t && 4 ≤ g.toNat && g.toNat ≤ 14
  | .twait p _ e t => prOk p && tgtOk t && e != 3#2
  | .tread p _ _ e t => prOk p && tgtOk t && e != 3#2
  | .msetg p _ _ t => prOk p && tgtOk t
  | .mma p _ _ _ t => prOk p && tgtOk t
  | .mmaz p _ _ _ t => prOk p && tgtOk t
  | .mmaq p _ _ _ t => prOk p && tgtOk t
  | .mldb p _ _ t => prOk p && tgtOk t
  | .mplay p _ _ t => prOk p && tgtOk t
  | .mst p _ _ _ t => prOk p && tgtOk t
  | .mlda p _ _ t => prOk p && tgtOk t
  | .mzero p _ _ t => prOk p && tgtOk t
  | .mrls p _ _ t => prOk p && tgtOk t
  | .mseat p _ t => prOk p && tgtOk t
  | .send p _ _ n t => prOk p && tgtOk t && decide (n.toNat ≤ 16)
  | .sendq p _ _ n t => prOk p && tgtOk t && decide (n.toNat ≤ 16)
  | .req p _ _ n t => prOk p && tgtOk t && decide (n.toNat ≤ 16)
  | .reply p _ _ n t => prOk p && tgtOk t && decide (n.toNat ≤ 16)
  | .xput p _ _ _ t => prOk p && tgtOk t
  | .xamo p _ _ o t => prOk p && tgtOk t && decide (o.toNat ≤ 7)
  | .mbxset p _ _ t => prOk p && tgtOk t
  | .frget p _ _ t => prOk p && tgtOk t
  | .frput p _ t => prOk p && tgtOk t
  | .xroute p _ t => prOk p && tgtOk t
  | .xflush p _ t => prOk p && tgtOk t
  | .tdec p _ => prOk p
  | .tspawn p _ t => prOk p && tgtOk t
  | .tjoin p _ t => prOk p && tgtOk t
  | .tstat p _ s t => prOk p && tgtOk t && s != 3#2
  | .tkill p _ _ => prOk p
  | .ginst p _ t => prOk p && tgtOk t
  | .nopen p _ _ _ t => prOk p && tgtOk t
  | .nclose p _ => prOk p
  | .nbind p _ => prOk p
  | .ntxb p _ t => prOk p && tgtOk t
  | .ntxa _ => true
  | .ntxc p _ t => prOk p && wrOk t
  | .ntxx p _ => prOk p
  | .nsnap p _ t => prOk p && tgtOk t
  | .nmake p _ t => prOk p && tgtOk t
  | .nqry p _ s t => prOk p && tgtOk t && s != 3#2
  | .svc p _ t => prOk p && tgtOk t
  | .bkpt p _ _ => prOk p
  | .ctxsv p _ => prOk p
  | .ctxrs p _ => prOk p
  | .tlbi p _ s => prOk p && s != 3#2
  | .bootGoWrite _ => true
  | .spdmRequest what => what.wf
  | .pcieOutOfWindowRequest fn _ => decide (fn < 34)
  | .doorbell fn q _ => decide (fn < 34 ∧ q < 8)
  | .cdoneWrite fn q _ => decide (fn < 34 ∧ q < 8)
  | .queueEnable fn q _ => decide (fn < 34 ∧ q < 8)
  | .registerWrite reg _ => reg.wf
  | .queueAccept fn q => decide (fn < 34 ∧ q < 8)
  | .completionPost fn q => decide (fn < 34 ∧ q < 8)
  | .hostNop fn q => decide (fn < 34 ∧ q < 8)
  | .kick fn q => decide (fn < 34 ∧ q < 8)
  | .launch fn q => decide (fn < 34 ∧ q < 8)
  | .makeobj fn q => decide (fn < 34 ∧ q < 8)
  | .bindn fn q => decide (fn < 34 ∧ q < 8)
  | .copyin fn q => decide (fn < 34 ∧ q < 8)
  | .copyout fn q => decide (fn < 34 ∧ q < 8)
  | .hostFence fn q => decide (fn < 34 ∧ q < 8)
  | .qstat fn q => decide (fn < 34 ∧ q < 8)
  | .preempt fn q => decide (fn < 34 ∧ q < 8)
  | .resume fn q => decide (fn < 34 ∧ q < 8)
  | .snapshot fn q => decide (fn < 34 ∧ q < 8)
  | .partstat fn q => decide (fn < 34 ∧ q < 8)
  | .lbTagStateWrite _ => true
  | .mailboxMapWrite _ => true
  | .allowanceReturnTimer _ => true
  | .ualinkInboundWrite _ station _ _ => decide (station < 32)
  | .ualinkUnsupportedRequest _ _ => true
  | .voteLimitExpiry _ => true
  | .txnIndoubt _ => true
  | .txnSettle _ => true
  | .keySlotLoad slot _ _ => decide (slot < 256)
  | .routerTableWrite table => table.all fun e => decide (e.1 < 144 ∧ e.2.1 < 144)
  | .regionBlockWrite region _ => decide (region < 4096)
  | .throttleStepUp _ => true
  | .overtempReset _ _ => true
  | .haltedContextWrite _ => true
  | .powerUp => true
  | .deviceReset => true
  | .dieReset => true
  | .kickDelivery => true
  | .presidingElection => true
  | .blockFetch => true
  | .blockDecode => true
  | .blockCommit => true
  | .blockStallTimeout => true
  | .waitTimeoutExpiry => true
  | .contextDrained => true
  | .handlerStart => true
  | .trapStart => true
  | .landingFill => true
  | .faultRecordWrite => true
  | .windowRequest => true
  | .windowWithdraw => true
  | .tensorRequest => true
  | .tensorReply => true
  | .tableWalk => true
  | .linkFlitRetry => true
  | .cowComplete => true
  | .copyStart => true
  | .copyComplete => true
  | .dealerRun => true
  | .streamReadahead => true
  | .meEntryStart => true
  | .meCommandApply => true
  | .playRequest => true
  | .playGrant => true
  | .latchArrival => true
  | .cardSend => true
  | .frameCardArrival => true
  | .queueCardArrival => true
  | .landingCardArrival => true
  | .replyCardArrival => true
  | .atomicCardArrival => true
  | .cardAck => true
  | .queueMailboxFire => true
  | .mailboxConfigApply => true
  | .allowanceReturnArrival => true
  | .refreshTimer => true
  | .refreshRequestArrival => true
  | .messageSend => true
  | .fragmentArrival => true
  | .meldDelivery => true
  | .messageCompleted => true
  | .ackTimer => true
  | .ackArrival => true
  | .busyArrival => true
  | .busyResendTimer => true
  | .meldTimeout => true
  | .repairArrival => true
  | .sourceTimerExpiry => true
  | .giveupArrival => true
  | .linkLossOfLock => true
  | .linkDownDeclare => true
  | .chordNewsArrival => true
  | .linkUp => true
  | .exchangeConfigApply => true
  | .exchangeFlushArrival => true
  | .exchangeReturnArrival => true
  | .overflowRecordArrival => true
  | .xflushCounterWrite => true
  | .heartbeatTimer => true
  | .heartbeatArrival => true
  | .rejoin => true
  | .decrementApply => true
  | .killApply => true
  | .placementPass => true
  | .tResExpiry => true
  | .stagingMergeClose => true
  | .stagingComplete => true
  | .taskStart => true
  | .pipelineStart => true
  | .barrierArrival => true
  | .taskCompletion => true
  | .ladderT1Expiry => true
  | .ladderT2Expiry => true
  | .taskSaveComplete => true
  | .hangProgressReport => true
  | .debugHalt => true
  | .debugHaltRelease => true
  | .openRequest => true
  | .openRepresentTimer => true
  | .bindApply => true
  | .confirmationArrival => true
  | .provisionalWithdraw => true
  | .hubReplyArrival => true
  | .prepareRequest => true
  | .prepareReplyArrival => true
  | .decisionArrival => true
  | .decisionAckArrival => true
  | .ntxcAckTimer => true
  | .reclaim => true
  | .snapshotRequest => true
  | .machineCheck => true
  | .masterUnfreeze => true
  | .masterReset => true
  | .lifeLogEpoch => true
  | .throttleStepDown => true

end Sys2Proof
end

