-- ==== Sys2Proof/Machine/Operands.lean ====
section
/-! DEFINITION. Tokens and firing (06_block_engine.md R89-R93): the words of a block, the operands of an
instruction, judging its predicate, delivering its results, and the one frame in which every instruction word
fires. Marks: DEDUCED (log 13, 14, 47); DESIGN CHOICE (log 7). -/

namespace Sys2Proof.Machine

/-! ### The words of a block (04_encoding.md R54-R58) -/

/-- Body word k of the block in flight. -/
def Run.word (r : Run) (k : Nat) : Word32 := r.words.getD (8 + k) 0#32

/-- Body length N. -/
def Run.size (r : Run) : Nat := r.words.length - 8

/-- The instruction that body word k holds. -/
def Run.instr (r : Run) (k : Nat) : Option Instr :=
  match decodeWord (r.word k) with
  | .ok i => some i
  | .error _ => none

/-- The shape of body word k: that of the instruction that its opcode and sub-op define, be its other fields valid or not
(04_encoding.md R66: a target judged at check 5 names a defined instruction). -/
def Run.shape (r : Run) (k : Nat) : Shape :=
  match decodeWord (r.word k) with
  | .ok i | .error (.reservedField i) => shapeOf i k
  | .error .illegalOpcode => {}

/-- The shapes of the block, by index. -/
def Run.shapes (r : Run) : List Shape := (List.range r.size).map r.shape

/-- Header fields (R55). -/
def Run.nrd (r : Run) : Nat := fldN (r.words.getD 0 0#32) 22 4

@[inherit_doc Run.nrd]
def Run.nwr (r : Run) : Nat := fldN (r.words.getD 0 0#32) 18 4

@[inherit_doc Run.nrd]
def Run.kindBits (r : Run) : Nat := fldN (r.words.getD 0 0#32) 16 2

@[inherit_doc Run.nrd]
def Run.ncnt (r : Run) : Nat := fldN (r.words.getD 1 0#32) 26 6

/-- The number that a command takes at its block's commit: the issue count plus one, counted in LSID order over
the block's commands for its engine (01_machine.md R17). -/
def Ctx.numberOf (c : Ctx) (r : Run) (e : Engine) (lsid : Nat) : Nat :=
  c.issue.get e + 1 + (r.shapes.filter fun h => h.eng == some e && decide (h.lsid.getD 32 < lsid)).length

/-- The generator state from which the instruction at index k draws: after the draws of every lower index (02_numbers.md
R29). -/
def Ctx.drawState (c : Ctx) (r : Run) (k : Nat) : Nat :=
  drawsAfter (((List.range k).map fun j => (r.shape j).draws).sum) c.srseed.toNat

/-- The block's draws in all. -/
def Run.draws (r : Run) : Nat := (r.shapes.map Shape.draws).sum

/-! ### Operands (R61, R89-R91) -/

/-- The token at a target. -/
def Run.tok (r : Run) (t : Nat) : Option Token := look? r.tokens t

/-- The tokens at the data slots of the instruction at index k, where each has one: left at k, right at 32 + k,
slot 2 at 64 + k (04_encoding.md R59). -/
def Run.data (r : Run) (k : Nat) : Nat → Option (List Token)
  | 0 => some []
  | n + 1 =>
    match r.data k n, r.tok (32 * n + k) with
    | some l, some t => some (l ++ [t])
    | _, _ => none

/-- The values of tokens, where none is a null. -/
def values : List Token → Option (List Reg)
  | [] => some []
  | .val r :: l => (values l).map (r :: ·)
  | .null :: _ => none

/-- What R90 and R91 make of an instruction's tokens. -/
inductive Judged where
  /-- a token it needs is not present -/
  | notYet
  /-- it acts on a null -/
  | null
  | fault
  | off
  | act (vals : List Reg)
  deriving DecidableEq, Repr

/-- R90: the predicate is judged before any data token. -/
def Run.judge (r : Run) (h : Shape) (k : Nat) : Judged :=
  let onData : Judged :=
    match r.data k h.slots with
    | none => .notYet
    | some l =>
      match values l with
      | none => .null
      | some v => .act v
  if h.pr.toNat < 2 then onData
  else match r.tok (64 + k) with
    | none => .notYet
    | some .null => .null
    | some (.val g) =>
      if g.tag ≠ .i64 then .fault
      else if g.w = 0#64 ↔ h.pr = 2#2 then .off
      else onData

/-! ### Results (R62, R92) -/

/-- A fault of the block at p, with the index of an instruction (28_traps_preemption.md R352, R353). -/
def State.faultAt (s : State) (p : Place) (index : Option Nat) (c : Cause) (d0 d1 : Word64) : State :=
  s.raiseFault p { cause := c, index := index, d0 := d0, d1 := d1 }

/-- A fault recorded on a timeline number is raised in the context at p, by the instruction of that index (R179, R197). -/
def State.raiseAsync (s : State) (p : Place) (index : Option Nat) (f : RecFault) : State :=
  (s.updCtx p fun c => c.markRaised f).raiseFault p
    { cause := f.cause, index := index, eng := f.eng.num, more := f.more, async := true, d0 := BitVec.ofNat 64 f.num }

/-- A token reaches a target: 0x7F discards it, a second token of one slot or write entry collides (R59, R92). -/
def State.deliver (s : State) (p : Place) (sender : Option Nat) (t : Nat) (k : Token) : State :=
  if t = 0x7F then s
  else match (s.ctx p).run with
    | none => s
    | some r =>
      if (r.tok t).isSome || r.reserved.contains t then s.faultAt p sender .tokenCollision 0#64 0#64
      else s.updRun p fun r => { r with tokens := r.tokens ++ [(t, k)] }

/-- The results of an instruction reach its targets in order; one result goes to all. -/
def State.deliverAll (s : State) (p : Place) (sender : Option Nat) : List Nat → List Token → State
  | [], _ => s
  | _, [] => s
  | t :: ts, [k] => (s.deliver p sender t k).deliverAll p sender ts [k]
  | t :: ts, k :: ks => (s.deliver p sender t k).deliverAll p sender ts ks

/-! ### Firing -/

/-- What a meaning answers. -/
abbrev Out := Host.Outcome State Fault Refusal

/-- What an instruction does with its operands. -/
inductive Act where
  /-- a precise fault, with its detail words (28_traps_preemption.md R353) -/
  | fault (c : Cause) (d0 d1 : Word64)
  /-- the same, from a state that the check has changed (a generator's CAUSE, 11_tensor_access.md R175) -/
  | faultIn (c : Cause) (d0 d1 : Word64) (s : State)
  /-- a fault recorded on a timeline number is raised (11_tensor_access.md R179) -/
  | async (f : RecFault)
  /-- it does not fire now -/
  | notYet
  /-- it does not fire now, and something outside it has begun: a request sent, a frame copy (R176) -/
  | stay (s : State)
  /-- it waits, under `TMO_WAIT` (R95) -/
  | wait (k : WaitKind) (detail : Word64)
  /-- it has sent its request and waits for the answer, which receives it (26_nd_instructions.md R339) -/
  | waitIn (k : WaitKind) (detail : Word64) (s : State)
  /-- it fires: its results, what it does at commit if it is counted, the state it leaves -/
  | done (outs : List Token) (op : Option CommitOp) (s : State)

/-- The instruction at the index has fired; a counted one with an effect at commit is received (R93). -/
def Run.mark (r : Run) (k : Nat) (h : Shape) (op : Option CommitOp) : Run :=
  { r with fired := r.fired ++ [k]
           waits := r.waits.filter fun w => w.index != k
           counted := match h.counted, h.lsid, op with
             | true, some l, some o => r.counted ++ [⟨l, k, o⟩]
             | _, _, _ => r.counted }

/-- The instruction has been predicated off: a counted one is received without effect (R90). -/
def Run.markOff (r : Run) (k : Nat) (h : Shape) : Run :=
  { r with off := r.off ++ [k]
           waits := r.waits.filter fun w => w.index != k
           counted := match h.counted, h.lsid with
             | true, some l => r.counted ++ [⟨l, k, .idle h.eng⟩]
             | _, _ => r.counted }

/-- The instruction begins to wait, if it is not in the same wait already (R95). -/
def Run.beginWait (r : Run) (k : Nat) (kind : WaitKind) (detail : Word64) (now : Nat) : Run :=
  if r.waits.any fun w => w.index == k && w.kind == kind && w.detail == detail then r
  else { r with waits := (r.waits.filter fun w => w.index != k)
                  ++ [{ index := k, kind := kind, detail := detail, since := now }] }

/-- An instruction of the context in focus may fire: its block is decoded, not committing, it has not fired, and nothing
holds the context (28_traps_preemption.md R368, 16_message_engine.md R252). -/
def State.armed (s : State) : Option Run :=
  let c := s.ctx s.focus
  match c.run with
  | none => none
  | some r =>
    if c.phase = .running ∧ c.frozen = false ∧ (s.die s.focus.die).stopped = false ∧ r.live = true ∧ r.committing = false
        ∧ r.fired.contains s.index = false ∧ r.off.contains s.index = false then some r
    else none

/-- FIRING. The instruction of shape h at the focus and index fires, is predicated off, sends nulls, waits, faults,
or stays where it is (R89-R92). -/
def fire (h : Shape) (body : List Reg → State → Act) (s : State) : State :=
  match s.armed with
  | none => s
  | some r =>
    match r.judge h s.index with
    | .notYet => s
    | .fault => s.faultAt s.focus (some s.index) .tagFault 0#64 0#64
    | .off => s.updRun s.focus fun r => r.markOff s.index h
    | .null =>
      (s.updRun s.focus fun r => r.mark s.index h (some (.idle h.eng))).deliverAll s.focus (some s.index)
        h.targets [.null]
    | .act vals =>
      match body vals s with
      | .fault c d0 d1 => s.faultAt s.focus (some s.index) c d0 d1
      | .faultIn c d0 d1 t => t.faultAt s.focus (some s.index) c d0 d1
      | .async f => s.raiseAsync s.focus (some s.index) f
      | .notYet => s
      | .stay t => t
      | .wait k d => s.updRun s.focus fun r => r.beginWait s.index k d s.cycle
      | .waitIn k d t => t.updRun s.focus fun r => r.beginWait s.index k d s.cycle
      | .done outs op t =>
        (t.updRun s.focus fun r => r.mark s.index h op).deliverAll s.focus (some s.index) h.targets outs

/-- A load or instruction at an index has fired or been predicated off, and its value has returned. -/
def Run.settled (r : Run) (k : Nat) : Bool :=
  (r.fired.contains k || r.off.contains k) && !r.loading.contains k

/-- The indices of the block whose instructions have an LSID below l, with their shapes. -/
def Run.below (r : Run) (l : Nat) : List (Nat × Shape) :=
  ((List.range r.size).map fun k => (k, r.shape k)).filter fun x => decide (x.2.lsid.getD 32 < l)

/-- A load with LSID l may be performed (03_memory_model.md R42, 10_be_local_memory.md R156): the block's stores of
its space, fences, waits and acquiring loads of lower LSID are settled. -/
def State.loadGate (s : State) (r : Run) (tensor : Bool) (l : Nat) : Bool :=
  let holds (h : Shape) : Bool :=
    match h.gate with
    | .none => false
    | .localStore => !tensor
    | .tensorStore => tensor
    | .sync => true
    | .tload g => ((s.tile s.focus.die s.focus.tile).ag g).ord % 2 == 1
  (r.below l).all fun x => !holds x.2 || r.settled x.1

/-- A write entry is reserved for a value that comes at commit (10_be_local_memory.md R161). -/
def State.reserve (s : State) (dst : Nat) (op : CommitOp) : Act :=
  match (s.ctx s.focus).run with
  | none => .notYet
  | some r =>
    if dst = 0x7F then .done [] (some op) s
    else if (r.tok dst).isSome || r.reserved.contains dst then .fault .tokenCollision 0#64 0#64
    else .done [] (some op) (s.updRun s.focus fun r => { r with reserved := r.reserved ++ [dst] })

/-- A command of engine e is received: its number goes to T0 (01_machine.md R17), it is issued at commit. -/
def command (e : Engine) (lsid : Nat) (c : Cmd) (s : State) : Act :=
  let x := s.ctx s.focus
  match x.run with
  | none => .notYet
  | some r => .done [.val (Reg.ofW (BitVec.ofNat 64 (x.numberOf r e lsid)))] (some (.cmd (some e) c)) s

/-- The instruction in focus asks a hub once and waits for its reply, which will receive it with op
(26_nd_instructions.md R339). -/
def askHub (dst : Nat) (b : Body) (op : CommitOp) (k : WaitKind) (detail : Word64) (s : State) : Act :=
  match (s.ctx s.focus).run with
  | none => .notYet
  | some r =>
    if r.asked.any fun x => x.1 == s.index then .notYet
    else .waitIn k detail
      ((s.send s.focus.die dst b).updRun s.focus fun r => { r with asked := r.asked ++ [(s.index, op)] })

/-- The fields of a request by the instruction in focus. -/
def State.request (s : State) (k : ReqKind) : Req :=
  let c := s.ctx s.focus
  { place := s.focus, serial := (c.run.map Run.serial).getD 0, index := s.index, region := c.region, kind := k
    since := s.cycle }

/-- Counted operations in increasing LSID order (06_block_engine.md R94). -/
def insertLsid (x : Counted) : List Counted → List Counted
  | [] => [x]
  | y :: r => if x.lsid ≤ y.lsid then x :: y :: r else y :: insertLsid x r

@[inherit_doc insertLsid]
def sortLsid : List Counted → List Counted
  | [] => []
  | x :: r => insertLsid x (sortLsid r)

/-- A fault without detail. -/
def Act.flt (c : Cause) : Act := .fault c 0#64 0#64

/-- One result, nothing else. -/
def Act.res (s : State) (r : Reg) : Act := .done [.val r] none s

/-- An instruction on one operand that accepts a set of tags and gives one value. -/
def unary (ok : Tag → Bool) (f : Reg → Reg) : List Reg → State → Act
  | [a], s => if ok a.tag then .res s (f a) else .flt .tagFault
  | _, _ => .notYet

/-- An instruction on two operands that accepts pairs of tags and gives one value. -/
def binary (ok : Tag → Tag → Bool) (f : Reg → Reg → Reg) : List Reg → State → Act
  | [a, b], s => if ok a.tag b.tag then .res s (f a b) else .flt .tagFault
  | _, _ => .notYet

/-- A tag is I64. -/
def isI64 (t : Tag) : Bool := t == .i64

/-- Both tags are I64. -/
def bothI64 (a b : Tag) : Bool := a == .i64 && b == .i64

end Sys2Proof.Machine
end

