-- ==== Sys2Proof/Machine/Local.lean ====
section
/-! DEFINITION. Local memory, landing and fences (10_be_local_memory.md). Marks: DEDUCED (log 11, 14); DESIGN CHOICE
(log 60, 71, 72). -/

namespace Sys2Proof.Machine

/-! ### Addresses and forwarding (R155, R156) -/

/-- The checks of R155 on an access of n bytes: bounds, then alignment. -/
def localCheck (ea : Int) (n align : Nat) : Option Act :=
  if ea < 0 ∨ 0x200000 < ea + n then some (.fault .lsBounds (BitVec.ofInt 64 ea) 0#64)
  else if ea % align ≠ 0 then some (.fault .align (BitVec.ofInt 64 ea) 0#64)
  else none

/-- Bytes so far taken from stores of the block, with a store's bytes laid over them. -/
def overlay (a : Nat) (have_ : List (Option Byte)) (w : Nat) (bs : List Byte) : List (Option Byte) :=
  (List.range have_.length).map fun i =>
    if w ≤ a + i ∧ a + i < w + bs.length then bs[a + i - w]? else have_.getD i none

/-- What a counted operation of the block lays over n bytes at local address a. -/
def CommitOp.over (a : Nat) (have_ : List (Option Byte)) : CommitOp → List (Option Byte)
  | .storeLocal w bs => overlay a have_ w bs
  | .scatterLocal l => l.foldl (fun h x => overlay a h x.1 x.2) have_
  | _ => have_

/-- The bytes that lower-LSID stores of the block give a load with LSID l (R156). -/
def Run.forward (r : Run) (l a n : Nat) : List (Option Byte) :=
  ((sortLsid r.counted).filter fun c => decide (c.lsid < l)).foldl (fun h c => c.op.over a h)
    (List.replicate n none)

/-- n bytes at local address a as a load with LSID l sees them; none where a byte read from memory is uncorrectable. -/
def State.loadLocal (s : State) (r : Run) (l a n : Nat) : Option (List Byte) :=
  let p := s.focus
  let f := r.forward l a n
  if (List.range n).any fun i => (f.getD i none).isNone && s.badAt (lsKey p.die p.tile (a + i)) 1 then none
  else some ((List.range n).map fun i =>
    match f.getD i none with
    | some b => b
    | none => Memory.read s.mem (lsKey p.die p.tile (a + i)))

/-- A load with LSID l fires only once the block's gates allow it, before any check (R156, R163). -/
def gated (tensor : Bool) (l : Nat) (k : Run → State → Act) (s : State) : Act :=
  match (s.ctx s.focus).run with
  | none => .notYet
  | some r => if s.loadGate r tensor l then k r s else .notYet

/-- A load of n bytes at ea with LSID l: f makes its result (R155, R156). -/
def localLoad (l : Nat) (ea : Int) (n align : Nat) (f : List Byte → Reg) (r : Run) (s : State) : Act :=
  match localCheck ea n align with
  | some x => x
  | none =>
    match s.loadLocal r l ea.toNat n with
    | none => .flt .uncorrectable
    | some bs => .res s (f bs)

/-- The base token plus an offset, exact (R155). -/
def effAddr (a : Word64) (off : Int) : Int := a.toInt + off

/-- The size that SZ selects (R157). -/
def szBytes (z : BitVec 2) : Nat := 2 ^ z.toNat

/-- LDL (R157). -/
def ldlBody (l : BitVec 5) (sg : BitVec 1) (z : BitVec 2) (i : BitVec 7) : List Reg → State → Act
  | [a], s =>
    gated false l.toNat (fun r s =>
      if a.tag ≠ .i64 then .flt .tagFault
      else
        let n := szBytes z
        localLoad l.toNat (effAddr a.w (sgnN 7 i.toNat * n)) n n
          (fun bs => Reg.ofW (if sg = 1#1 then BitVec.ofInt 64 (sgnN (8 * n) (leNat bs)) else BitVec.ofNat 64 (leNat bs))) r s) s
  | _, _ => .notYet

/-- LDL (R157): a scalar from the local store. -/
def execLdl (p : BitVec 2) (l : BitVec 5) (s : BitVec 1) (z : BitVec 2) (i : BitVec 7) (t : BitVec 7) (s1 : State) : Out :=
  .next (fire (shapeOf (.ldl p l s z i t) s1.index) (ldlBody l s z i) s1)

/-- A store of bytes at ea is checked and received (R158, R159). -/
def localStore (ea : Int) (align : Nat) (bs : List Byte) (s : State) : Act :=
  match localCheck ea bs.length align with
  | some x => x
  | none => .done [] (some (.storeLocal ea.toNat bs)) s

/-- The tags and sizes that `STL` accepts (R158). -/
def stlTag (t : Tag) (n : Nat) : Bool := t == .i64 || (t == .f32s && n == 4) || (t == .hndl && n == 8)

/-- STL (R158). -/
def stlBody (z : BitVec 2) (i : BitVec 14) : List Reg → State → Act
  | [a, v], s =>
    let n := szBytes z
    if a.tag ≠ .i64 ∨ stlTag v.tag n = false then .flt .tagFault
    else localStore (effAddr a.w (sgnN 14 i.toNat * n)) n (leBytes n v.w.toNat) s
  | _, _ => .notYet

/-- STL (R158): a scalar to the local store, at commit. -/
def execStl (p : BitVec 2) (l : BitVec 5) (z : BitVec 2) (i : BitVec 14) (s : State) : Out :=
  .next (fire (shapeOf (.stl p l z i) s.index) (stlBody z i) s)

/-- The bytes of a register in memory: 256, or a mask's 8, 16 or 32 (R159). -/
def vecBytes (t : Tag) : Nat := if t.isMask then t.shape.1 / 8 else 256

/-- Alignment of a register in memory (R159). -/
def vecAlign (t : Tag) : Nat := if t.isMask then t.shape.1 / 8 else 32

/-- A vector or mask tag: 4 to 14. -/
def vecTag (t : Tag) : Bool := decide (4 ≤ t.num ∧ t.num ≤ 14)

/-- VLDL (R159). -/
def vldlBody (l : BitVec 5) (g : BitVec 4) (i : BitVec 7) : List Reg → State → Act
  | [a], s =>
    gated false l.toNat (fun r s =>
      if a.tag ≠ .i64 then .flt .tagFault
      else
        let t := Tag.ofNum g.toNat
        localLoad l.toNat (effAddr a.w (sgnN 7 i.toNat * vecBytes t)) (vecBytes t) (vecAlign t)
          (fun bs => { tag := t, bits := BitVec.ofNat 2048 (leNat bs) }) r s) s
  | _, _ => .notYet

/-- VLDL (R159): a register from the local store. -/
def execVldl (p : BitVec 2) (l : BitVec 5) (g : BitVec 4) (i : BitVec 7) (t : BitVec 7) (s : State) : Out :=
  .next (fire (shapeOf (.vldl p l g i t) s.index) (vldlBody l g i) s)

/-- VSTL (R159). -/
def vstlBody (i : BitVec 14) : List Reg → State → Act
  | [a, v], s =>
    if a.tag ≠ .i64 ∨ vecTag v.tag = false then .flt .tagFault
    else localStore (effAddr a.w (sgnN 14 i.toNat * vecBytes v.tag)) (vecAlign v.tag)
      (leBytes (vecBytes v.tag) v.bits.toNat) s
  | _, _ => .notYet

/-- VSTL (R159): a register to the local store, at commit. -/
def execVstl (p : BitVec 2) (l : BitVec 5) (i : BitVec 14) (s : State) : Out :=
  .next (fire (shapeOf (.vstl p l i) s.index) (vstlBody i) s)

/-- The offset vector that goes with a lane shape (R160). -/
def offTag (t : Tag) : Tag :=
  match t.shape.2 with
  | 32 => .vi32
  | 16 => .vi16
  | _ => .vi8

/-- The lane addresses of a gather or scatter: base + unsigned offset × element bytes (R160). -/
def laneAddrs (t : Tag) (b : Int) (off : Reg) : List Int :=
  (lanes t.shape.1 t.shape.2 off.bits).map fun (o : Nat) => b + ((o * (t.shape.2 / 8) : Nat) : Int)

/-- The checks of R155 over lanes: every lane's bounds, then the base's alignment (R160). R353 gives DETAIL0 as the effective address
of the access; which one it is where several lanes fail is the model's choice: the lowest failing lane's address for `LS_BOUNDS`, the
base for `ALIGN` (log 60). -/
def laneCheck (t : Tag) (b : Int) (as : List Int) : Option Act :=
  let e := t.shape.2 / 8
  match as.find? fun x : Int => decide (x < 0 ∨ 0x200000 < x + (e : Int)) with
  | some x => some (.fault .lsBounds (BitVec.ofInt 64 x) 0#64)
  | none => if b % (e : Int) ≠ 0 then some (.fault .align (BitVec.ofInt 64 b) 0#64) else none

/-- VGTL (R160). -/
def vgtlBody (l : BitVec 5) (g : BitVec 4) (i : BitVec 7) : List Reg → State → Act
  | [a, off], s =>
    gated false l.toNat (fun r s =>
      let t := Tag.ofNum g.toNat
      let b := effAddr a.w (sgnN 7 i.toNat * 256)
      let as := laneAddrs t b off
      if a.tag ≠ .i64 ∨ off.tag ≠ offTag t then .flt .tagFault
      else match laneCheck t b as with
        | some x => x
        | none =>
          let vs := as.map fun x => s.loadLocal r l.toNat x.toNat (t.shape.2 / 8)
          if vs.any Option.isNone then .flt .uncorrectable
          else .res s { tag := t, bits := ofLanes t.shape.2 (vs.map fun v => leNat (v.getD [])) }) s
  | _, _ => .notYet

/-- VGTL (R160): lanes gathered from the local store. -/
def execVgtl (p : BitVec 2) (l : BitVec 5) (g : BitVec 4) (i : BitVec 7) (t : BitVec 7) (s : State) : Out :=
  .next (fire (shapeOf (.vgtl p l g i t) s.index) (vgtlBody l g i) s)

/-- VSCL (R160). -/
def vsclBody (i : BitVec 14) : List Reg → State → Act
  | [a, v, off], s =>
    if a.tag ≠ .i64 ∨ v.tag.isNumV = false ∨ off.tag ≠ offTag v.tag then .flt .tagFault
    else
      let t := v.tag
      let b := effAddr a.w (sgnN 14 i.toNat * 256)
      let as := laneAddrs t b off
      match laneCheck t b as with
      | some x => x
      | none =>
        .done [] (some (.scatterLocal ((as.zip (lanes t.shape.1 t.shape.2 v.bits)).map fun x =>
          (x.1.toNat, leBytes (t.shape.2 / 8) x.2)))) s
  | _, _ => .notYet

/-- VSCL (R160): lanes scattered to the local store, at commit. -/
def execVscl (l : BitVec 5) (i : BitVec 14) (s : State) : Out :=
  .next (fire (shapeOf (.vscl l i) s.index) (vsclBody i) s)

/-! ### Atomics (R161, 03_memory_model.md R53) -/

/-- The new value of an atomic of n bytes: MIN and MAX signed, ADD wraps (R161). -/
def amoValue (op n old b : Nat) : Nat :=
  let w := 8 * n
  match op with
  | 0 => b % 2 ^ w
  | 1 => (old + b) % 2 ^ w
  | 2 => old &&& (b % 2 ^ w)
  | 3 => old ||| (b % 2 ^ w)
  | 4 => old ^^^ (b % 2 ^ w)
  | 5 => if sgnN w old ≤ sgnN w b then old else b % 2 ^ w
  | 6 => if sgnN w b ≤ sgnN w old then old else b % 2 ^ w
  | 7 => if old ≤ b % 2 ^ w then old else b % 2 ^ w
  | _ => if b % 2 ^ w ≤ old then old else b % 2 ^ w

/-- The size of an atomic (R161). -/
def amoSize (z : BitVec 1) : Nat := if z = 1#1 then 8 else 4

/-- The old value as a result: sign-extended from 4 bytes (R161). -/
def amoResult (n old : Nat) : Reg := Reg.ofW (BitVec.ofInt 64 (sgnN (8 * n) old))

/-- AMOL (R161). -/
def amolBody (m : BitVec 4) (z : BitVec 1) (t : BitVec 7) : List Reg → State → Act
  | [a, b], s =>
    if a.tag ≠ .i64 ∨ b.tag ≠ .i64 then .flt .tagFault
    else
      let n := amoSize z
      match localCheck a.w.toInt n n with
      | some x => x
      | none => s.reserve t.toNat (.amoLocal a.w.toNat n m.toNat b.w t)
  | _, _ => .notYet

/-- AMOL (R161): a local atomic, at commit. -/
def execAmol (p : BitVec 2) (l : BitVec 5) (m : BitVec 4) (o : BitVec 2) (z : BitVec 1) (t : BitVec 7) (s : State) : Out :=
  .next (fire (shapeOf (.amol p l m o z t) s.index) (amolBody m z t) s)

/-- CAS, local (R161). -/
def casLocalBody (z : BitVec 1) (t : BitVec 7) : List Reg → State → Act
  | [a, e, n], s =>
    if a.tag ≠ .i64 ∨ e.tag ≠ .i64 ∨ n.tag ≠ .i64 then .flt .tagFault
    else
      let z := amoSize z
      match localCheck a.w.toInt z z with
      | some x => x
      | none => s.reserve t.toNat (.casLocal a.w.toNat z e.w n.w t)
  | _, _ => .notYet

/-- CAS, local (R161): a local compare-and-swap, at commit. -/
def execCasLocal (l : BitVec 5) (o : BitVec 2) (z : BitVec 1) (t : BitVec 7) (s : State) : Out :=
  .next (fire (shapeOf (.casLocal l o z t) s.index) (casLocalBody z t) s)

/-! ### Landing and fences (R162, R163) -/

/-- The unraised fault recorded on the number of the command, of the context at p, that filled a landing entry (11_tensor_access.md R179,
18_msg_instructions.md R271). -/
def Ctx.landFault (c : Ctx) (p : Place) (e : Landing) : Option RecFault :=
  e.cmd.bind fun x => if x.1 = p then c.recf.find? fun f => f.eng == x.2.1 && f.num == x.2.2 else none

/-- LAND (R162). What the entry's fill acquires is raised first. An uncorrectable word faults as in a load: R162 does not name it (log 71). -/
def landBody (n : BitVec 6) : List Reg → State → Act := fun _ s =>
  let e := (s.tile s.focus.die s.focus.tile).lb n.toNat
  if e.full = false then .wait .landing (n.setWidth 64)
  else match (s.ctx s.focus).landFault s.focus e with
    | some f => .async f
    | none =>
      if e.bad then .flt .uncorrectable
      else .done [.val (Reg.clean { tag := e.tag, bits := e.bits })] (some (.land n.toNat)) s

/-- LAND (R162): wait for a FULL landing entry, deliver it, free it at commit. -/
def execLand (p : BitVec 2) (l : BitVec 5) (n : BitVec 6) (t : BitVec 7) (s : State) : Out :=
  .next (fire (shapeOf (.land p l n t) s.index) (landBody n) s)

/-- The engines that ENG names (R163). -/
def engines (e : BitVec 3) : List Engine :=
  (if bit e 0 then [.ce] else []) ++ (if bit e 1 then [.me] else []) ++ (if bit e 2 then [.mse] else [])

/-- What stops a fence at a list of engines, waited for and acquired one after another: a wait for an engine's timeline, or a fault recorded
on it (R163). -/
def fenceStop (x : Ctx) (r : Run) : List Engine → Option Act
  | [] => none
  | g :: l =>
    if x.done.get g < r.issueAt.get g then some (.wait .timeline (BitVec.ofNat 64 g.num))
    else match x.lowestFault g (r.issueAt.get g) with
      | some f => some (.async f)
      | none => fenceStop x r l

/-- The firing part of a fence (R163). While it waits for the loads below it, it waits for tokens and for no engine: KIND 0 (log 14). -/
def fenceBody (l : BitVec 5) (e : BitVec 3) (o c : BitVec 2) : List Reg → State → Act := fun _ s =>
  let x := s.ctx s.focus
  match x.run with
  | none => .notYet
  | some r =>
    let loads := (r.below l.toNat).filter fun k => !k.2.counted
    if loads.any fun k => !r.settled k.1 then .wait .tokens 0#64
    else match fenceStop x r (engines e) with
      | some a => a
      | none => .done [] (some (.fence e o.toNat c.toNat)) s

/-- FENCE (R163): its firing part; the commit part stands in `BLOCK_COMMIT`. -/
def execFence (p : BitVec 2) (l : BitVec 5) (e : BitVec 3) (o : BitVec 2) (c : BitVec 2) (s : State) : Out :=
  .next (fire (shapeOf (.fence p l e o c) s.index) (fenceBody l e o c) s)

end Sys2Proof.Machine
end

