-- ==== Sys2Proof/Machine/Objects.lean ====
section
/-! DEFINITION. Tensor objects: descriptors, handles, frames, translation, windows and copy-on-write
(11_tensor_access.md R166-R177, R387, 03_memory_model.md R48-R51, 25_name_directory.md R326-R328), and the event
rings that are objects (22_task_dispatcher.md R296). Marks: DEDUCED (log 13, 26, 27, 28, 39, 52, 56, 59); DESIGN
CHOICE (log 3, 4, 65, 70, 74). -/

namespace Sys2Proof.Machine

/-! ### Descriptors (R166-R168) -/

/-- A 64-byte descriptor. -/
abbrev Desc := BitVec 512

def Desc.fmt (d : Desc) : Nat := fldN d 0 4

@[inherit_doc Desc]
def Desc.ro (d : Desc) : Bool := bit d 27

@[inherit_doc Desc]
def Desc.code (d : Desc) : Bool := bit d 28

/-- Extent of dimension i. -/
def Desc.ext (d : Desc) (i : Nat) : Nat := fldN d (64 * (i + 1) + 32) 32

/-- Tile extent of dimension i. -/
def Desc.til (d : Desc) (i : Nat) : Nat := fldN d (64 * (i + 1) + 16) 16

/-- Bits of an element (R167). -/
def Desc.bits (d : Desc) : Nat := [8, 8, 16, 32, 64, 8, 8, 16, 32, 4].getD d.fmt 8

/-- The stream tag of a format: none for I64 (R167). -/
def Desc.tag (d : Desc) : Tag :=
  [Tag.vi8, .vi8, .vi16, .vi32, .empty, .vf8e4, .vf8e5, .vbf16, .vf32, .vq4n].getD d.fmt .empty

/-- The bytes of a frame (R166). -/
def Desc.frame (d : Desc) : Nat := [2 ^ 16, 2 ^ 21, 2 ^ 28, 2 ^ 34].getD (fldN d 36 2) (2 ^ 16)

/-- Bits of a tile: B_T of R168 times 8. -/
def Desc.tileBits (d : Desc) : Nat := d.til 0 * d.til 1 * d.til 2 * d.til 3 * d.bits

def ceilDiv (a b : Nat) : Nat := if b = 0 then 0 else (a + b - 1) / b

/-- Frames of a tile: F of R169. -/
def Desc.framesPerTile (d : Desc) : Nat := ceilDiv (d.tileBits / 8) d.frame

/-- Tiles along a dimension: N of R169. -/
def Desc.tiles (d : Desc) (i : Nat) : Nat := ceilDiv (d.ext i) (d.til i)

/-- Entries of the tile table. -/
def Desc.entries (d : Desc) : Nat := d.framesPerTile * (d.tiles 0 * d.tiles 1 * d.tiles 2 * d.tiles 3)

/-- Elements of the object. -/
def Desc.count (d : Desc) : Nat := d.ext 0 * d.ext 1 * d.ext 2 * d.ext 3

/-- Bytes of the object, in raster order of its elements. -/
def Desc.bytes (d : Desc) : Nat := d.count * d.bits / 8

/-- R168: the descriptor is valid. -/
def Desc.valid (d : Desc) : Bool :=
  decide (fldN d 45 11 = 0 ∧ fldN d 29 7 = 0 ∧ fldN d 20 5 = 0 ∧ fldN d 4 14 = 0 ∧ fldN d 320 192 = 0)
    && ([0, 1, 2, 3].all fun i => decide (fldN d (64 * (i + 1)) 16 = 0 ∧ 1 ≤ d.ext i ∧ 1 ≤ d.til i
          ∧ (i ≤ fldN d 18 2 ∨ (d.ext i = 1 ∧ d.til i = 1))))
    && decide (d.fmt ≤ 9 ∧ fldN d 38 2 ≠ 3 ∧ d.tileBits % 2048 = 0
          ∧ (d.fmt = 9 → d.til 0 % 64 = 0 ∧ d.ext 0 % 64 = 0) ∧ d.entries ≤ 2 ^ 24)

/-! ### Coordinates (R169) -/

/-- Coordinate of dimension i. -/
def C4.at (c : C4) (i : Nat) : Nat := if i = 0 then c.c0 else if i = 1 then c.c1 else if i = 2 then c.c2 else c.c3

/-- The coordinate lies in the object's extents. -/
def Desc.inside (d : Desc) (c : C4) : Bool := [0, 1, 2, 3].all fun i => decide (c.at i < d.ext i)

/-- Table index and offset within the frame, in bits, of an element (R169). -/
def Desc.locate (d : Desc) (c : C4) : Nat × Nat :=
  let q (i : Nat) := if d.til i = 0 then 0 else c.at i / d.til i
  let r (i : Nat) := if d.til i = 0 then 0 else c.at i % d.til i
  let t := q 0 + d.tiles 0 * (q 1 + d.tiles 1 * (q 2 + d.tiles 2 * q 3))
  let b := (r 0 + d.til 0 * (r 1 + d.til 1 * (r 2 + d.til 2 * r 3))) * d.bits
  (t * d.framesPerTile + b / (d.frame * 8), b % (d.frame * 8))

/-- Tile number of an element (R169). -/
def Desc.tileOf (d : Desc) (c : C4) : Nat :=
  let q (i : Nat) := if d.til i = 0 then 0 else c.at i / d.til i
  q 0 + d.tiles 0 * (q 1 + d.tiles 1 * (q 2 + d.tiles 2 * q 3))

/-- The coordinate of element k of a box in raster order (R174, R192). -/
def rasterAt (org ext : C4) (k : Nat) : C4 :=
  { c0 := org.c0 + k % ext.c0
    c1 := org.c1 + k / ext.c0 % ext.c1
    c2 := org.c2 + k / ext.c0 / ext.c1 % ext.c2
    c3 := org.c3 + k / ext.c0 / ext.c1 / ext.c2 }

/-- Elements of a box. -/
def C4.volume (e : C4) : Nat := e.c0 * e.c1 * e.c2 * e.c3

/-- The coordinates of a box, in raster order. -/
def boxCoords (org ext : C4) : List C4 := (List.range ext.volume).map (rasterAt org ext)

/-! ### Tile-table entries (R170) -/

def entStack (e : Word64) : Nat := fldN e 59 5

def entFrame (e : Word64) : Nat := fldN e 32 24

def entV (e : Word64) : Bool := bit e 0

def entW (e : Word64) : Bool := bit e 1

def entC (e : Word64) : Bool := bit e 2

def entS (e : Word64) : Bool := bit e 3

/-- The memory key of a bit offset in the frame of an entry (R170). -/
def entKey (e : Word64) (bits : Nat) : Nat := hbmKey (entStack e) (entFrame e * 65536 + bits / 8)

def Obj.entry (o : Obj) (j : Nat) : Word64 := look 0#64 o.table j

/-! ### Handles (R326) -/

def State.setObj (s : State) (id : BitVec 32) (o : Obj) : State :=
  s.updNd (objDie id) fun n => { n with objs := put n.objs (fldN id 0 17) o }

def State.objOf (s : State) (id : BitVec 32) : Obj := look {} (s.die (objDie id)).nd.objs (fldN id 0 17)

/-- The handle of an object (R326). -/
def handleOf (id : BitVec 32) (inc : Nat) : Word64 := BitVec.ofNat 64 (id.toNat * 2 ^ 32 + inc % 2 ^ 16 * 2 ^ 16)

/-- The object ID of a handle. -/
def hobj (h : Word64) : BitVec 32 := fld h 32 32

/-- The live object of this module that a handle names: none when the handle is stale or names another module. -/
def State.obj? (s : State) (h : Word64) : Option Obj :=
  let o := s.objOf (hobj h)
  if fldN h 54 10 = s.moduleId ∧ o.live = true ∧ o.inc % 65536 = fldN h 16 16 ∧ fldN h 0 16 = 0 then some o else none

/-- The same for a user of region r: its region is r or an ancestor of r. -/
def State.reach (s : State) (r : Nat) (h : Word64) : Option Obj :=
  match s.obj? h with
  | some o => if s.isAncestor o.region r then some o else none
  | none => none

/-- The table index of an element for a fault record: a free value where the element has none (R177). -/
def State.tblIndex (s : State) (h : Word64) (c : Option C4) : Word64 :=
  match s.obj? h, c with
  | some o, some c =>
    if Desc.inside o.desc c then BitVec.ofNat 64 (Desc.locate o.desc c).1 else Config.freeValue s.freeCtr
  | _, _ => Config.freeValue s.freeCtr

/-! ### Frames (R171, R176) -/

/-- 64 KiB units that a region's objects hold (22_task_dispatcher.md R295). -/
def State.unitsHeld (s : State) (r : Nat) : Nat := ((s.frames.filter fun f => f.region == r).map Frame.units).sum

/-- The region's FRAMES budget allows so many units more. -/
def State.unitsFit (s : State) (r n : Nat) : Bool :=
  let b := fldN (s.eff r 8) 64 32
  b == 0 || decide (s.unitsHeld r + n ≤ b)

/-- The first free aligned place for a frame on a stack, from cand on and round once. -/
def freePlace (fs : List Frame) (units : Nat) : Nat → Nat → Bool → Option Nat
  | 0, _, _ => none
  | n + 1, cand, again =>
    if 2 ^ 20 < cand + units then (if again then none else freePlace fs units n 0 true)
    else match fs.find? fun f => decide (f.no < cand + units ∧ cand < f.no + f.units) with
      | none => some cand
      | some f => freePlace fs units n (ceilDiv (f.no + f.units) units * units) again

/-- Memory from a key on for n bytes reads 0. -/
def State.zeroAt (s : State) (k n : Nat) : State :=
  { s with mem := s.mem.filter fun c => !decide (k ≤ c.1 ∧ c.1 < k + n)
           bad := s.bad.filter fun w => !decide (k ≤ w * 8 ∧ w * 8 < k + n) }

/-- A frame taken from a region's pool on a stack, which frame being a free choice (R171). -/
def State.takeFrame (s : State) (stack units r : Nat) : Option (Frame × State) :=
  let (k, t) := s.draw (2 ^ 20 / units)
  let fs := s.frames.filter fun f => f.stack == stack
  if s.unitsFit r units = false then none
  else match freePlace fs units (2 * fs.length + 3) (k * units) false with
    | none => none
    | some no =>
      let f : Frame := { stack := stack, no := no, units := units, share := 1, region := r }
      some (f, { t with frames := t.frames ++ [f] })

/-- The entry of a new frame (R170): its other fields from the descriptor. -/
def newEntry (d : Desc) (f : Frame) : Word64 :=
  BitVec.ofNat 64 (f.stack * 2 ^ 59 + f.no * 2 ^ 32 + fldN d 56 8 * 2 ^ 8 + b2n (bit d 25) * 16 + b2n (bit d 26) * 8
    + b2n (!d.ro) * 2 + 1)

/-- One holder less of a frame; the last returns it to its pool (R176, R328). -/
def State.dropFrame (s : State) (stack no : Nat) : State :=
  { s with frames := (s.frames.map fun f =>
      if f.stack = stack ∧ f.no = no then { f with share := f.share - 1 } else f).filter fun f => f.share != 0 }

def State.shareOf (s : State) (stack no : Nat) : Nat :=
  match s.frames.find? fun f => f.stack == stack && f.no == no with
  | some f => f.share
  | none => 1

/-! ### The panel (01_machine.md R7, R8) -/

/-- Site sx + 8·sy of C-die d, and of M-site m. -/
def dieSite (d : Nat) : Nat := d / 4 * 8 + 2 * (d % 4) + d / 4 % 2

@[inherit_doc dieSite]
def mSite (m : Nat) : Nat := m / 4 * 8 + 2 * (m % 4) + (1 - m / 4 % 2)

/-- The two sites of a panel link: 0 to 55 join (x, y) and (x + 1, y), 56 to 111 join (x, y) and (x, y + 1). -/
def linkEnds (l : Nat) : Nat × Nat :=
  if l < 56 then (l / 7 * 8 + l % 7, l / 7 * 8 + l % 7 + 1) else (l - 56, l - 48)

def State.link (s : State) (l : Nat) : LinkState := look .up s.links l

/-- Sites reached from the sites of a list in n more links, none of which is declared down. -/
def State.spread (s : State) : Nat → List Nat → List Nat
  | 0, l => l
  | n + 1, l =>
    let more := (List.range 112).filterMap fun k =>
      let (a, b) := linkEnds k
      if s.link k = .down then none
      else if l.contains a && !l.contains b then some b
      else if l.contains b && !l.contains a then some a else none
    if more = [] then l else s.spread n (l ++ more.eraseDups)

/-- The sites that a C-die reaches over links that are up. -/
def State.sites (s : State) (d : Nat) : List Nat :=
  if s.links.all fun l => l.2 == .up then List.range 64
  else State.spread { s with links := s.links.map fun l => (l.1, if l.2 = .up then .up else .down) } 64 [dieSite d]

/-- The rim dies, South, East, North and West, with the M-sites attached to each (01_machine.md R9, R10). -/
def rimSites : Nat → List Nat
  | 0 => [0, 1, 2, 3]
  | 1 => [3, 11, 19, 27]
  | 2 => [28, 29, 30, 31]
  | _ => [4, 12, 20, 28]

/-- The rim die of a UALink station (R10). -/
def stationRim (p : Nat) : Nat := p / 8

/-- The rim dies that a C-die reaches: some M-site attached to them is reached over links that are up. -/
def State.rims (s : State) (d : Nat) : List Nat :=
  let here := s.sites d
  (List.range 4).filter fun r => (rimSites r).any fun m => here.contains (mSite m)

/-- A memory route from a C-die to an M-site exists (R387). -/
def State.routed (s : State) (d m : Nat) : Bool :=
  !(s.links.any fun l => l.2 == .down) || (s.spread 64 [dieSite d]).contains (mSite m)

/-! ### Translation (R172) -/

/-- Holders of translations besides the die's table cache. -/
inductive Holder where
  | gen (g : Nat)
  | tlb
  | none
  deriving DecidableEq, Repr

/-- A translation put first in a list that replaces the least recently used of n. -/
def touch (n : Nat) (t : Tr) (l : List Tr) : List Tr :=
  (t :: l.filter fun x => !(x.obj == t.obj && x.index == t.index)).take n

def findTr (l : List Tr) (obj : BitVec 32) (j : Nat) : Option Word64 :=
  (l.find? fun x => x.obj == obj && x.index == j).map Tr.entry

/-- The entry that a holder has for an object's index. -/
def Tile.trFor (t : Tile) (h : Holder) (obj : BitVec 32) (j : Nat) : Option Word64 :=
  match h with
  | .gen g => findTr (t.ag g).tr.toList obj j
  | .tlb => findTr t.tlb obj j
  | .none => none

/-- A holder takes an entry. -/
def Tile.hold (t : Tile) (h : Holder) (x : Tr) : Tile :=
  match h with
  | .gen g => t.setAg g { t.ag g with tr := some x }
  | .tlb => { t with tlb := touch 64 x t.tlb }
  | .none => t

/-- A frame walk: the die's table cache answers, or the table at the object's home, and the holder takes the entry. -/
def State.walk (s : State) (d t : Nat) (h : Holder) (obj : BitVec 32) (j : Nat) : Word64 × State :=
  let e := (findTr (s.die d).tableCache obj j).getD ((s.objOf obj).entry j)
  let x : Tr := ⟨obj, j, e⟩
  (e, (s.updDie d fun y => { y with tableCache := touch 4096 x y.tableCache }).updTile d t fun y => y.hold h x)

/-- The entry for an index: the holder's, else by a walk. -/
def State.translate (s : State) (d t : Nat) (h : Holder) (obj : BitVec 32) (j : Nat) : Word64 × State :=
  match (s.tile d t).trFor h obj j with
  | some e => (e, s.updTile d t fun y => y.hold h ⟨obj, j, e⟩)
  | none => s.walk d t h obj j

/-- The entries for indices, in turn. -/
def State.translateAll (s : State) (d t : Nat) (h : Holder) (obj : BitVec 32) : List Nat → List (Nat × Word64) × State
  | [] => ([], s)
  | j :: r =>
    let (e, s1) := s.translate d t h obj j
    let (l, s2) := s1.translateAll d t h obj r
    ((j, e) :: l, s2)

/-- A translation covers an object and, if one is given, an index. -/
def Tr.covers (x : Tr) (obj : Option (BitVec 32)) (j : Option Nat) : Bool :=
  (obj.isNone || obj == some x.obj) && (j.isNone || j == some x.index)

/-- A tile's translations of an object and index are emptied. -/
def Tile.invalidate (t : Tile) (obj : Option (BitVec 32)) (j : Option Nat) : Tile :=
  { t with tlb := t.tlb.filter fun x => !x.covers obj j
           ags := t.ags.map fun g => (g.1, { g.2 with tr := g.2.tr.filter fun x => !x.covers obj j }) }

/-- Loads in flight forget the entries they have found of an object from an index on. -/
def TReq.forget (q : TReq) (obj : BitVec 32) (j : Option Nat) : TReq :=
  if (hobj q.h == obj) = true then
    { q with entries := q.entries.takeWhile fun x => !(j.isNone || j == some x.1) }
  else q

@[inherit_doc TReq.forget]
def Tile.forget (t : Tile) (obj : BitVec 32) (j : Option Nat) : Tile :=
  { t with reqs := t.reqs.map fun q => q.forget obj j }

/-- The translations of a die, those of the generators that it keeps in save images among them, are emptied of an object and index. -/
def Die.invalidate (x : Die) (obj : Option (BitVec 32)) (j : Option Nat) : Die :=
  { x with tableCache := x.tableCache.filter fun y => !y.covers obj j
           td := { x.td with saved := x.td.saved.map fun v => { v with tiles := v.tiles.map fun t => (t.1, t.2.1.invalidate obj j, t.2.2) } } }

/-- Every translation on the module of an object and index is emptied, with what loads in flight have found (R176). -/
def State.invalidate (s : State) (obj : BitVec 32) (j : Option Nat) : State :=
  { s with tiles := s.tiles.map fun t => (t.1, (t.2.invalidate (some obj) j).forget obj j)
           dies := s.dies.map fun d => (d.1, d.2.invalidate (some obj) j) }

/-- The indices of elements, each once, in order. -/
def Desc.indices (d : Desc) (els : List C4) : List Nat := (els.map fun c => (d.locate c).1).eraseDups

/-- A walk for index j of an object can be made: its holder or the die's table cache has the entry, or a memory route leads to the
partner stack of the object's home (R172, R387). -/
def State.canWalk (s : State) (d t : Nat) (h : Holder) (obj : BitVec 32) (j : Nat) : Bool :=
  ((s.tile d t).trFor h obj j).isSome || (findTr (s.die d).tableCache obj j).isSome || s.routed d (objDie obj)

/-- Requests of a tile for elements of an object do not wait at the panel switch: they can be walked, and a memory route leads to
each stack that holds them (R387). -/
def State.open (s : State) (d t : Nat) (h : Holder) (obj : BitVec 32) (els : List C4) : Bool :=
  let o := s.objOf obj
  !(s.links.any fun l => l.2 == .down) || (Desc.indices o.desc els).all fun j =>
    s.canWalk d t h obj j && (!entV (o.entry j) || s.routed d (entStack (o.entry j)))

/-! ### Windows (03_memory_model.md R48-R51) -/

/-- The owner of a window that the context at p declares: the task that runs on its tile, else its own run (R48). -/
def State.owner (s : State) (p : Place) : Owner :=
  match (s.tile p.die p.tile).runTask with
  | some id => .task id
  | none => .handler p (s.ctx p).runNo

/-- The owners whose windows serve the context at p: the task that runs on its tile, and its own run, whose windows stay active until
the handler's end though a task has started since (R48, log 59). -/
def State.owners (s : State) (p : Place) : List Owner := [s.owner p, .handler p (s.ctx p).runNo]

/-- A box contains a coordinate. -/
def boxHas (org ext c : C4) : Bool := [0, 1, 2, 3].all fun i => decide (org.at i ≤ c.at i ∧ c.at i < org.at i + ext.at i)

/-- The checks of R49 on one element: write, and plain RLX. -/
def Obj.allow (o : Obj) (own : List Owner) (write rlx : Bool) (c : C4) : Option Cause :=
  let ws := o.wins.filter fun w => w.active && own.contains w.owner && boxHas w.org w.ext c
  if ws = [] then some .window
  else if ws.any fun w => (w.rw || !write) && (!w.sync || !rlx) then none
  else some .rights

/-- The intersection of two boxes (R50). -/
def boxMeet (o1 e1 o2 e2 : C4) : C4 × C4 :=
  let lo (i : Nat) := max (o1.at i) (o2.at i)
  let hi (i : Nat) := min (o1.at i + e1.at i) (o2.at i + e2.at i)
  (⟨lo 0, lo 1, lo 2, lo 3⟩, ⟨hi 0 - lo 0, hi 1 - lo 1, hi 2 - lo 2, hi 3 - lo 3⟩)

/-- R50: two windows of different owners on the object conflict. -/
def Obj.conflict (o : Obj) (a b : Win) : Bool :=
  let m := boxMeet a.org a.ext b.org b.ext
  a.owner != b.owner && decide (0 < m.2.volume) && (a.rw || b.rw) && !(a.sync && b.sync)
    && !((Desc.indices o.desc (boxCoords m.1 m.2)).all fun j => entS (o.entry j))

/-- Windows of an object that a home keeps (R50). -/
def winLimit : Nat := 16384

/-- A window reaches its object's home: granted, refused with `MM_RACE`, or none while the list is full. -/
def Obj.grant (o : Obj) (w : Win) : Option (Option Obj) :=
  if winLimit ≤ o.wins.length then none
  else if o.wins.any fun x => o.conflict x w then some none
  else some (some { o with wins := o.wins ++ [w] })

/-- The windows of an owner are removed at every home (R50). -/
def State.dropWindows (s : State) (own : Owner) : State :=
  { s with dies := s.dies.map fun d => (d.1, { d.2 with nd := { d.2.nd with objs := d.2.nd.objs.map fun x =>
      (x.1, { x.2 with wins := x.2.wins.filter fun w => w.owner != own }) } }) }

/-! ### Elements in memory -/

/-- The value of the element of an entry's frame at a bit offset. -/
def State.peek (s : State) (e : Word64) (b w : Nat) : Nat :=
  if w = 4 then (Memory.read s.mem (entKey e b)).toNat / 2 ^ (b % 8) % 16 else leNat (s.readAt (entKey e b) (w / 8))

/-- The element is written. -/
def State.poke (s : State) (e : Word64) (b w v : Nat) : State :=
  if w = 4 then
    let x := (Memory.read s.mem (entKey e b)).toNat
    s.writeAt (entKey e b) [BitVec.ofNat 8 (x - x / 2 ^ (b % 8) % 16 * 2 ^ (b % 8) + v % 16 * 2 ^ (b % 8))]
  else s.writeAt (entKey e b) (leBytes (w / 8) v)

/-- The element lies in an uncorrectable word. -/
def State.badEl (s : State) (e : Word64) (b w : Nat) : Bool := s.badAt (entKey e b) ((w + 7) / 8)

/-- The element at c of an object is written, through the table. -/
def State.pokeObj (s : State) (o : Obj) (c : C4) (v : Nat) : State :=
  let l := Desc.locate o.desc c
  s.poke (o.entry l.1) l.2 (Desc.bits o.desc) v

def State.peekObj (s : State) (o : Obj) (c : C4) : Nat :=
  let l := Desc.locate o.desc c
  s.peek (o.entry l.1) l.2 (Desc.bits o.desc)

/-! ### An access (R177) -/

/-- Orders 1 to 4 of R177 over the elements of an access, each order over all of them before the next; `ents` gives
the tile-table entries. The cause and the failing element. -/
def Obj.check (o : Obj) (own : List Owner) (write rlx : Bool) (ents : Nat → Word64) (els : List C4) : Option (Cause × C4) :=
  let at_ (p : C4 → Bool) (c : Cause) : Option (Cause × C4) := (els.find? p).map fun x => (c, x)
  let ent (x : C4) := ents (Desc.locate o.desc x).1
  (at_ (fun x => o.allow own write rlx x == some .window) .window).orElse fun _ =>
  (at_ (fun x => o.allow own write rlx x == some .rights) .rights).orElse fun _ =>
  (at_ (fun x => !entV (ent x)) .tensorNotPresent).orElse fun _ =>
  if write then at_ (fun x => !entW (ent x)) .rights else none

/-- What copy-on-write makes of a write to an index (R176). -/
inductive CowStep where
  | ready
  | wait
  | exhausted
  deriving DecidableEq, Repr

/-- A write meets the frame of index j of an object: C is cleared when no other object holds the frame, else a
duplication begins or goes on (R176). Frames come from the pool of the writing object's region. -/
def State.cowIndex (s : State) (id : BitVec 32) (j : Nat) : CowStep × State :=
  let o := s.objOf id
  let e := o.entry j
  if entC e = false then (.ready, s)
  else if s.shareOf (entStack e) (entFrame e) ≤ 1 then
    (.ready, (s.setObj id { o with table := put o.table j (setFld e 2 1 0) }).invalidate id (some j))
  else if s.cow.any fun c => c.obj == id && c.index == j then (.wait, s)
  else match s.takeFrame (entStack e) (Desc.frame o.desc / 65536) o.region with
    | none => (.exhausted, s)
    | some (f, t) =>
      let t := { t with cow := t.cow ++ [⟨id, j, f, o.inc⟩] }
      (.wait, t)

/-- The same over several indices: an index without a frame ends it, and any that waits makes the whole wait. -/
def State.cowAll (s : State) (id : BitVec 32) : List Nat → (Option Nat × Bool) × State
  | [] => ((none, true), s)
  | j :: r =>
    match s.cowIndex id j with
    | (.exhausted, t) => ((some j, false), t)
    | (.wait, t) =>
      let ((x, _), u) := t.cowAll id r
      ((x, false), u)
    | (.ready, t) => t.cowAll id r

/-- The bytes of one frame copied over another of its size, uncorrectable words with them (R176). -/
def State.copyFrame (s : State) (src dst n : Nat) : State :=
  let z := s.zeroAt dst n
  let cells := s.mem.filter fun c => decide (src ≤ c.1 ∧ c.1 < src + n)
  let bads := s.bad.filter fun w => decide (src ≤ w * 8 ∧ w * 8 < src + n)
  { z with mem := cells.foldl (fun m c => Memory.write m (c.1 - src + dst) c.2) z.mem
           bad := z.bad ++ bads.map fun w => w - src / 8 + dst / 8 }

/-- A duplication ends: the entry takes the new frame, C is cleared, the old frame's count falls, translations are
invalidated (R176). -/
def State.finishCow (s : State) (c : Cow) : State :=
  let o := s.objOf c.obj
  let e := o.entry c.index
  let n := c.frame.units * 65536
  if o.live = false ∨ o.inc ≠ c.inc then s.dropFrame c.frame.stack c.frame.no
  else
    let t := s.copyFrame (entKey e 0) (hbmKey c.frame.stack (c.frame.no * 65536)) n
    let e1 := setFld (setFld e 32 24 c.frame.no) 2 1 0
    ((t.setObj c.obj { o with table := put o.table c.index e1 }).invalidate c.obj (some c.index)).dropFrame
      (entStack e) (entFrame e)

/-! ### An object read and written by firmware, byte by byte -/

/-- The element that holds byte i of an object, in raster order. -/
def State.byteEl (s : State) (id : BitVec 32) (i : Nat) : C4 :=
  let d := (s.objOf id).desc
  rasterAt {} ⟨Desc.ext d 0, Desc.ext d 1, Desc.ext d 2, Desc.ext d 3⟩ (i * 8 / Desc.bits d)

/-- The memory key of byte i of an object, in raster order; none where the frame is not present. -/
def State.objKey (s : State) (id : BitVec 32) (i : Nat) : Option Nat :=
  let o := s.objOf id
  let d := o.desc
  let w := Desc.bits d
  let ext : C4 := ⟨Desc.ext d 0, Desc.ext d 1, Desc.ext d 2, Desc.ext d 3⟩
  let l := Desc.locate d (rasterAt {} ext (i * 8 / w))
  if entV (o.entry l.1) then some (entKey (o.entry l.1) l.2 + i * 8 % w / 8) else none

/-- Bytes of an object from offset a on; a byte that is not present reads 0. -/
def State.objRead (s : State) (id : BitVec 32) (a n : Nat) : List Byte :=
  (List.range n).map fun i =>
    match s.objKey id (a + i) with
    | some k => Memory.read s.mem k
    | none => 0#8

/-- Firmware shares no frame that it writes: the frame of byte i is duplicated at once if it is shared; none where the pool has no
frame for it. -/
def State.unshare (s : State) (id : BitVec 32) (i : Nat) : Option State :=
  let d := (s.objOf id).desc
  let ext : C4 := ⟨Desc.ext d 0, Desc.ext d 1, Desc.ext d 2, Desc.ext d 3⟩
  let j := (Desc.locate d (rasterAt {} ext (i * 8 / Desc.bits d))).1
  match s.cowIndex id j with
  | (.wait, t) =>
    match t.cow.find? fun c => c.obj == id && c.index == j with
    | some c => some ({ t with cow := t.cow.filter fun x => x != c }.finishCow c)
    | none => some t
  | (.exhausted, _) => none
  | (.ready, t) => some t

/-- Bytes are written into an object by firmware from offset a on. A byte of a shared frame for whose duplication the pool has no frame is not
written: R176 names no fate of such a write (log 74). -/
def State.objWrite (s : State) (id : BitVec 32) (a : Nat) : List Byte → State
  | [] => s
  | b :: r =>
    (match s.unshare id a with
     | none => s
     | some t => match t.objKey id a with
       | some k => t.writeAt k [b]
       | none => t).objWrite id (a + 1) r

/-! ### Event rings (22_task_dispatcher.md R296) -/

/-- The ring of a region: its object and entries N; none when the region has no ring. -/
def State.ring (s : State) (r : Nat) : Option (BitVec 32 × Nat) :=
  let h := rcbWord (s.eff r 16) 8
  match s.obj? h with
  | none => none
  | some o =>
    let n := Desc.bytes o.desc
    if h = 0#64 ∨ n % 32 ≠ 0 ∨ n < 64 then none else some (hobj h, n / 32)

/-- The little-endian bytes of words. -/
def wordsBytes (l : List Word64) : List Byte := l.flatMap fun w => leBytes 8 w.toNat

/-- The MSI-X vector of a function for events, after those of its eight queues (29_host_firmware.md R369). -/
def eventVector : Nat := 8

/-- An event is posted to a region: an entry is written, then the header; a ring never written counts as one whose
next entry is 1. The events vector of each function that runs a queue of the region is raised: 29_host_firmware.md R369 gives it and says no more (log
52). -/
def State.post (s : State) (r kind : Nat) (w1 w2 w3 : Word64) : State :=
  match s.ring r with
  | none => s
  | some (id, n) =>
    let hd := s.objRead id 0 32
    let i0 := leNat (hd.take 8)
    let i := if 1 ≤ i0 ∧ i0 < n then i0 else 1
    let cnt := leNat ((hd.drop 8).take 8)
    let lost := leNat (hd.drop 24)
    let w0 := BitVec.ofNat 64 (kind * 2 ^ 56 + r % 4096 * 2 ^ 44 + s.cycle % 2 ^ 32)
    let next := if i + 1 < n then i + 1 else 1
    let covered := if n - 1 ≤ cnt then 1 else 0
    let t := (s.objWrite id (32 * i) (wordsBytes [w0, w1, w2, w3])).objWrite id 0
      (wordsBytes [BitVec.ofNat 64 next, BitVec.ofNat 64 (cnt + 1), 0#64, BitVec.ofNat 64 (lost + covered)])
    { t with msix := t.msix ++ ((t.queues.filter fun q => q.2.en && q.2.region == r).map fun q => (q.1.1, eventVector)).eraseDups }

end Sys2Proof.Machine
end

