-- ==== Sys2Proof/Machine/Tensor.lean ====
section
/-! DEFINITION. Tensor loads, stores and atomics through a generator, and the ENGINE-T commands
(12_tae_instructions.md R181-R198): what they do when they fire. Marks: DEDUCED (log 11, 23); DESIGN CHOICE (log 4,
61, 72). -/

namespace Sys2Proof.Machine

/-! ### Through a generator (R181) -/

/-- A fault through a generator, recorded in its CAUSE (R175, R181). -/
def genFault (g : Nat) (c : Cause) (d0 d1 : Word64) (s : State) : Act :=
  .faultIn c d0 d1 (s.updTile s.focus.die s.focus.tile fun t => t.setAg g { t.ag g with cause := some c })

/-- A plain access of a generator is RLX (R182). -/
def Ag.rlx (a : Ag) (write : Bool) : Bool := if write then a.ord == 0 || a.ord == 1 else a.ord == 0 || a.ord == 2

/-- Checks 1 to 5 of R181 and checks 1 and 2 of R177, then k on the generator, the object and the elements. `tags` is
check 1, given the generator's tag and the object's format where it is bound; `shape` is check 4, given the absolute d0
coordinate of the access; `offs` are the elements' offsets along d0. DETAIL0 of an `ALIGN` fault, the effective address of
28_traps_preemption.md R353, is a free value: a tensor access has no such address (log 4). -/
def viaGen (g : Nat) (tags : Ag → Option Desc → Bool) (shape : Ag → Desc → Int → Bool) (w : Word64) (base : Ag → Int)
    (offs : Ag → Desc → List Int) (k : Ag → Obj → List C4 → State → Act) (s : State) : Act :=
  let p := s.focus
  let a := (s.tile p.die p.tile).ag g
  let d := (s.objOf (hobj a.handle)).desc
  let x0 := (a.org.c0 : Int) + fldN w 0 32 + base a
  let c : C4 := ⟨0, a.org.c1 + fldN w 32 16, a.org.c2 + fldN w 48 8, a.org.c3 + fldN w 56 8⟩
  let el (x : Int) : C4 := { c with c0 := x.toNat }
  let within (x : Int) : Bool := decide (0 ≤ x) && boxHas a.org a.ext (el x)
  if tags a (if a.bound then some d else none) = false then genFault g .tagFault 0#64 0#64 s
  else if a.bound = true ∧ a.owner ≠ p.ctx then genFault g .rights a.handle (s.tblIndex a.handle none) s
  else if a.bound = false then genFault g .window 0#64 (s.tblIndex 0#64 none) s
  else if shape a d x0 = false then genFault g .align (Config.freeValue s.freeCtr) 0#64 s
  else
    let xs := (offs a d).map fun o => x0 + o
    match xs.find? fun x => !within x with
    | some x => genFault g .window a.handle (s.tblIndex a.handle (if 0 ≤ x then some (el x) else none)) s
    | none =>
      match s.reach (s.ctx p).region a.handle with
      | none => genFault g .rights a.handle (s.tblIndex a.handle none) s
      | some o => k a o (xs.map el) s

/-- A load in flight begins (R181, R387): its windows have passed R49, its entries are those its holder has. -/
def tensorLoad (g lsid : Nat) (h : Holder) (target : BitVec 7) (scalar : Option Nat) (r : Run) (a : Ag) (o : Obj) (els : List C4)
    (s : State) : Act :=
  let p := s.focus
  match o.check (s.owners p) false (a.rlx false) (fun _ => 3#64) els with
  | some (c, x) => genFault g c a.handle (s.tblIndex a.handle (some x)) s
  | none =>
    let q : TReq := { ctx := p.ctx, serial := r.serial, index := s.index, ag := g, h := a.handle, els := els
                      size := Desc.bits o.desc, scalar := scalar, tag := a.tag, target := target, lsid := lsid
                      tlb := h == .tlb }
    .done [] none ((s.updTile p.die p.tile fun t => { t with reqs := t.reqs ++ [q] }).updRun p fun r =>
      { r with loading := r.loading ++ [s.index] })

/-- A write is translated, checked and duplicated when it fires (R176, R177, R181); then it is received by k. It does not fire while a walk
of it has no route (R387). -/
def tensorWrite (g : Nat) (h : Holder) (rlx : Bool) (a : Ag) (o : Obj) (els : List C4) (k : State → Act) (s : State) : Act :=
  let p := s.focus
  let id := hobj a.handle
  let js := Desc.indices o.desc els
  if (js.all fun j => s.canWalk p.die p.tile h id j) = false then .notYet else
  let (ents, s1) := s.translateAll p.die p.tile h id js
  match o.check (s.owners p) true rlx (look 0#64 ents) els with
  | some (c, x) => genFault g c a.handle (s1.tblIndex a.handle (some x)) s1
  | none =>
    match s1.cowAll id js with
    | ((some j, _), s2) => genFault g .frameExhausted a.handle (BitVec.ofNat 64 j) s2
    | ((none, true), s2) => k s2
    | ((none, false), s2) => .stay s2

/-- The offset vector of the .x forms: the integer tag with the generator's lanes (R183). Without a stream tag, on an unbound generator or an object
of format I64, each of the three passes; VQ4N has the lanes of no integer tag, and VI8 passes (log 72). -/
def offsetTag (a : Ag) (bound : Bool) (t : Tag) : Bool :=
  if bound && a.tag != .empty then t == offTag a.tag else t == .vi32 || t == .vi16 || t == .vi8

/-- n consecutive offsets. -/
def consecutive (n : Nat) : List Int := (List.range n).map Int.ofNat

/-- Check 4 of the plain vector forms: a format with a stream tag, a Q4N access at a multiple of 64 (R183). -/
def plainShape (a : Ag) (_ : Desc) (x : Int) : Bool := a.tag != .empty && (a.tag != .vq4n || x % 64 == 0)

/-- Check 4 of the offset forms (R183). -/
def offsetShape (a : Ag) (_ : Desc) (_ : Int) : Bool := a.tag != .empty && a.tag != .vq4n

/-- The offsets of the lanes of an offset form (R183). -/
def laneOffsets (a : Ag) (off : Reg) (sh : Nat) : List Int :=
  (lanes a.tag.lanes off.tag.shape.2 off.bits).map fun (o : Nat) => ((o * 2 ^ sh : Nat) : Int)

/-- TLDX (R183): a register through a generator. -/
def execTldx (p : BitVec 2) (l : BitVec 5) (g : BitVec 3) (k : BitVec 7) (t : BitVec 7) (s : State) : Out :=
  .next (fire (shapeOf (.tldx p l g k t) s.index) (fun v s => match v with
    | [c] => gated true l.toNat (fun r => viaGen g.toNat (fun _ _ => c.tag == .i64) plainShape c.w
        (fun a => sgnN 7 k.toNat * a.tag.lanes) (fun a _ => consecutive a.tag.lanes)
        (tensorLoad g.toNat l.toNat (.gen g.toNat) t none r)) s
    | _ => .notYet) s)

/-- TLDX, offset form (R183): lanes at offsets, through the edge TLB. -/
def execTldxOffset (p : BitVec 2) (l : BitVec 5) (g : BitVec 3) (h : BitVec 3) (i : BitVec 4) (t : BitVec 7) (s : State) : Out :=
  .next (fire (shapeOf (.tldxOffset p l g h i t) s.index) (fun v s => match v with
    | [c, off] => gated true l.toNat (fun r => viaGen g.toNat (fun a b => c.tag == .i64 && offsetTag a b.isSome off.tag) offsetShape c.w
        (fun _ => sgnN 4 i.toNat) (fun a _ => laneOffsets a off h.toNat) (tensorLoad g.toNat l.toNat .tlb t none r)) s
    | _ => .notYet) s)

/-- The elements of a register store, as they lie in memory. -/
def storePieces (a : Ag) (els : List C4) (v : Reg) : List (C4 × List Byte) :=
  els.zip ((lanes a.tag.lanes a.tag.shape.2 v.bits).map fun x => leBytes ((a.tag.shape.2 + 7) / 8) x)

/-- The register of a store carries the generator's tag; where the generator has none, it is unbound or on an object of format I64, a vector tag
passes (R183, log 72). -/
def storeTag (a : Ag) (bound : Bool) (t : Tag) : Bool :=
  if bound && a.tag != .empty then t == a.tag else decide (7 ≤ t.num ∧ t.num ≤ 14)

/-- TSTX (R183): a register to memory at commit. -/
def execTstx (p : BitVec 2) (l : BitVec 5) (g : BitVec 3) (k : BitVec 14) (s : State) : Out :=
  .next (fire (shapeOf (.tstx p l g k) s.index) (fun v s => match v with
    | [c, x] => viaGen g.toNat (fun a b => c.tag == .i64 && storeTag a b.isSome x.tag) plainShape c.w
        (fun a => sgnN 14 k.toNat * a.tag.lanes) (fun a _ => consecutive a.tag.lanes)
        (fun a o els => tensorWrite g.toNat (.gen g.toNat) (a.rlx true) a o els fun t =>
          .done [] (some (.storeTensor g.toNat a.handle (storePieces a els x))) t) s
    | _ => .notYet) s)

/-- TSTX, offset form (R183): lanes to memory at offsets, at commit. -/
def execTstxOffset (l : BitVec 5) (g : BitVec 3) (h : BitVec 3) (i : BitVec 4) (s : State) : Out :=
  .next (fire (shapeOf (.tstxOffset l g h i) s.index) (fun v s => match v with
    | [c, x, off] => viaGen g.toNat (fun a b => c.tag == .i64 && offsetTag a b.isSome off.tag
          && storeTag a b.isSome x.tag) offsetShape c.w
        (fun _ => sgnN 4 i.toNat) (fun a _ => laneOffsets a off h.toNat)
        (fun a o els => tensorWrite g.toNat .tlb (a.rlx true) a o els fun t =>
          .done [] (some (.storeTensor g.toNat a.handle (storePieces a els x))) t) s
    | _ => .notYet) s)

/-- Check 4 of the scalar forms: any format but Q4N (R184). -/
def scalarShape (_ : Ag) (d : Desc) (_ : Int) : Bool := d.fmt != 9

/-- TLDS (R184): one element. -/
def execTlds (p : BitVec 2) (l : BitVec 5) (g : BitVec 3) (k : BitVec 7) (t : BitVec 7) (s : State) : Out :=
  .next (fire (shapeOf (.tlds p l g k t) s.index) (fun v s => match v with
    | [c] => gated true l.toNat (fun r => viaGen g.toNat (fun _ _ => c.tag == .i64) scalarShape c.w (fun _ => sgnN 7 k.toNat)
        (fun _ _ => [0]) (fun a o => tensorLoad g.toNat l.toNat (.gen g.toNat) t (some (Desc.fmt o.desc)) r a o)) s
    | _ => .notYet) s)

/-- The tags that TSTS accepts for a format (R184). -/
def tstsTag (d : Option Desc) (t : Tag) : Bool :=
  match d with
  | none => t == .i64 || t == .f32s || t == .hndl
  | some d => t == .i64 || (d.fmt == 4 && t == .hndl) || (d.fmt == 8 && t == .f32s)

/-- TSTS (R184): one element to memory at commit. -/
def execTsts (p : BitVec 2) (l : BitVec 5) (g : BitVec 3) (k : BitVec 14) (s : State) : Out :=
  .next (fire (shapeOf (.tsts p l g k) s.index) (fun v s => match v with
    | [c, x] => viaGen g.toNat (fun _ d => c.tag == .i64 && tstsTag d x.tag) scalarShape c.w (fun _ => sgnN 14 k.toNat)
        (fun _ _ => [0])
        (fun a o els => tensorWrite g.toNat (.gen g.toNat) (a.rlx true) a o els fun t =>
          .done [] (some (.storeTensor g.toNat a.handle (els.map fun e => (e, leBytes (Desc.bits o.desc / 8) x.w.toNat)))) t) s
    | _ => .notYet) s)

/-! ### Atomics (R185, R186) -/

/-- Check 4 of an atomic of n bytes (R185). -/
def atomicShape (n : Nat) (_ : Ag) (d : Desc) (x : Int) : Bool :=
  if d.fmt = 0 then x % (n : Int) == 0 else d.bits == 8 * n

/-- The elements of an atomic of n bytes: n of a BYTE object, else one (R185). -/
def atomicOffs (n : Nat) (_ : Ag) (d : Desc) : List Int := if d.fmt = 0 then consecutive n else [0]

/-- The firing part of a tensor atomic whose commit part is op, given the generator's handle and the element (R185). -/
def tensorAtomic (g n : Nat) (t : BitVec 7) (tagOk : Bool) (c : Reg) (op : Word64 → C4 → CommitOp) (s : State) : Act :=
  viaGen g (fun _ _ => tagOk) (atomicShape n) c.w (fun _ => 0) (atomicOffs n)
    (fun a o els => tensorWrite g (.gen g) false a o els fun u => u.reserve t.toNat (op a.handle (els.headD {}))) s

/-- AMOT (R185): a tensor atomic at commit. -/
def execAmot (p : BitVec 2) (l : BitVec 5) (m : BitVec 4) (o : BitVec 2) (z : BitVec 1) (g : BitVec 3) (t : BitVec 7)
    (s : State) : Out :=
  .next (fire (shapeOf (.amot p l m o z g t) s.index) (fun v s => match v with
    | [c, b] => tensorAtomic g.toNat (amoSize z) t (c.tag == .i64 && b.tag == .i64) c
        (fun h e => .amoTensor g.toNat h e (amoSize z) m.toNat b.w t) s
    | _ => .notYet) s)

/-- CAS, tensor (R185): a tensor compare-and-swap at commit. -/
def execCasTensor (l : BitVec 5) (g : BitVec 3) (o : BitVec 2) (z : BitVec 1) (t : BitVec 7) (s : State) : Out :=
  .next (fire (shapeOf (.casTensor l g o z t) s.index) (fun v s => match v with
    | [c, e, n] => tensorAtomic g.toNat (amoSize z) t (c.tag == .i64 && e.tag == .i64 && n.tag == .i64) c
        (fun h x => .casTensor g.toNat h x (amoSize z) e.w n.w t) s
    | _ => .notYet) s)

/-- Check 4 of `VAMOT`: FP32 or BF16, one tile, the byte offset in the tile a multiple of 128 (R186). -/
def vamotShape (a : Ag) (d : Desc) (x : Int) : Bool :=
  let n := a.tag.lanes
  let t0 := d.til 0
  (d.fmt == 7 || d.fmt == 8) && decide (x.toNat / t0 = (x.toNat + n - 1) / t0)

/-- The byte offset of the first element within its tile (R169). -/
def Desc.tileOffset (d : Desc) (c : C4) : Nat :=
  let r (i : Nat) := if d.til i = 0 then 0 else c.at i % d.til i
  (r 0 + d.til 0 * (r 1 + d.til 1 * (r 2 + d.til 2 * r 3))) * d.bits / 8

/-- The register of a `VAMOT` carries the generator's tag; without one, VF32 or VBF16 (R186, log 72). -/
def vamotTag (a : Ag) (bound : Bool) (t : Tag) : Bool :=
  if bound && a.tag != .empty then t == a.tag else t == .vf32 || t == .vbf16

/-- VAMOT (R186): a register added elementwise at the home, at commit. -/
def execVamot (p : BitVec 2) (l : BitVec 5) (g : BitVec 3) (o : BitVec 2) (s : State) : Out :=
  .next (fire (shapeOf (.vamot p l g o) s.index) (fun v s => match v with
    | [c, x] =>
      let a := (s.tile s.focus.die s.focus.tile).ag g.toNat
      let row : C4 := ⟨a.org.c0 + fldN c.w 0 32, a.org.c1 + fldN c.w 32 16, a.org.c2 + fldN c.w 48 8, a.org.c3 + fldN c.w 56 8⟩
      viaGen g.toNat (fun a b => c.tag == .i64 && vamotTag a b.isSome x.tag)
        (fun a d y => vamotShape a d y && Desc.tileOffset d row % 128 == 0) c.w (fun _ => 0)
        (fun a _ => consecutive a.tag.lanes)
        (fun a o els => tensorWrite g.toNat (.gen g.toNat) false a o els fun t =>
          let m := (s.ctx s.focus).round
          .done [] (some (.vamot g.toNat a.handle a.tag (els.zip (lanes a.tag.lanes a.tag.shape.2 x.bits))
            (if m = 4 then 0 else m) (s.ctx s.focus).sat)) t) s
    | _ => .notYet) s)

/-! ### Geometry registers (R178) -/

def Tile.cg (t : Tile) (n : Nat) : BitVec 512 := look 0#512 t.cgs n

def cgOrg (c : BitVec 512) : C4 := ⟨fldN c 0 32, fldN c 32 32, fldN c 64 32, fldN c 96 32⟩

def cgExt (c : BitVec 512) : C4 := ⟨fldN c 128 32, fldN c 160 32, fldN c 192 32, fldN c 224 32⟩

/-- Reserved fields of a geometry register are zero (R178). -/
def cgClean (c : BitVec 512) : Bool :=
  decide (fldN c 272 48 = 0 ∧ fldN c 266 2 = 0 ∧ fldN c 256 4 = 0 ∧ fldN c 336 8 = 0 ∧ fldN c 384 128 = 0)

/-- The window of a geometry register lies in an object, extents at least 1, whole Q4N blocks (R178). -/
def cgFits (c : BitVec 512) (d : Desc) : Bool :=
  let o := cgOrg c
  let e := cgExt c
  cgClean c && ([0, 1, 2, 3].all fun i => decide (1 ≤ e.at i ∧ o.at i + e.at i ≤ d.ext i))
    && (d.fmt != 9 || decide (o.c0 % 64 = 0 ∧ e.c0 % 64 = 0))

/-! ### ENGINE-T (R187-R198) -/

/-- The generator that a `GSET` makes of a geometry register (R188). Its CAUSE starts again at 0: whether a `GSET` clears the CAUSE of the
generator's last fault neither R175 nor R188 says, and that it does is the model's choice (log 61). -/
def agOf (ctx : Nat) (h : Word64) (c : BitVec 512) (t : Tag) : Ag :=
  { bound := true, owner := ctx, handle := h, org := cgOrg c, ext := cgExt c, rw := bit c 264, sync := bit c 265
    ord := fldN c 260 2, scope := fldN c 262 2, tag := t }

/-- GSET (R188): checks 1 to 4, then the window goes to the object's home. -/
def gsetBody (g : Nat) : List Reg → State → Act
  | [h, n], s =>
    let p := s.focus
    let t := s.tile p.die p.tile
    let a := t.ag g
    if h.tag ≠ .hndl ∨ n.tag ≠ .i64 then .flt .tagFault
    else if a.bound = true ∧ a.owner ≠ p.ctx then .flt .rights
    else match s.reach (s.ctx p).region h.w with
      | none => .flt .rights
      | some o =>
        let d : Desc := o.desc
        let c := t.cg n.w.toNat
        if n.w.toNat < 16 ∧ bit c 264 = true ∧ d.ro = true then .flt .rights
        else if 16 ≤ n.w.toNat ∨ cgFits c d = false ∨ (fldN c 268 4 ≠ 0 ∧ Tag.ofNum (fldN c 268 4) ≠ d.tag) then .flt .window
        else
          let w : Win := { owner := s.owner p, org := cgOrg c, ext := cgExt c, rw := bit c 264, sync := bit c 265, active := false }
          askHub (s.objHub (hobj h.w)) (.windowReq (s.request (.window g h.w w))) (.cmd none (.gset g h.w c)) .tokens 0#64 s
  | _, _ => .notYet

/-- GSET (R188): bind a generator to a window of an object. -/
def execGset (p : BitVec 2) (l : BitVec 5) (g : BitVec 3) (t : BitVec 7) (s : State) : Out :=
  .next (fire (shapeOf (.gset p l g t) s.index) (gsetBody g.toNat) s)

/-- SBIND (R189): bind or unbind a stream port at commit. -/
def execSbind (p : BitVec 2) (l : BitVec 5) (n : BitVec 3) (s : State) : Out :=
  .next (fire (shapeOf (.sbind p l n) s.index) (fun v s => match v with
    | [g] =>
      let a := (s.tile s.focus.die s.focus.tile).ag (fldN g.w 0 3)
      if g.tag ≠ .i64 then .flt .tagFault
      else if bit g.w 63 then .done [] (some (.cmd none (.sbind n.toNat none))) s
      else if a.bound = true ∧ a.owner ≠ s.focus.ctx then .flt .rights
      else if a.bound = false ∨ a.tag = .empty then .flt .window
      else .done [] (some (.cmd none (.sbind n.toNat (some (fldN g.w 0 3))))) s
    | _ => .notYet) s)

/-- CSETG (R190): write a geometry register from the local store, at commit. -/
def execCsetg (p : BitVec 2) (l : BitVec 5) (c : BitVec 4) (s : State) : Out :=
  .next (fire (shapeOf (.csetg p l c) s.index) (fun v s => match v with
    | [a] =>
      if a.tag ≠ .i64 then .flt .tagFault
      else if a.w.toNat % 64 ≠ 0 then .fault .align a.w 0#64
      else if lsSize < a.w.toNat + 64 then .fault .lsBounds a.w 0#64
      else .done [] (some (.cmd none (.csetg c.toNat a.w.toNat))) s
    | _ => .notYet) s)

/-- CPY (R191, R192): a window to or from the local store. -/
def execCpy (p : BitVec 2) (l : BitVec 5) (d : BitVec 1) (c : BitVec 4) (t : BitVec 7) (s : State) : Out :=
  .next (fire (shapeOf (.cpy p l d c t) s.index) (fun v s => match v with
    | [h, a] =>
      if h.tag ≠ .hndl ∨ a.tag ≠ .i64 then .flt .tagFault
      else command .ce l.toNat (.cpy (d == 1#1) c.toNat h.w a.w) s
    | _ => .notYet) s)

/-- CPYW (R191, R193): a window of one object to a window of another. -/
def execCpyw (p : BitVec 2) (l : BitVec 5) (c : BitVec 4) (t : BitVec 7) (s : State) : Out :=
  .next (fire (shapeOf (.cpyw p l c t) s.index) (fun v s => match v with
    | [hd, hs] =>
      if hd.tag ≠ .hndl ∨ hs.tag ≠ .hndl then .flt .tagFault
      else command .ce l.toNat (.cpyw c.toNat hd.w hs.w) s
    | _ => .notYet) s)

/-- CPYM (R191, R194): a window multicast to a rectangle of the gang. -/
def execCpym (p : BitVec 2) (l : BitVec 5) (c : BitVec 4) (t : BitVec 7) (s : State) : Out :=
  .next (fire (shapeOf (.cpym p l c t) s.index) (fun v s => match v with
    | [h, r] =>
      if h.tag ≠ .hndl ∨ r.tag ≠ .i64 then .flt .tagFault
      else command .ce l.toNat (.cpym c.toNat h.w r.w) s
    | _ => .notYet) s)

/-- DEAL (R191, R195): a window dealt over the gang. -/
def execDeal (p : BitVec 2) (l : BitVec 5) (c : BitVec 4) (t : BitVec 7) (s : State) : Out :=
  .next (fire (shapeOf (.deal p l c t) s.index) (fun v s => match v with
    | [h] => if h.tag ≠ .hndl then .flt .tagFault else command .ce l.toNat (.deal c.toNat h.w) s
    | _ => .notYet) s)

/-- CPYT (R191, R196): local bytes into the die's on-chip map. -/
def execCpyt (p : BitVec 2) (l : BitVec 5) (n : BitVec 5) (t : BitVec 7) (s : State) : Out :=
  .next (fire (shapeOf (.cpyt p l n t) s.index) (fun v s => match v with
    | [d, a] =>
      if d.tag ≠ .i64 ∨ a.tag ≠ .i64 then .flt .tagFault
      else command .ce l.toNat (.cpyt d.w a.w ((n.toNat + 1) * 256)) s
    | _ => .notYet) s)

/-- CPYT, landing form (R191, R196): 256 local bytes into a landing entry. -/
def execCpytLand (p : BitVec 2) (l : BitVec 5) (g : BitVec 4) (t : BitVec 7) (s : State) : Out :=
  .next (fire (shapeOf (.cpytLand p l g t) s.index) (fun v s => match v with
    | [d, a] =>
      if d.tag ≠ .i64 ∨ a.tag ≠ .i64 then .flt .tagFault
      else command .ce l.toNat (.cpytLand d.w a.w g.toNat) s
    | _ => .notYet) s)

/-- TWAIT (R197). -/
def twaitBody (e : Engine) : List Reg → State → Act
  | [n], s =>
    let x := s.ctx s.focus
    match x.run with
    | none => .notYet
    | some r =>
      if n.tag ≠ .i64 then .flt .tagFault
      else if r.issueAt.get e < n.w.toNat then .flt .blockStall
      else if x.done.get e < n.w.toNat then .wait .timeline (BitVec.ofNat 64 e.num)
      else match x.lowestFault e n.w.toNat with
        | some f => .async f
        | none => .done [.val (Reg.ofW (BitVec.ofNat 64 (x.done.get e)))] (some (.cmd none .confirm)) s
  | _, _ => .notYet

/-- TWAIT (R197): wait for a timeline number and acquire it. -/
def execTwait (p : BitVec 2) (l : BitVec 5) (e : BitVec 2) (t : BitVec 7) (s : State) : Out :=
  .next (fire (shapeOf (.twait p l e t) s.index) (twaitBody (Engine.ofNum e.toNat)) s)

/-- TREAD (R198): read a timeline, acquiring nothing. -/
def execTread (p : BitVec 2) (l : BitVec 5) (w : BitVec 1) (e : BitVec 2) (t : BitVec 7) (s : State) : Out :=
  .next (fire (shapeOf (.tread p l w e t) s.index) (fun _ s =>
    let x := s.ctx s.focus
    let y := if w = 1#1 then x.issue else x.done
    .done [.val (Reg.ofW (BitVec.ofNat 64 (y.get (Engine.ofNum e.toNat))))] (some (.cmd none .confirm)) s) s)

end Sys2Proof.Machine
end

