-- ==== Sys2Proof/Machine/Access.lean ====
section
/-! DEFINITION. Tensor loads on their way to a home and back, frame walks, the frame-copy unit and stream read-ahead
(11_tensor_access.md R172, R174, R176, R177, R387). Marks: DEDUCED (log 14, 23, 28); DESIGN CHOICE (log 7). -/

namespace Sys2Proof.Machine

/-! ### Walks (R172) -/

def TReq.holder (q : TReq) : Holder := if q.tlb then .tlb else .gen q.ag

def Tile.setReq (t : Tile) (i : Nat) (q : TReq) : Tile := { t with reqs := t.reqs.set i q }

/-- The request still serves a load of its context's block in flight; once the block commits, a value that has not returned is not
needed, and the load is performed no more (03_memory_model.md R42). -/
def State.serves (s : State) (d t : Nat) (q : TReq) : Bool :=
  match (s.ctx ⟨d, t, q.ctx⟩).run with
  | some r => r.serial == q.serial && r.loading.contains q.index && !r.committing
  | none => false

/-- Entries that the request's holder has are taken, in the order of the indices, until one is missing. -/
def Tile.absorb (t : Tile) (q : TReq) (obj : BitVec 32) : List Nat → TReq × Tile
  | [] => (q, t)
  | j :: r =>
    if q.entries.any fun e => e.1 == j then t.absorb q obj r
    else match t.trFor q.holder obj j with
      | none => (q, t)
      | some e => (t.hold q.holder ⟨obj, j, e⟩).absorb { q with entries := q.entries ++ [(j, e)] } obj r

/-- The first index that a request still lacks. -/
def TReq.missing (q : TReq) (js : List Nat) : Option Nat := js.find? fun j => !q.entries.any fun e => e.1 == j

/-- TABLE_WALK (R172): the next entry that the load of that number lacks is walked. -/
def execTableWalk (s : State) : Out :=
  let d := s.focus.die
  let t := s.focus.tile
  .next (match (s.tile d t).reqs[s.index]? with
    | none => s
    | some q =>
      if s.serves d t q = false then s.updTile d t fun x => { x with reqs := dropAt x.reqs s.index }
      else
        let obj := hobj q.h
        let js := Desc.indices (s.objOf obj).desc q.els
        let (q1, x) := (s.tile d t).absorb q obj js
        let s1 := s.setTile d t x
        match q1.missing js with
        | none => s1.updTile d t fun x => x.setReq s.index q1
        | some j =>
          if s1.canWalk d t q1.holder obj j = false then s1
          else
          let (e, s2) := s1.walk d t q1.holder obj j
          s2.updTile d t fun x => x.setReq s.index { q1 with entries := q1.entries ++ [(j, e)] })

/-! ### At the home (R177, R387) -/

/-- The bytes that lower-LSID stores of the block give element c of an object (03_memory_model.md R42). -/
def Run.forwardEl (r : Run) (l : Nat) (obj : BitVec 32) (c : C4) : Option (List Byte) :=
  ((sortLsid r.counted).filter fun x => decide (x.lsid < l)).foldl (fun b x =>
    match x.op with
    | .storeTensor _ h ps =>
      if hobj h = obj then (((ps.reverse).find? fun p => p.1 == c).map (·.2)).or b else b
    | _ => b) none

/-- The result of a scalar load (12_tae_instructions.md R184). -/
def scalarResult (fmt v : Nat) : Reg :=
  let f32 (n : Nat) : Reg := { tag := .f32s, bits := BitVec.ofNat 2048 n }
  match fmt with
  | 1 => Reg.ofW (BitVec.ofInt 64 (sgnN 8 v))
  | 2 => Reg.ofW (BitVec.ofInt 64 (sgnN 16 v))
  | 3 => Reg.ofW (BitVec.ofInt 64 (sgnN 32 v))
  | 5 => f32 (fp32.rne false (e4m3.dec v))
  | 6 => f32 (fp32.rne false (e5m2.dec v))
  | 7 => f32 (fp32.rne false (bf16.dec v))
  | 8 => f32 v
  | _ => Reg.ofW (BitVec.ofNat 64 v)

/-- The load's frames hold an S page (03_memory_model.md R52): by the entries that it has found, or by the table at the object's
home where it has not walked them yet. -/
def State.sPage (s : State) (q : TReq) : Bool :=
  let o := s.objOf (hobj q.h)
  (q.entries.any fun e => entS e.2) || (Desc.indices o.desc q.els).any fun j => entS (o.entry j)

/-- R52: an S load waits for the tensor loads of lower LSID of its block to have fired and the S loads among them to
have returned, walked or not, and for any other S access of its context in flight. -/
def State.sTurn (s : State) (d t : Nat) (q : TReq) : Bool :=
  let mates := (s.tile d t).reqs.filter fun x => x.ctx == q.ctx && x.serial == q.serial && x.index != q.index
  !s.sPage q ||
  (match (s.ctx ⟨d, t, q.ctx⟩).run with
   | none => false
   | some r => (r.below q.lsid).all fun k => match k.2.gate with
      | .tload _ => r.fired.contains k.1 || r.off.contains k.1
      | _ => true)
  && mates.all fun x => !(s.sPage x && (x.value.isSome || decide (x.lsid < q.lsid)))

/-- What the home answers a load whose entries are all found. -/
def State.answer (s : State) (r : Run) (q : TReq) : Answer :=
  let obj := hobj q.h
  let dsc := (s.objOf obj).desc
  let at_ (c : C4) := Desc.locate dsc c
  let ent (c : C4) := look 0#64 q.entries (at_ c).1
  let own (c : C4) := r.forwardEl q.lsid obj c
  match q.els.find? fun c => !entV (ent c) with
  | some c => .refused .tensorNotPresent (BitVec.ofNat 64 (at_ c).1)
  | none =>
    match q.els.find? fun c => (own c).isNone && s.badEl (ent c) (at_ c).2 q.size with
    | some c => .refused .uncorrectable (BitVec.ofNat 64 (at_ c).1)
    | none =>
      let vs := q.els.map fun c => match own c with
        | some b => leNat b
        | none => s.peek (ent c) (at_ c).2 q.size
      match q.scalar with
      | some f => .value (scalarResult f (vs.headD 0))
      | none => .value { tag := q.tag, bits := ofLanes q.tag.shape.2 vs }

/-- TENSOR_REQUEST (R387): the load of that number is performed once, at its home. -/
def execTensorRequest (s : State) : Out :=
  let d := s.focus.die
  let t := s.focus.tile
  .next (match (s.tile d t).reqs[s.index]? with
    | none => s
    | some q =>
      match (s.ctx ⟨d, t, q.ctx⟩).run with
      | none => s.updTile d t fun x => { x with reqs := dropAt x.reqs s.index }
      | some r =>
        if s.serves d t q = false then s.updTile d t fun x => { x with reqs := dropAt x.reqs s.index }
        else
          let obj := hobj q.h
          let js := Desc.indices (s.objOf obj).desc q.els
          let (q1, x) := (s.tile d t).absorb q obj js
          let s1 := (s.setTile d t x).updTile d t fun x => x.setReq s.index q1
          if q.value.isSome = true ∨ (q1.missing js).isSome = true ∨ s1.sTurn d t q1 = false
              ∨ (q1.entries.all fun e => !entV e.2 || s.routed d (entStack e.2)) = false then s1
          else s1.updTile d t fun x => x.setReq s.index { q1 with value := some (s1.answer r q1) })

/-- TENSOR_REPLY (R387, R181): the answer reaches the tile; a fault is recorded in the generator's CAUSE. -/
def execTensorReply (s : State) : Out :=
  let d := s.focus.die
  let t := s.focus.tile
  .next (match (s.tile d t).reqs[s.index]? with
    | none => s
    | some q =>
      let p : Place := ⟨d, t, q.ctx⟩
      match q.value with
      | none => s
      | some v =>
        let s1 := s.updTile d t fun x => { x with reqs := dropAt x.reqs s.index }
        if s.serves d t q = false then s1
        else match v with
          | .value x => (s1.updRun p fun r => { r with loading := r.loading.filter (· != q.index) }).deliver p (some q.index)
              q.target.toNat (.val x)
          | .refused c j => (s1.updTile d t fun x => x.setAg q.ag { x.ag q.ag with cause := some c }).faultAt p
              (some q.index) c q.h j)

/-- LINK_FLIT_RETRY (R387): a flit is sent again; nothing is performed twice or lost. -/
def execLinkFlitRetry (s : State) : Out := .next s

/-- COW_COMPLETE (R176): the frame copy of that number ends. -/
def execCowComplete (s : State) : Out :=
  .next (match s.cow[s.index]? with
    | none => s
    | some c => { s with cow := dropAt s.cow s.index }.finishCow c)

/-! ### Streams (R174) -/

/-- What a read of stream element k of a generator gives: the register, or a fault's cause with its table index. -/
inductive Popped where
  | elem (r : Reg)
  | fault (c : Cause) (index : Word64)
  deriving DecidableEq, Repr

/-- The elements of stream element k of a generator. -/
def Ag.elsAt (a : Ag) (k : Nat) : List C4 :=
  let org := a.at k
  (List.range (a.lanesAt k)).map fun i => { org with c0 := org.c0 + i }

/-- A pop of element k of generator g need not wait: the element is read ahead, or its requests find their routes (R387). -/
def State.popOpen (s : State) (d t g k : Nat) : Bool :=
  let a := (s.tile d t).ag g
  decide (k < a.pos + a.ahead.length) || s.open d t (.gen g) (hobj a.handle) (a.elsAt k)

/-- Element k of generator g is read for its owner: past the end, then the checks of R177 over its lanes. The tile's
translations are used and filled; a short element's missing lanes read zero. -/
def State.popAt (s : State) (d t g k : Nat) : Popped × State :=
  let a := (s.tile d t).ag g
  let obj := hobj a.handle
  let fail (c : Cause) (x : Option C4) : Popped := .fault c (s.tblIndex a.handle x)
  let p : Place := ⟨d, t, a.owner⟩
  if a.len ≤ k then (fail .window none, s)
  else match s.reach (s.ctx p).region a.handle with
    | none => (fail .rights none, s)
    | some o =>
      let els := a.elsAt k
      match o.check (s.owners p) false (a.rlx false) (fun _ => 3#64) els with
      | some (c, x) => (fail c (some x), s)
      | none =>
        let (ents, s1) := s.translateAll d t (.gen g) obj (Desc.indices o.desc els)
        let at_ (c : C4) := Desc.locate o.desc c
        let ent (c : C4) := look 0#64 ents (at_ c).1
        let w := Desc.bits o.desc
        match els.find? fun c => !entV (ent c) with
        | some c => (.fault .tensorNotPresent (BitVec.ofNat 64 (at_ c).1), s1)
        | none =>
          match els.find? fun c => s.badEl (ent c) (at_ c).2 w with
          | some c => (.fault .uncorrectable (BitVec.ofNat 64 (at_ c).1), s1)
          | none => (.elem { tag := a.tag, bits := ofLanes a.tag.shape.2 (els.map fun c => s.peek (ent c) (at_ c).2 w) }, s1)

/-- Elements that a generator reads ahead at most. -/
def aheadLimit : Nat := 4

/-- STREAM_READAHEAD (R174): generator number `index` of the tile reads one more element ahead of its position. It
raises no fault. While its owner waits at a barrier nothing is read for what follows the barrier (03_memory_model.md R45). -/
def execStreamReadahead (s : State) : Out :=
  let d := s.focus.die
  let t := s.focus.tile
  let a := (s.tile d t).ag s.index
  .next (
    if a.bound = false ∨ aheadLimit ≤ a.ahead.length ∨ 8 ≤ s.index
        ∨ (s.ctx ⟨d, t, a.owner⟩).atBarrier.isSome = true ∨ s.popOpen d t s.index (a.pos + a.ahead.length) = false then s
    else match s.popAt d t s.index (a.pos + a.ahead.length) with
      | (.fault _ _, t1) => t1
      | (.elem r, t1) => t1.updTile d t fun x => x.setAg s.index { x.ag s.index with ahead := (x.ag s.index).ahead ++ [r] })

end Sys2Proof.Machine
end

