-- ==== Sys2Proof/Machine/Graph.lean ====
section
/-! DEFINITION. Graph memory: task records, joins, successor lists, instances, and what the Task Dispatcher does to a
record: arming, decrements, kills, the end of a task, the release of an instance (22_task_dispatcher.md R287-R302,
24_prog_diamond.md R322, R323, 27_prog_rebind.md R350). Marks: DEDUCED (log 15, 26, 40, 41, 44, 50); DESIGN CHOICE
(log 4, 65, 71, 75). -/

namespace Sys2Proof.Machine

/-! ### Records (R288-R290) -/

/-- Fields of a record (R288). -/
def Rec.state (r : Vec) : Nat := fldN r 60 4

@[inherit_doc Rec.state]
def Rec.prio (r : Vec) : Nat := fldN r 54 6

/-- Gang width and height in tiles. -/
def Rec.w (r : Vec) : Nat := fldN r 50 4 + 1

@[inherit_doc Rec.w]
def Rec.h (r : Vec) : Nat := fldN r 46 4 + 1

@[inherit_doc Rec.state]
def Rec.holes (r : Vec) : Bool := bit r 45

@[inherit_doc Rec.state]
def Rec.table (r : Vec) : Bool := bit r 44

@[inherit_doc Rec.state]
def Rec.res (r : Vec) : Bool := bit r 43

@[inherit_doc Rec.state]
def Rec.policy (r : Vec) : Nat := fldN r 41 2

@[inherit_doc Rec.state]
def Rec.pipe (r : Vec) : Bool := bit r 40

@[inherit_doc Rec.state]
def Rec.count (r : Vec) : Nat := fldN r 24 16

@[inherit_doc Rec.state]
def Rec.region (r : Vec) : Nat := fldN r 12 12

@[inherit_doc Rec.state]
def Rec.code (r : Vec) : Word64 := fld r 64 64

@[inherit_doc Rec.state]
def Rec.entry (r : Vec) : BitVec 32 := fld r 160 32

@[inherit_doc Rec.state]
def Rec.join (r : Vec) : BitVec 32 := fld r 128 32

@[inherit_doc Rec.state]
def Rec.succ (r : Vec) : Nat := fldN r 232 24

@[inherit_doc Rec.state]
def Rec.nsucc (r : Vec) : Nat := fldN r 216 16

@[inherit_doc Rec.state]
def Rec.toff (r : Vec) : BitVec 32 := fld r 288 32

/-- The footprint in bytes. -/
def Rec.foot (r : Vec) : Nat := fldN r 256 16 * 256

/-- STATUS, its reserved bits as zero (R290). -/
def Rec.status (r : Vec) : Word64 := fld r 320 64 &&& 0xFFFFC000FFFFFFFF#64

/-- STATUS of a record that ends: CAUSE, and EXIT the largest code that a tile has reported (R290). -/
def Slot.endStatus (x : Slot) (cause exit : Nat) : Word64 :=
  setFld (setFld (Rec.status x.raw) 56 8 cause) 48 8 ((x.reported.map (·.2)).foldl max exit)

/-- Word k of operand declaration j (R289). -/
def Rec.opnd (r : Vec) (j k : Nat) : Word64 := fld r (512 + 192 * j + 64 * k) 64

/-- Declaration j is valid. -/
def Rec.v (r : Vec) (j : Nat) : Bool := bit (Rec.opnd r j 2) 15

/-- The valid declarations. -/
def Rec.valid (r : Vec) : List Nat := (List.range 8).filter (Rec.v r)

/-- The window of declaration j: d2 and d3 at origin 0 with extent 1 (R289). -/
def Rec.org (r : Vec) (j : Nat) : C4 := ⟨fldN (Rec.opnd r j 1) 32 32, fldN (Rec.opnd r j 2) 48 16, 0, 0⟩

@[inherit_doc Rec.org]
def Rec.ext (r : Vec) (j : Nat) : C4 := ⟨fldN (Rec.opnd r j 1) 0 32, fldN (Rec.opnd r j 2) 32 16, 1, 1⟩

/-- The local address of a declaration's image. -/
def Rec.image (r : Vec) (j : Nat) : Nat := 32 * fldN (Rec.opnd r j 2) 16 16

/-- DONE, FAULTED, KILLED. -/
def terminal (st : Nat) : Bool := st == 6 || st == 7 || st == 8

/-! ### Slots -/

def State.slot (s : State) (d n : Nat) : Slot := look {} (s.die d).td.slots n

def State.setSlot (s : State) (d n : Nat) (x : Slot) : State := s.updTd d fun t => { t with slots := put t.slots n x }

def State.freeSlot (s : State) (d n : Nat) : State := s.updTd d fun t => { t with slots := del t.slots n }

def State.updRaw (s : State) (d n : Nat) (f : Vec → Vec) : State :=
  s.setSlot d n { s.slot d n with raw := f (s.slot d n).raw }

/-- STATE := st. -/
def State.setStateOf (s : State) (d n st : Nat) : State := s.updRaw d n fun r => setFld r 60 4 st

/-- The STATE of a task ID's slot: FREE where it holds no record. -/
def State.stateOf (s : State) (d n : Nat) : Nat :=
  let x := s.slot d n
  if x.kind = .task then Rec.state x.raw else 0

def idDie (id : BitVec 32) : Nat := fldN id 16 5

def idSlot (id : BitVec 32) : Nat := fldN id 0 16

/-- The task ID of a slot (R287). -/
def State.taskId (s : State) (d n : Nat) : BitVec 32 := BitVec.ofNat 32 (s.moduleId % 1024 * 2 ^ 21 + d * 2 ^ 16 + n)

/-- The join ID of a slot (R287). -/
def State.joinId (s : State) (d n : Nat) : BitVec 32 :=
  BitVec.ofNat 32 (2 ^ 31 + s.moduleId % 1024 * 2 ^ 21 + d * 2 ^ 16 + n)

/-- Slots charged to a region (R295). -/
def State.slotsHeld (s : State) (r : Nat) : Nat :=
  (s.dies.map fun d => (d.2.td.slots.filter fun x => x.2.region == r).length).sum

/-- The region's SLOTS budget allows n more. -/
def State.slotsFit (s : State) (r n : Nat) : Bool :=
  let b := fldN (s.eff r 7) 96 18
  b == 0 || decide (s.slotsHeld r + n ≤ b)

/-- The first run of n numbers below lim from cand on, and round once, that meets no used one. -/
def freeRun (lim : Nat) (used : List Nat) (n : Nat) : Nat → Nat → Bool → Option Nat
  | 0, _, _ => none
  | k + 1, cand, again =>
    if lim < cand + n then (if again then none else freeRun lim used n k 0 true)
    else match used.find? fun u => decide (cand ≤ u ∧ u < cand + n) with
      | none => some cand
      | some u => freeRun lim used n k (u + 1) again

/-- n consecutive free slots of a die are claimed for a region, which slots being a free choice; slot 0 of die 0 of
module 0 is never allocated (R287, R294). -/
def State.claim (s : State) (d n r : Nat) : Option (Nat × State) :=
  let (k, t) := s.draw 65536
  let used := (s.die d).td.slots.map (·.1) ++ (if s.moduleId = 0 ∧ d = 0 then [0] else [])
  if s.slotsFit r n = false then none
  else match freeRun 65536 used n (2 * used.length + 3) k false with
    | none => none
    | some a => some (a, (List.range n).foldl (fun t i => t.setSlot d (a + i) { kind := .succ, region := r }) t)

/-- One slot on each die of a list. -/
def State.claimEach (s : State) (r : Nat) : List Nat → Option (List (Nat × Nat) × State)
  | [] => some ([], s)
  | d :: ds =>
    match s.claim d 1 r with
    | none => none
    | some (a, t) =>
      match t.claimEach r ds with
      | none => none
      | some (l, u) => some ((d, a) :: l, u)

/-! ### Gangs (R290) -/

/-- The tiles of a rectangle, by rank. -/
def Rect.tiles (r : Rect) : List Nat := (List.range (r.w * r.h)).map fun k => (r.oy + k / r.w) * 12 + r.ox + k % r.w

/-- The live tiles of a rectangle of die d, in rank order. -/
def State.liveTiles (s : State) (d : Nat) (r : Rect) : List Nat := r.tiles.filter fun t => !s.defective d t

/-- The tiles that a record holds. -/
def State.gangTiles (s : State) (d n : Nat) : List Nat :=
  match (s.slot d n).rect with
  | none => []
  | some r => (s.liveTiles d r).filter fun t => (s.tile d t).task == some (s.taskId d n)

/-- The gang descriptor of a tile (R290). -/
def State.gangWord (s : State) (d : Nat) (r : Rect) (t : Nat) : Word64 :=
  let rank := ((List.range (r.w * r.h)).find? fun k => r.tiles.getD k 0 == t).getD 0
  let holey := r.tiles.any fun t => s.defective d t
  BitVec.ofNat 64 (b2n holey * 2 ^ 24 + (r.h - 1) * 2 ^ 20 + (r.w - 1) * 2 ^ 16 + r.oy * 2 ^ 12 + r.ox * 2 ^ 8 + rank)

/-- The tile's task is at its save rung (R307, 13_matrix_engine.md R209), or ends as soon as the commits on its tiles have ended. -/
def State.saving (s : State) (d t : Nat) : Bool :=
  match (s.tile d t).task with
  | some id => let x := s.slot d (idSlot id); x.saving.isSome || x.ending.isSome
  | none => false

/-! ### References (R294, R327) -/

/-- An instance's reference on a handle's object, as an open takes it. -/
def State.ref (s : State) (region : Nat) (h : Word64) : State :=
  match s.obj? h with
  | none => s
  | some o => s.setObj (hobj h) { o with refs := o.refs + 1, opens := put o.opens region (look 0 o.opens region + 1) }

/-- The reference is dropped. -/
def State.unref (s : State) (region : Nat) (h : Word64) : State :=
  match s.obj? h with
  | none => s
  | some o => s.setObj (hobj h) { o with refs := o.refs - 1, opens := put o.opens region (look 0 o.opens region - 1) }

/-- The distinct handles of a record: its code and its valid declarations. -/
def Rec.handles (r : Vec) : List Word64 := (Rec.code r :: (Rec.valid r).map fun j => Rec.opnd r j 0).eraseDups

/-! ### Decrements, kills and joins (R291, R300, R302) -/

/-- A decrement leaves for its record's hub: of the end of its source, or of a `TDEC`. -/
def State.sendDec (s : State) (d : Nat) (source : BitVec 32) (region : Nat) (target : BitVec 32) (n : Nat) (final : Bool) : State :=
  s.send d (s.taskHub target) (.dec { target := target, n := n, source := source, region := region, final := final })

/-- A kill leaves for its record's hub. -/
def State.sendKill (s : State) (d : Nat) (target : BitVec 32) (sub policy : Bool) : State :=
  s.send d (s.taskHub target) (.kill { target := target, sub := sub, policy := policy })

/-- The successors of a record (R288). -/
def State.succsOf (s : State) (d : Nat) (r : Vec) : List (BitVec 32) :=
  (List.range (Rec.nsucc r)).map fun i =>
    let a := Rec.succ r + 4 * i
    fld (s.slot d (a / 256)).raw (a % 256 * 8) 32

/-! ### Instances (R294) -/

/-- The slots of records that are freed; a list of (die, slot). -/
def State.freeSlots (s : State) (l : List (Nat × Nat)) : State := l.foldl (fun s x => s.freeSlot x.1 x.2) s

/-- The references of an instance are dropped. -/
def State.dropRefs (s : State) (region : Nat) (l : List Word64) : State := l.foldl (fun s h => s.unref region h) s

/-- An instance is released when its records are terminal and a `TJOIN` on each of its joins has returned; without a
join it is released record by record, as each is terminal and its decrements have been applied. -/
def State.releaseInst (s : State) (d n : Nat) : State :=
  match (s.die d).td.insts.find? fun i => i.n == n with
  | none => s
  | some i =>
    let ended (x : Nat × Nat) : Bool := terminal (s.stateOf x.1 x.2)
    let gone (s : State) : State := (s.dropRefs i.region i.refs).updTd d fun t =>
      { t with insts := t.insts.filter (fun j => j.n != n), chans := t.chans.filter fun c => c.1 != n }
    if i.live = false then s
    else if i.joins ≠ [] then
      if i.tasks.all ended && i.joins.all fun j => i.joined.contains j.2 then
        gone (s.freeSlots (i.tasks ++ i.joins ++ i.succs))
      else s
    else
      let ended (x : Nat × Nat) : Bool := ended x && (s.slot x.1 x.2).owing == 0
      let left := i.tasks.filter fun x => !ended x
      let holds (e : Nat) : Bool := left.any fun x => x.1 == e && decide (0 < Rec.nsucc (s.slot x.1 x.2).raw)
      let s1 := s.freeSlots (i.tasks.filter ended ++ i.succs.filter fun x => !holds x.1)
      if left = [] then gone s1
      else s1.updTd d fun t => { t with insts := t.insts.map fun j =>
        if j.n = n then { j with tasks := left, succs := j.succs.filter fun x => holds x.1 } else j }

/-! ### The reset of a tile (R292, R309, R320, 13_matrix_engine.md R209) -/

/-- Commands of a tile's contexts complete with `PREEMPTED`. -/
def State.preemptAll (s : State) (d t : Nat) (e : Engine) (l : List (Nat × Nat)) : State :=
  l.foldl (fun s x => s.complete ⟨d, t, x.1⟩ e x.2 (some .preempted)) s

/-- A context after a reset. -/
def Ctx.wiped (c : Ctx) : Ctx :=
  { c with phase := .idle, super := false, trapRun := false, run := none, kind := none, fault := none, pend := c.pend.filter FaultRec.noTrap
           recf := [], src := {}, atBarrier := none, frozen := false, ports := [] }

/-- A transfer waiting at a landing entry brings a task one of its handles (24_prog_diamond.md R322). -/
def Fill.handle (f : Fill) : Bool := f.done.isNone && f.card.isNone

/-- A transfer waiting at a landing entry belongs to a command of tile t. -/
def Fill.of (f : Fill) (d t : Nat) : Bool :=
  match f.done with
  | some (p, _, _) => p.die == d && p.tile == t
  | none => false

/-- The ME number, with its context, that a transfer completes. -/
def Fill.meNum (f : Fill) : Option (Nat × Nat) :=
  match f.done with
  | some (p, .me, n) => some (p.ctx, n)
  | _ => none

/-- A context began the transaction in a run of it. -/
def Txn.begunBy (x : Txn) (p : Place) (run : Nat) : Bool := x.owner == p && x.runNo == run && x.host.isNone

/-- The transactions that a run of a context left open are aborted with no effect (25_name_directory.md R332). -/
def State.dropTxnsOf (s : State) (p : Place) (run : Nat) : State :=
  s.updNd p.die fun n => { n with txns := n.txns.filter fun x =>
    !(x.phase == .collecting && x.begunBy p run) }

@[inherit_doc State.dropTxnsOf]
def State.dropTxns (s : State) (p : Place) : State := s.dropTxnsOf p (s.ctx p).runNo

/-- What a context's run owns by itself goes: the windows of a handler run, transactions left open. -/
def State.dropRun (s : State) (p : Place) (run : Nat) : State := (s.dropWindows (.handler p run)).dropTxnsOf p run

/-- What the runs on a tile own by themselves goes. -/
def State.dropRuns (s : State) (d t : Nat) : State :=
  (List.range 8).foldl (fun s c => s.dropRun ⟨d, t, c⟩ (s.ctx ⟨d, t, c⟩).runNo) s

/-- What the runs in a task's save image own by themselves goes: the task ends without them (R332). -/
def State.dropSaved (s : State) (d n : Nat) : State :=
  ((s.die d).td.saved.filter fun v => v.slot == n).foldl (fun s v =>
    v.tiles.foldl (fun s x => x.2.1.ctxs.foldl (fun s c => s.dropRun ⟨d, x.1, c.1⟩ c.2.runNo) s) s) s

/-- The commands of a tile's contexts are complete: what is still on its way for one of them names a context number from 8 on, so that its
end completes nothing of a later run (01_machine.md R18). -/
def Place.reset (d t : Nat) (p : Place) : Place := if p.die = d ∧ p.tile = t then { p with ctx := p.ctx + 8 } else p

@[inherit_doc Place.reset]
def Card.reset (d t : Nat) (c : Card) : Card := { c with src := c.src.reset d t }

@[inherit_doc Place.reset]
def XRec.reset (d t : Nat) (r : XRec) : XRec := { r with src := r.src.reset d t }

@[inherit_doc Place.reset]
def FlushIn.reset (d t : Nat) (f : FlushIn) : FlushIn := { f with recs := f.recs.map (XRec.reset d t) }

@[inherit_doc Place.reset]
def Body.reset (d t : Nat) : Body → Body
  | .card c => .card (c.reset d t)
  | .flush f => .flush (f.reset d t)
  | .xreturn n l => .xreturn n (l.map (XRec.reset d t))
  | .xoverflow w r n => .xoverflow w (r.reset d t) n
  | b => b

@[inherit_doc Place.reset]
def Msg.reset (d t : Nat) (m : Msg) : Msg := { m with body := m.body.reset d t }

@[inherit_doc Place.reset]
def Fab.reset (d t : Nat) (f : Fab) : Fab :=
  { f with outbox := f.outbox.map (Msg.reset d t)
           retained := f.retained.map fun r => { r with msg := r.msg.reset d t }
           melds := f.melds.map fun m => { m with msg := m.msg.reset d t } }

@[inherit_doc Place.reset]
def Xu.reset (d t : Nat) (x : Xu) : Xu :=
  { x with dests := x.dests.map fun e => (e.1, { e.2 with list := e.2.list.map (XRec.reset d t) })
           flushes := x.flushes.map fun f => { f with recs := f.recs.map (XRec.reset d t) }
           flushIn := x.flushIn.map (FlushIn.reset d t)
           returns := x.returns.map fun r => (r.1, r.2.map (XRec.reset d t))
           overflow := x.overflow.map fun o => { o with rec_ := o.rec_.reset d t }
           dropping := x.dropping.map (XRec.reset d t)
           xflush := x.xflush.map fun w => { w with await := w.await.map fun a => (a.1.reset d t, a.2) } }

@[inherit_doc Place.reset]
def State.disown (s : State) (d t : Nat) : State :=
  let mesh (m : MeshCard) : MeshCard := { m with card := m.card.reset d t }
  let tile (k : Nat) (y : Tile) : Tile :=
    { y with fills := y.fills.map fun f => { f with card := f.card.map mesh }
             me := { y.me with plays := y.me.plays.map fun p => { p with src := p.src.reset d t } }
             mse := if k = d * 144 + t then [] else y.mse }
  let die (k : Nat) (y : Die) : Die :=
    { y with mesh := y.mesh.map mesh, fab := y.fab.reset d t, xu := y.xu.reset d t
             acks := if k = d then y.acks.filter fun a => a.1 != t else y.acks }
  { s with
    tiles := s.tiles.map fun y => (y.1, tile y.1 y.2)
    dies := s.dies.map fun y => (y.1, die y.1 y.2)
    frags := s.frags.map fun f => { f with msg := f.msg.reset d t } }

/-- A tile, with key k, forgets what contexts of tile t of die d ask of it: their transfers to its landing entries and their plays' requests for a latch. -/
def Tile.dropAsks (y : Tile) (d t k : Nat) : Tile :=
  { y with fills := y.fills.filter fun f => !f.of d t
           me := { y.me with asks := if k / 144 = d then y.me.asks.filter fun a => a.1 != t else y.me.asks } }

/-- The plays of a tile's contexts whose cards are on their way to a tile of the die: context and number. -/
def State.playsOf (s : State) (d t : Nat) : List (Nat × Nat) :=
  s.tiles.flatMap fun y => (y.2.me.plays.filter fun p => decide (p.src.die = d ∧ p.src.tile = t ∧ p.src.ctx < 8)).map fun p => (p.src.ctx, p.num)

/-- A tile's contexts and engines are reset: what is in flight is abandoned, every command completes with `PREEMPTED`,
the matrix engine is as after reset, its generators are released, start requests and trap starts go. A latch granted to
a play that is emptied is free again, and a play that has asked asks no more; a play on its way to the tile finds no latch (latch number 2). With the
elements of an accumulator its KIND, ATAG and NSEQ are 0 too: R209 speaks of the elements alone (log 75). -/
def State.resetTile (s : State) (d t : Nat) : State :=
  let s0 := ((List.range 8).foldl (fun s c => s.abandon ⟨d, t, c⟩) s).dropRuns d t
  let x := s0.tile d t
  let deals := (s0.die d).deals.filter fun e => e.1 == t
  let s1 := s0.preemptAll d t .ce (x.copyQ.map (fun e => (e.ctx, e.num)) ++ deals.map fun e => (e.2.ctx, e.2.num))
  let s2 := s1.preemptAll d t .me (x.me.running.toList.map (fun e => (e.ctx, e.num)) ++ x.me.store.map (fun e => (e.ctx, e.num))
    ++ s0.playsOf d t ++ (x.fills.filter fun f => f.of d t).filterMap Fill.meNum)
  let s3 := s2.preemptAll d t .mse (x.mse.map fun e => (e.ctx, e.num))
  let s3 := (x.me.store ++ x.me.running.toList).foldl (fun s e => match e.granted with
    | some (u, l) => s.updTile d u fun y =>
        { y with me := { y.me with latches := put y.me.latches l { look {} y.me.latches l with st := .free } } }
    | none => s) s3
  let s3 : State := { s3 with tiles := s3.tiles.map fun y => (y.1, y.2.dropAsks d t y.1) }
  let s4 := s3.updDie d fun y =>
    { y with deals := y.deals.filter fun e => e.1 != t
             xu := { y.xu with configs := y.xu.configs.filter fun c => c.place.tile != t
                               xflush := y.xu.xflush.filter fun c => c.place.tile != t } }
  (s4.disown d t).updTile d t fun y =>
    { y with
      ctxs := y.ctxs.map fun c => (c.1, c.2.wiped)
      copyQ := [], copyFrozen := false, mse := [], runs := false, reqs := [], ags := [], represent := []
      me := { mg := y.me.mg, seat := { y.me.seat with v := false }, asks := y.me.asks, plays := y.me.plays.map fun p => { p with latch := 2 } }
      startQ := [], trapQ := []
      mbx := y.mbx.map fun m => (m.1, { m.2 with busy := false }) }

/-- The tiles of a task are released: no task runs there, the seat register is V = 0 (R205). -/
def State.releaseTiles (s : State) (d : Nat) (id : BitVec 32) : State :=
  (List.range 144).foldl (fun s t =>
    if (s.tile d t).task = some id then
      s.updTile d t fun y => { y with task := none, runs := false, me := { y.me with seat := { y.me.seat with v := false } } }
    else s) s

/-- The channels of the pipeline of which the task in a slot is a stage, with its task index there (R303). -/
def State.channelsOf (s : State) (d n : Nat) : Nat × List (BitVec 192) :=
  let x := s.slot d n
  match if Rec.pipe x.raw then x.inst else none with
  | none => (0, [])
  | some (e, k) =>
    let td := (s.die e).td
    let order := ((td.insts.find? fun i => i.n == k).map Inst.order).getD []
    (((List.range order.length).find? fun i => order.getD i (0, 0) == (d, n)).getD 0 + 1,
      ((td.chans.find? fun c => c.1 == k).map (·.2)).getD [])

/-- The channels of a stage are torn down with its tiles: its mailboxes are off, its allowance records clear (R304). -/
def State.tearDown (s : State) (d n : Nat) : State :=
  let (me, l) := s.channelsOf d n
  match (s.slot d n).rect with
  | none => s
  | some r => l.foldl (fun s c =>
      let at_ (rank : Nat) (f : Tile → Tile) (s : State) : State :=
        let t := r.tiles.getD rank 0
        if (s.gangTiles d n).contains t then s.updTile d t f else s
      let s1 := if fldN c 32 12 = me then at_ (fldN c 24 8) (fun y => { y with mbx := del y.mbx (fldN c 18 6) }) s else s
      if fldN c 52 12 = me then at_ (fldN c 44 8) (fun y => { y with alw := del y.alw (fldN c 128 4) }) s1 else s1) s

/-! ### Ladders (R305-R308) -/

/-- Every slot of the module, as die and number, that holds a task. -/
def State.taskSlots (s : State) : List (Nat × Nat) :=
  s.dies.flatMap fun d => (d.2.td.slots.filter fun x => x.2.kind == .task).map fun x => (d.1, x.1)

/-- A ladder covers the task of a slot. -/
def State.covers (s : State) (l : Ladder) (d n : Nat) : Bool :=
  let x := s.slot d n
  match l.scope with
  | .gone => false
  | .queue f q => x.queue == some (f, q)
  | .region r => s.isAncestor r (Rec.region x.raw)

/-- The tasks that a ladder covers. -/
def State.coveredBy (s : State) (l : Ladder) : List (Nat × Nat) := s.taskSlots.filter fun x => s.covers l x.1 x.2

/-- A ladder's covered tasks that are RUNNING. -/
def State.runningIn (s : State) (l : Ladder) : Nat := ((s.coveredBy l).filter fun x => s.stateOf x.1 x.2 == 5).length

/-- A ladder keeps the task of a slot from being placed and started: from its start until `RESUME`. -/
def State.ladderHolds (s : State) (d n : Nat) : Bool :=
  s.ladders.any fun l => (l.phase == 1 || l.phase == 2) && s.covers l d n

/-- A ladder at its save rung is complete when no covered task is RUNNING. -/
def State.settleLadders (s : State) : State :=
  let f (l : Ladder) : Ladder := if l.phase = 1 ∧ l.rung = 2 ∧ s.runningIn l = 0 then { l with phase := 2 } else l
  { s with ladders := s.ladders.map f }

/-! ### The end of a task (R292, R301, R302) -/

/-- The contexts of the tiles that a record holds. -/
def State.gangCtxs (s : State) (d n : Nat) : List Place :=
  (s.gangTiles d n).flatMap fun t => (List.range 8).map fun c => ⟨d, t, c⟩

/-- A block commits on a tile that the record holds. -/
def State.midCommit (s : State) (d n : Nat) : Bool := (s.gangCtxs d n).any fun p => (s.ctx p).run.any Run.committing

/-- The blocks in flight on a record's tiles are abandoned; one whose commit has begun goes on to the end of its commit, without
waiting for an engine (10_be_local_memory.md R164, 23_td_instructions.md R320). -/
def State.cutRuns (s : State) (d n : Nat) : State :=
  (s.gangCtxs d n).foldl (fun s p =>
    if (s.ctx p).run.any Run.committing then s.updRun p fun r => { r with cut := true } else s.abandon p) s

/-- Windows that a placement has been granted are withdrawn at their homes; what is still asked is withdrawn as it is answered (03_memory_model.md
R51). -/
def State.unask (s : State) (d n : Nat) : State :=
  let x := s.slot d n
  match x.asking with
  | none => s
  | some a => a.granted.foldl (fun s w => s.send d (s.objHub w.1) (.withdraw ⟨.window w.1 w.2⟩)) (s.setSlot d n { x with asking := none })

/-- A task ends in STATE st (6 DONE, 7 FAULTED, 8 KILLED): its tiles are reset if it ran and did not end by itself, they
are freed, its windows go, successors are decremented or killed, join and STATUS are written. -/
def State.endTaskNow (s : State) (d n st cause exit : Nat) (own sub : Bool) : State :=
  let x := s.slot d n
  let id := s.taskId d n
  let reg := Rec.region x.raw
  let old := Rec.state x.raw
  let s1 := (if old = 5 ∧ own = false then (s.gangTiles d n).foldl (fun s t => s.resetTile d t) s else s).dropSaved d n
  let s2 := ((s1.tearDown d n).releaseTiles d id)
  let s2 := s2.dropWindows (.task id)
  let status := x.endStatus cause exit
  let raw := setFld (setFld x.raw 320 64 status.toNat) 60 4 st
  let s3 := s2.setSlot d n { x with raw := raw, rect := none, restoring := false, staging := [], reported := [], saving := none, savers := [], asking := none, ending := none }
  let s4 := s3.updTd d fun t =>
    { t with saved := t.saved.filter (fun v => v.slot != n)
             barriers := t.barriers.filter (fun b => b.1 != n), arrivals := t.arrivals.filter (fun b => b.1 != n)
             reservation := t.reservation.filter fun r => r.1 != n }
  let pol := if Rec.policy raw = 0 then fldN (s.eff reg 3) 18 2 else Rec.policy raw
  let succs := s.succsOf d raw
  let s5 := if st = 7 then s4.post reg 4 (id.setWidth 64) status 0#64 else s4
  let s6 :=
    if st = 6 ∨ (st = 7 ∧ pol = 3) then
      succs.foldl (fun s t => s.sendDec d id reg t 1 true) (s5.setSlot d n { s5.slot d n with owing := succs.length })
    else if (st = 7 ∧ pol = 1) ∨ sub = true then succs.foldl (fun s t => s.sendKill d t true true) s5
    else s5
  let j := Rec.join raw
  let s7 := if j = 0#32 then s6
    else s6.send d (s6.taskHub j) (.joinUpdate j (if st = 6 then 0 else if st = 7 then 1 else 2) id cause (fldN status 48 8))
  let s8 := s7.settleLadders
  match x.inst with
  | none => (s8.dropRefs reg x.refs).setSlot d n { s8.slot d n with refs := [] }
  | some (e, k) => s8.releaseInst e k

/-- A task ends. The end of one that runs waits for the commits in progress on its tiles, which stay committed: nothing else of it goes on
(10_be_local_memory.md R164, 23_td_instructions.md R320). -/
def State.endTask (s : State) (d n st cause exit : Nat) (own sub : Bool) : State :=
  if s.stateOf d n = 5 ∧ own = false ∧ s.midCommit d n = true then
    if (s.slot d n).ending.isSome then s
    else
      let t := s.cutRuns d n
      t.setSlot d n { t.slot d n with ending := some ⟨st, cause, exit, sub⟩ }
  else s.endTaskNow d n st cause exit own sub

/-- The end that waited for the commits on the tiles of the task at a tile, now that they have ended. -/
def State.settleEnding (s : State) (d t : Nat) : State :=
  match (s.tile d t).task with
  | none => s
  | some id =>
    let n := idSlot id
    match (s.slot d n).ending with
    | none => s
    | some e => if s.midCommit d n then s else s.endTaskNow d n e.st e.cause e.exit false e.sub

/-! ### Arming (R289, R292) -/

/-- What refuses a record at arming. -/
def State.recordFault (s : State) (r : Vec) : Option Cause :=
  let decl (j : Nat) : Bool :=
    let w2 := Rec.opnd r j 2
    let e := Rec.ext r j
    decide (1 ≤ e.c0 ∧ 1 ≤ e.c1 ∧ fldN w2 13 2 ≠ 3 ∧ fldN w2 0 9 = 0) && !(bit w2 12 && fldN w2 13 2 == 1)
  let fields := decide (Rec.prio r ≤ 47 ∧ Rec.w r ≤ 12 ∧ Rec.h r ≤ 12 ∧ fldN r 6 6 = 0 ∧ Rec.nsucc r ≤ 4096
    ∧ fldN r 192 24 = 0 ∧ Rec.succ r % 4 = 0 ∧ fldN r 256 16 ≤ 0x2000) && (Rec.valid r).all decl
  let win (j : Nat) : Option Cause :=
    match s.reach (Rec.region r) (Rec.opnd r j 0) with
    | none => some .rights
    | some o =>
      let g := Rec.org r j
      let e := Rec.ext r j
      if g.c0 + e.c0 ≤ Desc.ext o.desc 0 ∧ g.c1 + e.c1 ≤ Desc.ext o.desc 1
          ∧ (Desc.fmt o.desc = 9 → g.c0 % 64 = 0 ∧ e.c0 % 64 = 0) then none else some .window
  if fields = false then some .reservedField else (Rec.valid r).findSome? win

/-- A record arms: it is read, and refused or ARMED. One whose graph memory holds an uncorrectable word is refused with `MACHINE_CHECK`, a cause that no
rule names here (log 71). -/
def State.arm (s : State) (d n : Nat) : State :=
  match if (s.die d).td.bad.contains n then some .machineCheck else s.recordFault (s.slot d n).raw with
  | some c => s.endTask d n 7 c.code 0 false false
  | none => (s.setStateOf d n 2).setSlot d n { (s.setStateOf d n 2).slot d n with armedAt := s.cycle }

/-- A record becomes WAITING, and arms when COUNT is 0 (R292). -/
def State.enter (s : State) (d n : Nat) : State :=
  let t := s.setStateOf d n 1
  if Rec.count (t.slot d n).raw = 0 then t.arm d n else t

/-! ### Templates (R294, R303) -/

def State.tmplRec (s : State) (id : BitVec 32) (k : Nat) : Vec := BitVec.ofNat 2048 (leNat (s.objRead id (256 * k) 256))

/-- Channel records: producer and consumer task of each (R303). -/
def State.tmplChans (s : State) (id : BitVec 32) : List (BitVec 192) :=
  let hdr := s.tmplRec id 0
  (List.range (fldN hdr 36 4)).map fun c => fld hdr (512 + 192 * c) 192

/-- Edges whose consumer produces for no other edge are taken away, round after round. -/
def prune : Nat → List (Nat × Nat) → List (Nat × Nat)
  | 0, l => l
  | k + 1, l => prune k (l.filter fun e => l.any fun f => f.1 == e.2)

/-- The header's limits, and channels without a cycle (R294, R303). -/
def State.tmplOk (s : State) (id : BitVec 32) : Bool :=
  let hdr := s.tmplRec id 0
  let es := (s.tmplChans id).map fun c => (fldN c 52 12, fldN c 32 12)
  decide (1 ≤ fldN hdr 48 16 ∧ fldN hdr 48 16 ≤ 4095 ∧ fldN hdr 40 8 ≤ 64 ∧ fldN hdr 36 4 ≤ 8) && prune 8 es == []

/-- The successor indices of a template's record. -/
def State.tmplSuccs (s : State) (id : BitVec 32) (r : Vec) : List Nat :=
  (List.range (Rec.nsucc r)).map fun i => leNat (s.objRead id (Rec.succ r + 4 * i) 4)

/-- A record of a template made a record of an instance: IDs for indices, handles for rename slots (R294 step 2). -/
def instRecord (r : Vec) (region : Nat) (joins : List (BitVec 32)) (succ : Nat) (table : List Word64) : Vec :=
  let j := Rec.join r
  let r1 := setFld r 12 12 region
  let r2 := if j = 0#32 then r1 else setFld r1 128 32 (joins.getD (j.toNat - 2 ^ 31) 0#32).toNat
  let r3 := setFld r2 232 24 succ
  (List.range 8).foldl (fun x k =>
    if bit (Rec.opnd x k 2) 9 && Rec.v x k then setFld x (512 + 192 * k) 64 (table.getD (fldN (Rec.opnd x k 0) 0 6) 0#64).toNat
    else x) r3

/-- Bytes of graph memory written over consecutive slots. -/
def State.writeList (s : State) (d a : Nat) (bs : List Byte) : State :=
  (List.range (ceilDiv bs.length 256)).foldl (fun s i =>
    s.updRaw d (a + i) fun _ => BitVec.ofNat 2048 (leNat ((bs.drop (256 * i)).take 256))) s

/-- The claims of an instance of a template for a region, by die d: slots for its records and joins, and on each die a run of slots for
successor lists; none when a claim fails (R294 step 1). -/
def State.claimInst (s : State) (d region : Nat) (id : BitVec 32) (table : List Word64) (queue : Option (Nat × Nat)) :
    Option (Inst × State) :=
  let hdr := s.tmplRec id 0
  let recs := (List.range (fldN hdr 48 16)).map fun i => s.tmplRec id (i + 1)
  let homes := recs.map fun r => if fldN r 0 6 = 32 then d else fldN r 0 6
  let need (e : Nat) : Nat := ((recs.zip homes).map fun x => if x.2 = e then 4 * Rec.nsucc x.1 else 0).sum
  let lists := (homes.eraseDups.map fun e => (e, ceilDiv (need e) 256)).filter fun x => x.2 != 0
  if homes.any (fun e => decide (31 < e)) ∨ (s.rcb region).isNone then none
  else match s.claimEach region homes with
    | none => none
    | some (tasks, s1) =>
      match s1.claimEach region (List.replicate (fldN hdr 32 4) d) with
      | none => none
      | some (joins, s2) =>
        match lists.foldl (fun (o : Option (List (Nat × Nat × Nat) × State)) x =>
            o.bind fun p => (p.2.claim x.1 x.2 region).map fun q => (p.1 ++ [(x.1, q.1, x.2)], q.2)) (some ([], s2)) with
        | none => none
        | some (runs, s3) =>
          let n := (s.die d).td.nextInst
          let i : Inst := { n := n, region := region, tmpl := id, table := table, runs := runs, queue := queue
                            tasks := tasks, joins := joins, order := tasks
                            succs := runs.flatMap fun r => (List.range r.2.2).map fun k => (r.1, r.2.1 + k) }
          some (i, s3.updTd d fun t => { t with insts := t.insts ++ [i], nextInst := n + 1 })

/-- Records, joins and successor lists are copied from the template into an instance's slots, indices made IDs (R294 step 2). The records, with
their slots, and the state. -/
def State.copyInst (s : State) (d : Nat) (i : Inst) : List Vec × State :=
  let id := i.tmpl
  let recs := (List.range i.order.length).map fun k => s.tmplRec id (k + 1)
  let ids := i.order.map fun x => s.taskId x.1 x.2
  let jids := i.joins.map fun x => s.joinId x.1 x.2
  let rows := recs.zip i.order
  let start (e : Nat) : Nat := (((i.runs.find? fun r => r.1 == e).map fun r => r.2.1).getD 0) * 256
  let before (k e : Nat) : Nat := ((rows.take k).map fun x => if x.2.1 = e then 4 * Rec.nsucc x.1 else 0).sum
  let made := (List.range recs.length).map fun k =>
    let r := recs.getD k 0#2048
    let e := (i.order.getD k (0, 0)).1
    instRecord r i.region jids (if Rec.nsucc r = 0 then 0 else start e + before k e) i.table
  let s1 := (i.order.zip made).foldl (fun s x => s.setSlot x.1.1 x.1.2
    { s.slot x.1.1 x.1.2 with raw := x.2, inst := some (d, i.n), queue := i.queue }) s
  let s2 := (List.range i.joins.length).foldl (fun t k => match i.joins[k]? with
    | some x => t.setSlot x.1 x.2 { t.slot x.1 x.2 with raw := s.tmplRec id (recs.length + 1 + k), inst := some (d, i.n) }
    | none => t) s1
  let list (e : Nat) : List Byte := rows.flatMap fun x => if x.2.1 = e then (s.tmplSuccs id x.1).flatMap fun k =>
    leBytes 4 (if k = 0 then 0 else (ids.getD (k - 1) 0#32).toNat) else []
  (made, i.runs.foldl (fun t r => t.writeList r.1 r.2.1 ((list r.1).take (256 * r.2.2))) s2)

/-- An instance comes into being: its records are copied, references are taken, records are WAITING or ARMED (R294 steps 2 to 4). -/
def State.commitInst (s : State) (d n : Nat) : State :=
  match (s.die d).td.insts.find? fun i => i.n == n with
  | none => s
  | some i =>
    let (made, s0) := s.copyInst d i
    let refs := (made.flatMap Rec.handles).eraseDups
    let s1 := refs.foldl (fun s h => s.ref i.region h) s0
    let s2 := s1.updTd d fun t => { t with
      insts := t.insts.map fun j => if j.n = n then { j with live := true, refs := refs } else j
      chans := t.chans ++ [(n, s.tmplChans i.tmpl)] }
    let s3 := i.tasks.foldl (fun s x => (s.setSlot x.1 x.2 { s.slot x.1 x.2 with kind := .task }).setStateOf x.1 x.2 1) s2
    let s4 := i.joins.foldl (fun s x => s.setSlot x.1 x.2 { s.slot x.1 x.2 with kind := .join }) s3
    i.tasks.foldl (fun s x => if Rec.count (s.slot x.1 x.2).raw = 0 then s.arm x.1 x.2 else s) s4

/-- The claims of an instance are withdrawn. -/
def State.withdrawInst (s : State) (d n : Nat) : State :=
  match (s.die d).td.insts.find? fun i => i.n == n with
  | none => s
  | some i => (s.freeSlots (i.tasks ++ i.joins ++ i.succs)).updTd d fun t =>
      { t with insts := t.insts.filter (fun j => j.n != n), chans := t.chans.filter fun c => c.1 != n }

/-- The ID that an instantiation returns: its first join's, or its first record's (R317). -/
def State.instId (s : State) (i : Inst) : BitVec 32 :=
  match i.joins, i.tasks with
  | x :: _, _ => s.joinId x.1 x.2
  | [], x :: _ => s.taskId x.1 x.2
  | [], [] => 0#32

/-! ### Decrements and kills at a hub (R293, R315, R320) -/

/-- One of the decrements of a task's end has completed: a record of an instance without a join may be released (R294). -/
def State.decDone (s : State) (x : Dec) : State :=
  let d := s.taskHub x.source
  if x.final = false ∨ 32 ≤ d then s
  else
    let n := idSlot x.source
    let s1 := s.setSlot d n { s.slot d n with owing := (s.slot d n).owing - 1 }
    match (s1.slot d n).inst with
    | some (e, k) => s1.releaseInst e k
    | none => s1

/-- A decrement is applied. -/
def State.applyDec (s : State) (d : Nat) (x : Dec) : State :=
  let s := s.decDone x
  let n := idSlot x.target
  let st := s.stateOf d n
  if st = 1 then
    let c := Rec.count (s.slot d n).raw - x.n
    let t := s.updRaw d n fun r => setFld r 24 16 c
    if c = 0 then t.arm d n else t
  else s.post (if st = 0 then x.region else Rec.region (s.slot d n).raw) 5 (x.target.setWidth 64) (x.source.setWidth 64)
    (BitVec.ofNat 64 st)

/-- A kill is applied: a policy kill takes only WAITING and ARMED records. -/
def State.applyKill (s : State) (d : Nat) (x : Kill) : State :=
  let n := idSlot x.target
  let st := s.stateOf d n
  if st = 0 ∨ terminal st = true then s
  else if x.policy = true ∧ st ≠ 1 ∧ st ≠ 2 then s
  else s.endTask d n 8 0 0 false x.sub

end Sys2Proof.Machine
end

