-- ==== Sys2Proof/Machine/Blocks.lean ====
section
/-! DEFINITION. Fetching and decoding a block (06_block_engine.md R86-R89, R98, 04_encoding.md R54-R67). Marks:
DEDUCED (log 16). Marks: DEDUCED (log 16, 58); DESIGN CHOICE (log 71). -/

namespace Sys2Proof.Machine

/-! ### Fetch (R88) -/

/-- An error in the instruction cache of a tile lies among n bytes from offset a on of a code object (R88). -/
def Tile.cacheBad (t : Tile) (h : Word64) (a n : Nat) : Bool := t.icache.any fun x => x.1 == h && decide (a < 32 * x.2 + 32 ∧ 32 * x.2 < a + n)

/-- n bytes of a code object from offset a on, or the first of orders 3 to 5, and again 6 to 8, that fails. -/
def State.fetchPart (s : State) (t : Tile) (h : Word64) (a n : Nat) : Except Cause (List Byte) :=
  let id := hobj h
  let ks := (List.range n).map fun i => s.objKey id (a + i)
  if Desc.bytes (s.objOf id).desc < a + n then .error .window
  else if ks.any Option.isNone then .error .tensorNotPresent
  else if t.cacheBad h a n || ks.any fun k => s.badAt (k.getD 0) 1 then .error .uncorrectable
  else .ok (ks.map fun k => Memory.read s.mem (k.getD 0))

/-- The words of little-endian bytes. -/
def wordsIn (n : Nat) (bs : List Byte) : List Word32 :=
  (List.range n).map fun i => BitVec.ofNat 32 (leNat ((bs.drop (4 * i)).take 4))

/-- The block at an offset of a code object, for a user of region r on a tile: its header and body words, or the fetch fault. -/
def State.fetchBlock (s : State) (t : Tile) (r : Nat) (h : Word64) (a : Nat) : Except Cause (List Word32) :=
  match s.reach r h with
  | none => .error .rights
  | some o =>
    if Desc.code o.desc = false then .error .rights
    else if a % 32 ≠ 0 then .error .align
    else match s.fetchPart t h a 32 with
      | .error c => .error c
      | .ok hd =>
        let n := 8 * (fldN ((wordsIn 1 hd).getD 0 0#32) 26 2 + 1)
        match s.fetchPart t h (a + 32) (4 * n) with
        | .error c => .error c
        | .ok body => .ok (wordsIn 8 hd ++ wordsIn n body)

/-- The memory requests of the fetch of a context's next block find their routes, those for its header and, once that can be read, those for its
body (11_tensor_access.md R387). One that fails before it reads memory makes none. -/
def State.fetchOpen (s : State) (p : Place) : Bool :=
  let c := s.ctx p
  let a := c.block.toNat
  let ok (n : Nat) : Bool := s.open p.die p.tile .none (hobj c.code) ((List.range n).map fun i => s.byteEl (hobj c.code) (a + i))
  match s.reach c.region c.code with
  | none => true
  | some o =>
    if Desc.code o.desc = false ∨ a % 32 ≠ 0 ∨ Desc.bytes o.desc < a + 32 then true
    else match s.fetchPart (s.tile p.die p.tile) c.code a 32 with
      | .ok hd => ok (32 + 32 * (fldN ((wordsIn 1 hd).getD 0 0#32) 26 2 + 1))
      | .error _ => ok 32

/-- The context at p may take up its next block: it runs, no barrier, freeze, debug halt or loss of quorum holds it
(R84, R107, 28_traps_preemption.md R368, 22_task_dispatcher.md R311, 16_message_engine.md R252). -/
def State.mayBegin (s : State) (p : Place) : Bool :=
  let c := s.ctx p
  let d := s.die p.die
  c.phase == .running && !c.frozen && c.atBarrier.isNone && d.halt.isNone && !d.stopped && !s.saving p.die p.tile

/-- BLOCK_FETCH (R88): the context's next block is fetched; while memory cannot be reached it waits. -/
def execBlockFetch (s : State) : Out :=
  let p := s.focus
  let c := s.ctx p
  .next (if s.mayBegin p = false ∨ c.run.isSome = true ∨ s.fetchOpen p = false then s
    else match s.fetchBlock (s.tile p.die p.tile) c.region c.code c.block.toNat with
      | .error k => s.raiseFault p { cause := k, fetch := true, d0 := c.block.setWidth 64 }
      | .ok ws => s.updCtx p fun c => { c with run := some { words := ws } })

/-! ### Header and entries (04_encoding.md R55-R57) -/

/-- Read entry j. -/
def Run.readEntry (r : Run) (j : Nat) : Nat := fldN (r.words.getD (2 + j / 2) 0#32) (16 * (1 - j % 2)) 16

/-- Write entry j. -/
def Run.writeEntry (r : Run) (j : Nat) : Nat := fldN (r.words.getD (6 + j / 4) 0#32) (8 * (3 - j % 4)) 8

/-- GREG, TARGET and RU of read entry j (R56). -/
def Run.rdReg (r : Run) (j : Nat) : Nat := r.readEntry j / 128 % 128

@[inherit_doc Run.rdReg]
def Run.rdTarget (r : Run) (j : Nat) : Nat := r.readEntry j % 128

@[inherit_doc Run.rdReg]
def Run.rdReuse (r : Run) (j : Nat) : Bool := r.readEntry j / 2 ^ 14 % 2 == 1

/-- GREG of write entry j (R57). -/
def Run.wrReg (r : Run) (j : Nat) : Nat := r.writeEntry j % 128

/-- The registers that a context has (R82). -/
def regLimit (ctx : Nat) : Nat := if ctx = 0 then 128 else 32

/-- Check 1 of R66. -/
def Run.headerOk (r : Run) : Bool :=
  let h0 := r.words.getD 0 0#32
  fldN h0 28 4 == 0xA && decide (r.nrd ≤ 8 ∧ r.nwr ≤ 8) && r.kindBits != 3 && fldN h0 0 16 == 0
    && fldN (r.words.getD 1 0#32) 0 26 == 0

/-- Check 3 of R66, in context number ctx. Write entries from NWR on must be zero (R57), also where NWR = 0: the closing variant of the
example of 04_encoding.md, which lets such a block pass this check, is read as one whose H6 is cleared too (log 58). -/
def Run.entriesOk (r : Run) (ctx : Nat) : Bool :=
  let rd (j : Nat) : Bool :=
    if j < r.nrd then
      let t := r.rdTarget j
      r.readEntry j / 2 ^ 15 == 1 && decide (r.rdReg j < regLimit ctx)
        && (t == 0x7F || (decide (t < 0x60) && decide (t % 32 < r.size)))
    else r.readEntry j == 0
  let wr (j : Nat) : Bool :=
    if j < r.nwr then r.writeEntry j / 128 == 1 && decide (r.wrReg j < regLimit ctx) else r.writeEntry j == 0
  let regs := (List.range r.nwr).map r.wrReg
  (List.range 8).all rd && (List.range 8).all wr && regs.eraseDups.length == regs.length

/-! ### The body (04_encoding.md R58-R62, R66) -/

/-- The instruction takes the slot of kind n: 0 left, 1 right, 2 slot 2 (R61). PR = 01 is refused at its own word and not at the
words that aim at its slot 2 (R66). -/
def Shape.takes (h : Shape) (n : Nat) : Bool := decide (n < h.slots) || (n == 2 && h.pr != 0#2)

/-- A target of the instruction at index k is valid (R59, R62). -/
def Run.targetOk (r : Run) (k t : Nat) : Bool :=
  if t = 0x7F then true
  else if 0x60 ≤ t then decide (t - 0x60 < r.nwr)
  else decide (k < t % 32 ∧ t % 32 < r.size) && (r.shape (t % 32)).takes (t / 32)

/-- An instruction may not stand in a block of a context of this number (07_be_control.md R109, R110,
12_tae_instructions.md R189). -/
def contextOk (ctx : Nat) : Instr → Bool
  | .texit _ _ | .sbind _ _ _ => ctx == 0
  | .hret _ => ctx != 0
  | _ => true

/-- Check 5 of R66 on body word k. -/
def Run.wordOk (r : Run) (ctx k : Nat) : Bool :=
  match decodeWord (r.word k) with
  | .error _ => false
  | .ok i => i.wf && contextOk ctx i && (shapeOf i k).targets.all (r.targetOk k)

/-- Check 6 of R66: the instruction is not for USER privilege. -/
def supervisorOnly : Instr → Bool
  | .eret _ _ | .ctxsv _ _ | .ctxrs _ _ | .tlbi _ _ _ => true
  | .mfs _ n _ _ => decide (0x100 ≤ n.toNat ∧ n.toNat ≤ 0x1FF)
  | .mts _ _ n => decide (0x100 ≤ n.toNat ∧ n.toNat ≤ 0x1FF) || n.toNat == 0x1A
  | _ => false

/-- Targets that name operand slots or write entries, of read entries and instructions. -/
def Run.allTargets (r : Run) : List Nat := (List.range r.nrd).map r.rdTarget ++ r.shapes.flatMap Shape.targets

/-- Check 7 of R66. -/
def Run.wholeOk (r : Run) : Bool :=
  let hs := r.shapes
  let ls := hs.filterMap Shape.lsid
  let ts := r.allTargets
  let named (k : Nat) (h : Shape) : Bool := [0, 1, 2].all fun n => !h.takes n || ts.contains (32 * n + k)
  let rd (j : Nat) : Bool := r.rdTarget j == 0x7F || (r.shape (r.rdTarget j % 32)).takes (r.rdTarget j / 32)
  ls.eraseDups.length == ls.length && r.ncnt == (hs.filter Shape.counted).length
    && ((List.range r.size).all fun k => named k (r.shape k)) && (List.range r.nrd).all rd && hs.any Shape.isExit

/-- R66: the first failing check of a block: its cause, the failing index, and whether it is a header or block fault. -/
def Run.decodeFault (r : Run) (ctx : Nat) (super : Bool) (kind : Option (BitVec 2)) : Option (Cause × Option Nat × Bool) :=
  let ks := List.range r.size
  let illegal (k : Nat) : Bool := match decodeWord (r.word k) with
    | .error .illegalOpcode => true
    | _ => false
  let priv (k : Nat) : Bool := !super && ((r.instr k).map supervisorOnly).getD false
  let startOk : Bool := match kind with
    | none => true
    | some b => r.kindBits == b.toNat
  if r.headerOk = false ∨ startOk = false ∨ r.entriesOk ctx = false then some (.reservedField, none, true)
  else match ks.find? illegal with
    | some k => some (.illegalOpcode, some k, false)
    | none =>
      match ks.find? fun k => !r.wordOk ctx k with
      | some k => some (.reservedField, some k, false)
      | none =>
        match ks.find? priv with
        | some k => some (.privileged, some k, false)
        | none => if r.wholeOk then none else some (.reservedField, none, true)

/-! ### Read entries (06_block_engine.md R87, R89, R98) -/

/-- The generator to which register g is bound as a stream port in a context. -/
def Ctx.port (c : Ctx) (g : Nat) : Option Nat := if 120 ≤ g then look? c.ports (g - 120) else none

/-- The generators whose next elements the block's read entries take: one for each entry that names a bound port, whether or not its element has
been read when the block commits (R87). -/
def Ctx.popsOf (c : Ctx) (r : Run) : List Nat := (List.range r.nrd).filterMap fun j => c.port (r.rdReg j)

/-- A fault of a stream on the block at p, with no index (11_tensor_access.md R174, R175). -/
def State.portFault (s : State) (p : Place) (g : Nat) (c : Cause) (j : Word64) : State :=
  let h := ((s.tile p.die p.tile).ag g).handle
  (s.updTile p.die p.tile fun t => t.setAg g { t.ag g with cause := some c }).faultAt p none c h j

/-- Read entry j pops the next element of generator g. -/
def State.popEntry (s : State) (p : Place) (g target : Nat) (r : Run) : State :=
  let a := (s.tile p.die p.tile).ag g
  let k := (r.pops.filter fun x => x == g).length
  let (x, s1) := match a.ahead[k]? with
    | some e => (Popped.elem e, s)
    | none => s.popAt p.die p.tile g (a.pos + k)
  match x with
  | .fault c j => s1.portFault p g c j
  | .elem e => (s1.updRun p fun r => { r with pops := r.pops ++ [g] }).deliver p none target (.val e)

/-- The token that read entry j delivers from the register file: a recorded one where its reuse applies. -/
def Ctx.readToken (c : Ctx) (r : Run) (j : Nat) : Token :=
  let g := r.rdReg j
  match if r.rdReuse j then
      c.reuse.find? fun x => x.1 == c.code && x.2.1 == c.block && x.2.2.1 == j && x.2.2.2.1 == g else none with
  | some x => x.2.2.2.2
  | none => .val (c.reg g)

/-- The read entries of a list deliver, until one faults the block. A pop without a memory route waits (R387). -/
def State.readEntries (s : State) (p : Place) : List Nat → State
  | [] => s
  | j :: l =>
    match (s.ctx p).run with
    | none => s
    | some r =>
      let c := s.ctx p
      let ready (g : Nat) : Bool :=
        s.popOpen p.die p.tile g (((s.tile p.die p.tile).ag g).pos + (r.pops.filter fun x => x == g).length)
      let read (t : State) : State := t.updRun p fun r => { r with reads := r.reads ++ [j] }
      let s1 := match c.port (r.rdReg j) with
        | some g => if ready g then read (s.popEntry p g (r.rdTarget j) r) else s
        | none => read (s.deliver p none (r.rdTarget j) (c.readToken r j))
      s1.readEntries p l

/-- The context is at its task's entry block and a handle of the task has not yet filled its landing entry (24_prog_diamond.md R322). -/
def State.handlesDue (s : State) (p : Place) : Bool :=
  p.ctx == 0 && (s.ctx p).kind == some 1#2 && (s.tile p.die p.tile).fills.any Fill.handle

/-- BLOCK_DECODE (R66, R89): the fetched block is decoded, or refused, and its read entries deliver. In a decoded block, read entries
whose pops had to wait try again. -/
def execBlockDecode (s : State) : Out :=
  let p := s.focus
  let c := s.ctx p
  .next (match c.run with
    | none => s
    | some r =>
      if r.live = true then
        if c.phase ≠ .running ∨ c.frozen = true ∨ (s.die p.die).stopped = true ∨ r.committing = true then s
        else s.readEntries p ((List.range r.nrd).filter fun j => !r.reads.contains j)
      else if s.mayBegin p = false ∨ s.handlesDue p = true then s
      else match r.decodeFault p.ctx c.super c.kind with
        | some (k, i, hdr) => s.raiseFault p { cause := k, index := i, hdr := hdr }
        | none =>
          (s.updCtx p fun c => { c with
            kind := none
            run := some { r with live := true, serial := s.cycle, decodedAt := s.cycle, issueAt := c.issue } }).readEntries p
              (List.range r.nrd))

end Sys2Proof.Machine
end

