-- ==== Sys2Proof/Machine/Mesh.lean ====
section
/-! DEFINITION. The tile mesh: routes, reachable pairs and hops (16_message_engine.md R239-R241, 20_prog_allreduce.md
R284). Marks: DEDUCED (log 38); DESIGN CHOICE (log 4, 32). -/

namespace Sys2Proof.Machine

/-- The output port of the router at a tile for a destination: none delivers (R239). -/
def Die.route (x : Die) (here dst : Nat) : Option Port :=
  match x.routers.find? fun e => e.1 == (here, dst) with
  | some e => some e.2
  | none =>
    if dst % 12 < here % 12 then some .west
    else if here % 12 < dst % 12 then some .east
    else if here / 12 < dst / 12 then some .north
    else if dst / 12 < here / 12 then some .south
    else none

/-- The tile beyond a port; a port at the edge of the mesh leads nowhere. -/
def meshNext (t : Nat) : Port → Option Nat
  | .west => if t % 12 = 0 then none else some (t - 1)
  | .east => if t % 12 = 11 then none else some (t + 1)
  | .north => if t / 12 = 11 then none else some (t + 12)
  | .south => if t / 12 = 0 then none else some (t - 12)

/-- Hops from a tile to another, along the routers. -/
def Die.hopsGo (x : Die) (dst : Nat) : Nat → Nat → Nat
  | 0, _ => 0
  | n + 1, t =>
    match (x.route t dst).bind (meshNext t) with
    | none => 0
    | some u => 1 + x.hopsGo dst n u

def Die.hops (x : Die) (a b : Nat) : Nat := x.hopsGo b 255 a

/-- A turn that R239 forbids: into west from north or south, or a reversal. -/
def badTurn : Option Port → Port → Bool
  | none, _ => false
  | some .north, p => p == .west || p == .south
  | some .south, p => p == .west || p == .north
  | some .east, p => p == .west
  | some .west, p => p == .east

/-- Arrivals at live tiles, with the port last taken, reached in n more moves from those of a list. -/
def Die.spread (x : Die) : Nat → List (Nat × Option Port) → List (Nat × Option Port)
  | 0, l => l
  | n + 1, l =>
    let more := (l.flatMap fun e => [Port.west, .east, .north, .south].filterMap fun p =>
      if badTurn e.2 p then none
      else match meshNext e.1 p with
        | some u => if x.defects.contains u then none else some (u, some p)
        | none => none).filter fun e => !l.contains e
    if more = [] then l else x.spread n (l ++ more.eraseDups)

/-- A route that obeys R239 joins two live tiles without passing a defective one (R284). -/
def Die.joined (x : Die) (a b : Nat) : Bool :=
  x.defects == [] || a == b || (x.spread 600 [(a, none)]).any fun e => e.1 == b

/-- No card reaches the tile: it is defective, or its number names none (R226). -/
def State.noTile (s : State) (d t : Nat) : Bool := decide (144 ≤ t) || s.defective d t

/-- The perimeter tile by which a card from die a enters die d, in the row or column of tile t: on the side of the last
link of chord 0. None where there is no chord, or a is no die of this module (R241). -/
def State.entryTile (s : State) (a d t : Nat) : Option Nat :=
  if 32 ≤ a then none
  else match (look {} (s.die a).fab.chords (4 * d) : Chord).links.getLast? with
    | none => none
    | some l =>
      let (u, v) := linkEnds l
      let far := if u = dieSite d then v else u
      if far + 1 = dieSite d then some (t / 12 * 12)
      else if dieSite d + 1 = far then some (t / 12 * 12 + 11)
      else if far < dieSite d then some (t % 12) else some (132 + t % 12)

/-- HOPCNT of a card from hub a to tile t of die d (R241); a free value where the entry of the mesh is not known. -/
def State.hopCount (s : State) (a d from_ t : Nat) : Nat :=
  if a = d then (s.die d).hops from_ t
  else match s.entryTile a d t with
    | some e => (s.die d).hops e t
    | none => Config.freeChoice s.freeCtr % 256

end Sys2Proof.Machine
end

