-- ==== Sys2Proof/Machine/Message.lean ====
section
/-! DEFINITION. The ENGINE-C commands, what they do when they fire (18_msg_instructions.md R268-R282), and the
mailbox state they look at (16_message_engine.md R227-R233). Marks: DEDUCED (log 11, 31). -/

namespace Sys2Proof.Machine

/-! ### Mailboxes (R227, R229) -/

/-- The words of MB63, fixed (13_matrix_engine.md R206): MODE 01, FIRE 8, NSL 8, SLOTSZ 4, NFRAME 2. -/
def mb63 : BitVec 768 := BitVec.ofNat 768 (2 ^ 62 + 8 * 2 ^ 56 + 8 * 2 ^ 52 + 4 * 2 ^ 49 + 2 * 2 ^ 28)

/-- Mailbox m of a tile. -/
def Tile.mb (t : Tile) (m : Nat) : Mbx := if m = 63 then { words := mb63 } else look {} t.mbx m

def Tile.setMb (t : Tile) (m : Nat) (x : Mbx) : Tile := { t with mbx := put t.mbx m x }

/-- Field of a mailbox configuration: word, low bit, width (R227). -/
def Mbx.f (m : Mbx) (w lo n : Nat) : Nat := fldN m.words (64 * w + lo) n

def Mbx.mode (m : Mbx) : Nat := m.f 0 62 2

@[inherit_doc Mbx.f]
def Mbx.reply (m : Mbx) : Bool := m.f 0 61 1 == 1

@[inherit_doc Mbx.f]
def Mbx.auto (m : Mbx) : Bool := m.f 0 60 1 == 1

@[inherit_doc Mbx.f]
def Mbx.fire (m : Mbx) : Nat := m.f 0 56 4 + 1

/-- Slots of a frame: s of R229. -/
def Mbx.slots (m : Mbx) : Nat := m.f 0 52 4 + 1

/-- Bytes of a slot: S of R229. -/
def Mbx.slotSize (m : Mbx) : Nat := 16 * 2 ^ m.f 0 49 3

@[inherit_doc Mbx.f]
def Mbx.fbase (m : Mbx) : Nat := m.f 0 39 10

@[inherit_doc Mbx.f]
def Mbx.nframe (m : Mbx) : Nat := m.f 0 28 11

@[inherit_doc Mbx.f]
def Mbx.base (m : Mbx) : Nat := m.f 0 0 21

@[inherit_doc Mbx.f]
def Mbx.cap (m : Mbx) : Nat := m.f 1 48 16

@[inherit_doc Mbx.f]
def Mbx.alw (m : Mbx) : Nat := m.f 1 0 16

@[inherit_doc Mbx.f]
def Mbx.hv (m : Mbx) : Bool := m.f 2 31 1 == 1

@[inherit_doc Mbx.f]
def Mbx.rcap (m : Mbx) : Nat := m.f 2 12 16

/-- Record size of an exchange receive buffer: R of R228. -/
def Mbx.rsize (m : Mbx) : Nat := 64 * (m.f 2 4 2 + 1)

/-- A presence record of a tile. -/
def Tile.pr (t : Tile) (n : Nat) : Pres := look {} t.pres n

def Tile.setPr (t : Tile) (n : Nat) (x : Pres) : Tile := { t with pres := put t.pres n x }

/-- The lowest-numbered mailbox with REPLY set (R237); R228 admits one. -/
def Tile.replyMb (t : Tile) : Option Nat :=
  (List.range 63).find? fun m => (t.mb m).mode == 1 && (t.mb m).reply

/-- Slots that are present in a presence record. -/
def Pres.count (p : Pres) : Nat := ((List.range 16).filter fun i => bit p.present i).length

/-- A frame is rearmed: OPEN with no slot present (R229). -/
def Tile.rearm (t : Tile) (n : Nat) : Tile := t.setPr n {}

/-- The slot count n of a card with LEN bytes (R232). -/
def cardSlots (len : Nat) : Nat := 1 + (len + 15) / 16

/-- The valid allowance record for a destination word: same MODULE, DIE, TILE and MAILBOX (R273). -/
def Tile.alwFor (t : Tile) (dw : Word64) : Option Nat :=
  (List.range 16).find? fun i =>
    let a : Allow := look {} t.alw i
    a.v && fldN a.dw 35 29 == fldN dw 35 29

/-! ### Checks of a sending command (R269, R270) -/

/-- Checks 5 and 6 of R269 on n local bytes. -/
def sourceCheck (a n align : Nat) : Option Act :=
  if a % align ≠ 0 then some (.fault .align (BitVec.ofNat 64 a) 0#64)
  else if lsSize < a + n then some (.fault .lsBounds (BitVec.ofNat 64 a) 0#64)
  else none

/-- Checks 1 to 3 of R269; `extra` says whether the further fixed fields hold, `cls` is the class required. -/
def sendCheck (dw : Reg) (pOk extra : Bool) (cls : Nat) : Option Act :=
  if dw.tag ≠ .i64 ∨ pOk = false then some (.flt .tagFault)
  else if fldN dw.w 4 12 ≠ 0 ∨ extra = false then some (.flt .reservedField)
  else if fldN dw.w 0 2 ≠ cls ∨ fldN dw.w 41 8 = 255 then some (.flt .rights)
  else none

/-- A payload operand has an accepted tag (R270). -/
def payloadTag (t : Tag) : Bool := t == .i64 || vecTag t

/-- A register payload goes with L = 16 (R270). -/
def payloadLen (p : Reg) (n : Nat) : Bool := p.tag == .i64 || n == 16

/-- Checks 5 and 6 for a payload operand: a register has no local source (R270). -/
def payloadSource (p : Reg) (n : Nat) : Option Act := if p.tag = .i64 then sourceCheck p.w.toNat (16 * n) 16 else none

/-- The card command of a payload operand (R270): local bytes are read at commit, a register's now. -/
def sendCmd (dw : Word64) (p : Reg) (n : Nat) (charged : Option Nat) (frame : Option Nat) (u : BitVec 1) : Cmd :=
  if p.tag = .i64 then .send dw (some (p.w.toNat, 16 * n)) [] 0 charged frame (u == 1#1)
  else .send dw none (leBytes 256 p.bits.toNat) p.tag.num charged frame (u == 1#1)

/-- SEND (R269-R272): a card of CLASS 3. -/
def execSend (p : BitVec 2) (l : BitVec 5) (u : BitVec 1) (n : BitVec 5) (t : BitVec 7) (s : State) : Out :=
  .next (fire (shapeOf (.send p l u n t) s.index) (fun v s => match v with
    | [dw, x] =>
      match sendCheck dw (payloadTag x.tag) (payloadLen x n.toNat) 3, payloadSource x n.toNat with
      | some f, _ => f
      | none, some f => f
      | none, none => command .mse l.toNat (sendCmd dw.w x n.toNat none none u) s
    | _ => .notYet) s)

/-- Check 4 of a command under allowance, for n bytes: the number of the record to which its card will be charged (R273). -/
def allowCheck (s : State) (dw : Word64) (n : Nat) : Except Act Nat :=
  let t := s.tile s.focus.die s.focus.tile
  match t.alwFor dw with
  | none => .error (.flt .rights)
  | some i => if (look {} t.alw i).alw < cardSlots n then .error (.flt .cardTooLong) else .ok i

/-- SENDQ (R273): a card under allowance. -/
def execSendq (p : BitVec 2) (l : BitVec 5) (u : BitVec 1) (n : BitVec 5) (t : BitVec 7) (s : State) : Out :=
  .next (fire (shapeOf (.sendq p l u n t) s.index) (fun v s => match v with
    | [dw, x] =>
      match sendCheck dw (payloadTag x.tag) (payloadLen x n.toNat) 3, allowCheck s dw.w (16 * n.toNat),
          payloadSource x n.toNat with
      | some f, _, _ => f
      | none, .error f, _ => f
      | none, .ok _, some f => f
      | none, .ok i, none => command .mse l.toNat (sendCmd dw.w x n.toNat (some i) none u) s
    | _ => .notYet) s)

/-- The lowest free frame of the REPLY mailbox (R237, R274). -/
def Tile.freeReply (t : Tile) (m : Nat) : Option Nat :=
  (List.range (t.mb m).nframe).find? fun f =>
    let x := t.pr ((t.mb m).fbase + f)
    !x.fired && !x.reserved

/-- Another `REQ` of the tile has waited longer for a reply slot (R274). -/
def State.replyQueue (s : State) : Bool :=
  let p := s.focus
  let mine := match (s.ctx p).run with
    | some r => ((r.waits.find? fun w => w.index == s.index && w.kind == .replySlot).map Wait.since).getD s.cycle
    | none => s.cycle
  (List.range 8).any fun c => match (s.ctx { p with ctx := c }).run with
    | some r => r.waits.any fun w => w.kind == .replySlot && decide (w.since < mine)
    | none => false

/-- REQ with its card charged to record i: it waits for a reply frame (check 4 of R269), and with one its source is judged (checks 5 and 6);
then the frame is reserved (R274). The card's FRAME is that frame and its SLOT 0; the command names the frame's presence record. -/
def reqReserve (l : Nat) (dw : Word64) (x : Reg) (n : Nat) (u : BitVec 1) (m i : Nat) (s : State) : Act :=
  let p := s.focus
  let t := s.tile p.die p.tile
  match t.freeReply m, s.replyQueue, payloadSource x n with
  | some _, false, some f => f
  | some f, false, none =>
    let k := (t.mb m).fbase + f
    let s1 := (s.updTile p.die p.tile fun t => t.setPr k { t.pr k with reserved := true }).updRun p fun r =>
      { r with provs := r.provs ++ [(s.index, .frame k)] }
    command .mse l (sendCmd (setFld (setFld dw 16 15 f) 31 4 0) x n (some i) (some k) u) s1
  | _, _, _ => .wait .replySlot (BitVec.ofNat 64 m)

/-- REQ (R274): a request card of CLASS 0, with a reply frame reserved. -/
def execReq (p : BitVec 2) (l : BitVec 5) (u : BitVec 1) (n : BitVec 5) (t : BitVec 7) (s : State) : Out :=
  .next (fire (shapeOf (.req p l u n t) s.index) (fun v s => match v with
    | [dw, x] =>
      match sendCheck dw (payloadTag x.tag) (payloadLen x n.toNat) 0 with
      | some f => f
      | none =>
        if (s.ctx s.focus).src.inService then .flt .reqInService
        else match (s.tile s.focus.die s.focus.tile).replyMb with
          | none => .flt .rights
          | some m =>
            match allowCheck s dw.w (16 * n.toNat) with
            | .error f => f
            | .ok i => reqReserve l.toNat dw.w x n.toNat u m i s
    | _ => .notYet) s)

/-- REPLY (R275): a card of CLASS 1 into a reserved reply frame. -/
def execReply (p : BitVec 2) (l : BitVec 5) (u : BitVec 1) (n : BitVec 5) (t : BitVec 7) (s : State) : Out :=
  .next (fire (shapeOf (.reply p l u n t) s.index) (fun v s => match v with
    | [dw, x] =>
      match sendCheck dw (payloadTag x.tag) (payloadLen x n.toNat && fldN dw.w 35 6 == 0) 1, payloadSource x n.toNat with
      | some f, _ => f
      | none, some f => f
      | none, none => command .mse l.toNat (sendCmd dw.w x n.toNat none none u) s
    | _ => .notYet) s)

/-- XPUT (R276): local bytes into consecutive slots of a frame. -/
def execXput (p : BitVec 2) (l : BitVec 5) (u : BitVec 1) (n : BitVec 5) (t : BitVec 7) (s : State) : Out :=
  .next (fire (shapeOf (.xput p l u n t) s.index) (fun v s => match v with
    | [dw, a] =>
      let len := 64 * (n.toNat + 1)
      match sendCheck dw (a.tag == .i64) true 3 with
      | some f => f
      | none =>
        if 16 < fldN dw.w 31 4 + (len + 255) / 256 then .flt .cardTooLong
        else match sourceCheck a.w.toNat len 16 with
          | some f => f
          | none => command .mse l.toNat (.xput dw.w a.w.toNat len (u == 1#1)) s
    | _ => .notYet) s)

/-- XAMO (R277): an atomic in another tile's local store. -/
def execXamo (p : BitVec 2) (l : BitVec 5) (u : BitVec 1) (o : BitVec 4) (t : BitVec 7) (s : State) : Out :=
  .next (fire (shapeOf (.xamo p l u o t) s.index) (fun v s => match v with
    | [dw, x] =>
      match sendCheck dw (x.tag == .i64) (fldN dw.w 34 7 == 0) 3 with
      | some f => f
      | none => command .mse l.toNat (.xamo dw.w x.w o.toNat (u == 1#1)) s
    | _ => .notYet) s)

/-- Size and alignment of a configuration, and whether its selector is admitted, by kind (R278). -/
def mbxKind (k : Nat) (sel : Word64) : Nat × Nat × Bool :=
  if k = 0 then (96, 32, fldN sel 6 58 == 0)
  else if k = 1 then (16, 16, fldN sel 4 60 == 0)
  else if k = 2 then (16, 16, decide (sel.toNat ≤ 64))
  else (16, 16, false)

/-- MBXSET (R278): a configuration of this tile or of the hub. -/
def execMbxset (p : BitVec 2) (l : BitVec 5) (k : BitVec 2) (t : BitVec 7) (s : State) : Out :=
  .next (fire (shapeOf (.mbxset p l k t) s.index) (fun v s => match v with
    | [sel, a] =>
      let (n, al, ok) := mbxKind k.toNat sel.w
      if sel.tag ≠ .i64 ∨ a.tag ≠ .i64 then .flt .tagFault
      else if ok = false then .flt .reservedField
      else match sourceCheck a.w.toNat n al with
        | some f => f
        | none => command .mse l.toNat (.mbxset k.toNat sel.w a.w) s
    | _ => .notYet) s)

/-- A selector of `FRGET` and `FRPUT`: reserved bits zero (R279). -/
def selClean (sel : Word64) : Bool := fldN sel 6 10 == 0 && fldN sel 31 33 == 0

/-- Slots present so far of a play into latch n (R206, R279). -/
def Me.playSlots (m : Me) (n : Nat) : Nat :=
  match m.plays.find? fun x => x.latch == n with
  | some x => 2 ^ x.sent - 1
  | none => 0

/-- What `FRGET` finds: whether a wait for it is over, and its result (R279). -/
def Tile.frame (t : Tile) (sel : Word64) : Bool × Word64 :=
  let n := fldN sel 0 6
  let f := fldN sel 16 15
  let m := t.mb n
  if n = 63 then
    if 2 ≤ f then (true, 0#64)
    else
      let full := (look {} t.me.latches f).st == .full
      (full, BitVec.ofNat 64 (b2n full * 2 ^ 63 + f * 2 ^ 16 + (if full then 0x1FF else t.me.playSlots f)))
  else if m.mode = 1 then
    if m.nframe ≤ f then (true, 0#64)
    else
      let x := t.pr (m.fbase + f)
      (decide (if x.fof then x.count = m.slots else m.fire ≤ x.count),
        BitVec.ofNat 64 (b2n x.fired * 2 ^ 63 + f * 2 ^ 16 + x.present.toNat))
  else if m.mode = 2 then
    (m.rd != m.wr, BitVec.ofNat 64 (m.wr * 2 ^ 48 + m.rd * 2 ^ 32 + b2n (m.rd != m.wr)))
  else (true, 0#64)

/-- FRGET (R279): read, or wait for, mailbox state of the own tile. -/
def execFrget (p : BitVec 2) (l : BitVec 5) (w : BitVec 1) (t : BitVec 7) (s : State) : Out :=
  .next (fire (shapeOf (.frget p l w t) s.index) (fun v s => match v with
    | [sel] =>
      let r := (s.tile s.focus.die s.focus.tile).frame sel.w
      if sel.tag ≠ .i64 then .flt .tagFault
      else if selClean sel.w = false then .flt .reservedField
      else if w = 1#1 ∧ r.1 = false then .wait .mailbox (BitVec.ofNat 64 (fldN sel.w 0 6 * 2 ^ 15 + fldN sel.w 16 15))
      else .done [.val (Reg.ofW r.2)] (some (.cmd none .confirm)) s
    | _ => .notYet) s)

/-- The count that `FRPUT` takes, by the mailbox's mode (R280). -/
def frputCount (m : Mbx) (n : Word64) : Bool :=
  if m.mode = 1 then n == 0#64 else if m.mode = 2 then decide (1 ≤ n.toNat ∧ n.toNat ≤ 255) else true

/-- FRPUT (R280): hand mailbox state back, at commit. -/
def execFrput (p : BitVec 2) (l : BitVec 5) (t : BitVec 7) (s : State) : Out :=
  .next (fire (shapeOf (.frput p l t) s.index) (fun v s => match v with
    | [sel, n] =>
      if sel.tag ≠ .i64 ∨ n.tag ≠ .i64 then .flt .tagFault
      else if selClean sel.w = false ∨
          frputCount ((s.tile s.focus.die s.focus.tile).mb (fldN sel.w 0 6)) n.w = false then .flt .reservedField
      else command .mse l.toNat (.frput sel.w n.w) s
    | _ => .notYet) s)

/-- The record size of an exchange destination (R247). -/
def XDest.rsz (x : XDest) : Nat := 64 * (fldN x.w1 62 2 + 1)

def XDest.v (x : XDest) : Bool := bit x.w1 56

def XDest.batch (x : XDest) : Nat := fldN x.w1 57 5

def Xu.dest (x : Xu) (n : Nat) : XDest := look {} x.dests n

/-- XROUTE (R281): append a record to a send list, at commit. -/
def execXroute (p : BitVec 2) (l : BitVec 5) (t : BitVec 7) (s : State) : Out :=
  .next (fire (shapeOf (.xroute p l t) s.index) (fun v s => match v with
    | [h, a] =>
      if h.tag ≠ .i64 ∨ a.tag ≠ .i64 then .flt .tagFault
      else if fldN h.w 32 4 ≠ 0 then .flt .reservedField
      else match sourceCheck a.w.toNat ((s.die s.focus.die).xu.dest (fldN h.w 42 6)).rsz 64 with
        | some f => f
        | none => command .mse l.toNat (.xroute h.w a.w.toNat) s
    | _ => .notYet) s)

/-- XFLUSH (R282): flush send lists and write their counters. -/
def execXflush (p : BitVec 2) (l : BitVec 5) (t : BitVec 7) (s : State) : Out :=
  .next (fire (shapeOf (.xflush p l t) s.index) (fun v s => match v with
    | [d, a] =>
      if d.tag ≠ .i64 ∨ a.tag ≠ .i64 then .flt .tagFault
      else if fldN d.w 6 57 ≠ 0 then .flt .reservedField
      else match sourceCheck a.w.toNat (if bit d.w 63 then 1024 else 16) 16 with
        | some f => f
        | none => command .mse l.toNat (.xflush d.w a.w.toNat) s
    | _ => .notYet) s)

end Sys2Proof.Machine
end

