-- ==== Sys2Proof/Machine/Cards.lean ====
section
/-! DEFINITION. Cards from their sending to their completion, and the mailboxes that take them
(16_message_engine.md R224-R237, 18_msg_instructions.md R268-R280). Marks: DEDUCED (log 16, 30, 31); DESIGN CHOICE
(log 4, 32). -/

namespace Sys2Proof.Machine

/-! ### Header words (R224) -/

/-- Fields of a card's header words. -/
def Card.cls (c : Card) : Nat := fldN c.hw0 0 2

@[inherit_doc Card.cls]
def Card.mailbox (c : Card) : Nat := fldN c.hw0 35 6

@[inherit_doc Card.cls]
def Card.slot (c : Card) : Nat := fldN c.hw0 31 4

@[inherit_doc Card.cls]
def Card.frame (c : Card) : Nat := fldN c.hw0 16 15

@[inherit_doc Card.cls]
def Card.len (c : Card) : Nat := fldN c.hw1 24 10

@[inherit_doc Card.cls]
def Card.ptag (c : Card) : Nat := fldN c.hw1 34 4

/-- MODULE, DIE and TILE at bits 63:41, for a tile of this module. -/
def State.tileBits (s : State) (d t : Nat) : Nat := s.moduleId * 2 ^ 54 + d * 2 ^ 49 + t * 2 ^ 41

/-- A card of the context at p: destination word, payload and its tag. -/
def State.cardOf (s : State) (p : Place) (num : Nat) (dw : Word64) (payload : List Byte) (ptag : Nat) (ordered : Bool) : Card :=
  { hw0 := dw
    hw1 := BitVec.ofNat 64 (s.tileBits p.die p.tile + p.ctx % 8 * 2 ^ 38 + ptag * 2 ^ 34 + payload.length % 1024 * 2 ^ 24)
    payload := payload, src := p, num := num, ordered := ordered }

/-- The card enters the mesh of die d, coming from hub a: HOPCNT and ENTRY are set (R224, R241). -/
def State.enterMesh (s : State) (a d from_ : Nat) (c : Card) : Card :=
  let h := s.hopCount a d from_ (fldN c.hw0 41 8)
  { c with hw1 := setFld (setFld c.hw1 16 8 h) 0 16 (s.cycle % 2 ^ 16), entry := s.cycle }

/-- `HOPS` of a card that is taken now (07_be_control.md R122). -/
def State.cardHops (s : State) (c : Card) : Word64 :=
  hopsWord (fldN c.hw1 41 8) ((s.cycle - c.entry) % 2 ^ 16) (fldN c.hw1 16 8)

/-! ### Completion at the sender (R226, R271) -/

/-- A command's entry leaves the card unit and its number completes. A request's frame is freed when the number
completes with a fault (R274). -/
def State.mseDone (s : State) (p : Place) (num : Nat) (f : Option Cause) : State :=
  match (s.tile p.die p.tile).mse.find? fun e => e.ctx == p.ctx && e.num == num with
  | none => s
  | some e =>
    let s1 := s.updTile p.die p.tile fun t =>
      let t1 := { t with mse := t.mse.filter fun e => !(e.ctx == p.ctx && e.num == num) }
      match f, e.frame with
      | some _, some k => t1.rearm k
      | _, _ => t1
    s1.complete p .mse num f

/-- Cards of the command still to leave the card unit. -/
def MseEntry.unsent (e : MseEntry) : Bool :=
  match e.cmd with
  | .cards l _ => l != []
  | .xput _ _ len sent _ => decide (sent * 256 < len)
  | _ => false

/-- One card of a command has completed: the number completes with the last (R226, R276). -/
def State.cardDone (s : State) (p : Place) (num : Nat) (f : Option Cause) : State :=
  match (s.tile p.die p.tile).mse.find? fun e => e.ctx == p.ctx && e.num == num with
  | none => s
  | some e =>
    let e1 := { e with out := e.out - 1, fault := e.fault.or f }
    if e1.out = 0 ∧ e1.unsent = false then s.mseDone p num e1.fault
    else s.updTile p.die p.tile fun t =>
      { t with mse := t.mse.map fun x => if x.ctx = p.ctx ∧ x.num = num then e1 else x }

/-- CARD_ACK (R226): the acknowledgement of that number reaches its sender. -/
def execCardAck (s : State) : Out :=
  let d := s.focus.die
  .next (match (s.die d).acks[s.index]? with
    | none => s
    | some (t, c, n, f) =>
      (s.updDie d fun x => { x with acks := dropAt x.acks s.index }).cardDone ⟨d, t, c⟩ n f)

/-- The receiving side has finished with a card: its acknowledgement starts back (R226, 17_erasure_coding.md R261). -/
def State.cardFinish (s : State) (d : Nat) (m : MeshCard) : State :=
  match m.msg with
  | none => s.updDie d fun x => { x with acks := x.acks ++ [(m.card.src.tile, m.card.src.ctx, m.card.num, none)] }
  | some k => s.updFab d fun f => { f with finishing := f.finishing ++ [k] }

/-! ### Sending (R226, R233, R271, R276) -/

/-- The card that a command sends next, and what is left of the command. A word of an `XPUT`'s source that is uncorrectable gives none.
-/
def State.nextCard (s : State) (p : Place) (e : MseEntry) : Option (Option Card × MseCmd) :=
  match e.cmd with
  | .cards (c :: l) b => some (some c, .cards l b)
  | .xput dw a len sent o =>
    let n := min 256 (len - 256 * sent)
    let k := a + 256 * sent
    let next := MseCmd.xput dw a len (sent + 1) o
    if len ≤ 256 * sent then none
    else if s.badAt (lsKey p.die p.tile k) n then some (none, next)
    else some (some (s.cardOf p e.num (setFld dw 31 4 (fldN dw 31 4 + sent)) (s.readLs p k n) 0 o), next)
  | _ => none

/-- A card charged to allowance record i may leave (R233). -/
def Tile.allowed (t : Tile) (i : Nat) (c : Card) : Bool :=
  let a : Allow := look {} t.alw i
  decide ((a.sent + cardSlots c.len + 2 ^ 32 - a.c) % 2 ^ 32 ≤ a.alw)

/-- A record is charged for a card that leaves (R233). -/
def Tile.charge (t : Tile) (i n : Nat) : Tile :=
  let a : Allow := look {} t.alw i
  { t with alw := put t.alw i { a with sent := (a.sent + n) % 2 ^ 32, blockedSince := none } }

/-- The sender of record i is blocked from now on, if it was not (R233). -/
def Tile.block (t : Tile) (i now : Nat) : Tile :=
  let a : Allow := look {} t.alw i
  { t with alw := put t.alw i { a with blockedSince := a.blockedSince.or (some now) } }

/-- A card leaves: into the mesh of its own die, to another hub, or nowhere (R226, 20_prog_allreduce.md R284). -/
def State.leave (s : State) (p : Place) (c : Card) : State :=
  let dst := s.hub (fldN c.hw0 54 10) (fldN c.hw0 49 5)
  let t := fldN c.hw0 41 8
  if dst = p.die then
    if s.noTile p.die t || !(s.die p.die).joined p.tile t then s.cardDone p c.num (some .rights)
    else s.accept p.die none (.card (s.enterMesh p.die p.die p.tile c))
  else s.send p.die dst (.card c)

/-- A card of the context at p holds back its later ones: it waits at the hub for room in the retention buffer, or in a die's mesh under
back-pressure (R271). -/
def State.holdsBack (s : State) (p : Place) : Bool :=
  ((s.die p.die).fab.outbox.any fun m => match m.body with
    | .card c => c.src == p
    | _ => false)
  || s.dies.any fun y => y.2.mesh.any fun m => m.refused && m.card.src == p

/-- CARD_SEND (R226, R233, R271, 22_task_dispatcher.md R309): the next card of command number `index` of the tile's card unit leaves. A
context's cards leave in the order of their numbers. -/
def execCardSend (s : State) : Out :=
  let d := s.focus.die
  let t := s.focus.tile
  .next (match (s.tile d t).mse[s.index]? with
    | none => s
    | some e =>
      let p : Place := ⟨d, t, e.ctx⟩
      let older := ((s.tile d t).mse.take s.index).any fun x => x.ctx == e.ctx && x.unsent
      let charged := match e.cmd with
        | .cards _ b => b
        | _ => none
      match older || (s.tile d t).held || (s.die d).stopped || s.holdsBack p, s.nextCard p e with
      | true, _ | _, none => s
      | false, some (oc, rest) =>
        let go (u : State) : State :=
          let e1 := { e with cmd := rest, out := e.out + 1 }
          let u1 := u.updTile d t fun x => { x with mse := x.mse.set s.index e1 }
          match oc with
          | none => u1.cardDone p e.num (some .uncorrectable)
          | some c => u1.leave p c
        match charged, oc with
        | some i, some c =>
          if (s.tile d t).allowed i c then go (s.updTile d t fun x => x.charge i (cardSlots c.len))
          else s.updTile d t fun x => x.block i s.cycle
        | _, _ => go s)

/-! ### Allowance returns (R233) -/

/-- The number of the valid sender record with these bits 63:41 (R227). -/
def Mbx.senderOf (m : Mbx) (w : Word64) : Option Nat :=
  (List.range 8).find? fun i => m.f (4 + i) 40 1 == 1 && m.f (4 + i) 41 23 == fldN w 41 23

/-- CONS of sender i is returned to it. -/
def State.returnCons (s : State) (d t m i : Nat) : State :=
  let b := (s.tile d t).mb m
  let c := look 0 b.cons i
  let w := BitVec.ofNat 64 (s.tileBits d t + m * 2 ^ 35)
  let s1 := s.updTile d t fun x =>
    x.setMb m { b with returned := put b.returned i c, grownAt := del b.grownAt i }
  s1.send d (s.hub (b.f (4 + i) 54 10) (b.f (4 + i) 49 5)) (.allow (b.f (4 + i) 41 8) w c)

/-- CONS of sender i has grown: it is returned at once from ⌈ALW/4⌉ on, else a timer runs. -/
def State.grown (s : State) (d t m i : Nat) : State :=
  let b := (s.tile d t).mb m
  let n := (look 0 b.cons i + 2 ^ 32 - look 0 b.returned i) % 2 ^ 32
  if n = 0 then s
  else if ceilDiv b.alw 4 ≤ n then s.returnCons d t m i
  else if (look? b.grownAt i).isSome then s
  else s.updTile d t fun x => x.setMb m { b with grownAt := put b.grownAt i s.cycle }

/-- n slots are added to the CONS of the sender with that header word 1. -/
def State.consume (s : State) (d t m : Nat) (hw1 : Word64) (n : Nat) : State :=
  let b := (s.tile d t).mb m
  match b.senderOf hw1 with
  | none => s
  | some i =>
    (s.updTile d t fun x => x.setMb m { b with cons := put b.cons i ((look 0 b.cons i + n) % 2 ^ 32) }).grown d t m i

/-- ALLOWANCE_RETURN_TIMER (R233): 256 cycles after a growth of that sender's CONS, mailbox number `index`. -/
def execAllowanceReturnTimer (sender : Nat) (s : State) : Out :=
  let d := s.focus.die
  let t := s.focus.tile
  .next (match look? ((s.tile d t).mb s.index).grownAt sender with
    | none => s
    | some c => if c + 256 ≤ s.cycle then s.returnCons d t s.index sender else s)

/-- ALLOWANCE_RETURN_ARRIVAL (R233): a returned CONS reaches the sender's record. -/
def execAllowanceReturnArrival (s : State) : Out :=
  let d := s.focus.die
  .next (match (s.die d).allowIn[s.index]? with
    | none => s
    | some (t, w, n) =>
      (s.updDie d fun x => { x with allowIn := dropAt x.allowIn s.index }).updTile d t fun x =>
        match x.alwFor w with
        | none => x
        | some i =>
          let a : Allow := look {} x.alw i
          if (n + 2 ^ 32 - a.c) % 2 ^ 32 < 2 ^ 31 then { x with alw := put x.alw i { a with c := n } } else x)

/-- REFRESH_TIMER (R233): the sender of allowance record number `index` has been blocked for 1,024 cycles. -/
def execRefreshTimer (s : State) : Out :=
  let d := s.focus.die
  let t := s.focus.tile
  let a : Allow := look {} (s.tile d t).alw s.index
  .next (match a.blockedSince with
    | none => s
    | some c =>
      if s.cycle < c + 1024 then s
      else (s.updTile d t fun x => { x with alw := put x.alw s.index { a with blockedSince := some s.cycle } }).send d
        (s.hub (fldN a.dw 54 10) (fldN a.dw 49 5))
        (.refresh (fldN a.dw 41 8) (fldN a.dw 35 6) (BitVec.ofNat 64 (s.tileBits d t))))

/-- REFRESH_REQUEST_ARRIVAL (R233): the receiver answers with CONS. -/
def execRefreshRequestArrival (s : State) : Out :=
  let d := s.focus.die
  .next (match (s.die d).refreshIn[s.index]? with
    | none => s
    | some (t, m, w) =>
      let s1 := s.updDie d fun x => { x with refreshIn := dropAt x.refreshIn s.index }
      let b := (s.tile d t).mb m
      match (if b.mode = 2 then b.senderOf w else none) with
      | none => s1
      | some i => s1.returnCons d t m i)

/-! ### Mailbox configurations (R227, R228, R278) -/

/-- The words with their RO fields and RD zero: what a write keeps. -/
def mbxKeep (w : BitVec 768) : BitVec 768 :=
  let z (w : BitVec 768) (k lo n : Nat) := setFld w (64 * k + lo) n 0
  [4, 5, 6, 7, 8, 9, 10, 11].foldl (fun w k => z (z w k 32 8) k 0 32)
    (z (z (z (z (z w 0 21 7) 1 32 16) 1 16 16) 2 28 3) 2 0 4)

/-- The configuration as it reads, with WR, RD and CONS. -/
def Mbx.read (b : Mbx) : BitVec 768 :=
  (List.range 8).foldl (fun w i => setFld w (64 * (4 + i)) 32 (look 0 b.cons i))
    (setFld (setFld b.words (64 + 32) 16 b.wr) (64 + 16) 16 b.rd)

/-- Presence records that a configuration holds: first and count (R228); none in queue mode (21_prog_moe.md R285). -/
def Mbx.records (b : Mbx) : Nat × Nat := if b.mode = 2 then (0, 0) else (b.fbase, b.nframe)

/-- REPLY, which queue mode ignores (21_prog_moe.md R285). -/
def Mbx.replies (b : Mbx) : Bool := b.mode != 2 && b.reply

/-- R228: the configuration may stand as mailbox m of the tile. -/
def Tile.mbxOk (t : Tile) (m : Nat) (b : Mbx) : Bool :=
  let others := ((List.range 63).filter fun k => k != m).map t.mb
  let (f, n) := b.records
  decide (f + n ≤ 1024) && (b.mode == 2 || decide (b.f 0 49 3 ≤ 4))
  && (others.all fun o => decide (n = 0 ∨ o.records.2 = 0 ∨ o.records.1 + o.records.2 ≤ f ∨ f + n ≤ o.records.1))
  && !(b.replies && others.any Mbx.replies) && decide (b.base % 32 = 0)
  && (if b.mode = 1 then decide (1 ≤ b.nframe ∧ b.base + b.nframe * b.slots * b.slotSize ≤ lsSize)
  else if b.mode = 2 then
    let senders := ((List.range 8).filter fun i => b.f (4 + i) 40 1 == 1).length
    let need := senders * b.alw + (if b.rcap = 0 then 0 else b.rcap * (1 + b.rsize / 16))
    decide (32 ≤ b.cap ∧ b.base + 16 * b.cap ≤ lsSize ∧ need + 15 ≤ b.cap)
  else true)

/-- A handler's source forgets its frame, which a new configuration has cleared. -/
def Source.drop (x : Source) (m : Nat) : Source :=
  match x.mb with
  | some (k, _) => if k = m then { x with mb := some (k, 2 ^ 15) } else x
  | none => x

/-- Mailbox m takes a configuration: its frames are cleared, its counts zero (R228). -/
def Tile.writeMb (t : Tile) (m : Nat) (w : BitVec 768) : Tile :=
  let old := t.mb m
  let new : Mbx := { words := mbxKeep w, busy := old.busy }
  let clear (b : Mbx) (t : Tile) : Tile :=
    (List.range b.records.2).foldl (fun t i => t.rearm (b.records.1 + i)) t
  let t1 := (clear new (clear old t)).setMb m new
  { t1 with ctxs := t1.ctxs.map fun c => (c.1, { c.2 with src := c.2.src.drop m })
            startQ := t1.startQ.map fun q => { q with src := q.src.drop m } }

/-- The configuration words of 96 bytes. -/
def wordsOf (bs : List Byte) : BitVec 768 := BitVec.ofNat 768 (leNat bs)

/-- An allowance configuration is well-formed (R278). -/
def alwOk (w0 w1 : Word64) : Bool :=
  decide ((fldN w0 0 2 = 0 ∨ fldN w0 0 2 = 3) ∧ fldN w0 4 31 = 0 ∧ fldN w1 17 47 = 0)

/-- What a `.mbx` or `.alw` configuration makes of the tile: none where it is refused (R278). -/
def Tile.configure (t : Tile) (kind : Nat) (sel : Word64) (bs : List Byte) : Option Tile :=
  if kind = 0 then
    let w := wordsOf bs
    let m := fldN sel 0 6
    if m = 63 then some t
    else if mbxKeep w = setFld w (64 + 16) 16 0 ∧ t.mbxOk m { words := mbxKeep w } = true then some (t.writeMb m w)
    else none
  else
    let w0 := BitVec.ofNat 64 (leNat bs)
    let w1 := BitVec.ofNat 64 (leNat (bs.drop 8))
    if alwOk w0 w1 then
      some { t with alw := put t.alw (fldN sel 0 4) { v := bit w1 16, dw := w0, alw := fldN w1 0 16 } }
    else none

/-- A `.mbx` or `.alw` configuration that waits to be applied. -/
def MseEntry.config (e : MseEntry) : Option (Nat × Word64 × List Byte) :=
  match e.cmd with
  | .mbxset k sel bs => if k < 2 then some (k, sel, bs) else none
  | _ => none

/-- MAILBOX_CONFIG_APPLY (R228, R278): configuration command number `index` of the card unit is applied, the oldest first. -/
def execMailboxConfigApply (s : State) : Out :=
  let d := s.focus.die
  let t := s.focus.tile
  let x := s.tile d t
  .next (match x.mse[s.index]? with
    | none => s
    | some e =>
      match e.config, (s.die d).stopped || (x.mse.take s.index).any fun y => y.config.isSome with
      | some (k, sel, bs), false =>
        match x.configure k sel bs with
        | none => s.mseDone ⟨d, t, e.ctx⟩ e.num (some .reservedField)
        | some y => (s.setTile d t y).mseDone ⟨d, t, e.ctx⟩ e.num none
      | _, _ => s)

/-- MAILBOX_MAP_WRITE (R102, R227, R228): firmware writes mailbox number `index` through the map. RO fields ignore the write. -/
def execMailboxMapWrite (words : BitVec 768) (s : State) : Out :=
  let d := s.focus.die
  let t := s.focus.tile
  .next (if s.index < 63 ∧ (s.tile d t).mbxOk s.index { words := mbxKeep words } = true then
    s.updTile d t fun x => x.writeMb s.index words
  else s)

/-! ### Taking a card (R229-R237) -/

/-- How a card is taken (R229, R231, R232, R237, R277). A mailbox that is off takes none (R272). -/
inductive Taken where
  | atomic | reply | frame | landing | queue
  deriving DecidableEq, Repr

def Tile.takes (t : Tile) (c : Card) : Taken :=
  let m := (t.mb c.mailbox).mode
  if c.ptag = 15 then .atomic
  else if c.cls = 1 then .reply
  else if m = 2 then .queue
  else if m = 3 then .landing
  else .frame

/-- A card of the mesh may be taken now: its tile is not held, and no earlier card of the same sender, tile and class waits
(R226, 22_task_dispatcher.md R309). -/
def Die.turn (x : Die) (k : Nat) (m : MeshCard) : Bool :=
  !((x.mesh.take k).any fun y => y.tile == m.tile && y.card.src.die == m.card.src.die
      && y.card.src.tile == m.card.src.tile && y.card.cls == m.card.cls
      && (m.msg.isNone || (y.card.ordered && m.card.ordered)))

/-- The card is discarded, with an event to the region that owns the tile (R235). -/
def State.discard (s : State) (d : Nat) (m : MeshCard) (kind : Nat) (saved : Bool) : State :=
  (s.post (s.tile d m.tile).region kind m.card.hw0 m.card.hw1 (BitVec.ofNat 64 (b2n saved))).cardFinish d m

/-- What all arrivals do first: the card number `index` of the die's mesh, of that kind and in its turn, leaves the
mesh; one for a saved tile that no task holds is discarded (R236), any other goes to k. -/
def arrival (kind : Taken) (k : Nat → MeshCard → State → State) (s : State) : Out :=
  let d := s.focus.die
  .next (match (s.die d).mesh[s.index]? with
    | none => s
    | some m =>
      let t := s.tile d m.tile
      if t.held = true ∨ (s.die d).stopped = true ∨ (s.die d).turn s.index m = false ∨ t.takes m.card ≠ kind then s
      else
        let s1 := s.updDie d fun x => { x with mesh := dropAt x.mesh s.index }
        if t.savedFlag = true ∧ t.task = none then s1.discard d m 1 true else k d m s1)

/-- The start request of mailbox m (R100, R230). -/
def State.mbxStart (s : State) (d t m : Nat) (g0 : Nat) (g1 : Word64) (hops : Word64) (frame cls : Nat) : Start :=
  let b := (s.tile d t).mb m
  { code := BitVec.ofNat 64 (b.f 3 0 64), block := BitVec.ofNat 32 (b.f 2 32 32), g0 := BitVec.ofNat 64 g0, g1 := g1
    region := (s.tile d t).region, hops := some hops, src := { mb := some (m, frame), inService := cls == 0 } }

/-- Entries of a tile's start queue (R101). -/
def startLimit : Nat := 16

def Tile.startFull (t : Tile) : Bool := decide (startLimit ≤ t.startQ.length)

/-- A card is taken by frame-mode mailbox m (R229). `back` is the state to which a refused card returns. -/
def frameTake (back : State) (m d : Nat) (c : MeshCard) (s : State) : State :=
  let t := s.tile d c.tile
  let b := t.mb m
  let f := c.card.frame
  let k := c.card.slot
  let size := b.slots * b.slotSize
  let n := b.fbase + f
  let p := t.pr n
  let p1 : Pres := { p with present := p.present ||| BitVec.ofNat 16 (2 ^ k), fof := p.fof || bit c.card.hw0 3 }
  let fires := !p.fired && b.hv && (if bit c.card.hw0 3 then p1.count == b.slots else p1.count == b.fire)
  if b.nframe ≤ f ∨ b.slots ≤ k ∨ b.slotSize < c.card.len then s.discard d c 2 false
  else if b.reply = true ∧ p.reserved = false ∧ c.card.cls = 1 then s.discard d c 1 false
  else if bit p.present k then s.discard d c 1 false
  else if fires = true ∧ t.startFull = true then
    back.updDie d fun x => { x with mesh := x.mesh.map fun y => if y == c then { y with refused := true } else y }
  else
    let s1 := s.writeLs ⟨d, c.tile, 0⟩ (b.base + f * size + k * b.slotSize) c.card.payload
    let p2 : Pres := { p1 with fired := p1.fired || fires, filled := p1.filled || (c.card.cls == 1 && (!b.hv || !p.fired)) }
    let g1 := BitVec.ofNat 64 (fldN c.card.hw1 41 23 * 2 ^ 41 + m * 2 ^ 35 + k * 2 ^ 31 + f * 2 ^ 16 + p2.present.toNat)
    let q := s.mbxStart d c.tile m (b.base + f * size) g1 (s.cardHops c.card) f c.card.cls
    (s1.updTile d c.tile fun x =>
      let y := x.setPr n p2
      if fires then { y with startQ := y.startQ ++ [q] } else y).cardFinish d c

/-- FRAME_CARD_ARRIVAL (R229, R235, R272): a card for a frame-mode mailbox, or for one that is off or MB63. -/
def execFrameCardArrival (s : State) : Out :=
  arrival .frame (fun d c u =>
    let m := c.card.mailbox
    if m = 63 ∨ ((s.tile d c.tile).mb m).mode ≠ 1 then u.discard d c 1 false else frameTake s m d c u) s

/-- REPLY_CARD_ARRIVAL (R237, R275): a card of CLASS 1 for the tile's REPLY mailbox. -/
def execReplyCardArrival (s : State) : Out :=
  arrival .reply (fun d c u =>
    match (s.tile d c.tile).replyMb with
    | none => u.discard d c 1 false
    | some m => frameTake s m d c u) s

/-- LANDING_CARD_ARRIVAL (R231): a card that fills a landing entry when its turn comes. -/
def execLandingCardArrival (s : State) : Out :=
  arrival .landing (fun d c u =>
    let b := (s.tile d c.tile).mb c.card.mailbox
    let e := b.f 2 6 6 + c.card.slot
    if 63 < e ∨ (48 ≤ e ∧ e ≤ 55) ∨ c.card.len ≠ 256 ∨ c.card.ptag < 4 ∨ 14 < c.card.ptag then u.discard d c 2 false
    else u.fill d c.tile
      { entry := e, reg := Reg.clean { tag := Tag.ofNum c.card.ptag, bits := BitVec.ofNat 2048 (leNat c.card.payload) }, card := some c }) s

/-- ATOMIC_CARD_ARRIVAL (R277): the atomic is performed; a word found uncorrectable stays, and the die controller hears of it. -/
def execAtomicCardArrival (s : State) : Out :=
  arrival .atomic (fun d c u =>
    let p : Place := ⟨d, c.tile, 0⟩
    let a := fldN c.card.hw0 16 18 * 8
    let old := leNat (s.readLs p a 8)
    if s.badAt (lsKey d c.tile a) 8 then
      (u.updDie d fun x => { x with checks := x.checks ++ [c.tile] }).cardFinish d c
    else (u.writeLs p a (leBytes 8 (amoValue (c.card.op + 1) 8 old (leNat c.card.payload)))).cardFinish d c) s

/-! ### Queue mode (R232, R234) -/

/-- Local address of a ring slot. -/
def Mbx.slotAddr (b : Mbx) (k : Nat) : Nat := b.base + 16 * k

/-- The header words at a ring slot. -/
def State.ringHead (s : State) (d t m k : Nat) : Word64 × Word64 :=
  let bs := s.readLs ⟨d, t, 0⟩ (((s.tile d t).mb m).slotAddr k) 16
  (BitVec.ofNat 64 (leNat bs % 2 ^ 64), BitVec.ofNat 64 (leNat bs / 2 ^ 64))

/-- RD moves over a PAD run (R232). -/
def State.skipPad (s : State) (d t m : Nat) : State :=
  let b := (s.tile d t).mb m
  if b.rd ≠ b.wr ∧ fldN (s.ringHead d t m b.rd).2 24 10 = 0x3FF then
    s.updTile d t fun x => x.setMb m { b with rd := b.cap - 1 }
  else s

/-- n PAD slots from slot k on: headers with LEN = 0x3FF, the rest of them not stated by the spec. -/
def State.pad (s : State) (d t m : Nat) : Nat → Nat → State
  | 0, _ => s
  | n + 1, k =>
    let w0 := Config.freeValue s.freeCtr
    let w1 := setFld (Config.freeValue (s.freeCtr + 1)) 24 10 0x3FF
    let s1 := { s with freeCtr := s.freeCtr + 2 }
    (s1.writeLs ⟨d, t, 0⟩ (((s.tile d t).mb m).slotAddr k) (wordsBytes [w0, w1])).pad d t m n (k + 1)

/-- A header and its payload are placed in the ring (R232). -/
def State.ringPlace (s : State) (d t m : Nat) (w0 w1 : Word64) (payload : List Byte) (hops : Word64) : State :=
  let b := (s.tile d t).mb m
  let p : Place := ⟨d, t, 0⟩
  let n := cardSlots payload.length
  let r := b.cap - b.wr
  let upd (u : State) (head wr : Nat) : State :=
    (u.updTile d t fun x =>
      let b := x.mb m
      x.setMb m { b with wr := wr, hops := put b.hops head hops }).skipPad d t m
  if n ≤ r then
    upd (s.writeLs p (b.slotAddr b.wr) (wordsBytes [w0, w1] ++ payload)) b.wr ((b.wr + n) % b.cap)
  else
    upd (((s.pad d t m (r - 1) b.wr).writeLs p (b.slotAddr (b.cap - 1)) (wordsBytes [w0, w1])).writeLs p b.base payload)
      (b.cap - 1) (n - 1)

/-- QUEUE_CARD_ARRIVAL (R232, R234). -/
def execQueueCardArrival (s : State) : Out :=
  arrival .queue (fun d c u =>
    let m := c.card.mailbox
    let b := (s.tile d c.tile).mb m
    let n := cardSlots c.card.len
    if bit c.card.hw0 4 = false ∨ b.senderOf c.card.hw1 = none then u.discard d c 2 false
    else if 17 < n ∨ b.cap - 15 < n then (u.consume d c.tile m c.card.hw1 n).discard d c 2 false
    else (u.ringPlace d c.tile m c.card.hw0 c.card.hw1 c.card.payload (s.cardHops c.card)).cardFinish d c) s

/-- QUEUE_MAILBOX_FIRE (R230, R232): mailbox number `index` starts its handler on the card at RD. -/
def execQueueMailboxFire (s : State) : Out :=
  let d := s.focus.die
  let t := s.focus.tile
  let x := s.tile d t
  let m := s.index
  let b := x.mb m
  .next (if b.mode ≠ 2 ∨ b.hv = false ∨ b.rd = b.wr ∨ b.busy = true ∨ x.startFull = true ∨ (s.die d).stopped = true then s
    else
      let (w0, w1) := s.ringHead d t m b.rd
      let g1 := BitVec.ofNat 64 (fldN w1 41 23 * 2 ^ 41 + m * 2 ^ 35 + b.rd)
      let q := s.mbxStart d t m (b.slotAddr b.rd) g1 (look 0#64 b.hops b.rd) (2 ^ 15) (fldN w0 0 2)
      s.updTile d t fun y =>
        let z := y.setMb m { b with busy := true }
        { z with startQ := z.startQ ++ [q] })

/-- RD passes n cards (R280). -/
def State.passCards (s : State) (d t m : Nat) : Nat → State
  | 0 => s
  | n + 1 =>
    let b := (s.tile d t).mb m
    if b.rd = b.wr then s
    else
      let w1 := (s.ringHead d t m b.rd).2
      let k := cardSlots (fldN w1 24 10)
      let s1 := s.updTile d t fun x => x.setMb m { b with rd := (b.rd + k) % b.cap }
      ((s1.consume d t m w1 k).skipPad d t m).passCards d t m n

/-- FRPUT at commit (R280). -/
def State.frput (s : State) (d t : Nat) (sel n : Word64) : State :=
  let m := fldN sel 0 6
  let b := (s.tile d t).mb m
  let f := fldN sel 16 15
  let k := b.fbase + f
  if m = 63 then s
  else if b.mode = 1 then
    let p := (s.tile d t).pr k
    if b.nframe ≤ f ∨ (b.reply = true ∧ (b.hv = true ∨ (p.reserved = true ∧ p.filled = false))) then s
    else s.updTile d t fun x => x.rearm k
  else if b.mode = 2 then s.passCards d t m (n.toNat % 256)
  else s

/-- Frame n of the reply mailbox is rearmed at the end of the handler that it started: its reservation ends where its reply was among the cards that
fired it, and else stays (R237, 18_msg_instructions.md R274). -/
def Tile.rearmReply (t : Tile) (n : Nat) : Tile := t.setPr n { reserved := (t.pr n).reserved && !(t.pr n).filled }

/-- A handler that a mailbox started has ended: the mailbox may fire again, and a frame with AUTO, or a reply frame with a handler,
is rearmed (R229, R232, R237). -/
def Tile.endSource (t : Tile) (x : Source) : Tile :=
  match x.mb with
  | none => t
  | some (m, f) =>
    let b := t.mb m
    let t1 := t.setMb m { b with busy := false }
    if b.mode ≠ 1 ∨ b.nframe ≤ f then t1
    else if b.reply = true then t1.rearmReply (b.fbase + f)
    else if b.auto = true then t1.rearm (b.fbase + f)
    else t1

end Sys2Proof.Machine
end

