-- ==== Sys2Proof/Machine/Asks.lean ====
section
/-! DEFINITION. What hubs answer to the requests of ENGINE-D and ENGINE-N commands that are answered as they come: records, names, opens,
binds, and how a command asks (23_td_instructions.md R314-R319, 25_name_directory.md R325-R329, 26_nd_instructions.md
R339-R344). Marks: DEDUCED (log 40, 47, 49); DESIGN CHOICE (log 65). -/

namespace Sys2Proof.Machine

/-- One I64 result. -/
def Result.w (w : Word64) : Result := .tokens (.val (Reg.ofW w)) none

/-! ### Records (R316, R319) -/

/-- The word of a record that `TSTAT` reads: reserved bits read 0 (R319, 22_task_dispatcher.md R288, R290). -/
def State.statWord (s : State) (d n sel : Nat) : Word64 :=
  if s.stateOf d n = 0 then 0#64
  else
    let r := (s.slot d n).raw
    if sel = 0 then setFld (fld r 0 64) 6 6 0 else if sel = 1 then setFld (Rec.status r) 32 14 0 else fld r 384 64

/-- A record image as it is written: STATUS, MASK and MASKHI are 0 (R316). -/
def spawned (r : Vec) : Vec := setFld (setFld (setFld r 320 64 0) 384 128 0) 272 16 0

/-- The claim of a slot for a record image: its ID, or 0 (R316). -/
def spawnClaim (d : Nat) (r : Vec) (s : State) : Result × Option Prov × State :=
  match s.claim d 1 (Rec.region r) with
  | none => (Result.w 0#64, none, s)
  | some (n, t) => (Result.w ((s.taskId d n).setWidth 64), some (.spawn d n (spawned r)), t)

/-! ### Names and references (R325, R327) -/

def State.nd (s : State) (d : Nat) : Nd := (s.die d).nd

def Nd.name? (n : Nd) (key : Word64) : Option Name := n.names.find? fun x => x.key == key

/-- Entries of a slice (R324). -/
def nameLimit : Nat := 65536

/-- The slice has no room for an entry of the key. -/
def Nd.fullFor (n : Nd) (key : Word64) : Bool := (n.name? key).isNone && decide (nameLimit ≤ n.names.length)

/-- The object's count grows by 1, whoever holds the reference. -/
def State.hold (s : State) (id : BitVec 32) : State :=
  let o := s.objOf id
  s.setObj id { o with refs := o.refs + 1 }

/-- The object's count falls by 1. -/
def State.letGo (s : State) (id : BitVec 32) : State :=
  let o := s.objOf id
  s.setObj id { o with refs := o.refs - 1 }

/-- The home's answer to a close: the region's open is reserved for it (R342). -/
def closeAnswer (h : Word64) (r : Nat) (s : State) : Result × Option Prov × State :=
  let id := hobj h
  match s.obj? h with
  | none => (.refused .rights, none, s)
  | some o =>
    if look 0 o.opens r = 0 then (.refused .rights, none, s)
    else (.tokens .null none, some (.close id r), s.setObj id { o with opens := put o.opens r (look 0 o.opens r - 1) })

def Nd.putName (n : Nd) (x : Name) : Nd :=
  if (n.name? x.key).isSome then { n with names := n.names.map fun y => if y.key = x.key then x else y }
  else { n with names := n.names ++ [x] }

/-- The home's answer to a bind, or to an unbind: until it is confirmed or withdrawn a reference is held on the object, and the name's entry
is kept, made if need be (R343). -/
def bindAnswer (d : Nat) (key : Word64) (h : Option Word64) (r : Nat) (s : State) : Result × Option Prov × State :=
  let stale (h : Word64) : Bool := (s.reach r h).isNone
  let x := ((s.nd d).name? key).getD { key := key }
  if h.any stale = true then (.refused .rights, none, s)
  else if (s.nd d).fullFor key then (.refused .nameCapacity, none, s)
  else
    let s1 := s.updNd d fun n => n.putName { x with claims := x.claims + 1 }
    (.tokens .null none, some (.bind key (h.map hobj) r), (h.map fun h => s1.hold (hobj h)).getD s1)

/-- What `NQRY` reads (R344). -/
def queryAnswer (d sel : Nat) (x : Word64) (s : State) : Result :=
  if sel = 2 then
    match s.obj? x with
    | none => .refused .rights
    | some o => Result.w (BitVec.ofNat 64 o.refs)
  else match (s.nd d).name? x with
    | none => Result.w 0#64
    | some n =>
      if sel = 1 then Result.w (BitVec.ofNat 64 n.gen)
      else
        let st := match n.state with
          | .unbound => 0
          | .bound => 1
          | .prepared => 2
        Result.w (BitVec.ofNat 64 (st * 2 ^ 62 + n.obj.toNat))

/-! ### Requests to a hub (R314, R339, 16_message_engine.md R386) -/

/-- What a hub answers to a request for which it has no queue; the other kinds are not asked in this way. -/
def State.answerAsk (s : State) (d : Nat) (r : Req) : Result × Option Prov × State :=
  match r.kind with
  | .stat n sel => (Result.w (s.statWord d n sel), none, s)
  | .spawn raw => spawnClaim d raw s
  | .close h => closeAnswer h r.region s
  | .bind key h => bindAnswer d key h r.region s
  | .query sel x => (queryAnswer d sel x s, none, s)
  | .window _ _ _ | .opn _ _ | .snap _ | .svc _ _ | .place _ _ _ _ => (.refused .rights, none, s)

/-- A request is performed at die d, and its reply leaves. -/
def State.serveAsk (s : State) (d : Nat) (r : Req) : State :=
  let (res, prov, t) := s.answerAsk d r
  t.send d r.place.die (.reply { place := r.place, serial := r.serial, index := r.index, result := res, prov := prov })

/-- The requests that a message has brought are performed. -/
def State.serveAsks (s : State) (d : Nat) : State :=
  (s.nd d).asks.foldl (fun s r => s.serveAsk d r) (s.updNd d fun n => { n with asks := [] })

/-- The instruction in focus asks its own die's hub, which performs `act` at once and replies; the reply receives the instruction with op. -/
def askNow (op : CommitOp) (act : State → Result × Option Prov × State) (s : State) : Act :=
  let d := s.focus.die
  match (s.ctx s.focus).run with
  | none => .notYet
  | some r =>
    if r.asked.any fun x => x.1 == s.index then .notYet
    else
      let (res, prov, t) := act (s.updRun s.focus fun r => { r with asked := r.asked ++ [(s.index, op)] })
      .waitIn .tokens 0#64
        (t.send d d (.reply { place := s.focus, serial := r.serial, index := s.index, result := res, prov := prov }))

/-- The instruction in focus asks the hub of die d: its own at once, another by a message. -/
def askAt (d : Nat) (op : CommitOp) (k : ReqKind) (s : State) : Act :=
  if d = s.focus.die then askNow op (fun t => t.answerAsk d (s.request k)) s
  else askHub d (.ask (s.request k)) op .tokens 0#64 s

end Sys2Proof.Machine
end

