-- ==== Sys2Proof/Machine/Dispatcher.lean ====
section
/-! DEFINITION. The ENGINE-D commands, what they do when they fire (23_td_instructions.md R312-R320). Marks: DEDUCED
(log 40, 50); DESIGN CHOICE (log 65). -/

namespace Sys2Proof.Machine

/-! ### Common checks (R313) -/

/-- A module exists: this one, and those that the firmware has bound to requesters of the pod (17_erasure_coding.md R255). -/
def State.moduleKnown (s : State) (m : Nat) : Bool := m == s.moduleId % 1024 || s.requesters.any fun r => r.2 == m

/-- Check 3: the form of a task ID or of a join ID. Its 16 bits of slot and 5 bits of die are always in range. -/
def State.idForm (s : State) (join : Bool) (w : Word64) : Bool :=
  fldN w 32 32 == 0 && bit w 31 == join && s.moduleKnown (fldN w 21 10)

/-- A region is the context's, or in a SUPER context a descendant of it. -/
def State.mine (s : State) (r : Nat) : Bool :=
  let c := s.ctx s.focus
  r == c.region || (c.super && s.isAncestor c.region r)

/-- Check 4 on a task ID: the record's region; a FREE record passes. -/
def State.taskMine (s : State) (id : BitVec 32) : Bool :=
  let d := s.taskHub id
  s.stateOf d (idSlot id) == 0 || s.mine (Rec.region (s.slot d (idSlot id)).raw)

/-- Check 4 on a join ID. -/
def State.joinMine (s : State) (id : BitVec 32) : Bool :=
  let x := s.slot (s.taskHub id) (idSlot id)
  x.kind != .join || s.mine x.region

/-- Checks 1, 3 and 4 on a task ID. -/
def taskCheck (id : Reg) (tags : Bool) (s : State) : Option Act :=
  if id.tag ≠ .i64 ∨ tags = false then some (.flt .tagFault)
  else if s.idForm false id.w = false ∨ s.taskMine (fld id.w 0 32) = false then some (.flt .rights)
  else none

/-! ### Commands on records -/

/-- TDEC (R315): decrement a counter, at commit. -/
def execTdec (p : BitVec 2) (l : BitVec 5) (s : State) : Out :=
  .next (fire (shapeOf (.tdec p l) s.index) (fun v s => match v with
    | [id, n] =>
      match taskCheck id (n.tag == .i64) s with
      | some f => f
      | none =>
        if n.w.toNat < 1 ∨ 65535 < n.w.toNat then .flt .reservedField
        else .done [] (some (.cmd none (.tdec (fld id.w 0 32) n.w.toNat))) s
    | _ => .notYet) s)

/-- TKILL (R320): kill a task, at commit. -/
def execTkill (p : BitVec 2) (l : BitVec 5) (k : BitVec 1) (s : State) : Out :=
  .next (fire (shapeOf (.tkill p l k) s.index) (fun v s => match v with
    | [id] =>
      match taskCheck id true s with
      | some f => f
      | none => .done [] (some (.cmd none (.tkill (fld id.w 0 32) (k == 1#1)))) s
    | _ => .notYet) s)

/-- TSTAT (R319): read one word of a record at its hub. -/
def execTstat (p : BitVec 2) (l : BitVec 5) (k : BitVec 2) (t : BitVec 7) (s : State) : Out :=
  .next (fire (shapeOf (.tstat p l k t) s.index) (fun v s => match v with
    | [id] =>
      match taskCheck id true s with
      | some f => f
      | none =>
        let d := s.taskHub (fld id.w 0 32)
        askAt d (.cmd none .confirm) (.stat (fldN id.w 0 16) k.toNat) s
    | _ => .notYet) s)

/-- TJOIN (R318): wait until a join has fired; a FREE slot returns 0 at once. -/
def execTjoin (p : BitVec 2) (l : BitVec 5) (t : BitVec 7) (s : State) : Out :=
  .next (fire (shapeOf (.tjoin p l t) s.index) (fun v s => match v with
    | [j] =>
      let id : BitVec 32 := fld j.w 0 32
      let d := s.taskHub id
      let x := s.slot d (idSlot id)
      if j.tag ≠ .i64 then .flt .tagFault
      else if s.focus.ctx ≠ 0 then .flt .handlerWait
      else if s.idForm true j.w = false ∨ s.joinMine id = false then .flt .rights
      else if 32 ≤ d ∨ (s.die d).live = false ∨ (x.kind = .join ∧ bit x.raw 126 = false) then .wait .join (id.setWidth 64)
      else .done [.val (Reg.ofW (if x.kind = .join then fld x.raw 0 64 else 0#64))] (some (.cmd none (.tjoined id))) s
    | _ => .notYet) s)

/-! ### Creating records -/

/-- The checks on a record image (R316). -/
def State.imageFault (s : State) (r : Vec) : Option Cause :=
  let reg := Rec.region r
  let jn := Rec.join r
  let x := s.slot (s.taskHub jn) (idSlot jn)
  let own := s.isAncestor (s.ctx s.focus).region reg && (s.rcb reg).isSome
  let live := (Rec.code r :: (Rec.valid r).map fun j => Rec.opnd r j 0).all fun h => (s.reach reg h).isSome
  let join := jn == 0#32 || (bit jn 31 && decide (s.taskHub jn < 32) && x.kind == .join && x.region == reg)
  if own = false ∨ live = false ∨ join = false then some .rights
  else if Rec.nsucc r ≠ 0 ∨ fldN r 0 6 ≠ 0 ∨ Rec.state r ≠ 0
      ∨ ([0, 1, 2, 3, 4, 5, 6, 7].any fun j => bit (Rec.opnd r j 2) 9) = true then some .reservedField
  else none

/-- TSPAWN (R316): create a task from a record image. -/
def tspawnBody (l : Nat) : List Reg → State → Act
  | [a, d], s =>
    gated false l (fun r s =>
      if a.tag ≠ .i64 ∨ d.tag ≠ .i64 then .flt .tagFault
      else if a.w.toNat % 32 ≠ 0 then .fault .align a.w 0#64
      else if lsSize < a.w.toNat + 256 then .fault .lsBounds a.w 0#64
      else if fldN d.w 5 59 ≠ 0 then .flt .reservedField
      else if r.asked.any (fun x => x.1 == s.index) = true then .notYet
      else match s.loadLocal r l a.w.toNat 256 with
        | none => .flt .uncorrectable
        | some bs =>
          let img : Vec := BitVec.ofNat 2048 (leNat bs)
          match s.imageFault img with
          | some c => .flt c
          | none => askAt d.w.toNat (.cmd none .confirm) (.spawn img) s) s
  | _, _ => .notYet

@[inherit_doc tspawnBody]
def execTspawn (p : BitVec 2) (l : BitVec 5) (t : BitVec 7) (s : State) : Out :=
  .next (fire (shapeOf (.tspawn p l t) s.index) (tspawnBody l.toNat) s)

/-- The claims of an instance: the ID it returns, or 0 (R317). -/
def instClaim (d region : Nat) (id : BitVec 32) (table : List Word64) (s : State) : Result × Option Prov × State :=
  match s.claimInst d region id table none with
  | none => (Result.w 0#64, none, s)
  | some (i, t) => (Result.w ((t.instId i).setWidth 64), some (.inst d i.n), t)

/-- The words of a list of bytes. -/
def bytesWords (n : Nat) (bs : List Byte) : List Word64 :=
  (List.range n).map fun i => BitVec.ofNat 64 (leNat ((bs.drop (8 * i)).take 8))

/-- GINST (R317): instantiate a template with a rename table. -/
def ginstBody (l : Nat) : List Reg → State → Act
  | [t, a], s =>
    gated false l (fun r s =>
      let reg := (s.ctx s.focus).region
      let id := hobj t.w
      let n := fldN (s.tmplRec id 0) 40 8
      if t.tag ≠ .hndl ∨ a.tag ≠ .i64 then .flt .tagFault
      else if (s.reach reg t.w).isNone then .flt .rights
      else if s.tmplOk id = false then .flt .reservedField
      else if a.w.toNat % 8 ≠ 0 then .fault .align a.w 0#64
      else if lsSize < a.w.toNat + 8 * n then .fault .lsBounds a.w 0#64
      else if r.asked.any (fun x => x.1 == s.index) = true then .notYet
      else match s.loadLocal r l a.w.toNat (8 * n) with
        | none => .flt .uncorrectable
        | some bs =>
          let tab := bytesWords n bs
          if tab.any fun h => (s.reach reg h).isNone then .flt .rights
          else askNow (.cmd none .confirm) (instClaim s.focus.die reg id tab) s) s
  | _, _ => .notYet

@[inherit_doc ginstBody]
def execGinst (p : BitVec 2) (l : BitVec 5) (t : BitVec 7) (s : State) : Out :=
  .next (fire (shapeOf (.ginst p l t) s.index) (ginstBody l.toNat) s)

end Sys2Proof.Machine
end

