-- ==== Sys2Proof/Machine/Directory.lean ====
section
/-! DEFINITION. The ENGINE-N commands, what they do when they fire (26_nd_instructions.md R338-R348), and the making of
an object (11_tensor_access.md R171). Marks: DEDUCED (log 27, 28, 48); DESIGN CHOICE (log 4). -/

namespace Sys2Proof.Machine

/-! ### Making an object (R171, R348) -/

/-- The M-sites neighbouring a C-die, in increasing number (01_machine.md R7). -/
def ringSites (d : Nat) : List Nat :=
  let y := d / 4
  let x := 2 * (d % 4) + y % 2
  (List.range 32).filter fun m =>
    let my := m / 4
    let mx := 2 * (m % 4) + (1 - my % 2)
    decide ((my = y ∧ (mx + 1 = x ∨ x + 1 = mx)) ∨ (mx = x ∧ (my + 1 = y ∨ y + 1 = my)))

/-- The stack of table index j. -/
def Desc.stackOf (d : Desc) (j : Nat) : Nat :=
  let p := fldN d 40 5
  let r := ringSites p
  match fldN d 38 2 with
  | 0 => p
  | 1 => r.getD (j % r.length) 0
  | _ => j % 32

/-- Frames for the indices of a list are taken and hold zeros; none when one is missing. -/
def State.makeFrames (s : State) (d : Desc) (r : Nat) : List Nat → Option (List (Nat × Word64) × State)
  | [] => some ([], s)
  | j :: js =>
    match s.takeFrame (d.stackOf j) (d.frame / 65536) r with
    | none => none
    | some (f, t) =>
      match (t.zeroAt (hbmKey f.stack (f.no * 65536)) d.frame).makeFrames d r js with
      | none => none
      | some (l, u) => some ((j, newEntry d f) :: l, u)

/-- Objects of a die's table (R326). -/
def objLimit : Nat := 131072

/-- A free entry of a die's object table, which one being a free choice. Entry 0 of die 0 of module 0 is never taken: a name's OBJ and NEWOBJ
of 0 are no object (25_name_directory.md R325, log 27). -/
def State.freeObj (s : State) (d : Nat) : Option (Nat × State) :=
  let used := ((s.nd d).objs.filter fun x => x.2.live).map (·.1) ++ (if s.moduleId = 0 ∧ d = 0 then [0] else [])
  let (k, t) := s.draw objLimit
  (freeRun objLimit used 1 (2 * used.length + 3) k false).map fun i => (i, t)

/-- The object ID of a die's table entry (R326). -/
def State.objId (s : State) (d i : Nat) : BitVec 32 := BitVec.ofNat 32 (s.moduleId % 1024 * 2 ^ 22 + d * 2 ^ 17 + i)

/-- An object is made on die d for a region from a descriptor, holding one reference as an open does. -/
def State.makeObj (s : State) (d r : Nat) (desc : Desc) : Except Cause (BitVec 32 × State) :=
  if desc.valid = false then .error .reservedField
  else match s.makeFrames desc r (List.range desc.entries) with
    | none => .error .frameExhausted
    | some (tab, t) =>
      match t.freeObj d with
      | none => .error .nameCapacity
      | some (i, u) =>
        let id := s.objId d i
        .ok (id, u.setObj id { live := true, inc := (s.objOf id).inc, desc := desc, region := r, table := tab
                               refs := 1, opens := [(r, 1)] })

/-! ### Commands on names and handles -/

/-- NOPEN (R341): open a name. -/
def execNopen (p : BitVec 2) (l : BitVec 5) (w : BitVec 1) (n : BitVec 5) (t : BitVec 7) (s : State) : Out :=
  .next (fire (shapeOf (.nopen p l w n t) s.index) (fun v s => match v with
    | [key] =>
      if key.tag ≠ .i64 then .flt .tagFault
      else if w = 1#1 ∧ s.focus.ctx ≠ 0 then .flt .handlerWait
      else askHub (s.nameHub key.w) (.openReq (s.request (.opn key.w (w == 1#1)))) (.cmd none .confirm) .opn key.w s
    | _ => .notYet) s)

/-- NCLOSE (R342): close a handle. -/
def execNclose (p : BitVec 2) (l : BitVec 5) (s : State) : Out :=
  .next (fire (shapeOf (.nclose p l) s.index) (fun v s => match v with
    | [h] =>
      if h.tag ≠ .hndl then .flt .tagFault
      else askAt (s.objHub (hobj h.w)) (.cmd none .confirm) (.close h.w) s
    | _ => .notYet) s)

/-- A bind's right operand: a handle, or I64 0 (R338). -/
def bindTag (h : Reg) : Bool := h.tag == .hndl || (h.tag == .i64 && h.w == 0#64)

/-- NBIND (R343): bind or unbind a name. -/
def execNbind (p : BitVec 2) (l : BitVec 5) (s : State) : Out :=
  .next (fire (shapeOf (.nbind p l) s.index) (fun v s => match v with
    | [key, h] =>
      let d := s.nameHub key.w
      if key.tag ≠ .i64 ∨ bindTag h = false then .flt .tagFault
      else askAt d (.cmd none (.nbind key.w (if h.tag = .hndl then h.w else 0#64))) (.bind key.w (if h.tag = .hndl then some h.w else none)) s
    | _ => .notYet) s)

/-- NQRY (R344): query a name or an object's count. -/
def execNqry (p : BitVec 2) (l : BitVec 5) (k : BitVec 2) (t : BitVec 7) (s : State) : Out :=
  .next (fire (shapeOf (.nqry p l k t) s.index) (fun v s => match v with
    | [x] =>
      let d := if k = 2#2 then s.objHub (hobj x.w) else s.nameHub x.w
      if x.tag ≠ (if k = 2#2 then Tag.hndl else Tag.i64) then .flt .tagFault
      else askAt d (.cmd none .confirm) (.query k.toNat x.w) s
    | _ => .notYet) s)

/-! ### Transactions (R332, R345, R346) -/

/-- Check 3 on a transaction ID: bits 63:32 and 16:6 are zero (R340, 25_name_directory.md R332). -/
def txnForm (t : Word64) : Bool := fldN t 32 32 == 0 && fldN t 6 11 == 0

/-- The transaction that an ID names at this die's coordinator, if it is open and this context began it. -/
def State.ownTxn (s : State) (t : Word64) : Option Txn :=
  let p := s.focus
  if t.toNat / 64 ≠ s.moduleId % 1024 * 2 ^ 16 + p.die * 2 ^ 11 then none
  else (s.nd p.die).txns.find? fun x => x.id == t.toNat % 64 && x.phase == .collecting && x.begunBy p (s.ctx p).runNo

/-- A die's coordinator keeps 64 transactions (R332). -/
def txnLimit : Nat := 64

/-- Fewer than 64 transactions of the die are open, but each of the 64 indices is that of one whose record is still kept
(25_name_directory.md R333): a claim waits (log 48). -/
def State.txnsKept (s : State) (d : Nat) : Bool :=
  let l := (s.nd d).txns
  decide (txnLimit ≤ l.length) && decide ((l.filter fun x => x.phase == .collecting || x.phase == .preparing).length < txnLimit)

/-- The claim of a transaction; which index is a free choice (R345). -/
def txnClaim (s : State) : Result × Option Prov × State :=
  let p := s.focus
  let (k, u) := s.draw txnLimit
  match ((List.range txnLimit).map fun i => (k + i) % txnLimit).find? fun i =>
      !(s.nd p.die).txns.any fun x => x.id == i with
  | none => (Result.w (BitVec.allOnes 64), none, s)
  | some i =>
    let c := s.ctx p
    (Result.w (BitVec.ofNat 64 (s.moduleId % 1024 * 2 ^ 22 + p.die * 2 ^ 17 + i)), some (.txn i p c.runNo),
      u.updNd p.die fun n => { n with txns := n.txns ++ [{ id := i, owner := p, region := c.region, runNo := c.runNo }] })

/-- NTXB (R345): begin a transaction. -/
def execNtxb (p : BitVec 2) (l : BitVec 5) (t : BitVec 7) (s : State) : Out :=
  .next (fire (shapeOf (.ntxb p l t) s.index) (fun _ s =>
    if s.txnsKept s.focus.die = true then .notYet else askNow (.cmd none .confirm) txnClaim s) s)

def State.updTxn (s : State) (d t : Nat) (f : Txn → Txn) : State :=
  s.updNd d fun n => { n with txns := n.txns.map fun x => if x.id = t then f x else x }

/-- What an `NTXA` adds for a key: the bits of its handle, or 0 for an unbind. A handle of bits 0, which is stale, is kept as another
that is stale, its reserved bits not zero (R326, R345). -/
def txnHandle (h : Reg) : Word64 := if h.tag ≠ .hndl then 0#64 else if h.w = 0#64 then 1#64 else h.w

/-- The coordinator's answer to an added entry (R345). -/
def addAnswer (t key : Word64) (h : Reg) (s : State) : Result × Option Prov × State :=
  match s.ownTxn t with
  | none => (.refused .rights, none, s)
  | some x =>
    let keys := (x.entries.map (·.1) ++ x.asked).eraseDups
    let w := txnHandle h
    if keys.contains key = false ∧ txnLimit ≤ keys.length then (.refused .nameCapacity, none, s)
    else
      let s1 := s.updTxn s.focus.die x.id fun y => { y with asked := y.asked ++ [key] }
      (.tokens .null none, some (.txnAdd x.id s.focus x.runNo key w), if (s.obj? w).isSome then s1.hold (hobj w) else s1)

/-- NTXA (R345): add a bind or unbind to a transaction. -/
def execNtxa (l : BitVec 5) (s : State) : Out :=
  .next (fire (shapeOf (.ntxa l) s.index) (fun v s => match v with
    | [t, key, h] =>
      if t.tag ≠ .i64 ∨ key.tag ≠ .i64 ∨ bindTag h = false then .flt .tagFault
      else if txnForm t.w = false then .flt .reservedField
      else askNow (.cmd none (.ntxa (t.w.toNat % 64) key.w (txnHandle h)))
        (addAnswer t.w key.w h) s
    | _ => .notYet) s)

/-- The coordinator's answer to the end of a transaction (R345). -/
def endAnswer (t : Word64) (s : State) : Result × Option Prov × State :=
  match s.ownTxn t with
  | none => (.refused .rights, none, s)
  | some _ => (.tokens .null none, none, s)

/-- NTXC (R346): commit a transaction; its write entry is reserved for the outcome. -/
def execNtxc (p : BitVec 2) (l : BitVec 5) (t : BitVec 7) (s : State) : Out :=
  .next (fire (shapeOf (.ntxc p l t) s.index) (fun v s => match v, (s.ctx s.focus).run with
    | [x], some r =>
      let asked := r.asked.any fun y => y.1 == s.index
      let taken := (r.tok t.toNat).isSome || r.reserved.contains t.toNat
      if x.tag ≠ .i64 then .flt .tagFault
      else if txnForm x.w = false then .flt .reservedField
      else if asked = false ∧ t ≠ 0x7F#7 ∧ taken = true then .flt .tokenCollision
      else askNow (.cmd none (.ntxc (x.w.toNat % 64) t)) (fun s =>
        let (a, b, u) := endAnswer x.w s
        (a, b, if t = 0x7F#7 then u else u.updRun u.focus fun r => { r with reserved := r.reserved ++ [t.toNat] })) s
    | _, _ => .notYet) s)

/-- NTXX (R346): abort a transaction. -/
def execNtxx (p : BitVec 2) (l : BitVec 5) (s : State) : Out :=
  .next (fire (shapeOf (.ntxx p l) s.index) (fun v s => match v with
    | [x] =>
      if x.tag ≠ .i64 then .flt .tagFault
      else if txnForm x.w = false then .flt .reservedField
      else askNow (.cmd none (.ntxx (x.w.toNat % 64))) (endAnswer x.w) s
    | _ => .notYet) s)

/-! ### Making objects (R347, R348) -/

/-- NSNAP (R347): snapshot an object. -/
def execNsnap (p : BitVec 2) (l : BitVec 5) (t : BitVec 7) (s : State) : Out :=
  .next (fire (shapeOf (.nsnap p l t) s.index) (fun v s => match v with
    | [h] =>
      if h.tag ≠ .hndl then .flt .tagFault
      else askHub (s.objHub (hobj h.w)) (.snapReq (s.request (.snap h.w))) (.cmd none .confirm) .tokens 0#64 s
    | _ => .notYet) s)

/-- This die's answer to a make. -/
def makeAnswer (d r : Nat) (desc : Desc) (s : State) : Result × Option Prov × State :=
  match s.makeObj d r desc with
  | .error c => (.refused c, none, s)
  | .ok (id, t) => (.tokens (.val (Reg.ofH (handleOf id (t.objOf id).inc))) none, some (.made id r), t)

/-- NMAKE (R348): make an object from a descriptor. -/
def nmakeBody (l : Nat) : List Reg → State → Act
  | [a], s =>
    gated false l (fun r s =>
      if a.tag ≠ .i64 then .flt .tagFault
      else if a.w.toNat % 64 ≠ 0 then .fault .align a.w 0#64
      else if lsSize < a.w.toNat + 64 then .fault .lsBounds a.w 0#64
      else if r.asked.any (fun x => x.1 == s.index) = true then .notYet
      else match s.loadLocal r l a.w.toNat 64 with
        | none => .flt .uncorrectable
        | some bs =>
          askNow (.cmd none .confirm)
            (makeAnswer s.focus.die (s.ctx s.focus).region (BitVec.ofNat 512 (leNat bs))) s) s
  | _, _ => .notYet

@[inherit_doc nmakeBody]
def execNmake (p : BitVec 2) (l : BitVec 5) (t : BitVec 7) (s : State) : Out :=
  .next (fire (shapeOf (.nmake p l t) s.index) (nmakeBody l.toNat) s)

end Sys2Proof.Machine
end

