-- ==== Sys2Proof/Machine/Names.lean ====
section
/-! DEFINITION. The Name Directory at work: windows, opens, binds, transactions, snapshots, reclamation, and the replies,
confirmations and withdrawals of provisional events (25_name_directory.md R327-R337, 26_nd_instructions.md R339-R347,
03_memory_model.md R50, R51). Marks: DEDUCED (log 27, 47, 48, 49); DESIGN CHOICE (log 4). -/

namespace Sys2Proof.Machine

/-! ### Replies and provisional events (R339) -/

/-- A reply to the instruction of a request. -/
def State.answerReq (s : State) (d : Nat) (p : Place) (serial index : Nat) (r : Result) (v : Option Prov) : State :=
  s.send d p.die (.reply { place := p, serial := serial, index := index, result := r, prov := v })

/-- HUB_REPLY_ARRIVAL (R339, R314): reply number `index` of the die reaches its instruction, which is received with it; a refusal
faults; a reply for a block that is gone withdraws its event. -/
def execHubReplyArrival (s : State) : Out :=
  let d := s.focus.die
  .next (match (s.nd d).replies[s.index]? with
    | none => s
    | some r =>
      let p := r.place
      let s1 := s.updNd d fun n => { n with replies := dropAt n.replies s.index }
      let gone : State := match r.prov with
        | some v => s1.withdraw p v
        | none => s1
      match (s1.ctx p).run with
      | none => gone
      | some b =>
        match b.asked.find? fun x => x.1 == r.index with
        | none => gone
        | some (k, op) =>
          if b.serial ≠ r.serial ∨ b.fired.contains k = true then gone
          else match r.result with
            | .refused c => s1.faultAt p (some k) c 0#64 0#64
            | .tokens t u =>
              let h := b.shape k
              let s2 := s1.updRun p fun x =>
                let y := x.mark k h (some op)
                { y with provs := y.provs ++ r.prov.toList.map fun v => (k, v) }
              match op with
              | .cmd none (.ntxc _ _) => s2
              | _ => s2.deliverAll p (some k) h.targets (t :: u.toList))

/-- One element of a list is removed, the first that equals x. -/
def eraseOne {α : Type} [DecidableEq α] (x : α) : List α → List α
  | [] => []
  | y :: r => if y = x then r else y :: eraseOne x r

/-- CONFIRMATION_ARRIVAL (R339, R342): confirmation number `index`. A close takes effect; the other events stand as they are. -/
def execConfirmationArrival (s : State) : Out :=
  let d := s.focus.die
  .next (match (s.nd d).confirms[s.index]? with
    | none => s
    | some c =>
      let s1 := s.updNd d fun n => { n with confirms := dropAt n.confirms s.index }
      match c.prov with
      | .close o _ => s1.letGo o
      | _ => s1)

/-- What the withdrawal of a provisional event undoes at its hub (R339, R316, R317). -/
def State.undo (s : State) : Prov → State
  | .openRef o r =>
    let x := s.objOf o
    s.setObj o { x with refs := x.refs - 1, opens := put x.opens r (look 0 x.opens r - 1) }
  | .made o r =>
    let x := s.objOf o
    s.setObj o { x with refs := x.refs - 1, opens := put x.opens r (look 0 x.opens r - 1) }
  | .close o r =>
    let x := s.objOf o
    s.setObj o { x with opens := put x.opens r (look 0 x.opens r + 1) }
  | .bind k o _ =>
    let s1 := (o.map fun o => s.letGo o).getD s
    s1.updNd (s.nameHub k) fun n =>
      Nd.tidy { n with names := n.names.map fun x => if x.key = k then { x with claims := x.claims - 1 } else x } k
  | .window o w =>
    let x := s.objOf o
    s.setObj o { x with wins := eraseOne w x.wins }
  | .spawn d n _ => s.freeSlot d n
  | .inst d n => s.withdrawInst d n
  | .txn _ _ _ | .txnAdd _ _ _ _ _ | .frame _ | .joined _ => s

/-- The withdrawals of a transaction's events, at coordinator d. -/
def State.undoTxn (s : State) (d : Nat) : Prov → State
  | .txn t p run => s.updNd d fun n => { n with txns := n.txns.filter fun x => !(x.id == t && x.begunBy p run) }
  | .txnAdd t p run k h =>
    let s1 := s.updTxn d t fun x => if x.begunBy p run then { x with asked := eraseOne k x.asked } else x
    if (s1.obj? h).isSome then s1.letGo (hobj h) else s1
  | _ => s

def Prov.isWindow : Prov → Bool
  | .window _ _ => true
  | _ => false

/-- A withdrawal, of the windows or of the rest, is applied. -/
def withdrawEvent (windows : Bool) (s : State) : Out :=
  let d := s.focus.die
  .next (match (s.nd d).withdraws[s.index]? with
    | none => s
    | some c =>
      if c.prov.isWindow ≠ windows then s
      else ((s.updNd d fun n => { n with withdraws := dropAt n.withdraws s.index }).undo c.prov).undoTxn d c.prov)

/-- PROVISIONAL_WITHDRAW (R339, 28_traps_preemption.md R367): withdrawal number `index`. -/
def execProvisionalWithdraw (s : State) : Out := withdrawEvent false s

/-- WINDOW_WITHDRAW (R51, R188): the grant of withdrawal number `index` leaves the home's list. -/
def execWindowWithdraw (s : State) : Out := withdrawEvent true s

/-! ### Windows (R50, R51, R188) -/

/-- The object of a request for a window. -/
def Req.winObj (r : Req) : Option (BitVec 32) :=
  match r.kind with
  | .window _ h _ => some (hobj h)
  | .place _ _ o _ => some o
  | _ => none

/-- Stream elements of a window, 0 for an object without a stream tag (R188). -/
def windowLen (d : Desc) (w : Win) : Nat := ({ ext := w.ext, org := w.org, tag := d.tag } : Ag).len

/-- WINDOW_REQUEST (R50, R51, R188): request number `index` of a `GSET` or of a placement, the first on its object, is granted, refused, or
waits while the list is full. -/
def execWindowRequest (s : State) : Out :=
  let d := s.focus.die
  let ws := (s.nd d).windows
  .next (match ws[s.index]? with
    | none => s
    | some r =>
      let gone : State := s.updNd d fun n => { n with windows := dropAt n.windows s.index }
      if r.winObj.isNone = true ∨ ((ws.take s.index).any fun q => q.winObj == r.winObj) = true then s
      else match r.kind with
      | .window _ h w =>
        let done (s : State) (x : Result) (v : Option Prov) : State := s.answerReq d r.place r.serial r.index x v
        match s.reach r.region h with
        | none => done gone (.refused .rights) none
        | some o =>
          match o.grant w with
          | none => s
          | some none => done gone (.refused .mmRace) none
          | some (some o1) => done (gone.setObj (hobj h) o1) (Result.w (BitVec.ofNat 64 (windowLen o.desc w)))
              (some (.window (hobj h) w))
      | .place n k id w =>
        let tell (s : State) (ok : Bool) : State := s.send d r.place.die (.granted n k id w ok)
        if (s.objOf id).live = false then tell gone false
        else match (s.objOf id).grant w with
          | none => s
          | some none => tell gone false
          | some (some o1) => tell (gone.setObj id o1) true
      | _ => s)

/-! ### Opens (R329, R330, R341) -/

/-- Opens that a slice queues (R330). -/
def waiterLimit : Nat := 4096

/-- Keys of names that a decision on a transaction concerns: those that hold it, and those of prepares that have come. -/
def Nd.keysOf (n : Nd) (id : BitVec 32) : List Word64 :=
  (n.names.filter fun x => x.state == .prepared && x.txn == id).map Name.key
    ++ (n.prepares.filter fun p => p.txn == id).flatMap fun p => p.entries.map (·.1)

/-- The requests to names that have arrived and are not yet applied: the stamp and the keys of each. -/
def Nd.line (n : Nd) : List (Nat × List Word64) :=
  (n.opens.map fun r => (r.stamp, match r.kind with
    | .opn key _ => [key]
    | _ => []))
  ++ (n.binds.map fun b => (b.stamp, [b.key])) ++ (n.prepares.map fun p => (p.stamp, p.entries.map (·.1)))
  ++ n.decisions.map fun x => (x.stamp, n.keysOf x.txn)

/-- A request to names of these keys is not the next: another to one of them has arrived before it (R329). -/
def Nd.early (n : Nd) (stamp : Nat) (keys : List Word64) : Bool :=
  n.line.any fun x => decide (x.1 < stamp) && x.2.any keys.contains

def Nd.waiting (n : Nd) : Nat := (n.names.map fun x => x.waiters.length).sum

/-- An open of a bound name is answered: the handle and status 0, with the count taken; RIGHTS where the region cannot reach
the object (R326, R329). -/
def State.openBound (s : State) (d : Nat) (obj : BitVec 32) (w : Opener) : State :=
  let h := handleOf obj (s.objOf obj).inc
  match s.reach w.region h with
  | none => s.answerReq d w.place w.serial w.index (.refused .rights) none
  | some _ => (s.ref w.region h).answerReq d w.place w.serial w.index
      (.tokens (.val (Reg.ofH h)) (some (.val (Reg.ofW 0#64)))) (some (.openRef obj w.region))

/-- An open that finds no binding: a null and a status. -/
def State.openNone (s : State) (d : Nat) (w : Opener) (status : Nat) : State :=
  s.answerReq d w.place w.serial w.index (.tokens .null (some (.val (Reg.ofW (BitVec.ofNat 64 status))))) none

/-- The waiters of a name are served in order (R330). -/
def State.serve (s : State) (d : Nat) (key : Word64) : State :=
  match (s.nd d).name? key with
  | none => s
  | some x =>
    match x.state with
    | .prepared => s
    | .bound => x.waiters.foldl (fun s w => s.openBound d x.obj w) (s.updNd d fun n => n.putName { x with waiters := [] })
    | .unbound =>
      (x.waiters.filter fun w => !w.wait).foldl (fun s w => s.openNone d w 1)
        (s.updNd d fun n => (n.putName { x with waiters := x.waiters.filter Opener.wait }).tidy key)

/-- An instruction of a block in flight still waits for its hub's answer. -/
def State.pending (s : State) (p : Place) (serial index : Nat) : Bool :=
  match (s.ctx p).run with
  | none => false
  | some r => r.serial == serial && !r.fired.contains index

/-- The block of an open has been abandoned: the open is not queued (R341). An open of the pod is another module's. -/
def State.openGone (s : State) (w : Opener) : Bool := decide (w.place.die < 32) && !s.pending w.place w.serial w.index

/-- OPEN_REQUEST (R329, R330): open number `index` that has reached its home. -/
def execOpenRequest (s : State) : Out :=
  let d := s.focus.die
  .next (match (s.nd d).opens[s.index]? with
    | none => s
    | some r =>
      match r.kind with
      | .opn key wait =>
        if (s.nd d).early r.stamp [key] then s
        else
        let s1 := s.updNd d fun n => { n with opens := dropAt n.opens s.index }
        let w : Opener := { place := r.place, serial := r.serial, index := r.index, region := r.region, wait := wait
                            since := r.since }
        let x := ((s.nd d).name? key).getD { key := key }
        let queue : State :=
          if s1.openGone w = true then s1
          else if (s.nd d).fullFor key then s1.answerReq d w.place w.serial w.index (.refused .nameCapacity) none
          else if waiterLimit ≤ (s.nd d).waiting then
            s1.updTile w.place.die w.place.tile fun t =>
              { t with represent := t.represent ++ [(w.place.ctx, w.serial, w.index, key, wait, s.cycle)] }
          else s1.updNd d fun n => n.putName { x with waiters := x.waiters ++ [w] }
        match x.state with
        | .bound => s1.openBound d x.obj w
        | .prepared => queue
        | .unbound => if wait then queue else s1.openNone d w 1
      | _ => s)

/-- OPEN_REPRESENT_TIMER (R330): open number `index` that waits at the tile is presented again after 1,024 cycles. -/
def execOpenRepresentTimer (s : State) : Out :=
  let d := s.focus.die
  let t := s.focus.tile
  .next (match (s.tile d t).represent[s.index]? with
    | none => s
    | some (c, serial, k, key, wait, since) =>
      let s1 := s.updTile d t fun x => { x with represent := dropAt x.represent s.index }
      if s.pending ⟨d, t, c⟩ serial k = false then s1
      else if s.cycle < since + 1024 then s
      else s1.send d (s.nameHub key) (.openReq
        { place := ⟨d, t, c⟩, serial := serial, index := k, region := (s.ctx ⟨d, t, c⟩).region, kind := .opn key wait, since := s.cycle }))

/-! ### Binds (R329, R331, R343) -/

/-- A host command completes with a status and result words (29_host_firmware.md R377). -/
def State.hostDone (s : State) (fn q seq status : Nat) (w1 w2 : Word64) : State :=
  { s with cmds := s.cmds.map fun c =>
      if c.fn = fn ∧ c.q = q ∧ c.seq.toNat = seq then { c with phase := .completed, status := status, w1 := w1, w2 := w2 } else c }

/-- A host command completes with a status, its result words as they stand. -/
def State.hostStatus (s : State) (fn q seq status : Nat) : State :=
  { s with cmds := s.cmds.map fun c =>
      if c.fn = fn ∧ c.q = q ∧ c.seq.toNat = seq then { c with phase := .completed, status := status } else c }

/-- The outcome code that a commit shows: a home that finds an object stale votes with a code of its own, 6, which is outcome 3 (R333). -/
def shownCode (code : Nat) : Nat := if code = 6 then 3 else code

/-- A host's transaction has ended with an outcome code (29_host_firmware.md R379): want of room gives `NAME_CAPACITY` and a stale object `RIGHTS`;
which of them code 2 gives is a free choice. -/
def State.hostOutcome (s : State) (fn q seq code : Nat) : State :=
  let (k, t) := s.draw 2
  let status := if code = 1 then Cause.txnConflict.code
    else if code = 3 then Cause.nameCapacity.code else if code = 6 then Cause.rights.code
    else if code = 2 then (if k = 0 then Cause.nameCapacity.code else Cause.rights.code) else 0
  t.hostDone fn q seq status (BitVec.ofNat 64 (shownCode code)) 0#64

/-- GEN grows modulo 2^30 (R325). -/
def nextGen (g : Nat) : Nat := (g + 1) % 2 ^ 30

/-- An entry that is not PREPARED is bound to an object whose count already has the bind's +1, or unbound; waiters are served. -/
def State.rebind (s : State) (d : Nat) (x : Name) (obj : Option (BitVec 32)) (region : Nat) : State :=
  let s1 := if x.state = .bound then s.letGo x.obj else s
  let y : Name := match obj with
    | some o => { x with state := .bound, obj := o, gen := nextGen x.gen, region := region, txn := 0#32, newobj := 0#32 }
    | none => { x with state := .unbound, obj := 0#32, gen := if x.state = .bound then nextGen x.gen else x.gen, region := region
                       txn := 0#32, newobj := 0#32 }
  ((s1.updNd d fun n => n.putName y).serve d x.key).updNd d fun n => n.tidy x.key

/-- A bind that has reached its home is held by a PREPARED entry, refused, or applied (R329). The status is a host's. -/
def State.applyBind (s : State) (d : Nat) (b : Bind) : State :=
  let x0 := ((s.nd d).name? b.key).getD { key := b.key }
  let x : Name := { x0 with claims := if b.host.isSome then x0.claims else x0.claims - 1 }
  let tell (s : State) (status : Nat) : State := match b.host with
    | some (fn, q, n) => s.hostStatus fn q n status
    | none => s
  let give (s : State) : State := match b.obj with
    | some o => s.letGo o
    | none => s
  if x0.state = .prepared then s.updNd d fun n => n.putName { x0 with held := x0.held ++ [b] }
  else if (s.nd d).fullFor b.key then tell (give s) Cause.nameCapacity.code
  else tell (s.rebind d x b.obj b.region) 0

/-- BIND_APPLY (R329, R343): bind or unbind number `index` takes place, the first request on its name. -/
def execBindApply (s : State) : Out :=
  let d := s.focus.die
  let bs := (s.nd d).binds
  .next (match bs[s.index]? with
    | none => s
    | some b =>
      if ((bs.take s.index).any fun c => c.key == b.key) = true ∨ (s.nd d).early b.stamp [b.key] = true then s
      else (s.updNd d fun n => { n with binds := dropAt n.binds s.index }).applyBind d b)

/-! ### Transactions (R332-R334, R346) -/

/-- A transaction ID (R332). -/
def State.txnId (s : State) (d t : Nat) : BitVec 32 := BitVec.ofNat 32 (s.moduleId % 1024 * 2 ^ 22 + d * 2 ^ 17 + t)

/-- The hub that coordinates a transaction. -/
def State.txnHub (s : State) (id : BitVec 32) : Nat := s.hub (fldN id 22 10) (fldN id 17 5)

def Nd.txn? (n : Nd) (t : Nat) : Option Txn := n.txns.find? fun x => x.id == t

/-- The homes of a transaction's names. -/
def State.txnHomes (s : State) (x : Txn) : List Nat := (x.entries.map fun e => s.nameHub e.1).eraseDups

/-- A decided transaction that every home has acknowledged has its outcome; one whose outcome is taken leaves the coordinator. -/
def State.txnSettled (s : State) (d t : Nat) : State :=
  match (s.nd d).txn? t with
  | none => s
  | some x =>
    if x.acks ≠ [] ∨ (x.phase ≠ .committed ∧ x.phase ≠ .aborted) then s
    else if x.taken then s.updNd d fun n => { n with txns := n.txns.filter fun y => y.id != t }
    else
      let c := x.outcome.getD x.code
      match x.host with
      | some (fn, q, k) => (s.updNd d fun n => { n with txns := n.txns.filter fun y => y.id != t }).hostOutcome fn q k c
      | none => s.updTxn d t fun y => { y with outcome := some (shownCode c) }

/-- The decision: it goes to every home but those that refused. -/
def State.txnDecide (s : State) (d t : Nat) (commit : Bool) (code : Nat) (homes : List Nat) : State :=
  let s1 := s.updTxn d t fun x =>
    { x with phase := if commit then .committed else .aborted, votes := [], acks := homes, decidedAt := s.cycle, code := code }
  (homes.foldl (fun s h => s.send d h (.decision (s.txnId d t) d commit)) s1).txnSettled d t

/-- NTXC begins (R333 step 1): each home gets its entries. A home that is not live makes it abort. -/
def State.prepareAll (s : State) (d t : Nat) : State :=
  match (s.nd d).txn? t with
  | none => s
  | some x =>
    let hs := s.txnHomes x
    if hs.any fun h => decide (h < 32) && !(s.die h).live then s.txnDecide d t false 2 []
    else if hs = [] then s.txnDecide d t true 0 []
    else hs.foldl (fun s h => s.send d h (.prepare { coord := d, txn := s.txnId d t, region := x.region
                                                     entries := x.entries.filter fun e => s.nameHub e.1 == h }))
      (s.updTxn d t fun x => { x with phase := .preparing, votes := hs, sentAt := s.cycle })

/-- One name is prepared, or refused with an outcome code (R329, R333). -/
def State.prepareName (s : State) (d : Nat) (p : Prepare) (key h : Word64) : Except Nat State :=
  let x := ((s.nd d).name? key).getD { key := key }
  if x.state = .prepared then .error 1
  else if (s.nd d).fullFor key then .error 3
  else if h ≠ 0#64 ∧ (s.reach p.region h).isNone then .error 6
  else
    let s1 := if h = 0#64 then s else s.hold (hobj h)
    .ok (s1.updNd d fun n => n.putName
      { x with state := .prepared, before := x.state, txn := p.txn, newobj := if h = 0#64 then 0#32 else hobj h
               since := s.cycle, newRegion := p.region, doubt := false })

/-- The names of a prepare in turn, until one is refused. -/
def State.prepareNames (s : State) (d : Nat) (p : Prepare) : List (Word64 × Word64) → Option Nat × State
  | [] => (none, s)
  | e :: r =>
    match s.prepareName d p e.1 e.2 with
    | .error c => (some c, s)
    | .ok s1 => s1.prepareNames d p r

/-- A PREPARED entry leaves its transaction: committed or as before; then the binds it held are applied. -/
def State.leavePrepared (s : State) (d : Nat) (x : Name) (commit : Bool) : State :=
  let y : Name := { x with state := x.before, txn := 0#32, newobj := 0#32, held := [], doubt := false }
  let s1 :=
    if commit then s.rebind d y (if x.newobj = 0#32 then none else some x.newobj) x.newRegion
    else ((if x.newobj = 0#32 then s else s.letGo x.newobj).updNd d fun n => n.putName y).serve d x.key
  (x.held.foldl (fun s b => s.applyBind d b) s1).updNd d fun n => n.tidy x.key

/-- A decision is applied to every name that a transaction holds PREPARED at a home. -/
def State.applyDecision (s : State) (d : Nat) (id : BitVec 32) (commit : Bool) : State :=
  ((s.nd d).names.filter fun x => x.state == .prepared && x.txn == id).foldl (fun s x => s.leavePrepared d x commit) s

/-- PREPARE_REQUEST (R333): prepare number `index` reaches a home, which votes. -/
def execPrepareRequest (s : State) : Out :=
  let d := s.focus.die
  .next (match (s.nd d).prepares[s.index]? with
    | none => s
    | some p =>
      let s1 := s.updNd d fun n => { n with prepares := dropAt n.prepares s.index }
      let t := fldN p.txn 0 6
      if (s.nd d).early p.stamp (p.entries.map (·.1)) = true then s
      else match s1.prepareNames d p p.entries with
      | (none, s2) => s2.send d p.coord (.vote t d true 0)
      | (some c, s2) => (s2.applyDecision d p.txn false).send d p.coord (.vote t d false c))

/-- PREPARE_REPLY_ARRIVAL (R333): vote number `index` reaches its coordinator. A vote after the decision is ignored. -/
def execPrepareReplyArrival (s : State) : Out :=
  let d := s.focus.die
  .next (match (s.nd d).voteIn[s.index]? with
    | none => s
    | some (t, h, yes, c) =>
      let s1 := s.updNd d fun n => { n with voteIn := dropAt n.voteIn s.index }
      match (s1.nd d).txn? t with
      | none => s1
      | some x =>
        if x.phase ≠ .preparing ∨ x.votes.contains h = false then s1
        else if yes = false then s1.txnDecide d t false c ((s1.txnHomes x).filter fun k => k != h)
        else
          let rest := x.votes.filter fun k => k != h
          if rest = [] then s1.txnDecide d t true 0 (s1.txnHomes x) else s1.updTxn d t fun x => { x with votes := rest })

/-- The vote limit for a home (R333). -/
def State.voteLimit (s : State) (d h : Nat) : Nat :=
  let f := (s.die d).fab
  4 * (f.repairLimit + 1) * (if h < 32 then f.tmoPanel else f.tmoPod)

/-- VOTE_LIMIT_EXPIRY (R333): the vote of a home of transaction number `index` has not come within the limit. -/
def execVoteLimitExpiry (home : Nat) (s : State) : Out :=
  let d := s.focus.die
  .next (match (s.nd d).txn? s.index with
    | none => s
    | some x =>
      if x.phase = .preparing ∧ x.votes.contains home = true ∧ x.sentAt + s.voteLimit d home ≤ s.cycle then
        s.txnDecide d x.id false 2 (s.txnHomes x)
      else s)

/-- DECISION_ARRIVAL (R333): decision number `index` reaches a home, which applies and acknowledges it. -/
def execDecisionArrival (s : State) : Out :=
  let d := s.focus.die
  .next (match (s.nd d).decisions[s.index]? with
    | none => s
    | some x =>
      if (s.nd d).early x.stamp ((s.nd d).keysOf x.txn) = true then s
      else ((s.updNd d fun n => { n with decisions := dropAt n.decisions s.index }).applyDecision d x.txn x.commit).send d x.coord
        (.decisionAck (fldN x.txn 0 6) d))

/-- DECISION_ACK_ARRIVAL (R333): acknowledgement number `index` reaches its coordinator. -/
def execDecisionAckArrival (s : State) : Out :=
  let d := s.focus.die
  .next (match (s.nd d).ackIn[s.index]? with
    | none => s
    | some (t, h) =>
      ((s.updNd d fun n => { n with ackIn := dropAt n.ackIn s.index }).updTxn d t fun x =>
        { x with acks := x.acks.filter fun k => k != h }).txnSettled d t)

/-- NTXC_ACK_TIMER (R346): 1,250,000 cycles after the decision of transaction number `index`, its outcome is known without the
missing acknowledgements. -/
def execNtxcAckTimer (s : State) : Out :=
  let d := s.focus.die
  .next (match (s.nd d).txn? s.index with
    | none => s
    | some x =>
      let decided := x.phase = .committed ∨ x.phase = .aborted
      if ¬decided ∨ x.outcome.isSome = true ∨ s.cycle < x.decidedAt + 1250000 then s
      else
        let c := if x.phase = .committed then 5 else x.code
        match x.host with
        | some (fn, q, k) => (s.updTxn d x.id fun y => { y with outcome := some c, taken := true }).hostOutcome fn q k c
        | none => s.updTxn d x.id fun y => { y with outcome := some (shownCode c) })

/-- What coordinator d answers to a home in doubt: its decision, ABORT where it has no record, none while it is undecided (R334). -/
def State.verdict (s : State) (d : Nat) (id : BitVec 32) : Option Bool :=
  match (s.nd d).txn? (fldN id 0 6) with
  | none => some false
  | some x => if x.phase = .committed then some true else if x.phase = .aborted then some false else none

/-- The coordinator of the transaction that holds a name is asked for its decision (R334). -/
def State.askCoordinator (s : State) (d : Nat) (x : Name) : State :=
  s.send d (s.txnHub x.txn) (.inquiry { txn := x.txn, home := d, key := x.key })

/-- TXN_INDOUBT (R334): a name has been PREPARED for 1,250,000 cycles. The region of its last binder is told once, and the
coordinator is asked, now and each 1,250,000 cycles after. -/
def execTxnIndoubt (key : BitVec 64) (s : State) : Out :=
  let d := s.focus.die
  .next (match (s.nd d).name? key with
    | none => s
    | some x =>
      if x.state ≠ .prepared ∨ s.cycle < x.since + 1250000 then s
      else
        let s1 := if x.doubt then s else s.post x.region 10 (x.txn.setWidth 64) key 0#64
        (s1.updNd d fun n => n.putName { x with since := s.cycle, doubt := true }).askCoordinator d x)

/-- TXN_SETTLE (R334, 16_message_engine.md R252): firmware of the die in focus answers the oldest question about that name from the coordinator's
decision record; one about an undecided transaction will be asked again. Where none has come and the name is in doubt here, its
coordinator is asked at once. -/
def execTxnSettle (key : BitVec 64) (s : State) : Out :=
  let d := s.focus.die
  .next (match (s.nd d).inquiries.find? fun q => q.key == key with
    | some q =>
      let s1 := s.updNd d fun n => { n with inquiries := eraseOne q n.inquiries }
      match s.verdict d q.txn with
      | none => s1
      | some c => s1.send d q.home (.decision q.txn d c)
    | none =>
      match (s.nd d).name? key with
      | none => s
      | some x => if x.state = .prepared ∧ x.doubt = true then s.askCoordinator d x else s)

/-- NTXA at commit (R345): the entry joins the transaction, a later one of the same key replacing it; its hold on the object ends. -/
def State.ntxaCommit (s : State) (p : Place) (t : Nat) (key h : Word64) : State :=
  let s1 := s.updTxn p.die t fun x => if x.begunBy p (s.ctx p).runNo = false then x else
    { x with asked := eraseOne key x.asked
             entries := if x.entries.any (fun e => e.1 == key) then x.entries.map fun e => if e.1 = key then (key, h) else e
                        else x.entries ++ [(key, h)] }
  if (s1.obj? h).isSome then s1.letGo (hobj h) else s1

/-! ### Snapshots and reclamation (R328, R336) -/

/-- The snapshot of an object for a region (R336): its ID, or the cause of its refusal. -/
def State.snapshot (s : State) (d region : Nat) (h : Word64) : Except Cause (BitVec 32 × State) :=
  match s.reach region h with
  | none => .error .rights
  | some o =>
    match s.freeObj d with
    | none => .error .nameCapacity
    | some (i, s1) =>
      let id := s.objId d i
      let table := o.table.map fun e => (e.1, if entV e.2 then setFld e.2 2 1 1 else e.2)
      let s2 : State := { s1 with frames := s1.frames.map fun f =>
        { f with share := f.share + ((o.table.filter fun e =>
            entV e.2 && entStack e.2 == f.stack && entFrame e.2 == f.no).length) } }
      let s3 := s2.setObj (hobj h) { o with table := table, refs := o.refs + 1 }
      .ok (id, (s3.setObj id { live := true, inc := (s.objOf id).inc, desc := o.desc, region := region, table := table, refs := 1
                               opens := [(region, 1)], source := some (hobj h) }).invalidate (hobj h) none)

/-- A host's new object is bound to the command's key by its home d: the one reference is the name's (29_host_firmware.md R379). -/
def State.hostBind (s : State) (d fn q n : Nat) (key : Word64) (id : BitVec 32) (region : Nat) : State :=
  let h := handleOf id (s.objOf id).inc
  let s1 := s.setObj id { s.objOf id with opens := [] }
  let s2 : State := { s1 with cmds := s1.cmds.map fun c =>
    if c.fn = fn ∧ c.q = q ∧ c.seq.toNat = n then { c with w1 := h } else c }
  s2.send d (s.nameHub key) (.bind { key := key, obj := some id, region := region, host := some (fn, q, n) })

/-- SNAPSHOT_REQUEST (R336, R347): request number `index` for a snapshot. -/
def execSnapshotRequest (s : State) : Out :=
  let d := s.focus.die
  .next (match (s.nd d).snaps[s.index]? with
    | none => s
    | some r =>
      match r.kind with
      | .snap h =>
        let s1 := s.updNd d fun n => { n with snaps := dropAt n.snaps s.index }
        match s1.snapshot d r.region h, r.host with
        | .error c, none => s1.answerReq d r.place r.serial r.index (.refused c) none
        | .error c, some (fn, q, n) => s1.hostDone fn q n c.code 0#64 0#64
        | .ok (id, s2), none => s2.answerReq d r.place r.serial r.index
            (.tokens (.val (Reg.ofH (handleOf id (s2.objOf id).inc))) none) (some (.made id r.region))
        | .ok (id, s2), some (fn, q, n) =>
          let key := ((s.cmds.find? fun c => c.fn == fn && c.q == q && c.seq.toNat == n).map fun c => c.args.getD 1 0#64).getD 0#64
          s2.hostBind d fn q n key id r.region
      | _ => s)

/-- A handler runs, or a saved one is kept, whose code is the object: it keeps the old code resident until it ends (R337). -/
def State.runsCode (s : State) (id : BitVec 32) : Bool :=
  let on (t : Tile) : Bool := t.ctxs.any fun c => c.2.phase != .idle && (hobj c.2.code == id && (s.obj? c.2.code).isSome)
  (s.tiles.any fun t => on t.2) || s.dies.any fun d => d.2.td.saved.any fun v => v.tiles.any fun t => on t.2.1

/-- RECLAIM (R328, R337): entry number `index` of the die's object table, whose count is 0, which has no window and is no running handler's
code. -/
def execReclaim (s : State) : Out :=
  let d := s.focus.die
  let id := s.objId d s.index
  let o := s.objOf id
  .next (if o.live = false ∨ o.refs ≠ 0 ∨ o.wins ≠ [] ∨ s.runsCode id = true then s
    else
      let s1 := s.invalidate id none
      let s2 := (o.table.filter fun e => entV e.2).foldl (fun s e => s.dropFrame (entStack e.2) (entFrame e.2)) s1
      let s3 := s2.setObj id { inc := o.inc + 1 }
      let s4 := s3.post o.region 7 (id.setWidth 64) 0#64 0#64
      match o.source with
      | some x => s4.letGo x
      | none => s4)

end Sys2Proof.Machine
end

