-- ==== Sys2Proof/Machine/Contexts.lean ====
section
/-! DEFINITION. The life of a context (06_block_engine.md R84, R95, R100, R101, R107, R108, 28_traps_preemption.md R353-R357,
11_tensor_access.md R173, R179): starts and ends of runs, fault records, trap starts, stalls, timeouts, drained tasks and barriers.
Marks: DEDUCED (log 13, 14, 16, 23); DESIGN CHOICE (log 64). -/

namespace Sys2Proof.Machine

/-! ### The end of a run -/

/-- The generators of a context are released, and the ports bound to them unbound (R173, 12_tae_instructions.md R189). -/
def State.releaseAgs (s : State) (p : Place) : State :=
  let t := s.tile p.die p.tile
  let mine (g : Nat) : Bool := (t.ag g).bound && (t.ag g).owner == p.ctx
  s.setTile p.die p.tile { t with
    ags := t.ags.filter fun a => !mine a.1
    ctxs := t.ctxs.map fun c => (c.1, { c.2 with ports := c.2.ports.filter fun b => !mine b.2 }) }

/-- A handler's run is over: its generators are released, its mailbox and frame freed, its windows and open transactions
dropped, and its context is IDLE (R84, R110, R173, R229, 25_name_directory.md R332). -/
def State.endRun (s : State) (p : Place) : State :=
  let c := s.ctx p
  let s1 := ((s.releaseAgs p).dropWindows (.handler p c.runNo)).dropTxns p
  (s1.updTile p.die p.tile fun t => t.endSource c.src).idleHandler p

/-- The task that runs on a tile ends FAULTED with a cause (28_traps_preemption.md R355, R356). -/
def State.faultTask (s : State) (d t : Nat) (c : Cause) : State :=
  match (s.tile d t).runTask with
  | none => s
  | some id => s.endTask d (idSlot id) 7 c.code 0 false false

/-- A FAULTED context is ended: context 0 ends its task; a handler context becomes IDLE, and so does context 0 where no task
runs (R356). -/
def State.endFaulted (s : State) (p : Place) (c : Cause) : State :=
  if p.ctx = 0 ∧ (s.tile p.die p.tile).runTask.isSome = true then s.faultTask p.die p.tile c else s.endRun p

/-- The context that a trap handler serves is ended where it is still FAULTED (R356). -/
def State.settleTrap (s : State) (p : Place) : State :=
  let c := s.ctx p
  let q : Place := { p with ctx := c.fctx.toNat }
  let x := s.ctx q
  if c.trapRun = true ∧ c.fended.contains c.fctx = false ∧ x.phase = .faulted then
    s.endFaulted q ((x.fault.map FaultRec.cause).getD .illegalOpcode)
  else s

/-- A handler ends by `HRET` (R110, R356). -/
def State.endHandler (s : State) (p : Place) : State := (s.settleTrap p).endRun p

/-! ### Starts (R100, R101, R354) -/

/-- Handlers may start on a tile: no loss of quorum, no debug halt and no save holds it. -/
def State.mayStart (s : State) (d t : Nat) : Bool := !(s.die d).stopped && (s.die d).halt.isNone && !s.saving d t

/-- HANDLER_START (R101): the lowest IDLE context takes the oldest start request; trap starts go first. -/
def execHandlerStart (s : State) : Out :=
  let d := s.focus.die
  let t := s.focus.tile
  let x := s.tile d t
  .next (match x.startQ, x.idleCtx with
    | q :: rest, some c =>
      if s.mayStart d t = false ∨ x.trapQ ≠ [] then s
      else s.opensWindow (((s.updTile d t fun y => { y with startQ := rest }).startHandler ⟨d, t, c⟩ q false).see ⟨d, t, c⟩) d q.region
    | _, _ => s)

/-- The first of two trap starts: recorded earlier, and in the lower context on a tie (R357). -/
def firstTrap (a : TrapStart) : List TrapStart → TrapStart
  | [] => a
  | b :: l =>
    firstTrap (if b.rec_.cycle < a.rec_.cycle ∨ (b.rec_.cycle = a.rec_.cycle ∧ b.ctx < a.ctx) then b else a) l

/-- TRAP_START (R354): the first trap start is taken by the lowest IDLE context. -/
def execTrapStart (s : State) : Out :=
  let d := s.focus.die
  let t := s.focus.tile
  let x := s.tile d t
  .next (match x.trapQ, x.idleCtx with
    | a :: l, some c =>
      if s.mayStart d t = false then s
      else
        let b := firstTrap a l
        s.opensWindow (((s.updTile d t fun y => { y with trapQ := y.trapQ.filter fun z => z != b }).startTrap ⟨d, t, c⟩ b.rec_).see ⟨d, t, c⟩) d b.rec_.region
    | _, _ => s)

/-! ### Fault records (R353, R355) -/

/-- The words of a fault record, in a register tagged VI32 (R353). -/
def FaultRec.reg (r : FaultRec) (tile : Word64) : Reg :=
  let ws := [r.word0, r.word1, r.code, r.d0, r.d1, BitVec.ofNat 64 r.cycle, tile, BitVec.ofNat 64 (r.region % 4096)]
  { tag := .vi32, bits := ofLanes 64 (ws.map BitVec.toNat) }

/-- No trap handler serves a fault of a context: its region names none that lives, or the context runs as a trap handler (R355). -/
def State.unserved (s : State) (c : Ctx) (r : FaultRec) : Bool :=
  let code := rcbWord (s.eff r.region 13) 4
  (c.trapRun && !r.ended) || code == 0#64 || (s.obj? code).isNone

/-- The fault of a context that no trap handler serves, while the context has not been ended for it. -/
def State.unservedFault (s : State) (p : Place) : Option FaultRec :=
  let c := s.ctx p
  c.fault.filter fun r => c.phase == .faulted && c.pend.contains r && !r.noTrap && s.unserved c r

/-- The context of such a fault is ended at once, and its record is written all the same. A fault in a trap handler ends the task of the tile
with the handler's cause, or, where none runs, the context and the one that it serves (R355, R356). -/
def State.endUnserved (s : State) (p : Place) (r : FaultRec) : State :=
  let c := s.ctx p
  let s1 := s.updCtx p fun c => { c with pend := c.pend.map fun x => if x = r then { x with noTrap := true } else x }
  if c.trapRun = false then s1.endFaulted p r.cause
  else if (s.tile p.die p.tile).runTask.isSome then s1.faultTask p.die p.tile r.cause
  else s1.endHandler p

/-- FAULT_RECORD_WRITE (R353-R355, R361): the context in focus is ended where no trap handler serves its fault. Else, four cycles after the fault, its
oldest record fills its entry once that is FREE, and a trap start is queued where one serves it. -/
def execFaultRecordWrite (s : State) : Out :=
  let p := s.focus
  let c := s.ctx p
  let t := s.tile p.die p.tile
  .next (if (s.die p.die).stopped = true then s
    else match s.unservedFault p, c.pend with
    | some r, _ => s.endUnserved p r
    | none, [] => s
    | none, r :: rest =>
      let queues := !r.noTrap && !s.unserved c r
      if s.cycle < r.cycle + 4 ∨ (t.lb (48 + p.ctx)).full = true
          ∨ (queues = true ∧ (t.trapQ.any fun x => x.ctx == p.ctx) = true) then s
      else
        let v := r.reg (tileWord s.moduleId p.die p.tile)
        let s1 := (s.updCtx p fun c => { c with pend := rest }).updTile p.die p.tile fun t =>
          t.setLb (48 + p.ctx) { bits := v.bits, tag := v.tag, full := true }
        if queues then s1.updTile p.die p.tile fun t => { t with trapQ := t.trapQ ++ [⟨p.ctx, r⟩] } else s1)

/-! ### Limits (R95, R108, 26_nd_instructions.md R341) -/

/-- The stall count of the block in flight at p has run out. -/
def State.stalled (s : State) (p : Place) : Bool :=
  let c := s.ctx p
  match c.run with
  | none => false
  | some r => c.phase == .running && r.live && !r.committing && decide (r.decodedAt + c.tmoBlock.toNat ≤ s.cycle)

/-- BLOCK_STALL_TIMEOUT (R95): `TMO_BLOCK` cycles after its decode the block has not committed. -/
def execBlockStallTimeout (s : State) : Out :=
  let p := s.focus
  let c := s.ctx p
  .next (if s.stalled p = true ∧ (s.die p.die).stopped = false ∧ s.haltCovers p.die c.region = false then
      s.faultAt p none .blockStall 0#64 0#64
    else s)

/-- KIND of a wait (22_task_dispatcher.md R310). -/
def WaitKind.num : WaitKind → Nat
  | .tokens => 0 | .timeline => 1 | .mailbox => 2 | .latch => 3 | .barrier => 4 | .join => 5 | .opn => 6
  | .replySlot => 7 | .landing => 8 | .allowance => 9

/-- A `GSET` whose window waits while its object's list is full (03_memory_model.md R51). -/
def State.windowWaits (s : State) (p : Place) (serial index : Nat) : Bool :=
  s.dies.any fun d => d.2.nd.windows.any fun q => q.place == p && q.serial == serial && q.index == index
    && match q.kind with
      | .window _ h _ => decide (winLimit ≤ (s.objOf (hobj h)).wins.length)
      | _ => false

/-- The request of such a `GSET` is taken out. -/
def State.dropWindowReq (s : State) (p : Place) (serial index : Nat) : State :=
  { s with dies := s.dies.map fun d => (d.1, { d.2 with nd := { d.2.nd with
      windows := d.2.nd.windows.filter fun q => !(q.place == p && q.serial == serial && q.index == index) } }) }

/-- A wait for tokens is timed for a fence, a service and a window that meets a full list; other replies of hubs are not waits
under `TMO_WAIT` (R163, R188, 28_traps_preemption.md R360). -/
def State.timed (s : State) (p : Place) (r : Run) (w : Wait) : Bool :=
  w.kind != .tokens ||
  match r.instr w.index with
  | some (.fence _ _ _ _ _) | some (.svc _ _ _) => true
  | _ => s.windowWaits p r.serial w.index

/-- The answer of a hub to the instruction of an index is on its way: at its die, or in a message (25_name_directory.md R330, 26_nd_instructions.md
R339). -/
def State.answered (s : State) (p : Place) (serial index : Nat) : Bool :=
  let mine (r : Reply) : Bool := r.place == p && r.serial == serial && r.index == index
  let carries (m : Msg) : Bool := match m.body with
    | .reply r => m.dst == p.die && mine r
    | _ => false
  s.dies.any fun d => d.2.nd.replies.any mine || d.2.fab.outbox.any carries || d.2.fab.retained.any fun r => carries r.msg

/-- A wait of the instruction of an index has exceeded `TMO_WAIT`: an open that its home has not served or refused gives a null and status 2
(26_nd_instructions.md R341), any other wait faults. -/
def State.waitOver (s : State) (p : Place) (r : Run) (w : Wait) : State :=
  if w.kind = .opn then
    if s.answered p r.serial w.index then s else
    let h := r.shape w.index
    ((s.dropOpen p r.serial w.index).updRun p fun x => x.mark w.index h (some (.cmd none .confirm))).deliverAll p (some w.index)
      h.targets [.null, .val (Reg.ofW 2#64)]
  else (s.dropWindowReq p r.serial w.index).faultAt p (some w.index) .waitTimeout (BitVec.ofNat 64 w.kind.num) w.detail

/-- WAIT_TIMEOUT_EXPIRY (R95, R108): the wait at the barrier of the context in focus, or of its instruction of that index, exceeds `TMO_WAIT`. Where
the stall count runs out in the same cycle, the block faults `BLOCK_STALL`. -/
def execWaitTimeoutExpiry (s : State) : Out :=
  let p := s.focus
  let c := s.ctx p
  let past (since : Nat) : Bool := decide (since + c.tmoWait.toNat < s.cycle)
  .next (if c.phase ≠ .running ∨ (s.die p.die).stopped = true ∨ s.haltCovers p.die c.region = true
      ∨ s.saving p.die p.tile = true then s
    else match c.atBarrier, c.run with
      | some (k, since), none =>
        if past since then s.raiseFault p { cause := .waitTimeout, bar := true, d0 := 4#64, d1 := BitVec.ofNat 64 k } else s
      | _, some r =>
        match r.waits.find? fun w => w.index == s.index with
        | none => s
        | some w =>
          if r.committing = true ∨ past w.since = false ∨ s.timed p r w = false then s
          else if s.stalled p then s.faultAt p none .blockStall 0#64 0#64
          else s.waitOver p r w
      | none, none => s)

/-! ### Barriers and the end of a tile's part (R84, R107, R109) -/

/-- The rank of a tile in a rectangle (22_task_dispatcher.md R290). -/
def Rect.rank (r : Rect) (t : Nat) : Nat := ((List.range (r.w * r.h)).find? fun k => r.tiles.getD k 0 == t).getD 0

/-- Context 0 of a tile leaves barrier instance k; its streams read again what others wrote before their arrival
(03_memory_model.md R45). -/
def Tile.leaveBarrier (t : Tile) (k : Nat) : Tile :=
  let c : Ctx := look {} t.ctxs 0
  if (c.atBarrier.any fun w => w.1 == k) = true then
    { t with ctxs := put t.ctxs 0 { c with atBarrier := none }
             ags := t.ags.map fun a => (a.1, if a.2.owner = 0 then { a.2 with ahead := [] } else a.2) }
  else t

/-- Barrier instances of a RUNNING task at which every live tile has arrived, or has reported its part done, are passed by its own
tiles. -/
def State.passBarriers (s : State) (d n : Nat) : State :=
  let x := s.slot d n
  match if s.stateOf d n = 5 then x.rect else none with
  | none => s
  | some r =>
    let ts := s.gangTiles d n
    let here (l : List Nat) (t : Nat) : Bool := l.contains (r.rank t) || x.reported.any fun e => e.1 == r.rank t
    let passed := (s.die d).td.barriers.filter fun b => b.1 == n && ts.all (here b.2.2)
    passed.foldl (fun s b =>
      let s1 := s.updTd d fun t => { t with barriers := t.barriers.filter fun e => e != b }
      ts.foldl (fun s t => s.updTile d t fun y => y.leaveBarrier b.2.1) s1) s

/-- BARRIER_ARRIVAL (R107): arrival number `index` on its way to the die's dispatcher is counted. -/
def execBarrierArrival (s : State) : Out :=
  let d := s.focus.die
  .next (match (s.die d).td.arrivals[s.index]? with
    | none => s
    | some (n, k, rank) =>
      let s1 := s.updTd d fun t => { t with
        arrivals := dropAt t.arrivals s.index
        barriers :=
          if t.barriers.any fun b => b.1 == n && b.2.1 == k then
            t.barriers.map fun b => if b.1 = n ∧ b.2.1 = k then (n, k, b.2.2 ++ [rank]) else b
          else t.barriers ++ [(n, k, [rank])] }
      s1.passBarriers d n)

/-- CONTEXT_DRAINED (R84, R19, R179): every command of the DRAINING context 0 in focus's tile has completed; the tile reports its part done. A
recorded fault that nothing has raised ends the task FAULTED with its cause. Where no task runs the context's run is over. -/
def execContextDrained (s : State) : Out :=
  let p : Place := { s.focus with ctx := 0 }
  let c := s.ctx p
  .next (if c.phase ≠ .draining ∨ c.done ≠ c.issue ∨ s.saving p.die p.tile = true ∨ (s.die p.die).stopped = true then s
    else
      let low := [Engine.ce, .me, .mse].findSome? fun e => c.lowestFault e (c.issue.get e)
      match low, (s.tile p.die p.tile).task with
      | _, none => s.endRun p
      | some f, some _ => s.faultTask p.die p.tile f.cause
      | none, some id =>
        let n := idSlot id
        let x := s.slot p.die n
        let rank := (x.rect.map fun r => r.rank p.tile).getD 0
        let s1 := (((s.releaseAgs p).dropTxns p).updCtx p fun c => { c with phase := .idle }).setSlot p.die n
          { x with reported := x.reported ++ [(rank, c.texit)] }
        s1.passBarriers p.die n)

end Sys2Proof.Machine
end

