-- ==== Sys2Proof/Machine/System.lean ====
section
/-! DEFINITION. The SYS instructions, what they do when they fire and the context image
(28_traps_preemption.md R359-R366). Marks: DEDUCED (log 11, 17, 18, 25, 46, 54, 63); DESIGN CHOICE (log 4, 12, 22, 55,
77). -/

namespace Sys2Proof.Machine

/-! ### The context image (R362) -/

/-- Registers in the image of context n. -/
def imageRegs (n : Nat) : Nat := if n = 0 then 128 else 32

/-- Bytes of the image of context n. -/
def imageSize (n : Nat) : Nat := 512 + 256 * imageRegs n

/-- STATE of the image. -/
def Phase.imageState : Phase → Nat
  | .idle => 0 | .running => 1 | .faulted => 2 | .draining => 3 | .saved => 1

/-- RECF of an engine: the lowest unraised fault. -/
def Ctx.recfWord (c : Ctx) (e : Engine) : Word64 :=
  let top := (c.recf.map RecFault.num).foldl max 0
  match c.lowestFault e top with
  | none => 0#64
  | some f => BitVec.ofNat 64 (f.num * 256 + f.cause.code)

/-- Words 0 to 31 of an image. -/
def Ctx.imageHead (c : Ctx) (n : Nat) (task : BitVec 32) : List Word64 :=
  let w (k : Nat) : Word64 := BitVec.ofNat 64 k
  let ports := ((List.range 8).map fun p => match look? c.ports p with
    | some g => (128 + g % 8) * 2 ^ (8 * p)
    | none => 0).sum
  let ras := (List.range 8).map fun i =>
    w ((c.ras.getD (2 * i) 0#32).toNat + (c.ras.getD (2 * i + 1) 0#32).toNat * 2 ^ 32)
  [w (task.toNat * 2 ^ 32 + 0x4358 * 2 ^ 16 + imageRegs n * 256 + c.phase.imageState * 16 + b2n c.super * 8 + n), c.code,
   w (c.lastExit.toNat * 2 ^ 32 + c.block.toNat),
   w ((c.ras.length + c.spilled) * 2 ^ 48 + c.raslim.toNat * 2 ^ 24 + c.rasptr.toNat),
   w (c.srseed.toNat * 2 ^ 32 + b2n c.sat * 256 + c.round), w (c.tmoWait.toNat * 2 ^ 32 + c.tmoBlock.toNat),
   w c.issue.ce, w c.issue.me, w c.issue.mse, w c.done.ce, w c.done.me, w c.done.mse, w ports]
  ++ ras ++ [w c.ras.length, c.recfWord .ce, c.recfWord .me, c.recfWord .mse,
   if c.phase = .faulted then (c.fault.map FaultRec.word0).getD 0#64 else 0#64]
  ++ List.replicate 6 0#64

/-- The tags of registers, a nibble each. -/
def Ctx.imageTags (c : Ctx) (k : Nat) : Nat := ((List.range k).map fun i => (c.reg i).tag.num * 2 ^ (4 * i)).sum

/-- The image of context n. -/
def Ctx.image (c : Ctx) (n : Nat) (task : BitVec 32) : List Byte :=
  wordsBytes (c.imageHead n task) ++ leBytes 64 (c.imageTags (imageRegs n)) ++ List.replicate 192 0#8
  ++ (List.range (imageRegs n)).flatMap fun i => leBytes 256 (c.reg i).bits.toNat

/-- Word i of an image. -/
def imageWord (b : List Byte) (i : Nat) : Word64 := BitVec.ofNat 64 (leNat ((b.drop (8 * i)).take 8))

/-- Check 4 of R364. -/
def imageOk (n : Nat) (b : List Byte) : Bool :=
  let w := imageWord b
  decide (fldN (w 0) 16 16 = 0x4358 ∧ fldN (w 0) 8 8 = imageRegs n ∧ (fldN (w 0) 4 4 = 1 ∨ fldN (w 0) 4 4 = 2)
    ∧ fldN (w 2) 35 29 = 0 ∧ fldN (w 4) 9 23 = 0 ∧ fldN (w 4) 3 5 = 0 ∧ (w 21).toNat ≤ 16)
    && ((b.drop 208).take 48).all (· == 0#8) && ((b.drop 320).take 192).all (· == 0#8)

/-- The faults that an image records on its numbers. The image does not say whether a save has merged others into one (R362): bit e of k says it of
engine e. -/
def imageFaults (k : Nat) (b : List Byte) : List RecFault :=
  [Engine.ce, .me, .mse].filterMap fun e =>
    let w := imageWord b (22 + e.num)
    (Cause.ofCode (fldN w 0 8)).map fun c => { eng := e, num := w.toNat / 256, cause := c, more := k.testBit e.num }

/-- A context takes every field of an image; it is RUNNING and decodes BLOCK. It waits at no barrier, also where the image is of a
context that faulted `WAIT_TIMEOUT` at one: 07_be_control.md R108 lets a resume at the barrier's target wait again, R364 has the context
decode BLOCK, and the model follows R364 here (log 63). The image does not
tell whether it runs as a trap handler: it does not; and it keeps the region that it had (log 18). -/
def Ctx.restore (c : Ctx) (n k : Nat) (b : List Byte) : Ctx :=
  let w := imageWord b
  let held := (w 21).toNat
  let ports := (List.range 8).filterMap fun p => if bit (w 12) (8 * p + 7) then some (p, fldN (w 12) (8 * p) 3) else none
  let ras := (List.range held).map fun i => BitVec.ofNat 32 (leNat ((b.drop (104 + 4 * i)).take 4))
  let tags := leNat ((b.drop 256).take 64)
  let regs := (List.range (imageRegs n)).map fun i =>
    (i, Reg.clean { tag := Tag.ofNum (tags / 2 ^ (4 * i) % 16), bits := BitVec.ofNat 2048 (leNat ((b.drop (512 + 256 * i)).take 256)) })
  { c with
    phase := .running, super := bit (w 0) 3, code := w 1, lastExit := fld (w 2) 32 3, block := fld (w 2) 0 32
    spilled := fldN (w 3) 48 16 - held, raslim := BitVec.ofNat 24 (fldN (w 3) 27 21 * 8)
    rasptr := BitVec.ofNat 24 (fldN (w 3) 3 21 * 8)
    srseed := if fldN (w 4) 32 32 = 0 then 1#32 else fld (w 4) 32 32
    sat := bit (w 4) 8, round := if fldN (w 4) 0 3 < 5 then fldN (w 4) 0 3 else 0
    tmoWait := fld (w 5) 32 32, tmoBlock := fld (w 5) 0 32
    issue := { ce := (w 6).toNat, me := (w 7).toNat, mse := (w 8).toNat }
    done := { ce := (w 9).toNat, me := (w 10).toNat, mse := (w 11).toNat }, doneOut := []
    base := { ce := (w 9).toNat, me := (w 10).toNat, mse := (w 11).toNat }
    ports := if n = 0 then ports else [], ras := ras, recf := imageFaults k b
    faultRec := if w 25 = 0#64 then c.faultRec else setFld (w 25) 16 3 0
    regs := regs.filter fun r => r.2 != {}
    reuse := [], run := none, kind := none, fault := none, atBarrier := none, pend := [], bkptSkip := false
    trapRun := false, fended := [] }

/-! ### SVC (R360, 29_host_firmware.md R381) -/

/-- The 32-bit hardware counters of a die that firmware copies to the life log, by their index: those of its fabric interface and the three
of each exchange destination (17_erasure_coding.md R266, 16_message_engine.md R247). -/
def Die.counters (x : Die) : List (Nat × Nat) :=
  let c := x.fab.counters
  ([c.lateFrag, c.fragBad, c.decodes, c.repairs, c.attempts, c.givenup, c.busys].map BitVec.toNat ++
    x.xu.dests.flatMap fun e => [e.2.sent, e.2.overflowed, e.2.dropped]).zip
    ((List.range 7) ++ x.xu.dests.flatMap fun e => [8 + 3 * e.1, 9 + 3 * e.1, 10 + 3 * e.1]) |>.map fun y => (y.2, y.1)

/-- The life-log index of hardware counter i of die d. -/
def hardCounter (d i : Nat) : Nat := 0x400 + 256 * d + i

/-- A life-log counter grows (29_host_firmware.md R382). -/
def State.count (s : State) (i : Nat) : State := { s with counts := put s.counts i (look 0 s.counts i + 1) }

/-- Life-log counter indices: retrains and downs of a panel link, machine checks of a die. -/
def retrainCounter (l : Nat) : Nat := 0x100 + l

@[inherit_doc retrainCounter]
def downCounter (l : Nat) : Nat := 0x200 + l

@[inherit_doc retrainCounter]
def checkCounter (d : Nat) : Nat := 0x300 + d

/-- The life-log index of the fragments lost on a chord from a hub to another, or on a switch plane (R382). -/
def lossCounter (src dst chord : Nat) : Nat :=
  if src < 32 ∧ dst < 32 then 0x4000 + 4 * (32 * src + dst) + chord else 0x8000 + chord

/-- The life-log index of the uncorrectable errors of a die (R382). -/
def errorCounter (d : Nat) : Nat := 0x380 + d

/-- What the hardware counters have grown by since the last epoch, each modulo 2³², and each die's errors. -/
def State.grownCounts (s : State) : List (Nat × Nat) :=
  s.dies.flatMap fun d => (d.2.counters.map fun c =>
    (hardCounter d.1 c.1, (c.2 + 2 ^ 32 - ((s.epochBase.find? fun b => b.1 == (d.1, c.1)).map (·.2)).getD 0) % 2 ^ 32))
    ++ [(errorCounter d.1, d.2.errors)]

/-- The total of a life-log counter or histogram (29_host_firmware.md R382). -/
def State.lifeTotal (s : State) (i : Nat) : Nat :=
  look 0 (s.counts ++ s.grownCounts) i + (s.lifeLog.map fun e => look 0 e.counts i).sum
    + (look [] s.hists i).sum + (s.lifeLog.map fun e => (look [] e.hists i).sum).sum

/-- The group of a die: the dies live to it, which have not missed three heartbeats in a row, that it reaches over links that are up. -/
def State.groupOf (s : State) (d : Nat) : List Nat :=
  let here := s.sites d
  (List.range 32).filter fun e => e == d || (decide (look 0 (s.die d).missed e < 3) && here.contains (dieSite e))

/-- A group may preside (R251). -/
def State.mayPreside (s : State) (g : List Nat) : Bool :=
  decide (17 ≤ g.length) || (g.length == 16 && match s.members.foldl (fun m x => min m x) 32 with
    | 32 => false
    | low => g.contains low)

/-- The live dies of the group that may preside. -/
def State.quorum (s : State) : List Nat :=
  match (List.range 32).find? fun d => (s.die d).live && s.mayPreside (s.groupOf d) with
  | none => []
  | some d => (s.groupOf d).filter fun e => (s.die e).live

/-- The presiding die and whether the module holds a quorum: word 2 of `PARTSTAT` (R379). -/
def State.partWord (s : State) : Word64 := BitVec.ofNat 64 (s.presiding.getD 0 + 256 * b2n (s.quorum != []))

/-- The live C-dies of the presiding group: word 1 of `PARTSTAT` (R379). -/
def State.liveWord (s : State) : Word64 := BitVec.ofNat 64 ((s.quorum.map fun d => 2 ^ d).sum)

/-- What firmware replies to a service, by the context at p: none where it judges a protection violation. -/
def State.service (s : State) (p : Place) (n v : Nat) : Option Word64 :=
  let c := s.ctx p
  if n = 0 then some (BitVec.ofNat 64 (s.boot.svn.toNat * 2 ^ 32 + (Config.buildNumber s.boot.digest).toNat))
  else if n = 1 then some (BitVec.ofNat 64 (s.lifeTotal v))
  else if n = 2 then some s.liveWord
  else if n = 3 then
    some (match s.ring c.region with
      | none => 0#64
      | some (id, k) =>
        let i := leNat (s.objRead id 0 8)
        BitVec.ofNat 64 (if 1 ≤ i ∧ i < k then i else 1))
  else if n = 0x10 then
    if c.super = false then none
    else if 1 < v then some (BitVec.allOnes 64)
    else some (BitVec.ofNat 64 (b2n (s.die p.die).dbgen))
  else some (BitVec.allOnes 64)

/-- A protection violation freezes a master; its region is told (R368). -/
def State.freeze (s : State) (who : Master) (held : List Word64) (region : Nat) (word : Word64) : State :=
  let t : State := { s with frozen := s.frozen ++ [{ who := who, held := held }], freeCtr := s.freeCtr + 1 }
  t.post region 11 (Config.freeValue s.freeCtr) word 0#64

/-- SVC (R360). -/
def svcBody : List Reg → State → Act
  | [n, v], s =>
    let p := s.focus
    let c := s.ctx p
    match c.run with
    | none => .notYet
    | some r =>
      if n.tag ≠ .i64 ∨ v.tag ≠ .i64 then .flt .tagFault
      else if fldN n.w 16 48 ≠ 0 then .flt .reservedField
      else if p.ctx ≠ 0 ∧ c.super = false then .flt .handlerWait
      else if r.asked.any fun x => x.1 == s.index then .notYet
      else match s.service p n.w.toNat v.w.toNat with
        | some w => askNow (.cmd none (.svc n.w v.w)) (fun s => (Result.w w, none, s)) s
        | none =>
          let s1 := s.updRun p fun r => { r with asked := r.asked ++ [(s.index, .cmd none (.svc n.w v.w))] }
          .waitIn .tokens 0#64 ((s1.updCtx p fun c => { c with frozen := true }).freeze (.context p)
            [n.w, v.w, BitVec.ofNat 64 s.index] c.region n.w)
  | _, _ => .notYet

@[inherit_doc svcBody]
def execSvc (p : BitVec 2) (l : BitVec 5) (t : BitVec 7) (s : State) : Out :=
  .next (fire (shapeOf (.svc p l t) s.index) svcBody s)

/-! ### BKPT (R361) -/

/-- The regions that have a task placed on a die. -/
def Die.regions (x : Die) : List Nat :=
  ((x.td.slots.filter fun y => y.2.kind == .task && y.2.rect.isSome).map fun y => Rec.region y.2.raw).eraseDups

/-- A debug halt of die d begins or ends: its own counts hear of it at once, the other dies by a message (R311, 17_erasure_coding.md R253). -/
def State.tellHalt (s : State) (d : Nat) (on : Bool) (regions : List Nat) : State :=
  ((List.range 32).filter fun e => (s.die e).live || e == d).foldl (fun s e => s.send d e (.halt d on regions)) s

/-- A die enters debug halt (R311). -/
def State.debugHalt (s : State) (d : Nat) : State :=
  if (s.die d).halt.isSome then s
  else (s.updDie d fun x => { x with halt := some s.cycle }).tellHalt d true (s.die d).regions

/-- BKPT (R361): the block faults; with DBGEN set the die halts. -/
def execBkpt (p : BitVec 2) (l : BitVec 5) (k : BitVec 6) (s : State) : Out :=
  .next (fire (shapeOf (.bkpt p l k) s.index) (fun _ s =>
    if (s.ctx s.focus).bkptSkip then .done [] (some (.idle none)) s
    else .faultIn .bkpt (k.setWidth 64) 0#64
      (if (s.die s.focus.die).dbgen then s.debugHalt s.focus.die else s)) s)

/-! ### CTXSV and CTXRS (R363, R364) -/

/-- The checks on an image's address. -/
def imageCheck (n : Nat) (a : Word64) : Option Act :=
  if a.toNat % 32 ≠ 0 then some (.fault .align a 0#64)
  else if lsSize < a.toNat + imageSize n then some (.fault .lsBounds a 0#64)
  else none

/-- CTXSV (R363): save a faulted context's image, at commit. -/
def execCtxsv (p : BitVec 2) (l : BitVec 5) (s : State) : Out :=
  .next (fire (shapeOf (.ctxsv p l) s.index) (fun v s => match v with
    | [c, a] =>
      let n := c.w.toNat
      let x := s.ctx { s.focus with ctx := n }
      if c.tag ≠ .i64 ∨ a.tag ≠ .i64 then .flt .tagFault
      else if 8 ≤ n ∨ n = s.focus.ctx then .flt .reservedField
      else if x.phase ≠ .faulted then .flt .rights
      else match imageCheck n a.w with
        | some f => f
        | none =>
          match [Engine.ce, .me, .mse].find? fun e => x.done.get e != x.issue.get e with
          | some e => .wait .timeline (BitVec.ofNat 64 e.num)
          | none => .done [] (some (.cmd none (.ctxsv n a.w.toNat))) s
    | _ => .notYet) s)

/-- CTXRS (R364): the checks, on the image as a load at the command's LSID reads it. -/
def ctxrsBody (l : Nat) : List Reg → State → Act
  | [c, a], s =>
    let p := s.focus
    let n := c.w.toNat
    let x := s.ctx { p with ctx := n }
    gated false l (fun r s =>
      if c.tag ≠ .i64 ∨ a.tag ≠ .i64 then .flt .tagFault
      else if 8 ≤ n ∨ n = p.ctx then .flt .reservedField
      else if ¬(x.phase = .faulted ∨ (n ≠ 0 ∧ x.phase = .idle)) then .flt .rights
      else match imageCheck n a.w with
        | some f => f
        | none =>
          match s.loadLocal r l a.w.toNat (imageSize n) with
          | none => .flt .uncorrectable
          | some b =>
            if imageOk n b = false then .flt .reservedField
            else if n = 0 ∧ fld (imageWord b 0) 32 32 ≠ s.taskOn p then .flt .rights
            else .done [] (some (.cmd none (.ctxrs n b))) s) s
  | _, _ => .notYet

/-- CTXRS (R364): restore a context from an image, at commit. -/
def execCtxrs (p : BitVec 2) (l : BitVec 5) (s : State) : Out :=
  .next (fire (shapeOf (.ctxrs p l) s.index) (ctxrsBody l.toNat) s)

/-! ### TLBI (R365) -/

/-- TLBI (R365): invalidate translations, at commit. -/
def execTlbi (p : BitVec 2) (l : BitVec 5) (k : BitVec 2) (s : State) : Out :=
  .next (fire (shapeOf (.tlbi p l k) s.index) (fun v s => match v with
    | [h, i] =>
      if bindTag h = false ∨ i.tag ≠ .i64 then .flt .tagFault
      else if i.w.toInt < -1 then .flt .reservedField
      else if h.tag = .hndl ∧ (s.obj? h.w).isNone then .flt .rights
      else .done [] (some (.cmd none (.tlbi k.toNat (if h.tag = .hndl then h.w else 0#64) i.w))) s
    | _ => .notYet) s)

end Sys2Proof.Machine
end

