-- ==== Sys2Proof/Machine/Copies.lean ====
section
/-! DEFINITION. The copy engine and the Dealer: issue, start and completion of copies (11_tensor_access.md R178-R180,
R388, 12_tae_instructions.md R191-R196), and the on-chip map (06_block_engine.md R102). Marks: DEDUCED (log 11, 24,
25); DESIGN CHOICE (log 3, 7, 62). -/

namespace Sys2Proof.Machine

/-! ### Bits of the local store -/

/-- A value of w bits is written at a bit offset of a tile's local store. -/
def State.pokeLs (s : State) (d t b w v : Nat) : State :=
  let p : Place := ⟨d, t, 0⟩
  if w = 4 then
    let x := leNat (s.readLs p (b / 8) 1)
    s.writeLs p (b / 8) [BitVec.ofNat 8 (x - x / 2 ^ (b % 8) % 16 * 2 ^ (b % 8) + v % 16 * 2 ^ (b % 8))]
  else s.writeLs p (b / 8) (leBytes (w / 8) v)

/-- The value of w bits at a bit offset of a tile's local store. -/
def State.peekLs (s : State) (d t b w : Nat) : Nat :=
  let p : Place := ⟨d, t, 0⟩
  if w = 4 then leNat (s.readLs p (b / 8) 1) / 2 ^ (b % 8) % 16 else leNat (s.readLs p (b / 8) (w / 8))

/-- Values of w bits each are written one after another from local address a on. -/
def State.image (s : State) (d t a w : Nat) (vals : List Nat) : State :=
  ((List.range vals.length).zip vals).foldl (fun s x => s.pokeLs d t (8 * a + x.1 * w) w x.2) s

/-! ### The on-chip map (R102) -/

/-- A range of a tile's window. -/
inductive Range where
  | store | landing | tags | accs | boxes | none
  deriving DecidableEq, Repr

/-- The range of an offset in a window, with the offset in the range and what is left of the range. -/
def mapRange (o : Nat) : Range × Nat × Nat :=
  let inR (base size : Nat) : Bool := decide (base ≤ o ∧ o < base + size)
  if o < lsSize then (.store, o, lsSize - o)
  else if inR 0x1000000 0x4000 then (.landing, o - 0x1000000, 0x1004000 - o)
  else if inR 0x1010000 0x200 then (.tags, o - 0x1010000, 0x1010200 - o)
  else if inR 0x2000000 0x4000 then (.accs, o - 0x2000000, 0x2004000 - o)
  else if inR 0x3000000 0x2000 then (.boxes, o - 0x3000000, 0x3002000 - o)
  else (.none, 0, 0)

/-- Tile and offset of a map address; none outside the windows. -/
def mapTile (a : Nat) : Option (Nat × Nat) :=
  let b := a - 0x1000000000
  if 0x1000000000 ≤ a ∧ b / 0x4000000 < 144 then some (b / 0x4000000, b % 0x4000000) else none

/-- Bytes written from an offset of the landing data on: entries change their bits, not their state. -/
def Tile.writeLanding (t : Tile) (o : Nat) (bs : List Byte) : Tile :=
  ((List.range bs.length).zip bs).foldl (fun t x =>
    let k := (o + x.1) / 256
    let l := t.lb k
    t.setLb k { l with bits := setFld l.bits ((o + x.1) % 256 * 8) 8 x.2.toNat }) t

/-- LB_TAG_STATE_WRITE (R102, R99): a write that includes byte 0 of entry `index`'s tag and state word sets the tag from its
bits 3:0 and makes the entry FULL. Entries 48 to 55, which the fault mechanism alone fills, it leaves as they are (28_traps_preemption.md R353). -/
def execLbTagStateWrite (byte : BitVec 8) (s : State) : Out :=
  .next (if s.index < 48 ∨ (56 ≤ s.index ∧ s.index < 64) then
    s.updTile s.focus.die s.focus.tile fun t =>
      t.setLb s.index { t.lb s.index with tag := Tag.ofNum (byte.toNat % 16), full := true }
  else s)

/-- Bytes written from an offset of the mailbox configurations on, mailbox by mailbox; a write that R228 refuses
changes nothing. -/
def Tile.writeBoxes (t : Tile) (o : Nat) (bs : List Byte) : Tile :=
  (List.range 63).foldl (fun t m =>
    let old := leBytes 96 (t.mb m).read.toNat
    let new := (List.range 96).map fun i =>
      if o ≤ 0x80 * m + i ∧ 0x80 * m + i < o + bs.length then bs.getD (0x80 * m + i - o) 0#8 else old.getD i 0#8
    let met := decide (o < 0x80 * m + 128 ∧ 0x80 * m < o + bs.length)
    if met && t.mbxOk m { words := mbxKeep (wordsOf new) } then t.writeMb m (wordsOf new) else t) t

/-! ### Issue (R191-R196) -/

/-- Commands that the copy queue holds, and that it runs at once (R179). -/
def copyLimit : Nat := 32

@[inherit_doc copyLimit]
def copyRunning : Nat := 4

def Tile.copyFull (t : Tile) : Bool := decide (copyLimit ≤ t.copyQ.length)

/-- Bits of an image of a geometry register's window. -/
def imageBits (c : BitVec 512) (d : Desc) : Nat := (cgExt c).volume * d.bits

/-- An image lies at a multiple of 32 within the local store (R192). -/
def imageFits (c : BitVec 512) (d : Desc) (a : Nat) : Bool := decide (a % 32 = 0 ∧ a + imageBits c d / 8 ≤ lsSize)

/-- The rectangle of the task that runs on a tile. -/
def State.gangRect (s : State) (d t : Nat) : Option Rect :=
  match (s.tile d t).runTask with
  | some id => (s.slot d (idSlot id)).rect
  | none => none

/-- Fields of `DEAL` (R178, R180). -/
def dealField (c : BitVec 512) (lo n : Nat) : Nat := fldN c (320 + lo) n

/-- The rank to which the Dealer gives a relative coordinate, and the element's offset (R180). -/
def dealTo (c : BitVec 512) (c0 c1 : Nat) : Nat × Nat :=
  let b0 := dealField c 32 16
  let b1 := dealField c 48 16
  let p := dealField c 28 4
  let q := dealField c 24 4
  let l0 := c0 / b0 / p * b0 + c0 % b0
  let l1 := c1 / b1 / q * b1 + c1 % b1
  let len := ceilDiv (cgExt c).c0 (b0 * p) * b0
  (c0 / b0 % p + p * (c1 / b1 % q), l1 * len + l0)

/-- Relative coordinates of a window along d0 and d1, in raster order. -/
def dealCoords (c : BitVec 512) : List (Nat × Nat) :=
  let e := cgExt c
  (List.range (e.c0 * e.c1)).map fun k => (k % e.c0, k / e.c0)

/-- What `DEAL` checks of its Dealer fields, its ranks and local addresses. -/
def State.dealOk (s : State) (d t : Nat) (c : BitVec 512) (dsc : Desc) : Bool :=
  let e := cgExt c
  let side (lo : Nat) : Bool := decide (1 ≤ dealField c lo 4 ∧ dealField c lo 4 ≤ 12)
  match s.gangRect d t with
  | none => false
  | some r =>
    e.c2 == 1 && e.c3 == 1 && dealField c 32 16 != 0 && dealField c 48 16 != 0 && side 28 && side 24
      && (dealCoords c).all fun x =>
        let (k, l) := dealTo c x.1 x.2
        decide (k < r.w * r.h) && !s.defective d (r.tiles.getD k 0)
          && decide (dealField c 0 16 * 32 * 8 + (l + 1) * dsc.bits ≤ lsSize * 8)

/-- The multicast rectangle of `CPYM` lies within the gang, and its fields are good (R194). -/
def cpymOk (r : Word64) (g : Rect) : Bool :=
  decide (fldN r 40 24 = 0 ∧ fldN r 21 3 = 0 ∧ fldN r 0 21 % 32 = 0
    ∧ fldN r 24 4 + fldN r 32 4 + 1 ≤ g.w ∧ fldN r 28 4 + fldN r 36 4 + 1 ≤ g.h)

/-- The tiles of a multicast rectangle, without holes. -/
def State.cpymTiles (s : State) (d : Nat) (r : Word64) (g : Rect) : List Nat :=
  s.liveTiles d ⟨g.ox + fldN r 24 4, g.oy + fldN r 28 4, fldN r 32 4 + 1, fldN r 36 4 + 1⟩

/-- What becomes of a `CPYT` (R196, 28_traps_preemption.md R353): a cause, a frozen queue, or a copy. -/
inductive Fate where
  | fails (c : Cause)
  | freezes
  | copies
  deriving DecidableEq, Repr

@[inherit_doc Fate]
def State.cpytFate (s : State) (d : Nat) (dst : Word64) (n : Nat) (super : Bool) : Fate :=
  match mapTile dst.toNat with
  | none => .fails .window
  | some (t, o) =>
    let (r, k, left) := mapRange o
    if s.defective d t ∨ left < n then .fails .window
    else match r with
      | .store => .copies
      | .landing => if 48 * 256 < k + n ∧ k < 56 * 256 then .fails .rights else .copies
      | .tags | .none => .fails .window
      | .accs => if super then .fails .window else .freezes
      | .boxes => if super then .copies else .freezes

/-- The landing entry of a `CPYT` of the landing form: its tile and number, or a cause (R196, R353). -/
def State.cpytEntry (s : State) (d : Nat) (dst : Word64) : Except Cause (Nat × Nat) :=
  match mapTile dst.toNat with
  | none => .error .window
  | some (t, o) =>
    let (r, k, _) := mapRange o
    if r ≠ .landing ∨ k % 256 ≠ 0 ∨ s.defective d t then .error .window
    else if 48 ≤ k / 256 ∧ k / 256 ≤ 55 then .error .rights
    else .ok (t, k / 256)

/-- What fails a copy at issue (R191-R196). -/
def State.copyFault (s : State) (p : Place) (super : Bool) : CopyCmd → Option Cause
  | .cpy _ c h a =>
    match s.reach (s.ctx p).region h with
    | none => some .rights
    | some o => if cgFits c o.desc && imageFits c o.desc a then none else some .window
  | .cpyw cs cd hd hs =>
    match s.reach (s.ctx p).region hs, s.reach (s.ctx p).region hd with
    | some os, some od =>
      if cgFits cs os.desc && cgFits cd od.desc && Desc.fmt os.desc == Desc.fmt od.desc && cgExt cs == cgExt cd then none
      else some .window
    | _, _ => some .rights
  | .cpym c h r =>
    match s.reach (s.ctx p).region h, s.gangRect p.die p.tile with
    | none, _ => some .rights
    | some o, some g => if cgFits c o.desc && imageFits c o.desc (fldN r 0 21) && cpymOk r g then none else some .window
    | some _, none => some .window
  | .deal c h =>
    match s.reach (s.ctx p).region h with
    | none => some .rights
    | some o => if cgFits c o.desc && s.dealOk p.die p.tile c o.desc then none else some .window
  | .cpyt d a n =>
    if d.toNat % 32 ≠ 0 ∨ a.toNat % 32 ≠ 0 ∨ lsSize < a.toNat + n then some .window
    else match s.cpytFate p.die d n super with
      | .fails c => some c
      | _ => none
  | .cpytLand d a g =>
    if a.toNat % 32 ≠ 0 ∨ lsSize < a.toNat + 256 ∨ g < 4 ∨ 14 < g then some .window
    else match s.cpytEntry p.die d with
      | .error c => some c
      | .ok _ => none

/-- The geometry that a CE command reads at issue (R178). -/
def Tile.copyCmd (t : Tile) : Cmd → Option CopyCmd
  | .cpy out c h a => some (.cpy out (t.cg c) h a.toNat)
  | .cpyw c hd hs => some (.cpyw (t.cg c) (t.cg ((c + 1) % 16)) hd hs)
  | .cpym c h r => some (.cpym (t.cg c) h r)
  | .deal c h => some (.deal (t.cg c) h)
  | .cpyt d a n => some (.cpyt d a n)
  | .cpytLand d a g => some (.cpytLand d a g)
  | _ => none

/-- A CE command is issued: it fails at once, or goes to the copy queue or the Dealer (R191). -/
def State.ceIssue (s : State) (p : Place) (num : Nat) (c : Cmd) : State :=
  match (s.tile p.die p.tile).copyCmd c with
  | none => s
  | some k =>
    let x := s.ctx p
    match s.copyFault p x.super k with
    | some f => s.complete p .ce num (some f)
    | none =>
      let e : CopyEntry := { ctx := p.ctx, num := num, cmd := k, super := x.super, owners := s.owners p, region := x.region
                             gang := s.gangRect p.die p.tile }
      match k with
      | .deal _ _ => s.updDie p.die fun y => { y with deals := y.deals ++ [(p.tile, e)] }
      | _ => s.updTile p.die p.tile fun t => { t with copyQ := t.copyQ ++ [e] }

/-! ### Elements (R177, R179) -/

/-- The elements before the first that fails, and its cause; `ents` gives the entries. -/
def State.goodPrefix (s : State) (o : Obj) (own : List Owner) (write : Bool) (ents : List (Nat × Word64)) :
    List C4 → List C4 × Option Cause
  | [] => ([], none)
  | c :: r =>
    let l := Desc.locate o.desc c
    match o.check own write true (look 0#64 ents) [c] with
    | some (k, _) => ([], some k)
    | none =>
      if !write && s.badEl (look 0#64 ents l.1) l.2 (Desc.bits o.desc) then ([], some .uncorrectable)
      else
        let (g, f) := s.goodPrefix o own write ents r
        (c :: g, f)

/-- A window read by an engine: the elements that can be read, their values, the fault that stops it. -/
def State.readWindow (s : State) (d t : Nat) (own : List Owner) (region : Nat) (h : Word64) (els : List C4) :
    (List (C4 × Nat) × Option Cause) × State :=
  match s.reach region h with
  | none => (([], some .rights), s)
  | some o =>
    let (ents, s1) := s.translateAll d t .none (hobj h) (Desc.indices o.desc els)
    let (g, f) := s.goodPrefix o own false ents els
    ((g.map fun c => (c, s.peekObj o c), f), s1)

/-- A window written by an engine with values: none while a frame is duplicated, else the state and the fault that stops it. -/
def State.writeWindow (s : State) (d t : Nat) (own : List Owner) (region : Nat) (h : Word64) (els : List (C4 × Nat)) :
    Option (Option Cause) × State :=
  match s.reach region h with
  | none => (some (some .rights), s)
  | some o =>
    let id := hobj h
    let (ents, s1) := s.translateAll d t .none id (Desc.indices o.desc (els.map (·.1)))
    let (g, f) := s.goodPrefix o own true ents (els.map (·.1))
    match s1.cowAll id (Desc.indices o.desc g) with
    | ((none, false), s2) => (none, s2)
    | ((some j, _), s2) =>
      let ok := g.takeWhile fun c => (Desc.locate o.desc c).1 != j
      match s2.cowAll id (Desc.indices o.desc ok) with
      | ((_, false), s3) => (none, s3)
      | ((_, true), s3) =>
        (some (some .frameExhausted), (els.take ok.length).foldl (fun s x => s.pokeObj (s.objOf id) x.1 x.2) s3)
    | ((none, true), s2) =>
      (some f, (els.take g.length).foldl (fun s x => s.pokeObj (s.objOf id) x.1 x.2) s2)

/-! ### Running -/

/-- A copy leaves the queue and its number completes. -/
def State.copyDone (s : State) (d t : Nat) (e : CopyEntry) (f : Option Cause) : State :=
  (s.updTile d t fun x => { x with copyQ := x.copyQ.filter fun y => !(y.ctx == e.ctx && y.num == e.num) }).complete
    ⟨d, t, e.ctx⟩ .ce e.num f

/-- COPY_START (R179, R196): the queue starts its next command; a `CPYT` to a privileged range at USER freezes it (R368). -/
def execCopyStart (s : State) : Out :=
  let d := s.focus.die
  let t := s.focus.tile
  let x := s.tile d t
  .next (if x.copyFrozen = true ∨ copyRunning ≤ (x.copyQ.filter CopyEntry.running).length then s
    else match x.copyQ.find? fun e => !e.running with
      | none => s
      | some e =>
        let mark (sent : Bool) (s : State) : State := s.updTile d t fun x =>
          { x with copyQ := x.copyQ.map fun y =>
              if y.ctx = e.ctx ∧ y.num = e.num then { y with running := true, sent := sent } else y }
        match e.cmd with
        | .cpyt dst _ n =>
          if s.cpytFate d dst n e.super = .freezes then
            (s.updTile d t fun x => { x with copyFrozen := true }).freeze (.copyQueue d t) [] e.region dst
          else mark false s
        | .cpytLand dst a g =>
          match s.cpytEntry d dst with
          | .error c => s.copyDone d t e (some c)
          | .ok (u, k) =>
            if s.badAt (lsKey d t a.toNat) 256 then s.copyDone d t e (some .uncorrectable)
            else (mark true s).fill d u
              { entry := k
                reg := { tag := Tag.ofNum g, bits := BitVec.ofNat 2048 (leNat (s.readLs ⟨d, t, 0⟩ a.toNat 256)) }
                done := some (⟨d, t, e.ctx⟩, .ce, e.num) }
        | _ => mark false s)

/-- Elements of the local image that can be read: those before the first in an uncorrectable word. -/
def State.lsPrefix (s : State) (d t a w : Nat) : Nat → List C4 → List (C4 × Nat) × Option Cause
  | _, [] => ([], none)
  | k, c :: r =>
    if s.badAt (lsKey d t (a + k * w / 8)) ((w + 7) / 8) then ([], some .uncorrectable)
    else
      let (g, f) := s.lsPrefix d t a w (k + 1) r
      ((c, s.peekLs d t (8 * a + k * w) w) :: g, f)

/-- Every request of a copy finds its routes (R387). -/
def State.copyOpen (s : State) (d t : Nat) (e : CopyEntry) : Bool :=
  let ok (h : Word64) (c : BitVec 512) : Bool := s.open d t .none (hobj h) (boxCoords (cgOrg c) (cgExt c))
  match e.cmd with
  | .cpy _ c h _ | .cpym c h _ | .deal c h => ok h c
  | .cpyw cs cd hd hs => ok hs cs && ok hd cd
  | .cpyt _ _ _ | .cpytLand _ _ _ => true

/-- The effect of a copy: none while a frame that it writes is duplicated, else the state and the fault recorded. A `CPYT` whose source
holds an uncorrectable word writes none of its bytes: whether the bytes before the word are written R196 does not say (log 62). -/
def State.copyEffect (s : State) (d t : Nat) (e : CopyEntry) : Option (Option Cause) × State :=
  let coords (c : BitVec 512) : List C4 := boxCoords (cgOrg c) (cgExt c)
  let width (h : Word64) : Nat := Desc.bits (s.objOf (hobj h)).desc
  match e.cmd with
  | .cpy false c h a =>
    let ((l, f), s1) := s.readWindow d t e.owners e.region h (coords c)
    (some f, s1.image d t a (width h) (l.map (·.2)))
  | .cpy true c h a =>
    let (l, f) := s.lsPrefix d t a (width h) 0 (coords c)
    match s.writeWindow d t e.owners e.region h l with
    | (none, s1) => (none, s1)
    | (some g, s1) => (some (g.or f), s1)
  | .cpyw cs cd hd hs =>
    let ((l, f), s1) := s.readWindow d t e.owners e.region hs (coords cs)
    let m := boxMeet (cgOrg cs) (cgExt cs) (cgOrg cd) (cgExt cd)
    if f.isSome = true ∧ hobj hs = hobj hd ∧ 0 < m.2.volume then (some f, s1)
    else match s1.writeWindow d t e.owners e.region hd ((coords cd).zip (l.map (·.2))) with
      | (none, s2) => (none, s2)
      | (some g, s2) => (some (g.or f), s2)
  | .cpym c h r =>
    let ((l, f), s1) := s.readWindow d t e.owners e.region h (coords c)
    match e.gang with
    | none => (some (some .window), s1)
    | some g => (some f, (s.cpymTiles d r g).foldl (fun s u => s.image d u (fldN r 0 21) (width h) (l.map (·.2))) s1)
  | .deal c h =>
    let ((l, f), s1) := s.readWindow d t e.owners e.region h (coords c)
    match e.gang with
    | none => (some (some .window), s1)
    | some g => (some f, l.foldl (fun s x =>
        let (k, o) := dealTo c (x.1.c0 - (cgOrg c).c0) (x.1.c1 - (cgOrg c).c1)
        s.pokeLs d (g.tiles.getD k 0) (dealField c 0 16 * 256 + o * width h) (width h) x.2) s1)
  | .cpyt dst a n =>
    let bs := s.readLs ⟨d, t, 0⟩ a.toNat n
    match mapTile dst.toNat with
    | none => (some (some .window), s)
    | some (u, o) =>
      if s.badAt (lsKey d t a.toNat) n then (some (some .uncorrectable), s)
      else
        let (r, k, _) := mapRange o
        (some none, match r with
          | .store => s.writeLs ⟨d, u, 0⟩ k bs
          | .landing => s.updTile d u fun x => x.writeLanding k bs
          | .boxes => s.updTile d u fun x => x.writeBoxes k bs
          | _ => s)
  | .cpytLand _ _ _ => (none, s)

/-- A copy writes mailboxes of the map, which a die without quorum holds as they stand (16_message_engine.md R252). -/
def CopyEntry.boxes (e : CopyEntry) : Bool := match e.cmd with
  | .cpyt dst _ _ => match mapTile dst.toNat with
    | some (_, o) => (mapRange o).1 == .boxes
    | none => false
  | _ => false

/-- COPY_COMPLETE (R179, R191-R196, R388): command number `index` of the copy queue, which runs, ends. A copy whose frame is being
duplicated goes on running. -/
def execCopyComplete (s : State) : Out :=
  let d := s.focus.die
  let t := s.focus.tile
  .next (match (s.tile d t).copyQ[s.index]? with
    | none => s
    | some e =>
      if e.running = false ∨ e.sent = true ∨ s.copyOpen d t e = false ∨ (e.boxes = true ∧ (s.die d).stopped = true) then s
      else match s.copyEffect d t e with
        | (none, s1) => s1
        | (some f, s1) => s1.copyDone d t e f)

/-- DEALER_RUN (R180, R195): deal number `index` of the die's Dealer is performed. -/
def execDealerRun (s : State) : Out :=
  let d := s.focus.die
  .next (match (s.die d).deals[s.index]? with
    | none => s
    | some (t, e) =>
      if s.copyOpen d t e = false then s
      else match s.copyEffect d t e with
      | (none, s1) => s1
      | (some f, s1) =>
        (s1.updDie d fun x => { x with deals := dropAt x.deals s.index }).complete ⟨d, t, e.ctx⟩ .ce e.num f)

/-- The command whose number a transfer to a landing entry completes: a copy's, a matrix store's, a card's. -/
def Fill.command (f : Fill) : Option (Place × Engine × Nat) := f.done.or (f.card.map fun c => (c.card.src, .mse, c.card.num))

/-- LANDING_FILL (R99, R162): transfer number `index` of the tile, the first that waits for its entry, fills it. -/
def execLandingFill (s : State) : Out :=
  let d := s.focus.die
  let t := s.focus.tile
  let x := s.tile d t
  .next (match x.fills[s.index]? with
    | none => s
    | some f =>
      if (s.die d).stopped = true ∨ (x.lb f.entry).full = true ∨ ((x.fills.take s.index).any fun g => g.entry == f.entry) = true then s
      else
        let s1 := s.updTile d t fun x =>
          { x.setLb f.entry { bits := f.reg.clean.bits, tag := f.reg.tag, full := true, cmd := f.command } with fills := dropAt x.fills s.index }
        match f.done, f.card with
        | some (p, e, n), _ =>
          (s1.updTile p.die p.tile fun y =>
            { y with copyQ := y.copyQ.filter fun c => !(e == .ce && c.ctx == p.ctx && c.num == n) }).complete p e n none
        | none, some c => s1.cardFinish d c
        | none, none => s1)

end Sys2Proof.Machine
end

