-- ==== Sys2Proof/Machine/Exchange.lean ====
section
/-! DEFINITION. The exchange unit of a hub: send lists, flushes, receive buffers, returns, the overflow queue
(16_message_engine.md R247-R250, R389, 18_msg_instructions.md R278, R281, R282, 21_prog_moe.md R286); and the issue of every
message-engine command (R271). Marks: DEDUCED (log 33); DESIGN CHOICE (log 4, 32). -/

namespace Sys2Proof.Machine

/-! ### Records (R248) -/

/-- First and second choice of a record. -/
def XRec.ch1 (r : XRec) : Nat := fldN r.hdr 42 6

@[inherit_doc XRec.ch1]
def XRec.ch2 (r : XRec) : Nat := fldN r.hdr 36 6

/-- ST of a record. -/
def XRec.st (r : XRec) : Nat := fldN r.hdr 34 2

/-- ST := v, in the header and in the bytes. -/
def XRec.setSt (r : XRec) (v : Nat) : XRec :=
  let h := setFld r.hdr 34 2 v
  { r with hdr := h, bytes := leBytes 8 h.toNat ++ r.bytes.drop 8 }

/-- Two records are of one command. -/
def XRec.same (a b : XRec) : Bool := a.src == b.src && a.num == b.num

def State.updDest (s : State) (d n : Nat) (f : XDest → XDest) : State :=
  s.updXu d fun x => { x with dests := put x.dests n (f (x.dest n)) }

/-- Counters are 32 bits (R247). -/
def count32 (a b : Nat) : Nat := (a + b) % 2 ^ 32

/-! ### Flushes (R249 step 1) -/

/-- The hub of the die that a destination word names. -/
def State.hubOf (s : State) (w : Word64) : Nat := s.hub (fldN w 54 10) (fldN w 49 5)

/-- Send list n is flushed, if it holds records. -/
def State.xflush (s : State) (d n : Nat) : State :=
  let x := (s.die d).xu
  let e := x.dest n
  if e.list = [] then s
  else
    let f : Flush := { n := x.nextFlush, dest := n, recs := e.list }
    let s1 := (s.updXu d fun x => { x with flushes := x.flushes ++ [f], nextFlush := x.nextFlush + 1 }).updDest d n
      fun e => { e with list := [] }
    s1.send d (s.hubOf e.dest) (.flush { src := d, n := f.n, dest := e.dest, size := e.rsz, recs := e.list })

/-- A record is appended to send list n, which flushes when it holds BATCH records. -/
def State.xappend (s : State) (d n : Nat) (r : XRec) : State :=
  let s1 := s.updDest d n fun e => { e with list := e.list ++ [r] }
  if ((s.die d).xu.dest n).batch ≤ ((s1.die d).xu.dest n).list.length then s1.xflush d n else s1

/-! ### Fates (R249 step 6, R282) -/

/-- A record's fate is final: its number completes and the flushes that await it hear of it. -/
def State.recordFinal (s : State) (d : Nat) (r : XRec) (f : Option Cause) : State :=
  (s.updXu d fun x => { x with
    dropping := x.dropping.filter fun y => !r.same y
    xflush := x.xflush.map fun w =>
      { w with await := w.await.filter fun y => !(y.1 == r.src && y.2 == r.num) } }).mseDone r.src r.num f

/-- A record is dropped: to the overflow queue, or discarded (R249 step 5, R389). -/
def State.dropRecord (s : State) (d : Nat) (r : XRec) : State :=
  let r1 := r.setSt 2
  let s1 := s.updDest d r.ch1 fun e => { e with dropped := count32 e.dropped 1 }
  let x := (s.die d).xu
  if x.ovfV then (s1.updXu d fun x => { x with dropping := x.dropping ++ [r] }).send d (s.hubOf x.ovf) (.xoverflow x.ovf r1 r1.bytes.length) else s1.recordFinal d r none

/-! ### Receiving (R249 step 2, R250, R286) -/

/-- An exchange record is written into a receive buffer, if the buffer takes it: its mailbox is in queue mode, RCAP is not
reached, and the record has the buffer's size. `src` is the die that flushed it. -/
def State.receive (s : State) (d src : Nat) (dest : Word64) (r : XRec) : Option State :=
  let t := fldN dest 41 8
  let m := fldN dest 35 6
  let x := s.tile d t
  let b := x.mb m
  if s.noTile d t ∨ (x.savedFlag = true ∧ x.task = none) ∨ b.mode ≠ 2 ∨ b.rcap ≤ b.rcount ∨ r.bytes.length ≠ b.rsize then none
  else
    let (mod_, die_) := if src < 32 then (s.moduleId, src) else ((src - 32) / 32, src % 32)
    let entry := Config.freeChoice s.freeCtr % 2 ^ 16
    let w1 := BitVec.ofNat 64 (mod_ * 2 ^ 54 + die_ * 2 ^ 49 + 255 * 2 ^ 41 + r.bytes.length % 1024 * 2 ^ 24 + entry)
    let s1 : State := { s with freeCtr := s.freeCtr + 1 }
    some ((s1.updTile d t fun x => x.setMb m { b with rcount := b.rcount + 1 }).ringPlace d t m dest w1 r.bytes (hopsWord 255 0 0))

/-- The records of a flush in order: those that are refused. -/
def State.receiveAll (s : State) (d src : Nat) (dest : Word64) : List XRec → List XRec × State
  | [] => ([], s)
  | r :: l =>
    match s.receive d src dest r with
    | some s1 => s1.receiveAll d src dest l
    | none =>
      let (no, s1) := s.receiveAll d src dest l
      (r :: no, s1)

/-- EXCHANGE_FLUSH_ARRIVAL (R249, R250): flush number `index` that has reached this hub is taken whole and answered. -/
def execExchangeFlushArrival (s : State) : Out :=
  let d := s.focus.die
  let x := (s.die d).xu
  .next (match x.flushIn[s.index]? with
    | none => s
    | some f =>
      if (s.tile d (fldN f.dest 41 8)).held = true ∨ (s.die d).stopped = true
          ∨ ((x.flushIn.take s.index).any fun g => fldN g.dest 35 14 == fldN f.dest 35 14) = true then s
      else
        let (no, s1) := (s.updXu d fun x => { x with flushIn := dropAt x.flushIn s.index }).receiveAll d f.src f.dest f.recs
        s1.send d f.src (.xreturn f.n no))

/-- A returned record takes its second choice (R249 step 4). -/
def Xu.second (x : Xu) (r : XRec) : Bool := r.st == 0 && r.ch2 != r.ch1 && (x.dest r.ch2).v

/-- A returned record takes its second choice or is dropped (R249 steps 4 and 5). -/
def State.returned (s : State) (d : Nat) (r : XRec) : State :=
  if (s.die d).xu.second r then s.xappend d r.ch2 (r.setSt 1) else s.dropRecord d r

/-- EXCHANGE_RETURN_ARRIVAL (R249): the answer number `index` to a flush is handled whole. -/
def execExchangeReturnArrival (s : State) : Out :=
  let d := s.focus.die
  let x := (s.die d).xu
  .next (match x.returns[s.index]? with
    | none => s
    | some (n, no) =>
      let s0 := s.updXu d fun x => { x with returns := dropAt x.returns s.index }
      match x.flushes.find? fun f => f.n == n with
      | none => s0
      | some f =>
        let yes := f.recs.filter fun r => !(no.any r.same)
        let s1 := (s0.updXu d fun x => { x with flushes := x.flushes.filter fun g => g.n != n }).updDest d f.dest fun e =>
          { e with sent := count32 e.sent yes.length, overflowed := count32 e.overflowed no.length }
        let s2 := yes.foldl (fun s r => s.recordFinal d r none) s1
        let s3 := no.foldl (fun s r => s.returned d r) s2
        ((no.filter x.second).map XRec.ch2).eraseDups.foldl (fun s k => s.xflush d k) s3)

/-- OVERFLOW_RECORD_ARRIVAL (R389): dropped record number `index` is written into the overflow mailbox or discarded; its number
completes. -/
def execOverflowRecordArrival (s : State) : Out :=
  let d := s.focus.die
  .next (match (s.die d).xu.overflow[s.index]? with
    | none => s
    | some o =>
      if (s.tile d (fldN o.dest 41 8)).held = true ∨ (s.die d).stopped = true then s
      else
        let s1 := s.updXu d fun x => { x with overflow := dropAt x.overflow s.index }
        ((s1.receive d o.rec_.src.die o.dest o.rec_).getD s1).recordFinal o.rec_.src.die o.rec_ none)

/-! ### Configurations (R247, R278, R389) -/

/-- A destination configuration may stand. -/
def xchgOk (w0 w1 : Word64) : Bool :=
  let batch := fldN w1 57 5
  fldN w1 0 56 == 0 && (!bit w1 56 || decide (1 ≤ batch ∧ batch ≤ 16 ∧ batch * (64 * (fldN w1 62 2 + 1)) ≤ 1024
    ∧ fldN w0 0 2 = 3 ∧ fldN w0 4 12 = 0))

/-- An overflow-queue configuration may stand. -/
def ovfOk (s : State) (w0 w1 : Word64) : Bool :=
  fldN w1 0 56 == 0 && (!bit w1 56 || decide (fldN w0 0 2 = 3 ∧ fldN w0 4 12 = 0 ∧ fldN w0 54 10 = s.moduleId))

/-- EXCHANGE_CONFIG_APPLY (R278, R386): configuration number `index` on its way to the unit, the first for its destination. A list
that holds records is flushed first. -/
def execExchangeConfigApply (s : State) : Out :=
  let d := s.focus.die
  let x := (s.die d).xu
  .next (match x.configs[s.index]? with
    | none => s
    | some c =>
      if ((x.configs.take s.index).any fun y => y.sel == c.sel) = true then s
      else
        let w0 := BitVec.ofNat 64 (leNat c.bytes)
        let w1 := BitVec.ofNat 64 (leNat (c.bytes.drop 8))
        let s1 := s.updXu d fun x => { x with configs := dropAt x.configs s.index }
        if c.sel = 64 then
          if ovfOk s w0 w1 then (s1.updXu d fun x => { x with ovf := w0, ovfV := bit w1 56 }).mseDone c.place c.num none
          else s1.mseDone c.place c.num (some .reservedField)
        else if xchgOk w0 w1 then
          ((s1.xflush d c.sel).updDest d c.sel fun e => { e with dest := w0, w1 := w1 }).mseDone c.place c.num none
        else s1.mseDone c.place c.num (some .reservedField))

/-! ### XFLUSH (R282) -/

/-- The lists that an `XFLUSH` names. -/
def flushLists (w : Word64) : List Nat := if bit w 63 then List.range 64 else [fldN w 0 6]

/-- The records whose fates are not final and that were appended to one of the lists, as their first or their second choice. -/
def Xu.unsettled (x : Xu) (ls : List Nat) : List (Place × Nat) :=
  let mine (n : Nat) (r : XRec) : Bool := ls.contains n || ls.contains r.ch1
  ((x.dests.flatMap fun e => (e.2.list.filter (mine e.1)))
    ++ (x.flushes.flatMap fun f => f.recs.filter (mine f.dest)) ++ x.dropping.filter fun r => ls.contains r.ch1 || (r.st == 1 && ls.contains r.ch2)).map fun r => (r.src, r.num)

/-- XFLUSH_COUNTER_WRITE (R282): the fates that `XFLUSH` number `index` of the unit awaits are final; its counters are written. -/
def execXflushCounterWrite (s : State) : Out :=
  let d := s.focus.die
  let x := (s.die d).xu
  .next (match x.xflush[s.index]? with
    | none => s
    | some w =>
      if w.await ≠ [] then s
      else
        let block (n : Nat) : List Byte :=
          let e := x.dest n
          leBytes 4 e.sent ++ leBytes 4 e.overflowed ++ leBytes 4 e.dropped ++ leBytes 4 0
        ((s.updXu d fun x => { x with xflush := dropAt x.xflush s.index }).writeLs w.place w.addr
          ((flushLists w.lists).flatMap block)).mseDone w.place w.num none)

/-! ### Issue of message-engine commands (R270-R282) -/

/-- Commands that a card unit holds (R271). -/
def mseLimit : Nat := 32

def Tile.mseFull (t : Tile) : Bool := decide (mseLimit ≤ t.mse.length)

/-- The command enters the card unit. -/
def State.mseEnter (s : State) (p : Place) (num : Nat) (c : MseCmd) (frame : Option Nat := none) : State :=
  s.updTile p.die p.tile fun t => { t with mse := t.mse ++ [{ ctx := p.ctx, num := num, cmd := c, frame := frame }] }

/-- XROUTE at commit (R281). -/
def State.xroute (s : State) (p : Place) (num : Nat) (h : Word64) (a : Nat) : State :=
  let n := fldN h 42 6
  let e := (s.die p.die).xu.dest n
  if e.v = false then
    (s.updDest p.die n fun e => { e with dropped := count32 e.dropped 1 }).complete p .mse num (some .rights)
  else if lsSize < a + e.rsz then s.complete p .mse num (some .lsBounds)
  else if s.badAt (lsKey p.die p.tile a) e.rsz then s.complete p .mse num (some .uncorrectable)
  else
    (s.mseEnter p num .xroute).xappend p.die n
      { hdr := h, bytes := leBytes 8 h.toNat ++ (s.readLs p a e.rsz).drop 8, src := p, num := num }

/-- XFLUSH at commit (R282). -/
def State.xflushIssue (s : State) (p : Place) (num : Nat) (w : Word64) (a : Nat) : State :=
  let s1 := (flushLists w).foldl (fun s n => s.xflush p.die n) (s.mseEnter p num (.xflush w a))
  s1.updXu p.die fun x => { x with xflush := x.xflush ++
    [{ place := p, num := num, lists := w, addr := a, await := x.unsettled (flushLists w) }] }

/-- The bytes of a command's local source; none where a word is uncorrectable (R270). -/
def State.source (s : State) (p : Place) (a n : Nat) : Option (List Byte) :=
  if s.badAt (lsKey p.die p.tile a) n then none else some (s.readLs p a n)

/-- The destination word of a card of a command: QA marks a charged card (R224, R273). -/
def sendWord (dw : Word64) (charged : Option Nat) : Word64 := setFld dw 4 1 (b2n charged.isSome)

/-- A message-engine command is issued at its block's commit. -/
def State.mseIssue (s : State) (p : Place) (num : Nat) (c : Cmd) : State :=
  let fail (frame : Option Nat) : State :=
    (match frame with
     | some k => s.updTile p.die p.tile fun t => t.rearm k
     | none => s).complete p .mse num (some .uncorrectable)
  match c with
  | .send dw src reg tag charged frame unordered =>
    let payload := match src with
      | none => some reg
      | some (a, n) => s.source p a n
    match payload with
    | none => fail frame
    | some bs => s.mseEnter p num
        (.cards [s.cardOf p num (sendWord dw charged) bs tag (!unordered)] charged) frame
  | .xput dw a len unordered => s.mseEnter p num (.xput dw a len 0 (!unordered))
  | .xamo dw v op unordered =>
    s.mseEnter p num (.cards [{ s.cardOf p num dw (leBytes 8 v.toNat) 15 (!unordered) with op := op }] none)
  | .mbxset k sel a =>
    match s.source p a.toNat (mbxKind k sel).1 with
    | none => fail none
    | some bs =>
      let s1 := s.mseEnter p num (.mbxset k sel bs)
      if k < 2 then s1
      else s1.updXu p.die fun x => { x with configs := x.configs ++
        [{ place := p, num := num, sel := fldN sel 0 7, bytes := bs }] }
  | .frput sel n => (s.frput p.die p.tile sel n).complete p .mse num none
  | .xroute h a => s.xroute p num h a
  | .xflush w a => s.xflushIssue p num w a
  | _ => s

end Sys2Proof.Machine
end

