-- ==== Sys2Proof/Machine/Matrix.lean ====
section
/-! DEFINITION. The ENGINE-M commands, what they do when they fire (14_me_instructions.md R210-R220). Marks: DEDUCED
(log 11). -/

namespace Sys2Proof.Machine

/-- Alignment and extent of a local address (R212). -/
def meAddress (a : Word64) (align extent : Nat) : Option Act :=
  if a.toNat % align ≠ 0 then some (.fault .align a 0#64)
  else if lsSize < a.toNat + extent then some (.fault .lsBounds a 0#64)
  else none

/-- An ENGINE-M command whose operands have been judged: tags, fields, addresses, in this order (R212). -/
def meCommand (l : Nat) (tags fields : Bool) (addr : Option Act) (c : Cmd) (s : State) : Act :=
  if tags = false then .flt .tagFault
  else if fields = false then .flt .matrixGeometry
  else match addr with
    | some f => f
    | none => command .me l c s

/-- Reserved bits 39:1 of a command word are zero (R211). -/
def wClean (w : Word64) : Bool := fldN w 1 39 == 0

/-- MSETG (R214): a geometry register from the local store, at commit. -/
def execMsetg (p : BitVec 2) (l : BitVec 5) (g : BitVec 4) (t : BitVec 7) (s : State) : Out :=
  .next (fire (shapeOf (.msetg p l g t) s.index) (fun v s => match v with
    | [a] => meCommand l.toNat (a.tag == .i64) true (meAddress a.w 16 16) (.msetg g.toNat a.w.toNat) s
    | _ => .notYet) s)

/-- The firing part of the multiplications: kind 0 `MMA`, 1 `MMAZ`, 2 `MMAQ` (R215). -/
def mmaBody (kind l g acc : Nat) : List Reg → State → Act
  | [a, w], s => meCommand l (bothI64 a.tag w.tag) (wClean w.w) (meAddress a.w 32 1) (.mma kind acc g a.w w.w) s
  | _, _ => .notYet

/-- MMA (R215): add A times a latch into an accumulator. -/
def execMma (p : BitVec 2) (l : BitVec 5) (g : BitVec 4) (a : BitVec 2) (t : BitVec 7) (s : State) : Out :=
  .next (fire (shapeOf (.mma p l g a t) s.index) (mmaBody 0 l.toNat g.toNat a.toNat) s)

/-- MMAZ (R215): open a tag with a product. -/
def execMmaz (p : BitVec 2) (l : BitVec 5) (g : BitVec 4) (a : BitVec 2) (t : BitVec 7) (s : State) : Out :=
  .next (fire (shapeOf (.mmaz p l g a t) s.index) (mmaBody 1 l.toNat g.toNat a.toNat) s)

/-- MMAQ (R215): add a Q4N A times a latch into an accumulator. -/
def execMmaq (p : BitVec 2) (l : BitVec 5) (g : BitVec 4) (a : BitVec 2) (t : BitVec 7) (s : State) : Out :=
  .next (fire (shapeOf (.mmaq p l g a t) s.index) (mmaBody 2 l.toNat g.toNat a.toNat) s)

/-- MLDB (R216): a latch from the local store. -/
def execMldb (p : BitVec 2) (l : BitVec 5) (b : BitVec 1) (t : BitVec 7) (s : State) : Out :=
  .next (fire (shapeOf (.mldb p l b t) s.index) (fun v s => match v with
    | [a, h] => meCommand l.toNat (bothI64 a.tag h.tag)
        (decide (fldN h.w 24 16 = 0 ∧ fldN h.w 0 20 = 0 ∧ fldN h.w 20 4 < 4)) (meAddress a.w 32 2048)
        (.mldb b.toNat a.w h.w) s
    | _ => .notYet) s)

/-- MPLAY (R217): hand a latch to the next seat. -/
def execMplay (p : BitVec 2) (l : BitVec 5) (b : BitVec 1) (t : BitVec 7) (s : State) : Out :=
  .next (fire (shapeOf (.mplay p l b t) s.index) (fun _ s => command .me l.toNat (.mplay b.toNat) s) s)

/-- The bits of the operand of an `MST` that must be zero, by its form (R218). -/
def mstFields (a : Word64) : Bool := if bit a 63 then fldN a 13 50 == 0 && fldN a 6 2 == 0 else fldN a 21 42 == 0

/-- MST (R212, R218): rows of an accumulator to the local store or to a landing entry. What its MG register decides is judged at issue; `SAT`
is that of the last commit. -/
def execMst (p : BitVec 2) (l : BitVec 5) (g : BitVec 4) (a : BitVec 2) (t : BitVec 7) (s : State) : Out :=
  .next (fire (shapeOf (.mst p l g a t) s.index) (fun v s => match v with
    | [x] => meCommand l.toNat (x.tag == .i64) (mstFields x.w)
        (if bit x.w 63 then none else meAddress ((fld x.w 0 21).setWidth 64) 32 0)
        (.mst a.toNat g.toNat x.w (s.ctx s.focus).sat) s
    | _ => .notYet) s)

/-- MLDA (R219): an accumulator from the local store. -/
def execMlda (p : BitVec 2) (l : BitVec 5) (a : BitVec 2) (t : BitVec 7) (s : State) : Out :=
  .next (fire (shapeOf (.mlda p l a t) s.index) (fun v s => match v with
    | [x, w] => meCommand l.toNat (bothI64 x.tag w.tag) (wClean w.w) (meAddress x.w 32 4096) (.mlda a.toNat x.w w.w) s
    | _ => .notYet) s)

/-- MZERO (R219): an accumulator to +0. -/
def execMzero (p : BitVec 2) (l : BitVec 5) (a : BitVec 2) (t : BitVec 7) (s : State) : Out :=
  .next (fire (shapeOf (.mzero p l a t) s.index) (fun v s => match v with
    | [w] => meCommand l.toNat (w.tag == .i64) (wClean w.w && fldN w.w 48 16 == 0) none (.mzero a.toNat w.w) s
    | _ => .notYet) s)

/-- MRLS (R217): free a latch. -/
def execMrls (p : BitVec 2) (l : BitVec 5) (b : BitVec 1) (t : BitVec 7) (s : State) : Out :=
  .next (fire (shapeOf (.mrls p l b t) s.index) (fun _ s => command .me l.toNat (.mrls b.toNat) s) s)

/-- The fields of `MSEAT` (R220): with SEATS = 0 only SEATS is judged. -/
def seatFields (w : Word64) : Bool :=
  let n := fldN w 8 8
  n == 0 || decide (n ≤ 144 ∧ fldN w 0 8 < n ∧ fldN w 16 8 ≤ 143 ∧ fldN w 24 8 ≤ 143 ∧ fldN w 32 32 % 32 = 0)

/-- MSEAT (R220): the seat register. -/
def execMseat (p : BitVec 2) (l : BitVec 5) (t : BitVec 7) (s : State) : Out :=
  .next (fire (shapeOf (.mseat p l t) s.index) (fun v s => match v with
    | [x, c] =>
      let p := s.focus
      if x.tag ≠ .i64 ∨ (c.tag ≠ .hndl ∧ ¬(c.tag = .i64 ∧ fldN x.w 8 8 = 0)) then .flt .tagFault
      else if ¬((p.ctx = 0 ∧ (s.tile p.die p.tile).runTask.isSome) ∨ (s.ctx p).super = true) then .flt .rights
      else meCommand l.toNat true (seatFields x.w) none (.mseat x.w c.w) s
    | _ => .notYet) s)

end Sys2Proof.Machine
end

