-- ==== Sys2Proof/Machine/MatrixRun.lean ====
section
/-! DEFINITION. The matrix engine at work: issue, the matching store, multiplication and the table
(13_matrix_engine.md R201-R209, 14_me_instructions.md R212-R220). Marks: DEDUCED (log 10, 11, 29); DESIGN CHOICE (log
3, 4, 32, 68). -/

namespace Sys2Proof.Machine

/-! ### Geometry (R202, R204) -/

def mgAstride (g0 : Word64) : Nat := fldN g0 32 16 * 32

/-- M and N: 8, 16 or 32. -/
def mgM (g0 : Word64) : Nat := 8 * 2 ^ fldN g0 16 2

@[inherit_doc mgM]
def mgN (g0 : Word64) : Nat := 8 * 2 ^ fldN g0 14 2

def mgA (g0 : Word64) : Nat := fldN g0 20 4

def mgB (g0 : Word64) : Nat := fldN g0 24 4

def mgO (g0 : Word64) : Nat := fldN g0 28 4

/-- The words of a geometry register as `MSETG` writes them: reserved bits are RO and stay 0 (R202, 00_scope.md R5). -/
def mgWords (b : Nat) : Word64 × Word64 :=
  let z (w : Word64) (x : Nat × Nat) : Word64 := setFld w x.1 x.2 0
  ([(48, 16), (18, 2), (0, 14)].foldl z (BitVec.ofNat 64 b), [(53, 11), (21, 11)].foldl z (BitVec.ofNat 64 (b / 2 ^ 64)))

/-- No reserved value stands in a geometry register. -/
def mgClean (g0 : Word64) : Bool := decide (mgO g0 ≤ 5 ∧ mgB g0 ≤ 3 ∧ mgA g0 ≤ 4 ∧ fldN g0 16 2 ≠ 3 ∧ fldN g0 14 2 ≠ 3)

/-- A pairing of formats (R204). -/
structure Pairing where
  int : Bool
  k : Nat
  group : Nat
  both : Bool
  deriving DecidableEq, Repr

@[inherit_doc Pairing]
def pairing (a b : Nat) : Option Pairing :=
  if a = 0 ∧ b = 0 then some ⟨false, 32, 8, false⟩
  else if (a = 1 ∨ a = 2) ∧ (b = 1 ∨ b = 2) then some ⟨false, 64, 16, false⟩
  else if a = 3 ∧ b = 3 then some ⟨true, 64, 16, false⟩
  else if a = 4 ∧ b = 0 then some ⟨false, 64, 64, true⟩
  else if a = 4 ∧ (b = 1 ∨ b = 2) then some ⟨false, 64, 64, false⟩
  else none

/-- The format of an A or B code 0 to 3. -/
def meElem (n : Nat) : Elem := if n = 0 then .flt bf16 else if n = 1 then .flt e4m3 else if n = 2 then .flt e5m2 else .int 8

/-- The format of an OFMT code (R202). -/
def meOut (n : Nat) : Elem :=
  if n = 0 then .flt fp32 else if n = 1 then .flt bf16 else if n = 2 then .flt e4m3 else if n = 3 then .flt e5m2
  else if n = 4 then .int 32 else .int 8

/-- The tag of a landing store (R218). -/
def meOutTag (n : Nat) : Tag := [Tag.vf32, .vbf16, .vf8e4, .vf8e5, .vi32, .vi8].getD n .vi8

/-- Bytes of an A row. -/
def aRowBytes (a : Nat) (p : Pairing) : Nat := if a = 0 then 2 * p.k else if a = 4 then p.k / 2 else p.k

/-! ### The state of the engine -/

def Me.acc (m : Me) (a : Nat) : Acc := look {} m.accs a

def Me.latch (m : Me) (l : Nat) : Latch := look {} m.latches l

def Me.mgr (m : Me) (g : Nat) : Word64 × Word64 := look (0#64, 0#64) m.mg g

def Me.setAcc (m : Me) (a : Nat) (x : Acc) : Me := { m with accs := put m.accs a x }

def Me.setLatch (m : Me) (l : Nat) (x : Latch) : Me := { m with latches := put m.latches l x }

def Acc.el (a : Acc) (i j : Nat) : BitVec 32 := look 0#32 a.elems (32 * i + j)

def State.updMe (s : State) (d t : Nat) (f : Me → Me) : State := s.updTile d t fun x => { x with me := f x.me }

/-- Entries of the matching store, the one in progress among them (R208). -/
def meLimit : Nat := 32

def Me.full (m : Me) : Bool := decide (meLimit ≤ m.store.length + m.running.toList.length)

/-- Accumulator that a command names. -/
def MeCmd.accOf : MeCmd → Option Nat
  | .mma _ a _ _ _ _ | .st a _ _ _ _ | .lda a _ _ | .zero a _ => some a
  | _ => none

/-- Latches that a multiplication reads. -/
def mmaLatches (g0 w : Word64) : List Nat := if mgA g0 = 4 ∧ mgB g0 = 0 then [0, 1] else [fldN w 0 1]

/-- A command reads a latch: an older `MLDB` counts as one (R217). -/
def MeCmd.reads (l : Nat) : MeCmd → Bool
  | .mma _ _ g0 _ _ w => (mmaLatches g0 w).contains l
  | .play k | .rls k | .ldb k _ _ => k == l
  | _ => false

/-- A command opens a tag (R207). -/
def MeCmd.opener : MeCmd → Bool
  | .mma k _ _ _ _ _ => k == 1
  | .lda _ _ _ | .zero _ _ => true
  | _ => false

/-- The command's number completes and its entry leaves the store. -/
def State.meDone (s : State) (d t : Nat) (e : MeEntry) (f : Option Cause) : State :=
  (s.updMe d t fun m => { m with store := m.store.filter fun x => !(x.ctx == e.ctx && x.num == e.num) }).complete
    ⟨d, t, e.ctx⟩ .me e.num f

/-! ### Issue (R202, R204, R208, R214, R218) -/

/-- The checks of a multiplication that its MG register and address decide. An SSADDR that is no multiple of 4 is refused with the rest: R202
gives the limit and no fate (log 68). -/
def mmaGeometry (kind : Nat) (g0 g1 a w : Word64) : Bool :=
  match pairing (mgA g0) (mgB g0) with
  | none => false
  | some p =>
    let m := mgM g0
    mgClean g0
    && decide (mgAstride g0 ≠ 0 ∧ a.toNat + (m - 1) * mgAstride g0 + aRowBytes (mgA g0) p ≤ lsSize)
    && (mgA g0 != 4 || decide (fldN g1 32 21 + m ≤ lsSize ∧ fldN g1 0 21 % 4 = 0 ∧ fldN g1 0 21 + 4 * m ≤ lsSize))
    && (if kind = 0 then mgA g0 != 4 else kind == 1 || mgA g0 == 4)
    && !(p.both && bit w 0)

/-- The size in bytes of an OFMT element. -/
def outBytes (g0 : Word64) : Nat := (meOut (mgO g0)).w / 8

/-- The checks of an `MST` at issue (R218), of its MG register and of what that decides: OFMT, MS and NS. It does not judge AFMT and BFMT,
which no `MST` reads: R218 does not name them (log 68). -/
def mstFault (g0 a : Word64) : Option Cause :=
  let n := mgN g0
  let m := mgM g0
  let size := outBytes g0
  let r := 8 / size
  let r0 := fldN a 8 5
  let e := fldN a 0 6
  if 5 < mgO g0 ∨ fldN g0 16 2 = 3 ∨ fldN g0 14 2 = 3 then some .matrixGeometry
  else if bit a 63 = false then
    if mgAstride g0 < n * size ∨ lsSize < fldN a 0 21 + (m - 1) * mgAstride g0 + n * size then some .matrixGeometry else none
  else if n ≠ 32 ∨ r0 % r ≠ 0 ∨ m < r0 + r then some .matrixGeometry
  else if 48 ≤ e ∧ e ≤ 55 then some .rights else none

/-- A (accumulator, tag, sequence) that an entry carries. -/
def MeCmd.ats : MeCmd → Option (Nat × Nat × Nat)
  | .mma _ a _ _ _ w => some (a, fldN w 40 8, fldN w 48 16)
  | _ => none

/-- What refuses a command at issue (R208). -/
def Me.refuse (m : Me) (c : MeCmd) : Option Cause :=
  match c with
  | .mma k a g0 g1 x w =>
    let t := fldN w 40 8
    let q := fldN w 48 16
    if mmaGeometry k g0 g1 x w = false then some .matrixGeometry
    else if (k = 1 ∧ q ≠ 0) ∨ (k ≠ 1 ∧ t = (m.acc a).atag ∧ q < (m.acc a).nseq)
        ∨ (m.store ++ m.running.toList).any (fun e => e.cmd.ats == some (a, t, q)) = true then some .matrixSeq
    else none
  | .st _ g0 _ a _ => mstFault g0 a
  | _ => none

/-- The place in the order of issue of the next entry. -/
def Me.nextStamp (m : Me) : Nat := ((m.store ++ m.running.toList).map MeEntry.stamp).foldl max 0 + 1

/-- An ME command is issued (R202, R208, R214). -/
def State.meIssue (s : State) (p : Place) (num : Nat) (c : Cmd) : State :=
  let m := (s.tile p.die p.tile).me
  let enter (s : State) (k : MeCmd) : State :=
    match m.refuse k with
    | some f => s.complete p .me num (some f)
    | none => s.updMe p.die p.tile fun m => { m with store := m.store ++ [{ ctx := p.ctx, num := num, cmd := k, stamp := m.nextStamp }] }
  match c with
  | .msetg g a =>
    if s.badAt (lsKey p.die p.tile a) 16 then s.complete p .me num (some .uncorrectable)
    else
      enter (s.updMe p.die p.tile fun m => { m with mg := put m.mg g (mgWords (leNat (s.readLs p a 16))) }) .setg
  | .mma k acc g a w => enter s (.mma k acc (m.mgr g).1 (m.mgr g).2 a w)
  | .mldb l a h => enter s (.ldb l a h)
  | .mplay l => enter s (.play l)
  | .mst acc g a sat => enter s (.st acc (m.mgr g).1 (m.mgr g).2 a sat)
  | .mlda acc a w => enter s (.lda acc a w)
  | .mzero acc w => enter s (.zero acc w)
  | .mrls l => enter s (.rls l)
  | .mseat x k => enter s (.seat x k)
  | _ => s

/-! ### The matching store (R207) -/

/-- Entry number k of the store is ready. On a tile that is deaf, with no seat to ask, a play that would now ask starts, and fails (R217). -/
def Me.ready (m : Me) (deaf : Bool) (k : Nat) (e : MeEntry) : Bool :=
  let older := m.store.take k
  let named (a : Nat) : Bool := older.any fun x => x.cmd.accOf == some a
  let full (l : Nat) : Bool := (m.latch l).st == .full
  match e.cmd with
  | .zero a _ | .lda a _ _ | .st a _ _ _ _ => !named a
  | .mma kind a g0 _ _ w =>
    (mmaLatches g0 w).all full &&
    (if kind = 1 then !named a
     else fldN w 40 8 == (m.acc a).atag && fldN w 48 16 == (m.acc a).nseq
       && !older.any fun x => x.cmd.opener && x.cmd.accOf == some a)
  | .play l => e.granted.isSome || (deaf && !e.asked && !older.any fun x => x.cmd.reads l)
  | .rls l => !older.any fun x => x.cmd.reads l
  | .ldb l _ _ => (m.latch l).st == .free
  | .setg | .seat _ _ => k == 0

/-- Local bytes that a multiplication reads: A rows, then the scale codes and super-scales of a Q4N A (R215). -/
def mmaRanges (g0 g1 a : Word64) : List (Nat × Nat) :=
  let m := mgM g0
  match pairing (mgA g0) (mgB g0) with
  | none => []
  | some p =>
    ((List.range m).map fun i => (a.toNat + i * mgAstride g0, aRowBytes (mgA g0) p))
      ++ (if mgA g0 = 4 then [(fldN g1 32 21, m), (fldN g1 0 21, 4 * m)] else [])

/-- Row i, column j of an accumulator in the output format of an `MST`. To FP32 the code is copied: whether a store of a NaN that an `MLDA`
loaded makes a canonical one (02_numbers.md R22) R218 does not say (log 68). -/
def mstValue (m : Me) (acc : Nat) (g0 : Word64) (sat : Bool) (i j : Nat) : Nat :=
  let src : Elem := if mgO g0 < 4 then .flt fp32 else .int 32
  convert src (meOut (mgO g0)) 0 sat none ((m.acc acc).el i j).toNat

/-- The seat register x after an `MSEAT` (R205, R220): without seats only V changes. -/
def seatOf (x : Seat) (w code : Word64) : Seat :=
  if fldN w 8 8 = 0 then { x with v := false }
  else { v := true, seat := fldN w 0 8, seats := fldN w 8 8, next := fldN w 16 8, prev := fldN w 24 8
         code := code, off := fld w 32 32 }

/-- The number of the tile's seat, where it is seated. -/
def Seat.number (x : Seat) : Option Nat := if x.v then some x.seat else none

/-- The play e fails at its start: the latch that it was granted is FREE again (log 68). -/
def State.playFails (s : State) (d t : Nat) (e : MeEntry) (c : Cause) : State :=
  (match e.granted with
    | none => s
    | some (u, k) => s.updMe d u fun m => m.setLatch k { m.latch k with st := .free }).meDone d t e (some c)

/-- The entry starts: it takes its effect now, or runs with what it has read (R213-R220). A play needs its latch FULL, and a seat: the one that it
had when its latch was granted, or has now (R217, R220). A load of a latch or of an accumulator that meets an uncorrectable word records
`UNCORRECTABLE` and changes nothing else: R216 and R219 name no fate (log 3). -/
def State.meStart (s : State) (d t : Nat) (e : MeEntry) : State :=
  let x := s.tile d t
  let m := x.me
  let run (e : MeEntry) : State := s.updMe d t fun m =>
    { m with store := m.store.filter (fun x => !(x.ctx == e.ctx && x.num == e.num)), running := some e }
  let bad (l : List (Nat × Nat)) : Bool := l.any fun r => s.badAt (lsKey d t r.1) r.2
  let bytes (l : List (Nat × Nat)) : List Byte := l.flatMap fun r => s.readLs ⟨d, t, 0⟩ r.1 r.2
  match e.cmd with
  | .setg => s.meDone d t e none
  | .mma kind a g0 g1 y w =>
    let ls := mmaLatches g0 w
    let int := ((pairing (mgA g0) (mgB g0)).map Pairing.int).getD false
    if (ls.any fun l => fldN (m.latch l).hw0 20 4 != mgB g0) ∨ (kind ≠ 1 ∧ (m.acc a).int ≠ int) then
      s.meDone d t e (some .matrixGeometry)
    else if (ls.any fun l => (m.latch l).bad) ∨ bad (mmaRanges g0 g1 y) then s.meDone d t e (some .uncorrectable)
    else run { e with loaded := bytes (mmaRanges g0 g1 y), latched := ls.flatMap fun l => (m.latch l).data }
  | .ldb l y h =>
    if bad [(y.toNat, 2048)] then s.meDone d t e (some .uncorrectable)
    else
      let hw0 := BitVec.ofNat 64 (fldN h 40 24 * 2 ^ 40 + (if m.seat.v then m.seat.seat else 0) * 2 ^ 32 + t * 2 ^ 24
        + fldN h 20 4 * 2 ^ 20)
      (s.updMe d t fun m => m.setLatch l { st := .full, data := bytes [(y.toNat, 2048)], hw0 := hw0 }).meDone d t e none
  | .play l =>
    let seat := e.seat.or m.seat.number
    if (m.latch l).st ≠ .full then s.playFails d t e .matrixGeometry
    else if seat = none ∨ e.granted = none then s.playFails d t e .rights
    else run { e with seat := seat }
  | .st a g0 _ y sat =>
    if (m.acc a).int ≠ decide (4 ≤ mgO g0) then s.meDone d t e (some .matrixGeometry)
    else
      let size := outBytes g0
      let row (i : Nat) : List Byte := (List.range (mgN g0)).flatMap fun j => leBytes size (mstValue m a g0 sat i j)
      if bit y 63 = false then
        ((List.range (mgM g0)).foldl (fun s i => s.writeLs ⟨d, t, 0⟩ (fldN y 0 21 + i * mgAstride g0) (row i)) s).meDone
          d t e none
      else
        let r0 := fldN y 8 5
        let bs := (List.range (8 / size)).flatMap fun i => row (r0 + i)
        (s.updMe d t fun m => { m with store := m.store.filter fun x => !(x.ctx == e.ctx && x.num == e.num) }).fill d t
          { entry := fldN y 0 6, reg := Reg.clean { tag := meOutTag (mgO g0), bits := BitVec.ofNat 2048 (leNat bs) }
            done := some (⟨d, t, e.ctx⟩, .me, e.num) }
  | .lda _ y _ =>
    if bad [(y.toNat, 4096)] then s.meDone d t e (some .uncorrectable)
    else run { e with loaded := bytes [(y.toNat, 4096)] }
  | .zero _ _ => run e
  | .rls l => (s.updMe d t fun m =>
      if (m.latch l).st = .full then m.setLatch l { m.latch l with st := .free } else m).meDone d t e none
  | .seat w k => (s.updMe d t fun m => { m with seat := seatOf m.seat w k }).meDone d t e none

/-- A play of the tile has no seat to ask: the tile holds none, or its NEXT is no tile that it can reach. -/
def State.deaf (s : State) (d t : Nat) : Bool :=
  let x := (s.tile d t).me.seat
  !x.v || s.noTile d x.next || !(s.die d).joined t x.next

/-- ME_ENTRY_START (R207): the free engine starts its oldest ready entry. At the save rung only a play whose latch was
granted starts (R209). -/
def execMeEntryStart (s : State) : Out :=
  let d := s.focus.die
  let t := s.focus.tile
  let m := (s.tile d t).me
  .next (if m.running.isSome then s
    else
      let list := (List.range m.store.length).zip m.store
      match list.find? fun x => m.ready (s.deaf d t) x.1 x.2 && (x.2.granted.isSome || !s.saving d t) with
      | none => s
      | some x => s.meStart d t x.2)

/-! ### Multiplication (R35, R215) -/

/-- The code of element k of a packed list of bytes. -/
def codeAt (bs : List Byte) (w k : Nat) : Nat :=
  if w = 4 then (bs.getD (k / 2) 0#8).toNat / 2 ^ (k % 2 * 4) % 16 else leNat ((bs.drop (k * (w / 8))).take (w / 8))

/-- Element (k, j) of the B tile that a latch, or both, hold (R203). -/
def bCode (latched : List Byte) (b k j : Nat) : Nat := codeAt latched (if b = 0 then 16 else 8) (32 * k + j)

/-- One group added to an accumulator's element; the first group of an `MMAZ` replaces it (R35, R215). -/
def addGroup (int first : Bool) (c : BitVec 32) (t : FV) (ti : Int) : BitVec 32 :=
  if int then (if first then BitVec.ofInt 32 ti else c + BitVec.ofInt 32 ti)
  else if first then BitVec.ofNat 32 (fp32.rne false t)
  else BitVec.ofNat 32 (fp32.rne false ((fp32.dec c.toNat).add t))

/-- Element (i, j) after a multiplication: `loaded` and `latched` are the bytes it has read. -/
def mmaElem (kind : Nat) (g0 : Word64) (p : Pairing) (loaded latched : List Byte) (i j : Nat) (c : BitVec 32) : BitVec 32 :=
  let af := mgA g0
  let m := mgM g0
  let n := aRowBytes af p
  let row := (loaded.drop (i * n)).take n
  let sc := (loaded.getD (m * n + i) 0#8).toNat
  let ss := leNat ((loaded.drop (m * n + m + 4 * i)).take 4)
  let a (k : Nat) : FV := if af = 4 then q4val (codeAt row 4 k) else (meElem af).val (codeAt row (meElem af).w k)
  let b (k : Nat) : FV := (meElem (mgB g0)).val (bCode latched (mgB g0) k j)
  (List.range (p.k / p.group)).foldl (fun c g =>
    let ks := (List.range p.group).map fun x => g * p.group + x
    let t := FV.sum (ks.map fun k => (a k).mul (b k))
    let t1 := if af = 4 then ((t.mul (FV.ofInt sc)).mul (fp32.dec ss)).mul (.fin false 1 (-8)) else t
    let ti : Int := if p.int then
      (ks.map fun k => sgnN 8 (codeAt row 8 k) * sgnN 8 (bCode latched 3 k j)).foldl (· + ·) 0 else 0
    addGroup p.int (kind == 1 && g == 0) c t1 ti) c

/-- The accumulator after a multiplication (R215). -/
def mmaApply (kind : Nat) (g0 w : Word64) (loaded latched : List Byte) (x : Acc) : Acc :=
  match pairing (mgA g0) (mgB g0) with
  | none => x
  | some p =>
    let cells := (List.range (mgM g0)).flatMap fun i => (List.range (mgN g0)).map fun j => (i, j)
    let base := if kind = 1 then [] else x.elems
    let els := cells.foldl (fun l c => put l (32 * c.1 + c.2) (mmaElem kind g0 p loaded latched c.1 c.2 (x.el c.1 c.2))) base
    if kind = 1 then { elems := els, int := p.int, atag := fldN w 40 8, nseq := 1 }
    else { x with elems := els, nseq := (fldN w 48 16 + 1) % 2 ^ 16 }

/-- Waiting multiplications whose sequence has passed under their tag are refused (R208). -/
def State.meRecheck (s : State) (d t : Nat) : State :=
  let m := (s.tile d t).me
  (m.store.filter fun e => match e.cmd with
    | .mma k a _ _ _ w => k != 1 && fldN w 40 8 == (m.acc a).atag && decide (fldN w 48 16 < (m.acc a).nseq)
    | _ => false).foldl (fun s e => s.meDone d t e (some .matrixSeq)) s

/-- ME_COMMAND_APPLY (R207, R215-R219): the command in progress is applied at the end of its time. A play hands its latch to
the card unit; its number completes with its last card (R206). -/
def execMeCommandApply (s : State) : Out :=
  let d := s.focus.die
  let t := s.focus.tile
  let m := (s.tile d t).me
  .next (match m.running with
    | none => s
    | some e =>
      let s1 := s.updMe d t fun m => { m with running := none }
      let p : Place := ⟨d, t, e.ctx⟩
      let acc (a : Nat) (x : Acc) : State := ((s1.updMe d t fun m => m.setAcc a x).complete p .me e.num none).meRecheck d t
      match e.cmd with
      | .mma k a g0 _ _ w => acc a (mmaApply k g0 w e.loaded e.latched (m.acc a))
      | .zero a w => acc a { int := bit w 0, atag := fldN w 40 8 }
      | .lda a _ w => acc a
          { elems := (List.range 1024).map fun k => (k, BitVec.ofNat 32 (codeAt e.loaded 32 k))
            int := bit w 0, atag := fldN w 40 8, nseq := fldN w 48 16 }
      | .play l =>
        let x := m.latch l
        let hw0 := setFld (setFld x.hw0 32 8 (e.seat.getD 0)) 24 8 t
        let g := e.granted.getD (t, 2)
        let q : Play := { latch := g.2, data := x.data, hw0 := hw0, bad := x.bad, src := p, num := e.num, entry := s.cycle }
        (s1.updMe d t fun m => m.setLatch l { x with st := .free }).updMe d g.1 fun m =>
          { m with plays := m.plays ++ [q] }
      | _ => s1)

/-! ### The table (R206, R217) -/

/-- An entry older than e reads latch l: one of the store, or the command in progress (R206, R207). -/
def Me.olderReads (m : Me) (e : MeEntry) (l : Nat) : Bool :=
  (m.store ++ m.running.toList).any fun x => decide (x.stamp < e.stamp) && x.cmd.reads l

/-- PLAY_REQUEST (R206): the play that is entry number `index` of the store asks the NEXT seat for a latch. One with no seat to ask waits to start,
and fails then. -/
def execPlayRequest (s : State) : Out :=
  let d := s.focus.die
  let t := s.focus.tile
  let m := (s.tile d t).me
  .next (match m.store[s.index]? with
    | none => s
    | some e =>
      match e.cmd with
      | .play l =>
        if e.asked = true ∨ s.saving d t = true ∨ m.olderReads e l = true ∨ s.deaf d t = true then s
        else
          (s.updMe d t fun m => { m with store := m.store.set s.index { e with asked := true } }).updMe d m.seat.next
            fun m => { m with asks := m.asks ++ [(t, e.ctx, e.num)] }
      | _ => s)

/-- PLAY_GRANT (R206): the seat answers ask number `index`: its lower-numbered FREE latch is reserved; a tile without a seat
turns the play away. -/
def execPlayGrant (s : State) : Out :=
  let d := s.focus.die
  let t := s.focus.tile
  let m := (s.tile d t).me
  .next (match m.asks[s.index]? with
    | none => s
    | some (u, c, n) =>
      let drop (s : State) : State := s.updMe d t fun m => { m with asks := dropAt m.asks s.index }
      match (s.tile d u).me.store.find? fun e => e.ctx == c && e.num == n with
      | none => drop s
      | some e =>
        if m.seat.v = false then (drop s).meDone d u e (some .rights)
        else match [0, 1].find? fun l => (m.latch l).st == .free with
          | none => s
          | some l =>
            ((drop s).updMe d t fun m => m.setLatch l { m.latch l with st := .reserved }).updMe d u fun m =>
              { m with store := m.store.map fun x => if x.ctx = c ∧ x.num = n then { x with granted := some (t, l), seat := (s.tile d u).me.seat.number } else x })

/-- LATCH_ARRIVAL (R206): one more of the nine cards of play number `index` arrives. The ninth fills the latch, queues the handler
start and completes the play. The start is of the seat register as it then stands: what one unseated or written since the grant gives R206
does not say (log 68). -/
def execLatchArrival (s : State) : Out :=
  let d := s.focus.die
  let t := s.focus.tile
  let x := s.tile d t
  .next (match x.me.plays[s.index]? with
    | none => s
    | some q =>
      if x.held then s
      else if q.sent < 8 then
        s.updMe d t fun m => { m with plays := m.plays.set s.index { q with sent := q.sent + 1 } }
      else if q.latch = 2 then
        (s.updMe d t fun m => { m with plays := dropAt m.plays s.index }).complete q.src .me q.num none
      else if x.startFull then s
      else
        let (lat, s1) := s.draw (s.cycle - q.entry + 1)
        let st : Start := { code := x.me.seat.code, block := x.me.seat.off, g0 := BitVec.ofNat 64 q.latch, g1 := q.hw0
                            region := x.region
                            hops := some (hopsWord q.src.tile (lat % 2 ^ 16) ((s.die d).hops q.src.tile t)) }
        (s1.updTile d t fun y =>
          { y with startQ := y.startQ ++ [st]
                   me := { y.me.setLatch q.latch { st := .full, data := q.data, hw0 := q.hw0, bad := q.bad } with
                             plays := dropAt y.me.plays s.index } }).complete q.src .me q.num none)

end Sys2Proof.Machine
end

