-- ==== Sys2Proof/Machine/Commit.lean ====
section
/-! DEFINITION. The commit of a block (06_block_engine.md R93, R94, R96, 10_be_local_memory.md R164): its conditions, the
checks made before it, its counted operations in LSID order, its write entries, and the effect of its exit. Marks:
DEDUCED (log 15, 18, 23, 47, 50, 56); DESIGN CHOICE (log 3, 7). Marks: DEDUCED (log 15, 18, 23, 27, 47, 50, 56);
DESIGN CHOICE (log 3, 4, 7, 65). -/

namespace Sys2Proof.Machine

/-! ### The return-address store (R96, R97) -/

/-- The context's registers as the block's `MTS` leave them. -/
def Ctx.afterMts (c : Ctx) (ctx : Nat) (l : List Counted) : Ctx :=
  (sortLsid l).foldl (fun c x => match x.op with
    | .mts n v => c.setSreg ctx n v
    | _ => c) c

/-- What a push or pop of the exit faults with before commit, with its address. -/
def State.rasFault (s : State) (p : Place) (c : Ctx) (k : ExitKind) : Option (Cause × Word64) :=
  let a := c.rasptr.toNat
  match k with
  | .call _ =>
    if c.ras.length < 16 then none
    else if c.raslim.toNat < a + 8 then some (.rasOverflow, 0#64)
    else if lsSize < a + 8 then some (.lsBounds, BitVec.ofNat 64 a)
    else none
  | .ret =>
    if c.ras.length + c.spilled = 0 then some (.rasUnderflow, 0#64)
    else if c.ras ≠ [] then none
    else if a < 8 ∨ lsSize < a then some (.lsBounds, BitVec.ofInt 64 ((a : Int) - 8))
    else if s.badAt (lsKey p.die p.tile (a - 8)) 8 then some (.uncorrectable, 0#64)
    else none
  | _ => none

/-- A block address is pushed; the oldest of 16 spills. -/
def State.rasPush (s : State) (p : Place) (a : BitVec 32) : State :=
  let c := s.ctx p
  if c.ras.length < 16 then s.updCtx p fun c => { c with ras := c.ras ++ [a] }
  else (s.writeLs p c.rasptr.toNat (leBytes 8 (c.ras.headD 0#32).toNat)).updCtx p fun c =>
    { c with ras := c.ras.drop 1 ++ [a], spilled := c.spilled + 1, rasptr := c.rasptr + 8#24 }

/-- The newest address is popped, or the newest spilled one refilled and taken. -/
def State.rasPop (s : State) (p : Place) : BitVec 32 × State :=
  let c := s.ctx p
  match c.ras.reverse with
  | a :: l => (a, s.updCtx p fun c => { c with ras := l.reverse })
  | [] =>
    (BitVec.ofNat 32 (leNat (s.readLs p (c.rasptr.toNat - 8) 4)),
     s.updCtx p fun c => { c with spilled := c.spilled - 1, rasptr := c.rasptr - 8#24 })

/-! ### Tensor writes before commit (11_tensor_access.md R177, 03_memory_model.md R42) -/

/-- What a tensor write finds: it may be performed, waits for a duplication, or is refused. -/
inductive WriteStep where
  | ready (s : State)
  | wait (s : State)
  | refused (c : Cause) (j : Word64) (s : State)

/-- A write by the context at p to elements of a handle's object is checked against entries, and shared frames are duplicated. It waits
while it has no route (R387). -/
def State.checkWrite (s : State) (p : Place) (h : Word64) (ents : Nat → Word64) (els : List C4) (rlx : Bool) : WriteStep :=
  match s.reach (s.ctx p).region h with
  | none => .refused .rights (s.tblIndex h none) s
  | some o =>
    match o.check (s.owners p) true rlx ents els with
    | some (c, x) => .refused c (s.tblIndex h (some x)) s
    | none =>
      match s.cowAll (hobj h) (Desc.indices o.desc els) with
      | ((some j, _), t) => .refused .frameExhausted (BitVec.ofNat 64 j) t
      | ((none, true), t) => .ready t
      | ((none, false), t) => .wait t

/-- The elements of an atomic of n bytes at c (12_tae_instructions.md R185). -/
def atomicEls (d : Desc) (c : C4) (n : Nat) : List C4 :=
  if d.fmt = 0 then (List.range n).map fun i => { c with c0 := c.c0 + i } else [c]

/-- The tensor write of a counted operation: generator, handle, elements, and whether it is a plain store. -/
def CommitOp.writes (s : State) : CommitOp → Option (Nat × Word64 × List C4 × Bool)
  | .storeTensor g h ps => some (g, h, ps.map (·.1), true)
  | .amoTensor g h c n _ _ _ => some (g, h, atomicEls (s.objOf (hobj h)).desc c n, false)
  | .casTensor g h c n _ _ _ => some (g, h, atomicEls (s.objOf (hobj h)).desc c n, false)
  | .vamot g h _ els _ _ => some (g, h, els.map (·.1), false)
  | _ => none

/-- A stream append: generator, element number, value (11_tensor_access.md R174). -/
structure Append where
  g : Nat
  k : Nat
  v : Reg

/-- The appends of a block: its values for write entries that name a bound port. Pops of the block come first. -/
def State.appends (s : State) (p : Place) (r : Run) : List Append :=
  let c := s.ctx p
  (List.range r.nwr).foldl (fun l j => match c.port (r.wrReg j), r.tok (0x60 + j) with
    | some g, some (.val v) =>
      let a := (s.tile p.die p.tile).ag g
      let n := ((c.popsOf r).filter fun x => x == g).length + (l.filter fun x => x.g == g).length
      l ++ [{ g := g, k := a.pos + n, v := v }]
    | _, _ => l) []

/-- The checks of a block before its commit: none when it is ready, else the state that a fault or a duplication leaves. -/
inductive Checked where
  | ready (s : State)
  | stop (s : State)

/-- Tensor stores and atomics, in LSID order; a refusal carries the index of its instruction. -/
def State.checkOps (s : State) (p : Place) : List Counted → Bool → Checked
  | [], waits => if waits then .stop s else .ready s
  | x :: l, waits =>
    match x.op.writes s with
    | none => s.checkOps p l waits
    | some (g, h, els, plain) =>
      match s.checkWrite p h (s.objOf (hobj h)).entry els (plain && ((s.tile p.die p.tile).ag g).rlx true) with
      | .ready t => t.checkOps p l waits
      | .wait t => t.checkOps p l true
      | .refused c j t =>
        .stop ((t.updTile p.die p.tile fun y => y.setAg g { y.ag g with cause := some c }).faultAt p (some x.index) c h j)

/-- Appends; a refusal faults the block with no index. Each is translated through its generator, whose entry ends on the last frame
touched (R172, R174). -/
def State.checkAppends (s : State) (p : Place) : List Append → Bool → Checked
  | [], waits => if waits then .stop s else .ready s
  | x :: l, waits =>
    let a := (s.tile p.die p.tile).ag x.g
    if a.len ≤ x.k then .stop (s.portFault p x.g .window (s.tblIndex a.handle none))
    else if x.v.tag ≠ a.tag then
      .stop ((s.updTile p.die p.tile fun t => t.setAg x.g { a with cause := some .tagFault }).faultAt p none .tagFault 0#64 0#64)
    else
      let id := hobj a.handle
      let js := Desc.indices (s.objOf id).desc (a.elsAt x.k)
      if s.open p.die p.tile (.gen x.g) id (a.elsAt x.k) = false then s.checkAppends p l true
      else
        let (ents, s1) := s.translateAll p.die p.tile (.gen x.g) id js
        match s1.checkWrite p a.handle (look 0#64 ents) (a.elsAt x.k) (a.rlx true) with
        | .ready t => t.checkAppends p l waits
        | .wait t => t.checkAppends p l true
        | .refused c j t => .stop (t.portFault p x.g c j)

/-- What the block must pass before its commit, once its conditions hold (R96, 11_tensor_access.md R174, R177). -/
def State.checkBlock (s : State) (p : Place) (r : Run) (e : FiredExit) : Checked :=
  match s.rasFault p ((s.ctx p).afterMts p.ctx r.counted) e.kind with
  | some (c, a) => .stop (s.faultAt p (some e.index) c a 0#64)
  | none =>
    match s.checkOps p (sortLsid r.counted) false with
    | .stop t => .stop t
    | .ready t => t.checkAppends p (t.appends p r) false

/-! ### Counted operations (R94) -/

/-- A value reaches the write entry reserved for it (10_be_local_memory.md R161). -/
def State.setEntry (s : State) (p : Place) (dst : BitVec 7) (v : Reg) : State :=
  if dst = 0x7F#7 then s else s.updRun p fun r => { r with tokens := r.tokens ++ [(dst.toNat, .val v)] }

/-- The tile of p reports a machine check to the die controller. -/
def State.report (s : State) (p : Place) : State := s.updDie p.die fun x => { x with checks := x.checks ++ [p.tile] }

/-- A local atomic of n bytes: f gives what it writes (R161). -/
def State.amoLs (s : State) (p : Place) (a n : Nat) (f : Nat → Option Nat) (dst : BitVec 7) : State :=
  if s.badAt (lsKey p.die p.tile a) n then (s.report p).setEntry p dst (Reg.ofW 0#64)
  else
    let old := leNat (s.readLs p a n)
    (match f old with
     | some v => s.writeLs p a (leBytes n v)
     | none => s).setEntry p dst (amoResult n old)

/-- Bad words among the elements of an object. -/
def State.badEls (s : State) (o : Obj) (els : List C4) : Bool :=
  els.any fun c => s.badEl (o.entry (Desc.locate o.desc c).1) (Desc.locate o.desc c).2 (Desc.bits o.desc)

/-- A tensor atomic of n bytes at its home (12_tae_instructions.md R185). -/
def State.amoObj (s : State) (p : Place) (h : Word64) (c : C4) (n : Nat) (f : Nat → Option Nat) (dst : BitVec 7) : State :=
  let o := s.objOf (hobj h)
  let els := atomicEls o.desc c n
  let w := Desc.bits o.desc
  if s.badEls o els then (s.report p).setEntry p dst (Reg.ofW 0#64)
  else
    let old := els.foldr (fun c v => s.peekObj o c + 2 ^ w * v) 0
    (match f old with
     | some v => ((List.range els.length).zip els).foldl (fun (s : State) (x : Nat × C4) => s.pokeObj o x.2 (v / 2 ^ (w * x.1) % 2 ^ w)) s
     | none => s).setEntry p dst (amoResult n old)

/-- What a compare-and-swap of n bytes writes. -/
def casWrite (n : Nat) (e v : Word64) (old : Nat) : Option Nat :=
  if old = e.toNat % 2 ^ (8 * n) then some (v.toNat % 2 ^ (8 * n)) else none

/-- Lanes added elementwise at an object's home, a bad word left as it is (12_tae_instructions.md R186). -/
def State.addLanes (s : State) (p : Place) (h : Word64) (t : Tag) (els : List (C4 × Nat)) (mode : Nat) (sat : Bool) : State :=
  let o := s.objOf (hobj h)
  match t.fmt with
  | none => s
  | some f =>
    els.foldl (fun s x =>
      if s.badEls o [x.1] then s.report p
      else s.pokeObj o x.1 (f.round mode sat none ((f.dec (s.peekObj o x.1)).add (f.dec x.2)))) s

/-- Translations of an object and an index, or all, leave the holders of a scope (28_traps_preemption.md R365). -/
def State.tlbi (s : State) (p : Place) (scope : Nat) (h i : Word64) : State :=
  let obj := if h = 0#64 then none else some (hobj h)
  let j := if i.toInt = -1 then none else some i.toNat
  let tileIn (k : Nat) : Bool :=
    if scope = 0 then k == p.die * 144 + p.tile else if scope = 1 then k / 144 == p.die else true
  let dieIn (d : Nat) : Bool := if scope = 0 then false else if scope = 1 then d == p.die else true
  { s with
    tiles := s.tiles.map fun t => if tileIn t.1 then (t.1, t.2.invalidate obj j) else t
    dies := s.dies.map fun d =>
      if dieIn d.1 then (d.1, d.2.invalidate obj j) else d }

/-- A join's `TJOIN` has returned (22_task_dispatcher.md R294). -/
def State.joinedOnce (s : State) (id : BitVec 32) : State :=
  let d := s.taskHub id
  let n := idSlot id
  if 32 ≤ d then s
  else match (s.slot d n).inst with
    | none => s
    | some (e, k) =>
      (s.updTd e fun t => { t with insts := t.insts.map fun i => if i.n = k then { i with joined := i.joined ++ [n] } else i }).releaseInst
        e k

/-- `NTXC` in the commit: it begins, waits for the outcome, and delivers it; a transaction that the block has aborted before gives outcome 4
(26_nd_instructions.md R346). -/
def State.ntxcTurn (s : State) (p : Place) (t : Nat) (dst : BitVec 7) : Bool × State :=
  let d := p.die
  let own (n : Nd) : Option Txn := (n.txn? t).filter fun x => x.begunBy p (s.ctx p).runNo
  let s1 := match own (s.nd d) with
    | some x => if x.phase = TxnPhase.collecting then s.prepareAll d t else s
    | none => s
  match own (s1.nd d) with
  | none => (true, s1.setEntry p dst (Reg.ofW 4#64))
  | some x =>
    match x.outcome with
    | none => (false, s1)
    | some c =>
      (true, ((s1.updTxn d t fun x => { x with taken := true }).txnSettled d t).setEntry p dst (Reg.ofW (BitVec.ofNat 64 c)))

/-- The trap handlers that serve context n settle its faults no more (28_traps_preemption.md R356). -/
def Tile.settled (t : Tile) (n : Nat) : Tile :=
  let f := BitVec.ofNat 3 n
  { t with ctxs := t.ctxs.map fun c => (c.1, if c.2.trapRun = true ∧ c.2.fctx = f then { c.2 with fended := f :: c.2.fended } else c.2) }

/-- The image written into a context by `CTXRS` (28_traps_preemption.md R356, R364). An IDLE context begins a run of its own. -/
def State.restoreCtx (s : State) (p : Place) (n : Nat) (img : List Byte) : State :=
  let q : Place := { p with ctx := n }
  let old := (s.ctx q).phase
  let (k, s1) := s.draw 8
  let fill (c : Ctx) : Ctx := if old = .idle then { c.restore n k img with runNo := s.cycle + 1 } else c.restore n k img
  ((s1.updTile p.die p.tile fun t => t.settled n).updCtx q fill |>.updTile p.die p.tile fun t =>
    let t1 := { t with trapQ := t.trapQ.filter fun x => x.ctx != n }
    if old = .faulted then t1.setLb (48 + n) { t1.lb (48 + n) with full := false } else t1).see q

/-- A command without a timeline is performed: whether it is done, and the state. `GSET` and `SBIND` take effect at the end
of the commit (12_tae_instructions.md R188, R189). -/
def State.plainCmd (s : State) (p : Place) (c : Cmd) : Bool × State :=
  let d := p.die
  match c with
  | .csetg n a =>
    (true, if s.badAt (lsKey d p.tile a) 64 then s.report p
      else s.updTile d p.tile fun t => { t with cgs := put t.cgs n (BitVec.ofNat 512 (leNat (s.readLs p a 64))) })
  | .tdec id n => (true, s.sendDec d (s.taskOn p) (s.ctx p).region id n false)
  | .tkill id sub => (true, s.sendKill d id sub false)
  | .tjoined id => (true, s.joinedOnce id)
  | .ntxa t key h => (true, s.ntxaCommit p t key h)
  | .ntxc t dst => s.ntxcTurn p t dst
  | .ntxx t => (true, s.updNd d fun n => { n with txns := n.txns.filter fun x =>
      !(x.id == t && x.phase == .collecting && x.begunBy p (s.ctx p).runNo) })
  | .nbind key h =>
    (true, s.send d (s.nameHub key)
      (.bind { key := key, obj := if h = 0#64 then none else some (hobj h), region := (s.ctx p).region }))
  | .svc n v => (true, if n = 0x10#64 ∧ v.toNat ≤ 1 then s.updDie d fun x => { x with dbgen := v == 1#64 } else s)
  | .ctxsv n a => (true, s.writeLs p a ((s.ctx { p with ctx := n }).image n (s.taskOn p)))
  | .ctxrs n img => (true, s.restoreCtx p n img)
  | .tlbi scope h i => (true, s.tlbi p scope h i)
  | _ => (true, s)

/-- The number that the next command of an engine takes (01_machine.md R17). -/
def State.takeNumber (s : State) (p : Place) (e : Engine) : Nat × State :=
  let n := (s.ctx p).issue.get e + 1
  (n, s.updCtx p fun c => { c with issue := c.issue.set e n })

/-- A command for an engine is issued, or waits while the engine's queue is full (11_tensor_access.md R179,
13_matrix_engine.md R207, 18_msg_instructions.md R271). The Dealer has no queue. -/
def State.engineCmd (s : State) (p : Place) (e : Engine) (c : Cmd) : Bool × State :=
  let t := s.tile p.die p.tile
  let (n, s1) := s.takeNumber p e
  match e with
  | .ce =>
    let deal := match c with
      | .deal _ _ => true
      | _ => false
    if t.copyFull && !deal then (false, s) else (true, s1.ceIssue p n c)
  | .me => if t.me.full then (false, s) else (true, s1.meIssue p n c)
  | .mse => if t.mseFull then (false, s) else (true, s1.mseIssue p n c)

/-- A tensor write at its place in the commit: it waits while it has no route or a frame of it is duplicated (R176, R387). -/
def State.whenOwned (s : State) (p : Place) (id : BitVec 32) (els : List C4) (k : State → State) : Bool × State :=
  if s.open p.die p.tile .none id els = false then (false, s)
  else match s.cowAll id (Desc.indices (s.objOf id).desc els) with
    | ((none, true), t) => (true, k t)
    | (_, t) => (false, t)

/-- One counted operation is performed: whether it is done, and the state. A `LAND` frees its entry at its commit, also one that another context's
`LAND` has freed since it fired and a transfer has filled again (06_block_engine.md R99, log 15). -/
def State.performOne (s : State) (p : Place) (x : CommitOp) : Bool × State :=
  let tensor (h : Word64) (els : List C4) (k : State → State) : Bool × State := s.whenOwned p (hobj h) els k
  match x with
  | .idle none => (true, s)
  | .idle (some e) =>
    let (n, s1) := s.takeNumber p e
    (true, s1.complete p e n none)
  | .storeLocal a bs => (true, s.writeLs p a bs)
  | .scatterLocal l => (true, l.foldl (fun s b => s.writeLs p b.1 b.2) s)
  | .amoLocal a n op b dst => (true, s.amoLs p a n (fun old => some (amoValue op n old b.toNat)) dst)
  | .casLocal a n e v dst => (true, s.amoLs p a n (casWrite n e v) dst)
  | .land k => (true, s.updTile p.die p.tile fun t => t.setLb k { t.lb k with full := false })
  | .fence eng _ _ => ((engines eng).all fun e => decide ((s.ctx p).issue.get e ≤ (s.ctx p).done.get e), s)
  | .mts n v => (true, s.updCtx p fun c => c.setSreg p.ctx n v)
  | .storeTensor _ h ps => tensor h (ps.map (·.1)) fun t => ps.foldl (fun t b => t.pokeObj (t.objOf (hobj h)) b.1 (leNat b.2)) t
  | .amoTensor _ h c n op b dst =>
    tensor h (atomicEls (s.objOf (hobj h)).desc c n) fun t => t.amoObj p h c n (fun old => some (amoValue op n old b.toNat)) dst
  | .casTensor _ h c n e v dst =>
    tensor h (atomicEls (s.objOf (hobj h)).desc c n) fun t => t.amoObj p h c n (casWrite n e v) dst
  | .vamot _ h t els mode sat => tensor h (els.map (·.1)) fun u => u.addLanes p h t els mode sat
  | .cmd none c => s.plainCmd p c
  | .cmd (some e) c => s.engineCmd p e c

/-! ### The end of the commit (R94 steps 2 to 4) -/

/-- An append is performed (11_tensor_access.md R174). -/
def State.doAppend (s : State) (p : Place) (x : Append) : State :=
  let a := (s.tile p.die p.tile).ag x.g
  let o := s.objOf (hobj a.handle)
  ((a.elsAt x.k).zip (lanes a.tag.lanes a.tag.shape.2 x.v.bits)).foldl (fun s e => s.pokeObj o e.1 e.2) s

/-- Write entry j writes its register, the high bits that its tag does not use as zero (02_numbers.md R25); a recorded token of the register is
reused no more (R57, R98). -/
def Ctx.writeBack (c : Ctx) (r : Run) (j : Nat) : Ctx :=
  let g := r.wrReg j
  match c.port g, r.tok (0x60 + j) with
  | none, some (.val v) => { c.setReg g v.clean with reuse := c.reuse.filter fun x => x.2.2.2.1 != g }
  | _, _ => c

/-- The tokens that read entries with RU = 1 delivered are recorded (R98). -/
def Ctx.record (c : Ctx) (r : Run) : Ctx :=
  let new := (List.range r.nrd).filterMap fun j =>
    match if r.rdReuse j && (c.port (r.rdReg j)).isNone then r.tok (r.rdTarget j) else none with
    | some t => some (c.code, c.block, j, r.rdReg j, t)
    | none => none
  { c with reuse := (c.reuse.filter fun x => !(x.1 == c.code && x.2.1 == c.block)) ++ new }

/-- Streams move on: by the block's pops and appends; what the context's generators have read ahead is dropped. -/
def Tile.moveStreams (t : Tile) (ctx : Nat) (gs : List Nat) : Tile :=
  { t with ags := t.ags.map fun a => (a.1, { a.2 with
      pos := a.2.pos + (gs.filter fun g => g == a.1).length
      ahead := if a.2.owner = ctx then [] else a.2.ahead }) }

/-- `GSET` and `SBIND` take effect (12_tae_instructions.md R188, R189). -/
def State.rebindPorts (s : State) (p : Place) : CommitOp → State
  | .cmd none (.gset g h cg) =>
    s.updTile p.die p.tile fun t => t.setAg g (agOf p.ctx h cg (Desc.tag (s.objOf (hobj h)).desc))
  | .cmd none (.sbind n none) => s.updCtx p fun c => { c with ports := del c.ports n }
  | .cmd none (.sbind n (some g)) => s.updCtx p fun c => { c with ports := put (c.ports.filter fun b => b.2 != g) n g }
  | _ => s

/-- The exit takes effect (R94 step 4, 07_be_control.md R103-R111). -/
def State.exitEffect (s : State) (p : Place) (size : Nat) (e : FiredExit) : State :=
  let next := (s.ctx p).block + BitVec.ofNat 32 (32 + 4 * size)
  let s1 := s.updCtx p fun c => { c with lastExit := BitVec.ofNat 3 e.num, run := none, bkptSkip := false }
  let go (s : State) (t : BitVec 32) : State := s.updCtx p fun c => { c with block := t }
  match e.kind with
  | .branch t => go s1 t
  | .call t => go (s1.rasPush p next) t
  | .ret =>
    let (t, s2) := s1.rasPop p
    go s2 t
  | .barrier t =>
    let k := (s1.ctx p).barriers + 1
    let n := idSlot (s1.taskOn p)
    let s2 := (go s1 t).updCtx p fun c => { c with barriers := k }
    match (s1.slot p.die n).rect with
    | none => s2
    | some r =>
      if (s1.liveTiles p.die r).length ≤ 1 then s2
      else (s2.updTd p.die fun d => { d with arrivals := d.arrivals ++ [(n, k, r.rank p.tile)] }).updCtx p fun c =>
        { c with atBarrier := some (k, s.cycle) }
  | .texit code => s1.updCtx p fun c => { c with phase := .draining, texit := code }
  | .hret => s1.endHandler p
  | .eret => (s1.resumeFaulted p).endHandler p

/-- The block's appends can be performed: a snapshot taken since the checks may have shared a frame again (R176, 25_name_directory.md
R336), a link may have been declared down (R387). -/
def State.appendsReady (s : State) (p : Place) : List Append → Bool × State
  | [] => (true, s)
  | x :: l =>
    let a := (s.tile p.die p.tile).ag x.g
    match s.whenOwned p (hobj a.handle) (a.elsAt x.k) id with
    | (true, t) => t.appendsReady p l
    | (false, t) => (false, t)

/-- The commit ends: write entries, streams, bindings, exit. -/
def State.commitEnd (s : State) (p : Place) : State :=
  match (s.ctx p).run with
  | none => s
  | some r =>
    let aps := s.appends p r
    let s1 := aps.foldl (fun s x => s.doAppend p x) s
    let s2 := s1.updCtx p fun c => (List.range r.nwr).foldl (fun c j => c.writeBack r j) (c.record r)
    let s3 := s2.updTile p.die p.tile fun t => t.moveStreams p.ctx ((s2.ctx p).popsOf r ++ aps.map Append.g)
    let s4 := (sortLsid r.counted).foldl (fun s x => s.rebindPorts p x.op) s3
    let s5 := s4.progress p.die (s4.ctx p).region
    (match r.exits with
     | e :: _ => s5.exitEffect p r.size e
     | [] => s5).see p

/-! ### The block's provisional events (26_nd_instructions.md R339) -/

/-- A window of an object that its owner's `GSET` was granted becomes active. -/
def activate (w : Win) : List Win → List Win
  | [] => []
  | x :: l => if x = w then { w with active := true } :: l else x :: activate w l

/-- A provisional event becomes final (12_tae_instructions.md R188, 23_td_instructions.md R316, R317). -/
def State.confirm (s : State) (p : Place) (v : Prov) : State :=
  match v with
  | .window o w => s.setObj o { s.objOf o with wins := activate w (s.objOf o).wins }
  | .openRef o _ | .close o _ | .made o _ => s.send p.die (s.objHub o) (.confirm ⟨v⟩)
  | .spawn d n raw =>
    let hs := Rec.handles raw
    let s1 := hs.foldl (fun s h => s.ref (Rec.region raw) h) s
    (s1.setSlot d n { s1.slot d n with kind := .task, raw := raw, refs := hs }).enter d n
  | .inst d n => s.commitInst d n
  | .bind _ _ _ | .txn _ _ _ | .txnAdd _ _ _ _ _ | .frame _ | .joined _ => s

/-- The provisional events of the instruction of an index become final, at its place in the LSID order (R339). -/
def State.confirmAt (s : State) (p : Place) (i : Nat) : State :=
  match (s.ctx p).run with
  | none => s
  | some r => (r.provs.filter fun v => v.1 == i).foldl (fun s v => s.confirm p v.2) s

/-- One counted operation of a commit whose task is to end: a fence passes, a command that finds its engine full takes its number and
is preempted (13_matrix_engine.md R209, 23_td_instructions.md R320). -/
def State.performCut (s : State) (p : Place) (x : CommitOp) : Bool × State :=
  match x with
  | .fence _ _ _ => (true, s)
  | .cmd (some e) c =>
    match s.engineCmd p e c with
    | (true, t) => (true, t)
    | (false, _) =>
      let (n, t) := s.takeNumber p e
      (true, t.complete p e n (some .preempted))
  | x => s.performOne p x

/-- Counted operations are performed in order until one must wait; after the last, and when its appends can be performed, the commit
ends. -/
def State.perform (s : State) (p : Place) : List Counted → State
  | [] =>
    match (s.ctx p).run with
    | none => s
    | some r =>
      match s.appendsReady p (s.appends p r) with
      | (true, t) => t.commitEnd p
      | (false, t) => t
  | x :: l =>
    match if (s.ctx p).run.any Run.cut then s.performCut p x.op else s.performOne p x.op with
    | (true, t) => ((t.confirmAt p x.index).updRun p fun r => { r with rest := l }).perform p l
    | (false, t) => t

/-- Two `LAND`s of one entry free it once, at the lower LSID (R99). -/
def freeOnce (freed : List Nat) : List Counted → List Counted
  | [] => []
  | x :: l =>
    match x.op with
    | .land k => (if freed.contains k then { x with op := .idle none } else x) :: freeOnce (k :: freed) l
    | _ => x :: freeOnce freed l

/-- The conditions of R93: the exit that fired where they hold. -/
def Run.complete (r : Run) : Option FiredExit :=
  match r.exits with
  | [e] =>
    if ((List.range r.nwr).all fun j => (r.tok (0x60 + j)).isSome || r.reserved.contains (0x60 + j))
        && r.counted.length == r.ncnt then some e else none
  | _ => none

/-- The stochastic generator after the block: moved by its draws under `ROUND` = 4, unless its `MTS` writes `SRSEED`
(02_numbers.md R29). -/
def Ctx.drawn (c : Ctx) (r : Run) : Ctx :=
  let writes := r.counted.any fun x => match x.op with
    | .mts n _ => n == 0x012
    | _ => false
  if c.round ≠ 4 ∨ writes = true then c else { c with srseed := BitVec.ofNat 32 (drawsAfter r.draws c.srseed.toNat) }

/-- BLOCK_COMMIT (R93, R94): the block in flight of the context in focus commits where its conditions and checks hold; a commit that waits goes
on where it stands. -/
def execBlockCommit (s : State) : Out :=
  let p := s.focus
  let c := s.ctx p
  .next (match c.run with
    | none => s
    | some r =>
      if (s.die p.die).stopped then s
      else if r.cut then (s.perform p r.rest).settleEnding p.die p.tile
      else if c.phase ≠ .running ∨ c.frozen = true ∨ r.live = false then s
      else if r.committing then s.perform p r.rest
      else match r.complete with
        | none => s
        | some e =>
          match s.checkBlock p r e with
          | .stop t => t
          | .ready t =>
            let l := freeOnce [] (sortLsid r.counted)
            ((t.updCtx p fun c => c.drawn r).updRun p fun r => { r with committing := true, rest := l }).perform p l)

end Sys2Proof.Machine
end

