-- ==== Sys2Proof/Machine/Control.lean ====
section
/-! DEFINITION. Exits, traps, fillers and tokens (07_be_control.md R103-R116). An exit that fires is recorded; its
effect is performed at commit (`BLOCK_COMMIT`). -/

namespace Sys2Proof.Machine

/-- An exit fires; a second one of its block faults (R93, R95, R103). -/
def exitAct (num : Nat) (k : ExitKind) (s : State) : Act :=
  match (s.ctx s.focus).run with
  | none => .notYet
  | some r =>
    if r.exits = [] then
      .done [] none (s.updRun s.focus fun r => { r with exits := [⟨s.index, num, k⟩] })
    else .flt .blockMultiExit

/-- The address OFF20 × 32 from the current block (R54, R104). -/
def branchTo (s : State) (o : BitVec 20) : BitVec 32 :=
  (s.ctx s.focus).block + o.signExtend 32 * 32#32

/-- An exit whose target is an offset in an I64 token (R106). -/
def indirect (e : BitVec 3) (k : BitVec 32 → ExitKind) : List Reg → State → Act
  | [a], s =>
    if a.tag ≠ .i64 then .flt .tagFault
    else if fldN a.w 32 32 ≠ 0 then .flt .window
    else exitAct e.toNat (k (fld a.w 0 32)) s
  | _, _ => .notYet

/-- An exit that takes no data. -/
def plainExit (num : Nat) (k : State → ExitKind) : List Reg → State → Act := fun _ s => exitAct num (k s) s

/-- `BRB` in a handler context faults (R107). -/
def barrierExit (e : BitVec 3) (o : BitVec 20) : List Reg → State → Act := fun _ s =>
  if s.focus.ctx ≠ 0 then .flt .handlerWait else exitAct e.toNat (.barrier (branchTo s o)) s

/-- The left token is copied, of any tag from 1 to 14 (R115). -/
def copyAct : List Reg → State → Act :=
  unary (fun t => t != .empty && t != .reserved15) fun a => a

/-- BRO (R104): branch by an offset. -/
def execBro (p : BitVec 2) (e : BitVec 3) (o : BitVec 20) (s : State) : Out :=
  .next (fire (shapeOf (.bro p e o) s.index) (plainExit e.toNat fun s => .branch (branchTo s o)) s)

/-- BRB (R107): branch once every gang tile has arrived. -/
def execBrb (p : BitVec 2) (e : BitVec 3) (o : BitVec 20) (s : State) : Out :=
  .next (fire (shapeOf (.brb p e o) s.index) (barrierExit e o) s)

/-- CALLO (R105): push the next sequential block and branch. -/
def execCallo (p : BitVec 2) (e : BitVec 3) (o : BitVec 20) (s : State) : Out :=
  .next (fire (shapeOf (.callo p e o) s.index) (plainExit e.toNat fun s => .call (branchTo s o)) s)

/-- RET (R105): go to the block popped. -/
def execRet (p : BitVec 2) (e : BitVec 3) (s : State) : Out :=
  .next (fire (shapeOf (.ret p e) s.index) (plainExit e.toNat fun _ => .ret) s)

/-- ERET (R111): end the trap handler and resume the context that `FCTX` names. -/
def execEret (p : BitVec 2) (e : BitVec 3) (s : State) : Out :=
  .next (fire (shapeOf (.eret p e) s.index) (plainExit e.toNat fun _ => .eret) s)

/-- BRI (R106): branch to the offset in a token. -/
def execBri (p : BitVec 2) (e : BitVec 3) (s : State) : Out :=
  .next (fire (shapeOf (.bri p e) s.index) (indirect e .branch) s)

/-- CALLI (R105, R106): push, and branch to the offset in a token. -/
def execCalli (p : BitVec 2) (e : BitVec 3) (s : State) : Out :=
  .next (fire (shapeOf (.calli p e) s.index) (indirect e .call) s)

/-- TEXIT (R109): end the tile's part of the task with an exit code. -/
def execTexit (p : BitVec 2) (c : BitVec 5) (s : State) : Out :=
  .next (fire (shapeOf (.texit p c) s.index) (plainExit 0 fun _ => .texit c.toNat) s)

/-- HRET (R110): end the handler. -/
def execHret (p : BitVec 2) (s : State) : Out :=
  .next (fire (shapeOf (.hret p) s.index) (plainExit 0 fun _ => .hret) s)

/-- TRAP (R112): the block faults with the code. -/
def execTrap (p : BitVec 2) (i : BitVec 11) (s : State) : Out :=
  .next (fire (shapeOf (.trap p i) s.index) (fun _ _ => .fault .trap (i.setWidth 64) 0#64) s)

/-- NOP (R113): no effect. -/
def execNop (p : BitVec 2) (s : State) : Out :=
  .next (fire (shapeOf (.nop p) s.index) (fun _ s => .done [] none s) s)

/-- NULL (R114): a null to both targets. -/
def execNull (p : BitVec 2) (t : BitVec 7) (u : BitVec 7) (s : State) : Out :=
  .next (fire (shapeOf (.null p t u) s.index) (fun _ s => .done [.null] none s) s)

/-- MOV (R115): the left token to two targets. -/
def execMov (p : BitVec 2) (t : BitVec 7) (u : BitVec 7) (s : State) : Out :=
  .next (fire (shapeOf (.mov p t u) s.index) (copyAct) s)

/-- MOV3 (R115): the left token to three targets. -/
def execMov3 (p : BitVec 2) (t : BitVec 7) (u : BitVec 7) (v : BitVec 7) (s : State) : Out :=
  .next (fire (shapeOf (.mov3 p t u v) s.index) (copyAct) s)

/-- MOVI (R116): a sign-extended constant. -/
def execMovi (p : BitVec 2) (i : BitVec 16) (t : BitVec 7) (s : State) : Out :=
  .next (fire (shapeOf (.movi p i t) s.index) (fun _ s => .res s (Reg.ofW (i.signExtend 64))) s)

/-- GENU (R116): a zero-extended constant. -/
def execGenu (p : BitVec 2) (i : BitVec 16) (t : BitVec 7) (s : State) : Out :=
  .next (fire (shapeOf (.genu p i t) s.index) (fun _ s => .res s (Reg.ofW (i.setWidth 64))) s)

end Sys2Proof.Machine
end

