-- ==== Sys2Proof/Machine/Wire.lean ====
section
/-! DEFINITION. The bodies of messages between hubs as bytes (17_erasure_coding.md R253-R255): exchange records as they are, a card's payload,
and for the other kinds records whose layout the spec leaves to the hubs. Marks: DESIGN CHOICE (log 36, 69). -/

namespace Sys2Proof.Machine

/-! ### Writing a record: a list of 64-bit numbers -/

/-- The words of a place, of a coordinate. -/
def Place.words (p : Place) : List Nat := [p.die, p.tile, p.ctx]

@[inherit_doc Place.words]
def C4.words (c : C4) : List Nat := [c.c0, c.c1, c.c2, c.c3]

/-- The words of a window and of its owner. -/
def Owner.words : Owner → List Nat
  | .task id => [0, id.toNat, 0, 0, 0]
  | .handler p run => 1 :: p.words ++ [run]
  | .host fn q seq => [2, fn, q, seq, 0]

@[inherit_doc Owner.words]
def Win.words (w : Win) : List Nat :=
  w.owner.words ++ w.org.words ++ w.ext.words ++ [b2n w.rw + 2 * b2n w.sync + 4 * b2n w.active]

/-- The words of a register value of 2,048 bits. -/
def vecWords (v : Vec) : List Nat := (List.range 32).map fun i => fldN v (64 * i) 64

/-- The words of a provisional event. -/
def Prov.words : Prov → List Nat
  | .window o w => 0 :: o.toNat :: w.words
  | .openRef o r => [1, o.toNat, r]
  | .close o r => [2, o.toNat, r]
  | .bind k o r => [3, k.toNat, b2n o.isSome, (o.map BitVec.toNat).getD 0, r]
  | .made o r => [4, o.toNat, r]
  | .txn t p n => 5 :: t :: n :: p.words
  | .txnAdd t p n k h => 6 :: t :: n :: k.toNat :: h.toNat :: p.words
  | .spawn d n raw => 7 :: d :: n :: vecWords raw
  | .inst d n => [8, d, n]
  | .frame f => [9, f]
  | .joined id => [10, id.toNat]

/-- The words of what is asked of a hub. -/
def ReqKind.words : ReqKind → List Nat
  | .window ag h w => 0 :: ag :: h.toNat :: w.words
  | .opn k w => [1, k.toNat, b2n w]
  | .snap h => [2, h.toNat]
  | .svc n v => [3, n.toNat, v.toNat]
  | .place n k o w => 4 :: n :: k :: o.toNat :: w.words
  | .stat n sel => [5, n, sel]
  | .spawn raw => 6 :: vecWords raw
  | .close h => [7, h.toNat]
  | .bind k h => [8, k.toNat, b2n h.isSome, (h.map BitVec.toNat).getD 0]
  | .query sel x => [9, sel, x.toNat]

def Req.words (r : Req) : List Nat := r.place.words ++ [r.serial, r.index, r.region] ++ r.kind.words

/-- The words of a token that a hub answers: a null, or a scalar. -/
def Token.words : Token → List Nat
  | .null => [0, 0, 0]
  | .val r => [1, r.tag.num, r.w.toNat]

/-- The words of an answer. -/
def Result.words : Result → List Nat
  | .tokens t u => 0 :: t.words ++ (match u with
    | none => [0]
    | some x => 1 :: x.words)
  | .refused c => [1, c.code]

def Reply.words (r : Reply) : List Nat :=
  r.place.words ++ [r.serial, r.index] ++ r.result.words ++ (match r.prov with
    | none => [0]
    | some v => 1 :: v.words)

/-- The bytes of a list of words. -/
def numBytes (l : List Nat) : List Byte := l.flatMap (leBytes 8)

/-- The body of a message (R253): a card's payload, an exchange unit's records, or a record as laid out here (log 69). A name of a prepare takes
14 bytes: its key, and its handle without the zero bits. -/
def Body.record : Body → List Byte
  | .card c => c.payload
  | .flush f => f.recs.flatMap XRec.bytes
  | .xreturn _ l => l.flatMap XRec.bytes
  | .xoverflow _ r _ => r.bytes
  | .dec d => numBytes [0, d.target.toNat, d.n, d.source.toNat, d.region, b2n d.final]
  | .kill k => numBytes [1, k.target.toNat, b2n k.sub, b2n k.policy]
  | .allow t w n => numBytes [0, t, w.toNat, n]
  | .refresh t m w => numBytes [1, t, m, w.toNat]
  | .openReq r => numBytes (0 :: r.words)
  | .windowReq r => numBytes (1 :: r.words)
  | .snapReq r => numBytes (2 :: r.words)
  | .ask r => numBytes (3 :: r.words)
  | .granted n k o w y => numBytes (4 :: n :: k :: o.toNat :: b2n y :: w.words)
  | .reply r => numBytes (5 :: r.words)
  | .bind b => numBytes [6, b.key.toNat, b2n b.obj.isSome, (b.obj.map BitVec.toNat).getD 0, b.region]
  | .confirm c => numBytes (7 :: c.prov.words)
  | .withdraw c => numBytes (8 :: c.prov.words)
  | .prepare p => numBytes [9, p.txn.toNat, p.region * 2 ^ 8 + p.entries.length]
      ++ p.entries.flatMap fun e => leBytes 8 e.1.toNat ++ leBytes 7 (e.2.toNat / 2 ^ 16 * 2 ^ 8 + b2n (e.2.setWidth 16 != 0#16))
  | .vote t _ y c => numBytes [10, t, b2n y, c]
  | .decision t _ y => numBytes [11, t.toNat, b2n y]
  | .decisionAck t _ => numBytes [12, t]
  | .joinUpdate j how task cause exit => numBytes [13, j.toNat, how, task.toNat, cause, exit]
  | .inquiry q => numBytes [14, q.txn.toNat, q.key.toNat]
  | .beat _ => numBytes [0]
  | .news _ l => numBytes [1, l]
  | .halt _ on rs => numBytes [2, b2n on, rs.length] ++ rs.flatMap (leBytes 2)
  | .link c b => (match b with
    | .ack h => leBytes 4 h
    | .repair q present => leBytes 4 q ++ leBytes 3 present.toNat
    | .busy q => leBytes 4 q
    | .giveup q => leBytes 4 q) ++ leBytes 1 c

/-! ### Reading a record -/

/-- A reader of words; what a record does not hold reads 0. -/
abbrev Rd := StateM (List Nat)

namespace Rd

def num : Rd Nat := fun l => (l.headD 0, l.tail)

def flag : Rd Bool := do return (← num) == 1

def bits (n : Nat) : Rd (BitVec n) := do return BitVec.ofNat n (← num)

def place : Rd Place := do return { die := ← num, tile := ← num, ctx := ← num }

def c4 : Rd C4 := do return { c0 := ← num, c1 := ← num, c2 := ← num, c3 := ← num }

def owner : Rd Owner := do
  let k ← num
  let (a, b, c, d) := (← num, ← num, ← num, ← num)
  return if k = 0 then .task (BitVec.ofNat 32 a) else if k = 1 then .handler ⟨a, b, c⟩ d else .host a b c

def win : Rd Win := do
  let (w, o, e, f) := (← owner, ← c4, ← c4, ← num)
  return { owner := w, org := o, ext := e, rw := f % 2 == 1, sync := f / 2 % 2 == 1, active := f / 4 % 2 == 1 }

def vec : Rd Vec := fun l => (BitVec.ofNat 2048 ((l.take 32).foldr (fun a n => a % 2 ^ 64 + 2 ^ 64 * n) 0), l.drop 32)

/-- A value that may be absent. -/
def opt {α : Type} (f : Nat → α) : Rd (Option α) := do
  let (y, v) := (← flag, ← num)
  return if y then some (f v) else none

def prov : Rd Prov := do
  match ← num with
  | 0 => return .window (← bits 32) (← win)
  | 1 => return .openRef (← bits 32) (← num)
  | 2 => return .close (← bits 32) (← num)
  | 3 => return .bind (← bits 64) (← opt (BitVec.ofNat 32)) (← num)
  | 4 => return .made (← bits 32) (← num)
  | 5 => let (t, n, p) := (← num, ← num, ← place); return .txn t p n
  | 6 => let (t, n, k, h, p) := (← num, ← num, ← bits 64, ← bits 64, ← place); return .txnAdd t p n k h
  | 7 => return .spawn (← num) (← num) (← vec)
  | 8 => return .inst (← num) (← num)
  | 9 => return .frame (← num)
  | _ => return .joined (← bits 32)

def reqKind : Rd ReqKind := do
  match ← num with
  | 0 => return .window (← num) (← bits 64) (← win)
  | 1 => return .opn (← bits 64) (← flag)
  | 2 => return .snap (← bits 64)
  | 3 => return .svc (← bits 64) (← bits 64)
  | 4 => return .place (← num) (← num) (← bits 32) (← win)
  | 5 => return .stat (← num) (← num)
  | 6 => return .spawn (← vec)
  | 7 => return .close (← bits 64)
  | 8 => return .bind (← bits 64) (← opt (BitVec.ofNat 64))
  | _ => return .query (← num) (← bits 64)

/-- A request of a context of hub src, received now. -/
def req (src now : Nat) : Rd Req := do
  let (p, a, b, c, k) := (← place, ← num, ← num, ← num, ← reqKind)
  return { place := { p with die := src }, serial := a, index := b, region := c, kind := k, since := now }

def token : Rd Token := do
  let (k, t, v) := (← num, ← num, ← bits 64)
  return if k = 0 then .null else .val { tag := Tag.ofNum t, bits := v.setWidth 2048 }

def result : Rd Result := do
  if ← flag then return .refused ((Cause.ofCode (← num)).getD .rights)
  else
    let t ← token
    if ← flag then return .tokens t (some (← token)) else return .tokens t none

/-- A reply to a context of die d. -/
def reply (d : Nat) : Rd Reply := do
  let (p, a, b, r) := (← place, ← num, ← num, ← result)
  let v ← if ← flag then some <$> prov else pure none
  return { place := { p with die := d }, serial := a, index := b, result := r, prov := v }

end Rd

/-- The words of a record. -/
def recordWords (bs : List Byte) : List Nat := (List.range (bs.length / 8)).map fun i => leNat ((bs.drop (8 * i)).take 8)

/-- The names of a prepare. -/
def prepareNames (bs : List Byte) : Nat → List (Word64 × Word64)
  | 0 => []
  | n + 1 =>
    let h := leNat ((bs.drop 8).take 7)
    (BitVec.ofNat 64 (leNat (bs.take 8)), BitVec.ofNat 64 (h / 2 ^ 8 * 2 ^ 16 + h % 2)) :: prepareNames (bs.drop 15) n

/-- Directory traffic (MTYPE 4) read from a record, from hub src to die d. -/
def directoryBody (src d now : Nat) (bs : List Byte) : Option Body :=
  let go : Rd (Option Body) := do
    match ← Rd.num with
    | 0 => return some (.openReq (← Rd.req src now))
    | 1 => return some (.windowReq (← Rd.req src now))
    | 2 => return some (.snapReq (← Rd.req src now))
    | 3 => return some (.ask (← Rd.req src now))
    | 4 =>
      let (n, k, o, y, w) := (← Rd.num, ← Rd.num, ← Rd.bits 32, ← Rd.flag, ← Rd.win)
      return some (.granted n k o w y)
    | 5 => return some (.reply (← Rd.reply d))
    | 6 => return some (.bind { key := ← Rd.bits 64, obj := ← Rd.opt (BitVec.ofNat 32), region := ← Rd.num })
    | 7 => return some (.confirm ⟨← Rd.prov⟩)
    | 8 => return some (.withdraw ⟨← Rd.prov⟩)
    | 9 =>
      let (t, n) := (← Rd.bits 32, ← Rd.num)
      return some (.prepare { coord := src, txn := t, entries := prepareNames (bs.drop 24) (n % 2 ^ 8), region := n / 2 ^ 8 })
    | 10 => return some (.vote (← Rd.num) src (← Rd.flag) (← Rd.num))
    | 11 => return some (.decision (← Rd.bits 32) src (← Rd.flag))
    | 12 => return some (.decisionAck (← Rd.num) src)
    | 13 =>
      let (j, h, t, c, e) := (← Rd.bits 32, ← Rd.num, ← Rd.bits 32, ← Rd.num, ← Rd.num)
      return some (.joinUpdate j h t c e)
    | 14 => return some (.inquiry { txn := ← Rd.bits 32, home := src, key := ← Rd.bits 64 })
    | _ => return none
  (go (recordWords bs)).1

/-- Records of a size, from their bytes. -/
def splitRecs (src size : Nat) (bs : List Byte) : List XRec :=
  (List.range (bs.length / size)).map fun i =>
    let b := (bs.drop (size * i)).take size
    { hdr := BitVec.ofNat 64 (leNat (b.take 8)), bytes := b, src := { die := src }, num := 0 }

/-- The records of a flush that its answer returns, in order. -/
def matchRecs : List XRec → List XRec → List XRec
  | r :: l, b :: m => if r.bytes = b.bytes then r :: matchRecs l m else matchRecs l (b :: m)
  | _, _ => []

/-- A link control body (17_erasure_coding.md R263-R265): the class of the messages it speaks of, and what it says. -/
def linkBody (mtype : Nat) (bs : List Byte) : Nat × Link :=
  let n := leNat (bs.take 4)
  let c := leNat ((bs.drop (if mtype = 7 then 7 else 4)).take 1) % 4
  (c, if mtype = 6 then .ack n else if mtype = 7 then .repair n (BitVec.ofNat 24 (leNat ((bs.drop 4).take 3)))
  else if mtype = 8 then .busy n else .giveup n)

/-- The body of a message of another module, from its type, its destination and source words and its bytes: none where the type or the record
names none. An answer to a flush is to the oldest flush sent there (16_message_engine.md R249). -/
def State.bodyOf (s : State) (src d mtype : Nat) (w0 w1 : Word64) (ordered : Bool) (bs : List Byte) : Option Body :=
  let w (i : Nat) : Nat := (recordWords bs).getD i 0
  if mtype = 0 then
    let from_ : Place := { die := src, tile := fldN w1 41 8, ctx := fldN w1 38 3 }
    some (.card { hw0 := w0, hw1 := w1, payload := bs, src := from_, ordered := ordered })
  else if mtype = 1 then
    let size := 64 * (fldN w0 24 2 + 1)
    some (.flush { src := src, n := 0, dest := setFld w0 41 8 (fldN w0 16 8), size := size, recs := splitRecs src size bs })
  else if mtype = 2 then
    let x := (s.die d).xu
    (x.flushes.find? fun f => s.hubOf (x.dest f.dest).dest == src).map fun f =>
      .xreturn f.n (matchRecs f.recs (splitRecs d (((f.recs.head?.map fun r => r.bytes.length).getD 64)) bs))
  else if mtype = 3 then
    some (if w 0 = 0 then .dec { target := BitVec.ofNat 32 (w 1), n := w 2, source := BitVec.ofNat 32 (w 3), region := w 4, final := w 5 == 1 }
    else .kill { target := BitVec.ofNat 32 (w 1), sub := w 2 == 1, policy := w 3 == 1 })
  else if mtype = 4 then directoryBody src d s.cycle bs
  else if mtype = 5 then
    some (if w 0 = 0 then .allow (w 1) (BitVec.ofNat 64 (w 2)) (w 3) else .refresh (w 1) (w 2) (BitVec.ofNat 64 (w 3)))
  else if 6 ≤ mtype ∧ mtype ≤ 9 then some (.link (linkBody mtype bs).1 (linkBody mtype bs).2)
  else if mtype = 10 then
    some (if w 0 = 0 then .beat src else if w 0 = 1 then .news src (w 1)
      else .halt src (w 1 == 1) ((List.range (w 2)).map fun i => leNat ((bs.drop (24 + 2 * i)).take 2)))
  else none

end Sys2Proof.Machine
end

