-- ==== Sys2Proof/Machine/Fabric.lean ====
section
/-! DEFINITION. The fabric: erasure-coded messages, melds, filters and retention (17_erasure_coding.md R253-R267), chords,
links, the pod and membership (16_message_engine.md R240-R246, R251, R252). Marks: DEDUCED (log 37, 38, 39, 46, 54,
57); DESIGN CHOICE (log 4, 12, 20, 34, 35, 36, 69, 70). -/

namespace Sys2Proof.Machine

/-! ### The code (R256) -/

/-- The low byte of x · 2 modulo 0x11D. -/
def gfDouble (x : Nat) : Nat := if x < 128 then 2 * x else (2 * x) ^^^ 0x11D

/-- Product in GF(2⁸): the low n bits of b, from bit k on. -/
def gfMulGo (b : Nat) : Nat → Nat → Nat → Nat
  | 0, _, _ => 0
  | n + 1, k, x => (if b / 2 ^ k % 2 = 1 then x else 0) ^^^ gfMulGo b n (k + 1) (gfDouble x)

def gfMul (a b : Nat) : Nat := gfMulGo b 8 0 a

/-- The inverse of a nonzero element: its power 254. -/
def gfInv (a : Nat) : Nat := (List.range 253).foldl (fun x _ => gfMul x a) a

/-- P[j][i]. -/
def parityCoeff (j i : Nat) : Nat := gfMul (16 ^^^ i) (gfInv ((16 + j) ^^^ i))

/-- Bytes of fragment payloads. -/
def fragBytes : Nat := 64

/-- Data fragments of a body of that length: k of R253. -/
def dataCount (len : Nat) : Nat := max 1 ((len + 63) / 64)

/-- Data fragment i of a body. -/
def dataFrag (bs : List Byte) (i : Nat) : List Byte := (List.range 64).map fun b => bs.getD (64 * i + b) 0#8

/-- The sum of rows of bytes, each times a coefficient. -/
def gfSum (l : List (Nat × List Nat)) : List Nat :=
  (List.range 64).map fun b => l.foldl (fun x e => x ^^^ gfMul e.1 (e.2.getD b 0)) 0

/-- Parity fragment j of a body of k data fragments. -/
def parityFrag (bs : List Byte) (k j : Nat) : List Byte :=
  (gfSum ((List.range k).map fun i => (parityCoeff j i, (dataFrag bs i).map BitVec.toNat))).map (BitVec.ofNat 8)

/-- The payload of the fragment of an index. -/
def fragPayload (bs : List Byte) (k idx : Nat) : List Byte := if idx < 16 then dataFrag bs idx else parityFrag bs k (idx - 16)

/-- Column c is cleared in every row but row c. Row c has a nonzero entry there: every square submatrix of the code is
invertible. -/
def gaussStep (rows : List (List Nat)) (c : Nat) : List (List Nat) :=
  let p := rows.getD c []
  let q := p.map (gfMul (gfInv (p.getD c 0)))
  (List.range rows.length).map fun i =>
    let r := rows.getD i []
    if i = c then q else List.zipWith (fun x y => x ^^^ gfMul (r.getD c 0) y) r q

/-- The body that k distinct fragments determine (R260). -/
def decodeFrags (k : Nat) (fs : List (Nat × List Byte)) : List Byte :=
  let have_ := fs.filter fun f => decide (f.1 < 16)
  let par := fs.filter fun f => decide (16 ≤ f.1)
  let miss := (List.range k).filter fun i => !have_.any fun f => f.1 == i
  let rows := par.map fun f =>
    miss.map (parityCoeff (f.1 - 16)) ++
      gfSum ((1, f.2.map BitVec.toNat) :: have_.map fun g => (parityCoeff (f.1 - 16) g.1, g.2.map BitVec.toNat))
  let solved := (List.range miss.length).foldl gaussStep rows
  (List.range k).flatMap fun i =>
    match have_.find? fun f => f.1 == i with
    | some f => f.2
    | none => match (List.range miss.length).find? fun n => miss.getD n 0 == i with
      | some n => ((solved.getD n []).drop miss.length).map (BitVec.ofNat 8)
      | none => List.replicate 64 0#8

/-! ### Sending (R254-R258) -/

/-- A hub of this module. -/
def onPanel (h : Nat) : Bool := decide (h < 32)

/-- Words 0 to 2 of a fragment header, with SEQ, IDX, KM1 and CHORD zero (R254, R255). -/
def Msg.prefix (m : Msg) (len : Nat) : List Byte :=
  wordsBytes [m.dest, m.srcw, BitVec.ofNat 64 (b2n m.ordered * 2 ^ 20 + m.cls % 4 * 2 ^ 18 + m.mtype % 16 * 2 ^ 14 + len % 2 ^ 11)]

/-- The body of a message, as it is coded (R253). -/
def Msg.coded (m : Msg) : List Byte :=
  let bs := m.body.record
  if onPanel m.dst then bs else m.prefix (24 + bs.length) ++ bs

/-- M_PER16 and M_BASE of CODERATE n (R257). -/
def Fab.rate (f : Fab) (n : Nat) : Nat × Nat := look (if n < 4 then (2, 1) else (4, 1)) f.coderate n

/-- Parity fragments of a message of k data fragments: m of R257. -/
def Fab.parityCount (f : Fab) (dst cls k : Nat) : Nat :=
  let (per, base) := f.rate ((if onPanel dst then 0 else 4) + cls)
  min 8 (base + (k * per + 15) / 16)

/-- The site at which a walk over links from site a ends: none where a link does not go on from the one before (16_message_engine.md R242). -/
def walkLinks : Nat → List Nat → Option Nat
  | a, [] => some a
  | a, l :: r =>
    let (u, v) := linkEnds l
    if 112 ≤ l then none else if u = a then walkLinks v r else if v = a then walkLinks u r else none

/-- The chords from die d to another that firmware's computation gives: paths of panel links that end there and share no link (R242, 01_machine.md
R8). What of it is no such path is left out. -/
def chordTable (d e : Nat) : List (List Nat) :=
  ((Config.chords d e).take 4).foldl (fun t c =>
    if walkLinks (dieSite d) c = some (dieSite e) ∧ !(t.any fun y => y.any c.contains) then t ++ [c] else t) []

def Fab.chord (f : Fab) (dst c : Nat) : Chord := look {} f.chords (4 * dst + c)

/-- The links of chord c from die d to another, by the chord table of d (R242). -/
def State.chordLinks (s : State) (d dst c : Nat) : List Nat := ((s.die d).fab.chord dst c).links

/-- Chord c of die d to another exists, its entry is valid, and d has not marked it unavailable. A link that has lost lock and is not yet
declared down still counts as up (R242, R244). -/
def State.chordOpen (s : State) (d dst c : Nat) : Bool :=
  let x := (s.die d).fab.chord dst c
  x.valid && x.up && x.links != []

/-- Every link of the chord carries flits. -/
def State.chordSound (s : State) (d dst c : Nat) : Bool := (s.chordLinks d dst c).all fun k => s.link k == .up

/-- The first of the items that is least by a measure. -/
def leastBy (f : Nat → Nat) : List Nat → Option Nat
  | [] => none
  | a :: l =>
    match leastBy f l with
    | none => some a
    | some b => if f b < f a then some b else some a

/-- Spray order: the shortest, the longest, the second shortest, and so on (R258). -/
def sprayGo (len : Nat → Nat) : Nat → Bool → List Nat → List Nat
  | 0, _, _ => []
  | n + 1, short, l =>
    match leastBy (fun c => if short then len c else 1000 - len c) l with
    | none => []
    | some c => c :: sprayGo len n (!short) (l.filter (· != c))

/-- The planes available from die d to a module: the rim die of the plane's station is reached, and the plane leads there (R246, log 70). -/
def State.planes (s : State) (d module_ : Nat) : List Nat :=
  let rims := s.rims d
  (List.range 32).filter fun p => rims.contains (stationRim p) && Config.planeOpen module_ p

/-- The chords, or planes, available from die d to a hub, in spray order. -/
def State.spray (s : State) (d dst : Nat) : List Nat :=
  if onPanel dst then sprayGo (fun c => (s.chordLinks d dst c).length) 4 true ((List.range 4).filter (s.chordOpen d dst))
  else s.planes d ((dst - 32) / 32)

/-- One bit of CRC-32C (Castagnoli), and one byte of it. -/
def crcBit (c : Nat) : Nat := if c % 2 = 1 then (c / 2) ^^^ 0x82F63B78 else c / 2

@[inherit_doc crcBit]
def crcByte (c : Nat) (b : Byte) : Nat := (List.range 8).foldl (fun c _ => crcBit c) (c ^^^ b.toNat)

/-- CRC-32C of a list of bytes. -/
def crc32c (bs : List Byte) : Nat := bs.foldl crcByte 0xFFFFFFFF ^^^ 0xFFFFFFFF

/-- Words 0 to 2 of a panel fragment's header (R254). -/
def Frag.words (x : Frag) : List Word64 :=
  let m := x.msg
  [m.dest, m.srcw, BitVec.ofNat 64 (m.seq % 2 ^ 32 * 2 ^ 32 + x.idx % 32 * 2 ^ 27 + (x.k - 1) % 16 * 2 ^ 23 + x.chord % 4 * 2 ^ 21
    + b2n m.ordered * 2 ^ 20 + m.cls % 4 * 2 ^ 18 + m.mtype % 16 * 2 ^ 14 + x.rsv.toNat * 2 ^ 11 + m.coded.length % 2 ^ 11)]

/-- FCRC of a panel fragment (R254). -/
def Frag.fcrc (x : Frag) : Nat := crc32c (wordsBytes x.words ++ x.payload)

/-- A fragment as it leaves: one for the panel carries its FCRC, one for the pod has the integrity of the data-link layer (R254, R255). -/
def Frag.sealed (x : Frag) : Frag := if onPanel x.msg.dst then { x with w3 := BitVec.ofNat 64 x.fcrc } else x

/-- Fragments of a message leave, the first being fragment n of the message; none where no chord is available. -/
def Msg.emit (m : Msg) (k n : Nat) (order idxs : List Nat) : List Frag × List (Nat × Nat) :=
  let bs := m.coded
  if order = [] then ([], [])
  else
    let on (i : Nat) : Nat := order.getD ((n + i) % order.length) 0
    let ps := (List.range idxs.length).map fun i => (idxs.getD i 0, on i)
    (ps.map fun x => Frag.sealed { msg := m, k := k, idx := x.1, chord := x.2, payload := fragPayload bs k x.1 }, ps)

/-- `MELD_TIMEOUT` of a hub for a peer (R257). -/
def Fab.timeout (f : Fab) (peer : Nat) : Nat := if onPanel peer then f.tmoPanel else f.tmoPod

/-- The indices of a message in send order: data, then m parity (R258). -/
def sendOrder (k m : Nat) : List Nat := List.range k ++ (List.range m).map (16 + ·)

/-- Messages of one destination and class in flight at most; bytes of the retention buffer (R263). -/
def flightLimit : Nat := 256

@[inherit_doc flightLimit]
def retentionBytes : Nat := 2 ^ 21

/-- The last SEQ used to a destination in a class. -/
def Fab.lastSeq (f : Fab) (dst cls : Nat) : Nat := ((f.seqs.find? fun x => x.1 == dst && x.2.1 == cls).map fun x => x.2.2).getD 0

/-- MESSAGE_SEND (R258, R261, R263): message number `index` of the die's outbox, the first to its destination in its class, is coded and sprayed. -/
def execMessageSend (s : State) : Out :=
  let d := s.focus.die
  let f := (s.die d).fab
  .next (match f.outbox[s.index]? with
    | none => s
    | some m0 =>
      let before := (f.outbox.take s.index).any fun x => x.dst == m0.dst && x.cls == m0.cls
      let flight := (f.retained.filter fun r => r.msg.dst == m0.dst && r.msg.cls == m0.cls).length
      let held := (f.retained.map fun r => 64 * r.k).sum
      let m := { m0 with seq := f.lastSeq m0.dst m0.cls + 1 }
      let k := dataCount m.coded.length
      let par := f.parityCount m.dst m.cls k
      if before = true ∨ flightLimit ≤ flight ∨ retentionBytes < held + 64 * k then s
      else
        let (fs, used) := m.emit k 0 (s.spray d m.dst) (sendOrder k par)
        let r : Ret := { msg := m, k := k, sent := k + par, parity := par, par := par, tmo := f.timeout m.dst, limit := f.repairLimit
                         timer := s.cycle, used := used }
        let s1 : State := { s with frags := s.frags ++ fs }
        s1.updFab d fun f => { f with
          outbox := dropAt f.outbox s.index
          retained := f.retained ++ [r]
          seqs := f.seqs.filter (fun x => !(x.1 == m.dst && x.2.1 == m.cls)) ++ [(m.dst, m.cls, m.seq)] })

/-! ### Completed-ID filters (R261, R263) -/

def Fab.filter (f : Fab) (src cls : Nat) : Filter :=
  (f.filters.find? fun x => x.src == src && x.cls == cls).getD { src := src, cls := cls }

def Fab.setFilter (f : Fab) (x : Filter) : Fab :=
  { f with filters := f.filters.filter (fun y => !(y.src == x.src && y.cls == x.cls)) ++ [x] }

/-- The sequence is at or below H, or MARKED. -/
def Filter.late (x : Filter) (seq : Nat) : Bool := decide (seq ≤ x.h) || x.marked.contains seq

/-- H advances over the DONE sequences that follow it. -/
def Filter.advance : Nat → Filter → Filter
  | 0, x => x
  | n + 1, x =>
    if x.done.contains (x.h + 1) then
      Filter.advance n { x with h := x.h + 1, done := x.done.filter (· != x.h + 1), marked := x.marked.filter (· != x.h + 1) }
    else x

/-- A link control message about messages of a class: on VC2, SEQ 0, its body coded with k = 1 and the parity of CLASS 2 (R253, R263,
16_message_engine.md R225). -/
def State.controlMsg (s : State) (d dst cls : Nat) (b : Link) : Msg :=
  let w := s.bodyWords d dst (.link cls b)
  { src := d, dst := dst, cls := 2, ordered := false, mtype := (Body.link cls b).kind.1, body := .link cls b, dest := w.1, srcw := w.2 }

/-- A link control message leaves for a hub. It is not retained (R263). -/
def State.control (s : State) (d dst cls : Nat) (b : Link) : State :=
  { s with frags := s.frags ++
      ((s.controlMsg d dst cls b).emit 1 0 (s.spray d dst) (sendOrder 1 ((s.die d).fab.parityCount dst 2 1))).1 }

/-- An ACK carrying H leaves (R263). -/
def State.ack (s : State) (d src cls : Nat) : State :=
  let x := (s.die d).fab.filter src cls
  (s.updFab d fun f => f.setFilter { x with acked := x.h, grownAt := none }).control d src cls (.ack x.h)

/-- A sequence is completed at its destination; an ACK leaves when H has grown by 16 (R261, R263). -/
def State.completed (s : State) (d src cls seq : Nat) : State :=
  let x := (s.die d).fab.filter src cls
  let y := Filter.advance 257 { x with done := if seq ≤ x.h then x.done else x.done ++ [seq] }
  let z := { y with grownAt := if y.h = x.h then x.grownAt else x.grownAt.or (some s.cycle) }
  let s1 := s.updFab d fun f => f.setFilter z
  if z.acked + 16 ≤ z.h then s1.ack d src cls else s1

/-- A sequence is MARKED. -/
def Fab.mark (f : Fab) (src cls seq : Nat) : Fab :=
  let x := f.filter src cls
  f.setFilter { x with marked := x.marked ++ [seq] }

/-- The counters of a hub change. -/
def State.tally (s : State) (d : Nat) (g : Counters → Counters) : State := s.updFab d fun f => { f with counters := g f.counters }

/-! ### Fragments (R254, R259, R261) -/

/-- Meld buffers of a hub, and those that only CLASS 2 may use (R259). -/
def meldLimit : Nat := 512

@[inherit_doc meldLimit]
def meldReserve : Nat := 64

/-- A fragment fails the checks of R253 and R254: a reserved type, IDX inconsistent with KM1, reserved bits, FCRC. -/
def Frag.refused (x : Frag) : Bool :=
  decide (11 ≤ x.msg.mtype) || (decide (x.k ≤ x.idx) && decide (x.idx < 16)) || decide (24 ≤ x.idx) || x.rsv != 0#3
    || (onPanel x.msg.src && x.w3 != BitVec.ofNat 64 x.fcrc)

def Meld.holds (b : Meld) (m : Msg) : Bool := b.msg.src == m.src && b.msg.cls == m.cls && b.msg.seq == m.seq

/-- A fragment goes to its meld buffer at die d, or opens one, or is discarded with a BUSY. -/
def State.toMeld (s : State) (d : Nat) (x : Frag) : State :=
  let f := (s.die d).fab
  match f.melds.find? fun b => b.holds x.msg with
  | some b =>
    if (b.frags.any fun e => e.1 == x.idx) = true then s.tally d fun c => { c with lateFrag := c.lateFrag + 1#32 }
    else
      let add (y : Meld) : Meld := if y.holds x.msg = true then { y with frags := y.frags ++ [(x.idx, x.payload)] } else y
      s.updFab d fun f => { f with melds := f.melds.map add }
  | none =>
    let room := if x.msg.cls = 2 then meldLimit else meldLimit - meldReserve
    let used := if x.msg.cls = 2 then f.melds.length else (f.melds.filter fun b => b.msg.cls != 2).length
    if room ≤ used ∨ meldLimit ≤ f.melds.length then
      (s.tally d fun c => { c with busys := c.busys + 1#32 }).control d x.msg.src x.msg.cls (.busy x.msg.seq)
    else s.updFab d fun f => { f with melds := f.melds ++
      [{ msg := x.msg, k := x.k, frags := [(x.idx, x.payload)], opened := s.cycle, tmo := f.timeout x.msg.src, limit := f.repairLimit }] }

/-- A fragment that has reached die d is checked and filtered. -/
def State.takeFrag (s : State) (d : Nat) (x : Frag) : State :=
  let y := (s.die d).fab.filter x.msg.src x.msg.cls
  if x.refused ∨ y.h + 256 < x.msg.seq then
    (s.tally d fun c => { c with fragBad := c.fragBad + 1#32 }).count (lossCounter x.msg.src d x.chord)
  else if y.late x.msg.seq then
    (s.tally d fun c => { c with lateFrag := c.lateFrag + 1#32 }).ack d x.msg.src x.msg.cls
  else s.toMeld d x

/-- A link control message of k = 1 is read from one fragment: parity divided out where it is one (R263). -/
def State.takeLink (s : State) (d : Nat) (x : Frag) (mtype : Nat) (bs : List Byte) : State :=
  if x.refused ∨ x.k ≠ 1 then s.tally d fun c => { c with fragBad := c.fragBad + 1#32 }
  else { s with linkMsgs := s.linkMsgs ++ [(x.msg.src, d, (linkBody mtype bs).1, (linkBody mtype bs).2)] }

/-- A fragment for another module as a write of its station into that module's aperture (R255, 16_message_engine.md R245). -/
def Frag.write (x : Frag) : PodWrite :=
  let m := x.msg
  { plane := x.chord, module_ := (m.dst - 32) / 32, data := x.payload
    off := m.src % 32 * 2 ^ 50 + m.seq % 2 ^ 32 * 2 ^ 18 + x.idx % 32 * 2 ^ 13 + (x.k - 1) % 16 * 2 ^ 9 + m.cls % 4 * 2 ^ 7 + b2n m.ordered * 2 ^ 6 }

/-- FRAGMENT_ARRIVAL (R259, R261): fragment number `index` in flight arrives. One for another module leaves by its station; one on a chord with
a failing link is lost (R244). A die without quorum holds its meld buffers as they are: link control takes none (R263), and a message of its die
controller that one fragment holds whole is read from it (log 70). -/
def execFragmentArrival (s : State) : Out :=
  .next (match s.frags[s.index]? with
    | none => s
    | some x =>
      let s1 : State := { s with frags := dropAt s.frags s.index }
      let d := x.msg.dst
      if onPanel d = false then { s1 with podOut := s1.podOut ++ [x.write] }
      else if (s.die d).live = false then s1
      else if s.chordSound x.msg.src d x.chord = false then s1
      else if 6 ≤ x.msg.mtype ∧ x.msg.mtype ≤ 9 then s1.takeLink d x x.msg.mtype (decodeFrags 1 [(x.idx, x.payload)])
      else if (s.die d).stopped then (if x.msg.mtype = 10 ∧ x.k = 1 ∧ x.refused = false then s1.accept d none x.msg.body else s)
      else s1.takeFrag d x)

/-! ### Delivery (R260-R262) -/

/-- A card delivered at die d enters its mesh, with its payload from the meld; one for no tile is dropped, and its number completes with
`RIGHTS` (R226, R241). -/
def State.deliverCard (s : State) (d : Nat) (m : Msg) (c : Card) : State :=
  let key := (m.src, m.cls, m.seq)
  let t := fldN c.hw0 41 8
  if s.noTile d t then
    let s1 := s.updFab d fun f => { f with finishing := f.finishing ++ [key] }
    if onPanel m.src then s1.updTile m.src c.src.tile fun x => { x with mse := x.mse.map fun e =>
      if e.ctx = c.src.ctx ∧ e.num = c.num then { e with fault := e.fault.or (some .rights) } else e } else s1
  else { s with freeCtr := s.freeCtr + 1 }.accept d (some key) (.card (s.enterMesh m.src d 0 c))

/-- The body of a message from its bytes (R253, R255): one of this module's is as it was sent, with a card's payload as decoded; one of another
module is read from its prefix and record. None where these name no body at this die. -/
def State.received (s : State) (d : Nat) (m : Msg) (bs : List Byte) : Option Body :=
  if onPanel m.src then match m.body with
    | .card c => some (.card { c with payload := bs.take c.payload.length })
    | y => some y
  else
    let w (i : Nat) : Word64 := BitVec.ofNat 64 (leNat ((bs.drop (8 * i)).take 8))
    if fldN (w 0) 49 5 ≠ d then none
    else s.bodyOf m.src d (fldN (w 2) 14 4) (w 0) (w 1) m.ordered ((bs.take (fldN (w 2) 0 11)).drop 24)

/-- MELD_DELIVERY (R260, R262): meld buffer number `index` of the die holds k fragments and its turn has come: the message is delivered to the
unit it names, its ID marked and the buffer freed. The destination has finished at once with all but cards. -/
def execMeldDelivery (s : State) : Out :=
  let d := s.focus.die
  let f := (s.die d).fab
  .next (match f.melds[s.index]? with
    | none => s
    | some b =>
      let m := b.msg
      if b.frags.length < b.k ∨ (s.die d).stopped = true ∨ (m.ordered = true ∧ (f.filter m.src m.cls).h + 1 ≠ m.seq) then s
      else
        let fs := b.frags.take b.k
        let s1 := (s.updFab d fun f => { f with melds := dropAt f.melds s.index }.mark m.src m.cls m.seq).tally d fun c =>
          { c with decodes := if fs.any fun e => decide (16 ≤ e.1) then c.decodes + 1#32 else c.decodes }
        let done (s : State) : State := s.updFab d fun f => { f with finishing := f.finishing ++ [(m.src, m.cls, m.seq)] }
        match s1.received d m (decodeFrags b.k fs) with
        | some (.card c) => s1.deliverCard d m c
        | some y => done ((s1.accept d none y).serveAsks d)
        | none => done (s1.tally d fun c => { c with fragBad := c.fragBad + 1#32 }))

/-- MESSAGE_COMPLETED (R261): the destination has finished with message number `index`: it is completed. -/
def execMessageCompleted (s : State) : Out :=
  let d := s.focus.die
  .next (match (s.die d).fab.finishing[s.index]? with
    | none => s
    | some (src, cls, seq) =>
      (s.updFab d fun f => { f with finishing := dropAt f.finishing s.index }).completed d src cls seq)

/-! ### Timers (R263-R267) -/

/-- The fabric timers of a die count: it knows of no debug halt that is in force on the module (R267). -/
def State.timersRun (s : State) (d : Nat) : Bool := (s.die d).halts == []

/-- ACK_TIMER (R263): 1,024 cycles after H of filter number `index` grew, an ACK leaves. -/
def execAckTimer (s : State) : Out :=
  let d := s.focus.die
  .next (match (s.die d).fab.filters[s.index]? with
    | none => s
    | some x =>
      match x.grownAt with
      | none => s
      | some t => if t + 1024 ≤ s.cycle ∧ s.timersRun d = true then s.ack d x.src x.cls else s)

/-- Link control message number `index` in flight arrives: a repeat of the last of its source within half of `MELD_TIMEOUT` is discarded; k acts
on one of its kind (R263). One that would change the meld buffers of a die without quorum waits (16_message_engine.md R252). -/
def controlArrival (holds : Bool) (kind : Link → Bool) (k : Nat → Nat → Nat → Link → State → State) (s : State) : Out :=
  .next (match s.linkMsgs[s.index]? with
    | none => s
    | some (src, dst, cls, b) =>
      let s1 : State := { s with linkMsgs := dropAt s.linkMsgs s.index }
      if kind b = false ∨ (holds = true ∧ (s.die dst).stopped = true) then s
      else if onPanel dst = false ∨ (s.die dst).live = false then s1
      else
        let f := (s.die dst).fab
        let again := f.acted.any fun x => x.1 == src && x.2.1 == cls && x.2.2.2 == b
          && decide (s.cycle < x.2.2.1 + f.timeout src / 2)
        if again then s1
        else
          let same (x : Nat × Nat × Nat × Link) : Bool := x.1 == src && kind x.2.2.2
          k src dst cls b (s1.updFab dst fun f => { f with acted := f.acted.filter (fun x => !same x) ++ [(src, cls, s.cycle, b)] }))

/-- A retained message is over: covered by an ACK, or given up. -/
def State.release (s : State) (d : Nat) (r : Ret) (f : Option Cause) : State :=
  match r.msg.body with
  | .card c => s.cardDone { c.src with die := d } c.num f
  | _ => s

/-- ACK_ARRIVAL (R263, R226): an ACK frees the retained messages that it covers; the numbers of cards complete. -/
def execAckArrival (s : State) : Out :=
  controlArrival false (fun b => match b with
    | .ack _ => true
    | _ => false) (fun src dst cls b s => match b with
    | .ack h =>
      let covered (r : Ret) : Bool := r.msg.dst == src && r.msg.cls == cls && decide (r.msg.seq ≤ h)
      let gone := (s.die dst).fab.retained.filter covered
      gone.foldl (fun s r => s.release dst r none)
        (s.updFab dst fun f => { f with retained := f.retained.filter fun r => !covered r })
    | _ => s) s

/-- The retained message of a destination, class and sequence is changed. -/
def State.updRet (s : State) (d dst cls seq : Nat) (g : Ret → Ret) : State :=
  s.updFab d fun f => { f with retained := f.retained.map fun r =>
    if r.msg.dst = dst ∧ r.msg.cls = cls ∧ r.msg.seq = seq then g r else r }

/-- BUSY_ARRIVAL (R259): the source sends the message again 1 µs later. -/
def execBusyArrival (s : State) : Out :=
  controlArrival false (fun b => match b with
    | .busy _ => true
    | _ => false) (fun src dst cls b s => match b with
    | .busy q => s.updRet dst src cls q fun r => { r with resendAt := some (s.cycle + 1250) }
    | _ => s) s

/-- The whole message of a retained copy is sent again under its SEQ, with the parity count fixed when it was sent (R257). -/
def State.resend (s : State) (d : Nat) (r : Ret) : State :=
  let idxs := sendOrder r.k r.par
  let (fs, used) := r.msg.emit r.k 0 (s.spray d r.msg.dst) idxs
  let s1 : State := { s with frags := s.frags ++ fs }
  s1.updRet d r.msg.dst r.msg.cls r.msg.seq fun r => { r with used := used, sent := r.sent + idxs.length, resendAt := none }

/-- BUSY_RESEND_TIMER (R259): the time of the resend of retained message number `index` has come. It counts as no attempt. -/
def execBusyResendTimer (s : State) : Out :=
  let d := s.focus.die
  .next (match (s.die d).fab.retained[s.index]? with
    | none => s
    | some r =>
      match r.resendAt with
      | none => s
      | some t => if t ≤ s.cycle then s.resend d r else s)

/-- A message is given up at its destination: its buffer is dropped, its ID marked and completed (R265). -/
def State.giveUpHere (s : State) (d src cls seq : Nat) : State :=
  if ((s.die d).fab.filter src cls).late seq then s
  else
    let s1 := s.updFab d fun f => { f with melds := f.melds.filter fun b =>
      !(b.msg.src == src && b.msg.cls == cls && b.msg.seq == seq) }.mark src cls seq
    (s1.tally d fun c => { c with givenup := c.givenup + 1#32 }).completed d src cls seq

/-- MELD_TIMEOUT (R264, R265): meld buffer number `index` is still short: a REPAIR leaves, or after the last the message is given up. -/
def execMeldTimeout (s : State) : Out :=
  let d := s.focus.die
  let f := (s.die d).fab
  .next (match f.melds[s.index]? with
    | none => s
    | some b =>
      let m := b.msg
      if b.k ≤ b.frags.length ∨ s.cycle < b.opened + b.tmo * (b.repairs + 1) ∨ s.timersRun d = false
          ∨ (s.die d).stopped = true then s
      else if b.repairs < b.limit then
        let present := (b.frags.map fun e => 2 ^ e.1).sum
        ((s.updFab d fun f => { f with melds := f.melds.set s.index { b with repairs := b.repairs + 1 } }).tally d fun c =>
          { c with repairs := c.repairs + 1#32 }).control d m.src m.cls (.repair m.seq (BitVec.ofNat 24 present))
      else s.giveUpHere d m.src m.cls m.seq)

/-- The answer to a REPAIR: k minus the number present fresh fragments, over the chords that delivered something (R264). The fragments that it
replaces are counted as lost (29_host_firmware.md R382). -/
def State.answerRepair (s : State) (d : Nat) (r : Ret) (present : BitVec 24) : State :=
  let n := r.k - ((List.range 24).filter fun i => bit present i).length
  let fresh := ((List.range 8).filter fun j => decide (r.parity ≤ j)).map (16 + ·)
  let miss := (List.range r.k).filter fun i => !bit present i
  let idxs := (fresh ++ miss).take n
  let order := s.spray d r.msg.dst
  let dead (c : Nat) : Bool := (r.used.any fun u => u.2 == c) && (r.used.filter fun u => u.2 == c).all fun u => !bit present u.1
  let some_ := order.filter fun c => !dead c
  let (fs, used) := r.msg.emit r.k r.sent (if some_ = [] then order else some_) idxs
  let s1 : State := { s with frags := s.frags ++ fs }
  let lost := r.used.filter fun u => !bit present u.1
  lost.foldl (fun s u => s.count (lossCounter d r.msg.dst u.2)) ((s1.updRet d r.msg.dst r.msg.cls r.msg.seq fun r =>
    { r with sent := r.sent + idxs.length
             parity := r.parity + (idxs.filter fun i => decide (16 ≤ i)).length, attempts := r.attempts + 1
             used := r.used.filter (fun u => !idxs.contains u.1) ++ used }).tally d fun c => { c with attempts := c.attempts + 1#32 })

/-- REPAIR_ARRIVAL (R264): the source answers as one attempt, if one remains; its timer starts again. -/
def execRepairArrival (s : State) : Out :=
  controlArrival false (fun b => match b with
    | .repair _ _ => true
    | _ => false) (fun src dst cls b s => match b with
    | .repair q present =>
      let s1 := s.updRet dst src cls q fun r => { r with timer := s.cycle }
      match (s1.die dst).fab.retained.find? fun r => r.msg.dst == src && r.msg.cls == cls && r.msg.seq == q with
      | none => s1
      | some r => if r.attempts < r.limit then s1.answerRepair dst r present else s1
    | _ => s) s

/-- What the loss of a message means to its sender (R265, 22_task_dispatcher.md R300, 25_name_directory.md R333): a command's number completes with
`MSG_UNRECOVERABLE`, a decrement posts DEC_LOST, a prepare makes its transaction abort. -/
def State.lostBody (s : State) (d : Nat) : Body → State
  | .flush f =>
    let s1 := f.recs.foldl (fun s r => s.recordFinal d r (some .msgUnrecoverable)) s
    s1.updXu d fun x => { x with flushes := x.flushes.filter fun g => g.n != f.n }
  | .xreturn n _ =>
    s.dies.foldl (fun s e =>
      match e.2.xu.flushes.find? fun g => g.n == n && s.hubOf (e.2.xu.dest g.dest).dest == d with
      | none => s
      | some g =>
        (g.recs.foldl (fun s r => s.recordFinal e.1 r (some .msgUnrecoverable)) s).updXu e.1 fun x =>
          { x with flushes := x.flushes.filter fun h => h.n != n }) s
  | .xoverflow _ r _ => s.recordFinal d r (some .msgUnrecoverable)
  | .dec x => (s.decDone x).post x.region 6 (x.target.setWidth 64) (x.source.setWidth 64) 0#64
  | .prepare p =>
    let t := fldN p.txn 0 6
    match (s.nd d).txn? t with
    | some x => if x.phase = TxnPhase.preparing then s.txnDecide d t false 2 (s.txnHomes x) else s
    | none => s
  | _ => s

/-- A retained message is given up at its source (R265). -/
def State.giveUp (s : State) (d : Nat) (r : Ret) : State :=
  let m := r.msg
  let s1 := (s.updFab d fun f => { f with retained := f.retained.filter fun x =>
    !(x.msg.dst == m.dst && x.msg.cls == m.cls && x.msg.seq == m.seq) }).tally d fun c => { c with givenup := c.givenup + 1#32 }
  ((s1.release d r (some .msgUnrecoverable)).lostBody d m.body).control d m.dst m.cls (.giveup m.seq)

/-- SOURCE_TIMER_EXPIRY (R264, R265): 2 · `MELD_TIMEOUT` without an ACK of retained message number `index`: it is sent again, or given up. -/
def execSourceTimerExpiry (s : State) : Out :=
  let d := s.focus.die
  let f := (s.die d).fab
  .next (match f.retained[s.index]? with
    | none => s
    | some r =>
      if s.cycle < r.timer + 2 * r.tmo ∨ s.timersRun d = false then s
      else if r.attempts < r.limit then
        ((s.resend d r).updRet d r.msg.dst r.msg.cls r.msg.seq fun r =>
          { r with timer := s.cycle, attempts := r.attempts + 1 }).tally d fun c => { c with attempts := c.attempts + 1#32 }
      else s.giveUp d r)

/-- GIVEUP_ARRIVAL (R265): the destination drops its partial buffer and marks the ID completed. -/
def execGiveupArrival (s : State) : Out :=
  controlArrival true (fun b => match b with
    | .giveup _ => true
    | _ => false) (fun src dst cls b s => match b with
    | .giveup q => s.giveUpHere dst src cls q
    | _ => s) s

/-! ### Links and chords (16_message_engine.md R242-R244, R387) -/

def State.setLink (s : State) (l : Nat) (x : LinkState) : State := { s with links := put s.links l x }

/-- LINK_LOSS_OF_LOCK (R244): panel link number `index` loses lock and retrains; the fragments on chords that cross it are lost. -/
def execLinkLossOfLock (s : State) : Out :=
  .next (if 112 ≤ s.index ∨ s.link s.index ≠ .up then s
    else
      let s1 := (s.setLink s.index (.retraining s.cycle)).count (retrainCounter s.index)
      { s1 with frags := s1.frags.filter fun x =>
          !(onPanel x.msg.dst && (s.chordLinks x.msg.src x.msg.dst x.chord).contains s.index) })

/-- The chords of a die's table that cross a link. -/
def State.chordsOver (s : State) (d l : Nat) : List (Nat × Nat) :=
  ((List.range 32).flatMap fun e => (List.range 4).map fun c => (e, c)).filter fun x => (s.chordLinks d x.1 x.2).contains l

/-- Die d marks unavailable each chord that crosses a link (R244). -/
def State.markChords (s : State) (d l : Nat) : State :=
  s.updFab d fun f => { f with chords := (s.chordsOver d l).foldl (fun m x =>
    put m (4 * x.1 + x.2) { look {} m (4 * x.1 + x.2) with up := false }) f.chords }

/-- The dies at the ends of a panel link. -/
def linkDies (l : Nat) : List Nat := (List.range 32).filter fun e => dieSite e == (linkEnds l).1 || dieSite e == (linkEnds l).2

/-- LINK_DOWN_DECLARE (R244): panel link number `index` has not retrained for 10 µs: it is declared down at both its ends, and the news of it starts
out to every other die: from a die at an end, or from the presiding one where both ends are M-sites (log 70). -/
def execLinkDownDeclare (s : State) : Out :=
  .next (match s.link s.index with
    | .retraining t =>
      if s.cycle < t + 12500 then s
      else
        let ends := (linkDies s.index).filter fun e => (s.die e).live
        let from_ := (ends.head?.or s.presiding).getD 0
        ((List.range 32).filter fun e => (s.die e).live && !ends.contains e).foldl (fun u e => u.send from_ e (.news from_ s.index))
          (ends.foldl (fun u e => u.markChords e s.index) ((s.setLink s.index .down).count (downCounter s.index)))
    | _ => s)

/-- CHORD_NEWS_ARRIVAL (R244): the news that panel link number `index` was declared down marks unavailable, on the die in focus, each chord that
crosses it, whatever the link has become since. -/
def execChordNewsArrival (s : State) : Out :=
  let d := s.focus.die
  .next (if (s.die d).news.contains s.index = false then s
    else (s.updDie d fun x => { x with news := x.news.filter (· != s.index) }).markChords d s.index)

/-- LINK_UP (R244): panel link number `index` is up again. Chords that a die has marked unavailable stay so until firmware validates them. -/
def execLinkUp (s : State) : Out :=
  .next (if 112 ≤ s.index then s else s.setLink s.index .up)

/-! ### The pod (16_message_engine.md R245, R246, 17_erasure_coding.md R255) -/

/-- A master's requests are held; the first is told to its region (28_traps_preemption.md R368). -/
def State.holdMaster (s : State) (who : Master) (held : List Word64) (region : Nat) (word : Word64) : State :=
  if (s.frozen.any fun f => f.who == who) = true then
    { s with frozen := s.frozen.map fun f => if f.who = who then { f with held := f.held ++ held } else f }
  else s.freeze who held region word

/-- A fragment that a station's write at an offset of the aperture carries, on the station's plane (R246), and the reserved bits of the offset (R255). Its destination is not yet known. -/
def podFragment (station module_ off : Nat) (data : List Byte) : Frag :=
  let f (lo n : Nat) : Nat := off / 2 ^ lo % 2 ^ n
  { msg := { src := 32 + 32 * module_ + f 50 5, dst := 0, cls := f 7 2, ordered := f 6 1 == 1, mtype := 0, seq := f 18 32, body := .card {} }
    k := f 9 4 + 1, idx := f 13 5, chord := station, payload := data, rsv := if f 0 6 = 0 then 0#3 else 1#3 }

/-- The fragment is of the same message, as far as an offset tells. -/
def Frag.mate (x y : Frag) : Bool := x.msg.src == y.msg.src && x.msg.cls == y.msg.cls && x.msg.seq == y.msg.seq && x.k == y.k

/-- The destination die that a body prefix names (R255). -/
def prefixDie (bs : List Byte) : Nat := leNat (bs.take 8) / 2 ^ 49 % 32

/-- The destination die of a fragment of the pod, from the prefix in its bytes: data fragment 0 carries it, and so does every fragment of a message of
one; else from what its mates that wait determine; else it is that of a buffer open for its message. The offset alone names no die (log 70). -/
def State.podDie (s : State) (x : Frag) : Option Nat :=
  let mates := (x :: s.podIn.filter x.mate).foldl (fun l y => if l.any fun z : Nat × List Byte => z.1 == y.idx then l else l ++ [(y.idx, y.payload)]) []
  if x.k = 1 then some (prefixDie (decodeFrags 1 [(x.idx, x.payload)]))
  else if x.idx = 0 then some (prefixDie x.payload)
  else if x.k ≤ mates.length then some (prefixDie (decodeFrags x.k (mates.take x.k)))
  else (List.range 32).find? fun d => (s.die d).fab.melds.any fun b => b.holds x.msg

/-- A fragment of the pod reaches its destination die. SEQ 0 marks link control, whose type stands in its prefix (R255, R261). A die without quorum
holds its meld buffers as they are, and the fragment is lost to it. -/
def State.podTake (s : State) (d : Nat) (x0 : Frag) : State :=
  let x : Frag := { x0 with msg := { x0.msg with dst := d } }
  if (s.die d).live = false then s
  else if x.msg.seq = 0 then
    let bs := decodeFrags 1 [(x.idx, x.payload)]
    let mtype := leNat ((bs.drop 16).take 8) / 2 ^ 14 % 16
    if 6 ≤ mtype ∧ mtype ≤ 9 then s.takeLink d x mtype (bs.drop 24) else s.tally d fun c => { c with fragBad := c.fragBad + 1#32 }
  else if (s.die d).stopped then s
  else s.takeFrag d x

/-- A write of a station into the aperture brings a fragment: to its destination die, with its mates that have waited for it, where the station's rim
die reaches that die (01_machine.md R9, R10); one whose die is not yet known waits. One that is refused is counted at a die that the spec does not
name (log 70). -/
def State.podWrite (s : State) (station module_ off : Nat) (data : List Byte) : State :=
  let x := podFragment station module_ off data
  if x.refused then
    let (d, s1) := s.draw 32
    (s1.tally d fun c => { c with fragBad := c.fragBad + 1#32 }).count (lossCounter x.msg.src d station)
  else match s.podDie x with
    | none => { s with podIn := s.podIn ++ [x] }
    | some d =>
      if (s.rims d).contains (stationRim station) = false then s
      else (s.podIn.filter x.mate ++ [x]).foldl (fun s y => s.podTake d y) { s with podIn := s.podIn.filter fun y => !x.mate y }

/-- The size of the meld aperture (R255). -/
def apertureSize : Nat := 2 ^ 55

/-- UALINK_INBOUND_WRITE (R245, R255, 28_traps_preemption.md R368): a write of 64 bytes from the pod at a station. Outside the aperture it has no
effect; from a requester that is bound to no module, or frozen, it is held. -/
def execUalinkInboundWrite (requester : Nat) (station : Nat) (addr : BitVec 64) (data : BitVec 512) (s : State) : Out :=
  let off := addr.toNat - s.aperture.toNat
  let words := BitVec.ofNat 64 station :: (List.range 8).map fun i => fld data (64 * i) 64
  .next (if addr.toNat < s.aperture.toNat ∨ apertureSize ≤ off then s
    else match look? s.requesters requester with
      | none => s.holdMaster (.peer requester) (addr :: words) 0 addr
      | some m =>
        if (s.frozen.any fun f => f.who == .peer requester) = true then s.holdMaster (.peer requester) (addr :: words) 0 addr
        else s.podWrite station m off (leBytes 64 data.toNat))

/-- UALINK_UNSUPPORTED_REQUEST (R245): an inbound read, or a write outside the aperture, has no effect. -/
def execUalinkUnsupportedRequest (read : Bool) (addr : BitVec 64) (s : State) : Out :=
  let _ := read
  let _ := addr
  .next s

/-! ### Membership (16_message_engine.md R251, R252) -/

/-- Cycles between rounds of heartbeats: 10 µs. -/
def beatPeriod : Nat := 12500

/-- HEARTBEAT_TIMER (R251): a round at the die in focus: misses are counted, the group decided, heartbeats sent. A group that may preside and whose
dies have all heard each other in this round is the membership agreed from then on (log 70). -/
def execHeartbeatTimer (s : State) : Out :=
  let d := s.focus.die
  let x := s.die d
  .next (if x.live = false ∨ s.cycle < x.beat + beatPeriod then s
    else
      let miss := (List.range 32).filterMap fun e =>
        if e = d then none else some (e, if x.heard.contains e then 0 else look 0 x.missed e + 1)
      let s1 := s.updDie d fun y => { y with beat := s.cycle, heard := [], missed := miss }
      let s2 := if s1.mayPreside (s1.groupOf d) then s1 else s1.updDie d fun y =>
        { y with stopped := true, stoppedAt := if y.stopped then y.stoppedAt else s.cycle }
      let group := s1.groupOf d
      let all := s1.mayPreside group && group.all fun a => group.all fun b => a == b || look 0 (s2.die a).missed b == 0
      let s3 : State := if all then { s2 with members := group } else s2
      ((List.range 32).filter fun e => e != d && (s.die e).live).foldl (fun s e => s.send d e (.beat d)) s3)

/-- HEARTBEAT_ARRIVAL (R251): heartbeat number `index` that has reached the die is received. -/
def execHeartbeatArrival (s : State) : Out :=
  let d := s.focus.die
  .next (match (s.die d).beatIn[s.index]? with
    | none => s
    | some e => s.updDie d fun y => { y with beatIn := dropAt y.beatIn s.index, heard := y.heard ++ [e] })

/-- REJOIN (R252): the stopped die in focus is again in a group that may preside, and no transaction is in doubt: it takes its chord table as
the group's firmware computes it and resumes; hang windows did not run while it was stopped. A chord whose links are all up is
validated with it (log 70). -/
def execRejoin (s : State) : Out :=
  let d := s.focus.die
  let doubt := s.dies.any fun e => e.2.nd.names.any fun n => n.doubt
  .next (if (s.die d).stopped = false ∨ doubt = true ∨ s.mayPreside (s.groupOf d) = false then s
    else s.updDie d fun x => { x with stopped := false
                                      td := { x.td with progress := x.td.progress.map fun p => (p.1, p.2 + (s.cycle - x.stoppedAt)) }
                                      fab := { x.fab with chords :=
      ((List.range 32).flatMap fun e => (List.range 4).map fun c => (e, c)).foldl (fun l y =>
        let links := (chordTable d y.1).getD y.2 []
        let c : Chord := look {} l (4 * y.1 + y.2)
        put l (4 * y.1 + y.2) { c with links := links, up := links.all fun k => s.link k == .up }) x.fab.chords } })

/-! ### Router tables (R240) -/

/-- A card from a tile follows the routers to a destination in at most n moves, with no turn that R239 forbids, past no defective tile. -/
def Die.legalWalk (x : Die) (dst : Nat) : Nat → Nat → Option Port → Bool
  | 0, _, _ => false
  | n + 1, t, came =>
    match x.route t dst with
      | none => t == dst
      | some p =>
        if badTurn came p then false
        else match meshNext t p with
          | none => false
          | some u => !x.defects.contains u && x.legalWalk dst n u (some p)

/-- A set of tables is admitted: it joins every reachable pair of live tiles by a legal route. -/
def Die.tablesOk (x : Die) : Bool :=
  let live := (List.range 144).filter fun t => !x.defects.contains t
  live.all fun a => live.all fun b => !x.joined a b || x.legalWalk b 256 a none

/-- ROUTER_TABLE_WRITE (R240): firmware writes the override tables of the die in focus while its dispatch is stopped and its mesh is empty. -/
def execRouterTableWrite (table : List (Nat × Nat × Port)) (s : State) : Out :=
  let d := s.focus.die
  let x := s.die d
  let y := { x with routers := table.map fun e => ((e.1, e.2.1), e.2.2) }
  .next (if (x.stopped || x.halt.isSome) && x.mesh == [] && y.tablesOk then s.setDie d y else s)

end Sys2Proof.Machine
end

