-- ==== Sys2Proof/Machine/Placement.lean ====
section
/-! DEFINITION. The Task Dispatcher's own events: decrements and kills, placement passes, staging, the start and the end of tasks and
of pipelines (22_task_dispatcher.md R292-R304, 24_prog_diamond.md R322). Marks: DEDUCED (log 26, 41, 42, 44, 56, 66);
DESIGN CHOICE (log 22, 43, 64, 65). -/

namespace Sys2Proof.Machine

/-- The die's Task Dispatcher places and starts: neither a loss of quorum nor a debug halt stops dispatch (R311,
16_message_engine.md R252). -/
def State.dispatches (s : State) (d : Nat) : Bool := !(s.die d).stopped && (s.die d).halt.isNone

/-! ### Decrements and kills (R293, 23_td_instructions.md R320) -/

/-- DECREMENT_APPLY (R293, R300): decrement number `index` at the hub, the first to its record, is applied. -/
def execDecrementApply (s : State) : Out :=
  let d := s.focus.die
  let l := (s.die d).td.decs
  .next (match l[s.index]? with
    | none => s
    | some x =>
      if ((l.take s.index).any fun y => y.target == x.target) = true then s
      else (s.updTd d fun t => { t with decs := dropAt t.decs s.index }).applyDec d x)

/-- KILL_APPLY (R302, 23_td_instructions.md R320): kill number `index` at the hub, the first to its record, is applied. -/
def execKillApply (s : State) : Out :=
  let d := s.focus.die
  let l := (s.die d).td.kills
  .next (match l[s.index]? with
    | none => s
    | some x =>
      if ((l.take s.index).any fun y => y.target == x.target) = true then s
      else (s.updTd d fun t => { t with kills := dropAt t.kills s.index }).applyKill d x)

/-! ### Effective priority and rectangles (R299) -/

/-- eff(T) of the task in a slot. -/
def State.effPrio (s : State) (d n : Nat) : Nat :=
  let x := s.slot d n
  let r := Rec.region x.raw
  let floor := fldN (s.eff r 1) 26 6
  let ceil := fldN (s.eff r 2) 20 6
  let age := fldN (s.eff r 5) 5 5
  min ceil (max floor (min (Rec.prio x.raw) ceil) + (s.cycle - x.armedAt) / 2 ^ age)

/-- An element takes its place before the first that it precedes. -/
def insertBy {α : Type} (before : α → α → Bool) (x : α) : List α → List α
  | [] => [x]
  | y :: l => if before x y then x :: y :: l else y :: insertBy before x l

/-- The ARMED tasks of a die, by eff descending, then armed time ascending, then slot. -/
def State.armedTasks (s : State) (d : Nat) : List Nat :=
  let l := ((s.die d).td.slots.map (·.1)).filter fun n => s.stateOf d n == 2
  let before (a b : Nat) : Bool :=
    let (x, y) := (s.effPrio d a, s.effPrio d b)
    decide (y < x ∨ (x = y ∧ (s.slot d a).armedAt < (s.slot d b).armedAt))
  l.foldl (fun l n => insertBy before n l) []

/-- The rectangles of a size on a die, in scan order. -/
def rects (w h : Nat) : List Rect :=
  (List.range (13 - h)).flatMap fun oy => (List.range (13 - w)).map fun ox => { ox := ox, oy := oy, w := w, h := h }

/-- The rectangles to which a task may go: all of its size, or the recorded one where it is restricted. -/
def State.choices (s : State) (d n : Nat) : List Rect :=
  let x := s.slot d n
  match x.restoring, x.rect with
  | true, some r => [r]
  | _, _ => rects (Rec.w x.raw) (Rec.h x.raw)

/-- The rule on holes. -/
def State.holesOk (s : State) (d n : Nat) (r : Rect) : Bool :=
  if Rec.holes (s.slot d n).raw then r.tiles.any fun t => !s.defective d t else r.tiles.all fun t => !s.defective d t

/-- A rectangle fits a task. -/
def State.fits (s : State) (d n : Nat) (r : Rect) : Bool :=
  let free (t : Nat) : Bool := (s.tile d t).task.isNone && match (s.die d).td.reservation with
    | some (m, q) => m == n || !q.tiles.contains t
    | none => true
  r.tiles.all free && s.holesOk d n r

/-- Tiles held by a region and its descendants (R295 TILES). -/
def State.tilesHeld (s : State) (r : Nat) : Nat :=
  (s.tiles.filter fun t => t.2.task.isSome && s.isAncestor r t.2.region).length

/-- The TILES budgets of a region and of its ancestors allow n tiles more (R295, log 26). -/
def State.tilesFit (s : State) (r n : Nat) : Bool :=
  s.regions.all fun a => !s.isAncestor a.1 r || (let b := fldN (s.eff a.1 6) 114 14; b == 0 || decide (s.tilesHeld a.1 + n ≤ b))

/-! ### Placing (R50, R51, R236, R292, R299, R322) -/

/-- The windows that a record declares (R289). -/
def State.declared (s : State) (d n : Nat) : List (BitVec 32 × Win) :=
  let r := (s.slot d n).raw
  (Rec.valid r).map fun j =>
    (hobj (Rec.opnd r j 0), { owner := .task (s.taskId d n), org := Rec.org r j, ext := Rec.ext r j
                              rw := fldN (Rec.opnd r j 2) 13 2 != 0, sync := bit (Rec.opnd r j 2) 10, active := true })

/-- The seat register of seat i of a table of live tiles; its handler starts in the record's CODE at TOFF (R205). -/
def seatAt (raw : Vec) (ts : List Nat) (i : Nat) : Seat :=
  let k := ts.length
  { v := true, seat := i, seats := k, next := ts.getD ((i + 1) % k) 0, prev := ts.getD ((i + k - 1) % k) 0
    code := Rec.code raw, off := Rec.toff raw }

/-- The gang is seated as its record asks (R205, R292). -/
def State.seatGang (s : State) (d : Nat) (raw : Vec) (ts : List Nat) : State :=
  ((List.range ts.length).zip ts).foldl (fun s x => s.updMe d x.2 fun m =>
    { m with seat := if Rec.table raw then seatAt raw ts x.1 else { m.seat with v := false } }) s

/-- A tile that a placement takes for a task: mailboxes 0-62 are as after a die reset (16_message_engine.md R236). -/
def Tile.taken (t : Tile) (id : BitVec 32) (region : Nat) : Tile :=
  let off (x : Source) : Source := { x with mb := x.mb.filter fun m => decide (m.1 = 63) }
  { t with mbx := [], pres := []
           ctxs := t.ctxs.map fun c => (c.1, { c.2 with src := off c.2.src })
           startQ := t.startQ.map fun q => { q with src := off q.src }
           task := some id, runs := false, region := region }

/-- A tile that holds a placed task: landing entries FREE, no flag of what it held before. -/
def Tile.placed (t : Tile) (gang : Word64) : Tile := { t with gang := gang, landing := [], held := false, savedFlag := false }

/-- The declarations that a task stages: those with PF = 1 (R298). -/
def Rec.staged (r : Vec) : List Nat := (Rec.valid r).filter fun j => bit (Rec.opnd r j 2) 12

/-- A staged declaration with MC = 1 joins the merged read of its window opened within 256 cycles, or opens one (R298). -/
def State.merge (s : State) (d n j : Nat) : State :=
  let r := (s.slot d n).raw
  let h := Rec.opnd r j 0
  let same (m : Merge) : Bool := m.h == h && m.org == Rec.org r j && m.ext == Rec.ext r j && decide (s.cycle < m.opened + 256)
  s.updTd d fun t =>
    if (t.merges.any same) = true then { t with merges := t.merges.map fun m => if same m then { m with users := m.users ++ [(n, j)] } else m }
    else { t with merges := t.merges ++ [{ h := h, org := Rec.org r j, ext := Rec.ext r j, opened := s.cycle, users := [(n, j)] }] }

/-- The task's image in the save area. -/
def Td.savedOf (t : Td) (n : Nat) : Option Saved := t.saved.find? fun v => v.slot == n

/-- Every home has granted: the task is STAGING on the rectangle that it holds (R292, R298). -/
def State.stage (s : State) (d n : Nat) (r : Rect) : State :=
  let x := s.slot d n
  let ts := s.liveTiles d r
  let mask := (ts.map fun t => 2 ^ r.rank t).sum
  let raw := setFld (setFld (setFld (setFld x.raw 60 4 3) 384 128 mask) 272 16 (mask / 2 ^ 128)) 320 32 s.cycle
  let staged := if ((s.die d).td.savedOf n).isSome then [] else Rec.staged raw
  let s1 := s.setSlot d n { x with raw := raw, asking := none, staging := staged }
  let s2 := ts.foldl (fun s t => s.updTile d t fun y => y.placed (s.gangWord d r t)) s1
  (staged.filter fun j => bit (Rec.opnd raw j 2) 11).foldl (fun s j => s.merge d n j) (s2.seatGang d raw ts)

/-- A rectangle is held for a task and its windows are sent to their homes; without windows the task is STAGING at once (R50, R51,
R299). -/
def State.place (s : State) (d n : Nat) (r : Rect) : State :=
  let x := s.slot d n
  let reg := Rec.region x.raw
  let wins := (((s.die d).td.savedOf n).map Saved.wins).getD (s.declared d n)
  let ask (s : State) (w : BitVec 32 × Win) : State := s.send d (s.objHub w.1) (.windowReq
    { place := ⟨d, 0, 0⟩, serial := s.cycle, index := n, region := reg, kind := .place n s.cycle w.1 w.2, since := s.cycle })
  let s1 := s.setSlot d n { x with rect := some r, asking := some { serial := s.cycle, left := wins.length } }
  let s2 := (s.liveTiles d r).foldl (fun s t => s.updTile d t fun y => y.taken (s.taskId d n) reg) s1
  let s3 := s2.updTd d fun t => { t with reservation := t.reservation.filter fun v => v.1 != n }
  if wins = [] then s3.stage d n r else wins.foldl ask s3

/-! ### Pre-empting at the save rung (R292, R307) -/

/-- The rung that a task has met (R290 RUNG). -/
def State.markRung (s : State) (d n k : Nat) : State :=
  s.updRaw d n fun r => setFld r 366 2 (max k (fldN r 366 2))

/-- A task that is STAGING or READY, or that holds tiles while it asks for its windows, is ARMED and holds none: its tiles are freed, its
windows withdrawn. -/
def State.retract (s : State) (d n : Nat) (restricted : Bool) : State :=
  let id := s.taskId d n
  let s0 := s.releaseTiles d id
  let s1 := (if (s.slot d n).asking.isSome then s0.unask d n else s0.dropWindows (.task id)).updTd d fun t =>
    { t with merges := t.merges.map fun m => { m with users := m.users.filter fun u => u.1 != n } }
  let x := s1.slot d n
  s1.setSlot d n { x with raw := setFld x.raw 60 4 2, staging := [], armedAt := s.cycle, restoring := x.restoring || restricted
                          rect := if x.restoring || restricted then x.rect else none }

/-- A RUNNING task begins to be saved, for a ladder's scope or, with none, for a reservation: every block in flight is abandoned, but for one whose commit has begun. -/
def State.beginSave (s : State) (d n : Nat) (by_ : Option Scope) : State :=
  let places := (s.gangTiles d n).flatMap fun t => (List.range 8).map fun c => (⟨d, t, c⟩ : Place)
  let open_ (p : Place) : Bool := match (s.ctx p).run with
    | some r => !r.committing
    | none => false
  let s1 := (places.filter open_).foldl State.abandon s
  s1.setSlot d n { s1.slot d n with saving := some s.cycle, savers := [by_] }

/-- A task is pre-empted at the save rung, for a ladder's scope or, with none, for a reservation, which holds it to its rectangle. -/
def State.saveRung (s : State) (d n : Nat) (by_ : Option Scope) : State :=
  let st := s.stateOf d n
  let s1 := if st = 3 ∨ st = 4 ∨ st = 5 then s.markRung d n 2 else s
  if st = 3 ∨ st = 4 ∨ (s.slot d n).asking.isSome = true then s1.retract d n by_.isNone
  else if st = 5 ∧ (s.slot d n).saving.isNone then s1.beginSave d n by_
  else if st = 5 ∧ (s.slot d n).savers.contains by_ = false then
    s1.setSlot d n { s1.slot d n with savers := (s1.slot d n).savers ++ [by_] }
  else s1

/-! ### The answers of homes (R51, R292) -/

/-- A home's answer to a window of the placement of the task in slot n: the last grant makes it STAGING, or ARMED as before where a ladder
holds it; a refusal ends it FAULTED with `MM_RACE`, every grant withdrawn. A grant for a placement that is over is withdrawn. -/
def State.takeGrant (s : State) (d : Nat) (g : Nat × Nat × BitVec 32 × Win × Bool) : State :=
  let (n, serial, obj, w, ok) := g
  let x := s.slot d n
  match x.asking.filter fun a => a.serial == serial, x.rect with
  | some a, some r =>
    if ok = false then s.endTask d n 7 Cause.mmRace.code 0 false false
    else
      let t := s.setSlot d n { x with asking := some { a with left := a.left - 1, granted := a.granted ++ [(obj, w)] } }
      if 1 < a.left then t else if t.ladderHolds d n then t.retract d n false else t.stage d n r
  | _, _ => if ok then s.send d (s.objHub obj) (.withdraw ⟨.window obj w⟩) else s

/-- The answers that have come are taken, in order. -/
def State.takeGrants (s : State) (d : Nat) : State :=
  (s.die d).td.grants.foldl (fun s g => s.takeGrant d g) (s.updTd d fun t => { t with grants := [] })

/-! ### The placement pass (R299) -/

/-- The first of the rectangles with the fewest held tiles. -/
def State.fewestHeld (s : State) (d : Nat) : List Rect → Option Rect
  | [] => none
  | r :: l =>
    let held (q : Rect) : Nat := (q.tiles.filter fun t => (s.tile d t).task.isSome).length
    match s.fewestHeld d l with
    | none => some r
    | some q => if held q < held r then some q else some r

/-- The tasks that hold tiles of a rectangle. -/
def State.occupants (s : State) (d : Nat) (r : Rect) : List Nat :=
  (r.tiles.filterMap fun t => (s.tile d t).task.map idSlot).eraseDups

/-- A rectangle is reserved for a task: its occupants are pre-empted where all are resident and of lower eff, else the region is told. -/
def State.reserveRect (s : State) (d n : Nat) (r : Rect) : State :=
  let s1 := s.updTd d fun t => { t with reservation := some (n, r) }
  let occ := s.occupants d r
  let reg := Rec.region (s.slot d n).raw
  if occ ≠ [] ∧ (occ.all fun m => Rec.res (s.slot d m).raw && decide (s.effPrio d m < s.effPrio d n)) = true then
    occ.foldl (fun s m => s.saveRung d m none) s1
  else s1.post reg 3 ((s.taskId d n).setWidth 64)
    (BitVec.ofNat 64 ((r.h - 1) * 2 ^ 20 + (r.w - 1) * 2 ^ 16 + r.oy * 2 ^ 12 + r.ox * 2 ^ 8)) 0#64

/-- One task's turn in a pass. -/
def State.passTask (s : State) (d n : Nat) : State :=
  let x := s.slot d n
  let reg := Rec.region x.raw
  let tres := fldN (s.eff reg 9) 160 32
  if s.stateOf d n ≠ 2 ∨ x.asking.isSome = true ∨ s.ladderHolds d n = true then s
  else if s.tilesFit reg (Rec.w x.raw * Rec.h x.raw) = false then s
  else match (s.choices d n).find? (s.fits d n) with
    | some r => s.place d n r
    | none =>
      if tres < s.cycle - x.armedAt ∧ (s.die d).td.reservation.isNone = true then
        match s.fewestHeld d ((s.choices d n).filter (s.holesOk d n)) with
        | some r => s.reserveRect d n r
        | none => s
      else s

/-- A pass over the ARMED tasks of a die, for which their regions' blocks are read (R297); the answers of homes are taken first. -/
def State.pass (s : State) (d : Nat) : State :=
  if s.dispatches d then
    let s1 := s.takeGrants d
    let s2 := s1.readBlocks (((s1.armedTasks d).map fun n => Rec.region (s1.slot d n).raw).eraseDups)
    (s2.armedTasks d).foldl (fun s n => s.passTask d n) s2
  else s

/-- PLACEMENT_PASS (R293, R299): a pass runs on the die in focus. -/
def execPlacementPass (s : State) : Out := .next (s.pass s.focus.die)

/-- T_RES_EXPIRY (R299): the task in slot `index` has been ARMED for more than T_RES cycles; a pass runs. -/
def execTResExpiry (s : State) : Out :=
  let d := s.focus.die
  let x := s.slot d s.index
  .next (if s.stateOf d s.index = 2 ∧ fldN (s.eff (Rec.region x.raw) 9) 160 32 < s.cycle - x.armedAt then s.pass d else s)

/-! ### Staging (R298) -/

/-- A declaration's window is copied into every live tile of its task; a fault of the copy ends the task. It waits while memory cannot be reached
(11_tensor_access.md R387). -/
def State.stageOne (s : State) (d n j : Nat) : State :=
  let x := s.slot d n
  if s.stateOf d n ≠ 3 ∨ x.staging.contains j = false then s
  else
    let h := Rec.opnd x.raw j 0
    let w := Desc.bits (s.objOf (hobj h)).desc
    let els := boxCoords (Rec.org x.raw j) (Rec.ext x.raw j)
    let ts := s.gangTiles d n
    if s.open d (ts.getD 0 0) .none (hobj h) els = false then s
    else if lsSize < Rec.image x.raw j + ceilDiv (els.length * w) 8 then s.endTask d n 7 Cause.window.code 0 false false
    else
      let ((l, f), s1) := s.readWindow d (ts.getD 0 0) [.task (s.taskId d n)] (Rec.region x.raw) h els
      let s2 := ts.foldl (fun s t => s.image d t (Rec.image x.raw j) w (l.map (·.2))) s1
      match f with
      | some c => s2.endTask d n 7 c.code 0 false false
      | none => s2.setSlot d n { s2.slot d n with staging := (s2.slot d n).staging.filter fun k => k != j }

/-- STAGING_MERGE_CLOSE (R298): 256 cycles after merged read number `index` opened, it is made, and every image is written. -/
def execStagingMergeClose (s : State) : Out :=
  let d := s.focus.die
  .next (match (s.die d).td.merges[s.index]? with
    | none => s
    | some m =>
      if s.cycle < m.opened + 256 then s
      else m.users.foldl (fun s u => s.stageOne d u.1 u.2) (s.updTd d fun t => { t with merges := dropAt t.merges s.index }))

/-- STAGING_COMPLETE (R292, R298): the images of the task in slot `index` are written; READY when none is missing. -/
def execStagingComplete (s : State) : Out :=
  let d := s.focus.die
  let n := s.index
  let merged (j : Nat) : Bool := (s.die d).td.merges.any fun m => m.users.contains (n, j)
  .next (if s.stateOf d n ≠ 3 then s
    else
      let s1 := ((s.slot d n).staging.filter fun j => !merged j).foldl (fun s j => s.stageOne d n j) s
      if s1.stateOf d n = 3 ∧ (s1.slot d n).staging = [] then s1.setStateOf d n 4 else s1)

/-! ### Starting (R86, R292, R304, R307, R322, 06_block_engine.md R83) -/

/-- Context 0 at the start of a tile task. -/
def Ctx.startTask (c : Ctx) (run : Nat) (code : Word64) (entry : BitVec 32) (region : Nat) (g : List Word64) : Ctx :=
  { c with
    phase := .running, super := false, trapRun := false, bkptSkip := false
    regs := ((List.range g.length).zip g).map fun x => (x.1, Reg.ofW x.2)
    ports := [], ras := [], spilled := 0, rasptr := 0#24, raslim := 0#24, round := 0, sat := true, srseed := 1#32
    issue := {}, done := {}, base := {}, doneOut := [], recf := [], lastExit := 0#3, reuse := []
    code := code, block := entry, region := region, run := none, kind := some 1#2
    barriers := 0, texit := 0, atBarrier := none, fault := none, src := {}, runNo := run, frozen := false }

/-- A transfer to a landing entry that is made at once where the entry is FREE and nothing waits for it (R99). -/
def Tile.fillNow (t : Tile) (k : Nat) (r : Reg) : Tile :=
  if (t.lb k).full = true ∨ (t.fills.any fun f => f.entry == k) = true then { t with fills := t.fills ++ [{ entry := k, reg := r }] }
  else t.setLb k { bits := r.clean.bits, tag := r.tag, full := true }

/-- A gang starts from its record: handles fill the landing entries, context 0 of each live tile starts. -/
def State.startFresh (s : State) (d n : Nat) : State :=
  let raw := (s.slot d n).raw
  let ts := s.gangTiles d n
  let s1 := s.seatGang d raw ts
  ts.foldl (fun s t => s.updTile d t fun y =>
    let y1 := (Rec.valid raw).foldl (fun y j => y.fillNow (56 + j) (Reg.ofH (Rec.opnd raw j 0))) y
    let c := (look {} y1.ctxs 0).startTask (s.cycle + 1) (Rec.code raw) (Rec.entry raw) (Rec.region raw)
      [(s.taskId d n).setWidth 64, y.gang, BitVec.ofNat 64 (256 * n), (Rec.join raw).setWidth 64]
    { y1 with ctxs := put y1.ctxs 0 c, runs := true }) s1

/-- Saved contexts are written back. A wait at a barrier goes on; its `TMO_WAIT` count starts again at the restore: whether it goes on from
the count of the save 07_be_control.md R108 does not say (log 64). -/
def restoredCtxs (now : Nat) (cur old : List (Nat × Ctx)) : List (Nat × Ctx) :=
  old.foldl (fun l x =>
    put l x.1 { x.2 with atBarrier := x.2.atBarrier.map fun b => (b.1, now), reuse := [] }) cur

/-- A saved tile may be written back: no run of the meantime goes on there, and every command of one has completed. Until then the
restore is held, as 06_block_engine.md R84 holds an event that a context's state does not list. -/
def Tile.restorable (t : Tile) : Bool := t.ctxs.all fun c => c.2.phase == .idle && c.2.run.isNone && c.2.done == c.2.issue && c.2.pend == []

/-- A save image is written back before any context runs: local bytes, contexts, engines, mailboxes, pending starts (R209, R236, R307). -/
def State.startSaved (s : State) (d n : Nat) (v : Saved) : State :=
  let s1 := v.tiles.foldl (fun s x =>
    let old := x.2.1
    (x.2.2.foldl (fun s b => s.writeLs ⟨d, x.1, 0⟩ b.1 b.2) s).updTile d x.1 fun y =>
      { y with
        ctxs := restoredCtxs s.cycle y.ctxs old.ctxs
        landing := old.landing, fills := old.fills ++ y.fills, cgs := old.cgs, runs := true
        ags := old.ags.map fun a => (a.1, { a.2 with ahead := [] })
        me := { old.me with asks := y.me.asks, plays := y.me.plays, running := y.me.running }
        mbx := old.mbx, pres := old.pres, alw := old.alw
        startQ := old.startQ ++ y.startQ, trapQ := old.trapQ ++ y.trapQ }) s
  s1.updTd d fun t => { t with saved := t.saved.filter fun w => w.slot != n }

/-- A READY task starts. -/
def State.startTask (s : State) (d n : Nat) : State :=
  let s1 := match (s.die d).td.savedOf n with
    | some v => s.startSaved d n v
    | none => (s.gangTiles d n).foldl (fun s t => s.see ⟨d, t, 0⟩) (s.startFresh d n)
  let x := s1.slot d n
  s.opensWindow (s1.setSlot d n { x with raw := setFld x.raw 60 4 5, restoring := false }) d (Rec.region x.raw)

/-- The task of a slot is a stage of an instance's pipeline that has not begun. -/
def State.isStage (s : State) (d n : Nat) : Bool :=
  let x := s.slot d n
  x.kind == .task && Rec.pipe x.raw && x.inst.isSome && ((s.die d).td.savedOf n).isNone

/-- The tiles of a task can take it: no block of a task before it still commits in context 0, and a save image can be written back. -/
def State.mayRun (s : State) (d n : Nat) : Bool :=
  (s.gangTiles d n).all fun t => (s.ctx ⟨d, t, 0⟩).run.isNone &&
    (((s.die d).td.savedOf n).isNone || (s.tile d t).restorable)

/-- TASK_START (R292, R293): the READY task in slot `index` starts. -/
def execTaskStart (s : State) : Out :=
  let d := s.focus.die
  let n := s.index
  .next (if s.stateOf d n = 4 ∧ s.dispatches d = true ∧ s.ladderHolds d n = false ∧ s.isStage d n = false ∧ s.mayRun d n = true then
      s.startTask d n
    else s)

/-! ### Pipelines (R303, R304) -/

/-- Destination word of a mailbox of a tile, for a card of CLASS c (16_message_engine.md R224). -/
def State.mailWord (s : State) (d t m : Nat) : Word64 :=
  BitVec.ofNat 64 (s.moduleId % 1024 * 2 ^ 54 + d * 2 ^ 49 + t * 2 ^ 41 + m * 2 ^ 35)

/-- The words of a consumer's mailbox for a channel: queue mode, one sender record for the producer tile (d, t). -/
def State.chanWords (s : State) (c : BitVec 192) (code : Word64) (d t : Nat) : BitVec 768 :=
  let hoff := fldN c 160 32
  let w0 := 2 * 2 ^ 62 + fldN c 64 21
  let w1 := fldN c 112 16 * 2 ^ 48 + fldN c 96 16
  let w2 := hoff * 2 ^ 32 + (if hoff = 0 then 0 else 2 ^ 31)
  let w4 := s.moduleId % 1024 * 2 ^ 54 + d * 2 ^ 49 + t * 2 ^ 41 + 2 ^ 40
  BitVec.ofNat 768 (w0 + w1 * 2 ^ 64 + w2 * 2 ^ 128 + code.toNat * 2 ^ 192 + w4 * 2 ^ 256)

/-- A channel is set up: the consumer's mailbox, the producer's allowance record. A configuration that
16_message_engine.md R228 refuses is not written. -/
def State.setChannel (s : State) (i : Inst) (c : BitVec 192) : State :=
  let task (k : Nat) : Nat × Nat := i.order.getD (k - 1) (0, 0)
  let tileOf (x : Nat × Nat) (rank : Nat) : Nat := (((s.slot x.1 x.2).rect.map Rect.tiles).getD []).getD rank 0
  let p := task (fldN c 52 12)
  let q := task (fldN c 32 12)
  let pt := tileOf p (fldN c 44 8)
  let qt := tileOf q (fldN c 24 8)
  let mb := fldN c 18 6
  let w := s.chanWords c (Rec.code (s.slot q.1 q.2).raw) p.1 pt
  let s1 := if mb < 63 ∧ (s.tile q.1 qt).mbxOk mb { words := mbxKeep w } = true then s.updTile q.1 qt fun y => y.writeMb mb w else s
  s1.updTile p.1 pt fun y =>
    { y with alw := put y.alw (fldN c 128 4) { v := true, dw := s.mailWord q.1 qt mb, alw := fldN c 96 16 } }

/-- Stages in reverse channel order: a stage stands after every stage to which it sends. -/
def sinksFirst (edges : List (Nat × Nat)) : Nat → List Nat → List Nat
  | 0, l => l
  | k + 1, l =>
    let out := l.filter fun a => !edges.any fun e => e.1 == a && l.contains e.2
    if out = [] then l else out ++ sinksFirst edges k (l.filter fun a => !out.contains a)

/-- PIPELINE_START (R304): every stage of the instance of that number, kept by the die in focus, is READY: channels are set up and the
stages start, sinks first. -/
def execPipelineStart (s : State) : Out :=
  let d := s.focus.die
  .next (match (s.die d).td.insts.find? fun i => i.n == s.index with
    | none => s
    | some i =>
      let tasks := (List.range i.order.length).filter fun k =>
        let x := i.order.getD k (0, 0)
        (s.slot x.1 x.2).inst == some (d, s.index) && s.isStage x.1 x.2
      let ready (k : Nat) : Bool :=
        let x := i.order.getD k (0, 0)
        s.stateOf x.1 x.2 == 4 && s.dispatches x.1 && !s.ladderHolds x.1 x.2 && s.mayRun x.1 x.2
      if tasks = [] ∨ tasks.all ready = false then s
      else
        let chans := (((s.die d).td.chans.find? fun c => c.1 == s.index).map (·.2)).getD []
        let s1 := chans.foldl (fun s c => s.setChannel i c) s
        let edges := chans.map fun c => (fldN c 52 12 - 1, fldN c 32 12 - 1)
        (sinksFirst edges tasks.length tasks).foldl (fun s k =>
          let x := i.order.getD k (0, 0)
          s.startTask x.1 x.2) s1)

/-! ### Completion (R301) -/

/-- TASK_COMPLETION (R301, R323): every live tile of the RUNNING task in slot `index` has reported its part done: DONE, or FAULTED where an exit
code is not 0. -/
def execTaskCompletion (s : State) : Out :=
  let d := s.focus.die
  let n := s.index
  let x := s.slot d n
  let all := match x.rect with
    | none => false
    | some r => (s.liveTiles d r).all fun t => x.reported.any fun e => e.1 == r.rank t
  .next (if s.stateOf d n ≠ 5 ∨ all = false ∨ x.ending.isSome = true then s
    else
      let exit : Nat := (x.reported.map (·.2)).foldl max 0
      s.endTask d n (if exit = 0 then 6 else 7) 0 exit true false)

/-! ### Region control blocks (R295) -/

/-- The PARENT chain from a region reaches region 0 within n blocks without repeating a region. -/
def State.chainOk (s : State) : Nat → List Nat → Nat → Bool
  | 0, _, _ => false
  | n + 1, seen, r =>
    if seen.contains r then false
    else if r = 0 then true
    else match s.rcb r with
      | none => false
      | some b => s.chainOk n (r :: seen) (fldN b 52 12)

/-- An allocated frame is marked E with a slot. -/
def State.slotUsed (s : State) (slot : Nat) : Bool :=
  s.dies.any fun d => d.2.nd.objs.any fun o => o.2.live && o.2.table.any fun e =>
    entV e.2 && bit e.2 4 && fldN e.2 8 8 == slot

/-- The two halves of a generated key (29_host_firmware.md R380). -/
def keyPair (n : Nat) : BitVec 128 × BitVec 128 := (fld (Config.regionKey n) 0 128, fld (Config.regionKey n) 128 128)

/-- The key of a region that firmware creates is generated, where its block names a slot of its own that no allocated frame uses
(29_host_firmware.md R380). -/
def State.keyFor (s : State) (image : BitVec 1024) : State :=
  let k := fldN image 32 8
  if bit image 960 = false ∨ s.slotUsed k = true then s
  else { s with keys := put s.keys k (keyPair s.freeCtr), freeCtr := s.freeCtr + 1 }

/-- REGION_BLOCK_WRITE (R295): firmware writes a region's control block; one with a bad PARENT chain, or another region's ID, is refused. -/
def execRegionBlockWrite (region : Nat) (image : BitVec 1024) (s : State) : Out :=
  let t : State := { s with regions := put s.regions region image }
  .next (if fldN image 40 12 = region ∧ (region ≠ 0 ∨ fldN image 52 12 = 0) ∧ t.chainOk 4097 [] region = true then
    if (s.rcb region).isSome then t else t.keyFor image
  else s)

end Sys2Proof.Machine
end

