-- ==== Sys2Proof/Machine/Ladder.lean ====
section
/-! DEFINITION. The pre-emption ladder, the save of a task, hang detection and debug halts (22_task_dispatcher.md R305-R311,
12_tae_instructions.md R199, 13_matrix_engine.md R209, 16_message_engine.md R236). Marks: DEDUCED (log 13, 27, 44, 45,
46, 66, 67); DESIGN CHOICE (log 43). -/

namespace Sys2Proof.Machine

/-! ### The queue status word (R308) -/

/-- The status word of a ladder. -/
def Ladder.word (l : Ladder) : Word64 :=
  BitVec.ofNat 64 (l.rung % 4 * 2 ^ 62 + l.phase % 4 * 2 ^ 60 + l.region % 4096 * 2 ^ 48 + l.susp % 65536 * 2 ^ 32
    + l.killed % 65536 * 2 ^ 16 + l.run % 65536)

/-- The status word of a queue: of the last ladder that a command of it began. -/
def State.queueWord (s : State) (fn q : Nat) : Word64 :=
  ((s.ladders.reverse.find? fun l => l.queue == (fn, q)).map Ladder.word).getD 0#64

/-! ### The rungs (R305) -/

/-- The ladder of a scope is changed. -/
def State.updLadder (s : State) (x : Scope) (f : Ladder → Ladder) : State :=
  { s with ladders := s.ladders.map fun l => if l.scope = x then f l else l }

/-- A debug halt freezes the limits of a region's ladders and its hang window, which the presiding controller counts (R311). -/
def State.haltFreezes (s : State) (r : Nat) : Bool := match s.presiding with
  | some d => s.haltCovers d r
  | none => false

def State.ladder? (s : State) (x : Scope) : Option Ladder := s.ladders.find? fun l => l.scope == x

/-- The covered tasks that are neither terminal nor SUSPENDED. -/
def State.liveIn (s : State) (l : Ladder) : List (Nat × Nat) :=
  (s.coveredBy l).filter fun x => !terminal (s.stateOf x.1 x.2) && s.stateOf x.1 x.2 != 9

/-- A rung begins: its count of RUNNING tasks is taken, every task that it reaches records it, the region is told. -/
def State.beginRung (s : State) (x : Scope) (k : Nat) : State :=
  match s.ladder? x with
  | none => s
  | some l =>
    let l1 := { l with rung := k, started := s.cycle, run := s.runningIn l }
    let s1 := s.updLadder x fun _ => l1
    ((s.liveIn l).foldl (fun s t => s.markRung t.1 t.2 k) s1).post l.region 8 l1.word 0#64 0#64

/-- A task at the reset rung: its engines are reset and it is KILLED; the kill passes on under KILL_SUBGRAPH (R292, R302). -/
def State.resetKill (s : State) (d n : Nat) : State :=
  let raw := (s.slot d n).raw
  let pol := if Rec.policy raw = 0 then fldN (s.eff (Rec.region raw) 3) 18 2 else Rec.policy raw
  s.endTask d n 8 0 0 false (pol == 1)

/-- Rung 3: every unsaved covered task is reset and KILLED; the ladder is complete. -/
def State.rungReset (s : State) (x : Scope) : State :=
  let s1 := s.beginRung x 3
  match s1.ladder? x with
  | none => s1
  | some l =>
    let ts := s1.liveIn l
    let s2 := ts.foldl (fun s t => if terminal (s.stateOf t.1 t.2) then s else s.resetKill t.1 t.2) s1
    s2.updLadder x fun l => { l with phase := 2, killed := l.killed + ts.length }

/-- Rung 2: tasks not yet running return to ARMED, running ones begin to be saved. Without a save area rung 3 follows at once. -/
def State.rungSave (s : State) (x : Scope) : State :=
  let s1 := s.beginRung x 2
  match s1.ladder? x with
  | none => s1
  | some l =>
    let s2 := (s1.liveIn l).foldl (fun s t => s.saveRung t.1 t.2 (some x)) s1
    if l.save = 0#64 ∧ 0 < s2.runningIn l then s2.rungReset x else s2.settleLadders

/-- `PREEMPT` (R305): the ladder of a scope begins at its drain rung, complete at once where no covered task is RUNNING; one in progress
goes on as it is. -/
def State.preempt (s : State) (x : Scope) (region : Nat) (queue : Nat × Nat) : State :=
  if (s.ladders.any fun l => l.scope == x && l.phase == 1) = true then s
  else
    let s := s.readBlocks [region]
    let b := s.eff region 11
    let l : Ladder := { scope := x, region := region, queue := queue, t1 := fldN b 224 32
                        t2 := fldN (s.eff region 12) 192 32, save := rcbWord (s.eff region 14) 6 }
    let old := s.ladders.filter fun m => !((m.scope == x || m.scope == .gone) && m.queue == queue)
    let s1 : State := { s with ladders := (old.map fun m => if m.scope = x then { m with scope := .gone } else m) ++ [l] }
    let s2 := s1.beginRung x 1
    if s2.runningIn l = 0 then s2.updLadder x fun l => { l with phase := 2 } else s2

/-- `RESUME` (R306): the ladder ends at the rung reached, the saves that it alone wants stop, SUSPENDED tasks are ARMED on their rectangles. -/
def State.resume (s : State) (x : Scope) : State :=
  match s.ladder? x with
  | none => s
  | some l =>
    let one (s : State) (t : Nat × Nat) : State :=
      let y := s.slot t.1 t.2
      if Rec.state y.raw = 9 then
        s.setSlot t.1 t.2 { y with raw := setFld y.raw 60 4 2, restoring := true, armedAt := s.cycle }
      else if l.phase = 1 ∧ y.savers.contains (some x) = true then
        let left := y.savers.filter fun v => v != some x
        s.setSlot t.1 t.2 { y with savers := left, saving := if left = [] then none else y.saving }
      else s
    ((s.coveredBy l).foldl one s).updLadder x fun l => { l with phase := 3 }

/-- LADDER_T1_EXPIRY (R305): T1 cycles after ladder number `index` began, its save rung begins. -/
def execLadderT1Expiry (s : State) : Out :=
  .next (match s.ladders[s.index]? with
    | none => s
    | some l =>
      if l.phase ≠ 1 ∨ l.rung ≠ 1 ∨ s.cycle < l.started + l.t1 ∨ s.haltFreezes l.region = true then s else s.rungSave l.scope)

/-- LADDER_T2_EXPIRY (R199, R305): T2 cycles after the save rung of ladder number `index` began, the reset rung begins. Numbers beyond the
ladders name the slots of the die in focus whose task is saved for a reservation alone. -/
def execLadderT2Expiry (s : State) : Out :=
  .next (match s.ladders[s.index]? with
    | some l =>
      if l.phase ≠ 1 ∨ l.rung ≠ 2 ∨ s.cycle < l.started + l.t2 ∨ s.haltFreezes l.region = true then s else s.rungReset l.scope
    | none =>
      let d := s.focus.die
      let n := s.index - s.ladders.length
      let reg := Rec.region (s.slot d n).raw
      match (s.slot d n).saving with
      | none => s
      | some t =>
        if s.stateOf d n ≠ 5 ∨ s.cycle < t + fldN (s.eff reg 12) 192 32 ∨ s.haltCovers d reg = true
            ∨ (s.ladders.any fun l => l.phase == 1 && s.covers l d n) = true then s
        else (s.markRung d n 3).resetKill d n)

/-! ### Saving a task (R199, R209, R236, R307) -/

/-- A tile whose task is to be saved has quiesced: copies, deals and message commands are complete, no matrix command runs and no granted play
is on its way, no commit is under way, every barrier arrival of its task has been counted. -/
def State.quiesced (s : State) (d t : Nat) : Bool :=
  let x := s.tile d t
  let n := (x.task.map idSlot).getD 0
  !(s.die d).td.arrivals.any (fun a => a.1 == n) &&
  x.copyQ == [] && !(s.die d).deals.any (fun e => e.1 == t) && x.mse == [] && x.me.running.isNone && x.me.plays == []
    && !x.me.store.any (fun e => e.granted.isSome) && x.ctxs.all fun c => c.2.run.isNone

/-- The local bytes that a save takes, by address: the footprint and the rings of queue mailboxes (R236). -/
def State.saveLocal (s : State) (d n t : Nat) : List (Nat × List Byte) :=
  let foot := Rec.foot (s.slot d n).raw
  let rings := (s.tile d t).mbx.filterMap fun m => if m.2.mode = 2 then some (m.2.base, 16 * m.2.cap) else none
  ((0, foot) :: rings).map fun x => (x.1, s.readLs ⟨d, t, 0⟩ x.1 x.2)

/-- A number of 64 bits. -/
def word (n : Nat) : Word64 := BitVec.ofNat 64 n

/-- An accumulator in a save area: its elements, KIND, ATAG and NSEQ (R209). -/
def Acc.save (a : Acc) : List Byte :=
  ((List.range 1024).flatMap fun i => leBytes 4 (look 0#32 a.elems i).toNat) ++ wordsBytes [word (b2n a.int), word a.atag, word a.nseq]

/-- A latch in a save area: its header, its state, its data (R209). -/
def Latch.save (l : Latch) : List Byte :=
  let st := match l.st with | .free => 0 | .full => 1 | .reserved => 2
  wordsBytes [l.hw0, word st, word l.data.length] ++ l.data

/-- A seat register in a save area. -/
def Seat.save (x : Seat) : List Word64 :=
  [word (b2n x.v), word x.seat, word x.seats, word x.next, word x.prev, x.code, word x.off.toNat]

/-- A matrix command in a save area. -/
def MeCmd.save : MeCmd → List Word64
  | .setg => [word 0]
  | .mma k acc g0 g1 a w => [word 1, word k, word acc, g0, g1, a, w]
  | .ldb l a h => [word 2, word l, a, h]
  | .play l => [word 3, word l]
  | .st acc g0 g1 a sat => [word 4, word acc, g0, g1, a, word (b2n sat)]
  | .lda acc a w => [word 5, word acc, a, w]
  | .zero acc w => [word 6, word acc, w]
  | .rls l => [word 7, word l]
  | .seat x c => [word 8, x, c]

/-- The matrix engine in a save area, in the order of R209: accumulators, latches, MG0-MG15, seat register, matching store. -/
def Me.save (m : Me) : List Byte :=
  ((List.range 4).flatMap fun i => (look {} m.accs i).save) ++ ((List.range 2).flatMap fun i => (look {} m.latches i).save)
    ++ wordsBytes (((List.range 16).flatMap fun i => let g : Word64 × Word64 := look (0#64, 0#64) m.mg i; [g.1, g.2])
      ++ m.seat.save ++ m.store.flatMap fun e => [word e.ctx, word e.num] ++ e.cmd.save)

/-- A generator in a save area: its window, position and translation entry (11_tensor_access.md R173). -/
def Ag.save (g : Ag) : List Word64 :=
  let c (x : C4) : List Word64 := [word x.c0, word x.c1, word x.c2, word x.c3]
  [word (b2n g.bound), word g.owner, g.handle] ++ c g.org ++ c g.ext
    ++ [word (b2n g.rw), word (b2n g.sync), word g.ord, word g.scope, word g.tag.num, word g.pos, word ((g.cause.map Cause.code).getD 0)]
    ++ match g.tr with
      | some t => [word 1, word t.obj.toNat, word t.index, t.entry]
      | none => [word 0]

/-- A handler start request in a save area. -/
def Start.save (q : Start) : List Word64 :=
  [q.code, word q.block.toNat, q.g0, q.g1, word q.region, q.hops.getD 0#64, word (b2n q.src.inService)]
    ++ match q.src.mb with
      | some (m, f) => [word 1, word m, word f]
      | none => [word 0]

/-- An allowance record in a save area (16_message_engine.md R233). -/
def Allow.save (a : Allow) : List Word64 := [word (b2n a.v), a.dw, word a.alw, word a.sent, word a.c]

/-- The landing entries of a tile in a save area, and the task's transfers that wait at them (24_prog_diamond.md R322). -/
def Tile.saveLanding (t : Tile) (d k : Nat) : List Byte :=
  ((List.range 64).flatMap fun i => let e := t.lb i; leBytes 256 e.bits.toNat ++ wordsBytes [word (e.tag.num + 16 * b2n e.full)])
    ++ (t.fills.filter fun f => f.of d k || f.handle).flatMap fun f => wordsBytes [word (f.entry + 64 * f.reg.tag.num)] ++ leBytes 256 f.reg.bits.toNat

/-- The state of a tile's engines in a save area: the matrix engine, the generators with CG0-CG15, the mailboxes with their
presence and allowance records, the start requests (R199, R209, R233, R236). -/
def Tile.saveEngines (t : Tile) : List Byte :=
  let pres (p : Pres) : List Word64 := [word p.present.toNat, word (b2n p.fired + 2 * b2n p.fof + 4 * b2n p.reserved + 8 * b2n p.filled)]
  t.me.save ++ wordsBytes ((List.range 8).flatMap fun i => (look {} t.ags i).save)
    ++ ((List.range 16).flatMap fun i => leBytes 64 (look 0#512 t.cgs i).toNat)
    ++ (t.mbx.flatMap fun m => wordsBytes [word m.1, word m.2.rcount] ++ leBytes 96 m.2.read.toNat)
    ++ wordsBytes ((t.pres.flatMap fun p => word p.1 :: pres p.2) ++ (t.alw.flatMap fun a => word a.1 :: a.2.save) ++ t.startQ.flatMap Start.save)

/-- The bytes of a tile in the save area: the images of its eight contexts, its landing entries, its engines' state, its local bytes (R307 step 3). What the
spec does not lay out of them is laid out as written here (log 43). -/
def State.saveBytes (s : State) (d n t : Nat) : List Byte :=
  ((List.range 8).flatMap fun c => (s.ctx ⟨d, t, c⟩).image c (s.taskId d n))
    ++ (s.tile d t).saveLanding d t ++ (s.tile d t).saveEngines ++ (s.saveLocal d n t).flatMap (·.2)

/-- What a save keeps of a tile: the lowest unraised fault of each engine of a context (28_traps_preemption.md R362); requests for latches are made
again after a restore. -/
def Tile.toSave (t : Tile) (d k : Nat) : Tile :=
  { t with me := { t.me with store := t.me.store.map fun e => { e with asked := false } }
           ctxs := t.ctxs.map fun c => (c.1, c.2.mergeFaults)
           fills := t.fills.filter fun f => f.of d k || f.handle }

/-- A tile that has been saved and released. -/
def Tile.afterSave (t : Tile) (d k : Nat) : Tile :=
  { t with
    task := none, runs := false, savedFlag := true, ctxs := t.ctxs.map fun c => (c.1, c.2.wiped)
    me := { t.me with store := [], seat := { t.me.seat with v := false } }
    startQ := [], trapQ := [], reqs := [], ags := [], represent := [], fills := t.fills.filter fun f => !f.of d k && !f.handle }

/-- The active windows of an owner, with their objects. -/
def State.windowsOf (s : State) (own : Owner) : List (BitVec 32 × Win) :=
  s.dies.flatMap fun d => d.2.nd.objs.flatMap fun o =>
    (o.2.wins.filter fun w => w.owner == own && w.active).map fun w => (s.objId d.1 o.1, w)

/-- Where a save of n bytes goes in a save area: after every image kept there; none when it does not fit or there is no area. -/
def State.areaRoom (s : State) (h : Word64) (n : Nat) : Option Nat :=
  let used := (s.dies.flatMap fun d => (d.2.td.saved.filter fun v => v.area == h).map fun v => v.off + v.len).foldl max 0
  match s.obj? h with
  | none => none
  | some o => if h ≠ 0#64 ∧ used + n ≤ Desc.bytes o.desc then some used else none

/-- The task is saved at an offset of its area: the channels of a stage leave its tiles (R304), they are released and its windows withdrawn. -/
def State.saveTask (s : State) (d n : Nat) (h : Word64) (off : Nat) : State :=
  let ts := s.gangTiles d n
  let id := s.taskId d n
  let bytes := ts.flatMap fun t => s.saveBytes d n t
  let v : Saved :=
    { slot := n, wins := s.windowsOf (.task id), area := h, off := off, len := bytes.length
      tiles := ts.map fun t => (t, (s.tile d t).toSave d t, s.saveLocal d n t) }
  let s1 := (s.objWrite (hobj h) off bytes).updTd d fun t => { t with saved := t.saved ++ [v] }
  let mine (a : Nat × Nat × Nat) : Bool := ts.contains a.1
  let s2 := ts.foldl (fun s t => s.updTile d t fun y => y.afterSave d t) (s1.tearDown d n)
  let s3 : State := { s2 with tiles := s2.tiles.map fun y =>
    if y.1 / 144 = d then (y.1, { y.2 with me := { y.2.me with asks := y.2.me.asks.filter fun a => !mine a } }) else y }
  s3.dropWindows (.task id)

/-- TASK_SAVE_COMPLETE (R199, R292, R307): the tiles of the task in slot `index` have quiesced and it is saved: SUSPENDED, or ARMED on its rectangle
where only a reservation pre-empted it. A full save area leads to the reset rung. -/
def execTaskSaveComplete (s : State) : Out :=
  let d := s.focus.die
  let n := s.index
  let x := s.slot d n
  .next (if s.stateOf d n ≠ 5 ∨ x.saving.isNone = true ∨ (s.gangTiles d n).all (s.quiesced d) = false then s
    else
      let lad := s.ladders.find? fun l => l.phase == 1 && l.rung == 2 && s.covers l d n
      let h := (lad.map Ladder.save).getD (rcbWord (s.eff (Rec.region x.raw) 14) 6)
      let len := ((s.gangTiles d n).map fun t => (s.saveBytes d n t).length).sum
      match s.areaRoom h len, lad with
      | none, some l => s.rungReset l.scope
      | none, none => (s.markRung d n 3).resetKill d n
      | some off, some l =>
        let s1 := s.saveTask d n h off
        let s2 := s1.setSlot d n { s1.slot d n with raw := setFld (s1.slot d n).raw 60 4 9, saving := none, savers := [] }
        (s2.updLadder l.scope fun l => { l with susp := l.susp + 1 }).settleLadders
      | some off, none =>
        let s1 := s.saveTask d n h off
        s1.setSlot d n { s1.slot d n with raw := setFld (s1.slot d n).raw 60 4 2, saving := none, savers := [], restoring := true
                                          armedAt := s.cycle })

/-! ### Hangs (R309, R310) -/

/-- The timeline value that a block in flight awaits: a `TWAIT` its operand, a fence its block's issue count, a `CTXSV` the
issue count of the context that it saves, a commit its context's issue count at a fence, and for room the next completion (log 67). -/
def State.awaited (s : State) (p : Place) (r : Run) (i : Nat) (e : Engine) : Nat :=
  let left : Nat := match r.tok i with
    | some (.val v) => v.w.toNat
    | _ => 0
  let c := s.ctx p
  if r.committing then
    match r.rest with
    | ⟨_, _, .fence _ _ _⟩ :: _ => c.issue.get e
    | _ => c.done.get e + 1
  else match r.instr i with
  | some (.twait _ _ _ _) => left
  | some (.ctxsv _ _) => (s.ctx { p with ctx := left }).issue.get e
  | _ => r.issueAt.get e

/-- DETAIL words of a wait-map entry, for the wait of instruction i. -/
def State.waitDetail (s : State) (p : Place) (i : Nat) (k : WaitKind) (detail : Word64) : Word64 × Word64 :=
  let x := s.tile p.die p.tile
  let c := s.ctx p
  match k with
  | .tokens => (0#64, 0#64)
  | .timeline =>
    let e : Engine := if detail = 1#64 then .me else if detail = 2#64 then .mse else .ce
    (detail, BitVec.ofNat 64 ((c.run.map fun r => s.awaited p r i e).getD 0))
  | .mailbox =>
    let sel : Word64 := BitVec.ofNat 64 (detail.toNat / 2 ^ 15 + detail.toNat % 2 ^ 15 * 2 ^ 16)
    (detail, BitVec.ofNat 64 (fldN (x.frame sel).2 0 16))
  | .latch => (detail, (look {} x.me.latches detail.toNat).hw0)
  | .barrier =>
    let arr := ((x.task.map idSlot).bind fun n => (s.die p.die).td.barriers.find? fun b => b.1 == n && b.2.1 == detail.toNat)
    (detail, BitVec.ofNat 64 (((arr.map fun b => b.2.2).getD []).map fun r => 2 ^ r).sum)
  | .join =>
    let id : BitVec 32 := fld detail 0 32
    (detail, fld (s.slot (s.taskHub id) (idSlot id)).raw 0 64)
  | .opn => (detail, 0#64)
  | .replySlot =>
    let m := x.mb detail.toNat
    (detail, BitVec.ofNat 64 ((List.range m.nframe).filter fun i => (x.pr (m.fbase + i)).reserved).length)
  | .landing => (detail, 0#64)
  | .allowance =>
    let a : Allow := look {} x.alw detail.toNat
    (detail, BitVec.ofNat 64 ((a.sent + 2 ^ 32 - a.c) % 2 ^ 32))

/-- What a commit waits for: a full store or queue of an engine, or the first engine of a fence that has not completed its commands, reported as its
timeline (R310, 13_matrix_engine.md R208). -/
def Ctx.commitWait (c : Ctx) (rest : List Counted) : Nat × WaitKind × Word64 :=
  match rest with
  | x :: _ => match x.op with
    | .cmd (some e) _ => (x.index, .timeline, BitVec.ofNat 64 e.num)
    | .fence eng _ _ =>
      (x.index, .timeline, BitVec.ofNat 64 ((((engines eng).find? fun e => c.done.get e != c.issue.get e).map Engine.num).getD 0))
    | _ => (x.index, .tokens, 0#64)
  | [] => (0, .tokens, 0#64)

/-- The wait of a `TWAIT`, by what holds the context's oldest command on its timeline: a latch for an `MLDB` or a play that has no grant, an
allowance record for a charged card that may not leave (R310, log 67). -/
def State.refineWait (s : State) (p : Place) (w : Nat × WaitKind × Word64) : Nat × WaitKind × Word64 :=
  let x := s.tile p.die p.tile
  let next (e : Engine) : Nat := (s.ctx p).done.get e + 1
  if w.2.1 ≠ .timeline then w
  else if w.2.2 = 1#64 then
    match x.me.store.find? fun e => e.ctx == p.ctx && e.num == next .me with
    | none => w
    | some e => match e.cmd with
      | .ldb l _ _ => if (look {} x.me.latches l).st = .free then w else (w.1, .latch, BitVec.ofNat 64 l)
      | .play l => if e.granted.isSome then w else (w.1, .latch, BitVec.ofNat 64 l)
      | _ => w
  else if w.2.2 = 2#64 then
    match x.mse.find? fun e => e.ctx == p.ctx && e.num == next .mse with
    | none => w
    | some e => match e.cmd with
      | .cards (c :: _) (some i) => if x.allowed i c then w else (w.1, .allowance, BitVec.ofNat 64 i)
      | _ => w
  else w

/-- What a context of a hung region waits for: none where it has no block decoded, stands at no barrier and is not FAULTED with a trap start that
waits (28_traps_preemption.md R357). -/
def State.waitOf (s : State) (p : Place) : Option (Nat × WaitKind × Word64) :=
  let c := s.ctx p
  match c.run, c.atBarrier with
  | some r, _ =>
    if r.live = false then none
    else if r.committing then some (c.commitWait r.rest)
    else match r.waits with
      | w :: _ =>
        let x := (w.index, w.kind, w.detail)
        some (match r.instr w.index with
          | some (.twait _ _ _ _) => s.refineWait p x
          | _ => x)
      | [] => some (0, .tokens, 0#64)
  | none, some b => some (0, .barrier, BitVec.ofNat 64 b.1)
  | none, none =>
    if c.phase = .faulted ∧ ((s.tile p.die p.tile).trapQ.any fun x => x.ctx == p.ctx) = true then some (0, .tokens, 0#64) else none

/-- An entry of the wait map (R310). -/
def State.waitEntry (s : State) (p : Place) : List Word64 :=
  match s.waitOf p with
  | none => []
  | some (i, k, detail) =>
    let (w2, w3) := s.waitDetail p i k detail
    [BitVec.ofNat 64 (s.moduleId % 1024 * 2 ^ 54 + p.die * 2 ^ 49 + p.tile * 2 ^ 41 + p.ctx * 2 ^ 38
       + (s.taskOn p).toNat),
     BitVec.ofNat 64 (k.num * 2 ^ 56 + (s.ctx p).block.toNat), w2, w3]

/-- A hung region (R309): the cards of the tiles of its tasks and of its handlers are held, the wait map is written, the region is told, its RUNNING tasks end. The map's place in the
dump buffer is a free choice among those where it fits. -/
def State.hang (s : State) (r : Nat) : State :=
  let es := (s.regionCtxs r).flatMap s.waitEntry
  let cnt := es.length / 4
  let map := wordsBytes ([BitVec.ofNat 64 (cnt * 2 ^ 32 + s.cycle % 2 ^ 32), BitVec.ofNat 64 r, 0#64, 0#64] ++ es)
  let run := s.taskSlots.filter fun x => s.stateOf x.1 x.2 == 5 && Rec.region (s.slot x.1 x.2).raw == r
  let its (t : Tile) : Bool := (t.task.isSome && t.region == r) || t.ctxs.any fun c => c.2.phase != .idle && c.2.region == r
  let s1 : State := { s with tiles := s.tiles.map fun t => if its t.2 then (t.1, { t.2 with held := true }) else t }
  let h := rcbWord (s.eff r 15) 7
  let s2 := match s.obj? h with
    | none => s1.post r 9 0#64 0#64 0#64
    | some o =>
      if h = 0#64 then s1.post r 9 0#64 0#64 0#64
      else
        let room := Desc.bytes o.desc
        let (k, t) := s1.draw ((room - map.length) / 32 + 1)
        (t.objWrite (hobj h) (32 * k) (map.take room)).post r 9 (BitVec.ofNat 64 (32 * k)) (BitVec.ofNat 64 cnt) 0#64
  run.foldl (fun s x => if s.stateOf x.1 x.2 = 5 then s.endTask x.1 x.2 7 Cause.waitTimeout.code 0 false false else s) s2

/-- HANG_PROGRESS_REPORT (R309): the presiding controller judges region `index`, which has contexts that are not IDLE and has made no progress for
HANG × 1,024 cycles; the region's block is read for it (R297). -/
def execHangProgressReport (s : State) : Out :=
  let r := s.index
  let last : Nat := (s.dies.map fun d => look 0 d.2.td.progress r).foldl max 0
  let places := s.regionCtxs r
  let off := places.any fun p => (s.die p.die).stopped
  .next (if s.presiding.isNone = true ∨ (s.rcb r).isNone = true ∨ places = [] ∨ off = true ∨ s.haltFreezes r = true then s
    else
      let s1 := s.readBlocks [r]
      if s.cycle < last + 1024 * fldN (s1.eff r 10) 128 32 then s1 else s1.hang r)

/-! ### Debug halts (R311) -/

/-- DEBUG_HALT (R311): the die in focus enters debug halt. -/
def execDebugHalt (s : State) : Out := .next (s.debugHalt s.focus.die)

/-- A context that a `BKPT` halted decodes its block again; a `BKPT` fires there only after a block has committed
(28_traps_preemption.md R361). -/
def Ctx.goOn (c : Ctx) : Ctx :=
  if c.phase = .faulted ∧ (c.fault.map FaultRec.noTrap).getD false = true then
    { c with phase := .running, fault := none, run := none, bkptSkip := true }
  else c

/-- The halt of die d ends: the contexts that a `BKPT` halted go on, and the dies hear of it (R311). -/
def State.haltRelease (s : State) (d : Nat) : State :=
  if (s.die d).halt.isNone then s
  else
    let tile (y : Nat × Tile) : Nat × Tile := if y.1 / 144 = d then (y.1, { y.2 with ctxs := y.2.ctxs.map fun c => (c.1, c.2.goOn) }) else y
    (State.updDie { s with tiles := s.tiles.map tile } d fun y => { y with halt := none }).tellHalt d false []

/-- DEBUG_HALT_RELEASE (R311): the halt of the die in focus is released. -/
def execDebugHaltRelease (s : State) : Out := .next (s.haltRelease s.focus.die)

end Sys2Proof.Machine
end

