-- ==== Sys2Proof/Machine/Firmware.lean ====
section
/-! DEFINITION. Power-up and resets, the boot sequence, attestation, the presiding controller, registers, frozen masters, machine checks, keys,
the life log and throttling (29_host_firmware.md R369-R373, R380-R384, 28_traps_preemption.md R355, R368). Marks:
DEDUCED (log 17, 19, 39, 51, 52, 54, 56, 57); DESIGN CHOICE (log 2, 5, 6, 8, 12, 20, 21, 22, 55). Marks: DEDUCED (log
17, 19, 39, 51, 52, 54, 56, 57); DESIGN CHOICE (log 2, 5, 6, 8, 12, 20, 21, 22, 55, 76, 77). -/

namespace Sys2Proof.Machine

/-! ### Resets (R371, 06_block_engine.md R83, 00_scope.md R5) -/

/-- The dies as a reset leaves them: their defects stay. -/
def coldDies (l : List (Nat × Die)) : List (Nat × Die) :=
  (l.filter fun d => d.2.defects != []).map fun d => (d.1, { defects := d.2.defects })

/-- The bytes below a key, and those of host memory. -/
def hostKept (m : List Host.Cell) : List Host.Cell := m.filter fun c => decide (2 ^ 42 ≤ c.1)

/-- The module waits for its image again: what lies outside it (the host's memory, the moves to come), its number, its defects, its failed links
and the life log stay. The PCI Express links train (log 39). -/
def State.cold (s : State) (mem : List Host.Cell) (bad : List Nat) : State :=
  { agenda := s.agenda, focus := s.focus, index := s.index, freeCtr := s.freeCtr, mem := mem, bad := bad, dies := coldDies s.dies
    links := s.links.filter fun l => l.2 == .down
    lifeLog := s.lifeLog, moduleId := s.moduleId }

/-- POWER_UP (R371): the boot sequence begins. -/
def execPowerUp (s : State) : Out := .next (s.cold (hostKept s.mem) [])

/-- 32-byte records of an epoch: its header and one for each counter and histogram (R382). -/
def Epoch.size (e : Epoch) : Nat := 1 + e.counts.length + e.hists.length

/-- Bins of a histogram summed; a bin holds 16 bits (log 77). -/
def binSum (a b : List Nat) : List Nat := (List.range 8).map fun i => min 65535 (a.getD i 0 + b.getD i 0)

/-- Two epochs merged: counts and bins summed. -/
def Epoch.join (a b : Epoch) : Epoch :=
  { b with counts := b.counts.foldl (fun l x => put l x.1 (look 0 l x.1 + x.2)) a.counts
           hists := b.hists.foldl (fun l x => put l x.1 (binSum (look [] l x.1) x.2)) a.hists }

/-- Records that the store of 32 MiB holds. -/
def lifeLimit : Nat := 2 ^ 20

/-- The two oldest epochs are merged until the log fits its store. -/
def fitLog : Nat → List Epoch → List Epoch
  | 0, l => l
  | k + 1, l =>
    if (l.map Epoch.size).sum ≤ lifeLimit then l
    else match l with
      | a :: b :: r => fitLog k (a.join b :: r)
      | _ => l

/-- An epoch is appended, with the counters that are not zero (R382). -/
def State.appendEpoch (s : State) : State :=
  let e : Epoch := { seconds := s.cycle / 1250000000, svn := s.boot.svn
                     counts := (s.counts ++ s.grownCounts).filter fun c => c.2 != 0, hists := s.hists }
  let l := s.lifeLog ++ [e]
  { s with lifeLog := fitLog l.length l, counts := [], hists := [], lastEpoch := s.cycle
           dies := s.dies.map fun d => (d.1, { d.2 with errors := 0 })
           epochBase := s.dies.flatMap fun d => d.2.counters.map fun c => ((d.1, c.1), c.2) }

/-- Cycles between epochs: 60 s (01_machine.md R12). -/
def epochPeriod : Nat := 75000000000

/-- LIFE_LOG_EPOCH (R382): 60 s after the last epoch another is appended. -/
def execLifeLogEpoch (s : State) : Out := .next (if s.cycle < s.lastEpoch + epochPeriod then s else s.appendEpoch)

/-- The device is reset in order: an epoch is appended, local stores are zero, the boot sequence begins (R371, R382). -/
def State.deviceReset (s : State) : State :=
  let t := s.appendEpoch
  t.cold (t.mem.filter fun c => decide (2 ^ 34 ≤ c.1)) (t.bad.filter fun w => decide (2 ^ 34 ≤ w * 8))

/-- DEVICE_RESET (R371). -/
def execDeviceReset (s : State) : Out := .next s.deviceReset

/-- Die e starts its messages with hub d again: those that it retains for d end with `MSG_UNRECOVERABLE`, what has come from d and is not delivered is
dropped, what is delivered answers no more, and both sequences start at 0 (17_erasure_coding.md R261, 19_prog_erasure.md; log 76). -/
def State.cutPeer (s : State) (e d : Nat) : State :=
  let gone := (s.die e).fab.retained.filter fun r => r.msg.dst == d
  let s1 := gone.foldl (fun s r => (s.release e r (some .msgUnrecoverable)).lostBody e r.msg.body) s
  s1.updDie e fun y => { y with
    mesh := y.mesh.map fun m => if m.msg.any fun k => k.1 == d then { m with msg := none, card := { m.card with src := ⟨d, 0, 8⟩ } } else m
    fab := { y.fab with
      retained := y.fab.retained.filter fun r => r.msg.dst != d
      seqs := y.fab.seqs.filter fun x => x.1 != d
      melds := y.fab.melds.filter fun b => b.msg.src != d
      filters := y.fab.filters.filter fun x => x.src != d
      finishing := y.fab.finishing.filter fun x => x.1 != d
      acted := y.fab.acted.filter fun x => x.1 != d } }

/-- DIE_RESET (R83): the tiles and the hub of the die in focus hold their reset values, its directory slice among them
(25_name_directory.md R325, 11_tensor_access.md R170), its local stores are zero. Its chord tables, which firmware writes at boot, stay. A debug halt
of the die ends, and what the other dies keep of their messages with it starts again (log 76). -/
def execDieReset (s0 : State) : Out :=
  let d := s0.focus.die
  let x := s0.die d
  let inLs (k : Nat) : Bool := decide (lsKey d 0 0 ≤ k ∧ k < lsKey (d + 1) 0 0)
  let s := ((List.range 32).filter fun e => e != d).foldl (fun s e => (s.haltOver e d).cutPeer e d) s0
  let t : State := { s with
    frags := s.frags.filter fun f => f.msg.src != d && f.msg.dst != d
    linkMsgs := s.linkMsgs.filter fun l => l.1 != d && l.2.1 != d
    tiles := s.tiles.filter fun y => y.1 / 144 != d
    mem := s.mem.filter fun c => !inLs c.1
    bad := s.bad.filter fun w => !inLs (w * 8)
    epochBase := s.epochBase.filter fun b => b.1.1 != d }
  .next (t.setDie d { defects := x.defects, fab := { chords := x.fab.chords } })

/-- OVERTEMP_RESET (R384): a die above 110 °C or a coolant inlet above 45 °C makes firmware reset the device. -/
def execOvertempReset (dieC inletC : Nat) (s : State) : Out :=
  .next (if 110 < dieC ∨ 45 < inletC then s.deviceReset else s)

/-! ### The presiding controller (R373) -/

/-- A die reaches a PCI Express link that is live, at the West or the East rim die, over panel links that are up (01_machine.md R10). -/
def State.reachesHost (s : State) (d : Nat) : Bool :=
  (s.rims d).any fun r => (r == 3 && s.hostLinks.contains 0) || (r == 1 && s.hostLinks.contains 1)

/-- The die that presides: the lowest live one, of the group that may preside, that reaches a link. -/
def State.elected (s : State) : Option Nat := s.quorum.find? s.reachesHost

/-- Every function and queue (R369, R374). -/
def everyQueue : List (Nat × Nat) := (List.range 34).flatMap fun f => (List.range 8).map fun q => (f, q)

def State.queueOf (s : State) (fn q : Nat) : Queue := ((s.queues.find? fun x => x.1 == (fn, q)).map (·.2)).getD {}

def State.setQueue (s : State) (fn q : Nat) (x : Queue) : State :=
  { s with queues := s.queues.filter (fun y => y.1 != (fn, q)) ++ [((fn, q), x)] }

def State.updQueue (s : State) (fn q : Nat) (f : Queue → Queue) : State := s.setQueue fn q (f (s.queueOf fn q))

/-- The election: a change of controller places every queue in ERROR with code 4; without one the queues read STATE off. -/
def State.elect (s : State) : State :=
  let new := s.elected
  if new = s.presiding then s
  else
    let f (x : Queue) : Queue := if new.isSome then { x with state := .error, err := 4 } else { x with state := .off }
    { s with presiding := new, queues := everyQueue.map fun k => (k, f (s.queueOf k.1 k.2)) }

/-- PRESIDING_ELECTION (R373). -/
def execPresidingElection (s : State) : Out := .next (if s.boot.step = .ready then s.elect else s)

/-! ### Boot and attestation (R370-R372) -/

/-- The n bytes of the boot window's image from an offset. -/
def Boot.bytes (b : Boot) (a n : Nat) : List Byte := (List.range n).map fun i => look 0#8 b.image (a + i)

/-- The header's magic number and size, and the largest image. -/
def imageMagic : Nat := 0x46574B5800000001

@[inherit_doc imageMagic]
def headerSize : Nat := 256

@[inherit_doc imageMagic]
def imageLimit : Nat := 64 * 2 ^ 20

/-- The checks of R371 step 4 on an image of that length. -/
def Boot.passes (b : Boot) (len : Nat) : Bool :=
  let f (a n : Nat) : Nat := leNat (b.bytes a n)
  decide (f 0 8 = imageMagic ∧ f 8 4 = len ∧ len ≤ imageLimit ∧ Config.fusedSvn ≤ f 12 4
    ∧ Config.sm3 (b.bytes 16 64) = Config.fusedKeyDigest)
  && Config.sm2Verify (BitVec.ofNat 512 (f 16 64)) (BitVec.ofNat 512 (f 80 64))
    (Config.sm3 (b.bytes 0 80 ++ b.bytes headerSize len))

/-- The root region's control block as firmware writes it at boot (22_task_dispatcher.md R295). -/
def rootBlock : BitVec 1024 :=
  BitVec.ofNat 1024 (47 * 2 ^ 20 + 1 * 2 ^ 18 + 20 * 2 ^ 5 + (1250000 * 2 ^ 32 + 12207) * 2 ^ 128
    + (125000 * 2 ^ 32 + 250000) * 2 ^ 192 + 0x1FFFF * 2 ^ 960)

/-- The loader: the lowest-numbered C-die that a trained link reaches (R371 step 3). -/
def State.loader (s : State) : Option Nat := (List.range 32).find? fun d => (s.die d).live && s.reachesHost d

/-- Firmware runs (R371 step 6): each die controller that the loader reaches holds the image, whose copy has its digest; the links are validated, chords
computed, those whose links are up available; HBM is zero, slot 0 alone holds a key, region 0 exists, a controller presides. -/
def State.ready (s : State) (ld len : Nat) : State :=
  let b := s.boot
  let whole := b.bytes 0 (headerSize + len)
  let inHbm (k : Nat) : Bool := decide (2 ^ 34 ≤ k ∧ k < 2 ^ 42)
  let chord (d c : Nat) : Chord :=
    let l := (chordTable d (c / 4)).getD (c % 4) []
    { valid := true, up := l.all fun k => s.link k == .up, links := l }
  let die (d : Nat) : Nat × Die :=
    let x := s.die d
    (d, { x with
      fab := { x.fab with chords := (List.range 128).map fun c => (c, chord d c) }
      ctl := if x.live && (s.sites ld).contains (dieSite d) then { x.ctl with firmware := whole } else x.ctl })
  let t : State := { s with
    boot := { b with step := .ready, svn := BitVec.ofNat 32 (leNat (b.bytes 12 4)), digest := Config.sm3 whole
                     failed := (s.links.filter fun l => l.2 != .up).map (·.1) }
    dies := (List.range 32).map die
    mem := s.mem.filter fun c => !inHbm c.1, bad := s.bad.filter fun w => !inHbm (w * 8), frames := []
    keys := [(0, keyPair s.freeCtr)], freeCtr := s.freeCtr + 1, regions := [(0, rootBlock)]
    members := (List.range 32).filter fun d => (s.die d).live }
  { t with presiding := t.elected }

/-- The window's GO register is written: the loader checks the image; after a failed check it waits for a new one. -/
def State.bootGo (s : State) (len : Nat) : State :=
  match s.loader with
  | none => s
  | some d =>
    if s.boot.step = .ready then s
    else if s.boot.passes len then s.ready d len
    else { s with boot := { s.boot with step := .failed 4 } }

/-- Eight bytes of the boot window are written. -/
def State.bootWrite (s : State) (offset : Nat) (v : Word64) : State :=
  if s.boot.step = .ready ∨ s.loader = none then s
  else { s with boot := { s.boot with image :=
    ((List.range 8).map fun i => (offset + i, (fld v (8 * i) 8 : Byte))).foldl (fun l x => put l x.1 x.2) s.boot.image } }

/-- The function is frozen (R368). -/
def State.fnFrozen (s : State) (fn : Nat) : Bool := s.frozen.any fun f => f.who == .function fn

/-- Function 0 of PCI Express link k: each link has one physical function and 16 virtual ones (R369). -/
def linkFn (k : Nat) : Nat := 17 * k

/-- A request to the window of function 0 of PCI Express link k, which is trained: held while the function is frozen (R368). A held write of the window
is its offset and 1,024, a held GO is 1,000. -/
def State.windowRequest (s : State) (k what : Nat) (v : Word64) (act : State → State) : State :=
  if s.hostLinks.contains k = false then s
  else if s.fnFrozen (linkFn k) then s.holdMaster (.function (linkFn k)) [BitVec.ofNat 64 what, v] 0 v
  else act s

/-- BOOT_GO_WRITE (R371): the host writes the image's length to GO, over the link of number `index`. -/
def execBootGoWrite (len : BitVec 32) (s : State) : Out :=
  .next (s.windowRequest s.index 1000 (len.setWidth 64) fun s => s.bootGo len.toNat)

/-- The bytes over which measurement 3 is taken: the fused key digest, minimum version and part number; their encoding R372 does not state (log 21). -/
def fusedBytes : List Byte := leBytes 32 Config.fusedKeyDigest.toNat ++ leBytes 4 Config.fusedSvn ++ Config.partNumber

/-- The bytes over which measurement 4 is taken: defective tiles, and links that had failed at boot. -/
def State.defectMap (s : State) : List Byte :=
  (s.dies.flatMap fun d => d.2.defects.flatMap fun t => [BitVec.ofNat 8 d.1, BitVec.ofNat 8 t]) ++ s.boot.failed.map (BitVec.ofNat 8)

/-- The bytes over which measurement 5 is taken: the merge of all epochs. -/
def State.logSummary (s : State) : List Byte :=
  let e := s.lifeLog.foldl Epoch.join { seconds := 0, svn := 0#32, counts := [] }
  (e.counts.flatMap fun c => leBytes 8 c.1 ++ leBytes 24 c.2)
    ++ e.hists.flatMap fun c => leBytes 8 c.1 ++ ((c.2.flatMap (leBytes 2)) ++ List.replicate 8 0#8)

/-- The value of a measurement (R372). -/
def State.measure (s : State) (k : Nat) : BitVec 256 :=
  if k = 1 then Config.bootRomDigest else if k = 2 then s.boot.digest else if k = 3 then Config.sm3 fusedBytes
  else if k = 4 then Config.sm3 s.defectMap else Config.sm3 s.logSummary

/-- SPDM_REQUEST (R369, R372): the answer over the DOE of the PCI Express link of number `index`, which is enabled once firmware runs. A measurement is
its index, its value, and the signature of both. -/
def execSpdmRequest (what : SpdmReq) (s : State) : Out :=
  let signed (l : List Byte) : List Byte := l ++ leBytes 64 (Config.sm2Sign l).toNat
  .next (if s.boot.step ≠ .ready ∨ s.hostLinks.contains s.index = false then s
    else { s with doe := put s.doe s.index (match what with
      | .identity => Config.spdmIdentity
      | .certificate => Config.spdmCertificate
      | .measurement k => signed (leBytes 1 k ++ leBytes 32 (s.measure k).toNat)) })

/-! ### Registers (R5, R369, R374) -/

/-- A write of the host to a queue's registers: what is written, the queue, the value. -/
def State.queueWrite (s : State) (fn what q : Nat) (v : Word64) : State :=
  if s.boot.step ≠ .ready then s
  else if what = 0 then s.updQueue fn q fun x => { x with tail := fld v 0 32 }
  else if what = 1 then s.updQueue fn q fun x => { x with cdone := fld v 0 32 }
  else if what = 2 then
    if s.presiding.isNone then s
    else s.updQueue fn q fun x =>
      if v = 0#64 then { x with en := false, state := .off }
      else { x with en := true, state := .running, err := if x.state = .running then x.err else 0 }
  else if what = 3 then s.updQueue fn q fun x => { x with rbase := setFld v 0 12 0 }
  else if what = 4 then s.updQueue fn q fun x => { x with cbase := setFld v 0 12 0 }
  else if what = 5 then s.updQueue fn q fun x => if x.en then x else { x with expect := fld v 0 32 }
  else s

/-- A write of a function, held while the function is frozen (R368). -/
def State.hostWrite (s : State) (fn what q : Nat) (v : Word64) : State :=
  if s.fnFrozen fn then s.holdMaster (.function fn) [BitVec.ofNat 64 (8 * what + q), v] 0 v else s.queueWrite fn what q v

/-- DOORBELL (R374): TAIL is written. -/
def execDoorbell (fn q : Nat) (tail : BitVec 32) (s : State) : Out := .next (s.hostWrite fn 0 q (tail.setWidth 64))

/-- CDONE_WRITE (R374, R378). -/
def execCdoneWrite (fn q : Nat) (v : BitVec 32) (s : State) : Out := .next (s.hostWrite fn 1 q (v.setWidth 64))

/-- QUEUE_ENABLE (R374): EN is written. -/
def execQueueEnable (fn q : Nat) (en : Bool) (s : State) : Out := .next (s.hostWrite fn 2 q (BitVec.ofNat 64 (b2n en)))

/-- PCIE_OUT_OF_WINDOW_REQUEST (R368, R369): the function is frozen, its request held. -/
def execPcieOutOfWindowRequest (fn : Nat) (word : BitVec 64) (s : State) : Out :=
  .next (s.holdMaster (.function fn) [64#64, word] (s.queueOf fn 0).region word)

/-- The timeout that a write of v sets (17_erasure_coding.md R257). -/
def timeoutOf (v : Nat) : Nat := max 1024 v

/-- REGISTER_WRITE (R5): the value is stored as the access codes say; the boot window is that of the PCI Express link of number `index`. -/
def execRegisterWrite (reg : HwReg) (v : BitVec 64) (s : State) : Out :=
  .next (match reg with
    | .queueRbase fn q => s.hostWrite fn 3 q v
    | .queueCbase fn q => s.hostWrite fn 4 q v
    | .queueExpect fn q => s.hostWrite fn 5 q v
    | .queueRegion fn q =>
      if (s.rcb (fldN v 0 12)).isSome then s.updQueue fn q fun x => { x with region := fldN v 0 12 } else s
    | .coderate die index =>
      s.updFab die fun f => { f with coderate := put f.coderate index (min 8 (fldN v 4 4), min 8 (fldN v 0 4)) }
    | .meldcfg die => s.updFab die fun f =>
      { f with tmoPod := timeoutOf (fldN v 40 24), tmoPanel := timeoutOf (fldN v 16 24), repairLimit := min 8 (fldN v 0 4) }
    | .tileTable obj index =>
      let e := setFld (setFld (setFld v 56 3 0) 16 16 0) 5 3 0
      let o := s.objOf obj
      if o.live = true ∧ index < Desc.entries o.desc then s.setObj obj { o with table := put o.table index e } else s
    | .aperture => { s with aperture := v }
    | .requester ident => { s with requesters := put s.requesters ident (fldN v 0 10) }
    | .bootWindow offset => s.windowRequest s.index (1024 + offset) v fun s => s.bootWrite offset v
    | .chordValid die dest chord => s.updFab die fun f =>
      let x : Chord := look {} f.chords (4 * dest + chord)
      { f with chords := put f.chords (4 * dest + chord) { x with valid := bit v 0, up := x.links.all fun k => s.link k != .down } }
    | .mapStore die tile offset => s.writeLs ⟨die, tile, 0⟩ offset (leBytes 8 v.toNat)
    | .mapLanding die tile offset => s.updTile die tile fun t => t.writeLanding offset (leBytes 8 v.toNat)
    | .unused _ => s)

/-! ### Frozen masters (R368) -/

/-- The held requests of a function, in order: writes to the boot window and to queue registers; a request outside the windows has no effect. -/
def State.replayFn (s : State) (fn : Nat) : List Word64 → State
  | k :: v :: l =>
    (if 1024 ≤ k.toNat then s.bootWrite (k.toNat - 1024) v
     else if k.toNat = 1000 then s.bootGo (fldN v 0 32)
     else s.queueWrite fn (k.toNat / 8) (k.toNat % 8) v).replayFn fn l
  | _ => s

/-- The held writes of a peer, each an address, its station and its 64 bytes. -/
def State.replayPeer (s : State) (ident : Nat) : Nat → List Word64 → State
  | 0, _ => s
  | n + 1, l =>
    match l, look? s.requesters ident with
    | a :: p :: r, some m =>
      (s.podWrite p.toNat m (a.toNat - s.aperture.toNat) (wordsBytes (r.take 8))).replayPeer ident n (r.drop 8)
    | _, _ => s

/-- What the service gives a request that firmware lets proceed. -/
def State.serviceNow (s : State) (p : Place) (n v : Nat) : Word64 :=
  (s.service p n v).getD (if 1 < v then BitVec.allOnes 64 else BitVec.ofNat 64 (b2n (s.die p.die).dbgen))

/-- The held requests of a master proceed in order. -/
def State.thaw (s : State) (f : Frozen) : State :=
  match f.who with
  | .context p =>
    let s1 := s.updCtx p fun c => { c with frozen := false }
    match f.held, (s.ctx p).run with
    | [n, v, i], some r =>
      s1.send p.die p.die (.reply { place := p, serial := r.serial, index := i.toNat
                                    result := Result.w (s.serviceNow p n.toNat v.toNat) })
    | _, _ => s1
  | .copyQueue d t =>
    let x := s.tile d t
    match x.copyQ.find? fun e => !e.running with
    | some e =>
      if x.copyFrozen = false then s
      else s.updTile d t fun x => { x with copyFrozen := false, copyQ := x.copyQ.map fun y =>
        if y.ctx = e.ctx ∧ y.num = e.num then { y with running := true } else y }
    | none => s.updTile d t fun x => { x with copyFrozen := false }
  | .function fn => s.replayFn fn f.held
  | .peer ident => s.replayPeer ident f.held.length f.held

/-- MASTER_UNFREEZE (R368): frozen master number `index` goes on. -/
def execMasterUnfreeze (s : State) : Out :=
  .next (match s.frozen[s.index]? with
    | none => s
    | some f =>
      let t : State := { s with frozen := dropAt s.frozen s.index }
      t.thaw f)

/-- The held requests of a master are discarded, its held commands complete with `RIGHTS`; a context is ended (R368). -/
def State.resetMaster (s : State) (f : Frozen) : State :=
  match f.who with
  | .context p =>
    if (s.ctx p).frozen = false then s
    else
      let s1 := (s.abandon p).updCtx p fun c => { c with frozen := false }
      if p.ctx = 0 then s1.faultTask p.die p.tile .rights else s1.endHandler p
  | .copyQueue d t =>
    let x := s.tile d t
    if x.copyFrozen = false then s
    else (x.copyQ.filter fun e => !e.running).foldl (fun s e => s.copyDone d t e (some .rights))
      (s.updTile d t fun x => { x with copyFrozen := false })
  | _ => s

/-- MASTER_RESET (R368): frozen master number `index` is reset. -/
def execMasterReset (s : State) : Out :=
  .next (match s.frozen[s.index]? with
    | none => s
    | some f =>
      let t : State := { s with frozen := dropAt s.frozen s.index }
      t.resetMaster f)

/-- HALTED_CONTEXT_WRITE (R368): while the die in focus is in debug halt, firmware reads the image of the context in focus, or writes it with the effect of
`CTXRS`. -/
def execHaltedContextWrite (image : Option (List (BitVec 8))) (s : State) : Out :=
  let p := s.focus
  .next (if (s.die p.die).halt.isNone = true ∨ ((s.ctx p).run.any Run.committing) = true ∧ image.isSome = true then s
    else match image with
      | none => s.updDie p.die fun x => { x with image := (s.ctx p).image p.ctx (s.taskOn p) }
      | some b =>
        if b.length = imageSize p.ctx ∧ imageOk p.ctx b = true
            ∧ (p.ctx = 0 → fld (imageWord b 0) 32 32 = s.taskOn p) then (s.abandon p).restoreCtx p p.ctx b
        else s)

/-! ### Machine checks (28_traps_preemption.md R355) -/

/-- MACHINE_CHECK (R355): report number `index` of the die: the task of the affected tile ends, and every region of its fault domain is told. -/
def execMachineCheck (s : State) : Out :=
  let d := s.focus.die
  .next (match (s.die d).checks[s.index]? with
    | none => s
    | some t =>
      let s1 := (s.updDie d fun x => { x with checks := dropAt x.checks s.index }).count (checkCounter d)
      let region := (s.tile d t).region
      let domain (r : Nat) : Nat := fldN (s.eff r 4) 10 8
      let told := (s.regions.map (·.1)).filter fun r => domain r == domain region
      match (s.tile d t).task with
      | none => told.foldl (fun s r => s.post r 4 0#64 0#64 0#64) s1
      | some id =>
        let n := idSlot id
        let status := (s.slot d n).endStatus Cause.machineCheck.code 0
        let s2 := s1.endTask d n 7 Cause.machineCheck.code 0 false false
        (told.filter fun r => r != Rec.region (s.slot d n).raw).foldl (fun s r => s.post r 4 (id.setWidth 64) status 0#64) s2)

/-! ### Keys and throttling (R380, R384) -/

/-- KEY_SLOT_LOAD (R380): refused while an allocated frame is marked E with the slot. -/
def execKeySlotLoad (slot : Nat) (dataKey tweakKey : BitVec 128) (s : State) : Out :=
  .next (if s.slotUsed slot then s else { s with keys := put s.keys slot (dataKey, tweakKey) })

/-- The step whose threshold the module's power, in watts, or a die's temperature is above (R384). -/
def throttleStep (r : Reading) : Nat :=
  if 16400 < r.watts ∨ 105 < r.dieC then 3 else if 16000 < r.watts ∨ 100 < r.dieC then 2 else if 15500 < r.watts ∨ 95 < r.dieC then 1 else 0

/-- Life-log indices of the histograms (R382): of a die's temperature, in bins of 5 °C from 40 °C, and of the module's power, in bins of 1 kW, eight bins
to a record. -/
def tempRecord (d b : Nat) : Nat := 0x3000 + 4 * d + b / 8

@[inherit_doc tempRecord]
def powerRecord (b : Nat) : Nat := 0x3100 + b / 8

/-- A reading is taken, and counted in the histograms (R382, log 77). -/
def State.sample (s : State) (d : Nat) (r : Reading) : State :=
  let one (k : Nat) : List Nat := (List.range 8).map fun i => b2n (i == k)
  let add (l : List (Nat × List Nat)) (r b : Nat) : List (Nat × List Nat) := put l r (binSum (look [] l r) (one (b % 8)))
  let t := (r.dieC - 40) / 5
  { s with reading := some r, hists := add (add s.hists (tempRecord d t) t) (powerRecord (r.watts / 1000)) (r.watts / 1000) }

/-- THROTTLE_STEP_UP (R384): a reading is taken. One above the threshold of a higher step enters it; one below the threshold of the current step
begins, or goes on with, the time that the step down waits for. -/
def execThrottleStepUp (reading : Reading) (s : State) : Out :=
  let t := s.sample s.focus.die reading
  .next (if s.throttle ≤ throttleStep reading then { t with throttle := throttleStep reading, coolSince := none }
    else { t with coolSince := some (s.coolSince.getD s.cycle) })

/-- Cycles below a threshold before a step down: 10 ms. -/
def coolTime : Nat := 12500000

/-- THROTTLE_STEP_DOWN (R384): after 10 ms of readings below the threshold of the current step the throttle falls by one step. -/
def execThrottleStepDown (s : State) : Out :=
  let down := s.throttle - 1
  .next (match s.coolSince, s.reading with
    | some c, some r =>
      if s.cycle < c + coolTime then s
      else { s with throttle := down, coolSince := if throttleStep r < down then some s.cycle else none }
    | _, _ => s)

end Sys2Proof.Machine
end

