-- ==== Sys2Proof/Machine/HostQueue.lean ====
section
/-! DEFINITION. The host's command queues: acceptance, the thirteen commands, completion records
(29_host_firmware.md R374-R379). Marks: DEDUCED (log 40, 48, 52, 53); DESIGN CHOICE (log 8, 70). -/

namespace Sys2Proof.Machine

/-! ### Host memory -/

/-- The n bytes of host memory from an address. -/
def State.hostRead (s : State) (a n : Nat) : List Byte := s.readAt (hostKey a) n

def State.hostWriteAt (s : State) (a : Nat) (bs : List Byte) : State := s.writeAt (hostKey a) bs

/-! ### Acceptance (R375, R376) -/

/-- (a - b) modulo 2^32. -/
def seqDist (a b : BitVec 32) : Nat := (a - b).toNat

/-- Bits of a word outside a set of fields, each as its low bit and width, are 0. -/
def onlyBits (w : Word64) (fs : List (Nat × Nat)) : Bool := fs.foldl (fun w f => setFld w f.1 f.2 0) w == 0#64

/-- A packet's reserved bits are 0: those that R375 and R379 give no meaning. -/
def packetOk (w0 : Word64) (args : List Word64) : Bool :=
  let a (i : Nat) : Word64 := args.getD (i - 1) 0#64
  let rest (i : Nat) : Bool := (args.drop i).all fun w => w == 0#64
  let flags := fldN w0 16 8
  fldN w0 0 16 == 0 && match fldN w0 24 8 with
    | 0 | 7 | 8 | 12 => flags == 0 && rest 0
    | 1 => flags == 0 && onlyBits (a 1) [(0, 13)] && onlyBits (a 3) [(0, 32)] && rest 5
    | 2 => flags == 0 && onlyBits (a 2) [(63, 1), (8, 8), (0, 5)] && decide (fldN (a 2) 8 8 ≤ 5) && rest (2 + fldN (a 2) 8 8)
    | 3 => flags == 0 && onlyBits (a 3) [(0, 5)] && rest 3
    | 4 => flags == 0 && rest 6
    | 5 | 6 =>
      decide (flags ≤ 1) && fldN (a 2) 0 6 == 0 && (if flags = 1 then a 1 == 0#64 else a 5 == 0#64) && rest 5
    | 9 | 10 => flags == 0 && onlyBits (a 1) [(63, 1), (0, 12)] && rest 1
    | 11 => flags == 0 && rest 2
    | _ => false

/-- The presiding controller serves a command of a kind: one without quorum answers with status alone, `QSTAT` and `PARTSTAT` (16_message_engine.md
R252). -/
def State.answersHost (s : State) (kind : Nat) : Bool := match s.presiding with
  | none => false
  | some p => !(s.die p).stopped || kind == 8 || kind == 12

/-- QUEUE_ACCEPT (R376): one turn of the loop. A packet of an unknown KIND, or with a reserved bit set, is complete at once with
`RESERVED_FIELD`. -/
def execQueueAccept (fn q : Nat) (s : State) : Out :=
  let x := s.queueOf fn q
  .next (if s.presiding = none ∨ x.state ≠ .running ∨ x.en = false ∨ 2 ^ 31 ≤ seqDist x.tail x.expect
      ∨ 64 < seqDist x.expect x.lastComp then s
    else if 64 < seqDist x.tail x.lastAcc then s.setQueue fn q { x with state := .error, err := 2 }
    else
      let ws := bytesWords 8 (s.hostRead (x.rbase.toNat + 64 * (x.expect.toNat % 64)) 64)
      let w0 := ws.getD 0 0#64
      if fld w0 32 32 ≠ x.expect then s.setQueue fn q { x with state := .error, err := 1 }
      else
        let ok := packetOk w0 (ws.drop 1)
        let c : HostCmd :=
          { fn := fn, q := q, seq := x.expect, kind := fldN w0 24 8, flags := fldN w0 16 8, args := ws.drop 1
            phase := if ok then .accepted else .completed, status := if ok then 0 else Cause.reservedField.code }
        let t : State := { s with cmds := s.cmds ++ [c] }
        t.setQueue fn q { x with lastAcc := x.expect, expect := x.expect + 1#32 })

/-- COMPLETION_POST (R378): the record of the queue's oldest command, which is complete, is posted while the ring has room. -/
def execCompletionPost (fn q : Nat) (s : State) : Out :=
  let x := s.queueOf fn q
  .next (match s.cmds.find? fun c => c.fn == fn && c.q == q with
    | none => s
    | some c =>
      if s.answersHost c.kind = false ∨ c.phase ≠ .completed ∨ 128 < seqDist c.seq x.cdone then s
      else
        let w0 := BitVec.ofNat 64 (c.seq.toNat * 2 ^ 32 + c.status % 256 * 2 ^ 24 + c.kind % 256 * 2 ^ 16)
        let s1 := s.hostWriteAt (x.cbase.toNat + 32 * (c.seq.toNat % 128)) (wordsBytes [w0, c.w1, c.w2, 0#64])
        let t : State := { s1 with
          cmds := s1.cmds.filter fun y => !(y.fn == fn && y.q == q && y.seq == c.seq)
          msix := if c.status = 0 then s1.msix else s1.msix ++ [(fn, q)] }
        t.setQueue fn q { x with lastComp := c.seq })

/-! ### Starting a command (R377) -/

def State.updCmd (s : State) (c : HostCmd) (f : HostCmd → HostCmd) : State :=
  { s with cmds := s.cmds.map fun x => if x.fn = c.fn ∧ x.q = c.q ∧ x.seq = c.seq then f x else x }

/-- A command is complete with a status and its result words. -/
def State.finish (s : State) (c : HostCmd) (status : Nat) (w1 w2 : Word64) : State :=
  s.hostDone c.fn c.q c.seq.toNat status w1 w2

/-- The command of a kind that a queue may start now: the first not started, no FENCE before it being incomplete. -/
def State.nextCmd (s : State) (fn q kind : Nat) : Option HostCmd :=
  let l := s.cmds.filter fun c => c.fn == fn && c.q == q
  match l.find? fun c => c.phase == .accepted && c.kind != 0 with
  | none => none
  | some c =>
    let fenced := l.any fun x => x.kind == 7 && x.phase == .started
    if s.answersHost kind = false ∨ c.kind ≠ kind ∨ fenced = true then none else some c

/-- A command of a kind starts, in the REGION of its queue, at the presiding controller. -/
def startCmd (fn q kind : Nat) (act : HostCmd → Nat → Nat → State → State) (s : State) : Out :=
  .next (match s.nextCmd fn q kind with
    | none => s
    | some c =>
      let r := (s.queueOf fn q).region
      if (s.rcb r).isNone then s.finish c Cause.rights.code 0#64 0#64 else act c r (s.presiding.getD 0) s)

/-- Argument word i of a command. -/
def HostCmd.arg (c : HostCmd) (i : Nat) : Word64 := c.args.getD (i - 1) 0#64

/-- HOST_NOP (R379): a NOP is complete once accepted. -/
def execHostNop (fn q : Nat) (s : State) : Out :=
  .next (match s.cmds.find? fun c => c.fn == fn && c.q == q && c.kind == 0 && c.phase == .accepted with
    | none => s
    | some c => s.finish c 0 0#64 0#64)

/-- HOST_FENCE (R377): a FENCE starts; it is complete once every earlier command is. -/
def execHostFence (fn q : Nat) (s : State) : Out :=
  let s1 := match s.nextCmd fn q 7 with
    | none => s
    | some c => s.updCmd c fun c => { c with phase := .started }
  let l := s1.cmds.filter fun c => c.fn == fn && c.q == q
  .next (match l.find? fun c => c.phase != .completed with
    | none => s1
    | some c => if c.kind = 7 ∧ c.phase = .started then s1.finish c 0 0#64 0#64 else s1)

/-! ### KICK (R379, 06_block_engine.md R100, R101) -/

/-- KICK (R379): a handler start request goes to the hub of its die. A stale code handle, and a tile that does not exist or is
defective, give `RIGHTS`. -/
def execKick (fn q : Nat) (s : State) : Out :=
  startCmd fn q 1 (fun c r _ s =>
    let d := fldN (c.arg 1) 8 5
    let t := fldN (c.arg 1) 0 8
    if (s.reach r (c.arg 2)).isNone = true ∨ 144 ≤ t ∨ s.defective d t = true then s.finish c Cause.rights.code 0#64 0#64
    else
      let k : Kick := { tile := t, host := (c.fn, c.q, c.seq.toNat)
                        start := { code := c.arg 2, block := fld (c.arg 3) 0 32, g0 := c.arg 4, g1 := c.arg 5, region := r } }
      (s.updCmd c fun c => { c with phase := .started }).updTd d fun x => { x with kicks := x.kicks ++ [k] }) s

/-- KICK_DELIVERY (06_block_engine.md R101): held KICK number `index` of the die, the first for its tile, is queued there. -/
def execKickDelivery (s : State) : Out :=
  let d := s.focus.die
  let l := (s.die d).td.kicks
  .next (match l[s.index]? with
    | none => s
    | some k =>
      if (s.tile d k.tile).startFull = true ∨ ((l.take s.index).any fun x => x.tile == k.tile) = true then s
      else
        let (fn, q, n) := k.host
        ((s.updTd d fun x => { x with kicks := dropAt x.kicks s.index }).updTile d k.tile fun x =>
          { x with startQ := x.startQ ++ [k.start] }).hostDone fn q n 0 0#64 0#64)

/-! ### LAUNCH (R379, 23_td_instructions.md R317) -/

/-- LAUNCH (R379): a template is instantiated on a die; with WAIT the command is complete when the first join fires. -/
def execLaunch (fn q : Nat) (s : State) : Out :=
  startCmd fn q 2 (fun c r _ s =>
    let d := fldN (c.arg 2) 0 5
    let n := fldN (c.arg 2) 8 8
    let id := hobj (c.arg 1)
    let tab := (List.range n).map fun i => c.arg (3 + i)
    if (s.reach r (c.arg 1)).isNone then s.finish c Cause.rights.code 0#64 0#64
    else if s.tmplOk id = false ∨ fldN (s.tmplRec id 0) 40 8 ≠ n then s.finish c Cause.reservedField.code 0#64 0#64
    else if tab.any fun h => (s.reach r h).isNone then s.finish c Cause.rights.code 0#64 0#64
    else match s.claimInst d r id tab (some (c.fn, c.q)) with
      | none => s.finish c 0 0#64 0#64
      | some (i, t) =>
        let w := (s.instId i).setWidth 64
        let t1 :=
          if bit (c.arg 2) 63 = true ∧ i.joins ≠ [] then
            t.updCmd c fun c => { c with phase := .started, w1 := w, join := some (s.instId i) }
          else t.finish c 0 w 0#64
        t1.commitInst d i.n) s

/-! ### Objects and names (R379) -/

/-- MAKEOBJ (R379): an object is made on a die from a descriptor in host memory, then bound. -/
def execMakeobj (fn q : Nat) (s : State) : Out :=
  startCmd fn q 3 (fun c r _ s =>
    let d := fldN (c.arg 3) 0 5
    match s.makeObj d r (BitVec.ofNat 512 (leNat (s.hostRead (c.arg 2).toNat 64))) with
    | .error e => s.finish c e.code 0#64 0#64
    | .ok (id, t) =>
      (t.updCmd c fun c => { c with phase := .started }).hostBind d c.fn c.q c.seq.toNat (c.arg 1) id r) s

/-- SNAPSHOT (R379): the source's home is asked; the bind follows there. -/
def execSnapshot (fn q : Nat) (s : State) : Out :=
  startCmd fn q 11 (fun c r p s =>
    let h := c.arg 1
    if (s.reach r h).isNone then s.finish c Cause.rights.code 0#64 0#64
    else (s.updCmd c fun c => { c with phase := .started }).send p (s.objHub (hobj h))
      (.snapReq { place := {}, serial := 0, index := 0, region := r, kind := .snap h, since := s.cycle
                  host := some (c.fn, c.q, c.seq.toNat) })) s

/-- A later pair of a key replaces the earlier one (26_nd_instructions.md R345). -/
def lastPairs : List (Word64 × Word64) → List (Word64 × Word64)
  | [] => []
  | p :: l => if l.any fun q => q.1 == p.1 then lastPairs l else p :: lastPairs l

/-- The pairs that a BINDN names: key 0 is unused. -/
def HostCmd.pairs (c : HostCmd) : List (Word64 × Word64) :=
  ([0, 1, 2].map fun i => (c.arg (2 * i + 1), c.arg (2 * i + 2))).filter fun p => p.1 != 0#64

/-- A transaction of the host begins at the presiding controller's hub and is committed at once (25_name_directory.md R333). -/
def State.hostTxn (s : State) (p : Nat) (c : HostCmd) (region : Nat) : State :=
  match (List.range txnLimit).find? fun i => !(s.nd p).txns.any fun x => x.id == i with
  | none => s
  | some i =>
    let x : Txn := { id := i, owner := { die := p }, region := region, entries := lastPairs c.pairs, host := some (c.fn, c.q, c.seq.toNat) }
    ((s.updCmd c fun c => { c with phase := .started }).updNd p fun n => { n with txns := n.txns ++ [x] }).prepareAll p i

/-- BINDN (R379): one pair as `NBIND`, two or three as a transaction, which waits while the coordinator has no room. -/
def execBindn (fn q : Nat) (s : State) : Out :=
  startCmd fn q 4 (fun c r p s =>
    match c.pairs with
    | [] => s.finish c 0 0#64 0#64
    | [(key, h)] =>
      if h ≠ 0#64 ∧ (s.reach r h).isNone = true then s.finish c Cause.rights.code 0#64 0#64
      else
        let s1 := if h = 0#64 then s else s.hold (hobj h)
        (s1.updCmd c fun c => { c with phase := .started }).send p (s.nameHub key)
          (.bind { key := key, obj := if h = 0#64 then none else some (hobj h), region := r
                   host := some (c.fn, c.q, c.seq.toNat) })
    | ps =>
      if (ps.any fun x => x.2 != 0#64 && (s.reach r x.2).isNone) = true then s.finish c Cause.rights.code 0#64 0#64
      else s.hostTxn p c r) s

/-! ### Copies (R377, R379) -/

/-- The handle that a copy names: none while its name is PREPARED. -/
def State.copyHandle (s : State) (c : HostCmd) : Option (Except Cause Word64) :=
  if c.flags % 2 = 0 then some (.ok (c.arg 1))
  else
    let key := c.arg 5
    match (s.nd (s.nameHub key)).name? key with
    | none => some (.error .nameUnbound)
    | some x =>
      match x.state with
      | .bound => some (.ok (handleOf x.obj (s.objOf x.obj).inc))
      | .prepared => none
      | .unbound => some (.error .nameUnbound)

/-- The window of a copy. -/
def HostCmd.window (c : HostCmd) : Win :=
  { owner := .host c.fn c.q c.seq.toNat, org := ⟨fldN (c.arg 3) 32 32, fldN (c.arg 3) 0 32, 0, 0⟩
    ext := ⟨fldN (c.arg 4) 32 32, fldN (c.arg 4) 0 32, 1, 1⟩, rw := c.kind == 5, sync := false, active := true }

/-- A window lies within an object, on whole blocks of a Q4N one. -/
def Win.within (w : Win) (d : Desc) : Bool :=
  decide (1 ≤ w.ext.c0 ∧ 1 ≤ w.ext.c1 ∧ w.org.c0 + w.ext.c0 ≤ d.ext 0 ∧ w.org.c1 + w.ext.c1 ≤ d.ext 1
    ∧ (d.fmt = 9 → w.org.c0 % 64 = 0 ∧ w.ext.c0 % 64 = 0))

/-- A copy starts: its window is granted by its object's home, or refused, or waits there. -/
def State.beginCopy (s : State) (c : HostCmd) (r : Nat) : State :=
  let no (k : Cause) : State := s.finish c k.code 0#64 0#64
  match s.copyHandle c with
  | none => s
  | some (.error k) => no k
  | some (.ok h) =>
    match s.reach r h with
    | none => no .rights
    | some o =>
      if c.window.within o.desc = false then no .window
      else match o.grant c.window with
        | none => s
        | some none => no .mmRace
        | some (some o1) => (s.setObj (hobj h) o1).updCmd c fun c => { c with phase := .started, obj := some (hobj h) }

/-- Values of w bits as the bytes of an image (12_tae_instructions.md R192). -/
def packVals (w : Nat) : List Nat → List Byte
  | [] => []
  | [a] => if w = 4 then [BitVec.ofNat 8 (a % 16)] else leBytes (w / 8) a
  | a :: b :: l => if w = 4 then BitVec.ofNat 8 (a % 16 + b % 16 * 16) :: packVals w l else leBytes (w / 8) a ++ packVals w (b :: l)

/-- A started copy is performed; it goes on running while a frame that it writes is duplicated, and while memory cannot be reached (11_tensor_access.md
R387). -/
def State.endCopy (s : State) (c : HostCmd) (r p : Nat) : State :=
  match c.obj with
  | none => s
  | some id =>
    let w := c.window
    let h := handleOf id (s.objOf id).inc
    let bits := Desc.bits (s.objOf id).desc
    let els := boxCoords w.org w.ext
    let a := (c.arg 2).toNat
    if s.open p 0 .none id els = false then s
    else
    let done (s : State) (f : Option Cause) : State :=
      (s.dropWindows w.owner).finish c ((f.map Cause.code).getD 0) 0#64 0#64
    if c.kind = 5 then
      let vals := (List.range els.length).map fun k => codeAt (s.hostRead a (ceilDiv (els.length * bits) 8)) bits k
      match s.writeWindow p 0 [w.owner] r h (els.zip vals) with
      | (none, s1) => s1
      | (some f, s1) => done s1 f
    else
      let ((l, f), s1) := s.readWindow p 0 [w.owner] r h els
      done (s1.hostWriteAt a (packVals bits (l.map (·.2)))) f

/-- COPYIN and COPYOUT: index 0 starts the queue's next command of the kind, index k + 1 performs its started copy number k. -/
def copyEvent (fn q kind : Nat) (s : State) : Out :=
  if s.index = 0 then startCmd fn q kind (fun c r _ s => s.beginCopy c r) s
  else .next (match (s.cmds.filter fun c => c.fn == fn && c.q == q && c.kind == kind && c.phase == .started)[s.index - 1]?,
      s.presiding with
    | some c, some p => if s.answersHost kind = true then s.endCopy c (s.queueOf fn q).region p else s
    | _, _ => s)

/-- COPYIN (R377, R379): host memory is written into a window. -/
def execCopyin (fn q : Nat) (s : State) : Out := copyEvent fn q 5 s

/-- COPYOUT (R377, R379): a window is read into host memory. -/
def execCopyout (fn q : Nat) (s : State) : Out := copyEvent fn q 6 s

/-! ### Status and pre-emption (R379) -/

/-- QSTAT (R379): the sequence words and the status word. -/
def execQstat (fn q : Nat) (s : State) : Out :=
  startCmd fn q 8 (fun c _ _ s =>
    let x := s.queueOf fn q
    s.finish c 0 (BitVec.ofNat 64 (x.lastAcc.toNat * 2 ^ 32 + x.lastComp.toNat)) (s.queueWord fn q)) s

/-- PARTSTAT (R379): the live C-dies of the presiding group; the presiding die and the quorum. -/
def execPartstat (fn q : Nat) (s : State) : Out := startCmd fn q 12 (fun c _ _ s => s.finish c 0 s.liveWord s.partWord) s

/-- The scope that a PREEMPT or RESUME names, with its region: none for a region that is not the queue's or a descendant. -/
def State.scopeOf (s : State) (c : HostCmd) (r : Nat) : Option (Scope × Nat) :=
  let k := fldN (c.arg 1) 0 12
  if bit (c.arg 1) 63 = false then some (.queue c.fn c.q, r)
  else if (s.rcb k).isSome = true ∧ s.isAncestor r k = true then some (.region k, k)
  else none

/-- PREEMPT (R305, R379): the ladder starts. -/
def execPreempt (fn q : Nat) (s : State) : Out :=
  startCmd fn q 9 (fun c r _ s => match s.scopeOf c r with
    | none => s.finish c Cause.rights.code 0#64 0#64
    | some (x, k) =>
      let t := s.preempt x k (fn, q)
      t.finish c 0 (t.queueWord fn q) 0#64) s

/-- RESUME (R306, R379). -/
def execResume (fn q : Nat) (s : State) : Out :=
  startCmd fn q 10 (fun c r _ s => match s.scopeOf c r with
    | none => s.finish c Cause.rights.code 0#64 0#64
    | some (x, _) =>
      let t := s.resume x
      t.finish c 0 (t.queueWord fn q) 0#64) s

end Sys2Proof.Machine
end

