-- ==== Sys2Proof/Machine/Integer.lean ====
section
/-! DEFINITION. Integer and address arithmetic (08_be_integer.md): the 28 register forms of IALU and the 10
immediate forms of IALUI. -/

namespace Sys2Proof.Machine

/-- The width that MOD[1:0] selects (R126). -/
def aluWidth (w : BitVec 2) : Nat := if w = 0#2 then 64 else 32

/-- The low W bits of an exact value, extended as MOD[1:0] says (R126, R127). -/
def aluResult (w : BitVec 2) (v : Int) : Word64 :=
  if w = 0#2 then BitVec.ofInt 64 v
  else if w = 1#2 then BitVec.ofInt 64 (sgnN 32 (lowN 32 v))
  else BitVec.ofNat 64 (lowN 32 v)

/-- An IALU operation on two operands: f takes the width and the unsigned readings (R125, R127). -/
def alu2 (w : BitVec 2) (f : Nat → Nat → Nat → Int) : List Reg → State → Act :=
  binary bothI64 fun a b =>
    Reg.ofW (aluResult w (f (aluWidth w) (fldN a.w 0 (aluWidth w)) (fldN b.w 0 (aluWidth w))))

/-- An IALU operation on one operand. -/
def alu1 (w : BitVec 2) (f : Nat → Nat → Int) : List Reg → State → Act :=
  unary isI64 fun a => Reg.ofW (aluResult w (f (aluWidth w) (fldN a.w 0 (aluWidth w))))

/-- An IALUI operation: W = 64, the sign-extended immediate in place of the right operand (R128). -/
def aluI (i : BitVec 11) (f : Nat → Nat → Nat → Int) : List Reg → State → Act :=
  unary isI64 fun a => Reg.ofW (aluResult 0#2 (f 64 a.w.toNat (lowN 64 (sgnN 11 i.toNat))))

/-- The shift or rotate count: the low 6 or 5 bits (R126). -/
def shiftCount (w b : Nat) : Nat := if w = 64 then b % 64 else b % 32

/-- The least and greatest W-bit signed values. -/
def minS (w : Nat) : Int := -(2 ^ (w - 1) : Int)

@[inherit_doc minS]
def maxS (w : Nat) : Int := 2 ^ (w - 1) - 1

/-- The index of the lowest set bit among the low w bits, w where none is set. -/
def ctzGo : Nat → Nat → Nat
  | 0, _ => 0
  | n + 1, x => if x % 2 = 1 then 0 else 1 + ctzGo n (x / 2)

/-- The number of set bits among the low w bits. -/
def popGo : Nat → Nat → Nat
  | 0, _ => 0
  | n + 1, x => x % 2 + popGo n (x / 2)

/-- v of R127 for each operation, from the width and the unsigned readings of the operands. -/
def vAdd (_ a b : Nat) : Int := (a : Int) + b
@[inherit_doc vAdd]
def vAnd (_ a b : Nat) : Int := (a &&& b : Nat)
@[inherit_doc vAdd]
def vOr (_ a b : Nat) : Int := (a ||| b : Nat)
@[inherit_doc vAdd]
def vXor (_ a b : Nat) : Int := (a ^^^ b : Nat)
@[inherit_doc vAdd]
def vShl (w a b : Nat) : Int := (a * 2 ^ shiftCount w b : Nat)
@[inherit_doc vAdd]
def vShr (w a b : Nat) : Int := (a / 2 ^ shiftCount w b : Nat)
@[inherit_doc vAdd]
def vSra (w a b : Nat) : Int := sgnN w a / (2 ^ shiftCount w b : Int)
@[inherit_doc vAdd]
def vMin (w a b : Nat) : Int := if sgnN w a ≤ sgnN w b then sgnN w a else sgnN w b
@[inherit_doc vAdd]
def vMax (w a b : Nat) : Int := if sgnN w b ≤ sgnN w a then sgnN w a else sgnN w b
@[inherit_doc vAdd]
def vMul (_ a b : Nat) : Int := (a * b : Nat)
@[inherit_doc vAdd]
def vDiv (w a b : Nat) : Int :=
  if b = 0 then 2 ^ w - 1
  else if sgnN w a = minS w ∧ sgnN w b = -1 then minS w
  else (sgnN w a).tdiv (sgnN w b)
@[inherit_doc vAdd]
def vRem (w a b : Nat) : Int :=
  if b = 0 then a
  else if sgnN w a = minS w ∧ sgnN w b = -1 then 0
  else sgnN w a - sgnN w b * (sgnN w a).tdiv (sgnN w b)

/-- ADD (R127): A + B. -/
def execAdd (p : BitVec 2) (w : BitVec 2) (t : BitVec 7) (u : BitVec 7) (s : State) : Out :=
  .next (fire (shapeOf (.add p w t u) s.index) (alu2 w vAdd) s)

/-- SUB (R127): A - B. -/
def execSub (p : BitVec 2) (w : BitVec 2) (t : BitVec 7) (u : BitVec 7) (s : State) : Out :=
  .next (fire (shapeOf (.sub p w t u) s.index) (alu2 w (fun _ a b => (a : Int) - b)) s)

/-- AND (R127): A AND B. -/
def execAnd (p : BitVec 2) (w : BitVec 2) (t : BitVec 7) (u : BitVec 7) (s : State) : Out :=
  .next (fire (shapeOf (.and p w t u) s.index) (alu2 w vAnd) s)

/-- OR (R127): A OR B. -/
def execOr (p : BitVec 2) (w : BitVec 2) (t : BitVec 7) (u : BitVec 7) (s : State) : Out :=
  .next (fire (shapeOf (.or p w t u) s.index) (alu2 w vOr) s)

/-- XOR (R127): A XOR B. -/
def execXor (p : BitVec 2) (w : BitVec 2) (t : BitVec 7) (u : BitVec 7) (s : State) : Out :=
  .next (fire (shapeOf (.xor p w t u) s.index) (alu2 w vXor) s)

/-- ANDN (R127): A AND NOT B. -/
def execAndn (p : BitVec 2) (w : BitVec 2) (t : BitVec 7) (u : BitVec 7) (s : State) : Out :=
  .next (fire (shapeOf (.andn p w t u) s.index) (alu2 w (fun w a b => (a &&& (2 ^ w - 1 - b) : Nat))) s)

/-- SHL (R127): A · 2^n. -/
def execShl (p : BitVec 2) (w : BitVec 2) (t : BitVec 7) (u : BitVec 7) (s : State) : Out :=
  .next (fire (shapeOf (.shl p w t u) s.index) (alu2 w vShl) s)

/-- SHR (R127): ⌊A / 2^n⌋. -/
def execShr (p : BitVec 2) (w : BitVec 2) (t : BitVec 7) (u : BitVec 7) (s : State) : Out :=
  .next (fire (shapeOf (.shr p w t u) s.index) (alu2 w vShr) s)

/-- SRA (R127): ⌊sA / 2^n⌋. -/
def execSra (p : BitVec 2) (w : BitVec 2) (t : BitVec 7) (u : BitVec 7) (s : State) : Out :=
  .next (fire (shapeOf (.sra p w t u) s.index) (alu2 w vSra) s)

/-- ROTL (R127): (A · 2^n) OR ⌊A / 2^(W−n)⌋. -/
def execRotl (p : BitVec 2) (w : BitVec 2) (t : BitVec 7) (u : BitVec 7) (s : State) : Out :=
  .next (fire (shapeOf (.rotl p w t u) s.index) (alu2 w (fun w a b => ((a * 2 ^ shiftCount w b ||| a / 2 ^ (w - shiftCount w b)) : Nat))) s)

/-- MIN (R127): the smaller, signed. -/
def execMin (p : BitVec 2) (w : BitVec 2) (t : BitVec 7) (u : BitVec 7) (s : State) : Out :=
  .next (fire (shapeOf (.min p w t u) s.index) (alu2 w vMin) s)

/-- MAX (R127): the larger, signed. -/
def execMax (p : BitVec 2) (w : BitVec 2) (t : BitVec 7) (u : BitVec 7) (s : State) : Out :=
  .next (fire (shapeOf (.max p w t u) s.index) (alu2 w vMax) s)

/-- MINU (R127): the smaller, unsigned. -/
def execMinu (p : BitVec 2) (w : BitVec 2) (t : BitVec 7) (u : BitVec 7) (s : State) : Out :=
  .next (fire (shapeOf (.minu p w t u) s.index) (alu2 w (fun _ a b => if a ≤ b then a else b)) s)

/-- MAXU (R127): the larger, unsigned. -/
def execMaxu (p : BitVec 2) (w : BitVec 2) (t : BitVec 7) (u : BitVec 7) (s : State) : Out :=
  .next (fire (shapeOf (.maxu p w t u) s.index) (alu2 w (fun _ a b => if b ≤ a then a else b)) s)

/-- MUL (R127): A · B. -/
def execMul (p : BitVec 2) (w : BitVec 2) (t : BitVec 7) (u : BitVec 7) (s : State) : Out :=
  .next (fire (shapeOf (.mul p w t u) s.index) (alu2 w vMul) s)

/-- MULH (R127): ⌊sA · sB / 2^W⌋. -/
def execMulh (p : BitVec 2) (w : BitVec 2) (t : BitVec 7) (u : BitVec 7) (s : State) : Out :=
  .next (fire (shapeOf (.mulh p w t u) s.index) (alu2 w (fun w a b => sgnN w a * sgnN w b / (2 ^ w : Int))) s)

/-- MULHU (R127): ⌊A · B / 2^W⌋. -/
def execMulhu (p : BitVec 2) (w : BitVec 2) (t : BitVec 7) (u : BitVec 7) (s : State) : Out :=
  .next (fire (shapeOf (.mulhu p w t u) s.index) (alu2 w (fun w a b => (a * b / 2 ^ w : Nat))) s)

/-- DIV (R127): signed quotient toward zero. -/
def execDiv (p : BitVec 2) (w : BitVec 2) (t : BitVec 7) (u : BitVec 7) (s : State) : Out :=
  .next (fire (shapeOf (.div p w t u) s.index) (alu2 w vDiv) s)

/-- DIVU (R127): unsigned quotient. -/
def execDivu (p : BitVec 2) (w : BitVec 2) (t : BitVec 7) (u : BitVec 7) (s : State) : Out :=
  .next (fire (shapeOf (.divu p w t u) s.index) (alu2 w (fun w a b => if b = 0 then 2 ^ w - 1 else (a / b : Nat))) s)

/-- REM (R127): signed remainder. -/
def execRem (p : BitVec 2) (w : BitVec 2) (t : BitVec 7) (u : BitVec 7) (s : State) : Out :=
  .next (fire (shapeOf (.rem p w t u) s.index) (alu2 w vRem) s)

/-- REMU (R127): unsigned remainder. -/
def execRemu (p : BitVec 2) (w : BitVec 2) (t : BitVec 7) (u : BitVec 7) (s : State) : Out :=
  .next (fire (shapeOf (.remu p w t u) s.index) (alu2 w (fun _ a b => if b = 0 then a else (a % b : Nat))) s)

/-- CLZ (R127): leading zeros. -/
def execClz (p : BitVec 2) (w : BitVec 2) (t : BitVec 7) (u : BitVec 7) (s : State) : Out :=
  .next (fire (shapeOf (.clz p w t u) s.index) (alu1 w (fun w a => if a = 0 then w else (w : Int) - (a.log2 + 1))) s)

/-- CTZ (R127): trailing zeros. -/
def execCtz (p : BitVec 2) (w : BitVec 2) (t : BitVec 7) (u : BitVec 7) (s : State) : Out :=
  .next (fire (shapeOf (.ctz p w t u) s.index) (alu1 w (fun w a => (ctzGo w a : Nat))) s)

/-- POPC (R127): set bits. -/
def execPopc (p : BitVec 2) (w : BitVec 2) (t : BitVec 7) (u : BitVec 7) (s : State) : Out :=
  .next (fire (shapeOf (.popc p w t u) s.index) (alu1 w (fun w a => (popGo w a : Nat))) s)

/-- ADDS (R127): clamp(sA + sB). -/
def execAdds (p : BitVec 2) (w : BitVec 2) (t : BitVec 7) (u : BitVec 7) (s : State) : Out :=
  .next (fire (shapeOf (.adds p w t u) s.index) (alu2 w (fun w a b => max (minS w) (min (sgnN w a + sgnN w b) (maxS w)))) s)

/-- SUBS (R127): clamp(sA − sB). -/
def execSubs (p : BitVec 2) (w : BitVec 2) (t : BitVec 7) (u : BitVec 7) (s : State) : Out :=
  .next (fire (shapeOf (.subs p w t u) s.index) (alu2 w (fun w a b => max (minS w) (min (sgnN w a - sgnN w b) (maxS w)))) s)

/-- The source width of `SEXT` and `ZEXT` (R127). -/
def extWidth (k : BitVec 2) : Nat := if k = 0#2 then 8 else if k = 1#2 then 16 else 32

/-- SEXT (R127): the low byte, half or word read as signed. -/
def execSext (p : BitVec 2) (k : BitVec 2) (t : BitVec 7) (u : BitVec 7) (s : State) : Out :=
  .next (fire (shapeOf (.sext p k t u) s.index) (unary isI64 fun a => Reg.ofW (BitVec.ofInt 64 (sgnN (extWidth k) a.w.toNat))) s)

/-- ZEXT (R127): the low byte, half or word read as unsigned. -/
def execZext (p : BitVec 2) (k : BitVec 2) (t : BitVec 7) (u : BitVec 7) (s : State) : Out :=
  .next (fire (shapeOf (.zext p k t u) s.index) (unary isI64 fun a => Reg.ofW (BitVec.ofNat 64 (fldN a.w 0 (extWidth k)))) s)

/-- ADDI (R128). -/
def execAddi (p : BitVec 2) (i : BitVec 11) (t : BitVec 7) (s : State) : Out :=
  .next (fire (shapeOf (.addi p i t) s.index) (aluI i vAdd) s)

/-- ANDI (R128). -/
def execAndi (p : BitVec 2) (i : BitVec 11) (t : BitVec 7) (s : State) : Out :=
  .next (fire (shapeOf (.andi p i t) s.index) (aluI i vAnd) s)

/-- ORI (R128). -/
def execOri (p : BitVec 2) (i : BitVec 11) (t : BitVec 7) (s : State) : Out :=
  .next (fire (shapeOf (.ori p i t) s.index) (aluI i vOr) s)

/-- XORI (R128). -/
def execXori (p : BitVec 2) (i : BitVec 11) (t : BitVec 7) (s : State) : Out :=
  .next (fire (shapeOf (.xori p i t) s.index) (aluI i vXor) s)

/-- SHLI (R128). -/
def execShli (p : BitVec 2) (i : BitVec 11) (t : BitVec 7) (s : State) : Out :=
  .next (fire (shapeOf (.shli p i t) s.index) (aluI i vShl) s)

/-- SHRI (R128). -/
def execShri (p : BitVec 2) (i : BitVec 11) (t : BitVec 7) (s : State) : Out :=
  .next (fire (shapeOf (.shri p i t) s.index) (aluI i vShr) s)

/-- SRAI (R128). -/
def execSrai (p : BitVec 2) (i : BitVec 11) (t : BitVec 7) (s : State) : Out :=
  .next (fire (shapeOf (.srai p i t) s.index) (aluI i vSra) s)

/-- MINI (R128). -/
def execMini (p : BitVec 2) (i : BitVec 11) (t : BitVec 7) (s : State) : Out :=
  .next (fire (shapeOf (.mini p i t) s.index) (aluI i vMin) s)

/-- MAXI (R128). -/
def execMaxi (p : BitVec 2) (i : BitVec 11) (t : BitVec 7) (s : State) : Out :=
  .next (fire (shapeOf (.maxi p i t) s.index) (aluI i vMax) s)

/-- MULI (R128). -/
def execMuli (p : BitVec 2) (i : BitVec 11) (t : BitVec 7) (s : State) : Out :=
  .next (fire (shapeOf (.muli p i t) s.index) (aluI i vMul) s)

end Sys2Proof.Machine
end

