-- ==== Sys2Proof/Machine/Test.lean ====
section
/-! DEFINITION. Tests, predicates and special registers (07_be_control.md R117-R124). -/

namespace Sys2Proof.Machine

/-- A comparison of two I64 tokens (R117). -/
def test2 (f : Word64 → Word64 → Bool) : List Reg → State → Act :=
  binary bothI64 fun a b => Reg.truth (f a.w b.w)

/-- A comparison of two I64 tokens or of two handles (R117). -/
def testEq (f : Word64 → Word64 → Bool) : List Reg → State → Act :=
  binary (fun a b => (a == .i64 && b == .i64) || (a == .hndl && b == .hndl)) fun a b => Reg.truth (f a.w b.w)

/-- A comparison of an I64 token with a sign-extended immediate (R118). -/
def testI (i : BitVec 11) (f : Word64 → Word64 → Bool) : List Reg → State → Act :=
  unary isI64 fun a => Reg.truth (f a.w (i.signExtend 64))

/-- TEQ (R117). -/
def execTeq (p : BitVec 2) (t : BitVec 7) (u : BitVec 7) (s : State) : Out :=
  .next (fire (shapeOf (.teq p t u) s.index) (testEq fun a b => a == b) s)

/-- TNE (R117). -/
def execTne (p : BitVec 2) (t : BitVec 7) (u : BitVec 7) (s : State) : Out :=
  .next (fire (shapeOf (.tne p t u) s.index) (testEq fun a b => a != b) s)

/-- TLT (R117). -/
def execTlt (p : BitVec 2) (t : BitVec 7) (u : BitVec 7) (s : State) : Out :=
  .next (fire (shapeOf (.tlt p t u) s.index) (test2 fun a b => a.slt b) s)

/-- TLE (R117). -/
def execTle (p : BitVec 2) (t : BitVec 7) (u : BitVec 7) (s : State) : Out :=
  .next (fire (shapeOf (.tle p t u) s.index) (test2 fun a b => a.sle b) s)

/-- TLTU (R117). -/
def execTltu (p : BitVec 2) (t : BitVec 7) (u : BitVec 7) (s : State) : Out :=
  .next (fire (shapeOf (.tltu p t u) s.index) (test2 fun a b => a.ult b) s)

/-- TLEU (R117). -/
def execTleu (p : BitVec 2) (t : BitVec 7) (u : BitVec 7) (s : State) : Out :=
  .next (fire (shapeOf (.tleu p t u) s.index) (test2 fun a b => a.ule b) s)

/-- TEQI (R118). -/
def execTeqi (p : BitVec 2) (i : BitVec 11) (t : BitVec 7) (s : State) : Out :=
  .next (fire (shapeOf (.teqi p i t) s.index) (testI i fun a b => a == b) s)

/-- TNEI (R118). -/
def execTnei (p : BitVec 2) (i : BitVec 11) (t : BitVec 7) (s : State) : Out :=
  .next (fire (shapeOf (.tnei p i t) s.index) (testI i fun a b => a != b) s)

/-- TLTI (R118). -/
def execTlti (p : BitVec 2) (i : BitVec 11) (t : BitVec 7) (s : State) : Out :=
  .next (fire (shapeOf (.tlti p i t) s.index) (testI i fun a b => a.slt b) s)

/-- TLEI (R118). -/
def execTlei (p : BitVec 2) (i : BitVec 11) (t : BitVec 7) (s : State) : Out :=
  .next (fire (shapeOf (.tlei p i t) s.index) (testI i fun a b => a.sle b) s)

/-- TLTUI (R118). -/
def execTltui (p : BitVec 2) (i : BitVec 11) (t : BitVec 7) (s : State) : Out :=
  .next (fire (shapeOf (.tltui p i t) s.index) (testI i fun a b => a.ult b) s)

/-- TLEUI (R118). -/
def execTleui (p : BitVec 2) (i : BitVec 11) (t : BitVec 7) (s : State) : Out :=
  .next (fire (shapeOf (.tleui p i t) s.index) (testI i fun a b => a.ule b) s)

/-- TGTI (R118). -/
def execTgti (p : BitVec 2) (i : BitVec 11) (t : BitVec 7) (s : State) : Out :=
  .next (fire (shapeOf (.tgti p i t) s.index) (testI i fun a b => b.slt a) s)

/-- TGEI (R118). -/
def execTgei (p : BitVec 2) (i : BitVec 11) (t : BitVec 7) (s : State) : Out :=
  .next (fire (shapeOf (.tgei p i t) s.index) (testI i fun a b => b.sle a) s)

/-- PAND (R119). -/
def execPand (p : BitVec 2) (t : BitVec 7) (u : BitVec 7) (s : State) : Out :=
  .next (fire (shapeOf (.pand p t u) s.index) (test2 fun a b => a != 0#64 && b != 0#64) s)

/-- POR (R119). -/
def execPor (p : BitVec 2) (t : BitVec 7) (u : BitVec 7) (s : State) : Out :=
  .next (fire (shapeOf (.por p t u) s.index) (test2 fun a b => a != 0#64 || b != 0#64) s)

/-- PNOT (R119). -/
def execPnot (p : BitVec 2) (t : BitVec 7) (u : BitVec 7) (s : State) : Out :=
  .next (fire (shapeOf (.pnot p t u) s.index) (unary isI64 fun a => Reg.truth (a.w == 0#64)) s)

/-- MFS (R123): the register as of the last commit; `CYCLE` is the cycle of firing. -/
def execMfs (p : BitVec 2) (n : BitVec 9) (t : BitVec 7) (u : BitVec 7) (s : State) : Out :=
  .next (fire (shapeOf (.mfs p n t u) s.index) (fun _ s => .res s (Reg.ofW (s.sreg s.focus n.toNat))) s)

/-- `MTS` when it fires: the operand must be I64; a `RASDEPTH` below the entries held is refused (R97, R124). -/
def mtsBody (n : Nat) : List Reg → State → Act
  | [a], s =>
    if a.tag ≠ .i64 then .flt .tagFault
    else if n = 0x01A ∧ a.w.toNat < (s.ctx s.focus).ras.length then .flt .reservedField
    else .done [] (some (.mts n a.w)) s
  | _, _ => .notYet

/-- MTS (R124): the write is performed at commit, in LSID order. -/
def execMts (p : BitVec 2) (l : BitVec 5) (n : BitVec 9) (s : State) : Out :=
  .next (fire (shapeOf (.mts p l n) s.index) (mtsBody n.toNat) s)

end Sys2Proof.Machine
end

