-- ==== Sys2Proof/Machine/Vector.lean ====
section
/-! DEFINITION. The vector unit (09_be_vector.md): the tags of the operands select the arithmetic. Marks: DEDUCED (log
10); DESIGN CHOICE (log 73). -/

namespace Sys2Proof.Machine

/-! ### The shared frame (R132-R134) -/

/-- The rounding mode of a result that takes no draw, and `SAT`, as of the context's last commit (R133, R134). -/
def State.vmode (s : State) : Nat := noDraw (s.ctx s.focus).round

@[inherit_doc State.vmode]
def State.vsat (s : State) : Bool := (s.ctx s.focus).sat

/-- n draws of the instruction at the index under `ROUND` = 4, none otherwise (R134, 02_numbers.md R28, R29). -/
def State.vdraws (s : State) (n : Nat) : List (Option Nat) :=
  let c := s.ctx s.focus
  match c.run with
  | some r => if c.round = 4 then (drawList n (c.drawState r s.index)).map some else List.replicate n none
  | none => List.replicate n none

/-- The tag T that the frame of R133 gives operands: the one vector tag, or F32S where all are F32S. -/
def frameTag (ops : List Reg) : Option Tag :=
  match (ops.filter fun r => r.tag.isNumV).map Reg.tag with
  | [] => if ops.all fun r => r.tag == .f32s then some .f32s else none
  | t :: ts =>
    if (ts.all fun u => u == t)
        && (ops.all fun r => r.tag == t || (r.tag == .f32s && t.isFloatV) || (r.tag == .i64 && t.isIntV))
    then some t else none

/-- The codes that an operand stands for in the lanes of T: its own, or a scalar's in every lane (R133). -/
def laneCodes (t : Tag) (r : Reg) : List Nat :=
  let (n, w) := t.shape
  if r.tag = t then lanes n w r.bits
  else List.replicate n (if r.tag = .f32s then fldN r.bits 0 32 else fldN r.bits 0 w)

/-- The exact values an operand stands for in float lanes: an F32S is not rounded first (R133). -/
def laneVals (t : Tag) (f : Fmt) (r : Reg) : List FV :=
  (laneCodes t r).map (if r.tag = .f32s then fp32 else f).dec

/-- Columns of rows of equal length. -/
def columns {α : Type} : List (List α) → List (List α)
  | [] => []
  | [l] => l.map fun x => [x]
  | l :: r => List.zipWith (fun x y => x :: y) l (columns r)

/-- A register of tag t from lane codes. -/
def Reg.ofCodes (t : Tag) (l : List Nat) : Reg := { tag := t, bits := ofLanes t.shape.2 l }

/-- An elementwise instruction: ff on exact float values, rounded once; fi on lane codes of integers, modulo 2^w
(R133). `ok` says which tags T the entry accepts. -/
def elementwise (ok : Tag → Bool) (ff : List FV → FV) (fi : Nat → List Nat → Int) : List Reg → State → Act := fun ops s =>
  match frameTag ops with
  | none => .flt .tagFault
  | some t =>
    if ok t = false then .flt .tagFault
    else match t.fmt with
      | some f =>
        .res s (Reg.ofCodes t ((columns (ops.map (laneVals t f))).map fun l => f.round s.vmode s.vsat none (ff l)))
      | none =>
        .res s (Reg.ofCodes t ((columns (ops.map (laneCodes t))).map fun l => lowN t.shape.2 (fi t.shape.2 l)))

/-- Numeric vectors and F32S (R137, R138). -/
def okArith (t : Tag) : Bool := t.isNumV || t == .f32s

/-- f on two values, NaN on any other number of them. -/
def on2 (f : FV → FV → FV) : List FV → FV
  | [a, b] => f a b
  | _ => .nan

/-- f on signed lanes. -/
def int2 (f : Int → Int → Int) : Nat → List Nat → Int
  | w, [a, b] => f (sgnN w a) (sgnN w b)
  | _, _ => 0

/-- f on one value. -/
def on1 (f : FV → FV) : List FV → FV
  | [a] => f a
  | _ => .nan

/-- f on a signed lane. -/
def int1 (f : Int → Int) : Nat → List Nat → Int
  | w, [a] => f (sgnN w a)
  | _, _ => 0

/-- f on three values. -/
def on3 (f : FV → FV → FV → FV) : List FV → FV
  | [a, b, c] => f a b c
  | _ => .nan

/-- f on three signed lanes. -/
def int3 (f : Int → Int → Int → Int) : Nat → List Nat → Int
  | w, [a, b, c] => f (sgnN w a) (sgnN w b) (sgnN w c)
  | _, _ => 0

/-! ### VARITH (R137) -/

/-- VADD (R137): a + b. -/
def execVadd (p : BitVec 2) (t : BitVec 7) (u : BitVec 7) (s : State) : Out :=
  .next (fire (shapeOf (.vadd p t u) s.index) (elementwise okArith (on2 FV.add) (int2 fun a b => a + b)) s)

/-- VSUB (R137): a − b. -/
def execVsub (p : BitVec 2) (t : BitVec 7) (u : BitVec 7) (s : State) : Out :=
  .next (fire (shapeOf (.vsub p t u) s.index) (elementwise okArith (on2 fun a b => a.add b.negate) (int2 fun a b => a - b)) s)

/-- VMUL (R137): a · b. -/
def execVmul (p : BitVec 2) (t : BitVec 7) (u : BitVec 7) (s : State) : Out :=
  .next (fire (shapeOf (.vmul p t u) s.index) (elementwise okArith (on2 FV.mul) (int2 fun a b => a * b)) s)

/-- VMIN (R137): the smaller. -/
def execVmin (p : BitVec 2) (t : BitVec 7) (u : BitVec 7) (s : State) : Out :=
  .next (fire (shapeOf (.vmin p t u) s.index) (elementwise okArith (on2 FV.fmin) (int2 fun a b => min a b)) s)

/-- VMAX (R137): the larger. -/
def execVmax (p : BitVec 2) (t : BitVec 7) (u : BitVec 7) (s : State) : Out :=
  .next (fire (shapeOf (.vmax p t u) s.index) (elementwise okArith (on2 FV.fmax) (int2 fun a b => max a b)) s)

/-- VABS (R137): |a|. -/
def execVabs (p : BitVec 2) (t : BitVec 7) (u : BitVec 7) (s : State) : Out :=
  .next (fire (shapeOf (.vabs p t u) s.index) (elementwise okArith (on1 FV.abs) (int1 fun a => a.natAbs)) s)

/-- VNEG (R137): −a. -/
def execVneg (p : BitVec 2) (t : BitVec 7) (u : BitVec 7) (s : State) : Out :=
  .next (fire (shapeOf (.vneg p t u) s.index) (elementwise okArith (on1 FV.negate) (int1 fun a => -a)) s)

/-- A bitwise instruction on the encodings of lanes; an F32S operand faults (R137). -/
def bitwise (f : Nat → Nat → Nat) : List Reg → State → Act := fun ops s =>
  match frameTag ops with
  | none => .flt .tagFault
  | some t =>
    if t.isNumV = false ∨ ops.any fun r => r.tag == .f32s then .flt .tagFault
    else .res s (Reg.ofCodes t ((columns (ops.map (laneCodes t))).map fun l => f (l.getD 0 0) (l.getD 1 0)))

/-- VAND (R137). -/
def execVand (p : BitVec 2) (t : BitVec 7) (u : BitVec 7) (s : State) : Out :=
  .next (fire (shapeOf (.vand p t u) s.index) (bitwise (fun a b => a &&& b)) s)

/-- VOR (R137). -/
def execVor (p : BitVec 2) (t : BitVec 7) (u : BitVec 7) (s : State) : Out :=
  .next (fire (shapeOf (.vor p t u) s.index) (bitwise (fun a b => a ||| b)) s)

/-- VXOR (R137). -/
def execVxor (p : BitVec 2) (t : BitVec 7) (u : BitVec 7) (s : State) : Out :=
  .next (fire (shapeOf (.vxor p t u) s.index) (bitwise (fun a b => a ^^^ b)) s)

/-- f on the codes of two integer lanes; a shift count is taken modulo the width (R137). -/
def code2 (f : Nat → Nat → Nat → Int) : Nat → List Nat → Int
  | w, [a, b] => f w a b
  | _, _ => 0

/-- VSHL (R137): a · 2^c. -/
def execVshl (p : BitVec 2) (t : BitVec 7) (u : BitVec 7) (s : State) : Out :=
  .next (fire (shapeOf (.vshl p t u) s.index) (elementwise Tag.isIntV (fun _ => .nan) (code2 fun w a b => (a * 2 ^ (b % w) : Nat))) s)

/-- VSHR (R137): ⌊a / 2^c⌋, unsigned. -/
def execVshr (p : BitVec 2) (t : BitVec 7) (u : BitVec 7) (s : State) : Out :=
  .next (fire (shapeOf (.vshr p t u) s.index) (elementwise Tag.isIntV (fun _ => .nan) (code2 fun w a b => (a / 2 ^ (b % w) : Nat))) s)

/-- VSRA (R137): ⌊a / 2^c⌋, signed. -/
def execVsra (p : BitVec 2) (t : BitVec 7) (u : BitVec 7) (s : State) : Out :=
  .next (fire (shapeOf (.vsra p t u) s.index) (elementwise Tag.isIntV (fun _ => .nan) (code2 fun w a b => sgnN w a / (2 ^ (b % w) : Int))) s)

/-- VADDS (R137): clamp(a + b). -/
def execVadds (p : BitVec 2) (t : BitVec 7) (u : BitVec 7) (s : State) : Out :=
  .next (fire (shapeOf (.vadds p t u) s.index) (elementwise Tag.isIntV (fun _ => .nan) (code2 fun w a b => clampS w (sgnN w a + sgnN w b))) s)

/-- VSUBS (R137): clamp(a − b). -/
def execVsubs (p : BitVec 2) (t : BitVec 7) (u : BitVec 7) (s : State) : Out :=
  .next (fire (shapeOf (.vsubs p t u) s.index) (elementwise Tag.isIntV (fun _ => .nan) (code2 fun w a b => clampS w (sgnN w a - sgnN w b))) s)

/-! ### VFMA, VCMP, VSEL (R138-R140) -/

/-- VFMA (R138): a · b + c. -/
def execVfma (t : BitVec 7) (u : BitVec 7) (s : State) : Out :=
  .next (fire (shapeOf (.vfma t u) s.index) (elementwise okArith (on3 fun a b c => FV.sum [a.mul b, c]) (int3 fun a b c => a * b + c)) s)

/-- VFMS (R138): a · b − c. -/
def execVfms (t : BitVec 7) (u : BitVec 7) (s : State) : Out :=
  .next (fire (shapeOf (.vfms t u) s.index) (elementwise okArith (on3 fun a b c => FV.sum [a.mul b, c.negate]) (int3 fun a b c => a * b - c)) s)

/-- VFNMA (R138): c − a · b. -/
def execVfnma (t : BitVec 7) (u : BitVec 7) (s : State) : Out :=
  .next (fire (shapeOf (.vfnma t u) s.index) (elementwise okArith (on3 fun a b c => FV.sum [c, (a.mul b).negate]) (int3 fun a b c => c - a * b)) s)

/-- A compare: a mask of the lanes in which the relation holds, or an I64 for two F32S (R139). -/
def compare (ff : FV → FV → Bool) (fi : Int → Int → Bool) : List Reg → State → Act := fun ops s =>
  match frameTag ops with
  | none => .flt .tagFault
  | some t =>
    let hold : List Bool :=
      match t.fmt with
      | some f => (columns (ops.map (laneVals t f))).map fun l => ff (l.getD 0 .nan) (l.getD 1 .nan)
      | none => (columns (ops.map (laneCodes t))).map fun l =>
          fi (sgnN t.shape.2 (l.getD 0 0)) (sgnN t.shape.2 (l.getD 1 0))
    if t = .f32s then .res s (Reg.truth (hold.getD 0 false))
    else .res s { tag := maskTag t.shape.1, bits := ofLanes 1 (hold.map b2n) }

/-- VCEQ (R139). -/
def execVceq (p : BitVec 2) (t : BitVec 7) (u : BitVec 7) (s : State) : Out :=
  .next (fire (shapeOf (.vceq p t u) s.index) (compare (fun a b => a.eqv b) (fun a b => a == b)) s)

/-- VCNE (R139). -/
def execVcne (p : BitVec 2) (t : BitVec 7) (u : BitVec 7) (s : State) : Out :=
  .next (fire (shapeOf (.vcne p t u) s.index) (compare (fun a b => !a.eqv b) (fun a b => a != b)) s)

/-- VCLT (R139). -/
def execVclt (p : BitVec 2) (t : BitVec 7) (u : BitVec 7) (s : State) : Out :=
  .next (fire (shapeOf (.vclt p t u) s.index) (compare (fun a b => a.lt b) (fun a b => decide (a < b))) s)

/-- VCLE (R139). -/
def execVcle (p : BitVec 2) (t : BitVec 7) (u : BitVec 7) (s : State) : Out :=
  .next (fire (shapeOf (.vcle p t u) s.index) (compare (fun a b => a.lt b || a.eqv b) (fun a b => decide (a ≤ b))) s)

/-- VCGT (R139). -/
def execVcgt (p : BitVec 2) (t : BitVec 7) (u : BitVec 7) (s : State) : Out :=
  .next (fire (shapeOf (.vcgt p t u) s.index) (compare (fun a b => b.lt a) (fun a b => decide (b < a))) s)

/-- VCGE (R139). -/
def execVcge (p : BitVec 2) (t : BitVec 7) (u : BitVec 7) (s : State) : Out :=
  .next (fire (shapeOf (.vcge p t u) s.index) (compare (fun a b => b.lt a || a.eqv b) (fun a b => decide (b ≤ a))) s)

/-- The lanes that an operand places into lanes of T: a vector's own bits, a scalar rounded or cut (R140, R143). -/
def State.placed (s : State) (t : Tag) (r : Reg) : List Nat :=
  match t.fmt with
  | some f => if r.tag = t then laneCodes t r else (laneCodes t r).map fun c => f.round s.vmode s.vsat none (fp32.dec c)
  | none => laneCodes t r

/-- VSEL (R140). -/
def vselBody : List Reg → State → Act
  | [m, a, b], s =>
    match frameTag [a, b] with
    | none => .flt .tagFault
    | some t =>
      if t = .f32s ∨ m.tag ≠ maskTag t.shape.1 then .flt .tagFault
      else
        let ms := lanes t.shape.1 1 m.bits
        .res s (Reg.ofCodes t (List.zipWith (fun k x => if k = 1 then x.1 else x.2) ms
          ((s.placed t a).zip (s.placed t b))))
  | _, _ => .notYet

/-- VSEL (R140): lanes chosen by a mask. -/
def execVsel (t : BitVec 7) (u : BitVec 7) (s : State) : Out :=
  .next (fire (shapeOf (.vsel t u) s.index) (vselBody) s)

/-! ### Transcendentals, reductions (R141, R142) -/

/-- A correctly rounded function of VF32, VBF16 or F32S (R141). -/
def transAct (op : Trans) : List Reg → State → Act
  | [a], s =>
    if a.tag = .vf32 ∨ a.tag = .vbf16 ∨ a.tag = .f32s then
      match a.tag.fmt with
      | some f => .res s (Reg.ofCodes a.tag ((laneCodes a.tag a).map fun c => f.trans s.vmode op (f.dec c)))
      | none => .flt .tagFault
    else .flt .tagFault
  | _, _ => .notYet

/-- VRCP (R141). -/
def execVrcp (p : BitVec 2) (t : BitVec 7) (u : BitVec 7) (s : State) : Out :=
  .next (fire (shapeOf (.vrcp p t u) s.index) (transAct .rcp) s)

/-- VRSQ (R141). -/
def execVrsq (p : BitVec 2) (t : BitVec 7) (u : BitVec 7) (s : State) : Out :=
  .next (fire (shapeOf (.vrsq p t u) s.index) (transAct .rsq) s)

/-- VSQRT (R141). -/
def execVsqrt (p : BitVec 2) (t : BitVec 7) (u : BitVec 7) (s : State) : Out :=
  .next (fire (shapeOf (.vsqrt p t u) s.index) (transAct .sqrt) s)

/-- VEXP2 (R141). -/
def execVexp2 (p : BitVec 2) (t : BitVec 7) (u : BitVec 7) (s : State) : Out :=
  .next (fire (shapeOf (.vexp2 p t u) s.index) (transAct .exp2) s)

/-- VLOG2 (R141). -/
def execVlog2 (p : BitVec 2) (t : BitVec 7) (u : BitVec 7) (s : State) : Out :=
  .next (fire (shapeOf (.vlog2 p t u) s.index) (transAct .log2) s)

/-- VTANH (R141). -/
def execVtanh (p : BitVec 2) (t : BitVec 7) (u : BitVec 7) (s : State) : Out :=
  .next (fire (shapeOf (.vtanh p t u) s.index) (transAct .tanh) s)

/-- A reduction by the pairwise tree, in FP32 or in I64 (R142, 02_numbers.md R36). -/
def reduceAct (ff : FV → FV → FV) (fi : Int → Int → Int) : List Reg → State → Act
  | [a], s =>
    if a.tag.isNumV = false then .flt .tagFault
    else
      let (n, w) := a.tag.shape
      match a.tag.fmt with
      | some f =>
        let r := treeGo ff n.log2 ((lanes n w a.bits).map f.dec)
        .res s { tag := .f32s, bits := BitVec.ofNat 2048 (fp32.rne true (r.getD 0 .nan)) }
      | none =>
        let r := treeGo fi n.log2 ((lanes n w a.bits).map (sgnN w))
        .res s (Reg.ofW (BitVec.ofInt 64 (r.getD 0 0)))
  | _, _ => .notYet

/-- VRSUM (R142): each step rounded RNE to FP32, or modulo 2^64. -/
def execVrsum (p : BitVec 2) (t : BitVec 7) (u : BitVec 7) (s : State) : Out :=
  .next (fire (shapeOf (.vrsum p t u) s.index) (reduceAct (fun a b => fp32.dec (fp32.rne true (a.add b))) (fun a b => a + b)) s)

/-- VRMAX (R142). -/
def execVrmax (p : BitVec 2) (t : BitVec 7) (u : BitVec 7) (s : State) : Out :=
  .next (fire (shapeOf (.vrmax p t u) s.index) (reduceAct FV.fmax (fun a b => max a b)) s)

/-- VRMIN (R142). -/
def execVrmin (p : BitVec 2) (t : BitVec 7) (u : BitVec 7) (s : State) : Out :=
  .next (fire (shapeOf (.vrmin p t u) s.index) (reduceAct FV.fmin (fun a b => min a b)) s)

/-! ### Lane operations (R143-R147) -/

/-- VBCAST (R143). -/
def vbcastBody (g : BitVec 4) : List Reg → State → Act
  | [x], s =>
    let t := Tag.ofNum g.toNat
    if (x.tag = .f32s ∧ t.isFloatV = true) ∨ (x.tag = .i64 ∧ t.isIntV = true) then .res s (Reg.ofCodes t (s.placed t x))
    else .flt .tagFault
  | _, _ => .notYet

/-- VEXT (R144). -/
def vextBody : List Reg → State → Act
  | [v, k], s =>
    if k.tag ≠ .i64 ∨ (v.tag.isNumV = false ∧ v.tag.isMask = false) then .flt .tagFault
    else
      let (n, w) := v.tag.shape
      let c := (lanes n w v.bits).getD (k.w.toNat % n) 0
      match v.tag.fmt with
      | some f => .res s { tag := .f32s, bits := BitVec.ofNat 2048 (fp32.rne true (f.dec c)) }
      | none => .res s (Reg.ofW (if v.tag.isMask then BitVec.ofNat 64 c else BitVec.ofInt 64 (sgnN w c)))
  | _, _ => .notYet

/-- VINS (R144). -/
def vinsBody : List Reg → State → Act
  | [v, x, k], s =>
    let okX := if v.tag.isFloatV then x.tag == .f32s else x.tag == .i64
    if k.tag ≠ .i64 ∨ (v.tag.isNumV = false ∧ v.tag.isMask = false) ∨ okX = false then .flt .tagFault
    else
      let (n, w) := v.tag.shape
      let c := match v.tag.fmt with
        | some f => f.round s.vmode s.vsat none (fp32.dec (fldN x.bits 0 32))
        | none => if v.tag.isMask then b2n (x.w != 0#64) else fldN x.bits 0 w
      .res s (Reg.ofCodes v.tag ((lanes n w v.bits).set (k.w.toNat % n) c))
  | _, _ => .notYet

/-- VPERM (R145). -/
def vpermBody : List Reg → State → Act
  | [v, x], s =>
    if v.tag.isNumV = false ∨ x.tag.isIntV = false ∨ x.tag.shape.1 ≠ v.tag.shape.1 then .flt .tagFault
    else
      let (n, w) := v.tag.shape
      let l := lanes n w v.bits
      .res s (Reg.ofCodes v.tag ((lanes n w x.bits).map fun i => l.getD (i % n) 0))
  | _, _ => .notYet

/-- VROT (R145): lane i of the result is lane i + c. -/
def vrotBody : List Reg → State → Act
  | [v, c], s =>
    if (v.tag.isNumV = false ∧ v.tag.isMask = false) ∨ c.tag ≠ .i64 then .flt .tagFault
    else
      let (n, w) := v.tag.shape
      let l := lanes n w v.bits
      let k := c.w.toNat % n
      .res s (Reg.ofCodes v.tag (l.drop k ++ l.take k))
  | _, _ => .notYet

/-- VPSUM (R147): RNE, overflow under `SAT`. -/
def vpsumBody : List Reg → State → Act
  | [a], s =>
    if a.tag.isNumV = false then .flt .tagFault
    else
      let (n, w) := a.tag.shape
      let l := lanes n w a.bits
      match a.tag.fmt with
      | some f => .res s (Reg.ofCodes a.tag (prefixSum (fun x y => f.rne s.vsat ((f.dec x).add (f.dec y))) l))
      | none => .res s (Reg.ofCodes a.tag (prefixSum (fun x y => (x + y) % 2 ^ w) l))
  | _, _ => .notYet

/-- VBCAST (R143): a scalar in every lane. -/
def execVbcast (p : BitVec 2) (g : BitVec 4) (t : BitVec 7) (u : BitVec 7) (s : State) : Out :=
  .next (fire (shapeOf (.vbcast p g t u) s.index) (vbcastBody g) s)

/-- VEXT (R144): one lane as a scalar. -/
def execVext (p : BitVec 2) (t : BitVec 7) (u : BitVec 7) (s : State) : Out :=
  .next (fire (shapeOf (.vext p t u) s.index) (vextBody) s)

/-- VINS (R144): one lane replaced. -/
def execVins (t : BitVec 7) (u : BitVec 7) (s : State) : Out :=
  .next (fire (shapeOf (.vins t u) s.index) (vinsBody) s)

/-- VPERM (R145): lanes by an index vector. -/
def execVperm (p : BitVec 2) (t : BitVec 7) (u : BitVec 7) (s : State) : Out :=
  .next (fire (shapeOf (.vperm p t u) s.index) (vpermBody) s)

/-- VROT (R145): lanes rotated. -/
def execVrot (p : BitVec 2) (t : BitVec 7) (u : BitVec 7) (s : State) : Out :=
  .next (fire (shapeOf (.vrot p t u) s.index) (vrotBody) s)

/-- VIOTA (R146): lane i holds i modulo 2^w. -/
def execViota (p : BitVec 2) (g : BitVec 4) (t : BitVec 7) (u : BitVec 7) (s : State) : Out :=
  .next (fire (shapeOf (.viota p g t u) s.index) (fun _ s => .res s (Reg.ofCodes (Tag.ofNum g.toNat) (List.range (Tag.ofNum g.toNat).shape.1))) s)

/-- VPSUM (R147): sequential prefix sum. -/
def execVpsum (p : BitVec 2) (t : BitVec 7) (u : BitVec 7) (s : State) : Out :=
  .next (fire (shapeOf (.vpsum p t u) s.index) (vpsumBody) s)

/-! ### Conversions (R148-R151) -/

/-- The group of a tag within which `VCVT` converts: its lane count (R148). -/
def cvtGroup (t : Tag) : Nat :=
  match t with
  | .i64 | .f32s => 1
  | .vi32 | .vf32 => 64
  | .vi16 | .vbf16 => 128
  | .vi8 | .vf8e4 | .vf8e5 => 256
  | _ => 0

/-- A conversion to a format takes draws: to BF16, E4M3 and E5M2 (02_numbers.md R26). -/
def drawsTo (t : Tag) : Bool := t == .vbf16 || t == .vf8e4 || t == .vf8e5

/-- Codes converted element by element under `ROUND`, a draw for each where the destination takes draws (R30). -/
def State.convertAll (s : State) (src dst : Tag) (codes : List Nat) : List Nat :=
  match src.elem, dst.elem with
  | some a, some b =>
    if drawsTo dst then
      List.zipWith (fun c x => convert a b (s.ctx s.focus).round s.vsat x c) codes (s.vdraws codes.length)
    else codes.map fun c => convert a b s.vmode s.vsat none c
  | _, _ => codes

/-- VCVT (R148). -/
def vcvtBody (g : BitVec 4) : List Reg → State → Act
  | [a], s =>
    let t := Tag.ofNum g.toNat
    if cvtGroup a.tag = 0 ∨ cvtGroup a.tag ≠ cvtGroup t then .flt .tagFault
    else if a.tag = t then .res s a
    else .res s (Reg.ofCodes t (s.convertAll a.tag t (lanes a.tag.shape.1 a.tag.shape.2 a.bits)))
  | _, _ => .notYet

/-- The tag that `VUNPK` widens to (R149): none where the source or the factor is not accepted. -/
def unpkTag (src : Tag) (x4 int : Bool) : Option Tag :=
  if src.isNumV = false ∨ src.shape.2 = 32 then none
  else if src.shape.2 = 16 then (if x4 then none else some (if int then .vi32 else .vf32))
  else some (if x4 then (if int then .vi32 else .vf32) else (if int then .vi16 else .vbf16))

/-- VUNPK (R149): no draw. -/
def vunpkBody (f h : BitVec 1) (q : BitVec 2) : List Reg → State → Act
  | [a], s =>
    match unpkTag a.tag (f == 1#1) (h == 1#1) with
    | none => .flt .tagFault
    | some t =>
      let n := t.shape.1
      let l := ((lanes a.tag.shape.1 a.tag.shape.2 a.bits).drop (q.toNat * n)).take n
      match a.tag.elem, t.elem with
      | some x, some y => .res s (Reg.ofCodes t (l.map fun c => convert x y s.vmode s.vsat none c))
      | _, _ => .flt .tagFault
  | _, _ => .notYet

/-- VPACK (R150). -/
def vpackBody (g : BitVec 4) : List Reg → State → Act
  | [a, b], s =>
    let t := Tag.ofNum g.toNat
    if a.tag ≠ b.tag ∨ a.tag.isNumV = false ∨ a.tag.shape.2 ≠ 2 * t.shape.2 then .flt .tagFault
    else
      let (n, w) := a.tag.shape
      .res s (Reg.ofCodes t (s.convertAll a.tag t (lanes n w a.bits ++ lanes n w b.bits)))
  | _, _ => .notYet

/-- VRETAG (R151): the bits that the old tag uses, of which the new tag keeps its own (02_numbers.md R25). An operand of the reserved tag 15 faults as
one that is EMPTY: R151 names it in neither list (log 73). -/
def vretagBody (g : BitVec 4) : List Reg → State → Act
  | [a], s =>
    if a.tag = .empty ∨ a.tag = .hndl ∨ a.tag = .reserved15 then .flt .tagFault
    else .res s { tag := Tag.ofNum g.toNat, bits := (Tag.ofNum g.toNat).keep (a.tag.keep a.bits) }
  | _, _ => .notYet

/-! ### Q4N (R152, R153) -/

/-- VQNT (R152). -/
def vqntBody (b : BitVec 3) : List Reg → State → Act
  | [x, sc, prior], s =>
    if x.tag ≠ .vf32 ∨ sc.tag ≠ .f32s ∨ (prior.tag ≠ .vq4n ∧ prior.tag ≠ .i64) then .flt .tagFault
    else
      let r := q4quant (lanes 64 32 x.bits) (fldN sc.bits 0 32) ((s.vdraws 64).filterMap id)
      let old : Vec := if prior.tag = .vq4n then prior.bits else 0#2048
      .done [.val { tag := .vq4n, bits := setFld old (256 * b.toNat) 256 (packLanes 4 r.1) },
             .val (Reg.ofW (BitVec.ofNat 64 r.2))] none s
  | _, _ => .notYet

/-- The elements of one Q4N block, dequantised and rounded to a format (R153, R34). -/
def State.deqBlock (s : State) (f : Fmt) (q sc codes : Reg) (j : Nat) : List Nat :=
  (lanes 64 4 (BitVec.ofNat 2048 (q.bits.toNat / 2 ^ (256 * j)))).map fun c =>
    f.round s.vmode s.vsat none (q4deq c (fldN codes.w (8 * j) 8) (fldN sc.bits 0 32))

/-- VDQNT (R153). -/
def vdqntBody (f : BitVec 1) (b : BitVec 3) : List Reg → State → Act
  | [q, sc, codes], s =>
    if q.tag ≠ .vq4n ∨ sc.tag ≠ .f32s ∨ codes.tag ≠ .i64 then .flt .tagFault
    else if f = 0#1 then
      .done [.val (Reg.ofCodes .vf32 (s.deqBlock fp32 q sc codes b.toNat)),
             .val (Reg.ofCodes .vf32 (s.deqBlock fp32 q sc codes (b.toNat + 1)))] none s
    else
      .done [.val (Reg.ofCodes .vbf16 (s.deqBlock bf16 q sc codes b.toNat ++ s.deqBlock bf16 q sc codes (b.toNat + 1))),
             .val (Reg.ofCodes .vbf16 (s.deqBlock bf16 q sc codes (b.toNat + 2)
               ++ s.deqBlock bf16 q sc codes (b.toNat + 3)))] none s
  | _, _ => .notYet

/-- VCVT (R148): conversion between tags of equal lane count. -/
def execVcvt (p : BitVec 2) (g : BitVec 4) (t : BitVec 7) (u : BitVec 7) (s : State) : Out :=
  .next (fire (shapeOf (.vcvt p g t u) s.index) (vcvtBody g) s)

/-- VQNT (R152): one block quantised. -/
def execVqnt (b : BitVec 3) (t : BitVec 7) (u : BitVec 7) (s : State) : Out :=
  .next (fire (shapeOf (.vqnt b t u) s.index) (vqntBody b) s)

/-- VDQNT (R153): blocks dequantised. -/
def execVdqnt (f : BitVec 1) (b : BitVec 3) (t : BitVec 7) (u : BitVec 7) (s : State) : Out :=
  .next (fire (shapeOf (.vdqnt f b t u) s.index) (vdqntBody f b) s)

/-- VPACK (R150): two registers narrowed into one. -/
def execVpack (p : BitVec 2) (g : BitVec 4) (t : BitVec 7) (u : BitVec 7) (s : State) : Out :=
  .next (fire (shapeOf (.vpack p g t u) s.index) (vpackBody g) s)

/-- VUNPK (R149): one part widened. -/
def execVunpk (p : BitVec 2) (f : BitVec 1) (h : BitVec 1) (q : BitVec 2) (t : BitVec 7) (u : BitVec 7) (s : State) : Out :=
  .next (fire (shapeOf (.vunpk p f h q t u) s.index) (vunpkBody f h q) s)

/-- VRETAG (R151): a new tag, no conversion. -/
def execVretag (p : BitVec 2) (g : BitVec 4) (t : BitVec 7) (u : BitVec 7) (s : State) : Out :=
  .next (fire (shapeOf (.vretag p g t u) s.index) (vretagBody g) s)

/-! ### Masks (R154) -/

/-- Two masks of one tag. -/
def mask2 (f : Vec → Vec → Vec) : List Reg → State → Act :=
  binary (fun a b => a.isMask && a == b) fun a b => { tag := a.tag, bits := a.tag.keep (f a.bits b.bits) }

/-- The lanes of a mask. -/
def maskLanes (r : Reg) : List Nat := lanes r.tag.shape.1 1 r.bits

/-- MAND (R154). -/
def execMand (p : BitVec 2) (t : BitVec 7) (u : BitVec 7) (s : State) : Out :=
  .next (fire (shapeOf (.mand p t u) s.index) (mask2 fun a b => a &&& b) s)

/-- MOR (R154). -/
def execMor (p : BitVec 2) (t : BitVec 7) (u : BitVec 7) (s : State) : Out :=
  .next (fire (shapeOf (.mor p t u) s.index) (mask2 fun a b => a ||| b) s)

/-- MXOR (R154). -/
def execMxor (p : BitVec 2) (t : BitVec 7) (u : BitVec 7) (s : State) : Out :=
  .next (fire (shapeOf (.mxor p t u) s.index) (mask2 fun a b => a ^^^ b) s)

/-- MNOT (R154). -/
def execMnot (p : BitVec 2) (t : BitVec 7) (u : BitVec 7) (s : State) : Out :=
  .next (fire (shapeOf (.mnot p t u) s.index) (unary Tag.isMask fun a => { tag := a.tag, bits := a.tag.keep (~~~a.bits) }) s)

/-- MPOP (R154): lanes set. -/
def execMpop (p : BitVec 2) (t : BitVec 7) (u : BitVec 7) (s : State) : Out :=
  .next (fire (shapeOf (.mpop p t u) s.index) (unary Tag.isMask fun a => Reg.ofW (BitVec.ofNat 64 (maskLanes a).sum)) s)

/-- MFIRST (R154): the lowest lane set, or the lane count. -/
def execMfirst (p : BitVec 2) (t : BitVec 7) (u : BitVec 7) (s : State) : Out :=
  .next (fire (shapeOf (.mfirst p t u) s.index) (unary Tag.isMask fun a => Reg.ofW (BitVec.ofNat 64 ((maskLanes a).idxOf 1))) s)

end Sys2Proof.Machine
end

