-- ==== Sys2Proof/Machine/Dispatch.lean ====
section
/-! DEFINITION. One arm for each instruction: each calls the meaning of that instruction. -/

namespace Sys2Proof.Machine

def exec (i : Instr) (s : State) : Host.Outcome State Fault Refusal :=
  match i with
  | .bro p e o => Sys2Proof.Machine.execBro p e o s
  | .brb p e o => Sys2Proof.Machine.execBrb p e o s
  | .callo p e o => Sys2Proof.Machine.execCallo p e o s
  | .ret p e => Sys2Proof.Machine.execRet p e s
  | .trap p imm => Sys2Proof.Machine.execTrap p imm s
  | .bri p e => Sys2Proof.Machine.execBri p e s
  | .calli p e => Sys2Proof.Machine.execCalli p e s
  | .texit p c => Sys2Proof.Machine.execTexit p c s
  | .hret p => Sys2Proof.Machine.execHret p s
  | .eret p e => Sys2Proof.Machine.execEret p e s
  | .null p t u => Sys2Proof.Machine.execNull p t u s
  | .mov p t u => Sys2Proof.Machine.execMov p t u s
  | .mov3 p t u v => Sys2Proof.Machine.execMov3 p t u v s
  | .movi p imm t => Sys2Proof.Machine.execMovi p imm t s
  | .genu p imm t => Sys2Proof.Machine.execGenu p imm t s
  | .add p w t u => Sys2Proof.Machine.execAdd p w t u s
  | .sub p w t u => Sys2Proof.Machine.execSub p w t u s
  | .and p w t u => Sys2Proof.Machine.execAnd p w t u s
  | .or p w t u => Sys2Proof.Machine.execOr p w t u s
  | .xor p w t u => Sys2Proof.Machine.execXor p w t u s
  | .andn p w t u => Sys2Proof.Machine.execAndn p w t u s
  | .shl p w t u => Sys2Proof.Machine.execShl p w t u s
  | .shr p w t u => Sys2Proof.Machine.execShr p w t u s
  | .sra p w t u => Sys2Proof.Machine.execSra p w t u s
  | .rotl p w t u => Sys2Proof.Machine.execRotl p w t u s
  | .min p w t u => Sys2Proof.Machine.execMin p w t u s
  | .max p w t u => Sys2Proof.Machine.execMax p w t u s
  | .minu p w t u => Sys2Proof.Machine.execMinu p w t u s
  | .maxu p w t u => Sys2Proof.Machine.execMaxu p w t u s
  | .mul p w t u => Sys2Proof.Machine.execMul p w t u s
  | .mulh p w t u => Sys2Proof.Machine.execMulh p w t u s
  | .mulhu p w t u => Sys2Proof.Machine.execMulhu p w t u s
  | .div p w t u => Sys2Proof.Machine.execDiv p w t u s
  | .divu p w t u => Sys2Proof.Machine.execDivu p w t u s
  | .rem p w t u => Sys2Proof.Machine.execRem p w t u s
  | .remu p w t u => Sys2Proof.Machine.execRemu p w t u s
  | .clz p w t u => Sys2Proof.Machine.execClz p w t u s
  | .ctz p w t u => Sys2Proof.Machine.execCtz p w t u s
  | .popc p w t u => Sys2Proof.Machine.execPopc p w t u s
  | .sext p k t u => Sys2Proof.Machine.execSext p k t u s
  | .zext p k t u => Sys2Proof.Machine.execZext p k t u s
  | .adds p w t u => Sys2Proof.Machine.execAdds p w t u s
  | .subs p w t u => Sys2Proof.Machine.execSubs p w t u s
  | .addi p imm t => Sys2Proof.Machine.execAddi p imm t s
  | .andi p imm t => Sys2Proof.Machine.execAndi p imm t s
  | .ori p imm t => Sys2Proof.Machine.execOri p imm t s
  | .xori p imm t => Sys2Proof.Machine.execXori p imm t s
  | .shli p imm t => Sys2Proof.Machine.execShli p imm t s
  | .shri p imm t => Sys2Proof.Machine.execShri p imm t s
  | .srai p imm t => Sys2Proof.Machine.execSrai p imm t s
  | .mini p imm t => Sys2Proof.Machine.execMini p imm t s
  | .maxi p imm t => Sys2Proof.Machine.execMaxi p imm t s
  | .muli p imm t => Sys2Proof.Machine.execMuli p imm t s
  | .teq p t u => Sys2Proof.Machine.execTeq p t u s
  | .tne p t u => Sys2Proof.Machine.execTne p t u s
  | .tlt p t u => Sys2Proof.Machine.execTlt p t u s
  | .tle p t u => Sys2Proof.Machine.execTle p t u s
  | .tltu p t u => Sys2Proof.Machine.execTltu p t u s
  | .tleu p t u => Sys2Proof.Machine.execTleu p t u s
  | .teqi p imm t => Sys2Proof.Machine.execTeqi p imm t s
  | .tnei p imm t => Sys2Proof.Machine.execTnei p imm t s
  | .tlti p imm t => Sys2Proof.Machine.execTlti p imm t s
  | .tlei p imm t => Sys2Proof.Machine.execTlei p imm t s
  | .tltui p imm t => Sys2Proof.Machine.execTltui p imm t s
  | .tleui p imm t => Sys2Proof.Machine.execTleui p imm t s
  | .tgti p imm t => Sys2Proof.Machine.execTgti p imm t s
  | .tgei p imm t => Sys2Proof.Machine.execTgei p imm t s
  | .pand p t u => Sys2Proof.Machine.execPand p t u s
  | .por p t u => Sys2Proof.Machine.execPor p t u s
  | .pnot p t u => Sys2Proof.Machine.execPnot p t u s
  | .mfs p n t u => Sys2Proof.Machine.execMfs p n t u s
  | .mts p l n => Sys2Proof.Machine.execMts p l n s
  | .nop p => Sys2Proof.Machine.execNop p s
  | .ldl p l s1 z imm t => Sys2Proof.Machine.execLdl p l s1 z imm t s
  | .stl p l z imm => Sys2Proof.Machine.execStl p l z imm s
  | .vldl p l g imm t => Sys2Proof.Machine.execVldl p l g imm t s
  | .vstl p l imm => Sys2Proof.Machine.execVstl p l imm s
  | .vgtl p l g imm t => Sys2Proof.Machine.execVgtl p l g imm t s
  | .vscl l imm => Sys2Proof.Machine.execVscl l imm s
  | .land p l n t => Sys2Proof.Machine.execLand p l n t s
  | .fence p l e o c => Sys2Proof.Machine.execFence p l e o c s
  | .tldx p l g k t => Sys2Proof.Machine.execTldx p l g k t s
  | .tldxOffset p l g h imm t => Sys2Proof.Machine.execTldxOffset p l g h imm t s
  | .tstx p l g k => Sys2Proof.Machine.execTstx p l g k s
  | .tstxOffset l g h imm => Sys2Proof.Machine.execTstxOffset l g h imm s
  | .tlds p l g k t => Sys2Proof.Machine.execTlds p l g k t s
  | .tsts p l g k => Sys2Proof.Machine.execTsts p l g k s
  | .amol p l m o z t => Sys2Proof.Machine.execAmol p l m o z t s
  | .amot p l m o z g t => Sys2Proof.Machine.execAmot p l m o z g t s
  | .casLocal l o z t => Sys2Proof.Machine.execCasLocal l o z t s
  | .casTensor l g o z t => Sys2Proof.Machine.execCasTensor l g o z t s
  | .vamot p l g o => Sys2Proof.Machine.execVamot p l g o s
  | .vadd p t u => Sys2Proof.Machine.execVadd p t u s
  | .vsub p t u => Sys2Proof.Machine.execVsub p t u s
  | .vmul p t u => Sys2Proof.Machine.execVmul p t u s
  | .vmin p t u => Sys2Proof.Machine.execVmin p t u s
  | .vmax p t u => Sys2Proof.Machine.execVmax p t u s
  | .vabs p t u => Sys2Proof.Machine.execVabs p t u s
  | .vneg p t u => Sys2Proof.Machine.execVneg p t u s
  | .vand p t u => Sys2Proof.Machine.execVand p t u s
  | .vor p t u => Sys2Proof.Machine.execVor p t u s
  | .vxor p t u => Sys2Proof.Machine.execVxor p t u s
  | .vshl p t u => Sys2Proof.Machine.execVshl p t u s
  | .vshr p t u => Sys2Proof.Machine.execVshr p t u s
  | .vsra p t u => Sys2Proof.Machine.execVsra p t u s
  | .vadds p t u => Sys2Proof.Machine.execVadds p t u s
  | .vsubs p t u => Sys2Proof.Machine.execVsubs p t u s
  | .vfma t u => Sys2Proof.Machine.execVfma t u s
  | .vfms t u => Sys2Proof.Machine.execVfms t u s
  | .vfnma t u => Sys2Proof.Machine.execVfnma t u s
  | .vceq p t u => Sys2Proof.Machine.execVceq p t u s
  | .vcne p t u => Sys2Proof.Machine.execVcne p t u s
  | .vclt p t u => Sys2Proof.Machine.execVclt p t u s
  | .vcle p t u => Sys2Proof.Machine.execVcle p t u s
  | .vcgt p t u => Sys2Proof.Machine.execVcgt p t u s
  | .vcge p t u => Sys2Proof.Machine.execVcge p t u s
  | .vsel t u => Sys2Proof.Machine.execVsel t u s
  | .vrcp p t u => Sys2Proof.Machine.execVrcp p t u s
  | .vrsq p t u => Sys2Proof.Machine.execVrsq p t u s
  | .vsqrt p t u => Sys2Proof.Machine.execVsqrt p t u s
  | .vexp2 p t u => Sys2Proof.Machine.execVexp2 p t u s
  | .vlog2 p t u => Sys2Proof.Machine.execVlog2 p t u s
  | .vtanh p t u => Sys2Proof.Machine.execVtanh p t u s
  | .vrsum p t u => Sys2Proof.Machine.execVrsum p t u s
  | .vrmax p t u => Sys2Proof.Machine.execVrmax p t u s
  | .vrmin p t u => Sys2Proof.Machine.execVrmin p t u s
  | .vbcast p g t u => Sys2Proof.Machine.execVbcast p g t u s
  | .vext p t u => Sys2Proof.Machine.execVext p t u s
  | .vins t u => Sys2Proof.Machine.execVins t u s
  | .vperm p t u => Sys2Proof.Machine.execVperm p t u s
  | .vrot p t u => Sys2Proof.Machine.execVrot p t u s
  | .viota p g t u => Sys2Proof.Machine.execViota p g t u s
  | .vpsum p t u => Sys2Proof.Machine.execVpsum p t u s
  | .vcvt p g t u => Sys2Proof.Machine.execVcvt p g t u s
  | .vqnt b t u => Sys2Proof.Machine.execVqnt b t u s
  | .vdqnt f b t u => Sys2Proof.Machine.execVdqnt f b t u s
  | .vpack p g t u => Sys2Proof.Machine.execVpack p g t u s
  | .vunpk p f h q t u => Sys2Proof.Machine.execVunpk p f h q t u s
  | .vretag p g t u => Sys2Proof.Machine.execVretag p g t u s
  | .mand p t u => Sys2Proof.Machine.execMand p t u s
  | .mor p t u => Sys2Proof.Machine.execMor p t u s
  | .mxor p t u => Sys2Proof.Machine.execMxor p t u s
  | .mnot p t u => Sys2Proof.Machine.execMnot p t u s
  | .mpop p t u => Sys2Proof.Machine.execMpop p t u s
  | .mfirst p t u => Sys2Proof.Machine.execMfirst p t u s
  | .gset p l g t => Sys2Proof.Machine.execGset p l g t s
  | .sbind p l n => Sys2Proof.Machine.execSbind p l n s
  | .csetg p l c => Sys2Proof.Machine.execCsetg p l c s
  | .cpy p l d c t => Sys2Proof.Machine.execCpy p l d c t s
  | .cpyw p l c t => Sys2Proof.Machine.execCpyw p l c t s
  | .cpym p l c t => Sys2Proof.Machine.execCpym p l c t s
  | .deal p l c t => Sys2Proof.Machine.execDeal p l c t s
  | .cpyt p l n t => Sys2Proof.Machine.execCpyt p l n t s
  | .cpytLand p l g t => Sys2Proof.Machine.execCpytLand p l g t s
  | .twait p l e t => Sys2Proof.Machine.execTwait p l e t s
  | .tread p l w e t => Sys2Proof.Machine.execTread p l w e t s
  | .msetg p l g t => Sys2Proof.Machine.execMsetg p l g t s
  | .mma p l g a t => Sys2Proof.Machine.execMma p l g a t s
  | .mmaz p l g a t => Sys2Proof.Machine.execMmaz p l g a t s
  | .mmaq p l g a t => Sys2Proof.Machine.execMmaq p l g a t s
  | .mldb p l b t => Sys2Proof.Machine.execMldb p l b t s
  | .mplay p l b t => Sys2Proof.Machine.execMplay p l b t s
  | .mst p l g a t => Sys2Proof.Machine.execMst p l g a t s
  | .mlda p l a t => Sys2Proof.Machine.execMlda p l a t s
  | .mzero p l a t => Sys2Proof.Machine.execMzero p l a t s
  | .mrls p l b t => Sys2Proof.Machine.execMrls p l b t s
  | .mseat p l t => Sys2Proof.Machine.execMseat p l t s
  | .send p l u n t => Sys2Proof.Machine.execSend p l u n t s
  | .sendq p l u n t => Sys2Proof.Machine.execSendq p l u n t s
  | .req p l u n t => Sys2Proof.Machine.execReq p l u n t s
  | .reply p l u n t => Sys2Proof.Machine.execReply p l u n t s
  | .xput p l u n t => Sys2Proof.Machine.execXput p l u n t s
  | .xamo p l u o t => Sys2Proof.Machine.execXamo p l u o t s
  | .mbxset p l k t => Sys2Proof.Machine.execMbxset p l k t s
  | .frget p l w t => Sys2Proof.Machine.execFrget p l w t s
  | .frput p l t => Sys2Proof.Machine.execFrput p l t s
  | .xroute p l t => Sys2Proof.Machine.execXroute p l t s
  | .xflush p l t => Sys2Proof.Machine.execXflush p l t s
  | .tdec p l => Sys2Proof.Machine.execTdec p l s
  | .tspawn p l t => Sys2Proof.Machine.execTspawn p l t s
  | .tjoin p l t => Sys2Proof.Machine.execTjoin p l t s
  | .tstat p l s1 t => Sys2Proof.Machine.execTstat p l s1 t s
  | .tkill p l k => Sys2Proof.Machine.execTkill p l k s
  | .ginst p l t => Sys2Proof.Machine.execGinst p l t s
  | .nopen p l w n t => Sys2Proof.Machine.execNopen p l w n t s
  | .nclose p l => Sys2Proof.Machine.execNclose p l s
  | .nbind p l => Sys2Proof.Machine.execNbind p l s
  | .ntxb p l t => Sys2Proof.Machine.execNtxb p l t s
  | .ntxa l => Sys2Proof.Machine.execNtxa l s
  | .ntxc p l t => Sys2Proof.Machine.execNtxc p l t s
  | .ntxx p l => Sys2Proof.Machine.execNtxx p l s
  | .nsnap p l t => Sys2Proof.Machine.execNsnap p l t s
  | .nmake p l t => Sys2Proof.Machine.execNmake p l t s
  | .nqry p l s1 t => Sys2Proof.Machine.execNqry p l s1 t s
  | .svc p l t => Sys2Proof.Machine.execSvc p l t s
  | .bkpt p l c => Sys2Proof.Machine.execBkpt p l c s
  | .ctxsv p l => Sys2Proof.Machine.execCtxsv p l s
  | .ctxrs p l => Sys2Proof.Machine.execCtxrs p l s
  | .tlbi p l s1 => Sys2Proof.Machine.execTlbi p l s1 s
  | .bootGoWrite len => Sys2Proof.Machine.execBootGoWrite len s
  | .spdmRequest what => Sys2Proof.Machine.execSpdmRequest what s
  | .pcieOutOfWindowRequest fn word => Sys2Proof.Machine.execPcieOutOfWindowRequest fn word s
  | .doorbell fn q tail => Sys2Proof.Machine.execDoorbell fn q tail s
  | .cdoneWrite fn q v => Sys2Proof.Machine.execCdoneWrite fn q v s
  | .queueEnable fn q en => Sys2Proof.Machine.execQueueEnable fn q en s
  | .registerWrite reg v => Sys2Proof.Machine.execRegisterWrite reg v s
  | .queueAccept fn q => Sys2Proof.Machine.execQueueAccept fn q s
  | .completionPost fn q => Sys2Proof.Machine.execCompletionPost fn q s
  | .hostNop fn q => Sys2Proof.Machine.execHostNop fn q s
  | .kick fn q => Sys2Proof.Machine.execKick fn q s
  | .launch fn q => Sys2Proof.Machine.execLaunch fn q s
  | .makeobj fn q => Sys2Proof.Machine.execMakeobj fn q s
  | .bindn fn q => Sys2Proof.Machine.execBindn fn q s
  | .copyin fn q => Sys2Proof.Machine.execCopyin fn q s
  | .copyout fn q => Sys2Proof.Machine.execCopyout fn q s
  | .hostFence fn q => Sys2Proof.Machine.execHostFence fn q s
  | .qstat fn q => Sys2Proof.Machine.execQstat fn q s
  | .preempt fn q => Sys2Proof.Machine.execPreempt fn q s
  | .resume fn q => Sys2Proof.Machine.execResume fn q s
  | .snapshot fn q => Sys2Proof.Machine.execSnapshot fn q s
  | .partstat fn q => Sys2Proof.Machine.execPartstat fn q s
  | .lbTagStateWrite byte => Sys2Proof.Machine.execLbTagStateWrite byte s
  | .mailboxMapWrite words => Sys2Proof.Machine.execMailboxMapWrite words s
  | .allowanceReturnTimer sender => Sys2Proof.Machine.execAllowanceReturnTimer sender s
  | .ualinkInboundWrite requester station addr data => Sys2Proof.Machine.execUalinkInboundWrite requester station addr data s
  | .ualinkUnsupportedRequest read addr => Sys2Proof.Machine.execUalinkUnsupportedRequest read addr s
  | .voteLimitExpiry home => Sys2Proof.Machine.execVoteLimitExpiry home s
  | .txnIndoubt key => Sys2Proof.Machine.execTxnIndoubt key s
  | .txnSettle key => Sys2Proof.Machine.execTxnSettle key s
  | .keySlotLoad slot dataKey tweakKey => Sys2Proof.Machine.execKeySlotLoad slot dataKey tweakKey s
  | .routerTableWrite table => Sys2Proof.Machine.execRouterTableWrite table s
  | .regionBlockWrite region image => Sys2Proof.Machine.execRegionBlockWrite region image s
  | .throttleStepUp reading => Sys2Proof.Machine.execThrottleStepUp reading s
  | .overtempReset dieC inletC => Sys2Proof.Machine.execOvertempReset dieC inletC s
  | .haltedContextWrite image => Sys2Proof.Machine.execHaltedContextWrite image s
  | .powerUp => Sys2Proof.Machine.execPowerUp s
  | .deviceReset => Sys2Proof.Machine.execDeviceReset s
  | .dieReset => Sys2Proof.Machine.execDieReset s
  | .kickDelivery => Sys2Proof.Machine.execKickDelivery s
  | .presidingElection => Sys2Proof.Machine.execPresidingElection s
  | .blockFetch => Sys2Proof.Machine.execBlockFetch s
  | .blockDecode => Sys2Proof.Machine.execBlockDecode s
  | .blockCommit => Sys2Proof.Machine.execBlockCommit s
  | .blockStallTimeout => Sys2Proof.Machine.execBlockStallTimeout s
  | .waitTimeoutExpiry => Sys2Proof.Machine.execWaitTimeoutExpiry s
  | .contextDrained => Sys2Proof.Machine.execContextDrained s
  | .handlerStart => Sys2Proof.Machine.execHandlerStart s
  | .trapStart => Sys2Proof.Machine.execTrapStart s
  | .landingFill => Sys2Proof.Machine.execLandingFill s
  | .faultRecordWrite => Sys2Proof.Machine.execFaultRecordWrite s
  | .windowRequest => Sys2Proof.Machine.execWindowRequest s
  | .windowWithdraw => Sys2Proof.Machine.execWindowWithdraw s
  | .tensorRequest => Sys2Proof.Machine.execTensorRequest s
  | .tensorReply => Sys2Proof.Machine.execTensorReply s
  | .tableWalk => Sys2Proof.Machine.execTableWalk s
  | .linkFlitRetry => Sys2Proof.Machine.execLinkFlitRetry s
  | .cowComplete => Sys2Proof.Machine.execCowComplete s
  | .copyStart => Sys2Proof.Machine.execCopyStart s
  | .copyComplete => Sys2Proof.Machine.execCopyComplete s
  | .dealerRun => Sys2Proof.Machine.execDealerRun s
  | .streamReadahead => Sys2Proof.Machine.execStreamReadahead s
  | .meEntryStart => Sys2Proof.Machine.execMeEntryStart s
  | .meCommandApply => Sys2Proof.Machine.execMeCommandApply s
  | .playRequest => Sys2Proof.Machine.execPlayRequest s
  | .playGrant => Sys2Proof.Machine.execPlayGrant s
  | .latchArrival => Sys2Proof.Machine.execLatchArrival s
  | .cardSend => Sys2Proof.Machine.execCardSend s
  | .frameCardArrival => Sys2Proof.Machine.execFrameCardArrival s
  | .queueCardArrival => Sys2Proof.Machine.execQueueCardArrival s
  | .landingCardArrival => Sys2Proof.Machine.execLandingCardArrival s
  | .replyCardArrival => Sys2Proof.Machine.execReplyCardArrival s
  | .atomicCardArrival => Sys2Proof.Machine.execAtomicCardArrival s
  | .cardAck => Sys2Proof.Machine.execCardAck s
  | .queueMailboxFire => Sys2Proof.Machine.execQueueMailboxFire s
  | .mailboxConfigApply => Sys2Proof.Machine.execMailboxConfigApply s
  | .allowanceReturnArrival => Sys2Proof.Machine.execAllowanceReturnArrival s
  | .refreshTimer => Sys2Proof.Machine.execRefreshTimer s
  | .refreshRequestArrival => Sys2Proof.Machine.execRefreshRequestArrival s
  | .messageSend => Sys2Proof.Machine.execMessageSend s
  | .fragmentArrival => Sys2Proof.Machine.execFragmentArrival s
  | .meldDelivery => Sys2Proof.Machine.execMeldDelivery s
  | .messageCompleted => Sys2Proof.Machine.execMessageCompleted s
  | .ackTimer => Sys2Proof.Machine.execAckTimer s
  | .ackArrival => Sys2Proof.Machine.execAckArrival s
  | .busyArrival => Sys2Proof.Machine.execBusyArrival s
  | .busyResendTimer => Sys2Proof.Machine.execBusyResendTimer s
  | .meldTimeout => Sys2Proof.Machine.execMeldTimeout s
  | .repairArrival => Sys2Proof.Machine.execRepairArrival s
  | .sourceTimerExpiry => Sys2Proof.Machine.execSourceTimerExpiry s
  | .giveupArrival => Sys2Proof.Machine.execGiveupArrival s
  | .linkLossOfLock => Sys2Proof.Machine.execLinkLossOfLock s
  | .linkDownDeclare => Sys2Proof.Machine.execLinkDownDeclare s
  | .chordNewsArrival => Sys2Proof.Machine.execChordNewsArrival s
  | .linkUp => Sys2Proof.Machine.execLinkUp s
  | .exchangeConfigApply => Sys2Proof.Machine.execExchangeConfigApply s
  | .exchangeFlushArrival => Sys2Proof.Machine.execExchangeFlushArrival s
  | .exchangeReturnArrival => Sys2Proof.Machine.execExchangeReturnArrival s
  | .overflowRecordArrival => Sys2Proof.Machine.execOverflowRecordArrival s
  | .xflushCounterWrite => Sys2Proof.Machine.execXflushCounterWrite s
  | .heartbeatTimer => Sys2Proof.Machine.execHeartbeatTimer s
  | .heartbeatArrival => Sys2Proof.Machine.execHeartbeatArrival s
  | .rejoin => Sys2Proof.Machine.execRejoin s
  | .decrementApply => Sys2Proof.Machine.execDecrementApply s
  | .killApply => Sys2Proof.Machine.execKillApply s
  | .placementPass => Sys2Proof.Machine.execPlacementPass s
  | .tResExpiry => Sys2Proof.Machine.execTResExpiry s
  | .stagingMergeClose => Sys2Proof.Machine.execStagingMergeClose s
  | .stagingComplete => Sys2Proof.Machine.execStagingComplete s
  | .taskStart => Sys2Proof.Machine.execTaskStart s
  | .pipelineStart => Sys2Proof.Machine.execPipelineStart s
  | .barrierArrival => Sys2Proof.Machine.execBarrierArrival s
  | .taskCompletion => Sys2Proof.Machine.execTaskCompletion s
  | .ladderT1Expiry => Sys2Proof.Machine.execLadderT1Expiry s
  | .ladderT2Expiry => Sys2Proof.Machine.execLadderT2Expiry s
  | .taskSaveComplete => Sys2Proof.Machine.execTaskSaveComplete s
  | .hangProgressReport => Sys2Proof.Machine.execHangProgressReport s
  | .debugHalt => Sys2Proof.Machine.execDebugHalt s
  | .debugHaltRelease => Sys2Proof.Machine.execDebugHaltRelease s
  | .openRequest => Sys2Proof.Machine.execOpenRequest s
  | .openRepresentTimer => Sys2Proof.Machine.execOpenRepresentTimer s
  | .bindApply => Sys2Proof.Machine.execBindApply s
  | .confirmationArrival => Sys2Proof.Machine.execConfirmationArrival s
  | .provisionalWithdraw => Sys2Proof.Machine.execProvisionalWithdraw s
  | .hubReplyArrival => Sys2Proof.Machine.execHubReplyArrival s
  | .prepareRequest => Sys2Proof.Machine.execPrepareRequest s
  | .prepareReplyArrival => Sys2Proof.Machine.execPrepareReplyArrival s
  | .decisionArrival => Sys2Proof.Machine.execDecisionArrival s
  | .decisionAckArrival => Sys2Proof.Machine.execDecisionAckArrival s
  | .ntxcAckTimer => Sys2Proof.Machine.execNtxcAckTimer s
  | .reclaim => Sys2Proof.Machine.execReclaim s
  | .snapshotRequest => Sys2Proof.Machine.execSnapshotRequest s
  | .machineCheck => Sys2Proof.Machine.execMachineCheck s
  | .masterUnfreeze => Sys2Proof.Machine.execMasterUnfreeze s
  | .masterReset => Sys2Proof.Machine.execMasterReset s
  | .lifeLogEpoch => Sys2Proof.Machine.execLifeLogEpoch s
  | .throttleStepDown => Sys2Proof.Machine.execThrottleStepDown s

end Sys2Proof.Machine
end

