-- ==== Sys2Proof/Machine/Moves.lean ====
section
/-! DEFINITION. What may move next: the moves that the machine makes by itself in a state, and the block that stands for a
fetched instruction. Log 1. Marks: DESIGN CHOICE (log 1, 8). -/

namespace Sys2Proof.Machine

/-- The instruction at index k of the block in flight of the context at p. -/
def State.instrAt (s : State) (p : Place) (k : Nat) : Option Instr :=
  match (s.ctx p).run with
  | some r => if r.live && decide (k < r.size) then r.instr k else none
  | none => none

/-- The instruction at index k of the block has its tokens, has not fired and does not wait. -/
def Run.ready (r : Run) (k : Nat) : Bool :=
  !r.fired.contains k && !r.off.contains k
    && !(r.waits.any fun w => w.index == k) && r.judge (r.shape k) k != .notYet

/-- An event at a place upon each of n pending items. -/
def each (e : Instr) (p : Place) (n : Nat) : List Move := (List.range n).map fun k => .event e p k

/-- An event at a place upon the pending items of given numbers. -/
def upon (e : Instr) (p : Place) (l : List Nat) : List Move := l.map fun k => .event e p k

/-- The same where a condition holds. -/
def onlyIf (b : Bool) (e : Instr) (p : Place) : List Move := if b then [.event e p 0] else []

/-- What a context does by itself: it fetches, decodes, fires what is ready, tries its waits again, commits; its limits run out, its
fault records are written (06_block_engine.md R84, R88-R95). -/
def Ctx.moves (c : Ctx) (p : Place) : List Move :=
  onlyIf (!c.pend.isEmpty) .faultRecordWrite p
  ++ onlyIf (c.phase == .draining && p.ctx == 0) .contextDrained p
  ++ onlyIf c.atBarrier.isSome .waitTimeoutExpiry p
  ++ onlyIf (c.run.any Run.cut) .blockCommit p
  ++ if c.phase ≠ .running then []
     else match c.run with
      | none => [.event .blockFetch p 0]
      | some r =>
        if r.live = false then [.event .blockDecode p 0]
        else
          let waits := r.waits.map Wait.index
          ((List.range r.size).filter r.ready).map (fun k => Move.fire p k)
            ++ (waits.map fun k => Move.fire p k) ++ upon .waitTimeoutExpiry p waits
            ++ onlyIf (decide (r.reads.length < r.nrd)) .blockDecode p
            ++ [.event .blockCommit p 0, .event .blockStallTimeout p 0]

/-- What a tile's contexts and engines do by themselves. -/
def Tile.moves (t : Tile) (d n : Nat) : List Move :=
  let p : Place := { die := d, tile := n }
  (t.ctxs.flatMap fun c => c.2.moves { p with ctx := c.1 })
  ++ onlyIf (!t.trapQ.isEmpty) .trapStart p ++ onlyIf (!t.startQ.isEmpty) .handlerStart p
  ++ each .landingFill p t.fills.length
  ++ each .tableWalk p t.reqs.length ++ each .tensorRequest p t.reqs.length ++ each .tensorReply p t.reqs.length
  ++ onlyIf (!t.copyQ.isEmpty) .copyStart p ++ each .copyComplete p t.copyQ.length
  ++ onlyIf (!t.me.store.isEmpty) .meEntryStart p ++ onlyIf t.me.running.isSome .meCommandApply p
  ++ each .playRequest p t.me.store.length ++ each .playGrant p t.me.asks.length ++ each .latchArrival p t.me.plays.length
  ++ each .cardSend p t.mse.length ++ each .mailboxConfigApply p t.mse.length
  ++ upon .queueMailboxFire p (t.mbx.map (·.1))
  ++ (t.mbx.flatMap fun m => m.2.grownAt.map fun g => Move.event (.allowanceReturnTimer g.1) p m.1)
  ++ upon .refreshTimer p (t.alw.map (·.1)) ++ each .openRepresentTimer p t.represent.length

/-- What a hub's dispatcher does by itself (22_task_dispatcher.md R292-R307). -/
def Td.moves (t : Td) (p : Place) : List Move :=
  let slots := t.slots.map (·.1)
  each .decrementApply p t.decs.length ++ each .killApply p t.kills.length ++ each .barrierArrival p t.arrivals.length
  ++ each .kickDelivery p t.kicks.length
  ++ upon .stagingComplete p slots ++ upon .taskStart p slots ++ upon .taskCompletion p slots ++ upon .taskSaveComplete p slots
  ++ upon .tResExpiry p slots ++ each .stagingMergeClose p t.merges.length ++ upon .pipelineStart p (t.insts.map Inst.n)
  ++ onlyIf (!slots.isEmpty) .placementPass p

/-- What a slice of the name directory does by itself (25_name_directory.md R328-R336). -/
def Nd.moves (n : Nd) (p : Place) : List Move :=
  each .openRequest p n.opens.length ++ each .windowRequest p n.windows.length ++ each .snapshotRequest p n.snaps.length
  ++ each .hubReplyArrival p n.replies.length ++ each .bindApply p n.binds.length
  ++ each .confirmationArrival p n.confirms.length
  ++ each .windowWithdraw p n.withdraws.length ++ each .provisionalWithdraw p n.withdraws.length
  ++ each .prepareRequest p n.prepares.length ++ each .prepareReplyArrival p n.voteIn.length
  ++ each .decisionArrival p n.decisions.length ++ each .decisionAckArrival p n.ackIn.length
  ++ (n.txns.flatMap fun t => Move.event .ntxcAckTimer p t.id :: t.votes.map fun h => Move.event (.voteLimitExpiry h) p t.id)
  ++ ((n.names.filter fun x => x.state == .prepared).map fun x => Move.event (.txnIndoubt x.key) p 0)
  ++ (n.inquiries.map fun q => Move.event (.txnSettle q.key) p 0)
  ++ upon .reclaim p ((n.objs.filter fun o => o.2.live && o.2.refs == 0).map (·.1))

/-- What a fabric interface does by itself (17_erasure_coding.md R258-R265). -/
def Fab.moves (f : Fab) (p : Place) : List Move :=
  each .messageSend p f.outbox.length ++ each .meldDelivery p f.melds.length ++ each .messageCompleted p f.finishing.length
  ++ each .meldTimeout p f.melds.length ++ each .ackTimer p f.filters.length
  ++ each .busyResendTimer p f.retained.length ++ each .sourceTimerExpiry p f.retained.length

/-- What an exchange unit does by itself (16_message_engine.md R249, R389). -/
def Xu.moves (x : Xu) (p : Place) : List Move :=
  each .exchangeConfigApply p x.configs.length ++ each .exchangeFlushArrival p x.flushIn.length
  ++ each .exchangeReturnArrival p x.returns.length ++ each .overflowRecordArrival p x.overflow.length
  ++ each .xflushCounterWrite p x.xflush.length

/-- What a die's mesh and hub do by themselves, the heartbeat round when it is due (16_message_engine.md R251). -/
def Die.moves (x : Die) (s : State) (d : Nat) : List Move :=
  let p : Place := { die := d }
  each .frameCardArrival p x.mesh.length ++ each .queueCardArrival p x.mesh.length ++ each .landingCardArrival p x.mesh.length
  ++ each .replyCardArrival p x.mesh.length ++ each .atomicCardArrival p x.mesh.length
  ++ each .cardAck p x.acks.length ++ each .allowanceReturnArrival p x.allowIn.length
  ++ each .refreshRequestArrival p x.refreshIn.length
  ++ each .dealerRun p x.deals.length ++ each .machineCheck p x.checks.length
  ++ x.td.moves p ++ x.nd.moves p ++ x.fab.moves p ++ x.xu.moves p
  ++ each .heartbeatArrival p x.beatIn.length ++ upon .chordNewsArrival p x.news
  ++ onlyIf (s.boot.step == .ready && decide (x.beat + 12500 ≤ s.cycle)) .heartbeatTimer p
  ++ onlyIf x.stopped .rejoin p

/-- What the command queues do by themselves (29_host_firmware.md R376-R379). -/
def State.queueMoves (s : State) (fn q : Nat) (x : Queue) : List Move :=
  let started := (s.cmds.filter fun c => c.fn == fn && c.q == q && c.phase == .started).length
  onlyIf (x.state == .running && x.en) (.queueAccept fn q) {}
  ++ if (s.cmds.any fun c => c.fn == fn && c.q == q) = false then []
     else ([.hostNop fn q, .kick fn q, .launch fn q, .makeobj fn q, .bindn fn q, .copyin fn q, .copyout fn q, .hostFence fn q,
        .qstat fn q, .preempt fn q, .resume fn q, .snapshot fn q, .partstat fn q, .completionPost fn q].map
          fun e => Move.event e {} 0)
      ++ ((List.range started).flatMap fun k => [.event (.copyin fn q) {} (k + 1), .event (.copyout fn q) {} (k + 1)])

/-- The moves that the machine makes by itself in a state, those of every agent: an event whose time has not come changes nothing.
What comes from outside, and what chance or firmware decides, moves by the agenda alone. -/
def State.moves (s : State) : List Move :=
  (s.tiles.flatMap fun t => t.2.moves (t.1 / 144) (t.1 % 144))
  ++ (s.dies.flatMap fun x => x.2.moves s x.1)
  ++ each .fragmentArrival {} s.frags.length
  ++ ([Instr.ackArrival, .busyArrival, .repairArrival, .giveupArrival].flatMap fun e => each e {} s.linkMsgs.length)
  ++ each .cowComplete {} s.cow.length
  ++ (s.queues.flatMap fun x => s.queueMoves x.1.1 x.1.2 x.2)
  ++ each .ladderT1Expiry {} s.ladders.length ++ each .ladderT2Expiry {} s.ladders.length

/-- The machine's own next move: its moves take their turns with the cycles; with none of them time passes. -/
def State.ownMove (s : State) : Move :=
  let l := s.moves
  l.getD (s.cycle % l.length) (.wait 1)

/-- Tokens for every slot that an instruction at index 0 takes: I64 0 as data, a predicate that lets it fire. -/
def fetchTokens (h : Shape) : List (Nat × Token) :=
  ((List.range h.slots).map fun n => (32 * n, Token.val (Reg.ofW 0#64)))
    ++ (if h.pr = 2#2 then [(64, truth true)] else if h.pr = 3#2 then [(64, truth false)] else [])

/-- A block of eight words with the given first word, of n counted instructions, that writes registers 0 to 7; its other words are
`NOP` (04_encoding.md R55, R57, R67). -/
def blockOf (w : Word32) (n : Nat) : List Word32 :=
  [0xA0200000#32, BitVec.ofNat 32 (n * 2 ^ 26), 0#32, 0#32, 0#32, 0#32, 0x80818283#32, 0x84858687#32, w]
    ++ List.replicate 7 0x2E003FFF#32

/-- A block with a word as instruction 0, decoded in this cycle, its tokens present. -/
def State.runOf (s : State) (word : Word32) : Run :=
  let h := match decodeWord word with
    | .ok i => shapeOf i 0
    | .error _ => {}
  { words := blockOf word (b2n h.counted), live := true, decodedAt := s.cycle, issueAt := (s.ctx s.focus).issue, tokens := fetchTokens h }

end Sys2Proof.Machine
end

