-- ==== Sys2Proof/Machine/Step.lean ====
section
/-! DEFINITION. One step of the module: the next move of the agenda takes place, or, with an empty agenda, the next of the moves
that the machine makes by itself. Log 1. Marks: DESIGN CHOICE (log 1, 8). -/

namespace Sys2Proof.Machine

/-- The state after a move at place p and index k has led to t: one cycle has passed. -/
def afterMove (p : Place) (k : Nat) (t : State) : State :=
  { t with cycle := t.cycle + 1, focus := p, index := k }

/-- An instruction or event takes place at p and k. -/
def runAt (i : Instr) (p : Place) (k : Nat) (s : State) : Host.Outcome State Fault Refusal :=
  match exec i { s with focus := p, index := k } with
  | .next t => .next (afterMove p k t)
  | .fault r => .fault r
  | .refused r => .refused r

/-- One move. A firing without an instruction there changes nothing. -/
def runMove (m : Move) (s : State) : Host.Outcome State Fault Refusal :=
  match m with
  | .wait n => .next { s with cycle := s.cycle + n }
  | .event e p k =>
    if p.ok = false then .fault (.noSuchPlace p)
    else if e.wf && (encode e).isNone then runAt e p k s
    else .refused (.illFormed e)
  | .fire p k =>
    if p.ok = false then .fault (.noSuchPlace p)
    else match s.instrAt p k with
      | some i => runAt i p k s
      | none => .next (afterMove p k s)

/-- ONE STEP. -/
def step (s : State) : Host.Outcome State Fault Refusal :=
  match s.agenda with
  | m :: rest => runMove m { s with agenda := rest }
  | [] => runMove s.ownMove s

/-- s with a word as instruction 0 of a decoded block of the context in focus, which fires next. -/
def State.withFetchWord (s : State) (nbits w : Nat) : State :=
  let r := s.runOf (BitVec.ofNat 32 (w % 2 ^ nbits))
  let t := s.updCtx s.focus fun c => { c with phase := .running, frozen := false, run := some r }
  { t with agenda := [.fire s.focus 0] }

end Sys2Proof.Machine
end

