-- ==== Sys2Proof/Safety.lean ====
section
/-! DEFINITION. What counts as a safe run, and the terms in which claims are stated. -/

namespace Sys2Proof.Safety

open Sys2Proof.Machine

/-! ### Runs -/

/-- The machine goes on from s. -/
def GoesOn (s : State) : Prop := ∃ t, step s = .next t

/-- t follows s after some steps. -/
inductive Reach : State → State → Prop where
  | refl (s : State) : Reach s s
  | step {s t u : State} (h : Reach s t) (h2 : Sys2Proof.Machine.step t = .next u) : Reach s u

/-- A predicate that every step keeps, from every state. -/
def Kept (P : State → Prop) : Prop := ∀ s t, P s → step s = .next t → P t

/-- The focus names a context that the panel has (01_machine.md R7, R11, 06_block_engine.md R82). -/
def Placed (s : State) : Prop := s.focus.ok = true

/-- Memory in its canonical form. -/
def MemOk (s : State) : Prop := Memory.wf s.mem = true

/-! ### Instruction words -/

/-- The instruction i, at the index in focus, of the block r of the context in focus has not fired, has its tokens,
and its predicate lets it fire (06_block_engine.md R89, R90); vals are its operands, left, right, slot 2. -/
structure Ready (s : State) (i : Instr) (vals : List Reg) (r : Run) : Prop where
  run : (s.ctx s.focus).run = some r
  running : (s.ctx s.focus).phase = .running
  unfrozen : (s.ctx s.focus).frozen = false
  dispatching : (s.die s.focus.die).stopped = false
  live : r.live = true
  uncommitted : r.committing = false
  unfired : r.fired.contains s.index = false
  notOff : r.off.contains s.index = false
  data : (List.range (shapeOf i s.index).slots).map (fun n => r.tok (32 * n + s.index)) = vals.map fun v => some (.val v)
  yes : (shapeOf i s.index).pr = 2#2 → ∃ g, r.tok (64 + s.index) = some (.val g) ∧ g.tag = .i64 ∧ g.w ≠ 0#64
  no : (shapeOf i s.index).pr = 3#2 → ∃ g, r.tok (64 + s.index) = some (.val g) ∧ g.tag = .i64 ∧ g.w = 0#64

/-- No target but 0x7F is named twice, holds a token or is reserved (R92). -/
def FreeTargets (r : Run) (ts : List (BitVec 7)) : Prop :=
  (ts.filter fun t => t != 0x7F#7).Nodup ∧
    ∀ t ∈ ts, t ≠ 0x7F#7 → r.tok t.toNat = none ∧ r.reserved.contains t.toNat = false

/-- One token to each target, none to 0x7F (R59, R62). -/
def sent (ts : List (BitVec 7)) (k : Token) : List (Nat × Token) :=
  (ts.filter fun t => t != 0x7F#7).map fun t => (t.toNat, k)

/-- The block after an instruction at an index has fired: its results have left, a counted one is received (R93). -/
def fired (r : Run) (index : Nat) (out : List (Nat × Token)) (rec_ : List Counted) : Run :=
  { r with fired := r.fired ++ [index], waits := r.waits.filter fun w => w.index != index
           tokens := r.tokens ++ out, counted := r.counted ++ rec_ }

/-- The instruction sends v to its targets, and nothing else changes. -/
def Delivers (i : Instr) (s : State) (ts : List (BitVec 7)) (v : Reg) : Prop :=
  exec i s = .next (s.updRun s.focus fun r => fired r s.index (sent ts (.val v)) [])

/-- The instruction is received with LSID l, to do op at its block's commit; nothing else changes. -/
def Receives (i : Instr) (s : State) (l : BitVec 5) (op : CommitOp) : Prop :=
  exec i s = .next (s.updRun s.focus fun r => fired r s.index [] [⟨l.toNat, s.index, op⟩])

/-- The instruction sends v, and is received. -/
def Answers (i : Instr) (s : State) (l : BitVec 5) (ts : List (BitVec 7)) (v : Reg) (op : CommitOp) : Prop :=
  exec i s = .next (s.updRun s.focus fun r => fired r s.index (sent ts (.val v)) [⟨l.toNat, s.index, op⟩])

/-- The block of the context in focus faults, with the index of the instruction and its detail words (28_traps_preemption.md
R352, R353). -/
def Faults (i : Instr) (s : State) (c : Cause) (d0 d1 : Word64) : Prop :=
  exec i s = .next (s.faultAt s.focus (some s.index) c d0 d1)

/-- An engine command is received: its number, the issue count plus one plus the commands of lower LSID that the block has for
the engine, goes to the target (01_machine.md R17). -/
def Commands (i : Instr) (s : State) (r : Run) (e : Engine) (l : BitVec 5) (t : BitVec 7) (c : Cmd) : Prop :=
  Answers i s l [t] (Reg.ofW (BitVec.ofNat 64 ((s.ctx s.focus).issue.get e + 1 +
    ((List.range r.size).filter fun k => (r.shape k).eng == some e && decide ((r.shape k).lsid.getD 32 < l.toNat)).length)))
    (.cmd (some e) c)

/-- A value instruction with two targets: on accepted operands it sends f of them, on others its block faults
(06_block_engine.md R85). -/
def Computes (i : BitVec 7 → BitVec 7 → Instr) (ok : List Reg → Bool) (f : List Reg → Reg) : Prop :=
  ∀ t u s r vals, Ready s (i t u) vals r →
    (ok vals = true → FreeTargets r [t, u] → Delivers (i t u) s [t, u] (f vals)) ∧
    (ok vals = false → Faults (i t u) s .tagFault 0#64 0#64)

/-- The same with one target. -/
def Computes1 (i : BitVec 7 → Instr) (ok : List Reg → Bool) (f : List Reg → Reg) : Prop :=
  ∀ t s r vals, Ready s (i t) vals r →
    (ok vals = true → FreeTargets r [t] → Delivers (i t) s [t] (f vals)) ∧
    (ok vals = false → Faults (i t) s .tagFault 0#64 0#64)

/-! ### Scalars -/

/-- All operands are I64. -/
def i64s (vals : List Reg) : Bool := vals.all fun v => v.tag == .i64

/-- Operand n of a list. -/
def arg (vals : List Reg) (n : Nat) : Word64 := (vals.getD n {}).w

/-- An IALU operation at the width of MOD[1:0]: v takes W, A, B, sA, sB and n of R127. -/
def ialu (w : BitVec 2) (v : Nat → Nat → Nat → Int → Int → Nat → Int) (vals : List Reg) : Reg :=
  let x := arg vals 0
  let y := arg vals 1
  Reg.ofW (if w = 0#2 then BitVec.ofInt 64 (v 64 x.toNat y.toNat x.toInt y.toInt (y.toNat % 64))
    else
      let a := x.setWidth 32
      let b := y.setWidth 32
      let z := BitVec.ofInt 32 (v 32 a.toNat b.toNat a.toInt b.toInt (b.toNat % 32))
      if w = 1#2 then z.signExtend 64 else z.setWidth 64)

/-- The same at W = 64 with the sign-extended immediate as B (R128). -/
def ialuImm (i : BitVec 11) (v : Nat → Nat → Nat → Int → Int → Nat → Int) (vals : List Reg) : Reg :=
  ialu 0#2 v [vals.getD 0 {}, Reg.ofW (i.signExtend 64)]

/-- clamp(x, −2^(W−1), 2^(W−1) − 1). -/
def clamped (w : Nat) (x : Int) : Int :=
  if x < -(2 ^ (w - 1) : Int) then -(2 ^ (w - 1)) else if (2 ^ (w - 1) : Int) - 1 < x then 2 ^ (w - 1) - 1 else x

/-- 1 or 0 as an I64 (07_be_control.md R117). -/
def bool (p : Prop) [Decidable p] : Reg := Reg.ofW (if p then 1#64 else 0#64)

/-! ### Lanes (02_numbers.md R25) -/

/-- The code of lane k of a register, by its tag. -/
def lane (r : Reg) (k : Nat) : Nat := fldN r.bits (r.tag.shape.2 * k) r.tag.shape.2

/-- T is the tag that the operands give an elementwise instruction (09_be_vector.md R133). -/
def Framed (T : Tag) (ops : List Reg) : Prop :=
  (T.isNumV = true ∨ T = .f32s) ∧ (∃ r ∈ ops, r.tag = T) ∧
    ∀ r ∈ ops, r.tag = T ∨ (r.tag = .f32s ∧ T.isFloatV = true) ∨ (r.tag = .i64 ∧ T.isIntV = true)

/-- The exact value that an operand gives lane k of a float T: an F32S stands in every lane, unrounded. -/
def floatAt (f : Fmt) (T : Tag) (k : Nat) (r : Reg) : FV :=
  if r.tag = T then f.dec (lane r k) else fp32.dec (fldN r.bits 0 32)

/-- The code that an operand gives lane k of an integer T: the low bits of an I64 stand in every lane. -/
def laneCode (T : Tag) (k : Nat) (r : Reg) : Nat :=
  if r.tag = T then lane r k else fldN r.bits 0 T.shape.2

/-- v has tag T and the given lane codes, cut to the lane width; bits beyond the lanes are zero. -/
def HasLanes (v : Reg) (T : Tag) (code : Nat → Nat) : Prop :=
  v.tag = T ∧ T.keep v.bits = v.bits ∧ ∀ k < T.shape.1, lane v k = code k % 2 ^ T.shape.2

/-- An elementwise instruction: each lane is ff of the exact values, rounded once, or fi of the codes modulo 2^w (R133). -/
def Elementwise (i : BitVec 7 → BitVec 7 → Instr) (ok : Tag → Bool) (ff : List FV → FV) (fi : Nat → List Nat → Int) : Prop :=
  ∀ t u s r vals T, Ready s (i t u) vals r → FreeTargets r [t, u] → Framed T vals → ok T = true →
    ∃ v, Delivers (i t u) s [t, u] v ∧ HasLanes v T fun k =>
      match T.fmt with
      | some f => f.round s.vmode s.vsat none (ff (vals.map (floatAt f T k)))
      | none => (fi T.shape.2 (vals.map (laneCode T k)) % (2 ^ T.shape.2 : Int)).toNat

/-- A compare: a mask with one bit for each lane, an I64 for two F32S (R139). -/
def Compares (i : BitVec 7 → BitVec 7 → Instr) (ff : FV → FV → Bool) (fi : Int → Int → Bool) : Prop :=
  ∀ t u s r a b T, Ready s (i t u) [a, b] r → FreeTargets r [t, u] → Framed T [a, b] →
    ∃ v, Delivers (i t u) s [t, u] v ∧
      let holds (k : Nat) : Bool := match T.fmt with
        | some f => ff (floatAt f T k a) (floatAt f T k b)
        | none => fi (sgnN T.shape.2 (laneCode T k a)) (sgnN T.shape.2 (laneCode T k b))
      if T = .f32s then v = Reg.truth (holds 0)
      else HasLanes v (maskTag T.shape.1) fun k => b2n (holds k)

/-! ### Local memory (10_be_local_memory.md R155, R156) -/

/-- n bytes at local address ea lie in the local store, aligned, none of them uncorrectable. -/
def LocalOk (s : State) (ea : Int) (n align : Nat) : Prop :=
  0 ≤ ea ∧ ea + n ≤ 0x200000 ∧ ea % align = 0 ∧
    ∀ j < n, s.badAt (lsKey s.focus.die s.focus.tile (ea.toNat + j)) 1 = false

/-- No instruction of the block with an LSID below l holds back loads, and no store is received (R156). -/
def Unheld (r : Run) (l : BitVec 5) : Prop :=
  r.counted = [] ∧ ∀ k < r.size, (r.shape k).lsid.getD 32 < l.toNat → (r.shape k).gate = .none

/-- The number that the n bytes of the local store from a on hold, lowest first (00_scope.md R2). -/
def localNat (s : State) (a n : Nat) : Nat :=
  ((List.range n).map fun j => (Memory.read s.mem (lsKey s.focus.die s.focus.tile (a + j))).toNat * 256 ^ j).sum

/-- The checks of R155 on an access of n bytes at ea: bounds first, then alignment, the address as detail. -/
def LocalFaults (i : Instr) (s : State) (ea : Int) (n align : Nat) : Prop :=
  (ea < 0 ∨ 0x200000 < ea + n → Faults i s .lsBounds (BitVec.ofInt 64 ea) 0#64) ∧
  (0 ≤ ea → ea + n ≤ 0x200000 → ea % align ≠ 0 → Faults i s .align (BitVec.ofInt 64 ea) 0#64)

/-! ### Asking a hub (26_nd_instructions.md R339) -/

/-- A request by the instruction in focus, of the block r. -/
def request (s : State) (r : Run) (k : ReqKind) : Req :=
  { place := s.focus, serial := r.serial, index := s.index, region := (s.ctx s.focus).region, kind := k, since := s.cycle }

/-- The instruction has asked the hub of its own die, which has answered: `change` is what the answering leaves, the reply is on its
way, and the instruction waits for it; it is received with op when the reply comes. -/
def Asks (i : Instr) (s : State) (r : Run) (op : CommitOp) (res : Result) (prov : Option Prov) (change : State → State) : Prop :=
  (∀ x ∈ r.asked, x.1 ≠ s.index) → (∀ w ∈ r.waits, w.index ≠ s.index) →
    exec i s = .next (((change (s.updRun s.focus fun r => { r with asked := r.asked ++ [(s.index, op)] })).send s.focus.die s.focus.die
      (.reply { place := s.focus, serial := r.serial, index := s.index, result := res, prov := prov })).updRun s.focus fun r =>
        { r with waits := (r.waits.filter fun w => w.index != s.index) ++ [{ index := s.index, kind := .tokens, since := s.cycle }] })

/-- The instruction has sent a request to a hub and waits for the reply; it is received with op when the reply comes. -/
def Requests (i : Instr) (s : State) (r : Run) (d : Nat) (b : Body) (op : CommitOp) (kind : WaitKind) (detail : Word64) : Prop :=
  (∀ x ∈ r.asked, x.1 ≠ s.index) → (∀ w ∈ r.waits, w.index ≠ s.index) →
    exec i s = .next (((s.send s.focus.die d b).updRun s.focus fun r => { r with asked := r.asked ++ [(s.index, op)] }).updRun
      s.focus fun r => { r with waits := (r.waits.filter fun w => w.index != s.index) ++
        [{ index := s.index, kind := kind, detail := detail, since := s.cycle }] })

/-- The instruction asks the hub of die d, its own or another by a message; asked in this state, the hub answers with the result and
the provisional event and leaves what `change` says. -/
def AsksAt (i : Instr) (s : State) (r : Run) (d : Nat) (k : ReqKind) (op : CommitOp) (res : Result) (prov : Option Prov)
    (change : State → State) : Prop :=
  s.answerAsk d (request s r k) = (res, prov, change s) ∧
  (d = s.focus.die → Asks i s r op res prov change) ∧
  (d ≠ s.focus.die → Requests i s r d (.ask (request s r k)) op .tokens 0#64)

/-! ### Arrivals -/

/-- Card m is the item of that index of the mesh of the die in focus, may be taken now, and is taken in that way (16_message_engine.md R226). -/
def Arrives (s : State) (k : Taken) (m : MeshCard) : Prop :=
  (s.die s.focus.die).mesh[s.index]? = some m ∧ (s.die s.focus.die).stopped = false ∧ (s.die s.focus.die).turn s.index m = true ∧
    (s.tile s.focus.die m.tile).held = false ∧ (s.tile s.focus.die m.tile).savedFlag = false ∧
    (s.tile s.focus.die m.tile).takes m.card = k

/-! ### Commit (06_block_engine.md R93, R94) -/

/-- The block r of the context in focus has met the conditions of R93, with the exit e. -/
structure Committable (s : State) (r : Run) (e : FiredExit) : Prop where
  run : (s.ctx s.focus).run = some r
  running : (s.ctx s.focus).phase = .running
  unfrozen : (s.ctx s.focus).frozen = false
  dispatching : (s.die s.focus.die).stopped = false
  live : r.live = true
  uncommitted : r.committing = false
  kept : r.cut = false
  exit : r.exits = [e]
  written : ∀ j < r.nwr, (r.tok (0x60 + j)).isSome = true ∨ r.reserved.contains (0x60 + j) = true
  received : r.counted.length = r.ncnt

/-- The block asks for nothing that hubs or streams hold: no provisional events, no pops, no bound port. -/
def Plain (s : State) (r : Run) : Prop := r.provs = [] ∧ r.pops = [] ∧ (s.ctx s.focus).ports = []

/-- The key ranges of memory that a local operation of the context in focus stores to (R94, 10_be_local_memory.md R158-R161): start and length. -/
def localStores (s : State) : CommitOp → List (Nat × Nat)
  | .storeLocal a bs => [(lsKey s.focus.die s.focus.tile a, bs.length)]
  | .scatterLocal l => l.map fun x => (lsKey s.focus.die s.focus.tile x.1, x.2.length)
  | .amoLocal a n _ _ _ => [(lsKey s.focus.die s.focus.tile a, n)]
  | .casLocal a n _ _ _ => [(lsKey s.focus.die s.focus.tile a, n)]
  | _ => []

/-- An operation of the local store or of the context alone, which never waits. -/
def isLocal : CommitOp → Bool
  | .idle none | .storeLocal _ _ | .scatterLocal _ | .amoLocal _ _ _ _ _ | .casLocal _ _ _ _ _ | .land _ | .mts _ _ => true
  | _ => false

/-- The bytes that follow one another from a key on in memory. -/
def Holds (m : List Host.Cell) (k : Nat) (bs : List Byte) : Prop := ∀ j < bs.length, Memory.read m (k + j) = bs.getD j 0#8

/-- Memory outside a list of ranges reads as before. -/
def SameOutside (m m' : List Host.Cell) (rs : List (Nat × Nat)) : Prop :=
  ∀ k, (∀ r ∈ rs, k < r.1 ∨ r.1 + r.2 ≤ k) → Memory.read m' k = Memory.read m k

/-- What software sees of a context beside its run: registers, special registers, return addresses, timelines. -/
def SameRegisters (c c' : Ctx) : Prop :=
  c'.regs = c.regs ∧ c'.ports = c.ports ∧ c'.ras = c.ras ∧ c'.spilled = c.spilled ∧ c'.rasptr = c.rasptr ∧ c'.raslim = c.raslim ∧
  c'.round = c.round ∧ c'.sat = c.sat ∧ c'.srseed = c.srseed ∧ c'.tmoBlock = c.tmoBlock ∧ c'.tmoWait = c.tmoWait ∧
  c'.lastExit = c.lastExit ∧ c'.hops = c.hops ∧ c'.fctx = c.fctx ∧ c'.fresume = c.fresume ∧ c'.code = c.code ∧ c'.block = c.block ∧
  c'.region = c.region ∧ c'.super = c.super ∧ c'.issue = c.issue ∧ c'.done = c.done

end Sys2Proof.Safety
end

