-- ==== Sys2Proof/Certificates/Slice0/Obligations.lean ====
section
/-! DEFINITION. The statements for the provers. Each formalises rules of the spec, named in its docstring; where it rests on the
model's own choice, the docstring names the log entry. -/

open Sys2Proof Sys2Proof.Machine Sys2Proof.Safety

/-! ### Integer arithmetic, tests, constants -/

/-- R125, R126 and the effect of R127, for the 28 register forms: the result at the width of MOD[1:0], and `TAG_FAULT` for any
operand that is not I64. R125 and the effects of R128, for the 10 immediate forms: R127 at W = 64 with the sign-extended immediate as B. -/
def Obligations.IntegerInstructions : Prop :=
  (∀ p w : BitVec 2, w ≠ 3#2 →
     Computes (.add p w) i64s (ialu w fun _ A B _ _ _ => A + B) ∧
     Computes (.sub p w) i64s (ialu w fun _ A B _ _ _ => A - B) ∧
     Computes (.and p w) i64s (ialu w fun _ A B _ _ _ => (A &&& B : Nat)) ∧
     Computes (.or p w) i64s (ialu w fun _ A B _ _ _ => (A ||| B : Nat)) ∧
     Computes (.xor p w) i64s (ialu w fun _ A B _ _ _ => (A ^^^ B : Nat)) ∧
     Computes (.andn p w) i64s (ialu w fun W A B _ _ _ => (A &&& (B ^^^ (2 ^ W - 1)) : Nat)) ∧
     Computes (.shl p w) i64s (ialu w fun _ A _ _ _ n => A * 2 ^ n) ∧
     Computes (.shr p w) i64s (ialu w fun _ A _ _ _ n => (A / 2 ^ n : Nat)) ∧
     Computes (.sra p w) i64s (ialu w fun _ _ _ sA _ n => sA / 2 ^ n) ∧
     Computes (.rotl p w) i64s (ialu w fun W A _ _ _ n => (A * 2 ^ n ||| A / 2 ^ (W - n) : Nat)) ∧
     Computes (.min p w) i64s (ialu w fun _ _ _ sA sB _ => if sA ≤ sB then sA else sB) ∧
     Computes (.max p w) i64s (ialu w fun _ _ _ sA sB _ => if sB ≤ sA then sA else sB) ∧
     Computes (.minu p w) i64s (ialu w fun _ A B _ _ _ => if A ≤ B then A else B) ∧
     Computes (.maxu p w) i64s (ialu w fun _ A B _ _ _ => if B ≤ A then A else B) ∧
     Computes (.mul p w) i64s (ialu w fun _ A B _ _ _ => A * B) ∧
     Computes (.mulh p w) i64s (ialu w fun W _ _ sA sB _ => sA * sB / 2 ^ W) ∧
     Computes (.mulhu p w) i64s (ialu w fun W A B _ _ _ => (A * B / 2 ^ W : Nat)) ∧
     Computes (.div p w) i64s (ialu w fun W _ B sA sB _ =>
       if B = 0 then 2 ^ W - 1 else if sA = -(2 ^ (W - 1)) ∧ sB = -1 then -(2 ^ (W - 1)) else sA.tdiv sB) ∧
     Computes (.divu p w) i64s (ialu w fun W A B _ _ _ => if B = 0 then 2 ^ W - 1 else (A / B : Nat)) ∧
     Computes (.rem p w) i64s (ialu w fun W A B sA sB _ =>
       if B = 0 then A else if sA = -(2 ^ (W - 1)) ∧ sB = -1 then 0 else sA - sB * sA.tdiv sB) ∧
     Computes (.remu p w) i64s (ialu w fun _ A B _ _ _ => if B = 0 then A else A - B * (A / B : Nat)) ∧
     Computes (.clz p w) i64s (ialu w fun W A _ _ _ _ => if A = 0 then W else (W : Int) - (Nat.log2 A + 1)) ∧
     Computes (.ctz p w) i64s (ialu w fun W A _ _ _ _ => ((List.range W).find? fun k => A.testBit k).getD W) ∧
     Computes (.popc p w) i64s (ialu w fun W A _ _ _ _ => ((List.range W).filter fun k => A.testBit k).length) ∧
     Computes (.adds p w) i64s (ialu w fun W _ _ sA sB _ => clamped W (sA + sB)) ∧
     Computes (.subs p w) i64s (ialu w fun W _ _ sA sB _ => clamped W (sA - sB)) ∧
     Computes (.sext p 0#2) i64s (fun v => Reg.ofW (((arg v 0).setWidth 8).signExtend 64)) ∧
     Computes (.sext p 1#2) i64s (fun v => Reg.ofW (((arg v 0).setWidth 16).signExtend 64)) ∧
     Computes (.sext p 2#2) i64s (fun v => Reg.ofW (((arg v 0).setWidth 32).signExtend 64)) ∧
     Computes (.zext p 0#2) i64s (fun v => Reg.ofW (((arg v 0).setWidth 8).setWidth 64)) ∧
     Computes (.zext p 1#2) i64s (fun v => Reg.ofW (((arg v 0).setWidth 16).setWidth 64)) ∧
     Computes (.zext p 2#2) i64s (fun v => Reg.ofW (((arg v 0).setWidth 32).setWidth 64))) ∧
  (∀ (p : BitVec 2) (i : BitVec 11),
     Computes1 (.addi p i) i64s (ialuImm i fun _ A B _ _ _ => A + B) ∧
     Computes1 (.andi p i) i64s (fun v => Reg.ofW (arg v 0 &&& i.signExtend 64)) ∧
     Computes1 (.ori p i) i64s (fun v => Reg.ofW (arg v 0 ||| i.signExtend 64)) ∧
     Computes1 (.xori p i) i64s (fun v => Reg.ofW (arg v 0 ^^^ i.signExtend 64)) ∧
     Computes1 (.shli p i) i64s (ialuImm i fun _ A _ _ _ n => A * 2 ^ n) ∧
     Computes1 (.shri p i) i64s (ialuImm i fun _ A _ _ _ n => (A / 2 ^ n : Nat)) ∧
     Computes1 (.srai p i) i64s (ialuImm i fun _ _ _ sA _ n => sA / 2 ^ n) ∧
     Computes1 (.mini p i) i64s (ialuImm i fun _ _ _ sA sB _ => if sA ≤ sB then sA else sB) ∧
     Computes1 (.maxi p i) i64s (ialuImm i fun _ _ _ sA sB _ => if sB ≤ sA then sA else sB) ∧
     Computes1 (.muli p i) i64s (ialuImm i fun _ A B _ _ _ => A * B))

/-- R117, R118 and R119: the comparisons send I64 1 where they hold and 0 where they do not; `TEQ` and `TNE` take two I64 or two
HNDL, every other form I64 only, and any other tags fault. R113 to R116: `NOP` does nothing, `NULL` sends nulls, `MOV` and `MOV3` send their left token unchanged with any tag from 1
to 14, `MOVI` and `GENU` send their constant. -/
def Obligations.TestsConstantsAndCopies : Prop :=
  (∀ p : BitVec 2,
     let same (v : List Reg) : Bool := i64s v || v.all fun x => x.tag == .hndl
     Computes (.teq p) same (fun v => bool (arg v 0 = arg v 1)) ∧
     Computes (.tne p) same (fun v => bool (arg v 0 ≠ arg v 1)) ∧
     Computes (.tlt p) i64s (fun v => bool ((arg v 0).toInt < (arg v 1).toInt)) ∧
     Computes (.tle p) i64s (fun v => bool ((arg v 0).toInt ≤ (arg v 1).toInt)) ∧
     Computes (.tltu p) i64s (fun v => bool ((arg v 0).toNat < (arg v 1).toNat)) ∧
     Computes (.tleu p) i64s (fun v => bool ((arg v 0).toNat ≤ (arg v 1).toNat)) ∧
     Computes (.pand p) i64s (fun v => bool (arg v 0 ≠ 0#64 ∧ arg v 1 ≠ 0#64)) ∧
     Computes (.por p) i64s (fun v => bool (arg v 0 ≠ 0#64 ∨ arg v 1 ≠ 0#64)) ∧
     Computes (.pnot p) i64s (fun v => bool (arg v 0 = 0#64)) ∧
     ∀ i : BitVec 11,
       let imm : Word64 := i.signExtend 64
       Computes1 (.teqi p i) i64s (fun v => bool (arg v 0 = imm)) ∧
       Computes1 (.tnei p i) i64s (fun v => bool (arg v 0 ≠ imm)) ∧
       Computes1 (.tlti p i) i64s (fun v => bool ((arg v 0).toInt < imm.toInt)) ∧
       Computes1 (.tlei p i) i64s (fun v => bool ((arg v 0).toInt ≤ imm.toInt)) ∧
       Computes1 (.tltui p i) i64s (fun v => bool ((arg v 0).toNat < imm.toNat)) ∧
       Computes1 (.tleui p i) i64s (fun v => bool ((arg v 0).toNat ≤ imm.toNat)) ∧
       Computes1 (.tgti p i) i64s (fun v => bool (imm.toInt < (arg v 0).toInt)) ∧
       Computes1 (.tgei p i) i64s (fun v => bool (imm.toInt ≤ (arg v 0).toInt))) ∧
  (∀ p : BitVec 2,
     (∀ s r, Ready s (.nop p) [] r → exec (.nop p) s = .next (s.updRun s.focus fun r => fired r s.index [] [])) ∧
     (∀ t u s r, Ready s (.null p t u) [] r → FreeTargets r [t, u] →
       exec (.null p t u) s = .next (s.updRun s.focus fun r => fired r s.index (sent [t, u] .null) [])) ∧
     Computes (.mov p) (fun v => v.all fun x => x.tag != .empty && x.tag != .reserved15) (fun v => v.getD 0 {}) ∧
     (∀ t u w s r x, Ready s (.mov3 p t u w) [x] r → FreeTargets r [t, u, w] → x.tag ≠ .empty → x.tag ≠ .reserved15 →
       Delivers (.mov3 p t u w) s [t, u, w] x) ∧
     ∀ i : BitVec 16,
       Computes1 (.movi p i) (fun _ => true) (fun _ => Reg.ofW (i.signExtend 64)) ∧
       Computes1 (.genu p i) (fun _ => true) (fun _ => Reg.ofW (i.setWidth 64)))

/-- The exits, `TRAP` and `BKPT` (07_be_control.md R93, R95, R103 to R112, 28_traps_preemption.md R361). The first exit of a block that
fires is recorded with its exit number and target; a second one faults `BLOCK_MULTI_EXIT`; an indirect target must be I64
with bits 63:32 zero; `BRB` faults in a handler; `TRAP` faults with its code, and `BKPT` with its code. -/
def Obligations.ExitsAndTraps : Prop :=
  ∀ (p : BitVec 2) (e : BitVec 3) (o : BitVec 20) (c : BitVec 5) (code : BitVec 11) (l : BitVec 5) (b : BitVec 6) (s : State) (r : Run),
    let dest : BitVec 32 := (s.ctx s.focus).block + o.signExtend 32 * 32#32
    let exits (i : Instr) (n : Nat) (k : ExitKind) : Prop :=
      (r.exits = [] → exec i s = .next (s.updRun s.focus fun r =>
        { fired r s.index [] [] with exits := [⟨s.index, n, k⟩] })) ∧
      (r.exits ≠ [] → Faults i s .blockMultiExit 0#64 0#64)
    (Ready s (.bro p e o) [] r → exits (.bro p e o) e.toNat (.branch dest)) ∧
    (Ready s (.callo p e o) [] r → exits (.callo p e o) e.toNat (.call dest)) ∧
    (Ready s (.brb p e o) [] r → s.focus.ctx = 0 → exits (.brb p e o) e.toNat (.barrier dest)) ∧
    (Ready s (.brb p e o) [] r → s.focus.ctx ≠ 0 → Faults (.brb p e o) s .handlerWait 0#64 0#64) ∧
    (Ready s (.ret p e) [] r → exits (.ret p e) e.toNat .ret) ∧
    (Ready s (.eret p e) [] r → exits (.eret p e) e.toNat .eret) ∧
    (∀ x, Ready s (.bri p e) [x] r → x.tag = .i64 → x.w.toNat < 2 ^ 32 → exits (.bri p e) e.toNat (.branch (x.w.setWidth 32))) ∧
    (∀ x, Ready s (.calli p e) [x] r → x.tag = .i64 → x.w.toNat < 2 ^ 32 → exits (.calli p e) e.toNat (.call (x.w.setWidth 32))) ∧
    (∀ x i, i = Instr.bri p e ∨ i = Instr.calli p e → Ready s i [x] r →
      (x.tag ≠ .i64 → Faults i s .tagFault 0#64 0#64) ∧
      (x.tag = .i64 → 2 ^ 32 ≤ x.w.toNat → Faults i s .window 0#64 0#64)) ∧
    (Ready s (.texit p c) [] r → exits (.texit p c) 0 (.texit c.toNat)) ∧
    (Ready s (.hret p) [] r → exits (.hret p) 0 .hret) ∧
    (Ready s (.trap p code) [] r → Faults (.trap p code) s .trap (code.setWidth 64) 0#64) ∧
    (Ready s (.bkpt p l b) [] r → (s.ctx s.focus).bkptSkip = false →
      ((s.die s.focus.die).dbgen = false → Faults (.bkpt p l b) s .bkpt (b.setWidth 64) 0#64) ∧
      ((s.die s.focus.die).dbgen = true → exec (.bkpt p l b) s =
          .next ((s.debugHalt s.focus.die).faultAt s.focus (some s.index) .bkpt (b.setWidth 64) 0#64) ∧
        ((s.debugHalt s.focus.die).die s.focus.die).halt = some ((s.die s.focus.die).halt.getD s.cycle))) ∧
    (Ready s (.bkpt p l b) [] r → (s.ctx s.focus).bkptSkip = true → Receives (.bkpt p l b) s l (.idle none))

/-- R121 and R123: `MFS` sends the value of the special register that it names, for every implemented register; `TASK`, `GANG`, `AGSTAT` and `FAULTREC` are as
the context's last commit saw them, which are those of the task that runs, of the tile's generators, and of its latest fault; R124: `MTS` of an I64 is
received, and the write is left to the commit. What a write of a special register leaves (R97, R120, R121, R26 to R29): `ROUND` takes modes 0 to 4 and reads any other as
0, `SAT` one bit, `SRSEED` 32 bits and never 0, `RASPTR` and `RASLIM` multiples of 8, the limits at least 1,024, `FCTX` a context from
1 to 7 other than the writer's own; every other number changes nothing. That `RASDEPTH` takes all 64 bits is the model's choice: log 18. -/
def Obligations.SpecialRegisters : Prop :=
  (∀ (p : BitVec 2) (s : State) (r : Run),
     let c := s.ctx s.focus
     let x := s.tile s.focus.die s.focus.tile
     let reads (n : BitVec 9) (v : Word64) : Prop := ∀ t u, Ready s (.mfs p n t u) [] r → FreeTargets r [t, u] →
       Delivers (.mfs p n t u) s [t, u] (Reg.ofW v)
     reads 0x000#9 (BitVec.ofNat 64 (s.focus.ctx % 8 + (if c.super then 8 else 0))) ∧
     reads 0x001#9 (BitVec.ofNat 64 (s.moduleId % 1024 * 2 ^ 22 + s.focus.die % 32 * 2 ^ 17 + s.focus.tile % 256 * 2 ^ 8
       + s.focus.tile / 12 % 16 * 16 + s.focus.tile % 12)) ∧
     reads 0x002#9 (c.seen.getD 0 0#64) ∧
     reads 0x003#9 (c.seen.getD 1 0#64) ∧
     reads 0x004#9 (BitVec.ofNat 64 (c.region % 4096)) ∧
     reads 0x008#9 (BitVec.ofNat 64 s.cycle) ∧
     reads 0x009#9 c.hops ∧
     reads 0x00A#9 (c.lastExit.setWidth 64) ∧
     reads 0x010#9 (BitVec.ofNat 64 c.round) ∧
     reads 0x011#9 (if c.sat then 1#64 else 0#64) ∧
     reads 0x012#9 (c.srseed.setWidth 64) ∧
     reads 0x018#9 (c.rasptr.setWidth 64) ∧
     reads 0x019#9 (c.raslim.setWidth 64) ∧
     reads 0x01A#9 (BitVec.ofNat 64 (c.ras.length + c.spilled)) ∧
     reads 0x020#9 (c.tmoBlock.setWidth 64) ∧
     reads 0x021#9 (c.tmoWait.setWidth 64) ∧
     (∀ g : BitVec 3, reads (0x030#9 + g.setWidth 9) (c.seen.getD (2 + g.toNat) 0#64)) ∧
     (let seen := ((s.see s.focus).ctx s.focus).seen
      seen.getD 0 0#64 = (if x.runs then match x.task with
        | none => 0#64
        | some id => BitVec.ofNat 64 (2 ^ 32 + id.toNat) else 0#64) ∧
      seen.getD 1 0#64 = (if x.runs then x.gang else 0#64) ∧
      seen.getD 10 0#64 = c.faultRec ∧ ∀ g : BitVec 3, seen.getD (2 + g.toNat) 0#64 = (x.ag g.toNat).stat
        ((look {} x.ctxs 0).ports.any fun b => b.2 == g.toNat) ((x.ag g.toNat).bound && (x.ag g.toNat).owner == s.focus.ctx)) ∧
     reads 0x040#9 (c.seen.getD 10 0#64) ∧
     reads 0x100#9 (c.fctx.setWidth 64) ∧
     reads 0x101#9 (c.fresume.setWidth 64) ∧
     ∀ (l : BitVec 5) (n : BitVec 9) (a : Reg), Ready s (.mts p l n) [a] r →
       (a.tag ≠ .i64 → Faults (.mts p l n) s .tagFault 0#64 0#64) ∧
       (a.tag = .i64 → n = 0x01A#9 → a.w.toNat < c.ras.length → Faults (.mts p l n) s .reservedField 0#64 0#64) ∧
       (a.tag = .i64 → (n = 0x01A#9 → c.ras.length ≤ a.w.toNat) → Receives (.mts p l n) s l (.mts n.toNat a.w))) ∧
  (∀ (c : Ctx) (own : Nat) (v : Word64), own < 8 →
     let low : BitVec 32 := v.setWidth 32
     c.setSreg own 0x010 v = { c with round := if v.toNat % 8 < 5 then v.toNat % 8 else 0 } ∧
     c.setSreg own 0x011 v = { c with sat := v.getLsbD 0 } ∧
     c.setSreg own 0x012 v = { c with srseed := if low = 0#32 then 1#32 else low } ∧
     c.setSreg own 0x018 v = { c with rasptr := v.setWidth 24 &&& 0xFFFFF8#24 } ∧
     c.setSreg own 0x019 v = { c with raslim := v.setWidth 24 &&& 0xFFFFF8#24 } ∧
     (c.ras.length ≤ v.toNat → (c.setSreg own 0x01A v).ras.length + (c.setSreg own 0x01A v).spilled = v.toNat) ∧
     c.setSreg own 0x020 v = { c with tmoBlock := if low.toNat < 1024 then 1024#32 else low } ∧
     c.setSreg own 0x021 v = { c with tmoWait := if low.toNat < 1024 then 1024#32 else low } ∧
     c.setSreg own 0x100 v = (if v.toNat % 8 = 0 ∨ v.toNat % 8 = own then c else { c with fctx := v.setWidth 3 }) ∧
     c.setSreg own 0x101 v = { c with fresume := low } ∧
     ∀ n, [0x010, 0x011, 0x012, 0x018, 0x019, 0x01A, 0x020, 0x021, 0x100, 0x101].contains n = false → c.setSreg own n v = c)

/-! ### The vector unit -/

/-- R133, R137 and R138: the elementwise arithmetic. Each lane of the result is the exact result of the operation on the lanes, rounded
once under `ROUND` and `SAT` for floats, its low bits for integers; a scalar operand stands in every lane. R137 and R139: the bitwise forms act on the encodings of the lanes; a compare gives one mask bit for each lane, an I64 for
two F32S; no comparison but `VCNE` holds with a NaN. R141: the six functions of VF32, VBF16 and F32S, lane by lane, each rounded once. How the exact value of the last three is
computed is the model's (log 9). -/
def Obligations.VectorArithmeticAndCompares : Prop :=
  (let ok (T : Tag) : Bool := T.isNumV || T == .f32s
   let a (v : List FV) := v.getD 0 .nan
   let b (v : List FV) := v.getD 1 .nan
   let c (v : List FV) := v.getD 2 .nan
   let x (w : Nat) (v : List Nat) := sgnN w (v.getD 0 0)
   let y (w : Nat) (v : List Nat) := sgnN w (v.getD 1 0)
   let z (w : Nat) (v : List Nat) := sgnN w (v.getD 2 0)
   (∀ p : BitVec 2,
     Elementwise (.vadd p) ok (fun v => FV.sum [a v, b v]) (fun w v => x w v + y w v) ∧
     Elementwise (.vsub p) ok (fun v => FV.sum [a v, (b v).negate]) (fun w v => x w v - y w v) ∧
     Elementwise (.vmul p) ok (fun v => (a v).mul (b v)) (fun w v => x w v * y w v) ∧
     Elementwise (.vmin p) ok (fun v => (a v).fmin (b v)) (fun w v => if x w v ≤ y w v then x w v else y w v) ∧
     Elementwise (.vmax p) ok (fun v => (a v).fmax (b v)) (fun w v => if y w v ≤ x w v then x w v else y w v) ∧
     Elementwise (.vabs p) ok (fun v => (a v).abs) (fun w v => if x w v < 0 then -x w v else x w v) ∧
     Elementwise (.vneg p) ok (fun v => (a v).negate) (fun w v => -x w v) ∧
     Elementwise (.vshl p) Tag.isIntV (fun _ => .nan) (fun w v => v.getD 0 0 * 2 ^ (v.getD 1 0 % w)) ∧
     Elementwise (.vshr p) Tag.isIntV (fun _ => .nan) (fun w v => (v.getD 0 0 / 2 ^ (v.getD 1 0 % w) : Nat)) ∧
     Elementwise (.vsra p) Tag.isIntV (fun _ => .nan) (fun w v => x w v / 2 ^ (v.getD 1 0 % w)) ∧
     Elementwise (.vadds p) Tag.isIntV (fun _ => .nan) (fun w v => clamped w (x w v + y w v)) ∧
     Elementwise (.vsubs p) Tag.isIntV (fun _ => .nan) (fun w v => clamped w (x w v - y w v))) ∧
   Elementwise .vfma ok (fun v => FV.sum [(a v).mul (b v), c v]) (fun w v => x w v * y w v + z w v) ∧
   Elementwise .vfms ok (fun v => FV.sum [(a v).mul (b v), (c v).negate]) (fun w v => x w v * y w v - z w v) ∧
   Elementwise .vfnma ok (fun v => FV.sum [c v, ((a v).mul (b v)).negate]) (fun w v => z w v - x w v * y w v)) ∧
  (∀ p : BitVec 2,
     let bits (i : BitVec 7 → BitVec 7 → Instr) (f : Nat → Nat → Nat) : Prop :=
       ∀ t u s r a b T, Ready s (i t u) [a, b] r → FreeTargets r [t, u] → Framed T [a, b] → T.isNumV = true →
         a.tag ≠ .f32s → b.tag ≠ .f32s →
         ∃ v, Delivers (i t u) s [t, u] v ∧ HasLanes v T fun k => f (laneCode T k a) (laneCode T k b)
     bits (.vand p) (fun a b => a &&& b) ∧
     bits (.vor p) (fun a b => a ||| b) ∧
     bits (.vxor p) (fun a b => a ^^^ b) ∧
     Compares (.vceq p) FV.eqv (fun a b => decide (a = b)) ∧
     Compares (.vcne p) (fun a b => !a.eqv b) (fun a b => decide (a ≠ b)) ∧
     Compares (.vclt p) FV.lt (fun a b => decide (a < b)) ∧
     Compares (.vcle p) (fun a b => a.lt b || a.eqv b) (fun a b => decide (a ≤ b)) ∧
     Compares (.vcgt p) (fun a b => b.lt a) (fun a b => decide (a > b)) ∧
     Compares (.vcge p) (fun a b => b.lt a || a.eqv b) (fun a b => decide (a ≥ b)) ∧
     ∀ x : FV, FV.lt .nan x = false ∧ FV.lt x .nan = false ∧ FV.eqv .nan x = false ∧ FV.eqv x .nan = false) ∧
  (∀ p : BitVec 2,
     let fn (i : BitVec 7 → BitVec 7 → Instr) (op : Trans) : Prop :=
       ∀ t u s r a f, Ready s (i t u) [a] r → FreeTargets r [t, u] → a.tag = .vf32 ∨ a.tag = .vbf16 ∨ a.tag = .f32s →
         a.tag.fmt = some f → ∃ v, Delivers (i t u) s [t, u] v ∧ HasLanes v a.tag fun k => f.trans s.vmode op (f.dec (lane a k))
     fn (.vrcp p) .rcp ∧ fn (.vrsq p) .rsq ∧ fn (.vsqrt p) .sqrt ∧ fn (.vexp2 p) .exp2 ∧ fn (.vlog2 p) .log2 ∧ fn (.vtanh p) .tanh)

/-- R36, R142: the reductions of a numeric vector by a fixed pairwise tree: the largest and the smallest lane and the sum of integer
lanes as an I64, the tree over float lanes, each sum rounded once to FP32, as an F32S. -/
def Obligations.VectorReductions : Prop :=
  ∀ p t u s r a,
    let fold (i : BitVec 7 → BitVec 7 → Instr) (good : (Nat → Int) → Int → Prop) (ff : FV → FV → FV) : Prop :=
      Ready s (i t u) [a] r → FreeTargets r [t, u] →
      (a.tag.isIntV = true → ∃ x : Int, good (fun k => sgnN a.tag.shape.2 (lane a k)) x ∧ Delivers (i t u) s [t, u] (Reg.ofW (BitVec.ofInt 64 x))) ∧
      (∀ f, a.tag.isFloatV = true → a.tag.fmt = some f →
        let tree := treeGo ff a.tag.shape.1.log2 ((List.range a.tag.shape.1).map fun k => f.dec (lane a k))
        Delivers (i t u) s [t, u] { tag := .f32s, bits := BitVec.ofNat 2048 (fp32.round 0 true none (tree.getD 0 .nan)) })
    fold (.vrsum p) (fun g x => x = ((List.range a.tag.shape.1).map g).sum) (fun x y => fp32.dec (fp32.round 0 true none (FV.sum [x, y]))) ∧
    fold (.vrmax p) (fun g x => (∃ k < a.tag.shape.1, g k = x) ∧ ∀ k < a.tag.shape.1, g k ≤ x) FV.fmax ∧
    fold (.vrmin p) (fun g x => (∃ k < a.tag.shape.1, g k = x) ∧ ∀ k < a.tag.shape.1, x ≤ g k) FV.fmin

/-- R37: `VPSUM` sums sequentially in lane order: lane 0 is copied, and lane i becomes the previous result plus input lane i, each step rounded to
nearest even to the lane format for a float tag, cut to the lane width for an integer tag. -/
def Obligations.PrefixSums : Prop :=
  ∀ p t u s r a, Ready s (.vpsum p t u) [a] r → FreeTargets r [t, u] →
    (a.tag.isIntV = true → ∃ v, Delivers (.vpsum p t u) s [t, u] v ∧
      HasLanes v a.tag fun k => ((List.range (k + 1)).map fun j => lane a j).sum) ∧
    (∀ f, a.tag.isFloatV = true → a.tag.fmt = some f → ∃ v g, Delivers (.vpsum p t u) s [t, u] v ∧ HasLanes v a.tag g ∧ g 0 = lane a 0 ∧
      ∀ k, k + 1 < a.tag.shape.1 → g (k + 1) = f.round 0 s.vsat none (FV.sum [f.dec (g k), f.dec (lane a (k + 1))]))

/-- R140, R143 to R146 and R151: selection, broadcast, extraction, insertion, permutation, rotation, lane numbers and
retagging, lane by lane. That `VEXT` of a float lane gives the canonical NaN for a NaN is the model's reading: log 10. R154: the mask instructions act on two masks of one tag, lane by lane; `MPOP` counts the lanes set, `MFIRST` gives the lowest
lane set, or the lane count where none is. -/
def Obligations.VectorLanesAndMasks : Prop :=
  (∀ t u s r,
     let gives (i : Instr) (T : Tag) (code : Nat → Nat) : Prop :=
       FreeTargets r [t, u] → ∃ v, Delivers i s [t, u] v ∧ HasLanes v T code
     let put_ (T : Tag) (x : Reg) (k : Nat) : Nat := match T.fmt with
       | some f => if x.tag = T then lane x k else f.round s.vmode s.vsat none (fp32.dec (fldN x.bits 0 32))
       | none => laneCode T k x
     (∀ m a b T, Ready s (.vsel t u) [m, a, b] r → Framed T [a, b] → T.isNumV = true → m.tag = maskTag T.shape.1 →
       gives (.vsel t u) T fun k => if lane m k = 1 then put_ T a k else put_ T b k) ∧
     (∀ p g x, Ready s (.vbcast p g t u) [x] r →
       (x.tag = .f32s ∧ (Tag.ofNum g.toNat).isFloatV = true) ∨ (x.tag = .i64 ∧ (Tag.ofNum g.toNat).isIntV = true) →
       gives (.vbcast p g t u) (Tag.ofNum g.toNat) fun k => put_ (Tag.ofNum g.toNat) x k) ∧
     (∀ p v k, Ready s (.vext p t u) [v, k] r → k.tag = .i64 → FreeTargets r [t, u] →
       let c := lane v (k.w.toNat % v.tag.shape.1)
       (v.tag.isIntV = true → Delivers (.vext p t u) s [t, u] (Reg.ofW (BitVec.ofInt 64 (sgnN v.tag.shape.2 c)))) ∧
       (v.tag.isMask = true → Delivers (.vext p t u) s [t, u] (Reg.ofW (BitVec.ofNat 64 c))) ∧
       (∀ f, v.tag.isFloatV = true → v.tag.fmt = some f →
         Delivers (.vext p t u) s [t, u] { tag := .f32s, bits := BitVec.ofNat 2048 (fp32.round 0 true none (f.dec c)) })) ∧
     (∀ v x k, Ready s (.vins t u) [v, x, k] r → k.tag = .i64 → v.tag.isNumV = true ∨ v.tag.isMask = true →
       x.tag = (if v.tag.isFloatV then Tag.f32s else .i64) →
       gives (.vins t u) v.tag fun j =>
         if j ≠ k.w.toNat % v.tag.shape.1 then lane v j
         else if v.tag.isMask then (if x.w = 0#64 then 0 else 1) else put_ v.tag x j) ∧
     (∀ p v x, Ready s (.vperm p t u) [v, x] r → v.tag.isNumV = true → x.tag.isIntV = true → x.tag.shape.1 = v.tag.shape.1 →
       gives (.vperm p t u) v.tag fun k => lane v (lane x k % v.tag.shape.1)) ∧
     (∀ p v c, Ready s (.vrot p t u) [v, c] r → v.tag.isNumV = true ∨ v.tag.isMask = true → c.tag = .i64 →
       gives (.vrot p t u) v.tag fun k => lane v ((k + c.w.toNat) % v.tag.shape.1)) ∧
     (∀ p g, Ready s (.viota p g t u) [] r → gives (.viota p g t u) (Tag.ofNum g.toNat) fun k => k) ∧
     (∀ p g a, Ready s (.vretag p g t u) [a] r → a.tag ≠ .empty → a.tag ≠ .hndl → a.tag ≠ .reserved15 → FreeTargets r [t, u] →
       Delivers (.vretag p g t u) s [t, u] { tag := Tag.ofNum g.toNat, bits := (Tag.ofNum g.toNat).keep a.bits })) ∧
  (∀ p t u s r,
     let two (i : BitVec 7 → BitVec 7 → Instr) (f : Bool → Bool → Bool) : Prop :=
       ∀ a b, Ready s (i t u) [a, b] r → FreeTargets r [t, u] → a.tag.isMask = true →
         (a.tag = b.tag → ∃ v, Delivers (i t u) s [t, u] v ∧ HasLanes v a.tag fun k => b2n (f (lane a k == 1) (lane b k == 1))) ∧
         (a.tag ≠ b.tag → Faults (i t u) s .tagFault 0#64 0#64)
     two (.mand p) (fun a b => a && b) ∧ two (.mor p) (fun a b => a || b) ∧ two (.mxor p) (fun a b => xor a b) ∧
     ∀ a, a.tag.isMask = true → FreeTargets r [t, u] →
       (Ready s (.mnot p t u) [a] r → ∃ v, Delivers (.mnot p t u) s [t, u] v ∧ HasLanes v a.tag fun k => 1 - lane a k) ∧
       (Ready s (.mpop p t u) [a] r → Delivers (.mpop p t u) s [t, u]
         (Reg.ofW (BitVec.ofNat 64 ((List.range a.tag.shape.1).filter fun k => lane a k == 1).length))) ∧
       (Ready s (.mfirst p t u) [a] r → Delivers (.mfirst p t u) s [t, u]
         (Reg.ofW (BitVec.ofNat 64 (((List.range a.tag.shape.1).find? fun k => lane a k == 1).getD a.tag.shape.1)))))

/-- R148, R149 and R150: a conversion between tags of one lane count, a widening of one part, a narrowing of two registers into
one. Each lane is converted by R30, with a draw for each element where `ROUND` is 4 and the destination takes draws. R152 and R153: `VQNT` quantises 64 lanes into block b of a Q4N register, leaving its other blocks, and gives the scale code;
`VDQNT` gives the values of consecutive blocks. -/
def Obligations.VectorConversionsAndBlocks : Prop :=
  (∀ t u s r,
     let draw (T : Tag) (n k : Nat) : Option Nat :=
       if (T = .vbf16 ∨ T = .vf8e4 ∨ T = .vf8e5) ∧ (s.ctx s.focus).round = 4 then
         (drawList n ((s.ctx s.focus).drawState r s.index))[k]? else none
     let mode (T : Tag) : Nat := if T = .vbf16 ∨ T = .vf8e4 ∨ T = .vf8e5 then (s.ctx s.focus).round else s.vmode
     (∀ p g a x y, Ready s (.vcvt p g t u) [a] r → FreeTargets r [t, u] → a.tag.elem = some x → (Tag.ofNum g.toNat).elem = some y →
       a.tag ≠ Tag.ofNum g.toNat → a.tag.shape.1 = (Tag.ofNum g.toNat).shape.1 →
       ∃ v, Delivers (.vcvt p g t u) s [t, u] v ∧ HasLanes v (Tag.ofNum g.toNat) fun k =>
         convert x y (mode (Tag.ofNum g.toNat)) s.vsat (draw (Tag.ofNum g.toNat) a.tag.shape.1 k) (lane a k)) ∧
     (∀ p g a, Ready s (.vcvt p g t u) [a] r → FreeTargets r [t, u] → a.tag.elem ≠ none → a.tag = Tag.ofNum g.toNat →
       Delivers (.vcvt p g t u) s [t, u] a) ∧
     (∀ p f h q a T x y, Ready s (.vunpk p f h q t u) [a] r → FreeTargets r [t, u] → a.tag.isNumV = true →
       T.shape.2 = a.tag.shape.2 * (if f = 1#1 then 4 else 2) → T.isNumV = true → T.isIntV = (h == 1#1) →
       a.tag.elem = some x → T.elem = some y →
       ∃ v, Delivers (.vunpk p f h q t u) s [t, u] v ∧ HasLanes v T fun k =>
         if q.toNat * T.shape.1 + k < a.tag.shape.1 then convert x y s.vmode s.vsat none (lane a (q.toNat * T.shape.1 + k)) else 0) ∧
     (∀ p g a b x y, Ready s (.vpack p g t u) [a, b] r → FreeTargets r [t, u] → a.tag = b.tag → a.tag.isNumV = true →
       a.tag.shape.2 = 2 * (Tag.ofNum g.toNat).shape.2 → a.tag.elem = some x → (Tag.ofNum g.toNat).elem = some y →
       ∃ v, Delivers (.vpack p g t u) s [t, u] v ∧ HasLanes v (Tag.ofNum g.toNat) fun k =>
         convert x y (mode (Tag.ofNum g.toNat)) s.vsat (draw (Tag.ofNum g.toNat) (Tag.ofNum g.toNat).shape.1 k)
           (if k < a.tag.shape.1 then lane a k else lane b (k - a.tag.shape.1)))) ∧
  (∀ t u s r, FreeTargets r [t, u] → t ≠ 0x7F#7 → u ≠ 0x7F#7 →
     let two (i : Instr) (v w : Reg) : Prop := exec i s = .next (s.updRun s.focus fun r =>
       fired r s.index [(t.toNat, .val v), (u.toNat, .val w)] [])
     (∀ b x sc prior, Ready s (.vqnt b t u) [x, sc, prior] r → x.tag = .vf32 → sc.tag = .f32s → prior.tag = .vq4n ∨ prior.tag = .i64 →
       let q := q4quant ((List.range 64).map fun k => lane x k) (fldN sc.bits 0 32)
         (if (s.ctx s.focus).round = 4 then drawList 64 ((s.ctx s.focus).drawState r s.index) else [])
       ∃ v, v.tag = .vq4n ∧ two (.vqnt b t u) v (Reg.ofW (BitVec.ofNat 64 q.2)) ∧
         ∀ k < 512, lane v k = if k / 64 = b.toNat then q.1.getD (k % 64) 0 % 16 else if prior.tag = .vq4n then lane prior k else 0) ∧
     (∀ f b q sc codes, Ready s (.vdqnt f b t u) [q, sc, codes] r → q.tag = .vq4n → sc.tag = .f32s → codes.tag = .i64 →
       let val (m : Fmt) (block k : Nat) : Nat :=
         m.round s.vmode s.vsat none (q4deq (fldN q.bits (256 * block + 4 * k) 4) (fldN codes.w (8 * block) 8) (fldN sc.bits 0 32))
       ∃ v w, two (.vdqnt f b t u) v w ∧
         (f = 0#1 → HasLanes v .vf32 (val fp32 b.toNat) ∧ HasLanes w .vf32 (val fp32 (b.toNat + 1))) ∧
         (f = 1#1 → HasLanes v .vbf16 (fun k => val bf16 (b.toNat + k / 64) (k % 64)) ∧
           HasLanes w .vbf16 (fun k => val bf16 (b.toNat + 2 + k / 64) (k % 64)))))

/-! ### Local memory, landing, fences -/

/-- R155 to R157, R159 and R160: a load of the local store delivers the bytes of memory, lowest first, sign- or zero-extended or as a
register of the tag it names; a gather takes each lane at the base plus its unsigned offset times the element size. -/
def Obligations.LocalLoads : Prop :=
  ∀ (p : BitVec 2) (l : BitVec 5) (t : BitVec 7) (s : State) (r : Run), FreeTargets r [t] → Unheld r l →
    (∀ sg z i a, Ready s (.ldl p l sg z i t) [a] r → a.tag = .i64 →
      let n := 2 ^ z.toNat
      let ea := a.w.toInt + i.toInt * (n : Nat)
      LocalOk s ea n n → Delivers (.ldl p l sg z i t) s [t] (Reg.ofW
        (if sg = 1#1 then BitVec.ofInt 64 (sgnN (8 * n) (localNat s ea.toNat n)) else BitVec.ofNat 64 (localNat s ea.toNat n)))) ∧
    (∀ g i a, Ready s (.vldl p l g i t) [a] r → a.tag = .i64 →
      let T := Tag.ofNum g.toNat
      let n := if T.isMask then T.shape.1 / 8 else 256
      let ea := a.w.toInt + i.toInt * (n : Nat)
      LocalOk s ea n (if T.isMask then n else 32) →
        Delivers (.vldl p l g i t) s [t] { tag := T, bits := BitVec.ofNat 2048 (localNat s ea.toNat n) }) ∧
    (∀ g i a off, Ready s (.vgtl p l g i t) [a, off] r → a.tag = .i64 →
      let T := Tag.ofNum g.toNat
      let e := T.shape.2 / 8
      let base := a.w.toInt + i.toInt * 256
      T.isNumV = true → off.tag.isIntV = true → off.tag.shape = T.shape → base % (e : Nat) = 0 →
      (∀ k < T.shape.1, LocalOk s (base + (lane off k * e : Nat)) e 1) →
        ∃ v, Delivers (.vgtl p l g i t) s [t] v ∧ HasLanes v T fun k => localNat s (base + (lane off k * e : Nat)).toNat e)

/-- R158 to R160: the stores are received with the bytes of their value, and write nothing before their block commits. R155, R157, R159 and R161: an access outside the local store faults `LS_BOUNDS`, a misaligned one `ALIGN`, for the scalar and the register loads
and for the local atomics, and before that any tag but I64 for the base, and for the operands of an atomic, `TAG_FAULT`; a load is checked once no instruction of lower LSID
holds it back (R156). R156 (03_memory_model.md R42): a load sees, byte by byte, what the received `STL` and `VSTL` stores of its block with a lower LSID hold for it,
the one of higher LSID where two lie over one byte, and memory elsewhere, before those stores are performed: `LDL`, `VLDL` and each lane of `VGTL`. -/
def Obligations.LocalStoresAndChecks : Prop :=
  (∀ (p : BitVec 2) (l : BitVec 5) (s : State) (r : Run),
     (∀ z i a v, Ready s (.stl p l z i) [a, v] r → a.tag = .i64 →
       let n := 2 ^ z.toNat
       let ea := a.w.toInt + i.toInt * (n : Nat)
       v.tag = .i64 ∨ (v.tag = .f32s ∧ n = 4) ∨ (v.tag = .hndl ∧ n = 8) →
         (0 ≤ ea → ea + n ≤ 0x200000 → ea % n = 0 →
           Receives (.stl p l z i) s l (.storeLocal ea.toNat ((List.range n).map fun j => fld v.w (8 * j) 8))) ∧
         LocalFaults (.stl p l z i) s ea n n) ∧
     (∀ i a v, Ready s (.vstl p l i) [a, v] r → a.tag = .i64 → 4 ≤ v.tag.num → v.tag.num ≤ 14 →
       let n := if v.tag.isMask then v.tag.shape.1 / 8 else 256
       let ea := a.w.toInt + i.toInt * (n : Nat)
       (0 ≤ ea → ea + n ≤ 0x200000 → ea % (if v.tag.isMask then n else 32) = 0 →
         Receives (.vstl p l i) s l (.storeLocal ea.toNat ((List.range n).map fun j => fld v.bits (8 * j) 8))) ∧
       LocalFaults (.vstl p l i) s ea n (if v.tag.isMask then n else 32)) ∧
     (∀ i a v off, Ready s (.vscl l i) [a, v, off] r → a.tag = .i64 → v.tag.isNumV = true →
       let e := v.tag.shape.2 / 8
       let base := a.w.toInt + i.toInt * 256
       let ea (k : Nat) : Int := base + (lane off k * e : Nat)
       off.tag.isIntV = true → off.tag.shape = v.tag.shape → base % (e : Nat) = 0 →
       (∀ k < v.tag.shape.1, 0 ≤ ea k ∧ ea k + e ≤ 0x200000) →
         Receives (.vscl l i) s l (.scatterLocal ((List.range v.tag.shape.1).map fun k =>
           ((ea k).toNat, (List.range e).map fun j => fld v.bits (8 * (k * e + j)) 8))))) ∧
  (∀ (p : BitVec 2) (l : BitVec 5) (t : BitVec 7) (s : State) (r : Run) (a : Reg),
     (∀ sg z i, Ready s (.ldl p l sg z i t) [a] r → Unheld r l →
       (a.tag ≠ .i64 → Faults (.ldl p l sg z i t) s .tagFault 0#64 0#64) ∧
       (a.tag = .i64 → LocalFaults (.ldl p l sg z i t) s (a.w.toInt + i.toInt * (2 ^ z.toNat : Nat)) (2 ^ z.toNat) (2 ^ z.toNat))) ∧
     (∀ g i, Ready s (.vldl p l g i t) [a] r → Unheld r l →
       let T := Tag.ofNum g.toNat
       let n := if T.isMask then T.shape.1 / 8 else 256
       (a.tag ≠ .i64 → Faults (.vldl p l g i t) s .tagFault 0#64 0#64) ∧
       (a.tag = .i64 → LocalFaults (.vldl p l g i t) s (a.w.toInt + i.toInt * (n : Nat)) n (if T.isMask then n else 32))) ∧
     (∀ m o z b, Ready s (.amol p l m o z t) [a, b] r →
       (a.tag ≠ .i64 ∨ b.tag ≠ .i64 → Faults (.amol p l m o z t) s .tagFault 0#64 0#64) ∧
       (a.tag = .i64 → b.tag = .i64 →
         LocalFaults (.amol p l m o z t) s a.w.toInt (if z = 1#1 then 8 else 4) (if z = 1#1 then 8 else 4))) ∧
     (∀ o z e n, Ready s (.casLocal l o z t) [a, e, n] r →
       (a.tag ≠ .i64 ∨ e.tag ≠ .i64 ∨ n.tag ≠ .i64 → Faults (.casLocal l o z t) s .tagFault 0#64 0#64) ∧
       (a.tag = .i64 → e.tag = .i64 → n.tag = .i64 →
         LocalFaults (.casLocal l o z t) s a.w.toInt (if z = 1#1 then 8 else 4) (if z = 1#1 then 8 else 4)))) ∧
  (∀ (p : BitVec 2) (l m k : BitVec 5) (t : BitVec 7) (x y : Counted) (u v : Nat) (bs cs : List Byte) (s : State) (r : Run) (a : Reg),
     x.lsid = m.toNat → x.op = .storeLocal u bs → y.lsid = k.toNat → y.op = .storeLocal v cs →
     m.toNat < k.toNat → k.toNat < l.toNat → r.counted = [x, y] ∨ r.counted = [y, x] → FreeTargets r [t] → a.tag = .i64 →
     (∀ j < r.size, (r.shape j).lsid.getD 32 < l.toNat → (r.shape j).gate = .none ∨
       (r.fired.contains j = true ∧ r.loading.contains j = false)) →
     let sees (b : Nat) : Byte :=
       if v ≤ b ∧ b < v + cs.length then cs.getD (b - v) 0#8 else if u ≤ b ∧ b < u + bs.length then bs.getD (b - u) 0#8
       else Memory.read s.mem (lsKey s.focus.die s.focus.tile b)
     let value (b n : Nat) : Nat := leNat ((List.range n).map fun j => sees (b + j))
     (∀ z i, Ready s (.ldl p l 0#1 z i t) [a] r →
       let n := 2 ^ z.toNat
       let ea := a.w.toInt + i.toInt * (n : Nat)
       LocalOk s ea n n → Delivers (.ldl p l 0#1 z i t) s [t] (Reg.ofW (BitVec.ofNat 64 (value ea.toNat n)))) ∧
     (∀ g i, Ready s (.vldl p l g i t) [a] r →
       let T := Tag.ofNum g.toNat
       let n := if T.isMask then T.shape.1 / 8 else 256
       let ea := a.w.toInt + i.toInt * (n : Nat)
       LocalOk s ea n (if T.isMask then n else 32) →
         Delivers (.vldl p l g i t) s [t] { tag := T, bits := BitVec.ofNat 2048 (value ea.toNat n) }) ∧
     (∀ g i off, Ready s (.vgtl p l g i t) [a, off] r →
       let T := Tag.ofNum g.toNat
       let e := T.shape.2 / 8
       let base := a.w.toInt + i.toInt * 256
       T.isNumV = true → off.tag.isIntV = true → off.tag.shape = T.shape → base % (e : Nat) = 0 →
       (∀ j < T.shape.1, LocalOk s (base + (lane off j * e : Nat)) e 1) →
         ∃ w, Delivers (.vgtl p l g i t) s [t] w ∧ HasLanes w T fun j => value (base + (lane off j * e : Nat)).toNat e))

/-- R161, R162 and R163: a local atomic is received and reserves its write entry, none for T0 = 0x7F; `LAND` waits for a FULL entry, delivers it where no
fault is recorded on what filled it, and leaves it to the commit to free; a fence waits until the loads below it have fired, then until the
numbers of its engines as of its block's decode are complete, and then is received. What `LAND` does with an uncorrectable word, and which wait a fence
shows, are the model's choice: log 71, log 14. The new value of a local or remote atomic (R161): swap, add, and, or, xor, signed and unsigned minimum and maximum, at the width of
n bytes. -/
def Obligations.LocalAtomics : Prop :=
  (∀ (p : BitVec 2) (l : BitVec 5) (t : BitVec 7) (s : State) (r : Run),
     let reserves (i : Instr) (op : CommitOp) : Prop := (t = 0x7F#7 → Receives i s l op) ∧
       (t ≠ 0x7F#7 → r.tok t.toNat = none → r.reserved.contains t.toNat = false → exec i s = .next (s.updRun s.focus fun r =>
         { fired r s.index [] [⟨l.toNat, s.index, op⟩] with reserved := r.reserved ++ [t.toNat] }))
     let waits (i : Instr) (kind : WaitKind) (detail : Word64) : Prop := (∀ w ∈ r.waits, w.index ≠ s.index) →
       exec i s = .next (s.updRun s.focus fun r =>
         { r with waits := r.waits ++ [{ index := s.index, kind := kind, detail := detail, since := s.cycle }] })
     (∀ m o z a b, Ready s (.amol p l m o z t) [a, b] r → a.tag = .i64 → b.tag = .i64 →
       let n := if z = 1#1 then 8 else 4
       a.w.toNat + n ≤ 0x200000 → a.w.toNat % n = 0 → reserves (.amol p l m o z t) (.amoLocal a.w.toNat n m.toNat b.w t)) ∧
     (∀ o z a e v, Ready s (.casLocal l o z t) [a, e, v] r → a.tag = .i64 → e.tag = .i64 → v.tag = .i64 →
       let n := if z = 1#1 then 8 else 4
       a.w.toNat + n ≤ 0x200000 → a.w.toNat % n = 0 → reserves (.casLocal l o z t) (.casLocal a.w.toNat n e.w v.w t)) ∧
     (∀ n, Ready s (.land p l n t) [] r → FreeTargets r [t] →
       let e := (s.tile s.focus.die s.focus.tile).lb n.toNat
       let sound : Prop := ∀ x, e.cmd = some x → x.1 = s.focus → ∀ f ∈ (s.ctx s.focus).recf, f.eng = x.2.1 → f.num ≠ x.2.2
       (e.full = false → waits (.land p l n t) .landing (n.setWidth 64)) ∧
       (e.full = true → sound → e.bad = true → Faults (.land p l n t) s .uncorrectable 0#64 0#64) ∧
       (e.full = true → sound → e.bad = false → Answers (.land p l n t) s l [t] { tag := e.tag, bits := e.tag.keep e.bits } (.land n.toNat))) ∧
     (∀ e o c, Ready s (.fence p l e o c) [] r →
       let passed (k : Nat) : Prop := (r.fired.contains k = true ∨ r.off.contains k = true) ∧ r.loading.contains k = false
       let loads : Prop := ∀ k < r.size, (r.shape k).lsid.getD 32 < l.toNat → (r.shape k).counted = false → passed k
       let due (g : Engine) : Prop := e.getLsbD g.num = true ∧ (s.ctx s.focus).done.get g < r.issueAt.get g
       (¬loads → waits (.fence p l e o c) .tokens 0#64) ∧
       (loads → (s.ctx s.focus).recf = [] →
         (∀ g, due g → (∀ h : Engine, h.num < g.num → ¬due h) → waits (.fence p l e o c) .timeline (BitVec.ofNat 64 g.num)) ∧
         ((∀ g, ¬due g) → Receives (.fence p l e o c) s l (.fence e o.toNat c.toNat))))) ∧
  (∀ (n old b : Nat), n = 4 ∨ n = 8 → old < 2 ^ (8 * n) →
     let w := 8 * n
     let x : BitVec w := BitVec.ofNat w old
     let y : BitVec w := BitVec.ofNat w b
     amoValue 0 n old b = y.toNat ∧ amoValue 1 n old b = (x + y).toNat ∧ amoValue 2 n old b = (x &&& y).toNat ∧
     amoValue 3 n old b = (x ||| y).toNat ∧ amoValue 4 n old b = (x ^^^ y).toNat ∧
     amoValue 5 n old b = (if x.toInt ≤ y.toInt then x else y).toNat ∧
     amoValue 6 n old b = (if y.toInt ≤ x.toInt then x else y).toNat ∧
     amoValue 7 n old b = (if x.toNat ≤ y.toNat then x else y).toNat ∧
     amoValue 8 n old b = (if y.toNat ≤ x.toNat then x else y).toNat)

/-! ### Tensor access and the copy engine -/

/-- R181, R183, R184 and R387: a load through a bound generator that this context owns, inside its window, of an object that its region
reaches and whose windows admit it, leaves as a request that names its elements, and its value is awaited; nothing is read before. R175 and R181: a load through a generator, once nothing of lower LSID holds it back, faults on an operand of a wrong tag first, then on a
generator that another context owns (`RIGHTS`), then on one that is not bound (`WINDOW`); the cause stays in the generator's CAUSE. The order of these checks against
the loads below, DETAIL0 0 and the table index of an unbound generator are the model's choices: log 11, log 13, log 4. -/
def Obligations.TensorLoads : Prop :=
  (∀ (p : BitVec 2) (l : BitVec 5) (g : BitVec 3) (t : BitVec 7) (s : State) (r : Run) (c : Reg) (o : Obj),
     let d := s.focus.die
     let n := s.focus.tile
     let a := (s.tile d n).ag g.toNat
     let x0 : Int := a.org.c0 + fldN c.w 0 32
     let el (x : Int) : C4 := ⟨x.toNat, a.org.c1 + fldN c.w 32 16, a.org.c2 + fldN c.w 48 8, a.org.c3 + fldN c.w 56 8⟩
     let inside (x : Int) : Prop := 0 ≤ x ∧ boxHas a.org a.ext (el x) = true
     let loads (i : Instr) (els : List C4) (scalar : Option Nat) (tlb : Bool) : Prop :=
       o.check (s.owners s.focus) false (a.ord == 0 || a.ord == 2) (fun _ => 3#64) els = none → s.loadGate r true l.toNat = true →
       exec i s = .next ((s.updTile d n fun x => { x with reqs := x.reqs ++ [{
           ctx := s.focus.ctx, serial := r.serial, index := s.index, ag := g.toNat, h := a.handle, els := els
           size := Desc.bits o.desc, scalar := scalar, tag := a.tag, target := t, lsid := l.toNat, tlb := tlb }] }).updRun s.focus fun r =>
         { fired r s.index [] [] with loading := r.loading ++ [s.index] })
     c.tag = .i64 → a.bound = true → a.owner = s.focus.ctx → s.reach (s.ctx s.focus).region a.handle = some o →
     (∀ k, Ready s (.tldx p l g k t) [c] r → a.tag ≠ .empty →
       let x := x0 + k.toInt * (a.tag.lanes : Nat)
       (a.tag = .vq4n → x % 64 = 0) → (∀ j < a.tag.lanes, inside (x + (j : Nat))) →
       loads (.tldx p l g k t) ((List.range a.tag.lanes).map fun j => el (x + (j : Nat))) none false) ∧
     (∀ h i off, Ready s (.tldxOffset p l g h i t) [c, off] r → a.tag ≠ .empty → a.tag ≠ .vq4n → off.tag = offTag a.tag →
       let x (j : Nat) : Int := x0 + i.toInt + (lane off j * 2 ^ h.toNat : Nat)
       (∀ j < a.tag.lanes, inside (x j)) →
       loads (.tldxOffset p l g h i t) ((List.range a.tag.lanes).map fun j => el (x j)) none true) ∧
     (∀ k, Ready s (.tlds p l g k t) [c] r → Desc.fmt (s.objOf (hobj a.handle)).desc ≠ 9 → inside (x0 + k.toInt) →
       loads (.tlds p l g k t) [el (x0 + k.toInt)] (some (Desc.fmt o.desc)) false)) ∧
  (∀ (p : BitVec 2) (l : BitVec 5) (g : BitVec 3) (k : BitVec 7) (t : BitVec 7) (s : State) (r : Run) (c : Reg) (i : Instr),
     i = .tldx p l g k t ∨ i = .tlds p l g k t → Ready s i [c] r → s.loadGate r true l.toNat = true →
     let a := (s.tile s.focus.die s.focus.tile).ag g.toNat
     let faults (c : Cause) (d0 d1 : Word64) : Prop := exec i s = .next ((s.updTile s.focus.die s.focus.tile fun x =>
       x.setAg g.toNat { x.ag g.toNat with cause := some c }).faultAt s.focus (some s.index) c d0 d1)
     (c.tag ≠ .i64 → faults .tagFault 0#64 0#64) ∧
     (c.tag = .i64 → a.bound = true → a.owner ≠ s.focus.ctx → faults .rights a.handle (s.tblIndex a.handle none)) ∧
     (c.tag = .i64 → a.bound = false → faults .window 0#64 (s.tblIndex 0#64 none)))

/-- R181 to R186: a store or an atomic through a generator is translated, checked and its shared frames duplicated when it fires, then
received for its block's commit, an atomic with its write entry reserved, none for T0 = 0x7F. `u` is the state that translation and duplication
leave. -/
def Obligations.TensorStoresAndAtomics : Prop :=
  ∀ (p : BitVec 2) (l : BitVec 5) (g : BitVec 3) (t : BitVec 7) (s u : State) (r : Run) (c : Reg) (o : Obj),
    let d := s.focus.die
    let n := s.focus.tile
    let a := (s.tile d n).ag g.toNat
    let id := hobj a.handle
    let x0 : Int := a.org.c0 + fldN c.w 0 32
    let el (x : Int) : C4 := ⟨x.toNat, a.org.c1 + fldN c.w 32 16, a.org.c2 + fldN c.w 48 8, a.org.c3 + fldN c.w 56 8⟩
    let inside (x : Int) : Prop := 0 ≤ x ∧ boxHas a.org a.ext (el x) = true
    let allowed (holder : Holder) (rlx : Bool) (els : List C4) : Prop :=
      let js := Desc.indices o.desc els
      let m := s.translateAll d n holder id js
      (∀ j ∈ js, s.canWalk d n holder id j = true) ∧ o.check (s.owners s.focus) true rlx (look 0#64 m.1) els = none ∧ m.2.cowAll id js = ((none, true), u)
    let plain := a.ord == 0 || a.ord == 1
    let codes (v : Reg) (els : List C4) := els.zip ((List.range a.tag.lanes).map fun j =>
      leBytes ((a.tag.shape.2 + 7) / 8) (fldN v.bits (a.tag.shape.2 * j) a.tag.shape.2))
    let receives (i : Instr) (op : CommitOp) : Prop :=
      exec i s = .next (u.updRun u.focus fun r => fired r u.index [] [⟨l.toNat, u.index, op⟩])
    let reserves (i : Instr) (op : CommitOp) : Prop := (u.ctx u.focus).run = some r → (t = 0x7F#7 → receives i op) ∧
      (t ≠ 0x7F#7 → r.tok t.toNat = none → r.reserved.contains t.toNat = false → exec i s = .next (u.updRun u.focus fun r =>
        { fired r u.index [] [⟨l.toNat, u.index, op⟩] with reserved := r.reserved ++ [t.toNat] }))
    u.focus = s.focus → u.index = s.index →
    c.tag = .i64 → a.bound = true → a.owner = s.focus.ctx → s.reach (s.ctx s.focus).region a.handle = some o →
    s.objOf id = o →
    (∀ k v, Ready s (.tstx p l g k) [c, v] r → a.tag ≠ .empty → v.tag = a.tag →
      let x := x0 + k.toInt * (a.tag.lanes : Nat)
      let els := (List.range a.tag.lanes).map fun j => el (x + (j : Nat))
      (a.tag = .vq4n → x % 64 = 0) → (∀ j < a.tag.lanes, inside (x + (j : Nat))) → allowed (.gen g.toNat) plain els →
      receives (.tstx p l g k) (.storeTensor g.toNat a.handle (codes v els))) ∧
    (∀ h i v off, Ready s (.tstxOffset l g h i) [c, v, off] r → a.tag ≠ .empty → a.tag ≠ .vq4n → off.tag = offTag a.tag →
      v.tag = a.tag →
      let x (j : Nat) : Int := x0 + i.toInt + (lane off j * 2 ^ h.toNat : Nat)
      let els := (List.range a.tag.lanes).map fun j => el (x j)
      (∀ j < a.tag.lanes, inside (x j)) → allowed .tlb plain els →
      receives (.tstxOffset l g h i) (.storeTensor g.toNat a.handle (codes v els))) ∧
    (∀ k v, Ready s (.tsts p l g k) [c, v] r → Desc.fmt o.desc ≠ 9 →
      v.tag = .i64 ∨ (v.tag = .hndl ∧ Desc.fmt o.desc = 4) ∨ (v.tag = .f32s ∧ Desc.fmt o.desc = 8) → inside (x0 + k.toInt) →
      allowed (.gen g.toNat) plain [el (x0 + k.toInt)] →
      receives (.tsts p l g k) (.storeTensor g.toNat a.handle
        [(el (x0 + k.toInt), leBytes (Desc.bits o.desc / 8) v.w.toNat)])) ∧
    (∀ m od z b, Ready s (.amot p l m od z g t) [c, b] r → b.tag = .i64 → Desc.fmt o.desc ≠ 0 →
      Desc.bits o.desc = 8 * (if z = 1#1 then 8 else 4) → inside x0 → allowed (.gen g.toNat) false [el x0] →
      reserves (.amot p l m od z g t) (.amoTensor g.toNat a.handle (el x0) (if z = 1#1 then 8 else 4) m.toNat b.w t)) ∧
    (∀ od z e v, Ready s (.casTensor l g od z t) [c, e, v] r → e.tag = .i64 → v.tag = .i64 → Desc.fmt o.desc ≠ 0 →
      Desc.bits o.desc = 8 * (if z = 1#1 then 8 else 4) → inside x0 → allowed (.gen g.toNat) false [el x0] →
      reserves (.casTensor l g od z t) (.casTensor g.toNat a.handle (el x0) (if z = 1#1 then 8 else 4) e.w v.w t)) ∧
    (∀ od v, Ready s (.vamot p l g od) [c, v] r → a.tag ≠ .empty → v.tag = a.tag → Desc.fmt o.desc = 7 ∨ Desc.fmt o.desc = 8 →
      x0.toNat / Desc.til o.desc 0 = (x0.toNat + a.tag.lanes - 1) / Desc.til o.desc 0 → Desc.tileOffset o.desc (el x0) % 128 = 0 →
      let els := (List.range a.tag.lanes).map fun j => el (x0 + (j : Nat))
      (∀ j < a.tag.lanes, inside (x0 + (j : Nat))) → allowed (.gen g.toNat) false els →
      receives (.vamot p l g od) (.vamot g.toNat a.handle a.tag
        (els.zip ((List.range a.tag.lanes).map fun j => fldN v.bits (a.tag.shape.2 * j) a.tag.shape.2))
        (if (s.ctx s.focus).round = 4 then 0 else (s.ctx s.focus).round) (s.ctx s.focus).sat))

/-- R17, R187 to R198: what the ENGINE-T instructions leave where they execute normally, each as the next state that `exec` answers:
`GSET` has sent its window to the object's home; `SBIND` and `CSETG` are received; `CPY`, `CPYW`, `CPYM`, `DEAL` and `CPYT` in both forms are
received and have sent their number; `TWAIT` has sent the completed value once it has reached its operand, waits before, and faults
where its operand was never issued; `TREAD` has sent a timeline. What the spec leaves open in it is the model's choice: log 11. -/
def Obligations.TensorEngineInstructions : Prop :=
  ∀ (p : BitVec 2) (l : BitVec 5) (t : BitVec 7) (s : State) (r : Run),
    let x := s.tile s.focus.die s.focus.tile
    let after (out : List (Nat × Token)) (op : CommitOp) : State :=
      s.updRun s.focus fun r => fired r s.index out [⟨l.toNat, s.index, op⟩]
    let issued (c : Cmd) : State := after (sent [t] (.val (Reg.ofW (BitVec.ofNat 64 ((s.ctx s.focus).issue.ce + 1 +
      ((List.range r.size).filter fun k => (r.shape k).eng == some .ce && decide ((r.shape k).lsid.getD 32 < l.toNat)).length))))) (.cmd (some .ce) c)
    (∀ g h n o, Ready s (.gset p l g t) [h, n] r → h.tag = .hndl → n.tag = .i64 → (x.ag g.toNat).bound = false →
      s.reach (s.ctx s.focus).region h.w = some o → n.w.toNat < 16 → cgFits (x.cg n.w.toNat) o.desc = true →
      (∀ y ∈ r.asked, y.1 ≠ s.index) → (∀ w ∈ r.waits, w.index ≠ s.index) →
      let c := x.cg n.w.toNat
      let w : Win := { owner := s.owner s.focus, org := cgOrg c, ext := cgExt c, rw := bit c 264, sync := bit c 265, active := false }
      (bit c 264 = true → Desc.ro o.desc = false) → (fldN c 268 4 = 0 ∨ Tag.ofNum (fldN c 268 4) = Desc.tag o.desc) →
      exec (.gset p l g t) s = .next (((s.send s.focus.die (s.objHub (hobj h.w)) (.windowReq
          { place := s.focus, serial := r.serial, index := s.index, region := (s.ctx s.focus).region, since := s.cycle
            kind := .window g.toNat h.w w })).updRun s.focus fun r =>
              { r with asked := r.asked ++ [(s.index, .cmd none (.gset g.toNat h.w c))] }).updRun s.focus fun r =>
          { r with waits := (r.waits.filter fun w => w.index != s.index) ++ [{ index := s.index, kind := .tokens, since := s.cycle }] })) ∧
    (∀ n g, Ready s (.sbind p l n) [g] r → g.tag = .i64 →
      (bit g.w 63 = true → exec (.sbind p l n) s = .next (after [] (.cmd none (.sbind n.toNat none)))) ∧
      (bit g.w 63 = false → (x.ag (fldN g.w 0 3)).bound = true → (x.ag (fldN g.w 0 3)).owner = s.focus.ctx → (x.ag (fldN g.w 0 3)).tag ≠ .empty →
        exec (.sbind p l n) s = .next (after [] (.cmd none (.sbind n.toNat (some (fldN g.w 0 3))))))) ∧
    (∀ c a, Ready s (.csetg p l c) [a] r → a.tag = .i64 →
      (a.w.toNat % 64 = 0 → a.w.toNat + 64 ≤ 0x200000 →
        exec (.csetg p l c) s = .next (after [] (.cmd none (.csetg c.toNat a.w.toNat)))) ∧
      (a.w.toNat % 64 ≠ 0 → Faults (.csetg p l c) s .align a.w 0#64)) ∧
    (FreeTargets r [t] →
      (∀ dir c h a, Ready s (.cpy p l dir c t) [h, a] r → h.tag = .hndl → a.tag = .i64 →
        exec (.cpy p l dir c t) s = .next (issued (.cpy (dir == 1#1) c.toNat h.w a.w))) ∧
      (∀ c h a, Ready s (.cpyw p l c t) [h, a] r → h.tag = .hndl → a.tag = .hndl →
        exec (.cpyw p l c t) s = .next (issued (.cpyw c.toNat h.w a.w))) ∧
      (∀ c h a, Ready s (.cpym p l c t) [h, a] r → h.tag = .hndl → a.tag = .i64 →
        exec (.cpym p l c t) s = .next (issued (.cpym c.toNat h.w a.w))) ∧
      (∀ c h, Ready s (.deal p l c t) [h] r → h.tag = .hndl →
        exec (.deal p l c t) s = .next (issued (.deal c.toNat h.w))) ∧
      (∀ n h a, Ready s (.cpyt p l n t) [h, a] r → h.tag = .i64 → a.tag = .i64 →
        exec (.cpyt p l n t) s = .next (issued (.cpyt h.w a.w ((n.toNat + 1) * 256)))) ∧
      (∀ n h a, Ready s (.cpytLand p l n t) [h, a] r → h.tag = .i64 → a.tag = .i64 →
        exec (.cpytLand p l n t) s = .next (issued (.cpytLand h.w a.w n.toNat))) ∧
      (∀ e n, e ≠ 3#2 → Ready s (.twait p l e t) [n] r → n.tag = .i64 →
        let g := Engine.ofNum e.toNat
        let done := (s.ctx s.focus).done.get g
        (r.issueAt.get g < n.w.toNat → Faults (.twait p l e t) s .blockStall 0#64 0#64) ∧
        (n.w.toNat ≤ r.issueAt.get g → done < n.w.toNat → (∀ w ∈ r.waits, w.index ≠ s.index) →
          exec (.twait p l e t) s = .next (s.updRun s.focus fun r => { r with waits := r.waits ++
            [{ index := s.index, kind := .timeline, detail := BitVec.ofNat 64 g.num, since := s.cycle }] })) ∧
        (n.w.toNat ≤ r.issueAt.get g → n.w.toNat ≤ done → (∀ f ∈ (s.ctx s.focus).recf, f.eng = g → n.w.toNat < f.num) →
          exec (.twait p l e t) s = .next (after (sent [t] (.val (Reg.ofW (BitVec.ofNat 64 done)))) (.cmd none .confirm)))) ∧
      (∀ w e, e ≠ 3#2 → Ready s (.tread p l w e t) [] r →
        exec (.tread p l w e t) s = .next (after (sent [t] (.val (Reg.ofW (BitVec.ofNat 64
          (if w = 1#1 then (s.ctx s.focus).issue.get (Engine.ofNum e.toNat) else (s.ctx s.focus).done.get (Engine.ofNum e.toNat))))))
          (.cmd none .confirm))))

/-! ### The matrix and message engines' instructions -/

/-- R210 to R220: the ENGINE-M instructions check their tags, then their fields, `MSEAT` its rights before them, then the alignment of their local
address and that it lies in the local store, and are received with their number; nothing of the engine changes before their block
commits. What the spec leaves open in it is the model's choice: log 11. -/
def Obligations.MatrixInstructions : Prop :=
  ∀ (p : BitVec 2) (l : BitVec 5) (t : BitVec 7) (s : State) (r : Run), FreeTargets r [t] →
    let clean (w : Word64) : Prop := fldN w 1 39 = 0
    let checks (i : Instr) (tags fields : Prop) (a : Word64) (align n : Nat) (c : Cmd) : Prop :=
      (¬tags → Faults i s .tagFault 0#64 0#64) ∧
      (tags → ¬fields → Faults i s .matrixGeometry 0#64 0#64) ∧
      (tags → fields → a.toNat % align ≠ 0 → Faults i s .align a 0#64) ∧
      (tags → fields → a.toNat % align = 0 → 0x200000 < a.toNat + n → Faults i s .lsBounds a 0#64) ∧
      (tags → fields → a.toNat % align = 0 → a.toNat + n ≤ 0x200000 → Commands i s r .me l t c)
    (∀ g a, Ready s (.msetg p l g t) [a] r → checks (.msetg p l g t) (a.tag = .i64) True a.w 16 16 (.msetg g.toNat a.w.toNat)) ∧
    (∀ g c a w i kind, (kind = 0 ∧ i = Instr.mma p l g c t) ∨ (kind = 1 ∧ i = .mmaz p l g c t) ∨ (kind = 2 ∧ i = .mmaq p l g c t) →
      Ready s i [a, w] r → checks i (a.tag = .i64 ∧ w.tag = .i64) (clean w.w) a.w 32 1 (.mma kind c.toNat g.toNat a.w w.w)) ∧
    (∀ b a h, Ready s (.mldb p l b t) [a, h] r → checks (.mldb p l b t) (a.tag = .i64 ∧ h.tag = .i64)
      (fldN h.w 24 16 = 0 ∧ fldN h.w 0 20 = 0 ∧ fldN h.w 20 4 < 4) a.w 32 2048 (.mldb b.toNat a.w h.w)) ∧
    (∀ b, Ready s (.mplay p l b t) [] r → Commands (.mplay p l b t) s r .me l t (.mplay b.toNat)) ∧
    (∀ b, Ready s (.mrls p l b t) [] r → Commands (.mrls p l b t) s r .me l t (.mrls b.toNat)) ∧
    (∀ g c x, Ready s (.mst p l g c t) [x] r → checks (.mst p l g c t) (x.tag = .i64)
      (if bit x.w 63 = true then fldN x.w 13 50 = 0 ∧ fldN x.w 6 2 = 0 else fldN x.w 21 42 = 0)
      (if bit x.w 63 = true then 0#64 else x.w) 32 0 (.mst c.toNat g.toNat x.w (s.ctx s.focus).sat)) ∧
    (∀ c a w, Ready s (.mlda p l c t) [a, w] r →
      checks (.mlda p l c t) (a.tag = .i64 ∧ w.tag = .i64) (clean w.w) a.w 32 4096 (.mlda c.toNat a.w w.w)) ∧
    (∀ c w, Ready s (.mzero p l c t) [w] r →
      checks (.mzero p l c t) (w.tag = .i64) (clean w.w ∧ fldN w.w 48 16 = 0) 0#64 1 0 (.mzero c.toNat w.w)) ∧
    (∀ x c, Ready s (.mseat p l t) [x, c] r →
      let n := fldN x.w 8 8
      let tags : Prop := x.tag = .i64 ∧ (c.tag = .hndl ∨ (c.tag = .i64 ∧ n = 0))
      let tile := s.tile s.focus.die s.focus.tile
      let may : Prop := (s.focus.ctx = 0 ∧ tile.runs = true ∧ tile.task ≠ none) ∨ (s.ctx s.focus).super = true
      let fields : Prop := n = 0 ∨ (n ≤ 144 ∧ fldN x.w 0 8 < n ∧ fldN x.w 16 8 ≤ 143 ∧ fldN x.w 24 8 ≤ 143 ∧ fldN x.w 32 5 = 0)
      (tags → ¬may → Faults (.mseat p l t) s .rights 0#64 0#64) ∧
      (¬tags ∨ may → checks (.mseat p l t) tags fields 0#64 1 0 (.mseat x.w c.w)))

/-- R268 to R277: the sending instructions check tags, then reserved fields, then class and tile, then their allowance, then the alignment and the
bounds of their local source, and are received with their number; a card under allowance is charged to the record found; `REQ` waits for a free frame
of the reply mailbox, behind any that has waited longer, and reserves the lowest. R278 to R282: configurations, frames and exchange: tags, then their fields, then the alignment and the bounds of their local source. `FRGET` reads
mailbox state of the own tile, or waits for it; the others are received with their number. What the spec leaves open in it is the
model's choice: log 11. -/
def Obligations.MessageInstructions : Prop :=
  (∀ (p : BitVec 2) (l : BitVec 5) (u : BitVec 1) (n : BitVec 5) (t : BitVec 7) (s : State) (r : Run) (d x : Reg), FreeTargets r [t] →
     let tile := s.tile s.focus.die s.focus.tile
     let len := 16 * n.toNat
     let payload (w : Word64) (charged : Option Nat) (frame : Option Nat) : Cmd :=
       if x.tag = .i64 then .send w (some (x.w.toNat, len)) [] 0 charged frame (u == 1#1)
       else .send w none ((List.range 256).map fun j => fld x.bits (8 * j) 8) x.tag.num charged frame (u == 1#1)
     let carries : Prop := x.tag = .i64 ∨ (4 ≤ x.tag.num ∧ x.tag.num ≤ 14)
     let sized : Prop := x.tag = .i64 ∨ n = 16#5
     let checks (i : Instr) (payloadTag fixed : Prop) (cls : Nat) (rest : Prop) : Prop :=
       let tags : Prop := d.tag = .i64 ∧ payloadTag
       let fields : Prop := fldN d.w 4 12 = 0 ∧ fixed
       let named : Prop := fldN d.w 0 2 = cls ∧ fldN d.w 41 8 ≠ 255
       (¬tags → Faults i s .tagFault 0#64 0#64) ∧ (tags → ¬fields → Faults i s .reservedField 0#64 0#64) ∧
       (tags → fields → ¬named → Faults i s .rights 0#64 0#64) ∧ (tags → fields → named → rest)
     let source (i : Instr) (len : Nat) (rest : Prop) : Prop :=
       (x.tag = .i64 → x.w.toNat % 16 ≠ 0 → Faults i s .align x.w 0#64) ∧
       (x.tag = .i64 → x.w.toNat % 16 = 0 → 0x200000 < x.w.toNat + len → Faults i s .lsBounds x.w 0#64) ∧
       (x.tag ≠ .i64 ∨ (x.w.toNat % 16 = 0 ∧ x.w.toNat + len ≤ 0x200000) → rest)
     let allowed (i : Instr) (rest : Nat → Prop) : Prop :=
       (tile.alwFor d.w = none → Faults i s .rights 0#64 0#64) ∧
       ∀ j, tile.alwFor d.w = some j → ((look {} tile.alw j).alw < cardSlots len → Faults i s .cardTooLong 0#64 0#64) ∧
         (cardSlots len ≤ (look {} tile.alw j).alw → rest j)
     let send : Instr := .send p l u n t
     let sendq : Instr := .sendq p l u n t
     let req : Instr := .req p l u n t
     let reply : Instr := .reply p l u n t
     let xput : Instr := .xput p l u n t
     let long := 64 * (n.toNat + 1)
     (Ready s send [d, x] r → checks send carries sized 3 (source send len (Commands send s r .mse l t (payload d.w none none)))) ∧
     (Ready s sendq [d, x] r → checks sendq carries sized 3 (allowed sendq fun j =>
       source sendq len (Commands sendq s r .mse l t (payload d.w (some j) none)))) ∧
     (Ready s req [d, x] r → checks req carries sized 0 (
       ((s.ctx s.focus).src.inService = true → Faults req s .reqInService 0#64 0#64) ∧
       ((s.ctx s.focus).src.inService = false →
         (tile.replyMb = none → Faults req s .rights 0#64 0#64) ∧
         ∀ m, tile.replyMb = some m → allowed req fun j =>
           (tile.freeReply m = none ∨ s.replyQueue = true → (∀ w ∈ r.waits, w.index ≠ s.index) → exec req s = .next (s.updRun s.focus fun r =>
             { r with waits := r.waits ++ [{ index := s.index, kind := .replySlot, detail := BitVec.ofNat 64 m, since := s.cycle }] })) ∧
           ∀ f, tile.freeReply m = some f → s.replyQueue = false →
             let k := (tile.mb m).fbase + f
             let w := setFld (setFld d.w 16 15 f) 31 4 0
             source req len (exec req s = .next ((s.updTile s.focus.die s.focus.tile fun x =>
                 x.setPr k { x.pr k with reserved := true }).updRun s.focus fun y =>
               { fired y s.index (sent [t] (.val (Reg.ofW (BitVec.ofNat 64 ((s.ctx s.focus).numberOf r .mse l.toNat)))))
                   [⟨l.toNat, s.index, .cmd (some .mse) (payload w (some j) (some k))⟩] with provs := y.provs ++ [(s.index, .frame k)] }))))) ∧
     (Ready s reply [d, x] r → checks reply carries (sized ∧ fldN d.w 35 6 = 0) 1
       (source reply len (Commands reply s r .mse l t (payload d.w none none)))) ∧
     (Ready s xput [d, x] r → checks xput (x.tag = .i64) True 3 (
       (16 < fldN d.w 31 4 + (long + 255) / 256 → Faults xput s .cardTooLong 0#64 0#64) ∧
       (fldN d.w 31 4 + (long + 255) / 256 ≤ 16 →
         source xput long (Commands xput s r .mse l t (.xput d.w x.w.toNat long (u == 1#1)))))) ∧
     (∀ o, Ready s (.xamo p l u o t) [d, x] r → checks (.xamo p l u o t) (x.tag = .i64) (fldN d.w 34 7 = 0) 3
       (Commands (.xamo p l u o t) s r .mse l t (.xamo d.w x.w o.toNat (u == 1#1))))) ∧
  (∀ (p : BitVec 2) (l : BitVec 5) (t : BitVec 7) (s : State) (r : Run) (x a : Reg), FreeTargets r [t] →
     let tile := s.tile s.focus.die s.focus.tile
     let clean : Prop := fldN x.w 6 10 = 0 ∧ fldN x.w 31 33 = 0
     let checks (i : Instr) (tags fields : Prop) (rest : Prop) : Prop :=
       (¬tags → Faults i s .tagFault 0#64 0#64) ∧ (tags → ¬fields → Faults i s .reservedField 0#64 0#64) ∧ (tags → fields → rest)
     let source (i : Instr) (n align : Nat) (rest : Prop) : Prop :=
       (a.w.toNat % align ≠ 0 → Faults i s .align a.w 0#64) ∧
       (a.w.toNat % align = 0 → 0x200000 < a.w.toNat + n → Faults i s .lsBounds a.w 0#64) ∧
       (a.w.toNat % align = 0 → a.w.toNat + n ≤ 0x200000 → rest)
     let two : Prop := x.tag = .i64 ∧ a.tag = .i64
     (∀ k, Ready s (.mbxset p l k t) [x, a] r → checks (.mbxset p l k t) two
       ((k = 0#2 ∧ fldN x.w 6 58 = 0) ∨ (k = 1#2 ∧ fldN x.w 4 60 = 0) ∨ (k = 2#2 ∧ x.w.toNat ≤ 64))
       (source (.mbxset p l k t) (if k = 0#2 then 96 else 16) (if k = 0#2 then 32 else 16)
         (Commands (.mbxset p l k t) s r .mse l t (.mbxset k.toNat x.w a.w)))) ∧
     (∀ w, Ready s (.frget p l w t) [x] r → checks (.frget p l w t) (x.tag = .i64) clean (
       (w = 0#1 ∨ (tile.frame x.w).1 = true → Answers (.frget p l w t) s l [t] (Reg.ofW (tile.frame x.w).2) (.cmd none .confirm)) ∧
       (w = 1#1 → (tile.frame x.w).1 = false → (∀ w ∈ r.waits, w.index ≠ s.index) →
         exec (.frget p l w t) s = .next (s.updRun s.focus fun r => { r with waits := r.waits ++
           [{ index := s.index, kind := .mailbox, detail := BitVec.ofNat 64 (fldN x.w 0 6 * 2 ^ 15 + fldN x.w 16 15), since := s.cycle }] })))) ∧
     (Ready s (.frput p l t) [x, a] r →
       let m := (tile.mb (fldN x.w 0 6)).mode
       checks (.frput p l t) two (clean ∧ (m = 1 → a.w = 0#64) ∧ (m = 2 → 1 ≤ a.w.toNat ∧ a.w.toNat ≤ 255))
         (Commands (.frput p l t) s r .mse l t (.frput x.w a.w))) ∧
     (Ready s (.xroute p l t) [x, a] r → checks (.xroute p l t) two (fldN x.w 32 4 = 0)
       (source (.xroute p l t) (64 * (fldN ((s.die s.focus.die).xu.dest (fldN x.w 42 6)).w1 62 2 + 1)) 64
         (Commands (.xroute p l t) s r .mse l t (.xroute x.w a.w.toNat)))) ∧
     (Ready s (.xflush p l t) [x, a] r → checks (.xflush p l t) two (fldN x.w 6 57 = 0)
       (source (.xflush p l t) (if bit x.w 63 then 1024 else 16) 16
         (Commands (.xflush p l t) s r .mse l t (.xflush x.w a.w.toNat)))))

/-! ### Tasks, names, the system -/

/-- R312 to R320: `TDEC` and `TKILL` are received; `TSTAT` asks the record's hub for one word; `TJOIN` waits until the join has fired and gives its
word, 0 at once for a FREE slot, and faults in a handler; `TSPAWN` and `GINST` ask a hub to claim. What the spec leaves open in it is the
model's choice: log 47, log 50. -/
def Obligations.TaskInstructions : Prop :=
  ∀ (p : BitVec 2) (l : BitVec 5) (t : BitVec 7) (s : State) (r : Run) (x a : Reg),
    let id : BitVec 32 := fld x.w 0 32
    let hub := s.taskHub id
    let here := s.ctx s.focus
    let theirs (g : Nat) : Prop := g = here.region ∨ (here.super = true ∧ s.isAncestor here.region g = true)
    let known : Prop := fldN x.w 21 10 = s.moduleId % 1024 ∨ ∃ q ∈ s.requesters, q.2 = fldN x.w 21 10
    let mine : Prop := fldN x.w 31 33 = 0 ∧ known ∧ (s.stateOf hub (idSlot id) = 0 ∨ theirs (Rec.region (s.slot hub (idSlot id)).raw))
    x.tag = .i64 →
    (Ready s (.tdec p l) [x, a] r → a.tag = .i64 → mine →
      (1 ≤ a.w.toNat ∧ a.w.toNat ≤ 65535 → Receives (.tdec p l) s l (.cmd none (.tdec id a.w.toNat))) ∧
      (a.w.toNat = 0 ∨ 65535 < a.w.toNat → Faults (.tdec p l) s .reservedField 0#64 0#64)) ∧
    (∀ k, Ready s (.tkill p l k) [x] r → mine → Receives (.tkill p l k) s l (.cmd none (.tkill id (k == 1#1)))) ∧
    (∀ k, Ready s (.tkill p l k) [x] r → fldN x.w 31 33 ≠ 0 ∨ ¬known → Faults (.tkill p l k) s .rights 0#64 0#64) ∧
    (∀ k, Ready s (.tstat p l k t) [x] r → mine → k ≠ 3#2 →
      let y := (s.slot hub (idSlot id)).raw
      AsksAt (.tstat p l k t) s r hub (.stat (fldN x.w 0 16) k.toNat) (.cmd none .confirm) (.tokens (.val (Reg.ofW
        (if s.stateOf hub (idSlot id) = 0 then 0#64 else if k = 0#2 then fld y 0 64 &&& 0xFFFFFFFFFFFFF03F#64
          else if k = 1#2 then Rec.status y &&& 0xFFFFC000FFFFFFFF#64 else fld y 384 64))) none)
        none fun u => u) ∧
    (Ready s (.tjoin p l t) [x] r → s.focus.ctx ≠ 0 → Faults (.tjoin p l t) s .handlerWait 0#64 0#64) ∧
    (Ready s (.tjoin p l t) [x] r → s.focus.ctx = 0 → fldN x.w 32 32 = 0 → bit x.w 31 = true → hub < 32 → (s.die hub).live = true →
      let j := s.slot hub (idSlot id)
      FreeTargets r [t] → (j.kind = .join → theirs j.region) →
      ((j.kind = .join → bit j.raw 126 = true) →
        Answers (.tjoin p l t) s l [t] (Reg.ofW (if j.kind = .join then fld j.raw 0 64 else 0#64)) (.cmd none (.tjoined id))) ∧
      (j.kind = .join → bit j.raw 126 = false → (∀ w ∈ r.waits, w.index ≠ s.index) → exec (.tjoin p l t) s = .next (s.updRun s.focus fun r =>
        { r with waits := r.waits ++ [{ index := s.index, kind := .join, detail := id.setWidth 64, since := s.cycle }] }))) ∧
    (Ready s (.tspawn p l t) [x, a] r → a.tag = .i64 → x.w.toNat % 32 = 0 → x.w.toNat + 256 ≤ 0x200000 → fldN a.w 5 59 = 0 →
      (∀ y ∈ r.asked, y.1 ≠ s.index) → s.loadGate r false l.toNat = true →
      ∀ bs, s.loadLocal r l.toNat x.w.toNat 256 = some bs →
      let image : Vec := BitVec.ofNat 2048 (leNat bs)
      s.imageFault image = none →
      let d := a.w.toNat
      let written : Vec := setFld (setFld (setFld image 320 64 0) 384 128 0) 272 16 0
      let s1 := s.updRun s.focus fun r => { r with asked := r.asked ++ [(s.index, .cmd none .confirm)] }
      (d ≠ s.focus.die → Requests (.tspawn p l t) s r d (.ask (request s r (.spawn image))) (.cmd none .confirm) .tokens 0#64) ∧
      ∀ n u, s1.claim d 1 (Rec.region image) = some (n, u) → d = s.focus.die →
        Asks (.tspawn p l t) s r (.cmd none .confirm)
          (.tokens (.val (Reg.ofW ((s.taskId d n).setWidth 64))) none) (some (.spawn d n written)) fun _ => u) ∧
    (∀ y : Reg, y.tag = .hndl → Ready s (.ginst p l t) [y, x] r → s.tmplOk (hobj y.w) = true → (s.reach here.region y.w).isSome = true →
      let n := fldN (s.tmplRec (hobj y.w) 0) 40 8
      x.w.toNat % 8 = 0 → x.w.toNat + 8 * n ≤ 0x200000 → (∀ z ∈ r.asked, z.1 ≠ s.index) → s.loadGate r false l.toNat = true →
      ∀ bs, s.loadLocal r l.toNat x.w.toNat (8 * n) = some bs →
      let table := (List.range n).map fun i => BitVec.ofNat 64 (leNat ((bs.drop (8 * i)).take 8))
      (∀ h ∈ table, (s.reach here.region h).isSome = true) →
      let s1 := s.updRun s.focus fun r => { r with asked := r.asked ++ [(s.index, .cmd none .confirm)] }
      ∀ inst u, s1.claimInst s.focus.die here.region (hobj y.w) table none = some (inst, u) →
      Asks (.ginst p l t) s r (.cmd none .confirm) (.tokens (.val (Reg.ofW ((u.instId inst).setWidth 64))) none)
        (some (.inst s.focus.die inst.n)) fun _ => u)

/-- R338 to R348: the ENGINE-N instructions ask the hub that homes their name or object, or the die's own coordinator; an answer that grants something
holds it provisionally until the block commits. What the spec leaves open in it is the
model's choice: log 47. -/
def Obligations.NameInstructions : Prop :=
  ∀ (p : BitVec 2) (l : BitVec 5) (t : BitVec 7) (s : State) (r : Run) (x h : Reg),
    let here := s.ctx s.focus
    let home := s.nameHub x.w
    let owner := s.objHub (hobj x.w)
    let clean : Prop := fldN x.w 32 32 = 0 ∧ fldN x.w 6 11 = 0
    (∀ w n, Ready s (.nopen p l w n t) [x] r → x.tag = .i64 →
      (w = 1#1 → s.focus.ctx ≠ 0 → Faults (.nopen p l w n t) s .handlerWait 0#64 0#64) ∧
      ((w = 1#1 → s.focus.ctx = 0) → Requests (.nopen p l w n t) s r home (.openReq (request s r (.opn x.w (w == 1#1)))) (.cmd none .confirm) .opn x.w)) ∧
    (∀ o, Ready s (.nclose p l) [x] r → x.tag = .hndl → s.obj? x.w = some o → look 0 o.opens here.region ≠ 0 →
      AsksAt (.nclose p l) s r owner (.close x.w) (.cmd none .confirm) (.tokens .null none) (some (.close (hobj x.w) here.region)) fun u =>
        u.setObj (hobj x.w) { o with opens := put o.opens here.region (look 0 o.opens here.region - 1) }) ∧
    (Ready s (.nclose p l) [x] r → x.tag = .hndl → s.obj? x.w = none →
      AsksAt (.nclose p l) s r owner (.close x.w) (.cmd none .confirm) (.refused .rights) none id) ∧
    (let entry : Name := ((s.nd home).name? x.w).getD { key := x.w }
     let kept (u : State) : State := u.updNd home fun n => n.putName { entry with claims := entry.claims + 1 }
     (Ready s (.nbind p l) [x, h] r → x.tag = .i64 → h.tag = .hndl → (s.reach here.region h.w).isSome = true → (s.nd home).fullFor x.w = false →
       AsksAt (.nbind p l) s r home (.bind x.w (some h.w)) (.cmd none (.nbind x.w h.w)) (.tokens .null none)
         (some (.bind x.w (some (hobj h.w)) here.region)) fun u => (kept u).hold (hobj h.w)) ∧
     (Ready s (.nbind p l) [x, h] r → x.tag = .i64 → h.tag = .i64 → h.w = 0#64 → (s.nd home).fullFor x.w = false →
       AsksAt (.nbind p l) s r home (.bind x.w none) (.cmd none (.nbind x.w 0#64)) (.tokens .null none)
         (some (.bind x.w none here.region)) kept)) ∧
    (∀ k, Ready s (.nqry p l k t) [x] r →
      let asks (d : Nat) (w : Word64) : Prop :=
        AsksAt (.nqry p l k t) s r d (.query k.toNat x.w) (.cmd none .confirm) (.tokens (.val (Reg.ofW w)) none) none id
      (k = 2#2 → x.tag = .hndl → ∀ o, s.obj? x.w = some o → asks owner (BitVec.ofNat 64 o.refs)) ∧
      (k = 1#2 → x.tag = .i64 → ∀ n, (s.nd home).name? x.w = some n → asks home (BitVec.ofNat 64 n.gen)) ∧
      (k = 0#2 → x.tag = .i64 → ∀ n, (s.nd home).name? x.w = some n → asks home (BitVec.ofNat 64
        ((match n.state with | .unbound => 0 | .bound => 1 | .prepared => 2) * 2 ^ 62 + n.obj.toNat))) ∧
      (k = 0#2 ∨ k = 1#2 → x.tag = .i64 → (s.nd home).name? x.w = none → asks home 0#64)) ∧
    (Ready s (.ntxb p l t) [] r →
      let s1 := s.updRun s.focus fun r => { r with asked := r.asked ++ [(s.index, .cmd none .confirm)] }
      s.txnsKept s.focus.die = false → ∀ res prov u, txnClaim s1 = (res, some prov, u) →
        Asks (.ntxb p l t) s r (.cmd none .confirm) res (some prov) fun _ => u) ∧
    (∀ y z, Ready s (.ntxa l) [x, y, h] r → clean → x.tag = .i64 → y.tag = .i64 → s.ownTxn x.w = some z →
      ((z.entries.map (·.1) ++ z.asked).eraseDups).length < 64 →
      let asks (w : Word64) (held : State → State) : Prop :=
        Asks (.ntxa l) s r (.cmd none (.ntxa (x.w.toNat % 64) y.w w)) (.tokens .null none) (some (.txnAdd z.id s.focus z.runNo y.w w))
          fun u => held (u.updTxn s.focus.die z.id fun v => { v with asked := v.asked ++ [y.w] })
      (h.tag = .hndl → h.w ≠ 0#64 → (s.obj? h.w).isSome = true → asks h.w fun u => u.hold (hobj h.w)) ∧
      (h.tag = .hndl → h.w ≠ 0#64 → s.obj? h.w = none → asks h.w id) ∧
      (h.tag = .i64 → h.w = 0#64 → s.obj? 0#64 = none → asks 0#64 id)) ∧
    (∀ z, Ready s (.ntxc p l t) [x] r → clean → x.tag = .i64 → t ≠ 0x7F#7 → r.tok t.toNat = none → r.reserved.contains t.toNat = false →
      s.ownTxn x.w = some z →
      Asks (.ntxc p l t) s r (.cmd none (.ntxc (x.w.toNat % 64) t)) (.tokens .null none) none fun u =>
        u.updRun u.focus fun r => { r with reserved := r.reserved ++ [t.toNat] }) ∧
    (∀ i, i = Instr.ntxc p l t ∨ i = .ntxx p l → Ready s i [x] r → x.tag = .i64 → ¬clean → Faults i s .reservedField 0#64 0#64) ∧
    (∀ z, Ready s (.ntxx p l) [x] r → clean → x.tag = .i64 → s.ownTxn x.w = some z →
      Asks (.ntxx p l) s r (.cmd none (.ntxx (x.w.toNat % 64))) (.tokens .null none) none id) ∧
    (Ready s (.nsnap p l t) [x] r → x.tag = .hndl →
      Requests (.nsnap p l t) s r owner (.snapReq (request s r (.snap x.w))) (.cmd none .confirm) .tokens 0#64) ∧
    (Ready s (.nmake p l t) [x] r → x.tag = .i64 → x.w.toNat % 64 = 0 → x.w.toNat + 64 ≤ 0x200000 → (∀ y ∈ r.asked, y.1 ≠ s.index) →
      s.loadGate r false l.toNat = true → ∀ bs, s.loadLocal r l.toNat x.w.toNat 64 = some bs →
      let s1 := s.updRun s.focus fun r => { r with asked := r.asked ++ [(s.index, .cmd none .confirm)] }
      ∀ made u, s1.makeObj s.focus.die here.region (BitVec.ofNat 512 (leNat bs)) = .ok (made, u) →
        Asks (.nmake p l t) s r (.cmd none .confirm) (.tokens (.val (Reg.ofH (handleOf made (u.objOf made).inc))) none)
          (some (.made made here.region)) fun _ => u)

/-- R359 to R365: the SYS instructions but `BKPT`, with their checks in order. `SVC` asks the die's firmware, and faults `HANDLER_WAIT` in a handler
without the supervisor bit. `CTXSV` and `CTXRS` are received for another context of the tile that is FAULTED, `CTXRS` also for an IDLE one but context
0: a context that is none or the own one is a reserved field, a phase that does not admit it `RIGHTS`, the address is judged, `CTXSV` waits until
the timelines of the context are complete, `CTXRS` judges the image and, for context 0, the task. `TLBI` is received. What the spec leaves open in it
is the model's choice: log 11, log 17, log 18. -/
def Obligations.SystemInstructions : Prop :=
  ∀ (p : BitVec 2) (l : BitVec 5) (t : BitVec 7) (s : State) (r : Run) (c a : Reg),
    let n := c.w.toNat
    let other := s.ctx { s.focus with ctx := n }
    let size := 512 + 256 * (if n = 0 then 128 else 32)
    let words : Prop := c.tag = .i64 ∧ a.tag = .i64
    let checks (i : Instr) (tags fields rights : Prop) (rest : Prop) : Prop :=
      (¬tags → Faults i s .tagFault 0#64 0#64) ∧ (tags → ¬fields → Faults i s .reservedField 0#64 0#64) ∧
      (tags → fields → ¬rights → Faults i s .rights 0#64 0#64) ∧ (tags → fields → rights → rest)
    let place (i : Instr) (rest : Prop) : Prop :=
      (a.w.toNat % 32 ≠ 0 → Faults i s .align a.w 0#64) ∧
      (a.w.toNat % 32 = 0 → 0x200000 < a.w.toNat + size → Faults i s .lsBounds a.w 0#64) ∧
      (a.w.toNat % 32 = 0 → a.w.toNat + size ≤ 0x200000 → rest)
    let another : Prop := n < 8 ∧ n ≠ s.focus.ctx
    (Ready s (.svc p l t) [c, a] r → checks (.svc p l t) words (n < 2 ^ 16) True (
      (s.focus.ctx ≠ 0 → (s.ctx s.focus).super = false → Faults (.svc p l t) s .handlerWait 0#64 0#64) ∧
      (s.focus.ctx = 0 ∨ (s.ctx s.focus).super = true → ∀ w, s.service s.focus n a.w.toNat = some w →
        Asks (.svc p l t) s r (.cmd none (.svc c.w a.w)) (.tokens (.val (Reg.ofW w)) none) none id))) ∧
    (Ready s (.ctxsv p l) [c, a] r → checks (.ctxsv p l) words another (other.phase = .faulted) (place (.ctxsv p l) (
      (other.done = other.issue → Receives (.ctxsv p l) s l (.cmd none (.ctxsv n a.w.toNat))) ∧
      ∀ g : Engine, other.done.get g ≠ other.issue.get g → (∀ h : Engine, h.num < g.num → other.done.get h = other.issue.get h) →
        (∀ w ∈ r.waits, w.index ≠ s.index) → exec (.ctxsv p l) s = .next (s.updRun s.focus fun r =>
          { r with waits := r.waits ++ [{ index := s.index, kind := .timeline, detail := BitVec.ofNat 64 g.num, since := s.cycle }] })))) ∧
    (Ready s (.ctxrs p l) [c, a] r → s.loadGate r false l.toNat = true →
      checks (.ctxrs p l) words another (other.phase = .faulted ∨ (n ≠ 0 ∧ other.phase = .idle)) (place (.ctxrs p l) (
        ∀ image, s.loadLocal r l.toNat a.w.toNat size = some image →
          let its : Prop := n = 0 → fld (imageWord image 0) 32 32 = s.taskOn s.focus
          (imageOk n image = false → Faults (.ctxrs p l) s .reservedField 0#64 0#64) ∧
          (imageOk n image = true → ¬its → Faults (.ctxrs p l) s .rights 0#64 0#64) ∧
          (imageOk n image = true → its → Receives (.ctxrs p l) s l (.cmd none (.ctxrs n image)))))) ∧
    (∀ k, Ready s (.tlbi p l k) [c, a] r →
      checks (.tlbi p l k) ((c.tag = .hndl ∨ (c.tag = .i64 ∧ c.w = 0#64)) ∧ a.tag = .i64) (-1 ≤ a.w.toInt)
        (c.tag = .hndl → (s.obj? c.w).isSome = true)
        (Receives (.tlbi p l k) s l (.cmd none (.tlbi k.toNat (if c.tag = .hndl then c.w else 0#64) a.w))))

/-! ### Blocks and contexts -/

/-- R84, R88: a running context without a block fetches the block at its offset of its code object, or faults with the fetch mark: a code object that
its region does not reach or without the code bit gives `RIGHTS`, an offset that is no multiple of 32 `ALIGN`, in this order; while no route leads to
its memory it waits (11_tensor_access.md R387). -/
def Obligations.BlockFetch : Prop :=
  ∀ (s : State),
    let p := s.focus
    let c := s.ctx p
    let fails (k : Cause) : Prop := exec .blockFetch s = .next (s.raiseFault p { cause := k, fetch := true, d0 := c.block.setWidth 64 })
    c.phase = .running → c.frozen = false → c.atBarrier = none → c.run = none → (s.die p.die).halt = none → (s.die p.die).stopped = false →
    s.saving p.die p.tile = false →
    (∀ ws, s.fetchBlock (s.tile p.die p.tile) c.region c.code c.block.toNat = .ok ws → s.fetchOpen p = true →
      exec .blockFetch s = .next (s.updCtx p fun c => { c with run := some { words := ws } })) ∧
    (s.fetchOpen p = false → exec .blockFetch s = .next s) ∧
    (s.reach c.region c.code = none → fails .rights) ∧
    (∀ o, s.reach c.region c.code = some o →
      (Desc.code o.desc = false → fails .rights) ∧
      (Desc.code o.desc = true → c.block.toNat % 32 ≠ 0 → fails .align) ∧
      (Desc.code o.desc = true → c.block.toNat % 32 = 0 → Desc.bytes (s.objOf (hobj c.code)).desc < c.block.toNat + 32 → fails .window))

/-- R66, R89: a fetched block that passes the checks becomes live, and its read entries deliver their registers' values to the targets they name; a block
that fails a check faults with that check's cause and index. No register and no byte of memory changes. A task's entry block is not decoded while a
handle of the task has not filled its landing entry (24_prog_diamond.md R322). R98: a read entry without RU, and one whose recorded token has been invalidated, delivers the register's present value. R66: the checks of a block come in their order: the header, the KIND of a start and the entries, then the lowest undefined opcode, then the lowest word
with a reserved field, then the lowest supervisor word in a user context, then the block as a whole: LSIDs unique, as many counted instructions as
NCNT says, every slot named, every read entry at a slot that its instruction takes, an exit. -/
def Obligations.BlockDecoding : Prop :=
  (∀ (s : State) (r : Run),
     let p := s.focus
     let c := s.ctx p
     c.run = some r → r.live = false →
     c.phase = .running → c.frozen = false → c.atBarrier = none → (s.die p.die).halt = none → (s.die p.die).stopped = false →
     s.saving p.die p.tile = false →
     (s.handlesDue p = true → exec .blockDecode s = .next s) ∧ (s.handlesDue p = false →
     (∀ k i h, r.decodeFault p.ctx c.super c.kind = some (k, i, h) →
       exec .blockDecode s = .next (s.raiseFault p { cause := k, index := i, hdr := h })) ∧
     (r.decodeFault p.ctx c.super c.kind = none → r.tokens = [] → r.reserved = [] →
       (∀ j < r.nrd, c.port (r.rdReg j) = none) →
       (∀ i < r.nrd, ∀ j < r.nrd, r.rdTarget i = r.rdTarget j → r.rdTarget i = 0x7F ∨ i = j) →
       ∃ t r', exec .blockDecode s = .next t ∧ (t.ctx p).run = some r' ∧ r'.words = r.words ∧ r'.live = true ∧ r'.decodedAt = s.cycle ∧
         r'.issueAt = c.issue ∧ r'.fired = r.fired ∧
         (∀ j < r.nrd, r.rdTarget j ≠ 0x7F → r'.tok (r.rdTarget j) = some (c.readToken r j)) ∧
         t.mem = s.mem ∧ (∀ q, SameRegisters (s.ctx q) (t.ctx q))) ∧
     (∀ g e l, r.decodeFault p.ctx c.super c.kind = none → r.tokens = [] → r.reserved = [] → r.pops = [] → r.nrd = 1 → r.rdTarget 0 ≠ 0x7F →
       c.port (r.rdReg 0) = some g → ((s.tile p.die p.tile).ag g).ahead = e :: l →
       ∃ t r', exec .blockDecode s = .next t ∧ (t.ctx p).run = some r' ∧ r'.live = true ∧ r'.tok (r.rdTarget 0) = some (.val e) ∧ r'.pops = [g]))) ∧
  (∀ (c : Ctx) (r : Run) (j : Nat),
     (r.rdReuse j = false → c.readToken r j = .val (c.reg (r.rdReg j))) ∧
     ((∀ x ∈ c.reuse, x.2.2.2.1 ≠ r.rdReg j) → c.readToken r j = .val (c.reg (r.rdReg j)))) ∧
  (∀ (r : Run) (ctx : Nat) (super : Bool),
     let illegal (k : Nat) : Prop := decodeWord (r.word k) = .error .illegalOpcode
     (r.headerOk = false ∨ r.entriesOk ctx = false → r.decodeFault ctx super none = some (.reservedField, none, true)) ∧
     (r.headerOk = true → r.entriesOk ctx = true →
       (∀ k < r.size, illegal k → (∀ j < k, ¬illegal j) → r.decodeFault ctx super none = some (.illegalOpcode, some k, false)) ∧
       ((∀ k < r.size, ¬illegal k) →
         (∀ k < r.size, r.wordOk ctx k = false → (∀ j < k, r.wordOk ctx j = true) → r.decodeFault ctx super none = some (.reservedField, some k, false)) ∧
         ((∀ k < r.size, r.wordOk ctx k = true) →
           (∀ k < r.size, ∀ i, r.instr k = some i → supervisorOnly i = true → (∀ j < k, ∀ i, r.instr j = some i → supervisorOnly i = false) →
             super = false → r.decodeFault ctx super none = some (.privileged, some k, false)) ∧
           (super = true ∨ (∀ k < r.size, ∀ i, r.instr k = some i → supervisorOnly i = false) →
             let whole : Prop :=
               (∀ j < r.size, ∀ k < r.size, ∀ l, (r.shape j).lsid = some l → (r.shape k).lsid = some l → j = k) ∧
               r.ncnt = ((List.range r.size).filter fun k => (r.shape k).counted).length ∧
               (∀ k < r.size, ∀ n < 3, (r.shape k).takes n = true → 32 * n + k ∈ r.allTargets) ∧
               (∀ j < r.nrd, r.rdTarget j ≠ 0x7F → (r.shape (r.rdTarget j % 32)).takes (r.rdTarget j / 32) = true) ∧
               ∃ k < r.size, (r.shape k).isExit = true
             (¬whole → r.decodeFault ctx super none = some (.reservedField, none, true)) ∧ (whole → r.decodeFault ctx super none = none))))) ∧
     ∀ b : BitVec 2, (r.kindBits ≠ b.toNat → r.decodeFault ctx super (some b) = some (.reservedField, none, true)) ∧
       (r.kindBits = b.toNat → r.decodeFault ctx super (some b) = r.decodeFault ctx super none))

/-- R93, R94, R103, R104: a block without counted operations commits by a branch: each of its write entries that holds a value writes its register, the
high bits that its tag does not use as zero (02_numbers.md R25), one
that holds a null leaves it, `LASTEXIT` and the next block are the exit's; no other register, special register, timeline or byte of memory changes, but
that under `ROUND` 4 `SRSEED` moves on. -/
def Obligations.CommitRegisters : Prop :=
  ∀ (s : State) (r : Run) (e : FiredExit) (b : BitVec 32),
    let p := s.focus
    let c := s.ctx p
    Placed s → Committable s r e → Plain s r → r.counted = [] → e.kind = .branch b →
    (∀ i < r.nwr, ∀ j < r.nwr, r.wrReg i = r.wrReg j → i = j) →
    ∃ t, exec .blockCommit s = .next t ∧ (t.ctx p).run = none ∧ (t.ctx p).block = b ∧ (t.ctx p).lastExit = BitVec.ofNat 3 e.num ∧
      (t.ctx p).phase = .running ∧
      (∀ j < r.nwr, ∀ v, r.tok (0x60 + j) = some (.val v) → (t.ctx p).reg (r.wrReg j) = { v with bits := v.tag.keep v.bits }) ∧
      (∀ g, (∀ j < r.nwr, r.wrReg j = g → r.tok (0x60 + j) = some .null) → (t.ctx p).reg g = c.reg g) ∧
      (c.round ≠ 4 → (t.ctx p).srseed = c.srseed) ∧ (t.ctx p).round = c.round ∧ (t.ctx p).sat = c.sat ∧ (t.ctx p).ras = c.ras ∧
      (t.ctx p).spilled = c.spilled ∧ (t.ctx p).rasptr = c.rasptr ∧ (t.ctx p).raslim = c.raslim ∧ (t.ctx p).hops = c.hops ∧
      (t.ctx p).fctx = c.fctx ∧ (t.ctx p).fresume = c.fresume ∧ (t.ctx p).code = c.code ∧ (t.ctx p).region = c.region ∧
      (t.ctx p).super = c.super ∧ (t.ctx p).done = c.done ∧ (t.ctx p).issue = c.issue ∧ (t.ctx p).tmoBlock = c.tmoBlock ∧ (t.ctx p).tmoWait = c.tmoWait ∧ (t.ctx p).faultRec = c.faultRec ∧
      t.mem = s.mem ∧ ∀ q : Place, q.ok = true → q ≠ p → SameRegisters (s.ctx q) (t.ctx q)

/-- R94, R155, R161: a block whose counted operations are local commits: they are performed in increasing LSID order, so of two stores to one address the
one with the higher LSID stays; every byte that none of them stores to reads as before. What each counted operation does when it is performed (R94, R97, R99, R124, R161, 01_machine.md R17, 12_tae_instructions.md R190): a local store writes
its bytes, an atomic its new value and gives the old one, `LAND` frees its entry, `MTS` writes its register, a command without effect takes
its number and completes it, and a fence waits for the numbers issued. What the spec leaves open in it is the
model's choice: log 7, log 15. -/
def Obligations.CommitOperations : Prop :=
  (∀ (s : State) (r : Run) (e : FiredExit) (b : BitVec 32),
     let p := s.focus
     Committable s r e → Plain s r → e.kind = .branch b → (∀ x ∈ r.counted, isLocal x.op = true) →
     ∃ t, exec .blockCommit s = .next t ∧ (t.ctx p).run = none ∧ (t.ctx p).block = b ∧
       SameOutside s.mem t.mem (r.counted.flatMap fun x => localStores s x.op) ∧
       (∀ l k a bs, r.counted = [⟨l, k, .storeLocal a bs⟩] → Holds t.mem (lsKey p.die p.tile a) bs) ∧
       (∀ l m k j a xs ys, l < m → xs.length = ys.length → r.counted = [⟨m, k, .storeLocal a ys⟩, ⟨l, j, .storeLocal a xs⟩] →
         Holds t.mem (lsKey p.die p.tile a) ys) ∧
       (∀ l k n v, r.counted = [⟨l, k, .mts n v⟩] → n = 0x010 → (t.ctx p).round = if v.toNat % 8 < 5 then v.toNat % 8 else 0) ∧
       (∀ l k n, r.counted = [⟨l, k, .land n⟩] → ((t.tile p.die p.tile).lb n).full = false)) ∧
  (∀ (s : State) (p : Place),
     let here (a : Nat) := lsKey p.die p.tile a
     (∀ a bs, let t := (s.performOne p (.storeLocal a bs)).2
       (s.performOne p (.storeLocal a bs)).1 = true ∧ Holds t.mem (here a) bs ∧ SameOutside s.mem t.mem [(here a, bs.length)] ∧
       t.tiles = s.tiles ∧ t.dies = s.dies) ∧
     (∀ a n op v (dst : BitVec 7), n = 4 ∨ n = 8 → s.badAt (here a) n = false → dst ≠ 0x7F#7 →
       let old := leNat (s.readLs p a n)
       let t := (s.performOne p (.amoLocal a n op v dst)).2
       leNat (t.readLs p a n) = amoValue op n old v.toNat % 2 ^ (8 * n) ∧ SameOutside s.mem t.mem [(here a, n)] ∧
       ∀ r, (s.ctx p).run = some r → (t.ctx p).run = some { r with tokens := r.tokens ++
         [(dst.toNat, .val (Reg.ofW (BitVec.ofInt 64 (sgnN (8 * n) old))))] }) ∧
     (∀ a n ex v (dst : BitVec 7), n = 4 ∨ n = 8 → s.badAt (here a) n = false →
       let old := leNat (s.readLs p a n)
       let t := (s.performOne p (.casLocal a n ex v dst)).2
       leNat (t.readLs p a n) = (if old = ex.toNat % 2 ^ (8 * n) then v.toNat % 2 ^ (8 * n) else old) ∧
       SameOutside s.mem t.mem [(here a, n)]) ∧
     (∀ k, (((s.performOne p (.land k)).2.tile p.die p.tile).lb k).full = false) ∧
     (∀ n v, s.performOne p (.mts n v) = (true, s.updCtx p fun c => c.setSreg p.ctx n v)) ∧
     (∀ e, s.performOne p (.idle (some e)) = (true, (s.updCtx p fun c => { c with issue := c.issue.set e (c.issue.get e + 1) }).complete p e
       ((s.ctx p).issue.get e + 1) none)) ∧
     (∀ e o sc, (s.performOne p (.fence e o sc)).1 = true ↔ ∀ g : Engine, e.getLsbD g.num = true → (s.ctx p).issue.get g ≤ (s.ctx p).done.get g) ∧
     (∀ n a, s.badAt (here a) 64 = false →
       look 0#512 ((s.performOne p (.cmd none (.csetg n a))).2.tile p.die p.tile).cgs n = BitVec.ofNat 512 (leNat (s.readLs p a 64))))

/-- The exits' effects at commit (R94 step 4, R96, R105 to R111), for a block without counted operations and write entries: a call pushes the next sequential
block, a return goes to the newest return address, `TEXIT` begins to drain, `HRET` ends the handler, `ERET` ends the trap handler and resumes the context that
`FCTX` names, a barrier of several tiles sends an arrival and waits. -/
def Obligations.ExitEffects : Prop :=
  ∀ (s : State) (r : Run) (e : FiredExit),
    let p := s.focus
    let c := s.ctx p
    Committable s r e → Plain s r → r.counted = [] → r.nwr = 0 →
    (∀ b, e.kind = .call b → c.ras.length < 16 →
      ∃ t, exec .blockCommit s = .next t ∧ (t.ctx p).block = b ∧ (t.ctx p).ras = c.ras ++ [c.block + BitVec.ofNat 32 (32 + 4 * r.size)] ∧ t.mem = s.mem) ∧
    (∀ a l, e.kind = .ret → c.ras = l ++ [a] →
      ∃ t, exec .blockCommit s = .next t ∧ (t.ctx p).block = a ∧ (t.ctx p).ras = l ∧ t.mem = s.mem) ∧
    (e.kind = .ret → c.ras = [] → c.spilled = 0 → exec .blockCommit s = .next (s.faultAt p (some e.index) .rasUnderflow 0#64 0#64)) ∧
    (∀ n, e.kind = .texit n → ∃ t, exec .blockCommit s = .next t ∧ (t.ctx p).phase = .draining ∧ (t.ctx p).texit = n ∧ t.mem = s.mem) ∧
    (e.kind = .hret → c.trapRun = false → ∃ t, exec .blockCommit s = .next t ∧ (t.ctx p).phase = .idle ∧ (t.ctx p).run = none ∧ t.mem = s.mem) ∧
    (e.kind = .eret → c.trapRun = true → c.fended.contains c.fctx = false → c.fctx.toNat ≠ p.ctx →
      let q : Place := { p with ctx := c.fctx.toNat }
      (s.ctx q).phase = .faulted →
      ∃ t, exec .blockCommit s = .next t ∧ (t.ctx p).phase = .idle ∧ (t.ctx q).phase = .running ∧ (t.ctx q).block = c.fresume ∧
        (t.ctx q).regs = (s.ctx q).regs ∧ (t.ctx q).run = none) ∧
    (∀ b x, e.kind = .barrier b → (s.slot p.die (idSlot (s.taskOn p))).rect = some x → 1 < (s.liveTiles p.die x).length →
      ∃ t, exec .blockCommit s = .next t ∧ (t.ctx p).block = b ∧ (t.ctx p).barriers = c.barriers + 1 ∧
        (t.ctx p).atBarrier = some (c.barriers + 1, s.cycle) ∧
        (t.die p.die).td.arrivals = (s.die p.die).td.arrivals ++ [(idSlot (s.taskOn p), c.barriers + 1, x.rank p.tile)])

/-- TAKING A FAULT (R95, R352, R353, R367): the faulting context becomes FAULTED, its block is abandoned and does nothing, a record is written that names the block,
the context, the instruction's index, the cause, the task, the privilege and the cycle, and `FAULTREC` takes the record's word 0 without the context's number. Its registers
stay as they were, and so does every other context of the tile and all of memory. R353 to R355, R361: four cycles after a fault its record fills the context's landing entry, tagged VI32, once that is FREE, and a trap start is queued where
the region has a trap handler; without one, a handler context is ended at once, and the record, which then starts no trap, is kept to be written. What
the spec leaves open in it is the model's choice: log 13. -/
def Obligations.FaultEntry : Prop :=
  (∀ (s : State) (p : Place) (r : FaultRec), p.ok = true → (∀ x, (s.ctx p).run = some x → x.provs = []) →
     let c := s.ctx p
     let t := s.raiseFault p r
     let f : FaultRec := { r with ctx := p.ctx, block := c.block, code := c.code, priv := c.super, region := c.region, cycle := s.cycle
                                  task := s.taskOn p, noTrap := r.cause == Cause.bkpt && (s.die p.die).dbgen }
     (t.ctx p).phase = .faulted ∧ (t.ctx p).run = none ∧ (t.ctx p).fault = some f ∧ (t.ctx p).pend = c.pend ++ [f] ∧
     ((t.ctx p).faultRec = BitVec.ofNat 64 (c.block.toNat * 2 ^ 32 + b2n r.index.isSome * 2 ^ 15 + r.index.getD 0 % 32 * 2 ^ 8 + r.cause.code)) ∧
     SameRegisters c (t.ctx p) ∧ (∀ q : Place, q.ok = true → q ≠ p → t.ctx q = s.ctx q) ∧ t.mem = s.mem) ∧
  (∀ (s : State) (r : FaultRec) (rest : List FaultRec),
     let p := s.focus
     let c := s.ctx p
     let x := s.tile p.die p.tile
     let code := rcbWord (s.eff r.region 13) 4
     let due : Prop := r.cycle + 4 ≤ s.cycle ∧ (x.lb (48 + p.ctx)).full = false
     let written (t : State) : Prop := (t.ctx p).pend = rest ∧ t.mem = s.mem ∧
       ((t.tile p.die p.tile).lb (48 + p.ctx)).full = true ∧ ((t.tile p.die p.tile).lb (48 + p.ctx)).tag = .vi32 ∧
       ((t.tile p.die p.tile).lb (48 + p.ctx)).bits = (r.reg (tileWord s.moduleId p.die p.tile)).bits
     c.pend = r :: rest → (s.die p.die).stopped = false → (c.phase = .faulted → c.fault = some r) →
     let word (k : Nat) : Word64 := fld (r.reg (tileWord s.moduleId p.die p.tile)).bits (64 * k) 64
     (word 0 = r.word0 ∧ word 1 = r.word1 ∧ word 2 = r.code ∧ word 3 = r.d0 ∧ word 4 = r.d1 ∧ word 5 = BitVec.ofNat 64 r.cycle ∧
       word 6 = tileWord s.moduleId p.die p.tile ∧ word 7 = BitVec.ofNat 64 (r.region % 4096)) ∧
     (due → r.noTrap = false → c.trapRun = false → code ≠ 0#64 → (s.obj? code).isSome = true → (∀ y ∈ x.trapQ, y.ctx ≠ p.ctx) →
       ∃ t, exec .faultRecordWrite s = .next t ∧ written t ∧ (t.tile p.die p.tile).trapQ = x.trapQ ++ [⟨p.ctx, r⟩]) ∧
     (due → r.noTrap = true → ∃ t, exec .faultRecordWrite s = .next t ∧ written t ∧ (t.tile p.die p.tile).trapQ = x.trapQ) ∧
     (r.noTrap = false → c.trapRun = false → code = 0#64 → p.ctx ≠ 0 → c.phase = .faulted →
       ∃ t, exec .faultRecordWrite s = .next t ∧ (t.ctx p).phase = .idle ∧ { r with noTrap := true } ∈ (t.ctx p).pend ∧
         (t.tile p.die p.tile).trapQ = x.trapQ ∧ t.mem = s.mem))

/-- R83, R86, R100, R101: the oldest start request is taken by the lowest IDLE context of 1 to 7, which runs at USER from the entry block with the request's two words
in g0 and g1 and every other register EMPTY; R354: a trap start gives the trap handler SUPER, g0 the entry's offset in the tile's window, g1 the record's
word 0, `FCTX` and `FRESUME`. No byte of memory changes. What the spec leaves open in it is the
model's choice: log 16. -/
def Obligations.HandlerAndTrapStarts : Prop :=
  ∀ (s : State) (n : Nat),
    let d := s.focus.die
    let x := s.tile d s.focus.tile
    let p : Place := ⟨d, s.focus.tile, n⟩
    x.idleCtx = some n → (s.die d).stopped = false → (s.die d).halt = none → s.saving d s.focus.tile = false →
    (1 ≤ n ∧ n ≤ 7 ∧ (s.ctx p).phase = .idle ∧ ∀ k, 1 ≤ k → k < n → (s.ctx { p with ctx := k }).phase ≠ .idle) ∧
    (∀ q rest, x.startQ = q :: rest → x.trapQ = [] →
      ∃ t, exec .handlerStart s = .next t ∧ (t.tile d s.focus.tile).startQ = rest ∧ (t.ctx p).phase = .running ∧ (t.ctx p).super = false ∧
        (t.ctx p).code = q.code ∧ (t.ctx p).block = q.block ∧ (t.ctx p).region = q.region ∧ (t.ctx p).reg 0 = Reg.ofW q.g0 ∧
        (t.ctx p).reg 1 = Reg.ofW q.g1 ∧ (∀ g, 2 ≤ g → (t.ctx p).reg g = {}) ∧ (t.ctx p).ras = [] ∧ t.mem = s.mem) ∧
    (∀ a, x.trapQ = [a] →
      let b := s.eff a.rec_.region 13
      ∃ t, exec .trapStart s = .next t ∧ (t.tile d s.focus.tile).trapQ = [] ∧ (t.ctx p).phase = .running ∧ (t.ctx p).super = true ∧
        (t.ctx p).code = rcbWord b 4 ∧ (t.ctx p).block = fld b (5 * 64 + 32) 32 ∧
        (t.ctx p).reg 0 = Reg.ofW (BitVec.ofNat 64 (0x1000000 + 256 * (48 + a.rec_.ctx))) ∧ (t.ctx p).reg 1 = Reg.ofW a.rec_.word0 ∧
        (t.ctx p).fctx = BitVec.ofNat 3 a.rec_.ctx ∧ (t.ctx p).fresume = a.rec_.block ∧ t.mem = s.mem)

/-- R84, R95, R107, R108, R109, R179: the limits of a block and of a wait fault it; the last arrival of a barrier lets its tiles go on; a drained context reports its
part done. What the spec leaves open in it is the
model's choice: log 14, log 16. -/
def Obligations.ContextLimitsAndBarriers : Prop :=
  ∀ (s : State),
    let p := s.focus
    let c := s.ctx p
    (∀ r, c.run = some r → c.phase = .running → (s.die p.die).stopped = false → s.haltCovers p.die c.region = false → r.live = true →
      r.committing = false → r.decodedAt + c.tmoBlock.toNat ≤ s.cycle → exec .blockStallTimeout s = .next (s.faultAt p none .blockStall 0#64 0#64)) ∧
    (∀ r, c.run = some r → s.cycle < r.decodedAt + c.tmoBlock.toNat → exec .blockStallTimeout s = .next s) ∧
    (∀ r w, c.run = some r → c.phase = .running → (s.die p.die).stopped = false → s.haltCovers p.die c.region = false →
      s.saving p.die p.tile = false → r.live = true → r.committing = false → s.cycle < r.decodedAt + c.tmoBlock.toNat →
      r.waits = [w] → w.index = s.index → w.kind ≠ .tokens → w.kind ≠ .opn → w.since + c.tmoWait.toNat < s.cycle →
      exec .waitTimeoutExpiry s = .next ((s.dropWindowReq p r.serial w.index).faultAt p (some w.index) .waitTimeout (BitVec.ofNat 64 w.kind.num) w.detail)) ∧
    (∀ k since, c.run = none → c.atBarrier = some (k, since) → c.phase = .running → (s.die p.die).stopped = false →
      s.haltCovers p.die c.region = false → s.saving p.die p.tile = false → since + c.tmoWait.toNat < s.cycle →
      exec .waitTimeoutExpiry s = .next (s.raiseFault p { cause := .waitTimeout, bar := true, d0 := 4#64, d1 := BitVec.ofNat 64 k })) ∧
    (∀ n k rank l r, (s.die p.die).td.arrivals[s.index]? = some (n, k, rank) → (s.slot p.die n).rect = some r →
      (s.die p.die).td.barriers = [(n, k, l)] → (s.slot p.die n).reported = [] → s.stateOf p.die n = 5 →
      ∃ t, exec .barrierArrival s = .next t ∧ (t.die p.die).td.arrivals = dropAt (s.die p.die).td.arrivals s.index ∧
        ((∀ tl ∈ s.gangTiles p.die n, r.rank tl ∈ l ++ [rank]) →
          (t.die p.die).td.barriers = [] ∧
          ∀ tl ∈ s.gangTiles p.die n, ∀ since, (s.ctx ⟨p.die, tl, 0⟩).atBarrier = some (k, since) → (t.ctx ⟨p.die, tl, 0⟩).atBarrier = none) ∧
        ((∃ tl ∈ s.gangTiles p.die n, r.rank tl ∉ l ++ [rank]) →
          (t.die p.die).td.barriers = [(n, k, l ++ [rank])] ∧ t.tiles = s.tiles)) ∧
    (∀ id, let q : Place := { p with ctx := 0 }
      (s.ctx q).phase = .draining → (s.ctx q).done = (s.ctx q).issue → s.saving p.die p.tile = false → (s.die p.die).stopped = false → (s.ctx q).recf = [] →
      (s.tile p.die p.tile).task = some id → (s.die p.die).td.barriers = [] →
      ∃ t, exec .contextDrained s = .next t ∧ (t.ctx q).phase = .idle ∧
        (t.slot p.die (idSlot id)).reported = (s.slot p.die (idSlot id)).reported ++
          [((((s.slot p.die (idSlot id)).rect).map fun r => r.rank p.tile).getD 0, (s.ctx q).texit)])

/-! ### Tensor traffic and the copy engine -/

/-- R172, R177, R387, R176, R174: a walk finds the entry that a load lacks in the table at the object's home; a load whose entries are found is answered
once, its element read from the entry's frame; the reply's value reaches the load's target, a refusal is recorded in the generator's CAUSE and faults the block;
a repeated flit performs nothing; read-ahead extends a stream, while its owner waits at no barrier (03_memory_model.md R45), and never faults. What the spec leaves open in it is the
model's choice: log 23. R176: when a duplication ends, the entry of the object that wrote names the new frame, its C is clear, and the new frame holds what the old one holds; no other
byte of memory changes. A duplication for an object that is gone gives its frame back. -/
def Obligations.TensorRequestsAndCopyEnds : Prop :=
  (∀ (s : State) (q : TReq),
     let d := s.focus.die
     let t := s.focus.tile
     let x := s.tile d t
     let o := s.objOf (hobj q.h)
     let p : Place := ⟨d, t, q.ctx⟩
     (x.reqs[s.index]? = some q → s.serves d t q = true →
       (∀ c, let j := (Desc.locate o.desc c).1
         q.els = [c] → q.entries = [] → x.trFor q.holder (hobj q.h) j = none → findTr (s.die d).tableCache (hobj q.h) j = none →
         s.routed d (objDie (hobj q.h)) = true →
         ∃ u, exec .tableWalk s = .next u ∧ (u.tile d t).reqs[s.index]? = some { q with entries := [(j, o.entry j)] } ∧ u.mem = s.mem) ∧
       (∀ r, (s.ctx p).run = some r → q.value = none → q.missing (Desc.indices o.desc q.els) = none → (∀ e ∈ q.entries, entS e.2 = false) →
         (∀ j ∈ Desc.indices o.desc q.els, entS (o.entry j) = false) →
         (∀ l ∈ s.links, l.2 ≠ .down) →
         ∃ u, exec .tensorRequest s = .next u ∧ (u.tile d t).reqs[s.index]? = some { q with value := some (s.answer r q) } ∧ u.mem = s.mem) ∧
       (∀ r v, (s.ctx p).run = some r → q.value = some (.value v) → q.target ≠ 0x7F#7 → r.tok q.target.toNat = none →
         r.reserved.contains q.target.toNat = false →
         ∃ u, exec .tensorReply s = .next u ∧ (u.tile d t).reqs = dropAt x.reqs s.index ∧ u.mem = s.mem ∧
           (u.ctx p).run = some { r with loading := r.loading.filter fun k => k != q.index
                                         tokens := r.tokens ++ [(q.target.toNat, .val v)] }) ∧
       (∀ c j, q.value = some (.refused c j) →
         exec .tensorReply s = .next (((s.updTile d t fun y => { y with reqs := dropAt y.reqs s.index }).updTile d t fun y =>
           y.setAg q.ag { y.ag q.ag with cause := some c }).faultAt p (some q.index) c q.h j))) ∧
     (∀ r c f, q.els = [c] → q.scalar = some f → r.counted = [] →
       let l := Desc.locate o.desc c
       let e := look 0#64 q.entries l.1
       (entV e = false → s.answer r q = .refused .tensorNotPresent (BitVec.ofNat 64 l.1)) ∧
       (entV e = true → s.badEl e l.2 q.size = true → s.answer r q = .refused .uncorrectable (BitVec.ofNat 64 l.1)) ∧
       (entV e = true → s.badEl e l.2 q.size = false → s.answer r q = .value (scalarResult f (s.peek e l.2 q.size)))) ∧
     exec .linkFlitRetry s = .next s ∧
     (let a := x.ag s.index;
       a.bound = true → a.ahead.length < 4 → s.index < 8 → (s.ctx ⟨d, t, a.owner⟩).atBarrier = none →
       s.popOpen d t s.index (a.pos + a.ahead.length) = true →
       (∀ e u, s.popAt d t s.index (a.pos + a.ahead.length) = (.elem e, u) →
         exec .streamReadahead s = .next (u.updTile d t fun y => y.setAg s.index { y.ag s.index with ahead := (y.ag s.index).ahead ++ [e] })) ∧
       (∀ c j u, s.popAt d t s.index (a.pos + a.ahead.length) = (.fault c j, u) → exec .streamReadahead s = .next u))) ∧
  (∀ (s : State) (c : Cow),
     let o := s.objOf c.obj
     let e := o.entry c.index
     let dst := hbmKey c.frame.stack (c.frame.no * 65536)
     let n := c.frame.units * 65536
     s.cow[s.index]? = some c → MemOk s →
     (o.live = true → o.inc = c.inc →
       ∃ t, exec .cowComplete s = .next t ∧ t.cow = dropAt s.cow s.index ∧
         ((t.objOf c.obj).entry c.index) = setFld (setFld e 32 24 c.frame.no) 2 1 0 ∧
         (∀ j, j ≠ c.index → (t.objOf c.obj).entry j = o.entry j) ∧
         (∀ j < n, Memory.read t.mem (dst + j) = Memory.read s.mem (entKey e 0 + j)) ∧ SameOutside s.mem t.mem [(dst, n)]) ∧
     (o.live = false ∨ o.inc ≠ c.inc → exec .cowComplete s = .next ({ s with cow := dropAt s.cow s.index }.dropFrame c.frame.stack c.frame.no)))

/-- R179, R180, R191, R196, R388: the copy queue starts its next command while fewer than four run; a copy that ends completes its number, a `CPYT` into a local store
having written its bytes there and no others; a `CPYT` to a privileged range at USER freezes the queue; the Dealer performs its deals; R99, R102: a transfer fills its landing
entry once that is FREE, and a tag-state write makes an entry FULL, but one of the entries 48 to 55 of
the fault mechanism (28_traps_preemption.md R353). While a die is stopped no copy writes mailboxes there (16_message_engine.md R252). What the spec leaves open in it is the
model's choice: log 24, log 25. -/
def Obligations.CopyEngineRuns : Prop :=
  ∀ (s : State) (e : CopyEntry),
    let d := s.focus.die
    let t := s.focus.tile
    let x := s.tile d t
    let p : Place := ⟨d, t, e.ctx⟩
    e.ctx < 8 →
    (x.copyFrozen = false → (x.copyQ.filter CopyEntry.running).length < 4 → (x.copyQ.find? fun y => !y.running) = some e →
      (∀ out c h a, e.cmd = .cpy out c h a →
        exec .copyStart s = .next (s.updTile d t fun y => { y with copyQ := y.copyQ.map fun z =>
          if z.ctx = e.ctx ∧ z.num = e.num then { z with running := true, sent := false } else z })) ∧
      (∀ dst a n, e.cmd = .cpyt dst a n → s.cpytFate d dst n e.super = .freezes →
        exec .copyStart s = .next ((s.updTile d t fun y => { y with copyFrozen := true }).freeze (.copyQueue d t) [] e.region dst)) ∧
      (∀ dst a g c, e.cmd = .cpytLand dst a g → s.cpytEntry d dst = .error c → exec .copyStart s = .next (s.copyDone d t e (some c)))) ∧
    (x.copyQ[s.index]? = some e → e.running = true → e.sent = false →
      (∀ dst a n u k, e.cmd = .cpyt dst a n → mapTile dst.toNat = some (u, k) → k < 0x200000 → s.badAt (lsKey d t a.toNat) n = false →
        (s.ctx p).done.ce + 1 = e.num → (s.ctx p).doneOut = [] →
        ∃ v, exec .copyComplete s = .next v ∧ Holds v.mem (lsKey d u k) (s.readLs ⟨d, t, 0⟩ a.toNat n) ∧
          SameOutside s.mem v.mem [(lsKey d u k, n)] ∧ (v.ctx p).done.ce = e.num ∧ (v.ctx p).recf = (s.ctx p).recf) ∧
      (∀ c h a l f v, e.cmd = .cpy false c h a → s.copyOpen d t e = true → s.readWindow d t e.owners e.region h (boxCoords (cgOrg c) (cgExt c)) = ((l, f), v) →
        exec .copyComplete s = .next ((v.image d t a (Desc.bits (s.objOf (hobj h)).desc) (l.map (·.2))).copyDone d t e f)) ∧
      (∀ v, s.copyOpen d t e = true → (e.boxes = true → (s.die d).stopped = false) → s.copyEffect d t e = (none, v) →
        exec .copyComplete s = .next v) ∧
      (∀ f v, s.copyOpen d t e = true → (e.boxes = true → (s.die d).stopped = false) → s.copyEffect d t e = (some f, v) →
        exec .copyComplete s = .next (v.copyDone d t e f)) ∧
      (s.copyOpen d t e = false ∨ (e.boxes = true ∧ (s.die d).stopped = true) → exec .copyComplete s = .next s)) ∧
    (∀ u f v, (s.die d).deals[s.index]? = some (u, e) → s.copyOpen d u e = true → s.copyEffect d u e = (some f, v) →
      exec .dealerRun s = .next ((v.updDie d fun y => { y with deals := dropAt y.deals s.index }).complete ⟨d, u, e.ctx⟩ .ce e.num f)) ∧
    (∀ f, (s.die d).stopped = false → x.fills[s.index]? = some f → (x.lb f.entry).full = false → (∀ g ∈ x.fills.take s.index, g.entry ≠ f.entry) →
      (f.done = none → f.card = none →
        ∃ v, exec .landingFill s = .next v ∧ (v.tile d t).lb f.entry = { bits := f.reg.tag.keep f.reg.bits, tag := f.reg.tag, full := true } ∧
          (v.tile d t).fills = dropAt x.fills s.index ∧ (∀ k, k ≠ f.entry → (v.tile d t).lb k = x.lb k) ∧ v.mem = s.mem) ∧
      (∀ n, f.done = some (⟨d, t, e.ctx⟩, .ce, n) → (s.ctx p).done.ce + 1 = n → (s.ctx p).doneOut = [] →
        ∃ v, exec .landingFill s = .next v ∧ ((v.tile d t).lb f.entry).full = true ∧ (v.ctx p).done.ce = n)) ∧
    (∀ b, s.index < 64 →
      (s.index < 48 ∨ 56 ≤ s.index → ∃ v, exec (.lbTagStateWrite b) s = .next v ∧ ((v.tile d t).lb s.index).full = true ∧
        ((v.tile d t).lb s.index).tag = Tag.ofNum (b.toNat % 16) ∧ ((v.tile d t).lb s.index).bits = (x.lb s.index).bits ∧ v.mem = s.mem) ∧
      (48 ≤ s.index → s.index < 56 → exec (.lbTagStateWrite b) s = .next s))

/-! ### Cards and mailboxes -/

/-- R226, R271: the oldest command of the card unit sends its next card into the mesh of its own die or to another hub; a card that no route takes to its
tile completes with `RIGHTS`; a charged card is charged to its record, and stays without allowance; a held tile, a stopped die (R252)
and an earlier card of the context that has not got away hold every card back; an acknowledgement completes a command's number. R233: consumed slots are returned 256 cycles after they
grew, a sender blocked for 1,024 cycles asks again, the receiver answers, and the record takes the returned count. What the spec leaves open in it is the
model's choice: log 31. -/
def Obligations.CardSending : Prop :=
  ∀ (s : State),
    let d := s.focus.die
    let t := s.focus.tile
    let x := s.tile d t
    (∀ e l, x.mse = e :: l → s.index = 0 → x.held = false → (s.die d).stopped = false → s.holdsBack ⟨d, t, e.ctx⟩ = false →
      let p : Place := ⟨d, t, e.ctx⟩
      (∀ c m, e.cmd = .cards (c :: m) none →
        let dst := s.hub (fldN c.hw0 54 10) (fldN c.hw0 49 5)
        let n := fldN c.hw0 41 8
        (dst = d → s.noTile d n = false → (s.die d).joined t n = true →
          ∃ u, exec .cardSend s = .next u ∧ (u.tile d t).mse = { e with cmd := .cards m none, out := e.out + 1 } :: l ∧
            (u.die d).mesh = (s.die d).mesh ++ [{ tile := n, card := s.enterMesh d d t c }] ∧ u.mem = s.mem) ∧
        (dst ≠ d →
          ∃ u, exec .cardSend s = .next u ∧ (u.tile d t).mse = { e with cmd := .cards m none, out := e.out + 1 } :: l ∧
            ∃ y, (u.die d).fab.outbox = (s.die d).fab.outbox ++ [y] ∧ y.body = .card c ∧ y.dst = dst ∧ y.bytes = c.payload) ∧
        (dst = d → s.noTile d n = true → m = [] → l = [] → e.out = 0 → e.fault = none → e.frame = none → e.ctx = 0 → c.num = e.num →
          (s.ctx p).done.mse + 1 = e.num → (s.ctx p).doneOut = [] →
          ∃ u, exec .cardSend s = .next u ∧ (u.tile d t).mse = [] ∧ (u.ctx p).done.mse = e.num ∧
            (u.ctx p).recf = (s.ctx p).recf ++ [⟨.mse, e.num, .rights, false⟩])) ∧
      (∀ c m i, e.cmd = .cards (c :: m) (some i) →
        (x.allowed i c = false → exec .cardSend s = .next (s.updTile d t fun y => y.block i s.cycle)) ∧
        (x.allowed i c = true → s.hub (fldN c.hw0 54 10) (fldN c.hw0 49 5) ≠ d →
          ∃ u, exec .cardSend s = .next u ∧ (u.tile d t).mse = { e with cmd := .cards m (some i), out := e.out + 1 } :: l ∧
            (look {} (u.tile d t).alw i : Allow).sent = ((look {} x.alw i : Allow).sent + cardSlots c.len) % 2 ^ 32))) ∧
    (∀ e l, x.mse = e :: l → s.index = 0 → x.held = true ∨ (s.die d).stopped = true ∨ s.holdsBack ⟨d, t, e.ctx⟩ = true →
      exec .cardSend s = .next s) ∧
    (∀ u c n e, c < 8 → (s.die d).acks[s.index]? = some (u, c, n, none) → (s.tile d u).mse = [e] → e.ctx = c → e.num = n → e.out = 1 → e.unsent = false →
      e.fault = none → e.frame = none → (s.ctx ⟨d, u, c⟩).done.mse + 1 = n → (s.ctx ⟨d, u, c⟩).doneOut = [] →
      ∃ v, exec .cardAck s = .next v ∧ (v.die d).acks = dropAt (s.die d).acks s.index ∧ (v.tile d u).mse = [] ∧
        (v.ctx ⟨d, u, c⟩).done.mse = n ∧ (v.ctx ⟨d, u, c⟩).recf = (s.ctx ⟨d, u, c⟩).recf) ∧
    (∀ i c, look? (x.mb s.index).grownAt i = some c →
      (c + 256 ≤ s.cycle → exec (.allowanceReturnTimer i) s = .next (s.returnCons d t s.index i)) ∧
      (s.cycle < c + 256 → exec (.allowanceReturnTimer i) s = .next s)) ∧
    (∀ m i, let b := x.mb m
      s.hub (b.f (4 + i) 54 10) (b.f (4 + i) 49 5) = d →
      ((s.returnCons d t m i).die d).allowIn =
        (s.die d).allowIn ++ [(b.f (4 + i) 41 8, BitVec.ofNat 64 (s.tileBits d t + m * 2 ^ 35), look 0 b.cons i)]) ∧
    (∀ u w n i, (s.die d).allowIn[s.index]? = some (u, w, n) → (s.tile d u).alwFor w = some i →
      (n + 2 ^ 32 - (look {} (s.tile d u).alw i : Allow).c) % 2 ^ 32 < 2 ^ 31 →
      ∃ v, exec .allowanceReturnArrival s = .next v ∧ (v.die d).allowIn = dropAt (s.die d).allowIn s.index ∧
        (look {} (v.tile d u).alw i : Allow) = { (look {} (s.tile d u).alw i : Allow) with c := n }) ∧
    (let a : Allow := look {} x.alw s.index;
      ∀ c, a.blockedSince = some c → c + 1024 ≤ s.cycle → s.hub (fldN a.dw 54 10) (fldN a.dw 49 5) = d →
      ∃ v, exec .refreshTimer s = .next v ∧ (look {} (v.tile d t).alw s.index : Allow) = { a with blockedSince := some s.cycle } ∧
        (v.die d).refreshIn = (s.die d).refreshIn ++ [(fldN a.dw 41 8, fldN a.dw 35 6, BitVec.ofNat 64 (s.tileBits d t))]) ∧
    (∀ u m w, (s.die d).refreshIn[s.index]? = some (u, m, w) →
      let y := s.updDie d fun z => { z with refreshIn := dropAt z.refreshIn s.index }
      (∀ i, ((s.tile d u).mb m).mode = 2 → ((s.tile d u).mb m).senderOf w = some i → exec .refreshRequestArrival s = .next (y.returnCons d u m i)) ∧
      (((s.tile d u).mb m).mode ≠ 2 → exec .refreshRequestArrival s = .next y))

/-- R227, R228, R278, R102: the oldest configuration command is applied where its checks hold, and its number completes, with `RESERVED_FIELD` where they do not; a write through
the map that the checks allow gives the mailbox its words, its RO fields cleared, and starts it empty; one that they refuse changes nothing. R230, R232: a queue-mode mailbox with a handler, a card and no handler of its own queued or running starts one on the card at RD, with the ring slot's address in
g0 and the tile that sent the card, the mailbox and the slot in g1. What the spec leaves open in it is the
model's choice: log 30. R229, R230, R100, R101 in frame mode: the card that brings a frame of a mailbox with a handler to its FIRE count, or, with FOF, to all of its slots, sets FIRED
and queues a start of the handler: g0 is the frame's address, g1 the tile that sent the card, the mailbox, the slot, the frame and the slots
present. No other card of the frame starts one; while the start queue is full the card that would is refused and stays in the mesh. What the spec
leaves open in it is the model's choice: log 30. -/
def Obligations.QueueMailboxes : Prop :=
  (∀ (s : State),
     let d := s.focus.die
     let t := s.focus.tile
     let x := s.tile d t
     (∀ e k sel bs, (s.die d).stopped = false → x.mse[s.index]? = some e → e.config = some (k, sel, bs) → (∀ y ∈ x.mse.take s.index, y.config = none) →
       (∀ y, x.configure k sel bs = some y → exec .mailboxConfigApply s = .next ((s.setTile d t y).mseDone ⟨d, t, e.ctx⟩ e.num none)) ∧
       (x.configure k sel bs = none → exec .mailboxConfigApply s = .next (s.mseDone ⟨d, t, e.ctx⟩ e.num (some .reservedField)))) ∧
     (∀ w, s.index < 63 →
       (x.mbxOk s.index { words := mbxKeep w } = true →
         ∃ u, exec (.mailboxMapWrite w) s = .next u ∧ u.mem = s.mem ∧
           ((u.tile d t).mb s.index).words = mbxKeep w ∧ ((u.tile d t).mb s.index).wr = 0 ∧ ((u.tile d t).mb s.index).rd = 0 ∧
           ((u.tile d t).mb s.index).cons = []) ∧
       (x.mbxOk s.index { words := mbxKeep w } = false → exec (.mailboxMapWrite w) s = .next s))) ∧
  (∀ (s : State),
     let d := s.focus.die
     let t := s.focus.tile
     let x := s.tile d t
     let b := x.mb s.index
     let w := s.ringHead d t s.index b.rd
     (b.mode = 2 → b.hv = true → b.rd ≠ b.wr → b.busy = false → x.startQ.length < 16 → (s.die d).stopped = false →
       ∃ u q, exec .queueMailboxFire s = .next u ∧ (u.tile d t).startQ = x.startQ ++ [q] ∧ ((u.tile d t).mb s.index).busy = true ∧
         q.g0 = BitVec.ofNat 64 (b.slotAddr b.rd) ∧ q.g1 = BitVec.ofNat 64 (fldN w.2 41 23 * 2 ^ 41 + s.index * 2 ^ 35 + b.rd) ∧
         q.code = BitVec.ofNat 64 (b.f 3 0 64) ∧ q.block = BitVec.ofNat 32 (b.f 2 32 32) ∧ q.region = x.region ∧ u.mem = s.mem) ∧
     (b.rd = b.wr ∨ b.busy = true ∨ b.hv = false → exec .queueMailboxFire s = .next s)) ∧
  (∀ (s : State) (m : MeshCard),
     let d := s.focus.die
     let x := s.tile d m.tile
     let c := m.card
     let b := x.mb c.mailbox
     let n := b.fbase + c.frame
     let frame := b.base + c.frame * (b.slots * b.slotSize)
     let present := (x.pr n).present ||| BitVec.ofNat 16 (2 ^ c.slot)
     let count := ((List.range 16).filter fun i => bit present i).length
     let enough : Prop := count = if bit c.hw0 3 = true then b.slots else b.fire
     m.msg = none → Arrives s .frame m → c.mailbox ≠ 63 → b.mode = 1 → b.hv = true → b.reply = false → c.frame < b.nframe → c.slot < b.slots →
     c.len ≤ b.slotSize → bit (x.pr n).present c.slot = false →
     ((x.pr n).fired = false → enough → x.startQ.length < 16 →
       ∃ t q, exec .frameCardArrival s = .next t ∧ ((t.tile d m.tile).pr n).fired = true ∧ ((t.tile d m.tile).pr n).present = present ∧
         (t.tile d m.tile).startQ = x.startQ ++ [q] ∧ Holds t.mem (lsKey d m.tile (frame + c.slot * b.slotSize)) c.payload ∧
         q.code = BitVec.ofNat 64 (b.f 3 0 64) ∧ q.block = BitVec.ofNat 32 (b.f 2 32 32) ∧ q.region = x.region ∧ q.g0 = BitVec.ofNat 64 frame ∧
         q.g1 = BitVec.ofNat 64 (fldN c.hw1 41 23 * 2 ^ 41 + c.mailbox * 2 ^ 35 + c.slot * 2 ^ 31 + c.frame * 2 ^ 16 + present.toNat)) ∧
     ((x.pr n).fired = true ∨ ¬enough →
       ∃ t, exec .frameCardArrival s = .next t ∧ ((t.tile d m.tile).pr n).fired = (x.pr n).fired ∧ ((t.tile d m.tile).pr n).present = present ∧
         (t.tile d m.tile).startQ = x.startQ) ∧
     ((x.pr n).fired = false → enough → 16 ≤ x.startQ.length →
       ∃ t, exec .frameCardArrival s = .next t ∧ (t.die d).mesh = ((s.die d).mesh.map fun y => if y = m then { y with refused := true } else y) ∧
         t.tiles = s.tiles ∧ t.mem = s.mem))

/-- R229, R231, R232, R237, R277: a card that arrives in its turn is taken: by its frame and slot, whose presence bit it sets and whose bytes it writes, by a landing entry, by the ring
of a queue, or as an atomic; it leaves the mesh, and its acknowledgement starts back. A card that finds no frame-mode mailbox is discarded with an event (R235, R272). What the spec leaves open in it is the
model's choice: log 30, log 32. -/
def Obligations.CardArrivals : Prop :=
  ∀ (s : State) (m : MeshCard),
    let d := s.focus.die
    let x := s.tile d m.tile
    let c := m.card
    let mesh := dropAt (s.die d).mesh s.index
    let acks := (s.die d).acks ++ [(c.src.tile, c.src.ctx, c.num, none)]
    m.msg = none →
    (∀ i k, (i = .frameCardArrival ∧ Arrives s .frame m ∧ k = c.mailbox ∧ k ≠ 63) ∨
        (i = .replyCardArrival ∧ Arrives s .reply m ∧ x.replyMb = some k ∧ (x.pr ((x.mb k).fbase + c.frame)).reserved = true) →
      let b := x.mb k
      let n := b.fbase + c.frame
      let a := b.base + c.frame * (b.slots * b.slotSize) + c.slot * b.slotSize
      b.mode = 1 → c.frame < b.nframe → c.slot < b.slots → c.len ≤ b.slotSize → bit (x.pr n).present c.slot = false → b.hv = false →
      ∃ t, exec i s = .next t ∧ Holds t.mem (lsKey d m.tile a) c.payload ∧ SameOutside s.mem t.mem [(lsKey d m.tile a, c.payload.length)] ∧
        ((t.tile d m.tile).pr n).present = (x.pr n).present ||| BitVec.ofNat 16 (2 ^ c.slot) ∧ (t.die d).mesh = mesh ∧ (t.die d).acks = acks) ∧
    (Arrives s .frame m → (x.mb c.mailbox).mode ≠ 1 →
      exec .frameCardArrival s = .next ((s.updDie d fun y => { y with mesh := dropAt y.mesh s.index }).discard d m 1 false)) ∧
    (Arrives s .reply m → x.replyMb = none →
      exec .replyCardArrival s = .next ((s.updDie d fun y => { y with mesh := dropAt y.mesh s.index }).discard d m 1 false)) ∧
    (Arrives s .landing m →
      let e := (x.mb c.mailbox).f 2 6 6 + c.slot
      e < 48 ∨ 56 ≤ e ∧ e ≤ 63 → c.len = 256 → 4 ≤ c.ptag → c.ptag ≤ 14 →
      ∃ t, exec .landingCardArrival s = .next t ∧ (t.die d).mesh = mesh ∧ t.mem = s.mem ∧
        (t.tile d m.tile).fills = x.fills ++
          [{ entry := e, reg := { tag := Tag.ofNum c.ptag, bits := (Tag.ofNum c.ptag).keep (BitVec.ofNat 2048 (leNat c.payload)) }
             card := some m }]) ∧
    (Arrives s .atomic m →
      let a := fldN c.hw0 16 18 * 8
      let p : Place := ⟨d, m.tile, 0⟩
      s.badAt (lsKey d m.tile a) 8 = false →
      ∃ t, exec .atomicCardArrival s = .next t ∧ (t.die d).mesh = mesh ∧ (t.die d).acks = acks ∧
        leNat (t.readLs p a 8) = amoValue (c.op + 1) 8 (leNat (s.readLs p a 8)) (leNat c.payload) % 2 ^ 64 ∧
        SameOutside s.mem t.mem [(lsKey d m.tile a, 8)]) ∧
    (Arrives s .queue m →
      let b := x.mb c.mailbox
      let n := cardSlots c.len
      bit c.hw0 4 = true → b.senderOf c.hw1 ≠ none → n ≤ 17 → n + 15 ≤ b.cap → c.len = c.payload.length → b.wr + n ≤ b.cap →
      ∃ t, exec .queueCardArrival s = .next t ∧ (t.die d).mesh = mesh ∧ (t.die d).acks = acks ∧
        Holds t.mem (lsKey d m.tile (b.slotAddr b.wr)) (wordsBytes [c.hw0, c.hw1] ++ c.payload) ∧
        SameOutside s.mem t.mem [(lsKey d m.tile (b.slotAddr b.wr), 16 + c.payload.length)] ∧
        ((t.tile d m.tile).mb c.mailbox).wr = (b.wr + n) % b.cap)

/-! ### The matrix engine and the table -/

/-- R207, R208, R214, R216 to R220: a free engine starts its oldest ready command, and no other while one runs; loads of a latch, releases, seats
and stores of an accumulator take their effect when they start, a geometry has taken its own at issue and completes then; a play then needs its
latch FULL and a seat; a multiplication, a clear and a load of an accumulator are applied at the end of their time; their numbers complete. That a
play which then fails frees the latch it was granted is the model's choice (log 68). R205, R206, R207, R217: a play that no older entry of its engine makes wait asks the next seat for a latch; where there is no seat to ask it
asks nobody (it starts and fails). The seat reserves its lower free latch for it; the
latch's data leave with the play to the seat that granted, and free the latch; the ninth card fills the reserved latch, starts the seat's handler
and completes the play's number. What the spec leaves open in it is the model's choice: log 29, log 68. -/
def Obligations.MatrixEngineAndPlays : Prop :=
  (∀ (s : State) (e : MeEntry),
     let d := s.focus.die
     let t := s.focus.tile
     let m := (s.tile d t).me
     let p : Place := ⟨d, t, e.ctx⟩
     let inTurn : Prop := (s.ctx p).done.me + 1 = e.num ∧ (s.ctx p).doneOut = []
     e.ctx < 8 →
     (m.running.isSome = true → exec .meEntryStart s = .next s) ∧
     (m.running = none → ∀ l r, m.store = l ++ e :: r → (∀ k x, l[k]? = some x → m.ready (s.deaf d t) k x = false) → m.ready (s.deaf d t) l.length e = true →
       s.saving d t = false →
       exec .meEntryStart s = .next (s.meStart d t e) ∧
       (∀ w k, e.cmd = .seat w k → inTurn →
         ((s.meStart d t e).tile d t).me.seat = seatOf m.seat w k ∧ (fldN w 8 8 = 0 → seatOf m.seat w k = { m.seat with v := false }) ∧ ((s.meStart d t e).ctx p).done.me = e.num) ∧
       (∀ k, e.cmd = .rls k → (m.latch k).st = .full → inTurn →
         (((s.meStart d t e).tile d t).me.latch k).st = .free ∧ ((s.meStart d t e).ctx p).done.me = e.num) ∧
       (∀ k a h, e.cmd = .ldb k a h → s.badAt (lsKey d t a.toNat) 2048 = false → inTurn →
         (((s.meStart d t e).tile d t).me.latch k).st = .full ∧
         (((s.meStart d t e).tile d t).me.latch k).data = s.readLs ⟨d, t, 0⟩ a.toNat 2048 ∧ ((s.meStart d t e).ctx p).done.me = e.num) ∧
       (e.cmd = .setg → inTurn → ((s.meStart d t e).ctx p).done.me = e.num ∧ (s.meStart d t e).mem = s.mem) ∧
       (∀ a g0 g1 y sat, e.cmd = .st a g0 g1 y sat → inTurn →
         ((m.acc a).int ≠ decide (4 ≤ mgO g0) → e.ctx = 0 → (s.meStart d t e).mem = s.mem ∧ ((s.meStart d t e).ctx p).done.me = e.num ∧
           ((s.meStart d t e).ctx p).recf = (s.ctx p).recf ++ [⟨.me, e.num, .matrixGeometry, false⟩]) ∧
         ((m.acc a).int = decide (4 ≤ mgO g0) → bit y 63 = false → mgN g0 * outBytes g0 ≤ mgAstride g0 →
           fldN y 0 21 + (mgM g0 - 1) * mgAstride g0 + mgN g0 * outBytes g0 ≤ lsSize →
           ((s.meStart d t e).ctx p).done.me = e.num ∧ ∀ i < mgM g0, Holds (s.meStart d t e).mem (lsKey d t (fldN y 0 21 + i * mgAstride g0))
             ((List.range (mgN g0)).flatMap fun j => leBytes (outBytes g0) (mstValue m a g0 sat i j))) ∧
         ((m.acc a).int = decide (4 ≤ mgO g0) → bit y 63 = true →
           ((s.meStart d t e).tile d t).fills = (s.tile d t).fills ++ [{
             entry := fldN y 0 6, done := some (p, .me, e.num)
             reg := Reg.clean { tag := meOutTag (mgO g0), bits := BitVec.ofNat 2048 (leNat ((List.range (8 / outBytes g0)).flatMap fun i =>
               (List.range (mgN g0)).flatMap fun j => leBytes (outBytes g0) (mstValue m a g0 sat (fldN y 8 5 + i) j))) } }])) ∧
       (∀ a w, e.cmd = .zero a w → ((s.meStart d t e).tile d t).me.running = some e) ∧
       (∀ k, e.cmd = .play k →
         let seat := e.seat.or m.seat.number
         ((m.latch k).st = .full → seat ≠ none → e.granted ≠ none → ((s.meStart d t e).tile d t).me.running = some { e with seat := seat }) ∧
         ((m.latch k).st = .full → (seat = none ∨ e.granted = none) → inTurn → e.ctx = 0 →
           ((s.meStart d t e).ctx p).done.me = e.num ∧ ((s.meStart d t e).ctx p).recf = (s.ctx p).recf ++ [⟨.me, e.num, .rights, false⟩] ∧
           (e.granted = none → ((s.meStart d t e).tile d t).me.latch k = m.latch k)) ∧
         (∀ u b, e.granted = some (u, b) → (m.latch k).st ≠ .full → inTurn →
           (((s.meStart d t e).tile d u).me.latch b).st = .free ∧ ((s.meStart d t e).ctx p).done.me = e.num))) ∧
     (m.running = some e → m.store = [] → inTurn →
       (∀ a w, e.cmd = .zero a w →
         ∃ u, exec .meCommandApply s = .next u ∧ (u.tile d t).me.running = none ∧ (u.ctx p).done.me = e.num ∧
           (u.tile d t).me.acc a = { int := bit w 0, atag := fldN w 40 8 } ∧ u.mem = s.mem) ∧
       (∀ k a g0 g1 x w, e.cmd = .mma k a g0 g1 x w →
         ∃ u, exec .meCommandApply s = .next u ∧ (u.tile d t).me.running = none ∧ (u.ctx p).done.me = e.num ∧
           (u.tile d t).me.acc a = mmaApply k g0 w e.loaded e.latched (m.acc a) ∧
           (∀ b, b ≠ a → (u.tile d t).me.acc b = m.acc b) ∧ u.mem = s.mem) ∧
       (∀ a x w, e.cmd = .lda a x w →
         ∃ u, exec .meCommandApply s = .next u ∧ (u.ctx p).done.me = e.num ∧ ((u.tile d t).me.acc a).nseq = fldN w 48 16 ∧
           ∀ i < 32, ∀ j < 32, ((u.tile d t).me.acc a).el i j = BitVec.ofNat 32 (codeAt e.loaded 32 (32 * i + j))))) ∧
  (∀ (s : State),
     let d := s.focus.die
     let t := s.focus.tile
     let x := s.tile d t
     let m := x.me
     let next := m.seat.next
     (∀ e l, m.store[s.index]? = some e → e.cmd = .play l → e.asked = false → s.saving d t = false →
       (∀ y ∈ m.store ++ m.running.toList, y.stamp < e.stamp → y.cmd.reads l = false) →
       (m.seat.v = false ∨ s.noTile d next = true ∨ (s.die d).joined t next = false →
         exec .playRequest s = .next s ∧ ∀ k, (m.store.take k).any (fun y => y.cmd.reads l) = false → m.ready (s.deaf d t) k e = true) ∧
       (m.seat.v = true → s.noTile d next = false → (s.die d).joined t next = true →
         ∃ u, exec .playRequest s = .next u ∧ (u.tile d next).me.asks = (s.tile d next).me.asks ++ [(t, e.ctx, e.num)] ∧
           (u.tile d t).me.store[s.index]? = some { e with asked := true })) ∧
     (∀ v c n e, m.asks[s.index]? = some (v, c, n) → ((s.tile d v).me.store.find? fun y => y.ctx == c && y.num == n) = some e →
       (m.seat.v = true → ∀ l, ([0, 1].find? fun k => (m.latch k).st == .free) = some l →
         ∃ u, exec .playGrant s = .next u ∧ ((u.tile d t).me.latch l).st = .reserved ∧ (u.tile d t).me.asks = dropAt m.asks s.index ∧
           (u.tile d v).me.store = (s.tile d v).me.store.map fun y => if y.ctx = c ∧ y.num = n then { y with granted := some (t, l), seat := (s.tile d v).me.seat.number } else y) ∧
       (m.seat.v = true → (m.latch 0).st ≠ .free → (m.latch 1).st ≠ .free → exec .playGrant s = .next s)) ∧
     (∀ e l v k, m.running = some e → e.cmd = .play l → e.granted = some (v, k) →
       ∃ u q, exec .meCommandApply s = .next u ∧ ((u.tile d t).me.latch l).st = .free ∧ (u.tile d t).me.running = none ∧
         (u.tile d v).me.plays = (s.tile d v).me.plays ++ [q] ∧ q.data = (m.latch l).data ∧ q.bad = (m.latch l).bad ∧
         q.latch = k ∧ q.src = ⟨d, t, e.ctx⟩ ∧ q.num = e.num) ∧
     (∀ q, m.plays[s.index]? = some q → x.held = false →
       (q.sent < 8 → exec .latchArrival s = .next (s.updMe d t fun y => { y with plays := y.plays.set s.index { q with sent := q.sent + 1 } })) ∧
       (8 ≤ q.sent → q.latch ≠ 2 → x.startQ.length < 16 → q.src.ctx < 8 → (s.ctx q.src).done.me + 1 = q.num → (s.ctx q.src).doneOut = [] →
         ∃ u w, exec .latchArrival s = .next u ∧ (u.tile d t).me.latch q.latch = { st := .full, data := q.data, hw0 := q.hw0, bad := q.bad } ∧
           (u.tile d t).me.plays = dropAt m.plays s.index ∧ (u.tile d t).startQ = x.startQ ++ [w] ∧ w.code = m.seat.code ∧ w.block = m.seat.off ∧
           w.g0 = BitVec.ofNat 64 q.latch ∧ w.g1 = q.hw0 ∧ (u.ctx q.src).done.me = q.num)))

/-! ### The exchange unit -/

/-- R247 to R250, R278, R282, R389: a flush is taken whole, its answer names the records refused; a record accepted counts as sent and its number completes, one refused
takes its second choice, once; configurations are judged and applied; an `XFLUSH` writes its counters when the fates it awaits are final. What the spec leaves open in it is the
model's choice: log 33. -/
def Obligations.ExchangeUnit : Prop :=
  ∀ (s : State),
    let d := s.focus.die
    let x := (s.die d).xu
    (∀ f no v, (s.die d).stopped = false → x.flushIn[s.index]? = some f → (s.tile d (fldN f.dest 41 8)).held = false →
      (∀ g ∈ x.flushIn.take s.index, fldN g.dest 35 14 ≠ fldN f.dest 35 14) →
      (s.updXu d fun y => { y with flushIn := dropAt y.flushIn s.index }).receiveAll d f.src f.dest f.recs = (no, v) →
      exec .exchangeFlushArrival s = .next (v.send d f.src (.xreturn f.n no))) ∧
    (∀ src dest r, let y := s.tile d (fldN dest 41 8)
      let b := y.mb (fldN dest 35 6)
      (s.receive d src dest r = none ↔ s.noTile d (fldN dest 41 8) = true ∨ (y.savedFlag = true ∧ y.task = none) ∨ b.mode ≠ 2 ∨
        b.rcap ≤ b.rcount ∨ r.bytes.length ≠ b.rsize)) ∧
    (∀ n f r e, x.returns[s.index]? = some (n, []) → x.flushes = [f] → f.n = n → f.recs = [r] →
      (s.tile r.src.die r.src.tile).mse = [e] → e.ctx = r.src.ctx → e.num = r.num → e.frame = none → r.src.ctx < 8 →
      (s.ctx r.src).done.mse + 1 = r.num → (s.ctx r.src).doneOut = [] →
      ∃ u, exec .exchangeReturnArrival s = .next u ∧ (u.die d).xu.flushes = [] ∧ (u.die d).xu.returns = dropAt x.returns s.index ∧
        ((u.die d).xu.dest f.dest).sent = ((x.dest f.dest).sent + 1) % 2 ^ 32 ∧ (u.tile r.src.die r.src.tile).mse = [] ∧
        (u.ctx r.src).done.mse = r.num) ∧
    (∀ n f r, x.returns[s.index]? = some (n, [r]) → x.flushes = [f] → f.n = n → f.recs = [r] → r.st = 0 → r.ch2 ≠ r.ch1 →
      (x.dest r.ch2).v = true →
      ∃ u g, exec .exchangeReturnArrival s = .next u ∧ (u.die d).xu.flushes = [g] ∧ g.dest = r.ch2 ∧
        g.recs = (x.dest r.ch2).list ++ [r.setSt 1] ∧ ((u.die d).xu.dest f.dest).overflowed = ((x.dest f.dest).overflowed + 1) % 2 ^ 32) ∧
    (∀ o, (s.die d).stopped = false → x.overflow[s.index]? = some o → (s.tile d (fldN o.dest 41 8)).held = false →
      let y := s.updXu d fun z => { z with overflow := dropAt z.overflow s.index }
      exec .overflowRecordArrival s = .next (((y.receive d o.rec_.src.die o.dest o.rec_).getD y).recordFinal o.rec_.src.die o.rec_ none)) ∧
    (∀ c, x.configs[s.index]? = some c → (∀ y ∈ x.configs.take s.index, y.sel ≠ c.sel) →
      let w0 := BitVec.ofNat 64 (leNat c.bytes)
      let w1 := BitVec.ofNat 64 (leNat (c.bytes.drop 8))
      let y := s.updXu d fun z => { z with configs := dropAt z.configs s.index }
      (c.sel = 64 → ovfOk s w0 w1 = true →
        ∃ u, exec .exchangeConfigApply s = .next u ∧ (u.die d).xu.ovf = w0 ∧ (u.die d).xu.ovfV = bit w1 56 ∧
          (u.die d).xu.configs = dropAt x.configs s.index) ∧
      (c.sel ≠ 64 → xchgOk w0 w1 = true →
        ∃ u, exec .exchangeConfigApply s = .next u ∧ ((u.die d).xu.dest c.sel).dest = w0 ∧ ((u.die d).xu.dest c.sel).w1 = w1 ∧
          ((u.die d).xu.dest c.sel).list = [] ∧ (u.die d).xu.configs = dropAt x.configs s.index) ∧
      ((c.sel = 64 ∧ ovfOk s w0 w1 = false) ∨ (c.sel ≠ 64 ∧ xchgOk w0 w1 = false) →
        exec .exchangeConfigApply s = .next (y.mseDone c.place c.num (some .reservedField)))) ∧
    (∀ w, x.xflush[s.index]? = some w → w.await = [] → bit w.lists 63 = false →
      let e := x.dest (fldN w.lists 0 6)
      ∃ u, exec .xflushCounterWrite s = .next u ∧ (u.die d).xu.xflush = dropAt x.xflush s.index ∧
        Holds u.mem (lsKey w.place.die w.place.tile w.addr) (leBytes 4 e.sent ++ leBytes 4 e.overflowed ++ leBytes 4 e.dropped ++ leBytes 4 0) ∧
        SameOutside s.mem u.mem [(lsKey w.place.die w.place.tile w.addr, 16)])

/-! ### The fabric -/

/-- R257 to R259, R261 to R265: a message takes the next sequence number of its destination and class and leaves as k data and m parity fragments, and is retained with the limits
that stand then; it is sent again
after a BUSY and when its source's timer runs out, and given up after the last attempt; an ACK leaves when its timer runs out; a short meld buffer asks for repair
by a coded message, and is given up after the last. R259, R263 to R265: an ACK frees the retained messages that it covers and completes a card's number, a BUSY has its message sent again one microsecond later, a REPAIR is
answered as one attempt while one remains, a GIVEUP drops the partial message. A link control message acts once: a repeat within half of `MELD_TIMEOUT`
only leaves its queue. What the spec leaves open in it is the
model's choice: log 36. -/
def Obligations.MessagesLeaveAndLinkControl : Prop :=
  (∀ (s : State),
     let d := s.focus.die
     let f := (s.die d).fab
     (∀ m, f.outbox[s.index]? = some m → (∀ y ∈ f.outbox.take s.index, y.dst ≠ m.dst ∨ y.cls ≠ m.cls) → f.retained = [] →
       let k := dataCount m.coded.length
       let n := f.parityCount m.dst m.cls k
       64 * k ≤ 2 ^ 21 → s.spray d m.dst ≠ [] →
       ∃ u r, exec .messageSend s = .next u ∧ (u.die d).fab.outbox = dropAt f.outbox s.index ∧ (u.die d).fab.retained = [r] ∧
         r.msg = { m with seq := f.lastSeq m.dst m.cls + 1 } ∧ r.par = n ∧ r.tmo = f.timeout m.dst ∧ r.limit = f.repairLimit ∧ (u.die d).fab.lastSeq m.dst m.cls = f.lastSeq m.dst m.cls + 1 ∧
         u.frags.length = s.frags.length + k + n ∧ u.mem = s.mem) ∧
     (∀ r c, f.retained[s.index]? = some r → r.resendAt = some c →
       (c ≤ s.cycle → exec .busyResendTimer s = .next (s.resend d r)) ∧ (s.cycle < c → exec .busyResendTimer s = .next s)) ∧
     (∀ r, f.retained[s.index]? = some r → r.timer + 2 * r.tmo ≤ s.cycle → s.timersRun d = true →
       (r.attempts < r.limit →
         exec .sourceTimerExpiry s = .next (((s.resend d r).updRet d r.msg.dst r.msg.cls r.msg.seq fun y =>
           { y with timer := s.cycle, attempts := y.attempts + 1 }).tally d fun c => { c with attempts := c.attempts + 1#32 })) ∧
       (r.limit ≤ r.attempts → exec .sourceTimerExpiry s = .next (s.giveUp d r))) ∧
     (∀ y c, f.filters[s.index]? = some y → y.grownAt = some c →
       (c + 1024 ≤ s.cycle → s.timersRun d = true → exec .ackTimer s = .next (s.ack d y.src y.cls)) ∧
       (s.cycle < c + 1024 → exec .ackTimer s = .next s)) ∧
     (∀ b, f.melds[s.index]? = some b → b.frags.length < b.k → b.opened + b.tmo * (b.repairs + 1) ≤ s.cycle →
       s.timersRun d = true → (s.die d).stopped = false →
       (b.repairs < b.limit →
         ∃ u, exec .meldTimeout s = .next u ∧ (u.die d).fab.melds = f.melds.set s.index { b with repairs := b.repairs + 1 } ∧
           (u.die d).fab.counters.repairs = f.counters.repairs + 1#32 ∧
           u.frags = s.frags ++ ((s.controlMsg d b.msg.src b.msg.cls (.repair b.msg.seq (BitVec.ofNat 24 (b.frags.map fun e => 2 ^ e.1).sum))).emit 1 0
             (s.spray d b.msg.src) (sendOrder 1 (f.parityCount b.msg.src 2 1))).1) ∧
       (b.limit ≤ b.repairs → exec .meldTimeout s = .next (s.giveUpHere d b.msg.src b.msg.cls b.msg.seq)))) ∧
  (∀ (s : State) (src dst cls : Nat) (b : Link),
     let f := (s.die dst).fab
     let kind : Instr := match b with
       | .ack _ => .ackArrival
       | .busy _ => .busyArrival
       | .repair _ _ => .repairArrival
       | .giveup _ => .giveupArrival
     s.linkMsgs[s.index]? = some (src, dst, cls, b) → dst < 32 → (s.die dst).live = true → (s.die dst).stopped = false →
     (∀ t, (src, cls, t, b) ∈ f.acted → s.cycle < t + f.timeout src / 2 →
       exec kind s = .next { s with linkMsgs := dropAt s.linkMsgs s.index }) ∧
     (f.acted = [] →
     (∀ h r, b = .ack h → f.retained = [r] → r.msg.dst = src → r.msg.cls = cls → r.msg.seq ≤ h →
       (∀ y, r.msg.body = .dec y →
         ∃ u, exec .ackArrival s = .next u ∧ (u.die dst).fab.retained = [] ∧ u.linkMsgs = dropAt s.linkMsgs s.index) ∧
       (∀ c e, let p : Place := { c.src with die := dst }
         r.msg.body = .card c → p.ctx < 8 → (s.tile dst p.tile).mse = [e] → e.ctx = p.ctx → e.num = c.num → e.out = 1 → e.unsent = false → e.fault = none →
         e.frame = none → (s.ctx p).done.mse + 1 = c.num → (s.ctx p).doneOut = [] →
         ∃ u, exec .ackArrival s = .next u ∧ (u.die dst).fab.retained = [] ∧ (u.tile dst p.tile).mse = [] ∧ (u.ctx p).done.mse = c.num)) ∧
     (∀ q r, b = .busy q → f.retained = [r] → r.msg.dst = src → r.msg.cls = cls → r.msg.seq = q →
       ∃ u, exec .busyArrival s = .next u ∧ (u.die dst).fab.retained = [{ r with resendAt := some (s.cycle + 1250) }]) ∧
     (∀ q present r, b = .repair q present → f.retained = [r] → r.msg.dst = src → r.msg.cls = cls → r.msg.seq = q → r.attempts < r.limit →
       ∃ u y, exec .repairArrival s = .next u ∧ (u.die dst).fab.retained = [y] ∧ y.attempts = r.attempts + 1 ∧ y.timer = s.cycle ∧ y.msg = r.msg ∧
         (u.die dst).fab.counters.attempts = f.counters.attempts + 1#32) ∧
     (∀ q m, b = .giveup q → (f.filter src cls).late q = false → f.melds = [m] → m.msg.src = src → m.msg.cls = cls → m.msg.seq = q →
       ∃ u, exec .giveupArrival s = .next u ∧ (u.die dst).fab.melds = [] ∧ (u.die dst).fab.counters.givenup = f.counters.givenup + 1#32) ∧
     (∀ c, (∃ h, b = .ack h) → c < 2 → exec (if c = 0 then .busyArrival else .repairArrival) s = .next s)))

/-- R254, R255, R259 to R263: a fragment that arrives is checked: a damaged one is counted and dropped, one of a finished message counted and answered; else it opens a meld buffer or joins
one. Link control is read from one fragment, and a fragment for another module leaves as a write of a station. A buffer with k fragments delivers its message, an ordered one in its turn only, marks it and is freed; once its destination has finished, the filter moves on. That link
control is read from one fragment is log 36, that the hub of another module holds no state here log 34; a refused fragment counts as a loss of its chord or plane
for the life log (29_host_firmware.md R382), which of them is log 77. -/
def Obligations.MessageDelivery : Prop :=
  ∀ (s : State),
    let d := s.focus.die
    let f := (s.die d).fab
    (∀ x, s.frags[s.index]? = some x → x.msg.dst < 32 → (s.die x.msg.dst).live = true → (s.die x.msg.dst).stopped = false →
      s.chordSound x.msg.src x.msg.dst x.chord = true →
      let u : State := { s with frags := dropAt s.frags s.index }
      (x.msg.mtype < 6 ∨ 9 < x.msg.mtype → exec .fragmentArrival s = .next (u.takeFrag x.msg.dst x)) ∧
      (6 ≤ x.msg.mtype → x.msg.mtype ≤ 9 → x.refused = false → x.k = 1 →
        exec .fragmentArrival s = .next { u with
          linkMsgs := s.linkMsgs ++ [(x.msg.src, x.msg.dst, linkBody x.msg.mtype (decodeFrags 1 [(x.idx, x.payload)]))] })) ∧
    (∀ x, s.frags[s.index]? = some x → 32 ≤ x.msg.dst →
      exec .fragmentArrival s = .next { s with frags := dropAt s.frags s.index, podOut := s.podOut ++ [x.write] }) ∧
    (∀ x, let y := f.filter x.msg.src x.msg.cls
      (x.refused = true → s.takeFrag d x = (s.tally d fun c => { c with fragBad := c.fragBad + 1#32 }).count (lossCounter x.msg.src d x.chord)) ∧
      (x.refused = false → x.msg.seq ≤ y.h + 256 → y.late x.msg.seq = true →
        s.takeFrag d x = (s.tally d fun c => { c with lateFrag := c.lateFrag + 1#32 }).ack d x.msg.src x.msg.cls) ∧
      (x.refused = false → x.msg.seq ≤ y.h + 256 → y.late x.msg.seq = false → f.melds = [] →
        ((s.takeFrag d x).die d).fab.melds = [{ msg := x.msg, k := x.k, frags := [(x.idx, x.payload)], opened := s.cycle
                                                tmo := f.timeout x.msg.src, limit := f.repairLimit }]) ∧
      (∀ b, x.refused = false → x.msg.seq ≤ y.h + 256 → y.late x.msg.seq = false → f.melds = [b] → b.holds x.msg = true →
        (∀ e ∈ b.frags, e.1 ≠ x.idx) →
        ((s.takeFrag d x).die d).fab.melds = [{ b with frags := b.frags ++ [(x.idx, x.payload)] }])) ∧
    (∀ b, f.melds[s.index]? = some b → (s.die d).stopped = false →
      let m := b.msg
      (b.frags.length < b.k ∨ (m.ordered = true ∧ (f.filter m.src m.cls).h + 1 ≠ m.seq) → exec .meldDelivery s = .next s) ∧
      (m.src < 32 → b.k ≤ b.frags.length → m.ordered = false ∨ (f.filter m.src m.cls).h + 1 = m.seq →
        (∀ y, m.body = .dec y → (s.die d).nd.asks = [] →
          ∃ u, exec .meldDelivery s = .next u ∧ (u.die d).td.decs = (s.die d).td.decs ++ [y] ∧ (u.die d).fab.melds = dropAt f.melds s.index ∧
            ((u.die d).fab.filter m.src m.cls).late m.seq = true ∧ (u.die d).fab.finishing = f.finishing ++ [(m.src, m.cls, m.seq)]) ∧
        (∀ c, m.body = .card c → s.noTile d (fldN c.hw0 41 8) = false →
          ∃ u y, exec .meldDelivery s = .next u ∧ (u.die d).fab.melds = dropAt f.melds s.index ∧ (u.die d).mesh = (s.die d).mesh ++ [y] ∧
            y.tile = fldN c.hw0 41 8 ∧ y.msg = some (m.src, m.cls, m.seq) ∧ y.card.hw0 = c.hw0 ∧
            y.card.payload = (decodeFrags b.k (b.frags.take b.k)).take c.payload.length))) ∧
    (∀ src cls seq, f.finishing[s.index]? = some (src, cls, seq) → (f.filter src cls).h + 1 = seq → (f.filter src cls).done = [] →
      ∃ u, exec .messageCompleted s = .next u ∧ (u.die d).fab.finishing = dropAt f.finishing s.index ∧ ((u.die d).fab.filter src cls).h = seq) ∧
    (∀ p, decodeFrags 1 [(0, p)] = p)

/-- R240, R242 to R246, R251, R252: links retrain, are declared down after ten microseconds and come up; the dies at its ends mark their chords at once, the others when a message of MTYPE 10 brings the news; a write from the pod outside
the aperture and a read have no effect, a requester bound to no module is held; heartbeats leave as messages of MTYPE 10 and count misses, and a die whose group is too small stops until it may preside again; router
tables are written only on a stopped or halted die whose mesh is empty, and only legal ones. What the spec leaves open in it is the
model's choice: log 12, log 20, log 38, log 39, log 70. -/
def Obligations.LinksAndMembership : Prop :=
  ∀ (s : State),
    let d := s.focus.die
    let x := s.die d
    (s.index < 112 → s.link s.index = .up →
      ∃ u, exec .linkLossOfLock s = .next u ∧ u.link s.index = .retraining s.cycle ∧ (∀ l, l ≠ s.index → u.link l = s.link l) ∧
        ∀ y ∈ u.frags, y.msg.dst < 32 → s.index ∉ s.chordLinks y.msg.src y.msg.dst y.chord) ∧
    (∀ c, s.link s.index = .retraining c →
      (c + 12500 ≤ s.cycle → ∃ u, exec .linkDownDeclare s = .next u ∧ u.link s.index = .down ∧ (∀ l, l ≠ s.index → u.link l = s.link l) ∧
        let ends := (linkDies s.index).filter fun e => (s.die e).live
        (∀ e ∈ ends, ∀ a < 32, ∀ k < 4, s.index ∈ s.chordLinks e a k → ((u.die e).fab.chord a k).up = false) ∧
        (∀ e < 32, (s.die e).live = true → e ∉ ends → ∀ h, ends.head? = some h →
          ∃ m ∈ (u.die h).fab.outbox, m.dst = e ∧ m.body = .news h s.index ∧ m.mtype = 10)) ∧
      (s.cycle < c + 12500 → exec .linkDownDeclare s = .next s)) ∧
    (∀ a l, a < 32 → l ∉ x.news → s.accept d none (.news a l) = s.updDie d fun y => { y with news := y.news ++ [l] }) ∧
    (s.index ∈ x.news →
      ∃ u, exec .chordNewsArrival s = .next u ∧ s.index ∉ (u.die d).news ∧ ∀ e < 32, ∀ c < 4,
        (s.index ∈ s.chordLinks d e c → ((u.die d).fab.chord e c).up = false) ∧
        (s.index ∉ s.chordLinks d e c → (u.die d).fab.chord e c = x.fab.chord e c)) ∧
    (s.index < 112 → ∃ u, exec .linkUp s = .next u ∧ u.link s.index = .up) ∧
    (∀ r a, exec (.ualinkUnsupportedRequest r a) s = .next s) ∧
    (∀ q n (a : Word64) (w : BitVec 512),
      let words := (List.range 8).map fun i => fld w (64 * i) 64
      (a.toNat < s.aperture.toNat ∨ s.aperture.toNat + 2 ^ 55 ≤ a.toNat → exec (.ualinkInboundWrite q n a w) s = .next s) ∧
      (s.aperture.toNat ≤ a.toNat → a.toNat < s.aperture.toNat + 2 ^ 55 →
        (look? s.requesters q = none → exec (.ualinkInboundWrite q n a w) s = .next (s.holdMaster (.peer q) (a :: BitVec.ofNat 64 n :: words) 0 a)) ∧
        (∀ k, look? s.requesters q = some k → s.frozen = [] →
          exec (.ualinkInboundWrite q n a w) s = .next (s.podWrite n k (a.toNat - s.aperture.toNat) (leBytes 64 w.toNat))))) ∧
    (d < 32 → x.live = true → x.beat + 12500 ≤ s.cycle →
      ∃ u, exec .heartbeatTimer s = .next u ∧ (u.die d).beat = s.cycle ∧ (u.die d).heard = [] ∧
        (∀ e < 32, e ≠ d → look 0 (u.die d).missed e = if x.heard.contains e then 0 else look 0 x.missed e + 1) ∧
        (∀ e < 32, e ≠ d → (s.die e).live = true → ∃ m ∈ (u.die d).fab.outbox, m.dst = e ∧ m.body = .beat d ∧ m.mtype = 10 ∧ m.ordered = true) ∧
        (let miss : List (Nat × Nat) := (List.range 32).filterMap fun e =>
            if e = d then none else some (e, if x.heard.contains e then 0 else look 0 x.missed e + 1)
          let t := s.updDie d fun y => { y with beat := s.cycle, heard := [], missed := miss }
          t.mayPreside (t.groupOf d) = false → (u.die d).stopped = true)) ∧
    (∀ e < 32, s.accept d none (.beat e) = s.updDie d fun y => { y with beatIn := y.beatIn ++ [e] }) ∧
    (∀ e, x.beatIn[s.index]? = some e →
      exec .heartbeatArrival s = .next (s.updDie d fun y => { y with beatIn := dropAt y.beatIn s.index, heard := y.heard ++ [e] })) ∧
    (x.stopped = true → (∀ e ∈ s.dies, ∀ n ∈ e.2.nd.names, n.doubt = false) → s.mayPreside (s.groupOf d) = true →
      ∃ u, exec .rejoin s = .next u ∧ (u.die d).stopped = false ∧
        (u.die d).td.progress = x.td.progress.map fun p => (p.1, p.2 + (s.cycle - x.stoppedAt))) ∧
    (s.mayPreside (s.groupOf d) = false → exec .rejoin s = .next s) ∧
    (∀ l, let y := { x with routers := l.map fun e => ((e.1, e.2.1), e.2.2) }
      (x.stopped = true ∨ x.halt.isSome = true → x.mesh = [] → y.tablesOk = true → exec (.routerTableWrite l) s = .next (s.setDie d y)) ∧
      ((x.stopped = false ∧ x.halt = none) ∨ x.mesh ≠ [] ∨ y.tablesOk = false → exec (.routerTableWrite l) s = .next s))

/-! ### Replies, windows, snapshots -/

/-- R339, R314: a hub's reply is received by the instruction that asked, delivers its tokens, and keeps its provisional event for the block; a refusal faults the block; a reply whose
block is gone withdraws its event. A confirmed close gives up its reference, a withdrawn event is undone. What the spec leaves open in it is the
model's choice: log 47. -/
def Obligations.HubReplies : Prop :=
  ∀ (s : State),
    let d := s.focus.die
    let n := s.nd d
    (∀ r, n.replies[s.index]? = some r →
      let y := s.updNd d fun z => { z with replies := dropAt z.replies s.index }
      (∀ b op, (s.ctx r.place).run = some b → (b.asked.find? fun z => z.1 == r.index) = some (r.index, op) → b.serial = r.serial →
        b.fired.contains r.index = false →
        (∀ c, r.result = .refused c → exec .hubReplyArrival s = .next (y.faultAt r.place (some r.index) c 0#64 0#64)) ∧
        (∀ k g, r.result = .tokens k none → (∀ u v, op ≠ .cmd none (.ntxc u v)) → (b.shape r.index).targets = [g] → g ≠ 0x7F →
          b.tok g = none → b.reserved.contains g = false →
          ∃ u, exec .hubReplyArrival s = .next u ∧ (u.nd d).replies = dropAt n.replies s.index ∧ u.mem = s.mem ∧
            (u.ctx r.place).run = some { b.mark r.index (b.shape r.index) (some op) with
              provs := b.provs ++ r.prov.toList.map fun v => (r.index, v)
              tokens := b.tokens ++ [(g, k)] })) ∧
      ((s.ctx r.place).run = none →
        (r.prov = none → exec .hubReplyArrival s = .next y) ∧
        (∀ v, r.prov = some v → exec .hubReplyArrival s = .next (y.withdraw r.place v)))) ∧
    (∀ c, n.confirms[s.index]? = some c →
      let y := s.updNd d fun z => { z with confirms := dropAt z.confirms s.index }
      (∀ o r, c.prov = .close o r → exec .confirmationArrival s = .next (y.letGo o)) ∧
      (∀ o r, c.prov = .openRef o r ∨ c.prov = .made o r → exec .confirmationArrival s = .next y)) ∧
    (∀ c o w, n.withdraws[s.index]? = some c → c.prov = .window o w →
      exec .provisionalWithdraw s = .next s ∧
      ∃ u, exec .windowWithdraw s = .next u ∧ (u.nd d).withdraws = dropAt n.withdraws s.index ∧
        (u.objOf o).wins = eraseOne w (s.objOf o).wins) ∧
    (∀ c o r, n.withdraws[s.index]? = some c → c.prov = .openRef o r ∨ c.prov = .made o r →
      exec .windowWithdraw s = .next s ∧
      ∃ u, exec .provisionalWithdraw s = .next u ∧ (u.nd d).withdraws = dropAt n.withdraws s.index ∧
        (u.objOf o).refs = (s.objOf o).refs - 1 ∧ look 0 (u.objOf o).opens r = look 0 (s.objOf o).opens r - 1)

/-- R49 to R51, R188: a window that reaches its object's home is refused with `RIGHTS` where the region does not reach the object and with `MM_RACE` where it conflicts with one of
another owner; it waits while the list is full; else the home keeps it, and the same for a window of a
placement, whose dispatcher is answered. Windows conflict only between different owners, where one may write and not both are SYNC. R328, R336, R337, R347: a snapshot gives a new object with the source's descriptor, whose valid entries, and those of the source, are marked for copying; no byte of memory
changes. An object whose count is 0 and that has no window is reclaimed: its entry is free for an object with the next incarnation. What the spec leaves open in it is the
model's choice: log 28. -/
def Obligations.WindowsSnapshotsReclaims : Prop :=
  (∀ (s : State),
     let d := s.focus.die
     let n := s.nd d
     (∀ r g h w, n.windows[s.index]? = some r → r.kind = .window g h w →
       (∀ q ∈ n.windows.take s.index, q.winObj ≠ some (hobj h)) →
       let y := s.updNd d fun z => { z with windows := dropAt z.windows s.index }
       (s.reach r.region h = none → exec .windowRequest s = .next (y.answerReq d r.place r.serial r.index (.refused .rights) none)) ∧
       (∀ o, s.reach r.region h = some o →
         (16384 ≤ o.wins.length → exec .windowRequest s = .next s) ∧
         (o.wins.length < 16384 → o.wins.any (fun x => o.conflict x w) = true →
           exec .windowRequest s = .next (y.answerReq d r.place r.serial r.index (.refused .mmRace) none)) ∧
         (o.wins.length < 16384 → o.wins.any (fun x => o.conflict x w) = false →
           ∃ u, exec .windowRequest s = .next u ∧ (u.objOf (hobj h)).wins = o.wins ++ [w] ∧
             (u.nd d).windows = dropAt n.windows s.index ∧ u.mem = s.mem))) ∧
     (∀ r t k id w, n.windows[s.index]? = some r → r.kind = .place t k id w → (∀ q ∈ n.windows.take s.index, q.winObj ≠ some id) →
       let y := s.updNd d fun z => { z with windows := dropAt z.windows s.index }
       let o := s.objOf id
       (o.live = true → 16384 ≤ o.wins.length → exec .windowRequest s = .next s) ∧
       (o.live = false ∨ (o.wins.length < 16384 ∧ o.wins.any (fun x => o.conflict x w) = true) →
         exec .windowRequest s = .next (y.send d r.place.die (.granted t k id w false))) ∧
       (o.live = true → o.wins.length < 16384 → o.wins.any (fun x => o.conflict x w) = false →
         exec .windowRequest s = .next ((y.setObj id { o with wins := o.wins ++ [w] }).send d r.place.die (.granted t k id w true)))) ∧
     (∀ (o : Obj) a b, o.conflict a b = true → a.owner ≠ b.owner ∧ (a.rw = true ∨ b.rw = true) ∧ (a.sync = false ∨ b.sync = false))) ∧
  (∀ (s : State),
     let d := s.focus.die
     let n := s.nd d
     (∀ r h, n.snaps[s.index]? = some r → r.kind = .snap h → r.host = none →
       let y := s.updNd d fun z => { z with snaps := dropAt z.snaps s.index }
       (∀ c, y.snapshot d r.region h = .error c → exec .snapshotRequest s = .next (y.answerReq d r.place r.serial r.index (.refused c) none)) ∧
       (∀ id v, y.snapshot d r.region h = .ok (id, v) →
         exec .snapshotRequest s = .next (v.answerReq d r.place r.serial r.index
           (.tokens (.val (Reg.ofH (handleOf id (v.objOf id).inc))) none) (some (.made id r.region))))) ∧
     (∀ r h o id v, s.reach r h = some o → s.snapshot d r h = .ok (id, v) →
       (objDie id ≠ objDie (hobj h) ∨ fldN id 0 17 ≠ fldN (hobj h) 0 17) →
       (v.objOf id).desc = o.desc ∧ (v.objOf id).live = true ∧ (v.objOf id).refs = 1 ∧ (v.objOf id).source = some (hobj h) ∧
         (v.objOf (hobj h)).refs = o.refs + 1 ∧ v.mem = s.mem ∧
         ∀ j, entV (o.entry j) = true → entC ((v.objOf (hobj h)).entry j) = true ∧ entC ((v.objOf id).entry j) = true) ∧
     (let id := s.objId d s.index;
       let o := s.objOf id
       (o.live = false ∨ o.refs ≠ 0 ∨ o.wins ≠ [] ∨ s.runsCode id = true → exec .reclaim s = .next s) ∧
       (o.live = true → o.refs = 0 → o.wins = [] → s.runsCode id = false →
         let v := ((o.table.filter fun e => entV e.2).foldl (fun s e => s.dropFrame (entStack e.2) (entFrame e.2)) (s.invalidate id none)).setObj id
           { inc := o.inc + 1 }
         (v.objOf id).live = false ∧ (v.objOf id).inc = o.inc + 1 ∧
         (o.source = none → exec .reclaim s = .next (v.post o.region 7 (id.setWidth 64) 0#64 0#64)) ∧
         (∀ x, o.source = some x → exec .reclaim s = .next ((v.post o.region 7 (id.setWidth 64) 0#64 0#64).letGo x)))))

/-! ### Names and transactions -/

/-- R324, R325, R329 to R331, R341, R343: an open of a bound name is answered with its handle and the count is taken, of an unbound name with status 1, or it waits; one that waits at its
tile is presented again; a bind gives its name the object and the next GEN, an unbind frees it, and one that meets a PREPARED name is held. What the spec leaves open in it is the
model's choice: log 49. -/
def Obligations.OpensAndBinds : Prop :=
  ∀ (s : State),
    let d := s.focus.die
    let n := s.nd d
    (∀ r key wait, n.opens[s.index]? = some r → r.kind = .opn key wait → n.early r.stamp [key] = false →
      let y := s.updNd d fun z => { z with opens := dropAt z.opens s.index }
      let w : Opener := { place := r.place, serial := r.serial, index := r.index, region := r.region, wait := wait, since := r.since }
      (∀ x, n.name? key = some x → x.state = .bound →
        let h := handleOf x.obj (s.objOf x.obj).inc
        ((s.reach r.region h).isSome = true →
          exec .openRequest s = .next ((y.ref r.region h).answerReq d r.place r.serial r.index
            (.tokens (.val (Reg.ofH h)) (some (.val (Reg.ofW 0#64)))) (some (.openRef x.obj r.region)))) ∧
        (s.reach r.region h = none → exec .openRequest s = .next (y.answerReq d r.place r.serial r.index (.refused .rights) none))) ∧
      (n.name? key = none → wait = false → exec .openRequest s = .next (y.openNone d w 1)) ∧
      (n.name? key = none → wait = true → n.names.length < 65536 → n.waiting < 4096 → s.pending r.place r.serial r.index = true →
        ∃ u, exec .openRequest s = .next u ∧ (u.nd d).opens = dropAt n.opens s.index ∧ (u.nd d).name? key = some { key := key, waiters := [w] }) ∧
      (∀ x, n.name? key = some x → x.state = .prepared → n.waiting < 4096 → s.pending r.place r.serial r.index = true →
        ∃ u, exec .openRequest s = .next u ∧ (u.nd d).name? key = some { x with waiters := x.waiters ++ [w] })) ∧
    (let t := s.focus.tile;
      ∀ c serial k key wait since, (s.tile d t).represent[s.index]? = some (c, serial, k, key, wait, since) →
      let y := s.updTile d t fun x => { x with represent := dropAt x.represent s.index }
      (s.pending ⟨d, t, c⟩ serial k = true → since + 1024 ≤ s.cycle →
        exec .openRepresentTimer s = .next (y.send d (s.nameHub key) (.openReq { place := ⟨d, t, c⟩, serial := serial, index := k
                                                                                 region := (s.ctx ⟨d, t, c⟩).region
                                                                                 kind := .opn key wait, since := s.cycle }))) ∧
      (s.pending ⟨d, t, c⟩ serial k = false → exec .openRepresentTimer s = .next y)) ∧
    (∀ b, n.binds[s.index]? = some b → (∀ c ∈ n.binds.take s.index, c.key ≠ b.key) → n.early b.stamp [b.key] = false → b.host = none →
      (∀ o, n.name? b.key = none → n.names.length < 65536 → b.obj = some o →
        ∃ u y, exec .bindApply s = .next u ∧ (u.nd d).binds = dropAt n.binds s.index ∧ (u.nd d).name? b.key = some y ∧ y.state = .bound ∧
          y.obj = o ∧ y.gen = 1 ∧ y.region = b.region) ∧
      (∀ x o, n.name? b.key = some x → x.state = .bound → x.waiters = [] → b.obj = some o →
        ∃ u y, exec .bindApply s = .next u ∧ (u.nd d).name? b.key = some y ∧ y.state = .bound ∧ y.obj = o ∧ y.gen = (x.gen + 1) % 2 ^ 30 ∧
          (u.objOf x.obj).refs = (s.objOf x.obj).refs - 1) ∧
      (∀ x, n.name? b.key = some x → x.state = .bound → x.waiters = [] → x.held = [] → x.claims ≤ 1 → b.obj = none →
        ∃ u, exec .bindApply s = .next u ∧ (u.nd d).name? b.key = none ∧ (u.objOf x.obj).refs = (s.objOf x.obj).refs - 1) ∧
      (∀ x, n.name? b.key = some x → x.state = .prepared →
        ∃ u, exec .bindApply s = .next u ∧ (u.nd d).name? b.key = some { x with held := x.held ++ [b] }))

/-- R332 to R334, R346: a home votes yes where it prepares every name, else no; one no, or a vote that comes too late, aborts the transaction, and the last yes commits it;
a decision is applied at its home and acknowledged; the outcome is known with the last acknowledgement, or 1,250,000 cycles after the decision; the coordinator of a name in doubt is asked, and its firmware answers from its decision record, ABORT where it
has none. What the spec leaves open in it is the
model's choice: log 48. -/
def Obligations.Transactions : Prop :=
  ∀ (s : State),
    let d := s.focus.die
    let n := s.nd d
    (∀ p, n.prepares[s.index]? = some p → n.early p.stamp (p.entries.map (·.1)) = false →
      let y := s.updNd d fun z => { z with prepares := dropAt z.prepares s.index }
      (∀ v, y.prepareNames d p p.entries = (none, v) → exec .prepareRequest s = .next (v.send d p.coord (.vote (fldN p.txn 0 6) d true 0))) ∧
      (∀ c v, y.prepareNames d p p.entries = (some c, v) →
        exec .prepareRequest s = .next ((v.applyDecision d p.txn false).send d p.coord (.vote (fldN p.txn 0 6) d false c)))) ∧
    (∀ p key h, (∀ x, n.name? key = some x → x.state = .prepared → s.prepareName d p key h = .error 1) ∧
      (n.name? key = none → n.names.length < 65536 → h ≠ 0#64 → s.reach p.region h = none → s.prepareName d p key h = .error 6 ∧ shownCode 6 = 3) ∧
      (n.name? key = none → n.names.length < 65536 → h = 0#64 →
        ∃ v, s.prepareName d p key h = .ok v ∧ (v.nd d).name? key =
          some { key := key, state := .prepared, txn := p.txn, since := s.cycle, newRegion := p.region })) ∧
    (∀ t h yes c x, n.voteIn[s.index]? = some (t, h, yes, c) → n.txn? t = some x → x.phase = .preparing → h ∈ x.votes →
      let y := s.updNd d fun z => { z with voteIn := dropAt z.voteIn s.index }
      (yes = false → exec .prepareReplyArrival s = .next (y.txnDecide d t false c ((s.txnHomes x).filter fun k => k != h))) ∧
      (yes = true → x.votes = [h] → exec .prepareReplyArrival s = .next (y.txnDecide d t true 0 (s.txnHomes x))) ∧
      (yes = true → (∃ k ∈ x.votes, k ≠ h) →
        exec .prepareReplyArrival s = .next (y.updTxn d t fun z => { z with votes := x.votes.filter fun k => k != h }))) ∧
    (∀ h x, n.txn? s.index = some x →
      (x.phase = .preparing → h ∈ x.votes → x.sentAt + s.voteLimit d h ≤ s.cycle →
        exec (.voteLimitExpiry h) s = .next (s.txnDecide d x.id false 2 (s.txnHomes x))) ∧
      (s.cycle < x.sentAt + s.voteLimit d h → exec (.voteLimitExpiry h) s = .next s)) ∧
    (∀ x commit code, n.txns = [x] →
      ((s.txnDecide d x.id commit code [d]).nd d).decisions = n.decisions ++ [⟨s.txnId d x.id, d, commit, n.arrived⟩] ∧
      ((s.txnDecide d x.id commit code [d]).nd d).txns =
        [{ x with phase := if commit then .committed else .aborted, votes := [], acks := [d], decidedAt := s.cycle, code := code }]) ∧
    (∀ id commit k x, n.decisions[s.index]? = some ⟨id, d, commit, k⟩ → n.early k (n.keysOf id) = false → n.names = [x] → x.state = .prepared → x.txn = id → x.waiters = [] → x.held = [] →
      (commit = true → x.before = .unbound → x.newobj ≠ 0#32 →
        ∃ u y, exec .decisionArrival s = .next u ∧ (u.nd d).names = [y] ∧ y.state = .bound ∧ y.obj = x.newobj ∧ y.gen = (x.gen + 1) % 2 ^ 30 ∧
          (u.nd d).ackIn = n.ackIn ++ [(fldN id 0 6, d)] ∧ (u.nd d).decisions = dropAt n.decisions s.index) ∧
      (commit = false → x.before = .bound → x.newobj = 0#32 →
        ∃ u y, exec .decisionArrival s = .next u ∧ (u.nd d).names = [y] ∧ y.state = .bound ∧ y.obj = x.obj ∧ y.gen = x.gen ∧
          (u.nd d).ackIn = n.ackIn ++ [(fldN id 0 6, d)])) ∧
    (∀ t h x, n.ackIn[s.index]? = some (t, h) → n.txns = [x] → x.id = t → x.acks = [h] → x.phase = .committed → x.taken = false → x.host = none →
      ∃ u, exec .decisionAckArrival s = .next u ∧ (u.nd d).ackIn = dropAt n.ackIn s.index ∧
        (u.nd d).txns = [{ x with acks := [], outcome := some (shownCode (x.outcome.getD x.code)) }]) ∧
    (∀ x, n.txn? s.index = some x → x.phase = .committed → x.outcome = none → x.host = none →
      (x.decidedAt + 1250000 ≤ s.cycle → exec .ntxcAckTimer s = .next (s.updTxn d x.id fun y => { y with outcome := some 5 })) ∧
      (s.cycle < x.decidedAt + 1250000 → exec .ntxcAckTimer s = .next s)) ∧
    (∀ key x, n.name? key = some x → x.state = .prepared →
      (s.cycle < x.since + 1250000 → exec (.txnIndoubt key) s = .next s) ∧
      (x.since + 1250000 ≤ s.cycle →
        exec (.txnIndoubt key) s = .next (((if x.doubt then s else s.post x.region 10 (x.txn.setWidth 64) key 0#64).updNd d fun z =>
          z.putName { x with since := s.cycle, doubt := true }).send d (s.txnHub x.txn) (.inquiry { txn := x.txn, home := d, key := key }))) ∧
      (n.inquiries = [] → x.doubt = true → exec (.txnSettle key) s = .next (s.askCoordinator d x)) ∧
      (n.inquiries = [] → x.doubt = false → exec (.txnSettle key) s = .next s)) ∧
    (∀ q, n.inquiries = [q] →
      let y := s.updNd d fun z => { z with inquiries := [] }
      (∀ c, s.verdict d q.txn = some c → exec (.txnSettle q.key) s = .next (y.send d q.home (.decision q.txn d c))) ∧
      (s.verdict d q.txn = none → exec (.txnSettle q.key) s = .next y) ∧
      (n.txn? (fldN q.txn 0 6) = none → s.verdict d q.txn = some false) ∧
      (∀ x, n.txn? (fldN q.txn 0 6) = some x → (x.phase = .committed → s.verdict d q.txn = some true) ∧
        (x.phase = .aborted → s.verdict d q.txn = some false) ∧ (x.phase = .collecting ∨ x.phase = .preparing → s.verdict d q.txn = none)))

/-! ### The Task Dispatcher -/

/-- R292, R293, R300, R302, R315, R320: a decrement lowers COUNT of a WAITING record, which arms at 0; one for any other record is reported to its region; a kill ends a record
that is neither free nor terminal, a policy kill only one that is WAITING or ARMED. What the spec leaves open in it is the
model's choice: log 50. R290, R292, R301, R302, R323: a RUNNING task whose live tiles have all reported ends DONE, or FAULTED where an exit code is not 0. A task that ends DONE or KILLED without
an instance takes that STATE, its cause and the largest exit code reported, frees every tile, and sends one decrement to each successor of a DONE one. The end of a task that runs, by a fault or a
kill, waits for the blocks that commit on its tiles, whose commits go on to their ends (10_be_local_memory.md R164, log 40). What the spec leaves open in it is the
model's choice: log 40. -/
def Obligations.RecordsAndTheirEnds : Prop :=
  (∀ (s : State),
     let d := s.focus.die
     let td := (s.die d).td
     (∀ x, td.decs[s.index]? = some x → (∀ y ∈ td.decs.take s.index, y.target ≠ x.target) →
       let n := idSlot x.target
       let y := s.updTd d fun t => { t with decs := dropAt t.decs s.index }
       let c := Rec.count (s.slot d n).raw
       exec .decrementApply s = .next (y.applyDec d x) ∧
       (s.stateOf d n = 1 → x.final = false →
         (x.n < c →
           ∃ u, exec .decrementApply s = .next u ∧ (u.die d).td.decs = dropAt td.decs s.index ∧ u.stateOf d n = 1 ∧
             Rec.count (u.slot d n).raw = c - x.n ∧ u.mem = s.mem) ∧
         (x.n = c → n ∉ td.bad → s.recordFault (setFld (s.slot d n).raw 24 16 0) = none →
           ∃ u, exec .decrementApply s = .next u ∧ u.stateOf d n = 2 ∧ (u.slot d n).armedAt = s.cycle ∧ u.mem = s.mem)) ∧
       (s.stateOf d n ≠ 1 → x.final = false →
         exec .decrementApply s = .next (y.post (if s.stateOf d n = 0 then x.region else Rec.region (s.slot d n).raw) 5
           (x.target.setWidth 64) (x.source.setWidth 64) (BitVec.ofNat 64 (s.stateOf d n))))) ∧
     (∀ x, td.kills[s.index]? = some x → (∀ y ∈ td.kills.take s.index, y.target ≠ x.target) →
       let n := idSlot x.target
       let y := s.updTd d fun t => { t with kills := dropAt t.kills s.index }
       (s.stateOf d n = 0 ∨ terminal (s.stateOf d n) = true ∨ (x.policy = true ∧ s.stateOf d n ≠ 1 ∧ s.stateOf d n ≠ 2) →
         exec .killApply s = .next y) ∧
       (s.stateOf d n = 1 ∨ s.stateOf d n = 2 ∨ (x.policy = false ∧ s.stateOf d n ≠ 0 ∧ terminal (s.stateOf d n) = false) →
         exec .killApply s = .next (y.endTask d n 8 0 0 false x.sub)))) ∧
  (∀ (s : State),
     let d := s.focus.die
     let n := s.index
     (∀ r, s.stateOf d n = 5 → (s.slot d n).ending = none → (s.slot d n).rect = some r → (∀ t ∈ s.liveTiles d r, ∃ e ∈ (s.slot d n).reported, e.1 = r.rank t) →
       let exit := ((s.slot d n).reported.map (·.2)).foldl max 0
       exec .taskCompletion s = .next (s.endTask d n (if exit = 0 then 6 else 7) 0 exit true false)) ∧
     (∀ r, (s.slot d n).rect = some r → (∃ t ∈ s.liveTiles d r, ∀ e ∈ (s.slot d n).reported, e.1 ≠ r.rank t) →
       exec .taskCompletion s = .next s) ∧
     (∀ st cause exit sub, s.stateOf d n = 5 → s.midCommit d n = true → (s.slot d n).ending = none →
       let u := s.endTask d n st cause exit false sub
       u.stateOf d n = 5 ∧ (u.slot d n).ending = some ⟨st, cause, exit, sub⟩ ∧
         ∀ p ∈ s.gangCtxs d n, ∀ b, (s.ctx p).run = some b → b.committing = true → (u.ctx p).run = some { b with cut := true }) ∧
     (∀ st cause exit, let x := s.slot d n
       x.kind = .task → st = 6 ∨ st = 8 → Rec.state x.raw ≠ 5 ∨ st = 6 → cause < 256 → (x.reported.map (·.2)).foldl max exit < 256 → x.inst = none → x.refs = [] → Rec.join x.raw = 0#32 →
       let u := s.endTask d n st cause exit (st == 6) false
       (Rec.nsucc x.raw = 0 →
         u.stateOf d n = st ∧ fldN (Rec.status (u.slot d n).raw) 56 8 = cause ∧ fldN (Rec.status (u.slot d n).raw) 48 8 = (x.reported.map (·.2)).foldl max exit ∧
         (u.slot d n).rect = none ∧ u.mem = s.mem ∧ ∀ t < 144, (u.tile d t).task ≠ some (s.taskId d n)) ∧
       (∀ k, st = 6 → s.succsOf d x.raw = [k] → s.taskHub k = d →
         u.stateOf d n = 6 ∧ (u.die d).td.decs = (s.die d).td.decs ++ [{ target := k, n := 1, source := s.taskId d n, region := Rec.region x.raw, final := true }])))

/-- R50, R51, R236, R290, R292, R295, R299, R322: an ARMED task that no ladder and no TILES budget, its region's and those of its ancestors (log 26), holds back takes the first
rectangle that fits it while its windows go to their homes: the tiles are its own, with their mailboxes off. With
the last grant, or at once where it has no window, it is STAGING, the landing entries of its tiles FREE; a home's refusal faults it with
`MM_RACE`, and a grant that comes too late is withdrawn. A stopped or halted die places nothing. The task that has been ARMED for longer than T_RES brings a pass. R83, R86, R292, R293, R298, R303, R304: a merged staging read is made 256 cycles after it opened; a STAGING task with no image missing is READY; a READY task starts, and context 0 of each
live tile runs at its record's entry at USER, with the task's ID, the tile's gang word, the record's offset and the join in g0 to g3 and every other register EMPTY; the stages of a pipeline
start when every one is READY. What the spec leaves open in it is the
model's choice: log 41, log 42. -/
def Obligations.PlacementAndStarts : Prop :=
  (∀ (s : State) (n : Nat),
     let d := s.focus.die
     let x := s.slot d n
     let y := s.readBlocks [Rec.region x.raw]
     let wins := (((s.die d).td.savedOf n).map Saved.wins).getD (s.declared d n)
     ((s.die d).stopped = true ∨ (s.die d).halt.isSome = true → exec .placementPass s = .next s) ∧
     ((s.die d).stopped = false → (s.die d).halt = none → (s.die d).td.grants = [] → s.armedTasks d = [n] → s.stateOf d n = 2 → x.asking = none →
       s.ladderHolds d n = false → y.tilesFit (Rec.region x.raw) (Rec.w x.raw * Rec.h x.raw) = true →
       ∀ r, (s.choices d n).find? (s.fits d n) = some r →
         ∃ u, exec .placementPass s = .next u ∧ (u.slot d n).rect = some r ∧ u.mem = s.mem ∧
           (∀ t ∈ s.liveTiles d r, (u.tile d t).task = some (s.taskId d n) ∧ (u.tile d t).region = Rec.region x.raw ∧ (u.tile d t).runs = false ∧
             (u.tile d t).mbx = []) ∧
           (wins ≠ [] → u.stateOf d n = 2 ∧ (u.slot d n).asking = some { serial := s.cycle, left := wins.length }) ∧
           (wins = [] → u.stateOf d n = 3 ∧ (u.slot d n).asking = none)) ∧
     (∀ r, x.kind = .task →
       let u := s.stage d n r
       u.stateOf d n = 3 ∧ (u.slot d n).asking = none ∧ u.mem = s.mem ∧
         ∀ t ∈ s.liveTiles d r, (u.tile d t).task = (s.tile d t).task ∧ (u.tile d t).region = (s.tile d t).region ∧
           (u.tile d t).gang = s.gangWord d r t ∧ (u.tile d t).landing = [] ∧ (u.tile d t).mbx = (s.tile d t).mbx ∧ (u.tile d t).savedFlag = false) ∧
     (∀ r k, y.tilesFit r k = true ↔ ∀ a ∈ y.regions, y.isAncestor a.1 r = true →
       fldN (y.eff a.1 6) 114 14 = 0 ∨ y.tilesHeld a.1 + k ≤ fldN (y.eff a.1 6) 114 14) ∧
     (∀ k o w,
       (∀ a r, x.asking = some a → a.serial = k → x.rect = some r →
         let t := s.setSlot d n { x with asking := some { a with left := a.left - 1, granted := a.granted ++ [(o, w)] } }
         s.takeGrant d (n, k, o, w, false) = s.endTask d n 7 Cause.mmRace.code 0 false false ∧
         (1 < a.left → s.takeGrant d (n, k, o, w, true) = t) ∧
         (a.left ≤ 1 → t.ladderHolds d n = false → s.takeGrant d (n, k, o, w, true) = t.stage d n r)) ∧
       (x.asking = none → s.takeGrant d (n, k, o, w, true) = s.send d (s.objHub o) (.withdraw ⟨.window o w⟩) ∧
         s.takeGrant d (n, k, o, w, false) = s)) ∧
     (let y := s.slot d s.index;
       (s.stateOf d s.index = 2 → fldN (s.eff (Rec.region y.raw) 9) 160 32 < s.cycle - y.armedAt → exec .tResExpiry s = .next (s.pass d)) ∧
       (s.stateOf d s.index ≠ 2 → exec .tResExpiry s = .next s))) ∧
  (∀ (s : State),
     let d := s.focus.die
     let n := s.index
     let x := s.slot d n
     (∀ m a, (s.die d).td.merges[s.index]? = some m →
       (s.cycle < m.opened + 256 → exec .stagingMergeClose s = .next s) ∧
       (m.opened + 256 ≤ s.cycle → m.users = [a] →
         exec .stagingMergeClose s = .next ((s.updTd d fun t => { t with merges := dropAt t.merges s.index }).stageOne d a.1 a.2))) ∧
     (s.stateOf d n = 3 → x.staging = [] → ∃ u, exec .stagingComplete s = .next u ∧ u.stateOf d n = 4 ∧ u.tiles = s.tiles ∧ u.mem = s.mem) ∧
     (s.stateOf d n ≠ 3 → exec .stagingComplete s = .next s) ∧
     (s.stateOf d n = 4 → (s.die d).stopped = false → (s.die d).halt = none → s.ladderHolds d n = false → s.isStage d n = false →
       s.mayRun d n = true → (s.die d).td.savedOf n = none →
       ∃ u, exec .taskStart s = .next u ∧ u.stateOf d n = 5 ∧ u.mem = s.mem ∧
         ∀ t ∈ s.gangTiles d n,
           let c := u.ctx ⟨d, t, 0⟩
           c.phase = .running ∧ c.super = false ∧ c.code = Rec.code x.raw ∧ c.block = Rec.entry x.raw ∧ c.region = Rec.region x.raw ∧
           c.reg 0 = Reg.ofW ((s.taskId d n).setWidth 64) ∧ c.reg 1 = Reg.ofW (s.tile d t).gang ∧
           c.reg 2 = Reg.ofW (BitVec.ofNat 64 (256 * n)) ∧ c.reg 3 = Reg.ofW ((Rec.join x.raw).setWidth 64) ∧
           (∀ g, 4 ≤ g → c.reg g = {}) ∧ c.ras = [] ∧ c.issue = {} ∧ c.done = {} ∧ c.run = none) ∧
     (s.stateOf d n ≠ 4 → exec .taskStart s = .next s) ∧
     (∀ i k, (s.die d).td.insts = [i] → i.n = s.index → i.order = [(d, k)] → (s.slot d k).inst = some (d, s.index) → s.isStage d k = true →
       (s.die d).td.chans = [] →
       (s.stateOf d k = 4 → (s.die d).stopped = false → (s.die d).halt = none → s.ladderHolds d k = false →
         s.mayRun d k = true → exec .pipelineStart s = .next (s.startTask d k)) ∧
       (s.stateOf d k ≠ 4 → exec .pipelineStart s = .next s)))

/-! ### Pre-emption, saves, hangs, debug -/

/-- R199, R292, R305, R307: T1 cycles after a ladder began its save rung begins, T2 cycles later its reset rung, each at its time and not before; with no task to save the ladder is
complete. A task whose tiles have quiesced is saved: SUSPENDED, its tiles free and flagged; without room for its image it meets the reset rung. What the spec leaves open in it is the
model's choice: log 43, log 44. -/
def Obligations.LadderAndSaves : Prop :=
  ∀ (s : State),
    let d := s.focus.die
    let n := s.index
    (∀ l, s.ladders[s.index]? = some l → l.phase = 1 → s.haltFreezes l.region = false →
      (l.rung = 1 → l.started + l.t1 ≤ s.cycle → exec .ladderT1Expiry s = .next (s.rungSave l.scope)) ∧
      (l.rung = 1 → s.cycle < l.started + l.t1 → exec .ladderT1Expiry s = .next s) ∧
      (l.rung = 2 → l.started + l.t2 ≤ s.cycle → exec .ladderT2Expiry s = .next (s.rungReset l.scope)) ∧
      (l.rung = 2 → s.cycle < l.started + l.t2 → exec .ladderT2Expiry s = .next s)) ∧
    (∀ l, s.ladders = [l] → l.phase = 1 → s.coveredBy l = [] → s.ring l.region = none →
      (s.rungSave l.scope).ladders = [{ l with rung := 2, started := s.cycle, run := 0, phase := 2 }] ∧
      (s.rungReset l.scope).ladders = [{ l with rung := 3, started := s.cycle, run := 0, phase := 2 }]) ∧
    (s.stateOf d n = 5 → (s.slot d n).saving.isSome = true → (∀ t ∈ s.gangTiles d n, s.quiesced d t = true) →
      let len := ((s.gangTiles d n).map fun t => (s.saveBytes d n t).length).sum
      (∀ l off, s.ladders = [l] → l.phase = 1 → l.rung = 2 → s.covers l d n = true → s.areaRoom l.save len = some off →
        ∃ u, exec .taskSaveComplete s = .next u ∧ u.stateOf d n = 9 ∧
          ∀ t ∈ s.gangTiles d n, (u.tile d t).task = none ∧ (u.tile d t).savedFlag = true) ∧
      (∀ l, s.ladders = [l] → l.phase = 1 → l.rung = 2 → s.covers l d n = true → s.areaRoom l.save len = none →
        exec .taskSaveComplete s = .next (s.rungReset l.scope)) ∧
      (s.ladders = [] → s.areaRoom (rcbWord (s.eff (Rec.region (s.slot d n).raw) 14) 6) len = none →
        exec .taskSaveComplete s = .next ((s.markRung d n 3).resetKill d n))) ∧
    ((∃ t ∈ s.gangTiles d n, s.quiesced d t = false) → exec .taskSaveComplete s = .next s)

/-- R309 to R311, R361, R295, R297: a region, its block read for the check, whose contexts wait and that has made no progress for its hang window is hung, and not before; a debug halt stops its die's dispatch until it is
released and is told to every die; the counts of the regions that it froze go on from their frozen values when a die hears of the release, which lets a context that a `BKPT` halted decode its block again; a region's control block is written where its PARENT chain is good, and else not. What the spec leaves open in it is the
model's choice: log 45, log 46, log 56, log 70. -/
def Obligations.HangsHaltsRegions : Prop :=
  ∀ (s : State),
    let d := s.focus.die
    let r := s.index
    let last : Nat := (s.dies.map fun e => look 0 e.2.td.progress r).foldl max 0
    (s.presiding.isSome = true → (s.rcb r).isSome = true → s.regionCtxs r ≠ [] → (∀ p ∈ s.regionCtxs r, (s.die p.die).stopped = false) →
      s.haltFreezes r = false →
      let y := s.readBlocks [r]
      (last + 1024 * fldN (y.eff r 10) 128 32 ≤ s.cycle → exec .hangProgressReport s = .next (y.hang r)) ∧
      (s.cycle < last + 1024 * fldN (y.eff r 10) 128 32 → exec .hangProgressReport s = .next y)) ∧
    (∃ u, exec .debugHalt s = .next u ∧ (u.die d).halt = some ((s.die d).halt.getD s.cycle) ∧ u.tiles = s.tiles ∧ u.mem = s.mem ∧
      ((s.die d).halt = none → d < 32 → (s.die d).halts = [] → (u.die d).halts = [⟨d, s.cycle, (s.die d).regions⟩] ∧
        ∀ e < 32, e ≠ d → (s.die e).live = true →
          ∃ m ∈ (u.die d).fab.outbox, m.dst = e ∧ m.body = .halt d true (s.die d).regions ∧ m.mtype = 10)) ∧
    (∀ e q, e < 32 → s.accept d none (.halt e true q) = s.haltHeard d e q ∧ s.accept d none (.halt e false q) = s.haltOver d e) ∧
    (∀ h q, (s.die d).halts = [h] → s.haltCovers d q = h.regions.contains q ∧
      ∀ p : Place, p.die = d → p.ok = true → ∀ b, (s.ctx p).run = some b →
        ((s.haltOver d h.die).die d).halts = [] ∧ ((s.haltOver d h.die).ctx p).run = some { b with
          decodedAt := if h.regions.contains (s.ctx p).region then b.decodedAt + (s.cycle - max h.since b.decodedAt) else b.decodedAt
          waits := b.waits.map fun w => { w with
            since := if h.regions.contains (s.ctx p).region then w.since + (s.cycle - max h.since w.since) else w.since } }) ∧
    ((s.die d).halt = none → exec .debugHaltRelease s = .next s) ∧
    ((s.die d).halt.isSome = true →
      ∃ u, exec .debugHaltRelease s = .next u ∧ (u.die d).halt = none ∧ u.mem = s.mem ∧
        (∀ p : Place, p.ok = true → (u.ctx p).regs = (s.ctx p).regs) ∧
        (∀ (p : Place) f, p.ok = true → p.die = d → (s.ctx p).phase = .faulted → (s.ctx p).fault = some f → f.noTrap = true →
          (u.ctx p).phase = .running ∧ (u.ctx p).run = none ∧ (u.ctx p).bkptSkip = true)) ∧
    (∀ k b, let t : State := { s with regions := put s.regions k b }
      let good : Bool := decide (fldN b 40 12 = k ∧ (k ≠ 0 ∨ fldN b 52 12 = 0) ∧ t.chainOk 4097 [] k = true)
      (good = true → ∃ u, exec (.regionBlockWrite k b) s = .next u ∧ u.rcb k = some b ∧ ∀ j, j ≠ k → u.rcb j = s.rcb j) ∧
      (good = false → exec (.regionBlockWrite k b) s = .next s))

/-! ### The host -/

/-- R374 to R378: the presiding controller accepts the packet that TAIL makes available, in its sequence; a gap sets the queue in error with code 1, a tail too far ahead with
code 2; the record of the oldest command, once it is complete, is posted in its place in host memory while the ring has room and not otherwise, with the queue's vector raised, named here by function and queue (log 52), where its STATUS is not 0; a controller without quorum posts the records of status
commands alone (log 70). TAIL, CDONE and EN are written by the host; a doorbell of a frozen function is held (log 54). -/
def Obligations.HostQueues : Prop :=
  ∀ (s : State) (fn q : Nat),
    let x := s.queueOf fn q
    (s.presiding.isSome = true → x.state = .running → x.en = true → seqDist x.tail x.expect < 2 ^ 31 → seqDist x.expect x.lastComp ≤ 64 →
      let ws := bytesWords 8 (s.hostRead (x.rbase.toNat + 64 * (x.expect.toNat % 64)) 64)
      let w := ws.getD 0 0#64
      (64 < seqDist x.tail x.lastAcc →
        ∃ u, exec (.queueAccept fn q) s = .next u ∧ (u.queueOf fn q).state = .error ∧ (u.queueOf fn q).err = 2 ∧ u.cmds = s.cmds) ∧
      (seqDist x.tail x.lastAcc ≤ 64 → fld w 32 32 ≠ x.expect →
        ∃ u, exec (.queueAccept fn q) s = .next u ∧ (u.queueOf fn q).state = .error ∧ (u.queueOf fn q).err = 1 ∧ u.cmds = s.cmds) ∧
      (seqDist x.tail x.lastAcc ≤ 64 → fld w 32 32 = x.expect → packetOk w (ws.drop 1) = true →
        ∃ u, exec (.queueAccept fn q) s = .next u ∧ (u.queueOf fn q).lastAcc = x.expect ∧ (u.queueOf fn q).expect = x.expect + 1#32 ∧
          u.cmds = s.cmds ++ [{ fn := fn, q := q, seq := x.expect, kind := fldN w 24 8, flags := fldN w 16 8, args := ws.drop 1 }])) ∧
    (∀ c, (s.cmds.find? fun y => y.fn == fn && y.q == q) = some c →
      (s.answersHost c.kind = true → c.phase = .completed → seqDist c.seq x.cdone ≤ 128 →
        let a := hostKey (x.cbase.toNat + 32 * (c.seq.toNat % 128))
        ∃ u, exec (.completionPost fn q) s = .next u ∧ (u.queueOf fn q).lastComp = c.seq ∧ (∀ y ∈ u.cmds, ¬(y.fn = fn ∧ y.q = q ∧ y.seq = c.seq)) ∧
          Holds u.mem a (wordsBytes [BitVec.ofNat 64 (c.seq.toNat * 2 ^ 32 + c.status % 256 * 2 ^ 24 + c.kind % 256 * 2 ^ 16), c.w1, c.w2, 0#64]) ∧
          SameOutside s.mem u.mem [(a, 32)] ∧ u.msix = if c.status = 0 then s.msix else s.msix ++ [(fn, q)]) ∧
      (s.answersHost c.kind = false ∨ c.phase ≠ .completed ∨ 128 < seqDist c.seq x.cdone → exec (.completionPost fn q) s = .next s)) ∧
    (∀ p, s.presiding = some p → (s.die p).stopped = true → ∀ k, s.answersHost k = true ↔ k = 8 ∨ k = 12) ∧
    (s.fnFrozen fn = false → s.boot.step = .ready →
      (∀ v, ∃ u, exec (.doorbell fn q v) s = .next u ∧ (u.queueOf fn q).tail = v) ∧
      (∀ v, ∃ u, exec (.cdoneWrite fn q v) s = .next u ∧ (u.queueOf fn q).cdone = v) ∧
      (s.presiding.isSome = true →
        (∃ u, exec (.queueEnable fn q true) s = .next u ∧ (u.queueOf fn q).state = .running ∧ (u.queueOf fn q).en = true ∧
          (x.state ≠ .running → (u.queueOf fn q).err = 0)) ∧
        ∃ u, exec (.queueEnable fn q false) s = .next u ∧ (u.queueOf fn q).state = .off ∧ (u.queueOf fn q).en = false)) ∧
    (∀ v, s.fnFrozen fn = true → exec (.doorbell fn q v) s = .next (s.holdMaster (.function fn) [BitVec.ofNat 64 q, v.setWidth 64] 0 (v.setWidth 64)))

/-- R379, R377, R305, R306, R100, R101: what each host command does once it may start, in the region of its queue, at the presiding controller of die p, which has its quorum: its effect, or its refusal as STATUS. What the spec leaves open in it is the
model's choice: log 48, log 53. -/
def Obligations.HostCommands : Prop :=
  ∀ (s : State) (fn q p : Nat) (c : HostCmd),
    let r := (s.queueOf fn q).region
    let rights := s.finish c Cause.rights.code 0#64 0#64
    let begun := s.updCmd c fun c => { c with phase := .started }
    (s.rcb r).isSome = true → s.presiding = some p → (s.die p).stopped = false →
    ((s.cmds.find? fun y => y.fn == fn && y.q == q && y.kind == 0 && y.phase == .accepted) = some c →
      exec (.hostNop fn q) s = .next (s.finish c 0 0#64 0#64)) ∧
    (s.nextCmd fn q 7 = some c → ∀ l, (s.cmds.filter fun y => y.fn == fn && y.q == q) = c :: l →
      exec (.hostFence fn q) s = .next (begun.finish c 0 0#64 0#64)) ∧
    (s.nextCmd fn q 1 = some c →
      let d := fldN (c.arg 1) 8 5
      let t := fldN (c.arg 1) 0 8
      (s.reach r (c.arg 2) = none ∨ 144 ≤ t ∨ s.defective d t = true → exec (.kick fn q) s = .next rights) ∧
      ((s.reach r (c.arg 2)).isSome = true → t < 144 → s.defective d t = false →
        exec (.kick fn q) s = .next (begun.updTd d fun x => { x with kicks := x.kicks ++ [{ tile := t, host := (c.fn, c.q, c.seq.toNat), start :=
          { code := c.arg 2, block := fld (c.arg 3) 0 32, g0 := c.arg 4, g1 := c.arg 5, region := r } }] }))) ∧
    (s.nextCmd fn q 2 = some c →
      let d := fldN (c.arg 2) 0 5
      let id := hobj (c.arg 1)
      let n := fldN (c.arg 2) 8 8
      let tab := (List.range n).map fun i => c.arg (3 + i)
      (s.reach r (c.arg 1) = none → exec (.launch fn q) s = .next rights) ∧
      ((s.reach r (c.arg 1)).isSome = true →
        (s.tmplOk id = false ∨ fldN (s.tmplRec id 0) 40 8 ≠ n → exec (.launch fn q) s = .next (s.finish c Cause.reservedField.code 0#64 0#64)) ∧
        (s.tmplOk id = true → fldN (s.tmplRec id 0) 40 8 = n → (∀ h ∈ tab, (s.reach r h).isSome = true) →
          (s.claimInst d r id tab (some (c.fn, c.q)) = none → exec (.launch fn q) s = .next (s.finish c 0 0#64 0#64)) ∧
          (∀ i t, s.claimInst d r id tab (some (c.fn, c.q)) = some (i, t) → bit (c.arg 2) 63 = false →
            exec (.launch fn q) s = .next ((t.finish c 0 ((s.instId i).setWidth 64) 0#64).commitInst d i.n))))) ∧
    (s.nextCmd fn q 3 = some c →
      let d := fldN (c.arg 3) 0 5
      let made := s.makeObj d r (BitVec.ofNat 512 (leNat (s.hostRead (c.arg 2).toNat 64)))
      (∀ e, made = .error e → exec (.makeobj fn q) s = .next (s.finish c e.code 0#64 0#64)) ∧
      (∀ id t, made = .ok (id, t) →
        exec (.makeobj fn q) s = .next ((t.updCmd c fun c => { c with phase := .started }).hostBind d c.fn c.q c.seq.toNat (c.arg 1) id r))) ∧
    (s.nextCmd fn q 4 = some c →
      (c.pairs = [] → exec (.bindn fn q) s = .next (s.finish c 0 0#64 0#64)) ∧
      (∀ k h, c.pairs = [(k, h)] → h ≠ 0#64 →
        (s.reach r h = none → exec (.bindn fn q) s = .next rights) ∧
        ((s.reach r h).isSome = true →
          exec (.bindn fn q) s = .next (((s.hold (hobj h)).updCmd c fun c => { c with phase := .started }).send p (s.nameHub k)
            (.bind { key := k, obj := some (hobj h), region := r, host := some (c.fn, c.q, c.seq.toNat) })))) ∧
      (2 ≤ c.pairs.length → (∀ x ∈ c.pairs, x.2 = 0#64 ∨ (s.reach r x.2).isSome = true) → exec (.bindn fn q) s = .next (s.hostTxn p c r))) ∧
    (let t := (s.draw 2).2;
      s.hostOutcome fn q s.index 3 = t.hostDone fn q s.index Cause.nameCapacity.code 3#64 0#64 ∧
      s.hostOutcome fn q s.index 6 = t.hostDone fn q s.index Cause.rights.code 3#64 0#64 ∧
      s.hostOutcome fn q s.index 1 = t.hostDone fn q s.index Cause.txnConflict.code 1#64 0#64 ∧
      s.hostOutcome fn q s.index 0 = t.hostDone fn q s.index 0 0#64 0#64) ∧
    (s.nextCmd fn q 5 = some c → s.index = 0 → exec (.copyin fn q) s = .next (s.beginCopy c r)) ∧
    (s.nextCmd fn q 6 = some c → s.index = 0 → exec (.copyout fn q) s = .next (s.beginCopy c r)) ∧
    (∀ k, s.index = k + 1 →
      ((s.cmds.filter fun y => y.fn == fn && y.q == q && y.kind == 5 && y.phase == .started)[k]? = some c →
        exec (.copyin fn q) s = .next (s.endCopy c r p)) ∧
      ((s.cmds.filter fun y => y.fn == fn && y.q == q && y.kind == 6 && y.phase == .started)[k]? = some c →
        exec (.copyout fn q) s = .next (s.endCopy c r p))) ∧
    (∀ h o, s.copyHandle c = some (.ok h) → s.reach r h = some o →
      (c.window.within o.desc = false → s.beginCopy c r = s.finish c Cause.window.code 0#64 0#64) ∧
      (c.window.within o.desc = true → o.wins.length < 16384 → (∀ w ∈ o.wins, o.conflict w c.window = false) →
        ((s.beginCopy c r).objOf (hobj h)).wins = o.wins ++ [c.window])) ∧
    (s.nextCmd fn q 8 = some c →
      exec (.qstat fn q) s = .next (s.finish c 0 (BitVec.ofNat 64 ((s.queueOf fn q).lastAcc.toNat * 2 ^ 32 + (s.queueOf fn q).lastComp.toNat))
        (s.queueWord fn q))) ∧
    (s.nextCmd fn q 9 = some c →
      (s.scopeOf c r = none → exec (.preempt fn q) s = .next rights) ∧
      (∀ x k, s.scopeOf c r = some (x, k) →
        exec (.preempt fn q) s = .next ((s.preempt x k (fn, q)).finish c 0 ((s.preempt x k (fn, q)).queueWord fn q) 0#64))) ∧
    (s.nextCmd fn q 10 = some c →
      (s.scopeOf c r = none → exec (.resume fn q) s = .next rights) ∧
      (∀ x k, s.scopeOf c r = some (x, k) →
        exec (.resume fn q) s = .next ((s.resume x).finish c 0 ((s.resume x).queueWord fn q) 0#64))) ∧
    (s.nextCmd fn q 11 = some c →
      (s.reach r (c.arg 1) = none → exec (.snapshot fn q) s = .next rights) ∧
      ((s.reach r (c.arg 1)).isSome = true →
        exec (.snapshot fn q) s = .next (begun.send p (s.objHub (hobj (c.arg 1))) (.snapReq
          { place := {}, serial := 0, index := 0, region := r, kind := .snap (c.arg 1), since := s.cycle, host := some (c.fn, c.q, c.seq.toNat) })))) ∧
    (s.nextCmd fn q 12 = some c → exec (.partstat fn q) s = .next (s.finish c 0 s.liveWord s.partWord)) ∧
    (∀ k, let d := s.focus.die
      (s.die d).td.kicks[s.index]? = some k → (∀ x ∈ (s.die d).td.kicks.take s.index, x.tile ≠ k.tile) →
      ((s.tile d k.tile).startQ.length < 16 →
        ∃ u, exec .kickDelivery s = .next u ∧ (u.tile d k.tile).startQ = (s.tile d k.tile).startQ ++ [k.start] ∧
          (u.die d).td.kicks = dropAt (s.die d).td.kicks s.index) ∧
      (16 ≤ (s.tile d k.tile).startQ.length → exec .kickDelivery s = .next s))

/-! ### Firmware -/

/-- R83, R371, R382, R384: power-up and the resets: every context and queue holds its reset values and the boot window waits for an image; power-up clears the module's memory, a device reset
its local stores, and appends an epoch to the life log; a die reset does so for the tiles of one die, and the other dies keep all but their messages with it, which start again (log 76); an epoch is appended each 60 s;
host memory is never touched. R370 to R373, R380: the image that GO names, over a link that has trained, is checked: one that passes runs the firmware, a copy of it at every controller that the loader reaches, with region 0, key
slot 0 alone, HBM zero and each chord available whose links are up; one that does not leaves the window waiting with its failed step; a change of the presiding controller places every queue in error with code 4, and without one they are off; attestation answers once firmware runs. What the spec leaves open in it is the
model's choice: log 2, log 5, log 19, log 21, log 39, log 51. -/
def Obligations.ResetsBootElection : Prop :=
  (∀ (s : State),
     let d := s.focus.die
     (∃ u, exec .powerUp s = .next u ∧ (∀ p, u.ctx p = {}) ∧ u.boot = {} ∧ u.queues = [] ∧ u.keys = [] ∧ u.presiding = none ∧
       (∀ k, Memory.read u.mem k = if 2 ^ 42 ≤ k then Memory.read s.mem k else 0#8) ∧
       ∀ e ∈ u.dies, ∃ x, (e.1, x) ∈ s.dies ∧ e.2 = { defects := x.defects }) ∧
     (∃ u, exec .deviceReset s = .next u ∧ (∀ p, u.ctx p = {}) ∧ u.boot = {} ∧ u.queues = [] ∧ u.keys = [] ∧ u.presiding = none ∧
       (∀ k, Memory.read u.mem k = if 2 ^ 34 ≤ k then Memory.read s.mem k else 0#8) ∧
       (let grown := (s.counts ++ s.grownCounts).filter fun c => c.2 != 0;
         (s.lifeLog.map Epoch.size).sum + (1 + grown.length + s.hists.length) ≤ 2 ^ 20 →
         u.lifeLog = s.lifeLog ++ [{ seconds := s.cycle / 1250000000, svn := s.boot.svn, counts := grown, hists := s.hists }])) ∧
     (∃ u, exec .dieReset s = .next u ∧ (∀ p : Place, p.ok = true → p.die = d → u.ctx p = {}) ∧ u.nd d = {} ∧ (u.die d).td = {} ∧
       ((∀ e < 32, e ≠ d → (s.die e).halts = [] ∧ ∀ r ∈ (s.die e).fab.retained, r.msg.dst ≠ d) →
         (∀ p : Place, p.ok = true → p.die ≠ d → u.ctx p = s.ctx p) ∧
         (∀ e < 32, e ≠ d → u.nd e = s.nd e ∧ (u.die e).td = (s.die e).td ∧ (u.die e).fab.retained = (s.die e).fab.retained ∧
           (∀ x ∈ (u.die e).fab.filters, x.src ≠ d) ∧ ∀ c, (u.die e).fab.lastSeq d c = 0) ∧
         ∀ k, Memory.read u.mem k = if lsKey d 0 0 ≤ k ∧ k < lsKey (d + 1) 0 0 then 0#8 else Memory.read s.mem k)) ∧
     (∀ a b, (110 < a ∨ 45 < b → exec (.overtempReset a b) s = exec .deviceReset s) ∧
       (a ≤ 110 → b ≤ 45 → exec (.overtempReset a b) s = .next s)) ∧
     (s.cycle < s.lastEpoch + 75000000000 → exec .lifeLogEpoch s = .next s) ∧
     (s.lastEpoch + 75000000000 ≤ s.cycle →
       ∃ u, exec .lifeLogEpoch s = .next u ∧ u.counts = [] ∧ u.hists = [] ∧ u.lastEpoch = s.cycle ∧ u.mem = s.mem ∧ u.tiles = s.tiles ∧
         ∀ e, u.die e = { s.die e with errors := 0 })) ∧
  (∀ (s : State) (n : BitVec 32),
     let link := s.index
     (s.hostLinks.contains link = false → exec (.bootGoWrite n) s = .next s) ∧
     (s.hostLinks.contains link = true → s.fnFrozen (17 * link) = true →
       exec (.bootGoWrite n) s = .next (s.holdMaster (.function (17 * link)) [1000#64, n.setWidth 64] 0 (n.setWidth 64))) ∧
     (s.hostLinks.contains link = true → s.fnFrozen (17 * link) = false →
       (s.boot.step = .ready ∨ s.loader = none → exec (.bootGoWrite n) s = .next s) ∧
       (∀ l, s.boot.step ≠ .ready → s.loader = some l →
         ∃ u k, exec (.bootGoWrite n) s = .next u ∧
           if s.boot.passes n.toNat = true then
             u.boot.step = .ready ∧ u.regions = [(0, rootBlock)] ∧ u.keys = [(0, k)] ∧ u.frames = [] ∧
               u.boot.digest = Config.sm3 (s.boot.bytes 0 (256 + n.toNat)) ∧
               (∀ d < 32, (s.die d).live = true → dieSite d ∈ s.sites l → (u.die d).ctl.firmware = s.boot.bytes 0 (256 + n.toNat)) ∧
               (∀ d < 32, ∀ e < 32, ∀ c < 4, let x := (u.die d).fab.chord e c
                 x.valid = true ∧ x.links = (chordTable d e).getD c [] ∧ (x.up = true ↔ ∀ y ∈ x.links, s.link y = .up)) ∧
               ∀ a, Memory.read u.mem a = if 2 ^ 34 ≤ a ∧ a < 2 ^ 42 then 0#8 else Memory.read s.mem a
           else u = { s with boot := { s.boot with step := .failed 4 } })) ∧
     (s.boot.step ≠ .ready → exec .presidingElection s = .next s) ∧
     (s.boot.step = .ready → s.elected = s.presiding → exec .presidingElection s = .next s) ∧
     (s.boot.step = .ready → s.elected ≠ s.presiding →
       ∃ u, exec .presidingElection s = .next u ∧ u.presiding = s.elected ∧
         ∀ fn < 34, ∀ q < 8, (s.elected.isSome = true → (u.queueOf fn q).state = .error ∧ (u.queueOf fn q).err = 4) ∧
           (s.elected = none → (u.queueOf fn q).state = .off)) ∧
     (∀ w, s.boot.step ≠ .ready ∨ s.hostLinks.contains link = false → exec (.spdmRequest w) s = .next s) ∧
     (s.boot.step = .ready → s.hostLinks.contains link = true →
       let answer (l : List Byte) : State := { s with doe := put s.doe link l }
       exec (.spdmRequest .identity) s = .next (answer Config.spdmIdentity) ∧
       exec (.spdmRequest .certificate) s = .next (answer Config.spdmCertificate) ∧
       (∀ k, let l := leBytes 1 k ++ leBytes 32 (s.measure k).toNat
         exec (.spdmRequest (.measurement k)) s = .next (answer (l ++ leBytes 64 (Config.sm2Sign l).toNat))) ∧
       s.measure 2 = s.boot.digest))

/-- R5, R170, R245, R255, R257, R369, R370, R374: a write to a register stores the value as its access codes say: fields that a register does not have read 0, a timeout is at least
1,024, a rate at most 8, a tile-table entry takes no reserved bit; a chord is valid as its bit says and available while no link of it is down; the die map
writes local store and landing data. The word of a held window write is log 54. -/
def Obligations.RegisterWrites : Prop :=
  ∀ (s : State) (v : Word64),
    (∀ n, exec (.registerWrite (.unused n) v) s = .next s) ∧
    exec (.registerWrite .aperture v) s = .next { s with aperture := v } ∧
    (∀ k, ∃ u, exec (.registerWrite (.requester k) v) s = .next u ∧ look? u.requesters k = some (v.toNat % 1024)) ∧
    (∀ d, ∃ u, exec (.registerWrite (.meldcfg d) v) s = .next u ∧ (u.die d).fab.tmoPod = max 1024 (fldN v 40 24) ∧
      (u.die d).fab.tmoPanel = max 1024 (fldN v 16 24) ∧ (u.die d).fab.repairLimit = min 8 (fldN v 0 4)) ∧
    (∀ d k, ∃ u, exec (.registerWrite (.coderate d k) v) s = .next u ∧ (u.die d).fab.rate k = (min 8 (fldN v 4 4), min 8 (fldN v 0 4))) ∧
    (∀ fn q, s.fnFrozen fn = false → s.boot.step = .ready →
      (∃ u, exec (.registerWrite (.queueRbase fn q) v) s = .next u ∧ (u.queueOf fn q).rbase = setFld v 0 12 0) ∧
      (∃ u, exec (.registerWrite (.queueCbase fn q) v) s = .next u ∧ (u.queueOf fn q).cbase = setFld v 0 12 0) ∧
      ((s.queueOf fn q).en = false →
        ∃ u, exec (.registerWrite (.queueExpect fn q) v) s = .next u ∧ (u.queueOf fn q).expect = fld v 0 32)) ∧
    (∀ fn q, ((s.rcb (fldN v 0 12)).isSome = true →
        ∃ u, exec (.registerWrite (.queueRegion fn q) v) s = .next u ∧ (u.queueOf fn q).region = fldN v 0 12) ∧
      (s.rcb (fldN v 0 12) = none → exec (.registerWrite (.queueRegion fn q) v) s = .next s)) ∧
    (∀ o j, (s.objOf o).live = true → j < Desc.entries (s.objOf o).desc →
      ∃ u, exec (.registerWrite (.tileTable o j) v) s = .next u ∧ (u.objOf o).entry j = setFld (setFld (setFld v 56 3 0) 16 16 0) 5 3 0 ∧
        ∀ k, k ≠ j → (u.objOf o).entry k = (s.objOf o).entry k) ∧
    (∀ a, s.hostLinks.contains s.index = true → s.fnFrozen (17 * s.index) = true →
      exec (.registerWrite (.bootWindow a) v) s = .next (s.holdMaster (.function (17 * s.index)) [BitVec.ofNat 64 (1024 + a), v] 0 v)) ∧
    (∀ a, s.hostLinks.contains s.index = true → s.fnFrozen (17 * s.index) = false → s.loader ≠ none → s.boot.step ≠ .ready →
      ∃ u, exec (.registerWrite (.bootWindow a) v) s = .next u ∧ (∀ i < 8, look 0#8 u.boot.image (a + i) = fld v (8 * i) 8) ∧
        ∀ k, k < a ∨ a + 8 ≤ k → look 0#8 u.boot.image k = look 0#8 s.boot.image k) ∧
    (∀ d e c, ∃ u, exec (.registerWrite (.chordValid d e c) v) s = .next u ∧ ((u.die d).fab.chord e c).valid = bit v 0 ∧
      ((u.die d).fab.chord e c).links = ((s.die d).fab.chord e c).links ∧
      (((u.die d).fab.chord e c).up = true ↔ ∀ y ∈ ((s.die d).fab.chord e c).links, s.link y ≠ .down)) ∧
    (∀ d t a, ∃ u, exec (.registerWrite (.mapStore d t a) v) s = .next u ∧ Holds u.mem (lsKey d t a) (leBytes 8 v.toNat) ∧
      SameOutside s.mem u.mem [(lsKey d t a, 8)]) ∧
    (∀ d t a, a % 8 = 0 → ∃ u, exec (.registerWrite (.mapLanding d t a) v) s = .next u ∧ u.mem = s.mem ∧
      (u.tile d t).lb (a / 256) = { (s.tile d t).lb (a / 256) with bits := setFld ((s.tile d t).lb (a / 256)).bits (a % 256 * 8) 64 v.toNat } ∧
      ∀ k, k ≠ a / 256 → (u.tile d t).lb k = (s.tile d t).lb k)

/-- R355, R361, R368, R369, R380, R384: a request outside the windows freezes its function; a frozen master goes on, its held requests in order, or is reset, its held
commands completing with `RIGHTS`; firmware reads and writes the contexts of a halted die; a machine check ends the task of its tile; a key slot in use is not loaded; throttling steps up
at once, above the threshold of a step, and down after ten milliseconds below it. What the spec leaves open in it is the
model's choice: log 54, log 55, log 56, log 57 (the words of a request outside the windows). -/
def Obligations.ProtectionAndService : Prop :=
  ∀ (s : State),
    let d := s.focus.die
    (∀ fn w, exec (.pcieOutOfWindowRequest fn w) s = .next (s.holdMaster (.function fn) [64#64, w] (s.queueOf fn 0).region w)) ∧
    (∀ f, s.frozen[s.index]? = some f →
      let y : State := { s with frozen := dropAt s.frozen s.index }
      (∀ p, f.who = .context p → f.held = [] →
        ∃ u, exec .masterUnfreeze s = .next u ∧ u.frozen = dropAt s.frozen s.index ∧ u.ctx p = { s.ctx p with frozen := false }) ∧
      (∀ fn, f.who = .function fn → exec .masterUnfreeze s = .next (y.replayFn fn f.held) ∧ exec .masterReset s = .next y) ∧
      (∀ k, f.who = .peer k → exec .masterUnfreeze s = .next (y.replayPeer k f.held.length f.held) ∧ exec .masterReset s = .next y) ∧
      (∀ c t, f.who = .copyQueue c t → (s.tile c t).copyQ = [] →
        ∃ u, exec .masterUnfreeze s = .next u ∧ (u.tile c t).copyFrozen = false) ∧
      (∀ c t e, f.who = .copyQueue c t → (s.tile c t).copyFrozen = true → (s.tile c t).copyQ = [e] → e.running = false → e.ctx = 0 →
        (s.ctx ⟨c, t, 0⟩).done.ce + 1 = e.num → (s.ctx ⟨c, t, 0⟩).doneOut = [] →
        ∃ u, exec .masterReset s = .next u ∧ (u.tile c t).copyFrozen = false ∧ (u.tile c t).copyQ = [] ∧ (u.ctx ⟨c, t, 0⟩).done.ce = e.num ∧
          (u.ctx ⟨c, t, 0⟩).recf = (s.ctx ⟨c, t, 0⟩).recf ++ [⟨.ce, e.num, .rights, false⟩]) ∧
      (∀ p, f.who = .context p → (s.ctx p).frozen = true → p.ctx ≠ 0 → (s.ctx p).trapRun = false → (∀ r, (s.ctx p).run = some r → r.provs = []) →
        ∃ u, exec .masterReset s = .next u ∧ (u.ctx p).phase = .idle ∧ (u.ctx p).frozen = false ∧ (u.ctx p).run = none)) ∧
    (let p := s.focus;
      ((s.die d).halt = none → ∀ b, exec (.haltedContextWrite b) s = .next s) ∧
      ((s.die d).halt.isSome = true →
        (exec (.haltedContextWrite none) s = .next (s.updDie d fun x => { x with image := (s.ctx p).image p.ctx (s.taskOn p) })) ∧
        (∀ b, b.length = imageSize p.ctx → imageOk p.ctx b = true → p.ctx ≠ 0 → (s.ctx p).run.any Run.committing = false →
          exec (.haltedContextWrite (some b)) s = .next ((s.abandon p).restoreCtx p p.ctx b)) ∧
        (∀ b, b.length ≠ imageSize p.ctx ∨ imageOk p.ctx b = false → exec (.haltedContextWrite (some b)) s = .next s))) ∧
    (∀ t, (s.die d).checks[s.index]? = some t →
      let y := (s.updDie d fun x => { x with checks := dropAt x.checks s.index }).count (checkCounter d)
      let domain (r : Nat) : Nat := fldN (s.eff r 4) 10 8
      let told := (s.regions.map (·.1)).filter fun r => domain r == domain (s.tile d t).region
      ((s.tile d t).task = none → told = [] → exec .machineCheck s = .next y) ∧
      (∀ id, (s.tile d t).task = some id → told = [Rec.region (s.slot d (idSlot id)).raw] →
        exec .machineCheck s = .next (y.endTask d (idSlot id) 7 0x3F 0 false false))) ∧
    (∀ k a b, (s.slotUsed k = true → exec (.keySlotLoad k a b) s = .next s) ∧
      (s.slotUsed k = false → ∃ u, exec (.keySlotLoad k a b) s = .next u ∧ look? u.keys k = some (a, b) ∧ ∀ j, j ≠ k → look? u.keys j = look? s.keys j)) ∧
    (∀ r, let k := throttleStep r
      (s.throttle ≤ k → ∃ u, exec (.throttleStepUp r) s = .next u ∧ u.throttle = k ∧ u.coolSince = none ∧ u.reading = some r) ∧
      (k < s.throttle → ∃ u, exec (.throttleStepUp r) s = .next u ∧ u.throttle = s.throttle ∧ u.coolSince = some (s.coolSince.getD s.cycle) ∧
        u.reading = some r) ∧
      (k = 3 ↔ 16400 < r.watts ∨ 105 < r.dieC) ∧ (2 ≤ k ↔ 16000 < r.watts ∨ 100 < r.dieC) ∧ (1 ≤ k ↔ 15500 < r.watts ∨ 95 < r.dieC)) ∧
    (∀ c r, s.coolSince = some c → s.reading = some r →
      (c + 12500000 ≤ s.cycle → ∃ u, exec .throttleStepDown s = .next u ∧ u.throttle = s.throttle - 1 ∧ u.mem = s.mem) ∧
      (s.cycle < c + 12500000 → exec .throttleStepDown s = .next s)) ∧
    (s.coolSince = none → exec .throttleStepDown s = .next s)

/-! ### The whole machine -/

/-- R2, R60 to R64: words written out from the encodings of the spec decode, byte by byte from the lowest address, to the instructions that they stand for; a word whose primary opcode is
undefined, OP 0x00 among them, is no instruction. -/
def Obligations.DecodedWords : Prop :=
  decodeBytes [0x7F#8, 0x30#8, 0x00#8, 0x20#8] = .ok (.add 0#2 0#2 0x60#7 0x7F#7, []) ∧
  decodeBytes [0xE0#8, 0xFF#8, 0x03#8, 0x22#8] = .ok (.addi 0#2 0x7FF#11 0x60#7, []) ∧
  decodeBytes [0xFF#8, 0x3F#8, 0x08#8, 0x0C#8] = .ok (.bri 0#2 2#3, []) ∧
  decodeBytes [0x7F#8, 0x30#8, 0x00#8, 0x60#8] = .ok (.vadd 0#2 0x60#7 0x7F#7, []) ∧
  decodeBytes [0x61#8, 0xC4#8, 0x15#8, 0x40#8] = .ok (.ldl 0#2 5#5 1#1 3#2 8#7 0x61#7, []) ∧
  decodeBytes [0xFF#8, 0x00#8, 0x0C#8, 0x80#8] = .ok (.gset 0#2 3#5 1#3 0x7F#7, []) ∧
  decodeBytes [0xFF#8, 0x24#8, 0x00#8, 0x82#8] = .ok (.mma 0#2 0#5 2#4 1#2 0x7F#7, []) ∧
  decodeBytes [0x21#8, 0x12#8, 0x7C#8, 0x84#8] = .ok (.send 0#2 31#5 1#1 4#5 0x21#7, []) ∧
  decodeBytes [0x7F#8, 0x00#8, 0x08#8, 0x87#8] = .ok (.tdec 2#2 2#5, []) ∧
  decodeBytes [0xE0#8, 0x11#8, 0x04#8, 0x88#8] = .ok (.nopen 0#2 1#5 1#1 3#5 0x60#7, []) ∧
  decodeBytes [0xFF#8, 0x22#8, 0x00#8, 0x8A#8] = .ok (.bkpt 0#2 0#5 5#6, []) ∧
  ∀ x : Word32, let op := x.toNat / 2 ^ 25
    op = 0 ∨ (0x18 ≤ op ∧ op ≤ 0x1F) ∨ (0x39 ≤ op ∧ op ≤ 0x3F) ∨ 0x46 ≤ op → decodeWord x = .error .illegalOpcode

/-- R2, R60 to R64: decoding the four bytes of an instruction's word gives the instruction back, with every operand at every value, whatever bytes follow. -/
def Obligations.EncodeThenDecode : Prop :=
  ∀ (i : Instr) (x : Word32) (rest : List Byte), encode i = some x → decodeBytes (wordBytes x ++ rest) = .ok (i, rest)

/-- R60 to R64: a word has at most one reading, and every bit of it is part of that reading: what decodes encodes to the same word. -/
def Obligations.DecodeThenEncode : Prop :=
  ∀ (x : Word32) (i : Instr), decodeWord x = .ok i → encode i = some x

/-- R89: a step whose move fires index k of a decoded block, its body word there decoding to i, runs i there: exec answers a next state, and one cycle passes. That a move is taken from the
agenda, and from the machine's own moves when it is empty, is the model's way of ordering (log 1). -/
def Obligations.StepRunsDecoded : Prop :=
  ∀ (s : State) (p : Place) (k : Nat) (r : Run) (i : Instr) (rest : List Move),
    p.ok = true → (s.ctx p).run = some r → r.live = true → k < r.size → decodeWord (r.word k) = .ok i →
    (s.agenda = .fire p k :: rest →
      ∃ t, exec i { s with agenda := rest, focus := p, index := k } = .next t ∧
        step s = .next { t with cycle := t.cycle + 1, focus := p, index := k }) ∧
    (s.agenda = [] → s.ownMove = .fire p k →
      ∃ t, exec i { s with focus := p, index := k } = .next t ∧
        step s = .next { t with cycle := t.cycle + 1, focus := p, index := k })

/-- Log 1, R7, R11, R82: every instruction and every event answers a next state in every state; a step stops only where the agenda names a place that the panel does not have, or an event whose
operands name no part of the machine; every step leaves the focus at a place of the panel. -/
def Obligations.StepsGoOn : Prop :=
  (∀ (i : Instr) (s : State), ∃ t, exec i s = .next t) ∧
  (∀ (s : State) f, step s = .fault f → ∃ p, f = .noSuchPlace p ∧ p.ok = false) ∧
  (∀ (s : State) e, step s = .refused e → ∃ i, e = .illFormed i ∧ (i.wf = false ∨ (encode i).isSome = true)) ∧
  Kept Placed

/-- R39, R170, R379 and log 2: memory keeps its canonical form, whatever moves: keys rise, and no byte that reads 0 is listed. -/
def Obligations.MemoryStaysCanonical : Prop := Kept MemOk

/-- R83, R84, R99, R173, R203, R371, R374: the machine right after reset: every context IDLE, its registers EMPTY, its special registers at the values of R83, every landing entry FREE, every
generator unbound, every queue off, nothing listed in memory. What the spec leaves open in it is the
model's choice: log 2, log 5. -/
def Obligations.ResetState : Prop :=
  MemOk State.reset ∧ Placed State.reset ∧ State.reset.mem = [] ∧ State.reset.agenda = [] ∧ State.reset.boot.step = .waiting ∧
  State.reset.presiding = none ∧ (∀ fn q, (State.reset.queueOf fn q).state = .off) ∧
  (∀ p : Place, let c := State.reset.ctx p
    c.phase = .idle ∧ (∀ g, (c.reg g).tag = .empty) ∧ c.ports = [] ∧ c.ras = [] ∧ c.spilled = 0 ∧ c.rasptr = 0#24 ∧ c.raslim = 0#24 ∧
    c.round = 0 ∧ c.sat = true ∧ c.srseed = 1#32 ∧ c.issue = {} ∧ c.done = {} ∧ c.tmoBlock = BitVec.ofNat 32 (2 ^ 20) ∧
    c.tmoWait = BitVec.ofNat 32 (2 ^ 20) ∧ c.lastExit = 0#3 ∧ c.reuse = [] ∧ c.run = none) ∧
  ∀ d t, let x := State.reset.tile d t
    (∀ n, (x.lb n).full = false) ∧ (∀ g, (x.ag g).bound = false) ∧ (∀ n, (look {} x.me.latches n).st = .free) ∧ x.task = none

/-- R93, R94, R367: no instruction writes a register or the local stores when it fires: registers, stream ports, return addresses, timelines, special registers and the code offset of every
context stay as they are, and so does every byte of every local store. A fault that it raises changes only the state of its own context and its `FAULTREC`. -/
def Obligations.FiringFrame : Prop :=
  ∀ (i : Instr) (s t : State), (encode i).isSome = true → exec i s = .next t →
    (∀ k < 2 ^ 34, Memory.read t.mem k = Memory.read s.mem k) ∧ (∀ p, SameRegisters (s.ctx p) (t.ctx p)) ∧
    (Placed s → ∀ p : Place, p.ok = true → p ≠ s.focus → (t.ctx p).phase = (s.ctx p).phase ∧ (t.ctx p).faultRec = (s.ctx p).faultRec ∧ (t.ctx p).run = (s.ctx p).run)

/-- R90, R91: every instruction judges its predicate before its data: one of another tag than I64 faults, one that forbids it leaves it predicated off, a counted one received without effect;
a null as predicate or among the data makes it send a null to each of its targets and do nothing else;
while a token that it needs is absent, it does nothing. -/
def Obligations.PredicatesAndNulls : Prop :=
  ∀ (i : Instr) (s : State) (r : Run), (encode i).isSome = true → s.armed = some r →
    let h := shapeOf i s.index
    let received : List Counted := if h.counted then [⟨h.lsid.getD 0, s.index, .idle h.eng⟩] else []
    let nulls := exec i s = .next (s.updRun s.focus fun r =>
      fired r s.index ((h.targets.filter fun t => t != 0x7F).map fun t => (t, Token.null)) received)
    (∀ g, 2 ≤ h.pr.toNat → r.tok (64 + s.index) = some (.val g) →
      (g.tag ≠ .i64 → Faults i s .tagFault 0#64 0#64) ∧
      (g.tag = .i64 → (g.w = 0#64 ↔ h.pr = 2#2) →
        exec i s = .next (s.updRun s.focus fun r =>
          { r with off := r.off ++ [s.index], waits := r.waits.filter fun w => w.index != s.index, counted := r.counted ++ received }))) ∧
    (2 ≤ h.pr.toNat → r.tok (64 + s.index) = none → exec i s = .next s) ∧
    ((h.pr.toNat < 2 ∨ ∃ g, r.tok (64 + s.index) = some (.val g) ∧ g.tag = .i64 ∧ ¬(g.w = 0#64 ↔ h.pr = 2#2)) →
      (∃ n < h.slots, r.tok (32 * n + s.index) = none) → exec i s = .next s) ∧
    ((h.targets.filter fun t => t != 0x7F).Nodup → (∀ t ∈ h.targets, t ≠ 0x7F → r.tok t = none ∧ r.reserved.contains t = false) →
      (2 ≤ h.pr.toNat → r.tok (64 + s.index) = some .null → nulls) ∧
      ((h.pr.toNat < 2 ∨ ∃ g, r.tok (64 + s.index) = some (.val g) ∧ g.tag = .i64 ∧ ¬(g.w = 0#64 ↔ h.pr = 2#2)) →
        (∀ n < h.slots, (r.tok (32 * n + s.index)).isSome = true) → (∃ n < h.slots, r.tok (32 * n + s.index) = some .null) → nulls))
end

