-- ==== Sys2Proof/Laws/Maps.lean ====
section
/-! SUPPORT. Laws of sparse maps and of memory: a read after a write, and the canonical form of memory, which every
memory operation keeps. They hold of any list, sorted or not, where they do not name the canonical form. -/

namespace Sys2Proof.Machine

variable {α : Type}

/-! ### Sparse maps -/

@[simp] theorem look_nil (d : α) (k : Nat) : look d [] k = d := rfl

@[simp] theorem look?_nil (k : Nat) : look? ([] : List (Nat × α)) k = none := rfl

@[simp] theorem look_put (d : α) (l : List (Nat × α)) (k : Nat) (v : α) : look d (put l k v) k = v := by
  induction l with
  | nil => simp [put, look]
  | cons a r ih =>
    obtain ⟨j, w⟩ := a
    simp only [put]
    split
    · simp [look]
    · split
      · simp [look]
      · have : j ≠ k := fun h => ‹¬k = j› h.symm
        simp [look, this, ih]

theorem look_put_ne (d : α) (l : List (Nat × α)) {k j : Nat} (v : α) (h : j ≠ k) : look d (put l k v) j = look d l j := by
  induction l with
  | nil => simp [put, look, Ne.symm h]
  | cons a r ih =>
    obtain ⟨i, w⟩ := a
    simp only [put]
    split
    · simp [look, Ne.symm h]
    · split
      · subst_vars; simp [look, Ne.symm h]
      · simp only [look]; rw [ih]

@[simp] theorem look?_put (l : List (Nat × α)) (k : Nat) (v : α) : look? (put l k v) k = some v := by
  induction l with
  | nil => simp [put, look?]
  | cons a r ih =>
    obtain ⟨j, w⟩ := a
    simp only [put]
    split
    · simp [look?]
    · split
      · simp [look?]
      · have : j ≠ k := fun h => ‹¬k = j› h.symm
        simp [look?, this, ih]

theorem look?_put_ne (l : List (Nat × α)) {k j : Nat} (v : α) (h : j ≠ k) : look? (put l k v) j = look? l j := by
  induction l with
  | nil => simp [put, look?, Ne.symm h]
  | cons a r ih =>
    obtain ⟨i, w⟩ := a
    simp only [put]
    split
    · simp [look?, Ne.symm h]
    · split
      · subst_vars; simp [look?, Ne.symm h]
      · simp only [look?]; rw [ih]

@[simp] theorem put_put (l : List (Nat × α)) (k : Nat) (v w : α) : put (put l k v) k w = put l k w := by
  induction l with
  | nil => simp [put]
  | cons a r ih =>
    obtain ⟨j, x⟩ := a
    simp only [put]
    split
    · simp [put]
    · split
      · simp [put]
      · simp [put, *]

/-- A filter on keys keeps the value of every key that passes. -/
theorem look_filter (d : α) (p : Nat → Bool) (l : List (Nat × α)) (k : Nat) :
    look d (l.filter fun e => p e.1) k = if p k then look d l k else d := by
  induction l with
  | nil => simp
  | cons a r ih =>
    obtain ⟨j, w⟩ := a
    by_cases hj : j = k
    · subst hj; cases hp : p j <;> simp [look, hp, ih]
    · cases hp : p j <;> simp [look, hp, hj, ih]

theorem look_del (d : α) (l : List (Nat × α)) (k j : Nat) : look d (del l k) j = if j = k then d else look d l j := by
  have := look_filter d (fun i => i != k) l j
  simp only [del, this, bne_iff_ne, ne_eq, ite_not]

/-- A map on the values that fixes the default value maps what is looked up. -/
theorem look_map (d : α) (f : Nat → α → α) (h : ∀ k, f k d = d) (l : List (Nat × α)) (k : Nat) :
    look d (l.map fun e => (e.1, f e.1 e.2)) k = f k (look d l k) := by
  induction l with
  | nil => simp [h]
  | cons a r ih =>
    obtain ⟨j, w⟩ := a
    by_cases hj : j = k
    · subst hj; simp [look]
    · simp [look, hj, ih]

/-! ### Memory (03_memory_model.md R39) -/

namespace Memory

@[simp] theorem read_nil (k : Nat) : read [] k = 0#8 := rfl

/-- A byte reads as it was written. -/
@[simp] theorem read_write (m : List Host.Cell) (k : Nat) (b : Byte) : read (write m k b) k = b := by
  unfold read write
  split
  · subst_vars; simp [look_del]
  · exact look_put _ _ _ _

/-- A write of one byte leaves every other byte. -/
theorem read_write_ne (m : List Host.Cell) {k j : Nat} (b : Byte) (h : j ≠ k) : read (write m k b) j = read m j := by
  unfold read write
  split
  · simp [look_del, h]
  · exact look_put_ne _ _ _ h

/-- A write of several bytes leaves every byte outside them. -/
theorem read_writeN_out (bs : List Byte) : ∀ (m : List Host.Cell) (k j : Nat), j < k ∨ k + bs.length ≤ j →
    read (writeN m k bs) j = read m j := by
  induction bs with
  | nil => intro m k j _; rfl
  | cons b r ih =>
    intro m k j h
    simp only [List.length_cons] at h
    rw [writeN, ih _ _ _ (by omega), read_write_ne _ _ (by omega)]

/-- Bytes read as they were written. -/
theorem read_writeN_in (bs : List Byte) : ∀ (m : List Host.Cell) (k j : Nat), j < bs.length →
    read (writeN m k bs) (k + j) = bs.getD j 0#8 := by
  induction bs with
  | nil => intro m k j h; simp at h
  | cons b r ih =>
    intro m k j h
    cases j with
    | zero => rw [writeN, read_writeN_out _ _ _ _ (by omega)]; simp
    | succ j =>
      simp only [List.length_cons, Nat.add_lt_add_iff_right] at h
      rw [writeN, show k + (j + 1) = k + 1 + j by omega, ih _ _ _ h]; simp

/-- Memory after the bytes of the keys that a predicate names are cleared. -/
theorem read_filter (m : List Host.Cell) (p : Nat → Bool) (k : Nat) :
    read (m.filter fun c => p c.1) k = if p k then read m k else 0#8 := look_filter _ p m k

@[simp] theorem length_readN (m : List Host.Cell) (n : Nat) : ∀ k, (readN m k n).length = n := by
  induction n with
  | zero => intro k; rfl
  | succ n ih => intro k; simp [readN, ih]

/-! The canonical form. -/

theorem wfFrom_mono {m : List Host.Cell} : ∀ {n k : Nat}, k ≤ n → wfFrom n m = true → wfFrom k m = true := by
  cases m with
  | nil => intros; rfl
  | cons a r =>
    obtain ⟨j, b⟩ := a
    intro n k h w
    simp only [wfFrom, Bool.and_eq_true, decide_eq_true_eq] at w ⊢
    exact ⟨⟨by omega, w.1.2⟩, w.2⟩

theorem wfFrom_filter (p : Host.Cell → Bool) {m : List Host.Cell} : ∀ {n : Nat}, wfFrom n m = true → wfFrom n (m.filter p) = true := by
  induction m with
  | nil => intros; rfl
  | cons a r ih =>
    obtain ⟨j, b⟩ := a
    intro n w
    simp only [wfFrom, Bool.and_eq_true, decide_eq_true_eq] at w
    rw [List.filter_cons]
    split
    · simp only [wfFrom, Bool.and_eq_true, decide_eq_true_eq]; exact ⟨w.1, ih w.2⟩
    · exact wfFrom_mono (by omega) (ih w.2)

theorem wfFrom_put {m : List Host.Cell} {k : Nat} {b : Byte} (hb : b ≠ 0#8) :
    ∀ {n : Nat}, n ≤ k → wfFrom n m = true → wfFrom n (put m k b) = true := by
  induction m with
  | nil => intro n h _; simp [put, wfFrom, h, hb]
  | cons a r ih =>
    obtain ⟨j, c⟩ := a
    intro n h w
    simp only [wfFrom, Bool.and_eq_true, decide_eq_true_eq] at w
    simp only [put]
    split
    · simp only [wfFrom, Bool.and_eq_true, decide_eq_true_eq, bne_iff_ne, ne_eq]
      exact ⟨⟨h, hb⟩, ⟨by omega, by simpa using w.1.2⟩, w.2⟩
    · split
      · subst_vars
        simp only [wfFrom, Bool.and_eq_true, decide_eq_true_eq, bne_iff_ne, ne_eq]
        exact ⟨⟨h, hb⟩, w.2⟩
      · simp only [wfFrom, Bool.and_eq_true, decide_eq_true_eq]
        exact ⟨w.1, ih (by omega) w.2⟩

theorem wf_nil : wf [] = true := rfl

theorem wf_filter (p : Host.Cell → Bool) {m : List Host.Cell} (h : wf m = true) : wf (m.filter p) = true := wfFrom_filter p h

/-- A write keeps the canonical form. -/
theorem wf_write {m : List Host.Cell} (k : Nat) (b : Byte) (h : wf m = true) : wf (write m k b) = true := by
  unfold write
  split
  · exact wf_filter _ h
  · exact wfFrom_put ‹_› (Nat.zero_le k) h

theorem wf_writeN (bs : List Byte) : ∀ {m : List Host.Cell} (k : Nat), wf m = true → wf (writeN m k bs) = true := by
  induction bs with
  | nil => intro m k h; exact h
  | cons b r ih => intro m k h; exact ih (k + 1) (wf_write k b h)

end Memory

/-! ### Bytes (00_scope.md R2) -/

@[simp] theorem length_leBytes (n : Nat) : ∀ v, (leBytes n v).length = n := by
  induction n with
  | zero => intro v; rfl
  | succ n ih => intro v; simp [leBytes, ih]

theorem leNat_lt (l : List Byte) : leNat l < 256 ^ l.length := by
  induction l with
  | nil => simp [leNat]
  | cons b r ih =>
    have := b.isLt
    simp only [leNat, List.length_cons, Nat.pow_succ]
    omega

/-- The number of the bytes of a number is the number, cut to their size. -/
theorem leNat_leBytes (n : Nat) : ∀ v, leNat (leBytes n v) = v % 256 ^ n := by
  induction n with
  | zero => intro v; simp [leBytes, leNat, Nat.mod_one]
  | succ n ih =>
    intro v
    rw [leBytes, leNat, ih, BitVec.toNat_ofNat, show 256 ^ (n + 1) = 256 * 256 ^ n from Nat.pow_succ', Nat.mod_mul]

end Sys2Proof.Machine
end

