-- ==== Sys2Proof/Laws/State.lean ====
section
/-! SUPPORT. Laws of the state: what each named update leaves in each field, and a part read after it was written. -/

namespace Sys2Proof.Machine

variable (s : State)

/-! ### One lemma per field per update -/

@[simp] theorem State.setTile_cycle (d t : Nat) (x : Tile) : (s.setTile d t x).cycle = s.cycle := rfl

@[simp] theorem State.setTile_agenda (d t : Nat) (x : Tile) : (s.setTile d t x).agenda = s.agenda := rfl

@[simp] theorem State.setTile_focus (d t : Nat) (x : Tile) : (s.setTile d t x).focus = s.focus := rfl

@[simp] theorem State.setTile_index (d t : Nat) (x : Tile) : (s.setTile d t x).index = s.index := rfl

@[simp] theorem State.setTile_freeCtr (d t : Nat) (x : Tile) : (s.setTile d t x).freeCtr = s.freeCtr := rfl

@[simp] theorem State.setTile_mem (d t : Nat) (x : Tile) : (s.setTile d t x).mem = s.mem := rfl

@[simp] theorem State.setTile_bad (d t : Nat) (x : Tile) : (s.setTile d t x).bad = s.bad := rfl

@[simp] theorem State.setTile_tiles (d t : Nat) (x : Tile) : (s.setTile d t x).tiles = put s.tiles (d * 144 + t) x := rfl

@[simp] theorem State.setTile_dies (d t : Nat) (x : Tile) : (s.setTile d t x).dies = s.dies := rfl

@[simp] theorem State.setTile_regions (d t : Nat) (x : Tile) : (s.setTile d t x).regions = s.regions := rfl

@[simp] theorem State.setTile_readings (d t : Nat) (x : Tile) : (s.setTile d t x).readings = s.readings := rfl

@[simp] theorem State.setTile_frames (d t : Nat) (x : Tile) : (s.setTile d t x).frames = s.frames := rfl

@[simp] theorem State.setTile_cow (d t : Nat) (x : Tile) : (s.setTile d t x).cow = s.cow := rfl

@[simp] theorem State.setTile_links (d t : Nat) (x : Tile) : (s.setTile d t x).links = s.links := rfl

@[simp] theorem State.setTile_frags (d t : Nat) (x : Tile) : (s.setTile d t x).frags = s.frags := rfl

@[simp] theorem State.setTile_podOut (d t : Nat) (x : Tile) : (s.setTile d t x).podOut = s.podOut := rfl

@[simp] theorem State.setTile_linkMsgs (d t : Nat) (x : Tile) : (s.setTile d t x).linkMsgs = s.linkMsgs := rfl

@[simp] theorem State.setTile_keys (d t : Nat) (x : Tile) : (s.setTile d t x).keys = s.keys := rfl

@[simp] theorem State.setTile_boot (d t : Nat) (x : Tile) : (s.setTile d t x).boot = s.boot := rfl

@[simp] theorem State.setTile_queues (d t : Nat) (x : Tile) : (s.setTile d t x).queues = s.queues := rfl

@[simp] theorem State.setTile_cmds (d t : Nat) (x : Tile) : (s.setTile d t x).cmds = s.cmds := rfl

@[simp] theorem State.setTile_msix (d t : Nat) (x : Tile) : (s.setTile d t x).msix = s.msix := rfl

@[simp] theorem State.setTile_doe (d t : Nat) (x : Tile) : (s.setTile d t x).doe = s.doe := rfl

@[simp] theorem State.setTile_ladders (d t : Nat) (x : Tile) : (s.setTile d t x).ladders = s.ladders := rfl

@[simp] theorem State.setTile_presiding (d t : Nat) (x : Tile) : (s.setTile d t x).presiding = s.presiding := rfl

@[simp] theorem State.setTile_members (d t : Nat) (x : Tile) : (s.setTile d t x).members = s.members := rfl

@[simp] theorem State.setTile_lifeLog (d t : Nat) (x : Tile) : (s.setTile d t x).lifeLog = s.lifeLog := rfl

@[simp] theorem State.setTile_counts (d t : Nat) (x : Tile) : (s.setTile d t x).counts = s.counts := rfl

@[simp] theorem State.setTile_epochBase (d t : Nat) (x : Tile) : (s.setTile d t x).epochBase = s.epochBase := rfl

@[simp] theorem State.setTile_throttle (d t : Nat) (x : Tile) : (s.setTile d t x).throttle = s.throttle := rfl

@[simp] theorem State.setTile_coolSince (d t : Nat) (x : Tile) : (s.setTile d t x).coolSince = s.coolSince := rfl

@[simp] theorem State.setTile_frozen (d t : Nat) (x : Tile) : (s.setTile d t x).frozen = s.frozen := rfl

@[simp] theorem State.setTile_requesters (d t : Nat) (x : Tile) : (s.setTile d t x).requesters = s.requesters := rfl

@[simp] theorem State.setTile_aperture (d t : Nat) (x : Tile) : (s.setTile d t x).aperture = s.aperture := rfl

@[simp] theorem State.setTile_moduleId (d t : Nat) (x : Tile) : (s.setTile d t x).moduleId = s.moduleId := rfl
@[simp] theorem State.setTile_podIn (d t : Nat) (x : Tile) : (s.setTile d t x).podIn = s.podIn := rfl
@[simp] theorem State.setTile_hostLinks (d t : Nat) (x : Tile) : (s.setTile d t x).hostLinks = s.hostLinks := rfl
@[simp] theorem State.setTile_hists (d t : Nat) (x : Tile) : (s.setTile d t x).hists = s.hists := rfl
@[simp] theorem State.setTile_lastEpoch (d t : Nat) (x : Tile) : (s.setTile d t x).lastEpoch = s.lastEpoch := rfl
@[simp] theorem State.setTile_reading (d t : Nat) (x : Tile) : (s.setTile d t x).reading = s.reading := rfl

@[simp] theorem State.setDie_cycle (d : Nat) (x : Die) : (s.setDie d x).cycle = s.cycle := rfl

@[simp] theorem State.setDie_agenda (d : Nat) (x : Die) : (s.setDie d x).agenda = s.agenda := rfl

@[simp] theorem State.setDie_focus (d : Nat) (x : Die) : (s.setDie d x).focus = s.focus := rfl

@[simp] theorem State.setDie_index (d : Nat) (x : Die) : (s.setDie d x).index = s.index := rfl

@[simp] theorem State.setDie_freeCtr (d : Nat) (x : Die) : (s.setDie d x).freeCtr = s.freeCtr := rfl

@[simp] theorem State.setDie_mem (d : Nat) (x : Die) : (s.setDie d x).mem = s.mem := rfl

@[simp] theorem State.setDie_bad (d : Nat) (x : Die) : (s.setDie d x).bad = s.bad := rfl

@[simp] theorem State.setDie_tiles (d : Nat) (x : Die) : (s.setDie d x).tiles = s.tiles := rfl

@[simp] theorem State.setDie_dies (d : Nat) (x : Die) : (s.setDie d x).dies = put s.dies d x := rfl

@[simp] theorem State.setDie_regions (d : Nat) (x : Die) : (s.setDie d x).regions = s.regions := rfl

@[simp] theorem State.setDie_readings (d : Nat) (x : Die) : (s.setDie d x).readings = s.readings := rfl

@[simp] theorem State.setDie_frames (d : Nat) (x : Die) : (s.setDie d x).frames = s.frames := rfl

@[simp] theorem State.setDie_cow (d : Nat) (x : Die) : (s.setDie d x).cow = s.cow := rfl

@[simp] theorem State.setDie_links (d : Nat) (x : Die) : (s.setDie d x).links = s.links := rfl

@[simp] theorem State.setDie_frags (d : Nat) (x : Die) : (s.setDie d x).frags = s.frags := rfl

@[simp] theorem State.setDie_podOut (d : Nat) (x : Die) : (s.setDie d x).podOut = s.podOut := rfl

@[simp] theorem State.setDie_linkMsgs (d : Nat) (x : Die) : (s.setDie d x).linkMsgs = s.linkMsgs := rfl

@[simp] theorem State.setDie_keys (d : Nat) (x : Die) : (s.setDie d x).keys = s.keys := rfl

@[simp] theorem State.setDie_boot (d : Nat) (x : Die) : (s.setDie d x).boot = s.boot := rfl

@[simp] theorem State.setDie_queues (d : Nat) (x : Die) : (s.setDie d x).queues = s.queues := rfl

@[simp] theorem State.setDie_cmds (d : Nat) (x : Die) : (s.setDie d x).cmds = s.cmds := rfl

@[simp] theorem State.setDie_msix (d : Nat) (x : Die) : (s.setDie d x).msix = s.msix := rfl

@[simp] theorem State.setDie_doe (d : Nat) (x : Die) : (s.setDie d x).doe = s.doe := rfl

@[simp] theorem State.setDie_ladders (d : Nat) (x : Die) : (s.setDie d x).ladders = s.ladders := rfl

@[simp] theorem State.setDie_presiding (d : Nat) (x : Die) : (s.setDie d x).presiding = s.presiding := rfl

@[simp] theorem State.setDie_members (d : Nat) (x : Die) : (s.setDie d x).members = s.members := rfl

@[simp] theorem State.setDie_lifeLog (d : Nat) (x : Die) : (s.setDie d x).lifeLog = s.lifeLog := rfl

@[simp] theorem State.setDie_counts (d : Nat) (x : Die) : (s.setDie d x).counts = s.counts := rfl

@[simp] theorem State.setDie_epochBase (d : Nat) (x : Die) : (s.setDie d x).epochBase = s.epochBase := rfl

@[simp] theorem State.setDie_throttle (d : Nat) (x : Die) : (s.setDie d x).throttle = s.throttle := rfl

@[simp] theorem State.setDie_coolSince (d : Nat) (x : Die) : (s.setDie d x).coolSince = s.coolSince := rfl

@[simp] theorem State.setDie_frozen (d : Nat) (x : Die) : (s.setDie d x).frozen = s.frozen := rfl

@[simp] theorem State.setDie_requesters (d : Nat) (x : Die) : (s.setDie d x).requesters = s.requesters := rfl

@[simp] theorem State.setDie_aperture (d : Nat) (x : Die) : (s.setDie d x).aperture = s.aperture := rfl

@[simp] theorem State.setDie_moduleId (d : Nat) (x : Die) : (s.setDie d x).moduleId = s.moduleId := rfl
@[simp] theorem State.setDie_podIn (d : Nat) (x : Die) : (s.setDie d x).podIn = s.podIn := rfl
@[simp] theorem State.setDie_hostLinks (d : Nat) (x : Die) : (s.setDie d x).hostLinks = s.hostLinks := rfl
@[simp] theorem State.setDie_hists (d : Nat) (x : Die) : (s.setDie d x).hists = s.hists := rfl
@[simp] theorem State.setDie_lastEpoch (d : Nat) (x : Die) : (s.setDie d x).lastEpoch = s.lastEpoch := rfl
@[simp] theorem State.setDie_reading (d : Nat) (x : Die) : (s.setDie d x).reading = s.reading := rfl

@[simp] theorem State.updTile_cycle (d t : Nat) (f : Tile → Tile) : (s.updTile d t f).cycle = s.cycle := rfl

@[simp] theorem State.updTile_agenda (d t : Nat) (f : Tile → Tile) : (s.updTile d t f).agenda = s.agenda := rfl

@[simp] theorem State.updTile_focus (d t : Nat) (f : Tile → Tile) : (s.updTile d t f).focus = s.focus := rfl

@[simp] theorem State.updTile_index (d t : Nat) (f : Tile → Tile) : (s.updTile d t f).index = s.index := rfl

@[simp] theorem State.updTile_freeCtr (d t : Nat) (f : Tile → Tile) : (s.updTile d t f).freeCtr = s.freeCtr := rfl

@[simp] theorem State.updTile_mem (d t : Nat) (f : Tile → Tile) : (s.updTile d t f).mem = s.mem := rfl

@[simp] theorem State.updTile_bad (d t : Nat) (f : Tile → Tile) : (s.updTile d t f).bad = s.bad := rfl

@[simp] theorem State.updTile_tiles (d t : Nat) (f : Tile → Tile) : (s.updTile d t f).tiles = put s.tiles (d * 144 + t) (f (s.tile d t)) := rfl

@[simp] theorem State.updTile_dies (d t : Nat) (f : Tile → Tile) : (s.updTile d t f).dies = s.dies := rfl

@[simp] theorem State.updTile_regions (d t : Nat) (f : Tile → Tile) : (s.updTile d t f).regions = s.regions := rfl

@[simp] theorem State.updTile_readings (d t : Nat) (f : Tile → Tile) : (s.updTile d t f).readings = s.readings := rfl

@[simp] theorem State.updTile_frames (d t : Nat) (f : Tile → Tile) : (s.updTile d t f).frames = s.frames := rfl

@[simp] theorem State.updTile_cow (d t : Nat) (f : Tile → Tile) : (s.updTile d t f).cow = s.cow := rfl

@[simp] theorem State.updTile_links (d t : Nat) (f : Tile → Tile) : (s.updTile d t f).links = s.links := rfl

@[simp] theorem State.updTile_frags (d t : Nat) (f : Tile → Tile) : (s.updTile d t f).frags = s.frags := rfl

@[simp] theorem State.updTile_podOut (d t : Nat) (f : Tile → Tile) : (s.updTile d t f).podOut = s.podOut := rfl

@[simp] theorem State.updTile_linkMsgs (d t : Nat) (f : Tile → Tile) : (s.updTile d t f).linkMsgs = s.linkMsgs := rfl

@[simp] theorem State.updTile_keys (d t : Nat) (f : Tile → Tile) : (s.updTile d t f).keys = s.keys := rfl

@[simp] theorem State.updTile_boot (d t : Nat) (f : Tile → Tile) : (s.updTile d t f).boot = s.boot := rfl

@[simp] theorem State.updTile_queues (d t : Nat) (f : Tile → Tile) : (s.updTile d t f).queues = s.queues := rfl

@[simp] theorem State.updTile_cmds (d t : Nat) (f : Tile → Tile) : (s.updTile d t f).cmds = s.cmds := rfl

@[simp] theorem State.updTile_msix (d t : Nat) (f : Tile → Tile) : (s.updTile d t f).msix = s.msix := rfl

@[simp] theorem State.updTile_doe (d t : Nat) (f : Tile → Tile) : (s.updTile d t f).doe = s.doe := rfl

@[simp] theorem State.updTile_ladders (d t : Nat) (f : Tile → Tile) : (s.updTile d t f).ladders = s.ladders := rfl

@[simp] theorem State.updTile_presiding (d t : Nat) (f : Tile → Tile) : (s.updTile d t f).presiding = s.presiding := rfl

@[simp] theorem State.updTile_members (d t : Nat) (f : Tile → Tile) : (s.updTile d t f).members = s.members := rfl

@[simp] theorem State.updTile_lifeLog (d t : Nat) (f : Tile → Tile) : (s.updTile d t f).lifeLog = s.lifeLog := rfl

@[simp] theorem State.updTile_counts (d t : Nat) (f : Tile → Tile) : (s.updTile d t f).counts = s.counts := rfl

@[simp] theorem State.updTile_epochBase (d t : Nat) (f : Tile → Tile) : (s.updTile d t f).epochBase = s.epochBase := rfl

@[simp] theorem State.updTile_throttle (d t : Nat) (f : Tile → Tile) : (s.updTile d t f).throttle = s.throttle := rfl

@[simp] theorem State.updTile_coolSince (d t : Nat) (f : Tile → Tile) : (s.updTile d t f).coolSince = s.coolSince := rfl

@[simp] theorem State.updTile_frozen (d t : Nat) (f : Tile → Tile) : (s.updTile d t f).frozen = s.frozen := rfl

@[simp] theorem State.updTile_requesters (d t : Nat) (f : Tile → Tile) : (s.updTile d t f).requesters = s.requesters := rfl

@[simp] theorem State.updTile_aperture (d t : Nat) (f : Tile → Tile) : (s.updTile d t f).aperture = s.aperture := rfl

@[simp] theorem State.updTile_moduleId (d t : Nat) (f : Tile → Tile) : (s.updTile d t f).moduleId = s.moduleId := rfl
@[simp] theorem State.updTile_podIn (d t : Nat) (f : Tile → Tile) : (s.updTile d t f).podIn = s.podIn := rfl
@[simp] theorem State.updTile_hostLinks (d t : Nat) (f : Tile → Tile) : (s.updTile d t f).hostLinks = s.hostLinks := rfl
@[simp] theorem State.updTile_hists (d t : Nat) (f : Tile → Tile) : (s.updTile d t f).hists = s.hists := rfl
@[simp] theorem State.updTile_lastEpoch (d t : Nat) (f : Tile → Tile) : (s.updTile d t f).lastEpoch = s.lastEpoch := rfl
@[simp] theorem State.updTile_reading (d t : Nat) (f : Tile → Tile) : (s.updTile d t f).reading = s.reading := rfl

@[simp] theorem State.updDie_cycle (d : Nat) (f : Die → Die) : (s.updDie d f).cycle = s.cycle := rfl

@[simp] theorem State.updDie_agenda (d : Nat) (f : Die → Die) : (s.updDie d f).agenda = s.agenda := rfl

@[simp] theorem State.updDie_focus (d : Nat) (f : Die → Die) : (s.updDie d f).focus = s.focus := rfl

@[simp] theorem State.updDie_index (d : Nat) (f : Die → Die) : (s.updDie d f).index = s.index := rfl

@[simp] theorem State.updDie_freeCtr (d : Nat) (f : Die → Die) : (s.updDie d f).freeCtr = s.freeCtr := rfl

@[simp] theorem State.updDie_mem (d : Nat) (f : Die → Die) : (s.updDie d f).mem = s.mem := rfl

@[simp] theorem State.updDie_bad (d : Nat) (f : Die → Die) : (s.updDie d f).bad = s.bad := rfl

@[simp] theorem State.updDie_tiles (d : Nat) (f : Die → Die) : (s.updDie d f).tiles = s.tiles := rfl

@[simp] theorem State.updDie_dies (d : Nat) (f : Die → Die) : (s.updDie d f).dies = put s.dies d (f (s.die d)) := rfl

@[simp] theorem State.updDie_regions (d : Nat) (f : Die → Die) : (s.updDie d f).regions = s.regions := rfl

@[simp] theorem State.updDie_readings (d : Nat) (f : Die → Die) : (s.updDie d f).readings = s.readings := rfl

@[simp] theorem State.updDie_frames (d : Nat) (f : Die → Die) : (s.updDie d f).frames = s.frames := rfl

@[simp] theorem State.updDie_cow (d : Nat) (f : Die → Die) : (s.updDie d f).cow = s.cow := rfl

@[simp] theorem State.updDie_links (d : Nat) (f : Die → Die) : (s.updDie d f).links = s.links := rfl

@[simp] theorem State.updDie_frags (d : Nat) (f : Die → Die) : (s.updDie d f).frags = s.frags := rfl

@[simp] theorem State.updDie_podOut (d : Nat) (f : Die → Die) : (s.updDie d f).podOut = s.podOut := rfl

@[simp] theorem State.updDie_linkMsgs (d : Nat) (f : Die → Die) : (s.updDie d f).linkMsgs = s.linkMsgs := rfl

@[simp] theorem State.updDie_keys (d : Nat) (f : Die → Die) : (s.updDie d f).keys = s.keys := rfl

@[simp] theorem State.updDie_boot (d : Nat) (f : Die → Die) : (s.updDie d f).boot = s.boot := rfl

@[simp] theorem State.updDie_queues (d : Nat) (f : Die → Die) : (s.updDie d f).queues = s.queues := rfl

@[simp] theorem State.updDie_cmds (d : Nat) (f : Die → Die) : (s.updDie d f).cmds = s.cmds := rfl

@[simp] theorem State.updDie_msix (d : Nat) (f : Die → Die) : (s.updDie d f).msix = s.msix := rfl

@[simp] theorem State.updDie_doe (d : Nat) (f : Die → Die) : (s.updDie d f).doe = s.doe := rfl

@[simp] theorem State.updDie_ladders (d : Nat) (f : Die → Die) : (s.updDie d f).ladders = s.ladders := rfl

@[simp] theorem State.updDie_presiding (d : Nat) (f : Die → Die) : (s.updDie d f).presiding = s.presiding := rfl

@[simp] theorem State.updDie_members (d : Nat) (f : Die → Die) : (s.updDie d f).members = s.members := rfl

@[simp] theorem State.updDie_lifeLog (d : Nat) (f : Die → Die) : (s.updDie d f).lifeLog = s.lifeLog := rfl

@[simp] theorem State.updDie_counts (d : Nat) (f : Die → Die) : (s.updDie d f).counts = s.counts := rfl

@[simp] theorem State.updDie_epochBase (d : Nat) (f : Die → Die) : (s.updDie d f).epochBase = s.epochBase := rfl

@[simp] theorem State.updDie_throttle (d : Nat) (f : Die → Die) : (s.updDie d f).throttle = s.throttle := rfl

@[simp] theorem State.updDie_coolSince (d : Nat) (f : Die → Die) : (s.updDie d f).coolSince = s.coolSince := rfl

@[simp] theorem State.updDie_frozen (d : Nat) (f : Die → Die) : (s.updDie d f).frozen = s.frozen := rfl

@[simp] theorem State.updDie_requesters (d : Nat) (f : Die → Die) : (s.updDie d f).requesters = s.requesters := rfl

@[simp] theorem State.updDie_aperture (d : Nat) (f : Die → Die) : (s.updDie d f).aperture = s.aperture := rfl

@[simp] theorem State.updDie_moduleId (d : Nat) (f : Die → Die) : (s.updDie d f).moduleId = s.moduleId := rfl
@[simp] theorem State.updDie_podIn (d : Nat) (f : Die → Die) : (s.updDie d f).podIn = s.podIn := rfl
@[simp] theorem State.updDie_hostLinks (d : Nat) (f : Die → Die) : (s.updDie d f).hostLinks = s.hostLinks := rfl
@[simp] theorem State.updDie_hists (d : Nat) (f : Die → Die) : (s.updDie d f).hists = s.hists := rfl
@[simp] theorem State.updDie_lastEpoch (d : Nat) (f : Die → Die) : (s.updDie d f).lastEpoch = s.lastEpoch := rfl
@[simp] theorem State.updDie_reading (d : Nat) (f : Die → Die) : (s.updDie d f).reading = s.reading := rfl

@[simp] theorem State.updTd_cycle (d : Nat) (f : Td → Td) : (s.updTd d f).cycle = s.cycle := rfl

@[simp] theorem State.updTd_agenda (d : Nat) (f : Td → Td) : (s.updTd d f).agenda = s.agenda := rfl

@[simp] theorem State.updTd_focus (d : Nat) (f : Td → Td) : (s.updTd d f).focus = s.focus := rfl

@[simp] theorem State.updTd_index (d : Nat) (f : Td → Td) : (s.updTd d f).index = s.index := rfl

@[simp] theorem State.updTd_freeCtr (d : Nat) (f : Td → Td) : (s.updTd d f).freeCtr = s.freeCtr := rfl

@[simp] theorem State.updTd_mem (d : Nat) (f : Td → Td) : (s.updTd d f).mem = s.mem := rfl

@[simp] theorem State.updTd_bad (d : Nat) (f : Td → Td) : (s.updTd d f).bad = s.bad := rfl

@[simp] theorem State.updTd_tiles (d : Nat) (f : Td → Td) : (s.updTd d f).tiles = s.tiles := rfl

@[simp] theorem State.updTd_regions (d : Nat) (f : Td → Td) : (s.updTd d f).regions = s.regions := rfl

@[simp] theorem State.updTd_readings (d : Nat) (f : Td → Td) : (s.updTd d f).readings = s.readings := rfl

@[simp] theorem State.updTd_frames (d : Nat) (f : Td → Td) : (s.updTd d f).frames = s.frames := rfl

@[simp] theorem State.updTd_cow (d : Nat) (f : Td → Td) : (s.updTd d f).cow = s.cow := rfl

@[simp] theorem State.updTd_links (d : Nat) (f : Td → Td) : (s.updTd d f).links = s.links := rfl

@[simp] theorem State.updTd_frags (d : Nat) (f : Td → Td) : (s.updTd d f).frags = s.frags := rfl

@[simp] theorem State.updTd_podOut (d : Nat) (f : Td → Td) : (s.updTd d f).podOut = s.podOut := rfl

@[simp] theorem State.updTd_linkMsgs (d : Nat) (f : Td → Td) : (s.updTd d f).linkMsgs = s.linkMsgs := rfl

@[simp] theorem State.updTd_keys (d : Nat) (f : Td → Td) : (s.updTd d f).keys = s.keys := rfl

@[simp] theorem State.updTd_boot (d : Nat) (f : Td → Td) : (s.updTd d f).boot = s.boot := rfl

@[simp] theorem State.updTd_queues (d : Nat) (f : Td → Td) : (s.updTd d f).queues = s.queues := rfl

@[simp] theorem State.updTd_cmds (d : Nat) (f : Td → Td) : (s.updTd d f).cmds = s.cmds := rfl

@[simp] theorem State.updTd_msix (d : Nat) (f : Td → Td) : (s.updTd d f).msix = s.msix := rfl

@[simp] theorem State.updTd_doe (d : Nat) (f : Td → Td) : (s.updTd d f).doe = s.doe := rfl

@[simp] theorem State.updTd_ladders (d : Nat) (f : Td → Td) : (s.updTd d f).ladders = s.ladders := rfl

@[simp] theorem State.updTd_presiding (d : Nat) (f : Td → Td) : (s.updTd d f).presiding = s.presiding := rfl

@[simp] theorem State.updTd_members (d : Nat) (f : Td → Td) : (s.updTd d f).members = s.members := rfl

@[simp] theorem State.updTd_lifeLog (d : Nat) (f : Td → Td) : (s.updTd d f).lifeLog = s.lifeLog := rfl

@[simp] theorem State.updTd_counts (d : Nat) (f : Td → Td) : (s.updTd d f).counts = s.counts := rfl

@[simp] theorem State.updTd_epochBase (d : Nat) (f : Td → Td) : (s.updTd d f).epochBase = s.epochBase := rfl

@[simp] theorem State.updTd_throttle (d : Nat) (f : Td → Td) : (s.updTd d f).throttle = s.throttle := rfl

@[simp] theorem State.updTd_coolSince (d : Nat) (f : Td → Td) : (s.updTd d f).coolSince = s.coolSince := rfl

@[simp] theorem State.updTd_frozen (d : Nat) (f : Td → Td) : (s.updTd d f).frozen = s.frozen := rfl

@[simp] theorem State.updTd_requesters (d : Nat) (f : Td → Td) : (s.updTd d f).requesters = s.requesters := rfl

@[simp] theorem State.updTd_aperture (d : Nat) (f : Td → Td) : (s.updTd d f).aperture = s.aperture := rfl

@[simp] theorem State.updTd_moduleId (d : Nat) (f : Td → Td) : (s.updTd d f).moduleId = s.moduleId := rfl
@[simp] theorem State.updTd_podIn (d : Nat) (f : Td → Td) : (s.updTd d f).podIn = s.podIn := rfl
@[simp] theorem State.updTd_hostLinks (d : Nat) (f : Td → Td) : (s.updTd d f).hostLinks = s.hostLinks := rfl
@[simp] theorem State.updTd_hists (d : Nat) (f : Td → Td) : (s.updTd d f).hists = s.hists := rfl
@[simp] theorem State.updTd_lastEpoch (d : Nat) (f : Td → Td) : (s.updTd d f).lastEpoch = s.lastEpoch := rfl
@[simp] theorem State.updTd_reading (d : Nat) (f : Td → Td) : (s.updTd d f).reading = s.reading := rfl

@[simp] theorem State.updNd_cycle (d : Nat) (f : Nd → Nd) : (s.updNd d f).cycle = s.cycle := rfl

@[simp] theorem State.updNd_agenda (d : Nat) (f : Nd → Nd) : (s.updNd d f).agenda = s.agenda := rfl

@[simp] theorem State.updNd_focus (d : Nat) (f : Nd → Nd) : (s.updNd d f).focus = s.focus := rfl

@[simp] theorem State.updNd_index (d : Nat) (f : Nd → Nd) : (s.updNd d f).index = s.index := rfl

@[simp] theorem State.updNd_freeCtr (d : Nat) (f : Nd → Nd) : (s.updNd d f).freeCtr = s.freeCtr := rfl

@[simp] theorem State.updNd_mem (d : Nat) (f : Nd → Nd) : (s.updNd d f).mem = s.mem := rfl

@[simp] theorem State.updNd_bad (d : Nat) (f : Nd → Nd) : (s.updNd d f).bad = s.bad := rfl

@[simp] theorem State.updNd_tiles (d : Nat) (f : Nd → Nd) : (s.updNd d f).tiles = s.tiles := rfl

@[simp] theorem State.updNd_regions (d : Nat) (f : Nd → Nd) : (s.updNd d f).regions = s.regions := rfl

@[simp] theorem State.updNd_readings (d : Nat) (f : Nd → Nd) : (s.updNd d f).readings = s.readings := rfl

@[simp] theorem State.updNd_frames (d : Nat) (f : Nd → Nd) : (s.updNd d f).frames = s.frames := rfl

@[simp] theorem State.updNd_cow (d : Nat) (f : Nd → Nd) : (s.updNd d f).cow = s.cow := rfl

@[simp] theorem State.updNd_links (d : Nat) (f : Nd → Nd) : (s.updNd d f).links = s.links := rfl

@[simp] theorem State.updNd_frags (d : Nat) (f : Nd → Nd) : (s.updNd d f).frags = s.frags := rfl

@[simp] theorem State.updNd_podOut (d : Nat) (f : Nd → Nd) : (s.updNd d f).podOut = s.podOut := rfl

@[simp] theorem State.updNd_linkMsgs (d : Nat) (f : Nd → Nd) : (s.updNd d f).linkMsgs = s.linkMsgs := rfl

@[simp] theorem State.updNd_keys (d : Nat) (f : Nd → Nd) : (s.updNd d f).keys = s.keys := rfl

@[simp] theorem State.updNd_boot (d : Nat) (f : Nd → Nd) : (s.updNd d f).boot = s.boot := rfl

@[simp] theorem State.updNd_queues (d : Nat) (f : Nd → Nd) : (s.updNd d f).queues = s.queues := rfl

@[simp] theorem State.updNd_cmds (d : Nat) (f : Nd → Nd) : (s.updNd d f).cmds = s.cmds := rfl

@[simp] theorem State.updNd_msix (d : Nat) (f : Nd → Nd) : (s.updNd d f).msix = s.msix := rfl

@[simp] theorem State.updNd_doe (d : Nat) (f : Nd → Nd) : (s.updNd d f).doe = s.doe := rfl

@[simp] theorem State.updNd_ladders (d : Nat) (f : Nd → Nd) : (s.updNd d f).ladders = s.ladders := rfl

@[simp] theorem State.updNd_presiding (d : Nat) (f : Nd → Nd) : (s.updNd d f).presiding = s.presiding := rfl

@[simp] theorem State.updNd_members (d : Nat) (f : Nd → Nd) : (s.updNd d f).members = s.members := rfl

@[simp] theorem State.updNd_lifeLog (d : Nat) (f : Nd → Nd) : (s.updNd d f).lifeLog = s.lifeLog := rfl

@[simp] theorem State.updNd_counts (d : Nat) (f : Nd → Nd) : (s.updNd d f).counts = s.counts := rfl

@[simp] theorem State.updNd_epochBase (d : Nat) (f : Nd → Nd) : (s.updNd d f).epochBase = s.epochBase := rfl

@[simp] theorem State.updNd_throttle (d : Nat) (f : Nd → Nd) : (s.updNd d f).throttle = s.throttle := rfl

@[simp] theorem State.updNd_coolSince (d : Nat) (f : Nd → Nd) : (s.updNd d f).coolSince = s.coolSince := rfl

@[simp] theorem State.updNd_frozen (d : Nat) (f : Nd → Nd) : (s.updNd d f).frozen = s.frozen := rfl

@[simp] theorem State.updNd_requesters (d : Nat) (f : Nd → Nd) : (s.updNd d f).requesters = s.requesters := rfl

@[simp] theorem State.updNd_aperture (d : Nat) (f : Nd → Nd) : (s.updNd d f).aperture = s.aperture := rfl

@[simp] theorem State.updNd_moduleId (d : Nat) (f : Nd → Nd) : (s.updNd d f).moduleId = s.moduleId := rfl
@[simp] theorem State.updNd_podIn (d : Nat) (f : Nd → Nd) : (s.updNd d f).podIn = s.podIn := rfl
@[simp] theorem State.updNd_hostLinks (d : Nat) (f : Nd → Nd) : (s.updNd d f).hostLinks = s.hostLinks := rfl
@[simp] theorem State.updNd_hists (d : Nat) (f : Nd → Nd) : (s.updNd d f).hists = s.hists := rfl
@[simp] theorem State.updNd_lastEpoch (d : Nat) (f : Nd → Nd) : (s.updNd d f).lastEpoch = s.lastEpoch := rfl
@[simp] theorem State.updNd_reading (d : Nat) (f : Nd → Nd) : (s.updNd d f).reading = s.reading := rfl

@[simp] theorem State.updXu_cycle (d : Nat) (f : Xu → Xu) : (s.updXu d f).cycle = s.cycle := rfl

@[simp] theorem State.updXu_agenda (d : Nat) (f : Xu → Xu) : (s.updXu d f).agenda = s.agenda := rfl

@[simp] theorem State.updXu_focus (d : Nat) (f : Xu → Xu) : (s.updXu d f).focus = s.focus := rfl

@[simp] theorem State.updXu_index (d : Nat) (f : Xu → Xu) : (s.updXu d f).index = s.index := rfl

@[simp] theorem State.updXu_freeCtr (d : Nat) (f : Xu → Xu) : (s.updXu d f).freeCtr = s.freeCtr := rfl

@[simp] theorem State.updXu_mem (d : Nat) (f : Xu → Xu) : (s.updXu d f).mem = s.mem := rfl

@[simp] theorem State.updXu_bad (d : Nat) (f : Xu → Xu) : (s.updXu d f).bad = s.bad := rfl

@[simp] theorem State.updXu_tiles (d : Nat) (f : Xu → Xu) : (s.updXu d f).tiles = s.tiles := rfl

@[simp] theorem State.updXu_regions (d : Nat) (f : Xu → Xu) : (s.updXu d f).regions = s.regions := rfl

@[simp] theorem State.updXu_readings (d : Nat) (f : Xu → Xu) : (s.updXu d f).readings = s.readings := rfl

@[simp] theorem State.updXu_frames (d : Nat) (f : Xu → Xu) : (s.updXu d f).frames = s.frames := rfl

@[simp] theorem State.updXu_cow (d : Nat) (f : Xu → Xu) : (s.updXu d f).cow = s.cow := rfl

@[simp] theorem State.updXu_links (d : Nat) (f : Xu → Xu) : (s.updXu d f).links = s.links := rfl

@[simp] theorem State.updXu_frags (d : Nat) (f : Xu → Xu) : (s.updXu d f).frags = s.frags := rfl

@[simp] theorem State.updXu_podOut (d : Nat) (f : Xu → Xu) : (s.updXu d f).podOut = s.podOut := rfl

@[simp] theorem State.updXu_linkMsgs (d : Nat) (f : Xu → Xu) : (s.updXu d f).linkMsgs = s.linkMsgs := rfl

@[simp] theorem State.updXu_keys (d : Nat) (f : Xu → Xu) : (s.updXu d f).keys = s.keys := rfl

@[simp] theorem State.updXu_boot (d : Nat) (f : Xu → Xu) : (s.updXu d f).boot = s.boot := rfl

@[simp] theorem State.updXu_queues (d : Nat) (f : Xu → Xu) : (s.updXu d f).queues = s.queues := rfl

@[simp] theorem State.updXu_cmds (d : Nat) (f : Xu → Xu) : (s.updXu d f).cmds = s.cmds := rfl

@[simp] theorem State.updXu_msix (d : Nat) (f : Xu → Xu) : (s.updXu d f).msix = s.msix := rfl

@[simp] theorem State.updXu_doe (d : Nat) (f : Xu → Xu) : (s.updXu d f).doe = s.doe := rfl

@[simp] theorem State.updXu_ladders (d : Nat) (f : Xu → Xu) : (s.updXu d f).ladders = s.ladders := rfl

@[simp] theorem State.updXu_presiding (d : Nat) (f : Xu → Xu) : (s.updXu d f).presiding = s.presiding := rfl

@[simp] theorem State.updXu_members (d : Nat) (f : Xu → Xu) : (s.updXu d f).members = s.members := rfl

@[simp] theorem State.updXu_lifeLog (d : Nat) (f : Xu → Xu) : (s.updXu d f).lifeLog = s.lifeLog := rfl

@[simp] theorem State.updXu_counts (d : Nat) (f : Xu → Xu) : (s.updXu d f).counts = s.counts := rfl

@[simp] theorem State.updXu_epochBase (d : Nat) (f : Xu → Xu) : (s.updXu d f).epochBase = s.epochBase := rfl

@[simp] theorem State.updXu_throttle (d : Nat) (f : Xu → Xu) : (s.updXu d f).throttle = s.throttle := rfl

@[simp] theorem State.updXu_coolSince (d : Nat) (f : Xu → Xu) : (s.updXu d f).coolSince = s.coolSince := rfl

@[simp] theorem State.updXu_frozen (d : Nat) (f : Xu → Xu) : (s.updXu d f).frozen = s.frozen := rfl

@[simp] theorem State.updXu_requesters (d : Nat) (f : Xu → Xu) : (s.updXu d f).requesters = s.requesters := rfl

@[simp] theorem State.updXu_aperture (d : Nat) (f : Xu → Xu) : (s.updXu d f).aperture = s.aperture := rfl

@[simp] theorem State.updXu_moduleId (d : Nat) (f : Xu → Xu) : (s.updXu d f).moduleId = s.moduleId := rfl
@[simp] theorem State.updXu_podIn (d : Nat) (f : Xu → Xu) : (s.updXu d f).podIn = s.podIn := rfl
@[simp] theorem State.updXu_hostLinks (d : Nat) (f : Xu → Xu) : (s.updXu d f).hostLinks = s.hostLinks := rfl
@[simp] theorem State.updXu_hists (d : Nat) (f : Xu → Xu) : (s.updXu d f).hists = s.hists := rfl
@[simp] theorem State.updXu_lastEpoch (d : Nat) (f : Xu → Xu) : (s.updXu d f).lastEpoch = s.lastEpoch := rfl
@[simp] theorem State.updXu_reading (d : Nat) (f : Xu → Xu) : (s.updXu d f).reading = s.reading := rfl

@[simp] theorem State.updFab_cycle (d : Nat) (f : Fab → Fab) : (s.updFab d f).cycle = s.cycle := rfl

@[simp] theorem State.updFab_agenda (d : Nat) (f : Fab → Fab) : (s.updFab d f).agenda = s.agenda := rfl

@[simp] theorem State.updFab_focus (d : Nat) (f : Fab → Fab) : (s.updFab d f).focus = s.focus := rfl

@[simp] theorem State.updFab_index (d : Nat) (f : Fab → Fab) : (s.updFab d f).index = s.index := rfl

@[simp] theorem State.updFab_freeCtr (d : Nat) (f : Fab → Fab) : (s.updFab d f).freeCtr = s.freeCtr := rfl

@[simp] theorem State.updFab_mem (d : Nat) (f : Fab → Fab) : (s.updFab d f).mem = s.mem := rfl

@[simp] theorem State.updFab_bad (d : Nat) (f : Fab → Fab) : (s.updFab d f).bad = s.bad := rfl

@[simp] theorem State.updFab_tiles (d : Nat) (f : Fab → Fab) : (s.updFab d f).tiles = s.tiles := rfl

@[simp] theorem State.updFab_regions (d : Nat) (f : Fab → Fab) : (s.updFab d f).regions = s.regions := rfl

@[simp] theorem State.updFab_readings (d : Nat) (f : Fab → Fab) : (s.updFab d f).readings = s.readings := rfl

@[simp] theorem State.updFab_frames (d : Nat) (f : Fab → Fab) : (s.updFab d f).frames = s.frames := rfl

@[simp] theorem State.updFab_cow (d : Nat) (f : Fab → Fab) : (s.updFab d f).cow = s.cow := rfl

@[simp] theorem State.updFab_links (d : Nat) (f : Fab → Fab) : (s.updFab d f).links = s.links := rfl

@[simp] theorem State.updFab_frags (d : Nat) (f : Fab → Fab) : (s.updFab d f).frags = s.frags := rfl

@[simp] theorem State.updFab_podOut (d : Nat) (f : Fab → Fab) : (s.updFab d f).podOut = s.podOut := rfl

@[simp] theorem State.updFab_linkMsgs (d : Nat) (f : Fab → Fab) : (s.updFab d f).linkMsgs = s.linkMsgs := rfl

@[simp] theorem State.updFab_keys (d : Nat) (f : Fab → Fab) : (s.updFab d f).keys = s.keys := rfl

@[simp] theorem State.updFab_boot (d : Nat) (f : Fab → Fab) : (s.updFab d f).boot = s.boot := rfl

@[simp] theorem State.updFab_queues (d : Nat) (f : Fab → Fab) : (s.updFab d f).queues = s.queues := rfl

@[simp] theorem State.updFab_cmds (d : Nat) (f : Fab → Fab) : (s.updFab d f).cmds = s.cmds := rfl

@[simp] theorem State.updFab_msix (d : Nat) (f : Fab → Fab) : (s.updFab d f).msix = s.msix := rfl

@[simp] theorem State.updFab_doe (d : Nat) (f : Fab → Fab) : (s.updFab d f).doe = s.doe := rfl

@[simp] theorem State.updFab_ladders (d : Nat) (f : Fab → Fab) : (s.updFab d f).ladders = s.ladders := rfl

@[simp] theorem State.updFab_presiding (d : Nat) (f : Fab → Fab) : (s.updFab d f).presiding = s.presiding := rfl

@[simp] theorem State.updFab_members (d : Nat) (f : Fab → Fab) : (s.updFab d f).members = s.members := rfl

@[simp] theorem State.updFab_lifeLog (d : Nat) (f : Fab → Fab) : (s.updFab d f).lifeLog = s.lifeLog := rfl

@[simp] theorem State.updFab_counts (d : Nat) (f : Fab → Fab) : (s.updFab d f).counts = s.counts := rfl

@[simp] theorem State.updFab_epochBase (d : Nat) (f : Fab → Fab) : (s.updFab d f).epochBase = s.epochBase := rfl

@[simp] theorem State.updFab_throttle (d : Nat) (f : Fab → Fab) : (s.updFab d f).throttle = s.throttle := rfl

@[simp] theorem State.updFab_coolSince (d : Nat) (f : Fab → Fab) : (s.updFab d f).coolSince = s.coolSince := rfl

@[simp] theorem State.updFab_frozen (d : Nat) (f : Fab → Fab) : (s.updFab d f).frozen = s.frozen := rfl

@[simp] theorem State.updFab_requesters (d : Nat) (f : Fab → Fab) : (s.updFab d f).requesters = s.requesters := rfl

@[simp] theorem State.updFab_aperture (d : Nat) (f : Fab → Fab) : (s.updFab d f).aperture = s.aperture := rfl

@[simp] theorem State.updFab_moduleId (d : Nat) (f : Fab → Fab) : (s.updFab d f).moduleId = s.moduleId := rfl
@[simp] theorem State.updFab_podIn (d : Nat) (f : Fab → Fab) : (s.updFab d f).podIn = s.podIn := rfl
@[simp] theorem State.updFab_hostLinks (d : Nat) (f : Fab → Fab) : (s.updFab d f).hostLinks = s.hostLinks := rfl
@[simp] theorem State.updFab_hists (d : Nat) (f : Fab → Fab) : (s.updFab d f).hists = s.hists := rfl
@[simp] theorem State.updFab_lastEpoch (d : Nat) (f : Fab → Fab) : (s.updFab d f).lastEpoch = s.lastEpoch := rfl
@[simp] theorem State.updFab_reading (d : Nat) (f : Fab → Fab) : (s.updFab d f).reading = s.reading := rfl

@[simp] theorem State.setCtx_cycle (p : Place) (c : Ctx) : (s.setCtx p c).cycle = s.cycle := rfl

@[simp] theorem State.setCtx_agenda (p : Place) (c : Ctx) : (s.setCtx p c).agenda = s.agenda := rfl

@[simp] theorem State.setCtx_focus (p : Place) (c : Ctx) : (s.setCtx p c).focus = s.focus := rfl

@[simp] theorem State.setCtx_index (p : Place) (c : Ctx) : (s.setCtx p c).index = s.index := rfl

@[simp] theorem State.setCtx_freeCtr (p : Place) (c : Ctx) : (s.setCtx p c).freeCtr = s.freeCtr := rfl

@[simp] theorem State.setCtx_mem (p : Place) (c : Ctx) : (s.setCtx p c).mem = s.mem := rfl

@[simp] theorem State.setCtx_bad (p : Place) (c : Ctx) : (s.setCtx p c).bad = s.bad := rfl

@[simp] theorem State.setCtx_dies (p : Place) (c : Ctx) : (s.setCtx p c).dies = s.dies := rfl

@[simp] theorem State.setCtx_regions (p : Place) (c : Ctx) : (s.setCtx p c).regions = s.regions := rfl

@[simp] theorem State.setCtx_readings (p : Place) (c : Ctx) : (s.setCtx p c).readings = s.readings := rfl

@[simp] theorem State.setCtx_frames (p : Place) (c : Ctx) : (s.setCtx p c).frames = s.frames := rfl

@[simp] theorem State.setCtx_cow (p : Place) (c : Ctx) : (s.setCtx p c).cow = s.cow := rfl

@[simp] theorem State.setCtx_links (p : Place) (c : Ctx) : (s.setCtx p c).links = s.links := rfl

@[simp] theorem State.setCtx_frags (p : Place) (c : Ctx) : (s.setCtx p c).frags = s.frags := rfl

@[simp] theorem State.setCtx_podOut (p : Place) (c : Ctx) : (s.setCtx p c).podOut = s.podOut := rfl

@[simp] theorem State.setCtx_linkMsgs (p : Place) (c : Ctx) : (s.setCtx p c).linkMsgs = s.linkMsgs := rfl

@[simp] theorem State.setCtx_keys (p : Place) (c : Ctx) : (s.setCtx p c).keys = s.keys := rfl

@[simp] theorem State.setCtx_boot (p : Place) (c : Ctx) : (s.setCtx p c).boot = s.boot := rfl

@[simp] theorem State.setCtx_queues (p : Place) (c : Ctx) : (s.setCtx p c).queues = s.queues := rfl

@[simp] theorem State.setCtx_cmds (p : Place) (c : Ctx) : (s.setCtx p c).cmds = s.cmds := rfl

@[simp] theorem State.setCtx_msix (p : Place) (c : Ctx) : (s.setCtx p c).msix = s.msix := rfl

@[simp] theorem State.setCtx_doe (p : Place) (c : Ctx) : (s.setCtx p c).doe = s.doe := rfl

@[simp] theorem State.setCtx_ladders (p : Place) (c : Ctx) : (s.setCtx p c).ladders = s.ladders := rfl

@[simp] theorem State.setCtx_presiding (p : Place) (c : Ctx) : (s.setCtx p c).presiding = s.presiding := rfl

@[simp] theorem State.setCtx_members (p : Place) (c : Ctx) : (s.setCtx p c).members = s.members := rfl

@[simp] theorem State.setCtx_lifeLog (p : Place) (c : Ctx) : (s.setCtx p c).lifeLog = s.lifeLog := rfl

@[simp] theorem State.setCtx_counts (p : Place) (c : Ctx) : (s.setCtx p c).counts = s.counts := rfl

@[simp] theorem State.setCtx_epochBase (p : Place) (c : Ctx) : (s.setCtx p c).epochBase = s.epochBase := rfl

@[simp] theorem State.setCtx_throttle (p : Place) (c : Ctx) : (s.setCtx p c).throttle = s.throttle := rfl

@[simp] theorem State.setCtx_coolSince (p : Place) (c : Ctx) : (s.setCtx p c).coolSince = s.coolSince := rfl

@[simp] theorem State.setCtx_frozen (p : Place) (c : Ctx) : (s.setCtx p c).frozen = s.frozen := rfl

@[simp] theorem State.setCtx_requesters (p : Place) (c : Ctx) : (s.setCtx p c).requesters = s.requesters := rfl

@[simp] theorem State.setCtx_aperture (p : Place) (c : Ctx) : (s.setCtx p c).aperture = s.aperture := rfl

@[simp] theorem State.setCtx_moduleId (p : Place) (c : Ctx) : (s.setCtx p c).moduleId = s.moduleId := rfl
@[simp] theorem State.setCtx_podIn (p : Place) (c : Ctx) : (s.setCtx p c).podIn = s.podIn := rfl
@[simp] theorem State.setCtx_hostLinks (p : Place) (c : Ctx) : (s.setCtx p c).hostLinks = s.hostLinks := rfl
@[simp] theorem State.setCtx_hists (p : Place) (c : Ctx) : (s.setCtx p c).hists = s.hists := rfl
@[simp] theorem State.setCtx_lastEpoch (p : Place) (c : Ctx) : (s.setCtx p c).lastEpoch = s.lastEpoch := rfl
@[simp] theorem State.setCtx_reading (p : Place) (c : Ctx) : (s.setCtx p c).reading = s.reading := rfl

@[simp] theorem State.updCtx_cycle (p : Place) (f : Ctx → Ctx) : (s.updCtx p f).cycle = s.cycle := rfl

@[simp] theorem State.updCtx_agenda (p : Place) (f : Ctx → Ctx) : (s.updCtx p f).agenda = s.agenda := rfl

@[simp] theorem State.updCtx_focus (p : Place) (f : Ctx → Ctx) : (s.updCtx p f).focus = s.focus := rfl

@[simp] theorem State.updCtx_index (p : Place) (f : Ctx → Ctx) : (s.updCtx p f).index = s.index := rfl

@[simp] theorem State.updCtx_freeCtr (p : Place) (f : Ctx → Ctx) : (s.updCtx p f).freeCtr = s.freeCtr := rfl

@[simp] theorem State.updCtx_mem (p : Place) (f : Ctx → Ctx) : (s.updCtx p f).mem = s.mem := rfl

@[simp] theorem State.updCtx_bad (p : Place) (f : Ctx → Ctx) : (s.updCtx p f).bad = s.bad := rfl

@[simp] theorem State.updCtx_dies (p : Place) (f : Ctx → Ctx) : (s.updCtx p f).dies = s.dies := rfl

@[simp] theorem State.updCtx_regions (p : Place) (f : Ctx → Ctx) : (s.updCtx p f).regions = s.regions := rfl

@[simp] theorem State.updCtx_readings (p : Place) (f : Ctx → Ctx) : (s.updCtx p f).readings = s.readings := rfl

@[simp] theorem State.updCtx_frames (p : Place) (f : Ctx → Ctx) : (s.updCtx p f).frames = s.frames := rfl

@[simp] theorem State.updCtx_cow (p : Place) (f : Ctx → Ctx) : (s.updCtx p f).cow = s.cow := rfl

@[simp] theorem State.updCtx_links (p : Place) (f : Ctx → Ctx) : (s.updCtx p f).links = s.links := rfl

@[simp] theorem State.updCtx_frags (p : Place) (f : Ctx → Ctx) : (s.updCtx p f).frags = s.frags := rfl

@[simp] theorem State.updCtx_podOut (p : Place) (f : Ctx → Ctx) : (s.updCtx p f).podOut = s.podOut := rfl

@[simp] theorem State.updCtx_linkMsgs (p : Place) (f : Ctx → Ctx) : (s.updCtx p f).linkMsgs = s.linkMsgs := rfl

@[simp] theorem State.updCtx_keys (p : Place) (f : Ctx → Ctx) : (s.updCtx p f).keys = s.keys := rfl

@[simp] theorem State.updCtx_boot (p : Place) (f : Ctx → Ctx) : (s.updCtx p f).boot = s.boot := rfl

@[simp] theorem State.updCtx_queues (p : Place) (f : Ctx → Ctx) : (s.updCtx p f).queues = s.queues := rfl

@[simp] theorem State.updCtx_cmds (p : Place) (f : Ctx → Ctx) : (s.updCtx p f).cmds = s.cmds := rfl

@[simp] theorem State.updCtx_msix (p : Place) (f : Ctx → Ctx) : (s.updCtx p f).msix = s.msix := rfl

@[simp] theorem State.updCtx_doe (p : Place) (f : Ctx → Ctx) : (s.updCtx p f).doe = s.doe := rfl

@[simp] theorem State.updCtx_ladders (p : Place) (f : Ctx → Ctx) : (s.updCtx p f).ladders = s.ladders := rfl

@[simp] theorem State.updCtx_presiding (p : Place) (f : Ctx → Ctx) : (s.updCtx p f).presiding = s.presiding := rfl

@[simp] theorem State.updCtx_members (p : Place) (f : Ctx → Ctx) : (s.updCtx p f).members = s.members := rfl

@[simp] theorem State.updCtx_lifeLog (p : Place) (f : Ctx → Ctx) : (s.updCtx p f).lifeLog = s.lifeLog := rfl

@[simp] theorem State.updCtx_counts (p : Place) (f : Ctx → Ctx) : (s.updCtx p f).counts = s.counts := rfl

@[simp] theorem State.updCtx_epochBase (p : Place) (f : Ctx → Ctx) : (s.updCtx p f).epochBase = s.epochBase := rfl

@[simp] theorem State.updCtx_throttle (p : Place) (f : Ctx → Ctx) : (s.updCtx p f).throttle = s.throttle := rfl

@[simp] theorem State.updCtx_coolSince (p : Place) (f : Ctx → Ctx) : (s.updCtx p f).coolSince = s.coolSince := rfl

@[simp] theorem State.updCtx_frozen (p : Place) (f : Ctx → Ctx) : (s.updCtx p f).frozen = s.frozen := rfl

@[simp] theorem State.updCtx_requesters (p : Place) (f : Ctx → Ctx) : (s.updCtx p f).requesters = s.requesters := rfl

@[simp] theorem State.updCtx_aperture (p : Place) (f : Ctx → Ctx) : (s.updCtx p f).aperture = s.aperture := rfl

@[simp] theorem State.updCtx_moduleId (p : Place) (f : Ctx → Ctx) : (s.updCtx p f).moduleId = s.moduleId := rfl
@[simp] theorem State.updCtx_podIn (p : Place) (f : Ctx → Ctx) : (s.updCtx p f).podIn = s.podIn := rfl
@[simp] theorem State.updCtx_hostLinks (p : Place) (f : Ctx → Ctx) : (s.updCtx p f).hostLinks = s.hostLinks := rfl
@[simp] theorem State.updCtx_hists (p : Place) (f : Ctx → Ctx) : (s.updCtx p f).hists = s.hists := rfl
@[simp] theorem State.updCtx_lastEpoch (p : Place) (f : Ctx → Ctx) : (s.updCtx p f).lastEpoch = s.lastEpoch := rfl
@[simp] theorem State.updCtx_reading (p : Place) (f : Ctx → Ctx) : (s.updCtx p f).reading = s.reading := rfl

@[simp] theorem State.updRun_cycle (p : Place) (f : Run → Run) : (s.updRun p f).cycle = s.cycle := rfl

@[simp] theorem State.updRun_agenda (p : Place) (f : Run → Run) : (s.updRun p f).agenda = s.agenda := rfl

@[simp] theorem State.updRun_focus (p : Place) (f : Run → Run) : (s.updRun p f).focus = s.focus := rfl

@[simp] theorem State.updRun_index (p : Place) (f : Run → Run) : (s.updRun p f).index = s.index := rfl

@[simp] theorem State.updRun_freeCtr (p : Place) (f : Run → Run) : (s.updRun p f).freeCtr = s.freeCtr := rfl

@[simp] theorem State.updRun_mem (p : Place) (f : Run → Run) : (s.updRun p f).mem = s.mem := rfl

@[simp] theorem State.updRun_bad (p : Place) (f : Run → Run) : (s.updRun p f).bad = s.bad := rfl

@[simp] theorem State.updRun_dies (p : Place) (f : Run → Run) : (s.updRun p f).dies = s.dies := rfl

@[simp] theorem State.updRun_regions (p : Place) (f : Run → Run) : (s.updRun p f).regions = s.regions := rfl

@[simp] theorem State.updRun_readings (p : Place) (f : Run → Run) : (s.updRun p f).readings = s.readings := rfl

@[simp] theorem State.updRun_frames (p : Place) (f : Run → Run) : (s.updRun p f).frames = s.frames := rfl

@[simp] theorem State.updRun_cow (p : Place) (f : Run → Run) : (s.updRun p f).cow = s.cow := rfl

@[simp] theorem State.updRun_links (p : Place) (f : Run → Run) : (s.updRun p f).links = s.links := rfl

@[simp] theorem State.updRun_frags (p : Place) (f : Run → Run) : (s.updRun p f).frags = s.frags := rfl

@[simp] theorem State.updRun_podOut (p : Place) (f : Run → Run) : (s.updRun p f).podOut = s.podOut := rfl

@[simp] theorem State.updRun_linkMsgs (p : Place) (f : Run → Run) : (s.updRun p f).linkMsgs = s.linkMsgs := rfl

@[simp] theorem State.updRun_keys (p : Place) (f : Run → Run) : (s.updRun p f).keys = s.keys := rfl

@[simp] theorem State.updRun_boot (p : Place) (f : Run → Run) : (s.updRun p f).boot = s.boot := rfl

@[simp] theorem State.updRun_queues (p : Place) (f : Run → Run) : (s.updRun p f).queues = s.queues := rfl

@[simp] theorem State.updRun_cmds (p : Place) (f : Run → Run) : (s.updRun p f).cmds = s.cmds := rfl

@[simp] theorem State.updRun_msix (p : Place) (f : Run → Run) : (s.updRun p f).msix = s.msix := rfl

@[simp] theorem State.updRun_doe (p : Place) (f : Run → Run) : (s.updRun p f).doe = s.doe := rfl

@[simp] theorem State.updRun_ladders (p : Place) (f : Run → Run) : (s.updRun p f).ladders = s.ladders := rfl

@[simp] theorem State.updRun_presiding (p : Place) (f : Run → Run) : (s.updRun p f).presiding = s.presiding := rfl

@[simp] theorem State.updRun_members (p : Place) (f : Run → Run) : (s.updRun p f).members = s.members := rfl

@[simp] theorem State.updRun_lifeLog (p : Place) (f : Run → Run) : (s.updRun p f).lifeLog = s.lifeLog := rfl

@[simp] theorem State.updRun_counts (p : Place) (f : Run → Run) : (s.updRun p f).counts = s.counts := rfl

@[simp] theorem State.updRun_epochBase (p : Place) (f : Run → Run) : (s.updRun p f).epochBase = s.epochBase := rfl

@[simp] theorem State.updRun_throttle (p : Place) (f : Run → Run) : (s.updRun p f).throttle = s.throttle := rfl

@[simp] theorem State.updRun_coolSince (p : Place) (f : Run → Run) : (s.updRun p f).coolSince = s.coolSince := rfl

@[simp] theorem State.updRun_frozen (p : Place) (f : Run → Run) : (s.updRun p f).frozen = s.frozen := rfl

@[simp] theorem State.updRun_requesters (p : Place) (f : Run → Run) : (s.updRun p f).requesters = s.requesters := rfl

@[simp] theorem State.updRun_aperture (p : Place) (f : Run → Run) : (s.updRun p f).aperture = s.aperture := rfl

@[simp] theorem State.updRun_moduleId (p : Place) (f : Run → Run) : (s.updRun p f).moduleId = s.moduleId := rfl
@[simp] theorem State.updRun_podIn (p : Place) (f : Run → Run) : (s.updRun p f).podIn = s.podIn := rfl
@[simp] theorem State.updRun_hostLinks (p : Place) (f : Run → Run) : (s.updRun p f).hostLinks = s.hostLinks := rfl
@[simp] theorem State.updRun_hists (p : Place) (f : Run → Run) : (s.updRun p f).hists = s.hists := rfl
@[simp] theorem State.updRun_lastEpoch (p : Place) (f : Run → Run) : (s.updRun p f).lastEpoch = s.lastEpoch := rfl
@[simp] theorem State.updRun_reading (p : Place) (f : Run → Run) : (s.updRun p f).reading = s.reading := rfl

@[simp] theorem State.writeAt_cycle (k : Nat) (bs : List Byte) : (s.writeAt k bs).cycle = s.cycle := rfl

@[simp] theorem State.writeAt_agenda (k : Nat) (bs : List Byte) : (s.writeAt k bs).agenda = s.agenda := rfl

@[simp] theorem State.writeAt_focus (k : Nat) (bs : List Byte) : (s.writeAt k bs).focus = s.focus := rfl

@[simp] theorem State.writeAt_index (k : Nat) (bs : List Byte) : (s.writeAt k bs).index = s.index := rfl

@[simp] theorem State.writeAt_freeCtr (k : Nat) (bs : List Byte) : (s.writeAt k bs).freeCtr = s.freeCtr := rfl

@[simp] theorem State.writeAt_mem (k : Nat) (bs : List Byte) : (s.writeAt k bs).mem = Memory.writeN s.mem k bs := rfl

@[simp] theorem State.writeAt_tiles (k : Nat) (bs : List Byte) : (s.writeAt k bs).tiles = s.tiles := rfl

@[simp] theorem State.writeAt_dies (k : Nat) (bs : List Byte) : (s.writeAt k bs).dies = s.dies := rfl

@[simp] theorem State.writeAt_regions (k : Nat) (bs : List Byte) : (s.writeAt k bs).regions = s.regions := rfl

@[simp] theorem State.writeAt_readings (k : Nat) (bs : List Byte) : (s.writeAt k bs).readings = s.readings := rfl

@[simp] theorem State.writeAt_frames (k : Nat) (bs : List Byte) : (s.writeAt k bs).frames = s.frames := rfl

@[simp] theorem State.writeAt_cow (k : Nat) (bs : List Byte) : (s.writeAt k bs).cow = s.cow := rfl

@[simp] theorem State.writeAt_links (k : Nat) (bs : List Byte) : (s.writeAt k bs).links = s.links := rfl

@[simp] theorem State.writeAt_frags (k : Nat) (bs : List Byte) : (s.writeAt k bs).frags = s.frags := rfl

@[simp] theorem State.writeAt_podOut (k : Nat) (bs : List Byte) : (s.writeAt k bs).podOut = s.podOut := rfl

@[simp] theorem State.writeAt_linkMsgs (k : Nat) (bs : List Byte) : (s.writeAt k bs).linkMsgs = s.linkMsgs := rfl

@[simp] theorem State.writeAt_keys (k : Nat) (bs : List Byte) : (s.writeAt k bs).keys = s.keys := rfl

@[simp] theorem State.writeAt_boot (k : Nat) (bs : List Byte) : (s.writeAt k bs).boot = s.boot := rfl

@[simp] theorem State.writeAt_queues (k : Nat) (bs : List Byte) : (s.writeAt k bs).queues = s.queues := rfl

@[simp] theorem State.writeAt_cmds (k : Nat) (bs : List Byte) : (s.writeAt k bs).cmds = s.cmds := rfl

@[simp] theorem State.writeAt_msix (k : Nat) (bs : List Byte) : (s.writeAt k bs).msix = s.msix := rfl

@[simp] theorem State.writeAt_doe (k : Nat) (bs : List Byte) : (s.writeAt k bs).doe = s.doe := rfl

@[simp] theorem State.writeAt_ladders (k : Nat) (bs : List Byte) : (s.writeAt k bs).ladders = s.ladders := rfl

@[simp] theorem State.writeAt_presiding (k : Nat) (bs : List Byte) : (s.writeAt k bs).presiding = s.presiding := rfl

@[simp] theorem State.writeAt_members (k : Nat) (bs : List Byte) : (s.writeAt k bs).members = s.members := rfl

@[simp] theorem State.writeAt_lifeLog (k : Nat) (bs : List Byte) : (s.writeAt k bs).lifeLog = s.lifeLog := rfl

@[simp] theorem State.writeAt_counts (k : Nat) (bs : List Byte) : (s.writeAt k bs).counts = s.counts := rfl

@[simp] theorem State.writeAt_epochBase (k : Nat) (bs : List Byte) : (s.writeAt k bs).epochBase = s.epochBase := rfl

@[simp] theorem State.writeAt_throttle (k : Nat) (bs : List Byte) : (s.writeAt k bs).throttle = s.throttle := rfl

@[simp] theorem State.writeAt_coolSince (k : Nat) (bs : List Byte) : (s.writeAt k bs).coolSince = s.coolSince := rfl

@[simp] theorem State.writeAt_frozen (k : Nat) (bs : List Byte) : (s.writeAt k bs).frozen = s.frozen := rfl

@[simp] theorem State.writeAt_requesters (k : Nat) (bs : List Byte) : (s.writeAt k bs).requesters = s.requesters := rfl

@[simp] theorem State.writeAt_aperture (k : Nat) (bs : List Byte) : (s.writeAt k bs).aperture = s.aperture := rfl

@[simp] theorem State.writeAt_moduleId (k : Nat) (bs : List Byte) : (s.writeAt k bs).moduleId = s.moduleId := rfl
@[simp] theorem State.writeAt_podIn (k : Nat) (bs : List Byte) : (s.writeAt k bs).podIn = s.podIn := rfl
@[simp] theorem State.writeAt_hostLinks (k : Nat) (bs : List Byte) : (s.writeAt k bs).hostLinks = s.hostLinks := rfl
@[simp] theorem State.writeAt_hists (k : Nat) (bs : List Byte) : (s.writeAt k bs).hists = s.hists := rfl
@[simp] theorem State.writeAt_lastEpoch (k : Nat) (bs : List Byte) : (s.writeAt k bs).lastEpoch = s.lastEpoch := rfl
@[simp] theorem State.writeAt_reading (k : Nat) (bs : List Byte) : (s.writeAt k bs).reading = s.reading := rfl

@[simp] theorem State.writeLs_cycle (p : Place) (a : Nat) (bs : List Byte) : (s.writeLs p a bs).cycle = s.cycle := rfl

@[simp] theorem State.writeLs_agenda (p : Place) (a : Nat) (bs : List Byte) : (s.writeLs p a bs).agenda = s.agenda := rfl

@[simp] theorem State.writeLs_focus (p : Place) (a : Nat) (bs : List Byte) : (s.writeLs p a bs).focus = s.focus := rfl

@[simp] theorem State.writeLs_index (p : Place) (a : Nat) (bs : List Byte) : (s.writeLs p a bs).index = s.index := rfl

@[simp] theorem State.writeLs_freeCtr (p : Place) (a : Nat) (bs : List Byte) : (s.writeLs p a bs).freeCtr = s.freeCtr := rfl

@[simp] theorem State.writeLs_mem (p : Place) (a : Nat) (bs : List Byte) : (s.writeLs p a bs).mem = Memory.writeN s.mem (lsKey p.die p.tile a) bs := rfl

@[simp] theorem State.writeLs_tiles (p : Place) (a : Nat) (bs : List Byte) : (s.writeLs p a bs).tiles = s.tiles := rfl

@[simp] theorem State.writeLs_dies (p : Place) (a : Nat) (bs : List Byte) : (s.writeLs p a bs).dies = s.dies := rfl

@[simp] theorem State.writeLs_regions (p : Place) (a : Nat) (bs : List Byte) : (s.writeLs p a bs).regions = s.regions := rfl

@[simp] theorem State.writeLs_readings (p : Place) (a : Nat) (bs : List Byte) : (s.writeLs p a bs).readings = s.readings := rfl

@[simp] theorem State.writeLs_frames (p : Place) (a : Nat) (bs : List Byte) : (s.writeLs p a bs).frames = s.frames := rfl

@[simp] theorem State.writeLs_cow (p : Place) (a : Nat) (bs : List Byte) : (s.writeLs p a bs).cow = s.cow := rfl

@[simp] theorem State.writeLs_links (p : Place) (a : Nat) (bs : List Byte) : (s.writeLs p a bs).links = s.links := rfl

@[simp] theorem State.writeLs_frags (p : Place) (a : Nat) (bs : List Byte) : (s.writeLs p a bs).frags = s.frags := rfl

@[simp] theorem State.writeLs_podOut (p : Place) (a : Nat) (bs : List Byte) : (s.writeLs p a bs).podOut = s.podOut := rfl

@[simp] theorem State.writeLs_linkMsgs (p : Place) (a : Nat) (bs : List Byte) : (s.writeLs p a bs).linkMsgs = s.linkMsgs := rfl

@[simp] theorem State.writeLs_keys (p : Place) (a : Nat) (bs : List Byte) : (s.writeLs p a bs).keys = s.keys := rfl

@[simp] theorem State.writeLs_boot (p : Place) (a : Nat) (bs : List Byte) : (s.writeLs p a bs).boot = s.boot := rfl

@[simp] theorem State.writeLs_queues (p : Place) (a : Nat) (bs : List Byte) : (s.writeLs p a bs).queues = s.queues := rfl

@[simp] theorem State.writeLs_cmds (p : Place) (a : Nat) (bs : List Byte) : (s.writeLs p a bs).cmds = s.cmds := rfl

@[simp] theorem State.writeLs_msix (p : Place) (a : Nat) (bs : List Byte) : (s.writeLs p a bs).msix = s.msix := rfl

@[simp] theorem State.writeLs_doe (p : Place) (a : Nat) (bs : List Byte) : (s.writeLs p a bs).doe = s.doe := rfl

@[simp] theorem State.writeLs_ladders (p : Place) (a : Nat) (bs : List Byte) : (s.writeLs p a bs).ladders = s.ladders := rfl

@[simp] theorem State.writeLs_presiding (p : Place) (a : Nat) (bs : List Byte) : (s.writeLs p a bs).presiding = s.presiding := rfl

@[simp] theorem State.writeLs_members (p : Place) (a : Nat) (bs : List Byte) : (s.writeLs p a bs).members = s.members := rfl

@[simp] theorem State.writeLs_lifeLog (p : Place) (a : Nat) (bs : List Byte) : (s.writeLs p a bs).lifeLog = s.lifeLog := rfl

@[simp] theorem State.writeLs_counts (p : Place) (a : Nat) (bs : List Byte) : (s.writeLs p a bs).counts = s.counts := rfl

@[simp] theorem State.writeLs_epochBase (p : Place) (a : Nat) (bs : List Byte) : (s.writeLs p a bs).epochBase = s.epochBase := rfl

@[simp] theorem State.writeLs_throttle (p : Place) (a : Nat) (bs : List Byte) : (s.writeLs p a bs).throttle = s.throttle := rfl

@[simp] theorem State.writeLs_coolSince (p : Place) (a : Nat) (bs : List Byte) : (s.writeLs p a bs).coolSince = s.coolSince := rfl

@[simp] theorem State.writeLs_frozen (p : Place) (a : Nat) (bs : List Byte) : (s.writeLs p a bs).frozen = s.frozen := rfl

@[simp] theorem State.writeLs_requesters (p : Place) (a : Nat) (bs : List Byte) : (s.writeLs p a bs).requesters = s.requesters := rfl

@[simp] theorem State.writeLs_aperture (p : Place) (a : Nat) (bs : List Byte) : (s.writeLs p a bs).aperture = s.aperture := rfl

@[simp] theorem State.writeLs_moduleId (p : Place) (a : Nat) (bs : List Byte) : (s.writeLs p a bs).moduleId = s.moduleId := rfl
@[simp] theorem State.writeLs_podIn (p : Place) (a : Nat) (bs : List Byte) : (s.writeLs p a bs).podIn = s.podIn := rfl
@[simp] theorem State.writeLs_hostLinks (p : Place) (a : Nat) (bs : List Byte) : (s.writeLs p a bs).hostLinks = s.hostLinks := rfl
@[simp] theorem State.writeLs_hists (p : Place) (a : Nat) (bs : List Byte) : (s.writeLs p a bs).hists = s.hists := rfl
@[simp] theorem State.writeLs_lastEpoch (p : Place) (a : Nat) (bs : List Byte) : (s.writeLs p a bs).lastEpoch = s.lastEpoch := rfl
@[simp] theorem State.writeLs_reading (p : Place) (a : Nat) (bs : List Byte) : (s.writeLs p a bs).reading = s.reading := rfl

@[simp] theorem State.zeroAt_cycle (k n : Nat) : (s.zeroAt k n).cycle = s.cycle := rfl

@[simp] theorem State.zeroAt_agenda (k n : Nat) : (s.zeroAt k n).agenda = s.agenda := rfl

@[simp] theorem State.zeroAt_focus (k n : Nat) : (s.zeroAt k n).focus = s.focus := rfl

@[simp] theorem State.zeroAt_index (k n : Nat) : (s.zeroAt k n).index = s.index := rfl

@[simp] theorem State.zeroAt_freeCtr (k n : Nat) : (s.zeroAt k n).freeCtr = s.freeCtr := rfl

@[simp] theorem State.zeroAt_tiles (k n : Nat) : (s.zeroAt k n).tiles = s.tiles := rfl

@[simp] theorem State.zeroAt_dies (k n : Nat) : (s.zeroAt k n).dies = s.dies := rfl

@[simp] theorem State.zeroAt_regions (k n : Nat) : (s.zeroAt k n).regions = s.regions := rfl

@[simp] theorem State.zeroAt_readings (k n : Nat) : (s.zeroAt k n).readings = s.readings := rfl

@[simp] theorem State.zeroAt_frames (k n : Nat) : (s.zeroAt k n).frames = s.frames := rfl

@[simp] theorem State.zeroAt_cow (k n : Nat) : (s.zeroAt k n).cow = s.cow := rfl

@[simp] theorem State.zeroAt_links (k n : Nat) : (s.zeroAt k n).links = s.links := rfl

@[simp] theorem State.zeroAt_frags (k n : Nat) : (s.zeroAt k n).frags = s.frags := rfl

@[simp] theorem State.zeroAt_podOut (k n : Nat) : (s.zeroAt k n).podOut = s.podOut := rfl

@[simp] theorem State.zeroAt_linkMsgs (k n : Nat) : (s.zeroAt k n).linkMsgs = s.linkMsgs := rfl

@[simp] theorem State.zeroAt_keys (k n : Nat) : (s.zeroAt k n).keys = s.keys := rfl

@[simp] theorem State.zeroAt_boot (k n : Nat) : (s.zeroAt k n).boot = s.boot := rfl

@[simp] theorem State.zeroAt_queues (k n : Nat) : (s.zeroAt k n).queues = s.queues := rfl

@[simp] theorem State.zeroAt_cmds (k n : Nat) : (s.zeroAt k n).cmds = s.cmds := rfl

@[simp] theorem State.zeroAt_msix (k n : Nat) : (s.zeroAt k n).msix = s.msix := rfl

@[simp] theorem State.zeroAt_doe (k n : Nat) : (s.zeroAt k n).doe = s.doe := rfl

@[simp] theorem State.zeroAt_ladders (k n : Nat) : (s.zeroAt k n).ladders = s.ladders := rfl

@[simp] theorem State.zeroAt_presiding (k n : Nat) : (s.zeroAt k n).presiding = s.presiding := rfl

@[simp] theorem State.zeroAt_members (k n : Nat) : (s.zeroAt k n).members = s.members := rfl

@[simp] theorem State.zeroAt_lifeLog (k n : Nat) : (s.zeroAt k n).lifeLog = s.lifeLog := rfl

@[simp] theorem State.zeroAt_counts (k n : Nat) : (s.zeroAt k n).counts = s.counts := rfl

@[simp] theorem State.zeroAt_epochBase (k n : Nat) : (s.zeroAt k n).epochBase = s.epochBase := rfl

@[simp] theorem State.zeroAt_throttle (k n : Nat) : (s.zeroAt k n).throttle = s.throttle := rfl

@[simp] theorem State.zeroAt_coolSince (k n : Nat) : (s.zeroAt k n).coolSince = s.coolSince := rfl

@[simp] theorem State.zeroAt_frozen (k n : Nat) : (s.zeroAt k n).frozen = s.frozen := rfl

@[simp] theorem State.zeroAt_requesters (k n : Nat) : (s.zeroAt k n).requesters = s.requesters := rfl

@[simp] theorem State.zeroAt_aperture (k n : Nat) : (s.zeroAt k n).aperture = s.aperture := rfl

@[simp] theorem State.zeroAt_moduleId (k n : Nat) : (s.zeroAt k n).moduleId = s.moduleId := rfl
@[simp] theorem State.zeroAt_podIn (k n : Nat) : (s.zeroAt k n).podIn = s.podIn := rfl
@[simp] theorem State.zeroAt_hostLinks (k n : Nat) : (s.zeroAt k n).hostLinks = s.hostLinks := rfl
@[simp] theorem State.zeroAt_hists (k n : Nat) : (s.zeroAt k n).hists = s.hists := rfl
@[simp] theorem State.zeroAt_lastEpoch (k n : Nat) : (s.zeroAt k n).lastEpoch = s.lastEpoch := rfl
@[simp] theorem State.zeroAt_reading (k n : Nat) : (s.zeroAt k n).reading = s.reading := rfl

/-! ### Places -/

/-- Two places of the panel with one key are one tile (01_machine.md R11). -/
theorem tileKey_inj {d t e u : Nat} (ht : t < 144) (hu : u < 144) (h : d * 144 + t = e * 144 + u) : d = e ∧ t = u := by omega

@[simp] theorem State.tile_setTile (d t : Nat) (x : Tile) : (s.setTile d t x).tile d t = x := look_put _ _ _ _

theorem State.tile_setTile_ne {d t e u : Nat} (x : Tile) (h : e * 144 + u ≠ d * 144 + t) :
    (s.setTile d t x).tile e u = s.tile e u := look_put_ne _ _ _ h

@[simp] theorem State.tile_updTile (d t : Nat) (f : Tile → Tile) : (s.updTile d t f).tile d t = f (s.tile d t) := look_put _ _ _ _

@[simp] theorem State.die_setDie (d : Nat) (x : Die) : (s.setDie d x).die d = x := look_put _ _ _ _

theorem State.die_setDie_ne {d e : Nat} (x : Die) (h : e ≠ d) : (s.setDie d x).die e = s.die e := look_put_ne _ _ _ h

@[simp] theorem State.die_updDie (d : Nat) (f : Die → Die) : (s.updDie d f).die d = f (s.die d) := look_put _ _ _ _

theorem State.die_updDie_ne {d e : Nat} (f : Die → Die) (h : e ≠ d) : (s.updDie d f).die e = s.die e := look_put_ne _ _ _ h

@[simp] theorem State.die_setTile (d t : Nat) (x : Tile) (e : Nat) : (s.setTile d t x).die e = s.die e := rfl

@[simp] theorem State.die_updTile (d t : Nat) (f : Tile → Tile) (e : Nat) : (s.updTile d t f).die e = s.die e := rfl

@[simp] theorem State.die_setCtx (p : Place) (c : Ctx) (e : Nat) : (s.setCtx p c).die e = s.die e := rfl

@[simp] theorem State.die_updCtx (p : Place) (f : Ctx → Ctx) (e : Nat) : (s.updCtx p f).die e = s.die e := rfl

@[simp] theorem State.die_updRun (p : Place) (f : Run → Run) (e : Nat) : (s.updRun p f).die e = s.die e := rfl

@[simp] theorem State.tile_setDie (d : Nat) (x : Die) (e u : Nat) : (s.setDie d x).tile e u = s.tile e u := rfl

@[simp] theorem State.tile_updDie (d : Nat) (f : Die → Die) (e u : Nat) : (s.updDie d f).tile e u = s.tile e u := rfl

@[simp] theorem State.ctx_setDie (d : Nat) (x : Die) (p : Place) : (s.setDie d x).ctx p = s.ctx p := rfl

@[simp] theorem State.ctx_updDie (d : Nat) (f : Die → Die) (p : Place) : (s.updDie d f).ctx p = s.ctx p := rfl

@[simp] theorem State.ctx_writeAt (k : Nat) (bs : List Byte) (p : Place) : (s.writeAt k bs).ctx p = s.ctx p := rfl

@[simp] theorem State.ctx_setCtx (p : Place) (c : Ctx) : (s.setCtx p c).ctx p = c := by
  simp [State.ctx, State.setCtx]

@[simp] theorem State.ctx_updCtx (p : Place) (f : Ctx → Ctx) : (s.updCtx p f).ctx p = f (s.ctx p) := s.ctx_setCtx p _

@[simp] theorem State.ctx_updRun (p : Place) (f : Run → Run) :
    (s.updRun p f).ctx p = { s.ctx p with run := (s.ctx p).run.map f } := s.ctx_setCtx p _

/-- A context written leaves every other context of the panel. -/
theorem State.ctx_setCtx_ne {p q : Place} (c : Ctx) (hp : p.tile < 144) (hq : q.tile < 144) (h : q ≠ p) :
    (s.setCtx p c).ctx q = s.ctx q := by
  simp only [State.ctx, State.setCtx, State.updTile]
  by_cases hk : q.die * 144 + q.tile = p.die * 144 + p.tile
  · obtain ⟨hd, ht⟩ := tileKey_inj hq hp hk
    have hc : q.ctx ≠ p.ctx := fun hc => h (by cases p; cases q; simp_all)
    rw [hd, ht, State.tile_setTile]
    exact look_put_ne _ _ _ hc
  · rw [State.tile_setTile_ne s _ hk]

/-- A change of a tile that leaves its contexts leaves every context. -/
theorem State.ctx_updTile (d t : Nat) (f : Tile → Tile) (h : ∀ x, (f x).ctxs = x.ctxs) (q : Place) :
    (s.updTile d t f).ctx q = s.ctx q := by
  simp only [State.ctx]
  by_cases hk : q.die * 144 + q.tile = d * 144 + t
  · have : (s.updTile d t f).tile q.die q.tile = f (s.tile d t) := by
      simp only [State.updTile, State.setTile, State.tile, hk, look_put]
    rw [this, h]; simp [State.tile, hk]
  · rw [State.updTile, State.tile_setTile_ne s _ hk]

@[simp] theorem State.setCtx_setCtx (p : Place) (c e : Ctx) : (s.setCtx p c).setCtx p e = s.setCtx p e := by
  simp [State.setCtx, State.updTile, State.setTile, State.tile]

/-- Two changes of a block are one. -/
theorem State.updRun_updRun (p : Place) (f g : Run → Run) : (s.updRun p f).updRun p g = s.updRun p fun r => g (f r) := by
  simp only [State.updRun, State.updCtx, State.ctx_setCtx, State.setCtx_setCtx, Option.map_map]
  rfl

/-! ### The canonical form of memory -/

theorem State.mem_wf_writeAt (k : Nat) (bs : List Byte) (h : Memory.wf s.mem = true) : Memory.wf (s.writeAt k bs).mem = true :=
  Memory.wf_writeN bs k h

theorem State.mem_wf_writeLs (p : Place) (a : Nat) (bs : List Byte) (h : Memory.wf s.mem = true) :
    Memory.wf (s.writeLs p a bs).mem = true := Memory.wf_writeN bs _ h

theorem State.mem_wf_zeroAt (k n : Nat) (h : Memory.wf s.mem = true) : Memory.wf (s.zeroAt k n).mem = true := Memory.wf_filter _ h

theorem wf_foldl_write (f : Nat → Nat) (l m : List Host.Cell) (h : Memory.wf m = true) :
    Memory.wf (l.foldl (fun m c => Memory.write m (f c.1) c.2) m) = true := by
  induction l generalizing m with
  | nil => exact h
  | cons c l ih => exact ih _ (Memory.wf_write _ _ h)

theorem State.mem_wf_copyFrame (a b n : Nat) (h : Memory.wf s.mem = true) : Memory.wf (s.copyFrame a b n).mem = true :=
  wf_foldl_write (fun k => k - a + b) _ _ (Memory.wf_filter _ h)

theorem State.mem_wf_poke (e : Word64) (b w v : Nat) (h : Memory.wf s.mem = true) : Memory.wf (s.poke e b w v).mem = true := by
  unfold State.poke; split <;> exact s.mem_wf_writeAt _ _ h

theorem mem_wf_reset : Memory.wf State.reset.mem = true := rfl

end Sys2Proof.Machine
end

