-- ==== Sys2Proof/Laws/Fire.lean ====
section
/-! SUPPORT. What the shared operations can do: sending, taking a fault, delivering tokens, firing an instruction, completing a
command, starting a handler. -/

namespace Sys2Proof.Machine

open Sys2Proof.Safety

variable (s : State)

/-! ### Sending between hubs (16_message_engine.md R386) -/

/-- The parts of the state that a hub's own work leaves: memory, tiles, and all that is neither a die's nor a host command. -/
def OnlyHubs (s t : State) : Prop :=
  t.mem = s.mem ∧ t.bad = s.bad ∧ t.tiles = s.tiles ∧ t.cycle = s.cycle ∧ t.agenda = s.agenda ∧ t.focus = s.focus ∧ t.index = s.index ∧
  t.freeCtr = s.freeCtr ∧ t.regions = s.regions ∧ t.frames = s.frames ∧ t.moduleId = s.moduleId ∧ t.queues = s.queues ∧
  t.ladders = s.ladders ∧ t.frozen = s.frozen ∧ t.presiding = s.presiding ∧ t.boot = s.boot

theorem OnlyHubs.refl : OnlyHubs s s := by simp [OnlyHubs]

theorem OnlyHubs.trans {s t u : State} (h : OnlyHubs s t) (g : OnlyHubs t u) : OnlyHubs s u := by
  simp only [OnlyHubs] at *; simp_all

theorem onlyHubs_updDie (d : Nat) (f : Die → Die) : OnlyHubs s (s.updDie d f) := by simp [OnlyHubs]

/-- A body other than the end of a debug halt, which lets counts of contexts and ladders go on. -/
def Calm (b : Body) : Prop := ∀ e l, b ≠ .halt e false l

/-- The arrival of a calm body at a hub changes dies and, for a join's update, host commands. -/
theorem onlyHubs_accept (d : Nat) (m : Option (Nat × Nat × Nat)) {b : Body} (h : Calm b) : OnlyHubs s (s.accept d m b) := by
  cases b <;> simp only [State.accept]
  case joinUpdate => split <;> simp [OnlyHubs]
  case halt e on l =>
    cases on
    · exact absurd rfl (h e l)
    · split <;> simp [OnlyHubs, State.haltHeard]
  case beat => split <;> simp [OnlyHubs]
  case news => split <;> simp [OnlyHubs]
  all_goals simp [OnlyHubs]

/-- Sending a calm body changes dies and, for a join's update, host commands. -/
theorem onlyHubs_send (a b : Nat) {x : Body} (h : Calm x) : OnlyHubs s (s.send a b x) := by
  unfold State.send
  split
  · exact onlyHubs_accept _ _ _ h
  · exact onlyHubs_updDie _ _ _

/-- No body that arrives at a hub changes memory, the cycle or the agenda. -/
theorem accept_mem (d : Nat) (m : Option (Nat × Nat × Nat)) (b : Body) :
    (s.accept d m b).mem = s.mem ∧ (s.accept d m b).cycle = s.cycle ∧ (s.accept d m b).agenda = s.agenda := by
  by_cases h : Calm b
  · exact ⟨(onlyHubs_accept s d m h).1, (onlyHubs_accept s d m h).2.2.2.1, (onlyHubs_accept s d m h).2.2.2.2.1⟩
  · obtain ⟨e, l, rfl⟩ : ∃ e l, b = .halt e false l := by simpa [Calm] using h
    simp only [State.accept, State.haltOver, Bool.false_eq_true, if_false]
    split
    · split <;> simp
    · simp

theorem State.ctx_of_tiles {s t : State} (h : t.tiles = s.tiles) (p : Place) : t.ctx p = s.ctx p := by
  simp [State.ctx, State.tile, h]

theorem State.ctx_send (a b : Nat) {x : Body} (h : Calm x) (p : Place) : (s.send a b x).ctx p = s.ctx p :=
  State.ctx_of_tiles (onlyHubs_send s a b h).2.2.1 p

@[simp] theorem State.mem_send (a b : Nat) (x : Body) : (s.send a b x).mem = s.mem := by
  unfold State.send
  split
  · exact (accept_mem s _ _ _).1
  · rfl

/-! ### Taking a fault (28_traps_preemption.md R352, R353, R367) -/

/-- What the withdrawal of a block's events leaves: memory, the cycle, and every context. -/
def Quiet (s t : State) : Prop := t.mem = s.mem ∧ t.cycle = s.cycle ∧ ∀ q, t.ctx q = s.ctx q

theorem Quiet.trans {s t u : State} (h : Quiet s t) (g : Quiet t u) : Quiet s u :=
  ⟨g.1.trans h.1, g.2.1.trans h.2.1, fun q => (g.2.2 q).trans (h.2.2 q)⟩

/-- A fold of quiet steps is quiet. -/
theorem quiet_foldl {α : Type} (f : State → α → State) (hf : ∀ s x, Quiet s (f s x)) (l : List α) : ∀ s, Quiet s (l.foldl f s) := by
  induction l with
  | nil => exact fun s => ⟨rfl, rfl, fun _ => rfl⟩
  | cons x l ih => exact fun s => (hf s x).trans (ih (f s x))

theorem quiet_updTile (d t : Nat) (f : Tile → Tile) (h : ∀ x, (f x).ctxs = x.ctxs) : Quiet s (s.updTile d t f) :=
  ⟨rfl, rfl, State.ctx_updTile s d t f h⟩

theorem quiet_send (a b : Nat) {x : Body} (h : Calm x) : Quiet s (s.send a b x) :=
  ⟨State.mem_send s a b x, (onlyHubs_send s a b h).2.2.2.1, State.ctx_send s a b h⟩

/-- An uncorrectable error is only counted. -/
theorem noteError_quiet (d : Nat) (f : Option Cause) : Quiet s (s.noteError d f) := by
  unfold State.noteError
  split <;> exact ⟨rfl, rfl, fun _ => rfl⟩

/-- A withdrawn event. -/
theorem withdraw_quiet (p : Place) (v : Prov) : Quiet s (s.withdraw p v) := by
  cases v
  case frame f => exact quiet_updTile s _ _ _ fun _ => rfl
  case joined => exact ⟨rfl, rfl, fun _ => rfl⟩
  all_goals exact quiet_send s _ _ fun _ _ h => nomatch h

/-- An open taken out. -/
theorem dropOpen_quiet (p : Place) (n k : Nat) : Quiet s (s.dropOpen p n k) :=
  Quiet.trans ⟨rfl, rfl, fun _ => rfl⟩ (quiet_updTile _ _ _ _ fun _ => rfl)

/-- An abandoned block is gone; its context has everything else as before, and memory too. -/
theorem abandon_spec (p : Place) :
    (s.abandon p).mem = s.mem ∧ (s.abandon p).cycle = s.cycle ∧ (s.abandon p).ctx p = { s.ctx p with run := none } := by
  obtain ⟨u, hu, e⟩ : ∃ u, Quiet s u ∧ s.abandon p = u.updCtx p fun c => { c with run := none } :=
    ⟨_, (quiet_foldl _ (fun s (v : Nat × Prov) => withdraw_quiet s p v.2) _ s).trans
      (quiet_foldl _ (fun s k => dropOpen_quiet s p _ k) _ _), rfl⟩
  exact ⟨e ▸ hu.1, e ▸ hu.2.1, by rw [e, State.ctx_updCtx, hu.2.2 p]⟩

/-- TAKING A FAULT: the context is FAULTED, its block gone, its record queued, its registers as they were; memory stays. -/
theorem raiseFault_spec (p : Place) (r : FaultRec) :
    let t := s.raiseFault p r
    let c := s.ctx p
    t.mem = s.mem ∧ (t.ctx p).phase = .faulted ∧ (t.ctx p).run = none ∧ SameRegisters c (t.ctx p) ∧
      ∃ r1 : FaultRec, (t.ctx p).pend = c.pend ++ [r1] ∧ (t.ctx p).fault = some r1 ∧ (t.ctx p).faultRec = r1.special ∧
        r1.cause = r.cause ∧ r1.index = r.index ∧ r1.d0 = r.d0 ∧ r1.d1 = r.d1 ∧ r1.block = c.block ∧ r1.ctx = p.ctx ∧ r1.cycle = s.cycle := by
  obtain ⟨h1, -, h3⟩ := abandon_spec s p
  have e : ({ s.abandon p with freeCtr := s.freeCtr + 1 } : State).ctx p = (s.abandon p).ctx p := rfl
  refine ⟨(noteError_quiet _ _ _).1.trans h1, ?_⟩
  simp only [State.raiseFault, (noteError_quiet _ _ _).2.2, State.ctx_updCtx, e, h3]
  refine ⟨trivial, trivial, by simp [SameRegisters], _, rfl, rfl, rfl, rfl, rfl, rfl, rfl, rfl, rfl, rfl⟩

/-! ### Firing (06_block_engine.md R89-R92) -/

theorem armed_of_ready {s : State} {i : Instr} {vals : List Reg} {r : Run} (h : Ready s i vals r) : s.armed = some r := by
  have h1 := h.unfired
  have h2 := h.notOff
  simp only [State.armed, h.run, h.running, h.unfrozen, h.dispatching, h.live, h.uncommitted, h1, h2, and_self, if_true]

theorem values_vals (l : List Reg) : values (l.map Token.val) = some l := by
  induction l with
  | nil => rfl
  | cons a l ih => simp [values, ih]

/-- The data tokens of an instruction, where each of its slots has one. -/
theorem data_of_toks (r : Run) (k : Nat) : ∀ (n : Nat) (l : List Token),
    (List.range n).map (fun j => r.tok (32 * j + k)) = l.map some → r.data k n = some l := by
  intro n
  induction n with
  | zero => intro l h; cases l <;> simp_all [Run.data]
  | succ n ih =>
    intro l h
    rw [List.range_succ, List.map_append] at h
    obtain ⟨l1, l2, rfl, h1, h2⟩ := List.map_eq_append_iff.mp h.symm
    match l2, h2 with
    | [t], h2 =>
      simp only [List.map_cons, List.map_nil, List.cons.injEq, and_true] at h2
      simp [Run.data, ih l1 h1.symm, ← h2]
    | [], h2 => simp at h2
    | _ :: _ :: _, h2 => simp at h2

/-- A ready instruction acts on its operands. -/
theorem judge_of_ready {s : State} {i : Instr} {vals : List Reg} {r : Run} (h : Ready s i vals r) :
    r.judge (shapeOf i s.index) s.index = .act vals := by
  have hd : r.data s.index (shapeOf i s.index).slots = some (vals.map Token.val) :=
    data_of_toks r s.index _ _ (by rw [h.data, List.map_map]; rfl)
  have hon : ∀ p : BitVec 2, p.toNat < 2 ∨ p = 2#2 ∨ p = 3#2 := by decide
  unfold Run.judge
  simp only [hd, values_vals]
  split
  · rfl
  · rcases hon (shapeOf i s.index).pr with hp | hp | hp
    · omega
    · obtain ⟨g, hg, ht, hw⟩ := h.yes hp
      simp [hg, ht, hw, hp]
    · obtain ⟨g, hg, ht, hw⟩ := h.no hp
      simp [hg, ht, hw, hp]

/-- A ready instruction does what its meaning says of its operands. -/
theorem fire_ready {s : State} {i : Instr} {vals : List Reg} {r : Run} (h : Ready s i vals r) (body : List Reg → State → Act) :
    fire (shapeOf i s.index) body s = match body vals s with
      | .fault c d0 d1 => s.faultAt s.focus (some s.index) c d0 d1
      | .faultIn c d0 d1 t => t.faultAt s.focus (some s.index) c d0 d1
      | .async f => s.raiseAsync s.focus (some s.index) f
      | .notYet => s
      | .stay t => t
      | .wait k d => s.updRun s.focus fun r => r.beginWait s.index k d s.cycle
      | .waitIn k d t => t.updRun s.focus fun r => r.beginWait s.index k d s.cycle
      | .done outs op t => (t.updRun s.focus fun r => r.mark s.index (shapeOf i s.index) op).deliverAll s.focus (some s.index)
          (shapeOf i s.index).targets outs := by
  simp only [fire, armed_of_ready h, judge_of_ready h] <;> rfl

/-- An instruction whose block cannot fire it changes nothing. -/
theorem fire_unarmed {s : State} (h : s.armed = none) (i : Shape) (body : List Reg → State → Act) : fire i body s = s := by
  simp [fire, h]

/-- One token reaches a free target. -/
theorem deliver_free {s : State} {p : Place} {r : Run} (x : Option Nat) (t : Nat) (k : Token) (hr : (s.ctx p).run = some r)
    (h : t ≠ 0x7F → r.tok t = none ∧ r.reserved.contains t = false) :
    s.deliver p x t k = if t = 0x7F then s else s.updRun p fun r => { r with tokens := r.tokens ++ [(t, k)] } := by
  unfold State.deliver
  split
  · rfl
  · obtain ⟨h1, h2⟩ := h ‹_›
    simp only [hr, h1, h2]
    rfl

theorem look?_append_single {α : Type} (l : List (Nat × α)) (k j : Nat) (v : α) (h : j ≠ k) : look? (l ++ [(k, v)]) j = look? l j := by
  induction l with
  | nil => simp [look?, Ne.symm h]
  | cons a l ih => simp [look?, ih]

/-- One result reaches all of an instruction's free targets. -/
theorem deliverAll_free (p : Place) (x : Option Nat) (k : Token) : ∀ (ts : List Nat) (s : State) (r : Run), (s.ctx p).run = some r →
    (ts.filter fun t => t != 0x7F).Nodup → (∀ t ∈ ts, t ≠ 0x7F → r.tok t = none ∧ r.reserved.contains t = false) →
    s.deliverAll p x ts [k] =
      if ts.filter (fun t => t != 0x7F) = [] then s
      else s.updRun p fun r => { r with tokens := r.tokens ++ (ts.filter fun t => t != 0x7F).map fun t => (t, k) } := by
  intro ts
  induction ts with
  | nil => intro s r _ _ _; simp [State.deliverAll]
  | cons t ts ih =>
    intro s r hr hn hf
    rw [State.deliverAll, deliver_free x t k hr (hf t (by simp))]
    by_cases ht : t = 0x7F
    · subst ht
      have : (0x7F :: ts).filter (fun t => t != 0x7F) = ts.filter fun t => t != 0x7F := by simp
      rw [if_pos rfl, this]
      exact ih s r hr (by simpa using hn) fun u hu => hf u (by simp [hu])
    · have e : (t :: ts).filter (fun t => t != 0x7F) = t :: ts.filter fun t => t != 0x7F := by simp [ht]
      rw [e, List.nodup_cons] at hn
      rw [if_neg ht, e, ih _ { r with tokens := r.tokens ++ [(t, k)] } (by simp [hr]) hn.2]
      · split
        · rename_i h0; simp [h0]
        · rw [State.updRun_updRun]; simp
      · intro u hu h7
        obtain ⟨h1, h2⟩ := hf u (by simp [hu]) h7
        refine ⟨?_, h2⟩
        have : u ≠ t := fun h => hn.1 (by simp [← h, hu, h7])
        simpa [Run.tok, look?_append_single _ _ _ _ this] using h1

/-- A ready instruction that answers one value, with nothing else, delivers it to its free targets. -/
theorem delivers_of_done {i : Instr} {vals : List Reg} {r : Run} {v : Reg} {ts : List (BitVec 7)} {body : List Reg → State → Act}
    (h : Ready s i vals r) (hx : exec i s = .next (fire (shapeOf i s.index) body s)) (hb : body vals s = .done [.val v] none s)
    (hs : (shapeOf i s.index).targets = ts.map BitVec.toNat) (hf : FreeTargets r ts) : Delivers i s ts v := by
  have hc : (fun r : Run => r.mark s.index (shapeOf i s.index) none) =
      fun r => { r with fired := r.fired ++ [s.index], waits := r.waits.filter fun w => w.index != s.index } := by
    funext r; unfold Run.mark; split <;> simp_all
  have e7 : (ts.map BitVec.toNat).filter (fun t => t != 0x7F) = (ts.filter fun t => t != 0x7F#7).map BitVec.toNat := by
    rw [List.filter_map]; congr 1; apply List.filter_congr; intro t _
    simp [bne, BitVec.toNat_eq]
  rw [Delivers, hx, fire_ready h, hb, hs]
  simp only [hc]
  rw [deliverAll_free s.focus _ _ _ _ { r with fired := r.fired ++ [s.index], waits := r.waits.filter fun w => w.index != s.index }
    (by simp [h.run]) (by rw [e7]; exact hf.1.map fun a b h => BitVec.eq_of_toNat_eq h)]
  · rw [e7]
    split
    · rename_i h0
      have h0 : (ts.filter fun t => t != 0x7F#7) = [] := by simpa using h0
      simp [fired, sent, h0]
    · rw [State.updRun_updRun]; simp [fired, sent, List.map_map]; rfl
  · intro t ht h7
    obtain ⟨u, hu, rfl⟩ := List.mem_map.mp ht
    have := hf.2 u hu (fun h => h7 (by rw [h]; rfl))
    exact this

/-- A ready instruction whose meaning faults takes the fault. -/
theorem faults_of_fault {i : Instr} {vals : List Reg} {r : Run} {c : Cause} {d0 d1 : Word64} {body : List Reg → State → Act}
    (h : Ready s i vals r) (hx : exec i s = .next (fire (shapeOf i s.index) body s)) (hb : body vals s = .fault c d0 d1) :
    Faults i s c d0 d1 := by
  rw [Faults, hx, fire_ready h, hb]

/-- A ready counted instruction without results is received. -/
theorem receives_of_done {i : Instr} {vals : List Reg} {r : Run} {l : BitVec 5} {op : CommitOp} {body : List Reg → State → Act}
    (h : Ready s i vals r) (hx : exec i s = .next (fire (shapeOf i s.index) body s)) (hb : body vals s = .done [] (some op) s)
    (hc : (shapeOf i s.index).counted = true) (hl : (shapeOf i s.index).lsid = some l.toNat) : Receives i s l op := by
  have hd : ∀ (p : Place) (x : Option Nat) (ts : List Nat) (t : State), t.deliverAll p x ts [] = t := by
    intro p x ts t; cases ts <;> rfl
  rw [Receives, hx, fire_ready h, hb]
  simp only [hd, Run.mark, hc, hl, fired, List.append_nil]

/-! ### Completing a command (01_machine.md R17, R18) -/

theorem complete_mem (p : Place) (e : Engine) (n : Nat) (f : Option Cause) : (s.complete p e n f).mem = s.mem := by
  unfold State.complete; split
  · rfl
  · exact (noteError_quiet _ _ _).1

/-- A context's registers do not change when a command of it completes; nothing else of the tile does. -/
theorem complete_regs (p : Place) (e : Engine) (n : Nat) (f : Option Cause) : ((s.complete p e n f).ctx p).regs = (s.ctx p).regs := by
  have ha : ∀ k c, (advance e k c).regs = c.regs := by
    intro k
    induction k with
    | zero => intro c; rfl
    | succ k ih => intro c; rw [advance]; split <;> simp [ih]
  unfold State.complete
  split
  · rfl
  · rw [(noteError_quiet _ _ _).2.2]
    simp only [State.completeIn, State.progress, State.updTd, State.ctx_updDie, State.ctx_setCtx]
    cases f
    · simp only [ha]
    · dsimp only; split <;> simp only [ha]

/-! ### Starting a handler (06_block_engine.md R83, R86, R100) -/

/-- A handler starts in its context alone: memory and dies stay, its special registers but LASTEXIT and HOPS are kept. -/
theorem startHandler_spec (p : Place) (q : Start) (super : Bool) :
    let t := s.startHandler p q super
    let c := t.ctx p
    t.mem = s.mem ∧ t.dies = s.dies ∧ c.phase = .running ∧ c.super = super ∧ c.reg 0 = Reg.ofW q.g0 ∧ c.reg 1 = Reg.ofW q.g1 ∧
      (∀ g, 2 ≤ g → c.reg g = {}) ∧ c.code = q.code ∧ c.block = q.block ∧ c.run = none ∧ c.issue = (s.ctx p).issue ∧ c.done = (s.ctx p).done := by
  refine ⟨rfl, rfl, ?_⟩
  simp only [State.startHandler, State.ctx_updCtx, Ctx.reg]
  refine ⟨trivial, trivial, rfl, rfl, fun g hg => ?_, trivial, trivial, trivial, trivial, trivial⟩
  have h0 : 0 ≠ g := by omega
  have h1 : 1 ≠ g := by omega
  simp [look, h0, h1]


end Sys2Proof.Machine
end

