-- ==== Sys2Proof/Laws/Images.lean ====
section
/-! SUPPORT. How long the images are that a save writes: of a context (28_traps_preemption.md R363), of a tile (22_task_dispatcher.md R307). -/

namespace Sys2Proof.Machine

theorem length_wordsBytes (l : List Word64) : (wordsBytes l).length = 8 * l.length := by
  induction l with
  | nil => rfl
  | cons w l ih => simp only [wordsBytes, List.flatMap_cons, List.length_append, length_leBytes, List.length_cons] at ih ⊢; omega

theorem sum_map_const (l : List Nat) (f : Nat → Nat) (k : Nat) (h : ∀ i, f i = k) : (l.map f).sum = l.length * k := by
  simp [funext h]

theorem length_image (c : Ctx) (n : Nat) (task : BitVec 32) : (c.image n task).length = imageSize n := by
  have h : (c.imageHead n task).length = 32 := rfl
  rw [Ctx.image, List.length_append, List.length_append, List.length_append, length_wordsBytes, length_leBytes, List.length_replicate,
    List.length_flatMap, h, sum_map_const _ _ 256 fun i => length_leBytes 256 _, List.length_range, imageSize]
  omega

theorem length_accSave (a : Acc) : a.save.length = 4120 := by
  rw [Acc.save, List.length_append, length_wordsBytes, List.length_flatMap, sum_map_const _ _ 4 fun i => length_leBytes 4 _, List.length_range]
  rfl

theorem length_agSave (g : Ag) (h : g.tr = none) : g.save.length = 19 := by
  rw [Ag.save, h]
  rfl

/-- The image of a tile whose generators hold no translation and whose other engines hold nothing, of a task without a footprint. -/
theorem length_saveBytes_idle (s : State) (d n t : Nat) (h1 : (s.tile d t).me = {}) (h2 : ∀ i, (look {} (s.tile d t).ags i).tr = none) (h3 : (s.tile d t).mbx = [])
    (h4 : (s.tile d t).pres = []) (h5 : (s.tile d t).startQ = []) (h7 : (s.tile d t).alw = []) (h8 : (s.tile d t).fills = []) (h6 : Rec.foot (s.slot d n).raw = 0) :
    (s.saveBytes d n t).length = 130184 := by
  have hi : ((List.range 8).map imageSize).sum = 94208 := by decide
  have ha (i : Nat) : (look {} (s.tile d t).ags i).save.length = 19 := length_agSave _ (h2 i)
  have hl : (Latch.save {}).length = 24 := rfl
  have hs : (Seat.save {}).length = 7 := rfl
  have hr : (s.readAt (lsKey d t 0) 0).length = 0 := rfl
  simp [State.saveBytes, Tile.saveEngines, Me.save, State.saveLocal, State.readLs, Tile.saveLanding, h7, h8, length_leBytes, h1, h3, h4, h5, h6, length_wordsBytes, List.length_flatMap,
    length_image, length_accSave, hi, ha, hl, hs, hr]

end Sys2Proof.Machine
end

