-- ==== Sys2Proof/Laws/Panel.lean ====
section
/-! SUPPORT. The panel's links lead from C-dies to M-sites, so that a path between two C-dies passes a Cheryn router
(01_machine.md R8). -/

namespace Sys2Proof.Machine

/-- The colour of a site: 0 where a C-die stands, 1 where an M-site does. -/
def siteColour (a : Nat) : Nat := (a % 8 + a / 8) % 2

theorem siteColour_dieSite : ∀ d < 32, siteColour (dieSite d) = 0 := by decide

theorem siteColour_mSite : ∀ m < 32, siteColour (mSite m) = 1 := by decide

/-- Each of the 112 panel links joins a C-die and an M-site (R8). -/
theorem siteColour_linkEnds : ∀ l < 112, siteColour (linkEnds l).1 + siteColour (linkEnds l).2 = 1 := by decide

/-- A path of links changes colour with each link. -/
theorem siteColour_walkLinks {c : List Nat} : ∀ {a b : Nat}, walkLinks a c = some b → (siteColour a + c.length) % 2 = siteColour b % 2 := by
  induction c with
  | nil => rintro a b ⟨⟩; rfl
  | cons l c ih =>
    intro a b h
    simp only [walkLinks] at h
    split at h
    · cases h
    · have e := siteColour_linkEnds l (by omega)
      rw [List.length_cons]
      split at h
      · have := ih h; subst_vars; omega
      · split at h
        · have := ih h; subst_vars; omega
        · cases h

/-- A chord that the table lists is a path of panel links to its die (16_message_engine.md R242). -/
theorem walkLinks_chordTable {d e : Nat} {c : List Nat} (h : c ∈ chordTable d e) : walkLinks (dieSite d) c = some (dieSite e) := by
  have key : ∀ (l t : List (List Nat)), (∀ c ∈ t, walkLinks (dieSite d) c = some (dieSite e)) →
      ∀ c ∈ l.foldl (fun t c => if walkLinks (dieSite d) c = some (dieSite e) ∧ !(t.any fun y => y.any c.contains) then t ++ [c] else t) t,
        walkLinks (dieSite d) c = some (dieSite e) := by
    intro l
    induction l with
    | nil => exact fun _ h => h
    | cons x l ih =>
      refine fun t ht => ih _ fun c hc => ?_
      dsimp only at hc
      split at hc
      · rcases List.mem_append.1 hc with hc | hc
        · exact ht c hc
        · exact List.mem_singleton.1 hc ▸ (‹_ ∧ _› : _ ∧ _).1
      · exact ht c hc
  exact key _ [] (by simp) c h

/-- A chord between two C-dies has an even number of links: on it, every other site is an M-site's (R8). -/
theorem chordTable_even {d e : Nat} (hd : d < 32) (he : e < 32) {c : List Nat} (h : c ∈ chordTable d e) : c.length % 2 = 0 := by
  have := siteColour_walkLinks (walkLinks_chordTable h)
  rw [siteColour_dieSite d hd, siteColour_dieSite e he] at this
  omega

end Sys2Proof.Machine
end

