-- ==== Sys2Proof/Laws/PerInstr.lean ====
section
/-! SUPPORT. Decoding an encoded instruction gives it back, constructor by constructor (spec/04_encoding.md R60-R66).
An event has no word, and its lemma says so. -/

namespace Sys2Proof

theorem pack_lt (l : List (Nat × Nat)) : pack l < 2 ^ (l.map Prod.fst).sum := by
  induction l with
  | nil => simp [pack]
  | cons a r ih =>
    obtain ⟨n, v⟩ := a
    simp only [pack, List.map_cons, List.sum_cons, Nat.pow_add]
    have h1 : v % 2 ^ n < 2 ^ n := Nat.mod_lt _ (by positivity)
    calc v % 2 ^ n + 2 ^ n * pack r < 2 ^ n * (pack r + 1) := by rw [Nat.mul_add]; omega
      _ ≤ _ := Nat.mul_le_mul_left _ ih

/-- The field of width n at bit lo of a packed list, where the list has one there. -/
def fieldAt : List (Nat × Nat) → Nat → Nat → Option Nat
  | [], _, _ => none
  | (k, v) :: r, lo, n => if lo = 0 ∧ n = k then some (v % 2 ^ k) else if k ≤ lo then fieldAt r (lo - k) n else none

theorem pack_field {l : List (Nat × Nat)} {lo n v : Nat} (h : fieldAt l lo n = some v) : pack l / 2 ^ lo % 2 ^ n = v := by
  induction l generalizing lo with
  | nil => simp [fieldAt] at h
  | cons a r ih =>
    obtain ⟨k, w⟩ := a
    simp only [fieldAt, pack] at *
    split at h
    · rename_i h0; obtain ⟨rfl, rfl⟩ := h0; simpa using h
    · split at h
      · rw [← ih h]
        obtain ⟨d, rfl⟩ := Nat.exists_eq_add_of_le ‹k ≤ lo›
        rw [Nat.add_sub_cancel_left, Nat.pow_add, ← Nat.div_div_eq_div_mul, Nat.add_mul_div_left _ _ (by positivity),
          Nat.div_eq_of_lt (Nat.mod_lt _ (by positivity)), Nat.zero_add]
      · cases h

theorem fldN_packed {l : List (Nat × Nat)} {lo n v : Nat} (hs : (l.map Prod.fst).sum = 32)
    (h : fieldAt l lo n = some v) : fldN (BitVec.ofNat 32 (pack l)) lo n = v := by
  have := pack_lt l
  rw [hs] at this
  rw [fldN, BitVec.toNat_ofNat, Nat.mod_eq_of_lt this, pack_field h]

theorem fld_packed {l : List (Nat × Nat)} {lo n : Nat} {v : BitVec n} (hs : (l.map Prod.fst).sum = 32)
    (h : fieldAt l lo n = some (v.toNat % 2 ^ n)) : fld (BitVec.ofNat 32 (pack l)) lo n = v := by
  have := fldN_packed hs h
  rw [fldN] at this
  apply BitVec.eq_of_toNat_eq
  rw [fld, BitVec.toNat_ofNat, this, Nat.mod_eq_of_lt v.isLt]

theorem chk_ok {b : Bool} {i j : Instr} (h : b = true) (e : i = j) : chk b i = .ok j := by simp [chk, h, e]

theorem decodeWord_10 {x : Word32} (h : fldN x 25 7 = 0x10) : decodeWord x = decode10 x := by
  unfold decodeWord; rw [h]; rfl

theorem decodeWord_11 {x : Word32} (h : fldN x 25 7 = 0x11) : decodeWord x = decode11 x := by
  unfold decodeWord; rw [h]; rfl

theorem decodeWord_12 {x : Word32} (h : fldN x 25 7 = 0x12) : decodeWord x = decode12 x := by
  unfold decodeWord; rw [h]; rfl

theorem decodeWord_13 {x : Word32} (h : fldN x 25 7 = 0x13) : decodeWord x = decode13 x := by
  unfold decodeWord; rw [h]; rfl

theorem decodeWord_14 {x : Word32} (h : fldN x 25 7 = 0x14) : decodeWord x = decode14 x := by
  unfold decodeWord; rw [h]; rfl

theorem decodeWord_17 {x : Word32} (h : fldN x 25 7 = 0x17) : decodeWord x = decode17 x := by
  unfold decodeWord; rw [h]; rfl

theorem decodeWord_28 {x : Word32} (h : fldN x 25 7 = 0x28) : decodeWord x = decode28 x := by
  unfold decodeWord; rw [h]; rfl

theorem decodeWord_29 {x : Word32} (h : fldN x 25 7 = 0x29) : decodeWord x = decode29 x := by
  unfold decodeWord; rw [h]; rfl

theorem decodeWord_2E {x : Word32} (h : fldN x 25 7 = 0x2E) : decodeWord x = decode2E x := by
  unfold decodeWord; rw [h]; rfl

theorem decodeWord_30 {x : Word32} (h : fldN x 25 7 = 0x30) : decodeWord x = decode30 x := by
  unfold decodeWord; rw [h]; rfl

theorem decodeWord_31 {x : Word32} (h : fldN x 25 7 = 0x31) : decodeWord x = decode31 x := by
  unfold decodeWord; rw [h]; rfl

theorem decodeWord_32 {x : Word32} (h : fldN x 25 7 = 0x32) : decodeWord x = decode32 x := by
  unfold decodeWord; rw [h]; rfl

theorem decodeWord_33 {x : Word32} (h : fldN x 25 7 = 0x33) : decodeWord x = decode33 x := by
  unfold decodeWord; rw [h]; rfl

theorem decodeWord_34 {x : Word32} (h : fldN x 25 7 = 0x34) : decodeWord x = decode34 x := by
  unfold decodeWord; rw [h]; rfl

theorem decodeWord_35 {x : Word32} (h : fldN x 25 7 = 0x35) : decodeWord x = decode35 x := by
  unfold decodeWord; rw [h]; rfl

theorem decodeWord_36 {x : Word32} (h : fldN x 25 7 = 0x36) : decodeWord x = decode36 x := by
  unfold decodeWord; rw [h]; rfl

theorem decodeWord_37 {x : Word32} (h : fldN x 25 7 = 0x37) : decodeWord x = decode37 x := by
  unfold decodeWord; rw [h]; rfl

theorem decodeWord_38 {x : Word32} (h : fldN x 25 7 = 0x38) : decodeWord x = decode38 x := by
  unfold decodeWord; rw [h]; rfl

theorem decodeWord_40 {x : Word32} (h : fldN x 25 7 = 0x40) : decodeWord x = decode40 x := by
  unfold decodeWord; rw [h]; rfl

theorem decodeWord_41 {x : Word32} (h : fldN x 25 7 = 0x41) : decodeWord x = decode41 x := by
  unfold decodeWord; rw [h]; rfl

theorem decodeWord_42 {x : Word32} (h : fldN x 25 7 = 0x42) : decodeWord x = decode42 x := by
  unfold decodeWord; rw [h]; rfl

theorem decodeWord_43 {x : Word32} (h : fldN x 25 7 = 0x43) : decodeWord x = decode43 x := by
  unfold decodeWord; rw [h]; rfl

theorem decodeWord_44 {x : Word32} (h : fldN x 25 7 = 0x44) : decodeWord x = decode44 x := by
  unfold decodeWord; rw [h]; rfl

theorem decodeWord_45 {x : Word32} (h : fldN x 25 7 = 0x45) : decodeWord x = decode45 x := by
  unfold decodeWord; rw [h]; rfl

namespace Laws.RoundTrip

/-- Where the instruction has a word, the word decodes to it. -/
def Statement (i : Instr) : Prop := ∀ x, encode i = some x → decodeWord x = .ok i

theorem bro p e o : Statement (.bro p e o) := by
  intro x hx
  obtain rfl := Option.some.inj hx
  rw [show ∀ x : Word32, fldN x 25 7 = 1 → decodeWord x = .ok (.bro (fld x 23 2) (fld x 20 3) (fld x 0 20)) from fun x h => by unfold decodeWord; rw [h]; rfl]
  refine congrArg Except.ok ?_
  · rw [fld_packed rfl (lo := 23) (n := 2) (v := p) rfl, fld_packed rfl (lo := 20) (n := 3) (v := e) rfl, fld_packed rfl (lo := 0) (n := 20) (v := o) rfl]
  all_goals exact fldN_packed rfl rfl

theorem brb p e o : Statement (.brb p e o) := by
  intro x hx
  obtain rfl := Option.some.inj hx
  rw [show ∀ x : Word32, fldN x 25 7 = 2 → decodeWord x = .ok (.brb (fld x 23 2) (fld x 20 3) (fld x 0 20)) from fun x h => by unfold decodeWord; rw [h]; rfl]
  refine congrArg Except.ok ?_
  · rw [fld_packed rfl (lo := 23) (n := 2) (v := p) rfl, fld_packed rfl (lo := 20) (n := 3) (v := e) rfl, fld_packed rfl (lo := 0) (n := 20) (v := o) rfl]
  all_goals exact fldN_packed rfl rfl

theorem callo p e o : Statement (.callo p e o) := by
  intro x hx
  obtain rfl := Option.some.inj hx
  rw [show ∀ x : Word32, fldN x 25 7 = 3 → decodeWord x = .ok (.callo (fld x 23 2) (fld x 20 3) (fld x 0 20)) from fun x h => by unfold decodeWord; rw [h]; rfl]
  refine congrArg Except.ok ?_
  · rw [fld_packed rfl (lo := 23) (n := 2) (v := p) rfl, fld_packed rfl (lo := 20) (n := 3) (v := e) rfl, fld_packed rfl (lo := 0) (n := 20) (v := o) rfl]
  all_goals exact fldN_packed rfl rfl

theorem ret p e : Statement (.ret p e) := by
  intro x hx
  obtain rfl := Option.some.inj hx
  rw [show ∀ x : Word32, fldN x 25 7 = 4 → decodeWord x = chk (fldN x 0 7 == 0 && fldN x 7 6 == 0 && fldN x 13 1 == 0 && fldN x 14 4 == 0 && fldN x 18 2 == 0) (.ret (fld x 23 2) (fld x 20 3)) from fun x h => by unfold decodeWord; rw [h]; rfl]
  refine chk_ok ?_ ?_
  · rw [fldN_packed rfl (lo := 0) (n := 7) (v := 0) rfl, fldN_packed rfl (lo := 7) (n := 6) (v := 0) rfl, fldN_packed rfl (lo := 13) (n := 1) (v := 0) rfl, fldN_packed rfl (lo := 14) (n := 4) (v := 0) rfl, fldN_packed rfl (lo := 18) (n := 2) (v := 0) rfl]; rfl
  · rw [fld_packed rfl (lo := 23) (n := 2) (v := p) rfl, fld_packed rfl (lo := 20) (n := 3) (v := e) rfl]
  all_goals exact fldN_packed rfl rfl

theorem trap p i : Statement (.trap p i) := by
  intro x hx
  obtain rfl := Option.some.inj hx
  rw [show ∀ x : Word32, fldN x 25 7 = 5 → decodeWord x = chk (fldN x 0 7 == 127 && fldN x 18 5 == 0) (.trap (fld x 23 2) (fld x 7 11)) from fun x h => by unfold decodeWord; rw [h]; rfl]
  refine chk_ok ?_ ?_
  · rw [fldN_packed rfl (lo := 0) (n := 7) (v := 127) rfl, fldN_packed rfl (lo := 18) (n := 5) (v := 0) rfl]; rfl
  · rw [fld_packed rfl (lo := 23) (n := 2) (v := p) rfl, fld_packed rfl (lo := 7) (n := 11) (v := i) rfl]
  all_goals exact fldN_packed rfl rfl

theorem bri p e : Statement (.bri p e) := by
  intro x hx
  obtain rfl := Option.some.inj hx
  rw [show ∀ x : Word32, fldN x 25 7 = 6 → decodeWord x = chk (fldN x 0 7 == 127 && fldN x 7 6 == 63 && fldN x 13 1 == 1 && fldN x 14 4 == 0 && fldN x 21 2 == 0) (.bri (fld x 23 2) (fld x 18 3)) from fun x h => by unfold decodeWord; rw [h]; rfl]
  refine chk_ok ?_ ?_
  · rw [fldN_packed rfl (lo := 0) (n := 7) (v := 127) rfl, fldN_packed rfl (lo := 7) (n := 6) (v := 63) rfl, fldN_packed rfl (lo := 13) (n := 1) (v := 1) rfl, fldN_packed rfl (lo := 14) (n := 4) (v := 0) rfl, fldN_packed rfl (lo := 21) (n := 2) (v := 0) rfl]; rfl
  · rw [fld_packed rfl (lo := 23) (n := 2) (v := p) rfl, fld_packed rfl (lo := 18) (n := 3) (v := e) rfl]
  all_goals exact fldN_packed rfl rfl

theorem calli p e : Statement (.calli p e) := by
  intro x hx
  obtain rfl := Option.some.inj hx
  rw [show ∀ x : Word32, fldN x 25 7 = 7 → decodeWord x = chk (fldN x 0 7 == 127 && fldN x 7 6 == 63 && fldN x 13 1 == 1 && fldN x 14 4 == 0 && fldN x 21 2 == 0) (.calli (fld x 23 2) (fld x 18 3)) from fun x h => by unfold decodeWord; rw [h]; rfl]
  refine chk_ok ?_ ?_
  · rw [fldN_packed rfl (lo := 0) (n := 7) (v := 127) rfl, fldN_packed rfl (lo := 7) (n := 6) (v := 63) rfl, fldN_packed rfl (lo := 13) (n := 1) (v := 1) rfl, fldN_packed rfl (lo := 14) (n := 4) (v := 0) rfl, fldN_packed rfl (lo := 21) (n := 2) (v := 0) rfl]; rfl
  · rw [fld_packed rfl (lo := 23) (n := 2) (v := p) rfl, fld_packed rfl (lo := 18) (n := 3) (v := e) rfl]
  all_goals exact fldN_packed rfl rfl

theorem texit p c : Statement (.texit p c) := by
  intro x hx
  obtain rfl := Option.some.inj hx
  rw [show ∀ x : Word32, fldN x 25 7 = 8 → decodeWord x = chk (fldN x 0 7 == 127 && fldN x 7 6 == 63 && fldN x 13 1 == 1 && fldN x 14 4 == 0) (.texit (fld x 23 2) (fld x 18 5)) from fun x h => by unfold decodeWord; rw [h]; rfl]
  refine chk_ok ?_ ?_
  · rw [fldN_packed rfl (lo := 0) (n := 7) (v := 127) rfl, fldN_packed rfl (lo := 7) (n := 6) (v := 63) rfl, fldN_packed rfl (lo := 13) (n := 1) (v := 1) rfl, fldN_packed rfl (lo := 14) (n := 4) (v := 0) rfl]; rfl
  · rw [fld_packed rfl (lo := 23) (n := 2) (v := p) rfl, fld_packed rfl (lo := 18) (n := 5) (v := c) rfl]
  all_goals exact fldN_packed rfl rfl

theorem hret p : Statement (.hret p) := by
  intro x hx
  obtain rfl := Option.some.inj hx
  rw [show ∀ x : Word32, fldN x 25 7 = 9 → decodeWord x = chk (fldN x 0 7 == 127 && fldN x 7 6 == 63 && fldN x 13 1 == 1 && fldN x 14 4 == 0 && fldN x 18 5 == 0) (.hret (fld x 23 2)) from fun x h => by unfold decodeWord; rw [h]; rfl]
  refine chk_ok ?_ ?_
  · rw [fldN_packed rfl (lo := 0) (n := 7) (v := 127) rfl, fldN_packed rfl (lo := 7) (n := 6) (v := 63) rfl, fldN_packed rfl (lo := 13) (n := 1) (v := 1) rfl, fldN_packed rfl (lo := 14) (n := 4) (v := 0) rfl, fldN_packed rfl (lo := 18) (n := 5) (v := 0) rfl]; rfl
  · rw [fld_packed rfl (lo := 23) (n := 2) (v := p) rfl]
  all_goals exact fldN_packed rfl rfl

theorem eret p e : Statement (.eret p e) := by
  intro x hx
  obtain rfl := Option.some.inj hx
  rw [show ∀ x : Word32, fldN x 25 7 = 10 → decodeWord x = chk (fldN x 0 7 == 0 && fldN x 7 6 == 0 && fldN x 13 1 == 0 && fldN x 14 4 == 0 && fldN x 18 2 == 0) (.eret (fld x 23 2) (fld x 20 3)) from fun x h => by unfold decodeWord; rw [h]; rfl]
  refine chk_ok ?_ ?_
  · rw [fldN_packed rfl (lo := 0) (n := 7) (v := 0) rfl, fldN_packed rfl (lo := 7) (n := 6) (v := 0) rfl, fldN_packed rfl (lo := 13) (n := 1) (v := 0) rfl, fldN_packed rfl (lo := 14) (n := 4) (v := 0) rfl, fldN_packed rfl (lo := 18) (n := 2) (v := 0) rfl]; rfl
  · rw [fld_packed rfl (lo := 23) (n := 2) (v := p) rfl, fld_packed rfl (lo := 20) (n := 3) (v := e) rfl]
  all_goals exact fldN_packed rfl rfl

theorem null p t u : Statement (.null p t u) := by
  intro x hx
  obtain rfl := Option.some.inj hx
  rw [show ∀ x : Word32, fldN x 25 7 = 11 → decodeWord x = chk (fldN x 14 4 == 0 && fldN x 18 5 == 0) (.null (fld x 23 2) (fld x 7 7) (fld x 0 7)) from fun x h => by unfold decodeWord; rw [h]; rfl]
  refine chk_ok ?_ ?_
  · rw [fldN_packed rfl (lo := 14) (n := 4) (v := 0) rfl, fldN_packed rfl (lo := 18) (n := 5) (v := 0) rfl]; rfl
  · rw [fld_packed rfl (lo := 23) (n := 2) (v := p) rfl, fld_packed rfl (lo := 7) (n := 7) (v := t) rfl, fld_packed rfl (lo := 0) (n := 7) (v := u) rfl]
  all_goals exact fldN_packed rfl rfl

theorem mov p t u : Statement (.mov p t u) := by
  intro x hx
  obtain rfl := Option.some.inj hx
  rw [show ∀ x : Word32, fldN x 25 7 = 12 → decodeWord x = chk (fldN x 14 4 == 0 && fldN x 18 5 == 0) (.mov (fld x 23 2) (fld x 7 7) (fld x 0 7)) from fun x h => by unfold decodeWord; rw [h]; rfl]
  refine chk_ok ?_ ?_
  · rw [fldN_packed rfl (lo := 14) (n := 4) (v := 0) rfl, fldN_packed rfl (lo := 18) (n := 5) (v := 0) rfl]; rfl
  · rw [fld_packed rfl (lo := 23) (n := 2) (v := p) rfl, fld_packed rfl (lo := 7) (n := 7) (v := t) rfl, fld_packed rfl (lo := 0) (n := 7) (v := u) rfl]
  all_goals exact fldN_packed rfl rfl

theorem mov3 p t u v : Statement (.mov3 p t u v) := by
  intro x hx
  obtain rfl := Option.some.inj hx
  rw [show ∀ x : Word32, fldN x 25 7 = 13 → decodeWord x = chk (fldN x 21 2 == 0) (.mov3 (fld x 23 2) (fld x 14 7) (fld x 7 7) (fld x 0 7)) from fun x h => by unfold decodeWord; rw [h]; rfl]
  refine chk_ok ?_ ?_
  · rw [fldN_packed rfl (lo := 21) (n := 2) (v := 0) rfl]; rfl
  · rw [fld_packed rfl (lo := 23) (n := 2) (v := p) rfl, fld_packed rfl (lo := 14) (n := 7) (v := t) rfl, fld_packed rfl (lo := 7) (n := 7) (v := u) rfl, fld_packed rfl (lo := 0) (n := 7) (v := v) rfl]
  all_goals exact fldN_packed rfl rfl

theorem movi p i t : Statement (.movi p i t) := by
  intro x hx
  obtain rfl := Option.some.inj hx
  rw [show ∀ x : Word32, fldN x 25 7 = 14 → decodeWord x = .ok (.movi (fld x 23 2) (fld x 7 16) (fld x 0 7)) from fun x h => by unfold decodeWord; rw [h]; rfl]
  refine congrArg Except.ok ?_
  · rw [fld_packed rfl (lo := 23) (n := 2) (v := p) rfl, fld_packed rfl (lo := 7) (n := 16) (v := i) rfl, fld_packed rfl (lo := 0) (n := 7) (v := t) rfl]
  all_goals exact fldN_packed rfl rfl

theorem genu p i t : Statement (.genu p i t) := by
  intro x hx
  obtain rfl := Option.some.inj hx
  rw [show ∀ x : Word32, fldN x 25 7 = 15 → decodeWord x = .ok (.genu (fld x 23 2) (fld x 7 16) (fld x 0 7)) from fun x h => by unfold decodeWord; rw [h]; rfl]
  refine congrArg Except.ok ?_
  · rw [fld_packed rfl (lo := 23) (n := 2) (v := p) rfl, fld_packed rfl (lo := 7) (n := 16) (v := i) rfl, fld_packed rfl (lo := 0) (n := 7) (v := t) rfl]
  all_goals exact fldN_packed rfl rfl

theorem add p w t u : Statement (.add p w t u) := by
  intro x hx
  obtain rfl := Option.some.inj hx
  rw [decodeWord_10 (fldN_packed rfl rfl), show ∀ x : Word32, fldN x 18 5 = 0 → decode10 x = chk (fldN x 16 2 == 0) (.add (fld x 23 2) (fld x 14 2) (fld x 7 7) (fld x 0 7)) from
    fun x h => by unfold decode10; rw [h]; rfl]
  refine chk_ok ?_ ?_
  · rw [fldN_packed rfl (lo := 16) (n := 2) (v := 0) rfl]; rfl
  · rw [fld_packed rfl (lo := 23) (n := 2) (v := p) rfl, fld_packed rfl (lo := 14) (n := 2) (v := w) rfl, fld_packed rfl (lo := 7) (n := 7) (v := t) rfl, fld_packed rfl (lo := 0) (n := 7) (v := u) rfl]
  all_goals exact fldN_packed rfl rfl

theorem sub p w t u : Statement (.sub p w t u) := by
  intro x hx
  obtain rfl := Option.some.inj hx
  rw [decodeWord_10 (fldN_packed rfl rfl), show ∀ x : Word32, fldN x 18 5 = 1 → decode10 x = chk (fldN x 16 2 == 0) (.sub (fld x 23 2) (fld x 14 2) (fld x 7 7) (fld x 0 7)) from
    fun x h => by unfold decode10; rw [h]; rfl]
  refine chk_ok ?_ ?_
  · rw [fldN_packed rfl (lo := 16) (n := 2) (v := 0) rfl]; rfl
  · rw [fld_packed rfl (lo := 23) (n := 2) (v := p) rfl, fld_packed rfl (lo := 14) (n := 2) (v := w) rfl, fld_packed rfl (lo := 7) (n := 7) (v := t) rfl, fld_packed rfl (lo := 0) (n := 7) (v := u) rfl]
  all_goals exact fldN_packed rfl rfl

theorem and p w t u : Statement (.and p w t u) := by
  intro x hx
  obtain rfl := Option.some.inj hx
  rw [decodeWord_10 (fldN_packed rfl rfl), show ∀ x : Word32, fldN x 18 5 = 2 → decode10 x = chk (fldN x 16 2 == 0) (.and (fld x 23 2) (fld x 14 2) (fld x 7 7) (fld x 0 7)) from
    fun x h => by unfold decode10; rw [h]; rfl]
  refine chk_ok ?_ ?_
  · rw [fldN_packed rfl (lo := 16) (n := 2) (v := 0) rfl]; rfl
  · rw [fld_packed rfl (lo := 23) (n := 2) (v := p) rfl, fld_packed rfl (lo := 14) (n := 2) (v := w) rfl, fld_packed rfl (lo := 7) (n := 7) (v := t) rfl, fld_packed rfl (lo := 0) (n := 7) (v := u) rfl]
  all_goals exact fldN_packed rfl rfl

theorem or p w t u : Statement (.or p w t u) := by
  intro x hx
  obtain rfl := Option.some.inj hx
  rw [decodeWord_10 (fldN_packed rfl rfl), show ∀ x : Word32, fldN x 18 5 = 3 → decode10 x = chk (fldN x 16 2 == 0) (.or (fld x 23 2) (fld x 14 2) (fld x 7 7) (fld x 0 7)) from
    fun x h => by unfold decode10; rw [h]; rfl]
  refine chk_ok ?_ ?_
  · rw [fldN_packed rfl (lo := 16) (n := 2) (v := 0) rfl]; rfl
  · rw [fld_packed rfl (lo := 23) (n := 2) (v := p) rfl, fld_packed rfl (lo := 14) (n := 2) (v := w) rfl, fld_packed rfl (lo := 7) (n := 7) (v := t) rfl, fld_packed rfl (lo := 0) (n := 7) (v := u) rfl]
  all_goals exact fldN_packed rfl rfl

theorem xor p w t u : Statement (.xor p w t u) := by
  intro x hx
  obtain rfl := Option.some.inj hx
  rw [decodeWord_10 (fldN_packed rfl rfl), show ∀ x : Word32, fldN x 18 5 = 4 → decode10 x = chk (fldN x 16 2 == 0) (.xor (fld x 23 2) (fld x 14 2) (fld x 7 7) (fld x 0 7)) from
    fun x h => by unfold decode10; rw [h]; rfl]
  refine chk_ok ?_ ?_
  · rw [fldN_packed rfl (lo := 16) (n := 2) (v := 0) rfl]; rfl
  · rw [fld_packed rfl (lo := 23) (n := 2) (v := p) rfl, fld_packed rfl (lo := 14) (n := 2) (v := w) rfl, fld_packed rfl (lo := 7) (n := 7) (v := t) rfl, fld_packed rfl (lo := 0) (n := 7) (v := u) rfl]
  all_goals exact fldN_packed rfl rfl

theorem andn p w t u : Statement (.andn p w t u) := by
  intro x hx
  obtain rfl := Option.some.inj hx
  rw [decodeWord_10 (fldN_packed rfl rfl), show ∀ x : Word32, fldN x 18 5 = 5 → decode10 x = chk (fldN x 16 2 == 0) (.andn (fld x 23 2) (fld x 14 2) (fld x 7 7) (fld x 0 7)) from
    fun x h => by unfold decode10; rw [h]; rfl]
  refine chk_ok ?_ ?_
  · rw [fldN_packed rfl (lo := 16) (n := 2) (v := 0) rfl]; rfl
  · rw [fld_packed rfl (lo := 23) (n := 2) (v := p) rfl, fld_packed rfl (lo := 14) (n := 2) (v := w) rfl, fld_packed rfl (lo := 7) (n := 7) (v := t) rfl, fld_packed rfl (lo := 0) (n := 7) (v := u) rfl]
  all_goals exact fldN_packed rfl rfl

theorem shl p w t u : Statement (.shl p w t u) := by
  intro x hx
  obtain rfl := Option.some.inj hx
  rw [decodeWord_10 (fldN_packed rfl rfl), show ∀ x : Word32, fldN x 18 5 = 6 → decode10 x = chk (fldN x 16 2 == 0) (.shl (fld x 23 2) (fld x 14 2) (fld x 7 7) (fld x 0 7)) from
    fun x h => by unfold decode10; rw [h]; rfl]
  refine chk_ok ?_ ?_
  · rw [fldN_packed rfl (lo := 16) (n := 2) (v := 0) rfl]; rfl
  · rw [fld_packed rfl (lo := 23) (n := 2) (v := p) rfl, fld_packed rfl (lo := 14) (n := 2) (v := w) rfl, fld_packed rfl (lo := 7) (n := 7) (v := t) rfl, fld_packed rfl (lo := 0) (n := 7) (v := u) rfl]
  all_goals exact fldN_packed rfl rfl

theorem shr p w t u : Statement (.shr p w t u) := by
  intro x hx
  obtain rfl := Option.some.inj hx
  rw [decodeWord_10 (fldN_packed rfl rfl), show ∀ x : Word32, fldN x 18 5 = 7 → decode10 x = chk (fldN x 16 2 == 0) (.shr (fld x 23 2) (fld x 14 2) (fld x 7 7) (fld x 0 7)) from
    fun x h => by unfold decode10; rw [h]; rfl]
  refine chk_ok ?_ ?_
  · rw [fldN_packed rfl (lo := 16) (n := 2) (v := 0) rfl]; rfl
  · rw [fld_packed rfl (lo := 23) (n := 2) (v := p) rfl, fld_packed rfl (lo := 14) (n := 2) (v := w) rfl, fld_packed rfl (lo := 7) (n := 7) (v := t) rfl, fld_packed rfl (lo := 0) (n := 7) (v := u) rfl]
  all_goals exact fldN_packed rfl rfl

theorem sra p w t u : Statement (.sra p w t u) := by
  intro x hx
  obtain rfl := Option.some.inj hx
  rw [decodeWord_10 (fldN_packed rfl rfl), show ∀ x : Word32, fldN x 18 5 = 8 → decode10 x = chk (fldN x 16 2 == 0) (.sra (fld x 23 2) (fld x 14 2) (fld x 7 7) (fld x 0 7)) from
    fun x h => by unfold decode10; rw [h]; rfl]
  refine chk_ok ?_ ?_
  · rw [fldN_packed rfl (lo := 16) (n := 2) (v := 0) rfl]; rfl
  · rw [fld_packed rfl (lo := 23) (n := 2) (v := p) rfl, fld_packed rfl (lo := 14) (n := 2) (v := w) rfl, fld_packed rfl (lo := 7) (n := 7) (v := t) rfl, fld_packed rfl (lo := 0) (n := 7) (v := u) rfl]
  all_goals exact fldN_packed rfl rfl

theorem rotl p w t u : Statement (.rotl p w t u) := by
  intro x hx
  obtain rfl := Option.some.inj hx
  rw [decodeWord_10 (fldN_packed rfl rfl), show ∀ x : Word32, fldN x 18 5 = 9 → decode10 x = chk (fldN x 16 2 == 0) (.rotl (fld x 23 2) (fld x 14 2) (fld x 7 7) (fld x 0 7)) from
    fun x h => by unfold decode10; rw [h]; rfl]
  refine chk_ok ?_ ?_
  · rw [fldN_packed rfl (lo := 16) (n := 2) (v := 0) rfl]; rfl
  · rw [fld_packed rfl (lo := 23) (n := 2) (v := p) rfl, fld_packed rfl (lo := 14) (n := 2) (v := w) rfl, fld_packed rfl (lo := 7) (n := 7) (v := t) rfl, fld_packed rfl (lo := 0) (n := 7) (v := u) rfl]
  all_goals exact fldN_packed rfl rfl

theorem min p w t u : Statement (.min p w t u) := by
  intro x hx
  obtain rfl := Option.some.inj hx
  rw [decodeWord_10 (fldN_packed rfl rfl), show ∀ x : Word32, fldN x 18 5 = 10 → decode10 x = chk (fldN x 16 2 == 0) (.min (fld x 23 2) (fld x 14 2) (fld x 7 7) (fld x 0 7)) from
    fun x h => by unfold decode10; rw [h]; rfl]
  refine chk_ok ?_ ?_
  · rw [fldN_packed rfl (lo := 16) (n := 2) (v := 0) rfl]; rfl
  · rw [fld_packed rfl (lo := 23) (n := 2) (v := p) rfl, fld_packed rfl (lo := 14) (n := 2) (v := w) rfl, fld_packed rfl (lo := 7) (n := 7) (v := t) rfl, fld_packed rfl (lo := 0) (n := 7) (v := u) rfl]
  all_goals exact fldN_packed rfl rfl

theorem max p w t u : Statement (.max p w t u) := by
  intro x hx
  obtain rfl := Option.some.inj hx
  rw [decodeWord_10 (fldN_packed rfl rfl), show ∀ x : Word32, fldN x 18 5 = 11 → decode10 x = chk (fldN x 16 2 == 0) (.max (fld x 23 2) (fld x 14 2) (fld x 7 7) (fld x 0 7)) from
    fun x h => by unfold decode10; rw [h]; rfl]
  refine chk_ok ?_ ?_
  · rw [fldN_packed rfl (lo := 16) (n := 2) (v := 0) rfl]; rfl
  · rw [fld_packed rfl (lo := 23) (n := 2) (v := p) rfl, fld_packed rfl (lo := 14) (n := 2) (v := w) rfl, fld_packed rfl (lo := 7) (n := 7) (v := t) rfl, fld_packed rfl (lo := 0) (n := 7) (v := u) rfl]
  all_goals exact fldN_packed rfl rfl

theorem minu p w t u : Statement (.minu p w t u) := by
  intro x hx
  obtain rfl := Option.some.inj hx
  rw [decodeWord_10 (fldN_packed rfl rfl), show ∀ x : Word32, fldN x 18 5 = 12 → decode10 x = chk (fldN x 16 2 == 0) (.minu (fld x 23 2) (fld x 14 2) (fld x 7 7) (fld x 0 7)) from
    fun x h => by unfold decode10; rw [h]; rfl]
  refine chk_ok ?_ ?_
  · rw [fldN_packed rfl (lo := 16) (n := 2) (v := 0) rfl]; rfl
  · rw [fld_packed rfl (lo := 23) (n := 2) (v := p) rfl, fld_packed rfl (lo := 14) (n := 2) (v := w) rfl, fld_packed rfl (lo := 7) (n := 7) (v := t) rfl, fld_packed rfl (lo := 0) (n := 7) (v := u) rfl]
  all_goals exact fldN_packed rfl rfl

theorem maxu p w t u : Statement (.maxu p w t u) := by
  intro x hx
  obtain rfl := Option.some.inj hx
  rw [decodeWord_10 (fldN_packed rfl rfl), show ∀ x : Word32, fldN x 18 5 = 13 → decode10 x = chk (fldN x 16 2 == 0) (.maxu (fld x 23 2) (fld x 14 2) (fld x 7 7) (fld x 0 7)) from
    fun x h => by unfold decode10; rw [h]; rfl]
  refine chk_ok ?_ ?_
  · rw [fldN_packed rfl (lo := 16) (n := 2) (v := 0) rfl]; rfl
  · rw [fld_packed rfl (lo := 23) (n := 2) (v := p) rfl, fld_packed rfl (lo := 14) (n := 2) (v := w) rfl, fld_packed rfl (lo := 7) (n := 7) (v := t) rfl, fld_packed rfl (lo := 0) (n := 7) (v := u) rfl]
  all_goals exact fldN_packed rfl rfl

theorem mul p w t u : Statement (.mul p w t u) := by
  intro x hx
  obtain rfl := Option.some.inj hx
  rw [decodeWord_10 (fldN_packed rfl rfl), show ∀ x : Word32, fldN x 18 5 = 14 → decode10 x = chk (fldN x 16 2 == 0) (.mul (fld x 23 2) (fld x 14 2) (fld x 7 7) (fld x 0 7)) from
    fun x h => by unfold decode10; rw [h]; rfl]
  refine chk_ok ?_ ?_
  · rw [fldN_packed rfl (lo := 16) (n := 2) (v := 0) rfl]; rfl
  · rw [fld_packed rfl (lo := 23) (n := 2) (v := p) rfl, fld_packed rfl (lo := 14) (n := 2) (v := w) rfl, fld_packed rfl (lo := 7) (n := 7) (v := t) rfl, fld_packed rfl (lo := 0) (n := 7) (v := u) rfl]
  all_goals exact fldN_packed rfl rfl

theorem mulh p w t u : Statement (.mulh p w t u) := by
  intro x hx
  obtain rfl := Option.some.inj hx
  rw [decodeWord_10 (fldN_packed rfl rfl), show ∀ x : Word32, fldN x 18 5 = 15 → decode10 x = chk (fldN x 16 2 == 0) (.mulh (fld x 23 2) (fld x 14 2) (fld x 7 7) (fld x 0 7)) from
    fun x h => by unfold decode10; rw [h]; rfl]
  refine chk_ok ?_ ?_
  · rw [fldN_packed rfl (lo := 16) (n := 2) (v := 0) rfl]; rfl
  · rw [fld_packed rfl (lo := 23) (n := 2) (v := p) rfl, fld_packed rfl (lo := 14) (n := 2) (v := w) rfl, fld_packed rfl (lo := 7) (n := 7) (v := t) rfl, fld_packed rfl (lo := 0) (n := 7) (v := u) rfl]
  all_goals exact fldN_packed rfl rfl

theorem mulhu p w t u : Statement (.mulhu p w t u) := by
  intro x hx
  obtain rfl := Option.some.inj hx
  rw [decodeWord_10 (fldN_packed rfl rfl), show ∀ x : Word32, fldN x 18 5 = 16 → decode10 x = chk (fldN x 16 2 == 0) (.mulhu (fld x 23 2) (fld x 14 2) (fld x 7 7) (fld x 0 7)) from
    fun x h => by unfold decode10; rw [h]; rfl]
  refine chk_ok ?_ ?_
  · rw [fldN_packed rfl (lo := 16) (n := 2) (v := 0) rfl]; rfl
  · rw [fld_packed rfl (lo := 23) (n := 2) (v := p) rfl, fld_packed rfl (lo := 14) (n := 2) (v := w) rfl, fld_packed rfl (lo := 7) (n := 7) (v := t) rfl, fld_packed rfl (lo := 0) (n := 7) (v := u) rfl]
  all_goals exact fldN_packed rfl rfl

theorem div p w t u : Statement (.div p w t u) := by
  intro x hx
  obtain rfl := Option.some.inj hx
  rw [decodeWord_10 (fldN_packed rfl rfl), show ∀ x : Word32, fldN x 18 5 = 17 → decode10 x = chk (fldN x 16 2 == 0) (.div (fld x 23 2) (fld x 14 2) (fld x 7 7) (fld x 0 7)) from
    fun x h => by unfold decode10; rw [h]; rfl]
  refine chk_ok ?_ ?_
  · rw [fldN_packed rfl (lo := 16) (n := 2) (v := 0) rfl]; rfl
  · rw [fld_packed rfl (lo := 23) (n := 2) (v := p) rfl, fld_packed rfl (lo := 14) (n := 2) (v := w) rfl, fld_packed rfl (lo := 7) (n := 7) (v := t) rfl, fld_packed rfl (lo := 0) (n := 7) (v := u) rfl]
  all_goals exact fldN_packed rfl rfl

theorem divu p w t u : Statement (.divu p w t u) := by
  intro x hx
  obtain rfl := Option.some.inj hx
  rw [decodeWord_10 (fldN_packed rfl rfl), show ∀ x : Word32, fldN x 18 5 = 18 → decode10 x = chk (fldN x 16 2 == 0) (.divu (fld x 23 2) (fld x 14 2) (fld x 7 7) (fld x 0 7)) from
    fun x h => by unfold decode10; rw [h]; rfl]
  refine chk_ok ?_ ?_
  · rw [fldN_packed rfl (lo := 16) (n := 2) (v := 0) rfl]; rfl
  · rw [fld_packed rfl (lo := 23) (n := 2) (v := p) rfl, fld_packed rfl (lo := 14) (n := 2) (v := w) rfl, fld_packed rfl (lo := 7) (n := 7) (v := t) rfl, fld_packed rfl (lo := 0) (n := 7) (v := u) rfl]
  all_goals exact fldN_packed rfl rfl

theorem rem p w t u : Statement (.rem p w t u) := by
  intro x hx
  obtain rfl := Option.some.inj hx
  rw [decodeWord_10 (fldN_packed rfl rfl), show ∀ x : Word32, fldN x 18 5 = 19 → decode10 x = chk (fldN x 16 2 == 0) (.rem (fld x 23 2) (fld x 14 2) (fld x 7 7) (fld x 0 7)) from
    fun x h => by unfold decode10; rw [h]; rfl]
  refine chk_ok ?_ ?_
  · rw [fldN_packed rfl (lo := 16) (n := 2) (v := 0) rfl]; rfl
  · rw [fld_packed rfl (lo := 23) (n := 2) (v := p) rfl, fld_packed rfl (lo := 14) (n := 2) (v := w) rfl, fld_packed rfl (lo := 7) (n := 7) (v := t) rfl, fld_packed rfl (lo := 0) (n := 7) (v := u) rfl]
  all_goals exact fldN_packed rfl rfl

theorem remu p w t u : Statement (.remu p w t u) := by
  intro x hx
  obtain rfl := Option.some.inj hx
  rw [decodeWord_10 (fldN_packed rfl rfl), show ∀ x : Word32, fldN x 18 5 = 20 → decode10 x = chk (fldN x 16 2 == 0) (.remu (fld x 23 2) (fld x 14 2) (fld x 7 7) (fld x 0 7)) from
    fun x h => by unfold decode10; rw [h]; rfl]
  refine chk_ok ?_ ?_
  · rw [fldN_packed rfl (lo := 16) (n := 2) (v := 0) rfl]; rfl
  · rw [fld_packed rfl (lo := 23) (n := 2) (v := p) rfl, fld_packed rfl (lo := 14) (n := 2) (v := w) rfl, fld_packed rfl (lo := 7) (n := 7) (v := t) rfl, fld_packed rfl (lo := 0) (n := 7) (v := u) rfl]
  all_goals exact fldN_packed rfl rfl

theorem clz p w t u : Statement (.clz p w t u) := by
  intro x hx
  obtain rfl := Option.some.inj hx
  rw [decodeWord_10 (fldN_packed rfl rfl), show ∀ x : Word32, fldN x 18 5 = 21 → decode10 x = chk (fldN x 16 2 == 0) (.clz (fld x 23 2) (fld x 14 2) (fld x 7 7) (fld x 0 7)) from
    fun x h => by unfold decode10; rw [h]; rfl]
  refine chk_ok ?_ ?_
  · rw [fldN_packed rfl (lo := 16) (n := 2) (v := 0) rfl]; rfl
  · rw [fld_packed rfl (lo := 23) (n := 2) (v := p) rfl, fld_packed rfl (lo := 14) (n := 2) (v := w) rfl, fld_packed rfl (lo := 7) (n := 7) (v := t) rfl, fld_packed rfl (lo := 0) (n := 7) (v := u) rfl]
  all_goals exact fldN_packed rfl rfl

theorem ctz p w t u : Statement (.ctz p w t u) := by
  intro x hx
  obtain rfl := Option.some.inj hx
  rw [decodeWord_10 (fldN_packed rfl rfl), show ∀ x : Word32, fldN x 18 5 = 22 → decode10 x = chk (fldN x 16 2 == 0) (.ctz (fld x 23 2) (fld x 14 2) (fld x 7 7) (fld x 0 7)) from
    fun x h => by unfold decode10; rw [h]; rfl]
  refine chk_ok ?_ ?_
  · rw [fldN_packed rfl (lo := 16) (n := 2) (v := 0) rfl]; rfl
  · rw [fld_packed rfl (lo := 23) (n := 2) (v := p) rfl, fld_packed rfl (lo := 14) (n := 2) (v := w) rfl, fld_packed rfl (lo := 7) (n := 7) (v := t) rfl, fld_packed rfl (lo := 0) (n := 7) (v := u) rfl]
  all_goals exact fldN_packed rfl rfl

theorem popc p w t u : Statement (.popc p w t u) := by
  intro x hx
  obtain rfl := Option.some.inj hx
  rw [decodeWord_10 (fldN_packed rfl rfl), show ∀ x : Word32, fldN x 18 5 = 23 → decode10 x = chk (fldN x 16 2 == 0) (.popc (fld x 23 2) (fld x 14 2) (fld x 7 7) (fld x 0 7)) from
    fun x h => by unfold decode10; rw [h]; rfl]
  refine chk_ok ?_ ?_
  · rw [fldN_packed rfl (lo := 16) (n := 2) (v := 0) rfl]; rfl
  · rw [fld_packed rfl (lo := 23) (n := 2) (v := p) rfl, fld_packed rfl (lo := 14) (n := 2) (v := w) rfl, fld_packed rfl (lo := 7) (n := 7) (v := t) rfl, fld_packed rfl (lo := 0) (n := 7) (v := u) rfl]
  all_goals exact fldN_packed rfl rfl

theorem sext p k t u : Statement (.sext p k t u) := by
  intro x hx
  obtain rfl := Option.some.inj hx
  rw [decodeWord_10 (fldN_packed rfl rfl), show ∀ x : Word32, fldN x 18 5 = 24 → decode10 x = chk (fldN x 14 2 == 0) (.sext (fld x 23 2) (fld x 16 2) (fld x 7 7) (fld x 0 7)) from
    fun x h => by unfold decode10; rw [h]; rfl]
  refine chk_ok ?_ ?_
  · rw [fldN_packed rfl (lo := 14) (n := 2) (v := 0) rfl]; rfl
  · rw [fld_packed rfl (lo := 23) (n := 2) (v := p) rfl, fld_packed rfl (lo := 16) (n := 2) (v := k) rfl, fld_packed rfl (lo := 7) (n := 7) (v := t) rfl, fld_packed rfl (lo := 0) (n := 7) (v := u) rfl]
  all_goals exact fldN_packed rfl rfl

theorem zext p k t u : Statement (.zext p k t u) := by
  intro x hx
  obtain rfl := Option.some.inj hx
  rw [decodeWord_10 (fldN_packed rfl rfl), show ∀ x : Word32, fldN x 18 5 = 25 → decode10 x = chk (fldN x 14 2 == 0) (.zext (fld x 23 2) (fld x 16 2) (fld x 7 7) (fld x 0 7)) from
    fun x h => by unfold decode10; rw [h]; rfl]
  refine chk_ok ?_ ?_
  · rw [fldN_packed rfl (lo := 14) (n := 2) (v := 0) rfl]; rfl
  · rw [fld_packed rfl (lo := 23) (n := 2) (v := p) rfl, fld_packed rfl (lo := 16) (n := 2) (v := k) rfl, fld_packed rfl (lo := 7) (n := 7) (v := t) rfl, fld_packed rfl (lo := 0) (n := 7) (v := u) rfl]
  all_goals exact fldN_packed rfl rfl

theorem adds p w t u : Statement (.adds p w t u) := by
  intro x hx
  obtain rfl := Option.some.inj hx
  rw [decodeWord_10 (fldN_packed rfl rfl), show ∀ x : Word32, fldN x 18 5 = 26 → decode10 x = chk (fldN x 16 2 == 0) (.adds (fld x 23 2) (fld x 14 2) (fld x 7 7) (fld x 0 7)) from
    fun x h => by unfold decode10; rw [h]; rfl]
  refine chk_ok ?_ ?_
  · rw [fldN_packed rfl (lo := 16) (n := 2) (v := 0) rfl]; rfl
  · rw [fld_packed rfl (lo := 23) (n := 2) (v := p) rfl, fld_packed rfl (lo := 14) (n := 2) (v := w) rfl, fld_packed rfl (lo := 7) (n := 7) (v := t) rfl, fld_packed rfl (lo := 0) (n := 7) (v := u) rfl]
  all_goals exact fldN_packed rfl rfl

theorem subs p w t u : Statement (.subs p w t u) := by
  intro x hx
  obtain rfl := Option.some.inj hx
  rw [decodeWord_10 (fldN_packed rfl rfl), show ∀ x : Word32, fldN x 18 5 = 27 → decode10 x = chk (fldN x 16 2 == 0) (.subs (fld x 23 2) (fld x 14 2) (fld x 7 7) (fld x 0 7)) from
    fun x h => by unfold decode10; rw [h]; rfl]
  refine chk_ok ?_ ?_
  · rw [fldN_packed rfl (lo := 16) (n := 2) (v := 0) rfl]; rfl
  · rw [fld_packed rfl (lo := 23) (n := 2) (v := p) rfl, fld_packed rfl (lo := 14) (n := 2) (v := w) rfl, fld_packed rfl (lo := 7) (n := 7) (v := t) rfl, fld_packed rfl (lo := 0) (n := 7) (v := u) rfl]
  all_goals exact fldN_packed rfl rfl

theorem addi p i t : Statement (.addi p i t) := by
  intro x hx
  obtain rfl := Option.some.inj hx
  rw [decodeWord_11 (fldN_packed rfl rfl), show ∀ x : Word32, fldN x 18 5 = 0 → decode11 x = .ok (.addi (fld x 23 2) (fld x 7 11) (fld x 0 7)) from
    fun x h => by unfold decode11; rw [h]; rfl]
  refine congrArg Except.ok ?_
  · rw [fld_packed rfl (lo := 23) (n := 2) (v := p) rfl, fld_packed rfl (lo := 7) (n := 11) (v := i) rfl, fld_packed rfl (lo := 0) (n := 7) (v := t) rfl]
  all_goals exact fldN_packed rfl rfl

theorem andi p i t : Statement (.andi p i t) := by
  intro x hx
  obtain rfl := Option.some.inj hx
  rw [decodeWord_11 (fldN_packed rfl rfl), show ∀ x : Word32, fldN x 18 5 = 1 → decode11 x = .ok (.andi (fld x 23 2) (fld x 7 11) (fld x 0 7)) from
    fun x h => by unfold decode11; rw [h]; rfl]
  refine congrArg Except.ok ?_
  · rw [fld_packed rfl (lo := 23) (n := 2) (v := p) rfl, fld_packed rfl (lo := 7) (n := 11) (v := i) rfl, fld_packed rfl (lo := 0) (n := 7) (v := t) rfl]
  all_goals exact fldN_packed rfl rfl

theorem ori p i t : Statement (.ori p i t) := by
  intro x hx
  obtain rfl := Option.some.inj hx
  rw [decodeWord_11 (fldN_packed rfl rfl), show ∀ x : Word32, fldN x 18 5 = 2 → decode11 x = .ok (.ori (fld x 23 2) (fld x 7 11) (fld x 0 7)) from
    fun x h => by unfold decode11; rw [h]; rfl]
  refine congrArg Except.ok ?_
  · rw [fld_packed rfl (lo := 23) (n := 2) (v := p) rfl, fld_packed rfl (lo := 7) (n := 11) (v := i) rfl, fld_packed rfl (lo := 0) (n := 7) (v := t) rfl]
  all_goals exact fldN_packed rfl rfl

theorem xori p i t : Statement (.xori p i t) := by
  intro x hx
  obtain rfl := Option.some.inj hx
  rw [decodeWord_11 (fldN_packed rfl rfl), show ∀ x : Word32, fldN x 18 5 = 3 → decode11 x = .ok (.xori (fld x 23 2) (fld x 7 11) (fld x 0 7)) from
    fun x h => by unfold decode11; rw [h]; rfl]
  refine congrArg Except.ok ?_
  · rw [fld_packed rfl (lo := 23) (n := 2) (v := p) rfl, fld_packed rfl (lo := 7) (n := 11) (v := i) rfl, fld_packed rfl (lo := 0) (n := 7) (v := t) rfl]
  all_goals exact fldN_packed rfl rfl

theorem shli p i t : Statement (.shli p i t) := by
  intro x hx
  obtain rfl := Option.some.inj hx
  rw [decodeWord_11 (fldN_packed rfl rfl), show ∀ x : Word32, fldN x 18 5 = 4 → decode11 x = .ok (.shli (fld x 23 2) (fld x 7 11) (fld x 0 7)) from
    fun x h => by unfold decode11; rw [h]; rfl]
  refine congrArg Except.ok ?_
  · rw [fld_packed rfl (lo := 23) (n := 2) (v := p) rfl, fld_packed rfl (lo := 7) (n := 11) (v := i) rfl, fld_packed rfl (lo := 0) (n := 7) (v := t) rfl]
  all_goals exact fldN_packed rfl rfl

theorem shri p i t : Statement (.shri p i t) := by
  intro x hx
  obtain rfl := Option.some.inj hx
  rw [decodeWord_11 (fldN_packed rfl rfl), show ∀ x : Word32, fldN x 18 5 = 5 → decode11 x = .ok (.shri (fld x 23 2) (fld x 7 11) (fld x 0 7)) from
    fun x h => by unfold decode11; rw [h]; rfl]
  refine congrArg Except.ok ?_
  · rw [fld_packed rfl (lo := 23) (n := 2) (v := p) rfl, fld_packed rfl (lo := 7) (n := 11) (v := i) rfl, fld_packed rfl (lo := 0) (n := 7) (v := t) rfl]
  all_goals exact fldN_packed rfl rfl

theorem srai p i t : Statement (.srai p i t) := by
  intro x hx
  obtain rfl := Option.some.inj hx
  rw [decodeWord_11 (fldN_packed rfl rfl), show ∀ x : Word32, fldN x 18 5 = 6 → decode11 x = .ok (.srai (fld x 23 2) (fld x 7 11) (fld x 0 7)) from
    fun x h => by unfold decode11; rw [h]; rfl]
  refine congrArg Except.ok ?_
  · rw [fld_packed rfl (lo := 23) (n := 2) (v := p) rfl, fld_packed rfl (lo := 7) (n := 11) (v := i) rfl, fld_packed rfl (lo := 0) (n := 7) (v := t) rfl]
  all_goals exact fldN_packed rfl rfl

theorem mini p i t : Statement (.mini p i t) := by
  intro x hx
  obtain rfl := Option.some.inj hx
  rw [decodeWord_11 (fldN_packed rfl rfl), show ∀ x : Word32, fldN x 18 5 = 7 → decode11 x = .ok (.mini (fld x 23 2) (fld x 7 11) (fld x 0 7)) from
    fun x h => by unfold decode11; rw [h]; rfl]
  refine congrArg Except.ok ?_
  · rw [fld_packed rfl (lo := 23) (n := 2) (v := p) rfl, fld_packed rfl (lo := 7) (n := 11) (v := i) rfl, fld_packed rfl (lo := 0) (n := 7) (v := t) rfl]
  all_goals exact fldN_packed rfl rfl

theorem maxi p i t : Statement (.maxi p i t) := by
  intro x hx
  obtain rfl := Option.some.inj hx
  rw [decodeWord_11 (fldN_packed rfl rfl), show ∀ x : Word32, fldN x 18 5 = 8 → decode11 x = .ok (.maxi (fld x 23 2) (fld x 7 11) (fld x 0 7)) from
    fun x h => by unfold decode11; rw [h]; rfl]
  refine congrArg Except.ok ?_
  · rw [fld_packed rfl (lo := 23) (n := 2) (v := p) rfl, fld_packed rfl (lo := 7) (n := 11) (v := i) rfl, fld_packed rfl (lo := 0) (n := 7) (v := t) rfl]
  all_goals exact fldN_packed rfl rfl

theorem muli p i t : Statement (.muli p i t) := by
  intro x hx
  obtain rfl := Option.some.inj hx
  rw [decodeWord_11 (fldN_packed rfl rfl), show ∀ x : Word32, fldN x 18 5 = 9 → decode11 x = .ok (.muli (fld x 23 2) (fld x 7 11) (fld x 0 7)) from
    fun x h => by unfold decode11; rw [h]; rfl]
  refine congrArg Except.ok ?_
  · rw [fld_packed rfl (lo := 23) (n := 2) (v := p) rfl, fld_packed rfl (lo := 7) (n := 11) (v := i) rfl, fld_packed rfl (lo := 0) (n := 7) (v := t) rfl]
  all_goals exact fldN_packed rfl rfl

theorem teq p t u : Statement (.teq p t u) := by
  intro x hx
  obtain rfl := Option.some.inj hx
  rw [decodeWord_12 (fldN_packed rfl rfl), show ∀ x : Word32, fldN x 18 5 = 0 → decode12 x = chk (fldN x 14 4 == 0) (.teq (fld x 23 2) (fld x 7 7) (fld x 0 7)) from
    fun x h => by unfold decode12; rw [h]; rfl]
  refine chk_ok ?_ ?_
  · rw [fldN_packed rfl (lo := 14) (n := 4) (v := 0) rfl]; rfl
  · rw [fld_packed rfl (lo := 23) (n := 2) (v := p) rfl, fld_packed rfl (lo := 7) (n := 7) (v := t) rfl, fld_packed rfl (lo := 0) (n := 7) (v := u) rfl]
  all_goals exact fldN_packed rfl rfl

theorem tne p t u : Statement (.tne p t u) := by
  intro x hx
  obtain rfl := Option.some.inj hx
  rw [decodeWord_12 (fldN_packed rfl rfl), show ∀ x : Word32, fldN x 18 5 = 1 → decode12 x = chk (fldN x 14 4 == 0) (.tne (fld x 23 2) (fld x 7 7) (fld x 0 7)) from
    fun x h => by unfold decode12; rw [h]; rfl]
  refine chk_ok ?_ ?_
  · rw [fldN_packed rfl (lo := 14) (n := 4) (v := 0) rfl]; rfl
  · rw [fld_packed rfl (lo := 23) (n := 2) (v := p) rfl, fld_packed rfl (lo := 7) (n := 7) (v := t) rfl, fld_packed rfl (lo := 0) (n := 7) (v := u) rfl]
  all_goals exact fldN_packed rfl rfl

theorem tlt p t u : Statement (.tlt p t u) := by
  intro x hx
  obtain rfl := Option.some.inj hx
  rw [decodeWord_12 (fldN_packed rfl rfl), show ∀ x : Word32, fldN x 18 5 = 2 → decode12 x = chk (fldN x 14 4 == 0) (.tlt (fld x 23 2) (fld x 7 7) (fld x 0 7)) from
    fun x h => by unfold decode12; rw [h]; rfl]
  refine chk_ok ?_ ?_
  · rw [fldN_packed rfl (lo := 14) (n := 4) (v := 0) rfl]; rfl
  · rw [fld_packed rfl (lo := 23) (n := 2) (v := p) rfl, fld_packed rfl (lo := 7) (n := 7) (v := t) rfl, fld_packed rfl (lo := 0) (n := 7) (v := u) rfl]
  all_goals exact fldN_packed rfl rfl

theorem tle p t u : Statement (.tle p t u) := by
  intro x hx
  obtain rfl := Option.some.inj hx
  rw [decodeWord_12 (fldN_packed rfl rfl), show ∀ x : Word32, fldN x 18 5 = 3 → decode12 x = chk (fldN x 14 4 == 0) (.tle (fld x 23 2) (fld x 7 7) (fld x 0 7)) from
    fun x h => by unfold decode12; rw [h]; rfl]
  refine chk_ok ?_ ?_
  · rw [fldN_packed rfl (lo := 14) (n := 4) (v := 0) rfl]; rfl
  · rw [fld_packed rfl (lo := 23) (n := 2) (v := p) rfl, fld_packed rfl (lo := 7) (n := 7) (v := t) rfl, fld_packed rfl (lo := 0) (n := 7) (v := u) rfl]
  all_goals exact fldN_packed rfl rfl

theorem tltu p t u : Statement (.tltu p t u) := by
  intro x hx
  obtain rfl := Option.some.inj hx
  rw [decodeWord_12 (fldN_packed rfl rfl), show ∀ x : Word32, fldN x 18 5 = 4 → decode12 x = chk (fldN x 14 4 == 0) (.tltu (fld x 23 2) (fld x 7 7) (fld x 0 7)) from
    fun x h => by unfold decode12; rw [h]; rfl]
  refine chk_ok ?_ ?_
  · rw [fldN_packed rfl (lo := 14) (n := 4) (v := 0) rfl]; rfl
  · rw [fld_packed rfl (lo := 23) (n := 2) (v := p) rfl, fld_packed rfl (lo := 7) (n := 7) (v := t) rfl, fld_packed rfl (lo := 0) (n := 7) (v := u) rfl]
  all_goals exact fldN_packed rfl rfl

theorem tleu p t u : Statement (.tleu p t u) := by
  intro x hx
  obtain rfl := Option.some.inj hx
  rw [decodeWord_12 (fldN_packed rfl rfl), show ∀ x : Word32, fldN x 18 5 = 5 → decode12 x = chk (fldN x 14 4 == 0) (.tleu (fld x 23 2) (fld x 7 7) (fld x 0 7)) from
    fun x h => by unfold decode12; rw [h]; rfl]
  refine chk_ok ?_ ?_
  · rw [fldN_packed rfl (lo := 14) (n := 4) (v := 0) rfl]; rfl
  · rw [fld_packed rfl (lo := 23) (n := 2) (v := p) rfl, fld_packed rfl (lo := 7) (n := 7) (v := t) rfl, fld_packed rfl (lo := 0) (n := 7) (v := u) rfl]
  all_goals exact fldN_packed rfl rfl

theorem teqi p i t : Statement (.teqi p i t) := by
  intro x hx
  obtain rfl := Option.some.inj hx
  rw [decodeWord_13 (fldN_packed rfl rfl), show ∀ x : Word32, fldN x 18 5 = 0 → decode13 x = .ok (.teqi (fld x 23 2) (fld x 7 11) (fld x 0 7)) from
    fun x h => by unfold decode13; rw [h]; rfl]
  refine congrArg Except.ok ?_
  · rw [fld_packed rfl (lo := 23) (n := 2) (v := p) rfl, fld_packed rfl (lo := 7) (n := 11) (v := i) rfl, fld_packed rfl (lo := 0) (n := 7) (v := t) rfl]
  all_goals exact fldN_packed rfl rfl

theorem tnei p i t : Statement (.tnei p i t) := by
  intro x hx
  obtain rfl := Option.some.inj hx
  rw [decodeWord_13 (fldN_packed rfl rfl), show ∀ x : Word32, fldN x 18 5 = 1 → decode13 x = .ok (.tnei (fld x 23 2) (fld x 7 11) (fld x 0 7)) from
    fun x h => by unfold decode13; rw [h]; rfl]
  refine congrArg Except.ok ?_
  · rw [fld_packed rfl (lo := 23) (n := 2) (v := p) rfl, fld_packed rfl (lo := 7) (n := 11) (v := i) rfl, fld_packed rfl (lo := 0) (n := 7) (v := t) rfl]
  all_goals exact fldN_packed rfl rfl

theorem tlti p i t : Statement (.tlti p i t) := by
  intro x hx
  obtain rfl := Option.some.inj hx
  rw [decodeWord_13 (fldN_packed rfl rfl), show ∀ x : Word32, fldN x 18 5 = 2 → decode13 x = .ok (.tlti (fld x 23 2) (fld x 7 11) (fld x 0 7)) from
    fun x h => by unfold decode13; rw [h]; rfl]
  refine congrArg Except.ok ?_
  · rw [fld_packed rfl (lo := 23) (n := 2) (v := p) rfl, fld_packed rfl (lo := 7) (n := 11) (v := i) rfl, fld_packed rfl (lo := 0) (n := 7) (v := t) rfl]
  all_goals exact fldN_packed rfl rfl

theorem tlei p i t : Statement (.tlei p i t) := by
  intro x hx
  obtain rfl := Option.some.inj hx
  rw [decodeWord_13 (fldN_packed rfl rfl), show ∀ x : Word32, fldN x 18 5 = 3 → decode13 x = .ok (.tlei (fld x 23 2) (fld x 7 11) (fld x 0 7)) from
    fun x h => by unfold decode13; rw [h]; rfl]
  refine congrArg Except.ok ?_
  · rw [fld_packed rfl (lo := 23) (n := 2) (v := p) rfl, fld_packed rfl (lo := 7) (n := 11) (v := i) rfl, fld_packed rfl (lo := 0) (n := 7) (v := t) rfl]
  all_goals exact fldN_packed rfl rfl

theorem tltui p i t : Statement (.tltui p i t) := by
  intro x hx
  obtain rfl := Option.some.inj hx
  rw [decodeWord_13 (fldN_packed rfl rfl), show ∀ x : Word32, fldN x 18 5 = 4 → decode13 x = .ok (.tltui (fld x 23 2) (fld x 7 11) (fld x 0 7)) from
    fun x h => by unfold decode13; rw [h]; rfl]
  refine congrArg Except.ok ?_
  · rw [fld_packed rfl (lo := 23) (n := 2) (v := p) rfl, fld_packed rfl (lo := 7) (n := 11) (v := i) rfl, fld_packed rfl (lo := 0) (n := 7) (v := t) rfl]
  all_goals exact fldN_packed rfl rfl

theorem tleui p i t : Statement (.tleui p i t) := by
  intro x hx
  obtain rfl := Option.some.inj hx
  rw [decodeWord_13 (fldN_packed rfl rfl), show ∀ x : Word32, fldN x 18 5 = 5 → decode13 x = .ok (.tleui (fld x 23 2) (fld x 7 11) (fld x 0 7)) from
    fun x h => by unfold decode13; rw [h]; rfl]
  refine congrArg Except.ok ?_
  · rw [fld_packed rfl (lo := 23) (n := 2) (v := p) rfl, fld_packed rfl (lo := 7) (n := 11) (v := i) rfl, fld_packed rfl (lo := 0) (n := 7) (v := t) rfl]
  all_goals exact fldN_packed rfl rfl

theorem tgti p i t : Statement (.tgti p i t) := by
  intro x hx
  obtain rfl := Option.some.inj hx
  rw [decodeWord_13 (fldN_packed rfl rfl), show ∀ x : Word32, fldN x 18 5 = 6 → decode13 x = .ok (.tgti (fld x 23 2) (fld x 7 11) (fld x 0 7)) from
    fun x h => by unfold decode13; rw [h]; rfl]
  refine congrArg Except.ok ?_
  · rw [fld_packed rfl (lo := 23) (n := 2) (v := p) rfl, fld_packed rfl (lo := 7) (n := 11) (v := i) rfl, fld_packed rfl (lo := 0) (n := 7) (v := t) rfl]
  all_goals exact fldN_packed rfl rfl

theorem tgei p i t : Statement (.tgei p i t) := by
  intro x hx
  obtain rfl := Option.some.inj hx
  rw [decodeWord_13 (fldN_packed rfl rfl), show ∀ x : Word32, fldN x 18 5 = 7 → decode13 x = .ok (.tgei (fld x 23 2) (fld x 7 11) (fld x 0 7)) from
    fun x h => by unfold decode13; rw [h]; rfl]
  refine congrArg Except.ok ?_
  · rw [fld_packed rfl (lo := 23) (n := 2) (v := p) rfl, fld_packed rfl (lo := 7) (n := 11) (v := i) rfl, fld_packed rfl (lo := 0) (n := 7) (v := t) rfl]
  all_goals exact fldN_packed rfl rfl

theorem pand p t u : Statement (.pand p t u) := by
  intro x hx
  obtain rfl := Option.some.inj hx
  rw [decodeWord_14 (fldN_packed rfl rfl), show ∀ x : Word32, fldN x 18 5 = 0 → decode14 x = chk (fldN x 14 4 == 0) (.pand (fld x 23 2) (fld x 7 7) (fld x 0 7)) from
    fun x h => by unfold decode14; rw [h]; rfl]
  refine chk_ok ?_ ?_
  · rw [fldN_packed rfl (lo := 14) (n := 4) (v := 0) rfl]; rfl
  · rw [fld_packed rfl (lo := 23) (n := 2) (v := p) rfl, fld_packed rfl (lo := 7) (n := 7) (v := t) rfl, fld_packed rfl (lo := 0) (n := 7) (v := u) rfl]
  all_goals exact fldN_packed rfl rfl

theorem por p t u : Statement (.por p t u) := by
  intro x hx
  obtain rfl := Option.some.inj hx
  rw [decodeWord_14 (fldN_packed rfl rfl), show ∀ x : Word32, fldN x 18 5 = 1 → decode14 x = chk (fldN x 14 4 == 0) (.por (fld x 23 2) (fld x 7 7) (fld x 0 7)) from
    fun x h => by unfold decode14; rw [h]; rfl]
  refine chk_ok ?_ ?_
  · rw [fldN_packed rfl (lo := 14) (n := 4) (v := 0) rfl]; rfl
  · rw [fld_packed rfl (lo := 23) (n := 2) (v := p) rfl, fld_packed rfl (lo := 7) (n := 7) (v := t) rfl, fld_packed rfl (lo := 0) (n := 7) (v := u) rfl]
  all_goals exact fldN_packed rfl rfl

theorem pnot p t u : Statement (.pnot p t u) := by
  intro x hx
  obtain rfl := Option.some.inj hx
  rw [decodeWord_14 (fldN_packed rfl rfl), show ∀ x : Word32, fldN x 18 5 = 2 → decode14 x = chk (fldN x 14 4 == 0) (.pnot (fld x 23 2) (fld x 7 7) (fld x 0 7)) from
    fun x h => by unfold decode14; rw [h]; rfl]
  refine chk_ok ?_ ?_
  · rw [fldN_packed rfl (lo := 14) (n := 4) (v := 0) rfl]; rfl
  · rw [fld_packed rfl (lo := 23) (n := 2) (v := p) rfl, fld_packed rfl (lo := 7) (n := 7) (v := t) rfl, fld_packed rfl (lo := 0) (n := 7) (v := u) rfl]
  all_goals exact fldN_packed rfl rfl

theorem mfs p n t u : Statement (.mfs p n t u) := by
  intro x hx
  obtain rfl := Option.some.inj hx
  rw [show ∀ x : Word32, fldN x 25 7 = 21 → decodeWord x = .ok (.mfs (fld x 23 2) (fld x 14 9) (fld x 7 7) (fld x 0 7)) from fun x h => by unfold decodeWord; rw [h]; rfl]
  refine congrArg Except.ok ?_
  · rw [fld_packed rfl (lo := 23) (n := 2) (v := p) rfl, fld_packed rfl (lo := 14) (n := 9) (v := n) rfl, fld_packed rfl (lo := 7) (n := 7) (v := t) rfl, fld_packed rfl (lo := 0) (n := 7) (v := u) rfl]
  all_goals exact fldN_packed rfl rfl

theorem mts p l n : Statement (.mts p l n) := by
  intro x hx
  obtain rfl := Option.some.inj hx
  rw [show ∀ x : Word32, fldN x 25 7 = 22 → decodeWord x = chk (fldN x 9 4 == 0 && fldN x 13 1 == 0 && fldN x 14 4 == 0) (.mts (fld x 23 2) (fld x 18 5) (fld x 0 9)) from fun x h => by unfold decodeWord; rw [h]; rfl]
  refine chk_ok ?_ ?_
  · rw [fldN_packed rfl (lo := 9) (n := 4) (v := 0) rfl, fldN_packed rfl (lo := 13) (n := 1) (v := 0) rfl, fldN_packed rfl (lo := 14) (n := 4) (v := 0) rfl]; rfl
  · rw [fld_packed rfl (lo := 23) (n := 2) (v := p) rfl, fld_packed rfl (lo := 18) (n := 5) (v := l) rfl, fld_packed rfl (lo := 0) (n := 9) (v := n) rfl]
  all_goals exact fldN_packed rfl rfl

theorem nop p : Statement (.nop p) := by
  intro x hx
  obtain rfl := Option.some.inj hx
  rw [decodeWord_17 (fldN_packed rfl rfl), show ∀ x : Word32, fldN x 18 5 = 0 → decode17 x = chk (fldN x 0 7 == 127 && fldN x 7 6 == 63 && fldN x 13 1 == 1 && fldN x 14 4 == 0) (.nop (fld x 23 2)) from
    fun x h => by unfold decode17; rw [h]; rfl]
  refine chk_ok ?_ ?_
  · rw [fldN_packed rfl (lo := 0) (n := 7) (v := 127) rfl, fldN_packed rfl (lo := 7) (n := 6) (v := 63) rfl, fldN_packed rfl (lo := 13) (n := 1) (v := 1) rfl, fldN_packed rfl (lo := 14) (n := 4) (v := 0) rfl]; rfl
  · rw [fld_packed rfl (lo := 23) (n := 2) (v := p) rfl]
  all_goals exact fldN_packed rfl rfl

theorem ldl p l s z i t : Statement (.ldl p l s z i t) := by
  intro x hx
  obtain rfl := Option.some.inj hx
  rw [show ∀ x : Word32, fldN x 25 7 = 32 → decodeWord x = chk (fldN x 17 1 == 0) (.ldl (fld x 23 2) (fld x 18 5) (fld x 16 1) (fld x 14 2) (fld x 7 7) (fld x 0 7)) from fun x h => by unfold decodeWord; rw [h]; rfl]
  refine chk_ok ?_ ?_
  · rw [fldN_packed rfl (lo := 17) (n := 1) (v := 0) rfl]; rfl
  · rw [fld_packed rfl (lo := 23) (n := 2) (v := p) rfl, fld_packed rfl (lo := 18) (n := 5) (v := l) rfl, fld_packed rfl (lo := 16) (n := 1) (v := s) rfl, fld_packed rfl (lo := 14) (n := 2) (v := z) rfl, fld_packed rfl (lo := 7) (n := 7) (v := i) rfl, fld_packed rfl (lo := 0) (n := 7) (v := t) rfl]
  all_goals exact fldN_packed rfl rfl

theorem stl p l z i : Statement (.stl p l z i) := by
  intro x hx
  obtain rfl := Option.some.inj hx
  rw [show ∀ x : Word32, fldN x 25 7 = 33 → decodeWord x = chk (fldN x 16 2 == 0) (.stl (fld x 23 2) (fld x 18 5) (fld x 14 2) (fld x 0 14)) from fun x h => by unfold decodeWord; rw [h]; rfl]
  refine chk_ok ?_ ?_
  · rw [fldN_packed rfl (lo := 16) (n := 2) (v := 0) rfl]; rfl
  · rw [fld_packed rfl (lo := 23) (n := 2) (v := p) rfl, fld_packed rfl (lo := 18) (n := 5) (v := l) rfl, fld_packed rfl (lo := 14) (n := 2) (v := z) rfl, fld_packed rfl (lo := 0) (n := 14) (v := i) rfl]
  all_goals exact fldN_packed rfl rfl

theorem vldl p l g i t : Statement (.vldl p l g i t) := by
  intro x hx
  obtain rfl := Option.some.inj hx
  rw [show ∀ x : Word32, fldN x 25 7 = 34 → decodeWord x = .ok (.vldl (fld x 23 2) (fld x 18 5) (fld x 14 4) (fld x 7 7) (fld x 0 7)) from fun x h => by unfold decodeWord; rw [h]; rfl]
  refine congrArg Except.ok ?_
  · rw [fld_packed rfl (lo := 23) (n := 2) (v := p) rfl, fld_packed rfl (lo := 18) (n := 5) (v := l) rfl, fld_packed rfl (lo := 14) (n := 4) (v := g) rfl, fld_packed rfl (lo := 7) (n := 7) (v := i) rfl, fld_packed rfl (lo := 0) (n := 7) (v := t) rfl]
  all_goals exact fldN_packed rfl rfl

theorem vstl p l i : Statement (.vstl p l i) := by
  intro x hx
  obtain rfl := Option.some.inj hx
  rw [show ∀ x : Word32, fldN x 25 7 = 35 → decodeWord x = chk (fldN x 14 4 == 0) (.vstl (fld x 23 2) (fld x 18 5) (fld x 0 14)) from fun x h => by unfold decodeWord; rw [h]; rfl]
  refine chk_ok ?_ ?_
  · rw [fldN_packed rfl (lo := 14) (n := 4) (v := 0) rfl]; rfl
  · rw [fld_packed rfl (lo := 23) (n := 2) (v := p) rfl, fld_packed rfl (lo := 18) (n := 5) (v := l) rfl, fld_packed rfl (lo := 0) (n := 14) (v := i) rfl]
  all_goals exact fldN_packed rfl rfl

theorem vgtl p l g i t : Statement (.vgtl p l g i t) := by
  intro x hx
  obtain rfl := Option.some.inj hx
  rw [show ∀ x : Word32, fldN x 25 7 = 36 → decodeWord x = .ok (.vgtl (fld x 23 2) (fld x 18 5) (fld x 14 4) (fld x 7 7) (fld x 0 7)) from fun x h => by unfold decodeWord; rw [h]; rfl]
  refine congrArg Except.ok ?_
  · rw [fld_packed rfl (lo := 23) (n := 2) (v := p) rfl, fld_packed rfl (lo := 18) (n := 5) (v := l) rfl, fld_packed rfl (lo := 14) (n := 4) (v := g) rfl, fld_packed rfl (lo := 7) (n := 7) (v := i) rfl, fld_packed rfl (lo := 0) (n := 7) (v := t) rfl]
  all_goals exact fldN_packed rfl rfl

theorem vscl l i : Statement (.vscl l i) := by
  intro x hx
  obtain rfl := Option.some.inj hx
  rw [show ∀ x : Word32, fldN x 25 7 = 37 → decodeWord x = chk (fldN x 14 4 == 0 && fldN x 23 2 == 0) (.vscl (fld x 18 5) (fld x 0 14)) from fun x h => by unfold decodeWord; rw [h]; rfl]
  refine chk_ok ?_ ?_
  · rw [fldN_packed rfl (lo := 14) (n := 4) (v := 0) rfl, fldN_packed rfl (lo := 23) (n := 2) (v := 0) rfl]; rfl
  · rw [fld_packed rfl (lo := 18) (n := 5) (v := l) rfl, fld_packed rfl (lo := 0) (n := 14) (v := i) rfl]
  all_goals exact fldN_packed rfl rfl

theorem land p l n t : Statement (.land p l n t) := by
  intro x hx
  obtain rfl := Option.some.inj hx
  rw [show ∀ x : Word32, fldN x 25 7 = 38 → decodeWord x = chk (fldN x 13 1 == 0 && fldN x 14 4 == 0) (.land (fld x 23 2) (fld x 18 5) (fld x 7 6) (fld x 0 7)) from fun x h => by unfold decodeWord; rw [h]; rfl]
  refine chk_ok ?_ ?_
  · rw [fldN_packed rfl (lo := 13) (n := 1) (v := 0) rfl, fldN_packed rfl (lo := 14) (n := 4) (v := 0) rfl]; rfl
  · rw [fld_packed rfl (lo := 23) (n := 2) (v := p) rfl, fld_packed rfl (lo := 18) (n := 5) (v := l) rfl, fld_packed rfl (lo := 7) (n := 6) (v := n) rfl, fld_packed rfl (lo := 0) (n := 7) (v := t) rfl]
  all_goals exact fldN_packed rfl rfl

theorem fence p l e o c : Statement (.fence p l e o c) := by
  intro x hx
  obtain rfl := Option.some.inj hx
  rw [show ∀ x : Word32, fldN x 25 7 = 39 → decodeWord x = chk (fldN x 7 6 == 0 && fldN x 13 1 == 0 && fldN x 14 4 == 0) (.fence (fld x 23 2) (fld x 18 5) (fld x 4 3) (fld x 2 2) (fld x 0 2)) from fun x h => by unfold decodeWord; rw [h]; rfl]
  refine chk_ok ?_ ?_
  · rw [fldN_packed rfl (lo := 7) (n := 6) (v := 0) rfl, fldN_packed rfl (lo := 13) (n := 1) (v := 0) rfl, fldN_packed rfl (lo := 14) (n := 4) (v := 0) rfl]; rfl
  · rw [fld_packed rfl (lo := 23) (n := 2) (v := p) rfl, fld_packed rfl (lo := 18) (n := 5) (v := l) rfl, fld_packed rfl (lo := 4) (n := 3) (v := e) rfl, fld_packed rfl (lo := 2) (n := 2) (v := o) rfl, fld_packed rfl (lo := 0) (n := 2) (v := c) rfl]
  all_goals exact fldN_packed rfl rfl

theorem tldx p l g k t : Statement (.tldx p l g k t) := by
  intro x hx
  obtain rfl := Option.some.inj hx
  rw [decodeWord_28 (fldN_packed rfl rfl), show ∀ x : Word32, fldN x 17 1 = 0 → decode28 x = .ok (.tldx (fld x 23 2) (fld x 18 5) (fld x 14 3) (fld x 7 7) (fld x 0 7)) from
    fun x h => by unfold decode28; rw [h]; rfl]
  refine congrArg Except.ok ?_
  · rw [fld_packed rfl (lo := 23) (n := 2) (v := p) rfl, fld_packed rfl (lo := 18) (n := 5) (v := l) rfl, fld_packed rfl (lo := 14) (n := 3) (v := g) rfl, fld_packed rfl (lo := 7) (n := 7) (v := k) rfl, fld_packed rfl (lo := 0) (n := 7) (v := t) rfl]
  all_goals exact fldN_packed rfl rfl

theorem tldxOffset p l g h i t : Statement (.tldxOffset p l g h i t) := by
  intro x hx
  obtain rfl := Option.some.inj hx
  rw [decodeWord_28 (fldN_packed rfl rfl), show ∀ x : Word32, fldN x 17 1 = 1 → decode28 x = .ok (.tldxOffset (fld x 23 2) (fld x 18 5) (fld x 14 3) (fld x 11 3) (fld x 7 4) (fld x 0 7)) from
    fun x h => by unfold decode28; rw [h]; rfl]
  refine congrArg Except.ok ?_
  · rw [fld_packed rfl (lo := 23) (n := 2) (v := p) rfl, fld_packed rfl (lo := 18) (n := 5) (v := l) rfl, fld_packed rfl (lo := 14) (n := 3) (v := g) rfl, fld_packed rfl (lo := 11) (n := 3) (v := h) rfl, fld_packed rfl (lo := 7) (n := 4) (v := i) rfl, fld_packed rfl (lo := 0) (n := 7) (v := t) rfl]
  all_goals exact fldN_packed rfl rfl

theorem tstx p l g k : Statement (.tstx p l g k) := by
  intro x hx
  obtain rfl := Option.some.inj hx
  rw [decodeWord_29 (fldN_packed rfl rfl), show ∀ x : Word32, fldN x 17 1 = 0 → decode29 x = .ok (.tstx (fld x 23 2) (fld x 18 5) (fld x 14 3) (fld x 0 14)) from
    fun x h => by unfold decode29; rw [h]; rfl]
  refine congrArg Except.ok ?_
  · rw [fld_packed rfl (lo := 23) (n := 2) (v := p) rfl, fld_packed rfl (lo := 18) (n := 5) (v := l) rfl, fld_packed rfl (lo := 14) (n := 3) (v := g) rfl, fld_packed rfl (lo := 0) (n := 14) (v := k) rfl]
  all_goals exact fldN_packed rfl rfl

theorem tstxOffset l g h i : Statement (.tstxOffset l g h i) := by
  intro x hx
  obtain rfl := Option.some.inj hx
  rw [decodeWord_29 (fldN_packed rfl rfl), show ∀ x : Word32, fldN x 17 1 = 1 → decode29 x = chk (fldN x 7 6 == 0 && fldN x 13 1 == 0 && fldN x 23 2 == 0) (.tstxOffset (fld x 18 5) (fld x 14 3) (fld x 4 3) (fld x 0 4)) from
    fun x h => by unfold decode29; rw [h]; rfl]
  refine chk_ok ?_ ?_
  · rw [fldN_packed rfl (lo := 7) (n := 6) (v := 0) rfl, fldN_packed rfl (lo := 13) (n := 1) (v := 0) rfl, fldN_packed rfl (lo := 23) (n := 2) (v := 0) rfl]; rfl
  · rw [fld_packed rfl (lo := 18) (n := 5) (v := l) rfl, fld_packed rfl (lo := 14) (n := 3) (v := g) rfl, fld_packed rfl (lo := 4) (n := 3) (v := h) rfl, fld_packed rfl (lo := 0) (n := 4) (v := i) rfl]
  all_goals exact fldN_packed rfl rfl

theorem tlds p l g k t : Statement (.tlds p l g k t) := by
  intro x hx
  obtain rfl := Option.some.inj hx
  rw [show ∀ x : Word32, fldN x 25 7 = 42 → decodeWord x = chk (fldN x 17 1 == 0) (.tlds (fld x 23 2) (fld x 18 5) (fld x 14 3) (fld x 7 7) (fld x 0 7)) from fun x h => by unfold decodeWord; rw [h]; rfl]
  refine chk_ok ?_ ?_
  · rw [fldN_packed rfl (lo := 17) (n := 1) (v := 0) rfl]; rfl
  · rw [fld_packed rfl (lo := 23) (n := 2) (v := p) rfl, fld_packed rfl (lo := 18) (n := 5) (v := l) rfl, fld_packed rfl (lo := 14) (n := 3) (v := g) rfl, fld_packed rfl (lo := 7) (n := 7) (v := k) rfl, fld_packed rfl (lo := 0) (n := 7) (v := t) rfl]
  all_goals exact fldN_packed rfl rfl

theorem tsts p l g k : Statement (.tsts p l g k) := by
  intro x hx
  obtain rfl := Option.some.inj hx
  rw [show ∀ x : Word32, fldN x 25 7 = 43 → decodeWord x = chk (fldN x 17 1 == 0) (.tsts (fld x 23 2) (fld x 18 5) (fld x 14 3) (fld x 0 14)) from fun x h => by unfold decodeWord; rw [h]; rfl]
  refine chk_ok ?_ ?_
  · rw [fldN_packed rfl (lo := 17) (n := 1) (v := 0) rfl]; rfl
  · rw [fld_packed rfl (lo := 23) (n := 2) (v := p) rfl, fld_packed rfl (lo := 18) (n := 5) (v := l) rfl, fld_packed rfl (lo := 14) (n := 3) (v := g) rfl, fld_packed rfl (lo := 0) (n := 14) (v := k) rfl]
  all_goals exact fldN_packed rfl rfl

theorem amol p l m o z t : Statement (.amol p l m o z t) := by
  intro x hx
  obtain rfl := Option.some.inj hx
  rw [show ∀ x : Word32, fldN x 25 7 = 44 → decodeWord x = chk (fldN x 7 4 == 0) (.amol (fld x 23 2) (fld x 18 5) (fld x 14 4) (fld x 12 2) (fld x 11 1) (fld x 0 7)) from fun x h => by unfold decodeWord; rw [h]; rfl]
  refine chk_ok ?_ ?_
  · rw [fldN_packed rfl (lo := 7) (n := 4) (v := 0) rfl]; rfl
  · rw [fld_packed rfl (lo := 23) (n := 2) (v := p) rfl, fld_packed rfl (lo := 18) (n := 5) (v := l) rfl, fld_packed rfl (lo := 14) (n := 4) (v := m) rfl, fld_packed rfl (lo := 12) (n := 2) (v := o) rfl, fld_packed rfl (lo := 11) (n := 1) (v := z) rfl, fld_packed rfl (lo := 0) (n := 7) (v := t) rfl]
  all_goals exact fldN_packed rfl rfl

theorem amot p l m o z g t : Statement (.amot p l m o z g t) := by
  intro x hx
  obtain rfl := Option.some.inj hx
  rw [show ∀ x : Word32, fldN x 25 7 = 45 → decodeWord x = chk (fldN x 10 1 == 0) (.amot (fld x 23 2) (fld x 18 5) (fld x 14 4) (fld x 12 2) (fld x 11 1) (fld x 7 3) (fld x 0 7)) from fun x h => by unfold decodeWord; rw [h]; rfl]
  refine chk_ok ?_ ?_
  · rw [fldN_packed rfl (lo := 10) (n := 1) (v := 0) rfl]; rfl
  · rw [fld_packed rfl (lo := 23) (n := 2) (v := p) rfl, fld_packed rfl (lo := 18) (n := 5) (v := l) rfl, fld_packed rfl (lo := 14) (n := 4) (v := m) rfl, fld_packed rfl (lo := 12) (n := 2) (v := o) rfl, fld_packed rfl (lo := 11) (n := 1) (v := z) rfl, fld_packed rfl (lo := 7) (n := 3) (v := g) rfl, fld_packed rfl (lo := 0) (n := 7) (v := t) rfl]
  all_goals exact fldN_packed rfl rfl

theorem casLocal l o z t : Statement (.casLocal l o z t) := by
  intro x hx
  obtain rfl := Option.some.inj hx
  rw [decodeWord_2E (fldN_packed rfl rfl), show ∀ x : Word32, fldN x 17 1 = 0 → decode2E x = chk (fldN x 7 4 == 0 && fldN x 14 3 == 0 && fldN x 23 2 == 0) (.casLocal (fld x 18 5) (fld x 12 2) (fld x 11 1) (fld x 0 7)) from
    fun x h => by unfold decode2E; rw [h]; rfl]
  refine chk_ok ?_ ?_
  · rw [fldN_packed rfl (lo := 7) (n := 4) (v := 0) rfl, fldN_packed rfl (lo := 14) (n := 3) (v := 0) rfl, fldN_packed rfl (lo := 23) (n := 2) (v := 0) rfl]; rfl
  · rw [fld_packed rfl (lo := 18) (n := 5) (v := l) rfl, fld_packed rfl (lo := 12) (n := 2) (v := o) rfl, fld_packed rfl (lo := 11) (n := 1) (v := z) rfl, fld_packed rfl (lo := 0) (n := 7) (v := t) rfl]
  all_goals exact fldN_packed rfl rfl

theorem casTensor l g o z t : Statement (.casTensor l g o z t) := by
  intro x hx
  obtain rfl := Option.some.inj hx
  rw [decodeWord_2E (fldN_packed rfl rfl), show ∀ x : Word32, fldN x 17 1 = 1 → decode2E x = chk (fldN x 7 4 == 0 && fldN x 23 2 == 0) (.casTensor (fld x 18 5) (fld x 14 3) (fld x 12 2) (fld x 11 1) (fld x 0 7)) from
    fun x h => by unfold decode2E; rw [h]; rfl]
  refine chk_ok ?_ ?_
  · rw [fldN_packed rfl (lo := 7) (n := 4) (v := 0) rfl, fldN_packed rfl (lo := 23) (n := 2) (v := 0) rfl]; rfl
  · rw [fld_packed rfl (lo := 18) (n := 5) (v := l) rfl, fld_packed rfl (lo := 14) (n := 3) (v := g) rfl, fld_packed rfl (lo := 12) (n := 2) (v := o) rfl, fld_packed rfl (lo := 11) (n := 1) (v := z) rfl, fld_packed rfl (lo := 0) (n := 7) (v := t) rfl]
  all_goals exact fldN_packed rfl rfl

theorem vamot p l g o : Statement (.vamot p l g o) := by
  intro x hx
  obtain rfl := Option.some.inj hx
  rw [show ∀ x : Word32, fldN x 25 7 = 47 → decodeWord x = chk (fldN x 0 7 == 127 && fldN x 7 5 == 0 && fldN x 17 1 == 0) (.vamot (fld x 23 2) (fld x 18 5) (fld x 14 3) (fld x 12 2)) from fun x h => by unfold decodeWord; rw [h]; rfl]
  refine chk_ok ?_ ?_
  · rw [fldN_packed rfl (lo := 0) (n := 7) (v := 127) rfl, fldN_packed rfl (lo := 7) (n := 5) (v := 0) rfl, fldN_packed rfl (lo := 17) (n := 1) (v := 0) rfl]; rfl
  · rw [fld_packed rfl (lo := 23) (n := 2) (v := p) rfl, fld_packed rfl (lo := 18) (n := 5) (v := l) rfl, fld_packed rfl (lo := 14) (n := 3) (v := g) rfl, fld_packed rfl (lo := 12) (n := 2) (v := o) rfl]
  all_goals exact fldN_packed rfl rfl

theorem vadd p t u : Statement (.vadd p t u) := by
  intro x hx
  obtain rfl := Option.some.inj hx
  rw [decodeWord_30 (fldN_packed rfl rfl), show ∀ x : Word32, fldN x 18 5 = 0 → decode30 x = chk (fldN x 14 4 == 0) (.vadd (fld x 23 2) (fld x 7 7) (fld x 0 7)) from
    fun x h => by unfold decode30; rw [h]; rfl]
  refine chk_ok ?_ ?_
  · rw [fldN_packed rfl (lo := 14) (n := 4) (v := 0) rfl]; rfl
  · rw [fld_packed rfl (lo := 23) (n := 2) (v := p) rfl, fld_packed rfl (lo := 7) (n := 7) (v := t) rfl, fld_packed rfl (lo := 0) (n := 7) (v := u) rfl]
  all_goals exact fldN_packed rfl rfl

theorem vsub p t u : Statement (.vsub p t u) := by
  intro x hx
  obtain rfl := Option.some.inj hx
  rw [decodeWord_30 (fldN_packed rfl rfl), show ∀ x : Word32, fldN x 18 5 = 1 → decode30 x = chk (fldN x 14 4 == 0) (.vsub (fld x 23 2) (fld x 7 7) (fld x 0 7)) from
    fun x h => by unfold decode30; rw [h]; rfl]
  refine chk_ok ?_ ?_
  · rw [fldN_packed rfl (lo := 14) (n := 4) (v := 0) rfl]; rfl
  · rw [fld_packed rfl (lo := 23) (n := 2) (v := p) rfl, fld_packed rfl (lo := 7) (n := 7) (v := t) rfl, fld_packed rfl (lo := 0) (n := 7) (v := u) rfl]
  all_goals exact fldN_packed rfl rfl

theorem vmul p t u : Statement (.vmul p t u) := by
  intro x hx
  obtain rfl := Option.some.inj hx
  rw [decodeWord_30 (fldN_packed rfl rfl), show ∀ x : Word32, fldN x 18 5 = 2 → decode30 x = chk (fldN x 14 4 == 0) (.vmul (fld x 23 2) (fld x 7 7) (fld x 0 7)) from
    fun x h => by unfold decode30; rw [h]; rfl]
  refine chk_ok ?_ ?_
  · rw [fldN_packed rfl (lo := 14) (n := 4) (v := 0) rfl]; rfl
  · rw [fld_packed rfl (lo := 23) (n := 2) (v := p) rfl, fld_packed rfl (lo := 7) (n := 7) (v := t) rfl, fld_packed rfl (lo := 0) (n := 7) (v := u) rfl]
  all_goals exact fldN_packed rfl rfl

theorem vmin p t u : Statement (.vmin p t u) := by
  intro x hx
  obtain rfl := Option.some.inj hx
  rw [decodeWord_30 (fldN_packed rfl rfl), show ∀ x : Word32, fldN x 18 5 = 3 → decode30 x = chk (fldN x 14 4 == 0) (.vmin (fld x 23 2) (fld x 7 7) (fld x 0 7)) from
    fun x h => by unfold decode30; rw [h]; rfl]
  refine chk_ok ?_ ?_
  · rw [fldN_packed rfl (lo := 14) (n := 4) (v := 0) rfl]; rfl
  · rw [fld_packed rfl (lo := 23) (n := 2) (v := p) rfl, fld_packed rfl (lo := 7) (n := 7) (v := t) rfl, fld_packed rfl (lo := 0) (n := 7) (v := u) rfl]
  all_goals exact fldN_packed rfl rfl

theorem vmax p t u : Statement (.vmax p t u) := by
  intro x hx
  obtain rfl := Option.some.inj hx
  rw [decodeWord_30 (fldN_packed rfl rfl), show ∀ x : Word32, fldN x 18 5 = 4 → decode30 x = chk (fldN x 14 4 == 0) (.vmax (fld x 23 2) (fld x 7 7) (fld x 0 7)) from
    fun x h => by unfold decode30; rw [h]; rfl]
  refine chk_ok ?_ ?_
  · rw [fldN_packed rfl (lo := 14) (n := 4) (v := 0) rfl]; rfl
  · rw [fld_packed rfl (lo := 23) (n := 2) (v := p) rfl, fld_packed rfl (lo := 7) (n := 7) (v := t) rfl, fld_packed rfl (lo := 0) (n := 7) (v := u) rfl]
  all_goals exact fldN_packed rfl rfl

theorem vabs p t u : Statement (.vabs p t u) := by
  intro x hx
  obtain rfl := Option.some.inj hx
  rw [decodeWord_30 (fldN_packed rfl rfl), show ∀ x : Word32, fldN x 18 5 = 5 → decode30 x = chk (fldN x 14 4 == 0) (.vabs (fld x 23 2) (fld x 7 7) (fld x 0 7)) from
    fun x h => by unfold decode30; rw [h]; rfl]
  refine chk_ok ?_ ?_
  · rw [fldN_packed rfl (lo := 14) (n := 4) (v := 0) rfl]; rfl
  · rw [fld_packed rfl (lo := 23) (n := 2) (v := p) rfl, fld_packed rfl (lo := 7) (n := 7) (v := t) rfl, fld_packed rfl (lo := 0) (n := 7) (v := u) rfl]
  all_goals exact fldN_packed rfl rfl

theorem vneg p t u : Statement (.vneg p t u) := by
  intro x hx
  obtain rfl := Option.some.inj hx
  rw [decodeWord_30 (fldN_packed rfl rfl), show ∀ x : Word32, fldN x 18 5 = 6 → decode30 x = chk (fldN x 14 4 == 0) (.vneg (fld x 23 2) (fld x 7 7) (fld x 0 7)) from
    fun x h => by unfold decode30; rw [h]; rfl]
  refine chk_ok ?_ ?_
  · rw [fldN_packed rfl (lo := 14) (n := 4) (v := 0) rfl]; rfl
  · rw [fld_packed rfl (lo := 23) (n := 2) (v := p) rfl, fld_packed rfl (lo := 7) (n := 7) (v := t) rfl, fld_packed rfl (lo := 0) (n := 7) (v := u) rfl]
  all_goals exact fldN_packed rfl rfl

theorem vand p t u : Statement (.vand p t u) := by
  intro x hx
  obtain rfl := Option.some.inj hx
  rw [decodeWord_30 (fldN_packed rfl rfl), show ∀ x : Word32, fldN x 18 5 = 7 → decode30 x = chk (fldN x 14 4 == 0) (.vand (fld x 23 2) (fld x 7 7) (fld x 0 7)) from
    fun x h => by unfold decode30; rw [h]; rfl]
  refine chk_ok ?_ ?_
  · rw [fldN_packed rfl (lo := 14) (n := 4) (v := 0) rfl]; rfl
  · rw [fld_packed rfl (lo := 23) (n := 2) (v := p) rfl, fld_packed rfl (lo := 7) (n := 7) (v := t) rfl, fld_packed rfl (lo := 0) (n := 7) (v := u) rfl]
  all_goals exact fldN_packed rfl rfl

theorem vor p t u : Statement (.vor p t u) := by
  intro x hx
  obtain rfl := Option.some.inj hx
  rw [decodeWord_30 (fldN_packed rfl rfl), show ∀ x : Word32, fldN x 18 5 = 8 → decode30 x = chk (fldN x 14 4 == 0) (.vor (fld x 23 2) (fld x 7 7) (fld x 0 7)) from
    fun x h => by unfold decode30; rw [h]; rfl]
  refine chk_ok ?_ ?_
  · rw [fldN_packed rfl (lo := 14) (n := 4) (v := 0) rfl]; rfl
  · rw [fld_packed rfl (lo := 23) (n := 2) (v := p) rfl, fld_packed rfl (lo := 7) (n := 7) (v := t) rfl, fld_packed rfl (lo := 0) (n := 7) (v := u) rfl]
  all_goals exact fldN_packed rfl rfl

theorem vxor p t u : Statement (.vxor p t u) := by
  intro x hx
  obtain rfl := Option.some.inj hx
  rw [decodeWord_30 (fldN_packed rfl rfl), show ∀ x : Word32, fldN x 18 5 = 9 → decode30 x = chk (fldN x 14 4 == 0) (.vxor (fld x 23 2) (fld x 7 7) (fld x 0 7)) from
    fun x h => by unfold decode30; rw [h]; rfl]
  refine chk_ok ?_ ?_
  · rw [fldN_packed rfl (lo := 14) (n := 4) (v := 0) rfl]; rfl
  · rw [fld_packed rfl (lo := 23) (n := 2) (v := p) rfl, fld_packed rfl (lo := 7) (n := 7) (v := t) rfl, fld_packed rfl (lo := 0) (n := 7) (v := u) rfl]
  all_goals exact fldN_packed rfl rfl

theorem vshl p t u : Statement (.vshl p t u) := by
  intro x hx
  obtain rfl := Option.some.inj hx
  rw [decodeWord_30 (fldN_packed rfl rfl), show ∀ x : Word32, fldN x 18 5 = 10 → decode30 x = chk (fldN x 14 4 == 0) (.vshl (fld x 23 2) (fld x 7 7) (fld x 0 7)) from
    fun x h => by unfold decode30; rw [h]; rfl]
  refine chk_ok ?_ ?_
  · rw [fldN_packed rfl (lo := 14) (n := 4) (v := 0) rfl]; rfl
  · rw [fld_packed rfl (lo := 23) (n := 2) (v := p) rfl, fld_packed rfl (lo := 7) (n := 7) (v := t) rfl, fld_packed rfl (lo := 0) (n := 7) (v := u) rfl]
  all_goals exact fldN_packed rfl rfl

theorem vshr p t u : Statement (.vshr p t u) := by
  intro x hx
  obtain rfl := Option.some.inj hx
  rw [decodeWord_30 (fldN_packed rfl rfl), show ∀ x : Word32, fldN x 18 5 = 11 → decode30 x = chk (fldN x 14 4 == 0) (.vshr (fld x 23 2) (fld x 7 7) (fld x 0 7)) from
    fun x h => by unfold decode30; rw [h]; rfl]
  refine chk_ok ?_ ?_
  · rw [fldN_packed rfl (lo := 14) (n := 4) (v := 0) rfl]; rfl
  · rw [fld_packed rfl (lo := 23) (n := 2) (v := p) rfl, fld_packed rfl (lo := 7) (n := 7) (v := t) rfl, fld_packed rfl (lo := 0) (n := 7) (v := u) rfl]
  all_goals exact fldN_packed rfl rfl

theorem vsra p t u : Statement (.vsra p t u) := by
  intro x hx
  obtain rfl := Option.some.inj hx
  rw [decodeWord_30 (fldN_packed rfl rfl), show ∀ x : Word32, fldN x 18 5 = 12 → decode30 x = chk (fldN x 14 4 == 0) (.vsra (fld x 23 2) (fld x 7 7) (fld x 0 7)) from
    fun x h => by unfold decode30; rw [h]; rfl]
  refine chk_ok ?_ ?_
  · rw [fldN_packed rfl (lo := 14) (n := 4) (v := 0) rfl]; rfl
  · rw [fld_packed rfl (lo := 23) (n := 2) (v := p) rfl, fld_packed rfl (lo := 7) (n := 7) (v := t) rfl, fld_packed rfl (lo := 0) (n := 7) (v := u) rfl]
  all_goals exact fldN_packed rfl rfl

theorem vadds p t u : Statement (.vadds p t u) := by
  intro x hx
  obtain rfl := Option.some.inj hx
  rw [decodeWord_30 (fldN_packed rfl rfl), show ∀ x : Word32, fldN x 18 5 = 13 → decode30 x = chk (fldN x 14 4 == 0) (.vadds (fld x 23 2) (fld x 7 7) (fld x 0 7)) from
    fun x h => by unfold decode30; rw [h]; rfl]
  refine chk_ok ?_ ?_
  · rw [fldN_packed rfl (lo := 14) (n := 4) (v := 0) rfl]; rfl
  · rw [fld_packed rfl (lo := 23) (n := 2) (v := p) rfl, fld_packed rfl (lo := 7) (n := 7) (v := t) rfl, fld_packed rfl (lo := 0) (n := 7) (v := u) rfl]
  all_goals exact fldN_packed rfl rfl

theorem vsubs p t u : Statement (.vsubs p t u) := by
  intro x hx
  obtain rfl := Option.some.inj hx
  rw [decodeWord_30 (fldN_packed rfl rfl), show ∀ x : Word32, fldN x 18 5 = 14 → decode30 x = chk (fldN x 14 4 == 0) (.vsubs (fld x 23 2) (fld x 7 7) (fld x 0 7)) from
    fun x h => by unfold decode30; rw [h]; rfl]
  refine chk_ok ?_ ?_
  · rw [fldN_packed rfl (lo := 14) (n := 4) (v := 0) rfl]; rfl
  · rw [fld_packed rfl (lo := 23) (n := 2) (v := p) rfl, fld_packed rfl (lo := 7) (n := 7) (v := t) rfl, fld_packed rfl (lo := 0) (n := 7) (v := u) rfl]
  all_goals exact fldN_packed rfl rfl

theorem vfma t u : Statement (.vfma t u) := by
  intro x hx
  obtain rfl := Option.some.inj hx
  rw [decodeWord_31 (fldN_packed rfl rfl), show ∀ x : Word32, fldN x 18 5 = 0 → decode31 x = chk (fldN x 14 4 == 0 && fldN x 23 2 == 0) (.vfma (fld x 7 7) (fld x 0 7)) from
    fun x h => by unfold decode31; rw [h]; rfl]
  refine chk_ok ?_ ?_
  · rw [fldN_packed rfl (lo := 14) (n := 4) (v := 0) rfl, fldN_packed rfl (lo := 23) (n := 2) (v := 0) rfl]; rfl
  · rw [fld_packed rfl (lo := 7) (n := 7) (v := t) rfl, fld_packed rfl (lo := 0) (n := 7) (v := u) rfl]
  all_goals exact fldN_packed rfl rfl

theorem vfms t u : Statement (.vfms t u) := by
  intro x hx
  obtain rfl := Option.some.inj hx
  rw [decodeWord_31 (fldN_packed rfl rfl), show ∀ x : Word32, fldN x 18 5 = 1 → decode31 x = chk (fldN x 14 4 == 0 && fldN x 23 2 == 0) (.vfms (fld x 7 7) (fld x 0 7)) from
    fun x h => by unfold decode31; rw [h]; rfl]
  refine chk_ok ?_ ?_
  · rw [fldN_packed rfl (lo := 14) (n := 4) (v := 0) rfl, fldN_packed rfl (lo := 23) (n := 2) (v := 0) rfl]; rfl
  · rw [fld_packed rfl (lo := 7) (n := 7) (v := t) rfl, fld_packed rfl (lo := 0) (n := 7) (v := u) rfl]
  all_goals exact fldN_packed rfl rfl

theorem vfnma t u : Statement (.vfnma t u) := by
  intro x hx
  obtain rfl := Option.some.inj hx
  rw [decodeWord_31 (fldN_packed rfl rfl), show ∀ x : Word32, fldN x 18 5 = 2 → decode31 x = chk (fldN x 14 4 == 0 && fldN x 23 2 == 0) (.vfnma (fld x 7 7) (fld x 0 7)) from
    fun x h => by unfold decode31; rw [h]; rfl]
  refine chk_ok ?_ ?_
  · rw [fldN_packed rfl (lo := 14) (n := 4) (v := 0) rfl, fldN_packed rfl (lo := 23) (n := 2) (v := 0) rfl]; rfl
  · rw [fld_packed rfl (lo := 7) (n := 7) (v := t) rfl, fld_packed rfl (lo := 0) (n := 7) (v := u) rfl]
  all_goals exact fldN_packed rfl rfl

theorem vceq p t u : Statement (.vceq p t u) := by
  intro x hx
  obtain rfl := Option.some.inj hx
  rw [decodeWord_32 (fldN_packed rfl rfl), show ∀ x : Word32, fldN x 18 5 = 0 → decode32 x = chk (fldN x 14 4 == 0) (.vceq (fld x 23 2) (fld x 7 7) (fld x 0 7)) from
    fun x h => by unfold decode32; rw [h]; rfl]
  refine chk_ok ?_ ?_
  · rw [fldN_packed rfl (lo := 14) (n := 4) (v := 0) rfl]; rfl
  · rw [fld_packed rfl (lo := 23) (n := 2) (v := p) rfl, fld_packed rfl (lo := 7) (n := 7) (v := t) rfl, fld_packed rfl (lo := 0) (n := 7) (v := u) rfl]
  all_goals exact fldN_packed rfl rfl

theorem vcne p t u : Statement (.vcne p t u) := by
  intro x hx
  obtain rfl := Option.some.inj hx
  rw [decodeWord_32 (fldN_packed rfl rfl), show ∀ x : Word32, fldN x 18 5 = 1 → decode32 x = chk (fldN x 14 4 == 0) (.vcne (fld x 23 2) (fld x 7 7) (fld x 0 7)) from
    fun x h => by unfold decode32; rw [h]; rfl]
  refine chk_ok ?_ ?_
  · rw [fldN_packed rfl (lo := 14) (n := 4) (v := 0) rfl]; rfl
  · rw [fld_packed rfl (lo := 23) (n := 2) (v := p) rfl, fld_packed rfl (lo := 7) (n := 7) (v := t) rfl, fld_packed rfl (lo := 0) (n := 7) (v := u) rfl]
  all_goals exact fldN_packed rfl rfl

theorem vclt p t u : Statement (.vclt p t u) := by
  intro x hx
  obtain rfl := Option.some.inj hx
  rw [decodeWord_32 (fldN_packed rfl rfl), show ∀ x : Word32, fldN x 18 5 = 2 → decode32 x = chk (fldN x 14 4 == 0) (.vclt (fld x 23 2) (fld x 7 7) (fld x 0 7)) from
    fun x h => by unfold decode32; rw [h]; rfl]
  refine chk_ok ?_ ?_
  · rw [fldN_packed rfl (lo := 14) (n := 4) (v := 0) rfl]; rfl
  · rw [fld_packed rfl (lo := 23) (n := 2) (v := p) rfl, fld_packed rfl (lo := 7) (n := 7) (v := t) rfl, fld_packed rfl (lo := 0) (n := 7) (v := u) rfl]
  all_goals exact fldN_packed rfl rfl

theorem vcle p t u : Statement (.vcle p t u) := by
  intro x hx
  obtain rfl := Option.some.inj hx
  rw [decodeWord_32 (fldN_packed rfl rfl), show ∀ x : Word32, fldN x 18 5 = 3 → decode32 x = chk (fldN x 14 4 == 0) (.vcle (fld x 23 2) (fld x 7 7) (fld x 0 7)) from
    fun x h => by unfold decode32; rw [h]; rfl]
  refine chk_ok ?_ ?_
  · rw [fldN_packed rfl (lo := 14) (n := 4) (v := 0) rfl]; rfl
  · rw [fld_packed rfl (lo := 23) (n := 2) (v := p) rfl, fld_packed rfl (lo := 7) (n := 7) (v := t) rfl, fld_packed rfl (lo := 0) (n := 7) (v := u) rfl]
  all_goals exact fldN_packed rfl rfl

theorem vcgt p t u : Statement (.vcgt p t u) := by
  intro x hx
  obtain rfl := Option.some.inj hx
  rw [decodeWord_32 (fldN_packed rfl rfl), show ∀ x : Word32, fldN x 18 5 = 4 → decode32 x = chk (fldN x 14 4 == 0) (.vcgt (fld x 23 2) (fld x 7 7) (fld x 0 7)) from
    fun x h => by unfold decode32; rw [h]; rfl]
  refine chk_ok ?_ ?_
  · rw [fldN_packed rfl (lo := 14) (n := 4) (v := 0) rfl]; rfl
  · rw [fld_packed rfl (lo := 23) (n := 2) (v := p) rfl, fld_packed rfl (lo := 7) (n := 7) (v := t) rfl, fld_packed rfl (lo := 0) (n := 7) (v := u) rfl]
  all_goals exact fldN_packed rfl rfl

theorem vcge p t u : Statement (.vcge p t u) := by
  intro x hx
  obtain rfl := Option.some.inj hx
  rw [decodeWord_32 (fldN_packed rfl rfl), show ∀ x : Word32, fldN x 18 5 = 5 → decode32 x = chk (fldN x 14 4 == 0) (.vcge (fld x 23 2) (fld x 7 7) (fld x 0 7)) from
    fun x h => by unfold decode32; rw [h]; rfl]
  refine chk_ok ?_ ?_
  · rw [fldN_packed rfl (lo := 14) (n := 4) (v := 0) rfl]; rfl
  · rw [fld_packed rfl (lo := 23) (n := 2) (v := p) rfl, fld_packed rfl (lo := 7) (n := 7) (v := t) rfl, fld_packed rfl (lo := 0) (n := 7) (v := u) rfl]
  all_goals exact fldN_packed rfl rfl

theorem vsel t u : Statement (.vsel t u) := by
  intro x hx
  obtain rfl := Option.some.inj hx
  rw [decodeWord_33 (fldN_packed rfl rfl), show ∀ x : Word32, fldN x 18 5 = 0 → decode33 x = chk (fldN x 14 4 == 0 && fldN x 23 2 == 0) (.vsel (fld x 7 7) (fld x 0 7)) from
    fun x h => by unfold decode33; rw [h]; rfl]
  refine chk_ok ?_ ?_
  · rw [fldN_packed rfl (lo := 14) (n := 4) (v := 0) rfl, fldN_packed rfl (lo := 23) (n := 2) (v := 0) rfl]; rfl
  · rw [fld_packed rfl (lo := 7) (n := 7) (v := t) rfl, fld_packed rfl (lo := 0) (n := 7) (v := u) rfl]
  all_goals exact fldN_packed rfl rfl

theorem vrcp p t u : Statement (.vrcp p t u) := by
  intro x hx
  obtain rfl := Option.some.inj hx
  rw [decodeWord_34 (fldN_packed rfl rfl), show ∀ x : Word32, fldN x 18 5 = 0 → decode34 x = chk (fldN x 14 4 == 0) (.vrcp (fld x 23 2) (fld x 7 7) (fld x 0 7)) from
    fun x h => by unfold decode34; rw [h]; rfl]
  refine chk_ok ?_ ?_
  · rw [fldN_packed rfl (lo := 14) (n := 4) (v := 0) rfl]; rfl
  · rw [fld_packed rfl (lo := 23) (n := 2) (v := p) rfl, fld_packed rfl (lo := 7) (n := 7) (v := t) rfl, fld_packed rfl (lo := 0) (n := 7) (v := u) rfl]
  all_goals exact fldN_packed rfl rfl

theorem vrsq p t u : Statement (.vrsq p t u) := by
  intro x hx
  obtain rfl := Option.some.inj hx
  rw [decodeWord_34 (fldN_packed rfl rfl), show ∀ x : Word32, fldN x 18 5 = 1 → decode34 x = chk (fldN x 14 4 == 0) (.vrsq (fld x 23 2) (fld x 7 7) (fld x 0 7)) from
    fun x h => by unfold decode34; rw [h]; rfl]
  refine chk_ok ?_ ?_
  · rw [fldN_packed rfl (lo := 14) (n := 4) (v := 0) rfl]; rfl
  · rw [fld_packed rfl (lo := 23) (n := 2) (v := p) rfl, fld_packed rfl (lo := 7) (n := 7) (v := t) rfl, fld_packed rfl (lo := 0) (n := 7) (v := u) rfl]
  all_goals exact fldN_packed rfl rfl

theorem vsqrt p t u : Statement (.vsqrt p t u) := by
  intro x hx
  obtain rfl := Option.some.inj hx
  rw [decodeWord_34 (fldN_packed rfl rfl), show ∀ x : Word32, fldN x 18 5 = 2 → decode34 x = chk (fldN x 14 4 == 0) (.vsqrt (fld x 23 2) (fld x 7 7) (fld x 0 7)) from
    fun x h => by unfold decode34; rw [h]; rfl]
  refine chk_ok ?_ ?_
  · rw [fldN_packed rfl (lo := 14) (n := 4) (v := 0) rfl]; rfl
  · rw [fld_packed rfl (lo := 23) (n := 2) (v := p) rfl, fld_packed rfl (lo := 7) (n := 7) (v := t) rfl, fld_packed rfl (lo := 0) (n := 7) (v := u) rfl]
  all_goals exact fldN_packed rfl rfl

theorem vexp2 p t u : Statement (.vexp2 p t u) := by
  intro x hx
  obtain rfl := Option.some.inj hx
  rw [decodeWord_34 (fldN_packed rfl rfl), show ∀ x : Word32, fldN x 18 5 = 3 → decode34 x = chk (fldN x 14 4 == 0) (.vexp2 (fld x 23 2) (fld x 7 7) (fld x 0 7)) from
    fun x h => by unfold decode34; rw [h]; rfl]
  refine chk_ok ?_ ?_
  · rw [fldN_packed rfl (lo := 14) (n := 4) (v := 0) rfl]; rfl
  · rw [fld_packed rfl (lo := 23) (n := 2) (v := p) rfl, fld_packed rfl (lo := 7) (n := 7) (v := t) rfl, fld_packed rfl (lo := 0) (n := 7) (v := u) rfl]
  all_goals exact fldN_packed rfl rfl

theorem vlog2 p t u : Statement (.vlog2 p t u) := by
  intro x hx
  obtain rfl := Option.some.inj hx
  rw [decodeWord_34 (fldN_packed rfl rfl), show ∀ x : Word32, fldN x 18 5 = 4 → decode34 x = chk (fldN x 14 4 == 0) (.vlog2 (fld x 23 2) (fld x 7 7) (fld x 0 7)) from
    fun x h => by unfold decode34; rw [h]; rfl]
  refine chk_ok ?_ ?_
  · rw [fldN_packed rfl (lo := 14) (n := 4) (v := 0) rfl]; rfl
  · rw [fld_packed rfl (lo := 23) (n := 2) (v := p) rfl, fld_packed rfl (lo := 7) (n := 7) (v := t) rfl, fld_packed rfl (lo := 0) (n := 7) (v := u) rfl]
  all_goals exact fldN_packed rfl rfl

theorem vtanh p t u : Statement (.vtanh p t u) := by
  intro x hx
  obtain rfl := Option.some.inj hx
  rw [decodeWord_34 (fldN_packed rfl rfl), show ∀ x : Word32, fldN x 18 5 = 5 → decode34 x = chk (fldN x 14 4 == 0) (.vtanh (fld x 23 2) (fld x 7 7) (fld x 0 7)) from
    fun x h => by unfold decode34; rw [h]; rfl]
  refine chk_ok ?_ ?_
  · rw [fldN_packed rfl (lo := 14) (n := 4) (v := 0) rfl]; rfl
  · rw [fld_packed rfl (lo := 23) (n := 2) (v := p) rfl, fld_packed rfl (lo := 7) (n := 7) (v := t) rfl, fld_packed rfl (lo := 0) (n := 7) (v := u) rfl]
  all_goals exact fldN_packed rfl rfl

theorem vrsum p t u : Statement (.vrsum p t u) := by
  intro x hx
  obtain rfl := Option.some.inj hx
  rw [decodeWord_35 (fldN_packed rfl rfl), show ∀ x : Word32, fldN x 18 5 = 0 → decode35 x = chk (fldN x 14 4 == 0) (.vrsum (fld x 23 2) (fld x 7 7) (fld x 0 7)) from
    fun x h => by unfold decode35; rw [h]; rfl]
  refine chk_ok ?_ ?_
  · rw [fldN_packed rfl (lo := 14) (n := 4) (v := 0) rfl]; rfl
  · rw [fld_packed rfl (lo := 23) (n := 2) (v := p) rfl, fld_packed rfl (lo := 7) (n := 7) (v := t) rfl, fld_packed rfl (lo := 0) (n := 7) (v := u) rfl]
  all_goals exact fldN_packed rfl rfl

theorem vrmax p t u : Statement (.vrmax p t u) := by
  intro x hx
  obtain rfl := Option.some.inj hx
  rw [decodeWord_35 (fldN_packed rfl rfl), show ∀ x : Word32, fldN x 18 5 = 1 → decode35 x = chk (fldN x 14 4 == 0) (.vrmax (fld x 23 2) (fld x 7 7) (fld x 0 7)) from
    fun x h => by unfold decode35; rw [h]; rfl]
  refine chk_ok ?_ ?_
  · rw [fldN_packed rfl (lo := 14) (n := 4) (v := 0) rfl]; rfl
  · rw [fld_packed rfl (lo := 23) (n := 2) (v := p) rfl, fld_packed rfl (lo := 7) (n := 7) (v := t) rfl, fld_packed rfl (lo := 0) (n := 7) (v := u) rfl]
  all_goals exact fldN_packed rfl rfl

theorem vrmin p t u : Statement (.vrmin p t u) := by
  intro x hx
  obtain rfl := Option.some.inj hx
  rw [decodeWord_35 (fldN_packed rfl rfl), show ∀ x : Word32, fldN x 18 5 = 2 → decode35 x = chk (fldN x 14 4 == 0) (.vrmin (fld x 23 2) (fld x 7 7) (fld x 0 7)) from
    fun x h => by unfold decode35; rw [h]; rfl]
  refine chk_ok ?_ ?_
  · rw [fldN_packed rfl (lo := 14) (n := 4) (v := 0) rfl]; rfl
  · rw [fld_packed rfl (lo := 23) (n := 2) (v := p) rfl, fld_packed rfl (lo := 7) (n := 7) (v := t) rfl, fld_packed rfl (lo := 0) (n := 7) (v := u) rfl]
  all_goals exact fldN_packed rfl rfl

theorem vbcast p g t u : Statement (.vbcast p g t u) := by
  intro x hx
  obtain rfl := Option.some.inj hx
  rw [decodeWord_36 (fldN_packed rfl rfl), show ∀ x : Word32, fldN x 18 5 = 0 → decode36 x = .ok (.vbcast (fld x 23 2) (fld x 14 4) (fld x 7 7) (fld x 0 7)) from
    fun x h => by unfold decode36; rw [h]; rfl]
  refine congrArg Except.ok ?_
  · rw [fld_packed rfl (lo := 23) (n := 2) (v := p) rfl, fld_packed rfl (lo := 14) (n := 4) (v := g) rfl, fld_packed rfl (lo := 7) (n := 7) (v := t) rfl, fld_packed rfl (lo := 0) (n := 7) (v := u) rfl]
  all_goals exact fldN_packed rfl rfl

theorem vext p t u : Statement (.vext p t u) := by
  intro x hx
  obtain rfl := Option.some.inj hx
  rw [decodeWord_36 (fldN_packed rfl rfl), show ∀ x : Word32, fldN x 18 5 = 1 → decode36 x = chk (fldN x 14 4 == 0) (.vext (fld x 23 2) (fld x 7 7) (fld x 0 7)) from
    fun x h => by unfold decode36; rw [h]; rfl]
  refine chk_ok ?_ ?_
  · rw [fldN_packed rfl (lo := 14) (n := 4) (v := 0) rfl]; rfl
  · rw [fld_packed rfl (lo := 23) (n := 2) (v := p) rfl, fld_packed rfl (lo := 7) (n := 7) (v := t) rfl, fld_packed rfl (lo := 0) (n := 7) (v := u) rfl]
  all_goals exact fldN_packed rfl rfl

theorem vins t u : Statement (.vins t u) := by
  intro x hx
  obtain rfl := Option.some.inj hx
  rw [decodeWord_36 (fldN_packed rfl rfl), show ∀ x : Word32, fldN x 18 5 = 2 → decode36 x = chk (fldN x 14 4 == 0 && fldN x 23 2 == 0) (.vins (fld x 7 7) (fld x 0 7)) from
    fun x h => by unfold decode36; rw [h]; rfl]
  refine chk_ok ?_ ?_
  · rw [fldN_packed rfl (lo := 14) (n := 4) (v := 0) rfl, fldN_packed rfl (lo := 23) (n := 2) (v := 0) rfl]; rfl
  · rw [fld_packed rfl (lo := 7) (n := 7) (v := t) rfl, fld_packed rfl (lo := 0) (n := 7) (v := u) rfl]
  all_goals exact fldN_packed rfl rfl

theorem vperm p t u : Statement (.vperm p t u) := by
  intro x hx
  obtain rfl := Option.some.inj hx
  rw [decodeWord_36 (fldN_packed rfl rfl), show ∀ x : Word32, fldN x 18 5 = 3 → decode36 x = chk (fldN x 14 4 == 0) (.vperm (fld x 23 2) (fld x 7 7) (fld x 0 7)) from
    fun x h => by unfold decode36; rw [h]; rfl]
  refine chk_ok ?_ ?_
  · rw [fldN_packed rfl (lo := 14) (n := 4) (v := 0) rfl]; rfl
  · rw [fld_packed rfl (lo := 23) (n := 2) (v := p) rfl, fld_packed rfl (lo := 7) (n := 7) (v := t) rfl, fld_packed rfl (lo := 0) (n := 7) (v := u) rfl]
  all_goals exact fldN_packed rfl rfl

theorem vrot p t u : Statement (.vrot p t u) := by
  intro x hx
  obtain rfl := Option.some.inj hx
  rw [decodeWord_36 (fldN_packed rfl rfl), show ∀ x : Word32, fldN x 18 5 = 4 → decode36 x = chk (fldN x 14 4 == 0) (.vrot (fld x 23 2) (fld x 7 7) (fld x 0 7)) from
    fun x h => by unfold decode36; rw [h]; rfl]
  refine chk_ok ?_ ?_
  · rw [fldN_packed rfl (lo := 14) (n := 4) (v := 0) rfl]; rfl
  · rw [fld_packed rfl (lo := 23) (n := 2) (v := p) rfl, fld_packed rfl (lo := 7) (n := 7) (v := t) rfl, fld_packed rfl (lo := 0) (n := 7) (v := u) rfl]
  all_goals exact fldN_packed rfl rfl

theorem viota p g t u : Statement (.viota p g t u) := by
  intro x hx
  obtain rfl := Option.some.inj hx
  rw [decodeWord_36 (fldN_packed rfl rfl), show ∀ x : Word32, fldN x 18 5 = 5 → decode36 x = .ok (.viota (fld x 23 2) (fld x 14 4) (fld x 7 7) (fld x 0 7)) from
    fun x h => by unfold decode36; rw [h]; rfl]
  refine congrArg Except.ok ?_
  · rw [fld_packed rfl (lo := 23) (n := 2) (v := p) rfl, fld_packed rfl (lo := 14) (n := 4) (v := g) rfl, fld_packed rfl (lo := 7) (n := 7) (v := t) rfl, fld_packed rfl (lo := 0) (n := 7) (v := u) rfl]
  all_goals exact fldN_packed rfl rfl

theorem vpsum p t u : Statement (.vpsum p t u) := by
  intro x hx
  obtain rfl := Option.some.inj hx
  rw [decodeWord_36 (fldN_packed rfl rfl), show ∀ x : Word32, fldN x 18 5 = 6 → decode36 x = chk (fldN x 14 4 == 0) (.vpsum (fld x 23 2) (fld x 7 7) (fld x 0 7)) from
    fun x h => by unfold decode36; rw [h]; rfl]
  refine chk_ok ?_ ?_
  · rw [fldN_packed rfl (lo := 14) (n := 4) (v := 0) rfl]; rfl
  · rw [fld_packed rfl (lo := 23) (n := 2) (v := p) rfl, fld_packed rfl (lo := 7) (n := 7) (v := t) rfl, fld_packed rfl (lo := 0) (n := 7) (v := u) rfl]
  all_goals exact fldN_packed rfl rfl

theorem vcvt p g t u : Statement (.vcvt p g t u) := by
  intro x hx
  obtain rfl := Option.some.inj hx
  rw [decodeWord_37 (fldN_packed rfl rfl), show ∀ x : Word32, fldN x 18 5 = 0 → decode37 x = .ok (.vcvt (fld x 23 2) (fld x 14 4) (fld x 7 7) (fld x 0 7)) from
    fun x h => by unfold decode37; rw [h]; rfl]
  refine congrArg Except.ok ?_
  · rw [fld_packed rfl (lo := 23) (n := 2) (v := p) rfl, fld_packed rfl (lo := 14) (n := 4) (v := g) rfl, fld_packed rfl (lo := 7) (n := 7) (v := t) rfl, fld_packed rfl (lo := 0) (n := 7) (v := u) rfl]
  all_goals exact fldN_packed rfl rfl

theorem vqnt b t u : Statement (.vqnt b t u) := by
  intro x hx
  obtain rfl := Option.some.inj hx
  rw [decodeWord_37 (fldN_packed rfl rfl), show ∀ x : Word32, fldN x 18 5 = 1 → decode37 x = chk (fldN x 17 1 == 0 && fldN x 23 2 == 0) (.vqnt (fld x 14 3) (fld x 7 7) (fld x 0 7)) from
    fun x h => by unfold decode37; rw [h]; rfl]
  refine chk_ok ?_ ?_
  · rw [fldN_packed rfl (lo := 17) (n := 1) (v := 0) rfl, fldN_packed rfl (lo := 23) (n := 2) (v := 0) rfl]; rfl
  · rw [fld_packed rfl (lo := 14) (n := 3) (v := b) rfl, fld_packed rfl (lo := 7) (n := 7) (v := t) rfl, fld_packed rfl (lo := 0) (n := 7) (v := u) rfl]
  all_goals exact fldN_packed rfl rfl

theorem vdqnt f b t u : Statement (.vdqnt f b t u) := by
  intro x hx
  obtain rfl := Option.some.inj hx
  rw [decodeWord_37 (fldN_packed rfl rfl), show ∀ x : Word32, fldN x 18 5 = 2 → decode37 x = chk (fldN x 23 2 == 0) (.vdqnt (fld x 17 1) (fld x 14 3) (fld x 7 7) (fld x 0 7)) from
    fun x h => by unfold decode37; rw [h]; rfl]
  refine chk_ok ?_ ?_
  · rw [fldN_packed rfl (lo := 23) (n := 2) (v := 0) rfl]; rfl
  · rw [fld_packed rfl (lo := 17) (n := 1) (v := f) rfl, fld_packed rfl (lo := 14) (n := 3) (v := b) rfl, fld_packed rfl (lo := 7) (n := 7) (v := t) rfl, fld_packed rfl (lo := 0) (n := 7) (v := u) rfl]
  all_goals exact fldN_packed rfl rfl

theorem vpack p g t u : Statement (.vpack p g t u) := by
  intro x hx
  obtain rfl := Option.some.inj hx
  rw [decodeWord_37 (fldN_packed rfl rfl), show ∀ x : Word32, fldN x 18 5 = 3 → decode37 x = .ok (.vpack (fld x 23 2) (fld x 14 4) (fld x 7 7) (fld x 0 7)) from
    fun x h => by unfold decode37; rw [h]; rfl]
  refine congrArg Except.ok ?_
  · rw [fld_packed rfl (lo := 23) (n := 2) (v := p) rfl, fld_packed rfl (lo := 14) (n := 4) (v := g) rfl, fld_packed rfl (lo := 7) (n := 7) (v := t) rfl, fld_packed rfl (lo := 0) (n := 7) (v := u) rfl]
  all_goals exact fldN_packed rfl rfl

theorem vunpk p f h q t u : Statement (.vunpk p f h q t u) := by
  intro x hx
  obtain rfl := Option.some.inj hx
  rw [decodeWord_37 (fldN_packed rfl rfl), show ∀ x : Word32, fldN x 18 5 = 4 → decode37 x = .ok (.vunpk (fld x 23 2) (fld x 17 1) (fld x 16 1) (fld x 14 2) (fld x 7 7) (fld x 0 7)) from
    fun x h => by unfold decode37; rw [h]; rfl]
  refine congrArg Except.ok ?_
  · rw [fld_packed rfl (lo := 23) (n := 2) (v := p) rfl, fld_packed rfl (lo := 17) (n := 1) (v := f) rfl, fld_packed rfl (lo := 16) (n := 1) (v := h) rfl, fld_packed rfl (lo := 14) (n := 2) (v := q) rfl, fld_packed rfl (lo := 7) (n := 7) (v := t) rfl, fld_packed rfl (lo := 0) (n := 7) (v := u) rfl]
  all_goals exact fldN_packed rfl rfl

theorem vretag p g t u : Statement (.vretag p g t u) := by
  intro x hx
  obtain rfl := Option.some.inj hx
  rw [decodeWord_37 (fldN_packed rfl rfl), show ∀ x : Word32, fldN x 18 5 = 5 → decode37 x = .ok (.vretag (fld x 23 2) (fld x 14 4) (fld x 7 7) (fld x 0 7)) from
    fun x h => by unfold decode37; rw [h]; rfl]
  refine congrArg Except.ok ?_
  · rw [fld_packed rfl (lo := 23) (n := 2) (v := p) rfl, fld_packed rfl (lo := 14) (n := 4) (v := g) rfl, fld_packed rfl (lo := 7) (n := 7) (v := t) rfl, fld_packed rfl (lo := 0) (n := 7) (v := u) rfl]
  all_goals exact fldN_packed rfl rfl

theorem mand p t u : Statement (.mand p t u) := by
  intro x hx
  obtain rfl := Option.some.inj hx
  rw [decodeWord_38 (fldN_packed rfl rfl), show ∀ x : Word32, fldN x 18 5 = 0 → decode38 x = chk (fldN x 14 4 == 0) (.mand (fld x 23 2) (fld x 7 7) (fld x 0 7)) from
    fun x h => by unfold decode38; rw [h]; rfl]
  refine chk_ok ?_ ?_
  · rw [fldN_packed rfl (lo := 14) (n := 4) (v := 0) rfl]; rfl
  · rw [fld_packed rfl (lo := 23) (n := 2) (v := p) rfl, fld_packed rfl (lo := 7) (n := 7) (v := t) rfl, fld_packed rfl (lo := 0) (n := 7) (v := u) rfl]
  all_goals exact fldN_packed rfl rfl

theorem mor p t u : Statement (.mor p t u) := by
  intro x hx
  obtain rfl := Option.some.inj hx
  rw [decodeWord_38 (fldN_packed rfl rfl), show ∀ x : Word32, fldN x 18 5 = 1 → decode38 x = chk (fldN x 14 4 == 0) (.mor (fld x 23 2) (fld x 7 7) (fld x 0 7)) from
    fun x h => by unfold decode38; rw [h]; rfl]
  refine chk_ok ?_ ?_
  · rw [fldN_packed rfl (lo := 14) (n := 4) (v := 0) rfl]; rfl
  · rw [fld_packed rfl (lo := 23) (n := 2) (v := p) rfl, fld_packed rfl (lo := 7) (n := 7) (v := t) rfl, fld_packed rfl (lo := 0) (n := 7) (v := u) rfl]
  all_goals exact fldN_packed rfl rfl

theorem mxor p t u : Statement (.mxor p t u) := by
  intro x hx
  obtain rfl := Option.some.inj hx
  rw [decodeWord_38 (fldN_packed rfl rfl), show ∀ x : Word32, fldN x 18 5 = 2 → decode38 x = chk (fldN x 14 4 == 0) (.mxor (fld x 23 2) (fld x 7 7) (fld x 0 7)) from
    fun x h => by unfold decode38; rw [h]; rfl]
  refine chk_ok ?_ ?_
  · rw [fldN_packed rfl (lo := 14) (n := 4) (v := 0) rfl]; rfl
  · rw [fld_packed rfl (lo := 23) (n := 2) (v := p) rfl, fld_packed rfl (lo := 7) (n := 7) (v := t) rfl, fld_packed rfl (lo := 0) (n := 7) (v := u) rfl]
  all_goals exact fldN_packed rfl rfl

theorem mnot p t u : Statement (.mnot p t u) := by
  intro x hx
  obtain rfl := Option.some.inj hx
  rw [decodeWord_38 (fldN_packed rfl rfl), show ∀ x : Word32, fldN x 18 5 = 3 → decode38 x = chk (fldN x 14 4 == 0) (.mnot (fld x 23 2) (fld x 7 7) (fld x 0 7)) from
    fun x h => by unfold decode38; rw [h]; rfl]
  refine chk_ok ?_ ?_
  · rw [fldN_packed rfl (lo := 14) (n := 4) (v := 0) rfl]; rfl
  · rw [fld_packed rfl (lo := 23) (n := 2) (v := p) rfl, fld_packed rfl (lo := 7) (n := 7) (v := t) rfl, fld_packed rfl (lo := 0) (n := 7) (v := u) rfl]
  all_goals exact fldN_packed rfl rfl

theorem mpop p t u : Statement (.mpop p t u) := by
  intro x hx
  obtain rfl := Option.some.inj hx
  rw [decodeWord_38 (fldN_packed rfl rfl), show ∀ x : Word32, fldN x 18 5 = 4 → decode38 x = chk (fldN x 14 4 == 0) (.mpop (fld x 23 2) (fld x 7 7) (fld x 0 7)) from
    fun x h => by unfold decode38; rw [h]; rfl]
  refine chk_ok ?_ ?_
  · rw [fldN_packed rfl (lo := 14) (n := 4) (v := 0) rfl]; rfl
  · rw [fld_packed rfl (lo := 23) (n := 2) (v := p) rfl, fld_packed rfl (lo := 7) (n := 7) (v := t) rfl, fld_packed rfl (lo := 0) (n := 7) (v := u) rfl]
  all_goals exact fldN_packed rfl rfl

theorem mfirst p t u : Statement (.mfirst p t u) := by
  intro x hx
  obtain rfl := Option.some.inj hx
  rw [decodeWord_38 (fldN_packed rfl rfl), show ∀ x : Word32, fldN x 18 5 = 5 → decode38 x = chk (fldN x 14 4 == 0) (.mfirst (fld x 23 2) (fld x 7 7) (fld x 0 7)) from
    fun x h => by unfold decode38; rw [h]; rfl]
  refine chk_ok ?_ ?_
  · rw [fldN_packed rfl (lo := 14) (n := 4) (v := 0) rfl]; rfl
  · rw [fld_packed rfl (lo := 23) (n := 2) (v := p) rfl, fld_packed rfl (lo := 7) (n := 7) (v := t) rfl, fld_packed rfl (lo := 0) (n := 7) (v := u) rfl]
  all_goals exact fldN_packed rfl rfl

theorem gset p l g t : Statement (.gset p l g t) := by
  intro x hx
  obtain rfl := Option.some.inj hx
  rw [decodeWord_40 (fldN_packed rfl rfl), show ∀ x : Word32, fldN x 13 5 = 0 → decode40 x = chk (fldN x 10 3 == 0) (.gset (fld x 23 2) (fld x 18 5) (fld x 7 3) (fld x 0 7)) from
    fun x h => by unfold decode40; rw [h]; rfl]
  refine chk_ok ?_ ?_
  · rw [fldN_packed rfl (lo := 10) (n := 3) (v := 0) rfl]; rfl
  · rw [fld_packed rfl (lo := 23) (n := 2) (v := p) rfl, fld_packed rfl (lo := 18) (n := 5) (v := l) rfl, fld_packed rfl (lo := 7) (n := 3) (v := g) rfl, fld_packed rfl (lo := 0) (n := 7) (v := t) rfl]
  all_goals exact fldN_packed rfl rfl

theorem sbind p l n : Statement (.sbind p l n) := by
  intro x hx
  obtain rfl := Option.some.inj hx
  rw [decodeWord_40 (fldN_packed rfl rfl), show ∀ x : Word32, fldN x 13 5 = 1 → decode40 x = chk (fldN x 0 7 == 127 && fldN x 10 3 == 0) (.sbind (fld x 23 2) (fld x 18 5) (fld x 7 3)) from
    fun x h => by unfold decode40; rw [h]; rfl]
  refine chk_ok ?_ ?_
  · rw [fldN_packed rfl (lo := 0) (n := 7) (v := 127) rfl, fldN_packed rfl (lo := 10) (n := 3) (v := 0) rfl]; rfl
  · rw [fld_packed rfl (lo := 23) (n := 2) (v := p) rfl, fld_packed rfl (lo := 18) (n := 5) (v := l) rfl, fld_packed rfl (lo := 7) (n := 3) (v := n) rfl]
  all_goals exact fldN_packed rfl rfl

theorem csetg p l c : Statement (.csetg p l c) := by
  intro x hx
  obtain rfl := Option.some.inj hx
  rw [decodeWord_40 (fldN_packed rfl rfl), show ∀ x : Word32, fldN x 13 5 = 2 → decode40 x = chk (fldN x 0 7 == 127 && fldN x 11 2 == 0) (.csetg (fld x 23 2) (fld x 18 5) (fld x 7 4)) from
    fun x h => by unfold decode40; rw [h]; rfl]
  refine chk_ok ?_ ?_
  · rw [fldN_packed rfl (lo := 0) (n := 7) (v := 127) rfl, fldN_packed rfl (lo := 11) (n := 2) (v := 0) rfl]; rfl
  · rw [fld_packed rfl (lo := 23) (n := 2) (v := p) rfl, fld_packed rfl (lo := 18) (n := 5) (v := l) rfl, fld_packed rfl (lo := 7) (n := 4) (v := c) rfl]
  all_goals exact fldN_packed rfl rfl

theorem cpy p l d c t : Statement (.cpy p l d c t) := by
  intro x hx
  obtain rfl := Option.some.inj hx
  rw [decodeWord_40 (fldN_packed rfl rfl), show ∀ x : Word32, fldN x 13 5 = 3 → decode40 x = chk (fldN x 12 1 == 0) (.cpy (fld x 23 2) (fld x 18 5) (fld x 11 1) (fld x 7 4) (fld x 0 7)) from
    fun x h => by unfold decode40; rw [h]; rfl]
  refine chk_ok ?_ ?_
  · rw [fldN_packed rfl (lo := 12) (n := 1) (v := 0) rfl]; rfl
  · rw [fld_packed rfl (lo := 23) (n := 2) (v := p) rfl, fld_packed rfl (lo := 18) (n := 5) (v := l) rfl, fld_packed rfl (lo := 11) (n := 1) (v := d) rfl, fld_packed rfl (lo := 7) (n := 4) (v := c) rfl, fld_packed rfl (lo := 0) (n := 7) (v := t) rfl]
  all_goals exact fldN_packed rfl rfl

theorem cpyw p l c t : Statement (.cpyw p l c t) := by
  intro x hx
  obtain rfl := Option.some.inj hx
  rw [decodeWord_40 (fldN_packed rfl rfl), show ∀ x : Word32, fldN x 13 5 = 4 → decode40 x = chk (fldN x 11 2 == 0) (.cpyw (fld x 23 2) (fld x 18 5) (fld x 7 4) (fld x 0 7)) from
    fun x h => by unfold decode40; rw [h]; rfl]
  refine chk_ok ?_ ?_
  · rw [fldN_packed rfl (lo := 11) (n := 2) (v := 0) rfl]; rfl
  · rw [fld_packed rfl (lo := 23) (n := 2) (v := p) rfl, fld_packed rfl (lo := 18) (n := 5) (v := l) rfl, fld_packed rfl (lo := 7) (n := 4) (v := c) rfl, fld_packed rfl (lo := 0) (n := 7) (v := t) rfl]
  all_goals exact fldN_packed rfl rfl

theorem cpym p l c t : Statement (.cpym p l c t) := by
  intro x hx
  obtain rfl := Option.some.inj hx
  rw [decodeWord_40 (fldN_packed rfl rfl), show ∀ x : Word32, fldN x 13 5 = 5 → decode40 x = chk (fldN x 11 2 == 0) (.cpym (fld x 23 2) (fld x 18 5) (fld x 7 4) (fld x 0 7)) from
    fun x h => by unfold decode40; rw [h]; rfl]
  refine chk_ok ?_ ?_
  · rw [fldN_packed rfl (lo := 11) (n := 2) (v := 0) rfl]; rfl
  · rw [fld_packed rfl (lo := 23) (n := 2) (v := p) rfl, fld_packed rfl (lo := 18) (n := 5) (v := l) rfl, fld_packed rfl (lo := 7) (n := 4) (v := c) rfl, fld_packed rfl (lo := 0) (n := 7) (v := t) rfl]
  all_goals exact fldN_packed rfl rfl

theorem deal p l c t : Statement (.deal p l c t) := by
  intro x hx
  obtain rfl := Option.some.inj hx
  rw [decodeWord_40 (fldN_packed rfl rfl), show ∀ x : Word32, fldN x 13 5 = 6 → decode40 x = chk (fldN x 11 2 == 0) (.deal (fld x 23 2) (fld x 18 5) (fld x 7 4) (fld x 0 7)) from
    fun x h => by unfold decode40; rw [h]; rfl]
  refine chk_ok ?_ ?_
  · rw [fldN_packed rfl (lo := 11) (n := 2) (v := 0) rfl]; rfl
  · rw [fld_packed rfl (lo := 23) (n := 2) (v := p) rfl, fld_packed rfl (lo := 18) (n := 5) (v := l) rfl, fld_packed rfl (lo := 7) (n := 4) (v := c) rfl, fld_packed rfl (lo := 0) (n := 7) (v := t) rfl]
  all_goals exact fldN_packed rfl rfl

theorem cpyt p l n t : Statement (.cpyt p l n t) := by
  intro x hx
  obtain rfl := Option.some.inj hx
  rw [decodeWord_40 (fldN_packed rfl rfl), show ∀ x : Word32, fldN x 13 5 = 7 → fldN x 12 1 = 0 → decode40 x = .ok (.cpyt (fld x 23 2) (fld x 18 5) (fld x 7 5) (fld x 0 7)) from
    fun x h h2 => by unfold decode40; rw [h, h2]; rfl]
  refine congrArg Except.ok ?_
  · rw [fld_packed rfl (lo := 23) (n := 2) (v := p) rfl, fld_packed rfl (lo := 18) (n := 5) (v := l) rfl, fld_packed rfl (lo := 7) (n := 5) (v := n) rfl, fld_packed rfl (lo := 0) (n := 7) (v := t) rfl]
  all_goals exact fldN_packed rfl rfl

theorem cpytLand p l g t : Statement (.cpytLand p l g t) := by
  intro x hx
  obtain rfl := Option.some.inj hx
  rw [decodeWord_40 (fldN_packed rfl rfl), show ∀ x : Word32, fldN x 13 5 = 7 → fldN x 12 1 = 1 → decode40 x = chk (fldN x 11 1 == 0) (.cpytLand (fld x 23 2) (fld x 18 5) (fld x 7 4) (fld x 0 7)) from
    fun x h h2 => by unfold decode40; rw [h, h2]; rfl]
  refine chk_ok ?_ ?_
  · rw [fldN_packed rfl (lo := 11) (n := 1) (v := 0) rfl]; rfl
  · rw [fld_packed rfl (lo := 23) (n := 2) (v := p) rfl, fld_packed rfl (lo := 18) (n := 5) (v := l) rfl, fld_packed rfl (lo := 7) (n := 4) (v := g) rfl, fld_packed rfl (lo := 0) (n := 7) (v := t) rfl]
  all_goals exact fldN_packed rfl rfl

theorem twait p l e t : Statement (.twait p l e t) := by
  intro x hx
  obtain rfl := Option.some.inj hx
  rw [decodeWord_40 (fldN_packed rfl rfl), show ∀ x : Word32, fldN x 13 5 = 8 → decode40 x = chk (fldN x 9 4 == 0) (.twait (fld x 23 2) (fld x 18 5) (fld x 7 2) (fld x 0 7)) from
    fun x h => by unfold decode40; rw [h]; rfl]
  refine chk_ok ?_ ?_
  · rw [fldN_packed rfl (lo := 9) (n := 4) (v := 0) rfl]; rfl
  · rw [fld_packed rfl (lo := 23) (n := 2) (v := p) rfl, fld_packed rfl (lo := 18) (n := 5) (v := l) rfl, fld_packed rfl (lo := 7) (n := 2) (v := e) rfl, fld_packed rfl (lo := 0) (n := 7) (v := t) rfl]
  all_goals exact fldN_packed rfl rfl

theorem tread p l w e t : Statement (.tread p l w e t) := by
  intro x hx
  obtain rfl := Option.some.inj hx
  rw [decodeWord_40 (fldN_packed rfl rfl), show ∀ x : Word32, fldN x 13 5 = 9 → decode40 x = chk (fldN x 10 3 == 0) (.tread (fld x 23 2) (fld x 18 5) (fld x 9 1) (fld x 7 2) (fld x 0 7)) from
    fun x h => by unfold decode40; rw [h]; rfl]
  refine chk_ok ?_ ?_
  · rw [fldN_packed rfl (lo := 10) (n := 3) (v := 0) rfl]; rfl
  · rw [fld_packed rfl (lo := 23) (n := 2) (v := p) rfl, fld_packed rfl (lo := 18) (n := 5) (v := l) rfl, fld_packed rfl (lo := 9) (n := 1) (v := w) rfl, fld_packed rfl (lo := 7) (n := 2) (v := e) rfl, fld_packed rfl (lo := 0) (n := 7) (v := t) rfl]
  all_goals exact fldN_packed rfl rfl

theorem msetg p l g t : Statement (.msetg p l g t) := by
  intro x hx
  obtain rfl := Option.some.inj hx
  rw [decodeWord_41 (fldN_packed rfl rfl), show ∀ x : Word32, fldN x 13 5 = 0 → decode41 x = chk (fldN x 11 2 == 0) (.msetg (fld x 23 2) (fld x 18 5) (fld x 7 4) (fld x 0 7)) from
    fun x h => by unfold decode41; rw [h]; rfl]
  refine chk_ok ?_ ?_
  · rw [fldN_packed rfl (lo := 11) (n := 2) (v := 0) rfl]; rfl
  · rw [fld_packed rfl (lo := 23) (n := 2) (v := p) rfl, fld_packed rfl (lo := 18) (n := 5) (v := l) rfl, fld_packed rfl (lo := 7) (n := 4) (v := g) rfl, fld_packed rfl (lo := 0) (n := 7) (v := t) rfl]
  all_goals exact fldN_packed rfl rfl

theorem mma p l g a t : Statement (.mma p l g a t) := by
  intro x hx
  obtain rfl := Option.some.inj hx
  rw [decodeWord_41 (fldN_packed rfl rfl), show ∀ x : Word32, fldN x 13 5 = 1 → decode41 x = .ok (.mma (fld x 23 2) (fld x 18 5) (fld x 9 4) (fld x 7 2) (fld x 0 7)) from
    fun x h => by unfold decode41; rw [h]; rfl]
  refine congrArg Except.ok ?_
  · rw [fld_packed rfl (lo := 23) (n := 2) (v := p) rfl, fld_packed rfl (lo := 18) (n := 5) (v := l) rfl, fld_packed rfl (lo := 9) (n := 4) (v := g) rfl, fld_packed rfl (lo := 7) (n := 2) (v := a) rfl, fld_packed rfl (lo := 0) (n := 7) (v := t) rfl]
  all_goals exact fldN_packed rfl rfl

theorem mmaz p l g a t : Statement (.mmaz p l g a t) := by
  intro x hx
  obtain rfl := Option.some.inj hx
  rw [decodeWord_41 (fldN_packed rfl rfl), show ∀ x : Word32, fldN x 13 5 = 2 → decode41 x = .ok (.mmaz (fld x 23 2) (fld x 18 5) (fld x 9 4) (fld x 7 2) (fld x 0 7)) from
    fun x h => by unfold decode41; rw [h]; rfl]
  refine congrArg Except.ok ?_
  · rw [fld_packed rfl (lo := 23) (n := 2) (v := p) rfl, fld_packed rfl (lo := 18) (n := 5) (v := l) rfl, fld_packed rfl (lo := 9) (n := 4) (v := g) rfl, fld_packed rfl (lo := 7) (n := 2) (v := a) rfl, fld_packed rfl (lo := 0) (n := 7) (v := t) rfl]
  all_goals exact fldN_packed rfl rfl

theorem mmaq p l g a t : Statement (.mmaq p l g a t) := by
  intro x hx
  obtain rfl := Option.some.inj hx
  rw [decodeWord_41 (fldN_packed rfl rfl), show ∀ x : Word32, fldN x 13 5 = 3 → decode41 x = .ok (.mmaq (fld x 23 2) (fld x 18 5) (fld x 9 4) (fld x 7 2) (fld x 0 7)) from
    fun x h => by unfold decode41; rw [h]; rfl]
  refine congrArg Except.ok ?_
  · rw [fld_packed rfl (lo := 23) (n := 2) (v := p) rfl, fld_packed rfl (lo := 18) (n := 5) (v := l) rfl, fld_packed rfl (lo := 9) (n := 4) (v := g) rfl, fld_packed rfl (lo := 7) (n := 2) (v := a) rfl, fld_packed rfl (lo := 0) (n := 7) (v := t) rfl]
  all_goals exact fldN_packed rfl rfl

theorem mldb p l b t : Statement (.mldb p l b t) := by
  intro x hx
  obtain rfl := Option.some.inj hx
  rw [decodeWord_41 (fldN_packed rfl rfl), show ∀ x : Word32, fldN x 13 5 = 4 → decode41 x = chk (fldN x 8 5 == 0) (.mldb (fld x 23 2) (fld x 18 5) (fld x 7 1) (fld x 0 7)) from
    fun x h => by unfold decode41; rw [h]; rfl]
  refine chk_ok ?_ ?_
  · rw [fldN_packed rfl (lo := 8) (n := 5) (v := 0) rfl]; rfl
  · rw [fld_packed rfl (lo := 23) (n := 2) (v := p) rfl, fld_packed rfl (lo := 18) (n := 5) (v := l) rfl, fld_packed rfl (lo := 7) (n := 1) (v := b) rfl, fld_packed rfl (lo := 0) (n := 7) (v := t) rfl]
  all_goals exact fldN_packed rfl rfl

theorem mplay p l b t : Statement (.mplay p l b t) := by
  intro x hx
  obtain rfl := Option.some.inj hx
  rw [decodeWord_41 (fldN_packed rfl rfl), show ∀ x : Word32, fldN x 13 5 = 5 → decode41 x = chk (fldN x 8 5 == 0) (.mplay (fld x 23 2) (fld x 18 5) (fld x 7 1) (fld x 0 7)) from
    fun x h => by unfold decode41; rw [h]; rfl]
  refine chk_ok ?_ ?_
  · rw [fldN_packed rfl (lo := 8) (n := 5) (v := 0) rfl]; rfl
  · rw [fld_packed rfl (lo := 23) (n := 2) (v := p) rfl, fld_packed rfl (lo := 18) (n := 5) (v := l) rfl, fld_packed rfl (lo := 7) (n := 1) (v := b) rfl, fld_packed rfl (lo := 0) (n := 7) (v := t) rfl]
  all_goals exact fldN_packed rfl rfl

theorem mst p l g a t : Statement (.mst p l g a t) := by
  intro x hx
  obtain rfl := Option.some.inj hx
  rw [decodeWord_41 (fldN_packed rfl rfl), show ∀ x : Word32, fldN x 13 5 = 6 → decode41 x = .ok (.mst (fld x 23 2) (fld x 18 5) (fld x 9 4) (fld x 7 2) (fld x 0 7)) from
    fun x h => by unfold decode41; rw [h]; rfl]
  refine congrArg Except.ok ?_
  · rw [fld_packed rfl (lo := 23) (n := 2) (v := p) rfl, fld_packed rfl (lo := 18) (n := 5) (v := l) rfl, fld_packed rfl (lo := 9) (n := 4) (v := g) rfl, fld_packed rfl (lo := 7) (n := 2) (v := a) rfl, fld_packed rfl (lo := 0) (n := 7) (v := t) rfl]
  all_goals exact fldN_packed rfl rfl

theorem mlda p l a t : Statement (.mlda p l a t) := by
  intro x hx
  obtain rfl := Option.some.inj hx
  rw [decodeWord_41 (fldN_packed rfl rfl), show ∀ x : Word32, fldN x 13 5 = 7 → decode41 x = chk (fldN x 9 4 == 0) (.mlda (fld x 23 2) (fld x 18 5) (fld x 7 2) (fld x 0 7)) from
    fun x h => by unfold decode41; rw [h]; rfl]
  refine chk_ok ?_ ?_
  · rw [fldN_packed rfl (lo := 9) (n := 4) (v := 0) rfl]; rfl
  · rw [fld_packed rfl (lo := 23) (n := 2) (v := p) rfl, fld_packed rfl (lo := 18) (n := 5) (v := l) rfl, fld_packed rfl (lo := 7) (n := 2) (v := a) rfl, fld_packed rfl (lo := 0) (n := 7) (v := t) rfl]
  all_goals exact fldN_packed rfl rfl

theorem mzero p l a t : Statement (.mzero p l a t) := by
  intro x hx
  obtain rfl := Option.some.inj hx
  rw [decodeWord_41 (fldN_packed rfl rfl), show ∀ x : Word32, fldN x 13 5 = 8 → decode41 x = chk (fldN x 9 4 == 0) (.mzero (fld x 23 2) (fld x 18 5) (fld x 7 2) (fld x 0 7)) from
    fun x h => by unfold decode41; rw [h]; rfl]
  refine chk_ok ?_ ?_
  · rw [fldN_packed rfl (lo := 9) (n := 4) (v := 0) rfl]; rfl
  · rw [fld_packed rfl (lo := 23) (n := 2) (v := p) rfl, fld_packed rfl (lo := 18) (n := 5) (v := l) rfl, fld_packed rfl (lo := 7) (n := 2) (v := a) rfl, fld_packed rfl (lo := 0) (n := 7) (v := t) rfl]
  all_goals exact fldN_packed rfl rfl

theorem mrls p l b t : Statement (.mrls p l b t) := by
  intro x hx
  obtain rfl := Option.some.inj hx
  rw [decodeWord_41 (fldN_packed rfl rfl), show ∀ x : Word32, fldN x 13 5 = 9 → decode41 x = chk (fldN x 8 5 == 0) (.mrls (fld x 23 2) (fld x 18 5) (fld x 7 1) (fld x 0 7)) from
    fun x h => by unfold decode41; rw [h]; rfl]
  refine chk_ok ?_ ?_
  · rw [fldN_packed rfl (lo := 8) (n := 5) (v := 0) rfl]; rfl
  · rw [fld_packed rfl (lo := 23) (n := 2) (v := p) rfl, fld_packed rfl (lo := 18) (n := 5) (v := l) rfl, fld_packed rfl (lo := 7) (n := 1) (v := b) rfl, fld_packed rfl (lo := 0) (n := 7) (v := t) rfl]
  all_goals exact fldN_packed rfl rfl

theorem mseat p l t : Statement (.mseat p l t) := by
  intro x hx
  obtain rfl := Option.some.inj hx
  rw [decodeWord_41 (fldN_packed rfl rfl), show ∀ x : Word32, fldN x 13 5 = 10 → decode41 x = chk (fldN x 7 6 == 0) (.mseat (fld x 23 2) (fld x 18 5) (fld x 0 7)) from
    fun x h => by unfold decode41; rw [h]; rfl]
  refine chk_ok ?_ ?_
  · rw [fldN_packed rfl (lo := 7) (n := 6) (v := 0) rfl]; rfl
  · rw [fld_packed rfl (lo := 23) (n := 2) (v := p) rfl, fld_packed rfl (lo := 18) (n := 5) (v := l) rfl, fld_packed rfl (lo := 0) (n := 7) (v := t) rfl]
  all_goals exact fldN_packed rfl rfl

theorem send p l u n t : Statement (.send p l u n t) := by
  intro x hx
  obtain rfl := Option.some.inj hx
  rw [decodeWord_42 (fldN_packed rfl rfl), show ∀ x : Word32, fldN x 13 5 = 0 → decode42 x = .ok (.send (fld x 23 2) (fld x 18 5) (fld x 12 1) (fld x 7 5) (fld x 0 7)) from
    fun x h => by unfold decode42; rw [h]; rfl]
  refine congrArg Except.ok ?_
  · rw [fld_packed rfl (lo := 23) (n := 2) (v := p) rfl, fld_packed rfl (lo := 18) (n := 5) (v := l) rfl, fld_packed rfl (lo := 12) (n := 1) (v := u) rfl, fld_packed rfl (lo := 7) (n := 5) (v := n) rfl, fld_packed rfl (lo := 0) (n := 7) (v := t) rfl]
  all_goals exact fldN_packed rfl rfl

theorem sendq p l u n t : Statement (.sendq p l u n t) := by
  intro x hx
  obtain rfl := Option.some.inj hx
  rw [decodeWord_42 (fldN_packed rfl rfl), show ∀ x : Word32, fldN x 13 5 = 1 → decode42 x = .ok (.sendq (fld x 23 2) (fld x 18 5) (fld x 12 1) (fld x 7 5) (fld x 0 7)) from
    fun x h => by unfold decode42; rw [h]; rfl]
  refine congrArg Except.ok ?_
  · rw [fld_packed rfl (lo := 23) (n := 2) (v := p) rfl, fld_packed rfl (lo := 18) (n := 5) (v := l) rfl, fld_packed rfl (lo := 12) (n := 1) (v := u) rfl, fld_packed rfl (lo := 7) (n := 5) (v := n) rfl, fld_packed rfl (lo := 0) (n := 7) (v := t) rfl]
  all_goals exact fldN_packed rfl rfl

theorem req p l u n t : Statement (.req p l u n t) := by
  intro x hx
  obtain rfl := Option.some.inj hx
  rw [decodeWord_42 (fldN_packed rfl rfl), show ∀ x : Word32, fldN x 13 5 = 2 → decode42 x = .ok (.req (fld x 23 2) (fld x 18 5) (fld x 12 1) (fld x 7 5) (fld x 0 7)) from
    fun x h => by unfold decode42; rw [h]; rfl]
  refine congrArg Except.ok ?_
  · rw [fld_packed rfl (lo := 23) (n := 2) (v := p) rfl, fld_packed rfl (lo := 18) (n := 5) (v := l) rfl, fld_packed rfl (lo := 12) (n := 1) (v := u) rfl, fld_packed rfl (lo := 7) (n := 5) (v := n) rfl, fld_packed rfl (lo := 0) (n := 7) (v := t) rfl]
  all_goals exact fldN_packed rfl rfl

theorem reply p l u n t : Statement (.reply p l u n t) := by
  intro x hx
  obtain rfl := Option.some.inj hx
  rw [decodeWord_42 (fldN_packed rfl rfl), show ∀ x : Word32, fldN x 13 5 = 3 → decode42 x = .ok (.reply (fld x 23 2) (fld x 18 5) (fld x 12 1) (fld x 7 5) (fld x 0 7)) from
    fun x h => by unfold decode42; rw [h]; rfl]
  refine congrArg Except.ok ?_
  · rw [fld_packed rfl (lo := 23) (n := 2) (v := p) rfl, fld_packed rfl (lo := 18) (n := 5) (v := l) rfl, fld_packed rfl (lo := 12) (n := 1) (v := u) rfl, fld_packed rfl (lo := 7) (n := 5) (v := n) rfl, fld_packed rfl (lo := 0) (n := 7) (v := t) rfl]
  all_goals exact fldN_packed rfl rfl

theorem xput p l u n t : Statement (.xput p l u n t) := by
  intro x hx
  obtain rfl := Option.some.inj hx
  rw [decodeWord_42 (fldN_packed rfl rfl), show ∀ x : Word32, fldN x 13 5 = 4 → decode42 x = .ok (.xput (fld x 23 2) (fld x 18 5) (fld x 12 1) (fld x 7 5) (fld x 0 7)) from
    fun x h => by unfold decode42; rw [h]; rfl]
  refine congrArg Except.ok ?_
  · rw [fld_packed rfl (lo := 23) (n := 2) (v := p) rfl, fld_packed rfl (lo := 18) (n := 5) (v := l) rfl, fld_packed rfl (lo := 12) (n := 1) (v := u) rfl, fld_packed rfl (lo := 7) (n := 5) (v := n) rfl, fld_packed rfl (lo := 0) (n := 7) (v := t) rfl]
  all_goals exact fldN_packed rfl rfl

theorem xamo p l u o t : Statement (.xamo p l u o t) := by
  intro x hx
  obtain rfl := Option.some.inj hx
  rw [decodeWord_42 (fldN_packed rfl rfl), show ∀ x : Word32, fldN x 13 5 = 5 → decode42 x = chk (fldN x 11 1 == 0) (.xamo (fld x 23 2) (fld x 18 5) (fld x 12 1) (fld x 7 4) (fld x 0 7)) from
    fun x h => by unfold decode42; rw [h]; rfl]
  refine chk_ok ?_ ?_
  · rw [fldN_packed rfl (lo := 11) (n := 1) (v := 0) rfl]; rfl
  · rw [fld_packed rfl (lo := 23) (n := 2) (v := p) rfl, fld_packed rfl (lo := 18) (n := 5) (v := l) rfl, fld_packed rfl (lo := 12) (n := 1) (v := u) rfl, fld_packed rfl (lo := 7) (n := 4) (v := o) rfl, fld_packed rfl (lo := 0) (n := 7) (v := t) rfl]
  all_goals exact fldN_packed rfl rfl

theorem mbxset p l k t : Statement (.mbxset p l k t) := by
  intro x hx
  obtain rfl := Option.some.inj hx
  rw [decodeWord_42 (fldN_packed rfl rfl), show ∀ x : Word32, fldN x 13 5 = 6 → decode42 x = chk (fldN x 9 4 == 0) (.mbxset (fld x 23 2) (fld x 18 5) (fld x 7 2) (fld x 0 7)) from
    fun x h => by unfold decode42; rw [h]; rfl]
  refine chk_ok ?_ ?_
  · rw [fldN_packed rfl (lo := 9) (n := 4) (v := 0) rfl]; rfl
  · rw [fld_packed rfl (lo := 23) (n := 2) (v := p) rfl, fld_packed rfl (lo := 18) (n := 5) (v := l) rfl, fld_packed rfl (lo := 7) (n := 2) (v := k) rfl, fld_packed rfl (lo := 0) (n := 7) (v := t) rfl]
  all_goals exact fldN_packed rfl rfl

theorem frget p l w t : Statement (.frget p l w t) := by
  intro x hx
  obtain rfl := Option.some.inj hx
  rw [decodeWord_42 (fldN_packed rfl rfl), show ∀ x : Word32, fldN x 13 5 = 7 → decode42 x = chk (fldN x 8 5 == 0) (.frget (fld x 23 2) (fld x 18 5) (fld x 7 1) (fld x 0 7)) from
    fun x h => by unfold decode42; rw [h]; rfl]
  refine chk_ok ?_ ?_
  · rw [fldN_packed rfl (lo := 8) (n := 5) (v := 0) rfl]; rfl
  · rw [fld_packed rfl (lo := 23) (n := 2) (v := p) rfl, fld_packed rfl (lo := 18) (n := 5) (v := l) rfl, fld_packed rfl (lo := 7) (n := 1) (v := w) rfl, fld_packed rfl (lo := 0) (n := 7) (v := t) rfl]
  all_goals exact fldN_packed rfl rfl

theorem frput p l t : Statement (.frput p l t) := by
  intro x hx
  obtain rfl := Option.some.inj hx
  rw [decodeWord_42 (fldN_packed rfl rfl), show ∀ x : Word32, fldN x 13 5 = 8 → decode42 x = chk (fldN x 7 6 == 0) (.frput (fld x 23 2) (fld x 18 5) (fld x 0 7)) from
    fun x h => by unfold decode42; rw [h]; rfl]
  refine chk_ok ?_ ?_
  · rw [fldN_packed rfl (lo := 7) (n := 6) (v := 0) rfl]; rfl
  · rw [fld_packed rfl (lo := 23) (n := 2) (v := p) rfl, fld_packed rfl (lo := 18) (n := 5) (v := l) rfl, fld_packed rfl (lo := 0) (n := 7) (v := t) rfl]
  all_goals exact fldN_packed rfl rfl

theorem xroute p l t : Statement (.xroute p l t) := by
  intro x hx
  obtain rfl := Option.some.inj hx
  rw [decodeWord_42 (fldN_packed rfl rfl), show ∀ x : Word32, fldN x 13 5 = 9 → decode42 x = chk (fldN x 7 6 == 0) (.xroute (fld x 23 2) (fld x 18 5) (fld x 0 7)) from
    fun x h => by unfold decode42; rw [h]; rfl]
  refine chk_ok ?_ ?_
  · rw [fldN_packed rfl (lo := 7) (n := 6) (v := 0) rfl]; rfl
  · rw [fld_packed rfl (lo := 23) (n := 2) (v := p) rfl, fld_packed rfl (lo := 18) (n := 5) (v := l) rfl, fld_packed rfl (lo := 0) (n := 7) (v := t) rfl]
  all_goals exact fldN_packed rfl rfl

theorem xflush p l t : Statement (.xflush p l t) := by
  intro x hx
  obtain rfl := Option.some.inj hx
  rw [decodeWord_42 (fldN_packed rfl rfl), show ∀ x : Word32, fldN x 13 5 = 10 → decode42 x = chk (fldN x 7 6 == 0) (.xflush (fld x 23 2) (fld x 18 5) (fld x 0 7)) from
    fun x h => by unfold decode42; rw [h]; rfl]
  refine chk_ok ?_ ?_
  · rw [fldN_packed rfl (lo := 7) (n := 6) (v := 0) rfl]; rfl
  · rw [fld_packed rfl (lo := 23) (n := 2) (v := p) rfl, fld_packed rfl (lo := 18) (n := 5) (v := l) rfl, fld_packed rfl (lo := 0) (n := 7) (v := t) rfl]
  all_goals exact fldN_packed rfl rfl

theorem tdec p l : Statement (.tdec p l) := by
  intro x hx
  obtain rfl := Option.some.inj hx
  rw [decodeWord_43 (fldN_packed rfl rfl), show ∀ x : Word32, fldN x 13 5 = 0 → decode43 x = chk (fldN x 0 7 == 127 && fldN x 7 6 == 0) (.tdec (fld x 23 2) (fld x 18 5)) from
    fun x h => by unfold decode43; rw [h]; rfl]
  refine chk_ok ?_ ?_
  · rw [fldN_packed rfl (lo := 0) (n := 7) (v := 127) rfl, fldN_packed rfl (lo := 7) (n := 6) (v := 0) rfl]; rfl
  · rw [fld_packed rfl (lo := 23) (n := 2) (v := p) rfl, fld_packed rfl (lo := 18) (n := 5) (v := l) rfl]
  all_goals exact fldN_packed rfl rfl

theorem tspawn p l t : Statement (.tspawn p l t) := by
  intro x hx
  obtain rfl := Option.some.inj hx
  rw [decodeWord_43 (fldN_packed rfl rfl), show ∀ x : Word32, fldN x 13 5 = 1 → decode43 x = chk (fldN x 7 6 == 0) (.tspawn (fld x 23 2) (fld x 18 5) (fld x 0 7)) from
    fun x h => by unfold decode43; rw [h]; rfl]
  refine chk_ok ?_ ?_
  · rw [fldN_packed rfl (lo := 7) (n := 6) (v := 0) rfl]; rfl
  · rw [fld_packed rfl (lo := 23) (n := 2) (v := p) rfl, fld_packed rfl (lo := 18) (n := 5) (v := l) rfl, fld_packed rfl (lo := 0) (n := 7) (v := t) rfl]
  all_goals exact fldN_packed rfl rfl

theorem tjoin p l t : Statement (.tjoin p l t) := by
  intro x hx
  obtain rfl := Option.some.inj hx
  rw [decodeWord_43 (fldN_packed rfl rfl), show ∀ x : Word32, fldN x 13 5 = 2 → decode43 x = chk (fldN x 7 6 == 0) (.tjoin (fld x 23 2) (fld x 18 5) (fld x 0 7)) from
    fun x h => by unfold decode43; rw [h]; rfl]
  refine chk_ok ?_ ?_
  · rw [fldN_packed rfl (lo := 7) (n := 6) (v := 0) rfl]; rfl
  · rw [fld_packed rfl (lo := 23) (n := 2) (v := p) rfl, fld_packed rfl (lo := 18) (n := 5) (v := l) rfl, fld_packed rfl (lo := 0) (n := 7) (v := t) rfl]
  all_goals exact fldN_packed rfl rfl

theorem tstat p l s t : Statement (.tstat p l s t) := by
  intro x hx
  obtain rfl := Option.some.inj hx
  rw [decodeWord_43 (fldN_packed rfl rfl), show ∀ x : Word32, fldN x 13 5 = 3 → decode43 x = chk (fldN x 9 4 == 0) (.tstat (fld x 23 2) (fld x 18 5) (fld x 7 2) (fld x 0 7)) from
    fun x h => by unfold decode43; rw [h]; rfl]
  refine chk_ok ?_ ?_
  · rw [fldN_packed rfl (lo := 9) (n := 4) (v := 0) rfl]; rfl
  · rw [fld_packed rfl (lo := 23) (n := 2) (v := p) rfl, fld_packed rfl (lo := 18) (n := 5) (v := l) rfl, fld_packed rfl (lo := 7) (n := 2) (v := s) rfl, fld_packed rfl (lo := 0) (n := 7) (v := t) rfl]
  all_goals exact fldN_packed rfl rfl

theorem tkill p l k : Statement (.tkill p l k) := by
  intro x hx
  obtain rfl := Option.some.inj hx
  rw [decodeWord_43 (fldN_packed rfl rfl), show ∀ x : Word32, fldN x 13 5 = 4 → decode43 x = chk (fldN x 0 7 == 127 && fldN x 8 5 == 0) (.tkill (fld x 23 2) (fld x 18 5) (fld x 7 1)) from
    fun x h => by unfold decode43; rw [h]; rfl]
  refine chk_ok ?_ ?_
  · rw [fldN_packed rfl (lo := 0) (n := 7) (v := 127) rfl, fldN_packed rfl (lo := 8) (n := 5) (v := 0) rfl]; rfl
  · rw [fld_packed rfl (lo := 23) (n := 2) (v := p) rfl, fld_packed rfl (lo := 18) (n := 5) (v := l) rfl, fld_packed rfl (lo := 7) (n := 1) (v := k) rfl]
  all_goals exact fldN_packed rfl rfl

theorem ginst p l t : Statement (.ginst p l t) := by
  intro x hx
  obtain rfl := Option.some.inj hx
  rw [decodeWord_43 (fldN_packed rfl rfl), show ∀ x : Word32, fldN x 13 5 = 5 → decode43 x = chk (fldN x 7 6 == 0) (.ginst (fld x 23 2) (fld x 18 5) (fld x 0 7)) from
    fun x h => by unfold decode43; rw [h]; rfl]
  refine chk_ok ?_ ?_
  · rw [fldN_packed rfl (lo := 7) (n := 6) (v := 0) rfl]; rfl
  · rw [fld_packed rfl (lo := 23) (n := 2) (v := p) rfl, fld_packed rfl (lo := 18) (n := 5) (v := l) rfl, fld_packed rfl (lo := 0) (n := 7) (v := t) rfl]
  all_goals exact fldN_packed rfl rfl

theorem nopen p l w n t : Statement (.nopen p l w n t) := by
  intro x hx
  obtain rfl := Option.some.inj hx
  rw [decodeWord_44 (fldN_packed rfl rfl), show ∀ x : Word32, fldN x 13 5 = 0 → decode44 x = .ok (.nopen (fld x 23 2) (fld x 18 5) (fld x 12 1) (fld x 7 5) (fld x 0 7)) from
    fun x h => by unfold decode44; rw [h]; rfl]
  refine congrArg Except.ok ?_
  · rw [fld_packed rfl (lo := 23) (n := 2) (v := p) rfl, fld_packed rfl (lo := 18) (n := 5) (v := l) rfl, fld_packed rfl (lo := 12) (n := 1) (v := w) rfl, fld_packed rfl (lo := 7) (n := 5) (v := n) rfl, fld_packed rfl (lo := 0) (n := 7) (v := t) rfl]
  all_goals exact fldN_packed rfl rfl

theorem nclose p l : Statement (.nclose p l) := by
  intro x hx
  obtain rfl := Option.some.inj hx
  rw [decodeWord_44 (fldN_packed rfl rfl), show ∀ x : Word32, fldN x 13 5 = 1 → decode44 x = chk (fldN x 0 7 == 127 && fldN x 7 6 == 0) (.nclose (fld x 23 2) (fld x 18 5)) from
    fun x h => by unfold decode44; rw [h]; rfl]
  refine chk_ok ?_ ?_
  · rw [fldN_packed rfl (lo := 0) (n := 7) (v := 127) rfl, fldN_packed rfl (lo := 7) (n := 6) (v := 0) rfl]; rfl
  · rw [fld_packed rfl (lo := 23) (n := 2) (v := p) rfl, fld_packed rfl (lo := 18) (n := 5) (v := l) rfl]
  all_goals exact fldN_packed rfl rfl

theorem nbind p l : Statement (.nbind p l) := by
  intro x hx
  obtain rfl := Option.some.inj hx
  rw [decodeWord_44 (fldN_packed rfl rfl), show ∀ x : Word32, fldN x 13 5 = 2 → decode44 x = chk (fldN x 0 7 == 127 && fldN x 7 6 == 0) (.nbind (fld x 23 2) (fld x 18 5)) from
    fun x h => by unfold decode44; rw [h]; rfl]
  refine chk_ok ?_ ?_
  · rw [fldN_packed rfl (lo := 0) (n := 7) (v := 127) rfl, fldN_packed rfl (lo := 7) (n := 6) (v := 0) rfl]; rfl
  · rw [fld_packed rfl (lo := 23) (n := 2) (v := p) rfl, fld_packed rfl (lo := 18) (n := 5) (v := l) rfl]
  all_goals exact fldN_packed rfl rfl

theorem ntxb p l t : Statement (.ntxb p l t) := by
  intro x hx
  obtain rfl := Option.some.inj hx
  rw [decodeWord_44 (fldN_packed rfl rfl), show ∀ x : Word32, fldN x 13 5 = 3 → decode44 x = chk (fldN x 7 6 == 0) (.ntxb (fld x 23 2) (fld x 18 5) (fld x 0 7)) from
    fun x h => by unfold decode44; rw [h]; rfl]
  refine chk_ok ?_ ?_
  · rw [fldN_packed rfl (lo := 7) (n := 6) (v := 0) rfl]; rfl
  · rw [fld_packed rfl (lo := 23) (n := 2) (v := p) rfl, fld_packed rfl (lo := 18) (n := 5) (v := l) rfl, fld_packed rfl (lo := 0) (n := 7) (v := t) rfl]
  all_goals exact fldN_packed rfl rfl

theorem ntxa l : Statement (.ntxa l) := by
  intro x hx
  obtain rfl := Option.some.inj hx
  rw [decodeWord_44 (fldN_packed rfl rfl), show ∀ x : Word32, fldN x 13 5 = 4 → decode44 x = chk (fldN x 0 7 == 127 && fldN x 7 6 == 0 && fldN x 23 2 == 0) (.ntxa (fld x 18 5)) from
    fun x h => by unfold decode44; rw [h]; rfl]
  refine chk_ok ?_ ?_
  · rw [fldN_packed rfl (lo := 0) (n := 7) (v := 127) rfl, fldN_packed rfl (lo := 7) (n := 6) (v := 0) rfl, fldN_packed rfl (lo := 23) (n := 2) (v := 0) rfl]; rfl
  · rw [fld_packed rfl (lo := 18) (n := 5) (v := l) rfl]
  all_goals exact fldN_packed rfl rfl

theorem ntxc p l t : Statement (.ntxc p l t) := by
  intro x hx
  obtain rfl := Option.some.inj hx
  rw [decodeWord_44 (fldN_packed rfl rfl), show ∀ x : Word32, fldN x 13 5 = 5 → decode44 x = chk (fldN x 7 6 == 0) (.ntxc (fld x 23 2) (fld x 18 5) (fld x 0 7)) from
    fun x h => by unfold decode44; rw [h]; rfl]
  refine chk_ok ?_ ?_
  · rw [fldN_packed rfl (lo := 7) (n := 6) (v := 0) rfl]; rfl
  · rw [fld_packed rfl (lo := 23) (n := 2) (v := p) rfl, fld_packed rfl (lo := 18) (n := 5) (v := l) rfl, fld_packed rfl (lo := 0) (n := 7) (v := t) rfl]
  all_goals exact fldN_packed rfl rfl

theorem ntxx p l : Statement (.ntxx p l) := by
  intro x hx
  obtain rfl := Option.some.inj hx
  rw [decodeWord_44 (fldN_packed rfl rfl), show ∀ x : Word32, fldN x 13 5 = 6 → decode44 x = chk (fldN x 0 7 == 127 && fldN x 7 6 == 0) (.ntxx (fld x 23 2) (fld x 18 5)) from
    fun x h => by unfold decode44; rw [h]; rfl]
  refine chk_ok ?_ ?_
  · rw [fldN_packed rfl (lo := 0) (n := 7) (v := 127) rfl, fldN_packed rfl (lo := 7) (n := 6) (v := 0) rfl]; rfl
  · rw [fld_packed rfl (lo := 23) (n := 2) (v := p) rfl, fld_packed rfl (lo := 18) (n := 5) (v := l) rfl]
  all_goals exact fldN_packed rfl rfl

theorem nsnap p l t : Statement (.nsnap p l t) := by
  intro x hx
  obtain rfl := Option.some.inj hx
  rw [decodeWord_44 (fldN_packed rfl rfl), show ∀ x : Word32, fldN x 13 5 = 7 → decode44 x = chk (fldN x 7 6 == 0) (.nsnap (fld x 23 2) (fld x 18 5) (fld x 0 7)) from
    fun x h => by unfold decode44; rw [h]; rfl]
  refine chk_ok ?_ ?_
  · rw [fldN_packed rfl (lo := 7) (n := 6) (v := 0) rfl]; rfl
  · rw [fld_packed rfl (lo := 23) (n := 2) (v := p) rfl, fld_packed rfl (lo := 18) (n := 5) (v := l) rfl, fld_packed rfl (lo := 0) (n := 7) (v := t) rfl]
  all_goals exact fldN_packed rfl rfl

theorem nmake p l t : Statement (.nmake p l t) := by
  intro x hx
  obtain rfl := Option.some.inj hx
  rw [decodeWord_44 (fldN_packed rfl rfl), show ∀ x : Word32, fldN x 13 5 = 8 → decode44 x = chk (fldN x 7 6 == 0) (.nmake (fld x 23 2) (fld x 18 5) (fld x 0 7)) from
    fun x h => by unfold decode44; rw [h]; rfl]
  refine chk_ok ?_ ?_
  · rw [fldN_packed rfl (lo := 7) (n := 6) (v := 0) rfl]; rfl
  · rw [fld_packed rfl (lo := 23) (n := 2) (v := p) rfl, fld_packed rfl (lo := 18) (n := 5) (v := l) rfl, fld_packed rfl (lo := 0) (n := 7) (v := t) rfl]
  all_goals exact fldN_packed rfl rfl

theorem nqry p l s t : Statement (.nqry p l s t) := by
  intro x hx
  obtain rfl := Option.some.inj hx
  rw [decodeWord_44 (fldN_packed rfl rfl), show ∀ x : Word32, fldN x 13 5 = 9 → decode44 x = chk (fldN x 9 4 == 0) (.nqry (fld x 23 2) (fld x 18 5) (fld x 7 2) (fld x 0 7)) from
    fun x h => by unfold decode44; rw [h]; rfl]
  refine chk_ok ?_ ?_
  · rw [fldN_packed rfl (lo := 9) (n := 4) (v := 0) rfl]; rfl
  · rw [fld_packed rfl (lo := 23) (n := 2) (v := p) rfl, fld_packed rfl (lo := 18) (n := 5) (v := l) rfl, fld_packed rfl (lo := 7) (n := 2) (v := s) rfl, fld_packed rfl (lo := 0) (n := 7) (v := t) rfl]
  all_goals exact fldN_packed rfl rfl

theorem svc p l t : Statement (.svc p l t) := by
  intro x hx
  obtain rfl := Option.some.inj hx
  rw [decodeWord_45 (fldN_packed rfl rfl), show ∀ x : Word32, fldN x 13 5 = 0 → decode45 x = chk (fldN x 7 6 == 0) (.svc (fld x 23 2) (fld x 18 5) (fld x 0 7)) from
    fun x h => by unfold decode45; rw [h]; rfl]
  refine chk_ok ?_ ?_
  · rw [fldN_packed rfl (lo := 7) (n := 6) (v := 0) rfl]; rfl
  · rw [fld_packed rfl (lo := 23) (n := 2) (v := p) rfl, fld_packed rfl (lo := 18) (n := 5) (v := l) rfl, fld_packed rfl (lo := 0) (n := 7) (v := t) rfl]
  all_goals exact fldN_packed rfl rfl

theorem bkpt p l c : Statement (.bkpt p l c) := by
  intro x hx
  obtain rfl := Option.some.inj hx
  rw [decodeWord_45 (fldN_packed rfl rfl), show ∀ x : Word32, fldN x 13 5 = 1 → decode45 x = chk (fldN x 0 7 == 127) (.bkpt (fld x 23 2) (fld x 18 5) (fld x 7 6)) from
    fun x h => by unfold decode45; rw [h]; rfl]
  refine chk_ok ?_ ?_
  · rw [fldN_packed rfl (lo := 0) (n := 7) (v := 127) rfl]; rfl
  · rw [fld_packed rfl (lo := 23) (n := 2) (v := p) rfl, fld_packed rfl (lo := 18) (n := 5) (v := l) rfl, fld_packed rfl (lo := 7) (n := 6) (v := c) rfl]
  all_goals exact fldN_packed rfl rfl

theorem ctxsv p l : Statement (.ctxsv p l) := by
  intro x hx
  obtain rfl := Option.some.inj hx
  rw [decodeWord_45 (fldN_packed rfl rfl), show ∀ x : Word32, fldN x 13 5 = 2 → decode45 x = chk (fldN x 0 7 == 127 && fldN x 7 6 == 0) (.ctxsv (fld x 23 2) (fld x 18 5)) from
    fun x h => by unfold decode45; rw [h]; rfl]
  refine chk_ok ?_ ?_
  · rw [fldN_packed rfl (lo := 0) (n := 7) (v := 127) rfl, fldN_packed rfl (lo := 7) (n := 6) (v := 0) rfl]; rfl
  · rw [fld_packed rfl (lo := 23) (n := 2) (v := p) rfl, fld_packed rfl (lo := 18) (n := 5) (v := l) rfl]
  all_goals exact fldN_packed rfl rfl

theorem ctxrs p l : Statement (.ctxrs p l) := by
  intro x hx
  obtain rfl := Option.some.inj hx
  rw [decodeWord_45 (fldN_packed rfl rfl), show ∀ x : Word32, fldN x 13 5 = 3 → decode45 x = chk (fldN x 0 7 == 127 && fldN x 7 6 == 0) (.ctxrs (fld x 23 2) (fld x 18 5)) from
    fun x h => by unfold decode45; rw [h]; rfl]
  refine chk_ok ?_ ?_
  · rw [fldN_packed rfl (lo := 0) (n := 7) (v := 127) rfl, fldN_packed rfl (lo := 7) (n := 6) (v := 0) rfl]; rfl
  · rw [fld_packed rfl (lo := 23) (n := 2) (v := p) rfl, fld_packed rfl (lo := 18) (n := 5) (v := l) rfl]
  all_goals exact fldN_packed rfl rfl

theorem tlbi p l s : Statement (.tlbi p l s) := by
  intro x hx
  obtain rfl := Option.some.inj hx
  rw [decodeWord_45 (fldN_packed rfl rfl), show ∀ x : Word32, fldN x 13 5 = 4 → decode45 x = chk (fldN x 0 7 == 127 && fldN x 9 4 == 0) (.tlbi (fld x 23 2) (fld x 18 5) (fld x 7 2)) from
    fun x h => by unfold decode45; rw [h]; rfl]
  refine chk_ok ?_ ?_
  · rw [fldN_packed rfl (lo := 0) (n := 7) (v := 127) rfl, fldN_packed rfl (lo := 9) (n := 4) (v := 0) rfl]; rfl
  · rw [fld_packed rfl (lo := 23) (n := 2) (v := p) rfl, fld_packed rfl (lo := 18) (n := 5) (v := l) rfl, fld_packed rfl (lo := 7) (n := 2) (v := s) rfl]
  all_goals exact fldN_packed rfl rfl

theorem bootGoWrite len : Statement (.bootGoWrite len) := fun _ h => nomatch h

theorem spdmRequest what : Statement (.spdmRequest what) := fun _ h => nomatch h

theorem pcieOutOfWindowRequest fn word : Statement (.pcieOutOfWindowRequest fn word) := fun _ h => nomatch h

theorem doorbell fn q tail : Statement (.doorbell fn q tail) := fun _ h => nomatch h

theorem cdoneWrite fn q v : Statement (.cdoneWrite fn q v) := fun _ h => nomatch h

theorem queueEnable fn q en : Statement (.queueEnable fn q en) := fun _ h => nomatch h

theorem registerWrite reg v : Statement (.registerWrite reg v) := fun _ h => nomatch h

theorem queueAccept fn q : Statement (.queueAccept fn q) := fun _ h => nomatch h

theorem completionPost fn q : Statement (.completionPost fn q) := fun _ h => nomatch h

theorem hostNop fn q : Statement (.hostNop fn q) := fun _ h => nomatch h

theorem kick fn q : Statement (.kick fn q) := fun _ h => nomatch h

theorem launch fn q : Statement (.launch fn q) := fun _ h => nomatch h

theorem makeobj fn q : Statement (.makeobj fn q) := fun _ h => nomatch h

theorem bindn fn q : Statement (.bindn fn q) := fun _ h => nomatch h

theorem copyin fn q : Statement (.copyin fn q) := fun _ h => nomatch h

theorem copyout fn q : Statement (.copyout fn q) := fun _ h => nomatch h

theorem hostFence fn q : Statement (.hostFence fn q) := fun _ h => nomatch h

theorem qstat fn q : Statement (.qstat fn q) := fun _ h => nomatch h

theorem preempt fn q : Statement (.preempt fn q) := fun _ h => nomatch h

theorem resume fn q : Statement (.resume fn q) := fun _ h => nomatch h

theorem snapshot fn q : Statement (.snapshot fn q) := fun _ h => nomatch h

theorem partstat fn q : Statement (.partstat fn q) := fun _ h => nomatch h

theorem lbTagStateWrite byte : Statement (.lbTagStateWrite byte) := fun _ h => nomatch h

theorem mailboxMapWrite words : Statement (.mailboxMapWrite words) := fun _ h => nomatch h

theorem allowanceReturnTimer sender : Statement (.allowanceReturnTimer sender) := fun _ h => nomatch h

theorem ualinkInboundWrite requester station addr data : Statement (.ualinkInboundWrite requester station addr data) := fun _ h => nomatch h

theorem ualinkUnsupportedRequest read addr : Statement (.ualinkUnsupportedRequest read addr) := fun _ h => nomatch h

theorem voteLimitExpiry home : Statement (.voteLimitExpiry home) := fun _ h => nomatch h

theorem txnIndoubt key : Statement (.txnIndoubt key) := fun _ h => nomatch h

theorem txnSettle key : Statement (.txnSettle key) := fun _ h => nomatch h

theorem keySlotLoad slot dataKey tweakKey : Statement (.keySlotLoad slot dataKey tweakKey) := fun _ h => nomatch h

theorem routerTableWrite table : Statement (.routerTableWrite table) := fun _ h => nomatch h

theorem regionBlockWrite region image : Statement (.regionBlockWrite region image) := fun _ h => nomatch h

theorem throttleStepUp reading : Statement (.throttleStepUp reading) := fun _ h => nomatch h

theorem overtempReset dieC inletC : Statement (.overtempReset dieC inletC) := fun _ h => nomatch h

theorem haltedContextWrite image : Statement (.haltedContextWrite image) := fun _ h => nomatch h

theorem powerUp : Statement (.powerUp) := fun _ h => nomatch h

theorem deviceReset : Statement (.deviceReset) := fun _ h => nomatch h

theorem dieReset : Statement (.dieReset) := fun _ h => nomatch h

theorem kickDelivery : Statement (.kickDelivery) := fun _ h => nomatch h

theorem presidingElection : Statement (.presidingElection) := fun _ h => nomatch h

theorem blockFetch : Statement (.blockFetch) := fun _ h => nomatch h

theorem blockDecode : Statement (.blockDecode) := fun _ h => nomatch h

theorem blockCommit : Statement (.blockCommit) := fun _ h => nomatch h

theorem blockStallTimeout : Statement (.blockStallTimeout) := fun _ h => nomatch h

theorem waitTimeoutExpiry : Statement (.waitTimeoutExpiry) := fun _ h => nomatch h

theorem contextDrained : Statement (.contextDrained) := fun _ h => nomatch h

theorem handlerStart : Statement (.handlerStart) := fun _ h => nomatch h

theorem trapStart : Statement (.trapStart) := fun _ h => nomatch h

theorem landingFill : Statement (.landingFill) := fun _ h => nomatch h

theorem faultRecordWrite : Statement (.faultRecordWrite) := fun _ h => nomatch h

theorem windowRequest : Statement (.windowRequest) := fun _ h => nomatch h

theorem windowWithdraw : Statement (.windowWithdraw) := fun _ h => nomatch h

theorem tensorRequest : Statement (.tensorRequest) := fun _ h => nomatch h

theorem tensorReply : Statement (.tensorReply) := fun _ h => nomatch h

theorem tableWalk : Statement (.tableWalk) := fun _ h => nomatch h

theorem linkFlitRetry : Statement (.linkFlitRetry) := fun _ h => nomatch h

theorem cowComplete : Statement (.cowComplete) := fun _ h => nomatch h

theorem copyStart : Statement (.copyStart) := fun _ h => nomatch h

theorem copyComplete : Statement (.copyComplete) := fun _ h => nomatch h

theorem dealerRun : Statement (.dealerRun) := fun _ h => nomatch h

theorem streamReadahead : Statement (.streamReadahead) := fun _ h => nomatch h

theorem meEntryStart : Statement (.meEntryStart) := fun _ h => nomatch h

theorem meCommandApply : Statement (.meCommandApply) := fun _ h => nomatch h

theorem playRequest : Statement (.playRequest) := fun _ h => nomatch h

theorem playGrant : Statement (.playGrant) := fun _ h => nomatch h

theorem latchArrival : Statement (.latchArrival) := fun _ h => nomatch h

theorem cardSend : Statement (.cardSend) := fun _ h => nomatch h

theorem frameCardArrival : Statement (.frameCardArrival) := fun _ h => nomatch h

theorem queueCardArrival : Statement (.queueCardArrival) := fun _ h => nomatch h

theorem landingCardArrival : Statement (.landingCardArrival) := fun _ h => nomatch h

theorem replyCardArrival : Statement (.replyCardArrival) := fun _ h => nomatch h

theorem atomicCardArrival : Statement (.atomicCardArrival) := fun _ h => nomatch h

theorem cardAck : Statement (.cardAck) := fun _ h => nomatch h

theorem queueMailboxFire : Statement (.queueMailboxFire) := fun _ h => nomatch h

theorem mailboxConfigApply : Statement (.mailboxConfigApply) := fun _ h => nomatch h

theorem allowanceReturnArrival : Statement (.allowanceReturnArrival) := fun _ h => nomatch h

theorem refreshTimer : Statement (.refreshTimer) := fun _ h => nomatch h

theorem refreshRequestArrival : Statement (.refreshRequestArrival) := fun _ h => nomatch h

theorem messageSend : Statement (.messageSend) := fun _ h => nomatch h

theorem fragmentArrival : Statement (.fragmentArrival) := fun _ h => nomatch h

theorem meldDelivery : Statement (.meldDelivery) := fun _ h => nomatch h

theorem messageCompleted : Statement (.messageCompleted) := fun _ h => nomatch h

theorem ackTimer : Statement (.ackTimer) := fun _ h => nomatch h

theorem ackArrival : Statement (.ackArrival) := fun _ h => nomatch h

theorem busyArrival : Statement (.busyArrival) := fun _ h => nomatch h

theorem busyResendTimer : Statement (.busyResendTimer) := fun _ h => nomatch h

theorem meldTimeout : Statement (.meldTimeout) := fun _ h => nomatch h

theorem repairArrival : Statement (.repairArrival) := fun _ h => nomatch h

theorem sourceTimerExpiry : Statement (.sourceTimerExpiry) := fun _ h => nomatch h

theorem giveupArrival : Statement (.giveupArrival) := fun _ h => nomatch h

theorem linkLossOfLock : Statement (.linkLossOfLock) := fun _ h => nomatch h

theorem linkDownDeclare : Statement (.linkDownDeclare) := fun _ h => nomatch h

theorem chordNewsArrival : Statement (.chordNewsArrival) := fun _ h => nomatch h

theorem linkUp : Statement (.linkUp) := fun _ h => nomatch h

theorem exchangeConfigApply : Statement (.exchangeConfigApply) := fun _ h => nomatch h

theorem exchangeFlushArrival : Statement (.exchangeFlushArrival) := fun _ h => nomatch h

theorem exchangeReturnArrival : Statement (.exchangeReturnArrival) := fun _ h => nomatch h

theorem overflowRecordArrival : Statement (.overflowRecordArrival) := fun _ h => nomatch h

theorem xflushCounterWrite : Statement (.xflushCounterWrite) := fun _ h => nomatch h

theorem heartbeatTimer : Statement (.heartbeatTimer) := fun _ h => nomatch h

theorem heartbeatArrival : Statement (.heartbeatArrival) := fun _ h => nomatch h

theorem rejoin : Statement (.rejoin) := fun _ h => nomatch h

theorem decrementApply : Statement (.decrementApply) := fun _ h => nomatch h

theorem killApply : Statement (.killApply) := fun _ h => nomatch h

theorem placementPass : Statement (.placementPass) := fun _ h => nomatch h

theorem tResExpiry : Statement (.tResExpiry) := fun _ h => nomatch h

theorem stagingMergeClose : Statement (.stagingMergeClose) := fun _ h => nomatch h

theorem stagingComplete : Statement (.stagingComplete) := fun _ h => nomatch h

theorem taskStart : Statement (.taskStart) := fun _ h => nomatch h

theorem pipelineStart : Statement (.pipelineStart) := fun _ h => nomatch h

theorem barrierArrival : Statement (.barrierArrival) := fun _ h => nomatch h

theorem taskCompletion : Statement (.taskCompletion) := fun _ h => nomatch h

theorem ladderT1Expiry : Statement (.ladderT1Expiry) := fun _ h => nomatch h

theorem ladderT2Expiry : Statement (.ladderT2Expiry) := fun _ h => nomatch h

theorem taskSaveComplete : Statement (.taskSaveComplete) := fun _ h => nomatch h

theorem hangProgressReport : Statement (.hangProgressReport) := fun _ h => nomatch h

theorem debugHalt : Statement (.debugHalt) := fun _ h => nomatch h

theorem debugHaltRelease : Statement (.debugHaltRelease) := fun _ h => nomatch h

theorem openRequest : Statement (.openRequest) := fun _ h => nomatch h

theorem openRepresentTimer : Statement (.openRepresentTimer) := fun _ h => nomatch h

theorem bindApply : Statement (.bindApply) := fun _ h => nomatch h

theorem confirmationArrival : Statement (.confirmationArrival) := fun _ h => nomatch h

theorem provisionalWithdraw : Statement (.provisionalWithdraw) := fun _ h => nomatch h

theorem hubReplyArrival : Statement (.hubReplyArrival) := fun _ h => nomatch h

theorem prepareRequest : Statement (.prepareRequest) := fun _ h => nomatch h

theorem prepareReplyArrival : Statement (.prepareReplyArrival) := fun _ h => nomatch h

theorem decisionArrival : Statement (.decisionArrival) := fun _ h => nomatch h

theorem decisionAckArrival : Statement (.decisionAckArrival) := fun _ h => nomatch h

theorem ntxcAckTimer : Statement (.ntxcAckTimer) := fun _ h => nomatch h

theorem reclaim : Statement (.reclaim) := fun _ h => nomatch h

theorem snapshotRequest : Statement (.snapshotRequest) := fun _ h => nomatch h

theorem machineCheck : Statement (.machineCheck) := fun _ h => nomatch h

theorem masterUnfreeze : Statement (.masterUnfreeze) := fun _ h => nomatch h

theorem masterReset : Statement (.masterReset) := fun _ h => nomatch h

theorem lifeLogEpoch : Statement (.lifeLogEpoch) := fun _ h => nomatch h

theorem throttleStepDown : Statement .throttleStepDown := fun _ h => nomatch h

end Laws.RoundTrip

end Sys2Proof
end

