-- ==== Sys2Proof/Tests/Slice0.lean ====
section
/-! SUPPORT. The tests: ill-formed terms that `wf` refuses, words written out from the spec's encodings with what they decode to, for every
statement with hypotheses small states that meet them, and meanings on small states whose results the spec gives. -/

namespace Sys2Proof.Tests

set_option Elab.async false

open Sys2Proof Sys2Proof.Machine Sys2Proof.Safety

/-! ### What the well-formedness check refuses: one ill-formed term for each of its checks -/

/-- None is well formed. -/
def refuses (l : List Instr) : Bool := l.all fun i => !i.wf

/-- PR = 01 (04_encoding.md R61). -/
theorem test_wf_predicate_a : refuses [
    (.bro 1#2 5#3 0x8a5c7#20),
    (.brb 1#2 5#3 0x8a5c7#20),
    (.callo 1#2 5#3 0x8a5c7#20),
    (.ret 1#2 5#3),
    (.trap 1#2 0x5a5#11),
    (.bri 1#2 5#3),
    (.calli 1#2 5#3),
    (.texit 1#2 0xd#5),
    (.hret 1#2),
    (.eret 1#2 5#3),
    (.null 1#2 0x2b#7 0x7f#7),
    (.mov 1#2 0x2b#7 0x7f#7),
    (.mov3 1#2 0x2b#7 0x7f#7 0x43#7),
    (.movi 1#2 0xa5c3#16 0x2b#7),
    (.genu 1#2 0xa5c3#16 0x2b#7),
    (.add 1#2 1#2 0x2b#7 0x7f#7),
    (.sub 1#2 2#2 0x2b#7 0x7f#7),
    (.and 1#2 2#2 0x2b#7 0x7f#7),
    (.or 1#2 2#2 0x2b#7 0x7f#7),
    (.xor 1#2 2#2 0x2b#7 0x7f#7),
    (.andn 1#2 2#2 0x2b#7 0x7f#7),
    (.shl 1#2 2#2 0x2b#7 0x7f#7),
    (.shr 1#2 2#2 0x2b#7 0x7f#7),
    (.sra 1#2 2#2 0x2b#7 0x7f#7),
    (.rotl 1#2 2#2 0x2b#7 0x7f#7),
    (.min 1#2 2#2 0x2b#7 0x7f#7),
    (.max 1#2 2#2 0x2b#7 0x7f#7),
    (.minu 1#2 2#2 0x2b#7 0x7f#7),
    (.maxu 1#2 2#2 0x2b#7 0x7f#7),
    (.mul 1#2 2#2 0x2b#7 0x7f#7),
    (.mulh 1#2 2#2 0x2b#7 0x7f#7),
    (.mulhu 1#2 2#2 0x2b#7 0x7f#7),
    (.div 1#2 2#2 0x2b#7 0x7f#7),
    (.divu 1#2 2#2 0x2b#7 0x7f#7),
    (.rem 1#2 2#2 0x2b#7 0x7f#7),
    (.remu 1#2 2#2 0x2b#7 0x7f#7),
    (.clz 1#2 2#2 0x2b#7 0x7f#7),
    (.ctz 1#2 2#2 0x2b#7 0x7f#7),
    (.popc 1#2 2#2 0x2b#7 0x7f#7),
    (.sext 1#2 2#2 0x2b#7 0x7f#7),
    (.zext 1#2 2#2 0x2b#7 0x7f#7),
    (.adds 1#2 2#2 0x2b#7 0x7f#7),
    (.subs 1#2 2#2 0x2b#7 0x7f#7),
    (.addi 1#2 0x5a5#11 0x2b#7),
    (.andi 1#2 0x5a5#11 0x2b#7),
    (.ori 1#2 0x5a5#11 0x2b#7),
    (.xori 1#2 0x5a5#11 0x2b#7),
    (.shli 1#2 0x2d#11 0x2b#7),
    (.shri 1#2 0x2d#11 0x2b#7),
    (.srai 1#2 0x2d#11 0x2b#7),
    (.mini 1#2 0x5a5#11 0x2b#7),
    (.maxi 1#2 0x5a5#11 0x2b#7),
    (.muli 1#2 0x5a5#11 0x2b#7),
    (.teq 1#2 0x2b#7 0x7f#7),
    (.tne 1#2 0x2b#7 0x7f#7),
    (.tlt 1#2 0x2b#7 0x7f#7),
    (.tle 1#2 0x2b#7 0x7f#7),
    (.tltu 1#2 0x2b#7 0x7f#7),
    (.tleu 1#2 0x2b#7 0x7f#7),
    (.teqi 1#2 0x5a5#11 0x2b#7),
    (.tnei 1#2 0x5a5#11 0x2b#7),
    (.tlti 1#2 0x5a5#11 0x2b#7),
    (.tlei 1#2 0x5a5#11 0x2b#7),
    (.tltui 1#2 0x5a5#11 0x2b#7),
    (.tleui 1#2 0x5a5#11 0x2b#7),
    (.tgti 1#2 0x5a5#11 0x2b#7),
    (.tgei 1#2 0x5a5#11 0x2b#7),
    (.pand 1#2 0x2b#7 0x7f#7),
    (.por 1#2 0x2b#7 0x7f#7),
    (.pnot 1#2 0x2b#7 0x7f#7),
    (.mfs 1#2 0x1a#9 0x2b#7 0x7f#7),
    (.mts 1#2 0x13#5 0x1a#9),
    (.nop 1#2),
    (.ldl 1#2 0x13#5 1#1 2#2 0x55#7 0x2b#7),
    (.stl 1#2 0x13#5 2#2 0x1a5b#14),
    (.vldl 1#2 0x13#5 9#4 0x55#7 0x2b#7),
    (.vstl 1#2 0x13#5 0x1a5b#14),
    (.vgtl 1#2 0x13#5 9#4 0x55#7 0x2b#7),
    (.land 1#2 0x13#5 0x29#6 0x2b#7),
    (.fence 1#2 0x13#5 5#3 2#2 1#2),
    (.tldx 1#2 0x13#5 5#3 0x55#7 0x2b#7),
    (.tldxOffset 1#2 0x13#5 5#3 5#3 9#4 0x2b#7),
    (.tstx 1#2 0x13#5 5#3 0x1a5b#14),
    (.tlds 1#2 0x13#5 5#3 0x55#7 0x2b#7),
    (.tsts 1#2 0x13#5 5#3 0x1a5b#14),
    (.amol 1#2 0x13#5 7#4 2#2 1#1 0x63#7),
    (.amot 1#2 0x13#5 7#4 2#2 1#1 5#3 0x63#7),
    (.vamot 1#2 0x13#5 5#3 2#2),
    (.vadd 1#2 0x2b#7 0x7f#7),
    (.vsub 1#2 0x2b#7 0x7f#7),
    (.vmul 1#2 0x2b#7 0x7f#7),
    (.vmin 1#2 0x2b#7 0x7f#7),
    (.vmax 1#2 0x2b#7 0x7f#7),
    (.vabs 1#2 0x2b#7 0x7f#7),
    (.vneg 1#2 0x2b#7 0x7f#7)] = true := by decide

/-- The same. -/
theorem test_wf_predicate_b : refuses [
    (.vand 1#2 0x2b#7 0x7f#7),
    (.vor 1#2 0x2b#7 0x7f#7),
    (.vxor 1#2 0x2b#7 0x7f#7),
    (.vshl 1#2 0x2b#7 0x7f#7),
    (.vshr 1#2 0x2b#7 0x7f#7),
    (.vsra 1#2 0x2b#7 0x7f#7),
    (.vadds 1#2 0x2b#7 0x7f#7),
    (.vsubs 1#2 0x2b#7 0x7f#7),
    (.vceq 1#2 0x2b#7 0x7f#7),
    (.vcne 1#2 0x2b#7 0x7f#7),
    (.vclt 1#2 0x2b#7 0x7f#7),
    (.vcle 1#2 0x2b#7 0x7f#7),
    (.vcgt 1#2 0x2b#7 0x7f#7),
    (.vcge 1#2 0x2b#7 0x7f#7),
    (.vrcp 1#2 0x2b#7 0x7f#7),
    (.vrsq 1#2 0x2b#7 0x7f#7),
    (.vsqrt 1#2 0x2b#7 0x7f#7),
    (.vexp2 1#2 0x2b#7 0x7f#7),
    (.vlog2 1#2 0x2b#7 0x7f#7),
    (.vtanh 1#2 0x2b#7 0x7f#7),
    (.vrsum 1#2 0x2b#7 0x7f#7),
    (.vrmax 1#2 0x2b#7 0x7f#7),
    (.vrmin 1#2 0x2b#7 0x7f#7),
    (.vbcast 1#2 9#4 0x2b#7 0x7f#7),
    (.vext 1#2 0x2b#7 0x7f#7),
    (.vperm 1#2 0x2b#7 0x7f#7),
    (.vrot 1#2 0x2b#7 0x7f#7),
    (.viota 1#2 0xa#4 0x2b#7 0x7f#7),
    (.vpsum 1#2 0x2b#7 0x7f#7),
    (.vcvt 1#2 0xa#4 0x2b#7 0x7f#7),
    (.vpack 1#2 9#4 0x2b#7 0x7f#7),
    (.vunpk 1#2 1#1 1#1 2#2 0x2b#7 0x7f#7),
    (.vretag 1#2 9#4 0x2b#7 0x7f#7),
    (.mand 1#2 0x2b#7 0x7f#7),
    (.mor 1#2 0x2b#7 0x7f#7),
    (.mxor 1#2 0x2b#7 0x7f#7),
    (.mnot 1#2 0x2b#7 0x7f#7),
    (.mpop 1#2 0x2b#7 0x7f#7),
    (.mfirst 1#2 0x2b#7 0x7f#7),
    (.gset 1#2 0x13#5 5#3 0x2b#7),
    (.sbind 1#2 0x13#5 5#3),
    (.csetg 1#2 0x13#5 9#4),
    (.cpy 1#2 0x13#5 1#1 9#4 0x2b#7),
    (.cpyw 1#2 0x13#5 9#4 0x2b#7),
    (.cpym 1#2 0x13#5 9#4 0x2b#7),
    (.deal 1#2 0x13#5 9#4 0x2b#7),
    (.cpyt 1#2 0x13#5 0xd#5 0x2b#7),
    (.cpytLand 1#2 0x13#5 9#4 0x2b#7),
    (.twait 1#2 0x13#5 2#2 0x2b#7),
    (.tread 1#2 0x13#5 1#1 2#2 0x2b#7),
    (.msetg 1#2 0x13#5 9#4 0x2b#7),
    (.mma 1#2 0x13#5 9#4 2#2 0x2b#7),
    (.mmaz 1#2 0x13#5 9#4 2#2 0x2b#7),
    (.mmaq 1#2 0x13#5 9#4 2#2 0x2b#7),
    (.mldb 1#2 0x13#5 1#1 0x2b#7),
    (.mplay 1#2 0x13#5 1#1 0x2b#7),
    (.mst 1#2 0x13#5 9#4 2#2 0x2b#7),
    (.mlda 1#2 0x13#5 2#2 0x2b#7),
    (.mzero 1#2 0x13#5 2#2 0x2b#7),
    (.mrls 1#2 0x13#5 1#1 0x2b#7),
    (.mseat 1#2 0x13#5 0x2b#7),
    (.send 1#2 0x13#5 1#1 0xd#5 0x2b#7),
    (.sendq 1#2 0x13#5 1#1 0xd#5 0x2b#7),
    (.req 1#2 0x13#5 1#1 0xd#5 0x2b#7),
    (.reply 1#2 0x13#5 1#1 0xd#5 0x2b#7),
    (.xput 1#2 0x13#5 1#1 0xd#5 0x2b#7),
    (.xamo 1#2 0x13#5 1#1 6#4 0x2b#7),
    (.mbxset 1#2 0x13#5 2#2 0x2b#7),
    (.frget 1#2 0x13#5 1#1 0x2b#7),
    (.frput 1#2 0x13#5 0x2b#7),
    (.xroute 1#2 0x13#5 0x2b#7),
    (.xflush 1#2 0x13#5 0x2b#7),
    (.tdec 1#2 0x13#5),
    (.tspawn 1#2 0x13#5 0x2b#7),
    (.tjoin 1#2 0x13#5 0x2b#7),
    (.tstat 1#2 0x13#5 2#2 0x2b#7),
    (.tkill 1#2 0x13#5 1#1),
    (.ginst 1#2 0x13#5 0x2b#7),
    (.nopen 1#2 0x13#5 1#1 0xd#5 0x2b#7),
    (.nclose 1#2 0x13#5),
    (.nbind 1#2 0x13#5),
    (.ntxb 1#2 0x13#5 0x2b#7),
    (.ntxc 1#2 0x13#5 0x63#7),
    (.ntxx 1#2 0x13#5),
    (.nsnap 1#2 0x13#5 0x2b#7),
    (.nmake 1#2 0x13#5 0x2b#7),
    (.nqry 1#2 0x13#5 2#2 0x2b#7),
    (.svc 1#2 0x13#5 0x2b#7),
    (.bkpt 1#2 0x13#5 0x29#6),
    (.ctxsv 1#2 0x13#5),
    (.ctxrs 1#2 0x13#5),
    (.tlbi 1#2 0x13#5 2#2)] = true := by decide

/-- A reserved target, 0x68 to 0x7E (R59). -/
theorem test_wf_target_a : refuses [
    (.null 2#2 0x68#7 0x7f#7),
    (.null 2#2 0x2b#7 0x7e#7),
    (.mov 3#2 0x70#7 0x7f#7),
    (.mov 3#2 0x2b#7 0x68#7),
    (.mov3 2#2 0x7e#7 0x7f#7 0x43#7),
    (.mov3 2#2 0x2b#7 0x70#7 0x43#7),
    (.mov3 2#2 0x2b#7 0x7f#7 0x68#7),
    (.movi 2#2 0xa5c3#16 0x7e#7),
    (.genu 2#2 0xa5c3#16 0x70#7),
    (.add 3#2 1#2 0x68#7 0x7f#7),
    (.add 3#2 1#2 0x2b#7 0x7e#7),
    (.sub 3#2 2#2 0x70#7 0x7f#7),
    (.sub 3#2 2#2 0x2b#7 0x68#7),
    (.and 3#2 2#2 0x7e#7 0x7f#7),
    (.and 3#2 2#2 0x2b#7 0x70#7),
    (.or 2#2 2#2 0x68#7 0x7f#7),
    (.or 2#2 2#2 0x2b#7 0x7e#7),
    (.xor 3#2 2#2 0x70#7 0x7f#7),
    (.xor 3#2 2#2 0x2b#7 0x68#7),
    (.andn 2#2 2#2 0x7e#7 0x7f#7),
    (.andn 2#2 2#2 0x2b#7 0x70#7),
    (.shl 3#2 2#2 0x68#7 0x7f#7),
    (.shl 3#2 2#2 0x2b#7 0x7e#7),
    (.shr 3#2 2#2 0x70#7 0x7f#7),
    (.shr 3#2 2#2 0x2b#7 0x68#7),
    (.sra 3#2 2#2 0x7e#7 0x7f#7),
    (.sra 3#2 2#2 0x2b#7 0x70#7),
    (.rotl 2#2 2#2 0x68#7 0x7f#7),
    (.rotl 2#2 2#2 0x2b#7 0x7e#7),
    (.min 3#2 2#2 0x70#7 0x7f#7),
    (.min 3#2 2#2 0x2b#7 0x68#7),
    (.max 3#2 2#2 0x7e#7 0x7f#7),
    (.max 3#2 2#2 0x2b#7 0x70#7),
    (.minu 2#2 2#2 0x68#7 0x7f#7),
    (.minu 2#2 2#2 0x2b#7 0x7e#7),
    (.maxu 2#2 2#2 0x70#7 0x7f#7),
    (.maxu 2#2 2#2 0x2b#7 0x68#7),
    (.mul 3#2 2#2 0x7e#7 0x7f#7),
    (.mul 3#2 2#2 0x2b#7 0x70#7),
    (.mulh 2#2 2#2 0x68#7 0x7f#7),
    (.mulh 2#2 2#2 0x2b#7 0x7e#7),
    (.mulhu 3#2 2#2 0x70#7 0x7f#7),
    (.mulhu 3#2 2#2 0x2b#7 0x68#7),
    (.div 3#2 2#2 0x7e#7 0x7f#7),
    (.div 3#2 2#2 0x2b#7 0x70#7),
    (.divu 2#2 2#2 0x68#7 0x7f#7),
    (.divu 2#2 2#2 0x2b#7 0x7e#7),
    (.rem 3#2 2#2 0x70#7 0x7f#7),
    (.rem 3#2 2#2 0x2b#7 0x68#7),
    (.remu 2#2 2#2 0x7e#7 0x7f#7),
    (.remu 2#2 2#2 0x2b#7 0x70#7),
    (.clz 3#2 2#2 0x68#7 0x7f#7),
    (.clz 3#2 2#2 0x2b#7 0x7e#7),
    (.ctz 3#2 2#2 0x70#7 0x7f#7),
    (.ctz 3#2 2#2 0x2b#7 0x68#7),
    (.popc 2#2 2#2 0x7e#7 0x7f#7),
    (.popc 2#2 2#2 0x2b#7 0x70#7),
    (.sext 2#2 2#2 0x68#7 0x7f#7),
    (.sext 2#2 2#2 0x2b#7 0x7e#7),
    (.zext 2#2 2#2 0x70#7 0x7f#7),
    (.zext 2#2 2#2 0x2b#7 0x68#7),
    (.adds 2#2 2#2 0x7e#7 0x7f#7),
    (.adds 2#2 2#2 0x2b#7 0x70#7),
    (.subs 2#2 2#2 0x68#7 0x7f#7),
    (.subs 2#2 2#2 0x2b#7 0x7e#7),
    (.addi 2#2 0x5a5#11 0x70#7),
    (.andi 2#2 0x5a5#11 0x68#7),
    (.ori 3#2 0x5a5#11 0x7e#7),
    (.xori 2#2 0x5a5#11 0x70#7),
    (.shli 2#2 0x2d#11 0x68#7),
    (.shri 2#2 0x2d#11 0x7e#7),
    (.srai 2#2 0x2d#11 0x70#7),
    (.mini 2#2 0x5a5#11 0x68#7),
    (.maxi 2#2 0x5a5#11 0x7e#7),
    (.muli 2#2 0x5a5#11 0x70#7),
    (.teq 3#2 0x68#7 0x7f#7),
    (.teq 3#2 0x2b#7 0x7e#7),
    (.tne 3#2 0x70#7 0x7f#7),
    (.tne 3#2 0x2b#7 0x68#7),
    (.tlt 3#2 0x7e#7 0x7f#7),
    (.tlt 3#2 0x2b#7 0x70#7),
    (.tle 3#2 0x68#7 0x7f#7),
    (.tle 3#2 0x2b#7 0x7e#7),
    (.tltu 2#2 0x70#7 0x7f#7),
    (.tltu 2#2 0x2b#7 0x68#7),
    (.tleu 2#2 0x7e#7 0x7f#7),
    (.tleu 2#2 0x2b#7 0x70#7),
    (.teqi 2#2 0x5a5#11 0x68#7),
    (.tnei 2#2 0x5a5#11 0x7e#7),
    (.tlti 2#2 0x5a5#11 0x70#7),
    (.tlei 2#2 0x5a5#11 0x68#7),
    (.tltui 3#2 0x5a5#11 0x7e#7),
    (.tleui 3#2 0x5a5#11 0x70#7),
    (.tgti 2#2 0x5a5#11 0x68#7),
    (.tgei 2#2 0x5a5#11 0x7e#7)] = true := by decide

/-- The same. -/
theorem test_wf_target_b : refuses [
    (.pand 2#2 0x70#7 0x7f#7),
    (.pand 2#2 0x2b#7 0x68#7),
    (.por 3#2 0x7e#7 0x7f#7),
    (.por 3#2 0x2b#7 0x70#7),
    (.pnot 2#2 0x68#7 0x7f#7),
    (.pnot 2#2 0x2b#7 0x7e#7),
    (.mfs 3#2 0x1a#9 0x70#7 0x7f#7),
    (.mfs 3#2 0x1a#9 0x2b#7 0x68#7),
    (.ldl 3#2 0x13#5 1#1 2#2 0x55#7 0x7e#7),
    (.vldl 2#2 0x13#5 9#4 0x55#7 0x70#7),
    (.vgtl 2#2 0x13#5 9#4 0x55#7 0x68#7),
    (.land 2#2 0x13#5 0x29#6 0x7e#7),
    (.tldx 2#2 0x13#5 5#3 0x55#7 0x70#7),
    (.tldxOffset 2#2 0x13#5 5#3 5#3 9#4 0x68#7),
    (.tlds 2#2 0x13#5 5#3 0x55#7 0x7e#7),
    (.amol 2#2 0x13#5 7#4 2#2 1#1 0x70#7),
    (.amot 2#2 0x13#5 7#4 2#2 1#1 5#3 0x68#7),
    (.casLocal 0x13#5 2#2 1#1 0x7e#7),
    (.casTensor 0x13#5 5#3 2#2 1#1 0x70#7),
    (.vadd 2#2 0x68#7 0x7f#7),
    (.vadd 2#2 0x2b#7 0x7e#7),
    (.vsub 2#2 0x70#7 0x7f#7),
    (.vsub 2#2 0x2b#7 0x68#7),
    (.vmul 2#2 0x7e#7 0x7f#7),
    (.vmul 2#2 0x2b#7 0x70#7),
    (.vmin 2#2 0x68#7 0x7f#7),
    (.vmin 2#2 0x2b#7 0x7e#7),
    (.vmax 2#2 0x70#7 0x7f#7),
    (.vmax 2#2 0x2b#7 0x68#7),
    (.vabs 2#2 0x7e#7 0x7f#7),
    (.vabs 2#2 0x2b#7 0x70#7),
    (.vneg 2#2 0x68#7 0x7f#7),
    (.vneg 2#2 0x2b#7 0x7e#7),
    (.vand 2#2 0x70#7 0x7f#7),
    (.vand 2#2 0x2b#7 0x68#7),
    (.vor 3#2 0x7e#7 0x7f#7),
    (.vor 3#2 0x2b#7 0x70#7),
    (.vxor 2#2 0x68#7 0x7f#7),
    (.vxor 2#2 0x2b#7 0x7e#7),
    (.vshl 2#2 0x70#7 0x7f#7),
    (.vshl 2#2 0x2b#7 0x68#7),
    (.vshr 2#2 0x7e#7 0x7f#7),
    (.vshr 2#2 0x2b#7 0x70#7),
    (.vsra 2#2 0x68#7 0x7f#7),
    (.vsra 2#2 0x2b#7 0x7e#7),
    (.vadds 3#2 0x70#7 0x7f#7),
    (.vadds 3#2 0x2b#7 0x68#7),
    (.vsubs 3#2 0x7e#7 0x7f#7),
    (.vsubs 3#2 0x2b#7 0x70#7),
    (.vfma 0x68#7 0x7f#7),
    (.vfma 0x2b#7 0x7e#7),
    (.vfms 0x70#7 0x7f#7),
    (.vfms 0x2b#7 0x68#7),
    (.vfnma 0x7e#7 0x7f#7),
    (.vfnma 0x2b#7 0x70#7),
    (.vceq 2#2 0x68#7 0x7f#7),
    (.vceq 2#2 0x2b#7 0x7e#7),
    (.vcne 2#2 0x70#7 0x7f#7),
    (.vcne 2#2 0x2b#7 0x68#7),
    (.vclt 2#2 0x7e#7 0x7f#7),
    (.vclt 2#2 0x2b#7 0x70#7),
    (.vcle 2#2 0x68#7 0x7f#7),
    (.vcle 2#2 0x2b#7 0x7e#7),
    (.vcgt 2#2 0x70#7 0x7f#7),
    (.vcgt 2#2 0x2b#7 0x68#7),
    (.vcge 2#2 0x7e#7 0x7f#7),
    (.vcge 2#2 0x2b#7 0x70#7),
    (.vsel 0x68#7 0x7f#7),
    (.vsel 0x2b#7 0x7e#7),
    (.vrcp 2#2 0x70#7 0x7f#7),
    (.vrcp 2#2 0x2b#7 0x68#7),
    (.vrsq 2#2 0x7e#7 0x7f#7),
    (.vrsq 2#2 0x2b#7 0x70#7),
    (.vsqrt 3#2 0x68#7 0x7f#7),
    (.vsqrt 3#2 0x2b#7 0x7e#7),
    (.vexp2 3#2 0x70#7 0x7f#7),
    (.vexp2 3#2 0x2b#7 0x68#7),
    (.vlog2 3#2 0x7e#7 0x7f#7),
    (.vlog2 3#2 0x2b#7 0x70#7),
    (.vtanh 3#2 0x68#7 0x7f#7),
    (.vtanh 3#2 0x2b#7 0x7e#7),
    (.vrsum 3#2 0x70#7 0x7f#7),
    (.vrsum 3#2 0x2b#7 0x68#7),
    (.vrmax 3#2 0x7e#7 0x7f#7),
    (.vrmax 3#2 0x2b#7 0x70#7),
    (.vrmin 3#2 0x68#7 0x7f#7),
    (.vrmin 3#2 0x2b#7 0x7e#7),
    (.vbcast 2#2 9#4 0x70#7 0x7f#7),
    (.vbcast 2#2 9#4 0x2b#7 0x68#7),
    (.vext 2#2 0x7e#7 0x7f#7),
    (.vext 2#2 0x2b#7 0x70#7),
    (.vins 0x68#7 0x7f#7),
    (.vins 0x2b#7 0x7e#7),
    (.vperm 3#2 0x70#7 0x7f#7),
    (.vperm 3#2 0x2b#7 0x68#7)] = true := by decide

/-- The same. -/
theorem test_wf_target_c : refuses [
    (.vrot 2#2 0x7e#7 0x7f#7),
    (.vrot 2#2 0x2b#7 0x70#7),
    (.viota 3#2 0xa#4 0x68#7 0x7f#7),
    (.viota 3#2 0xa#4 0x2b#7 0x7e#7),
    (.vpsum 3#2 0x70#7 0x7f#7),
    (.vpsum 3#2 0x2b#7 0x68#7),
    (.vcvt 2#2 0xa#4 0x7e#7 0x7f#7),
    (.vcvt 2#2 0xa#4 0x2b#7 0x70#7),
    (.vqnt 5#3 0x68#7 0x7f#7),
    (.vqnt 5#3 0x2b#7 0x7e#7),
    (.vdqnt 0#1 4#3 0x70#7 0x7f#7),
    (.vdqnt 0#1 4#3 0x2b#7 0x68#7),
    (.vpack 3#2 9#4 0x7e#7 0x7f#7),
    (.vpack 3#2 9#4 0x2b#7 0x70#7),
    (.vunpk 3#2 1#1 1#1 2#2 0x68#7 0x7f#7),
    (.vunpk 3#2 1#1 1#1 2#2 0x2b#7 0x7e#7),
    (.vretag 2#2 9#4 0x70#7 0x7f#7),
    (.vretag 2#2 9#4 0x2b#7 0x68#7),
    (.mand 2#2 0x7e#7 0x7f#7),
    (.mand 2#2 0x2b#7 0x70#7),
    (.mor 3#2 0x68#7 0x7f#7),
    (.mor 3#2 0x2b#7 0x7e#7),
    (.mxor 2#2 0x70#7 0x7f#7),
    (.mxor 2#2 0x2b#7 0x68#7),
    (.mnot 2#2 0x7e#7 0x7f#7),
    (.mnot 2#2 0x2b#7 0x70#7),
    (.mpop 2#2 0x68#7 0x7f#7),
    (.mpop 2#2 0x2b#7 0x7e#7),
    (.mfirst 2#2 0x70#7 0x7f#7),
    (.mfirst 2#2 0x2b#7 0x68#7),
    (.gset 2#2 0x13#5 5#3 0x7e#7),
    (.cpy 3#2 0x13#5 1#1 9#4 0x70#7),
    (.cpyw 2#2 0x13#5 9#4 0x68#7),
    (.cpym 2#2 0x13#5 9#4 0x7e#7),
    (.deal 2#2 0x13#5 9#4 0x70#7),
    (.cpyt 2#2 0x13#5 0xd#5 0x68#7),
    (.cpytLand 2#2 0x13#5 9#4 0x7e#7),
    (.twait 3#2 0x13#5 2#2 0x70#7),
    (.tread 3#2 0x13#5 1#1 2#2 0x68#7),
    (.msetg 3#2 0x13#5 9#4 0x7e#7),
    (.mma 3#2 0x13#5 9#4 2#2 0x70#7),
    (.mmaz 2#2 0x13#5 9#4 2#2 0x68#7),
    (.mmaq 2#2 0x13#5 9#4 2#2 0x7e#7),
    (.mldb 2#2 0x13#5 1#1 0x70#7),
    (.mplay 3#2 0x13#5 1#1 0x68#7),
    (.mst 3#2 0x13#5 9#4 2#2 0x7e#7),
    (.mlda 2#2 0x13#5 2#2 0x70#7),
    (.mzero 3#2 0x13#5 2#2 0x68#7),
    (.mrls 2#2 0x13#5 1#1 0x7e#7),
    (.mseat 3#2 0x13#5 0x70#7),
    (.send 2#2 0x13#5 1#1 0xd#5 0x68#7),
    (.sendq 3#2 0x13#5 1#1 0xd#5 0x7e#7),
    (.req 3#2 0x13#5 1#1 0xd#5 0x70#7),
    (.reply 3#2 0x13#5 1#1 0xd#5 0x68#7),
    (.xput 2#2 0x13#5 1#1 0xd#5 0x7e#7),
    (.xamo 2#2 0x13#5 1#1 6#4 0x70#7),
    (.mbxset 2#2 0x13#5 2#2 0x68#7),
    (.frget 3#2 0x13#5 1#1 0x7e#7),
    (.frput 3#2 0x13#5 0x70#7),
    (.xroute 2#2 0x13#5 0x68#7),
    (.xflush 2#2 0x13#5 0x7e#7),
    (.tspawn 2#2 0x13#5 0x70#7),
    (.tjoin 3#2 0x13#5 0x68#7),
    (.tstat 3#2 0x13#5 2#2 0x7e#7),
    (.ginst 3#2 0x13#5 0x70#7),
    (.nopen 3#2 0x13#5 1#1 0xd#5 0x68#7),
    (.ntxb 2#2 0x13#5 0x7e#7),
    (.ntxc 2#2 0x13#5 0x70#7),
    (.nsnap 3#2 0x13#5 0x68#7),
    (.nmake 3#2 0x13#5 0x7e#7),
    (.nqry 2#2 0x13#5 2#2 0x70#7),
    (.svc 3#2 0x13#5 0x68#7)] = true := by decide

/-- A data slot or a predicate slot where a write entry belongs (R161, R346). -/
theorem test_wf_write_target : refuses [
    (.amol 2#2 0x13#5 7#4 2#2 1#1 0x5f#7),
    (.amol 2#2 0x13#5 7#4 2#2 1#1 0#7),
    (.amot 2#2 0x13#5 7#4 2#2 1#1 5#3 0x5f#7),
    (.amot 2#2 0x13#5 7#4 2#2 1#1 5#3 0#7),
    (.casLocal 0x13#5 2#2 1#1 0x5f#7),
    (.casLocal 0x13#5 2#2 1#1 0#7),
    (.casTensor 0x13#5 5#3 2#2 1#1 0x5f#7),
    (.casTensor 0x13#5 5#3 2#2 1#1 0#7),
    (.ntxc 2#2 0x13#5 0x5f#7),
    (.ntxc 2#2 0x13#5 0#7)] = true := by decide

/-- MOD width 3 (R127) and sign-extension width 3. -/
theorem test_wf_width : refuses [
    (.add 3#2 3#2 0x2b#7 0x7f#7),
    (.sub 3#2 3#2 0x2b#7 0x7f#7),
    (.and 3#2 3#2 0x2b#7 0x7f#7),
    (.or 2#2 3#2 0x2b#7 0x7f#7),
    (.xor 3#2 3#2 0x2b#7 0x7f#7),
    (.andn 2#2 3#2 0x2b#7 0x7f#7),
    (.shl 3#2 3#2 0x2b#7 0x7f#7),
    (.shr 3#2 3#2 0x2b#7 0x7f#7),
    (.sra 3#2 3#2 0x2b#7 0x7f#7),
    (.rotl 2#2 3#2 0x2b#7 0x7f#7),
    (.min 3#2 3#2 0x2b#7 0x7f#7),
    (.max 3#2 3#2 0x2b#7 0x7f#7),
    (.minu 2#2 3#2 0x2b#7 0x7f#7),
    (.maxu 2#2 3#2 0x2b#7 0x7f#7),
    (.mul 3#2 3#2 0x2b#7 0x7f#7),
    (.mulh 2#2 3#2 0x2b#7 0x7f#7),
    (.mulhu 3#2 3#2 0x2b#7 0x7f#7),
    (.div 3#2 3#2 0x2b#7 0x7f#7),
    (.divu 2#2 3#2 0x2b#7 0x7f#7),
    (.rem 3#2 3#2 0x2b#7 0x7f#7),
    (.remu 2#2 3#2 0x2b#7 0x7f#7),
    (.clz 3#2 3#2 0x2b#7 0x7f#7),
    (.ctz 3#2 3#2 0x2b#7 0x7f#7),
    (.popc 2#2 3#2 0x2b#7 0x7f#7),
    (.adds 2#2 3#2 0x2b#7 0x7f#7),
    (.subs 2#2 3#2 0x2b#7 0x7f#7),
    (.sext 2#2 3#2 0x2b#7 0x7f#7),
    (.zext 2#2 3#2 0x2b#7 0x7f#7)] = true := by decide

/-- A shift by 64 or more (R128). -/
theorem test_wf_shift : refuses [
    (.shli 2#2 0x40#11 0x2b#7),
    (.shli 2#2 0x7ff#11 0x2b#7),
    (.shri 2#2 0x40#11 0x2b#7),
    (.shri 2#2 0x7ff#11 0x2b#7),
    (.srai 2#2 0x40#11 0x2b#7),
    (.srai 2#2 0x7ff#11 0x2b#7)] = true := by decide

/-- Special registers that do not exist, or cannot be written (R120, R121). -/
theorem test_wf_special : refuses [
    (.mfs 3#2 5#9 0x2b#7 0x7f#7),
    (.mfs 3#2 7#9 0x2b#7 0x7f#7),
    (.mfs 3#2 0xb#9 0x2b#7 0x7f#7),
    (.mfs 3#2 0xf#9 0x2b#7 0x7f#7),
    (.mfs 3#2 0x13#9 0x2b#7 0x7f#7),
    (.mfs 3#2 0x1b#9 0x2b#7 0x7f#7),
    (.mfs 3#2 0x23#9 0x2b#7 0x7f#7),
    (.mfs 3#2 0x38#9 0x2b#7 0x7f#7),
    (.mfs 3#2 0x102#9 0x2b#7 0x7f#7),
    (.mfs 3#2 0x1ff#9 0x2b#7 0x7f#7),
    (.mts 3#2 0x13#5 0#9),
    (.mts 3#2 0x13#5 1#9),
    (.mts 3#2 0x13#5 4#9),
    (.mts 3#2 0x13#5 8#9),
    (.mts 3#2 0x13#5 0xa#9),
    (.mts 3#2 0x13#5 0x30#9),
    (.mts 3#2 0x13#5 0x40#9),
    (.mts 3#2 0x13#5 0x102#9)] = true := by decide

/-- Load widths, tags, fences, atomic operations and orders (10_be_local_memory.md, 11_tensor_access.md). -/
theorem test_wf_memory : refuses [
    (.ldl 3#2 0x13#5 1#1 3#2 0x55#7 0x2b#7),
    (.vldl 2#2 0x13#5 3#4 0x55#7 0x2b#7),
    (.vldl 2#2 0x13#5 0xf#4 0x55#7 0x2b#7),
    (.cpytLand 2#2 0x13#5 3#4 0x2b#7),
    (.cpytLand 2#2 0x13#5 0xf#4 0x2b#7),
    (.vgtl 2#2 0x13#5 6#4 0x55#7 0x2b#7),
    (.vgtl 2#2 0x13#5 0xe#4 0x55#7 0x2b#7),
    (.vbcast 2#2 6#4 0x2b#7 0x7f#7),
    (.vbcast 2#2 0xe#4 0x2b#7 0x7f#7),
    (.fence 3#2 0x13#5 0#3 0#2 0#2),
    (.fence 3#2 0x13#5 1#3 0#2 1#2),
    (.amol 2#2 0x13#5 9#4 2#2 1#1 0x63#7),
    (.amot 2#2 0x13#5 9#4 2#2 1#1 5#3 0x63#7),
    (.vamot 3#2 0x13#5 5#3 1#2),
    (.vamot 3#2 0x13#5 5#3 3#2)] = true := by decide

/-- Tags and block forms (09_be_vector.md). -/
theorem test_wf_vector : refuses [
    (.viota 3#2 6#4 0x2b#7 0x7f#7),
    (.viota 3#2 8#4 0x2b#7 0x7f#7),
    (.viota 3#2 0xe#4 0x2b#7 0x7f#7),
    (.vcvt 2#2 0#4 0x2b#7 0x7f#7),
    (.vcvt 2#2 3#4 0x2b#7 0x7f#7),
    (.vcvt 2#2 6#4 0x2b#7 0x7f#7),
    (.vcvt 2#2 0xe#4 0x2b#7 0x7f#7),
    (.vdqnt 1#1 5#3 0x2b#7 0x7f#7),
    (.vdqnt 0#1 7#3 0x2b#7 0x7f#7),
    (.vpack 3#2 8#4 0x2b#7 0x7f#7),
    (.vpack 3#2 0xe#4 0x2b#7 0x7f#7),
    (.vunpk 3#2 0#1 1#1 2#2 0x2b#7 0x7f#7),
    (.vretag 2#2 0#4 0x2b#7 0x7f#7),
    (.vretag 2#2 3#4 0x2b#7 0x7f#7),
    (.vretag 2#2 0xf#4 0x2b#7 0x7f#7)] = true := by decide

/-- Channels, engines, payloads and operations. -/
theorem test_wf_engines : refuses [
    (.cpyw 2#2 0x13#5 0xf#4 0x2b#7),
    (.twait 3#2 0x13#5 3#2 0x2b#7),
    (.tread 3#2 0x13#5 1#1 3#2 0x2b#7),
    (.send 2#2 0x13#5 1#1 0x11#5 0x2b#7),
    (.sendq 3#2 0x13#5 1#1 0x11#5 0x2b#7),
    (.req 3#2 0x13#5 1#1 0x11#5 0x2b#7),
    (.reply 3#2 0x13#5 1#1 0x11#5 0x2b#7),
    (.xamo 2#2 0x13#5 1#1 8#4 0x2b#7),
    (.tstat 3#2 0x13#5 3#2 0x2b#7),
    (.nqry 2#2 0x13#5 3#2 0x2b#7),
    (.tlbi 2#2 0x13#5 3#2)] = true := by decide

/-- Functions, queues, stations, key slots, router ports, regions, throttle steps, measurements and registers that do not exist. -/
theorem test_wf_events : refuses [
    .pcieOutOfWindowRequest 34 0#64,
    .doorbell 34 0 0#32,
    .doorbell 0 8 0#32,
    .cdoneWrite 34 0 0#32,
    .ualinkInboundWrite 0 32 0#64 0#512,
    .keySlotLoad 256 0#128 0#128,
    .routerTableWrite [(144, 0, .west)],
    .routerTableWrite [(0, 144, .east)],
    .regionBlockWrite 4096 0#1024,
    .queueEnable 0 8 true,
    .queueAccept 34 0,
    .completionPost 0 8,
    .hostNop 34 0,
    .kick 0 8,
    .launch 34 0,
    .makeobj 0 8,
    .bindn 34 0,
    .copyin 0 8,
    .copyout 34 0,
    .hostFence 0 8,
    .qstat 34 0,
    .preempt 0 8,
    .resume 34 0,
    .snapshot 0 8,
    .partstat 34 0,
    .spdmRequest (.measurement 0),
    .spdmRequest (.measurement 6),
    .registerWrite (.queueRbase 34 0) 0#64,
    .registerWrite (.queueCbase 0 8) 0#64,
    .registerWrite (.coderate 32 0) 0#64,
    .registerWrite (.coderate 0 8) 0#64,
    .registerWrite (.meldcfg 32) 0#64,
    .registerWrite (.chordValid 0 0 4) 0#64] = true := by decide

/-! ### Words and what they stand for: the fixed bits and the field places of spec/opcode_table.json, written out -/

/-- The decoder reads each word as the instruction beside it, which is well formed, and the encoder gives the word back. -/
def reads (l : List (Nat × Instr)) : Bool :=
  l.all fun x => decodeTableWord 32 x.1 == some x.2 && x.2.wf && encode x.2 == some (BitVec.ofNat 32 x.1)

theorem test_words_control : reads [
    (0x03D8A5C7, (.bro 3#2 5#3 0x8a5c7#20)),
    (0x05D8A5C7, (.brb 3#2 5#3 0x8a5c7#20)),
    (0x07D8A5C7, (.callo 3#2 5#3 0x8a5c7#20)),
    (0x09D00000, (.ret 3#2 5#3)),
    (0x0B02D2FF, (.trap 2#2 0x5a5#11)),
    (0x0D943FFF, (.bri 3#2 5#3)),
    (0x0F943FFF, (.calli 3#2 5#3)),
    (0x11B43FFF, (.texit 3#2 0xd#5)),
    (0x13003FFF, (.hret 2#2)),
    (0x15500000, (.eret 2#2 5#3)),
    (0x170015FF, (.null 2#2 0x2b#7 0x7f#7)),
    (0x198015FF, (.mov 3#2 0x2b#7 0x7f#7)),
    (0x1B0AFFC3, (.mov3 2#2 0x2b#7 0x7f#7 0x43#7)),
    (0x1D52E1AB, (.movi 2#2 0xa5c3#16 0x2b#7)),
    (0x1F52E1AB, (.genu 2#2 0xa5c3#16 0x2b#7))] = true := by decide

theorem test_words_integer : reads [
    (0x218055FF, (.add 3#2 1#2 0x2b#7 0x7f#7)),
    (0x218495FF, (.sub 3#2 2#2 0x2b#7 0x7f#7)),
    (0x218895FF, (.and 3#2 2#2 0x2b#7 0x7f#7)),
    (0x210C95FF, (.or 2#2 2#2 0x2b#7 0x7f#7)),
    (0x219095FF, (.xor 3#2 2#2 0x2b#7 0x7f#7)),
    (0x211495FF, (.andn 2#2 2#2 0x2b#7 0x7f#7)),
    (0x219895FF, (.shl 3#2 2#2 0x2b#7 0x7f#7)),
    (0x219C95FF, (.shr 3#2 2#2 0x2b#7 0x7f#7)),
    (0x21A095FF, (.sra 3#2 2#2 0x2b#7 0x7f#7)),
    (0x212495FF, (.rotl 2#2 2#2 0x2b#7 0x7f#7)),
    (0x21A895FF, (.min 3#2 2#2 0x2b#7 0x7f#7)),
    (0x21AC95FF, (.max 3#2 2#2 0x2b#7 0x7f#7)),
    (0x213095FF, (.minu 2#2 2#2 0x2b#7 0x7f#7)),
    (0x213495FF, (.maxu 2#2 2#2 0x2b#7 0x7f#7)),
    (0x21B895FF, (.mul 3#2 2#2 0x2b#7 0x7f#7)),
    (0x213C95FF, (.mulh 2#2 2#2 0x2b#7 0x7f#7)),
    (0x21C095FF, (.mulhu 3#2 2#2 0x2b#7 0x7f#7)),
    (0x21C495FF, (.div 3#2 2#2 0x2b#7 0x7f#7)),
    (0x214895FF, (.divu 2#2 2#2 0x2b#7 0x7f#7)),
    (0x21CC95FF, (.rem 3#2 2#2 0x2b#7 0x7f#7)),
    (0x215095FF, (.remu 2#2 2#2 0x2b#7 0x7f#7)),
    (0x21D495FF, (.clz 3#2 2#2 0x2b#7 0x7f#7)),
    (0x21D895FF, (.ctz 3#2 2#2 0x2b#7 0x7f#7)),
    (0x215C95FF, (.popc 2#2 2#2 0x2b#7 0x7f#7)),
    (0x216215FF, (.sext 2#2 2#2 0x2b#7 0x7f#7)),
    (0x216615FF, (.zext 2#2 2#2 0x2b#7 0x7f#7)),
    (0x216895FF, (.adds 2#2 2#2 0x2b#7 0x7f#7)),
    (0x216C95FF, (.subs 2#2 2#2 0x2b#7 0x7f#7))] = true := by decide

theorem test_words_immediates_and_tests : reads [
    (0x2302D2AB, (.addi 2#2 0x5a5#11 0x2b#7)),
    (0x2306D2AB, (.andi 2#2 0x5a5#11 0x2b#7)),
    (0x238AD2AB, (.ori 3#2 0x5a5#11 0x2b#7)),
    (0x230ED2AB, (.xori 2#2 0x5a5#11 0x2b#7)),
    (0x231016AB, (.shli 2#2 0x2d#11 0x2b#7)),
    (0x231416AB, (.shri 2#2 0x2d#11 0x2b#7)),
    (0x231816AB, (.srai 2#2 0x2d#11 0x2b#7)),
    (0x231ED2AB, (.mini 2#2 0x5a5#11 0x2b#7)),
    (0x2322D2AB, (.maxi 2#2 0x5a5#11 0x2b#7)),
    (0x2326D2AB, (.muli 2#2 0x5a5#11 0x2b#7)),
    (0x258015FF, (.teq 3#2 0x2b#7 0x7f#7)),
    (0x258415FF, (.tne 3#2 0x2b#7 0x7f#7)),
    (0x258815FF, (.tlt 3#2 0x2b#7 0x7f#7)),
    (0x258C15FF, (.tle 3#2 0x2b#7 0x7f#7)),
    (0x251015FF, (.tltu 2#2 0x2b#7 0x7f#7)),
    (0x251415FF, (.tleu 2#2 0x2b#7 0x7f#7)),
    (0x2702D2AB, (.teqi 2#2 0x5a5#11 0x2b#7)),
    (0x2706D2AB, (.tnei 2#2 0x5a5#11 0x2b#7)),
    (0x270AD2AB, (.tlti 2#2 0x5a5#11 0x2b#7)),
    (0x270ED2AB, (.tlei 2#2 0x5a5#11 0x2b#7)),
    (0x2792D2AB, (.tltui 3#2 0x5a5#11 0x2b#7)),
    (0x2796D2AB, (.tleui 3#2 0x5a5#11 0x2b#7)),
    (0x271AD2AB, (.tgti 2#2 0x5a5#11 0x2b#7)),
    (0x271ED2AB, (.tgei 2#2 0x5a5#11 0x2b#7)),
    (0x290015FF, (.pand 2#2 0x2b#7 0x7f#7)),
    (0x298415FF, (.por 3#2 0x2b#7 0x7f#7)),
    (0x290815FF, (.pnot 2#2 0x2b#7 0x7f#7)),
    (0x2B8695FF, (.mfs 3#2 0x1a#9 0x2b#7 0x7f#7)),
    (0x2DCC001A, (.mts 3#2 0x13#5 0x1a#9)),
    (0x2F803FFF, (.nop 3#2))] = true := by decide

theorem test_words_local_and_tensor_memory : reads [
    (0x41CDAAAB, (.ldl 3#2 0x13#5 1#1 2#2 0x55#7 0x2b#7)),
    (0x43CC9A5B, (.stl 3#2 0x13#5 2#2 0x1a5b#14)),
    (0x454E6AAB, (.vldl 2#2 0x13#5 9#4 0x55#7 0x2b#7)),
    (0x474C1A5B, (.vstl 2#2 0x13#5 0x1a5b#14)),
    (0x494E6AAB, (.vgtl 2#2 0x13#5 9#4 0x55#7 0x2b#7)),
    (0x4A4C1A5B, (.vscl 0x13#5 0x1a5b#14)),
    (0x4D4C14AB, (.land 2#2 0x13#5 0x29#6 0x2b#7)),
    (0x4FCC0059, (.fence 3#2 0x13#5 5#3 2#2 1#2)),
    (0x514D6AAB, (.tldx 2#2 0x13#5 5#3 0x55#7 0x2b#7)),
    (0x514F6CAB, (.tldxOffset 2#2 0x13#5 5#3 5#3 9#4 0x2b#7)),
    (0x534D5A5B, (.tstx 2#2 0x13#5 5#3 0x1a5b#14)),
    (0x524F4059, (.tstxOffset 0x13#5 5#3 5#3 9#4)),
    (0x554D6AAB, (.tlds 2#2 0x13#5 5#3 0x55#7 0x2b#7)),
    (0x574D5A5B, (.tsts 2#2 0x13#5 5#3 0x1a5b#14)),
    (0x594DE863, (.amol 2#2 0x13#5 7#4 2#2 1#1 0x63#7)),
    (0x5B4DEAE3, (.amot 2#2 0x13#5 7#4 2#2 1#1 5#3 0x63#7)),
    (0x5C4C2863, (.casLocal 0x13#5 2#2 1#1 0x63#7)),
    (0x5C4F6863, (.casTensor 0x13#5 5#3 2#2 1#1 0x63#7)),
    (0x5FCD607F, (.vamot 3#2 0x13#5 5#3 2#2))] = true := by decide

theorem test_words_vector_lanes : reads [
    (0x610015FF, (.vadd 2#2 0x2b#7 0x7f#7)),
    (0x610415FF, (.vsub 2#2 0x2b#7 0x7f#7)),
    (0x610815FF, (.vmul 2#2 0x2b#7 0x7f#7)),
    (0x610C15FF, (.vmin 2#2 0x2b#7 0x7f#7)),
    (0x611015FF, (.vmax 2#2 0x2b#7 0x7f#7)),
    (0x611415FF, (.vabs 2#2 0x2b#7 0x7f#7)),
    (0x611815FF, (.vneg 2#2 0x2b#7 0x7f#7)),
    (0x611C15FF, (.vand 2#2 0x2b#7 0x7f#7)),
    (0x61A015FF, (.vor 3#2 0x2b#7 0x7f#7)),
    (0x612415FF, (.vxor 2#2 0x2b#7 0x7f#7)),
    (0x612815FF, (.vshl 2#2 0x2b#7 0x7f#7)),
    (0x612C15FF, (.vshr 2#2 0x2b#7 0x7f#7)),
    (0x613015FF, (.vsra 2#2 0x2b#7 0x7f#7)),
    (0x61B415FF, (.vadds 3#2 0x2b#7 0x7f#7)),
    (0x61B815FF, (.vsubs 3#2 0x2b#7 0x7f#7)),
    (0x620015FF, (.vfma 0x2b#7 0x7f#7)),
    (0x620415FF, (.vfms 0x2b#7 0x7f#7)),
    (0x620815FF, (.vfnma 0x2b#7 0x7f#7)),
    (0x650015FF, (.vceq 2#2 0x2b#7 0x7f#7)),
    (0x650415FF, (.vcne 2#2 0x2b#7 0x7f#7)),
    (0x650815FF, (.vclt 2#2 0x2b#7 0x7f#7)),
    (0x650C15FF, (.vcle 2#2 0x2b#7 0x7f#7)),
    (0x651015FF, (.vcgt 2#2 0x2b#7 0x7f#7)),
    (0x651415FF, (.vcge 2#2 0x2b#7 0x7f#7)),
    (0x660015FF, (.vsel 0x2b#7 0x7f#7)),
    (0x690015FF, (.vrcp 2#2 0x2b#7 0x7f#7)),
    (0x690415FF, (.vrsq 2#2 0x2b#7 0x7f#7)),
    (0x698815FF, (.vsqrt 3#2 0x2b#7 0x7f#7)),
    (0x698C15FF, (.vexp2 3#2 0x2b#7 0x7f#7)),
    (0x699015FF, (.vlog2 3#2 0x2b#7 0x7f#7)),
    (0x699415FF, (.vtanh 3#2 0x2b#7 0x7f#7))] = true := by decide

theorem test_words_vector_conversions : reads [
    (0x6B8015FF, (.vrsum 3#2 0x2b#7 0x7f#7)),
    (0x6B8415FF, (.vrmax 3#2 0x2b#7 0x7f#7)),
    (0x6B8815FF, (.vrmin 3#2 0x2b#7 0x7f#7)),
    (0x6D0255FF, (.vbcast 2#2 9#4 0x2b#7 0x7f#7)),
    (0x6D0415FF, (.vext 2#2 0x2b#7 0x7f#7)),
    (0x6C0815FF, (.vins 0x2b#7 0x7f#7)),
    (0x6D8C15FF, (.vperm 3#2 0x2b#7 0x7f#7)),
    (0x6D1015FF, (.vrot 2#2 0x2b#7 0x7f#7)),
    (0x6D9695FF, (.viota 3#2 0xa#4 0x2b#7 0x7f#7)),
    (0x6D9815FF, (.vpsum 3#2 0x2b#7 0x7f#7)),
    (0x6F0295FF, (.vcvt 2#2 0xa#4 0x2b#7 0x7f#7)),
    (0x6E0555FF, (.vqnt 5#3 0x2b#7 0x7f#7)),
    (0x6E0915FF, (.vdqnt 0#1 4#3 0x2b#7 0x7f#7)),
    (0x6F8E55FF, (.vpack 3#2 9#4 0x2b#7 0x7f#7)),
    (0x6F9395FF, (.vunpk 3#2 1#1 1#1 2#2 0x2b#7 0x7f#7)),
    (0x6F1655FF, (.vretag 2#2 9#4 0x2b#7 0x7f#7)),
    (0x710015FF, (.mand 2#2 0x2b#7 0x7f#7)),
    (0x718415FF, (.mor 3#2 0x2b#7 0x7f#7)),
    (0x710815FF, (.mxor 2#2 0x2b#7 0x7f#7)),
    (0x710C15FF, (.mnot 2#2 0x2b#7 0x7f#7)),
    (0x711015FF, (.mpop 2#2 0x2b#7 0x7f#7)),
    (0x711415FF, (.mfirst 2#2 0x2b#7 0x7f#7))] = true := by decide

theorem test_words_engines : reads [
    (0x814C02AB, (.gset 2#2 0x13#5 5#3 0x2b#7)),
    (0x81CC22FF, (.sbind 3#2 0x13#5 5#3)),
    (0x81CC44FF, (.csetg 3#2 0x13#5 9#4)),
    (0x81CC6CAB, (.cpy 3#2 0x13#5 1#1 9#4 0x2b#7)),
    (0x814C84AB, (.cpyw 2#2 0x13#5 9#4 0x2b#7)),
    (0x814CA4AB, (.cpym 2#2 0x13#5 9#4 0x2b#7)),
    (0x814CC4AB, (.deal 2#2 0x13#5 9#4 0x2b#7)),
    (0x814CE6AB, (.cpyt 2#2 0x13#5 0xd#5 0x2b#7)),
    (0x814CF4AB, (.cpytLand 2#2 0x13#5 9#4 0x2b#7)),
    (0x81CD012B, (.twait 3#2 0x13#5 2#2 0x2b#7)),
    (0x81CD232B, (.tread 3#2 0x13#5 1#1 2#2 0x2b#7)),
    (0x83CC04AB, (.msetg 3#2 0x13#5 9#4 0x2b#7)),
    (0x83CC332B, (.mma 3#2 0x13#5 9#4 2#2 0x2b#7)),
    (0x834C532B, (.mmaz 2#2 0x13#5 9#4 2#2 0x2b#7)),
    (0x834C732B, (.mmaq 2#2 0x13#5 9#4 2#2 0x2b#7)),
    (0x834C80AB, (.mldb 2#2 0x13#5 1#1 0x2b#7)),
    (0x83CCA0AB, (.mplay 3#2 0x13#5 1#1 0x2b#7)),
    (0x83CCD32B, (.mst 3#2 0x13#5 9#4 2#2 0x2b#7)),
    (0x834CE12B, (.mlda 2#2 0x13#5 2#2 0x2b#7)),
    (0x83CD012B, (.mzero 3#2 0x13#5 2#2 0x2b#7)),
    (0x834D20AB, (.mrls 2#2 0x13#5 1#1 0x2b#7)),
    (0x83CD402B, (.mseat 3#2 0x13#5 0x2b#7))] = true := by decide

theorem test_words_messages : reads [
    (0x854C16AB, (.send 2#2 0x13#5 1#1 0xd#5 0x2b#7)),
    (0x85CC36AB, (.sendq 3#2 0x13#5 1#1 0xd#5 0x2b#7)),
    (0x85CC56AB, (.req 3#2 0x13#5 1#1 0xd#5 0x2b#7)),
    (0x85CC76AB, (.reply 3#2 0x13#5 1#1 0xd#5 0x2b#7)),
    (0x854C96AB, (.xput 2#2 0x13#5 1#1 0xd#5 0x2b#7)),
    (0x854CB32B, (.xamo 2#2 0x13#5 1#1 6#4 0x2b#7)),
    (0x854CC12B, (.mbxset 2#2 0x13#5 2#2 0x2b#7)),
    (0x85CCE0AB, (.frget 3#2 0x13#5 1#1 0x2b#7)),
    (0x85CD002B, (.frput 3#2 0x13#5 0x2b#7)),
    (0x854D202B, (.xroute 2#2 0x13#5 0x2b#7)),
    (0x854D402B, (.xflush 2#2 0x13#5 0x2b#7))] = true := by decide

theorem test_words_tasks_and_names : reads [
    (0x874C007F, (.tdec 2#2 0x13#5)),
    (0x874C202B, (.tspawn 2#2 0x13#5 0x2b#7)),
    (0x87CC402B, (.tjoin 3#2 0x13#5 0x2b#7)),
    (0x87CC612B, (.tstat 3#2 0x13#5 2#2 0x2b#7)),
    (0x87CC80FF, (.tkill 3#2 0x13#5 1#1)),
    (0x87CCA02B, (.ginst 3#2 0x13#5 0x2b#7)),
    (0x89CC16AB, (.nopen 3#2 0x13#5 1#1 0xd#5 0x2b#7)),
    (0x894C207F, (.nclose 2#2 0x13#5)),
    (0x89CC407F, (.nbind 3#2 0x13#5)),
    (0x894C602B, (.ntxb 2#2 0x13#5 0x2b#7)),
    (0x884C807F, (.ntxa 0x13#5)),
    (0x894CA063, (.ntxc 2#2 0x13#5 0x63#7)),
    (0x894CC07F, (.ntxx 2#2 0x13#5)),
    (0x89CCE02B, (.nsnap 3#2 0x13#5 0x2b#7)),
    (0x89CD002B, (.nmake 3#2 0x13#5 0x2b#7)),
    (0x894D212B, (.nqry 2#2 0x13#5 2#2 0x2b#7)),
    (0x8BCC002B, (.svc 3#2 0x13#5 0x2b#7)),
    (0x8B4C34FF, (.bkpt 2#2 0x13#5 0x29#6)),
    (0x8BCC407F, (.ctxsv 3#2 0x13#5)),
    (0x8BCC607F, (.ctxrs 3#2 0x13#5)),
    (0x8B4C817F, (.tlbi 2#2 0x13#5 2#2))] = true := by decide

/-! ### Small states for the witnesses and the tests -/

/-- A word, and a handle, as an operand. -/
def wd (n : Nat) : Reg := Reg.ofW (BitVec.ofNat 64 n)
def hd (n : Nat) : Reg := Reg.ofH (BitVec.ofNat 64 n)

/-- A register with a tag and bits. -/
def rg (t : Tag) (n : Nat) : Reg := { tag := t, bits := BitVec.ofNat 2048 n }

/-- A decoded block of eight words whose instruction 0 has the operands in its slots. -/
def withVals (vals : List Reg) : Run :=
  { words := blockOf 0x2E003FFF#32 0, live := true, tokens := vals.zipIdx.map fun x => (32 * x.2, .val x.1) }

/-- s with a block running in the context in focus. -/
def running (s : State) (r : Run) : State := s.updCtx s.focus fun c => { c with phase := .running, run := some r }

/-- Each of the instructions can fire with the operands beside it, at index 0, in a block that s runs. -/
def Shown (s : State) (l : List (Instr × List Reg)) : Prop :=
  ∀ x ∈ l, Ready (running s (withVals x.2)) x.1 x.2 (withVals x.2)

/-- What `Ready` asks, computed. -/
def readyNow (s : State) (i : Instr) (vals : List Reg) (r : Run) : Bool :=
  (s.ctx s.focus).run == some r && (s.ctx s.focus).phase == .running && !(s.ctx s.focus).frozen && !(s.die s.focus.die).stopped
    && r.live && !r.committing && !r.fired.contains s.index && !r.off.contains s.index
    && ((List.range (shapeOf i s.index).slots).map fun n => r.tok (32 * n + s.index)) == vals.map (fun v => some (Token.val v))
    && decide ((shapeOf i s.index).pr.toNat < 2)

theorem ready_of {s : State} {i : Instr} {vals : List Reg} {r : Run} (h : readyNow s i vals r = true) : Ready s i vals r := by
  simp only [readyNow, Bool.and_eq_true, beq_iff_eq, Bool.not_eq_true', decide_eq_true_eq] at h
  obtain ⟨⟨⟨⟨⟨⟨⟨⟨⟨h1, h2⟩, h3⟩, h4⟩, h5⟩, h6⟩, h7⟩, h8⟩, h9⟩, h10⟩ := h
  exact ⟨h1, h2, h3, h4, h5, h6, h7, h8, h9, fun h => by simp [h] at h10, fun h => by simp [h] at h10⟩

theorem shown {s : State} {l : List (Instr × List Reg)}
    (h : (l.all fun x => readyNow (running s (withVals x.2)) x.1 x.2 (withVals x.2)) = true) : Shown s l :=
  fun x hx => ready_of (List.all_eq_true.mp h x hx)

/-- A write entry and no target at all are free in any such block. -/
theorem free_write (a b c : Reg) : FreeTargets (withVals [a, b, c]) [0x60#7, 0x7F#7] ∧ FreeTargets (withVals [a, b]) [0x60#7, 0x7F#7] ∧
    FreeTargets (withVals [a]) [0x60#7, 0x7F#7] ∧ FreeTargets (withVals []) [0x60#7, 0x7F#7] := by
  refine ⟨⟨by decide, ?_⟩, ⟨by decide, ?_⟩, ⟨by decide, ?_⟩, ⟨by decide, ?_⟩⟩ <;>
  · intro t h h2
    simp only [List.mem_cons, List.not_mem_nil, or_false] at h
    rcases h with rfl | rfl
    · exact ⟨rfl, rfl⟩
    · exact absurd rfl h2

/-! ### Witnesses: states and operands that meet the hypotheses of each statement -/

/-- `Obligations.IntegerInstructions`: every form on two words and on a register that is no word, every width. -/
theorem witness_IntegerInstructions :
    (∀ w : BitVec 2, Shown {} ([.add 0 w 0x60 0x7F, .sub 0 w 0x60 0x7F, .and 0 w 0x60 0x7F, .or 0 w 0x60 0x7F, .xor 0 w 0x60 0x7F,
      .andn 0 w 0x60 0x7F, .shl 0 w 0x60 0x7F, .shr 0 w 0x60 0x7F, .sra 0 w 0x60 0x7F, .rotl 0 w 0x60 0x7F, .min 0 w 0x60 0x7F,
      .max 0 w 0x60 0x7F, .minu 0 w 0x60 0x7F, .maxu 0 w 0x60 0x7F, .mul 0 w 0x60 0x7F, .mulh 0 w 0x60 0x7F, .mulhu 0 w 0x60 0x7F,
      .div 0 w 0x60 0x7F, .divu 0 w 0x60 0x7F, .rem 0 w 0x60 0x7F, .remu 0 w 0x60 0x7F, .adds 0 w 0x60 0x7F,
      .subs 0 w 0x60 0x7F].flatMap fun i => [(i, [wd (2 ^ 63), wd 0]), (i, [wd (2 ^ 64 - 1), hd 1])])) ∧
    (∀ w : BitVec 2, Shown {} ([.clz 0 w 0x60 0x7F, .ctz 0 w 0x60 0x7F, .popc 0 w 0x60 0x7F, .sext 0 w 0x60 0x7F, .zext 0 w 0x60 0x7F].flatMap
      fun i => [(i, [wd 0]), (i, [rg .f32s 0])])) ∧
    Shown {} ([.addi 0 0x7FF 0x60, .andi 0 0x3FF 0x60, .ori 0 0 0x60, .xori 0 1 0x60, .shli 0 63 0x60, .shri 0 63 0x60, .srai 0 0 0x60,
      .mini 0 0x400 0x60, .maxi 0 0x400 0x60, .muli 0 0x7FF 0x60].flatMap fun i => [(i, [wd 0]), (i, [rg .f32s 0])]) ∧
    i64s [wd (2 ^ 63), wd 0] = true ∧ i64s [wd 0] = true ∧ i64s [wd (2 ^ 64 - 1), hd 1] = false ∧ i64s [rg .f32s 0] = false :=
  ⟨fun w => shown (by revert w; decide +kernel), fun w => shown (by revert w; decide +kernel), shown (by decide +kernel),
   by decide, by decide, by decide, by decide⟩

/-- `Obligations.TestsConstantsAndCopies`: two words, two handles, a word and a handle; the smallest and largest immediates; any tag. -/
theorem witness_TestsConstantsAndCopies :
    Shown {} ([.teq 0 0x60 0x7F, .tne 0 0x60 0x7F].flatMap fun i => [(i, [wd 5, wd 5]), (i, [hd 5, hd 6]), (i, [wd 5, hd 5])]) ∧
    Shown {} ([.tlt 0 0x60 0x7F, .tle 0 0x60 0x7F, .tltu 0 0x60 0x7F, .tleu 0 0x60 0x7F, .pand 0 0x60 0x7F, .por 0 0x60 0x7F].flatMap
      fun i => [(i, [wd (2 ^ 63), wd 0]), (i, [hd 5, hd 6])]) ∧
    Shown {} ([.pnot 0 0x60 0x7F, .teqi 0 0x400 0x60, .tnei 0 0x3FF 0x60, .tlti 0 0x400 0x60, .tlei 0 0x3FF 0x60, .tltui 0 0x7FF 0x60,
      .tleui 0 0 0x60, .tgti 0 0x400 0x60, .tgei 0 0x3FF 0x60].flatMap fun i => [(i, [wd 0]), (i, [hd 0])]) ∧
    Shown {} [(.nop 0, []), (.null 0 0x60 0x7F, []), (.movi 0 0x8000 0x60, []), (.genu 0 0xFFFF 0x60, []), (.mov 0 0x60 0x7F, [rg .vq4n 1]),
      (.mov 0 0x60 0x7F, [rg .empty 0]), (.mov3 0 0x60 0x61 0x7F, [rg .i64 1])] ∧
    FreeTargets (withVals [rg .i64 1]) [0x60, 0x61, 0x7F] ∧
    (i64s [wd 5, hd 5] = false ∧ [wd 5, hd 5].all (fun x => x.tag == .hndl) = false ∧ [hd 5, hd 6].all (fun x => x.tag == .hndl) = true) :=
  ⟨shown (by decide +kernel), shown (by decide +kernel), shown (by decide +kernel), shown (by decide +kernel),
   by unfold FreeTargets; decide +kernel, by decide +kernel⟩

/-- A block with an exit recorded. -/
def withExit (vals : List Reg) : Run := { withVals vals with exits := [⟨5, 1, .ret⟩] }

/-- `Obligations.ExitsAndTraps`: a first exit and a second one, in context 0 and in a handler; targets at the two sides of 2 ^ 32. -/
theorem witness_ExitsAndTraps :
    Shown {} [(.bro 0 7 0x80000, []), (.callo 0 0 1, []), (.brb 0 0 0, []), (.ret 0 0, []), (.eret 0 0, []), (.bri 0 0, [wd (2 ^ 32 - 1)]),
      (.calli 0 0, [wd (2 ^ 32 - 1)]), (.bri 0 0, [wd (2 ^ 32)]), (.calli 0 0, [wd (2 ^ 32)]), (.bri 0 0, [hd 0]), (.calli 0 0, [hd 0]),
      (.texit 0 31, []), (.hret 0, []), (.trap 0 0x7FF, []), (.bkpt 0 0 63, [])] ∧
    Shown { focus := { ctx := 7 } } [(.brb 0 0 0, [])] ∧
    (∀ x ∈ [(Instr.bro 0 7 0x80000, []), (.callo 0 0 1, []), (.brb 0 0 0, []), (.ret 0 0, []), (.eret 0 0, []), (.bri 0 0, [wd (2 ^ 32 - 1)]),
      (.calli 0 0, [wd (2 ^ 32 - 1)]), (.texit 0 31, []), (.hret 0, [])],
      Ready (running {} (withExit x.2)) x.1 x.2 (withExit x.2) ∧ (withExit x.2).exits ≠ []) ∧
    (wd (2 ^ 32 - 1)).w.toNat < 2 ^ 32 ∧ 2 ^ 32 ≤ (wd (2 ^ 32)).w.toNat ∧ (hd 0).tag ≠ .i64 ∧ (withVals []).exits = [] ∧
    (let s : State := running (({} : State).updDie 0 fun x => { x with dbgen := true }) (withVals [])
     Ready s (.bkpt 0 0 63) [] (withVals []) ∧ (s.die 0).dbgen = true ∧ (s.ctx s.focus).bkptSkip = false) ∧
    (let s : State := (running {} (withVals [])).updCtx {} fun c => { c with bkptSkip := true }
     Ready s (.bkpt 0 0 63) [] (withVals []) ∧ (s.ctx s.focus).bkptSkip = true) :=
  ⟨shown (by decide +kernel), shown (by decide +kernel), by
    intro x hx
    have h : ([(Instr.bro 0 7 0x80000, []), (.callo 0 0 1, []), (.brb 0 0 0, []), (.ret 0 0, []), (.eret 0 0, []), (.bri 0 0, [wd (2 ^ 32 - 1)]),
      (.calli 0 0, [wd (2 ^ 32 - 1)]), (.texit 0 31, []), (.hret 0, [])].all fun x =>
        readyNow (running {} (withExit x.2)) x.1 x.2 (withExit x.2)) = true := by decide +kernel
    exact ⟨ready_of (List.all_eq_true.mp h x hx), by simp [withExit]⟩,
   by decide +kernel, by decide +kernel, by decide, by decide, ⟨ready_of (by decide +kernel), by decide +kernel⟩, ⟨ready_of (by decide +kernel), by decide +kernel⟩⟩

/-- `Obligations.SpecialRegisters`: each register read, each register written, and `MTS` with a word, a handle, and a depth below and at
the resident entries. -/
theorem witness_SpecialRegisters :
    Shown {} (([0, 1, 2, 3, 4, 8, 9, 10, 0x10, 0x11, 0x12, 0x18, 0x19, 0x1A, 0x20, 0x21, 0x30, 0x37, 0x40, 0x100, 0x101] : List (BitVec 9)).map
      fun n => (.mfs 0 n 0x60 0x7F, [])) ∧
    Shown {} (([0x10, 0x11, 0x12, 0x18, 0x19, 0x1A, 0x20, 0x21, 0x100, 0x101] : List (BitVec 9)).flatMap
      fun n => [(.mts 0 0 n, [wd 0]), (.mts 0 0 n, [hd 0])]) ∧
    (let s : State := ({} : State).updCtx {} fun c => { c with ras := [0#32] }
     Shown s [(.mts 0 0 0x1A, [wd 0]), (.mts 0 0 0x1A, [wd 1])] ∧ (s.ctx s.focus).ras.length = 1) ∧
    [0x010, 0x011, 0x012, 0x018, 0x019, 0x01A, 0x020, 0x021, 0x100, 0x101].contains 0x013 = false :=
  ⟨shown (by decide +kernel), shown (by decide +kernel), ⟨shown (by decide +kernel), by decide +kernel⟩, by decide⟩

/-- `Obligations.VectorArithmeticAndCompares`: two vectors, a vector and a scalar, two scalars, of every kind; shifts of integers only. -/
theorem witness_VectorArithmeticAndCompares :
    Shown {} ([.vadd 0 0x60 0x7F, .vsub 0 0x60 0x7F, .vmul 0 0x60 0x7F, .vmin 0 0x60 0x7F, .vmax 0 0x60 0x7F, .vceq 0 0x60 0x7F, .vcne 0 0x60 0x7F,
      .vclt 0 0x60 0x7F, .vcle 0 0x60 0x7F, .vcgt 0 0x60 0x7F, .vcge 0 0x60 0x7F].flatMap fun i =>
        [(i, [rg .vf32 1, rg .vf32 2]), (i, [rg .vbf16 1, rg .f32s 2]), (i, [rg .f32s 1, rg .f32s 2]), (i, [rg .vi8 1, wd 2])]) ∧
    Shown {} ([.vshl 0 0x60 0x7F, .vshr 0 0x60 0x7F, .vsra 0 0x60 0x7F, .vadds 0 0x60 0x7F, .vsubs 0 0x60 0x7F, .vand 0 0x60 0x7F, .vor 0 0x60 0x7F,
      .vxor 0 0x60 0x7F].flatMap fun i => [(i, [rg .vi32 1, rg .vi32 31]), (i, [rg .vi8 1, wd 8])]) ∧
    Shown {} [(.vabs 0 0x60 0x7F, [rg .vf8e4 1]), (.vneg 0 0x60 0x7F, [rg .vi16 0x8000])] ∧
    Shown {} ([.vfma 0x60 0x7F, .vfms 0x60 0x7F, .vfnma 0x60 0x7F].flatMap fun i =>
      [(i, [rg .vf32 1, rg .f32s 2, rg .vf32 3]), (i, [rg .vi8 1, wd 2, rg .vi8 3])]) ∧
    Framed .vf32 [rg .vf32 1, rg .vf32 2] ∧ Framed .vbf16 [rg .vbf16 1, rg .f32s 2] ∧ Framed .f32s [rg .f32s 1, rg .f32s 2] ∧
    Framed .vi8 [rg .vi8 1, wd 2] ∧ Framed .vi32 [rg .vi32 1, rg .vi32 31] ∧ Framed .vf8e4 [rg .vf8e4 1] ∧ Framed .vi16 [rg .vi16 0x8000] ∧
    Framed .vf32 [rg .vf32 1, rg .f32s 2, rg .vf32 3] ∧ Framed .vi8 [rg .vi8 1, wd 2, rg .vi8 3] ∧
    (Tag.isIntV .vi8 = true ∧ Tag.isIntV .vi32 = true ∧ Tag.isNumV .vbf16 = true ∧ (rg .vi8 1).tag ≠ .f32s ∧ (wd 2).tag ≠ .f32s) := by
  refine ⟨shown (by decide +kernel), shown (by decide +kernel), shown (by decide +kernel), shown (by decide +kernel), ?_⟩
  unfold Framed
  and_intros <;> decide

/-- `Obligations.VectorFunctions`: a float vector, a float scalar. -/
theorem witness_VectorFunctions :
    Shown {} ([.vrcp 0 0x60 0x7F, .vrsq 0 0x60 0x7F, .vsqrt 0 0x60 0x7F, .vexp2 0 0x60 0x7F, .vlog2 0 0x60 0x7F, .vtanh 0 0x60 0x7F].flatMap fun i =>
      [(i, [rg .vf32 0]), (i, [rg .vbf16 0x7F80]), (i, [rg .f32s 0x7F7FFFFF])]) ∧
    (Tag.fmt .vf32 = some fp32 ∧ Tag.fmt .vbf16 = some bf16 ∧ Tag.fmt .f32s = some fp32) :=
  ⟨shown (by decide +kernel), by decide⟩

/-- `Obligations.PrefixSums`: an integer vector, a float vector. -/
theorem witness_PrefixSums :
    Shown {} [(.vpsum 0 0x60 0x7F, [rg .vi8 0x80]), (.vpsum 0 0x60 0x7F, [rg .vf32 0x3F800000])] ∧
    FreeTargets (withVals [rg .vi8 0x80]) [0x60, 0x7F] ∧ FreeTargets (withVals [rg .vf32 0x3F800000]) [0x60, 0x7F] ∧
    (Tag.isIntV .vi8 = true ∧ Tag.isFloatV .vf32 = true ∧ (Tag.fmt .vf32).isSome = true) :=
  ⟨shown (by decide +kernel), by unfold FreeTargets; decide +kernel, by unfold FreeTargets; decide +kernel, by decide⟩

/-- `Obligations.VectorReductions`: an integer vector, a float vector. -/
theorem witness_VectorReductions :
    Shown {} ([.vrsum 0 0x60 0x7F, .vrmax 0 0x60 0x7F, .vrmin 0 0x60 0x7F].flatMap fun i => [(i, [rg .vi8 0x80]), (i, [rg .vf8e5 0x7C])]) ∧
    (Tag.isIntV .vi8 = true ∧ Tag.isFloatV .vf8e5 = true ∧ (Tag.fmt .vf8e5).isSome = true) :=
  ⟨shown (by decide +kernel), by decide⟩

/-- `Obligations.VectorLanesAndMasks`. -/
theorem witness_VectorLanesAndMasks :
    Shown {} [(.vsel 0x60 0x7F, [rg .mask64 5, rg .vf32 1, rg .f32s 2]), (.vbcast 0 7 0x60 0x7F, [wd 1]), (.vbcast 0 8 0x60 0x7F, [rg .f32s 1]),
      (.vext 0 0x60 0x7F, [rg .vi32 1, wd 63]), (.vext 0 0x60 0x7F, [rg .mask256 1, wd 255]), (.vext 0 0x60 0x7F, [rg .vbf16 1, wd 128]),
      (.vins 0x60 0x7F, [rg .vf32 1, rg .f32s 1, wd 64]), (.vins 0x60 0x7F, [rg .vi8 1, wd 1, wd 0]), (.vins 0x60 0x7F, [rg .mask64 1, wd 1, wd 63]),
      (.vperm 0 0x60 0x7F, [rg .vf32 1, rg .vi32 65]), (.vrot 0 0x60 0x7F, [rg .mask128 1, wd 128]), (.vrot 0 0x60 0x7F, [rg .vf32 1, wd 1]),
      (.viota 0 7 0x60 0x7F, []), (.viota 0 13 0x60 0x7F, []), (.vpsum 0 0x60 0x7F, [rg .vi16 1]), (.vpsum 0 0x60 0x7F, [rg .vf32 1]),
      (.vretag 0 14 0x60 0x7F, [wd 1]), (.vretag 0 1 0x60 0x7F, [rg .vq4n 1])] ∧
    Shown {} ([.mand 0 0x60 0x7F, .mor 0 0x60 0x7F, .mxor 0 0x60 0x7F].flatMap fun i => [(i, [rg .mask64 1, rg .mask64 3]), (i, [rg .mask64 1, rg .mask128 3])]) ∧
    Shown {} [(.mnot 0 0x60 0x7F, [rg .mask256 1]), (.mpop 0 0x60 0x7F, [rg .mask64 0]), (.mfirst 0 0x60 0x7F, [rg .mask64 0])] ∧
    Framed .vf32 [rg .vf32 1, rg .f32s 2] ∧
    (maskTag (Tag.shape .vf32).1 = .mask64 ∧ (Tag.ofNum 7).isIntV = true ∧ (Tag.ofNum 8).isFloatV = true ∧ Tag.isMask .mask64 = true ∧
      Tag.isMask .mask128 = true ∧ Tag.isIntV .vi32 = true ∧ (Tag.shape .vi32).1 = (Tag.shape .vf32).1 ∧ Tag.isNumV .vf32 = true ∧ Tag.isIntV .vi16 = true) := by
  refine ⟨shown (by decide +kernel), shown (by decide +kernel), shown (by decide +kernel), ?_⟩
  unfold Framed
  and_intros <;> decide

/-- `Obligations.VectorConversionsAndBlocks`. -/
theorem witness_VectorConversionsAndBlocks :
    Shown {} [(.vcvt 0 7 0x60 0x7F, [rg .vf32 1]), (.vcvt 0 1 0x60 0x7F, [rg .f32s 1]), (.vcvt 0 8 0x60 0x7F, [rg .vf32 1]),
      (.vunpk 0 1 1 3 0x60 0x7F, [rg .vi8 1]), (.vunpk 0 0 0 1 0x60 0x7F, [rg .vbf16 1]), (.vpack 0 9 0x60 0x7F, [rg .vf32 1, rg .vf32 2]),
      (.vqnt 7 0x60 0x61, [rg .vf32 1, rg .f32s 1, rg .vq4n 0]), (.vqnt 0 0x60 0x61, [rg .vf32 1, rg .f32s 1, wd 0]),
      (.vdqnt 0 6 0x60 0x61, [rg .vq4n 1, rg .f32s 1, wd 0xFF]), (.vdqnt 1 4 0x60 0x61, [rg .vq4n 1, rg .f32s 1, wd 0xFF])] ∧
    FreeTargets (withVals [rg .vf32 1, rg .f32s 1, wd 0]) [0x60, 0x61] ∧
    ((Tag.elem .vf32).isSome = true ∧ (Tag.elem .vi32).isSome = true ∧ (Tag.shape .vf32).1 = (Tag.shape (Tag.ofNum 7)).1 ∧ Tag.ofNum 8 = .vf32 ∧
      (Tag.elem .f32s).isSome = true ∧ (Tag.elem (Tag.ofNum 1)).isSome = true ∧ (Tag.shape .f32s).1 = (Tag.shape (Tag.ofNum 1)).1 ∧
      (Tag.shape .vi32).2 = (Tag.shape .vi8).2 * 4 ∧ (Tag.shape .vf32).2 = (Tag.shape .vbf16).2 * 2 ∧ Tag.isNumV .vi8 = true ∧
      (Tag.shape .vf32).2 = 2 * (Tag.shape (Tag.ofNum 9)).2) := by
  refine ⟨shown (by decide +kernel), by unfold FreeTargets; decide +kernel, by decide⟩

/-- `Obligations.LocalLoads`: the last words and registers of the local store, and its first. -/
theorem witness_LocalLoads :
    Shown {} [(.ldl 0 0 1 3 0 0x60, [wd 0x1FFFF8]), (.ldl 0 0 0 0 0x7F 0x60, [wd 1]), (.vldl 0 0 8 0 0x60, [wd 0x1FFF00]),
      (.vldl 0 0 4 0 0x60, [wd 0x1FFFF8]), (.vgtl 0 0 7 0 0x60, [wd 0x1FFFFC, rg .vi32 0])] ∧
    LocalOk {} 0x1FFFF8 8 8 ∧ LocalOk {} 0 1 1 ∧ LocalOk {} 0x1FFF00 256 32 ∧ LocalOk {} 0x1FFFF8 8 8 ∧ LocalOk {} 0x1FFFFC 4 1 ∧
    (∀ k < 64, lane (rg .vi32 0) k = 0) ∧ Unheld (withVals [wd 0]) 0 ∧ Unheld (withVals [wd 0]) 31 ∧
    FreeTargets (withVals [wd 0x1FFFFC, rg .vi32 0]) [0x60] := by
  refine ⟨shown (by decide +kernel), ?_⟩
  unfold LocalOk Unheld FreeTargets
  and_intros <;> decide +kernel

/-- A block with two stores received: of LSID 1, eight bytes at local address 0, and of LSID 2, eight bytes at local address 4. -/
def withStore (vals : List Reg) : Run :=
  { withVals vals with counted := [⟨1, 3, .storeLocal 0 (leBytes 8 0x1122334455667788)⟩, ⟨2, 4, .storeLocal 4 (leBytes 8 0x99AABBCCDDEEFF00)⟩] }

/-- `Obligations.LocalStoresAndChecks`: every tag that a store takes, addresses below, at and beyond the ends, and misaligned; operands of each
wrong tag; a load, a register load and a gather over two stores of lower LSID that overlap. -/
theorem witness_LocalStoresAndChecks :
    Shown {} [(.stl 0 0 3 0, [wd 0x1FFFF8, wd 1]), (.stl 0 0 2 0, [wd 0x1FFFFC, rg .f32s 1]), (.stl 0 0 3 0, [wd 0, hd 1]), (.stl 0 0 3 0, [wd 0x1FFFFC, wd 1]),
      (.stl 0 0 3 0x3FFF, [wd 0, wd 1]), (.stl 0 0 3 0, [wd 4, wd 1]), (.vstl 0 0 0, [wd 0x1FFF00, rg .vq4n 1]), (.vstl 0 0 0, [wd 0x1FFFF8, rg .mask64 1]),
      (.vstl 0 0 0, [wd 0x200000, rg .vi8 1]), (.vscl 0 0, [wd 0x1FFFFC, rg .vf32 1, rg .vi32 0]),
      (.ldl 0 0 0 3 0 0x60, [hd 0]), (.ldl 0 0 0 3 0 0x60, [wd 0x1FFFFC]), (.ldl 0 0 0 3 0x7F 0x60, [wd 0]), (.ldl 0 0 0 3 0 0x60, [wd 4]),
      (.vldl 0 0 8 0 0x60, [hd 0]), (.vldl 0 0 8 0 0x60, [wd 0x1FFF20]), (.vldl 0 0 4 0 0x60, [wd 4]),
      (.amol 0 0 1 0 1 0x60, [wd 0x1FFFFC, wd 1]), (.amol 0 0 1 0 1 0x60, [wd 4, wd 1]), (.casLocal 0 0 0 0x60, [wd 0x200000, wd 1, wd 2]),
      (.casLocal 0 0 1 0x60, [wd 4, wd 1, wd 2]), (.amol 0 0 1 0 1 0x60, [hd 0, wd 1]), (.amol 0 0 1 0 1 0x60, [wd 0, hd 1]),
      (.casLocal 0 0 1 0x60, [hd 0, wd 1, wd 2]), (.casLocal 0 0 1 0x60, [wd 0, hd 1, wd 2]), (.casLocal 0 0 1 0x60, [wd 0, wd 1, hd 2])] ∧
    (∀ x ∈ ([(.ldl 0 3 0 3 0 0x60, [wd 0]), (.vldl 0 3 8 0 0x60, [wd 0]), (.vgtl 0 3 7 0 0x60, [wd 2, rg .vi32 0])] : List (Instr × List Reg)),
      let r := withStore x.2
      readyNow (running {} r) x.1 x.2 r = true ∧ FreeTargets r [0x60] ∧ ∀ k < r.size, (r.shape k).lsid.getD 32 < 3 → (r.shape k).gate = .none) ∧
    (let s : State := running {} (withStore [wd 0])
     LocalOk s 0 8 8 ∧ LocalOk s 0 256 32 ∧ LocalOk s 2 4 1 ∧ (2 : Int) % 4 ≠ 0 ∧ LocalOk s 4 4 1) ∧
    (-8 + (8 : Int) * (0x7F#7).toInt < 0 ∧ (0 : Int) ≤ 0x1FFFF8 ∧ (0x200000 : Int) < 0x1FFFFC + 8 ∧ (4 : Int) % 8 ≠ 0) := by
  refine ⟨shown (by decide +kernel), ?_⟩
  unfold LocalOk FreeTargets
  and_intros <;> decide +kernel

/-- The state with landing entry 5 FULL. -/
def landed : State := ({} : State).updTile 0 0 fun x => x.setLb 5 { bits := 1, tag := .vi32, full := true }

/-- `Obligations.LocalAtomics`: atomics on the last word, a landing entry FULL and one FREE, fences of no engine and of every
engine, one that a load holds back and one whose engine is not done. -/
theorem witness_LocalAtomics :
    Shown landed [(.amol 0 0 8 0 1 0x60, [wd 0x1FFFF8, wd 1]), (.amol 0 0 0 0 0 0x67, [wd 0x1FFFFC, wd 1]), (.casLocal 0 0 1 0x60, [wd 0x1FFFF8, wd 0, wd 2]),
      (.land 0 0 5 0x60, []), (.land 0 0 6 0x60, []), (.amol 0 0 8 0 1 0x7F, [wd 0x1FFFF8, wd 1]), (.casLocal 0 0 1 0x7F, [wd 0x1FFFF8, wd 0, wd 2]), (.fence 0 31 0 2 0, []), (.fence 0 31 7 0 0, [])] ∧
    ((landed.tile 0 0).lb 5).full = true ∧ ((landed.tile 0 0).lb 6).full = false ∧ ((landed.tile 0 0).lb 5).cmd = none ∧ ((landed.tile 0 0).lb 5).bad = false ∧
    ({ ((landed.tile 0 0).lb 5) with bad := true } : Landing).bad = true ∧ (withVals []).waits = [] ∧
    (∀ r ∈ [withVals [], withVals [wd 0x1FFFF8, wd 1]], r.tok 0x60 = none ∧ r.reserved = [] ∧
      ∀ k < r.size, (r.shape k).lsid.getD 32 < 31 → (r.shape k).counted = false → r.fired.contains k = true ∨ r.off.contains k = true) ∧
    (∀ g : Engine, (withVals []).issueAt.get g ≤ ((running landed (withVals [])).ctx {}).done.get g) ∧
    ((running landed (withVals [])).ctx {}).recf = [] ∧
    (let r : Run := { withVals [] with words := blockOf ((encode (.ldl 0 0 0 3 0 0x60)).getD 0#32) 0 }
     readyNow (running {} r) (.fence 0 31 7 0 0) [] r = true ∧
       ∃ k < r.size, (r.shape k).lsid.getD 32 < 31 ∧ (r.shape k).counted = false ∧ r.fired.contains k = false ∧ r.off.contains k = false) ∧
    (let r : Run := { withVals [] with issueAt := { ce := 3 } }
     let s : State := running {} r
     readyNow s (.fence 0 31 7 0 0) [] r = true ∧ (7#3).getLsbD Engine.ce.num = true ∧ (s.ctx s.focus).done.get .ce < r.issueAt.get .ce ∧
       (∀ h : Engine, h.num < Engine.ce.num → ¬((s.ctx s.focus).done.get h < r.issueAt.get h))) ∧ (2 ^ 32 - 1 < 2 ^ (8 * 4) ∧ 2 ^ 64 - 1 < 2 ^ (8 * 8)) := by
  refine ⟨shown (by decide +kernel), by decide +kernel, by decide +kernel, by decide +kernel, by decide +kernel, rfl, rfl, ?_, fun g => by cases g <;> decide +kernel, by decide +kernel,
    by decide +kernel, ⟨by decide +kernel, by decide +kernel, by decide +kernel, fun h => by cases h <;> decide +kernel⟩, by decide⟩
  decide +kernel

/-- A vector of 64 FP32 elements in one frame of stack 0, open once, with a read-write window of context 0 of tile 0. -/
def vecDesc : BitVec 512 := BitVec.ofNat 512 (8 + 2 ^ 102 + 2 ^ 86 + 2 ^ 160 + 2 ^ 144 + 2 ^ 224 + 2 ^ 208 + 2 ^ 288 + 2 ^ 272)
def vec : Obj :=
  { live := true, desc := vecDesc, table := [(0, 3#64)], refs := 1, opens := [(0, 1)]
    wins := [{ owner := .handler {} 0, org := {}, ext := ⟨64, 1, 1, 1⟩, rw := true, sync := false, active := true }] }

/-- Its handle, and a state with it, bound to generator 1 of tile 0. -/
def vecH : Nat := 2 ^ 32
def vecS : State := (({} : State).setObj 1#32 vec).updTile 0 0 fun x =>
  x.setAg 1 { bound := true, handle := BitVec.ofNat 64 vecH, ext := ⟨64, 1, 1, 1⟩, rw := true, tag := .vf32 }

/-- The 64 elements, and one. -/
def vecEls : List C4 := (List.range 64).map fun j => ⟨j, 0, 0, 0⟩

/-- `Obligations.TensorLoads`. -/
theorem witness_TensorLoads :
    Shown vecS [(.tldx 0 0 1 0 0x60, [wd 0]), (.tldxOffset 0 0 1 0 0 0x60, [wd 63, rg .vi32 0]), (.tlds 0 0 1 0 0x60, [wd 63])] ∧
    Desc.valid vecDesc = true ∧ vecS.reach 0 (BitVec.ofNat 64 vecH) = some vec ∧ offTag .vf32 = .vi32 ∧ Tag.lanes .vf32 = 64 ∧
    (∀ j < 64, boxHas {} ⟨64, 1, 1, 1⟩ ⟨j, 0, 0, 0⟩ = true) ∧ (∀ j < 64, lane (rg .vi32 0) j = 0) ∧ Desc.fmt (vecS.objOf (hobj (BitVec.ofNat 64 vecH))).desc ≠ 9 ∧
    vec.check (vecS.owners {}) false true (fun _ => 3#64) vecEls = none ∧
    (running vecS (withVals [wd 0])).loadGate (withVals [wd 0]) true 0 = true := by
  refine ⟨shown (by decide +kernel), ?_⟩
  and_intros <;> decide +kernel

/-- `Obligations.TensorStoresAndAtomics`: the states that translation and duplication leave. -/
theorem witness_TensorStoresAndAtomics :
    Shown vecS [(.tstx 0 0 1 0, [wd 0, rg .vf32 1]), (.tstxOffset 0 1 0 0, [wd 63, rg .vf32 1, rg .vi32 0]), (.tsts 0 0 1 0, [wd 63, wd 1]), (.tsts 0 0 1 0, [wd 63, rg .f32s 1]),
      (.amot 0 0 1 0 0 1 0x7F, [wd 63, wd 1]), (.casTensor 0 1 0 0 0x7F, [wd 0, wd 1, wd 2]),
      (.amot 0 0 1 0 0 1 0x60, [wd 63, wd 1]), (.casTensor 0 1 0 0 0x60, [wd 0, wd 1, wd 2]), (.vamot 0 0 1 0, [wd 0, rg .vf32 1])] ∧
    (∀ x ∈ [(Holder.gen 1, false, vecEls), (.tlb, true, [⟨63, 0, 0, 0⟩]), (.gen 1, true, [⟨0, 0, 0, 0⟩])],
      let s := running vecS (withVals [wd 0, rg .vf32 1])
      let m := s.translateAll 0 0 x.1 1#32 (Desc.indices vecDesc x.2.2)
      (∀ j ∈ Desc.indices vecDesc x.2.2, s.canWalk 0 0 x.1 1#32 j = true) ∧
      vec.check (s.owners s.focus) true x.2.1 (look 0#64 m.1) x.2.2 = none ∧ (m.2.cowAll 1#32 (Desc.indices vecDesc x.2.2)).1 = (none, true) ∧
      (m.2.cowAll 1#32 (Desc.indices vecDesc x.2.2)).2.focus = s.focus ∧ (m.2.cowAll 1#32 (Desc.indices vecDesc x.2.2)).2.index = s.index ∧
      ((m.2.cowAll 1#32 (Desc.indices vecDesc x.2.2)).2.ctx {}).run = some (withVals [wd 0, rg .vf32 1])) ∧
    vecS.objOf 1#32 = vec ∧ Desc.fmt vecDesc = 8 ∧ Desc.bits vecDesc = 8 * 4 ∧ Desc.tileOffset vecDesc ⟨0, 0, 0, 0⟩ % 128 = 0 ∧
    0 / Desc.til vecDesc 0 = 63 / Desc.til vecDesc 0 := by
  refine ⟨shown (by decide +kernel), ?_⟩
  and_intros <;> decide +kernel

/-- A geometry register that takes the whole vector. -/
def vecCg : BitVec 512 := BitVec.ofNat 512 ((64 + 2 ^ 32 + 2 ^ 64 + 2 ^ 96) * 2 ^ 128 + 2 ^ 264)
def cgS : State := vecS.updTile 0 0 fun x => { x with cgs := [(15, vecCg)] }

/-- `Obligations.TensorLoads`, the checks: generators of another context, unbound, bound. -/
theorem witness_TensorLoads_checks :
    Shown vecS ([.tldx 0 0 1 0 0x60, .tlds 0 0 1 0 0x60, .tldx 0 0 2 0 0x60].flatMap fun i => [(i, [hd 0]), (i, [wd 0])]) ∧
    (let s : State := { vecS with focus := { ctx := 1 } }
     Shown s [(.tldx 0 0 1 0 0x60, [wd 0])] ∧ ((s.tile 0 0).ag 1).owner ≠ s.focus.ctx ∧
       (running s (withVals [wd 0])).loadGate (withVals [wd 0]) true 0 = true) ∧
    ((vecS.tile 0 0).ag 1).bound = true ∧ ((vecS.tile 0 0).ag 2).bound = false ∧
    (running vecS (withVals [hd 0])).loadGate (withVals [hd 0]) true 0 = true := by
  refine ⟨shown (by decide +kernel), ⟨shown (by decide +kernel), ?_⟩, ?_⟩ <;> decide +kernel

/-- `Obligations.TensorEngineInstructions`: operands at the ends of their ranges; numbers issued, not issued, complete and not. -/
theorem witness_TensorEngineInstructions :
    Shown cgS [(.gset 0 0 2 0x60, [hd vecH, wd 15]), (.sbind 0 0 7, [wd (2 ^ 63)]), (.sbind 0 0 0, [wd 1]), (.csetg 0 0 15, [wd 0x1FFFC0]),
      (.csetg 0 0 15, [wd 1]), (.cpy 0 0 1 0 0x60, [hd vecH, wd 0]), (.cpyw 0 0 14 0x60, [hd vecH, hd vecH]), (.cpym 0 0 0 0x60, [hd vecH, wd 0]),
      (.deal 0 0 0 0x60, [hd vecH]), (.cpyt 0 0 31 0x60, [wd 0, wd 0]), (.cpytLand 0 0 14 0x60, [wd 0, wd 0]), (.twait 0 0 0 0x60, [wd 1]),
      (.twait 0 0 2 0x60, [wd 0]), (.tread 0 0 1 2 0x60, []), (.tread 0 0 0 0 0x60, [])] ∧
    (let r := { withVals [wd 1] with issueAt := { ce := 1 } }
     Ready (running cgS r) (.twait 0 0 0 0x60) [wd 1] r ∧ ((running cgS r).ctx {}).done.get .ce < (wd 1).w.toNat ∧ (wd 1).w.toNat ≤ r.issueAt.get .ce) ∧
    ((cgS.tile 0 0).ag 2).bound = false ∧ cgFits ((cgS.tile 0 0).cg 15) vecDesc = true ∧ (bit vecCg 264 = true ∧ Desc.ro vecDesc = false) ∧
    (cgS.reach 0 (BitVec.ofNat 64 vecH)).isSome = true ∧
    fldN vecCg 268 4 = 0 ∧ (withVals []).asked = [] ∧ (withVals []).waits = [] ∧ bit (BitVec.ofNat 64 (2 ^ 63)) 63 = true ∧
    ((cgS.tile 0 0).ag 1).tag ≠ .empty ∧ (withVals [wd 1]).issueAt.get .ce < (wd 1).w.toNat ∧
    (wd 0).w.toNat ≤ (withVals [wd 0]).issueAt.get .mse ∧
    (wd 0).w.toNat ≤ ((running cgS (withVals [wd 0])).ctx {}).done.get .mse ∧ ((running cgS (withVals [wd 0])).ctx {}).recf = [] := by
  refine ⟨shown (by decide +kernel), ⟨ready_of (by decide +kernel), ?_⟩, ?_⟩
  all_goals and_intros <;> decide +kernel

/-- `Obligations.MatrixInstructions`: addresses at the end, beyond it and off the alignment, handles for words, words with a reserved bit, a seat that may be written and one
that may not. -/
theorem witness_MatrixInstructions :
    Shown {} [(.msetg 0 0 15 0x60, [wd 0x1FFFF0]), (.msetg 0 0 0 0x60, [wd 8]), (.mldb 0 0 1 0x60, [wd 0x1FF800, wd (3 * 2 ^ 20)]), (.mplay 0 0 1 0x60, []),
      (.mrls 0 0 0 0x60, []), (.mst 0 0 15 3 0x60, [wd 0]), (.mst 0 0 0 0 0x60, [wd 8]), (.mst 0 0 0 0 0x60, [wd (2 ^ 21)]),
      (.mst 0 0 0 0 0x60, [wd (2 ^ 63 + 2 ^ 12 + 1)]), (.mst 0 0 0 0 0x60, [wd (2 ^ 63 + 2 ^ 13)]), (.mlda 0 0 0 0x60, [wd 0x1FF000, wd 1]), (.mzero 0 0 3 0x60, [wd (2 ^ 40)]),
      (.msetg 0 0 0 0x60, [wd 0x200000]), (.msetg 0 0 0 0x60, [hd 0]), (.mldb 0 0 1 0x60, [wd 0x1FF820, wd 0]), (.mldb 0 0 1 0x60, [wd 0, hd 0]),
      (.mst 0 0 0 0 0x60, [hd 0]), (.mlda 0 0 0 0x60, [wd 0x1FF020, wd 0]), (.mlda 0 0 0 0x60, [hd 0, wd 0]), (.mzero 0 0 3 0x60, [hd 0]), (.mzero 0 0 3 0x60, [wd 2]),
      (.mseat 0 0 0x60, [hd 0, hd vecH]), (.mseat 0 0 0x60, [wd 0, hd vecH])] ∧
    Shown {} ([.mma 0 0 15 3 0x60, .mmaz 0 0 0 0 0x60, .mmaq 0 0 1 1 0x60].flatMap fun i =>
        [(i, [wd 0x1FFFE0, wd 1]), (i, [wd 0, wd 2]), (i, [wd 0x1FFFE1, wd 0]), (i, [wd 0x200000, wd 0]), (i, [wd 0, hd 0])]) ∧
    (let s : State := ({} : State).updTile 0 0 fun x => { x with task := some 1#32, runs := true }
     Shown s [(.mseat 0 0 0x60, [wd 0, hd vecH]), (.mseat 0 0 0x60, [wd (143 + 144 * 2 ^ 8 + 143 * 2 ^ 16 + 143 * 2 ^ 24), hd vecH]),
        (.mseat 0 0 0x60, [wd (144 + 144 * 2 ^ 8), hd vecH])] ∧
       (s.tile 0 0).task ≠ none ∧ (s.tile 0 0).runs = true) ∧
    (({} : State).tile 0 0).task = none ∧ (({} : State).ctx {}).super = false ∧
    (fldN (wd 1).w 1 39 = 0 ∧ fldN (wd 2).w 1 39 ≠ 0 ∧ fldN (wd (2 ^ 40)).w 1 39 = 0 ∧ fldN (wd (3 * 2 ^ 20)).w 24 16 = 0 ∧
      fldN (wd (3 * 2 ^ 20)).w 0 20 = 0 ∧ fldN (wd (3 * 2 ^ 20)).w 20 4 < 4 ∧ fldN (wd (2 ^ 40)).w 48 16 = 0 ∧ fldN (wd 8).w 21 42 = 0 ∧
      fldN (wd (2 ^ 21)).w 21 42 ≠ 0 ∧ fldN (wd (2 ^ 63 + 2 ^ 12 + 1)).w 13 50 = 0 ∧ fldN (wd (2 ^ 63 + 2 ^ 12 + 1)).w 6 2 = 0 ∧
      fldN (wd (2 ^ 63 + 2 ^ 13)).w 13 50 ≠ 0) :=
  ⟨shown (by decide +kernel), shown (by decide +kernel), ⟨shown (by decide +kernel), by decide +kernel⟩, by decide +kernel, by decide +kernel, by decide⟩

/-- Destination words: tile 1 of die 0, of a class. -/
def dst (cls : Nat) : Reg := wd (2 ^ 41 + cls)

/-- A tile with a reply mailbox of one frame of one 16-byte slot, and full allowance at tile 1. -/
def mboxS : State := ({} : State).updTile 0 0 fun x =>
  { x with mbx := [(3, { words := BitVec.ofNat 768 (2 ^ 62 + 2 ^ 61 + 2 ^ 28) })], alw := [(15, { v := true, dw := (dst 3).w, alw := 17 })] }

/-- `Obligations.MessageInstructions`, the sending instructions. -/
theorem witness_MessageInstructions_sends :
    Shown mboxS [(.send 0 0 0 16 0x60, [dst 3, wd 0x1FFF00]), (.send 0 0 1 16 0x60, [dst 3, rg .vq4n 1]), (.send 0 0 0 0 0x60, [wd (2 ^ 41 + 3 + 16), wd 0]),
      (.send 0 0 0 0 0x60, [dst 0, wd 0]), (.sendq 0 0 0 16 0x60, [dst 3, wd 0x1FFF00]), (.sendq 0 0 0 1 0x60, [wd (2 * 2 ^ 41 + 3), wd 0]),
      (.req 0 0 0 16 0x60, [dst 0, wd 0]), (.reply 0 0 0 0 0x60, [dst 1, wd 0x200000]), (.xput 0 0 0 31 0x60, [wd (2 ^ 41 + 8 * 2 ^ 31 + 3), wd 0x1FF800]),
      (.xput 0 0 0 31 0x60, [wd (2 ^ 41 + 9 * 2 ^ 31 + 3), wd 0]), (.xamo 0 0 0 7 0x60, [dst 3, wd 0]),
      (.send 0 0 0 16 0x60, [hd 0, wd 0]), (.send 0 0 0 16 0x60, [dst 3, hd 0]), (.sendq 0 0 0 16 0x60, [hd 0, wd 0]), (.req 0 0 0 16 0x60, [dst 0, hd 0]),
      (.reply 0 0 0 0 0x60, [hd 0, wd 0]), (.xput 0 0 0 31 0x60, [dst 3, rg .vi8 0]), (.xamo 0 0 0 7 0x60, [dst 3, hd 0]),
      (.send 0 0 0 0 0x60, [wd (255 * 2 ^ 41 + 3), wd 0]), (.send 0 0 0 0 0x60, [dst 3, wd 8]), (.send 0 0 0 1 0x60, [dst 3, wd 0x200000]),
      (.xput 0 0 0 31 0x60, [wd (2 ^ 41 + 8 * 2 ^ 31 + 3), wd 0x1FF810])] ∧
    (let s := mboxS.updTile 0 0 fun x => { x with alw := [(15, { v := true, dw := (dst 3).w, alw := 1 })] }
     Shown s [(.sendq 0 0 0 16 0x60, [dst 3, wd 0]), (.req 0 0 0 16 0x60, [dst 0, wd 0])] ∧ (s.tile 0 0).alwFor (dst 3).w = some 15 ∧
       (s.tile 0 0).alwFor (dst 0).w = some 15 ∧ (look {} (s.tile 0 0).alw 15 : Allow).alw < cardSlots (16 * 16)) ∧
    (let s := mboxS.updTile 0 0 fun x => x.setPr 0 { x.pr 0 with reserved := true }
     Shown s [(.req 0 0 0 16 0x60, [dst 0, wd 0])] ∧ (s.tile 0 0).replyMb = some 3 ∧ (s.tile 0 0).freeReply 3 = none ∧ (withVals [dst 0, wd 0]).waits = []) ∧
    ((mboxS.tile 0 0).alwFor (dst 3).w = some 15 ∧ cardSlots (16 * 16) ≤ (look {} (mboxS.tile 0 0).alw 15 : Allow).alw ∧
      (mboxS.tile 0 0).alwFor (wd (2 * 2 ^ 41 + 3)).w = none ∧ (mboxS.tile 0 0).replyMb = some 3 ∧ (mboxS.tile 0 0).freeReply 3 = some 0 ∧
      (running mboxS (withVals [dst 0, wd 0])).replyQueue = false ∧ ((running mboxS (withVals [dst 0, wd 0])).ctx {}).src.inService = false) ∧
    (let s : State := mboxS.updCtx {} fun c => { c with src := { inService := true } }
     Shown s [(.req 0 0 0 0 0x60, [dst 0, wd 0])] ∧ (s.ctx {}).src.inService = true) ∧
    (fldN (dst 3).w 4 12 = 0 ∧ fldN (dst 3).w 0 2 = 3 ∧ fldN (dst 3).w 41 8 ≠ 255 ∧ fldN (wd (2 ^ 41 + 3 + 16)).w 4 12 ≠ 0 ∧ fldN (dst 0).w 0 2 = 0 ∧
      fldN (dst 1).w 0 2 = 1 ∧ fldN (dst 1).w 35 6 = 0 ∧ fldN (wd (2 ^ 41 + 8 * 2 ^ 31 + 3)).w 31 4 + 8 = 16 ∧
      fldN (wd (2 ^ 41 + 9 * 2 ^ 31 + 3)).w 31 4 + 8 = 17 ∧ fldN (dst 3).w 34 7 = 0) :=
  ⟨shown (by decide +kernel), ⟨shown (by decide +kernel), by decide +kernel, by decide +kernel, by decide +kernel⟩, ⟨shown (by decide +kernel), by decide +kernel, by decide +kernel, rfl⟩,
    by decide +kernel, ⟨shown (by decide +kernel), by decide +kernel⟩, by decide⟩

/-- `Obligations.MessageInstructions`, configurations, frames and exchange. -/
theorem witness_MessageInstructions_configurations :
    Shown mboxS [(.mbxset 0 0 0 0x60, [wd 63, wd 0x1FFFA0]), (.mbxset 0 0 1 0x60, [wd 15, wd 0]), (.mbxset 0 0 2 0x60, [wd 64, wd 0x1FFFF0]),
      (.frget 0 0 0 0x60, [wd 3]), (.frget 0 0 1 0x60, [wd 3]), (.frget 0 0 0 0x60, [wd 64]), (.frget 0 0 1 0x60, [wd 2]), (.frput 0 0 0x60, [wd 3, wd 0]), (.frput 0 0 0x60, [wd 2, wd 255]),
      (.xroute 0 0 0x60, [wd 0, wd 0x1FFFC0]), (.xflush 0 0 0x60, [wd 0, wd 0x1FFFF0]), (.xflush 0 0 0x60, [wd (2 ^ 63), wd 0x1FFC00]),
      (.mbxset 0 0 0 0x60, [hd 0, wd 0]), (.mbxset 0 0 0 0x60, [wd 64, wd 0]), (.mbxset 0 0 0 0x60, [wd 0, wd 16]), (.mbxset 0 0 0 0x60, [wd 0, wd 0x1FFFC0]),
      (.frget 0 0 0 0x60, [hd 3]), (.frput 0 0 0x60, [wd 3, hd 0]), (.frput 0 0 0x60, [wd 3, wd 1]), (.xroute 0 0 0x60, [hd 0, wd 0]), (.xroute 0 0 0x60, [wd (2 ^ 32), wd 0]),
      (.xroute 0 0 0x60, [wd 0, wd 32]), (.xroute 0 0 0x60, [wd 0, wd 0x200000]), (.xflush 0 0 0x60, [wd 0, hd 0]), (.xflush 0 0 0x60, [wd 64, wd 0]),
      (.xflush 0 0 0x60, [wd 0, wd 8]), (.xflush 0 0 0x60, [wd (2 ^ 63), wd 0x1FFC10])] ∧
    (fldN (wd 63).w 6 58 = 0 ∧ fldN (wd 15).w 4 60 = 0 ∧ fldN (wd 3).w 6 10 = 0 ∧ fldN (wd 3).w 31 33 = 0 ∧ fldN (wd 64).w 6 10 ≠ 0 ∧
      ((mboxS.tile 0 0).frame (wd 3).w).1 = false ∧ ((mboxS.tile 0 0).frame (wd 2).w).1 = true ∧ ((mboxS.tile 0 0).mb 3).mode = 1 ∧ ((mboxS.tile 0 0).mb 2).mode ≠ 1 ∧
      fldN (wd 0).w 32 4 = 0 ∧ (64 * (fldN ((mboxS.die 0).xu.dest 0).w1 62 2 + 1)) = 64 ∧ fldN (wd (2 ^ 63)).w 6 57 = 0 ∧ fldN (wd 64).w 6 57 ≠ 0 ∧ fldN (wd 64).w 6 58 ≠ 0 ∧ fldN (wd (2 ^ 32)).w 32 4 ≠ 0 ∧
      (withVals [wd 3]).waits = []) :=
  ⟨shown (by decide +kernel), by and_intros <;> decide +kernel⟩

/-! A claim's free choice: with nothing taken, some place is free wherever the search begins. -/

theorem freeRun_nil (lim n k cand : Nat) (b : Bool) (h : n ≤ lim) : ∃ a, freeRun lim [] n (k + 2) cand b = some a ∨ b = true := by
  cases b
  · by_cases h2 : lim < cand + n
    · exact ⟨0, .inl (by simp [freeRun, h2, Nat.not_lt.mpr h])⟩
    · exact ⟨cand, .inl (by simp [freeRun, h2])⟩
  · exact ⟨0, .inr rfl⟩

/-- With number 0 alone taken, as on die 0 of module 0, some other is free. -/
theorem freeRun_zero (cand : Nat) : ∃ a, freeRun 131072 [0] 1 5 cand false = some a := by
  by_cases h : 131072 < cand + 1
  · exact ⟨1, by simp [freeRun, h]⟩
  · rcases Nat.eq_zero_or_pos cand with rfl | h0
    · exact ⟨1, by simp [freeRun]⟩
    · exact ⟨cand, by simp [freeRun, h, Nat.not_le.mpr h0]⟩

theorem freePlace_nil (k cand : Nat) : ∃ a, freePlace [] 1 (k + 2) cand false = some a := by
  by_cases h : 2 ^ 20 < cand + 1
  · exact ⟨0, by unfold freePlace; rw [if_pos h]; simp [freePlace]⟩
  · exact ⟨cand, by unfold freePlace; rw [if_neg h]; rfl⟩

/-- A state with the vector's object whose bytes are also a record image at local address 0 that names its code, an object descriptor at 64,
a template with one record, region 0, and a few records: 1 WAITING in region 0, 2 a join that has fired, 4 one that has not. -/
def graphS : State :=
  ({ vecS with
      regions := [(0, 0#1024)]
      mem := [(12, 1#8), (64, 8#8), (74, 0x40#8), (76, 0x40#8), (82, 1#8), (84, 1#8), (90, 1#8), (92, 1#8), (98, 1#8), (100, 1#8), (hbmKey 0 6, 1#8)] } : State).updTd 0 fun t =>
    { t with slots := [(1, { kind := .task, raw := BitVec.ofNat 2048 (2 ^ 60) }), (2, { kind := .join, raw := BitVec.ofNat 2048 (2 ^ 126) }), (4, { kind := .join, raw := 0#2048 })] }

theorem claims (s : State) (h : (s.die 1).td.slots = []) (h2 : s.slotsFit 0 1 = true) : ∃ n u, s.claim 1 1 0 = some (n, u) := by
  obtain ⟨a, h3 | h3⟩ := freeRun_nil 65536 1 1 (Config.freeChoice s.freeCtr % 65536) false (by decide)
  · exact ⟨a, _, by simp [State.claim, State.draw, h, h2, h3]; rfl⟩
  · exact absurd h3 (by decide)

/-- The same seen from die 1, with the record image and the descriptor in the local store of its tile 0. -/
def graphS1 : State := { graphS with focus := { die := 1 }, mem := graphS.mem.map fun c => (if c.1 < 2 ^ 20 then lsKey 1 0 c.1 else c.1, c.2) }

/-- The state in which an instruction that asks a hub has been entered as asking. -/
def asking (s : State) (vals : List Reg) : State :=
  (running s (withVals vals)).updRun s.focus fun r => { r with asked := r.asked ++ [(0, .cmd none .confirm)] }

/-- `Obligations.TaskInstructions`. -/
theorem witness_TaskInstructions :
    Shown graphS [(.tdec 0 0, [wd 1, wd 1]), (.tdec 0 0, [wd 1, wd 65535]), (.tdec 0 0, [wd 1, wd 0]), (.tdec 0 0, [wd 3, wd 65536]), (.tkill 0 0 1, [wd 1]),
      (.tkill 0 0 0, [wd (2 ^ 31)]), (.tkill 0 0 0, [wd (2 ^ 21)]), (.tstat 0 0 0 0x60, [wd 1]), (.tstat 0 0 1 0x60, [wd 1]), (.tstat 0 0 2 0x60, [wd 3]),
      (.tjoin 0 0 0x60, [wd (2 ^ 31 + 2)]), (.tjoin 0 0 0x60, [wd (2 ^ 31 + 3)]), (.tjoin 0 0 0x60, [wd (2 ^ 31 + 4)]), (.tspawn 0 0 0x60, [wd 0, wd 1])] ∧
    Shown { graphS with focus := { ctx := 1 } } [(.tjoin 0 0 0x60, [wd 0])] ∧ Shown graphS1 [(.tspawn 0 0 0x60, [wd 0, wd 1])] ∧
    graphS.taskHub 1#32 = 0 ∧ graphS.stateOf 0 1 = 1 ∧ Rec.region (graphS.slot 0 1).raw = 0 ∧ graphS.stateOf 0 3 = 0 ∧ (graphS.die 0).live = true ∧
    (fldN (wd 1).w 31 33 = 0 ∧ fldN (wd (2 ^ 31)).w 31 33 ≠ 0 ∧ fldN (wd (2 ^ 31 + 2)).w 32 32 = 0 ∧ bit (wd (2 ^ 31 + 2)).w 31 = true ∧
      fldN (wd 1).w 21 10 = graphS.moduleId % 1024 ∧ fldN (wd (2 ^ 21)).w 21 10 ≠ graphS.moduleId % 1024 ∧ graphS.requesters = []) ∧
    (graphS.slot 0 2).kind = .join ∧ (graphS.slot 0 2).region = 0 ∧ bit (graphS.slot 0 2).raw 126 = true ∧ (graphS.slot 0 3).kind ≠ .join ∧
    ((graphS.slot 0 4).kind = .join ∧ (graphS.slot 0 4).region = 0 ∧ bit (graphS.slot 0 4).raw 126 = false ∧ (withVals [wd (2 ^ 31 + 4)]).waits = []) ∧
    (∀ g ∈ [graphS, graphS1], let s := running g (withVals [wd 0, wd 1])
     s.loadGate (withVals [wd 0, wd 1]) false 0 = true ∧
     ((s.loadLocal (withVals [wd 0, wd 1]) 0 0 256).any fun bs =>
       s.imageFault (BitVec.ofNat 2048 (leNat bs)) == none && Rec.region (BitVec.ofNat 2048 (leNat bs)) == 0) = true) ∧
    ∃ n u, (asking graphS1 [wd 0, wd 1]).claim 1 1 0 = some (n, u) := by
  refine ⟨shown (by decide +kernel), shown (by decide +kernel), shown (by decide +kernel), ?_, ?_, ?_, ?_, ?_, ?_, ?_, ?_, ?_, ?_, ?_, ?_,
    claims _ (by decide +kernel) (by decide +kernel)⟩ <;> decide +kernel

/-- A template in two frames of 512 bytes: a header that tells one record, and the record, homed at die 1. -/
def tmplDesc : BitVec 512 := BitVec.ofNat 512 (2 ^ 105 + 2 ^ 88 + 2 ^ 160 + 2 ^ 144 + 2 ^ 224 + 2 ^ 208 + 2 ^ 288 + 2 ^ 272)
def tmplS : State :=
  ({ regions := [(0, 0#1024)], mem := [(hbmKey 0 6, 1#8), (hbmKey 0 65536, 1#8)] } : State).setObj 1#32
    { live := true, desc := tmplDesc, table := [(0, 3#64), (1, BitVec.ofNat 64 (2 ^ 32 + 3))], refs := 1, opens := [(0, 1)] }

theorem instances (s : State) (e1 : fldN (s.tmplRec 1#32 0) 48 16 = 1) (e2 : fldN (s.tmplRec 1#32 0) 32 4 = 0)
    (e3 : fldN (s.tmplRec 1#32 1) 0 6 = 1) (e4 : Rec.nsucc (s.tmplRec 1#32 1) = 0) (e5 : (s.rcb 0).isNone = false)
    (h : (s.die 1).td.slots = []) (h2 : s.slotsFit 0 1 = true) (q : Option (Nat × Nat)) : ∃ i u, s.claimInst 0 0 1#32 [] q = some (i, u) := by
  obtain ⟨n, u, h⟩ := claims s h h2
  have h3 : (s.claimInst 0 0 1#32 [] q).isSome = true := by
    simp [State.claimInst, e1, e2, e3, e4, e5, State.claimEach, h, List.range_succ, ceilDiv]
    rfl
  obtain ⟨⟨i, v⟩, h3⟩ := Option.isSome_iff_exists.mp h3
  exact ⟨i, v, h3⟩

/-- `Obligations.TaskInstructions`, `GINST`. -/
theorem witness_TaskInstructions_instance :
    Shown tmplS [(.ginst 0 0 0x60, [hd vecH, wd 0])] ∧ tmplS.tmplOk 1#32 = true ∧ fldN (tmplS.tmplRec 1#32 0) 40 8 = 0 ∧
    (tmplS.reach 0 (BitVec.ofNat 64 vecH)).isSome = true ∧ ∃ i u, (asking tmplS [hd vecH, wd 0]).claimInst 0 0 1#32 [] none = some (i, u) :=
  ⟨shown (by decide +kernel), by decide +kernel, by decide +kernel, by decide +kernel,
   instances _ (by decide +kernel) (by decide +kernel) (by decide +kernel) (by decide +kernel) (by decide +kernel) (by decide +kernel) (by decide +kernel) _⟩

theorem objects (s : State) (d : BitVec 512) (h1 : Desc.valid d = true) (h2 : Desc.entries d = 1) (h3 : Desc.stackOf d 0 = 0) (h4 : Desc.frame d = 65536)
    (h0 : s.moduleId = 0) (h5 : s.frames = []) (h6 : s.unitsFit 0 1 = true) (h7 : (s.nd 0).objs.filter (fun x => x.2.live) = []) :
    ∃ id u, s.makeObj 0 0 d = .ok (id, u) := by
  obtain ⟨a, h8⟩ := freePlace_nil 1 (Config.freeChoice s.freeCtr % 1048576)
  obtain ⟨b, h9⟩ := freeRun_zero (Config.freeChoice (s.freeCtr + 1) % 131072)
  have h7 : (List.filter (fun x => x.2.live) (look {} s.dies 0).nd.objs) = [] := h7
  have h10 : (s.makeObj 0 0 d).toOption.isSome = true := by
    simp [State.makeObj, h1, h2, State.makeFrames, h3, h4, State.takeFrame, State.draw, h5, h6, h8, State.freeObj, State.zeroAt, State.nd, State.die, h7, h0, h9, objLimit]
    rfl
  cases h11 : s.makeObj 0 0 d with
  | ok x => exact ⟨x.1, x.2, rfl⟩
  | error e => rw [h11] at h10; cases h10

/-- A name of key 32, homed at die 0, bound to the vector; a transaction of context 0 of tile 0, collecting; an object descriptor at local address 0. -/
def nameS : State := vecS.updNd 0 fun n => { n with names := [{ key := 32#64, state := .bound, gen := 1, obj := 1#32 }], txns := [{ id := 0, owner := {}, region := 0 }] }
def makeS : State :=
  { mem := [(0, 8#8), (10, 0x40#8), (12, 0x40#8), (18, 1#8), (20, 1#8), (26, 1#8), (28, 1#8), (34, 1#8), (36, 1#8)] }

/-- `Obligations.NameInstructions`. -/
theorem witness_NameInstructions :
    Shown nameS [(.nopen 0 0 0 0 0x60, [wd 32]), (.nopen 0 0 1 31 0x60, [wd 32]), (.nclose 0 0, [hd vecH]), (.nclose 0 0, [hd 1]), (.nbind 0 0, [wd 32, hd vecH]),
      (.nbind 0 0, [wd 64, wd 0]), (.nqry 0 0 2 0x60, [hd vecH]), (.nqry 0 0 1 0x60, [wd 32]), (.nqry 0 0 0 0x60, [wd 32]), (.nqry 0 0 0 0x60, [wd 64]),
      (.ntxa 0, [wd 0, wd 32, hd vecH]), (.ntxa 0, [wd 0, wd 32, hd 1]), (.ntxa 0, [wd 0, wd 32, wd 0]), (.ntxc 0 0 0x60, [wd 0]), (.ntxx 0 0, [wd 0]), (.ntxc 0 0 0x60, [wd 64]), (.ntxx 0 0, [wd (2 ^ 32)]), (.nsnap 0 0 0x60, [hd vecH]), (.nmake 0 0 0x60, [wd 0])] ∧
    Shown { nameS with focus := { ctx := 3 } } [(.nopen 0 0 1 0 0x60, [wd 32])] ∧
    nameS.nameHub 32#64 = 0 ∧ nameS.objHub 1#32 = 0 ∧ (nameS.die 0).live = true ∧ nameS.obj? (BitVec.ofNat 64 vecH) = some vec ∧ look 0 vec.opens 0 ≠ 0 ∧
    nameS.obj? 1#64 = none ∧ (nameS.reach 0 (BitVec.ofNat 64 vecH)).isSome = true ∧ (nameS.nd 0).fullFor 64#64 = false ∧
    ((nameS.nd 0).name? 32#64).isSome = true ∧ (nameS.nd 0).name? 64#64 = none ∧
    (((running nameS (withVals [wd 0])).ownTxn 0#64).isSome = true ∧ fldN (wd 0).w 6 11 = 0 ∧ fldN (wd 64).w 6 11 ≠ 0 ∧ fldN (wd (2 ^ 32)).w 32 32 ≠ 0) ∧ Shown vecS [(.ntxb 0 0 0x60, [])] ∧ vecS.txnsKept 0 = false ∧ nameS.obj? 0#64 = none ∧ (txnClaim (asking vecS [])).2.1.isSome = true ∧
    (withVals [wd 0]).tok 0x60 = none ∧ (withVals [wd 0]).reserved = [] ∧
    (Shown makeS [(.nmake 0 0 0x60, [wd 0])] ∧ (running makeS (withVals [wd 0])).loadGate (withVals [wd 0]) false 0 = true ∧
      (((running makeS (withVals [wd 0])).loadLocal (withVals [wd 0]) 0 0 64).any fun bs => BitVec.ofNat 512 (leNat bs) == vecDesc) = true ∧
      ∃ made u, (asking makeS [wd 0]).makeObj 0 0 vecDesc = .ok (made, u)) := by
  refine ⟨shown (by decide +kernel), shown (by decide +kernel), ?_, ?_, ?_, ?_, ?_, ?_, ?_, ?_, ?_, ?_, ?_, shown (by decide +kernel), ?_, ?_, ?_, ?_, ?_,
    shown (by decide +kernel), ?_, ?_, objects _ _ ?_ ?_ ?_ ?_ ?_ ?_ ?_ ?_⟩ <;> decide +kernel

theorem loadLocal_plain (s : State) (r : Run) (l a n : Nat) (h : r.counted = []) (hb : s.bad = []) :
    s.loadLocal r l a n = some ((List.range n).map fun i => Memory.read s.mem (lsKey s.focus.die s.focus.tile (a + i))) := by
  have hf : ∀ i, (r.forward l a n).getD i none = none := by
    intro i
    simp only [Run.forward, h, sortLsid, List.filter_nil, List.foldl_nil, List.getD_eq_getElem?_getD, List.getElem?_replicate]
    split <;> rfl
  have hz : ∀ k m, s.badAt k m = false := fun k m => by simp [State.badAt, hb]
  simp only [State.loadLocal, hf, hz, Bool.and_false, List.any_eq_true, Bool.false_eq_true, and_false, exists_false, if_false]

/-- Contexts 1 FAULTED and 2 RUNNING beside context 0, and an image of context 1 at local address 0. -/
def systemS : State :=
  { mem := [(0, 0x10#8), (1, 0x20#8), (2, 0x58#8), (3, 0x43#8)]
    tiles := [(0, { ctxs := [(1, { phase := .faulted }), (2, { phase := .running }), (3, { phase := .faulted, issue := { ce := 1 } })] })] }

/-- The same seen from context 1, with context 0 FAULTED and an image of a task's context 0 at local address 0, of task 0 or of task 5. -/
def systemS1 (n : Nat) : State :=
  { systemS with
      focus := { ctx := 1 }, mem := systemS.mem ++ if n = 0 then [] else [(4, BitVec.ofNat 8 n)]
      tiles := [(0, { ctxs := [(0, { phase := .faulted }), (1, { phase := .running })] })] }

/-- `Obligations.SystemInstructions`. -/
theorem witness_SystemInstructions :
    Shown systemS [(.svc 0 0 0x60, [wd 2, wd 0]), (.svc 0 0 0x60, [wd (2 ^ 16), wd 0]), (.ctxsv 0 0, [wd 8, wd 0]), (.ctxsv 0 0, [wd 0, wd 0]), (.ctxsv 0 0, [wd 2, wd 0]),
      (.ctxsv 0 0, [wd 1, wd (0x200000 - 8704)]), (.ctxrs 0 0, [wd 1, wd 0]), (.tlbi 0 0 0, [wd 0, wd (2 ^ 64 - 1)]),
      (.svc 0 0 0x60, [hd 2, wd 0]), (.ctxsv 0 0, [wd 1, hd 0]), (.ctxsv 0 0, [wd 1, wd 16]), (.ctxsv 0 0, [wd 1, wd 0x200000]), (.ctxsv 0 0, [wd 3, wd 0]),
      (.ctxrs 0 0, [hd 1, wd 0]), (.ctxrs 0 0, [wd 0, wd 0]), (.ctxrs 0 0, [wd 2, wd 0]), (.ctxrs 0 0, [wd 4, wd 0]), (.ctxrs 0 0, [wd 1, wd 16]), (.ctxrs 0 0, [wd 1, wd 0x200000]),
      (.tlbi 0 0 0, [hd 1, wd 0]), (.tlbi 0 0 0, [wd 1, wd 0])] ∧
    ((systemS.ctx { ctx := 3 }).phase = .faulted ∧ (systemS.ctx { ctx := 3 }).done.get .ce ≠ (systemS.ctx { ctx := 3 }).issue.get .ce ∧
      (systemS.ctx { ctx := 4 }).phase = .idle ∧ systemS.obj? 1#64 = none) ∧
    (∀ n ∈ [0, 5], Shown (systemS1 n) [(.ctxrs 0 0, [wd 0, wd 0]), (.svc 0 0 0x60, [wd 2, wd 0])] ∧ (((systemS1 n).ctx { ctx := 0 }).phase = .faulted ∧
      ((systemS1 n).ctx { ctx := 1 }).super = false ∧ (running (systemS1 n) (withVals [wd 0, wd 0])).loadGate (withVals [wd 0, wd 0]) false 0 = true)) ∧
    (fld (BitVec.ofNat 64 (leNat (((List.range 8).map fun i => Memory.read (systemS1 5).mem (lsKey 0 0 i))))) 32 32 ≠ (systemS1 5).taskOn {}) ∧
    Shown vecS [(.tlbi 0 0 2, [hd vecH, wd 0]), (.tlbi 0 0 2, [hd vecH, wd (2 ^ 64 - 2)])] ∧ (vecS.obj? (BitVec.ofNat 64 vecH)).isSome = true ∧
    (systemS.service {} 2 0).isSome = true ∧ (systemS.ctx { ctx := 1 }).phase = .faulted ∧ (systemS.ctx { ctx := 2 }).phase ≠ .faulted ∧
    (systemS.ctx { ctx := 1 }).done = (systemS.ctx { ctx := 1 }).issue ∧ (-1 ≤ (wd (2 ^ 64 - 1)).w.toInt ∧ (wd (2 ^ 64 - 2)).w.toInt < -1) ∧
    (running systemS (withVals [wd 1, wd 0])).loadGate (withVals [wd 1, wd 0]) false 0 = true ∧
    ((running systemS (withVals [wd 1, wd 0])).loadLocal (withVals [wd 1, wd 0]) 0 0 8704).any (imageOk 1) = true := by
  refine ⟨shown (by decide +kernel), by decide +kernel, fun n h => ?_, by decide +kernel, shown (by decide +kernel), ?_⟩
  · simp only [List.mem_cons, List.not_mem_nil, or_false] at h
    rcases h with rfl | rfl <;> exact ⟨shown (by decide +kernel), by decide +kernel⟩
  rw [loadLocal_plain _ _ _ _ _ rfl (by decide +kernel)]
  and_intros <;> decide +kernel

/-! ### Blocks -/

/-- A block of eight words: the header word, counted instructions, the first two read entries, the first write entries, the body. -/
def blk (h : Word32) (n : Nat) (rd wr : Word32) (body : List Word32) : List Word32 :=
  [h, BitVec.ofNat 32 (n * 2 ^ 26), rd, 0#32, 0#32, 0#32, wr, 0#32] ++ body ++ List.replicate (8 - body.length) 0x2E003FFF#32

/-- Register 3, read for instruction 0, is moved to register 5, and the block goes on with exit 1 at the next offset of 32; a block without read
and write entries that ends in that exit. -/
def moveBlk : List Word32 := blk 0xA0440000#32 0 0x81800000#32 0x85000000#32 [0x1800307F#32, 0x02100001#32]
def exitBlk (body : List Word32) : List Word32 := blk 0xA0000000#32 0 0#32 0#32 (body ++ [0x02100001#32])

/-- A code object, like the vector, and a context that runs there at an offset, with the header and the exit of a block at offset 0. -/
def codeDesc : BitVec 512 := vecDesc ||| BitVec.ofNat 512 (2 ^ 28)
def codeS (at_ : BitVec 32) : State :=
  (({ mem := [(hbmKey 0 3, 0xA0#8), (hbmKey 0 32, 0x01#8)] } : State).setObj 1#32 { vec with desc := codeDesc }).updCtx {} fun c =>
    { c with phase := .running, code := BitVec.ofNat 64 vecH, block := at_ }

/-- `Obligations.BlockFetch`: a good offset, one off the alignment, one beyond the end; no code object; an object that is none; no link up. -/
theorem witness_BlockFetch :
    (∀ x ∈ [codeS 0#32, codeS 1#32, codeS 256#32, running {} {}, (codeS 0#32).setObj 1#32 vec],
      (x.ctx {}).phase = .running ∧ (x.ctx {}).frozen = false ∧ (x.ctx {}).atBarrier = none ∧ (x.die 0).halt = none ∧ (x.die 0).stopped = false ∧
      x.saving 0 0 = false) ∧
    (∀ x ∈ [codeS 0#32, codeS 1#32, codeS 256#32], (x.ctx {}).run = none ∧ ∃ o, x.reach 0 (x.ctx {}).code = some o ∧ Desc.code o.desc = true) ∧
    ((codeS 0#32).fetchBlock ((codeS 0#32).tile 0 0) 0 (BitVec.ofNat 64 vecH) 0).toOption.isSome = true ∧ (codeS 0#32).fetchOpen {} = true ∧
    State.fetchOpen { codeS 0#32 with links := (List.range 112).map fun l => (l, .down) } {} = false ∧ (1#32).toNat % 32 ≠ 0 ∧ (256#32).toNat % 32 = 0 ∧
    Desc.bytes codeDesc < 256 + 32 ∧ ({} : State).reach 0 0#64 = none ∧
    ((codeS 0#32).setObj 1#32 vec).reach 0 (BitVec.ofNat 64 vecH) = some vec ∧ Desc.code vecDesc = false := by
  refine ⟨by decide +kernel, ?_, by decide +kernel, by decide +kernel, by decide +kernel, by decide, by decide, by decide +kernel, by decide +kernel,
    by decide +kernel, by decide +kernel⟩
  intro x hx
  have h : x.reach 0 (x.ctx {}).code = some { vec with desc := codeDesc } ∧ (x.ctx {}).run = none := by
    revert x; decide +kernel
  exact ⟨h.2, _, h.1, by decide +kernel⟩

/-- A context whose register 3 is a stream port of generator 1, with an element ahead. -/
def portS : State := (running {} { words := blk 0xA0440000#32 0 0xBC000000#32 0x85000000#32 [0x1800307F#32, 0x02100001#32] }).updTile 0 0 fun x =>
  (x.setAg 1 { bound := true, ahead := [rg .vf32 1] })

/-- `Obligations.BlockDecoding`: a good block, also with a stream port; a bad header; words undefined, with a reserved field, for supervisors. -/
theorem witness_BlockDecoding :
    (let r : Run := { words := moveBlk }
     r.decodeFault 0 false none = none ∧ r.nrd = 1 ∧ r.rdTarget 0 = 0 ∧ r.rdReg 0 = 3 ∧ r.rdReuse 0 = false ∧
     (∀ i < r.nrd, ∀ j < r.nrd, r.rdTarget i = r.rdTarget j → r.rdTarget i = 0x7F ∨ i = j) ∧
     ((running {} r).ctx {}).run = some r ∧ (∀ j < r.nrd, ((running {} r).ctx {}).port (r.rdReg j) = none) ∧ (running {} r).saving 0 0 = false ∧
     (running {} r).handlesDue {} = false ∧
     ((running {} r).updTile 0 0 fun x => { x with fills := [{ entry := 56, reg := hd 1 }], ctxs := x.ctxs.map fun c => (c.1, { c.2 with kind := some 1#2 }) }).handlesDue {} = true) ∧
    (let s : State := portS.updCtx {} fun c => { c with ports := [(0, 1)] }
     ((s.ctx {}).run.map fun r => (r.decodeFault 0 false none, r.nrd, r.rdTarget 0, (s.ctx {}).port (r.rdReg 0))) = some (none, 1, 0, some 1) ∧
     ((s.tile 0 0).ag 1).ahead = [rg .vf32 1]) ∧
    (({ words := [] } : Run).headerOk = false ∧ ({ words := [] } : Run).decodeFault 0 false none = some (.reservedField, none, true)) ∧
    (let r : Run := { words := exitBlk [0x2E003FFF#32, 0#32] }
     r.headerOk = true ∧ r.entriesOk 0 = true ∧ decodeWord (r.word 1) = .error .illegalOpcode ∧ decodeWord (r.word 0) ≠ .error .illegalOpcode) ∧
    (let r : Run := { words := exitBlk [0x2E003FFF#32, 0x20C03FFF#32] }
     (∀ k < r.size, decodeWord (r.word k) ≠ .error .illegalOpcode) ∧ r.wordOk 0 1 = false ∧ r.wordOk 0 0 = true) ∧
    (let r : Run := { words := exitBlk [0x2E003FFF#32, 0x8A00407F#32] }
     (∀ k < r.size, r.wordOk 0 k = true) ∧ r.instr 1 = some (.ctxsv 0 0) ∧ supervisorOnly (.ctxsv 0 0) = true ∧
     (r.instr 0).map supervisorOnly = some false) := by
  and_intros <;> decide +kernel

/-- What `Committable` and `Plain` ask, computed. -/
def committableNow (s : State) (r : Run) (e : FiredExit) : Bool :=
  (s.ctx s.focus).run == some r && (s.ctx s.focus).phase == .running && !(s.ctx s.focus).frozen && !(s.die s.focus.die).stopped
    && r.live && !r.committing && !r.cut && r.exits == [e]
    && (List.range r.nwr).all (fun j => (r.tok (0x60 + j)).isSome || r.reserved.contains (0x60 + j)) && r.counted.length == r.ncnt
    && r.provs == [] && r.pops == [] && (s.ctx s.focus).ports == []

theorem committable_of {s : State} {r : Run} {e : FiredExit} (h : committableNow s r e = true) : Committable s r e ∧ Plain s r := by
  simp only [committableNow, Bool.and_eq_true, beq_iff_eq, Bool.not_eq_true', List.all_eq_true, List.mem_range, Bool.or_eq_true] at h
  obtain ⟨⟨⟨⟨⟨⟨⟨⟨⟨⟨⟨⟨h1, h2⟩, h3⟩, h4⟩, h5⟩, h6⟩, h6'⟩, h7⟩, h8⟩, h9⟩, h10⟩, h11⟩, h12⟩ := h
  exact ⟨⟨h1, h2, h3, h4, h5, h6, h6', h7, h8, h9⟩, h10, h11, h12⟩

/-- A live block that has fired an exit, with counted operations received. -/
def atEnd (ws : List Word32) (toks : List (Nat × Token)) (ops : List Counted) (k : ExitKind) : Run :=
  { words := ws, live := true, tokens := toks, counted := ops, exits := [⟨1, 1, k⟩] }

/-- `Obligations.CommitRegisters`: a value, and a null, for register 5. -/
theorem witness_CommitRegisters :
    (∀ k ∈ [Token.val (wd 7), .null],
      let r := atEnd moveBlk [(0x60, k)] [] (.branch 32#32)
      Placed (running {} r) ∧ (Committable (running {} r) r ⟨1, 1, .branch 32#32⟩ ∧ Plain (running {} r) r) ∧ r.counted = [] ∧
      ∀ i < r.nwr, ∀ j < r.nwr, r.wrReg i = r.wrReg j → i = j) ∧
    (∀ j < ({ words := moveBlk } : Run).nwr, ({ words := moveBlk } : Run).wrReg j = 5) ∧ ({} : Ctx).round ≠ 4 := by
  refine ⟨?_, by decide +kernel, by decide⟩
  intro k hk
  have h : ([Token.val (wd 7), .null].all fun k => committableNow (running {} (atEnd moveBlk [(0x60, k)] [] (.branch 32#32)))
    (atEnd moveBlk [(0x60, k)] [] (.branch 32#32)) ⟨1, 1, .branch 32#32⟩) = true := by decide +kernel
  exact ⟨by unfold Placed; revert k; decide +kernel, committable_of (List.all_eq_true.mp h k hk), rfl, by revert k; decide +kernel⟩

/-- `Obligations.CommitOperations`: one store; two stores to one address, received in the other order; a special register; a landing entry. -/
theorem witness_CommitOperations :
    (∀ ops ∈ [[⟨0, 0, .storeLocal 0x1FFFF8 (leBytes 8 1)⟩], [⟨5, 0, .storeLocal 0 [2#8]⟩, ⟨4, 1, .storeLocal 0 [1#8]⟩], [⟨0, 0, .mts 0x10 4#64⟩],
        [(⟨0, 0, .land 5⟩ : Counted)]],
      let r := atEnd (blk 0xA0000000#32 ops.length 0#32 0#32 []) [] ops (.branch 32#32)
      (Committable (running {} r) r ⟨1, 1, .branch 32#32⟩ ∧ Plain (running {} r) r) ∧ ∀ x ∈ r.counted, isLocal x.op = true) ∧
    ({} : State).badAt (lsKey 0 0 0x1FFFF8) 8 = false ∧ ({} : State).badAt (lsKey 0 0 0x1FFFC0) 64 = false := by
  refine ⟨?_, by decide +kernel, by decide +kernel⟩
  intro ops hops
  have h : ([[⟨0, 0, .storeLocal 0x1FFFF8 (leBytes 8 1)⟩], [⟨5, 0, .storeLocal 0 [2#8]⟩, ⟨4, 1, .storeLocal 0 [1#8]⟩], [⟨0, 0, .mts 0x10 4#64⟩],
        [(⟨0, 0, .land 5⟩ : Counted)]].all fun ops =>
      committableNow (running {} (atEnd (blk 0xA0000000#32 ops.length 0#32 0#32 []) [] ops (.branch 32#32)))
        (atEnd (blk 0xA0000000#32 ops.length 0#32 0#32 []) [] ops (.branch 32#32)) ⟨1, 1, .branch 32#32⟩ && ops.all fun x => isLocal x.op) = true := by
    decide +kernel
  have h2 := List.all_eq_true.mp h ops hops
  simp only [Bool.and_eq_true] at h2
  exact ⟨committable_of h2.1, fun x hx => List.all_eq_true.mp h2.2 x hx⟩

/-- `Obligations.ExitEffects`: each exit, from context 0 or a handler, with its own condition. -/
theorem witness_ExitEffects :
    (let ends (s : State) (k : ExitKind) : Prop :=
       let r := atEnd (exitBlk []) [] [] k
       (Committable (running s r) r ⟨1, 1, k⟩ ∧ Plain (running s r) r) ∧ r.nwr = 0
     let with_ (f : Ctx → Ctx) : State := ({} : State).updCtx {} f
     let handler : State := { focus := { ctx := 1 } }
     ends {} (.call 64#32) ∧ ends {} .ret ∧ ends (with_ fun c => { c with ras := [64#32] }) .ret ∧ ends {} (.texit 31) ∧ ends handler .hret ∧
     ends ((handler.updCtx { ctx := 1 } fun c => { c with trapRun := true, fctx := 3#3 }).updCtx { ctx := 3 } fun c => { c with phase := .faulted }) .eret ∧
     ends (({} : State).updTile 0 0 (fun x => { x with task := some 7#32, runs := true }) |>.setSlot 0 7 { kind := .task, rect := some ⟨0, 0, 2, 1⟩ }) (.barrier 64#32)) ∧
    (let s : State := (({} : State).updTile 0 0 fun x => { x with task := some 7#32, runs := true }).setSlot 0 7 { kind := .task, rect := some ⟨0, 0, 2, 1⟩ }
     (s.slot 0 (idSlot (s.taskOn {}))).rect = some ⟨0, 0, 2, 1⟩ ∧ 1 < (s.liveTiles 0 ⟨0, 0, 2, 1⟩).length) ∧
    ({} : Ctx).fended.contains 3#3 = false := by
  refine ⟨⟨⟨committable_of (by decide +kernel), by decide +kernel⟩, ⟨committable_of (by decide +kernel), by decide +kernel⟩,
    ⟨committable_of (by decide +kernel), by decide +kernel⟩, ⟨committable_of (by decide +kernel), by decide +kernel⟩,
    ⟨committable_of (by decide +kernel), by decide +kernel⟩, ⟨committable_of (by decide +kernel), by decide +kernel⟩,
    ⟨committable_of (by decide +kernel), by decide +kernel⟩⟩, by decide +kernel, by decide⟩

/-- A region with a trap handler, that object 1. -/
def trapBlock : BitVec 1024 := BitVec.ofNat 1024 (vecH * 2 ^ 256 + 2 ^ 973)

/-- `Obligations.FaultEntry`: a running block; a record of four cycles before, in a region with a trap handler, for a debug generator, and in a handler
without one. -/
theorem witness_FaultEntry :
    (({} : Place).ok = true ∧ ((running {} (withVals [])).ctx {}).run = some (withVals []) ∧ (withVals []).provs = []) ∧
    (let r : FaultRec := { cause := .trap, cycle := 6 }
     (let s : State := ({ codeS 0#32 with cycle := 10, regions := [(0, trapBlock)] } : State).updCtx {} fun c => { c with pend := [r] }
      (s.ctx {}).pend = [r] ∧ r.cycle + 4 ≤ s.cycle ∧ ((s.tile 0 0).lb 48).full = false ∧ (s.ctx {}).trapRun = false ∧ rcbWord (s.eff 0 13) 4 = BitVec.ofNat 64 vecH ∧
      (s.obj? (BitVec.ofNat 64 vecH)).isSome = true ∧ (s.tile 0 0).trapQ = []) ∧
     (∀ q ∈ [r, { r with noTrap := true }],
      let s : State := ({ cycle := 10, focus := { ctx := 7 } } : State).updCtx { ctx := 7 } fun c => { c with phase := .faulted, pend := [q], fault := some q }
      (s.ctx { ctx := 7 }).pend = [q] ∧ ((s.tile 0 0).lb 55).full = false ∧ rcbWord (s.eff 0 13) 4 = 0#64 ∧ (s.ctx { ctx := 7 }).phase = .faulted ∧
        (s.ctx { ctx := 7 }).fault = some q ∧ (s.die 0).stopped = false ∧ (s.ctx { ctx := 7 }).trapRun = false)) := by
  refine ⟨⟨by decide, by decide +kernel, rfl⟩, by decide +kernel, by decide +kernel⟩

/-- `Obligations.HandlerAndTrapStarts`: the lowest and the highest context, a start request alone and a trap start alone. -/
theorem witness_HandlerAndTrapStarts :
    (let s : State := ({} : State).updTile 0 0 fun x => { x with startQ := [{ g0 := 1#64 }] }
     (s.tile 0 0).idleCtx = some 1 ∧ (s.tile 0 0).trapQ = [] ∧ (s.die 0).stopped = false ∧ (s.die 0).halt = none ∧ s.saving 0 0 = false) ∧
    (let s : State := ({} : State).updTile 0 0 fun x =>
       { x with trapQ := [⟨2, {}⟩], ctxs := [1, 2, 3, 4, 5, 6].map fun n => (n, { phase := .running }) }
     (s.tile 0 0).idleCtx = some 7 ∧ (s.tile 0 0).trapQ = [⟨2, {}⟩] ∧ (s.die 0).stopped = false ∧ (s.die 0).halt = none ∧ s.saving 0 0 = false) := by
  decide +kernel

/-- `Obligations.ContextLimitsAndBarriers`: each limit just reached and just not; the last and an earlier arrival; a drained task. -/
theorem witness_ContextLimitsAndBarriers :
    (let r := withVals []
     let s (n : Nat) : State := { running {} r with cycle := n }
     ((s 0).ctx {}).run = some r ∧ ((s 0).ctx {}).tmoBlock.toNat = 2 ^ 20 ∧ r.decodedAt + 2 ^ 20 ≤ (s (2 ^ 20)).cycle ∧ (s (2 ^ 20 - 1)).cycle < r.decodedAt + 2 ^ 20 ∧
     (s 0).haltCovers 0 0 = false ∧ r.committing = false) ∧
    (let w : Wait := { index := 0, kind := .landing, since := 0 }
     let r : Run := { withVals [] with waits := [w], decodedAt := 1 }
     let s : State := { running {} r with cycle := 2 ^ 20 + 1 }
     let t : State := s.updCtx {} fun c => { c with tmoBlock := 0xFFFFFFFF#32 }
     (t.ctx {}).run = some r ∧ t.cycle < r.decodedAt + (t.ctx {}).tmoBlock.toNat ∧ w.since + (t.ctx {}).tmoWait.toNat < t.cycle ∧ t.saving 0 0 = false) ∧
    (let s : State := ({ cycle := 2 ^ 20 + 1 } : State).updCtx {} fun c => { c with phase := .running, atBarrier := some (1, 0) }
     (s.ctx {}).run = none ∧ 0 + (s.ctx {}).tmoWait.toNat < s.cycle ∧ s.haltCovers 0 0 = false ∧ s.saving 0 0 = false) ∧
    (let s (l : List Nat) : State :=
       (([0, 1, 2].foldl (fun (s : State) t => s.updTile 0 t fun x => { x with task := some 7#32 }) {}).setSlot 0 7
         { kind := .task, raw := BitVec.ofNat 2048 (5 * 2 ^ 60), rect := some ⟨0, 0, 3, 1⟩ }).updTd 0 fun t =>
       { t with arrivals := [(7, 1, 2)], barriers := [(7, 1, l)] }
     ((s [0, 1]).die 0).td.arrivals[0]? = some (7, 1, 2) ∧ ((s [0]).slot 0 7).rect = some ⟨0, 0, 3, 1⟩ ∧ ((s [0]).slot 0 7).reported = [] ∧
     (s [0]).stateOf 0 7 = 5 ∧ (∀ t ∈ (s [0, 1]).gangTiles 0 7, (⟨0, 0, 3, 1⟩ : Rect).rank t ∈ [0, 1] ++ [2]) ∧
     1 ∈ (s [0]).gangTiles 0 7 ∧ (⟨0, 0, 3, 1⟩ : Rect).rank 1 ∉ [0] ++ [2]) ∧
    (let s : State := (({} : State).updTile 0 0 fun x => { x with task := some 7#32, ctxs := [(0, { phase := .draining })] }).setSlot 0 7 { kind := .task, rect := some ⟨0, 0, 1, 1⟩ }
     (s.ctx {}).phase = .draining ∧ (s.ctx {}).done = (s.ctx {}).issue ∧ s.saving 0 0 = false ∧ (s.ctx {}).recf = [] ∧ (s.tile 0 0).task = some 7#32 ∧
     (s.die 0).td.barriers = []) := by
  and_intros <;> decide +kernel

/-! ### Tensor traffic, copies, cards -/

/-- A load of element 5 of the vector in flight. -/
def loadReq : TReq :=
  { ctx := 0, serial := 0, index := 0, ag := 1, h := BitVec.ofNat 64 vecH, els := [⟨5, 0, 0, 0⟩], size := 32, scalar := some 8, tag := .vf32, target := 0x60, lsid := 0 }
def loadS (q : TReq) : State := (running vecS { withVals [] with loading := [0] }).updTile 0 0 fun x => { x with reqs := [q] }

/-- `Obligations.TensorRequestsAndCopyEnds`: a request without entries, with them, with its value, refused; the home's three answers; read-ahead that
gives an element and that faults; a duplication of a live object and of none. -/
theorem witness_TensorRequestsAndCopyEnds :
    (let s := loadS loadReq
     (s.tile 0 0).reqs[0]? = some loadReq ∧ s.serves 0 0 loadReq = true ∧ loadReq.entries = [] ∧
     (s.tile 0 0).trFor loadReq.holder 1#32 (Desc.locate vecDesc ⟨5, 0, 0, 0⟩).1 = none ∧ findTr (s.die 0).tableCache 1#32 (Desc.locate vecDesc ⟨5, 0, 0, 0⟩).1 = none ∧
     s.routed 0 (objDie 1#32) = true) ∧
    (let q := { loadReq with entries := [(0, 3#64)] }
     (loadS q).serves 0 0 q = true ∧ q.value = none ∧ q.missing (Desc.indices vecDesc q.els) = none ∧ entS 3#64 = false ∧
     (∀ j ∈ Desc.indices vecDesc q.els, entS (vec.entry j) = false) ∧ (∀ l ∈ (loadS q).links, l.2 ≠ .down) ∧
     entV 3#64 = true ∧ (loadS q).badEl 3#64 (Desc.locate vecDesc ⟨5, 0, 0, 0⟩).2 32 = false ∧ entV (look 0#64 loadReq.entries 0) = false ∧
     ({ loadS q with bad := [hbmKey 0 20 / 8] } : State).badEl 3#64 (Desc.locate vecDesc ⟨5, 0, 0, 0⟩).2 32 = true ∧ (withVals []).counted = []) ∧
    (let q := { loadReq with value := some (.value (rg .f32s 1)) }
     (loadS q).serves 0 0 q = true ∧ ((loadS q).ctx {}).run = some { withVals [] with loading := [0] } ∧ (withVals []).tok 0x60 = none) ∧
    (let q := { loadReq with value := some (.refused .tensorNotPresent 0#64) }
     (loadS q).serves 0 0 q = true ∧ ((loadS q).tile 0 0).reqs[0]? = some q) ∧
    (let s : State := { vecS with index := 1 }
     ((s.tile 0 0).ag s.index).bound = true ∧ ((s.tile 0 0).ag s.index).ahead = [] ∧ (s.ctx {}).atBarrier = none ∧
     s.popOpen 0 0 s.index 0 = true ∧
     (match (s.popAt 0 0 1 0).1 with | .elem _ => true | .fault _ _ => false) = true ∧
     (match ((s.setObj 1#32 { vec with table := [] }).popAt 0 0 1 0).1 with | .elem _ => false | .fault _ _ => true) = true) ∧
    (let c : Cow := { obj := 1#32, index := 0, frame := ⟨0, 1, 1, 1, 0⟩ }
     let s : State := { vecS with cow := [c], mem := [(hbmKey 0 0, 1#8)] }
     s.cow[0]? = some c ∧ MemOk s ∧ (s.objOf c.obj).live = true ∧ (s.objOf c.obj).inc = c.inc ∧
     (({ cow := [c] } : State).objOf c.obj).live = false ∧ ((s.setObj 1#32 { vec with inc := 1 }).objOf 1#32).inc ≠ c.inc) := by
  unfold MemOk
  and_intros <;> decide +kernel

/-- A copy command as an entry of the queue, issued with number 1 by context 0. -/
def copyE (c : CopyCmd) (run : Bool) : CopyEntry := { ctx := 0, num := 1, cmd := c, owners := [.handler {} 0], running := run }
def copyS (e : CopyEntry) : State := vecS.updTile 0 0 fun x => { x with copyQ := [e] }

/-- The on-chip map's addresses of tile 1: its store's last 256 bytes, its landing entry 0 and 48, its accumulators. -/
def mapOf (o : Nat) : Word64 := BitVec.ofNat 64 (0x1000000000 + 0x4000000 + o)

/-- `Obligations.CopyEngineRuns`. -/
theorem witness_CopyEngineRuns :
    (∀ c ∈ [CopyCmd.cpy true vecCg (BitVec.ofNat 64 vecH) 0, .cpyt (mapOf 0x2000000) 0#64 256, .cpytLand (mapOf 0x1003000) 0#64 7],
      ((copyS (copyE c false)).tile 0 0).copyFrozen = false ∧ (((copyS (copyE c false)).tile 0 0).copyQ.filter CopyEntry.running).length < 4 ∧
      (((copyS (copyE c false)).tile 0 0).copyQ.find? fun y => !y.running) = some (copyE c false)) ∧
    (({} : State).cpytEntry 0 (mapOf 0x1003000)).toOption = none ∧ (∃ o, ({} : State).cpytFate 0 (mapOf o) 256 false = .freezes) ∧
    (let e := copyE (.cpyt (mapOf 0x1FFF00) 0#64 256) true
     ((copyS e).tile 0 0).copyQ[0]? = some e ∧ e.sent = false ∧ mapTile (mapOf 0x1FFF00).toNat = some (1, 0x1FFF00) ∧
     (copyS e).badAt (lsKey 0 0 0) 256 = false ∧ ((copyS e).ctx {}).done.ce + 1 = e.num ∧ ((copyS e).ctx {}).doneOut = []) ∧
    (let e := copyE (.cpy false vecCg (BitVec.ofNat 64 vecH) 0) true
     ((copyS e).tile 0 0).copyQ[0]? = some e ∧ ((copyS e).readWindow 0 0 e.owners e.region (BitVec.ofNat 64 vecH) (boxCoords (cgOrg vecCg) (cgExt vecCg))).1.2 = none) ∧
    (let e := copyE (.cpy true vecCg (BitVec.ofNat 64 vecH) 0) true
     let s : State := { (copyS e).setObj 1#32 { vec with table := [(0, 7#64)] } with frames := [⟨0, 0, 1, 2, 0⟩], cow := [{ obj := 1#32, index := 0, frame := ⟨0, 1, 1, 1, 0⟩ }] }
     (s.tile 0 0).copyQ[0]? = some e ∧ (s.copyEffect 0 0 e).1 = none ∧ ((copyS e).copyEffect 0 0 e).1 = some none ∧
     s.copyOpen 0 0 e = true ∧ ({ copyS e with links := (List.range 112).map fun l => (l, LinkState.down) } : State).copyOpen 0 0 e = false ∧
     (((copyS e).updDie 0 fun y => { y with deals := [(0, e)] }).die 0).deals[0]? = some (0, e)) ∧
    (let f (d : Option (Place × Engine × Nat)) : Fill := { entry := 63, reg := rg .vi8 1, done := d }
     let s (d : Option (Place × Engine × Nat)) : State := ({} : State).updTile 0 0 fun x => { x with fills := [f d] }
     ((s none).tile 0 0).fills[0]? = some (f none) ∧ (((s none).tile 0 0).lb 63).full = false ∧ ((s none).tile 0 0).fills.take 0 = [] ∧
     ((s (some ({}, .ce, 1))).tile 0 0).fills[0]? = some (f (some ({}, .ce, 1))) ∧ ((s none).ctx {}).done.ce + 1 = 1 ∧ ((s none).ctx {}).doneOut = []) := by
  refine ⟨by decide +kernel, by decide +kernel, ⟨0x2000000, by decide +kernel⟩, ?_⟩
  and_intros <;> decide +kernel

/-- A card to tile 1 of die 0, and of die 1, and a state whose card unit holds a command. -/
def cardTo (d : Nat) : Card := { hw0 := BitVec.ofNat 64 (d * 2 ^ 49 + 2 ^ 41 + 3), num := 1 }
def mseS (e : MseEntry) : State := ({} : State).updTile 0 0 fun x => { x with mse := [e] }

/-- `Obligations.CardSending`: a card of its own die, of another, to a defective tile, without allowance; and with it; cards
held back; an acknowledgement; the allowance's timers,
just run out and not. -/
theorem witness_CardSending :
    (∀ d ∈ [0, 1], let e : MseEntry := { ctx := 0, num := 1, cmd := .cards [cardTo d] none }
      (((mseS e).tile 0 0).held = false ∧ ((mseS e).die 0).stopped = false ∧ (mseS e).holdsBack {} = false) ∧ ((mseS e).tile 0 0).mse = [e] ∧ (mseS e).hub (fldN (cardTo d).hw0 54 10) (fldN (cardTo d).hw0 49 5) = d ∧ (mseS e).noTile 0 1 = false ∧
      ((mseS e).die 0).joined 0 1 = true) ∧
    (let e : MseEntry := { ctx := 0, num := 1, cmd := .cards [cardTo 0] none }
     let s : State := (mseS e).updDie 0 fun x => { x with defects := [1] }
     (s.tile 0 0).mse = [e] ∧ s.noTile 0 1 = true ∧ (cardTo 0).num = e.num ∧ (s.ctx {}).done.mse + 1 = e.num ∧ (s.ctx {}).doneOut = []) ∧
    (let e : MseEntry := { ctx := 0, num := 1, cmd := .cards [cardTo 1] (some 3) }
     let full : State := (mseS e).updTile 0 0 fun x => { x with alw := [(3, { alw := 9 })] }
     ((mseS e).tile 0 0).mse = [e] ∧ ((mseS e).tile 0 0).allowed 3 (cardTo 1) = false ∧ (full.tile 0 0).allowed 3 (cardTo 1) = true ∧
     (full.tile 0 0).held = false ∧ (full.die 0).stopped = false ∧ full.holdsBack {} = false) ∧
    (let e : MseEntry := { ctx := 0, num := 1, cmd := .cards [cardTo 0] none }
     (((mseS e).updTile 0 0 fun x => { x with held := true }).tile 0 0).held = true ∧
     (((mseS e).updDie 0 fun x => { x with stopped := true }).die 0).stopped = true ∧
     ((mseS e).updDie 0 fun x => { x with mesh := [{ tile := 1, card := cardTo 0, refused := true }] }).holdsBack {} = true) ∧
    (let e : MseEntry := { ctx := 0, num := 1, cmd := .cards [] none, out := 1 }
     let s : State := (mseS e).updDie 0 fun x => { x with acks := [(0, 0, 1, none)] }
     (s.die 0).acks[0]? = some (0, 0, 1, none) ∧ (s.tile 0 0).mse = [e] ∧ e.unsent = false ∧ (s.ctx {}).done.mse + 1 = 1 ∧ (s.ctx {}).doneOut = []) ∧
    (let s (n : Nat) : State := ({ cycle := n } : State).updTile 0 0 fun x => x.setMb 0 { grownAt := [(7, 5)] }
     look? (((s 261).tile 0 0).mb (s 261).index).grownAt 7 = some 5 ∧ 5 + 256 ≤ (s 261).cycle ∧ (s 260).cycle < 5 + 256) ∧
    (let s : State := (mboxS.updDie 0 fun x => { x with allowIn := [(0, (dst 3).w, 9)] })
     (s.die 0).allowIn[0]? = some (0, (dst 3).w, 9) ∧ (s.tile 0 0).alwFor (dst 3).w = some 15 ∧ (9 + 2 ^ 32 - (look {} (s.tile 0 0).alw 15 : Allow).c) % 2 ^ 32 < 2 ^ 31) ∧
    (let s : State := ({ cycle := 1029 } : State).updTile 0 0 fun x => { x with alw := [(0, { v := true, dw := (dst 3).w, blockedSince := some 5 })] }
     (look {} (s.tile 0 0).alw 0 : Allow).blockedSince = some 5 ∧ 5 + 1024 ≤ s.cycle ∧ s.hub (fldN (dst 3).w 54 10) (fldN (dst 3).w 49 5) = 0) ∧
    (let q : Mbx := { words := BitVec.ofNat 768 (2 ^ 63 + 2 ^ (64 * 4 + 40)) }
     let s (b : Mbx) : State := (({} : State).updTile 0 2 fun x => x.setMb 6 b).updDie 0 fun x => { x with refreshIn := [(2, 6, 0#64)] }
     ((s q).die 0).refreshIn[0]? = some (2, 6, 0#64) ∧ (((s q).tile 0 2).mb 6).mode = 2 ∧ (((s q).tile 0 2).mb 6).senderOf 0#64 = some 0 ∧
     (((s {}).tile 0 2).mb 6).mode ≠ 2) := by
  and_intros <;> decide +kernel

/-- A ring of 64 slots at local address 0 with a handler; a configuration that R228 refuses, since it holds no frame. -/
def ringW : BitVec 768 := BitVec.ofNat 768 (2 ^ 63 + 64 * 2 ^ 112 + 2 ^ 159 + 2 ^ (64 * 4 + 40))
def noFrameW : BitVec 768 := BitVec.ofNat 768 (2 ^ 62)

/-- `Obligations.QueueMailboxes`. -/
theorem witness_QueueMailboxes :
    (let e (w : BitVec 768) : MseEntry := { ctx := 0, num := 1, cmd := .mbxset 0 5#64 (leBytes 96 w.toNat) }
     ((mseS (e ringW)).die 0).stopped = false ∧ ((mseS (e ringW)).tile 0 0).mse[0]? = some (e ringW) ∧ (e ringW).config = some (0, 5#64, leBytes 96 ringW.toNat) ∧
     (((mseS (e ringW)).tile 0 0).configure 0 5#64 (leBytes 96 ringW.toNat)).isSome = true ∧
     ((mseS (e noFrameW)).tile 0 0).configure 0 5#64 (leBytes 96 noFrameW.toNat) = none) ∧
    ((({} : State).tile 0 0).mbxOk 62 { words := mbxKeep ringW } = true ∧ (({} : State).tile 0 0).mbxOk 62 { words := mbxKeep noFrameW } = false) ∧
    (let s (b : Mbx) : State := ({} : State).updTile 0 0 fun x => x.setMb 0 b
     let b : Mbx := { words := ringW, wr := 2 }
     (((s b).tile 0 0).mb 0).mode = 2 ∧ (((s b).tile 0 0).mb 0).hv = true ∧ (((s b).tile 0 0).mb 0).rd ≠ (((s b).tile 0 0).mb 0).wr ∧
     (((s b).tile 0 0).mb 0).busy = false ∧ ((s b).tile 0 0).startQ = [] ∧ ((s b).die 0).stopped = false ∧ (((s {}).tile 0 0).mb 0).rd = (((s {}).tile 0 0).mb 0).wr ∧
     (((s { b with busy := true }).tile 0 0).mb 0).busy = true) := by
  and_intros <;> decide +kernel

/-- A card in the mesh for tile 1, where mailbox 0 has a configuration; what is computed of `Arrives`. -/
def meshS (b : Mbx) (c : Card) : State :=
  (({} : State).updTile 0 1 fun x => (x.setMb 0 b).setPr 0 { reserved := true }).updDie 0 fun x => { x with mesh := [{ tile := 1, card := c }] }

theorem arrives_of {s : State} {k : Taken} {m : MeshCard}
    (h : (decide ((s.die s.focus.die).mesh[s.index]? = some m) && !(s.die s.focus.die).stopped && (s.die s.focus.die).turn s.index m
      && !(s.tile s.focus.die m.tile).held && !(s.tile s.focus.die m.tile).savedFlag && (s.tile s.focus.die m.tile).takes m.card == k) = true) :
    Arrives s k m := by
  simp only [Bool.and_eq_true, decide_eq_true_eq, Bool.not_eq_true', beq_iff_eq] at h
  obtain ⟨⟨⟨⟨⟨h1, h2⟩, h3⟩, h4⟩, h5⟩, h6⟩ := h
  exact ⟨h1, h2, h3, h4, h5, h6⟩

/-- `Obligations.CardArrivals`: 16 bytes for a frame, for a reply frame, for a landing entry, as an atomic, for a ring; and for mailboxes that take none. -/
theorem witness_CardArrivals :
    (let frame : Mbx := { words := BitVec.ofNat 768 (2 ^ 62 + 2 ^ 28) }
     let reply : Mbx := { words := BitVec.ofNat 768 (2 ^ 62 + 2 ^ 61 + 2 ^ 28) }
     let land : Mbx := { words := BitVec.ofNat 768 (2 ^ 62 + 2 ^ 63) }
     let ring : Mbx := { words := ringW }
     let c (cls tag len : Nat) : Card := { hw0 := BitVec.ofNat 64 (2 ^ 41 + cls), hw1 := BitVec.ofNat 64 (tag * 2 ^ 34 + len * 2 ^ 24), payload := List.replicate len 1#8 }
     (Arrives (meshS frame (c 3 0 16)) .frame { tile := 1, card := c 3 0 16 } ∧ Arrives (meshS reply (c 1 0 16)) .reply { tile := 1, card := c 1 0 16 } ∧
      Arrives (meshS {} (c 3 0 16)) .frame { tile := 1, card := c 3 0 16 } ∧ Arrives (meshS {} (c 1 0 16)) .reply { tile := 1, card := c 1 0 16 } ∧
      Arrives (meshS land (c 3 14 256)) .landing { tile := 1, card := c 3 14 256 } ∧ Arrives (meshS {} (c 3 15 8)) .atomic { tile := 1, card := c 3 15 8 } ∧
      Arrives (meshS ring { c 3 0 16 with hw0 := BitVec.ofNat 64 (2 ^ 41 + 16 + 3) }) .queue { tile := 1, card := { c 3 0 16 with hw0 := BitVec.ofNat 64 (2 ^ 41 + 16 + 3) } }) ∧
     (∀ b ∈ [frame, reply], b.mode = 1 ∧ 0 < b.nframe ∧ 0 < b.slots ∧ (c 3 0 16).len ≤ b.slotSize ∧ b.hv = false) ∧ (c 3 0 16).frame = 0 ∧ (c 3 0 16).slot = 0 ∧
     (c 3 0 16).mailbox = 0 ∧ ((meshS reply (c 1 0 16)).tile 0 1).replyMb = some 0 ∧ (((meshS reply (c 1 0 16)).tile 0 1).pr 0).reserved = true ∧
     (((meshS {} (c 3 0 16)).tile 0 1).mb 0).mode ≠ 1 ∧ ((meshS {} (c 1 0 16)).tile 0 1).replyMb = none ∧
     land.f 2 6 6 + (c 3 14 256).slot < 48 ∧ (c 3 14 256).len = 256 ∧ (c 3 14 256).ptag = 14 ∧
     bit (BitVec.ofNat 64 (2 ^ 41 + 16 + 3)) 4 = true ∧ ring.senderOf (c 3 0 16).hw1 ≠ none ∧ cardSlots 16 + 15 ≤ ring.cap ∧ ring.wr + cardSlots 16 ≤ ring.cap) := by
  refine ⟨⟨arrives_of (by decide +kernel), arrives_of (by decide +kernel), arrives_of (by decide +kernel), arrives_of (by decide +kernel),
    arrives_of (by decide +kernel), arrives_of (by decide +kernel), arrives_of (by decide +kernel)⟩, ?_⟩
  and_intros <;> decide +kernel

/-- `Obligations.QueueMailboxes`, a frame of two slots with a handler: a card that is enough for FIRE 1, and with FOF is not; a start queue with room and without. -/
theorem witness_FrameMailboxFires :
    (∀ q ∈ [[], List.replicate 16 ({ code := 0#64, block := 0#32, region := 0 } : Start)],
     let b : Mbx := { words := BitVec.ofNat 768 (2 ^ 62 + 2 ^ 52 + 2 ^ 28 + 2 ^ 159) }
     let c (fof : Nat) : Card := { hw0 := BitVec.ofNat 64 (2 ^ 41 + 8 * fof + 3), hw1 := BitVec.ofNat 64 (16 * 2 ^ 24), payload := List.replicate 16 1#8 }
     let s (fof : Nat) : State := (meshS b (c fof)).updTile 0 1 fun x => { x with startQ := q }
     (∀ fof ∈ [0, 1], let m : MeshCard := { tile := 1, card := c fof }
       m.msg = none ∧ (decide (((s fof).die 0).mesh[0]? = some m) && !((s fof).die 0).stopped && ((s fof).die 0).turn 0 m && !((s fof).tile 0 1).held
         && !((s fof).tile 0 1).savedFlag && ((s fof).tile 0 1).takes (c fof) == .frame) = true ∧ (c fof).mailbox = 0 ∧ (c fof).frame = 0 ∧ (c fof).slot = 0 ∧ (c fof).len = 16) ∧
     b.mode = 1 ∧ b.hv = true ∧ b.reply = false ∧ 0 < b.nframe ∧ b.slots = 2 ∧ b.fire = 1 ∧ 16 ≤ b.slotSize ∧ b.fbase = 0 ∧
     (((s 0).tile 0 1).mb 0) = b ∧ (((s 0).tile 0 1).pr 0).fired = false ∧ (((s 0).tile 0 1).pr 0).present = 0 ∧ bit (c 0).hw0 3 = false ∧ bit (c 1).hw0 3 = true ∧
     ((s 0).tile 0 1).startQ = q) := by
  decide +kernel

/-! ### The matrix engine, exchange records, the fabric -/

/-- Tile 0, or tile t, with such a matrix engine; an entry of number 1 of context 0. -/
def meS (m : Me) (t : Nat := 0) (s : State := {}) : State := s.updTile 0 t fun x => { x with me := m }
def meE (c : MeCmd) : MeEntry := { ctx := 0, num := 1, cmd := c }

/-- `Obligations.MatrixEngineAndPlays`: a running command; each command that starts, and that is applied, a store to each kind of place and of an accumulator of the other
KIND; a play with and without a seat and a full latch; a grant with a free latch and with none; the data of a play that leaves, its first and its ninth card. -/
theorem witness_MatrixEngineAndPlays :
    (let full : Me := { latches := [(0, { st := .full })], seat := { v := true, next := 1 } }
     (∀ c ∈ [MeCmd.seat 0x0302#64 5#64, .seat 3#64 5#64, .rls 0, .ldb 1 0#64 0#64, .zero 1 0#64, .setg, .st 1 (BitVec.ofNat 64 (2 ^ 32)) 0#64 0#64 false,
         .st 1 0#64 0#64 (BitVec.ofNat 64 (2 ^ 63 + 5)) false],
       let m : Me := { full with store := [meE c] }
       m.running = none ∧ m.ready ((meS m).deaf 0 0) 0 (meE c) = true ∧ (meE c).ctx < 8 ∧ (meS m).saving 0 0 = false ∧ ((meS m).ctx {}).done.me + 1 = (meE c).num ∧ ((meS m).ctx {}).doneOut = []) ∧
     (let g0 : Word64 := BitVec.ofNat 64 (2 ^ 32)
      (full.acc 1).int = decide (4 ≤ mgO g0) ∧ (Me.acc { full with accs := [(1, { int := true })] } 1).int ≠ decide (4 ≤ mgO g0) ∧
        mgN g0 * outBytes g0 ≤ mgAstride g0 ∧ fldN 0#64 0 21 + (mgM g0 - 1) * mgAstride g0 + mgN g0 * outBytes g0 ≤ lsSize ∧
        bit (BitVec.ofNat 64 (2 ^ 63 + 5)) 63 = true ∧ fldN 0x0302#64 8 8 ≠ 0 ∧ fldN 3#64 8 8 = 0) ∧
     (full.latch 0).st = .full ∧ (meS full).badAt (lsKey 0 0 0) 2048 = false ∧
     (∀ c ∈ [MeCmd.zero 1 0#64, .mma 0 1 0#64 0#64 0#64 0#64, .lda 1 0#64 0#64, .play 0],
       ((meS { full with running := some (meE c) }).tile 0 0).me.running = some (meE c) ∧ ((meS { full with running := some (meE c) }).tile 0 0).me.store = []) ∧
     (let e : MeEntry := { meE (.play 0) with asked := true, granted := some (1, 1) }
      (∀ m ∈ [full, { full with latches := [] }, { full with seat := {} }], Me.ready { m with store := [e] } ((meS m).deaf 0 0) 0 e = true ∧
        (meS { m with store := [e] }).saving 0 0 = false ∧ e.ctx = 0) ∧
      e.seat.or full.seat.number ≠ none ∧ e.seat.or ({ full with seat := {} } : Me).seat.number = none ∧
      Me.ready { full with seat := {}, store := [meE (.play 0)] } ((meS { full with seat := {} }).deaf 0 0) 0 (meE (.play 0)) = true ∧
      ((meS { full with running := some e }).tile 0 0).me.running = some e) ∧
     (∀ m ∈ [full, { full with latches := [] }, { full with seat := {} }], let s := meS { m with store := [meE (.play 0)] }
       (s.tile 0 0).me.store[s.index]? = some (meE (.play 0)) ∧ (meE (.play 0)).asked = false ∧ s.saving 0 0 = false) ∧
     (Me.latch { full with latches := [] } 0).st ≠ .full ∧ (meS full).noTile 0 1 = false ∧ ((meS full).die 0).joined 0 1 = true) ∧
    (let e : MeEntry := { meE (.play 0) with asked := true }
     let s (l : List (Nat × Latch)) : State := meS { latches := l, seat := { v := true }, asks := [(1, 0, 1)] } 0 (meS { store := [e] } 1)
     (((s []).tile 0 0).me.asks[(s []).index]? = some (1, 0, 1)) ∧ (((s []).tile 0 1).me.store.find? fun y => y.ctx == 0 && y.num == 1) = some e ∧
     ((s []).tile 0 0).me.seat.v = true ∧ ([0, 1].find? fun k => (((s []).tile 0 0).me.latch k).st == .free) = some 0 ∧
     (let m := ((s [(0, { st := .full }), (1, { st := .reserved })]).tile 0 0).me
      (m.latch 0).st ≠ .free ∧ (m.latch 1).st ≠ .free)) ∧
    (∀ n ∈ [0, 8], let q : Play := { latch := 0, data := [], hw0 := 0#64, src := { tile := 1 }, num := 1, sent := n }
      let s := meS { plays := [q] }
      (s.tile 0 0).me.plays[s.index]? = some q ∧ (s.tile 0 0).held = false ∧ (s.tile 0 0).startQ.length < 16 ∧ q.latch ≠ 2 ∧ q.src.ctx < 8 ∧ (s.ctx q.src).done.me + 1 = q.num ∧
        (s.ctx q.src).doneOut = []) := by
  and_intros <;> decide +kernel

/-- Die 0 with such an exchange unit; a destination word of mailbox 0 of tile 1; a record with the header h of 64 bytes, sent with number 1. -/
def xuS (x : Xu) (s : State := {}) : State := s.updXu 0 fun _ => x
def xDst : Nat := 2 ^ 41 + 3
def xRec (h : Nat) : XRec := { hdr := BitVec.ofNat 64 h, bytes := leBytes 8 h ++ List.replicate 56 1#8, src := {}, num := 1 }

/-- `Obligations.ExchangeUnit`. -/
theorem witness_ExchangeUnit :
    (let f : FlushIn := { src := 1, n := 4, dest := BitVec.ofNat 64 xDst, size := 64, recs := [xRec 0] }
     let s := xuS { flushIn := [f] }
     (s.die 0).xu.flushIn[s.index]? = some f ∧ (s.die 0).stopped = false ∧ (s.tile 0 (fldN f.dest 41 8)).held = false ∧ (s.die 0).xu.flushIn.take s.index = []) ∧
    (let e : MseEntry := { ctx := 0, num := 1, cmd := .xroute }
     let s (r : XRec) (no : List XRec) (l : List (Nat × XDest)) : State := xuS { dests := l, flushes := [⟨4, 0, [r]⟩], returns := [(4, no)] } (mseS e)
     (((s (xRec 0) [] []).die 0).xu.returns[0]? = some (4, []) ∧ ((s (xRec 0) [] []).tile 0 0).mse = [e] ∧ e.ctx = 0 ∧ e.num = 1 ∧ e.frame = none ∧
       ((s (xRec 0) [] []).ctx {}).done.mse + 1 = 1 ∧ ((s (xRec 0) [] []).ctx {}).doneOut = []) ∧
     (let r := xRec (2 ^ 36)
      let s := s r [r] [(1, { w1 := BitVec.ofNat 64 (2 ^ 56) })]
      (s.die 0).xu.returns[0]? = some (4, [r]) ∧ r.st = 0 ∧ r.ch2 ≠ r.ch1 ∧ ((s.die 0).xu.dest r.ch2).v = true)) ∧
    (let o : XOvf := ⟨BitVec.ofNat 64 xDst, xRec 0, 64, 0⟩
     ((xuS { overflow := [o] }).die 0).xu.overflow[0]? = some o ∧ ((xuS { overflow := [o] }).die 0).stopped = false ∧ ((xuS { overflow := [o] }).tile 0 (fldN o.dest 41 8)).held = false) ∧
    (let w (n : Nat) : Word64 := BitVec.ofNat 64 (n * 2 ^ 57 + 2 ^ 56)
     let v := BitVec.ofNat 64 xDst
     xchgOk v (w 1) = true ∧ xchgOk v (w 16) = true ∧ ovfOk {} v (w 1) = true ∧ xchgOk v (w 17) = false ∧ xchgOk v 1#64 = false ∧ ovfOk {} v 1#64 = false) ∧
    (∀ sel ∈ [0, 63, 64], let c : XConf := { place := {}, num := 1, sel := sel, bytes := leBytes 16 (xDst + (2 ^ 57 + 2 ^ 56) * 2 ^ 64) }
      ((xuS { configs := [c] }).die 0).xu.configs[0]? = some c ∧ ((xuS { configs := [c] }).die 0).xu.configs.take 0 = [] ∧
      BitVec.ofNat 64 (leNat c.bytes) = BitVec.ofNat 64 xDst ∧ BitVec.ofNat 64 (leNat (c.bytes.drop 8)) = BitVec.ofNat 64 (2 ^ 57 + 2 ^ 56)) ∧
    (let w : XWait := { place := {}, num := 1, lists := 5#64, addr := 0, await := [] }
     ((xuS { xflush := [w] }).die 0).xu.xflush[0]? = some w ∧ bit w.lists 63 = false) := by
  and_intros <;> decide +kernel

/-- Die 0 with such a fabric interface; a message from it to die 1, carrying a decrement or a card. -/
def fabS (f : Fab) (n : Nat := 0) : State := ({ cycle := n } : State).updFab 0 fun _ => f
def msgTo (dst seq : Nat) (b : Body) : Msg := { src := 0, dst := dst, cls := 3, ordered := true, mtype := 4, seq := seq, body := b }
def decBody : Body := .dec { target := 1#32, n := 1, source := 0#32, region := 0 }
def retOf (n : Nat) (b : Body) : Ret :=
  { msg := msgTo 1 1 b, k := 1, sent := 2, parity := 1, attempts := n, par := 1, tmo := Fab.timeout {} 1, limit := 2, timer := 0, resendAt := some 1250 }
def meldOf (n : Nat) : Meld :=
  { msg := { msgTo 0 1 decBody with src := 32 }, k := 1, frags := [], opened := 0, tmo := Fab.timeout {} 32, limit := 2, repairs := n }

/-- `Obligations.MessagesLeaveAndLinkControl`: a message to another die; timers at their cycle and one before; attempts and repairs below the limit and at it; and each
link control message. -/
theorem witness_MessagesLeaveAndLinkControl :
    (let m := msgTo 1 0 decBody
     let s := fabS { outbox := [m], chords := [(4 * 1, { valid := true, links := [3] })] }
     (s.die 0).fab.outbox[s.index]? = some m ∧ (s.die 0).fab.outbox.take s.index = [] ∧ (s.die 0).fab.retained = [] ∧ 64 * dataCount m.coded.length ≤ 2 ^ 21 ∧ s.spray 0 1 ≠ []) ∧
    ((∀ n ∈ [0, 1, 2], ((fabS { retained := [retOf n decBody] }).die 0).fab.retained[0]? = some (retOf n decBody)) ∧ (retOf 0 decBody).resendAt = some 1250 ∧
     1250 ≤ (fabS {} 1250).cycle ∧ (fabS {} 1249).cycle < 1250 ∧ 0 + 2 * (retOf 0 decBody).tmo ≤ (fabS {} (2 * Fab.timeout {} 1)).cycle ∧
     (fabS {}).timersRun 0 = true ∧ (retOf 1 decBody).attempts < (retOf 1 decBody).limit ∧ (retOf 2 decBody).limit ≤ (retOf 2 decBody).attempts) ∧
    (let y : Filter := { src := 1, cls := 3, h := 5, grownAt := some 7 }
     ((fabS { filters := [y] }).die 0).fab.filters[0]? = some y ∧ 7 + 1024 ≤ (fabS { filters := [y] } 1031).cycle ∧ (fabS { filters := [y] } 1030).cycle < 7 + 1024) ∧
    (∀ n ∈ [1, 2], let t := Fab.timeout {} 32 * (n + 1)
      let s := fabS { melds := [meldOf n] } t
      (s.die 0).fab.melds[0]? = some (meldOf n) ∧ (meldOf n).frags.length < (meldOf n).k ∧
        (meldOf n).opened + (meldOf n).tmo * ((meldOf n).repairs + 1) ≤ s.cycle ∧ s.timersRun 0 = true ∧ (s.die 0).stopped = false) ∧
    ((meldOf 1).repairs < (meldOf 1).limit ∧ (meldOf 2).limit ≤ (meldOf 2).repairs) ∧
    (∀ b ∈ [Link.ack 1, .busy 1, .repair 1 0#24, .giveup 1],
      let card : Card := { src := {}, num := 1 }
      let e : MseEntry := { ctx := 0, num := 1, cmd := .cards [] none, out := 1 }
      (∀ x ∈ [decBody, .card card], let s : State := { (mseS e).updFab 0 fun _ => { retained := [retOf 0 x] } with linkMsgs := [(1, 0, 3, b)] }
        s.linkMsgs[s.index]? = some (1, 0, 3, b) ∧ (s.die 0).live = true ∧ (s.die 0).stopped = false ∧ (s.die 0).fab.acted = [] ∧
        (let t := s.updFab 0 fun f => { f with acted := [(1, 3, 0, b)] }
         (1, 3, 0, b) ∈ (t.die 0).fab.acted ∧ t.cycle < 0 + (t.die 0).fab.timeout 1 / 2) ∧ (s.die 0).fab.retained = [retOf 0 x] ∧ (retOf 0 x).msg.dst = 1 ∧
        (retOf 0 x).msg.cls = 3 ∧ (retOf 0 x).msg.seq = 1 ∧ (retOf 0 x).attempts < (retOf 0 x).limit ∧ (s.tile 0 0).mse = [e] ∧ e.unsent = false ∧
        (s.ctx {}).done.mse + 1 = card.num ∧ (s.ctx {}).doneOut = []) ∧
      Filter.late (Fab.filter {} 1 3) 1 = false) := by
  and_intros <;> decide +kernel

/-- `Obligations.MessageDelivery`: fragments of the pod and of the panel, damaged, of a finished message, of link control, for another module; buffers of
each kind that may deliver. -/
theorem witness_MessageDelivery :
    (let fr (r : BitVec 3) : Frag := { msg := (meldOf 0).msg, k := 1, idx := 0, chord := 0, payload := [1#8], rsv := r }
     let f : Fab := { melds := [meldOf 0] }
     let done : Fab := { filters := [{ src := 32, cls := 3, h := 1 }] }
     (fr 0#3).refused = false ∧ (fr 1#3).refused = true ∧
     (∀ n ∈ [4, 10, 6, 9], let x : Frag := Frag.sealed { msg := { msgTo 0 1 decBody with src := 1, mtype := n }, k := 1, idx := 0, chord := 0, payload := [1#8] }
       let s : State := { frags := [x] }
       x.refused = false ∧ Frag.refused { x with w3 := 0#64 } = true ∧ s.frags[s.index]? = some x ∧ x.msg.dst < 32 ∧ (s.die 0).live = true ∧
         (s.die 0).stopped = false ∧ s.chordSound 1 0 0 = true ∧ x.k = 1) ∧
     (let x : Frag := { fr 0#3 with msg := msgTo 33 1 decBody }
      ({ frags := [x] } : State).frags[0]? = some x ∧ 32 ≤ x.msg.dst) ∧
     (fr 0#3).msg.seq ≤ (Fab.filter {} 32 3).h + 256 ∧ (Fab.filter {} 32 3).late (fr 0#3).msg.seq = false ∧ (done.filter 32 3).late (fr 0#3).msg.seq = true ∧
     ({} : Fab).melds = [] ∧ f.melds = [meldOf 0] ∧ (meldOf 0).holds (fr 0#3).msg = true ∧ (∀ e ∈ (meldOf 0).frags, e.1 ≠ (fr 0#3).idx)) ∧
    (∀ x ∈ [decBody, .card (cardTo 0)], let b : Meld := { meldOf 0 with msg := { (meldOf 0).msg with src := 1, body := x }, frags := [(0, [1#8])] }
      let s := fabS { melds := [b] }
      (s.die 0).fab.melds[s.index]? = some b ∧ (s.die 0).stopped = false ∧ b.msg.src < 32 ∧ b.k ≤ b.frags.length ∧
        ((s.die 0).fab.filter b.msg.src b.msg.cls).h + 1 = b.msg.seq ∧ (s.die 0).nd.asks = [] ∧ s.noTile 0 (fldN (cardTo 0).hw0 41 8) = false) ∧
    ((meldOf 0).frags.length < (meldOf 0).k) ∧
    (let s := fabS { finishing := [(32, 3, 1)] }
     (s.die 0).fab.finishing[s.index]? = some (32, 3, 1) ∧ ((s.die 0).fab.filter 32 3).h + 1 = 1 ∧ ((s.die 0).fab.filter 32 3).done = []) := by
  and_intros <;> decide +kernel

/-! ### Links, replies, windows, names -/

/-- `Obligations.LinksAndMembership`: the last link up, retraining at its limit and one cycle before, down; each kind of write from the pod; a round of heartbeats, of a die that hears
another and of one of 15; a stopped die that may rejoin and one that may not; tables that are legal, that are not, and a die that still runs. -/
theorem witness_LinksAndMembership :
    (let s (n : Nat) (l : LinkState) : State := { cycle := n, index := 111, links := [(111, l)] }
     (s 0 .up).index < 112 ∧ (s 0 .up).link 111 = .up ∧ (s 12507 (.retraining 7)).link 111 = .retraining 7 ∧ 7 + 12500 ≤ (s 12507 (.retraining 7)).cycle ∧
     (s 12506 .up).cycle < 7 + 12500 ∧ (s 0 .down).link 111 = .down ∧
     (s 0 .down).index ∈ ((s 0 .down).updFab 0 fun f => { f with chords := [(4 * 1 + 2, { links := [111] })] }).chordLinks 0 1 2 ∧
     (s 0 .up).index ∈ (((s 0 .up).updDie 0 fun x => { x with news := [111] }).die 0).news) ∧
    (let s : State := { aperture := 0x1000#64, requesters := [(5, 9)] }
     (0xFFF#64).toNat < s.aperture.toNat ∧ s.aperture.toNat + 2 ^ 55 ≤ (BitVec.ofNat 64 (0x1000 + 2 ^ 55)).toNat ∧
     s.aperture.toNat ≤ (0x1000#64).toNat ∧ (0x1000#64).toNat < s.aperture.toNat + 2 ^ 55 ∧ look? s.requesters 4 = none ∧ look? s.requesters 5 = some 9 ∧ s.frozen = []) ∧
    (let s : State := ({ cycle := 12500 } : State).updFab 0 fun f => { f with chords := [(4 * 1, { valid := true, links := [3] })] }
     (s.die 0).live = true ∧ (s.die 0).beat + 12500 ≤ s.cycle ∧ (s.die 1).live = true ∧ 7 ∉ (s.die 0).news ∧
     0 ∈ (linkDies 0).filter (fun e => (s.die e).live) ∧ 5 ∉ (linkDies 0).filter fun e => (s.die e).live) ∧
    (let s : State := ({ cycle := 12500 } : State).updDie 0 fun x => { x with missed := (List.range 32).map fun e => (e, 3) }
     (s.die 0).live = true ∧ (s.die 0).beat + 12500 ≤ s.cycle ∧ s.mayPreside (s.groupOf 0) = false ∧
     (let t := s.updDie 0 fun y => { y with beat := s.cycle, heard := [], missed := (List.range 32).filterMap fun e => if e = 0 then none else some (e, 4) }
      t.mayPreside (t.groupOf 0) = false)) ∧
    (let s : State := ({} : State).updDie 0 fun x => { x with stopped := true, beatIn := [3] }
     (s.die 0).beatIn[s.index]? = some 3 ∧ (s.die 0).stopped = true ∧ s.dies.all (fun e => e.2.nd.names.all fun n => !n.doubt) = true ∧ s.mayPreside (s.groupOf 0) = true) ∧
    (let x : Die := { stopped := true, defects := (List.range 144).filter fun k => k != 0 && k != 1 }
     x.mesh = [] ∧ Die.tablesOk { x with routers := [] } = true ∧ Die.tablesOk { x with routers := [((0, 1), .west)] } = false ∧ ({} : Die).stopped = false ∧ ({} : Die).halt = none) := by
  and_intros <;> decide +kernel

/-- The block of an `NSNAP` that asked a hub for the result that write entry 0 takes; its context; a reply. -/
def askRun : Run := { words := blockOf ((encode (.nsnap 0 0 0x60)).getD 0#32) 0, live := true, asked := [(0, .cmd none .confirm)] }
def askS (n : Nd) (s : State := {}) : State := (running s askRun).updNd 0 fun m => { m with replies := n.replies, confirms := n.confirms, withdraws := n.withdraws }

/-- `Obligations.HubReplies`. -/
theorem witness_HubReplies :
    (∀ r ∈ [Result.refused .rights, .tokens (.val (wd 1)) none], let y : Reply := { place := {}, serial := 0, index := 0, result := r, prov := some (.openRef 1#32 0) }
      let s := askS { replies := [y] }
      (s.nd 0).replies[s.index]? = some y ∧ (s.ctx y.place).run = some askRun ∧ (askRun.asked.find? fun z => z.1 == y.index) = some (y.index, .cmd none .confirm) ∧
        askRun.serial = y.serial ∧ askRun.fired.contains y.index = false ∧ (askRun.shape y.index).targets = [0x60] ∧ askRun.tok 0x60 = none ∧
        askRun.reserved.contains 0x60 = false ∧ (s.ctx { y.place with ctx := 1 }).run = none) ∧
    (∀ p ∈ [Prov.close 1#32 0, .openRef 1#32 0, .made 1#32 0, .window 1#32 { owner := .handler {} 0, org := {}, ext := {}, rw := false, sync := false, active := false }],
      ((askS { confirms := [⟨p⟩] }).nd 0).confirms[0]? = some ⟨p⟩ ∧ ((askS { withdraws := [⟨p⟩] }).nd 0).withdraws[0]? = some ⟨p⟩) := by
  and_intros <;> decide +kernel

/-- Two windows on the vector's first elements that conflict, and what the home keeps of the vector with any list of windows. -/
def winA (o : Nat) : Win := { owner := .handler {} o, org := {}, ext := ⟨1, 1, 1, 1⟩, rw := true, sync := false, active := true }
def winS (l : List Win) : State := vecS.setObj 1#32 { vec with wins := l }

theorem reach_vec (l : List Win) : (winS l).reach 0 (BitVec.ofNat 64 vecH) = some { vec with wins := l } := rfl

theorem freeRun_one (lim k cand : Nat) (h : 0 < lim) (hk : 0 < k) : ∃ a, a < lim ∧ freeRun lim [] 1 (k + 1) cand false = some a := by
  obtain ⟨k, rfl⟩ : ∃ j, k = j + 1 := ⟨k - 1, by omega⟩
  by_cases h2 : lim < cand + 1
  · exact ⟨0, h, by simp [freeRun, h2]; omega⟩
  · exact ⟨cand, by omega, by simp [freeRun, h2]⟩

theorem snapshots (s : State) (h : Word64) (o : Obj) (h1 : s.reach 0 h = some o) (h2 : (s.nd 1).objs = []) (h3 : s.moduleId = 0) :
    ∃ id v, s.snapshot 1 0 h = .ok (id, v) ∧ objDie id = 1 := by
  obtain ⟨a, h4, h5⟩ := freeRun_one 131072 2 (Config.freeChoice s.freeCtr % 131072) (by decide) (by decide)
  refine ⟨s.objId 1 a, _, by simp only [State.snapshot, h1, State.freeObj, State.draw, h2, objLimit, one_ne_zero, and_false, if_false, List.append_nil,
    List.filter_nil, List.map_nil, List.length_nil, h5]; rfl, ?_⟩
  simp only [State.objId, objDie, fldN, h3, BitVec.toNat_ofNat]
  omega

theorem objOf_vec (l : List Win) : (winS l).objOf 1#32 = { vec with wins := l } := rfl

/-- `Obligations.WindowsSnapshotsReclaims`: a window of a block and of a placement, refused for its handle or object, for a conflict, granted, and one that meets
16,384 windows; a snapshot at die 1 of an object
of die 0; an object that may be reclaimed, with and without a source, and one that may not. -/
theorem witness_WindowsSnapshotsReclaims :
    (∀ h ∈ [1, vecH], let r : Req := { place := {}, serial := 0, index := 0, region := 0, kind := .window 1 (BitVec.ofNat 64 h) (winA 2), since := 0 }
      let s := vecS.updNd 0 fun n => { n with windows := [r] }
      (s.nd 0).windows[s.index]? = some r ∧ (s.nd 0).windows.take s.index = [] ∧ vecS.reach 0 1#64 = none) ∧
    (let o (l : List Win) : Obj := { vec with wins := l }
     (∀ l, (winS l).reach 0 (BitVec.ofNat 64 vecH) = some (o l)) ∧ 16384 ≤ (o (List.replicate 16384 (winA 1))).wins.length ∧
     (∀ l, (winS l).objOf 1#32 = o l) ∧ (o []).live = true ∧ (({} : State).objOf 1#32).live = false ∧ (o [winA 1]).wins.length < 16384 ∧
     (let r : Req := { place := {}, serial := 0, index := 0, region := 0, kind := .place 7 0 1#32 (winA 2), since := 0 }
      let s := vecS.updNd 0 fun n => { n with windows := [r] }
      (s.nd 0).windows[s.index]? = some r ∧ (s.nd 0).windows.take s.index = []) ∧
     (o [winA 1]).wins.any (fun x => (o [winA 1]).conflict x (winA 2)) = true ∧ (o [winA 2]).wins.any (fun x => (o [winA 2]).conflict x (winA 2)) = false) ∧
    (let r : Req := { place := {}, serial := 0, index := 0, region := 0, kind := .snap (BitVec.ofNat 64 vecH), since := 0 }
     let s : State := { vecS.updNd 1 fun n => { n with snaps := [r, { r with kind := .snap 1#64 }] } with focus := { die := 1 } }
     let y : State := s.updNd 1 fun z => { z with snaps := dropAt z.snaps 0 }
     (s.nd s.focus.die).snaps[s.index]? = some r ∧ r.host = none ∧ (∃ id v, y.snapshot 1 0 (BitVec.ofNat 64 vecH) = .ok (id, v) ∧ objDie id ≠ objDie (hobj (BitVec.ofNat 64 vecH))) ∧
       s.reach 0 (BitVec.ofNat 64 vecH) = some vec ∧ entV (vec.entry 0) = true ∧ (s.snapshot 1 0 1#64 = .error .rights)) ∧
    (∀ b, let x : Option (BitVec 32) := if b = true then some 3#32 else none
      let s : State := { ({} : State).setObj 1#32 { vec with refs := 0, wins := [], source := x } with index := 1 }
      let o := s.objOf (s.objId 0 s.index)
      o.live = true ∧ o.refs = 0 ∧ o.wins = [] ∧ s.runsCode (s.objId 0 s.index) = false ∧ o.source = x ∧ ((vecS.objOf 1#32).refs ≠ 0)) := by
  refine ⟨by decide +kernel, ⟨reach_vec, Nat.le_of_eq List.length_replicate.symm, objOf_vec, by decide +kernel⟩, ⟨by decide +kernel, rfl, ?_, by decide +kernel, by decide +kernel, rfl⟩, by decide +kernel⟩
  obtain ⟨id, v, h1, h2⟩ := snapshots (({ vecS.updNd 1 fun n => { n with snaps := [{ place := {}, serial := 0, index := 0, region := 0, kind := .snap (BitVec.ofNat 64 vecH), since := 0 }
                                                                                      , { place := {}, serial := 0, index := 0, region := 0, kind := .snap 1#64, since := 0 }] } with focus := { die := 1 } } : State).updNd 1
    fun z => { z with snaps := dropAt z.snaps 0 }) (BitVec.ofNat 64 vecH) vec (by decide +kernel) (by decide +kernel) (by decide +kernel)
  exact ⟨id, v, h1, by rw [h2]; decide⟩

/-- The vector's state with such names, opens, binds at die 0. -/
def dirS (n : Nd) (s : State := vecS) : State := s.updNd 0 fun m => { n with objs := m.objs }
def opnOf (w : Bool) : Req := { place := {}, serial := 0, index := 0, region := 0, kind := .opn 32#64 w, since := 0 }
def bound : Name := { key := 32#64, state := .bound, gen := 1, obj := 1#32 }

/-- `Obligations.OpensAndBinds`. -/
theorem witness_OpensAndBinds :
    (∀ w, ∀ l ∈ [[], [bound], [{ bound with obj := 2#32 }], [{ bound with state := .prepared }]],
      let s := dirS { opens := [opnOf w], names := l } (running vecS {})
      (s.nd 0).early (opnOf w).stamp [32#64] = false ∧ s.pending (opnOf w).place (opnOf w).serial (opnOf w).index = true ∧
      (s.nd 0).opens[s.index]? = some (opnOf w) ∧ (opnOf w).kind = .opn 32#64 w ∧ (s.nd 0).name? 32#64 = l.head? ∧ (s.nd 0).names.length < 65536 ∧ (s.nd 0).waiting < 4096) ∧
    (vecS.reach 0 (handleOf bound.obj (vecS.objOf bound.obj).inc)).isSome = true ∧ vecS.reach 0 (handleOf 2#32 (vecS.objOf 2#32).inc) = none ∧
    (let s (n : Nat) (r : Run) : State := (running { cycle := n } r).updTile 0 0 fun x => { x with represent := [(0, 0, 0, 32#64, true, 5)] }
     ((s 1029 {}).tile 0 0).represent[(s 1029 {}).index]? = some (0, 0, 0, 32#64, true, 5) ∧ (s 1029 {}).pending {} 0 0 = true ∧ 5 + 1024 ≤ (s 1029 {}).cycle ∧
     (s 1029 { fired := [0] }).pending {} 0 0 = false) ∧
    (∀ c, ∀ l ∈ [[], [bound], [{ bound with state := .prepared }]], let b : Bind := { key := 32#64, obj := if c = true then some 1#32 else none, region := 0 }
      let s := dirS { binds := [b], names := l }
      (s.nd 0).binds[s.index]? = some b ∧ (s.nd 0).binds.take s.index = [] ∧ (s.nd 0).early b.stamp [b.key] = false ∧ b.host = none ∧ (s.nd 0).name? b.key = l.head? ∧ (s.nd 0).names.length < 65536 ∧
        bound.waiters = [] ∧ bound.held = [] ∧ bound.claims ≤ 1) := by
  and_intros <;> decide +kernel

/-- `Obligations.Transactions`. -/
theorem witness_Transactions :
    (let p : Prepare := { coord := 0, txn := 0#32, entries := [(32#64, 0#64)], region := 0 }
     let s (l : List Name) : State := dirS { prepares := [p], names := l }
     let y (l : List Name) : State := (s l).updNd 0 fun z => { z with prepares := dropAt z.prepares 0 }
     ((s []).nd 0).prepares[(s []).index]? = some p ∧ ((s []).nd 0).early p.stamp (p.entries.map (·.1)) = false ∧ ((y []).prepareNames 0 p p.entries).1 = none ∧
     ((y [{ bound with state := .prepared }]).prepareNames 0 p p.entries).1 = some 1 ∧ ((s []).nd 0).name? 32#64 = none ∧ ((s []).nd 0).names.length < 65536) ∧
    (∀ h ∈ [[0], [0, 1]], ∀ yes, let x : Txn := { id := 0, owner := {}, region := 0, phase := .preparing, votes := h }
      let s := dirS { txns := [x], voteIn := [(0, 0, yes, 1)] }
      (s.nd 0).voteIn[s.index]? = some (0, 0, yes, 1) ∧ (s.nd 0).txn? 0 = some x ∧ x.phase = .preparing ∧ 0 ∈ x.votes ∧
        (s.nd 0).txns = [x] ∧ 7 + s.voteLimit 0 0 ≤ ({ s with cycle := 7 + s.voteLimit 0 0 } : State).cycle ∧ ({ s with cycle := 6 + s.voteLimit 0 0 } : State).cycle < 7 + s.voteLimit 0 0) ∧
    (∀ c, let x : Name := { key := 32#64, state := .prepared, txn := 0#32, newobj := if c then 1#32 else 0#32, before := if c then .unbound else .bound, since := 5 }
      let s (n : Nat) : State := { dirS { names := [x], decisions := [⟨0#32, 0, c, 0⟩] } with cycle := n }
      ((s 5).nd 0).decisions[(s 5).index]? = some ⟨0#32, 0, c, 0⟩ ∧ ((s 5).nd 0).early 0 (((s 5).nd 0).keysOf 0#32) = false ∧ ((s 5).nd 0).names = [x] ∧ x.waiters = [] ∧ x.held = [] ∧ ((s 5).nd 0).name? 32#64 = some x ∧
        (s 1250004).cycle < x.since + 1250000 ∧ x.since + 1250000 ≤ (s 1250005).cycle ∧ (s 5).verdict 0 x.txn = some false ∧ ((s 5).nd 0).inquiries = [] ∧ x.doubt = false ∧
        (({ x with doubt := true } : Name).doubt = true)) ∧
    (vecS.prepareName 0 { coord := 0, txn := 0#32, entries := [], region := 0 } 32#64 1#64 |>.toOption.isNone) = true ∧ vecS.reach 0 1#64 = none ∧
    (vecS.nd 0).name? 32#64 = none ∧ (vecS.nd 0).names.length < 65536 ∧
    (∀ l ∈ [[], [TxnPhase.committed], [.aborted], [.preparing]], let q : Inquiry := { txn := 0#32, home := 3, key := 32#64 }
      let s := dirS { inquiries := [q], txns := l.map fun p => { id := 0, owner := {}, region := 0, phase := p } }
      (s.nd 0).inquiries = [q] ∧ (s.nd 0).txn? (fldN q.txn 0 6) = (l.map fun p => { id := 0, owner := {}, region := 0, phase := p } : List Txn).head?) ∧
    (let x (p : TxnPhase) (l : List Nat) : Txn := { id := 0, owner := {}, region := 0, phase := p, acks := l, decidedAt := 5 }
     let s (p : TxnPhase) (l : List Nat) : State := dirS { txns := [x p l], ackIn := [(0, 0)], names := [{ key := 32#64, state := .prepared, doubt := true }] }
     ((s .committed [0]).nd 0).ackIn[(s .committed [0]).index]? = some (0, 0) ∧ ((s .committed [0]).nd 0).txns = [x .committed [0]] ∧
     ((s .committed [0]).nd 0).txn? (s .committed [0]).index = some (x .committed [0]) ∧ (s .preparing []).verdict 0 0#32 = none ∧ (s .committed []).verdict 0 0#32 = some true) := by
  and_intros <;> decide +kernel

/-! ### Task records, placement, the ladder, hangs -/

/-- A record in slot 1 of die 0, in region 0, in STATE st with COUNT n and the further bits b; beside it the vector's object. -/
def recX (st n b : Nat) : Slot := { kind := .task, raw := BitVec.ofNat 2048 (st * 2 ^ 60 + n * 2 ^ 24 + b) }
def recS (x : Slot) (f : Td → Td := id) : State := ({ vecS with regions := [(0, 0#1024)] } : State).updTd 0 fun t => f { t with slots := [(1, x)] }

/-- The rectangle of tile 0. -/
def cell : Rect := { ox := 0, oy := 0, w := 1, h := 1 }

/-- `Obligations.RecordsAndTheirEnds`: decrements by less than COUNT, by COUNT, of a record that is not WAITING; kills of each kind and STATE; a task
that is done and one that is not; an end that waits for a commit; ends with no successor and with one. -/
theorem witness_RecordsAndTheirEnds :
    (∀ st ∈ [1, 2], ∀ n ∈ [1, 2], let x : Dec := { target := 1#32, n := n, source := 9#32, region := 0 }
      let s := recS (recX st 2 0) fun t => { t with decs := [x] }
      (s.die 0).td.decs[s.index]? = some x ∧ (s.die 0).td.decs.take s.index = [] ∧ idSlot x.target = 1 ∧ x.final = false ∧ s.stateOf 0 1 = st ∧ Rec.count (s.slot 0 1).raw = 2 ∧ 1 ∉ (s.die 0).td.bad ∧
        s.recordFault (setFld (s.slot 0 1).raw 24 16 0) = none) ∧
    (∀ st ∈ [0, 1, 2, 3, 5, 6, 8, 9], ∀ pol, let x : Kill := ⟨1#32, false, pol⟩
      let s := recS (recX st 0 0) fun t => { t with kills := [x] }
      (s.die 0).td.kills[s.index]? = some x ∧ (s.die 0).td.kills.take s.index = [] ∧ s.stateOf 0 (idSlot x.target) = st) ∧ terminal 6 = true ∧
    (∀ l ∈ [[], [(0, 0)], [(0, 9)]], let s : State := { recS { recX 5 0 0 with rect := some cell, reported := l } with index := 1 }
      s.stateOf 0 s.index = 5 ∧ (s.slot 0 s.index).ending = none ∧ (s.slot 0 s.index).rect = some cell ∧ (s.slot 0 s.index).reported = l ∧ s.liveTiles 0 cell = [0] ∧ cell.rank 0 = 0) ∧
    (let b : Run := { committing := true }
     let s : State := (recS { recX 5 0 0 with rect := some cell }).updTile 0 0 fun x => { x with task := some 1#32, ctxs := [(0, { run := some b })] }
     s.stateOf 0 1 = 5 ∧ s.midCommit 0 1 = true ∧ (s.slot 0 1).ending = none ∧ ({} : Place) ∈ s.gangCtxs 0 1 ∧ (s.ctx {}).run = some b) ∧
    (let x := recX 5 0 0
     x.kind = .task ∧ (x.reported.map (·.2)).foldl max 9 < 256 ∧ x.inst = none ∧ x.refs = [] ∧ Rec.join x.raw = 0#32 ∧ Rec.nsucc x.raw = 0 ∧ Rec.state (recX 1 0 0).raw ≠ 5) ∧
    (let x := recX 5 0 (2 ^ 216 + 512 * 2 ^ 232)
     let s := recS x fun t => { t with slots := t.slots ++ [(2, { kind := .succ, raw := 3#2048 })] }
     s.slot 0 1 = x ∧ s.succsOf 0 x.raw = [3#32] ∧ s.taskHub 3#32 = 0 ∧ Rec.join x.raw = 0#32) := by
  and_intros <;> decide +kernel

/-- A record that declares a window on the vector. -/
def declX : Slot := recX 2 0 (vecH * 2 ^ 512 + 64 * 2 ^ 576 + (2 ^ 15 + 2 ^ 13 + 2 ^ 32) * 2 ^ 640)

/-- `Obligations.PlacementAndStarts`: a task without windows and one with a window; a die that places nothing; the next grant, the last, and one that
comes too late. -/
theorem witness_PlacementAndStarts :
    (∀ x ∈ [recX 2 0 0, declX], let s := recS x
      (s.die 0).stopped = false ∧ (s.die 0).halt = none ∧ (s.die 0).td.grants = [] ∧ s.armedTasks 0 = [1] ∧ s.stateOf 0 1 = 2 ∧ (s.slot 0 1).asking = none ∧
      s.ladderHolds 0 1 = false ∧ (s.readBlocks [Rec.region x.raw]).tilesFit (Rec.region x.raw) (Rec.w x.raw * Rec.h x.raw) = true ∧
      ((s.choices 0 1).find? (s.fits 0 1)) = some cell ∧ (s.die 0).td.savedOf 1 = none) ∧
    (recS (recX 2 0 0)).declared 0 1 = [] ∧ (recS declX).declared 0 1 ≠ [] ∧
    (∀ x ∈ [({ stopped := true } : Die), { halt := some 3 }], x.stopped = true ∨ x.halt.isSome = true) ∧
    (∀ l ∈ [1, 2], let a : Asking := { serial := 7, left := l }
      let s := recS { recX 2 0 0 with rect := some cell, asking := some a }
      (s.slot 0 1).kind = .task ∧ (s.slot 0 1).asking = some a ∧ (s.slot 0 1).rect = some cell ∧
        (s.setSlot 0 1 { s.slot 0 1 with asking := some { a with left := a.left - 1, granted := a.granted ++ [(1#32, winA 1)] } }).ladderHolds 0 1 = false) ∧
    (∀ n ∈ [0, 1], let s : State := { recS (recX 2 0 0) with index := 1, cycle := n }
      s.stateOf 0 s.index = 2 ∧ (s.slot 0 s.index).armedAt = 0 ∧ fldN (s.eff 0 9) 160 32 = 0) ∧
    (let m : Merge := ⟨BitVec.ofNat 64 vecH, {}, ⟨1, 1, 1, 1⟩, 5, [(1, 0)]⟩
     let s (n : Nat) : State := { recS (recX 3 0 0) fun t => { t with merges := [m] } with cycle := n }
     ((s 260).die 0).td.merges[(s 260).index]? = some m ∧ (s 260).cycle < m.opened + 256 ∧ m.opened + 256 ≤ (s 261).cycle) ∧
    (∀ st ∈ [3, 4], let s : State := { recS { recX st 0 0 with rect := some cell } with index := 1 }
      s.stateOf 0 s.index = st ∧ (s.slot 0 1).staging = [] ∧ s.ladderHolds 0 1 = false ∧ s.isStage 0 1 = false ∧ s.mayRun 0 1 = true ∧ (s.die 0).stopped = false ∧
        (s.die 0).halt = none ∧ (s.die 0).td.savedOf 1 = none) ∧
    (∀ st ∈ [3, 4], let i : Inst := { n := 0, region := 0, tasks := [(0, 1)], joins := [], succs := [], order := [(0, 1)], refs := [], live := true }
      let s : State := recS { recX st 0 (2 ^ 40) with inst := some (0, 0) } fun t => { t with insts := [i] }
      (s.die 0).td.insts = [i] ∧ i.n = s.index ∧ (s.slot 0 1).inst = some (0, s.index) ∧ s.isStage 0 1 = true ∧ (s.die 0).td.chans = [] ∧ s.stateOf 0 1 = st ∧
        s.ladderHolds 0 1 = false ∧ s.mayRun 0 1 = true ∧ (s.die 0).stopped = false ∧ (s.die 0).halt = none) := by
  and_intros <;> decide +kernel

/-- The ladder of region 0 or of region 5 (which covers nothing), in progress; an object of 131,072 bytes as its save area; task 1, RUNNING on tile 0, at its save rung. -/
def ladderOf (r rung : Nat) : Ladder := { scope := .region r, region := r, queue := (0, 0), rung := rung, started := 5, t1 := 10, t2 := 20, save := BitVec.ofNat 64 (2 ^ 32 + 2 ^ 16) }
def areaDesc : BitVec 512 := BitVec.ofNat 512 (2 ^ 113 + 2 ^ 88 + 2 ^ 160 + 2 ^ 144 + 2 ^ 224 + 2 ^ 208 + 2 ^ 288 + 2 ^ 272)
def saveS (room : Bool) (l : List Ladder) (run : Option Run := none) : State :=
  let s : State := (recS { recX 5 0 0 with rect := some cell, saving := some 0 }).updTile 0 0 fun x => { x with task := some 1#32, ctxs := [(0, { run := run })] }
  { (if room then s.setObj 1#32 { vec with desc := areaDesc, inc := 1 } else s) with ladders := l, index := 1 }

/-- `Obligations.LadderAndSaves`: each rung at its time and a cycle before; a ladder with no task; a task whose tiles have quiesced, with room and without, under a
ladder and under none; one that has not. -/
theorem witness_LadderAndSaves :
    (∀ g ∈ [1, 2], ∀ n ∈ [14, 15, 24, 25], let s : State := { ladders := [ladderOf 5 g], cycle := n }
      s.ladders[s.index]? = some (ladderOf 5 g) ∧ (ladderOf 5 g).phase = 1 ∧ s.haltFreezes 5 = false ∧ s.coveredBy (ladderOf 5 g) = [] ∧ s.ring 5 = none) ∧
    (∀ room, ∀ l ∈ [[], [ladderOf 0 2]], let s := saveS room l
      s.stateOf 0 1 = 5 ∧ (s.slot 0 1).saving.isSome = true ∧ (s.gangTiles 0 1) = [0] ∧ s.quiesced 0 0 = true ∧ (∀ l ∈ s.ladders, s.covers l 0 1 = true) ∧
        (let len := (s.saveBytes 0 1 0).length
         (s.areaRoom (ladderOf 0 2).save len).isSome = room ∧ s.areaRoom (rcbWord (s.eff (Rec.region (s.slot 0 1).raw) 14) 6) len = none)) ∧
    (saveS true []).gangTiles 0 1 = [0] ∧ (saveS true [] (some {})).quiesced 0 0 = false ∧ (saveS true [] (some {})).gangTiles 0 1 = [0] := by
  have h (room : Bool) (l : List Ladder) : ((saveS room l).saveBytes 0 1 0).length = 130184 := by
    have h2 (i : Nat) : (look {} ((saveS room l).tile 0 0).ags i : Ag).tr = none := by
      cases room <;> (show (if _ then _ else _ : Ag).tr = none) <;> split <;> rfl
    have h6 : Rec.foot (recX 5 0 0).raw = 0 := by decide +kernel
    cases room <;> exact length_saveBytes_idle _ _ _ _ rfl h2 rfl rfl rfl rfl rfl h6
  simp only [h]
  and_intros <;> decide +kernel

/-- `Obligations.HangsHaltsRegions`: a region that waits, its window run out and not; a context that a `BKPT` halted; a halt that covers the region and one that does not; a block for region 1 below region 0, and
one that carries another region's ID. -/
theorem witness_HangsHaltsRegions :
    (let s (n : Nat) : State := ({ presiding := some 0, regions := [(0, BitVec.ofNat 1024 (2 ^ 970 + 5 * 2 ^ 128))], cycle := n } : State).updCtx {} fun c => { c with phase := .running }
     (s 0).presiding.isSome = true ∧ ((s 0).rcb 0).isSome = true ∧ (s 0).regionCtxs 0 = [{}] ∧ ((s 0).die 0).stopped = false ∧ (s 0).haltFreezes 0 = false ∧
     ((s 0).dies.map fun e => look 0 e.2.td.progress 0).foldl max 0 = 0 ∧ 1024 * fldN (((s 0).readBlocks [0]).eff 0 10) 128 32 = 5120 ∧ (s 5119).cycle < 5120 ∧ 5120 ≤ (s 5120).cycle) ∧
    (let f : FaultRec := { noTrap := true }
     let s : State := (({} : State).updCtx {} fun c => { c with phase := .faulted, fault := some f }).updDie 0 fun x => { x with halt := some 3 }
     (s.die 0).halt.isSome = true ∧ (s.die 1).halt = none ∧ Place.ok {} = true ∧ (s.ctx {}).phase = .faulted ∧ (s.ctx {}).fault = some f) ∧
    (∀ l ∈ [[], [0]], let h : HaltNote := ⟨3, 5, l⟩
      let s : State := (({} : State).updCtx {} fun c => { c with phase := .running, run := some {} }).updDie 0 fun x => { x with halts := [h] }
      (s.die 0).halts = [h] ∧ s.haltCovers 0 0 = h.regions.contains 0 ∧ (s.ctx {}).run = some {}) ∧
    ((({} : State).die 0).halt = none ∧ (({} : State).die 0).halts = [] ∧ (({} : State).die 1).live = true) ∧
    (let t (b : BitVec 1024) : State := { regions := put [(0, 0#1024)] 1 b }
     let good (b : BitVec 1024) : Bool := decide (fldN b 40 12 = 1 ∧ (1 ≠ 0 ∨ fldN b 52 12 = 0) ∧ (t b).chainOk 4097 [] 1 = true)
     good (BitVec.ofNat 1024 (2 ^ 40)) = true ∧ good 0#1024 = false) := by
  and_intros <;> decide +kernel

/-! ### The host, firmware -/

/-- A queue of function 0 that runs, with the next packet 1 and TAIL n, and host memory with a NOP packet of SEQ k in its slot. -/
def queueS (n k : Nat) : State :=
  { presiding := some 0, queues := [((0, 0), { state := .running, en := true, tail := BitVec.ofNat 32 n })]
    mem := if k = 0 then [] else [(hostKey 68, BitVec.ofNat 8 k)] }

/-- `Obligations.HostQueues`: TAIL 64 and 65 beyond; a packet of SEQ 1, and one of another; a record that the ring has just room for; a controller without quorum; a function that is not
frozen, and one that is. -/
theorem witness_HostQueues :
    (∀ n ∈ [64, 65], ∀ k ∈ [0, 1], let s := queueS n k
      let x := s.queueOf 0 0
      let ws := bytesWords 8 (s.hostRead (x.rbase.toNat + 64 * (x.expect.toNat % 64)) 64)
      s.presiding.isSome = true ∧ x.state = .running ∧ x.en = true ∧ seqDist x.tail x.expect < 2 ^ 31 ∧ seqDist x.expect x.lastComp ≤ 64 ∧ seqDist x.tail x.lastAcc = n ∧
        (fld (ws.getD 0 0#64) 32 32 = x.expect ↔ k = 1) ∧ packetOk (ws.getD 0 0#64) (ws.drop 1) = true) ∧
    (∀ st ∈ [0, 7], let c : HostCmd := { fn := 0, q := 0, seq := 128#32, kind := 0, flags := 0, args := [], phase := .completed, status := st }
      let s : State := { queueS 1 0 with cmds := [c] }
      (s.cmds.find? fun y => y.fn == 0 && y.q == 0) = some c ∧ s.answersHost c.kind = true ∧ c.phase = .completed ∧ seqDist c.seq (s.queueOf 0 0).cdone ≤ 128) ∧
    (let s : State := (queueS 1 0).updDie 0 fun x => { x with stopped := true }
     s.presiding = some 0 ∧ (s.die 0).stopped = true ∧ s.answersHost 0 = false) ∧
    (let s : State := { queueS 1 0 with boot := { step := .ready }, frozen := [⟨.function 1, []⟩] }
     s.fnFrozen 0 = false ∧ s.boot.step = .ready ∧ s.presiding.isSome = true ∧ s.fnFrozen 1 = true ∧ (s.queueOf 0 1).state ≠ .running) := by
  and_intros <;> decide +kernel

/-- A command of queue 0 of function 0, accepted; the vector's state with commands of the queue, at the presiding controller of die 0. -/
def hostCmd (kind flags : Nat) (args : List Nat) : HostCmd := { fn := 0, q := 0, seq := 1#32, kind := kind, flags := flags, args := args.map fun a => BitVec.ofNat 64 a }
def hostS (l : List HostCmd) (s : State := vecS) : State := { s with cmds := l, presiding := some 0, regions := [(0, 0#1024)] }

theorem no_object (s : State) (d : BitVec 512) (h : Desc.valid d = false) : s.makeObj 0 0 d = .error .reservedField := by
  simp [State.makeObj, h]

/-- `Obligations.HostCommands`: one command of each kind, and of a kind whose operands decide, one for each outcome. -/
theorem witness_HostCommands :
    (∀ c ∈ [hostCmd 7 0 [], hostCmd 1 0 [143, vecH], hostCmd 1 0 [144, vecH], hostCmd 1 0 [0, 1], hostCmd 2 0 [1, 0], hostCmd 2 0 [vecH, 0], hostCmd 3 0 [5, 0, 0],
        hostCmd 4 0 [], hostCmd 4 0 [32, vecH], hostCmd 4 0 [32, 1], hostCmd 5 0 [vecH, 0, 0, 2 ^ 32 + 1], hostCmd 6 0 [vecH, 0, 0, 0], hostCmd 8 0 [],
        hostCmd 9 0 [0], hostCmd 9 0 [2 ^ 63 + 1], hostCmd 10 0 [0], hostCmd 10 0 [2 ^ 63 + 1], hostCmd 11 0 [1], hostCmd 11 0 [vecH], hostCmd 12 0 []],
      (hostS [c]).nextCmd 0 0 c.kind = some c ∧ (((hostS [c]).rcb ((hostS [c]).queueOf 0 0).region).isSome = true) ∧ (hostS [c]).presiding = some 0 ∧ ((hostS [c]).die 0).stopped = false) ∧
    (let c := hostCmd 0 0 []
     ((hostS [c]).cmds.find? fun y => y.fn == 0 && y.q == 0 && y.kind == 0 && y.phase == .accepted) = some c) ∧
    ((hostS [hostCmd 7 0 []]).cmds.filter fun y => y.fn == 0 && y.q == 0) = [hostCmd 7 0 []] ∧
    ((hostS []).reach 0 (BitVec.ofNat 64 vecH)).isSome = true ∧ (hostS []).reach 0 1#64 = none ∧ (hostS []).defective 0 143 = false ∧
    (hostS []).tmplOk (hobj (BitVec.ofNat 64 vecH)) = false ∧ (∃ e, (hostS []).makeObj 0 0 (BitVec.ofNat 512 (leNat ((hostS []).hostRead 0 64))) = .error e) ∧
    (hostCmd 4 0 []).pairs = [] ∧ (hostCmd 4 0 [32, vecH]).pairs = [(32#64, BitVec.ofNat 64 vecH)] ∧ (hostCmd 4 0 [32, 1]).pairs = [(32#64, 1#64)] ∧
    2 ≤ (hostCmd 4 0 [32, vecH, 33, 0]).pairs.length ∧
    (hostCmd 4 0 [32, vecH, 33, 0]).pairs = [(32#64, BitVec.ofNat 64 vecH), (33#64, 0#64)] ∧
    (hostS []).scopeOf (hostCmd 9 0 [0]) 0 = some (.queue 0 0, 0) ∧ (hostS []).scopeOf (hostCmd 9 0 [2 ^ 63 + 1]) 0 = none ∧
    (∀ kind ∈ [5, 6], let c : HostCmd := { hostCmd kind 0 [vecH, 0, 0, 2 ^ 32 + 1] with phase := .started }
      ((hostS [c]).cmds.filter fun y => y.fn == 0 && y.q == 0 && y.kind == kind && y.phase == .started)[0]? = some c) ∧
    (let c := hostCmd 5 0 [vecH, 0, 0, 2 ^ 32 + 1]
     (hostS []).copyHandle c = some (.ok (BitVec.ofNat 64 vecH)) ∧ (hostS []).reach 0 (BitVec.ofNat 64 vecH) = some vec ∧ c.window.within vec.desc = true ∧
     vec.wins.length < 16384 ∧ (hostCmd 6 0 [vecH, 0, 0, 0]).window.within vec.desc = false) ∧
    (let c := hostCmd 5 0 [vecH, 0, 0, 2 ^ 32 + 1]
     (winS []).reach 0 (BitVec.ofNat 64 vecH) = some { vec with wins := [] } ∧ ∀ w ∈ ({ vec with wins := [] } : Obj).wins, ({ vec with wins := [] } : Obj).conflict w c.window = false) ∧
    (∀ n ∈ [15, 16], let k : Kick := ⟨3, { code := 0#64, block := 0#32, region := 0 }, (0, 0, 1)⟩
      let s : State := (({} : State).updTd 0 fun t => { t with kicks := [k] }).updTile 0 3 fun x => { x with startQ := List.replicate n { code := 0#64, block := 0#32, region := 0 } }
      (s.die 0).td.kicks[s.index]? = some k ∧ (s.die 0).td.kicks.take s.index = [] ∧ (s.tile 0 k.tile).startQ.length = n) := by
  refine ⟨by decide +kernel, by decide +kernel, by decide +kernel, by decide +kernel, by decide +kernel, by decide +kernel, by decide +kernel, ⟨_, no_object _ _ (by decide +kernel)⟩, ?_⟩
  and_intros <;> decide +kernel

/-- `Obligations.HostCommands`, a LAUNCH of a good template that finds its slots and one that does not, and a MAKEOBJ that makes an object. -/
theorem witness_HostCommands_claims :
    (let s : State := hostS [hostCmd 2 0 [vecH, 0]] tmplS
     s.nextCmd 0 0 2 = some (hostCmd 2 0 [vecH, 0]) ∧ (s.reach 0 (BitVec.ofNat 64 vecH)).isSome = true ∧ s.tmplOk (hobj (BitVec.ofNat 64 vecH)) = true ∧
     fldN (s.tmplRec (hobj (BitVec.ofNat 64 vecH)) 0) 40 8 = 0 ∧ bit (0#64) 63 = false ∧ (∃ i t, s.claimInst 0 0 1#32 [] (some (0, 0)) = some (i, t)) ∧
     ({ s with regions := [] } : State).claimInst 0 0 1#32 [] (some (0, 0)) = none) ∧
    (let s : State := { hostS [hostCmd 3 0 [5, 0, 0]] {} with mem := [8, 10, 12, 18, 20, 26, 28, 34, 36].zip [8#8, 0x40#8, 0x40#8, 1#8, 1#8, 1#8, 1#8, 1#8, 1#8] |>.map fun x => (hostKey (x.1 - if x.1 = 8 then 8 else 0), x.2) }
     s.nextCmd 0 0 3 = some (hostCmd 3 0 [5, 0, 0]) ∧ ∃ id t, s.makeObj 0 0 (BitVec.ofNat 512 (leNat (s.hostRead 0 64))) = .ok (id, t)) := by
  refine ⟨⟨by decide +kernel, by decide +kernel, by decide +kernel, by decide +kernel, by decide +kernel, ?_, by decide +kernel⟩, by decide +kernel, ?_⟩
  · exact instances _ (by decide +kernel) (by decide +kernel) (by decide +kernel) (by decide +kernel) (by decide +kernel) (by decide +kernel) (by decide +kernel) _
  · refine objects _ _ ?_ ?_ ?_ ?_ ?_ ?_ ?_ ?_ <;> decide +kernel

/-- `Obligations.ResetsBootElection`: temperatures at and beyond the limits; an epoch that is due and one that is not; a die reset that no message keeps from; GO over a
link that has trained, with a loader and with none, at a frozen function, over a link that has not; firmware that runs and that waits; a change of the presiding
controller, one to none, and no change. -/
theorem witness_ResetsBootElection :
    (110 < 111 ∧ 45 < 46 ∧ 110 ≤ 110 ∧ 45 ≤ 45) ∧
    ((({} : State).lifeLog.map Epoch.size).sum + (1 + ((({} : State).counts ++ ({} : State).grownCounts).filter fun c => c.2 != 0).length + ({} : State).hists.length)) ≤ 2 ^ 20 ∧
    (let s (n : Nat) : State := { cycle := n }
     (s 74999999999).cycle < (s 0).lastEpoch + 75000000000 ∧ (s 0).lastEpoch + 75000000000 ≤ (s 75000000000).cycle) ∧
    (∀ e < 32, e ≠ 0 → (({} : State).die e).halts = [] ∧ (({} : State).die e).fab.retained = []) ∧
    (State.reset.boot.step ≠ .ready ∧ ({ boot := { step := .ready } } : State).boot.step = .ready) ∧ Place.ok { die := 3 } = true ∧
    (let s : State := { hostLinks := [0], presiding := none }
     s.hostLinks.contains s.index = true ∧ s.fnFrozen 0 = false ∧ s.loader = some 0 ∧ s.boot.step ≠ .ready ∧ (s.die 0).live = true ∧ dieSite 0 ∈ s.sites 0 ∧
     ({ s with hostLinks := [1] } : State).hostLinks.contains 0 = false ∧ ({ s with frozen := [⟨.function 0, []⟩] } : State).fnFrozen 0 = true ∧
     ({ s with dies := (List.range 32).map fun k => (k, { live := false }) } : State).loader = none) ∧
    (let s : State := { hostLinks := [0] }
     ∃ d, s.elected = some d ∧ ({ s with presiding := some d } : State).elected = some d ∧ s.elected ≠ s.presiding) ∧
    (let s : State := { presiding := some 0, dies := (List.range 32).map fun k => (k, { live := false }) }
     s.elected = none ∧ s.elected ≠ s.presiding) := by
  refine ⟨by decide, by decide +kernel, by decide +kernel, by decide +kernel, by decide +kernel, by decide +kernel, by and_intros <;> decide +kernel, ⟨0, by decide +kernel⟩, by decide +kernel⟩

/-- `Obligations.RegisterWrites`. -/
theorem witness_RegisterWrites :
    (let s : State := { hostLinks := [0] }
     s.hostLinks.contains s.index = true ∧ s.fnFrozen (17 * s.index) = false ∧ s.loader ≠ none ∧ s.boot.step ≠ .ready ∧
     ({ s with frozen := [⟨.function 0, []⟩] } : State).fnFrozen (17 * s.index) = true) ∧
    ({} : State).fnFrozen 0 = false ∧ ({ boot := { step := .ready } } : State).boot.step = .ready ∧ State.reset.boot.step ≠ .ready ∧ ((hostS []).queueOf 0 0).en = false ∧
    ((hostS []).rcb (fldN 0#64 0 12)).isSome = true ∧ (hostS []).rcb (fldN 0xFFF#64 0 12) = none ∧ (vecS.objOf 1#32).live = true ∧ 0 < Desc.entries (vecS.objOf 1#32).desc := by
  and_intros <;> decide +kernel

/-- A state in which such a master is frozen. -/
def frozenS (w : Master) (s : State := {}) : State := { s with frozen := [⟨w, []⟩] }

/-- `Obligations.ProtectionAndService`. -/
theorem witness_ProtectionAndService :
    (∀ w ∈ [Master.context { ctx := 3 }, .copyQueue 0 0, .function 0, .peer 5], (frozenS w).frozen[(frozenS w).index]? = some ⟨w, []⟩) ∧
    ((({} : State).tile 0 0).copyQ = [] ∧
     (let e : CopyEntry := copyE (.cpyt 0#64 0#64 256) false
      let s := frozenS (.copyQueue 0 0) (({} : State).updTile 0 0 fun x => { x with copyFrozen := true, copyQ := [e] })
      (s.tile 0 0).copyFrozen = true ∧ (s.tile 0 0).copyQ = [e] ∧ e.running = false ∧ e.ctx = 0 ∧ (s.ctx {}).done.ce + 1 = e.num ∧ (s.ctx {}).doneOut = []) ∧
     (let s := frozenS (.context { ctx := 3 }) (({} : State).updCtx { ctx := 3 } fun c => { c with frozen := true, run := some {} })
      (s.ctx { ctx := 3 }).frozen = true ∧ (s.ctx { ctx := 3 }).trapRun = false ∧ (s.ctx { ctx := 3 }).run = some {} ∧ ({} : Run).provs = [] ∧ ({} : Ctx).run.any Run.committing = false)) ∧
    ((({} : State).die 0).halt = none ∧ ((({} : State).updDie 0 fun x => { x with halt := some 0 }).die 0).halt.isSome = true ∧
     (let b : List Byte := [0x10#8, 0x20#8, 0x58#8, 0x43#8] ++ List.replicate 8700 0#8
      b.length = imageSize 1 ∧ imageOk 1 b = true ∧ ([] : List Byte).length ≠ imageSize 1)) ∧
    (∀ b, let s := (({ regions := if b = true then [(0, 0#1024)] else [] } : State).updDie 0 fun x => { x with checks := [3] }).updTile 0 3 fun x => { x with task := if b = true then some 1#32 else none }
      let domain (r : Nat) : Nat := fldN (s.eff r 4) 10 8
      (s.die 0).checks[s.index]? = some 3 ∧ ((s.regions.map (·.1)).filter fun r => domain r == domain (s.tile 0 3).region) = (if b = true then [Rec.region (s.slot 0 1).raw] else []) ∧
        (s.tile 0 3).task.isSome = b) ∧
    (vecS.slotUsed 1 = false ∧ (vecS.setObj 1#32 { vec with table := [(0, BitVec.ofNat 64 (3 + 16 + 2 ^ 8))] }).slotUsed 1 = true) ∧
    (throttleStep ⟨16400, 105⟩ = 2 ∧ throttleStep ⟨16401, 20⟩ = 3 ∧ throttleStep ⟨0, 101⟩ = 2 ∧ throttleStep ⟨15501, 20⟩ = 1 ∧ throttleStep ⟨15500, 95⟩ = 0 ∧
     (let s (n : Nat) : State := { throttle := 1, coolSince := some 5, reading := some ⟨15500, 95⟩, cycle := n }
      (s 0).coolSince = some 5 ∧ (s 0).reading = some ⟨15500, 95⟩ ∧ (s 0).throttle ≤ throttleStep ⟨15501, 20⟩ ∧ throttleStep ⟨0, 0⟩ < (s 0).throttle ∧
        5 + 12500000 ≤ (s 12500005).cycle ∧ (s 12500004).cycle < 5 + 12500000 ∧ ({} : State).coolSince = none)) := by
  and_intros <;> decide +kernel

/-! ### The whole machine -/

/-- `Obligations.EncodeThenDecode`, `Obligations.DecodeThenEncode`, `Obligations.StepRunsDecoded`, `Obligations.MemoryStaysCanonical`, `Obligations.FiringFrame`. -/
theorem witness_Whole :
    encode (.add 0 0 0x60 0x7F) = some 0x2000307F#32 ∧ decodeWord 0x2000307F#32 = .ok (.add 0 0 0x60 0x7F) ∧
    (let s : State := State.reset.withFetchWord 32 0x2000307F
     let r : Run := ((s.ctx {}).run).getD {}
     Place.ok {} = true ∧ (s.ctx {}).run = some r ∧ r.live = true ∧ 0 < r.size ∧ decodeWord (r.word 0) = .ok (.add 0 0 0x60 0x7F)) ∧
    (MemOk State.reset ∧ MemOk { mem := [(3, 1#8), (5, 255#8)] } ∧ Placed State.reset ∧ Placed { focus := ⟨31, 143, 7⟩ }) ∧
    (let t : State := { agenda := [.fire {} 5] }
     t.agenda = [.fire {} 5] ∧ ({} : State).agenda = []) := by
  unfold MemOk Placed
  and_intros <;> decide +kernel

/-- A step runs the instruction that `withFetchWord` places, and completes; so does a step of a machine whose agenda names it. -/
theorem witness_Whole_steps : (∃ t, exec (.add 0 0 0x60 0x7F) State.reset = .next t) ∧
    (∃ t, step (State.reset.withFetchWord 32 0x2000307F) = .next t) := ⟨⟨_, rfl⟩, ⟨_, rfl⟩⟩

/-- `Obligations.PredicatesAndNulls`: a predicate of another tag, one that lets its instruction fire, one that does not, a null; and null data. -/
theorem witness_PredicatesAndNulls :
    (let r (v : Token) : Run := { withVals [wd 1, wd 2] with tokens := [(0, .val (wd 1)), (32, .null), (64, v)] }
     let s (v : Token) : State := running {} (r v)
     (∀ v ∈ [Token.val (hd 1), .val (wd 0), .val (wd 1), .null], (s v).armed = some (r v) ∧ (r v).tok 64 = some v ∧ (r v).tok 32 = some .null ∧ (r v).tok 0 = some (.val (wd 1))) ∧
     (∀ i ∈ [Instr.add 2 0 0x60 0x7F, .add 3 0 0x60 0x7F], (encode i).isSome = true ∧ 2 ≤ (shapeOf i 0).pr.toNat ∧ (shapeOf i 0).slots = 2 ∧
       ((shapeOf i 0).targets.filter fun t => t != 0x7F) = [0x60] ∧ (r .null).tok 0x60 = none ∧ (r .null).reserved = []) ∧
     (shapeOf (.add 0 0 0x60 0x7F) 0).pr.toNat < 2 ∧ (hd 1).tag ≠ .i64 ∧ ((wd 0).w = 0#64 ↔ (shapeOf (.add 2 0 0x60 0x7F) 0).pr = 2#2) ∧
     ¬((wd 1).w = 0#64 ↔ (shapeOf (.add 2 0 0x60 0x7F) 0).pr = 2#2)) := by
  and_intros <;> decide +kernel

/-! ### Meanings on small states

The expected values are the spec's own tables of results where one is named, else worked out from the rule by hand. -/

/-- The value that an instruction fired with such operands sends to write entry 0; the block afterwards; the context afterwards. -/
def after (i : Instr) (vals : List Reg) (s : State := {}) : State :=
  match exec i (running s (withVals vals)) with
  | .next t => t
  | _ => {}
def got (i : Instr) (vals : List Reg) (s : State := {}) : Option Token := (((after i vals s).ctx {}).run).bind fun r => r.tok 0x60
def sends (i : Instr) (vals : List Nat) (n : Nat) : Bool := got i (vals.map wd) == some (.val (wd n))
def faultOf (i : Instr) (vals : List Reg) (s : State := {}) : Option Cause := (((after i vals s).ctx {}).fault).map FaultRec.cause

/-- All ones; -1. -/
def ones : Nat := 2 ^ 64 - 1

/-- R127, "Selected results". -/
theorem test_div_rem : (sends (.div 0 0 0x60 0x7F) [7, 2 ^ 64 - 2] (2 ^ 64 - 3) && sends (.rem 0 0 0x60 0x7F) [7, 2 ^ 64 - 2] 1
    && sends (.div 0 0 0x60 0x7F) [2 ^ 64 - 7, 2] (2 ^ 64 - 3) && sends (.rem 0 0 0x60 0x7F) [2 ^ 64 - 7, 2] ones) = true := by decide +kernel
theorem test_div_rem_corners : (sends (.div 0 0 0x60 0x7F) [1000, 0] ones && sends (.rem 0 0 0x60 0x7F) [1000, 0] 1000
    && sends (.div 0 0 0x60 0x7F) [2 ^ 63, ones] (2 ^ 63) && sends (.rem 0 0 0x60 0x7F) [2 ^ 63, ones] 0
    && sends (.div 0 2 0x60 0x7F) [0x80000000, 0xFFFFFFFF] 0x80000000) = true := by decide +kernel
theorem test_divu : (sends (.divu 0 1 0x60 0x7F) [5, 0] ones && sends (.divu 0 2 0x60 0x7F) [5, 0] 0xFFFFFFFF) = true := by decide +kernel
theorem test_shl : (sends (.shl 0 0 0x60 0x7F) [1, 65] 2 && sends (.shl 0 1 0x60 0x7F) [1, 31] 0xFFFFFFFF80000000) = true := by decide +kernel
theorem test_rotl : sends (.rotl 0 0 0x60 0x7F) [2 ^ 63 + 1, 4] 0x18 = true := by decide +kernel
theorem test_mulh : (sends (.mulh 0 0 0x60 0x7F) [ones, ones] 0 && sends (.mulhu 0 0 0x60 0x7F) [ones, ones] (2 ^ 64 - 2)) = true := by decide +kernel
theorem test_adds : (sends (.adds 0 0 0x60 0x7F) [2 ^ 63 - 1, 1] (2 ^ 63 - 1) && sends (.adds 0 1 0x60 0x7F) [0x7FFFFFFF, 1] 0x7FFFFFFF) = true := by decide +kernel
theorem test_subs : sends (.subs 0 0 0x60 0x7F) [2 ^ 63, 1] (2 ^ 63) = true := by decide +kernel
theorem test_clz : (sends (.clz 0 0 0x60 0x7F) [0] 64 && sends (.clz 0 2 0x60 0x7F) [0] 32) = true := by decide +kernel
theorem test_add : (sends (.add 0 1 0x60 0x7F) [0x100000005, 3] 8 && sends (.add 0 0 0x60 0x7F) [ones, 1] 0) = true := by decide +kernel
theorem test_sext_zext : (sends (.sext 0 0 0x60 0x7F) [0x1F0] 0xFFFFFFFFFFFFFFF0 && sends (.zext 0 0 0x60 0x7F) [0x1F0] 0xF0) = true := by decide +kernel

/-- R125: a handle is no operand of an addition. -/
theorem test_add_tag : faultOf (.add 0 0 0x60 0x7F) [wd 1, hd 1] = some .tagFault := by decide +kernel

/-- R117, R118, R119. -/
theorem test_tlt : (sends (.tlt 0 0x60 0x7F) [ones, 0] 1 && sends (.tltu 0 0x60 0x7F) [ones, 0] 0) = true := by decide +kernel
theorem test_tltui : (sends (.tltui 0 0x7FF 0x60) [ones - 1] 1 && sends (.tltui 0 0x7FF 0x60) [ones] 0) = true := by decide +kernel
theorem test_pand : (sends (.pand 0 0x60 0x7F) [2, 1] 1 && sends (.por 0 0x60 0x7F) [0, 0] 0 && sends (.pnot 0 0x60 0x7F) [0] 1) = true := by decide +kernel

/-- R89, R90: an instruction whose left token has not come changes nothing; one that is predicated off sends nothing. -/
theorem test_waits : (after (.add 0 0 0x60 0x7F) [wd 1] == running {} (withVals [wd 1])) = true := by decide +kernel

/-- R157: a byte 0x80 at local address 7, loaded with its sign from base 8 with offset -1. -/
theorem test_ldl : got (.ldl 0 0 1 0 0x7F 0x60) [wd 8] { mem := [(7, 0x80#8)] } = some (.val (wd 0xFFFFFFFFFFFFFF80)) := by decide +kernel
theorem test_ldl_bounds : (faultOf (.ldl 0 0 0 3 0 0x60) [wd 0x200000] = some .lsBounds ∧ faultOf (.ldl 0 0 0 3 0 0x60) [wd 0x1FFFF9] = some .lsBounds ∧
    faultOf (.ldl 0 0 0 3 0 0x60) [wd 4] = some .align) := by and_intros <;> decide +kernel

/-- R158: the bytes of a halfword, lowest first, kept for the commit; memory as it was. -/
theorem test_stl : (((after (.stl 0 3 1 1) [wd 6, wd 0x0102]).ctx {}).run).map Run.counted = some [⟨3, 0, .storeLocal 8 [2#8, 1#8]⟩] ∧
    (after (.stl 0 3 1 1) [wd 6, wd 0x0102]).mem = [] := by and_intros <;> decide +kernel

/-- R137: lane 0 wraps and saturates; 1.0 + 1.0 is 2.0 in FP32. -/
theorem test_vadd : (match got (.vadd 0 0x60 0x7F) [rg .vi32 0x7FFFFFFF, rg .vi32 1], got (.vadds 0 0x60 0x7F) [rg .vi32 0x7FFFFFFF, rg .vi32 1] with
    | some (.val a), some (.val b) => a.tag == .vi32 && a.bits == 0x80000000#2048 && b.bits == 0x7FFFFFFF#2048
    | _, _ => false) = true := by decide +kernel
theorem test_vadd_float : (match got (.vadd 0 0x60 0x7F) [rg .vf32 0x3F800000, rg .vf32 0x3F800000] with
    | some (.val a) => a.tag == .vf32 && a.bits == 0x40000000#2048
    | _ => false) = true := by decide +kernel

/-- R112: `TRAP 5` faults with its code; R353: the context is FAULTED. -/
theorem test_trap : faultOf (.trap 0 5) [] = some .trap ∧ ((after (.trap 0 5) []).ctx {}).phase = .faulted := by and_intros <;> decide +kernel

/-- The words of these give the decoder's instruction, and a step runs it (0x2000307F is `add w0, a, b`; 0x12003FFF is `hret`; 0x0A0002FF is `trap 5`). -/
theorem test_table_words : decodeTableWord 32 0x2000307F = some (.add 0 0 0x60 0x7F) ∧ decodeTableWord 32 0x12003FFF = some (.hret 0) ∧
    decodeTableWord 32 0x0A0002FF = some (.trap 0 5) := by and_intros <;> decide +kernel
theorem test_fetch_word : (match step (State.reset.withFetchWord 32 0x0A0002FF) with
    | .next t => (t.ctx {}).phase == .faulted
    | _ => false) = true := by decide +kernel

/-- Log 1: a step stops where the agenda names a place that the panel does not have, or an event whose operands name no part of the machine. -/
theorem test_stops : step { agenda := [.fire { die := 32 } 0] } = .fault (.noSuchPlace { die := 32 }) ∧
    step { agenda := [.event (.nop 0) {} 0] } = .refused (.illFormed (.nop 0)) := ⟨rfl, rfl⟩

/-- The agenda in order: an event, then time. -/
theorem test_agenda : (match step { agenda := [.wait 5, .event .lifeLogEpoch {} 0] } with
    | .next t => t.cycle == 5 && t.agenda == [.event .lifeLogEpoch {} 0]
    | _ => false) = true := by decide +kernel

end Sys2Proof.Tests
end

section
/-! PROOFS of the numbers' summation orders (02_numbers.md R36, R37): the lanes of a register as a list, what the pairwise tree
and the running sum leave, and the two statements about `VRSUM`, `VRMAX`, `VRMIN` and `VPSUM`. -/

namespace Sys2Proof.Machine

open Sys2Proof.Safety

/-! ### Numeric vector tags (09_be_vector.md R132) -/

theorem Tag.isNumV_of_isIntV {T : Tag} (h : T.isIntV = true) : T.isNumV = true := by simp [Tag.isNumV, h]

theorem Tag.isNumV_of_isFloatV {T : Tag} (h : T.isFloatV = true) : T.isNumV = true := by simp [Tag.isNumV, h]

theorem Tag.fmt_of_isIntV {T : Tag} (h : T.isIntV = true) : T.fmt = none := by
  revert h; cases T <;> decide

/-- The lanes of a numeric vector fill its register. -/
theorem Tag.lanes_mul_width {T : Tag} (h : T.isNumV = true) : T.shape.1 * T.shape.2 = 2048 := by
  revert h; cases T <;> decide

theorem Tag.lanes_pos {T : Tag} (h : T.isNumV = true) : 0 < T.shape.1 :=
  Nat.pos_of_mul_pos_right (by rw [Tag.lanes_mul_width h]; decide)

theorem Tag.two_pow_log2_lanes {T : Tag} (h : T.isNumV = true) : 2 ^ T.shape.1.log2 = T.shape.1 := by
  revert h; cases T <;> decide

/-- A numeric vector has no unused bits. -/
theorem Tag.keep_of_isNumV {T : Tag} (h : T.isNumV = true) (v : Vec) : T.keep v = v := by
  cases T <;> simp [Tag.isNumV, Tag.isFloatV, Tag.isIntV, Tag.keep] at h ⊢

/-! ### A register and the list of its lanes (00_scope.md R2) -/

theorem lanesGo_eq_map (w n : Nat) : ∀ x, lanesGo w n x = (List.range n).map fun k => x / 2 ^ (w * k) % 2 ^ w := by
  induction n with
  | zero => intro x; rfl
  | succ n ih =>
    intro x
    have shift (k : Nat) : x / 2 ^ w / 2 ^ (w * k) = x / 2 ^ (w * (k + 1)) := by
      rw [Nat.div_div_eq_div_mul, ← Nat.pow_add, Nat.mul_succ, Nat.add_comm]
    simp [lanesGo, ih, List.range_succ_eq_map, shift]

/-- The list of a register's lanes is the list of its lane codes. -/
theorem lanes_eq_map_lane (a : Reg) : lanes a.tag.shape.1 a.tag.shape.2 a.bits = (List.range a.tag.shape.1).map (lane a) :=
  lanesGo_eq_map _ _ _

theorem lane_lt (a : Reg) (k : Nat) : lane a k < 2 ^ a.tag.shape.2 := Nat.mod_lt _ (Nat.two_pow_pos _)

/-- A lane of a number packed from lanes. -/
theorem packLanes_lane (w : Nat) (l : List Nat) : ∀ k, packLanes w l / 2 ^ (w * k) % 2 ^ w = l.getD k 0 % 2 ^ w := by
  induction l with
  | nil => intro k; simp [packLanes]
  | cons x l ih =>
    intro k
    have hx : x % 2 ^ w < 2 ^ w := Nat.mod_lt _ (Nat.two_pow_pos w)
    cases k with
    | zero => simp [packLanes]
    | succ k =>
      rw [Nat.mul_succ, Nat.add_comm (w * k), Nat.pow_add, ← Nat.div_div_eq_div_mul, packLanes,
        Nat.add_mul_div_left _ _ (Nat.two_pow_pos w), Nat.div_eq_of_lt hx, Nat.zero_add, ih, List.getD_cons_succ]

/-- A field that lies within the width of a word is that of the number the word is made of. -/
theorem fldN_ofNat {m lo n : Nat} (x : Nat) (h : lo + n ≤ m) : fldN (BitVec.ofNat m x) lo n = x / 2 ^ lo % 2 ^ n := by
  obtain ⟨d, rfl⟩ := Nat.exists_eq_add_of_le h
  rw [fldN, BitVec.toNat_ofNat, Nat.add_assoc, Nat.pow_add, Nat.mod_mul_right_div_self, Nat.pow_add, Nat.mod_mul_right_mod]

/-- A numeric vector made from a list of codes has these in its lanes. -/
theorem hasLanes_ofCodes {T : Tag} (hT : T.isNumV = true) {l : List Nat} {code : Nat → Nat}
    (h : ∀ k < T.shape.1, l.getD k 0 % 2 ^ T.shape.2 = code k % 2 ^ T.shape.2) : HasLanes (Reg.ofCodes T l) T code := by
  refine ⟨rfl, Tag.keep_of_isNumV hT _, fun k hk => ?_⟩
  have hfit : T.shape.2 * k + T.shape.2 ≤ 2048 := by
    rw [← Tag.lanes_mul_width hT, ← Nat.mul_succ, Nat.mul_comm]
    exact Nat.mul_le_mul_right _ hk
  exact (fldN_ofNat _ hfit).trans ((packLanes_lane _ l k).trans (h k hk))

/-! ### The pairwise tree (R36) -/

/-- The tree over 2^k lanes leaves one value. What holds of a single lane and passes from the lanewise results to the two halves
that gave them holds of the lanes and this value. -/
theorem treeGo_spec {α : Type} {op : α → α → α} {P : List α → α → Prop} (leaf : ∀ x, P [x] x)
    (halves : ∀ l m x, l.length = m.length → P (List.zipWith op l m) x → P (l ++ m) x) (k : Nat) :
    ∀ l : List α, l.length = 2 ^ k → ∃ x, treeGo op k l = [x] ∧ P l x := by
  induction k with
  | zero =>
    intro l hl
    obtain ⟨x, rfl⟩ := List.length_eq_one_iff.mp hl
    exact ⟨x, rfl, leaf x⟩
  | succ k ih =>
    intro l hl
    have half : l.length / 2 = 2 ^ k := by omega
    have eqLen : (l.take (l.length / 2)).length = (l.drop (l.length / 2)).length := by
      rw [List.length_take, List.length_drop]; omega
    have stepLen : (treeStep op l).length = 2 ^ k := by
      rw [treeStep, List.length_zipWith, ← eqLen, List.length_take]; omega
    obtain ⟨x, hx, hP⟩ := ih _ stepLen
    exact ⟨x, hx, by simpa using halves _ _ x eqLen hP⟩

theorem treeGo_sum {k : Nat} {l : List Int} (hl : l.length = 2 ^ k) : ∃ x, treeGo (fun a b => a + b) k l = [x] ∧ x = l.sum :=
  treeGo_spec (P := fun l x => x = l.sum) (fun x => (List.sum_singleton).symm)
    (fun l m x h hx => by rw [hx, List.sum_append, List.sum_add_sum_eq_sum_zipWith_of_length_eq l m h]) k l hl

/-- The tree of an operation that picks the operand that bounds both leaves the member of the list that bounds them all. -/
theorem treeGo_extreme {le : Int → Int → Prop} {op : Int → Int → Int} (refl : ∀ a, le a a) (trans : ∀ {a b c}, le a b → le b c → le a c)
    (pick : ∀ a b, op a b = a ∨ op a b = b) (left : ∀ a b, le a (op a b)) (right : ∀ a b, le b (op a b))
    {k : Nat} {l : List Int} (hl : l.length = 2 ^ k) : ∃ x, treeGo op k l = [x] ∧ x ∈ l ∧ ∀ y ∈ l, le y x := by
  refine treeGo_spec (P := fun l x => x ∈ l ∧ ∀ y ∈ l, le y x) (fun x => ⟨List.mem_singleton_self x, fun y hy => ?_⟩) ?_ k l hl
  · exact List.mem_singleton.mp hy ▸ refl x
  · rintro l m x hlen ⟨hmem, hbound⟩
    have paired (i : Nat) (h1 : i < l.length) (h2 : i < m.length) : op l[i] m[i] ∈ List.zipWith op l m :=
      List.mem_iff_getElem.mpr ⟨i, by simp [h1, h2], by simp⟩
    constructor
    · obtain ⟨i, hi, rfl⟩ := List.mem_iff_getElem.mp hmem
      rw [List.length_zipWith] at hi
      rw [List.getElem_zipWith, List.mem_append]
      rcases pick (l[i]) (m[i]) with h | h <;> rw [h]
      · exact .inl (List.getElem_mem _)
      · exact .inr (List.getElem_mem _)
    · intro y hy
      rcases List.mem_append.mp hy with hy | hy <;> obtain ⟨i, hi, rfl⟩ := List.mem_iff_getElem.mp hy
      · exact trans (left _ _) (hbound _ (paired i hi (hlen ▸ hi)))
      · exact trans (right _ _) (hbound _ (paired i (hlen ▸ hi) hi))

theorem treeGo_max {k : Nat} {l : List Int} (hl : l.length = 2 ^ k) :
    ∃ x, treeGo (fun a b => max a b) k l = [x] ∧ x ∈ l ∧ ∀ y ∈ l, y ≤ x :=
  treeGo_extreme (le := fun y x => y ≤ x) le_refl le_trans max_choice le_max_left le_max_right hl

theorem treeGo_min {k : Nat} {l : List Int} (hl : l.length = 2 ^ k) :
    ∃ x, treeGo (fun a b => min a b) k l = [x] ∧ x ∈ l ∧ ∀ y ∈ l, x ≤ y :=
  treeGo_extreme (le := fun y x => x ≤ y) le_refl (fun h g => le_trans g h) min_choice min_le_left min_le_right hl

/-! ### The running sum (R37) -/

theorem prefixSum_getD_zero (op : Nat → Nat → Nat) (l : List Nat) : (prefixSum op l).getD 0 0 = l.getD 0 0 := by
  cases l <;> rfl

theorem cons_prefixGo_getD_succ (op : Nat → Nat → Nat) (l : List Nat) : ∀ x k, k < l.length →
    (x :: prefixGo op x l).getD (k + 1) 0 = op ((x :: prefixGo op x l).getD k 0) (l.getD k 0) := by
  induction l with
  | nil => intro x k hk; exact absurd hk (Nat.not_lt_zero k)
  | cons y l ih =>
    intro x k hk
    cases k with
    | zero => rfl
    | succ k => exact ih (op x y) k (Nat.lt_of_succ_lt_succ hk)

/-- Each entry is the previous one with the next element of the list. -/
theorem prefixSum_getD_succ (op : Nat → Nat → Nat) {l : List Nat} {k : Nat} (hk : k + 1 < l.length) :
    (prefixSum op l).getD (k + 1) 0 = op ((prefixSum op l).getD k 0) (l.getD (k + 1) 0) := by
  cases l with
  | nil => exact absurd hk (Nat.not_lt_zero _)
  | cons x l => exact cons_prefixGo_getD_succ op l x k (Nat.lt_of_succ_lt_succ hk)

/-- `prefixSum` over the lanes of a register, entry by entry. -/
theorem prefixSum_lane_zero (op : Nat → Nat → Nat) (a : Reg) {n : Nat} (hn : 0 < n) :
    (prefixSum op ((List.range n).map (lane a))).getD 0 0 = lane a 0 := by
  rw [prefixSum_getD_zero]; simp [List.getD_eq_getElem?_getD, hn]

theorem prefixSum_lane_succ (op : Nat → Nat → Nat) (a : Reg) {n k : Nat} (hk : k + 1 < n) :
    (prefixSum op ((List.range n).map (lane a))).getD (k + 1) 0 =
      op ((prefixSum op ((List.range n).map (lane a))).getD k 0) (lane a (k + 1)) := by
  rw [prefixSum_getD_succ op (by simpa using hk)]; simp [List.getD_eq_getElem?_getD, hk]

/-- Sums cut to the lane width at each step are the whole sums, cut. -/
theorem prefixSum_lane_mod (a : Reg) {n : Nat} : ∀ k < n,
    (prefixSum (fun x y => (x + y) % 2 ^ a.tag.shape.2) ((List.range n).map (lane a))).getD k 0 =
      ((List.range (k + 1)).map (lane a)).sum % 2 ^ a.tag.shape.2 := by
  intro k
  induction k with
  | zero => intro hn; rw [prefixSum_lane_zero _ a hn]; simp [Nat.mod_eq_of_lt (lane_lt a 0)]
  | succ k ih =>
    intro hk
    rw [prefixSum_lane_succ _ a hk, ih (Nat.lt_of_succ_lt hk), List.range_succ (n := k + 1), List.map_append, List.sum_append,
      Nat.mod_add_mod]
    simp

/-! ### `VRSUM`, `VRMAX`, `VRMIN` (R36, 09_be_vector.md R142) -/

section Reduction

variable {s : State} {a : Reg} {ff : FV → FV → FV} {fi : Int → Int → Int}

theorem reduceAct_int (h : a.tag.isIntV = true) {x : Int}
    (hx : treeGo fi a.tag.shape.1.log2 ((List.range a.tag.shape.1).map fun k => sgnN a.tag.shape.2 (lane a k)) = [x]) :
    reduceAct ff fi [a] s = .res s (Reg.ofW (BitVec.ofInt 64 x)) := by
  simp [reduceAct, Tag.isNumV_of_isIntV h, Tag.fmt_of_isIntV h, lanes_eq_map_lane, Function.comp_def, hx]

theorem reduceAct_float (h : a.tag.isFloatV = true) {f : Fmt} (hf : a.tag.fmt = some f) :
    reduceAct ff fi [a] s = .res s { tag := .f32s, bits := BitVec.ofNat 2048 (fp32.round 0 true none
      ((treeGo ff a.tag.shape.1.log2 ((List.range a.tag.shape.1).map fun k => f.dec (lane a k))).getD 0 .nan)) } := by
  simp [reduceAct, Tag.isNumV_of_isFloatV h, hf, lanes_eq_map_lane, Function.comp_def, Fmt.rne]

/-- A ready reduction delivers the tree over its float lanes, and the value that the tree over its signed lanes leaves, of which
`good` holds by what the tree of `fi` does to any list of 2^k integers. -/
theorem reduction_delivers {i : Instr} {ts : List (BitVec 7)} {r : Run} {good : List Int → Int → Prop}
    (tree : ∀ {k : Nat} {l : List Int}, l.length = 2 ^ k → ∃ x, treeGo fi k l = [x] ∧ good l x)
    (hexec : exec i s = .next (fire (shapeOf i s.index) (reduceAct ff fi) s))
    (htargets : (shapeOf i s.index).targets = ts.map BitVec.toNat) (ready : Ready s i [a] r) (free : FreeTargets r ts) :
    (a.tag.isIntV = true → ∃ x, good ((List.range a.tag.shape.1).map fun k => sgnN a.tag.shape.2 (lane a k)) x ∧
      Delivers i s ts (Reg.ofW (BitVec.ofInt 64 x))) ∧
    ∀ f, a.tag.isFloatV = true → a.tag.fmt = some f →
      Delivers i s ts { tag := .f32s, bits := BitVec.ofNat 2048 (fp32.round 0 true none
        ((treeGo ff a.tag.shape.1.log2 ((List.range a.tag.shape.1).map fun k => f.dec (lane a k))).getD 0 .nan)) } := by
  constructor
  · intro hint
    obtain ⟨x, hx, hgood⟩ := tree (k := a.tag.shape.1.log2)
      (l := (List.range a.tag.shape.1).map fun k => sgnN a.tag.shape.2 (lane a k))
      (by simp [Tag.two_pow_log2_lanes (Tag.isNumV_of_isIntV hint)])
    exact ⟨x, hgood, delivers_of_done s ready hexec (reduceAct_int hint hx) htargets free⟩
  · intro f hfloat hf
    exact delivers_of_done s ready hexec (reduceAct_float hfloat hf) htargets free

end Reduction

/-- Settles O6: the tree over 2^k integers leaves their sum, their largest, their smallest; over float lanes it is the tree stated. -/
theorem vectorReductions : Obligations.VectorReductions := by
  intro p t u s r a
  refine ⟨fun ready free => ?_, fun ready free => ?_, fun ready free => ?_⟩
  · exact reduction_delivers treeGo_sum rfl rfl ready free
  · obtain ⟨ints, floats⟩ := reduction_delivers treeGo_max rfl rfl ready free
    exact ⟨fun h => by simpa using ints h, floats⟩
  · obtain ⟨ints, floats⟩ := reduction_delivers treeGo_min rfl rfl ready free
    exact ⟨fun h => by simpa using ints h, floats⟩

/-! ### `VPSUM` (R37, 09_be_vector.md R147) -/

theorem vpsumBody_int {s : State} {a : Reg} (h : a.tag.isIntV = true) :
    vpsumBody [a] s = .res s (Reg.ofCodes a.tag
      (prefixSum (fun x y => (x + y) % 2 ^ a.tag.shape.2) ((List.range a.tag.shape.1).map (lane a)))) := by
  simp [vpsumBody, Tag.isNumV_of_isIntV h, Tag.fmt_of_isIntV h, lanes_eq_map_lane]

theorem vpsumBody_float {s : State} {a : Reg} (h : a.tag.isFloatV = true) {f : Fmt} (hf : a.tag.fmt = some f) :
    vpsumBody [a] s = .res s (Reg.ofCodes a.tag
      (prefixSum (fun x y => f.round 0 s.vsat none (FV.sum [f.dec x, f.dec y])) ((List.range a.tag.shape.1).map (lane a)))) := by
  simp [vpsumBody, Tag.isNumV_of_isFloatV h, hf, lanes_eq_map_lane, Fmt.rne, FV.add]

/-- Settles O7: the entries of `prefixSum` are the lanes of the result. -/
theorem prefixSums : Obligations.PrefixSums := by
  intro p t u s r a ready free
  constructor
  · intro hint
    refine ⟨_, delivers_of_done s ready rfl (vpsumBody_int hint) rfl free, ?_⟩
    exact hasLanes_ofCodes (Tag.isNumV_of_isIntV hint) fun k hk => by rw [prefixSum_lane_mod a k hk, Nat.mod_mod]
  · intro f hfloat hf
    have hnum := Tag.isNumV_of_isFloatV hfloat
    refine ⟨_, _, delivers_of_done s ready rfl (vpsumBody_float hfloat hf) rfl free, hasLanes_ofCodes hnum fun _ _ => rfl, ?_, ?_⟩
    · exact prefixSum_lane_zero _ a (Tag.lanes_pos hnum)
    · exact fun k hk => prefixSum_lane_succ _ a hk

end Sys2Proof.Machine
end

section
/-! PROOFS of the encoding (04_encoding.md R60 to R66): an instruction's word decodes to it, and what decodes encodes to its word. -/

namespace Sys2Proof

/-! ### From instructions to words -/

namespace Laws.RoundTrip

/-- The word of any instruction decodes to it; an event has no word. -/
theorem statement (i : Instr) : Statement i := by
  cases i with
  | bro => apply bro | brb => apply brb | callo => apply callo | ret => apply ret | trap => apply trap
  | bri => apply bri | calli => apply calli | texit => apply texit | hret => apply hret | eret => apply eret
  | null => apply null | mov => apply mov | mov3 => apply mov3 | movi => apply movi | genu => apply genu
  | add => apply add | sub => apply sub | and => apply and | or => apply or | xor => apply xor | andn => apply andn
  | shl => apply shl | shr => apply shr | sra => apply sra | rotl => apply rotl | min => apply min | max => apply max
  | minu => apply minu | maxu => apply maxu | mul => apply mul | mulh => apply mulh | mulhu => apply mulhu
  | div => apply div | divu => apply divu | rem => apply rem | remu => apply remu | clz => apply clz | ctz => apply ctz
  | popc => apply popc | sext => apply sext | zext => apply zext | adds => apply adds | subs => apply subs
  | addi => apply addi | andi => apply andi | ori => apply ori | xori => apply xori | shli => apply shli
  | shri => apply shri | srai => apply srai | mini => apply mini | maxi => apply maxi | muli => apply muli
  | teq => apply teq | tne => apply tne | tlt => apply tlt | tle => apply tle | tltu => apply tltu | tleu => apply tleu
  | teqi => apply teqi | tnei => apply tnei | tlti => apply tlti | tlei => apply tlei | tltui => apply tltui
  | tleui => apply tleui | tgti => apply tgti | tgei => apply tgei | pand => apply pand | por => apply por
  | pnot => apply pnot | mfs => apply mfs | mts => apply mts | nop => apply nop | ldl => apply ldl | stl => apply stl
  | vldl => apply vldl | vstl => apply vstl | vgtl => apply vgtl | vscl => apply vscl | land => apply land
  | fence => apply fence | tldx => apply tldx | tldxOffset => apply tldxOffset | tstx => apply tstx
  | tstxOffset => apply tstxOffset | tlds => apply tlds | tsts => apply tsts | amol => apply amol | amot => apply amot
  | casLocal => apply casLocal | casTensor => apply casTensor | vamot => apply vamot | vadd => apply vadd
  | vsub => apply vsub | vmul => apply vmul | vmin => apply vmin | vmax => apply vmax | vabs => apply vabs
  | vneg => apply vneg | vand => apply vand | vor => apply vor | vxor => apply vxor | vshl => apply vshl
  | vshr => apply vshr | vsra => apply vsra | vadds => apply vadds | vsubs => apply vsubs | vfma => apply vfma
  | vfms => apply vfms | vfnma => apply vfnma | vceq => apply vceq | vcne => apply vcne | vclt => apply vclt
  | vcle => apply vcle | vcgt => apply vcgt | vcge => apply vcge | vsel => apply vsel | vrcp => apply vrcp
  | vrsq => apply vrsq | vsqrt => apply vsqrt | vexp2 => apply vexp2 | vlog2 => apply vlog2 | vtanh => apply vtanh
  | vrsum => apply vrsum | vrmax => apply vrmax | vrmin => apply vrmin | vbcast => apply vbcast | vext => apply vext
  | vins => apply vins | vperm => apply vperm | vrot => apply vrot | viota => apply viota | vpsum => apply vpsum
  | vcvt => apply vcvt | vqnt => apply vqnt | vdqnt => apply vdqnt | vpack => apply vpack | vunpk => apply vunpk
  | vretag => apply vretag | mand => apply mand | mor => apply mor | mxor => apply mxor | mnot => apply mnot
  | mpop => apply mpop | mfirst => apply mfirst | gset => apply gset | sbind => apply sbind | csetg => apply csetg
  | cpy => apply cpy | cpyw => apply cpyw | cpym => apply cpym | deal => apply deal | cpyt => apply cpyt
  | cpytLand => apply cpytLand | twait => apply twait | tread => apply tread | msetg => apply msetg | mma => apply mma
  | mmaz => apply mmaz | mmaq => apply mmaq | mldb => apply mldb | mplay => apply mplay | mst => apply mst
  | mlda => apply mlda | mzero => apply mzero | mrls => apply mrls | mseat => apply mseat | send => apply send
  | sendq => apply sendq | req => apply req | reply => apply reply | xput => apply xput | xamo => apply xamo
  | mbxset => apply mbxset | frget => apply frget | frput => apply frput | xroute => apply xroute | xflush => apply xflush
  | tdec => apply tdec | tspawn => apply tspawn | tjoin => apply tjoin | tstat => apply tstat | tkill => apply tkill
  | ginst => apply ginst | nopen => apply nopen | nclose => apply nclose | nbind => apply nbind | ntxb => apply ntxb
  | ntxa => apply ntxa | ntxc => apply ntxc | ntxx => apply ntxx | nsnap => apply nsnap | nmake => apply nmake
  | nqry => apply nqry | svc => apply svc | bkpt => apply bkpt | ctxsv => apply ctxsv | ctxrs => apply ctxrs
  | tlbi => apply tlbi
  | _ => exact fun _ h => nomatch h

end Laws.RoundTrip

/-- A word read from its four bytes. -/
theorem word4_wordBytes (x : Word32) : word4 (fld x 0 8) (fld x 8 8) (fld x 16 8) (fld x 24 8) = x := by
  apply BitVec.eq_of_toNat_eq
  simp only [word4, fld, BitVec.toNat_ofNat]
  omega

theorem decodeBytes_wordBytes {x : Word32} {i : Instr} (h : decodeWord x = .ok i) (rest : List Byte) :
    decodeBytes (wordBytes x ++ rest) = .ok (i, rest) := by
  simp only [wordBytes, List.cons_append, List.nil_append, decodeBytes, word4_wordBytes, h]

/-- Settles O53, from the round trip of each constructor. -/
theorem encodeThenDecode : Obligations.EncodeThenDecode := by
  intro i x rest h
  exact decodeBytes_wordBytes (Laws.RoundTrip.statement i x h) rest

/-- An opcode that R63 leaves undefined decodes to nothing. -/
theorem decodeWord_undefined {x : Word32}
    (h : fldN x 25 7 = 0 ∨ (0x18 ≤ fldN x 25 7 ∧ fldN x 25 7 ≤ 0x1F) ∨ (0x39 ≤ fldN x 25 7 ∧ fldN x 25 7 ≤ 0x3F) ∨ 0x46 ≤ fldN x 25 7) :
    decodeWord x = .error .illegalOpcode := by
  unfold decodeWord
  split <;> try omega
  rfl

/-- Settles O52: the words written out are decoded by evaluation; the opcode of a word is its top seven bits. -/
theorem decodedWords : Obligations.DecodedWords := by
  refine ⟨rfl, rfl, rfl, rfl, rfl, rfl, rfl, rfl, rfl, rfl, rfl, fun x h => decodeWord_undefined ?_⟩
  rwa [show fldN x 25 7 = x.toNat / 2 ^ 25 from Nat.mod_eq_of_lt (Nat.div_lt_of_lt_mul x.isLt)]

/-! ### From words to instructions -/

/-- The n bits of x from lo on are those of v. -/
def HasField (x : Word32) (lo n v : Nat) : Prop := v % 2 ^ n = fldN x lo n

@[simp] theorem hasField_fld (x : Word32) (lo n : Nat) : HasField x lo n (fld x lo n).toNat := by
  simp [HasField, fld, fldN]

theorem hasField_of_eq {x : Word32} {lo n v : Nat} (h : fldN x lo n = v) : HasField x lo n v := by
  subst h; exact Nat.mod_mod _ _

/-- The fields of a list stand in x, one after the other from bit lo on, to its end. -/
def HasFields (x : Word32) : Nat → List (Nat × Nat) → Prop
  | lo, [] => lo = 32
  | lo, (n, v) :: r => HasField x lo n v ∧ HasFields x (lo + n) r

theorem pack_of_hasFields {x : Word32} {l : List (Nat × Nat)} : ∀ {lo : Nat}, HasFields x lo l → pack l = x.toNat / 2 ^ lo := by
  induction l with
  | nil => rintro lo rfl; exact (Nat.div_eq_of_lt x.isLt).symm
  | cons a r ih =>
    obtain ⟨n, v⟩ := a
    rintro lo ⟨hv, hr⟩
    rw [pack, hv, ih hr, fldN, Nat.pow_add, ← Nat.div_div_eq_div_mul, Nat.mod_add_div]

/-- Fields that stand in x are packed to x. -/
theorem word_of_hasFields {x : Word32} {l : List (Nat × Nat)} (h : HasFields x 0 l) : BitVec.ofNat 32 (pack l) = x := by
  rw [pack_of_hasFields h, Nat.pow_zero, Nat.div_one, BitVec.ofNat_toNat, BitVec.setWidth_eq]

theorem encode_of_hasFields {x : Word32} {i : Instr} {l : List (Nat × Nat)} (hi : encode i = some (BitVec.ofNat 32 (pack l)))
    (h : HasFields x 0 l) : encode i = some x :=
  hi.trans (congrArg some (word_of_hasFields h))

/-- What the decoder answers for x, where it is an instruction, encodes to x. -/
def ReadsBack (x : Word32) (r : DecRes) : Prop := ∀ i, r = .ok i → encode i = some x

@[simp] theorem readsBack_ok {x : Word32} {i : Instr} : ReadsBack x (.ok i) ↔ encode i = some x :=
  ⟨fun h => h i rfl, fun h _ e => Except.ok.inj e ▸ h⟩

@[simp] theorem readsBack_error {x : Word32} {e : DecErr} : ReadsBack x (.error e) := fun _ h => by injection h

@[simp] theorem readsBack_chk {x : Word32} {b : Bool} {i : Instr} : ReadsBack x (chk b i) ↔ (b = true → encode i = some x) := by
  cases b
  · exact iff_of_true readsBack_error fun h => by injection h
  · exact readsBack_ok.trans ⟨fun h _ => h, fun h => h rfl⟩

/-! Each decoder splits into its rows; in each row the fields read, the fixed ones and the opcode fill the word. -/

theorem readsBack_decode10 {x : Word32} (op : fldN x 25 7 = 0x10) : ReadsBack x (decode10 x) := by
  unfold decode10
  split <;> simp <;> intros <;> exact encode_of_hasFields rfl (by simp [HasFields, hasField_of_eq, *])

theorem readsBack_decode11 {x : Word32} (op : fldN x 25 7 = 0x11) : ReadsBack x (decode11 x) := by
  unfold decode11
  split <;> simp <;> intros <;> exact encode_of_hasFields rfl (by simp [HasFields, hasField_of_eq, *])

theorem readsBack_decode12 {x : Word32} (op : fldN x 25 7 = 0x12) : ReadsBack x (decode12 x) := by
  unfold decode12
  split <;> simp <;> intros <;> exact encode_of_hasFields rfl (by simp [HasFields, hasField_of_eq, *])

theorem readsBack_decode13 {x : Word32} (op : fldN x 25 7 = 0x13) : ReadsBack x (decode13 x) := by
  unfold decode13
  split <;> simp <;> intros <;> exact encode_of_hasFields rfl (by simp [HasFields, hasField_of_eq, *])

theorem readsBack_decode14 {x : Word32} (op : fldN x 25 7 = 0x14) : ReadsBack x (decode14 x) := by
  unfold decode14
  split <;> simp <;> intros <;> exact encode_of_hasFields rfl (by simp [HasFields, hasField_of_eq, *])

theorem readsBack_decode17 {x : Word32} (op : fldN x 25 7 = 0x17) : ReadsBack x (decode17 x) := by
  unfold decode17
  split <;> simp <;> intros <;> exact encode_of_hasFields rfl (by simp [HasFields, hasField_of_eq, *])

theorem readsBack_decode28 {x : Word32} (op : fldN x 25 7 = 0x28) : ReadsBack x (decode28 x) := by
  unfold decode28
  split <;> simp <;> intros <;> exact encode_of_hasFields rfl (by simp [HasFields, hasField_of_eq, *])

theorem readsBack_decode29 {x : Word32} (op : fldN x 25 7 = 0x29) : ReadsBack x (decode29 x) := by
  unfold decode29
  split <;> simp <;> intros <;> exact encode_of_hasFields rfl (by simp [HasFields, hasField_of_eq, *])

theorem readsBack_decode2E {x : Word32} (op : fldN x 25 7 = 0x2E) : ReadsBack x (decode2E x) := by
  unfold decode2E
  split <;> simp <;> intros <;> exact encode_of_hasFields rfl (by simp [HasFields, hasField_of_eq, *])

theorem readsBack_decode30 {x : Word32} (op : fldN x 25 7 = 0x30) : ReadsBack x (decode30 x) := by
  unfold decode30
  split <;> simp <;> intros <;> exact encode_of_hasFields rfl (by simp [HasFields, hasField_of_eq, *])

theorem readsBack_decode31 {x : Word32} (op : fldN x 25 7 = 0x31) : ReadsBack x (decode31 x) := by
  unfold decode31
  split <;> simp <;> intros <;> exact encode_of_hasFields rfl (by simp [HasFields, hasField_of_eq, *])

theorem readsBack_decode32 {x : Word32} (op : fldN x 25 7 = 0x32) : ReadsBack x (decode32 x) := by
  unfold decode32
  split <;> simp <;> intros <;> exact encode_of_hasFields rfl (by simp [HasFields, hasField_of_eq, *])

theorem readsBack_decode33 {x : Word32} (op : fldN x 25 7 = 0x33) : ReadsBack x (decode33 x) := by
  unfold decode33
  split <;> simp <;> intros <;> exact encode_of_hasFields rfl (by simp [HasFields, hasField_of_eq, *])

theorem readsBack_decode34 {x : Word32} (op : fldN x 25 7 = 0x34) : ReadsBack x (decode34 x) := by
  unfold decode34
  split <;> simp <;> intros <;> exact encode_of_hasFields rfl (by simp [HasFields, hasField_of_eq, *])

theorem readsBack_decode35 {x : Word32} (op : fldN x 25 7 = 0x35) : ReadsBack x (decode35 x) := by
  unfold decode35
  split <;> simp <;> intros <;> exact encode_of_hasFields rfl (by simp [HasFields, hasField_of_eq, *])

theorem readsBack_decode36 {x : Word32} (op : fldN x 25 7 = 0x36) : ReadsBack x (decode36 x) := by
  unfold decode36
  split <;> simp <;> intros <;> exact encode_of_hasFields rfl (by simp [HasFields, hasField_of_eq, *])

theorem readsBack_decode37 {x : Word32} (op : fldN x 25 7 = 0x37) : ReadsBack x (decode37 x) := by
  unfold decode37
  split <;> simp <;> intros <;> exact encode_of_hasFields rfl (by simp [HasFields, hasField_of_eq, *])

theorem readsBack_decode38 {x : Word32} (op : fldN x 25 7 = 0x38) : ReadsBack x (decode38 x) := by
  unfold decode38
  split <;> simp <;> intros <;> exact encode_of_hasFields rfl (by simp [HasFields, hasField_of_eq, *])

theorem fldN_one (x : Word32) (lo : Nat) : fldN x lo 1 = 0 ∨ fldN x lo 1 = 1 := Nat.mod_two_eq_zero_or_one _

theorem readsBack_decode40 {x : Word32} (op : fldN x 25 7 = 0x40) : ReadsBack x (decode40 x) := by
  unfold decode40
  rcases fldN_one x 12 with m | m <;> simp only [m] <;>
  split <;> simp <;> intros <;> exact encode_of_hasFields rfl (by simp [HasFields, hasField_of_eq, *])

theorem readsBack_decode41 {x : Word32} (op : fldN x 25 7 = 0x41) : ReadsBack x (decode41 x) := by
  unfold decode41
  split <;> simp <;> intros <;> exact encode_of_hasFields rfl (by simp [HasFields, hasField_of_eq, *])

theorem readsBack_decode42 {x : Word32} (op : fldN x 25 7 = 0x42) : ReadsBack x (decode42 x) := by
  unfold decode42
  split <;> simp <;> intros <;> exact encode_of_hasFields rfl (by simp [HasFields, hasField_of_eq, *])

theorem readsBack_decode43 {x : Word32} (op : fldN x 25 7 = 0x43) : ReadsBack x (decode43 x) := by
  unfold decode43
  split <;> simp <;> intros <;> exact encode_of_hasFields rfl (by simp [HasFields, hasField_of_eq, *])

theorem readsBack_decode44 {x : Word32} (op : fldN x 25 7 = 0x44) : ReadsBack x (decode44 x) := by
  unfold decode44
  split <;> simp <;> intros <;> exact encode_of_hasFields rfl (by simp [HasFields, hasField_of_eq, *])

theorem readsBack_decode45 {x : Word32} (op : fldN x 25 7 = 0x45) : ReadsBack x (decode45 x) := by
  unfold decode45
  split <;> simp <;> intros <;> exact encode_of_hasFields rfl (by simp [HasFields, hasField_of_eq, *])

theorem readsBack_decodeWord (x : Word32) : ReadsBack x (decodeWord x) := by
  unfold decodeWord
  split <;> simp [readsBack_decode10, readsBack_decode11, readsBack_decode12, readsBack_decode13, readsBack_decode14, readsBack_decode17,
    readsBack_decode28, readsBack_decode29, readsBack_decode2E, readsBack_decode30, readsBack_decode31, readsBack_decode32, readsBack_decode33, readsBack_decode34, readsBack_decode35, readsBack_decode36, readsBack_decode37, readsBack_decode38, readsBack_decode40, readsBack_decode41, readsBack_decode42, readsBack_decode43, readsBack_decode44, readsBack_decode45, *] <;> intros <;>
    exact encode_of_hasFields rfl (by simp [HasFields, hasField_of_eq, *])

/-- Settles O54: each row of the decoder reads every bit of its word back. -/
theorem decodeThenEncode : Obligations.DecodeThenEncode := fun x i h => readsBack_decodeWord x i h

end Sys2Proof
end

section
/-! PROOFS of the step and of firing (06_block_engine.md R89 to R91): every meaning answers, what a move leaves in focus, what an
instruction word does with its predicate and with nulls. -/

namespace Sys2Proof.Machine

open Sys2Proof.Safety

/-! ### Every meaning answers -/

theorem copyEvent_next (fn q kind : Nat) (s : State) : ∃ t, copyEvent fn q kind s = .next t := by
  unfold copyEvent
  split
  · exact ⟨_, rfl⟩
  · exact ⟨_, rfl⟩

theorem exec_next (i : Instr) (s : State) : ∃ t, exec i s = .next t := by
  cases i with
  | copyin fn q => exact copyEvent_next fn q 5 s
  | copyout fn q => exact copyEvent_next fn q 6 s
  | _ => exact ⟨_, rfl⟩

/-- An instruction word fires in the one frame of R89 to R92. -/
theorem exec_fires {i : Instr} (h : (encode i).isSome = true) :
    ∃ body, ∀ s, exec i s = .next (fire (shapeOf i s.index) body s) := by
  cases i <;> (try cases h) <;> exact ⟨_, fun _ => rfl⟩

/-! ### Moves -/

theorem runAt_next (i : Instr) (p : Place) (k : Nat) (s : State) :
    ∃ t, exec i { s with focus := p, index := k } = .next t ∧ runAt i p k s = .next (afterMove p k t) := by
  obtain ⟨t, ht⟩ := exec_next i { s with focus := p, index := k }
  exact ⟨t, ht, by simp [runAt, ht]⟩

/-- What a move can answer: a state in focus at a place of the panel, or the one it was in; or why the machine stops. -/
theorem runMove_cases (m : Move) (s : State) :
    (∃ t, runMove m s = .next t ∧ (t.focus.ok = true ∨ t.focus = s.focus)) ∨
    (∃ p, runMove m s = .fault (.noSuchPlace p) ∧ p.ok = false) ∨
    ∃ e, runMove m s = .refused (.illFormed e) ∧ (e.wf = false ∨ (encode e).isSome = true) := by
  cases m with
  | wait n => exact .inl ⟨_, rfl, .inr rfl⟩
  | event e p k =>
    simp only [runMove]
    cases hp : p.ok
    · exact .inr (.inl ⟨p, rfl, hp⟩)
    · cases he : e.wf && (encode e).isNone
      · exact .inr (.inr ⟨e, rfl, (Bool.and_eq_false_iff.mp he).imp id Option.isNone_eq_false_iff.mp⟩)
      · obtain ⟨t, -, ht⟩ := runAt_next e p k s
        exact .inl ⟨_, by simpa using ht, .inl hp⟩
  | fire p k =>
    simp only [runMove]
    cases hp : p.ok
    · exact .inr (.inl ⟨p, rfl, hp⟩)
    · cases hi : s.instrAt p k with
      | none => exact .inl ⟨_, rfl, .inl hp⟩
      | some i =>
        obtain ⟨t, -, ht⟩ := runAt_next i p k s
        exact .inl ⟨_, by simpa using ht, .inl hp⟩

/-- A step is a move from the state in focus, its agenda shortened or not. -/
theorem step_eq_runMove (s : State) : ∃ m s', step s = runMove m s' ∧ s'.focus = s.focus := by
  unfold step
  split
  · exact ⟨_, _, rfl, rfl⟩
  · exact ⟨_, _, rfl, rfl⟩

/-- Settles O56: a move answers a next state but where it names a place or an event that is not there. -/
theorem stepsGoOn : Obligations.StepsGoOn := by
  refine ⟨exec_next, fun s f h => ?_, fun s e h => ?_, fun s t hs h => ?_⟩ <;> obtain ⟨m, s', e1, hf⟩ := step_eq_runMove s <;>
    rw [e1] at h <;> rcases runMove_cases m s' with ⟨u, hu, ho⟩ | ⟨p, hp, ho⟩ | ⟨i, hi, ho⟩
  · rw [hu] at h; cases h
  · rw [hp] at h; cases h; exact ⟨p, rfl, ho⟩
  · rw [hi] at h; cases h
  · rw [hu] at h; cases h
  · rw [hp] at h; cases h
  · rw [hi] at h; cases h; exact ⟨i, rfl, ho⟩
  · rw [hu] at h; cases h
    exact ho.elim id fun ho => by rw [Placed, ho, hf]; exact hs
  · rw [hp] at h; cases h
  · rw [hi] at h; cases h

/-- The index of a decoded block whose word decodes to i fires i. -/
theorem runMove_fire {s : State} {p : Place} {k : Nat} {r : Run} {i : Instr} (hp : p.ok = true) (hr : (s.ctx p).run = some r)
    (hl : r.live = true) (hk : k < r.size) (hi : decodeWord (r.word k) = .ok i) : runMove (.fire p k) s = runAt i p k s := by
  have h : s.instrAt p k = some i := by simp [State.instrAt, hr, hl, hk, Run.instr, hi]
  simp [runMove, hp, h]

/-- Settles O55, from the move of an index that holds an instruction. -/
theorem stepRunsDecoded : Obligations.StepRunsDecoded := by
  intro s p k r i rest hp hr hl hk hi
  constructor
  · intro ha
    obtain ⟨t, ht, e⟩ := runAt_next i p k { s with agenda := rest }
    refine ⟨t, ht, ?_⟩
    simp only [step, ha]
    exact (runMove_fire (s := { s with agenda := rest }) hp hr hl hk hi).trans e
  · intro ha hm
    obtain ⟨t, ht, e⟩ := runAt_next i p k s
    refine ⟨t, ht, ?_⟩
    simp only [step, ha, hm]
    exact (runMove_fire hp hr hl hk hi).trans e

/-- Settles O58: each part of the reset state holds the values that its definition gives. -/
theorem resetState : Obligations.ResetState := by
  refine ⟨rfl, rfl, rfl, rfl, rfl, rfl, fun _ _ => rfl, fun p => ?_, fun d t => ?_⟩
  · exact ⟨rfl, fun _ => rfl, rfl, rfl, rfl, rfl, rfl, rfl, rfl, rfl, rfl, rfl, rfl, rfl, rfl, rfl, rfl⟩
  · exact ⟨fun _ => rfl, fun _ => rfl, fun _ => rfl, rfl⟩

/-! ### Predicates and nulls (R90, R91) -/

section Judging

variable {r : Run} {h : Shape} {k : Nat}

theorem data_eq_none {n : Nat} : r.data k n = none ↔ ∃ j < n, r.tok (32 * j + k) = none := by
  induction n with
  | zero => simp [Run.data]
  | succ n ih =>
    simp only [Nat.lt_succ_iff_lt_or_eq, or_and_right, exists_or, exists_eq_left, ← ih]
    cases hd : r.data k n <;> cases ht : r.tok (32 * n + k) <;> simp [Run.data, hd, ht]

theorem values_eq_none {l : List Token} : values l = none ↔ Token.null ∈ l := by
  induction l with
  | nil => simp [values]
  | cons t l ih => cases t <;> simp [values, ih]

theorem mem_data {n : Nat} : ∀ {l : List Token}, r.data k n = some l → ∀ {t}, t ∈ l ↔ ∃ j < n, r.tok (32 * j + k) = some t := by
  induction n with
  | zero => intro l hl t; obtain rfl := Option.some.inj hl; simp
  | succ n ih =>
    intro l hl t
    cases hd : r.data k n with
    | none => simp [Run.data, hd] at hl
    | some l0 =>
      cases ht : r.tok (32 * n + k) with
      | none => simp [Run.data, hd, ht] at hl
      | some t0 =>
        obtain rfl : l0 ++ [t0] = l := by simpa [Run.data, hd, ht] using hl
        simp only [Nat.lt_succ_iff_lt_or_eq, or_and_right, exists_or, exists_eq_left, ← ih hd, ht, List.mem_append, List.mem_singleton,
          Option.some.injEq, eq_comm (a := t)]

/-- The predicate of the instruction at index k lets it fire, or it has none. -/
def Passes (r : Run) (h : Shape) (k : Nat) : Prop :=
  h.pr.toNat < 2 ∨ ∃ g, r.tok (64 + k) = some (.val g) ∧ g.tag = .i64 ∧ ¬(g.w = 0#64 ↔ h.pr = 2#2)

theorem judge_fault {g : Reg} (hp : 2 ≤ h.pr.toNat) (ht : r.tok (64 + k) = some (.val g)) (hg : g.tag ≠ .i64) :
    r.judge h k = .fault := by
  simp [Run.judge, Nat.not_lt.mpr hp, ht, hg]

theorem judge_off {g : Reg} (hp : 2 ≤ h.pr.toNat) (ht : r.tok (64 + k) = some (.val g)) (hg : g.tag = .i64)
    (hw : g.w = 0#64 ↔ h.pr = 2#2) : r.judge h k = .off := by
  simp [Run.judge, Nat.not_lt.mpr hp, ht, hg, hw]

theorem judge_unpredicated (hp : 2 ≤ h.pr.toNat) (ht : r.tok (64 + k) = none) : r.judge h k = .notYet := by
  simp [Run.judge, Nat.not_lt.mpr hp, ht]

theorem judge_null_predicate (hp : 2 ≤ h.pr.toNat) (ht : r.tok (64 + k) = some .null) : r.judge h k = .null := by
  simp [Run.judge, Nat.not_lt.mpr hp, ht]

theorem judge_missing (hp : Passes r h k) (hd : ∃ n < h.slots, r.tok (32 * n + k) = none) : r.judge h k = .notYet := by
  have hd := data_eq_none.mpr hd
  rcases hp with hp | ⟨g, ht, hg, hw⟩
  · simp [Run.judge, hp, hd]
  · simp [Run.judge, ht, hg, hw, hd]

theorem judge_null_data (hp : Passes r h k) (hall : ∀ n < h.slots, (r.tok (32 * n + k)).isSome = true)
    (hnull : ∃ n < h.slots, r.tok (32 * n + k) = some .null) : r.judge h k = .null := by
  cases hd : r.data k h.slots with
  | none =>
    obtain ⟨n, hn, ht⟩ := data_eq_none.mp hd
    exact absurd (hall n hn) (by simp [ht])
  | some l =>
    have hv := values_eq_none.mpr ((mem_data hd).mpr hnull)
    rcases hp with hp | ⟨g, ht, hg, hw⟩
    · simp [Run.judge, hp, hd, hv]
    · simp [Run.judge, ht, hg, hw, hd, hv]

end Judging

/-- A counted instruction has an LSID (04_encoding.md R58). -/
theorem lsid_of_counted {i : Instr} {k : Nat} (h : (shapeOf i k).counted = true) :
    ∃ l, (shapeOf i k).lsid = some l := by
  cases i <;> first | exact ⟨_, rfl⟩ | exact nomatch h

theorem run_of_armed {s : State} {r : Run} (h : s.armed = some r) : (s.ctx s.focus).run = some r := by
  unfold State.armed at h
  cases hr : (s.ctx s.focus).run with
  | none => simp [hr] at h
  | some r0 =>
    simp only [hr] at h
    split at h
    · exact h
    · cases h

/-- What is received of a counted instruction at its index, with op; nothing of another (R93). -/
def receipt (h : Shape) (k : Nat) (op : CommitOp) : List Counted := if h.counted then [⟨h.lsid.getD 0, k, op⟩] else []

theorem mark_receipt (i : Instr) (k : Nat) (op : CommitOp) (r : Run) :
    r.mark k (shapeOf i k) (some op) = fired r k [] (receipt (shapeOf i k) k op) := by
  cases hc : (shapeOf i k).counted
  · simp [Run.mark, hc, fired, receipt]
  · obtain ⟨l, hl⟩ := lsid_of_counted hc
    simp [Run.mark, hc, hl, fired, receipt]

theorem markOff_receipt (i : Instr) (k : Nat) (r : Run) :
    r.markOff k (shapeOf i k) = { r with
      off := r.off ++ [k], waits := r.waits.filter fun w => w.index != k
      counted := r.counted ++ receipt (shapeOf i k) k (.idle (shapeOf i k).eng) } := by
  cases hc : (shapeOf i k).counted
  · simp [Run.markOff, hc, receipt]
  · obtain ⟨l, hl⟩ := lsid_of_counted hc
    simp [Run.markOff, hc, hl, receipt]

/-- An instruction that is received and sends one token to its free targets: one change of its block. -/
theorem updRun_deliverAll {s : State} {p : Place} {r : Run} {ts : List Nat} {rec_ : List Counted} (x : Option Nat) (k : Token) (n : Nat)
    (hr : (s.ctx p).run = some r) (hn : (ts.filter fun t => t != 0x7F).Nodup)
    (hf : ∀ t ∈ ts, t ≠ 0x7F → r.tok t = none ∧ r.reserved.contains t = false) :
    (s.updRun p fun r => fired r n [] rec_).deliverAll p x ts [k] =
      s.updRun p fun r => fired r n ((ts.filter fun t => t != 0x7F).map fun t => (t, k)) rec_ := by
  rw [deliverAll_free p x k ts _ (fired r n [] rec_) (by simp [hr]) hn (by simpa [fired, Run.tok] using hf)]
  split
  · rename_i h0; rw [h0, List.map_nil]
  · rw [State.updRun_updRun]; simp [fired]

/-- A null among what an instruction takes goes on to its free targets (R91). -/
theorem fire_null {s : State} {i : Instr} {r : Run} (body : List Reg → State → Act) (ha : s.armed = some r)
    (hj : r.judge (shapeOf i s.index) s.index = .null) (hn : ((shapeOf i s.index).targets.filter fun t => t != 0x7F).Nodup)
    (hf : ∀ t ∈ (shapeOf i s.index).targets, t ≠ 0x7F → r.tok t = none ∧ r.reserved.contains t = false) :
    fire (shapeOf i s.index) body s = s.updRun s.focus fun r =>
      fired r s.index (((shapeOf i s.index).targets.filter fun t => t != 0x7F).map fun t => (t, Token.null))
        (receipt (shapeOf i s.index) s.index (.idle (shapeOf i s.index).eng)) := by
  simp only [fire, ha, hj, mark_receipt]
  exact updRun_deliverAll _ _ _ (run_of_armed ha) hn hf

/-- Settles O60: firing does what R90 and R91 make of the tokens, whatever the instruction means. -/
theorem predicatesAndNulls : Obligations.PredicatesAndNulls := by
  intro i s r hi ha
  obtain ⟨body, hb⟩ := exec_fires hi
  refine ⟨fun g hp ht => ⟨fun hg => ?_, fun hg hw => ?_⟩, fun hp ht => ?_, fun hp hd => ?_, fun hn hf => ⟨fun hp ht => ?_, fun hp hall hnull => ?_⟩⟩
  · simp [Faults, hb, fire, ha, judge_fault hp ht hg]
  · simp only [hb, fire, ha, judge_off hp ht hg hw, markOff_receipt]; rfl
  · simp [hb, fire, ha, judge_unpredicated hp ht]
  · simp [hb, fire, ha, judge_missing hp hd]
  · rw [hb, fire_null body ha (judge_null_predicate hp ht) hn hf]; rfl
  · rw [hb, fire_null body ha (judge_null_data hp hall hnull) hn hf]; rfl

end Sys2Proof.Machine
end

section
/-! PROOFS of what firing leaves (06_block_engine.md R93, R94, R367): a relation between states that every part of firing keeps, so that
every instruction word does. -/

namespace Sys2Proof.Machine

open Sys2Proof.Safety

/-! ### What firing leaves -/

/-- Two places name one entry of the sparse maps. On the panel they are then equal. -/
def SamePlace (p q : Place) : Prop := q.die * 144 + q.tile = p.die * 144 + p.tile ∧ q.ctx = p.ctx

/-- What the instruction in focus leaves when it fires: the focus, memory in canonical form, every byte of a local store, what software sees
of every context, and of every other context its state and its block. -/
structure FiringStep (s t : State) : Prop where
  focus : t.focus = s.focus
  wf : MemOk s → MemOk t
  low : ∀ k < 2 ^ 34, Memory.read t.mem k = Memory.read s.mem k
  regs : ∀ q, SameRegisters (s.ctx q) (t.ctx q)
  others : ∀ q, ¬SamePlace s.focus q →
    (t.ctx q).phase = (s.ctx q).phase ∧ (t.ctx q).faultRec = (s.ctx q).faultRec ∧ (t.ctx q).run = (s.ctx q).run

theorem sameRegisters_refl (c : Ctx) : SameRegisters c c := by simp [SameRegisters]

theorem sameRegisters_trans {a b c : Ctx} (h : SameRegisters a b) (g : SameRegisters b c) : SameRegisters a c := by
  simp only [SameRegisters] at *; simp_all

@[simp] theorem FiringStep.refl (s : State) : FiringStep s s :=
  ⟨rfl, id, fun _ _ => rfl, fun _ => sameRegisters_refl _, fun _ _ => ⟨rfl, rfl, rfl⟩⟩

theorem FiringStep.trans {s t u : State} (h : FiringStep s t) (g : FiringStep t u) : FiringStep s u where
  focus := g.focus.trans h.focus
  wf := g.wf ∘ h.wf
  low k hk := (g.low k hk).trans (h.low k hk)
  regs q := sameRegisters_trans (h.regs q) (g.regs q)
  others q hq := by
    obtain ⟨a, b, c⟩ := h.others q hq
    obtain ⟨x, y, z⟩ := g.others q (h.focus ▸ hq)
    exact ⟨x.trans a, y.trans b, z.trans c⟩

/-- A change that leaves the focus, memory and every context. -/
theorem FiringStep.of_ctx {s t : State} (hf : t.focus = s.focus) (hm : t.mem = s.mem) (hc : ∀ q, t.ctx q = s.ctx q) : FiringStep s t where
  focus := hf
  wf := by simp [MemOk, hm]
  low _ _ := by rw [hm]
  regs q := by rw [hc]; exact sameRegisters_refl _
  others q _ := by simp [hc]

/-- A change that leaves the focus, memory and the tiles. -/
theorem FiringStep.of_tiles {s t : State} (hf : t.focus = s.focus) (hm : t.mem = s.mem) (ht : t.tiles = s.tiles) : FiringStep s t :=
  .of_ctx hf hm (State.ctx_of_tiles ht)

/-- Two states that differ in memory from the host's and the stacks' ranges on only. -/
theorem FiringStep.of_mem {s t : State} (hf : t.focus = s.focus) (hw : MemOk s → MemOk t)
    (hm : ∀ k < 2 ^ 34, Memory.read t.mem k = Memory.read s.mem k) (ht : t.tiles = s.tiles) : FiringStep s t where
  focus := hf
  wf := hw
  low := hm
  regs q := by rw [State.ctx_of_tiles ht]; exact sameRegisters_refl _
  others q _ := by simp [State.ctx_of_tiles ht]

/-! ### Dies, tiles and contexts -/

variable {s : State}

theorem frame_updDie (d : Nat) (f : Die → Die) : FiringStep s (s.updDie d f) := .of_tiles rfl rfl rfl

theorem frame_updTile (d t : Nat) (f : Tile → Tile) (h : ∀ x, (f x).ctxs = x.ctxs) : FiringStep s (s.updTile d t f) :=
  .of_ctx rfl rfl (s.ctx_updTile d t f h)

theorem State.ctx_setCtx_of_not_samePlace {p q : Place} (c : Ctx) (h : ¬SamePlace p q) : (s.setCtx p c).ctx q = s.ctx q := by
  simp only [State.ctx, State.setCtx, State.updTile]
  by_cases hk : q.die * 144 + q.tile = p.die * 144 + p.tile
  · have e (u : State) : u.tile q.die q.tile = u.tile p.die p.tile := by simp only [State.tile, hk]
    rw [e, e, State.tile_setTile]
    exact look_put_ne _ _ _ fun hc => h ⟨hk, hc⟩
  · rw [State.tile_setTile_ne s _ hk]

theorem State.ctx_of_samePlace {p q : Place} (h : SamePlace p q) : s.ctx q = s.ctx p := by
  simp only [State.ctx, State.tile, h.1, h.2]

/-- A change of the context in focus that leaves what software sees of it. -/
theorem frame_updCtx (f : Ctx → Ctx) (h : ∀ c, SameRegisters c (f c)) : FiringStep s (s.updCtx s.focus f) where
  focus := rfl
  wf := id
  low _ _ := rfl
  regs q := by
    by_cases hq : SamePlace s.focus q
    · rw [State.ctx_of_samePlace hq, State.ctx_of_samePlace hq, State.ctx_updCtx]; exact h _
    · rw [State.updCtx, State.ctx_setCtx_of_not_samePlace _ hq]; exact sameRegisters_refl _
  others q hq := by rw [State.updCtx, State.ctx_setCtx_of_not_samePlace _ hq]; exact ⟨rfl, rfl, rfl⟩

theorem frame_updRun (f : Run → Run) : FiringStep s (s.updRun s.focus f) := frame_updCtx _ fun c => by simp [SameRegisters]

/-- A change of the block in focus after other parts of firing. -/
theorem FiringStep.updRun {t : State} (h : FiringStep s t) (f : Run → Run) : FiringStep s (t.updRun s.focus f) :=
  h.trans (h.focus ▸ frame_updRun f)

theorem FiringStep.updDie {t : State} (h : FiringStep s t) (d : Nat) (f : Die → Die) : FiringStep s (t.updDie d f) := h.trans (frame_updDie d f)

/-! ### Messages and faults -/

theorem focus_of_onlyHubs {t : State} (h : OnlyHubs s t) : t.focus = s.focus := h.2.2.2.2.2.1

theorem frame_of_onlyHubs {t : State} (h : OnlyHubs s t) : FiringStep s t := .of_tiles (focus_of_onlyHubs h) h.1 h.2.2.1

theorem frame_send (a b : Nat) {x : Body} (h : Calm x) : FiringStep s (s.send a b x) := frame_of_onlyHubs (onlyHubs_send s a b h)

theorem frame_foldl {α : Type} (f : State → α → State) (hf : ∀ s x, FiringStep s (f s x)) (l : List α) : ∀ s, FiringStep s (l.foldl f s) := by
  induction l with
  | nil => exact FiringStep.refl
  | cons x l ih => exact fun s => (hf s x).trans (ih _)

theorem frame_noteError (d : Nat) (f : Option Cause) : FiringStep s (s.noteError d f) := by
  unfold State.noteError
  split
  · exact frame_updDie _ _
  · exact .refl s

theorem frame_withdraw (s : State) (p : Place) (v : Prov) : FiringStep s (s.withdraw p v) := by
  cases v
  case frame f => exact .of_ctx rfl rfl (withdraw_quiet s p (.frame f)).2.2
  case joined => exact .refl s
  all_goals exact frame_send _ _ fun _ _ h => nomatch h

theorem frame_dropOpen (s : State) (p : Place) (n k : Nat) : FiringStep s (s.dropOpen p n k) :=
  .of_ctx rfl (dropOpen_quiet s p n k).1 (dropOpen_quiet s p n k).2.2

theorem frame_abandon : FiringStep s (s.abandon s.focus) := by
  obtain ⟨u, hu, e⟩ : ∃ u, FiringStep s u ∧ s.abandon s.focus = u.updCtx s.focus fun c => { c with run := none } :=
    ⟨_, (frame_foldl _ (fun s (v : Nat × Prov) => frame_withdraw s _ v.2) _ s).trans
      (frame_foldl _ (fun s k => frame_dropOpen s _ _ k) _ _), rfl⟩
  rw [e, ← hu.focus]
  exact hu.trans (frame_updCtx _ fun c => by simp [SameRegisters])

/-- A change of the context in focus after other parts of firing. -/
theorem FiringStep.updCtx {t : State} (h : FiringStep s t) (f : Ctx → Ctx) (hf : ∀ c, SameRegisters c (f c)) :
    FiringStep s (t.updCtx s.focus f) := h.trans (h.focus ▸ frame_updCtx f hf)

theorem frame_raiseFault (r : FaultRec) : FiringStep s (s.raiseFault s.focus r) := by
  have h : FiringStep s { s.abandon s.focus with freeCtr := s.freeCtr + 1 } := frame_abandon.trans (.of_tiles rfl rfl rfl)
  exact (h.updCtx _ fun c => by simp [SameRegisters]).trans (frame_noteError _ _)

theorem FiringStep.faultAt {t : State} (h : FiringStep s t) (k : Option Nat) (c : Cause) (d0 d1 : Word64) :
    FiringStep s (t.faultAt s.focus k c d0 d1) := h.trans (h.focus ▸ frame_raiseFault _)

theorem frame_raiseAsync (k : Option Nat) (f : RecFault) : FiringStep s (s.raiseAsync s.focus k f) :=
  (frame_updCtx _ fun c => by simp [SameRegisters, Ctx.markRaised]).trans (frame_raiseFault (s := s.updCtx s.focus fun c => c.markRaised f) _)

/-! ### Results -/

theorem FiringStep.deliver {t : State} (h : FiringStep s t) (x : Option Nat) (n : Nat) (k : Token) : FiringStep s (t.deliver s.focus x n k) := by
  unfold State.deliver
  split
  · exact h
  · split
    · exact h
    · split
      · exact h.faultAt _ _ _ _
      · exact h.updRun _

theorem FiringStep.deliverAll (x : Option Nat) (ts : List Nat) : ∀ {t : State} (ks : List Token), FiringStep s t →
    FiringStep s (t.deliverAll s.focus x ts ks) := by
  induction ts with
  | nil => exact fun _ h => h
  | cons n ts ih =>
    intro t ks h
    match ks with
    | [] => exact h
    | [k] => exact ih _ (h.deliver x n k)
    | k :: k2 :: ks => exact ih _ (h.deliver x n k)

/-! ### Firing -/

/-- What an instruction does with its operands leaves what firing leaves. -/
def Act.Frames (s : State) : Act → Prop
  | .faultIn _ _ _ t | .stay t | .waitIn _ _ t | .done _ _ t => FiringStep s t
  | .fault _ _ _ | .async _ | .notYet | .wait _ _ => True

/-- A meaning of an instruction word that leaves what firing leaves. -/
def Framing (body : List Reg → State → Act) : Prop := ∀ vals s, (body vals s).Frames s

theorem frame_fire (h : Shape) {body : List Reg → State → Act} (hb : Framing body) (s : State) : FiringStep s (fire h body s) := by
  unfold fire
  split
  · exact .refl s
  · split
    · exact .refl s
    · exact (FiringStep.refl s).faultAt _ _ _ _
    · exact frame_updRun _
    · exact (frame_updRun _).deliverAll _ _ _
    · rename_i vals _
      have hv := hb vals s
      split <;> rename_i hx <;> simp only [hx, Act.Frames] at hv
      · exact (FiringStep.refl s).faultAt _ _ _ _
      · exact hv.faultAt _ _ _ _
      · exact frame_raiseAsync _ _
      · exact .refl s
      · exact hv
      · exact frame_updRun _
      · exact hv.updRun _
      · exact (hv.updRun _).deliverAll _ _ _

end Sys2Proof.Machine
end

section
/-! PROOFS that the operations which instruction words use on tables, frames, records and names leave what firing leaves. -/

namespace Sys2Proof.Machine

open Sys2Proof.Safety

/-! ### Memory of the stacks (11_tensor_access.md R170, R176) -/

theorem two_pow_le_hbmKey (m a : Nat) : 2 ^ 34 ≤ hbmKey m a := by unfold hbmKey; omega

theorem two_pow_le_entKey (e : Word64) (b : Nat) : 2 ^ 34 ≤ entKey e b := two_pow_le_hbmKey _ _

variable {s : State}

theorem frame_writeAt {k : Nat} (hk : 2 ^ 34 ≤ k) (bs : List Byte) : FiringStep s (s.writeAt k bs) :=
  .of_mem rfl (s.mem_wf_writeAt k bs) (fun j hj => Memory.read_writeN_out bs s.mem k j (.inl (by omega))) rfl

theorem frame_zeroAt {k : Nat} (hk : 2 ^ 34 ≤ k) (n : Nat) : FiringStep s (s.zeroAt k n) := by
  refine .of_mem rfl (s.mem_wf_zeroAt k n) (fun j hj => ?_) rfl
  have h := Memory.read_filter s.mem (fun c => !decide (k ≤ c ∧ c < k + n)) j
  have hj : (!decide (k ≤ j ∧ j < k + n)) = true := by
    simp only [Bool.not_eq_true', decide_eq_false_iff_not]; omega
  exact h.trans (if_pos hj)

/-- Bytes written beyond a key leave the byte at it. -/
theorem read_foldl_write (f : Nat → Nat) (l : List Host.Cell) {j : Nat} (hf : ∀ c ∈ l, j ≠ f c.1) : ∀ m,
    Memory.read (l.foldl (fun m c => Memory.write m (f c.1) c.2) m) j = Memory.read m j := by
  induction l with
  | nil => exact fun _ => rfl
  | cons c l ih =>
    intro m
    rw [List.foldl_cons, ih fun c hc => hf c (List.mem_cons_of_mem _ hc)]
    exact Memory.read_write_ne _ _ (hf c List.mem_cons_self)

theorem frame_copyFrame (a n : Nat) {b : Nat} (hb : 2 ^ 34 ≤ b) : FiringStep s (s.copyFrame a b n) := by
  refine .of_mem rfl (s.mem_wf_copyFrame a b n) (fun j hj => ?_) rfl
  exact (read_foldl_write (fun k => k - a + b) _ (fun c _ => show j ≠ c.1 - a + b by omega) _).trans ((frame_zeroAt (s := s) hb n).low j hj)

/-! ### Tables, translations and frames (R171, R172, R176) -/

theorem frame_updNd (d : Nat) (f : Nd → Nd) : FiringStep s (s.updNd d f) := frame_updDie _ _

theorem frame_updTd (d : Nat) (f : Td → Td) : FiringStep s (s.updTd d f) := frame_updDie _ _

theorem frame_setObj (id : BitVec 32) (o : Obj) : FiringStep s (s.setObj id o) := frame_updNd _ _

theorem frame_draw (n : Nat) : FiringStep s (s.draw n).2 := .of_tiles rfl rfl rfl

theorem frame_dropFrame (a b : Nat) : FiringStep s (s.dropFrame a b) := .of_tiles rfl rfl rfl

theorem Tile.ctxs_hold (t : Tile) (h : Holder) (x : Tr) : (t.hold h x).ctxs = t.ctxs := by cases h <;> rfl

theorem frame_walk (d t : Nat) (h : Holder) (id : BitVec 32) (j : Nat) : FiringStep s (s.walk d t h id j).2 :=
  (frame_updDie d _).trans (frame_updTile _ _ _ fun x => x.ctxs_hold h _)

theorem frame_translate (d t : Nat) (h : Holder) (id : BitVec 32) (j : Nat) : FiringStep s (s.translate d t h id j).2 := by
  unfold State.translate
  split
  · exact frame_updTile _ _ _ fun x => x.ctxs_hold h _
  · exact frame_walk d t h id j

theorem frame_translateAll (d t : Nat) (h : Holder) (id : BitVec 32) (l : List Nat) : ∀ s : State,
    FiringStep s (s.translateAll d t h id l).2 := by
  induction l with
  | nil => exact FiringStep.refl
  | cons j l ih => exact fun s => (frame_translate d t h id j).trans (ih _)

theorem State.ctx_invalidate (s : State) (id : BitVec 32) (j : Option Nat) (q : Place) : (s.invalidate id j).ctx q = s.ctx q := by
  have h := look_map ({} : Tile) (fun _ t => (t.invalidate (some id) j).forget id j) (fun _ => rfl) s.tiles (q.die * 144 + q.tile)
  simp only [State.ctx, State.tile, State.invalidate]
  rw [h]; rfl

theorem frame_invalidate (id : BitVec 32) (j : Option Nat) : FiringStep s (s.invalidate id j) :=
  .of_ctx rfl rfl (s.ctx_invalidate id j)

theorem frame_takeFrame {a u r : Nat} {f : Frame} {t : State} (h : s.takeFrame a u r = some (f, t)) : FiringStep s t := by
  unfold State.takeFrame at h
  simp only at h
  split at h
  · cases h
  · split at h <;> cases h
    exact .of_tiles rfl rfl rfl

theorem frame_cowIndex (id : BitVec 32) (j : Nat) : FiringStep s (s.cowIndex id j).2 := by
  unfold State.cowIndex
  simp only
  repeat' split
  · exact .refl s
  · exact (frame_setObj _ _).trans (frame_invalidate _ _)
  · exact .refl s
  · exact .refl s
  · rename_i h; exact (frame_takeFrame h).trans (.of_tiles rfl rfl rfl)

theorem frame_of_cowIndex {id : BitVec 32} {j : Nat} {c : CowStep} {t : State} (h : s.cowIndex id j = (c, t)) : FiringStep s t := by
  have := frame_cowIndex (s := s) id j; rwa [h] at this

theorem frame_cowAll (id : BitVec 32) (l : List Nat) : ∀ s : State, FiringStep s (s.cowAll id l).2 := by
  induction l with
  | nil => exact FiringStep.refl
  | cons j l ih =>
    intro s
    have h := frame_cowIndex (s := s) id j
    unfold State.cowAll
    split <;> rename_i e <;> rw [e] at h
    · exact h
    · exact h.trans (ih _)
    · exact h.trans (ih _)

theorem frame_finishCow (c : Cow) : FiringStep s (s.finishCow c) := by
  unfold State.finishCow
  simp only
  split
  · exact frame_dropFrame _ _
  · exact (((frame_copyFrame _ _ (two_pow_le_hbmKey _ _)).trans (frame_setObj _ _)).trans (frame_invalidate _ _)).trans (frame_dropFrame _ _)

/-! ### Objects written by firmware, event rings (22_task_dispatcher.md R296) -/

theorem frame_unshare {id : BitVec 32} {i : Nat} {t : State} (h : s.unshare id i = some t) : FiringStep s t := by
  unfold State.unshare at h
  simp only at h
  split at h
  · rename_i u e
    split at h <;> cases h
    · rename_i c _
      have hu : FiringStep u { u with cow := u.cow.filter fun x => x != c } := .of_tiles rfl rfl rfl
      exact (frame_of_cowIndex e).trans (hu.trans (frame_finishCow c))
    · exact frame_of_cowIndex e
  · cases h
  · rename_i e
    cases h
    exact frame_of_cowIndex e

theorem two_pow_le_objKey {id : BitVec 32} {i k : Nat} (h : s.objKey id i = some k) : 2 ^ 34 ≤ k := by
  unfold State.objKey at h
  simp only at h
  split at h <;> cases h
  have := two_pow_le_entKey (((s.objOf id).entry (Desc.locate (s.objOf id).desc (s.byteEl id i)).1))
    (Desc.locate (s.objOf id).desc (s.byteEl id i)).2
  exact Nat.le_trans this (Nat.le_add_right _ _)

theorem frame_objWrite (id : BitVec 32) (l : List Byte) : ∀ (s : State) (a : Nat), FiringStep s (s.objWrite id a l) := by
  induction l with
  | nil => exact fun s _ => .refl s
  | cons b l ih =>
    intro s a
    refine FiringStep.trans ?_ (ih _ (a + 1))
    split
    · exact .refl s
    · rename_i t ht
      split
      · rename_i k hk; exact (frame_unshare ht).trans (frame_writeAt (two_pow_le_objKey hk) _)
      · exact frame_unshare ht

theorem frame_post (r k : Nat) (a b c : Word64) : FiringStep s (s.post r k a b c) := by
  unfold State.post
  split
  · exact .refl s
  · exact ((frame_objWrite _ _ s _).trans (frame_objWrite _ _ _ _)).trans (.of_tiles rfl rfl rfl)

theorem frame_freeze (w : Master) (l : List Word64) (r : Nat) (x : Word64) : FiringStep s (s.freeze w l r x) :=
  FiringStep.trans (t := { s with frozen := s.frozen ++ [{ who := w, held := l }], freeCtr := s.freeCtr + 1 })
    (.of_tiles rfl rfl rfl) (frame_post _ _ _ _ _)

/-! ### Objects made (R171, R348) -/

theorem frame_makeFrames (d : Desc) (r : Nat) (l : List Nat) : ∀ {s : State} {x : List (Nat × Word64)} {t : State},
    s.makeFrames d r l = some (x, t) → FiringStep s t := by
  induction l with
  | nil => intro s x t h; cases h; exact .refl s
  | cons j l ih =>
    intro s x t h
    unfold State.makeFrames at h
    split at h
    · cases h
    · rename_i f u hf
      split at h
      · cases h
      · rename_i hl
        cases h
        exact ((frame_takeFrame hf).trans (frame_zeroAt (two_pow_le_hbmKey _ _) _)).trans (ih hl)

theorem frame_freeObj {d i : Nat} {t : State} (h : s.freeObj d = some (i, t)) : FiringStep s t := by
  unfold State.freeObj at h
  obtain ⟨k, -, e⟩ := Option.map_eq_some_iff.mp h
  cases e
  exact frame_draw objLimit

theorem frame_makeObj {d r : Nat} {x : Desc} {id : BitVec 32} {t : State} (h : s.makeObj d r x = .ok (id, t)) : FiringStep s t := by
  unfold State.makeObj at h
  split at h
  · cases h
  · split at h
    · cases h
    · rename_i hf
      split at h <;> cases h
      rename_i ho
      exact ((frame_makeFrames _ _ _ hf).trans (frame_freeObj ho)).trans (frame_setObj _ _)

/-! ### Records and instances claimed (22_task_dispatcher.md R287, R294) -/

theorem frame_setSlot (d n : Nat) (x : Slot) : FiringStep s (s.setSlot d n x) := frame_updTd _ _

theorem frame_claim {d n r a : Nat} {t : State} (h : s.claim d n r = some (a, t)) : FiringStep s t := by
  unfold State.claim at h
  simp only at h
  split at h
  · cases h
  · split at h <;> cases h
    exact (frame_draw 65536).trans (frame_foldl (fun t i => t.setSlot d (a + i) _) (fun s i => frame_setSlot _ _ _) _ _)

theorem frame_claimEach (r : Nat) (l : List Nat) : ∀ {s : State} {x : List (Nat × Nat)} {t : State},
    s.claimEach r l = some (x, t) → FiringStep s t := by
  induction l with
  | nil => intro s x t h; cases h; exact .refl s
  | cons d l ih =>
    intro s x t h
    unfold State.claimEach at h
    split at h
    · cases h
    · rename_i hc
      split at h <;> cases h
      rename_i hl
      exact (frame_claim hc).trans (ih hl)

/-- One more run of slots for the successor lists of a claim. -/
def claimRun (region : Nat) (o : Option (List (Nat × Nat × Nat) × State)) (x : Nat × Nat) : Option (List (Nat × Nat × Nat) × State) :=
  o.bind fun p => (p.2.claim x.1 x.2 region).map fun q => (p.1 ++ [(x.1, q.1, x.2)], q.2)

theorem foldl_claimRun_none (r : Nat) (l : List (Nat × Nat)) : l.foldl (claimRun r) none = none := by
  induction l with
  | nil => rfl
  | cons x l ih => exact ih

theorem frame_claimRuns (r : Nat) (l : List (Nat × Nat)) : ∀ {s : State} {a b : List (Nat × Nat × Nat)} {t : State},
    l.foldl (claimRun r) (some (a, s)) = some (b, t) → FiringStep s t := by
  induction l with
  | nil => intro s a b t h; cases h; exact .refl s
  | cons x l ih =>
    intro s a b t h
    rw [List.foldl_cons] at h
    cases hc : s.claim x.1 x.2 r with
    | none =>
      have e : claimRun r (some (a, s)) x = none := by simp [claimRun, hc]
      rw [e, foldl_claimRun_none] at h
      cases h
    | some q =>
      have e : claimRun r (some (a, s)) x = some (a ++ [(x.1, q.1, x.2)], q.2) := by simp [claimRun, hc]
      rw [e] at h
      exact (frame_claim (a := q.1) hc).trans (ih h)

theorem frame_claimInst {d r : Nat} {id : BitVec 32} {tab : List Word64} {q : Option (Nat × Nat)} {i : Inst} {t : State}
    (h : s.claimInst d r id tab q = some (i, t)) : FiringStep s t := by
  unfold State.claimInst at h
  simp only at h
  split at h
  · cases h
  · split at h
    · cases h
    · rename_i h1
      split at h
      · cases h
      · rename_i h2
        split at h <;> cases h
        rename_i h3
        exact (((frame_claimEach _ _ h1).trans (frame_claimEach _ _ h2)).trans (frame_claimRuns r _ h3)).trans (frame_updTd _ _)

/-! ### What a hub answers (26_nd_instructions.md R339) -/

/-- A hub's answer leaves what firing leaves. -/
abbrev AnswerFrames (s : State) (x : Result × Option Prov × State) : Prop := FiringStep s x.2.2

theorem answerFrames_mk {a : Result} {b : Option Prov} {t : State} (h : FiringStep s t) : AnswerFrames s (a, b, t) := h

theorem frame_hold (id : BitVec 32) : FiringStep s (s.hold id) := frame_setObj _ _

theorem frame_spawnClaim (d : Nat) (r : Vec) : AnswerFrames s (spawnClaim d r s) := by
  unfold spawnClaim
  split
  · exact .refl s
  · rename_i h; exact frame_claim h

theorem frame_closeAnswer (h : Word64) (r : Nat) : AnswerFrames s (closeAnswer h r s) := by
  unfold closeAnswer
  simp only
  split
  · exact .refl s
  · split
    · exact .refl s
    · exact frame_setObj _ _

theorem frame_bindAnswer (d : Nat) (k : Word64) (h : Option Word64) (r : Nat) : AnswerFrames s (bindAnswer d k h r s) := by
  unfold bindAnswer
  simp only
  split
  · exact .refl s
  · split
    · exact .refl s
    · refine answerFrames_mk ?_
      cases h
      · simp only [Option.map_none, Option.getD_none]; exact frame_updNd d _
      · simp only [Option.map_some, Option.getD_some]; exact (frame_updNd d _).trans (frame_hold _)

theorem frame_answerAsk (d : Nat) (r : Req) : AnswerFrames s (s.answerAsk d r) := by
  unfold State.answerAsk
  split
  · exact .refl s
  · exact frame_spawnClaim _ _
  · exact frame_closeAnswer _ _
  · exact frame_bindAnswer _ _ _ _
  all_goals exact .refl s

theorem frame_instClaim (d r : Nat) (id : BitVec 32) (tab : List Word64) : AnswerFrames s (instClaim d r id tab s) := by
  unfold instClaim
  split
  · exact .refl s
  · rename_i h; exact frame_claimInst h

theorem frame_txnClaim : AnswerFrames s (txnClaim s) := by
  unfold txnClaim
  simp only
  split
  · exact .refl s
  · exact answerFrames_mk ((frame_draw txnLimit).trans (frame_updNd _ _))

theorem frame_addAnswer (t k : Word64) (h : Reg) : AnswerFrames s (addAnswer t k h s) := by
  unfold addAnswer
  split
  · exact .refl s
  · simp only
    split
    · exact .refl s
    · refine answerFrames_mk ?_
      split
      · exact (frame_updNd (s := s) _ _).trans (frame_hold _)
      · exact frame_updNd (s := s) _ _

theorem frame_endAnswer (t : Word64) : AnswerFrames s (endAnswer t s) := by
  unfold endAnswer; split <;> exact .refl s

theorem frame_makeAnswer (d r : Nat) (x : Desc) : AnswerFrames s (makeAnswer d r x s) := by
  unfold makeAnswer
  split
  · exact .refl s
  · rename_i h; exact frame_makeObj h

/-! ### Debug halts (22_task_dispatcher.md R311) -/

theorem frame_debugHalt (d : Nat) : FiringStep s (s.debugHalt d) := by
  unfold State.debugHalt
  split
  · exact .refl s
  · exact (frame_updDie _ _).trans (frame_foldl (fun s e => s.send d e _) (fun s e => frame_send _ _ fun _ _ h => by cases h) _ _)

end Sys2Proof.Machine
end

section
/-! PROOFS that no instruction word writes a register or a local store when it fires (06_block_engine.md R93, R94, R367). -/

namespace Sys2Proof.Machine

open Sys2Proof.Safety

variable {s : State}

/-! ### What an instruction may do -/

@[simp] theorem frames_fault (c : Cause) (d0 d1 : Word64) : (Act.fault c d0 d1).Frames s := trivial

@[simp] theorem frames_flt (c : Cause) : (Act.flt c).Frames s := trivial

@[simp] theorem frames_async (f : RecFault) : (Act.async f).Frames s := trivial

@[simp] theorem frames_notYet : Act.notYet.Frames s := trivial

@[simp] theorem frames_wait (k : WaitKind) (d : Word64) : (Act.wait k d).Frames s := trivial

@[simp] theorem frames_done (outs : List Token) (op : Option CommitOp) : (Act.done outs op s).Frames s := FiringStep.refl s

@[simp] theorem frames_res (v : Reg) : (Act.res s v).Frames s := FiringStep.refl s

/-- An instruction that acts on what other parts of its firing leave. -/
theorem Act.Frames.of_step {t : State} (h : FiringStep s t) : ∀ {a : Act}, a.Frames t → a.Frames s
  | .faultIn _ _ _ _, g | .stay _, g | .waitIn _ _ _, g | .done _ _ _, g => h.trans g
  | .fault _ _ _, _ | .async _, _ | .notYet, _ | .wait _ _, _ => trivial

/-! The checks of addresses: each answers a fault, or nothing. -/

theorem frames_of_localCheck {ea : Int} {n k : Nat} {a : Act} (h : localCheck ea n k = some a) : a.Frames s := by
  unfold localCheck at h; split at h
  · cases h; trivial
  · split at h <;> cases h; trivial

theorem frames_of_laneCheck {t : Tag} {b : Int} {l : List Int} {a : Act} (h : laneCheck t b l = some a) : a.Frames s := by
  unfold laneCheck at h; dsimp only at h; split at h
  · cases h; trivial
  · split at h <;> cases h; trivial

theorem frames_of_sourceCheck {x n k : Nat} {a : Act} (h : sourceCheck x n k = some a) : a.Frames s := by
  unfold sourceCheck at h; split at h
  · cases h; trivial
  · split at h <;> cases h; trivial

theorem frames_of_payloadSource {x : Reg} {n : Nat} {a : Act} (h : payloadSource x n = some a) : a.Frames s := by
  unfold payloadSource at h; split at h
  · exact frames_of_sourceCheck h
  · cases h

theorem frames_of_sendCheck {x : Reg} {p q : Bool} {n : Nat} {a : Act} (h : sendCheck x p q n = some a) : a.Frames s := by
  unfold sendCheck at h; split at h
  · cases h; trivial
  · split at h
    · cases h; trivial
    · split at h <;> cases h; trivial

theorem frames_of_allowCheck {t : State} {w : Word64} {n : Nat} {a : Act} (h : allowCheck t w n = .error a) : a.Frames s := by
  unfold allowCheck at h; dsimp only at h; split at h
  · cases h; trivial
  · split at h <;> cases h; trivial

theorem frames_of_taskCheck {x : Reg} {b : Bool} {t : State} {a : Act} (h : taskCheck x b t = some a) : a.Frames s := by
  unfold taskCheck at h; split at h
  · cases h; trivial
  · split at h <;> cases h; trivial

theorem frames_of_imageCheck {n : Nat} {x : Word64} {a : Act} (h : imageCheck n x = some a) : a.Frames s := by
  unfold imageCheck at h; split at h
  · cases h; trivial
  · split at h <;> cases h; trivial

theorem frames_of_meAddress {x : Word64} {n k : Nat} {a : Act} (h : meAddress x n k = some a) : a.Frames s := by
  unfold meAddress at h; split at h
  · cases h; trivial
  · split at h <;> cases h; trivial

theorem frames_of_fenceStop {x : Ctx} {r : Run} {l : List Engine} {a : Act} (h : fenceStop x r l = some a) : a.Frames s := by
  induction l with
  | nil => cases h
  | cons g l ih =>
    unfold fenceStop at h; split at h
    · cases h; trivial
    · split at h
      · cases h; trivial
      · exact ih h

/-! The shared ways to be received, to ask and to wait. -/

@[simp] theorem frames_reserve (d : Nat) (op : CommitOp) : (s.reserve d op).Frames s := by
  unfold State.reserve
  split
  · trivial
  · split
    · simp
    · split
      · trivial
      · exact frame_updRun _

@[simp] theorem frames_command (e : Engine) (l : Nat) (c : Cmd) : (command e l c s).Frames s := by
  unfold command; dsimp only; split <;> simp

theorem frames_askHub {b : Body} (h : Calm b) (d : Nat) (op : CommitOp) (k : WaitKind) (w : Word64) : (askHub d b op k w s).Frames s := by
  unfold askHub
  split
  · trivial
  · split
    · trivial
    · exact (frame_send _ _ h).updRun _

theorem frames_askNow (op : CommitOp) {act : State → Result × Option Prov × State} (h : ∀ t, FiringStep s t → AnswerFrames t (act t)) :
    (askNow op act s).Frames s := by
  unfold askNow
  dsimp only
  split
  · trivial
  · split
    · trivial
    · have hu := frame_updRun (s := s) fun r => { r with asked := r.asked ++ [(s.index, op)] }
      exact (hu.trans (h _ hu)).trans (frame_send _ _ fun _ _ h => by cases h)

theorem frames_askAt (d : Nat) (op : CommitOp) (k : ReqKind) : (askAt d op k s).Frames s := by
  unfold askAt
  split
  · exact frames_askNow _ fun t _ => frame_answerAsk _ _
  · exact frames_askHub (fun _ _ h => by cases h) _ _ _ _

theorem frames_gated (b : Bool) (l : Nat) {k : Run → State → Act} (h : ∀ r, (k r s).Frames s) : (gated b l k s).Frames s := by
  unfold gated
  split
  · trivial
  · split
    · exact h _
    · trivial

@[simp] theorem frames_localLoad (l : Nat) (ea : Int) (n k : Nat) (f : List Byte → Reg) (r : Run) : (localLoad l ea n k f r s).Frames s := by
  unfold localLoad
  split
  · rename_i h; exact frames_of_localCheck h
  · split <;> simp

@[simp] theorem frames_localStore (ea : Int) (k : Nat) (l : List Byte) : (localStore ea k l s).Frames s := by
  unfold localStore
  split
  · rename_i h; exact frames_of_localCheck h
  · simp

theorem frames_meCommand (l : Nat) (b f : Bool) {o : Option Act} (h : ∀ a, o = some a → a.Frames s) (c : Cmd) :
    (meCommand l b f o c s).Frames s := by
  unfold meCommand
  split
  · trivial
  · split
    · trivial
    · split
      · exact h _ rfl
      · simp

@[simp] theorem frames_exitAct (n : Nat) (k : ExitKind) : (exitAct n k s).Frames s := by
  unfold exitAct
  split
  · trivial
  · split
    · exact frame_updRun _
    · trivial

/-! ### Through a generator (12_tae_instructions.md R181) -/

@[simp] theorem frames_genFault (g : Nat) (c : Cause) (d0 d1 : Word64) : (genFault g c d0 d1 s).Frames s :=
  frame_updTile _ _ _ fun _ => rfl

theorem frames_viaGen (g : Nat) (tags : Ag → Option Desc → Bool) (shape : Ag → Desc → Int → Bool) (w : Word64) (base : Ag → Int)
    (offs : Ag → Desc → List Int) {k : Ag → Obj → List C4 → State → Act} (h : ∀ a o l, (k a o l s).Frames s) :
    (viaGen g tags shape w base offs k s).Frames s := by
  unfold viaGen
  dsimp only
  repeat' split
  all_goals simp [h]

@[simp] theorem frames_tensorLoad (g l : Nat) (h : Holder) (t : BitVec 7) (x : Option Nat) (r : Run) (a : Ag) (o : Obj) (els : List C4) :
    (tensorLoad g l h t x r a o els s).Frames s := by
  unfold tensorLoad
  dsimp only
  split
  · simp
  · apply FiringStep.updRun
    exact frame_updTile _ _ _ fun _ => rfl

theorem frames_tensorWrite (g : Nat) (h : Holder) (b : Bool) (a : Ag) (o : Obj) (els : List C4) {k : State → Act}
    (hk : ∀ t, (k t).Frames t) : (tensorWrite g h b a o els k s).Frames s := by
  unfold tensorWrite
  dsimp only
  have h1 := frame_translateAll s.focus.die s.focus.tile h (hobj a.handle) (Desc.indices o.desc els) s
  split
  · trivial
  · split
    · exact Act.Frames.of_step h1 (frames_genFault _ _ _ _)
    · have h2 := h1.trans (frame_cowAll (hobj a.handle) (Desc.indices o.desc els) _)
      split <;> rename_i e <;> rw [e] at h2
      · exact Act.Frames.of_step h2 (frames_genFault _ _ _ _)
      · exact Act.Frames.of_step h2 (hk _)
      · exact h2

theorem frames_tensorAtomic (g n : Nat) (t : BitVec 7) (b : Bool) (c : Reg) (op : Word64 → C4 → CommitOp) :
    (tensorAtomic g n t b c op s).Frames s :=
  frames_viaGen _ _ _ _ _ _ fun _ _ _ => frames_tensorWrite _ _ _ _ _ _ fun _ => frames_reserve _ _

end Sys2Proof.Machine
end

section
/-! PROOFS that every instruction word leaves what firing leaves (06_block_engine.md R93, R94, R367). -/

namespace Sys2Proof.Machine

open Sys2Proof.Safety

/-! ### Values, exits and tests -/

theorem framing_unary (ok : Tag → Bool) (f : Reg → Reg) : Framing (unary ok f) := by
  intro v s; unfold unary; split
  · split <;> simp
  · simp

theorem framing_binary (ok : Tag → Tag → Bool) (f : Reg → Reg → Reg) : Framing (binary ok f) := by
  intro v s; unfold binary; split
  · split <;> simp
  · simp

theorem framing_plainExit (n : Nat) (k : State → ExitKind) : Framing (plainExit n k) := fun _ _ => frames_exitAct _ _

theorem framing_indirect (e : BitVec 3) (k : BitVec 32 → ExitKind) : Framing (indirect e k) := by
  intro v s; unfold indirect; split
  · split
    · simp
    · split <;> simp
  · simp

theorem framing_barrierExit (e : BitVec 3) (o : BitVec 20) : Framing (barrierExit e o) := by
  intro v s; unfold barrierExit; split <;> simp

theorem framing_mtsBody (n : Nat) : Framing (mtsBody n) := by
  intro v s; unfold mtsBody; split
  · split
    · simp
    · split <;> simp
  · simp

/-! ### Vectors: what they send comes from the operands and from `ROUND` and `SAT` -/

theorem framing_elementwise (ok : Tag → Bool) (ff : List FV → FV) (fi : Nat → List Nat → Int) : Framing (elementwise ok ff fi) := by
  intro v s; unfold elementwise; repeat' split
  all_goals simp

theorem framing_bitwise (f : Nat → Nat → Nat) : Framing (bitwise f) := by
  intro v s; unfold bitwise; repeat' split
  all_goals simp

theorem framing_compare (ff : FV → FV → Bool) (fi : Int → Int → Bool) : Framing (compare ff fi) := by
  intro v s; unfold compare; dsimp only; repeat' split
  all_goals simp

theorem framing_vselBody : Framing vselBody := by
  intro v s; unfold vselBody; dsimp only; repeat' split
  all_goals simp

theorem framing_transAct (op : Trans) : Framing (transAct op) := by
  intro v s; unfold transAct; repeat' split
  all_goals simp

theorem framing_reduceAct (ff : FV → FV → FV) (fi : Int → Int → Int) : Framing (reduceAct ff fi) := by
  intro v s; unfold reduceAct; dsimp only; repeat' split
  all_goals simp

theorem framing_vbcastBody (g : BitVec 4) : Framing (vbcastBody g) := by
  intro v s; unfold vbcastBody; dsimp only; repeat' split
  all_goals simp

theorem framing_vextBody : Framing vextBody := by
  intro v s; unfold vextBody; dsimp only; repeat' split
  all_goals simp

theorem framing_vinsBody : Framing vinsBody := by
  intro v s; unfold vinsBody; dsimp only
  split
  · rename_i a b c
    generalize (if a.tag.isFloatV = true then b.tag == .f32s else b.tag == .i64) = ok
    split <;> simp
  · simp

theorem framing_vpermBody : Framing vpermBody := by
  intro v s; unfold vpermBody; dsimp only; repeat' split
  all_goals simp

theorem framing_vrotBody : Framing vrotBody := by
  intro v s; unfold vrotBody; dsimp only; repeat' split
  all_goals simp

theorem framing_vpsumBody : Framing vpsumBody := by
  intro v s; unfold vpsumBody; dsimp only; repeat' split
  all_goals simp

theorem framing_vcvtBody (g : BitVec 4) : Framing (vcvtBody g) := by
  intro v s; unfold vcvtBody; dsimp only; repeat' split
  all_goals simp

theorem framing_vunpkBody (f h : BitVec 1) (q : BitVec 2) : Framing (vunpkBody f h q) := by
  intro v s; unfold vunpkBody; dsimp only; repeat' split
  all_goals simp

theorem framing_vpackBody (g : BitVec 4) : Framing (vpackBody g) := by
  intro v s; unfold vpackBody; dsimp only; repeat' split
  all_goals simp

theorem framing_vretagBody (g : BitVec 4) : Framing (vretagBody g) := by
  intro v s; unfold vretagBody; repeat' split
  all_goals simp

theorem framing_vqntBody (b : BitVec 3) : Framing (vqntBody b) := by
  intro v s; unfold vqntBody; split
  · dsimp only; split <;> simp
  · simp

theorem framing_vdqntBody (f : BitVec 1) (b : BitVec 3) : Framing (vdqntBody f b) := by
  intro v s; unfold vdqntBody; repeat' split
  all_goals simp

/-! ### The local store -/

theorem framing_ldlBody (l : BitVec 5) (g : BitVec 1) (z : BitVec 2) (i : BitVec 7) : Framing (ldlBody l g z i) := by
  intro v s; unfold ldlBody; split
  · exact frames_gated _ _ fun r => by split <;> simp
  · simp

theorem framing_vldlBody (l : BitVec 5) (g : BitVec 4) (i : BitVec 7) : Framing (vldlBody l g i) := by
  intro v s; unfold vldlBody; split
  · exact frames_gated _ _ fun r => by split <;> simp
  · simp

theorem framing_vgtlBody (l : BitVec 5) (g : BitVec 4) (i : BitVec 7) : Framing (vgtlBody l g i) := by
  intro v s; unfold vgtlBody; split
  · refine frames_gated _ _ fun r => ?_
    dsimp only
    split
    · simp
    · split
      · rename_i h; exact frames_of_laneCheck h
      · split <;> simp
  · simp

theorem framing_stlBody (z : BitVec 2) (i : BitVec 14) : Framing (stlBody z i) := by
  intro v s; unfold stlBody; dsimp only; repeat' split
  all_goals simp

theorem framing_vstlBody (i : BitVec 14) : Framing (vstlBody i) := by
  intro v s; unfold vstlBody; repeat' split
  all_goals simp

theorem framing_vsclBody (i : BitVec 14) : Framing (vsclBody i) := by
  intro v s; unfold vsclBody; split
  · dsimp only
    split
    · simp
    · split
      · rename_i h; exact frames_of_laneCheck h
      · simp
  · simp

theorem framing_amolBody (m : BitVec 4) (z : BitVec 1) (t : BitVec 7) : Framing (amolBody m z t) := by
  intro v s; unfold amolBody; split
  · dsimp only
    split
    · simp
    · split
      · rename_i h; exact frames_of_localCheck h
      · simp
  · simp

theorem framing_casLocalBody (z : BitVec 1) (t : BitVec 7) : Framing (casLocalBody z t) := by
  intro v s; unfold casLocalBody; split
  · dsimp only
    split
    · simp
    · split
      · rename_i h; exact frames_of_localCheck h
      · simp
  · simp

theorem framing_landBody (n : BitVec 6) : Framing (landBody n) := by
  intro v s; unfold landBody; dsimp only; repeat' split
  all_goals simp

theorem framing_fenceBody (l : BitVec 5) (e : BitVec 3) (o c : BitVec 2) : Framing (fenceBody l e o c) := by
  intro v s; unfold fenceBody; dsimp only
  split
  · simp
  · split
    · simp
    · split
      · rename_i h; exact frames_of_fenceStop h
      · simp

/-! ### Hubs and firmware -/

theorem framing_gsetBody (g : Nat) : Framing (gsetBody g) := by
  intro v s; unfold gsetBody; split
  · dsimp only
    repeat' split
    any_goals simp
    exact frames_askHub (fun _ _ h => by cases h) _ _ _ _
  · simp

theorem framing_twaitBody (e : Engine) : Framing (twaitBody e) := by
  intro v s; unfold twaitBody; dsimp only; repeat' split
  all_goals simp

theorem framing_mmaBody (k l g a : Nat) : Framing (mmaBody k l g a) := by
  intro v s; unfold mmaBody; split
  · exact frames_meCommand _ _ _ (fun _ => frames_of_meAddress) _
  · simp

theorem framing_tspawnBody (l : Nat) : Framing (tspawnBody l) := by
  intro v s; unfold tspawnBody; split
  · refine frames_gated _ _ fun r => ?_
    dsimp only
    repeat' split
    any_goals simp
    exact frames_askAt _ _ _
  · simp

theorem framing_ginstBody (l : Nat) : Framing (ginstBody l) := by
  intro v s; unfold ginstBody; split
  · refine frames_gated _ _ fun r => ?_
    dsimp only
    repeat' split
    any_goals simp
    exact frames_askNow _ fun t _ => frame_instClaim _ _ _ _
  · simp

theorem framing_nmakeBody (l : Nat) : Framing (nmakeBody l) := by
  intro v s; unfold nmakeBody; split
  · refine frames_gated _ _ fun r => ?_
    repeat' split
    any_goals simp
    exact frames_askNow _ fun t _ => frame_makeAnswer _ _ _
  · simp

theorem framing_svcBody : Framing svcBody := by
  intro v s; unfold svcBody; split
  · dsimp only
    repeat' split
    any_goals simp
    · exact frames_askNow _ fun t _ => .refl t
    · exact ((frame_updRun _).updCtx _ fun c => by simp [SameRegisters]).trans (frame_freeze _ _ _ _)
  · simp

theorem framing_ctxrsBody (l : Nat) : Framing (ctxrsBody l) := by
  intro v s; unfold ctxrsBody; split
  · refine frames_gated _ _ fun r => ?_
    repeat' split
    any_goals simp
    rename_i h; exact frames_of_imageCheck h
  · simp

theorem frames_reqReserve {s : State} (l : Nat) (w : Word64) (x : Reg) (n : Nat) (u : BitVec 1) (m i : Nat) :
    (reqReserve l w x n u m i s).Frames s := by
  unfold reqReserve
  dsimp only
  split
  · exact frames_of_payloadSource ‹_›
  · refine Act.Frames.of_step ?_ (frames_command _ _ _)
    apply FiringStep.updRun
    exact frame_updTile _ _ _ fun _ => rfl
  · simp

/-- The end of a transaction with its outcome's write entry reserved. -/
theorem frame_endReserved (w : Word64) (t : BitVec 7) (s : State) :
    FiringStep s (if t = 0x7F#7 then (endAnswer w s).2.2
      else (endAnswer w s).2.2.updRun (endAnswer w s).2.2.focus fun r => { r with reserved := r.reserved ++ [t.toNat] }) := by
  split
  · exact frame_endAnswer w
  · exact (frame_endAnswer w).trans (frame_updRun _)

/-! ### The table of instruction words -/

/-- Every instruction word fires in the one frame, with a meaning that leaves what firing leaves. -/
theorem exec_framing {i : Instr} (h : (encode i).isSome = true) :
    ∃ body, Framing body ∧ ∀ s, exec i s = .next (fire (shapeOf i s.index) body s) := by
  cases i with
  | add | sub | and | or | xor | andn | shl | shr | sra | rotl | min | max | minu | maxu | mul | mulh | mulhu | div | divu | rem | remu
  | adds | subs | teq | tne | tlt | tle | tltu | tleu | pand | por | mand | mor | mxor => exact ⟨_, framing_binary _ _, fun _ => rfl⟩
  | clz | ctz | popc | sext | zext | addi | andi | ori | xori | shli | shri | srai | mini | maxi | muli | teqi | tnei | tlti | tlei
  | tltui | tleui | tgti | tgei | pnot | mov | mov3 | mnot | mpop | mfirst => exact ⟨_, framing_unary _ _, fun _ => rfl⟩
  | bro | callo | ret | eret | texit | hret => exact ⟨_, framing_plainExit _ _, fun _ => rfl⟩
  | bri | calli => exact ⟨_, framing_indirect _ _, fun _ => rfl⟩
  | brb => exact ⟨_, framing_barrierExit _ _, fun _ => rfl⟩
  | mts => exact ⟨_, framing_mtsBody _, fun _ => rfl⟩
  | vadd | vsub | vmul | vmin | vmax | vabs | vneg | vshl | vshr | vsra | vadds | vsubs | vfma | vfms | vfnma =>
    exact ⟨_, framing_elementwise _ _ _, fun _ => rfl⟩
  | vand | vor | vxor => exact ⟨_, framing_bitwise _, fun _ => rfl⟩
  | vceq | vcne | vclt | vcle | vcgt | vcge => exact ⟨_, framing_compare _ _, fun _ => rfl⟩
  | vrcp | vrsq | vsqrt | vexp2 | vlog2 | vtanh => exact ⟨_, framing_transAct _, fun _ => rfl⟩
  | vrsum | vrmax | vrmin => exact ⟨_, framing_reduceAct _ _, fun _ => rfl⟩
  | vsel => exact ⟨_, framing_vselBody, fun _ => rfl⟩
  | vbcast => exact ⟨_, framing_vbcastBody _, fun _ => rfl⟩
  | vext => exact ⟨_, framing_vextBody, fun _ => rfl⟩
  | vins => exact ⟨_, framing_vinsBody, fun _ => rfl⟩
  | vperm => exact ⟨_, framing_vpermBody, fun _ => rfl⟩
  | vrot => exact ⟨_, framing_vrotBody, fun _ => rfl⟩
  | vpsum => exact ⟨_, framing_vpsumBody, fun _ => rfl⟩
  | vcvt => exact ⟨_, framing_vcvtBody _, fun _ => rfl⟩
  | vunpk => exact ⟨_, framing_vunpkBody _ _ _, fun _ => rfl⟩
  | vpack => exact ⟨_, framing_vpackBody _, fun _ => rfl⟩
  | vretag => exact ⟨_, framing_vretagBody _, fun _ => rfl⟩
  | vqnt => exact ⟨_, framing_vqntBody _, fun _ => rfl⟩
  | vdqnt => exact ⟨_, framing_vdqntBody _ _, fun _ => rfl⟩
  | ldl => exact ⟨_, framing_ldlBody _ _ _ _, fun _ => rfl⟩
  | vldl => exact ⟨_, framing_vldlBody _ _ _, fun _ => rfl⟩
  | vgtl => exact ⟨_, framing_vgtlBody _ _ _, fun _ => rfl⟩
  | stl => exact ⟨_, framing_stlBody _ _, fun _ => rfl⟩
  | vstl => exact ⟨_, framing_vstlBody _, fun _ => rfl⟩
  | vscl => exact ⟨_, framing_vsclBody _, fun _ => rfl⟩
  | amol => exact ⟨_, framing_amolBody _ _ _, fun _ => rfl⟩
  | casLocal => exact ⟨_, framing_casLocalBody _ _, fun _ => rfl⟩
  | land => exact ⟨_, framing_landBody _, fun _ => rfl⟩
  | fence => exact ⟨_, framing_fenceBody _ _ _ _, fun _ => rfl⟩
  | gset => exact ⟨_, framing_gsetBody _, fun _ => rfl⟩
  | twait => exact ⟨_, framing_twaitBody _, fun _ => rfl⟩
  | mma | mmaz | mmaq => exact ⟨_, framing_mmaBody _ _ _ _, fun _ => rfl⟩
  | tspawn => exact ⟨_, framing_tspawnBody _, fun _ => rfl⟩
  | ginst => exact ⟨_, framing_ginstBody _, fun _ => rfl⟩
  | nmake => exact ⟨_, framing_nmakeBody _, fun _ => rfl⟩
  | svc => exact ⟨_, framing_svcBody, fun _ => rfl⟩
  | ctxrs => exact ⟨_, framing_ctxrsBody _, fun _ => rfl⟩
  -- Constants, tests of state and commands: what they do ends in a fault, a wait, a result, or a command received.
  | trap | null | movi | genu | mfs | nop | viota | csetg | cpy | cpyw | cpym | deal | cpyt | cpytLand | tread | mplay | mrls | frput | tlbi =>
    refine ⟨_, fun v s => ?_, fun _ => rfl⟩
    repeat' split
    all_goals simp
  | sbind | frget | tjoin =>
    refine ⟨_, fun v s => ?_, fun _ => rfl⟩
    dsimp only
    repeat' split
    all_goals simp
  | bkpt =>
    refine ⟨_, fun v s => ?_, fun _ => rfl⟩
    split
    · simp
    · show FiringStep s _
      split
      · exact frame_debugHalt _
      · exact .refl s
  -- Accesses through a generator.
  | tldx | tldxOffset | tlds =>
    refine ⟨_, fun v s => ?_, fun _ => rfl⟩
    split
    · exact frames_gated _ _ fun r => frames_viaGen _ _ _ _ _ _ fun _ _ _ => frames_tensorLoad _ _ _ _ _ _ _ _ _
    · simp
  | tstx | tstxOffset | tsts | vamot =>
    refine ⟨_, fun v s => ?_, fun _ => rfl⟩
    split
    · exact frames_viaGen _ _ _ _ _ _ fun _ _ _ => frames_tensorWrite _ _ _ _ _ _ fun _ => frames_done _ _
    · simp
  | amot | casTensor =>
    refine ⟨_, fun v s => ?_, fun _ => rfl⟩
    split
    · exact frames_tensorAtomic _ _ _ _ _ _
    · simp
  -- Commands of the matrix engine and messages: checks that fault, then a command.
  | msetg | mldb | mlda =>
    refine ⟨_, fun v s => ?_, fun _ => rfl⟩
    split
    · exact frames_meCommand _ _ _ (fun _ => frames_of_meAddress) _
    · simp
  | mzero =>
    refine ⟨_, fun v s => ?_, fun _ => rfl⟩
    split
    · exact frames_meCommand _ _ _ (fun _ h => by cases h) _
    · simp
  | mst =>
    refine ⟨_, fun v s => ?_, fun _ => rfl⟩
    split
    · refine frames_meCommand _ _ _ (fun a ha => ?_) _
      split at ha
      · cases ha
      · exact frames_of_meAddress ha
    · simp
  | mseat =>
    refine ⟨_, fun v s => ?_, fun _ => rfl⟩
    dsimp only
    repeat' split
    any_goals simp
    exact frames_meCommand _ _ _ (fun _ h => by cases h) _
  | send | reply =>
    refine ⟨_, fun v s => ?_, fun _ => rfl⟩
    repeat' split
    any_goals simp
    · exact frames_of_sendCheck ‹_›
    · exact frames_of_payloadSource ‹_›
  | sendq =>
    refine ⟨_, fun v s => ?_, fun _ => rfl⟩
    repeat' split
    any_goals simp
    · exact frames_of_sendCheck ‹_›
    · exact frames_of_allowCheck ‹_›
    · exact frames_of_payloadSource ‹_›
  | req =>
    refine ⟨_, fun v s => ?_, fun _ => rfl⟩
    repeat' split
    any_goals simp
    · exact frames_of_sendCheck ‹_›
    · exact frames_of_allowCheck ‹_›
    · exact frames_reqReserve _ _ _ _ _ _ _
  | xput =>
    refine ⟨_, fun v s => ?_, fun _ => rfl⟩
    dsimp only
    repeat' split
    any_goals simp
    · exact frames_of_sendCheck ‹_›
    · exact frames_of_sourceCheck ‹_›
  | xamo =>
    refine ⟨_, fun v s => ?_, fun _ => rfl⟩
    repeat' split
    any_goals simp
    exact frames_of_sendCheck ‹_›
  | mbxset | xroute | xflush =>
    refine ⟨_, fun v s => ?_, fun _ => rfl⟩
    repeat' split
    any_goals simp
    exact frames_of_sourceCheck ‹_›
  | ctxsv =>
    refine ⟨_, fun v s => ?_, fun _ => rfl⟩
    dsimp only
    repeat' split
    any_goals simp
    exact frames_of_imageCheck ‹_›
  -- Requests to a hub.
  | tdec | tkill =>
    refine ⟨_, fun v s => ?_, fun _ => rfl⟩
    repeat' split
    any_goals simp
    exact frames_of_taskCheck ‹_›
  | tstat =>
    refine ⟨_, fun v s => ?_, fun _ => rfl⟩
    repeat' split
    any_goals simp
    · exact frames_of_taskCheck ‹_›
    · exact frames_askAt _ _ _
  | nclose | nbind | nqry =>
    refine ⟨_, fun v s => ?_, fun _ => rfl⟩
    repeat' split
    any_goals simp
    all_goals exact frames_askAt _ _ _
  | nopen | nsnap =>
    refine ⟨_, fun v s => ?_, fun _ => rfl⟩
    repeat' split
    any_goals simp
    exact frames_askHub (fun _ _ h => by cases h) _ _ _ _
  | ntxb =>
    refine ⟨_, fun v s => ?_, fun _ => rfl⟩
    split
    · simp
    · exact frames_askNow _ fun t _ => frame_txnClaim
  | ntxa =>
    refine ⟨_, fun v s => ?_, fun _ => rfl⟩
    repeat' split
    any_goals simp
    exact frames_askNow _ fun t _ => frame_addAnswer _ _ _
  | ntxx =>
    refine ⟨_, fun v s => ?_, fun _ => rfl⟩
    repeat' split
    any_goals simp
    exact frames_askNow _ fun t _ => frame_endAnswer _
  | ntxc p l t =>
    refine ⟨_, fun v s => ?_, fun _ => rfl⟩
    split
    · dsimp only
      split
      · simp
      · split
        · simp
        · split
          · simp
          · exact frames_askNow _ fun u _ => frame_endReserved _ _ _
    · simp
  | _ => cases h

/-- Every instruction word leaves what firing leaves. -/
theorem firingStep_of_exec {i : Instr} {s t : State} (h : (encode i).isSome = true) (e : exec i s = .next t) : FiringStep s t := by
  obtain ⟨body, hb, hx⟩ := exec_framing h
  cases (hx s).symm.trans e
  exact frame_fire _ hb s

/-- Places of the panel that name one entry are equal. -/
theorem SamePlace.eq {p q : Place} (hp : p.ok = true) (hq : q.ok = true) (h : SamePlace p q) : q = p := by
  obtain ⟨d, t, c⟩ := p
  obtain ⟨e, u, k⟩ := q
  simp only [Place.ok, decide_eq_true_eq, SamePlace] at hp hq h
  simp only [Place.mk.injEq]
  omega

/-- Settles O59: each meaning of an instruction word is in the relation `FiringStep`, and so is firing itself. -/
theorem firingFrame : Obligations.FiringFrame := by
  intro i s t hi he
  have h := firingStep_of_exec hi he
  exact ⟨h.low, h.regs, fun hs p hp hne => h.others p fun hsame => hne (hsame.eq hs hp)⟩

end Sys2Proof.Machine
end

section
/-! PROOFS that the operations which move no data leave memory as it is (03_memory_model.md R39). -/

namespace Sys2Proof.Machine

open Sys2Proof.Safety

/-- A fold of steps that leave memory leaves it. -/
theorem mem_foldl {α : Type} {f : State → α → State} (hf : ∀ s x, (f s x).mem = s.mem) (l : List α) (s : State) : (l.foldl f s).mem = s.mem := by
  induction l generalizing s with
  | nil => rfl
  | cons x l ih => exact (ih _).trans (hf s x)

/-- The same, of steps given by what they lead to. -/
theorem mem_foldl_of_eq {α : Type} {f : State → α → State} (hf : ∀ s x, ∃ t, f s x = t ∧ t.mem = s.mem) (l : List α) (s : State) :
    (l.foldl f s).mem = s.mem :=
  mem_foldl (fun s x => by obtain ⟨t, e, h⟩ := hf s x; rw [e, h]) l s

/-! ### Messages, timelines, faults and handlers -/

@[simp] theorem State.draw_mem (s : State) (n : Nat) : (s.draw n).2.mem = s.mem := rfl

@[simp] theorem State.readBlocks_mem (s : State) (l : List Nat) : (s.readBlocks l).mem = s.mem := rfl

@[simp] theorem State.haltHeard_mem (s : State) (d : Nat) (src : Nat) (regions : List Nat) : (s.haltHeard d src regions).mem = s.mem := rfl

@[simp] theorem State.haltOver_mem (s : State) (d : Nat) (src : Nat) : (s.haltOver d src).mem = s.mem := by
  unfold State.haltOver; split <;> simp

@[simp] theorem State.accept_mem (s : State) (d : Nat) (msg : Option (Nat × Nat × Nat)) (x0 : Body) : (s.accept d msg x0).mem = s.mem := by
  unfold State.accept; dsimp only; repeat' split
  all_goals simp

@[simp] theorem State.progress_mem (s : State) (d : Nat) (r : Nat) : (s.progress d r).mem = s.mem := rfl

@[simp] theorem State.noteError_mem (s : State) (d : Nat) (f : Option Cause) : (s.noteError d f).mem = s.mem := by
  unfold State.noteError; split <;> simp

@[simp] theorem State.completeIn_mem (s : State) (p : Place) (e : Engine) (n : Nat) (f : Option Cause) : (s.completeIn p e n f).mem = s.mem := rfl

@[simp] theorem State.complete_mem (s : State) (p : Place) (e : Engine) (n : Nat) (f : Option Cause) : (s.complete p e n f).mem = s.mem := by
  unfold State.complete; split <;> simp

@[simp] theorem State.fill_mem (s : State) (d : Nat) (t : Nat) (f : Fill) : (s.fill d t f).mem = s.mem := rfl

@[simp] theorem State.withdraw_mem (s : State) (p : Place) (v : Prov) : (s.withdraw p v).mem = s.mem := by
  unfold State.withdraw; split <;> simp

@[simp] theorem State.dropOpen_mem (s : State) (p : Place) (serial : Nat) (index : Nat) : (s.dropOpen p serial index).mem = s.mem := rfl

@[simp] theorem State.abandon_mem (s : State) (p : Place) : (s.abandon p).mem = s.mem := (abandon_spec s p).1

@[simp] theorem State.raiseFault_mem (s : State) (p : Place) (r : FaultRec) : (s.raiseFault p r).mem = s.mem := by simp [State.raiseFault]

@[simp] theorem State.startHandler_mem (s : State) (p : Place) (q : Start) (super : Bool) : (s.startHandler p q super).mem = s.mem := rfl

@[simp] theorem State.startTrap_mem (s : State) (p : Place) (r : FaultRec) : (s.startTrap p r).mem = s.mem := rfl

@[simp] theorem State.resumeFaulted_mem (s : State) (p : Place) : (s.resumeFaulted p).mem = s.mem := by
  unfold State.resumeFaulted; dsimp only; split <;> simp

@[simp] theorem State.idleHandler_mem (s : State) (p : Place) : (s.idleHandler p).mem = s.mem := rfl

/-! ### Draws and special registers -/

@[simp] theorem State.see_mem (s : State) (p : Place) : (s.see p).mem = s.mem := rfl

/-! ### Firing -/

@[simp] theorem State.faultAt_mem (s : State) (p : Place) (index : Option Nat) (c : Cause) (d0 : Word64) (d1 : Word64) :
    (s.faultAt p index c d0 d1).mem = s.mem := by simp [State.faultAt]

@[simp] theorem State.raiseAsync_mem (s : State) (p : Place) (index : Option Nat) (f : RecFault) :
    (s.raiseAsync p index f).mem = s.mem := by simp [State.raiseAsync]

@[simp] theorem State.deliver_mem (s : State) (p : Place) (sender : Option Nat) (t : Nat) (k : Token) : (s.deliver p sender t k).mem = s.mem := by
  unfold State.deliver; repeat' split
  all_goals simp

@[simp] theorem State.deliverAll_mem (s : State) (p : Place) (sender : Option Nat) (x0 : List Nat) (x1 : List Token) :
    (s.deliverAll p sender x0 x1).mem = s.mem := by
  induction x0 generalizing s x1 with
  | nil => rfl
  | cons t ts ih =>
    match x1 with
    | [] => rfl
    | [k] => exact (ih _ _).trans (s.deliver_mem p sender t k)
    | k :: k2 :: ks => exact (ih _ _).trans (s.deliver_mem p sender t k)

/-! ### Objects, frames and translations -/

@[simp] theorem State.setObj_mem (s : State) (id : BitVec 32) (o : Obj) : (s.setObj id o).mem = s.mem := rfl

theorem State.takeFrame_mem {s : State} {stack : Nat} {units : Nat} {r : Nat} {a t} (h : s.takeFrame stack units r = some (a, t)) :
    t.mem = s.mem := by
  unfold State.takeFrame at h
  simp only at h
  split at h
  · cases h
  · split at h <;> cases h
    rfl

@[simp] theorem State.dropFrame_mem (s : State) (stack : Nat) (no : Nat) : (s.dropFrame stack no).mem = s.mem := rfl

@[simp] theorem State.walk_mem (s : State) (d : Nat) (t : Nat) (h : Holder) (obj : BitVec 32) (j : Nat) : (s.walk d t h obj j).2.mem = s.mem := rfl

@[simp] theorem State.translate_mem (s : State) (d : Nat) (t : Nat) (h : Holder) (obj : BitVec 32) (j : Nat) :
    (s.translate d t h obj j).2.mem = s.mem := by
  unfold State.translate; split <;> simp

@[simp] theorem State.translateAll_mem (s : State) (d : Nat) (t : Nat) (h : Holder) (obj : BitVec 32) (x0 : List Nat) :
    (s.translateAll d t h obj x0).2.mem = s.mem := by
  induction x0 generalizing s with
  | nil => rfl
  | cons j l ih => exact (ih _).trans (s.translate_mem d t h obj j)

@[simp] theorem State.invalidate_mem (s : State) (obj : BitVec 32) (j : Option Nat) : (s.invalidate obj j).mem = s.mem := rfl

@[simp] theorem State.dropWindows_mem (s : State) (own : Owner) : (s.dropWindows own).mem = s.mem := rfl

@[simp] theorem State.cowIndex_mem (s : State) (id : BitVec 32) (j : Nat) : (s.cowIndex id j).2.mem = s.mem := by
  unfold State.cowIndex
  simp only
  repeat' split
  any_goals rfl
  have e := State.takeFrame_mem ‹_›
  exact e

@[simp] theorem State.cowAll_mem (s : State) (id : BitVec 32) (x0 : List Nat) : (s.cowAll id x0).2.mem = s.mem := by
  induction x0 generalizing s with
  | nil => rfl
  | cons j l ih =>
    have h := s.cowIndex_mem id j
    unfold State.cowAll
    split <;> rename_i e <;> rw [e] at h
    · exact h
    · exact (ih _).trans h
    · exact (ih _).trans h

/-! ### Streams -/

@[simp] theorem State.popAt_mem (s : State) (d : Nat) (t : Nat) (g : Nat) (k : Nat) : (s.popAt d t g k).2.mem = s.mem := by
  unfold State.popAt; dsimp only; repeat' split
  all_goals simp

/-! ### Records, instances and the ends of tasks -/

@[simp] theorem State.setSlot_mem (s : State) (d : Nat) (n : Nat) (x : Slot) : (s.setSlot d n x).mem = s.mem := rfl

@[simp] theorem State.freeSlot_mem (s : State) (d : Nat) (n : Nat) : (s.freeSlot d n).mem = s.mem := rfl

@[simp] theorem State.updRaw_mem (s : State) (d : Nat) (n : Nat) (f : Vec → Vec) : (s.updRaw d n f).mem = s.mem := rfl

@[simp] theorem State.setStateOf_mem (s : State) (d : Nat) (n : Nat) (st : Nat) : (s.setStateOf d n st).mem = s.mem := rfl

theorem State.claim_mem {s : State} {d : Nat} {n : Nat} {r : Nat} {a t} (h : s.claim d n r = some (a, t)) : t.mem = s.mem := by
  unfold State.claim at h
  simp only at h
  split at h
  · cases h
  · split at h <;> cases h
    exact mem_foldl (fun _ _ => by rfl) _ _

theorem State.claimEach_mem {s : State} {r : Nat} {x0 : List Nat} {a t} (h : s.claimEach r x0 = some (a, t)) : t.mem = s.mem := by
  induction x0 generalizing s a t with
  | nil => cases h; rfl
  | cons d l ih =>
    unfold State.claimEach at h
    split at h
    · cases h
    · split at h <;> cases h
      exact (ih ‹_›).trans (State.claim_mem ‹_›)

@[simp] theorem State.ref_mem (s : State) (region : Nat) (h : Word64) : (s.ref region h).mem = s.mem := by
  unfold State.ref; split <;> simp

@[simp] theorem State.unref_mem (s : State) (region : Nat) (h : Word64) : (s.unref region h).mem = s.mem := by
  unfold State.unref; split <;> simp

@[simp] theorem State.sendDec_mem (s : State) (d : Nat) (source : BitVec 32) (region : Nat) (target : BitVec 32) (n : Nat) (final : Bool) :
    (s.sendDec d source region target n final).mem = s.mem := by simp [State.sendDec]

@[simp] theorem State.sendKill_mem (s : State) (d : Nat) (target : BitVec 32) (sub : Bool) (policy : Bool) :
    (s.sendKill d target sub policy).mem = s.mem := by simp [State.sendKill]

@[simp] theorem State.freeSlots_mem (s : State) (l : List (Nat × Nat)) : (s.freeSlots l).mem = s.mem := mem_foldl (fun _ _ => by simp) _ _

@[simp] theorem State.dropRefs_mem (s : State) (region : Nat) (l : List Word64) : (s.dropRefs region l).mem = s.mem := by
  simp [State.dropRefs, mem_foldl]

@[simp] theorem State.releaseInst_mem (s : State) (d : Nat) (n : Nat) : (s.releaseInst d n).mem = s.mem := by
  unfold State.releaseInst; dsimp only; repeat' split
  all_goals simp

@[simp] theorem State.preemptAll_mem (s : State) (d : Nat) (t : Nat) (e : Engine) (l : List (Nat × Nat)) : (s.preemptAll d t e l).mem = s.mem := by
  simp [State.preemptAll, mem_foldl]

@[simp] theorem State.dropTxnsOf_mem (s : State) (p : Place) (run : Nat) : (s.dropTxnsOf p run).mem = s.mem := rfl

@[simp] theorem State.dropTxns_mem (s : State) (p : Place) : (s.dropTxns p).mem = s.mem := rfl

@[simp] theorem State.dropRun_mem (s : State) (p : Place) (run : Nat) : (s.dropRun p run).mem = s.mem := rfl

@[simp] theorem State.dropRuns_mem (s : State) (d : Nat) (t : Nat) : (s.dropRuns d t).mem = s.mem := mem_foldl (fun _ _ => by simp) _ _

@[simp] theorem State.dropSaved_mem (s : State) (d : Nat) (n : Nat) : (s.dropSaved d n).mem = s.mem := by
  refine mem_foldl (fun s v => ?_) _ _
  refine mem_foldl (fun s x => ?_) _ _
  exact mem_foldl (fun s c => by simp) _ _

@[simp] theorem State.disown_mem (s : State) (d : Nat) (t : Nat) : (s.disown d t).mem = s.mem := rfl

@[simp] theorem State.resetTile_mem (s : State) (d : Nat) (t : Nat) : (s.resetTile d t).mem = s.mem := by
  unfold State.resetTile
  simp only [State.updTile_mem, State.disown_mem, State.updDie_mem]
  rw [mem_foldl]
  · simp only [State.preemptAll_mem, State.dropRuns_mem]
    exact mem_foldl (fun s c => by simp) _ _
  · intro s e
    split <;> rfl

@[simp] theorem State.releaseTiles_mem (s : State) (d : Nat) (id : BitVec 32) : (s.releaseTiles d id).mem = s.mem := by
  simp [State.releaseTiles, mem_foldl, apply_ite State.mem]

@[simp] theorem State.tearDown_mem (s : State) (d : Nat) (n : Nat) : (s.tearDown d n).mem = s.mem := by
  unfold State.tearDown; dsimp only; split <;> simp [mem_foldl, apply_ite State.mem]

@[simp] theorem State.settleLadders_mem (s : State) : (s.settleLadders).mem = s.mem := rfl

@[simp] theorem State.cutRuns_mem (s : State) (d : Nat) (n : Nat) : (s.cutRuns d n).mem = s.mem := by
  simp [State.cutRuns, mem_foldl, apply_ite State.mem]

@[simp] theorem State.unask_mem (s : State) (d : Nat) (n : Nat) : (s.unask d n).mem = s.mem := by
  unfold State.unask; dsimp only; split <;> simp [mem_foldl, apply_ite State.mem]

@[simp] theorem State.writeList_mem (s : State) (d : Nat) (a : Nat) (bs : List Byte) :
    (s.writeList d a bs).mem = s.mem := mem_foldl (fun _ _ => by simp) _ _

@[simp] theorem State.copyInst_mem (s : State) (d : Nat) (i : Inst) : (s.copyInst d i).2.mem = s.mem := by
  unfold State.copyInst; dsimp only
  refine (mem_foldl (fun s j => by simp) _ _).trans ((mem_foldl (fun s k => ?_) _ _).trans (mem_foldl (fun _ _ => by rfl) _ _))
  split <;> rfl

@[simp] theorem State.withdrawInst_mem (s : State) (d : Nat) (n : Nat) : (s.withdrawInst d n).mem = s.mem := by
  unfold State.withdrawInst; split <;> simp

@[simp] theorem State.decDone_mem (s : State) (x : Dec) : (s.decDone x).mem = s.mem := by
  unfold State.decDone; dsimp only; repeat' split
  all_goals simp

/-! ### Read entries -/

@[simp] theorem State.portFault_mem (s : State) (p : Place) (g : Nat) (c : Cause) (j : Word64) :
    (s.portFault p g c j).mem = s.mem := by simp [State.portFault]

@[simp] theorem State.popEntry_mem (s : State) (p : Place) (g : Nat) (target : Nat) (r : Run) : (s.popEntry p g target r).mem = s.mem := by
  unfold State.popEntry; dsimp only; repeat' split
  all_goals simp

@[simp] theorem State.readEntries_mem (s : State) (p : Place) (x0 : List Nat) : (s.readEntries p x0).mem = s.mem := by
  induction x0 generalizing s with
  | nil => rfl
  | cons j l ih =>
    unfold State.readEntries
    split
    · rfl
    · dsimp only
      rw [ih]
      repeat' split
      all_goals simp

/-! ### Cards and mailboxes -/

@[simp] theorem State.mseDone_mem (s : State) (p : Place) (num : Nat) (f : Option Cause) : (s.mseDone p num f).mem = s.mem := by
  unfold State.mseDone; split <;> simp

@[simp] theorem State.cardDone_mem (s : State) (p : Place) (num : Nat) (f : Option Cause) : (s.cardDone p num f).mem = s.mem := by
  unfold State.cardDone; dsimp only; repeat' split
  all_goals simp

@[simp] theorem State.cardFinish_mem (s : State) (d : Nat) (m : MeshCard) : (s.cardFinish d m).mem = s.mem := by
  unfold State.cardFinish; split <;> simp

@[simp] theorem State.leave_mem (s : State) (p : Place) (c : Card) : (s.leave p c).mem = s.mem := by
  unfold State.leave; dsimp only; repeat' split
  all_goals simp

@[simp] theorem State.returnCons_mem (s : State) (d : Nat) (t : Nat) (m : Nat) (i : Nat) :
    (s.returnCons d t m i).mem = s.mem := by simp [State.returnCons]

@[simp] theorem State.grown_mem (s : State) (d : Nat) (t : Nat) (m : Nat) (i : Nat) : (s.grown d t m i).mem = s.mem := by
  simp [State.grown, mem_foldl, apply_ite State.mem]

@[simp] theorem State.consume_mem (s : State) (d : Nat) (t : Nat) (m : Nat) (hw1 : Word64) (n : Nat) : (s.consume d t m hw1 n).mem = s.mem := by
  unfold State.consume; dsimp only; split <;> simp

@[simp] theorem State.skipPad_mem (s : State) (d : Nat) (t : Nat) (m : Nat) : (s.skipPad d t m).mem = s.mem := by
  unfold State.skipPad; dsimp only; split <;> simp

@[simp] theorem State.passCards_mem (s : State) (d : Nat) (t : Nat) (m : Nat) (x0 : Nat) : (s.passCards d t m x0).mem = s.mem := by
  induction x0 generalizing s with
  | zero => rfl
  | succ n ih =>
    unfold State.passCards
    dsimp only
    split
    · rfl
    · rw [ih]; simp

@[simp] theorem State.frput_mem (s : State) (d : Nat) (t : Nat) (sel : Word64) (n : Word64) : (s.frput d t sel n).mem = s.mem := by
  unfold State.frput; dsimp only; repeat' split
  all_goals simp

/-! ### What hubs answer -/

@[simp] theorem spawnClaim_mem (d : Nat) (r : Vec) (s : State) : (spawnClaim d r s).2.2.mem = s.mem := by
  unfold spawnClaim
  split
  · rfl
  · exact State.claim_mem ‹_›

@[simp] theorem State.hold_mem (s : State) (id : BitVec 32) : (s.hold id).mem = s.mem := rfl

@[simp] theorem State.letGo_mem (s : State) (id : BitVec 32) : (s.letGo id).mem = s.mem := rfl

@[simp] theorem closeAnswer_mem (h : Word64) (r : Nat) (s : State) : (closeAnswer h r s).2.2.mem = s.mem := by
  unfold closeAnswer; repeat' split
  all_goals simp

@[simp] theorem bindAnswer_mem (d : Nat) (key : Word64) (h : Option Word64) (r : Nat) (s : State) : (bindAnswer d key h r s).2.2.mem = s.mem := by
  unfold bindAnswer
  dsimp only
  split
  · rfl
  · split
    · rfl
    · cases h <;> rfl

@[simp] theorem State.answerAsk_mem (s : State) (d : Nat) (r : Req) : (s.answerAsk d r).2.2.mem = s.mem := by
  unfold State.answerAsk; split <;> simp

@[simp] theorem State.serveAsk_mem (s : State) (d : Nat) (r : Req) : (s.serveAsk d r).mem = s.mem := by simp [State.serveAsk]

@[simp] theorem State.serveAsks_mem (s : State) (d : Nat) : (s.serveAsks d).mem = s.mem := by
  simp [State.serveAsks, mem_foldl]

/-! ### Objects made -/

theorem State.freeObj_mem {s : State} {d : Nat} {a t} (h : s.freeObj d = some (a, t)) : t.mem = s.mem := by
  unfold State.freeObj at h
  obtain ⟨k, -, e⟩ := Option.map_eq_some_iff.mp h
  cases e
  rfl

@[simp] theorem txnClaim_mem (s : State) : (txnClaim s).2.2.mem = s.mem := by
  unfold txnClaim; dsimp only; split <;> simp

@[simp] theorem State.updTxn_mem (s : State) (d : Nat) (t : Nat) (f : Txn → Txn) : (s.updTxn d t f).mem = s.mem := rfl

@[simp] theorem addAnswer_mem (t : Word64) (key : Word64) (h : Reg) (s : State) : (addAnswer t key h s).2.2.mem = s.mem := by
  unfold addAnswer; dsimp only; repeat' split
  all_goals simp

@[simp] theorem endAnswer_mem (t : Word64) (s : State) : (endAnswer t s).2.2.mem = s.mem := by
  unfold endAnswer; split <;> simp

/-! ### Names, binds and transactions -/

@[simp] theorem State.answerReq_mem (s : State) (d : Nat) (p : Place) (serial : Nat) (index : Nat) (r : Result) (v : Option Prov) :
    (s.answerReq d p serial index r v).mem = s.mem := by simp [State.answerReq]

@[simp] theorem State.undo_mem (s : State) (x0 : Prov) : (s.undo x0).mem = s.mem := by
  cases x0
  case bind k o r => cases o <;> rfl
  all_goals simp [State.undo]

@[simp] theorem State.undoTxn_mem (s : State) (d : Nat) (x0 : Prov) : (s.undoTxn d x0).mem = s.mem := by
  unfold State.undoTxn; dsimp only; repeat' split
  all_goals simp

/-- `openBound` written out. It is stated of the function as a whole: applied to arguments, the kernel would evaluate the check of the handle. -/
theorem State.openBound_def : @State.openBound = fun s d obj w =>
    match s.reach w.region (handleOf obj (s.objOf obj).inc) with
    | none => s.answerReq d w.place w.serial w.index (.refused .rights) none
    | some _ => (s.ref w.region (handleOf obj (s.objOf obj).inc)).answerReq d w.place w.serial w.index
      (.tokens (.val (Reg.ofH (handleOf obj (s.objOf obj).inc))) (some (.val (Reg.ofW 0#64)))) (some (.openRef obj w.region)) := rfl

/-- What `openBound` leaves is an answer, with a reference taken before or not. -/
theorem State.openBound_cases {P : State → Prop} (s : State) (d : Nat) (obj : BitVec 32) (w : Opener)
    (no : ∀ r v, P (s.answerReq d w.place w.serial w.index r v))
    (yes : ∀ k r v, P ((s.ref w.region k).answerReq d w.place w.serial w.index r v)) : P (s.openBound d obj w) := by
  rw [State.openBound_def]
  beta_reduce
  cases s.reach w.region (handleOf obj (s.objOf obj).inc)
  · exact no _ _
  · exact yes _ _ _

@[simp] theorem State.openBound_mem (s : State) (d : Nat) (obj : BitVec 32) (w : Opener) : (s.openBound d obj w).mem = s.mem :=
  s.openBound_cases (P := fun t => t.mem = s.mem) d obj w (fun _ _ => s.answerReq_mem _ _ _ _ _ _)
    fun _ _ _ => (State.answerReq_mem _ _ _ _ _ _ _).trans (s.ref_mem _ _)

@[simp] theorem State.openNone_mem (s : State) (d : Nat) (w : Opener) (status : Nat) :
    (s.openNone d w status).mem = s.mem := by rw [State.openNone, State.answerReq_mem]

@[simp] theorem State.serve_mem (s : State) (d : Nat) (key : Word64) : (s.serve d key).mem = s.mem := by
  unfold State.serve
  split
  · rfl
  · split
    · rfl
    · exact (mem_foldl_of_eq (fun s w => ⟨_, rfl, s.openBound_mem d _ w⟩) _ _).trans (State.updNd_mem _ _ _)
    · exact (mem_foldl (fun s w => s.openNone_mem d w 1) _ _).trans (State.updNd_mem _ _ _)

@[simp] theorem State.hostDone_mem (s : State) (fn : Nat) (q : Nat) (seq : Nat) (status : Nat) (w1 : Word64) (w2 : Word64) :
    (s.hostDone fn q seq status w1 w2).mem = s.mem := rfl

@[simp] theorem State.hostStatus_mem (s : State) (fn : Nat) (q : Nat) (seq : Nat) (status : Nat) : (s.hostStatus fn q seq status).mem = s.mem := rfl

@[simp] theorem State.hostOutcome_mem (s : State) (fn : Nat) (q : Nat) (seq : Nat) (code : Nat) : (s.hostOutcome fn q seq code).mem = s.mem := rfl

@[simp] theorem State.rebind_mem (s : State) (d : Nat) (x : Name) (obj : Option (BitVec 32)) (region : Nat) :
    (s.rebind d x obj region).mem = s.mem := by
  unfold State.rebind; split <;> simp

@[simp] theorem State.applyBind_mem (s : State) (d : Nat) (b : Bind) : (s.applyBind d b).mem = s.mem := by
  unfold State.applyBind; dsimp only; repeat' split
  all_goals simp

@[simp] theorem State.txnSettled_mem (s : State) (d : Nat) (t : Nat) : (s.txnSettled d t).mem = s.mem := by
  unfold State.txnSettled; repeat' split
  all_goals simp

@[simp] theorem State.txnDecide_mem (s : State) (d : Nat) (t : Nat) (commit : Bool) (code : Nat) (homes : List Nat) :
    (s.txnDecide d t commit code homes).mem = s.mem := by
  simp [State.txnDecide, mem_foldl]

@[simp] theorem State.prepareAll_mem (s : State) (d : Nat) (t : Nat) : (s.prepareAll d t).mem = s.mem := by
  unfold State.prepareAll; split <;> simp [mem_foldl, apply_ite State.mem]

theorem State.prepareName_mem {s : State} {d : Nat} {p : Prepare} {key : Word64} {h : Word64} {t} (h : s.prepareName d p key h = .ok t) :
    t.mem = s.mem := by
  unfold State.prepareName at h
  dsimp only at h
  split at h
  · cases h
  · split at h
    · cases h
    · split at h
      · cases h
      · cases h
        split <;> rfl

@[simp] theorem State.leavePrepared_mem (s : State) (d : Nat) (x : Name) (commit : Bool) : (s.leavePrepared d x commit).mem = s.mem := by
  simp [State.leavePrepared, mem_foldl, apply_ite State.mem]

@[simp] theorem State.applyDecision_mem (s : State) (d : Nat) (id : BitVec 32) (commit : Bool) : (s.applyDecision d id commit).mem = s.mem := by
  simp [State.applyDecision, mem_foldl]

@[simp] theorem State.askCoordinator_mem (s : State) (d : Nat) (x : Name) : (s.askCoordinator d x).mem = s.mem := by simp [State.askCoordinator]

@[simp] theorem State.ntxaCommit_mem (s : State) (p : Place) (t : Nat) (key : Word64) (h : Word64) : (s.ntxaCommit p t key h).mem = s.mem := by
  unfold State.ntxaCommit; dsimp only; split <;> simp

theorem State.snapshot_mem {s : State} {d : Nat} {region : Nat} {h : Word64} {a t} (h : s.snapshot d region h = .ok (a, t)) : t.mem = s.mem := by
  unfold State.snapshot at h
  split at h
  · cases h
  · split at h <;> cases h
    have e := State.freeObj_mem ‹_›
    exact e

@[simp] theorem State.hostBind_mem (s : State) (d : Nat) (fn : Nat) (q : Nat) (n : Nat) (key : Word64) (id : BitVec 32) (region : Nat) :
    (s.hostBind d fn q n key id region).mem = s.mem := by simp [State.hostBind]

/-! ### Contexts and barriers -/

@[simp] theorem State.releaseAgs_mem (s : State) (p : Place) : (s.releaseAgs p).mem = s.mem := rfl

@[simp] theorem State.endRun_mem (s : State) (p : Place) : (s.endRun p).mem = s.mem := rfl

@[simp] theorem State.dropWindowReq_mem (s : State) (p : Place) (serial : Nat) (index : Nat) : (s.dropWindowReq p serial index).mem = s.mem := rfl

@[simp] theorem State.waitOver_mem (s : State) (p : Place) (r : Run) (w : Wait) : (s.waitOver p r w).mem = s.mem := by
  unfold State.waitOver; repeat' split
  all_goals simp

@[simp] theorem State.passBarriers_mem (s : State) (d : Nat) (n : Nat) : (s.passBarriers d n).mem = s.mem := by
  unfold State.passBarriers
  dsimp only
  split
  · rfl
  · refine mem_foldl (fun s b => ?_) _ _
    exact mem_foldl (fun _ _ => by rfl) _ _

/-! ### Debug halts -/

@[simp] theorem State.count_mem (s : State) (i : Nat) : (s.count i).mem = s.mem := rfl

@[simp] theorem State.tellHalt_mem (s : State) (d : Nat) (on : Bool) (regions : List Nat) : (s.tellHalt d on regions).mem = s.mem := by
  simp [State.tellHalt, mem_foldl]

@[simp] theorem State.debugHalt_mem (s : State) (d : Nat) : (s.debugHalt d).mem = s.mem := by
  unfold State.debugHalt; split <;> simp

/-! ### The copy engine -/

@[simp] theorem State.ceIssue_mem (s : State) (p : Place) (num : Nat) (c : Cmd) : (s.ceIssue p num c).mem = s.mem := by
  unfold State.ceIssue; dsimp only; repeat' split
  all_goals simp

@[simp] theorem State.readWindow_mem (s : State) (d : Nat) (t : Nat) (own : List Owner) (region : Nat) (h : Word64) (els : List C4) :
    (s.readWindow d t own region h els).2.mem = s.mem := by
  unfold State.readWindow; split <;> simp

@[simp] theorem State.copyDone_mem (s : State) (d : Nat) (t : Nat) (e : CopyEntry) (f : Option Cause) :
    (s.copyDone d t e f).mem = s.mem := by simp [State.copyDone]

/-! ### The exchange unit -/

@[simp] theorem State.updDest_mem (s : State) (d : Nat) (n : Nat) (f : XDest → XDest) : (s.updDest d n f).mem = s.mem := rfl

@[simp] theorem State.xflush_mem (s : State) (d : Nat) (n : Nat) : (s.xflush d n).mem = s.mem := by
  unfold State.xflush; dsimp only; split <;> simp

@[simp] theorem State.xappend_mem (s : State) (d : Nat) (n : Nat) (r : XRec) : (s.xappend d n r).mem = s.mem := by
  unfold State.xappend; dsimp only; split <;> simp

@[simp] theorem State.recordFinal_mem (s : State) (d : Nat) (r : XRec) (f : Option Cause) :
    (s.recordFinal d r f).mem = s.mem := by simp [State.recordFinal]

@[simp] theorem State.dropRecord_mem (s : State) (d : Nat) (r : XRec) : (s.dropRecord d r).mem = s.mem := by
  unfold State.dropRecord; dsimp only; split <;> simp

@[simp] theorem State.returned_mem (s : State) (d : Nat) (r : XRec) : (s.returned d r).mem = s.mem := by
  unfold State.returned; split <;> simp

@[simp] theorem State.mseEnter_mem (s : State) (p : Place) (num : Nat) (c : MseCmd) (frame : Option Nat) :
    (s.mseEnter p num c frame).mem = s.mem := rfl

@[simp] theorem State.xroute_mem (s : State) (p : Place) (num : Nat) (h : Word64) (a : Nat) : (s.xroute p num h a).mem = s.mem := by
  unfold State.xroute; dsimp only; repeat' split
  all_goals simp

@[simp] theorem State.xflushIssue_mem (s : State) (p : Place) (num : Nat) (w : Word64) (a : Nat) : (s.xflushIssue p num w a).mem = s.mem := by
  simp [State.xflushIssue, mem_foldl]

@[simp] theorem State.mseIssue_mem (s : State) (p : Place) (num : Nat) (c : Cmd) : (s.mseIssue p num c).mem = s.mem := by
  unfold State.mseIssue; dsimp only; repeat' split
  all_goals simp

/-! ### The matrix engine -/

@[simp] theorem State.updMe_mem (s : State) (d : Nat) (t : Nat) (f : Me → Me) : (s.updMe d t f).mem = s.mem := rfl

@[simp] theorem State.meDone_mem (s : State) (d : Nat) (t : Nat) (e : MeEntry) (f : Option Cause) :
    (s.meDone d t e f).mem = s.mem := by simp [State.meDone]

@[simp] theorem State.meIssue_mem (s : State) (p : Place) (num : Nat) (c : Cmd) : (s.meIssue p num c).mem = s.mem := by
  unfold State.meIssue; dsimp only; repeat' split
  all_goals simp

@[simp] theorem State.playFails_mem (s : State) (d : Nat) (t : Nat) (e : MeEntry) (c : Cause) : (s.playFails d t e c).mem = s.mem := by
  unfold State.playFails; split <;> simp

@[simp] theorem State.meRecheck_mem (s : State) (d : Nat) (t : Nat) : (s.meRecheck d t).mem = s.mem := by
  simp [State.meRecheck, mem_foldl]

/-! ### Commit -/

@[simp] theorem State.rasPop_mem (s : State) (p : Place) : (s.rasPop p).2.mem = s.mem := by
  unfold State.rasPop; dsimp only; split <;> simp

@[simp] theorem State.setEntry_mem (s : State) (p : Place) (dst : BitVec 7) (v : Reg) : (s.setEntry p dst v).mem = s.mem := by
  unfold State.setEntry; split <;> simp

@[simp] theorem State.report_mem (s : State) (p : Place) : (s.report p).mem = s.mem := rfl

@[simp] theorem State.tlbi_mem (s : State) (p : Place) (scope : Nat) (h : Word64) (i : Word64) : (s.tlbi p scope h i).mem = s.mem := rfl

@[simp] theorem State.joinedOnce_mem (s : State) (id : BitVec 32) : (s.joinedOnce id).mem = s.mem := by
  unfold State.joinedOnce; dsimp only; repeat' split
  all_goals simp

@[simp] theorem State.ntxcTurn_mem (s : State) (p : Place) (t : Nat) (dst : BitVec 7) : (s.ntxcTurn p t dst).2.mem = s.mem := by
  unfold State.ntxcTurn; dsimp only; repeat' split
  all_goals simp

@[simp] theorem State.restoreCtx_mem (s : State) (p : Place) (n : Nat) (img : List Byte) : (s.restoreCtx p n img).mem = s.mem := rfl

@[simp] theorem State.takeNumber_mem (s : State) (p : Place) (e : Engine) : (s.takeNumber p e).2.mem = s.mem := rfl

@[simp] theorem State.engineCmd_mem (s : State) (p : Place) (e : Engine) (c : Cmd) : (s.engineCmd p e c).2.mem = s.mem := by
  unfold State.engineCmd; dsimp only; repeat' split
  all_goals simp

@[simp] theorem State.rebindPorts_mem (s : State) (p : Place) (x0 : CommitOp) : (s.rebindPorts p x0).mem = s.mem := by
  unfold State.rebindPorts; split <;> simp

theorem State.whenOwned_mem (s : State) (p : Place) (id : BitVec 32) (els : List C4) {k : State → State} (hk : ∀ t, (k t).mem = t.mem) :
    (s.whenOwned p id els k).2.mem = s.mem := by
  unfold State.whenOwned
  have h := s.cowAll_mem id (Desc.indices (s.objOf id).desc els)
  split
  · rfl
  · split <;> rename_i e <;> rw [e] at h
    · exact (hk _).trans h
    · exact h

@[simp] theorem State.appendsReady_mem (s : State) (p : Place) (x0 : List Append) : (s.appendsReady p x0).2.mem = s.mem := by
  induction x0 generalizing s with
  | nil => rfl
  | cons x l ih =>
    unfold State.appendsReady
    dsimp only
    have h (q : Bool × State) (hq : s.whenOwned p (hobj ((s.tile p.die p.tile).ag x.g).handle) (((s.tile p.die p.tile).ag x.g).elsAt x.k) id = q) :
        q.2.mem = s.mem := hq ▸ State.whenOwned_mem s p _ _ fun _ => rfl
    split <;> rename_i e
    · exact (ih _).trans (h _ e)
    · exact h _ e

/-! ### Messages and links -/

@[simp] theorem State.control_mem (s : State) (d : Nat) (dst : Nat) (cls : Nat) (b : Link) : (s.control d dst cls b).mem = s.mem := rfl

@[simp] theorem State.ack_mem (s : State) (d : Nat) (src : Nat) (cls : Nat) : (s.ack d src cls).mem = s.mem := rfl

@[simp] theorem State.completed_mem (s : State) (d : Nat) (src : Nat) (cls : Nat) (seq : Nat) : (s.completed d src cls seq).mem = s.mem := by
  unfold State.completed; dsimp only; repeat' split
  all_goals simp

@[simp] theorem State.tally_mem (s : State) (d : Nat) (g : Counters → Counters) : (s.tally d g).mem = s.mem := rfl

@[simp] theorem State.toMeld_mem (s : State) (d : Nat) (x : Frag) : (s.toMeld d x).mem = s.mem := by
  unfold State.toMeld; dsimp only; repeat' split
  all_goals simp

@[simp] theorem State.takeFrag_mem (s : State) (d : Nat) (x : Frag) : (s.takeFrag d x).mem = s.mem := by
  unfold State.takeFrag; dsimp only; repeat' split
  all_goals simp

@[simp] theorem State.takeLink_mem (s : State) (d : Nat) (x : Frag) (mtype : Nat) (bs : List Byte) : (s.takeLink d x mtype bs).mem = s.mem := by
  unfold State.takeLink; split <;> simp

@[simp] theorem State.deliverCard_mem (s : State) (d : Nat) (m : Msg) (c : Card) : (s.deliverCard d m c).mem = s.mem := by
  unfold State.deliverCard; dsimp only; repeat' split
  all_goals simp

@[simp] theorem State.release_mem (s : State) (d : Nat) (r : Ret) (f : Option Cause) : (s.release d r f).mem = s.mem := by
  unfold State.release; split <;> simp

@[simp] theorem State.updRet_mem (s : State) (d : Nat) (dst : Nat) (cls : Nat) (seq : Nat) (g : Ret → Ret) :
    (s.updRet d dst cls seq g).mem = s.mem := rfl

@[simp] theorem State.resend_mem (s : State) (d : Nat) (r : Ret) : (s.resend d r).mem = s.mem := rfl

@[simp] theorem State.giveUpHere_mem (s : State) (d : Nat) (src : Nat) (cls : Nat) (seq : Nat) : (s.giveUpHere d src cls seq).mem = s.mem := by
  unfold State.giveUpHere; split <;> simp

@[simp] theorem State.answerRepair_mem (s : State) (d : Nat) (r : Ret) (present : BitVec 24) :
    (s.answerRepair d r present).mem = s.mem := mem_foldl (fun _ _ => by simp) _ _

@[simp] theorem State.setLink_mem (s : State) (l : Nat) (x : LinkState) : (s.setLink l x).mem = s.mem := rfl

@[simp] theorem State.markChords_mem (s : State) (d : Nat) (l : Nat) : (s.markChords d l).mem = s.mem := rfl

@[simp] theorem State.podTake_mem (s : State) (d : Nat) (x0 : Frag) : (s.podTake d x0).mem = s.mem := by
  unfold State.podTake; dsimp only; repeat' split
  all_goals simp

@[simp] theorem State.podWrite_mem (s : State) (station : Nat) (module_ : Nat) (off : Nat) (data : List Byte) :
    (s.podWrite station module_ off data).mem = s.mem := by
  unfold State.podWrite
  dsimp only
  split
  · simp
  · split
    · rfl
    · split
      · rfl
      · exact mem_foldl (fun s y => by simp) _ _

/-! ### Placement and starts -/

@[simp] theorem State.seatGang_mem (s : State) (d : Nat) (raw : Vec) (ts : List Nat) :
    (s.seatGang d raw ts).mem = s.mem := mem_foldl (fun _ _ => by simp) _ _

@[simp] theorem State.merge_mem (s : State) (d : Nat) (n : Nat) (j : Nat) : (s.merge d n j).mem = s.mem := rfl

@[simp] theorem State.stage_mem (s : State) (d : Nat) (n : Nat) (r : Rect) : (s.stage d n r).mem = s.mem := by
  unfold State.stage; dsimp only
  refine (mem_foldl (fun s j => by simp) _ _).trans ?_
  rw [State.seatGang_mem]
  exact mem_foldl (fun _ _ => by rfl) _ _

@[simp] theorem State.place_mem (s : State) (d : Nat) (n : Nat) (r : Rect) : (s.place d n r).mem = s.mem := by
  unfold State.place; dsimp only
  split
  · rw [State.stage_mem]
    exact mem_foldl (fun _ _ => by rfl) _ _
  · exact (mem_foldl (fun s w => by simp) _ _).trans (mem_foldl (fun _ _ => by rfl) _ _)

@[simp] theorem State.markRung_mem (s : State) (d : Nat) (n : Nat) (k : Nat) : (s.markRung d n k).mem = s.mem := rfl

@[simp] theorem State.retract_mem (s : State) (d : Nat) (n : Nat) (restricted : Bool) : (s.retract d n restricted).mem = s.mem := by
  unfold State.retract; split <;> simp

@[simp] theorem State.beginSave_mem (s : State) (d : Nat) (n : Nat) (by_ : Option Scope) : (s.beginSave d n by_).mem = s.mem := by
  simp [State.beginSave, mem_foldl]

@[simp] theorem State.saveRung_mem (s : State) (d : Nat) (n : Nat) (by_ : Option Scope) : (s.saveRung d n by_).mem = s.mem := by
  unfold State.saveRung; dsimp only; repeat' split
  all_goals simp

@[simp] theorem State.startFresh_mem (s : State) (d : Nat) (n : Nat) :
    (s.startFresh d n).mem = s.mem := (mem_foldl (fun _ _ => by simp) _ _).trans (by simp)

@[simp] theorem State.setChannel_mem (s : State) (i : Inst) (c : BitVec 192) : (s.setChannel i c).mem = s.mem := by
  unfold State.setChannel; dsimp only; split <;> simp

@[simp] theorem State.keyFor_mem (s : State) (image : BitVec 1024) : (s.keyFor image).mem = s.mem := by
  unfold State.keyFor; dsimp only; split <;> simp

/-! ### The pre-emption ladder -/

@[simp] theorem State.updLadder_mem (s : State) (x : Scope) (f : Ladder → Ladder) : (s.updLadder x f).mem = s.mem := rfl

@[simp] theorem State.resume_mem (s : State) (x : Scope) : (s.resume x).mem = s.mem := by
  unfold State.resume; split <;> simp [mem_foldl, apply_ite State.mem]

@[simp] theorem State.haltRelease_mem (s : State) (d : Nat) : (s.haltRelease d).mem = s.mem := by
  unfold State.haltRelease; split <;> simp

/-! ### Firmware, boot and service -/

@[simp] theorem State.appendEpoch_mem (s : State) : (s.appendEpoch).mem = s.mem := rfl

@[simp] theorem State.setQueue_mem (s : State) (fn : Nat) (q : Nat) (x : Queue) : (s.setQueue fn q x).mem = s.mem := rfl

@[simp] theorem State.updQueue_mem (s : State) (fn : Nat) (q : Nat) (f : Queue → Queue) : (s.updQueue fn q f).mem = s.mem := rfl

@[simp] theorem State.elect_mem (s : State) : (s.elect).mem = s.mem := by
  unfold State.elect; dsimp only; split <;> simp

@[simp] theorem State.queueWrite_mem (s : State) (fn : Nat) (what : Nat) (q : Nat) (v : Word64) : (s.queueWrite fn what q v).mem = s.mem := by
  unfold State.queueWrite; repeat' split
  all_goals simp

@[simp] theorem State.replayPeer_mem (s : State) (ident : Nat) (x0 : Nat) (x1 : List Word64) : (s.replayPeer ident x0 x1).mem = s.mem := by
  induction x0 generalizing s x1 with
  | zero => rfl
  | succ n ih =>
    unfold State.replayPeer
    split
    · rw [ih]; simp
    · rfl

@[simp] theorem State.sample_mem (s : State) (d : Nat) (r : Reading) : (s.sample d r).mem = s.mem := rfl

/-! ### Host queues -/

@[simp] theorem State.updCmd_mem (s : State) (c : HostCmd) (f : HostCmd → HostCmd) : (s.updCmd c f).mem = s.mem := rfl

@[simp] theorem State.finish_mem (s : State) (c : HostCmd) (status : Nat) (w1 : Word64) (w2 : Word64) : (s.finish c status w1 w2).mem = s.mem := rfl

@[simp] theorem State.hostTxn_mem (s : State) (p : Nat) (c : HostCmd) (region : Nat) : (s.hostTxn p c region).mem = s.mem := by
  unfold State.hostTxn; split <;> simp

@[simp] theorem State.beginCopy_mem (s : State) (c : HostCmd) (r : Nat) : (s.beginCopy c r).mem = s.mem := by
  unfold State.beginCopy; repeat' split
  all_goals simp

end Sys2Proof.Machine
end

section
/-! PROOFS that the operations which write memory keep its canonical form (03_memory_model.md R39). -/

namespace Sys2Proof.Machine

open Sys2Proof.Safety

/-- A fold of steps that keep the canonical form keeps it. -/
theorem wf_foldl {α : Type} {f : State → α → State} (hf : ∀ s x, Memory.wf s.mem = true → Memory.wf (f s x).mem = true) (l : List α) :
    ∀ s : State, Memory.wf s.mem = true → Memory.wf (l.foldl f s).mem = true := by
  induction l with
  | nil => exact fun _ => id
  | cons x l ih => exact fun s h => ih _ (hf s x h)

@[simp] theorem State.writeAt_wf {s : State} (h : Memory.wf s.mem = true) (k : Nat) (bs : List Byte) : Memory.wf (s.writeAt k bs).mem =
    true :=
  s.mem_wf_writeAt k bs h

@[simp] theorem Memory.writeN_wf {m : List Host.Cell} (h : Memory.wf m = true) (k : Nat) (bs : List Byte) : Memory.wf (Memory.writeN m k
    bs) = true :=
  Memory.wf_writeN bs k h

@[simp] theorem State.pokeObj_wf {s : State} (h : Memory.wf s.mem = true) (o : Obj) (c : C4) (v : Nat) :
    Memory.wf (s.pokeObj o c v).mem = true := s.mem_wf_poke _ _ _ _ h

@[simp] theorem State.finishCow_wf {s : State} (h : Memory.wf s.mem = true) (c : Cow) : Memory.wf (s.finishCow c).mem = true :=
  (frame_finishCow c).wf h

@[simp] theorem State.objWrite_wf {s : State} (h : Memory.wf s.mem = true) (id : BitVec 32) (a : Nat) (l : List Byte) :
    Memory.wf (s.objWrite id a l).mem = true := (frame_objWrite id l s a).wf h

@[simp] theorem State.post_wf {s : State} (h : Memory.wf s.mem = true) (r k : Nat) (a b c : Word64) :
    Memory.wf (s.post r k a b c).mem = true := (frame_post r k a b c).wf h

@[simp] theorem State.freeze_wf {s : State} (h : Memory.wf s.mem = true) (w : Master) (l : List Word64) (r : Nat) (x : Word64) :
    Memory.wf (s.freeze w l r x).mem = true := (frame_freeze w l r x).wf h

@[simp] theorem State.writeLs_wf {s : State} (h : Memory.wf s.mem = true) (p : Place) (a : Nat) (bs : List Byte) :
    Memory.wf (s.writeLs p a bs).mem = true := s.mem_wf_writeLs p a bs h

theorem wf_of_snd {α : Type} {x : α × State} {a : α} {t : State} (e : x = (a, t)) (h : Memory.wf x.2.mem = true) :
    Memory.wf t.mem = true := by
  subst e; exact h

@[simp] theorem State.endTaskNow_wf {s : State} (h : Memory.wf s.mem = true) (d : Nat) (n : Nat) (st : Nat) (cause : Nat) (exit : Nat) (own
    : Bool) (sub : Bool) : Memory.wf (s.endTaskNow d n st cause exit own sub).mem = true := by
  unfold State.endTaskNow
  extract_lets x id reg old s1 s2 s2' status raw s3 s4 pol succs s5 x5 s6 j s7 s8 x8
  have h4 : Memory.wf s4.mem = true := by
    have h1 : Memory.wf s1.mem = true := by simp only [s1]; split <;> simp [h, mem_foldl]
    simp [s4, s3, s2', s2, h1]
  clear_value s4
  have h5 : Memory.wf s5.mem = true := by simp only [s5]; split <;> simp [h4]
  clear_value s5
  have h6 : Memory.wf s6.mem = true := by
    simp only [s6]; repeat' split
    all_goals simp [h5, mem_foldl]
  clear_value s6
  have h7 : Memory.wf s7.mem = true := by simp only [s7]; split <;> simp [h6]
  clear_value s7
  have h8 : Memory.wf s8.mem = true := (congrArg Memory.wf (State.settleLadders_mem s7)).trans h7
  clear_value s8
  split <;> simp [h8]

@[simp] theorem State.endTask_wf {s : State} (h : Memory.wf s.mem = true) (d : Nat) (n : Nat) (st : Nat) (cause : Nat) (exit : Nat) (own :
    Bool) (sub : Bool) : Memory.wf (s.endTask d n st cause exit own sub).mem = true := by
  unfold State.endTask; repeat' split
  all_goals simp [h]

@[simp] theorem State.settleEnding_wf {s : State} (h : Memory.wf s.mem = true) (d : Nat) (t : Nat) : Memory.wf (s.settleEnding d t).mem =
    true := by
  unfold State.settleEnding; dsimp only; repeat' split
  all_goals simp [h]

@[simp] theorem State.arm_wf {s : State} (h : Memory.wf s.mem = true) (d : Nat) (n : Nat) : Memory.wf (s.arm d n).mem = true := by
  unfold State.arm; split <;> simp [h]

@[simp] theorem State.enter_wf {s : State} (h : Memory.wf s.mem = true) (d : Nat) (n : Nat) : Memory.wf (s.enter d n).mem = true := by
  unfold State.enter; dsimp only; split <;> simp [h]

@[simp] theorem State.commitInst_wf {s : State} (h : Memory.wf s.mem = true) (d : Nat) (n : Nat) : Memory.wf (s.commitInst d n).mem = true
    := by
  unfold State.commitInst; split
  · exact h
  · dsimp only
    refine wf_foldl (fun s x h => ?_) _ _ (wf_foldl (fun s x h => ?_) _ _ (wf_foldl (fun s x h => ?_) _ _ ?_))
    · split <;> simp [h]
    · simp [h]
    · simp [h]
    · simp [mem_foldl, State.ref_mem, h]

@[simp] theorem State.applyDec_wf {s : State} (h : Memory.wf s.mem = true) (d : Nat) (x : Dec) : Memory.wf (s.applyDec d x).mem = true := by
  unfold State.applyDec; dsimp only; repeat' split
  all_goals simp [h]

@[simp] theorem State.applyKill_wf {s : State} (h : Memory.wf s.mem = true) (d : Nat) (x : Kill) : Memory.wf (s.applyKill d x).mem = true
    := by
  unfold State.applyKill; dsimp only; repeat' split
  all_goals simp [h]

@[simp] theorem State.discard_wf {s : State} (h : Memory.wf s.mem = true) (d : Nat) (m : MeshCard) (kind : Nat) (saved : Bool) : Memory.wf
    (s.discard d m kind saved).mem = true := by
  simp [State.discard, h]

@[simp] theorem frameTake_wf {back s : State} (hb : Memory.wf back.mem = true) (h : Memory.wf s.mem = true) (m d : Nat) (c : MeshCard) :
    Memory.wf (frameTake back m d c s).mem = true := by
  unfold frameTake; dsimp only
  repeat' split
  all_goals simp [h, hb]

@[simp] theorem State.pad_wf {s : State} (h : Memory.wf s.mem = true) (d : Nat) (t : Nat) (m : Nat) (x0 : Nat) (x1 : Nat) : Memory.wf
    (s.pad d t m x0 x1).mem = true := by
  induction x0 generalizing s x1 with
  | zero => exact h
  | succ n ih => unfold State.pad; exact ih (by simp [h]) _

@[simp] theorem State.ringPlace_wf {s : State} (h : Memory.wf s.mem = true) (d : Nat) (t : Nat) (m : Nat) (w0 : Word64) (w1 : Word64)
    (payload : List Byte) (hops : Word64) : Memory.wf (s.ringPlace d t m w0 w1 payload hops).mem = true := by
  unfold State.ringPlace; dsimp only; split
  · simp [h]
  · rw [State.skipPad_mem, State.updTile_mem]
    exact State.writeLs_wf (State.writeLs_wf (State.pad_wf h ..) ..) ..

@[simp] theorem State.faultTask_wf {s : State} (h : Memory.wf s.mem = true) (d : Nat) (t : Nat) (c : Cause) : Memory.wf (s.faultTask d t
    c).mem = true := by
  unfold State.faultTask; split <;> simp [h]

@[simp] theorem State.endFaulted_wf {s : State} (h : Memory.wf s.mem = true) (p : Place) (c : Cause) : Memory.wf (s.endFaulted p c).mem =
    true := by
  unfold State.endFaulted; split <;> simp [h]

@[simp] theorem State.settleTrap_wf {s : State} (h : Memory.wf s.mem = true) (p : Place) : Memory.wf (s.settleTrap p).mem = true := by
  unfold State.settleTrap; dsimp only; split <;> simp [h]

@[simp] theorem State.endHandler_wf {s : State} (h : Memory.wf s.mem = true) (p : Place) : Memory.wf (s.endHandler p).mem = true := by
  simp [State.endHandler, h]

@[simp] theorem State.endUnserved_wf {s : State} (h : Memory.wf s.mem = true) (p : Place) (r : FaultRec) : Memory.wf (s.endUnserved p
    r).mem = true := by
  unfold State.endUnserved; dsimp only; repeat' split
  all_goals simp [h]

@[simp] theorem State.pokeLs_wf {s : State} (h : Memory.wf s.mem = true) (d : Nat) (t : Nat) (b : Nat) (w : Nat) (v : Nat) : Memory.wf
    (s.pokeLs d t b w v).mem = true := by
  unfold State.pokeLs; split <;> simp [h]

@[simp] theorem State.image_wf {s : State} (h : Memory.wf s.mem = true) (d : Nat) (t : Nat) (a : Nat) (w : Nat) (vals : List Nat) :
    Memory.wf (s.image d t a w vals).mem = true := wf_foldl (fun _ _ h => State.pokeLs_wf h ..) _ _ h

@[simp] theorem State.writeWindow_wf {s : State} (h : Memory.wf s.mem = true) (d : Nat) (t : Nat) (own : List Owner) (region : Nat) (w :
    Word64) (els : List (C4 × Nat)) : Memory.wf (s.writeWindow d t own region w els).2.mem = true := by
  unfold State.writeWindow; split
  · exact h
  · dsimp only
    split
    · next e3 => exact wf_of_snd e3 (by simp [h])
    · next e3 =>
      have h2 := wf_of_snd e3 (by simp [h])
      split
      · next e4 => exact wf_of_snd e4 (by simp [h2])
      · next e4 => exact wf_foldl (fun _ _ h => State.pokeObj_wf h ..) _ _ (wf_of_snd e4 (by simp [h2]))
    · next e3 => exact wf_foldl (fun _ _ h => State.pokeObj_wf h ..) _ _ (wf_of_snd e3 (by simp [h]))

@[simp] theorem State.copyEffect_wf {s : State} (h : Memory.wf s.mem = true) (d : Nat) (t : Nat) (e : CopyEntry) : Memory.wf (s.copyEffect
    d t e).2.mem = true := by
  unfold State.copyEffect; dsimp only
  split
  · exact State.image_wf (by simp [h]) ..
  · split
    · next e1 => exact wf_of_snd e1 (by simp [h])
    · next e1 => exact wf_of_snd e1 (by simp [h])
  · split
    · simp [h]
    · split
      · next e2 => exact wf_of_snd e2 (by simp [h])
      · next e2 => exact wf_of_snd e2 (by simp [h])
  · split
    · simp [h]
    · exact wf_foldl (fun _ _ h => State.image_wf h ..) _ _ (by simp [h])
  · split
    · simp [h]
    · exact wf_foldl (fun _ _ h => State.pokeLs_wf h ..) _ _ (by simp [h])
  · split
    · exact h
    · split
      · exact h
      · dsimp only; split <;> simp [h]
  · exact h

theorem State.receive_wf {s t : State} {d : Nat} {src : Nat} {dest : Word64} {r : XRec} (h : Memory.wf s.mem = true) (e : s.receive d src
    dest r = some t) : Memory.wf t.mem = true := by
  unfold State.receive at e; dsimp only at e
  split at e
  · exact absurd e (by simp)
  · injection e with e; subst e; exact State.ringPlace_wf (by simp [h]) ..

@[simp] theorem State.receiveAll_wf {s : State} (h : Memory.wf s.mem = true) (d : Nat) (src : Nat) (dest : Word64) (x0 : List XRec) :
    Memory.wf (s.receiveAll d src dest x0).2.mem = true := by
  induction x0 generalizing s with
  | nil => exact h
  | cons r l ih =>
    unfold State.receiveAll; split
    · next e => exact ih (State.receive_wf h e)
    · exact ih h

@[simp] theorem State.meStart_wf {s : State} (h : Memory.wf s.mem = true) (d : Nat) (t : Nat) (e : MeEntry) : Memory.wf (s.meStart d t
    e).mem = true := by
  unfold State.meStart; dsimp only
  repeat' split
  all_goals simp [h]
  all_goals exact wf_foldl (fun _ _ h => State.writeLs_wf h ..) _ _ h

@[simp] theorem State.rasPush_wf {s : State} (h : Memory.wf s.mem = true) (p : Place) (a : BitVec 32) : Memory.wf (s.rasPush p a).mem =
    true := by
  unfold State.rasPush; dsimp only; split <;> simp [h]

@[simp] theorem State.amoLs_wf {s : State} (h : Memory.wf s.mem = true) (p : Place) (a : Nat) (n : Nat) (f : Nat → Option Nat) (dst :
    BitVec 7) : Memory.wf (s.amoLs p a n f dst).mem = true := by
  unfold State.amoLs; dsimp only; repeat' split
  all_goals simp [h]

@[simp] theorem State.amoObj_wf {s : State} (h : Memory.wf s.mem = true) (p : Place) (w : Word64) (c : C4) (n : Nat) (f : Nat → Option Nat)
    (dst : BitVec 7) : Memory.wf (s.amoObj p w c n f dst).mem = true := by
  unfold State.amoObj; dsimp only; split
  · simp [h]
  · rw [State.setEntry_mem]
    split
    · exact wf_foldl (fun _ _ h => State.pokeObj_wf h ..) _ _ h
    · exact h

@[simp] theorem State.addLanes_wf {s : State} (h : Memory.wf s.mem = true) (p : Place) (w : Word64) (t : Tag) (els : List (C4 × Nat)) (mode
    : Nat) (sat : Bool) : Memory.wf (s.addLanes p w t els mode sat).mem = true := by
  unfold State.addLanes; dsimp only; split
  · exact h
  · exact wf_foldl (fun s x h => by split <;> simp [h]) _ _ h

@[simp] theorem State.plainCmd_wf {s : State} (h : Memory.wf s.mem = true) (p : Place) (c : Cmd) : Memory.wf (s.plainCmd p c).2.mem = true
    := by
  unfold State.plainCmd; dsimp only; repeat' split
  all_goals simp [h]

theorem State.whenOwned_wf {s : State} {k : State → State} (hk : ∀ t, Memory.wf t.mem = true → Memory.wf (k t).mem = true)
    (h : Memory.wf s.mem = true) (p : Place) (id : BitVec 32) (els : List C4) :
    Memory.wf (s.whenOwned p id els k).2.mem = true := by
  unfold State.whenOwned; split
  · exact h
  · split
    · next e => exact hk _ (wf_of_snd e (by simp [h]))
    · next e => exact wf_of_snd e (by simp [h])

@[simp] theorem State.performOne_wf {s : State} (h : Memory.wf s.mem = true) (p : Place) (x : CommitOp) : Memory.wf (s.performOne p
    x).2.mem = true := by
  unfold State.performOne; dsimp only; split
  case h_4 => exact wf_foldl (fun _ _ h => State.writeLs_wf h ..) _ _ h
  case h_10 => exact State.whenOwned_wf (fun _ h => wf_foldl (fun _ _ h => State.pokeObj_wf h ..) _ _ h) h ..
  case h_11 => exact State.whenOwned_wf (fun _ h => State.amoObj_wf h ..) h ..
  case h_12 => exact State.whenOwned_wf (fun _ h => State.amoObj_wf h ..) h ..
  case h_13 => exact State.whenOwned_wf (fun _ h => State.addLanes_wf h ..) h ..
  all_goals simp [h]

@[simp] theorem State.doAppend_wf {s : State} (h : Memory.wf s.mem = true) (p : Place) (x : Append) : Memory.wf (s.doAppend p x).mem = true
    := wf_foldl (fun _ _ h => State.pokeObj_wf h ..) _ _ h

@[simp] theorem State.exitEffect_wf {s : State} (h : Memory.wf s.mem = true) (p : Place) (size : Nat) (e : FiredExit) : Memory.wf
    (s.exitEffect p size e).mem = true := by
  unfold State.exitEffect; dsimp only; repeat' split
  all_goals simp [h]

@[simp] theorem State.commitEnd_wf {s : State} (h : Memory.wf s.mem = true) (p : Place) : Memory.wf (s.commitEnd p).mem = true := by
  unfold State.commitEnd; split
  · exact h
  · dsimp only
    rw [State.see_mem]
    split
    · refine State.exitEffect_wf ?_ ..
      simp [mem_foldl, State.rebindPorts_mem]
      exact wf_foldl (fun _ _ h => State.doAppend_wf h ..) _ _ h
    · simp [mem_foldl, State.rebindPorts_mem]
      exact wf_foldl (fun _ _ h => State.doAppend_wf h ..) _ _ h

@[simp] theorem State.confirm_wf {s : State} (h : Memory.wf s.mem = true) (p : Place) (v : Prov) : Memory.wf (s.confirm p v).mem = true :=
    by
  unfold State.confirm; dsimp only; split <;> simp [h, mem_foldl, State.ref_mem]

@[simp] theorem State.confirmAt_wf {s : State} (h : Memory.wf s.mem = true) (p : Place) (i : Nat) : Memory.wf (s.confirmAt p i).mem = true
    := by
  unfold State.confirmAt; split
  · exact h
  · exact wf_foldl (fun _ _ h => State.confirm_wf h ..) _ _ h

@[simp] theorem State.performCut_wf {s : State} (h : Memory.wf s.mem = true) (p : Place) (x : CommitOp) : Memory.wf (s.performCut p
    x).2.mem = true := by
  unfold State.performCut; split
  · exact h
  · split
    · next e => exact wf_of_snd e (by simp [h])
    · simp [h]
  · exact State.performOne_wf h ..

@[simp] theorem State.perform_wf {s : State} (h : Memory.wf s.mem = true) (p : Place) (x0 : List Counted) : Memory.wf (s.perform p x0).mem
    = true := by
  induction x0 generalizing s with
  | nil =>
    unfold State.perform; split
    · exact h
    · split
      · next e => exact State.commitEnd_wf (wf_of_snd e (by simp [h])) _
      · next e => exact wf_of_snd e (by simp [h])
  | cons x l ih =>
    have hx : Memory.wf (if (s.ctx p).run.any Run.cut then s.performCut p x.op else s.performOne p x.op).2.mem = true := by
      split <;> simp [h]
    unfold State.perform; split
    · next e => exact ih (by simp [wf_of_snd e hx])
    · next e => exact wf_of_snd e hx

@[simp] theorem State.lostBody_wf {s : State} (h : Memory.wf s.mem = true) (d : Nat) (x0 : Body) : Memory.wf (s.lostBody d x0).mem = true
    := by
  unfold State.lostBody; dsimp only; split
  case h_1 => simp [mem_foldl, State.recordFinal_mem, h]
  case h_2 =>
    refine wf_foldl (fun s x h => ?_) _ _ h
    split
    · exact h
    · simp [mem_foldl, State.recordFinal_mem, h]
  case h_5 =>
    repeat' split
    all_goals simp [h]
  all_goals simp [h]

@[simp] theorem State.giveUp_wf {s : State} (h : Memory.wf s.mem = true) (d : Nat) (r : Ret) : Memory.wf (s.giveUp d r).mem = true := by
  simp [State.giveUp, h]

@[simp] theorem State.holdMaster_wf {s : State} (h : Memory.wf s.mem = true) (who : Master) (held : List Word64) (region : Nat) (word :
    Word64) : Memory.wf (s.holdMaster who held region word).mem = true := by
  unfold State.holdMaster; split <;> simp [h]

@[simp] theorem State.takeGrant_wf {s : State} (h : Memory.wf s.mem = true) (d : Nat) (g : Nat × Nat × BitVec 32 × Win × Bool) : Memory.wf
    (s.takeGrant d g).mem = true := by
  unfold State.takeGrant; dsimp only; repeat' split
  all_goals simp [h]

@[simp] theorem State.takeGrants_wf {s : State} (h : Memory.wf s.mem = true) (d : Nat) : Memory.wf (s.takeGrants d).mem = true := wf_foldl
    (fun _ _ h => State.takeGrant_wf h ..) _ _ (by simp [h])

@[simp] theorem State.reserveRect_wf {s : State} (h : Memory.wf s.mem = true) (d : Nat) (n : Nat) (r : Rect) : Memory.wf (s.reserveRect d n
    r).mem = true := by
  unfold State.reserveRect; dsimp only; split
  · simp [mem_foldl, State.saveRung_mem, h]
  · simp [h]

@[simp] theorem State.passTask_wf {s : State} (h : Memory.wf s.mem = true) (d : Nat) (n : Nat) : Memory.wf (s.passTask d n).mem = true := by
  unfold State.passTask; dsimp only; repeat' split
  all_goals simp [h]

@[simp] theorem State.pass_wf {s : State} (h : Memory.wf s.mem = true) (d : Nat) : Memory.wf (s.pass d).mem = true := by
  unfold State.pass; split
  · exact wf_foldl (fun _ _ h => State.passTask_wf h ..) _ _ (by simp [h])
  · exact h

@[simp] theorem State.stageOne_wf {s : State} (h : Memory.wf s.mem = true) (d : Nat) (n : Nat) (j : Nat) : Memory.wf (s.stageOne d n j).mem
    = true := by
  unfold State.stageOne; dsimp only
  split
  · exact h
  split
  · exact h
  split
  · simp [h]
  split
  · exact State.endTask_wf (wf_foldl (fun _ _ h => State.image_wf h ..) _ _ (by simp [h])) ..
  · rw [State.setSlot_mem]; exact wf_foldl (fun _ _ h => State.image_wf h ..) _ _ (by simp [h])

@[simp] theorem State.startSaved_wf {s : State} (h : Memory.wf s.mem = true) (d : Nat) (n : Nat) (v : Saved) : Memory.wf (s.startSaved d n
    v).mem = true := by
  unfold State.startSaved; dsimp only
  rw [State.updTd_mem]
  refine wf_foldl (fun s x h => ?_) _ _ h
  rw [State.updTile_mem]
  exact wf_foldl (fun _ _ h => State.writeLs_wf h ..) _ _ h

@[simp] theorem State.opensWindow_wf {t : State} (h : Memory.wf t.mem = true) (s : State) (d r : Nat) :
    Memory.wf (s.opensWindow t d r).mem = true := by
  unfold State.opensWindow; split <;> simp [h]

@[simp] theorem State.startTask_wf {s : State} (h : Memory.wf s.mem = true) (d : Nat) (n : Nat) : Memory.wf (s.startTask d n).mem = true :=
    by
  unfold State.startTask; dsimp only
  refine State.opensWindow_wf ?_ ..
  rw [State.setSlot_mem]
  split
  · exact State.startSaved_wf h ..
  · rw [mem_foldl (fun _ _ => by simp)]; simp [h]

@[simp] theorem State.beginRung_wf {s : State} (h : Memory.wf s.mem = true) (x : Scope) (k : Nat) : Memory.wf (s.beginRung x k).mem = true
    := by
  unfold State.beginRung; split
  · exact h
  · exact State.post_wf (by rw [mem_foldl (fun _ _ => by simp)]; simp [h]) ..

@[simp] theorem State.resetKill_wf {s : State} (h : Memory.wf s.mem = true) (d : Nat) (n : Nat) : Memory.wf (s.resetKill d n).mem = true :=
    by
  simp [State.resetKill, h]

@[simp] theorem State.rungReset_wf {s : State} (h : Memory.wf s.mem = true) (x : Scope) : Memory.wf (s.rungReset x).mem = true := by
  unfold State.rungReset; dsimp only; split
  · simp [h]
  · rw [State.updLadder_mem]
    exact wf_foldl (fun s x h => by split <;> simp [h]) _ _ (by simp [h])

@[simp] theorem State.rungSave_wf {s : State} (h : Memory.wf s.mem = true) (x : Scope) : Memory.wf (s.rungSave x).mem = true := by
  unfold State.rungSave; dsimp only; split
  · simp [h]
  · have h2 : ∀ l : List (Nat × Nat), Memory.wf (l.foldl (fun s t => s.saveRung t.1 t.2 (some x)) (s.beginRung x 2)).mem = true := fun l => by
      simp [mem_foldl, State.saveRung_mem, h]
    split
    · exact State.rungReset_wf (h2 _) _
    · rw [State.settleLadders_mem]; exact h2 _

@[simp] theorem State.preempt_wf {s : State} (h : Memory.wf s.mem = true) (x : Scope) (region : Nat) (queue : Nat × Nat) : Memory.wf
    (s.preempt x region queue).mem = true := by
  unfold State.preempt; dsimp only; repeat' split
  all_goals simp [h]

@[simp] theorem State.saveTask_wf {s : State} (h : Memory.wf s.mem = true) (d : Nat) (n : Nat) (w : Word64) (off : Nat) : Memory.wf
    (s.saveTask d n w off).mem = true := by
  unfold State.saveTask; dsimp only
  rw [State.dropWindows_mem]; dsimp only
  rw [mem_foldl (fun _ _ => by simp)]; simp [h]

@[simp] theorem State.hang_wf {s : State} (h : Memory.wf s.mem = true) (r : Nat) : Memory.wf (s.hang r).mem = true := by
  unfold State.hang; dsimp only
  refine wf_foldl (fun s x h => by split <;> simp [h]) _ _ ?_
  repeat' split
  all_goals simp [h]

@[simp] theorem State.cold_wf (s : State) {m : List Host.Cell} (h : Memory.wf m = true) (bad : List Nat) :
    Memory.wf (s.cold m bad).mem = true := h

@[simp] theorem State.deviceReset_wf {s : State} (h : Memory.wf s.mem = true)  : Memory.wf (s.deviceReset).mem = true := by
  unfold State.deviceReset; dsimp only
  exact State.cold_wf _ (Memory.wf_filter _ (by simp [h])) _

@[simp] theorem State.cutPeer_wf {s : State} (h : Memory.wf s.mem = true) (e : Nat) (d : Nat) : Memory.wf (s.cutPeer e d).mem = true := by
  unfold State.cutPeer; dsimp only
  rw [State.updDie_mem]
  exact wf_foldl (fun _ _ h => State.lostBody_wf (by simp [h]) ..) _ _ h

@[simp] theorem State.ready_wf {s : State} (h : Memory.wf s.mem = true) (ld : Nat) (len : Nat) : Memory.wf (s.ready ld len).mem = true := by
  unfold State.ready; dsimp only
  exact Memory.wf_filter _ h

@[simp] theorem State.bootGo_wf {s : State} (h : Memory.wf s.mem = true) (len : Nat) : Memory.wf (s.bootGo len).mem = true := by
  unfold State.bootGo; repeat' split
  all_goals simp [h]

@[simp] theorem State.bootWrite_wf {s : State} (h : Memory.wf s.mem = true) (offset : Nat) (v : Word64) : Memory.wf (s.bootWrite offset
    v).mem = true := by
  unfold State.bootWrite; split <;> simp [h]

theorem State.replayFn_wf (fn : Nat) : ∀ (l : List Word64) {s : State}, Memory.wf s.mem = true → Memory.wf (s.replayFn fn l).mem = true
  | [], _, h => h
  | [_], _, h => h
  | k :: v :: l, s, h => by
    unfold State.replayFn
    refine State.replayFn_wf fn l ?_
    repeat' split
    all_goals simp [h]

@[simp] theorem State.thaw_wf {s : State} (h : Memory.wf s.mem = true) (f : Frozen) : Memory.wf (s.thaw f).mem = true := by
  unfold State.thaw; dsimp only
  split
  case h_3 => exact State.replayFn_wf _ _ h
  all_goals
    repeat' split
    all_goals simp [h]

theorem State.windowRequest_wf {s : State} (h : Memory.wf s.mem = true) (k what : Nat) (v : Word64) {act : State → State}
    (ha : ∀ t, Memory.wf t.mem = true → Memory.wf (act t).mem = true) : Memory.wf (s.windowRequest k what v act).mem = true := by
  unfold State.windowRequest
  repeat' split
  · exact h
  · simp [h]
  · exact ha s h

@[simp] theorem State.hostWrite_wf {s : State} (h : Memory.wf s.mem = true) (fn : Nat) (what : Nat) (q : Nat) (v : Word64) : Memory.wf
    (s.hostWrite fn what q v).mem = true := by
  unfold State.hostWrite; split <;> simp [h]

@[simp] theorem State.resetMaster_wf {s : State} (h : Memory.wf s.mem = true) (f : Frozen) : Memory.wf (s.resetMaster f).mem = true := by
  unfold State.resetMaster; dsimp only; split
  · repeat' split
    all_goals simp [h]
  · split
    · exact h
    · simp [mem_foldl, State.copyDone_mem, h]
  · exact h

@[simp] theorem State.hostWriteAt_wf {s : State} (h : Memory.wf s.mem = true) (a : Nat) (bs : List Byte) : Memory.wf (s.hostWriteAt a
    bs).mem = true := by
  simp [State.hostWriteAt, h]

@[simp] theorem State.endCopy_wf {s : State} (h : Memory.wf s.mem = true) (c : HostCmd) (r : Nat) (p : Nat) : Memory.wf (s.endCopy c r
    p).mem = true := by
  unfold State.endCopy
  split
  · exact h
  extract_lets w g bits els a done
  have hd : ∀ t f, Memory.wf t.mem = true → Memory.wf (done t f).mem = true := fun t f h => by simp [done, h]
  clear_value done g
  split
  · exact h
  split
  · split
    · next e => exact wf_of_snd e (by simp [h])
    · next e => exact hd _ _ (wf_of_snd e (by simp [h]))
  · split; next e => exact hd _ _ (State.hostWriteAt_wf (wf_of_snd e (by simp [h])) ..)

end Sys2Proof.Machine
end

section
/-! PROOFS that every event, and so every step, keeps memory in its canonical form (03_memory_model.md R39). -/

namespace Sys2Proof.Machine

open Sys2Proof.Safety

/-- What an outcome's next state has for memory, where there is one. -/
def Out.MemOk : Out → Prop
  | .next t => Memory.wf t.mem = true
  | _ => True

@[simp] theorem Out.memOk_next (t : State) : Out.MemOk (.next t) ↔ Memory.wf t.mem = true := Iff.rfl

theorem arrival_memOk {s : State} (h : Memory.wf s.mem = true) (kind : Taken) {k : Nat → MeshCard → State → State}
    (hk : ∀ d m t, Memory.wf t.mem = true → Memory.wf (k d m t).mem = true) : (arrival kind k s).MemOk := by
  unfold arrival; dsimp only [Out.MemOk]
  split
  · exact h
  split
  · exact h
  split
  · simp [h]
  · exact hk _ _ _ (by simp [h])

theorem withdrawEvent_memOk {s : State} (h : Memory.wf s.mem = true) (windows : Bool) : (withdrawEvent windows s).MemOk := by
  unfold withdrawEvent; dsimp only [Out.MemOk]; repeat' split
  all_goals simp [h]

theorem controlArrival_memOk {s : State} (h : Memory.wf s.mem = true) (holds : Bool) (kind : Link → Bool)
    {k : Nat → Nat → Nat → Link → State → State}
    (hk : ∀ a b c l t, Memory.wf t.mem = true → Memory.wf (k a b c l t).mem = true) : (controlArrival holds kind k s).MemOk := by
  unfold controlArrival; dsimp only [Out.MemOk]
  split
  · exact h
  split
  · exact h
  split
  · exact h
  split
  · exact h
  · exact hk _ _ _ _ _ (by simp [h])

theorem startCmd_memOk {s : State} (h : Memory.wf s.mem = true) (fn q kind : Nat) {act : HostCmd → Nat → Nat → State → State}
    (ha : ∀ c r p, Memory.wf (act c r p s).mem = true) : (startCmd fn q kind act s).MemOk := by
  unfold startCmd; dsimp only [Out.MemOk]
  split
  · exact h
  split
  · simp [h]
  · exact ha _ _ _

theorem copyEvent_memOk {s : State} (h : Memory.wf s.mem = true) (fn q kind : Nat) : (copyEvent fn q kind s).MemOk := by
  unfold copyEvent
  split
  · exact startCmd_memOk h _ _ _ fun _ _ _ => by simp [h]
  · dsimp only [Out.MemOk]
    split
    · split <;> simp [h]
    · exact h

theorem execTableWalk_memOk {s : State} (h : Memory.wf s.mem = true) : (execTableWalk s).MemOk := by
  unfold execTableWalk; dsimp only [Out.MemOk]; repeat' split
  all_goals simp [h]

theorem execTensorRequest_memOk {s : State} (h : Memory.wf s.mem = true) : (execTensorRequest s).MemOk := by
  unfold execTensorRequest; dsimp only [Out.MemOk]; repeat' split
  all_goals simp [h]

theorem execTensorReply_memOk {s : State} (h : Memory.wf s.mem = true) : (execTensorReply s).MemOk := by
  unfold execTensorReply; dsimp only [Out.MemOk]; repeat' split
  all_goals simp [h]

theorem execLinkFlitRetry_memOk {s : State} (h : Memory.wf s.mem = true) : (execLinkFlitRetry s).MemOk := by
  simp [execLinkFlitRetry, h]

theorem execCowComplete_memOk {s : State} (h : Memory.wf s.mem = true) : (execCowComplete s).MemOk := by
  unfold execCowComplete; simp only [Out.memOk_next]; split <;> simp [h]

theorem execStreamReadahead_memOk {s : State} (h : Memory.wf s.mem = true) : (execStreamReadahead s).MemOk := by
  unfold execStreamReadahead; dsimp only [Out.MemOk]
  split
  · exact h
  split
  · next e => exact wf_of_snd e (by simp [h])
  · next e => rw [State.updTile_mem]; exact wf_of_snd e (by simp [h])

theorem execBlockFetch_memOk {s : State} (h : Memory.wf s.mem = true) : (execBlockFetch s).MemOk := by
  unfold execBlockFetch; dsimp only [Out.MemOk]; repeat' split
  all_goals simp [h]

theorem execBlockDecode_memOk {s : State} (h : Memory.wf s.mem = true) : (execBlockDecode s).MemOk := by
  unfold execBlockDecode; dsimp only [Out.MemOk]; repeat' split
  all_goals simp [h]

theorem execCardAck_memOk {s : State} (h : Memory.wf s.mem = true) : (execCardAck s).MemOk := by
  unfold execCardAck; simp only [Out.memOk_next]; split <;> simp [h]

theorem execCardSend_memOk {s : State} (h : Memory.wf s.mem = true) : (execCardSend s).MemOk := by
  unfold execCardSend; dsimp only [Out.MemOk]; repeat' split
  all_goals simp [h]

theorem execAllowanceReturnTimer_memOk {s : State} (h : Memory.wf s.mem = true) (sender : Nat) : (execAllowanceReturnTimer sender s).MemOk
    := by
  unfold execAllowanceReturnTimer; dsimp only [Out.MemOk]; repeat' split
  all_goals simp [h]

theorem execAllowanceReturnArrival_memOk {s : State} (h : Memory.wf s.mem = true) : (execAllowanceReturnArrival s).MemOk := by
  unfold execAllowanceReturnArrival; simp only [Out.memOk_next]; split <;> simp [h]

theorem execRefreshTimer_memOk {s : State} (h : Memory.wf s.mem = true) : (execRefreshTimer s).MemOk := by
  unfold execRefreshTimer; dsimp only [Out.MemOk]; repeat' split
  all_goals simp [h]

theorem execRefreshRequestArrival_memOk {s : State} (h : Memory.wf s.mem = true) : (execRefreshRequestArrival s).MemOk := by
  unfold execRefreshRequestArrival; dsimp only [Out.MemOk]; repeat' split
  all_goals simp [h]

theorem execMailboxConfigApply_memOk {s : State} (h : Memory.wf s.mem = true) : (execMailboxConfigApply s).MemOk := by
  unfold execMailboxConfigApply; dsimp only [Out.MemOk]; repeat' split
  all_goals simp [h]

theorem execMailboxMapWrite_memOk {s : State} (h : Memory.wf s.mem = true) (words : BitVec 768) : (execMailboxMapWrite words s).MemOk := by
  unfold execMailboxMapWrite; simp only [Out.memOk_next]; split <;> simp [h]

theorem execFrameCardArrival_memOk {s : State} (h : Memory.wf s.mem = true) : (execFrameCardArrival s).MemOk := arrival_memOk h _ fun d c u
    hu => by dsimp only; split <;> simp [h, hu]

theorem execReplyCardArrival_memOk {s : State} (h : Memory.wf s.mem = true) : (execReplyCardArrival s).MemOk := arrival_memOk h _ fun d c u
    hu => by split <;> simp [h, hu]

theorem execLandingCardArrival_memOk {s : State} (h : Memory.wf s.mem = true) : (execLandingCardArrival s).MemOk := arrival_memOk h _ fun d
    c u hu => by dsimp only; split <;> simp [hu]

theorem execAtomicCardArrival_memOk {s : State} (h : Memory.wf s.mem = true) : (execAtomicCardArrival s).MemOk := arrival_memOk h _ fun d c
    u hu => by dsimp only; split <;> simp [hu]

theorem execQueueCardArrival_memOk {s : State} (h : Memory.wf s.mem = true) : (execQueueCardArrival s).MemOk := arrival_memOk h _ fun d c u
    hu => by
  dsimp only; repeat' split
  all_goals simp [hu]

theorem execQueueMailboxFire_memOk {s : State} (h : Memory.wf s.mem = true) : (execQueueMailboxFire s).MemOk := by
  unfold execQueueMailboxFire; simp only [Out.memOk_next]; split <;> simp [h]

theorem execHubReplyArrival_memOk {s : State} (h : Memory.wf s.mem = true) : (execHubReplyArrival s).MemOk := by
  unfold execHubReplyArrival; dsimp only [Out.MemOk]; repeat' split
  all_goals simp [h]

theorem execConfirmationArrival_memOk {s : State} (h : Memory.wf s.mem = true) : (execConfirmationArrival s).MemOk := by
  unfold execConfirmationArrival; dsimp only [Out.MemOk]; repeat' split
  all_goals simp [h]

theorem execProvisionalWithdraw_memOk {s : State} (h : Memory.wf s.mem = true) : (execProvisionalWithdraw s).MemOk := withdrawEvent_memOk h
    _

theorem execWindowWithdraw_memOk {s : State} (h : Memory.wf s.mem = true) : (execWindowWithdraw s).MemOk := withdrawEvent_memOk h _

theorem execWindowRequest_memOk {s : State} (h : Memory.wf s.mem = true) : (execWindowRequest s).MemOk := by
  unfold execWindowRequest; dsimp only [Out.MemOk]; repeat' split
  all_goals simp [h]

theorem execOpenRequest_memOk {s : State} (h : Memory.wf s.mem = true) : (execOpenRequest s).MemOk := by
  unfold execOpenRequest; dsimp only [Out.MemOk]; repeat' split
  all_goals simp [h]

theorem execOpenRepresentTimer_memOk {s : State} (h : Memory.wf s.mem = true) : (execOpenRepresentTimer s).MemOk := by
  unfold execOpenRepresentTimer; dsimp only [Out.MemOk]; repeat' split
  all_goals simp [h]

theorem execBindApply_memOk {s : State} (h : Memory.wf s.mem = true) : (execBindApply s).MemOk := by
  unfold execBindApply; dsimp only [Out.MemOk]; repeat' split
  all_goals simp [h]

@[simp] theorem State.prepareNames_mem (d : Nat) (p : Prepare) :
    ∀ (l : List (Word64 × Word64)) (s : State), (s.prepareNames d p l).2.mem = s.mem
  | [], _ => rfl
  | e :: l, s => by
    unfold State.prepareNames; split
    · rfl
    · next e1 => exact (State.prepareNames_mem d p l _).trans (State.prepareName_mem e1)

theorem execPrepareRequest_memOk {s : State} (h : Memory.wf s.mem = true) : (execPrepareRequest s).MemOk := by
  unfold execPrepareRequest; dsimp only [Out.MemOk]
  split
  · exact h
  split
  · simp [h]
  split
  · next e => rw [State.mem_send]; exact wf_of_snd e (by simp [h])
  · next e => rw [State.mem_send, State.applyDecision_mem]; exact wf_of_snd e (by simp [h])

theorem execPrepareReplyArrival_memOk {s : State} (h : Memory.wf s.mem = true) : (execPrepareReplyArrival s).MemOk := by
  unfold execPrepareReplyArrival; dsimp only [Out.MemOk]; repeat' split
  all_goals simp [h]

theorem execVoteLimitExpiry_memOk {s : State} (h : Memory.wf s.mem = true) (home : Nat) : (execVoteLimitExpiry home s).MemOk := by
  unfold execVoteLimitExpiry; dsimp only [Out.MemOk]; repeat' split
  all_goals simp [h]

theorem execDecisionArrival_memOk {s : State} (h : Memory.wf s.mem = true) : (execDecisionArrival s).MemOk := by
  unfold execDecisionArrival; dsimp only [Out.MemOk]; repeat' split
  all_goals simp [h]

theorem execDecisionAckArrival_memOk {s : State} (h : Memory.wf s.mem = true) : (execDecisionAckArrival s).MemOk := by
  unfold execDecisionAckArrival; simp only [Out.memOk_next]; split <;> simp [h]

theorem execNtxcAckTimer_memOk {s : State} (h : Memory.wf s.mem = true) : (execNtxcAckTimer s).MemOk := by
  unfold execNtxcAckTimer; dsimp only [Out.MemOk]; repeat' split
  all_goals simp [h]

theorem execTxnIndoubt_memOk {s : State} (h : Memory.wf s.mem = true) (key : BitVec 64) : (execTxnIndoubt key s).MemOk := by
  unfold execTxnIndoubt; dsimp only [Out.MemOk]; repeat' split
  all_goals simp [h]

theorem execTxnSettle_memOk {s : State} (h : Memory.wf s.mem = true) (key : BitVec 64) : (execTxnSettle key s).MemOk := by
  unfold execTxnSettle; dsimp only [Out.MemOk]; repeat' split
  all_goals simp [h]

theorem execSnapshotRequest_memOk {s : State} (h : Memory.wf s.mem = true) : (execSnapshotRequest s).MemOk := by
  unfold execSnapshotRequest; dsimp only [Out.MemOk]
  split
  · exact h
  split
  case h_2 => exact h
  split
  · simp [h]
  · simp [h]
  · next e _ => simp [State.snapshot_mem e, h]
  · next e _ => simp [State.snapshot_mem e, h]

theorem execReclaim_memOk {s : State} (h : Memory.wf s.mem = true) : (execReclaim s).MemOk := by
  unfold execReclaim; dsimp only [Out.MemOk]
  split
  · exact h
  · have hs : ∀ l : List (Nat × Word64), Memory.wf (l.foldl (fun s e => s.dropFrame (entStack e.2) (entFrame e.2))
        (s.invalidate (s.objId s.focus.die s.index) none)).mem = true := fun l => by
      rw [mem_foldl (fun _ _ => by simp)]; simp [h]
    split
    · rw [State.letGo_mem]
      refine State.post_wf ?_ ..
      rw [State.setObj_mem]; exact hs _
    · refine State.post_wf ?_ ..
      rw [State.setObj_mem]; exact hs _

theorem execHandlerStart_memOk {s : State} (h : Memory.wf s.mem = true) : (execHandlerStart s).MemOk := by
  unfold execHandlerStart; dsimp only [Out.MemOk]; repeat' split
  all_goals simp [h]

theorem execTrapStart_memOk {s : State} (h : Memory.wf s.mem = true) : (execTrapStart s).MemOk := by
  unfold execTrapStart; dsimp only [Out.MemOk]; repeat' split
  all_goals simp [h]

theorem execFaultRecordWrite_memOk {s : State} (h : Memory.wf s.mem = true) : (execFaultRecordWrite s).MemOk := by
  unfold execFaultRecordWrite; dsimp only [Out.MemOk]; repeat' split
  all_goals simp [h]

theorem execBlockStallTimeout_memOk {s : State} (h : Memory.wf s.mem = true) : (execBlockStallTimeout s).MemOk := by
  unfold execBlockStallTimeout; simp only [Out.memOk_next]; split <;> simp [h]

theorem execWaitTimeoutExpiry_memOk {s : State} (h : Memory.wf s.mem = true) : (execWaitTimeoutExpiry s).MemOk := by
  unfold execWaitTimeoutExpiry; dsimp only [Out.MemOk]; repeat' split
  all_goals simp [h]

theorem execBarrierArrival_memOk {s : State} (h : Memory.wf s.mem = true) : (execBarrierArrival s).MemOk := by
  unfold execBarrierArrival; simp only [Out.memOk_next]; split <;> simp [h]

theorem execContextDrained_memOk {s : State} (h : Memory.wf s.mem = true) : (execContextDrained s).MemOk := by
  unfold execContextDrained; dsimp only [Out.MemOk]; repeat' split
  all_goals simp [h]

theorem execLbTagStateWrite_memOk {s : State} (h : Memory.wf s.mem = true) (byte : BitVec 8) : (execLbTagStateWrite byte s).MemOk := by
  unfold execLbTagStateWrite; simp only [Out.memOk_next]; split <;> simp [h]

theorem execCopyStart_memOk {s : State} (h : Memory.wf s.mem = true) : (execCopyStart s).MemOk := by
  unfold execCopyStart; dsimp only [Out.MemOk]; repeat' split
  all_goals simp [h]

theorem execCopyComplete_memOk {s : State} (h : Memory.wf s.mem = true) : (execCopyComplete s).MemOk := by
  unfold execCopyComplete; dsimp only [Out.MemOk]
  split
  · exact h
  split
  · exact h
  split
  · next e => exact wf_of_snd e (by simp [h])
  · next e => rw [State.copyDone_mem]; exact wf_of_snd e (by simp [h])

theorem execDealerRun_memOk {s : State} (h : Memory.wf s.mem = true) : (execDealerRun s).MemOk := by
  unfold execDealerRun; dsimp only [Out.MemOk]
  split
  · exact h
  split
  · exact h
  split
  · next e => exact wf_of_snd e (by simp [h])
  · next e => rw [State.complete_mem, State.updDie_mem]; exact wf_of_snd e (by simp [h])

theorem execLandingFill_memOk {s : State} (h : Memory.wf s.mem = true) : (execLandingFill s).MemOk := by
  unfold execLandingFill; dsimp only [Out.MemOk]; repeat' split
  all_goals simp [h]

theorem execExchangeFlushArrival_memOk {s : State} (h : Memory.wf s.mem = true) : (execExchangeFlushArrival s).MemOk := by
  unfold execExchangeFlushArrival; dsimp only [Out.MemOk]; repeat' split
  all_goals simp [h]

theorem execExchangeReturnArrival_memOk {s : State} (h : Memory.wf s.mem = true) : (execExchangeReturnArrival s).MemOk := by
  unfold execExchangeReturnArrival; dsimp only [Out.MemOk]; repeat' split
  all_goals simp [h, mem_foldl]

theorem execOverflowRecordArrival_memOk {s : State} (h : Memory.wf s.mem = true) : (execOverflowRecordArrival s).MemOk := by
  unfold execOverflowRecordArrival; dsimp only [Out.MemOk]
  split
  · exact h
  split
  · exact h
  rw [State.recordFinal_mem]
  cases e : State.receive _ _ _ _ _ with
  | none => simp [h]
  | some t => exact State.receive_wf (by simp [h]) e

theorem execExchangeConfigApply_memOk {s : State} (h : Memory.wf s.mem = true) : (execExchangeConfigApply s).MemOk := by
  unfold execExchangeConfigApply; dsimp only [Out.MemOk]; repeat' split
  all_goals simp [h]

theorem execXflushCounterWrite_memOk {s : State} (h : Memory.wf s.mem = true) : (execXflushCounterWrite s).MemOk := by
  unfold execXflushCounterWrite; dsimp only [Out.MemOk]; repeat' split
  all_goals simp [h]

theorem execMeEntryStart_memOk {s : State} (h : Memory.wf s.mem = true) : (execMeEntryStart s).MemOk := by
  unfold execMeEntryStart; dsimp only [Out.MemOk]; repeat' split
  all_goals simp [h]

theorem execMeCommandApply_memOk {s : State} (h : Memory.wf s.mem = true) : (execMeCommandApply s).MemOk := by
  unfold execMeCommandApply; dsimp only [Out.MemOk]; repeat' split
  all_goals simp [h]

theorem execPlayRequest_memOk {s : State} (h : Memory.wf s.mem = true) : (execPlayRequest s).MemOk := by
  unfold execPlayRequest; dsimp only [Out.MemOk]; repeat' split
  all_goals simp [h]

theorem execPlayGrant_memOk {s : State} (h : Memory.wf s.mem = true) : (execPlayGrant s).MemOk := by
  unfold execPlayGrant; dsimp only [Out.MemOk]; repeat' split
  all_goals simp [h]

theorem execLatchArrival_memOk {s : State} (h : Memory.wf s.mem = true) : (execLatchArrival s).MemOk := by
  unfold execLatchArrival; dsimp only [Out.MemOk]; repeat' split
  all_goals simp [h]

/-- What the checks of a commit leave of memory, whether the commit goes on or not. -/
@[simp] def Checked.MemOk : Checked → Prop
  | .ready t | .stop t => Memory.wf t.mem = true

/-- What the check of one write leaves of memory. -/
@[simp] def WriteStep.MemOk : WriteStep → Prop
  | .ready t | .wait t | .refused _ _ t => Memory.wf t.mem = true

theorem State.checkWrite_memOk {s : State} (h : Memory.wf s.mem = true) (p : Place) (o : Word64) (ents : Nat → Word64) (els : List C4)
    (rlx : Bool) : (s.checkWrite p o ents els rlx).MemOk := by
  unfold State.checkWrite
  split
  · exact h
  split
  · exact h
  split
  all_goals next e => exact wf_of_snd e (by simp [h])

theorem State.checkOps_memOk (p : Place) : ∀ (l : List Counted) {s : State} (waits : Bool), Memory.wf s.mem = true →
    (s.checkOps p l waits).MemOk
  | [], s, waits, h => by unfold State.checkOps; cases waits <;> exact h
  | x :: l, s, waits, h => by
    unfold State.checkOps
    split
    · exact State.checkOps_memOk p l _ h
    · next g o els plain _ =>
      have hw := State.checkWrite_memOk h p o (s.objOf (hobj o)).entry els (plain && ((s.tile p.die p.tile).ag g).rlx true)
      split <;> rename_i e <;> rw [e] at hw
      · exact State.checkOps_memOk p l _ hw
      · exact State.checkOps_memOk p l _ hw
      · simpa using hw

theorem State.checkAppends_memOk (p : Place) : ∀ (l : List Append) {s : State} (waits : Bool), Memory.wf s.mem = true →
    (s.checkAppends p l waits).MemOk
  | [], s, waits, h => by unfold State.checkAppends; cases waits <;> exact h
  | x :: l, s, waits, h => by
    unfold State.checkAppends
    extract_lets a id js
    split
    · simpa using h
    split
    · simpa using h
    split
    · exact State.checkAppends_memOk p l _ h
    split; next ents s1 e1 =>
    have hw := State.checkWrite_memOk (wf_of_snd e1 (by simp [h])) p a.handle (look 0#64 ents) (a.elsAt x.k) (a.rlx true)
    split <;> rename_i e <;> rw [e] at hw
    · exact State.checkAppends_memOk p l _ hw
    · exact State.checkAppends_memOk p l _ hw
    · simpa using hw

theorem State.checkBlock_memOk {s : State} (h : Memory.wf s.mem = true) (p : Place) (r : Run) (x : FiredExit) :
    (s.checkBlock p r x).MemOk := by
  unfold State.checkBlock
  split
  · simpa using h
  · have ho := State.checkOps_memOk p (sortLsid r.counted) false h
    split <;> rename_i e <;> rw [e] at ho
    · exact ho
    · exact State.checkAppends_memOk p _ _ ho

theorem execBlockCommit_memOk {s : State} (h : Memory.wf s.mem = true) : (execBlockCommit s).MemOk := by
  unfold execBlockCommit; dsimp only [Out.MemOk]
  split
  · exact h
  next r _ =>
  split
  · exact h
  split
  · simp [h]
  split
  · exact h
  split
  · simp [h]
  split
  · exact h
  · next x _ =>
    have hb := State.checkBlock_memOk h s.focus r x
    split <;> rename_i e <;> rw [e] at hb
    · exact hb
    · exact State.perform_wf (by simpa using hb) ..

theorem execMessageSend_memOk {s : State} (h : Memory.wf s.mem = true) : (execMessageSend s).MemOk := by
  unfold execMessageSend; dsimp only [Out.MemOk]; repeat' split
  all_goals simp [h]

theorem execFragmentArrival_memOk {s : State} (h : Memory.wf s.mem = true) : (execFragmentArrival s).MemOk := by
  unfold execFragmentArrival; dsimp only [Out.MemOk]; repeat' split
  all_goals simp [h]

theorem execMeldDelivery_memOk {s : State} (h : Memory.wf s.mem = true) : (execMeldDelivery s).MemOk := by
  unfold execMeldDelivery; dsimp only [Out.MemOk]; repeat' split
  all_goals simp [h]

theorem execMessageCompleted_memOk {s : State} (h : Memory.wf s.mem = true) : (execMessageCompleted s).MemOk := by
  unfold execMessageCompleted; simp only [Out.memOk_next]; split <;> simp [h]

theorem execAckTimer_memOk {s : State} (h : Memory.wf s.mem = true) : (execAckTimer s).MemOk := by
  unfold execAckTimer; dsimp only [Out.MemOk]; repeat' split
  all_goals simp [h]

theorem execAckArrival_memOk {s : State} (h : Memory.wf s.mem = true) : (execAckArrival s).MemOk := by
  refine controlArrival_memOk h _ _ fun _ _ _ l t hu => ?_
  cases l <;> simp [mem_foldl, hu]

theorem execBusyArrival_memOk {s : State} (h : Memory.wf s.mem = true) : (execBusyArrival s).MemOk := by
  refine controlArrival_memOk h _ _ fun _ _ _ l t hu => ?_
  cases l <;> simp [hu]

theorem execBusyResendTimer_memOk {s : State} (h : Memory.wf s.mem = true) : (execBusyResendTimer s).MemOk := by
  unfold execBusyResendTimer; dsimp only [Out.MemOk]; repeat' split
  all_goals simp [h]

theorem execMeldTimeout_memOk {s : State} (h : Memory.wf s.mem = true) : (execMeldTimeout s).MemOk := by
  unfold execMeldTimeout; dsimp only [Out.MemOk]; repeat' split
  all_goals simp [h]

theorem execRepairArrival_memOk {s : State} (h : Memory.wf s.mem = true) : (execRepairArrival s).MemOk := by
  refine controlArrival_memOk h _ _ fun _ _ _ l t hu => ?_
  dsimp only; repeat' split
  all_goals simp [hu]

theorem execSourceTimerExpiry_memOk {s : State} (h : Memory.wf s.mem = true) : (execSourceTimerExpiry s).MemOk := by
  unfold execSourceTimerExpiry; dsimp only [Out.MemOk]; repeat' split
  all_goals simp [h]

theorem execGiveupArrival_memOk {s : State} (h : Memory.wf s.mem = true) : (execGiveupArrival s).MemOk := by
  refine controlArrival_memOk h _ _ fun _ _ _ l t hu => ?_
  cases l <;> simp [hu]

theorem execLinkLossOfLock_memOk {s : State} (h : Memory.wf s.mem = true) : (execLinkLossOfLock s).MemOk := by
  unfold execLinkLossOfLock; simp only [Out.memOk_next]; split <;> simp [h]

theorem execLinkDownDeclare_memOk {s : State} (h : Memory.wf s.mem = true) : (execLinkDownDeclare s).MemOk := by
  unfold execLinkDownDeclare; dsimp only [Out.MemOk]
  split
  · split
    · exact h
    · rw [mem_foldl (fun _ _ => by simp), mem_foldl (fun _ _ => by simp)]; simp [h]
  · exact h

theorem execChordNewsArrival_memOk {s : State} (h : Memory.wf s.mem = true) : (execChordNewsArrival s).MemOk := by
  unfold execChordNewsArrival; simp only [Out.memOk_next]; split <;> simp [h]

theorem execLinkUp_memOk {s : State} (h : Memory.wf s.mem = true) : (execLinkUp s).MemOk := by
  unfold execLinkUp; simp only [Out.memOk_next]; split <;> simp [h]

theorem execUalinkInboundWrite_memOk {s : State} (h : Memory.wf s.mem = true) (requester : Nat) (station : Nat) (addr : BitVec 64) (data :
    BitVec 512) : (execUalinkInboundWrite requester station addr data s).MemOk := by
  unfold execUalinkInboundWrite; dsimp only [Out.MemOk]; repeat' split
  all_goals simp [h]

theorem execUalinkUnsupportedRequest_memOk {s : State} (h : Memory.wf s.mem = true) (read : Bool) (addr : BitVec 64) :
    (execUalinkUnsupportedRequest read addr s).MemOk := by
  simp [execUalinkUnsupportedRequest, h]

theorem execHeartbeatTimer_memOk {s : State} (h : Memory.wf s.mem = true) : (execHeartbeatTimer s).MemOk := by
  unfold execHeartbeatTimer; dsimp only [Out.MemOk]; repeat' split
  all_goals simp [h, mem_foldl]

theorem execHeartbeatArrival_memOk {s : State} (h : Memory.wf s.mem = true) : (execHeartbeatArrival s).MemOk := by
  unfold execHeartbeatArrival; simp only [Out.memOk_next]; split <;> simp [h]

theorem execRejoin_memOk {s : State} (h : Memory.wf s.mem = true) : (execRejoin s).MemOk := by
  unfold execRejoin; simp only [Out.memOk_next]; split <;> simp [h]

theorem execRouterTableWrite_memOk {s : State} (h : Memory.wf s.mem = true) (table : List (Nat × Nat × Port)) : (execRouterTableWrite table
    s).MemOk := by
  unfold execRouterTableWrite; simp only [Out.memOk_next]; split <;> simp [h]

theorem execDecrementApply_memOk {s : State} (h : Memory.wf s.mem = true) : (execDecrementApply s).MemOk := by
  unfold execDecrementApply; dsimp only [Out.MemOk]; repeat' split
  all_goals simp [h]

theorem execKillApply_memOk {s : State} (h : Memory.wf s.mem = true) : (execKillApply s).MemOk := by
  unfold execKillApply; dsimp only [Out.MemOk]; repeat' split
  all_goals simp [h]

theorem execPlacementPass_memOk {s : State} (h : Memory.wf s.mem = true) : (execPlacementPass s).MemOk := by
  simp [execPlacementPass, h]

theorem execTResExpiry_memOk {s : State} (h : Memory.wf s.mem = true) : (execTResExpiry s).MemOk := by
  unfold execTResExpiry; simp only [Out.memOk_next]; split <;> simp [h]

theorem execStagingMergeClose_memOk {s : State} (h : Memory.wf s.mem = true) : (execStagingMergeClose s).MemOk := by
  unfold execStagingMergeClose; dsimp only [Out.MemOk]
  repeat' split
  · exact h
  · exact h
  · exact wf_foldl (fun _ _ h => State.stageOne_wf h ..) _ _ (by simp [h])

theorem execStagingComplete_memOk {s : State} (h : Memory.wf s.mem = true) : (execStagingComplete s).MemOk := by
  unfold execStagingComplete; dsimp only [Out.MemOk]
  repeat' split
  · exact h
  · rw [State.setStateOf_mem]; exact wf_foldl (fun _ _ h => State.stageOne_wf h ..) _ _ h
  · exact wf_foldl (fun _ _ h => State.stageOne_wf h ..) _ _ h

theorem execTaskStart_memOk {s : State} (h : Memory.wf s.mem = true) : (execTaskStart s).MemOk := by
  unfold execTaskStart; simp only [Out.memOk_next]; split <;> simp [h]

theorem execPipelineStart_memOk {s : State} (h : Memory.wf s.mem = true) : (execPipelineStart s).MemOk := by
  unfold execPipelineStart; dsimp only [Out.MemOk]
  repeat' split
  · exact h
  · exact h
  · exact wf_foldl (fun _ _ h => State.startTask_wf h ..) _ _ (by rw [mem_foldl (fun _ _ => by simp)]; exact h)

theorem execTaskCompletion_memOk {s : State} (h : Memory.wf s.mem = true) : (execTaskCompletion s).MemOk := by
  unfold execTaskCompletion; dsimp only [Out.MemOk]; repeat' split
  all_goals simp [h]

theorem execRegionBlockWrite_memOk {s : State} (h : Memory.wf s.mem = true) (region : Nat) (image : BitVec 1024) : (execRegionBlockWrite
    region image s).MemOk := by
  unfold execRegionBlockWrite; dsimp only [Out.MemOk]; repeat' split
  all_goals simp [h]

theorem execLadderT1Expiry_memOk {s : State} (h : Memory.wf s.mem = true) : (execLadderT1Expiry s).MemOk := by
  unfold execLadderT1Expiry; dsimp only [Out.MemOk]; repeat' split
  all_goals simp [h]

theorem execLadderT2Expiry_memOk {s : State} (h : Memory.wf s.mem = true) : (execLadderT2Expiry s).MemOk := by
  unfold execLadderT2Expiry; dsimp only [Out.MemOk]; repeat' split
  all_goals simp [h]

theorem execTaskSaveComplete_memOk {s : State} (h : Memory.wf s.mem = true) : (execTaskSaveComplete s).MemOk := by
  unfold execTaskSaveComplete; dsimp only [Out.MemOk]; repeat' split
  all_goals simp [h]

theorem execHangProgressReport_memOk {s : State} (h : Memory.wf s.mem = true) : (execHangProgressReport s).MemOk := by
  unfold execHangProgressReport; dsimp only [Out.MemOk]; repeat' split
  all_goals simp [h]

theorem execDebugHalt_memOk {s : State} (h : Memory.wf s.mem = true) : (execDebugHalt s).MemOk := by
  simp [execDebugHalt, h]

theorem execDebugHaltRelease_memOk {s : State} (h : Memory.wf s.mem = true) : (execDebugHaltRelease s).MemOk := by
  simp [execDebugHaltRelease, h]

theorem execPowerUp_memOk {s : State} (h : Memory.wf s.mem = true) : (execPowerUp s).MemOk := State.cold_wf s (Memory.wf_filter _ h) []

theorem execLifeLogEpoch_memOk {s : State} (h : Memory.wf s.mem = true) : (execLifeLogEpoch s).MemOk := by
  unfold execLifeLogEpoch; simp only [Out.memOk_next]; split <;> simp [h]

theorem execDeviceReset_memOk {s : State} (h : Memory.wf s.mem = true) : (execDeviceReset s).MemOk := by
  simp [execDeviceReset, h]

theorem execDieReset_memOk {s : State} (h : Memory.wf s.mem = true) : (execDieReset s).MemOk := by
  unfold execDieReset; dsimp only [Out.MemOk]
  rw [State.setDie_mem]
  exact Memory.wf_filter _ (wf_foldl (fun _ _ h => State.cutPeer_wf (by simp [h]) ..) _ _ h)

theorem execOvertempReset_memOk {s : State} (h : Memory.wf s.mem = true) (dieC : Nat) (inletC : Nat) : (execOvertempReset dieC inletC
    s).MemOk := by
  unfold execOvertempReset; simp only [Out.memOk_next]; split <;> simp [h]

theorem execPresidingElection_memOk {s : State} (h : Memory.wf s.mem = true) : (execPresidingElection s).MemOk := by
  unfold execPresidingElection; simp only [Out.memOk_next]; split <;> simp [h]

theorem execBootGoWrite_memOk {s : State} (h : Memory.wf s.mem = true) (len : BitVec 32) : (execBootGoWrite len s).MemOk :=
    State.windowRequest_wf h _ _ _ fun _ h => State.bootGo_wf h _

theorem execSpdmRequest_memOk {s : State} (h : Memory.wf s.mem = true) (what : SpdmReq) : (execSpdmRequest what s).MemOk := by
  unfold execSpdmRequest; simp only [Out.memOk_next]; split <;> simp [h]

theorem execDoorbell_memOk {s : State} (h : Memory.wf s.mem = true) (fn : Nat) (q : Nat) (tail : BitVec 32) : (execDoorbell fn q tail
    s).MemOk := by
  simp [execDoorbell, h]

theorem execCdoneWrite_memOk {s : State} (h : Memory.wf s.mem = true) (fn : Nat) (q : Nat) (v : BitVec 32) : (execCdoneWrite fn q v
    s).MemOk := by
  simp [execCdoneWrite, h]

theorem execQueueEnable_memOk {s : State} (h : Memory.wf s.mem = true) (fn : Nat) (q : Nat) (en : Bool) : (execQueueEnable fn q en s).MemOk
    := by
  simp [execQueueEnable, h]

theorem execPcieOutOfWindowRequest_memOk {s : State} (h : Memory.wf s.mem = true) (fn : Nat) (word : BitVec 64) :
    (execPcieOutOfWindowRequest fn word s).MemOk := by
  simp [execPcieOutOfWindowRequest, h]

theorem execRegisterWrite_memOk {s : State} (h : Memory.wf s.mem = true) (reg : HwReg) (v : BitVec 64) : (execRegisterWrite reg v s).MemOk
    := by
  unfold execRegisterWrite; dsimp only [Out.MemOk]
  split
  case h_10 => exact State.windowRequest_wf h _ _ _ fun _ h => State.bootWrite_wf h ..
  case h_4 => split <;> simp [h]
  case h_7 => split <;> simp [h]
  all_goals simp [h]

theorem execMasterUnfreeze_memOk {s : State} (h : Memory.wf s.mem = true) : (execMasterUnfreeze s).MemOk := by
  unfold execMasterUnfreeze; simp only [Out.memOk_next]; split <;> simp [h]

theorem execMasterReset_memOk {s : State} (h : Memory.wf s.mem = true) : (execMasterReset s).MemOk := by
  unfold execMasterReset; simp only [Out.memOk_next]; split <;> simp [h]

theorem execHaltedContextWrite_memOk {s : State} (h : Memory.wf s.mem = true) (image : Option (List (BitVec 8))) : (execHaltedContextWrite
    image s).MemOk := by
  unfold execHaltedContextWrite; dsimp only [Out.MemOk]; repeat' split
  all_goals simp [h]

theorem execMachineCheck_memOk {s : State} (h : Memory.wf s.mem = true) : (execMachineCheck s).MemOk := by
  unfold execMachineCheck; dsimp only [Out.MemOk]
  repeat' split
  · exact h
  · exact wf_foldl (fun _ _ h => State.post_wf h ..) _ _ (by simp [h])
  · exact wf_foldl (fun _ _ h => State.post_wf h ..) _ _ (by simp [h])

theorem execKeySlotLoad_memOk {s : State} (h : Memory.wf s.mem = true) (slot : Nat) (dataKey : BitVec 128) (tweakKey : BitVec 128) :
    (execKeySlotLoad slot dataKey tweakKey s).MemOk := by
  unfold execKeySlotLoad; simp only [Out.memOk_next]; split <;> simp [h]

theorem execThrottleStepUp_memOk {s : State} (h : Memory.wf s.mem = true) (reading : Reading) : (execThrottleStepUp reading s).MemOk := by
  unfold execThrottleStepUp; simp only [Out.memOk_next]; split <;> simp [h]

theorem execThrottleStepDown_memOk {s : State} (h : Memory.wf s.mem = true) : (execThrottleStepDown s).MemOk := by
  unfold execThrottleStepDown; dsimp only [Out.MemOk]; repeat' split
  all_goals simp [h]

theorem execQueueAccept_memOk {s : State} (h : Memory.wf s.mem = true) (fn : Nat) (q : Nat) : (execQueueAccept fn q s).MemOk := by
  unfold execQueueAccept; dsimp only [Out.MemOk]; repeat' split
  all_goals simp [h]

theorem execCompletionPost_memOk {s : State} (h : Memory.wf s.mem = true) (fn : Nat) (q : Nat) : (execCompletionPost fn q s).MemOk := by
  unfold execCompletionPost; dsimp only [Out.MemOk]; repeat' split
  all_goals simp [h]

theorem execHostNop_memOk {s : State} (h : Memory.wf s.mem = true) (fn : Nat) (q : Nat) : (execHostNop fn q s).MemOk := by
  unfold execHostNop; simp only [Out.memOk_next]; split <;> simp [h]

theorem execHostFence_memOk {s : State} (h : Memory.wf s.mem = true) (fn : Nat) (q : Nat) : (execHostFence fn q s).MemOk := by
  unfold execHostFence; dsimp only [Out.MemOk]; repeat' split
  all_goals simp [h]

theorem execKick_memOk {s : State} (h : Memory.wf s.mem = true) (fn : Nat) (q : Nat) : (execKick fn q s).MemOk := by
  refine startCmd_memOk h _ _ _ fun c r p => ?_
  dsimp only; repeat' split
  all_goals simp [h]

theorem execKickDelivery_memOk {s : State} (h : Memory.wf s.mem = true) : (execKickDelivery s).MemOk := by
  unfold execKickDelivery; dsimp only [Out.MemOk]; repeat' split
  all_goals simp [h]

theorem execLaunch_memOk {s : State} (h : Memory.wf s.mem = true) (fn : Nat) (q : Nat) : (execLaunch fn q s).MemOk := by
  refine startCmd_memOk h _ _ _ fun c r p => ?_
  dsimp only; repeat' split
  case h_2.isTrue e _ =>
    refine State.commitInst_wf ?_ ..
    rw [State.updCmd_mem]; exact (frame_claimInst e).wf h
  case h_2.isFalse e _ =>
    refine State.commitInst_wf ?_ ..
    rw [State.finish_mem]; exact (frame_claimInst e).wf h
  all_goals simp [h]

theorem execMakeobj_memOk {s : State} (h : Memory.wf s.mem = true) (fn : Nat) (q : Nat) : (execMakeobj fn q s).MemOk := by
  refine startCmd_memOk h _ _ _ fun c r p => ?_
  dsimp only; split
  · simp [h]
  · next e =>
    rw [State.hostBind_mem, State.updCmd_mem]; exact (frame_makeObj e).wf h

theorem execSnapshot_memOk {s : State} (h : Memory.wf s.mem = true) (fn : Nat) (q : Nat) : (execSnapshot fn q s).MemOk := by
  refine startCmd_memOk h _ _ _ fun c r p => ?_
  dsimp only; repeat' split
  all_goals simp [h]

theorem execBindn_memOk {s : State} (h : Memory.wf s.mem = true) (fn : Nat) (q : Nat) : (execBindn fn q s).MemOk := by
  refine startCmd_memOk h _ _ _ fun c r p => ?_
  dsimp only; repeat' split
  all_goals simp [h]

theorem execCopyin_memOk {s : State} (h : Memory.wf s.mem = true) (fn : Nat) (q : Nat) : (execCopyin fn q s).MemOk := copyEvent_memOk h _ _
    _

theorem execCopyout_memOk {s : State} (h : Memory.wf s.mem = true) (fn : Nat) (q : Nat) : (execCopyout fn q s).MemOk := copyEvent_memOk h _
    _ _

theorem execQstat_memOk {s : State} (h : Memory.wf s.mem = true) (fn : Nat) (q : Nat) : (execQstat fn q s).MemOk := startCmd_memOk h _ _ _
    fun _ _ _ => by simp [h]

theorem execPartstat_memOk {s : State} (h : Memory.wf s.mem = true) (fn : Nat) (q : Nat) : (execPartstat fn q s).MemOk := startCmd_memOk h
    _ _ _ fun _ _ _ => by simp [h]

theorem execPreempt_memOk {s : State} (h : Memory.wf s.mem = true) (fn : Nat) (q : Nat) : (execPreempt fn q s).MemOk := by
  refine startCmd_memOk h _ _ _ fun c r p => ?_
  dsimp only; repeat' split
  all_goals simp [h]

theorem execResume_memOk {s : State} (h : Memory.wf s.mem = true) (fn : Nat) (q : Nat) : (execResume fn q s).MemOk := by
  refine startCmd_memOk h _ _ _ fun c r p => ?_
  dsimp only; repeat' split
  all_goals simp [h]

/-- What an event leads to keeps memory in its canonical form. -/
theorem memOk_event {i : Instr} (hi : (encode i).isNone = true) {s : State} (h : Memory.wf s.mem = true) : Out.MemOk (exec i s) := by
  cases i with
  | bootGoWrite len => exact execBootGoWrite_memOk h len
  | spdmRequest what => exact execSpdmRequest_memOk h what
  | pcieOutOfWindowRequest fn word => exact execPcieOutOfWindowRequest_memOk h fn word
  | doorbell fn q tail => exact execDoorbell_memOk h fn q tail
  | cdoneWrite fn q v => exact execCdoneWrite_memOk h fn q v
  | queueEnable fn q en => exact execQueueEnable_memOk h fn q en
  | registerWrite reg v => exact execRegisterWrite_memOk h reg v
  | queueAccept fn q => exact execQueueAccept_memOk h fn q
  | completionPost fn q => exact execCompletionPost_memOk h fn q
  | hostNop fn q => exact execHostNop_memOk h fn q
  | kick fn q => exact execKick_memOk h fn q
  | launch fn q => exact execLaunch_memOk h fn q
  | makeobj fn q => exact execMakeobj_memOk h fn q
  | bindn fn q => exact execBindn_memOk h fn q
  | copyin fn q => exact execCopyin_memOk h fn q
  | copyout fn q => exact execCopyout_memOk h fn q
  | hostFence fn q => exact execHostFence_memOk h fn q
  | qstat fn q => exact execQstat_memOk h fn q
  | preempt fn q => exact execPreempt_memOk h fn q
  | resume fn q => exact execResume_memOk h fn q
  | snapshot fn q => exact execSnapshot_memOk h fn q
  | partstat fn q => exact execPartstat_memOk h fn q
  | lbTagStateWrite byte => exact execLbTagStateWrite_memOk h byte
  | mailboxMapWrite words => exact execMailboxMapWrite_memOk h words
  | allowanceReturnTimer sender => exact execAllowanceReturnTimer_memOk h sender
  | ualinkInboundWrite requester station addr data => exact execUalinkInboundWrite_memOk h requester station addr data
  | ualinkUnsupportedRequest read addr => exact execUalinkUnsupportedRequest_memOk h read addr
  | voteLimitExpiry home => exact execVoteLimitExpiry_memOk h home
  | txnIndoubt key => exact execTxnIndoubt_memOk h key
  | txnSettle key => exact execTxnSettle_memOk h key
  | keySlotLoad slot dataKey tweakKey => exact execKeySlotLoad_memOk h slot dataKey tweakKey
  | routerTableWrite table => exact execRouterTableWrite_memOk h table
  | regionBlockWrite region image => exact execRegionBlockWrite_memOk h region image
  | throttleStepUp reading => exact execThrottleStepUp_memOk h reading
  | overtempReset dieC inletC => exact execOvertempReset_memOk h dieC inletC
  | haltedContextWrite image => exact execHaltedContextWrite_memOk h image
  | powerUp => exact execPowerUp_memOk h
  | deviceReset => exact execDeviceReset_memOk h
  | dieReset => exact execDieReset_memOk h
  | kickDelivery => exact execKickDelivery_memOk h
  | presidingElection => exact execPresidingElection_memOk h
  | blockFetch => exact execBlockFetch_memOk h
  | blockDecode => exact execBlockDecode_memOk h
  | blockCommit => exact execBlockCommit_memOk h
  | blockStallTimeout => exact execBlockStallTimeout_memOk h
  | waitTimeoutExpiry => exact execWaitTimeoutExpiry_memOk h
  | contextDrained => exact execContextDrained_memOk h
  | handlerStart => exact execHandlerStart_memOk h
  | trapStart => exact execTrapStart_memOk h
  | landingFill => exact execLandingFill_memOk h
  | faultRecordWrite => exact execFaultRecordWrite_memOk h
  | windowRequest => exact execWindowRequest_memOk h
  | windowWithdraw => exact execWindowWithdraw_memOk h
  | tensorRequest => exact execTensorRequest_memOk h
  | tensorReply => exact execTensorReply_memOk h
  | tableWalk => exact execTableWalk_memOk h
  | linkFlitRetry => exact execLinkFlitRetry_memOk h
  | cowComplete => exact execCowComplete_memOk h
  | copyStart => exact execCopyStart_memOk h
  | copyComplete => exact execCopyComplete_memOk h
  | dealerRun => exact execDealerRun_memOk h
  | streamReadahead => exact execStreamReadahead_memOk h
  | meEntryStart => exact execMeEntryStart_memOk h
  | meCommandApply => exact execMeCommandApply_memOk h
  | playRequest => exact execPlayRequest_memOk h
  | playGrant => exact execPlayGrant_memOk h
  | latchArrival => exact execLatchArrival_memOk h
  | cardSend => exact execCardSend_memOk h
  | frameCardArrival => exact execFrameCardArrival_memOk h
  | queueCardArrival => exact execQueueCardArrival_memOk h
  | landingCardArrival => exact execLandingCardArrival_memOk h
  | replyCardArrival => exact execReplyCardArrival_memOk h
  | atomicCardArrival => exact execAtomicCardArrival_memOk h
  | cardAck => exact execCardAck_memOk h
  | queueMailboxFire => exact execQueueMailboxFire_memOk h
  | mailboxConfigApply => exact execMailboxConfigApply_memOk h
  | allowanceReturnArrival => exact execAllowanceReturnArrival_memOk h
  | refreshTimer => exact execRefreshTimer_memOk h
  | refreshRequestArrival => exact execRefreshRequestArrival_memOk h
  | messageSend => exact execMessageSend_memOk h
  | fragmentArrival => exact execFragmentArrival_memOk h
  | meldDelivery => exact execMeldDelivery_memOk h
  | messageCompleted => exact execMessageCompleted_memOk h
  | ackTimer => exact execAckTimer_memOk h
  | ackArrival => exact execAckArrival_memOk h
  | busyArrival => exact execBusyArrival_memOk h
  | busyResendTimer => exact execBusyResendTimer_memOk h
  | meldTimeout => exact execMeldTimeout_memOk h
  | repairArrival => exact execRepairArrival_memOk h
  | sourceTimerExpiry => exact execSourceTimerExpiry_memOk h
  | giveupArrival => exact execGiveupArrival_memOk h
  | linkLossOfLock => exact execLinkLossOfLock_memOk h
  | linkDownDeclare => exact execLinkDownDeclare_memOk h
  | chordNewsArrival => exact execChordNewsArrival_memOk h
  | linkUp => exact execLinkUp_memOk h
  | exchangeConfigApply => exact execExchangeConfigApply_memOk h
  | exchangeFlushArrival => exact execExchangeFlushArrival_memOk h
  | exchangeReturnArrival => exact execExchangeReturnArrival_memOk h
  | overflowRecordArrival => exact execOverflowRecordArrival_memOk h
  | xflushCounterWrite => exact execXflushCounterWrite_memOk h
  | heartbeatTimer => exact execHeartbeatTimer_memOk h
  | heartbeatArrival => exact execHeartbeatArrival_memOk h
  | rejoin => exact execRejoin_memOk h
  | decrementApply => exact execDecrementApply_memOk h
  | killApply => exact execKillApply_memOk h
  | placementPass => exact execPlacementPass_memOk h
  | tResExpiry => exact execTResExpiry_memOk h
  | stagingMergeClose => exact execStagingMergeClose_memOk h
  | stagingComplete => exact execStagingComplete_memOk h
  | taskStart => exact execTaskStart_memOk h
  | pipelineStart => exact execPipelineStart_memOk h
  | barrierArrival => exact execBarrierArrival_memOk h
  | taskCompletion => exact execTaskCompletion_memOk h
  | ladderT1Expiry => exact execLadderT1Expiry_memOk h
  | ladderT2Expiry => exact execLadderT2Expiry_memOk h
  | taskSaveComplete => exact execTaskSaveComplete_memOk h
  | hangProgressReport => exact execHangProgressReport_memOk h
  | debugHalt => exact execDebugHalt_memOk h
  | debugHaltRelease => exact execDebugHaltRelease_memOk h
  | openRequest => exact execOpenRequest_memOk h
  | openRepresentTimer => exact execOpenRepresentTimer_memOk h
  | bindApply => exact execBindApply_memOk h
  | confirmationArrival => exact execConfirmationArrival_memOk h
  | provisionalWithdraw => exact execProvisionalWithdraw_memOk h
  | hubReplyArrival => exact execHubReplyArrival_memOk h
  | prepareRequest => exact execPrepareRequest_memOk h
  | prepareReplyArrival => exact execPrepareReplyArrival_memOk h
  | decisionArrival => exact execDecisionArrival_memOk h
  | decisionAckArrival => exact execDecisionAckArrival_memOk h
  | ntxcAckTimer => exact execNtxcAckTimer_memOk h
  | reclaim => exact execReclaim_memOk h
  | snapshotRequest => exact execSnapshotRequest_memOk h
  | machineCheck => exact execMachineCheck_memOk h
  | masterUnfreeze => exact execMasterUnfreeze_memOk h
  | masterReset => exact execMasterReset_memOk h
  | lifeLogEpoch => exact execLifeLogEpoch_memOk h
  | throttleStepDown => exact execThrottleStepDown_memOk h
  | _ => exact nomatch hi

theorem memOk_exec {i : Instr} {s t : State} (h : MemOk s) (e : exec i s = .next t) : MemOk t := by
  cases hi : (encode i).isSome with
  | true => exact (firingStep_of_exec hi e).wf h
  | false =>
    have ht := memOk_event (i := i) (by simpa using hi) h
    rw [e] at ht
    exact ht

theorem memOk_runAt {i : Instr} {p : Place} {k : Nat} {s t : State} (h : MemOk s) (e : runAt i p k s = .next t) : MemOk t := by
  obtain ⟨u, hu, hr⟩ := runAt_next i p k s
  cases hr.symm.trans e
  exact memOk_exec (t := u) (show MemOk { s with focus := p, index := k } from h) hu

theorem memOk_runMove {m : Move} {s t : State} (h : MemOk s) (e : runMove m s = .next t) : MemOk t := by
  cases m with
  | wait n => cases e; exact h
  | event x p k =>
    simp only [runMove] at e
    split at e
    · cases e
    · split at e
      · exact memOk_runAt h e
      · cases e
  | fire p k =>
    simp only [runMove] at e
    split at e
    · cases e
    · split at e
      · exact memOk_runAt h e
      · cases e; exact h

/-- Settles O57: an instruction's firing keeps the canonical form (`FiringStep`), and so does what each event leads to. -/
theorem memoryStaysCanonical : Obligations.MemoryStaysCanonical := by
  intro s t h e
  unfold step at e
  split at e
  · next m rest _ => exact memOk_runMove (show MemOk { s with agenda := rest } from h) e
  · exact memOk_runMove h e

end Sys2Proof.Machine
end

section
/-! PROOFS of the integer instructions (08_be_integer.md): what a value instruction delivers, by the body that it fires with, and
the readings of R127 as those of bit vectors. -/

namespace Sys2Proof.Machine

open Sys2Proof.Safety

/-! ### Value instructions (06_block_engine.md R89-R92) -/

theorem length_of_ready {s : State} {i : Instr} {vals : List Reg} {r : Run} (h : Ready s i vals r) :
    vals.length = (shapeOf i s.index).slots := by
  simpa using (congrArg List.length h.data).symm

/-- A value instruction does what its body says of as many operands as it takes. -/
theorem computes_of_body {p : BitVec 2} {i : BitVec 7 → BitVec 7 → Instr} {n : Nat} {ok : List Reg → Bool} {f : List Reg → Reg} {body : List Reg → State → Act}
    (hexec : ∀ t u s, exec (i t u) s = .next (fire (shapeOf (i t u) s.index) body s) := by intros; rfl)
    (hshape : ∀ t u k, shapeOf (i t u) k = { pr := p, slots := n, targets := [t.toNat, u.toNat] } := by intros; rfl)
    (hbody : ∀ vals s, vals.length = n → body vals s = if ok vals then .res s (f vals) else .flt .tagFault) : Computes i ok f := by
  intro t u s r vals ready
  have hb := hbody vals s (by rw [length_of_ready ready, hshape])
  refine ⟨fun hok free => ?_, fun hok => ?_⟩
  · exact delivers_of_done s ready (hexec t u s) (by rw [hb, if_pos hok]; rfl) (by rw [hshape]; rfl) free
  · exact faults_of_fault s ready (hexec t u s) (by rw [hb, if_neg (by simp [hok])]; rfl)

theorem computes1_of_body {p : BitVec 2} {i : BitVec 7 → Instr} {n : Nat} {ok : List Reg → Bool} {f : List Reg → Reg} {body : List Reg → State → Act}
    (hexec : ∀ t s, exec (i t) s = .next (fire (shapeOf (i t) s.index) body s) := by intros; rfl)
    (hshape : ∀ t k, shapeOf (i t) k = { pr := p, slots := n, targets := [t.toNat] } := by intros; rfl)
    (hbody : ∀ vals s, vals.length = n → body vals s = if ok vals then .res s (f vals) else .flt .tagFault) : Computes1 i ok f := by
  intro t s r vals ready
  have hb := hbody vals s (by rw [length_of_ready ready, hshape])
  refine ⟨fun hok free => ?_, fun hok => ?_⟩
  · exact delivers_of_done s ready (hexec t s) (by rw [hb, if_pos hok]; rfl) (by rw [hshape]; rfl) free
  · exact faults_of_fault s ready (hexec t s) (by rw [hb, if_neg (by simp [hok])]; rfl)

theorem unary_eq {ok : List Reg → Bool} {ok1 : Tag → Bool} {f : List Reg → Reg} {g : Reg → Reg} (hok : ∀ a, ok [a] = ok1 a.tag)
    (hf : ∀ a, f [a] = g a) (vals : List Reg) (s : State) (hl : vals.length = 1) :
    unary ok1 g vals s = if ok vals then .res s (f vals) else .flt .tagFault := by
  obtain ⟨a, rfl⟩ := List.length_eq_one_iff.mp hl
  simp [unary, hok, hf]

theorem binary_eq {ok : List Reg → Bool} {ok2 : Tag → Tag → Bool} {f : List Reg → Reg} {g : Reg → Reg → Reg}
    (hok : ∀ a b, ok [a, b] = ok2 a.tag b.tag) (hf : ∀ a b, f [a, b] = g a b) (vals : List Reg) (s : State) (hl : vals.length = 2) :
    binary ok2 g vals s = if ok vals then .res s (f vals) else .flt .tagFault := by
  obtain ⟨a, b, rfl⟩ := List.length_eq_two.mp hl
  simp [binary, hok, hf]

theorem i64s_single (a : Reg) : i64s [a] = isI64 a.tag := by simp [i64s, isI64]

theorem i64s_pair (a b : Reg) : i64s [a, b] = bothI64 a.tag b.tag := by simp [i64s, bothI64]

/-! ### Signed and low readings (00_scope.md R2) -/

/-- The signed reading of a number's low bits is that of a bit vector. -/
theorem sgnN_eq_toInt {n : Nat} (hn : 0 < n) (x : Nat) : sgnN n x = (BitVec.ofNat n x).toInt := by
  have hx : x % 2 ^ n < 2 ^ n := Nat.mod_lt _ (Nat.two_pow_pos n)
  have h2 : 2 ^ n = 2 * 2 ^ (n - 1) := by rw [← Nat.pow_succ']; congr 1; omega
  have hd : x % 2 ^ n / 2 ^ (n - 1) = 1 ↔ ¬ 2 * (x % 2 ^ n) < 2 ^ n := by
    have hp := Nat.two_pow_pos (n - 1)
    rw [Nat.div_eq_iff hp]; omega
  simp only [sgnN, BitVec.toInt, BitVec.toNat_ofNat, hd, Nat.ne_of_gt hn, ne_eq, not_false_eq_true, true_and, ite_not]
  split <;> norm_num

theorem sgnN_toNat {n : Nat} (hn : 0 < n) (x : BitVec n) : sgnN n x.toNat = x.toInt := by
  rw [sgnN_eq_toInt hn, BitVec.ofNat_toNat, BitVec.setWidth_eq]

theorem ofInt_eq_ofNat_lowN (n : Nat) (v : Int) : BitVec.ofInt n v = BitVec.ofNat n (lowN n v) := by
  apply BitVec.eq_of_toInt_eq
  rw [lowN, BitVec.toInt_ofInt, BitVec.toInt_ofNat', Int.toNat_of_nonneg (Int.emod_nonneg _ (by positivity))]
  norm_cast
  rw [Int.emod_bmod]

theorem lowN_eq_toNat (n : Nat) (v : Int) : lowN n v = (BitVec.ofInt n v).toNat := by
  rw [ofInt_eq_ofNat_lowN, BitVec.toNat_ofNat, Nat.mod_eq_of_lt]
  have h := Int.emod_lt_of_pos v (show (0 : Int) < 2 ^ n by positivity)
  have h0 := Int.emod_nonneg v (show (2 ^ n : Int) ≠ 0 by positivity)
  rw [lowN]
  zify
  rw [Int.toNat_of_nonneg h0]
  exact h

theorem fldN_zero {m : Nat} (x : BitVec m) (n : Nat) : fldN x 0 n = (x.setWidth n).toNat := by simp [fldN]

/-! ### The operations of R127 -/

theorem Reg.w_ofW (w : Word64) : (Reg.ofW w).w = w := by
  simp only [Reg.ofW, Reg.w]; exact BitVec.setWidth_setWidth_of_le w (by decide)

/-- The result of an operation at the width of MOD[1:0], from the readings of the operands at that width. -/
theorem ialu_eq {w : BitVec 2} (hw : w ≠ 3#2) (v : Nat → Nat → Nat → Int → Int → Nat → Int) (vals : List Reg) :
    ialu w v vals =
      let W := aluWidth w
      let A := fldN (arg vals 0) 0 W
      let B := fldN (arg vals 1) 0 W
      Reg.ofW (aluResult w (v W A B (sgnN W A) (sgnN W B) (shiftCount W B))) := by
  have cases : ∀ w : BitVec 2, w ≠ 3#2 → w = 0#2 ∨ w = 1#2 ∨ w = 2#2 := by decide
  have s64 := sgnN_toNat (n := 64) (by decide)
  have s32 := sgnN_toNat (n := 32) (by decide)
  rcases cases w hw with rfl | rfl | rfl
  · simp only [ialu, aluWidth, aluResult, shiftCount, fldN_zero, s64, BitVec.setWidth_eq, if_true]
  · simp only [ialu, aluWidth, aluResult, shiftCount, fldN_zero, s32, lowN_eq_toNat, BitVec.signExtend, BitVec.reduceEq, Nat.reduceEqDiff,
      if_false, if_true]
  · simp only [ialu, aluWidth, aluResult, shiftCount, fldN_zero, s32, lowN_eq_toNat, BitVec.ofNat_toNat, BitVec.reduceEq, Nat.reduceEqDiff,
      if_false]

/-- A register form with two operands computes the operation of R127 that its function is, on readings of the width. -/
theorem computes_alu2 {p : BitVec 2} {i : BitVec 7 → BitVec 7 → Instr} {w : BitVec 2} (hw : w ≠ 3#2) {g : Nat → Nat → Nat → Int}
    {v : Nat → Nat → Nat → Int → Int → Nat → Int} (hexec : ∀ t u s, exec (i t u) s = .next (fire (shapeOf (i t u) s.index) (alu2 w g) s) := by intros; rfl)
    (hshape : ∀ t u k, shapeOf (i t u) k = { pr := p, slots := 2, targets := [t.toNat, u.toNat] } := by intros; rfl)
    (hg : ∀ W A B, 0 < W → A < 2 ^ W → B < 2 ^ W → g W A B = v W A B (sgnN W A) (sgnN W B) (shiftCount W B)) :
    Computes i i64s (ialu w v) := by
  refine computes_of_body hexec hshape (binary_eq i64s_pair fun a b => ?_)
  have hW : 0 < aluWidth w := by unfold aluWidth; split <;> decide
  rw [ialu_eq hw]
  exact congrArg (fun x => Reg.ofW (aluResult w x)) (hg _ _ _ hW (Nat.mod_lt _ (Nat.two_pow_pos _)) (Nat.mod_lt _ (Nat.two_pow_pos _))).symm

/-- A register form with one operand. -/
theorem computes_alu1 {p : BitVec 2} {i : BitVec 7 → BitVec 7 → Instr} {w : BitVec 2} (hw : w ≠ 3#2) {g : Nat → Nat → Int}
    {v : Nat → Nat → Nat → Int → Int → Nat → Int} (hexec : ∀ t u s, exec (i t u) s = .next (fire (shapeOf (i t u) s.index) (alu1 w g) s) := by intros; rfl)
    (hshape : ∀ t u k, shapeOf (i t u) k = { pr := p, slots := 1, targets := [t.toNat, u.toNat] } := by intros; rfl)
    (hg : ∀ W A B sA sB n, 0 < W → A < 2 ^ W → g W A = v W A B sA sB n) : Computes i i64s (ialu w v) := by
  refine computes_of_body hexec hshape (unary_eq i64s_single fun a => ?_)
  have hW : 0 < aluWidth w := by unfold aluWidth; split <;> decide
  rw [ialu_eq hw]
  exact congrArg (fun x => Reg.ofW (aluResult w x)) (hg _ _ _ _ _ _ hW (Nat.mod_lt _ (Nat.two_pow_pos _))).symm

/-- An immediate form computes the operation of R127 at 64 bits. -/
theorem computes1_aluI {p : BitVec 2} {i : BitVec 7 → Instr} {m : BitVec 11} {g : Nat → Nat → Nat → Int} {f : List Reg → Reg}
    (hexec : ∀ t s, exec (i t) s = .next (fire (shapeOf (i t) s.index) (aluI m g) s) := by intros; rfl)
    (hshape : ∀ t k, shapeOf (i t) k = { pr := p, slots := 1, targets := [t.toNat] } := by intros; rfl)
    (hf : ∀ a : Reg, f [a] = Reg.ofW (BitVec.ofInt 64 (g 64 a.w.toNat (m.signExtend 64).toNat))) : Computes1 i i64s f := by
  refine computes1_of_body hexec hshape (unary_eq i64s_single fun a => ?_)
  rw [hf, lowN_eq_toNat, sgnN_eq_toInt (by decide)]
  simp [aluResult, BitVec.signExtend]

theorem ialuImm_single (m : BitVec 11) (v : Nat → Nat → Nat → Int → Int → Nat → Int) (a : Reg) :
    ialuImm m v [a] = Reg.ofW (BitVec.ofInt 64 (v 64 a.w.toNat (m.signExtend 64).toNat (sgnN 64 a.w.toNat)
      (sgnN 64 (m.signExtend 64).toNat) (shiftCount 64 (m.signExtend 64).toNat))) := by
  simp [ialuImm, ialu, arg, Reg.w_ofW, sgnN_eq_toInt, shiftCount]

theorem computes1_ialuImm {p : BitVec 2} {i : BitVec 7 → Instr} {m : BitVec 11} {g : Nat → Nat → Nat → Int}
    {v : Nat → Nat → Nat → Int → Int → Nat → Int} (hexec : ∀ t s, exec (i t) s = .next (fire (shapeOf (i t) s.index) (aluI m g) s) := by intros; rfl)
    (hshape : ∀ t k, shapeOf (i t) k = { pr := p, slots := 1, targets := [t.toNat] } := by intros; rfl)
    (hg : ∀ A B, g 64 A B = v 64 A B (sgnN 64 A) (sgnN 64 B) (shiftCount 64 B)) : Computes1 i i64s (ialuImm m v) :=
  computes1_aluI hexec hshape fun a => by rw [ialuImm_single, hg]

/-! ### Counts, clamps and complements -/

theorem complement_eq_xor {W B : Nat} (h : B < 2 ^ W) : 2 ^ W - 1 - B = B ^^^ (2 ^ W - 1) := by
  have e := congrArg BitVec.toNat (BitVec.xor_allOnes (x := BitVec.ofNat W B))
  rw [BitVec.toNat_xor, BitVec.toNat_not, BitVec.toNat_allOnes, BitVec.toNat_ofNat, Nat.mod_eq_of_lt h] at e
  exact e.symm

/-- The lowest bit set is found by shifting. -/
theorem ctzGo_eq_find (w : Nat) : ∀ x, ctzGo w x = ((List.range w).find? fun k => x.testBit k).getD w := by
  induction w with
  | zero => intro x; rfl
  | succ w ih =>
    intro x
    rw [ctzGo, List.range_succ_eq_map, List.find?_cons, Nat.testBit_zero]
    by_cases h : x % 2 = 1
    · simp [h]
    · simp only [h, if_false, ih, List.find?_map, Function.comp_def, Nat.testBit_succ, decide_false]
      cases (List.range w).find? fun k => (x / 2).testBit k <;> simp [Nat.add_comm]

theorem popGo_eq_length (w : Nat) : ∀ x, popGo w x = ((List.range w).filter fun k => x.testBit k).length := by
  induction w with
  | zero => intro x; rfl
  | succ w ih =>
    intro x
    rw [popGo, List.range_succ_eq_map, List.filter_cons, List.filter_map, ih, Nat.testBit_zero]
    rcases Nat.mod_two_eq_zero_or_one x with h | h <;>
      simp [h, Function.comp_def, Nat.testBit_succ, Nat.add_comm]

theorem clamp_eq_clamped {W : Nat} (x : Int) : max (minS W) (min x (maxS W)) = clamped W x := by
  have hp : (0 : Int) < 2 ^ (W - 1) := by positivity
  simp only [clamped, minS, maxS]
  split
  · omega
  · split <;> omega

theorem shiftLeft_cast (A n : Nat) : ((A * 2 ^ n : Nat) : Int) = A * 2 ^ n := by push_cast; rfl

/-! ### Extensions -/

theorem ofInt_sgnN {n : Nat} (hn : 0 < n) (a : Word64) : BitVec.ofInt 64 (sgnN n a.toNat) = (a.setWidth n).signExtend 64 := by
  rw [sgnN_eq_toInt hn, BitVec.ofNat_toNat, BitVec.signExtend]

theorem ofNat_fldN (n : Nat) (a : Word64) : BitVec.ofNat 64 (fldN a 0 n) = (a.setWidth n).setWidth 64 := by
  rw [fldN_zero, BitVec.ofNat_toNat]

/-! ### The register forms and the immediate forms (R127, R128) -/

/-- Settles O1, form by form: what is left of each is that the model's function is v of R127, or of the immediate forms that the
bit-vector operation is it. -/
theorem integerInstructions : Obligations.IntegerInstructions := by
  refine ⟨fun p w hw => ⟨?_, ?_, ?_, ?_, ?_, ?_, ?_, ?_, ?_, ?_, ?_, ?_, ?_, ?_, ?_, ?_, ?_, ?_, ?_, ?_, ?_, ?_, ?_, ?_, ?_, ?_,
    ?_, ?_, ?_, ?_, ?_, ?_⟩, fun p m => ⟨?_, ?_, ?_, ?_, ?_, ?_, ?_, ?_, ?_, ?_⟩⟩
  · exact computes_alu2 hw (hg := fun _ _ _ _ _ _ => rfl)
  · exact computes_alu2 hw (hg := fun _ _ _ _ _ _ => rfl)
  · exact computes_alu2 hw (hg := fun _ _ _ _ _ _ => rfl)
  · exact computes_alu2 hw (hg := fun _ _ _ _ _ _ => rfl)
  · exact computes_alu2 hw (hg := fun _ _ _ _ _ _ => rfl)
  · exact computes_alu2 hw (hg := fun _ _ _ _ _ hB => by rw [complement_eq_xor hB])
  · exact computes_alu2 hw (hg := fun _ _ _ _ _ _ => shiftLeft_cast _ _)
  · exact computes_alu2 hw (hg := fun _ _ _ _ _ _ => rfl)
  · exact computes_alu2 hw (hg := fun _ _ _ _ _ _ => rfl)
  · exact computes_alu2 hw (hg := fun _ _ _ _ _ _ => rfl)
  · exact computes_alu2 hw (hg := fun _ _ _ _ _ _ => rfl)
  · exact computes_alu2 hw (hg := fun _ _ _ _ _ _ => rfl)
  · exact computes_alu2 hw (hg := fun _ _ _ _ _ _ => rfl)
  · exact computes_alu2 hw (hg := fun _ _ _ _ _ _ => rfl)
  · exact computes_alu2 hw (hg := fun _ _ _ _ _ _ => Nat.cast_mul _ _)
  · exact computes_alu2 hw (hg := fun _ _ _ _ _ _ => rfl)
  · exact computes_alu2 hw (hg := fun _ _ _ _ _ _ => rfl)
  · exact computes_alu2 hw (hg := fun _ _ _ _ _ _ => rfl)
  · exact computes_alu2 hw (hg := fun _ _ _ _ _ _ => rfl)
  · exact computes_alu2 hw (hg := fun _ _ _ _ _ _ => rfl)
  · exact computes_alu2 hw (hg := fun W A B _ _ _ => by simp [Int.emod_def])
  · exact computes_alu1 hw (hg := fun _ _ _ _ _ _ _ _ => rfl)
  · exact computes_alu1 hw (hg := fun W A _ _ _ _ _ _ => by rw [ctzGo_eq_find])
  · exact computes_alu1 hw (hg := fun W A _ _ _ _ _ _ => by rw [popGo_eq_length])
  · exact computes_alu2 hw (hg := fun _ _ _ _ _ _ => clamp_eq_clamped _)
  · exact computes_alu2 hw (hg := fun _ _ _ _ _ _ => clamp_eq_clamped _)
  · exact computes_of_body (hbody := unary_eq i64s_single fun a => congrArg Reg.ofW (ofInt_sgnN (n := 8) (by decide) a.w).symm)
  · exact computes_of_body (hbody := unary_eq i64s_single fun a => congrArg Reg.ofW (ofInt_sgnN (n := 16) (by decide) a.w).symm)
  · exact computes_of_body (hbody := unary_eq i64s_single fun a => congrArg Reg.ofW (ofInt_sgnN (n := 32) (by decide) a.w).symm)
  · exact computes_of_body (hbody := unary_eq i64s_single fun a => congrArg Reg.ofW (ofNat_fldN 8 a.w).symm)
  · exact computes_of_body (hbody := unary_eq i64s_single fun a => congrArg Reg.ofW (ofNat_fldN 16 a.w).symm)
  · exact computes_of_body (hbody := unary_eq i64s_single fun a => congrArg Reg.ofW (ofNat_fldN 32 a.w).symm)
  · exact computes1_ialuImm (hg := fun _ _ => rfl)
  · exact computes1_aluI (hf := fun a => by rw [vAnd, ← BitVec.toNat_and, BitVec.ofInt_natCast, BitVec.ofNat_toNat]; simp [arg])
  · exact computes1_aluI (hf := fun a => by rw [vOr, ← BitVec.toNat_or, BitVec.ofInt_natCast, BitVec.ofNat_toNat]; simp [arg])
  · exact computes1_aluI (hf := fun a => by rw [vXor, ← BitVec.toNat_xor, BitVec.ofInt_natCast, BitVec.ofNat_toNat]; simp [arg])
  · exact computes1_ialuImm (hg := fun _ _ => shiftLeft_cast _ _)
  · exact computes1_ialuImm (hg := fun _ _ => rfl)
  · exact computes1_ialuImm (hg := fun _ _ => rfl)
  · exact computes1_ialuImm (hg := fun _ _ => rfl)
  · exact computes1_ialuImm (hg := fun _ _ => rfl)
  · exact computes1_ialuImm (hg := fun _ _ => Nat.cast_mul _ _)

end Sys2Proof.Machine
end

section
/-! PROOFS of tests, constants, copies, exits, traps and special registers (07_be_control.md). -/

namespace Sys2Proof.Machine

open Sys2Proof.Safety

/-! ### Comparisons and predicate logic (R117-R119) -/

theorem bool_eq_truth {p : Prop} [Decidable p] {b : Bool} (h : p ↔ b = true) : bool p = Reg.truth b := by
  cases b <;> simp [Safety.bool, Reg.truth, b2n, h]

theorem computes_test2 {p : BitVec 2} {i : BitVec 7 → BitVec 7 → Instr} {g : Word64 → Word64 → Bool} {q : Word64 → Word64 → Prop}
    [∀ x y, Decidable (q x y)]
    (hexec : ∀ t u s, exec (i t u) s = .next (fire (shapeOf (i t u) s.index) (test2 g) s) := by intros; rfl)
    (hshape : ∀ t u k, shapeOf (i t u) k = { pr := p, slots := 2, targets := [t.toNat, u.toNat] } := by intros; rfl)
    (hq : ∀ x y, q x y ↔ g x y = true) : Computes i i64s (fun v => bool (q (arg v 0) (arg v 1))) :=
  computes_of_body hexec hshape (binary_eq i64s_pair fun a b => bool_eq_truth (hq a.w b.w))

theorem computes_testEq {p : BitVec 2} {i : BitVec 7 → BitVec 7 → Instr} {g : Word64 → Word64 → Bool} {q : Word64 → Word64 → Prop}
    [∀ x y, Decidable (q x y)]
    (hexec : ∀ t u s, exec (i t u) s = .next (fire (shapeOf (i t u) s.index) (testEq g) s) := by intros; rfl)
    (hshape : ∀ t u k, shapeOf (i t u) k = { pr := p, slots := 2, targets := [t.toNat, u.toNat] } := by intros; rfl)
    (hq : ∀ x y, q x y ↔ g x y = true) :
    Computes i (fun v => i64s v || v.all fun x => x.tag == .hndl) (fun v => bool (q (arg v 0) (arg v 1))) :=
  computes_of_body hexec hshape (binary_eq (fun a b => by simp [i64s]) fun a b => bool_eq_truth (hq a.w b.w))

theorem computes1_testI {p : BitVec 2} {m : BitVec 11} {i : BitVec 7 → Instr} {g : Word64 → Word64 → Bool} {q : Word64 → Word64 → Prop}
    [∀ x y, Decidable (q x y)]
    (hexec : ∀ t s, exec (i t) s = .next (fire (shapeOf (i t) s.index) (testI m g) s) := by intros; rfl)
    (hshape : ∀ t k, shapeOf (i t) k = { pr := p, slots := 1, targets := [t.toNat] } := by intros; rfl)
    (hq : ∀ x y, q x y ↔ g x y = true) : Computes1 i i64s (fun v => bool (q (arg v 0) (m.signExtend 64))) :=
  computes1_of_body hexec hshape (unary_eq i64s_single fun a => bool_eq_truth (hq a.w _))

/-! ### Nulls and tokens without data (R113-R116) -/

/-- A ready instruction that is not counted and sends one token. -/
theorem exec_of_done {s : State} {i : Instr} {vals : List Reg} {r : Run} {ts : List (BitVec 7)} {k : Token} {body : List Reg → State → Act}
    (ready : Ready s i vals r) (hexec : exec i s = .next (fire (shapeOf i s.index) body s)) (hbody : body vals s = .done [k] none s)
    (htargets : (shapeOf i s.index).targets = ts.map BitVec.toNat) (free : FreeTargets r ts) :
    exec i s = .next (s.updRun s.focus fun r => fired r s.index (sent ts k) []) := by
  have hmark : (fun r : Run => r.mark s.index (shapeOf i s.index) none) = fun r => fired r s.index [] [] := by
    funext r; simp [Run.mark, fired]
  have h7 : (ts.map BitVec.toNat).filter (fun t => t != 0x7F) = (ts.filter fun t => t != 0x7F#7).map BitVec.toNat := by
    rw [List.filter_map]; congr 1; apply List.filter_congr; intro t _
    simp [bne, BitVec.toNat_eq]
  rw [hexec, fire_ready ready, hbody, htargets]
  simp only [hmark]
  rw [updRun_deliverAll _ _ _ ready.run, h7, sent, List.map_map]
  · rfl
  · rw [h7]; exact free.1.map fun a b h => BitVec.eq_of_toNat_eq h
  · intro t ht h0
    obtain ⟨u, hu, rfl⟩ := List.mem_map.mp ht
    exact free.2 u hu fun e => h0 (by rw [e]; rfl)

/-- A ready instruction that is not counted and sends nothing leaves what its body leaves, and has fired. -/
theorem exec_of_done_nil {s t : State} {i : Instr} {vals : List Reg} {r : Run} {body : List Reg → State → Act} (ready : Ready s i vals r)
    (hexec : exec i s = .next (fire (shapeOf i s.index) body s)) (hbody : body vals s = .done [] none t) :
    exec i s = .next (t.updRun s.focus fun r => fired r s.index [] []) := by
  have hmark : (fun r : Run => r.mark s.index (shapeOf i s.index) none) = fun r => fired r s.index [] [] := by
    funext r; simp [Run.mark, fired]
  rw [hexec, fire_ready ready, hbody]
  simp only [hmark]
  cases (shapeOf i s.index).targets <;> rfl

theorem copies_eq (vals : List Reg) (s : State) (hl : vals.length = 1) :
    copyAct vals s = if vals.all fun x => x.tag != .empty && x.tag != .reserved15 then .res s (vals.getD 0 {}) else .flt .tagFault :=
  unary_eq (ok := fun v => v.all fun x => x.tag != .empty && x.tag != .reserved15) (f := fun v => v.getD 0 {})
    (fun a => by simp) (fun _ => rfl) vals s hl

/-- Settles O2: each comparison is that of its bit vectors; the fillers and constants send what they hold. -/
theorem testsConstantsAndCopies : Obligations.TestsConstantsAndCopies := by
  refine ⟨fun p => ⟨?_, ?_, ?_, ?_, ?_, ?_, ?_, ?_, ?_, fun i => ⟨?_, ?_, ?_, ?_, ?_, ?_, ?_, ?_⟩⟩, fun p => ⟨?_, ?_, ?_, ?_, fun i => ⟨?_, ?_⟩⟩⟩
  · exact computes_testEq (q := (· = ·)) (hq := fun x y => by simp)
  · exact computes_testEq (q := (· ≠ ·)) (hq := fun x y => by simp)
  · exact computes_test2 (q := fun x y => x.toInt < y.toInt) (hq := fun x y => by simp [BitVec.slt])
  · exact computes_test2 (q := fun x y => x.toInt ≤ y.toInt) (hq := fun x y => by simp [BitVec.sle])
  · exact computes_test2 (q := fun x y => x.toNat < y.toNat) (hq := fun x y => by simp [BitVec.ult])
  · exact computes_test2 (q := fun x y => x.toNat ≤ y.toNat) (hq := fun x y => by simp [BitVec.ule])
  · exact computes_test2 (q := fun x y => x ≠ 0#64 ∧ y ≠ 0#64) (hq := fun x y => by simp)
  · exact computes_test2 (q := fun x y => x ≠ 0#64 ∨ y ≠ 0#64) (hq := fun x y => by simp)
  · exact computes_of_body (hbody := unary_eq i64s_single fun a => bool_eq_truth (by simp [arg]))
  · exact computes1_testI (q := (· = ·)) (hq := fun x y => by simp)
  · exact computes1_testI (q := (· ≠ ·)) (hq := fun x y => by simp)
  · exact computes1_testI (q := fun x y => x.toInt < y.toInt) (hq := fun x y => by simp [BitVec.slt])
  · exact computes1_testI (q := fun x y => x.toInt ≤ y.toInt) (hq := fun x y => by simp [BitVec.sle])
  · exact computes1_testI (q := fun x y => x.toNat < y.toNat) (hq := fun x y => by simp [BitVec.ult])
  · exact computes1_testI (q := fun x y => x.toNat ≤ y.toNat) (hq := fun x y => by simp [BitVec.ule])
  · exact computes1_testI (q := fun x y => y.toInt < x.toInt) (hq := fun x y => by simp [BitVec.slt])
  · exact computes1_testI (q := fun x y => y.toInt ≤ x.toInt) (hq := fun x y => by simp [BitVec.sle])
  · exact fun s r ready => exec_of_done_nil ready rfl rfl
  · exact fun t u s r ready free => exec_of_done ready rfl rfl rfl free
  · exact computes_of_body (hbody := copies_eq)
  · exact fun t u w s r x ready free h0 h15 => delivers_of_done s ready rfl (by simp [copyAct, unary, h0, h15]; rfl) rfl free
  · exact computes1_of_body (n := 0) (hbody := fun _ _ _ => rfl)
  · exact computes1_of_body (n := 0) (hbody := fun _ _ _ => rfl)

/-! ### Exits (R93, R95, R103) -/

/-- A ready exit is recorded where it is its block's first, and faults else. -/
theorem exits_of_body {s : State} {i : Instr} {vals : List Reg} {r : Run} {body : List Reg → State → Act} {n : Nat} {k : ExitKind}
    (ready : Ready s i vals r) (hexec : exec i s = .next (fire (shapeOf i s.index) body s)) (hbody : body vals s = exitAct n k s) :
    (r.exits = [] → exec i s = .next (s.updRun s.focus fun r => { fired r s.index [] [] with exits := [⟨s.index, n, k⟩] })) ∧
    (r.exits ≠ [] → Faults i s .blockMultiExit 0#64 0#64) := by
  refine ⟨fun h => ?_, fun h => ?_⟩
  · rw [exec_of_done_nil ready hexec (t := s.updRun s.focus fun r => { r with exits := [⟨s.index, n, k⟩] })
      (by simp [hbody, exitAct, ready.run, h]), State.updRun_updRun]
    rfl
  · exact faults_of_fault s ready hexec (by simp [hbody, exitAct, ready.run, h]; rfl)

theorem indirect_eq_exitAct {s : State} {e : BitVec 3} {k : BitVec 32 → ExitKind} {x : Reg} (ht : x.tag = .i64) (hx : x.w.toNat < 2 ^ 32) :
    indirect e k [x] s = exitAct e.toNat (k (x.w.setWidth 32)) s := by
  have h0 : fldN x.w 32 32 = 0 := by rw [fldN, Nat.div_eq_of_lt hx, Nat.zero_mod]
  have h32 : fld x.w 0 32 = x.w.setWidth 32 := by simp [fld]
  simp [indirect, ht, h0, h32]

/-- An indirect target that is no I64, or is beyond 32 bits, faults. -/
theorem indirect_eq_fault {s : State} {e : BitVec 3} {k : BitVec 32 → ExitKind} {x : Reg} :
    (x.tag ≠ .i64 → indirect e k [x] s = .flt .tagFault) ∧
    (x.tag = .i64 → 2 ^ 32 ≤ x.w.toNat → indirect e k [x] s = .flt .window) := by
  refine ⟨fun ht => by simp [indirect, ht], fun ht hx => ?_⟩
  have h0 : fldN x.w 32 32 ≠ 0 := by rw [fldN]; omega
  simp [indirect, ht, h0]

theorem barrierExit_eq {s : State} {e : BitVec 3} {o : BitVec 20} (hc : s.focus.ctx = 0) (vals : List Reg) :
    barrierExit e o vals s = exitAct e.toNat (.barrier (branchTo s o)) s := by simp [barrierExit, hc]

/-! ### Debug halts (22_task_dispatcher.md R311) -/

theorem State.halt_updDie {s : State} {e : Nat} {f : Die → Die} (hf : ∀ x, (f x).halt = x.halt) (d : Nat) :
    ((s.updDie e f).die d).halt = (s.die d).halt := by
  by_cases h : d = e
  · subst h; rw [State.die_updDie, hf]
  · rw [State.die_updDie_ne _ _ h]

/-- The news of a halt leaves which dies are halted. -/
theorem State.halt_send_halt (s : State) (a b e : Nat) (l : List Nat) (d : Nat) :
    ((s.send a b (.halt e true l)).die d).halt = (s.die d).halt := by
  unfold State.send
  split
  · simp only [State.accept, if_true]
    split
    · exact State.halt_updDie (fun x => by split <;> rfl) d
    · rfl
  · apply State.halt_updDie
    exact fun _ => rfl

theorem State.halt_tellHalt (s : State) (e d : Nat) (l : List Nat) : ((s.tellHalt e true l).die d).halt = (s.die d).halt := by
  unfold State.tellHalt
  generalize ((List.range 32).filter fun x => (s.die x).live || x == e) = hubs
  induction hubs generalizing s with
  | nil => rfl
  | cons x hubs ih => exact (ih _).trans (State.halt_send_halt s e x e l d)

theorem State.halt_debugHalt (s : State) (d : Nat) : ((s.debugHalt d).die d).halt = some ((s.die d).halt.getD s.cycle) := by
  unfold State.debugHalt
  cases h : (s.die d).halt with
  | some n => simp [h]
  | none => simp [State.halt_tellHalt]

theorem faults_of_faultIn {s t : State} {i : Instr} {vals : List Reg} {r : Run} {c : Cause} {d0 d1 : Word64} {body : List Reg → State → Act}
    (ready : Ready s i vals r) (hexec : exec i s = .next (fire (shapeOf i s.index) body s)) (hbody : body vals s = .faultIn c d0 d1 t) :
    exec i s = .next (t.faultAt s.focus (some s.index) c d0 d1) := by
  rw [hexec, fire_ready ready, hbody]

/-- Settles O3: an exit that fires is `exitAct` of its number and kind, where its operand names a target. -/
theorem exitsAndTraps : Obligations.ExitsAndTraps := by
  intro p e o c code l b s r dest exits
  refine ⟨fun h => exits_of_body h rfl rfl, fun h => exits_of_body h rfl rfl, fun h hc => exits_of_body h rfl (barrierExit_eq hc _),
    fun h hc => faults_of_fault s h rfl (by simp [barrierExit, hc]; rfl), fun h => exits_of_body h rfl rfl,
    fun h => exits_of_body h rfl rfl, fun x h ht hx => exits_of_body h rfl (indirect_eq_exitAct ht hx),
    fun x h ht hx => exits_of_body h rfl (indirect_eq_exitAct ht hx), fun x i hi h => ?_, fun h => exits_of_body h rfl rfl,
    fun h => exits_of_body h rfl rfl, fun h => faults_of_fault s h rfl rfl, fun h hskip => ⟨fun hd => ?_, fun hd => ⟨?_, ?_⟩⟩, fun h hskip => ?_⟩
  · rcases hi with rfl | rfl
    · exact ⟨fun ht => faults_of_fault s h rfl (indirect_eq_fault.1 ht), fun ht hx => faults_of_fault s h rfl (indirect_eq_fault.2 ht hx)⟩
    · exact ⟨fun ht => faults_of_fault s h rfl (indirect_eq_fault.1 ht), fun ht hx => faults_of_fault s h rfl (indirect_eq_fault.2 ht hx)⟩
  · exact faults_of_faultIn h rfl (by simp [hskip, hd])
  · exact faults_of_faultIn h rfl (by simp [hskip, hd])
  · exact State.halt_debugHalt s _
  · exact receives_of_done s h rfl (by simp [hskip]) rfl rfl

/-! ### Special registers (R120-R124) -/

theorem fld_zero_eq {n m : Nat} (x : BitVec m) : fld x 0 n = x.setWidth n := by simp [fld]

theorem bit_eq_getLsbD {n : Nat} (x : BitVec n) (k : Nat) : bit x k = x.getLsbD k := by
  rw [bit, BitVec.getLsbD, Nat.testBit_eq_decide_div_mod_eq, beq_eq_decide]

/-- The low 24 bits with the lowest three cleared. -/
theorem ofNat_mul_eight (v : Word64) : BitVec.ofNat 24 (fldN v 3 21 * 8) = v.setWidth 24 &&& 0xFFFFF8#24 := by
  have hmask : v.setWidth 24 &&& 0xFFFFF8#24 = (v.setWidth 24 >>> 3) <<< 3 := by
    apply BitVec.eq_of_getLsbD_eq
    intro i hi
    have hc : ∀ i < 24, (0xFFFFF8#24).getLsbD i = decide (3 ≤ i) := by decide
    rw [BitVec.getLsbD_and, hc i hi, BitVec.getLsbD_shiftLeft, BitVec.getLsbD_ushiftRight]
    by_cases h : 3 ≤ i
    · simp [h, hi, Nat.not_lt.mpr h]
    · simp [h, Nat.not_le.mp h]
  rw [hmask]
  apply BitVec.eq_of_toNat_eq
  simp [fldN, Nat.shiftLeft_eq, Nat.shiftRight_eq_div_pow]
  omega

theorem sreg_generator (s : State) (p : Place) (g : BitVec 3) :
    s.sreg p (0x030#9 + g.setWidth 9).toNat = (s.ctx p).seen.getD (2 + g.toNat) 0#64 := by
  have hg : ∀ g : BitVec 3, g = 0#3 ∨ g = 1#3 ∨ g = 2#3 ∨ g = 3#3 ∨ g = 4#3 ∨ g = 5#3 ∨ g = 6#3 ∨ g = 7#3 := by decide
  rcases hg g with rfl | rfl | rfl | rfl | rfl | rfl | rfl | rfl <;> rfl

/-- What the context sees at its commit: its task, its gang, its tile's generators, its latest fault. -/
theorem seen_see (s : State) (p : Place) :
    let x := s.tile p.die p.tile
    let seen := ((s.see p).ctx p).seen
    seen.getD 0 0#64 = (if x.runs then match x.task with
      | none => 0#64
      | some id => BitVec.ofNat 64 (2 ^ 32 + id.toNat) else 0#64) ∧
    seen.getD 1 0#64 = (if x.runs then x.gang else 0#64) ∧ seen.getD 10 0#64 = (s.ctx p).faultRec ∧
    ∀ g : BitVec 3, seen.getD (2 + g.toNat) 0#64 = (x.ag g.toNat).stat
      ((look {} x.ctxs 0).ports.any fun b => b.2 == g.toNat) ((x.ag g.toNat).bound && (x.ag g.toNat).owner == p.ctx) := by
  intro x seen
  have hs : seen = s.statusWords p := by simp [seen, State.see]
  rw [hs]
  refine ⟨?_, rfl, rfl, fun g => ?_⟩
  · show taskWord x.runTask = _
    unfold Tile.runTask
    cases x.runs
    · rfl
    · cases x.task <;> rfl
  · have hg : ∀ g : BitVec 3, g = 0#3 ∨ g = 1#3 ∨ g = 2#3 ∨ g = 3#3 ∨ g = 4#3 ∨ g = 5#3 ∨ g = 6#3 ∨ g = 7#3 := by decide
    rcases hg g with rfl | rfl | rfl | rfl | rfl | rfl | rfl | rfl <;> rfl

/-- Settles O4: `MFS` sends `State.sreg`, `MTS` is received where `mtsBody` takes it, and a write leaves what `Ctx.setSreg` says. -/
theorem specialRegisters : Obligations.SpecialRegisters := by
  constructor
  · intro p s r c x reads
    have hread : ∀ (n : BitVec 9) (v : Word64), s.sreg s.focus n.toNat = v → reads n v := fun n v hv t u ready free =>
      delivers_of_done s ready rfl (by rw [hv]; rfl) rfl free
    refine ⟨hread _ _ ?_, hread _ _ rfl, hread _ _ rfl, hread _ _ rfl, hread _ _ rfl, hread _ _ rfl, hread _ _ rfl, hread _ _ rfl,
      hread _ _ rfl, hread _ _ ?_, hread _ _ rfl, hread _ _ rfl, hread _ _ rfl, hread _ _ rfl, hread _ _ rfl, hread _ _ rfl,
      fun g => hread _ _ (sreg_generator s s.focus g), seen_see s s.focus, hread _ _ rfl, hread _ _ rfl, hread _ _ rfl,
      fun l n a ready => ⟨fun ht => ?_, fun ht hn ha => ?_, fun ht hn => ?_⟩⟩
    · show ctxWord _ c.super = _
      cases c.super <;> rfl
    · show BitVec.ofNat 64 (b2n c.sat) = _
      cases c.sat <;> rfl
    · exact faults_of_fault s ready rfl (by simp [mtsBody, ht]; rfl)
    · subst hn
      exact faults_of_fault s ready rfl (by simp [mtsBody, ht, c, ha]; rfl)
    · refine receives_of_done s ready rfl ?_ rfl rfl
      have : ¬(n.toNat = 0x01A ∧ a.w.toNat < (s.ctx s.focus).ras.length) := fun h =>
        absurd (hn (BitVec.eq_of_toNat_eq h.1)) (Nat.not_le.mpr h.2)
      simp [mtsBody, ht, this]
  · intro c own v hown low
    have hlow : fldN v 0 32 = low.toNat := by simp [fldN, low]
    refine ⟨?_, ?_, ?_, ?_, ?_, fun h => ?_, ?_, ?_, ?_, ?_, fun n hn => ?_⟩
    · simp [Ctx.setSreg, fldN]
    · simp [Ctx.setSreg, bit_eq_getLsbD]
    · have h0 : low.toNat = 0 ↔ low = 0#32 := by rw [BitVec.toNat_eq]; rfl
      simp only [Ctx.setSreg, hlow, h0, fld_zero_eq, Nat.reduceEqDiff, if_false, if_true, low]
    · simp [Ctx.setSreg, ofNat_mul_eight]
    · simp [Ctx.setSreg, ofNat_mul_eight]
    · show c.ras.length + (v.toNat - c.ras.length) = _
      omega
    · simp [Ctx.setSreg, hlow, low, fld_zero_eq]
    · simp [Ctx.setSreg, hlow, low, fld_zero_eq]
    · simp [Ctx.setSreg, fldN, fld_zero_eq]
    · simp [Ctx.setSreg, fld_zero_eq, low]
    · simp only [List.contains_eq_mem, List.mem_cons, List.not_mem_nil, or_false, decide_eq_false_iff_not, not_or] at hn
      simp [Ctx.setSreg, hn]

end Sys2Proof.Machine
end

section
/-! PROOFS of the vector unit's elementwise instructions, compares and rounded functions, of its conversions and Q4N blocks, and that
one of its lane moves is stated too widely (09_be_vector.md). -/

namespace Sys2Proof.Machine

open Sys2Proof.Safety

/-! ### Registers made of lane codes (02_numbers.md R25) -/

theorem packLanes_lt (w : Nat) (l : List Nat) : packLanes w l < 2 ^ (l.length * w) := by
  induction l with
  | nil => simp [packLanes]
  | cons x l ih =>
    have hx : x % 2 ^ w < 2 ^ w := Nat.mod_lt _ (Nat.two_pow_pos w)
    calc packLanes w (x :: l) < 2 ^ w + 2 ^ w * packLanes w l := Nat.add_lt_add_right hx _
      _ = 2 ^ w * (packLanes w l + 1) := by rw [Nat.mul_succ, Nat.add_comm]
      _ ≤ 2 ^ w * 2 ^ (l.length * w) := Nat.mul_le_mul_left _ ih
      _ = 2 ^ ((x :: l).length * w) := by rw [← Nat.pow_add, List.length_cons, Nat.succ_mul, Nat.add_comm]

theorem Tag.lanes_mul_width_le (T : Tag) : T.shape.1 * T.shape.2 ≤ 2048 := by cases T <;> decide

/-- A register made from at most as many codes as its tag has lanes has them, and zero beyond. -/
theorem hasLanes_ofCodes_of_length {T : Tag} {l : List Nat} (hl : l.length ≤ T.shape.1) :
    HasLanes (Reg.ofCodes T l) T fun k => l.getD k 0 := by
  have hp : packLanes T.shape.2 l < 2 ^ (T.shape.1 * T.shape.2) :=
    Nat.lt_of_lt_of_le (packLanes_lt _ _) (Nat.pow_le_pow_right (by decide) (Nat.mul_le_mul_right _ hl))
  refine ⟨rfl, ?_, fun k hk => ?_⟩
  · have hp2 : packLanes T.shape.2 l < 2 ^ 2048 := Nat.lt_of_lt_of_le hp (Nat.pow_le_pow_right (by decide) T.lanes_mul_width_le)
    have hk : (ofLanes T.shape.2 l).toNat % 2 ^ (T.shape.1 * T.shape.2) = packLanes T.shape.2 l := by
      rw [ofLanes, BitVec.toNat_ofNat, Nat.mod_eq_of_lt hp2, Nat.mod_eq_of_lt hp]
    show T.keep (ofLanes T.shape.2 l) = ofLanes T.shape.2 l
    cases T with
    | empty | reserved15 => obtain rfl := List.eq_nil_of_length_eq_zero (Nat.le_zero.mp hl); rfl
    | i64 | hndl | f32s | mask64 | mask128 | mask256 => exact congrArg (BitVec.ofNat 2048) hk
    | vi32 | vf32 | vbf16 | vi16 | vf8e4 | vf8e5 | vi8 | vq4n => rfl
  · have hfit : T.shape.2 * k + T.shape.2 ≤ 2048 := by
      refine Nat.le_trans ?_ T.lanes_mul_width_le
      rw [← Nat.mul_succ, Nat.mul_comm]
      exact Nat.mul_le_mul_right _ hk
    exact (fldN_ofNat _ hfit).trans (packLanes_lane _ l k)

theorem HasLanes.congr {v : Reg} {T : Tag} {f g : Nat → Nat} (h : HasLanes v T f) (e : ∀ k < T.shape.1, f k = g k) : HasLanes v T g :=
  ⟨h.1, h.2.1, fun k hk => by rw [h.2.2 k hk, e k hk]⟩

theorem getD_map_range {α : Type} (f : Nat → α) (d : α) {n k : Nat} (hk : k < n) : ((List.range n).map f).getD k d = f k := by
  simp [List.getD_eq_getElem?_getD, hk]

theorem hasLanes_ofCodes_range {T : Tag} (f : Nat → Nat) : HasLanes (Reg.ofCodes T ((List.range T.shape.1).map f)) T f :=
  HasLanes.congr (hasLanes_ofCodes_of_length (by simp)) fun _ hk => getD_map_range f 0 hk

/-! ### The frame of elementwise instructions (R133) -/

theorem frameTag_of_framed {T : Tag} {ops : List Reg} (h : Framed T ops) : frameTag ops = some T := by
  obtain ⟨hT, ⟨r, hr, hrT⟩, hall⟩ := h
  have f32s_not : Tag.isNumV .f32s = false := rfl
  have i64_not : Tag.isNumV .i64 = false := rfl
  have vec : ∀ u ∈ (ops.filter fun r => r.tag.isNumV).map Reg.tag, u = T := by
    intro u hu
    obtain ⟨x, hx, rfl⟩ := List.mem_map.mp hu
    obtain ⟨hx, hn⟩ := List.mem_filter.mp hx
    rcases hall x hx with h | ⟨h, -⟩ | ⟨h, -⟩
    · exact h
    · rw [h] at hn; cases hn
    · rw [h] at hn; cases hn
  have fits : (ops.all fun r => r.tag == T || (r.tag == .f32s && T.isFloatV) || (r.tag == .i64 && T.isIntV)) = true := by
    simpa [or_assoc] using hall
  unfold frameTag
  split
  · next he =>
    have hT : T = .f32s := by
      rcases hT with hT | hT
      · have : T ∈ (ops.filter fun r => r.tag.isNumV).map Reg.tag := List.mem_map.mpr ⟨r, List.mem_filter.mpr ⟨hr, by rw [hrT, hT]⟩, hrT⟩
        rw [he] at this; cases this
      · exact hT
    subst hT
    have : (ops.all fun r => r.tag == .f32s) = true := by simpa [Tag.isFloatV, Tag.isIntV] using fits
    rw [if_pos this]
  · next t ts he =>
    rw [he] at vec
    obtain rfl : t = T := vec t (by simp)
    have : (ts.all fun u => u == t) = true := by simpa using fun u hu => vec u (by simp [hu])
    rw [this, fits]; rfl

/-- What an operand of the frame stands for in the lanes, as a list. -/
theorem laneCodes_eq {T : Tag} {r : Reg} (h : r.tag = T ∨ r.tag ≠ .f32s) :
    laneCodes T r = (List.range T.shape.1).map fun k => laneCode T k r := by
  unfold laneCodes laneCode
  by_cases hr : r.tag = T
  · subst hr; simp [lanes_eq_map_lane]
  · simp [hr, h.resolve_left hr, List.map_const']

theorem laneVals_eq {T : Tag} {f : Fmt} (hf : T.fmt = some f) {r : Reg} (h : r.tag = T ∨ r.tag = .f32s) :
    laneVals T f r = (List.range T.shape.1).map fun k => floatAt f T k r := by
  unfold laneVals floatAt laneCodes
  by_cases hr : r.tag = T
  · subst hr
    have hd : (if r.tag = .f32s then fp32 else f) = f := by
      split
      · next h32 => rw [h32] at hf; exact Option.some.inj hf
      · rfl
    simp [lanes_eq_map_lane, hd]
  · have h32 := h.resolve_left hr
    have hT : ¬Tag.f32s = T := fun e => hr (h32.trans e)
    simp [h32, hT, List.map_const']

/-- Columns of operands that are lists over the lanes. -/
theorem columns_eq {α β : Type} (c : Nat → α → β) (n : Nat) : ∀ ops : List α, ops ≠ [] →
    columns (ops.map fun r => (List.range n).map fun k => c k r) = (List.range n).map fun k => ops.map (c k)
  | [], h => absurd rfl h
  | [r], _ => by simp [columns]
  | r :: q :: ops, _ => by
    have ih := columns_eq c n (q :: ops) (by simp)
    simp only [List.map_cons] at ih ⊢
    rw [columns, ih]
    · simp [List.zipWith_map]
    · simp

theorem ne_nil_of_framed {T : Tag} {ops : List Reg} (h : Framed T ops) : ops ≠ [] := by
  obtain ⟨-, ⟨r, hr, -⟩, -⟩ := h
  exact List.ne_nil_of_mem hr

theorem columns_laneVals {T : Tag} {f : Fmt} (hf : T.fmt = some f) {ops : List Reg} (h : Framed T ops) :
    columns (ops.map (laneVals T f)) = (List.range T.shape.1).map fun k => ops.map (floatAt f T k) := by
  have hint : T.isIntV = false := by revert hf; cases T <;> simp [Tag.fmt, Tag.isIntV]
  rw [List.map_congr_left fun r hr => laneVals_eq hf ?_]
  · exact columns_eq _ _ _ (ne_nil_of_framed h)
  · rcases h.2.2 r hr with h | ⟨h, -⟩ | ⟨-, h⟩
    · exact .inl h
    · exact .inr h
    · rw [hint] at h; cases h

theorem columns_laneCodes {T : Tag} (hf : T.fmt = none) {ops : List Reg} (h : Framed T ops) :
    columns (ops.map (laneCodes T)) = (List.range T.shape.1).map fun k => ops.map (laneCode T k) := by
  have hfloat : T.isFloatV = false := by revert hf; cases T <;> simp [Tag.fmt, Tag.isFloatV]
  rw [List.map_congr_left fun r hr => laneCodes_eq ?_]
  · exact columns_eq _ _ _ (ne_nil_of_framed h)
  · rcases h.2.2 r hr with h | ⟨-, h⟩ | ⟨h, -⟩
    · exact .inl h
    · rw [hfloat] at h; cases h
    · exact .inr (by rw [h]; decide)

/-- An elementwise body on framed operands, lane by lane. -/
theorem elementwise_eq {ok : Tag → Bool} {ff : List FV → FV} {fi : Nat → List Nat → Int} {T : Tag} {ops : List Reg} (h : Framed T ops)
    (hok : ok T = true) (s : State) :
    elementwise ok ff fi ops s = .res s (Reg.ofCodes T ((List.range T.shape.1).map fun k => match T.fmt with
      | some f => f.round s.vmode s.vsat none (ff (ops.map (floatAt f T k)))
      | none => lowN T.shape.2 (fi T.shape.2 (ops.map (laneCode T k))))) := by
  simp only [elementwise, frameTag_of_framed h, hok, Bool.true_eq_false, if_false]
  cases hf : T.fmt with
  | some f => simp [columns_laneVals hf h, Function.comp_def]
  | none => simp [columns_laneCodes hf h, Function.comp_def]

/-- An elementwise instruction, by what its functions are on as many lanes as it has operands. -/
theorem elementwise_of_body {i : BitVec 7 → BitVec 7 → Instr} {n : Nat} {ok ok' : Tag → Bool} {ff ff' : List FV → FV}
    {fi fi' : Nat → List Nat → Int} (hexec : ∀ t u s, exec (i t u) s = .next (fire (shapeOf (i t u) s.index) (elementwise ok' ff' fi') s))
    (htargets : ∀ t u k, (shapeOf (i t u) k).targets = [t, u].map BitVec.toNat) (hslots : ∀ t u k, (shapeOf (i t u) k).slots = n)
    (hok : ∀ T, ok' T = ok T) (hff : ∀ l, l.length = n → ff' l = ff l) (hfi : ∀ w l, l.length = n → fi' w l = fi w l) :
    Elementwise i ok ff fi := by
  intro t u s r vals T ready free framed hT
  have hn : vals.length = n := by rw [length_of_ready ready, hslots]
  refine ⟨_, delivers_of_done s ready (hexec t u s) (elementwise_eq framed ((hok T).trans hT) s) (htargets t u _) free, ?_⟩
  refine HasLanes.congr (hasLanes_ofCodes_range _) fun k _ => ?_
  cases T.fmt with
  | some f => simp [hff (vals.map (floatAt f T k)) (by simp [hn])]
  | none => simp [hfi _ (vals.map (laneCode T k)) (by simp [hn]), lowN]

theorem elementwise1 {p : BitVec 2} {i : BitVec 7 → BitVec 7 → Instr} {f : FV → FV} {g : Int → Int} {ff : List FV → FV} {fi : Nat → List Nat → Int}
    (hexec : ∀ t u s, exec (i t u) s = .next (fire (shapeOf (i t u) s.index) (elementwise okArith (on1 f) (int1 g)) s) := by intros; rfl)
    (hshape : ∀ t u k, shapeOf (i t u) k = { pr := p, slots := 1, targets := [t.toNat, u.toNat] } := by intros; rfl)
    (hff : ∀ a, f a = ff [a]) (hfi : ∀ w a, g (sgnN w a) = fi w [a]) : Elementwise i (fun T => T.isNumV || T == .f32s) ff fi := by
  refine elementwise_of_body hexec (fun _ _ _ => by rw [hshape]; rfl) (n := 1) (fun _ _ _ => by rw [hshape]) (fun _ => rfl)
    (fun l hl => ?_) fun w l hl => ?_
  · obtain ⟨a, rfl⟩ := List.length_eq_one_iff.mp hl; exact hff a
  · obtain ⟨a, rfl⟩ := List.length_eq_one_iff.mp hl; exact hfi w a

theorem elementwise2 {p : BitVec 2} {i : BitVec 7 → BitVec 7 → Instr} {f : FV → FV → FV} {g : Int → Int → Int} {ff : List FV → FV}
    {fi : Nat → List Nat → Int}
    (hexec : ∀ t u s, exec (i t u) s = .next (fire (shapeOf (i t u) s.index) (elementwise okArith (on2 f) (int2 g)) s) := by intros; rfl)
    (hshape : ∀ t u k, shapeOf (i t u) k = { pr := p, slots := 2, targets := [t.toNat, u.toNat] } := by intros; rfl)
    (hff : ∀ a b, f a b = ff [a, b]) (hfi : ∀ w a b, g (sgnN w a) (sgnN w b) = fi w [a, b]) :
    Elementwise i (fun T => T.isNumV || T == .f32s) ff fi := by
  refine elementwise_of_body hexec (fun _ _ _ => by rw [hshape]; rfl) (n := 2) (fun _ _ _ => by rw [hshape]) (fun _ => rfl)
    (fun l hl => ?_) fun w l hl => ?_
  · obtain ⟨a, b, rfl⟩ := List.length_eq_two.mp hl; exact hff a b
  · obtain ⟨a, b, rfl⟩ := List.length_eq_two.mp hl; exact hfi w a b

theorem elementwise3 {i : BitVec 7 → BitVec 7 → Instr} {f : FV → FV → FV → FV} {g : Int → Int → Int → Int} {ff : List FV → FV}
    {fi : Nat → List Nat → Int}
    (hexec : ∀ t u s, exec (i t u) s = .next (fire (shapeOf (i t u) s.index) (elementwise okArith (on3 f) (int3 g)) s) := by intros; rfl)
    (hshape : ∀ t u k, shapeOf (i t u) k = { slots := 3, targets := [t.toNat, u.toNat] } := by intros; rfl)
    (hff : ∀ a b c, f a b c = ff [a, b, c]) (hfi : ∀ w a b c, g (sgnN w a) (sgnN w b) (sgnN w c) = fi w [a, b, c]) :
    Elementwise i (fun T => T.isNumV || T == .f32s) ff fi := by
  refine elementwise_of_body hexec (fun _ _ _ => by rw [hshape]; rfl) (n := 3) (fun _ _ _ => by rw [hshape]) (fun _ => rfl)
    (fun l hl => ?_) fun w l hl => ?_
  · obtain ⟨a, b, c, rfl⟩ := List.length_eq_three.mp hl; exact hff a b c
  · obtain ⟨a, b, c, rfl⟩ := List.length_eq_three.mp hl; exact hfi w a b c

/-- The forms for integer vectors alone. -/
theorem elementwiseCode {p : BitVec 2} {i : BitVec 7 → BitVec 7 → Instr} {g : Nat → Nat → Nat → Int} {fi : Nat → List Nat → Int}
    (hexec : ∀ t u s, exec (i t u) s = .next (fire (shapeOf (i t u) s.index) (elementwise Tag.isIntV (fun _ => .nan) (code2 g)) s) := by
      intros; rfl)
    (hshape : ∀ t u k, shapeOf (i t u) k = { pr := p, slots := 2, targets := [t.toNat, u.toNat] } := by intros; rfl)
    (hfi : ∀ w a b, g w a b = fi w [a, b]) : Elementwise i Tag.isIntV (fun _ => .nan) fi := by
  refine elementwise_of_body hexec (fun _ _ _ => by rw [hshape]; rfl) (n := 2) (fun _ _ _ => by rw [hshape]) (fun _ => rfl)
    (fun _ _ => rfl) fun w l hl => ?_
  obtain ⟨a, b, rfl⟩ := List.length_eq_two.mp hl; exact hfi w a b

/-! ### Bitwise forms and compares (R137, R139) -/

theorem Tag.shape_maskTag {T : Tag} (h : T.isNumV = true) : (maskTag T.shape.1).shape = (T.shape.1, 1) := by
  revert h; cases T <;> decide

/-- A bitwise form on the encodings of the lanes. -/
theorem bitwise_eq {f : Nat → Nat → Nat} {T : Tag} {a b : Reg} (h : Framed T [a, b]) (hT : T.isNumV = true) (ha : a.tag ≠ .f32s)
    (hb : b.tag ≠ .f32s) (s : State) :
    bitwise f [a, b] s = .res s (Reg.ofCodes T ((List.range T.shape.1).map fun k => f (laneCode T k a) (laneCode T k b))) := by
  have hc : columns ([a, b].map (laneCodes T)) = (List.range T.shape.1).map fun k => [a, b].map (laneCode T k) := by
    rw [List.map_congr_left fun r hr => laneCodes_eq (.inr ?_)]
    · exact columns_eq _ _ _ (by simp)
    · rcases List.mem_pair.mp hr with rfl | rfl <;> assumption
  simp only [bitwise, frameTag_of_framed h, hc]
  simp [hT, ha, hb, Function.comp_def]

/-- A compare of framed operands, lane by lane. -/
theorem compares_of_body {p : BitVec 2} {i : BitVec 7 → BitVec 7 → Instr} {ff : FV → FV → Bool} {fi : Int → Int → Bool}
    (hexec : ∀ t u s, exec (i t u) s = .next (fire (shapeOf (i t u) s.index) (compare ff fi) s) := by intros; rfl)
    (hshape : ∀ t u k, shapeOf (i t u) k = { pr := p, slots := 2, targets := [t.toNat, u.toNat] } := by intros; rfl) :
    Compares i ff fi := by
  intro t u s r a b T ready free framed
  let holds (k : Nat) : Bool := match T.fmt with
    | some f => ff (floatAt f T k a) (floatAt f T k b)
    | none => fi (sgnN T.shape.2 (laneCode T k a)) (sgnN T.shape.2 (laneCode T k b))
  have hbody : compare ff fi [a, b] s = .res s (if T = .f32s then Reg.truth (((List.range T.shape.1).map holds).getD 0 false)
      else { tag := maskTag T.shape.1, bits := ofLanes 1 (((List.range T.shape.1).map holds).map b2n) }) := by
    simp only [compare, frameTag_of_framed framed, holds]
    cases hf : T.fmt with
    | some f => simp only [columns_laneVals hf framed, List.map_map]; split <;> rfl
    | none => simp only [columns_laneCodes hf framed, List.map_map]; split <;> rfl
  refine ⟨_, delivers_of_done s ready (hexec t u s) hbody (by rw [hshape]; rfl) free, ?_⟩
  show if T = .f32s then _ else _
  split
  · next h => subst h; rfl
  · next h =>
    have hm := Tag.shape_maskTag (framed.1.resolve_right h)
    have hl := hasLanes_ofCodes_range (T := maskTag T.shape.1) fun k => b2n (holds k)
    rw [Reg.ofCodes, hm] at hl
    rw [List.map_map]
    exact hl

theorem FV.lt_nan (x : FV) : FV.lt .nan x = false ∧ FV.lt x .nan = false := by cases x <;> exact ⟨rfl, rfl⟩

theorem FV.eqv_nan (x : FV) : FV.eqv .nan x = false ∧ FV.eqv x .nan = false := by cases x <;> exact ⟨rfl, rfl⟩

/-! ### The rounded functions (R141) -/

theorem trans_delivers {p : BitVec 2} {i : BitVec 7 → BitVec 7 → Instr} {op : Trans}
    (hexec : ∀ t u s, exec (i t u) s = .next (fire (shapeOf (i t u) s.index) (transAct op) s) := by intros; rfl)
    (hshape : ∀ t u k, shapeOf (i t u) k = { pr := p, slots := 1, targets := [t.toNat, u.toNat] } := by intros; rfl)
    (t u : BitVec 7) (s : State) (r : Run) (a : Reg) (f : Fmt) (ready : Ready s (i t u) [a] r) (free : FreeTargets r [t, u])
    (ha : a.tag = .vf32 ∨ a.tag = .vbf16 ∨ a.tag = .f32s) (hf : a.tag.fmt = some f) :
    ∃ v, Delivers (i t u) s [t, u] v ∧ HasLanes v a.tag fun k => f.trans s.vmode op (f.dec (lane a k)) := by
  have hbody : transAct op [a] s = .res s (Reg.ofCodes a.tag ((List.range a.tag.shape.1).map fun k => f.trans s.vmode op (f.dec (lane a k)))) := by
    simp [transAct, ha, hf, laneCodes, lanes_eq_map_lane, Function.comp_def]
  exact ⟨_, delivers_of_done s ready (hexec t u s) hbody (by rw [hshape]; rfl) free, hasLanes_ofCodes_range _⟩

/-- Settles O5: the lanes of the frame, one at a time. -/
theorem vectorArithmeticAndCompares : Obligations.VectorArithmeticAndCompares := by
  refine ⟨⟨fun p => ⟨?_, ?_, ?_, ?_, ?_, ?_, ?_, ?_, ?_, ?_, ?_, ?_⟩, ?_, ?_, ?_⟩, fun p => ⟨?_, ?_, ?_, ?_, ?_, ?_, ?_, ?_, ?_, fun x => ?_⟩,
    fun p => ⟨?_, ?_, ?_, ?_, ?_, ?_⟩⟩
  · exact elementwise2 (hff := fun _ _ => rfl) (hfi := fun _ _ _ => rfl)
  · exact elementwise2 (hff := fun _ _ => rfl) (hfi := fun _ _ _ => rfl)
  · exact elementwise2 (hff := fun _ _ => rfl) (hfi := fun _ _ _ => rfl)
  · exact elementwise2 (hff := fun _ _ => rfl) (hfi := fun _ _ _ => min_def _ _)
  · exact elementwise2 (hff := fun _ _ => rfl) (hfi := fun w a b => max_def' _ _)
  · refine elementwise1 (hff := fun _ => rfl) (hfi := fun w a => ?_)
    show ((sgnN w a).natAbs : Int) = if sgnN w a < 0 then -sgnN w a else sgnN w a
    split <;> omega
  · exact elementwise1 (hff := fun _ => rfl) (hfi := fun _ _ => rfl)
  · exact elementwiseCode (hfi := fun _ _ _ => shiftLeft_cast _ _)
  · exact elementwiseCode (hfi := fun _ _ _ => rfl)
  · exact elementwiseCode (hfi := fun _ _ _ => rfl)
  · exact elementwiseCode (hfi := fun _ _ _ => clamp_eq_clamped _)
  · exact elementwiseCode (hfi := fun _ _ _ => clamp_eq_clamped _)
  · exact elementwise3 (hff := fun _ _ _ => rfl) (hfi := fun _ _ _ _ => rfl)
  · exact elementwise3 (hff := fun _ _ _ => rfl) (hfi := fun _ _ _ _ => rfl)
  · exact elementwise3 (hff := fun _ _ _ => rfl) (hfi := fun _ _ _ _ => rfl)
  · exact fun t u s r a b T ready free framed hT ha hb =>
      ⟨_, delivers_of_done s ready rfl (bitwise_eq framed hT ha hb s) rfl free, hasLanes_ofCodes_range _⟩
  · exact fun t u s r a b T ready free framed hT ha hb =>
      ⟨_, delivers_of_done s ready rfl (bitwise_eq framed hT ha hb s) rfl free, hasLanes_ofCodes_range _⟩
  · exact fun t u s r a b T ready free framed hT ha hb =>
      ⟨_, delivers_of_done s ready rfl (bitwise_eq framed hT ha hb s) rfl free, hasLanes_ofCodes_range _⟩
  · exact compares_of_body
  · have hne : (fun a b : Int => decide (a ≠ b)) = fun a b => a != b := by
      funext a b; rw [Bool.eq_iff_iff]; simp
    rw [hne]; exact compares_of_body
  · exact compares_of_body
  · exact compares_of_body
  · exact compares_of_body
  · exact compares_of_body
  · exact ⟨(FV.lt_nan x).1, (FV.lt_nan x).2, (FV.eqv_nan x).1, (FV.eqv_nan x).2⟩
  · exact fun t u s r a f => trans_delivers (t := t) (u := u) (s := s) (r := r) (a := a) (f := f)
  · exact fun t u s r a f => trans_delivers (t := t) (u := u) (s := s) (r := r) (a := a) (f := f)
  · exact fun t u s r a f => trans_delivers (t := t) (u := u) (s := s) (r := r) (a := a) (f := f)
  · exact fun t u s r a f => trans_delivers (t := t) (u := u) (s := s) (r := r) (a := a) (f := f)
  · exact fun t u s r a f => trans_delivers (t := t) (u := u) (s := s) (r := r) (a := a) (f := f)
  · exact fun t u s r a f => trans_delivers (t := t) (u := u) (s := s) (r := r) (a := a) (f := f)

/-! ### `VRETAG` (R151) -/

/-- A value instruction delivers one value only. -/
theorem delivers_unique {s : State} {i : Instr} {r : Run} {ts : List (BitVec 7)} {v w : Reg} (hr : (s.ctx s.focus).run = some r)
    (hts : (ts.filter fun t => t != 0x7F#7) ≠ []) (hv : Delivers i s ts v) (hw : Delivers i s ts w) : v = w := by
  have h := Host.Outcome.next.inj (hv.symm.trans hw)
  have h := congrArg (fun t : State => ((t.ctx s.focus).run.map Run.tokens)) h
  simp only [State.ctx_updRun, hr, Option.map_some, fired, Option.some.injEq, List.append_cancel_left_eq, sent] at h
  obtain ⟨t, l, e⟩ := List.exists_cons_of_ne_nil hts
  rw [e] at h
  simp only [List.map_cons, List.cons.injEq, Prod.mk.injEq, Token.val.injEq, true_and] at h
  exact h.1

/-- A block in which instruction 0 has an I64 with bit 64 set in its left slot. -/
def wideWordRun : Run := { live := true, tokens := [(0, .val { tag := .i64, bits := BitVec.ofNat 2048 (2 ^ 64) })] }

/-- The machine, with that block running in context 0 of tile 0. -/
def wideWordState : State := ({} : State).updCtx {} fun c => { c with phase := .running, run := some wideWordRun }

/-- Refutes O8: `VRETAG` to VI32 of an I64 with a bit beyond those that I64 uses, here bit 64, sends that bit as 0 (R151: the bits that
the old tag uses), where the statement has it sent. -/
theorem not_vectorLanesAndMasks : ¬ Obligations.VectorLanesAndMasks := by
  intro h
  have hrun : (wideWordState.ctx {}).run = some wideWordRun := by decide +kernel
  have ready : Ready wideWordState (.vretag 0 7 0x60 0x7F) [{ tag := .i64, bits := BitVec.ofNat 2048 (2 ^ 64) }] wideWordRun :=
    { run := hrun, running := by decide +kernel, unfrozen := by decide +kernel, dispatching := by decide +kernel, live := rfl,
      uncommitted := rfl, unfired := rfl, notOff := rfl, data := by decide +kernel, yes := fun e => absurd e (by decide +kernel),
      no := fun e => absurd e (by decide +kernel) }
  have free : FreeTargets wideWordRun [0x60, 0x7F] := by unfold FreeTargets; decide +kernel
  obtain ⟨-, -, -, -, -, -, -, hretag⟩ := h.1 0x60 0x7F _ _
  have stated := hretag 0 7 _ ready (by decide) (by decide) (by decide) free
  have actual := delivers_of_done _ ready rfl (v := { tag := .vi32, bits := Tag.vi32.keep (Tag.i64.keep (BitVec.ofNat 2048 (2 ^ 64))) }) rfl rfl free
  exact absurd (delivers_unique ready.run (by decide) stated actual) (by decide +kernel)

end Sys2Proof.Machine
end

section
/-! PROOFS of the conversions and of the Q4N instructions (09_be_vector.md R148 to R153). -/

namespace Sys2Proof.Machine

open Sys2Proof.Safety

/-! ### A field set in a word (00_scope.md R1) -/

section Field

variable {m : Nat} {x : BitVec m} {lo n : Nat}

/-- Setting a field replaces it between the bits below it and those above. -/
theorem toNat_setFld (v : Nat) (h : lo + n ≤ m) :
    (setFld x lo n v).toNat = x.toNat % 2 ^ lo + 2 ^ lo * (v % 2 ^ n + 2 ^ n * (x.toNat / 2 ^ (lo + n))) := by
  have hsplit : x.toNat = x.toNat % 2 ^ lo + 2 ^ lo * (fldN x lo n + 2 ^ n * (x.toNat / 2 ^ (lo + n))) := by
    rw [fldN, Nat.pow_add, ← Nat.div_div_eq_div_mul, Nat.mod_add_div, Nat.mod_add_div]
  have hval : x.toNat - fldN x lo n * 2 ^ lo + v % 2 ^ n * 2 ^ lo =
      x.toNat % 2 ^ lo + 2 ^ lo * (v % 2 ^ n + 2 ^ n * (x.toNat / 2 ^ (lo + n))) := by
    generalize fldN x lo n = f at hsplit ⊢
    generalize x.toNat / 2 ^ (lo + n) = a at hsplit ⊢
    generalize x.toNat % 2 ^ lo = b at hsplit ⊢
    rw [hsplit, Nat.mul_add, Nat.mul_add, Nat.mul_comm f, Nat.mul_comm (v % 2 ^ n)]
    omega
  rw [setFld, BitVec.toNat_ofNat, hval, Nat.mod_eq_of_lt]
  have hb : x.toNat % 2 ^ lo < 2 ^ lo := Nat.mod_lt _ (Nat.two_pow_pos _)
  have hv : v % 2 ^ n < 2 ^ n := Nat.mod_lt _ (Nat.two_pow_pos _)
  obtain ⟨d, rfl⟩ := Nat.exists_eq_add_of_le h
  have ha : x.toNat / 2 ^ (lo + n) < 2 ^ d := Nat.div_lt_of_lt_mul (by rw [← Nat.pow_add]; exact x.isLt)
  calc x.toNat % 2 ^ lo + 2 ^ lo * (v % 2 ^ n + 2 ^ n * (x.toNat / 2 ^ (lo + n)))
      < 2 ^ lo * (v % 2 ^ n + 2 ^ n * (x.toNat / 2 ^ (lo + n)) + 1) := by rw [Nat.mul_succ]; omega
    _ ≤ 2 ^ lo * (2 ^ n * (x.toNat / 2 ^ (lo + n) + 1)) := Nat.mul_le_mul_left _ (by rw [Nat.mul_succ]; omega)
    _ ≤ 2 ^ lo * (2 ^ n * 2 ^ d) := Nat.mul_le_mul_left _ (Nat.mul_le_mul_left _ ha)
    _ = 2 ^ (lo + n + d) := by rw [Nat.pow_add, Nat.pow_add, Nat.mul_assoc]

/-- The field set, from its bit k on. -/
theorem setFld_div (v : Nat) (h : lo + n ≤ m) (k : Nat) :
    (setFld x lo n v).toNat / 2 ^ (lo + k) = (v % 2 ^ n + 2 ^ n * (x.toNat / 2 ^ (lo + n))) / 2 ^ k := by
  rw [toNat_setFld v h, Nat.pow_add 2 lo k, ← Nat.div_div_eq_div_mul, Nat.add_mul_div_left _ _ (Nat.two_pow_pos _),
    Nat.div_eq_of_lt (Nat.mod_lt _ (Nat.two_pow_pos _)), Nat.zero_add]

theorem fldN_eq_mod_div {m : Nat} (x : BitVec m) (lo n : Nat) : fldN x lo n = x.toNat % 2 ^ (lo + n) / 2 ^ lo := by
  rw [fldN, Nat.pow_add, Nat.mod_mul_right_div_self]

/-- A part of the field that was set. -/
theorem fldN_setFld_inside {k w : Nat} (v : Nat) (h : lo + n ≤ m) (hk : k + w ≤ n) :
    fldN (setFld x lo n v) (lo + k) w = v % 2 ^ n / 2 ^ k % 2 ^ w := by
  obtain ⟨d, rfl⟩ := Nat.exists_eq_add_of_le hk
  rw [fldN, setFld_div v h, show k + w + d = k + (w + d) by omega, Nat.pow_add, Nat.mul_assoc, Nat.add_mul_div_left _ _ (Nat.two_pow_pos _),
    Nat.pow_add, Nat.mul_assoc, Nat.add_mul_mod_self_left]

/-- A field below or above the one that was set. -/
theorem fldN_setFld_outside {k w : Nat} (v : Nat) (h : lo + n ≤ m) (hk : k + w ≤ lo ∨ lo + n ≤ k) :
    fldN (setFld x lo n v) k w = fldN x k w := by
  rcases hk with hk | hk
  · have low : (setFld x lo n v).toNat % 2 ^ (k + w) = x.toNat % 2 ^ (k + w) := by
      rw [toNat_setFld v h]
      obtain ⟨d, rfl⟩ := Nat.exists_eq_add_of_le hk
      rw [Nat.pow_add 2 (k + w), Nat.mul_assoc, Nat.add_mul_mod_self_left, Nat.mod_mul_right_mod]
    rw [fldN_eq_mod_div, low, ← fldN_eq_mod_div]
  · obtain ⟨d, rfl⟩ := Nat.exists_eq_add_of_le hk
    rw [fldN, Nat.add_assoc, setFld_div v h, Nat.pow_add 2 n d, ← Nat.div_div_eq_div_mul, Nat.add_mul_div_left _ _ (Nat.two_pow_pos _),
      Nat.div_eq_of_lt (Nat.mod_lt _ (Nat.two_pow_pos _)), Nat.zero_add, fldN, Nat.div_div_eq_div_mul, ← Nat.pow_add, Nat.add_assoc]

end Field

/-! ### Two results (R59) -/

/-- A ready instruction that is not counted and sends one token to each of two targets. -/
theorem exec_of_done_two {s : State} {i : Instr} {vals : List Reg} {r : Run} {t u : BitVec 7} {k l : Token}
    {body : List Reg → State → Act} (ready : Ready s i vals r) (hexec : exec i s = .next (fire (shapeOf i s.index) body s))
    (hbody : body vals s = .done [k, l] none s) (htargets : (shapeOf i s.index).targets = [t.toNat, u.toNat])
    (free : FreeTargets r [t, u]) (ht : t ≠ 0x7F#7) (hu : u ≠ 0x7F#7) :
    exec i s = .next (s.updRun s.focus fun r => fired r s.index [(t.toNat, k), (u.toNat, l)] []) := by
  have hmark : (fun r : Run => r.mark s.index (shapeOf i s.index) none) = fun r => fired r s.index [] [] := by
    funext r; simp [Run.mark, fired]
  have ht7 : t.toNat ≠ 0x7F := fun e => ht (BitVec.eq_of_toNat_eq e)
  have hu7 : u.toNat ≠ 0x7F := fun e => hu (BitVec.eq_of_toNat_eq e)
  have hne : u.toNat ≠ t.toNat := by
    have hn := free.1
    rw [List.filter_cons_of_pos (by simpa using ht), List.filter_cons_of_pos (by simpa using hu)] at hn
    simp only [List.nodup_cons, List.mem_cons] at hn
    exact fun e => hn.1 (.inl (BitVec.eq_of_toNat_eq e.symm))
  have ftok : (fired r s.index [] []).tok t.toNat = none := by simpa [fired, Run.tok] using (free.2 t (by simp) ht).1
  have fres : (fired r s.index [] []).reserved.contains t.toNat = false := (free.2 t (by simp) ht).2
  have gtok : (fired r s.index [(t.toNat, k)] []).tok u.toNat = none := by
    have := (free.2 u (by simp) hu).1
    simpa [fired, Run.tok, look?_append_single _ _ _ _ hne] using this
  have gres : (fired r s.index [(t.toNat, k)] []).reserved.contains u.toNat = false := (free.2 u (by simp) hu).2
  rw [hexec, fire_ready ready, hbody, htargets]
  simp only [hmark, State.deliverAll]
  rw [deliver_free (r := fired r s.index [] []) _ _ _ (by simp [ready.run]) fun _ => ⟨ftok, fres⟩, if_neg ht7, State.updRun_updRun,
    deliver_free (r := fired r s.index [(t.toNat, k)] []) _ _ _ (by simp [ready.run, fired]) fun _ => ⟨gtok, gres⟩, if_neg hu7,
    State.updRun_updRun]
  simp [fired]

/-! ### Conversions (R148 to R150) -/

theorem length_drawList (n : Nat) : ∀ x, (drawList n x).length = n := by
  induction n with
  | zero => exact fun _ => rfl
  | succ n ih => exact fun x => congrArg (· + 1) (ih _)

/-- The draws of a ready instruction (02_numbers.md R26). -/
theorem vdraws_eq {s : State} {r : Run} (h : (s.ctx s.focus).run = some r) (n : Nat) :
    s.vdraws n = if (s.ctx s.focus).round = 4 then (drawList n ((s.ctx s.focus).drawState r s.index)).map some else List.replicate n none := by
  simp only [State.vdraws, h]

/-- The draw that lane k of a conversion to T takes. -/
def drawOf (s : State) (r : Run) (T : Tag) (n k : Nat) : Option Nat :=
  if (T = .vbf16 ∨ T = .vf8e4 ∨ T = .vf8e5) ∧ (s.ctx s.focus).round = 4 then
    (drawList n ((s.ctx s.focus).drawState r s.index))[k]? else none

/-- The rounding mode of a conversion to T. -/
def modeOf (s : State) (T : Tag) : Nat := if T = .vbf16 ∨ T = .vf8e4 ∨ T = .vf8e5 then (s.ctx s.focus).round else s.vmode

/-- A list of codes converted, code by code. -/
theorem convertAll_spec {s : State} {r : Run} (h : (s.ctx s.focus).run = some r) {S T : Tag} {x y : Elem} (hx : S.elem = some x)
    (hy : T.elem = some y) (l : List Nat) : (s.convertAll S T l).length = l.length ∧ ∀ k < l.length,
      (s.convertAll S T l).getD k 0 = convert x y (modeOf s T) s.vsat (drawOf s r T l.length k) (l.getD k 0) := by
  have hd : drawsTo T = true ↔ T = .vbf16 ∨ T = .vf8e4 ∨ T = .vf8e5 := by simp [drawsTo, or_assoc]
  simp only [State.convertAll, hx, hy, vdraws_eq h, modeOf, drawOf, ← hd]
  cases hT : drawsTo T with
  | false => exact ⟨by simp, fun k hk => by simp [List.getD_eq_getElem?_getD, hk]⟩
  | true =>
    by_cases hr : (s.ctx s.focus).round = 4
    · refine ⟨by simp [hr, length_drawList], fun k hk => ?_⟩
      have hk' : k < (drawList l.length ((s.ctx s.focus).drawState r s.index)).length := by rwa [length_drawList]
      simp [hr, List.getD_eq_getElem?_getD, hk, hk']
    · exact ⟨by simp [hr], fun k hk => by simp [hr, List.getD_eq_getElem?_getD, hk]⟩

theorem cvtGroup_of_elem {T : Tag} (h : T.elem ≠ none) : cvtGroup T = T.shape.1 ∧ cvtGroup T ≠ 0 := by
  revert h; cases T <;> decide

theorem shape_mul_of_elem {T : Tag} (h : T.elem ≠ none) (hw : T.shape.2 < 32) : T.shape.1 * T.shape.2 = 2048 := by
  revert h hw; cases T <;> decide

theorem shape_of_isNumV {T : Tag} (h : T.isNumV = true) (he : T.elem ≠ none) : T.shape.2 = 8 ∨ T.shape.2 = 16 ∨ T.shape.2 = 32 := by
  revert h he; cases T <;> decide

/-- The numeric tag of a lane width of 32 or 16 bits. -/
theorem tag_of_width {T : Tag} (h : T.isNumV = true) : (T.shape.2 = 32 → T = if T.isIntV then .vi32 else .vf32) ∧
    (T.shape.2 = 16 → T = if T.isIntV then .vi16 else .vbf16) := by
  revert h; cases T <;> decide

/-- `VUNPK` widens to the one tag of its kind and width. -/
theorem unpkTag_eq {S T : Tag} {x4 int : Bool} (hS : S.isNumV = true) (hSe : S.elem ≠ none) (hT : T.isNumV = true)
    (hw : T.shape.2 = S.shape.2 * if x4 then 4 else 2) (hi : T.isIntV = int) (hTe : T.shape.2 ≤ 32) : unpkTag S x4 int = some T := by
  obtain ⟨h32, h16⟩ := tag_of_width hT
  rw [hi] at h32 h16
  unfold unpkTag
  rcases shape_of_isNumV hS hSe with h | h | h <;> cases x4 <;> simp [h] at hw
  · simp [hS, h, (h16 hw).symm]
  · simp [hS, h, (h32 hw).symm]
  · simp [hS, h, (h32 hw).symm]
  · omega
  · omega
  · omega

theorem width_le_of_isNumV {T : Tag} (h : T.isNumV = true) : T.shape.2 ≤ 32 := by
  revert h; cases T <;> decide

theorem vcvt_delivers {t u : BitVec 7} {s : State} {r : Run} {p : BitVec 2} {g : BitVec 4} {a : Reg} {x y : Elem}
    (ready : Ready s (.vcvt p g t u) [a] r) (free : FreeTargets r [t, u]) (hx : a.tag.elem = some x)
    (hy : (Tag.ofNum g.toNat).elem = some y) (hne : a.tag ≠ Tag.ofNum g.toNat) (hs : a.tag.shape.1 = (Tag.ofNum g.toNat).shape.1) :
    ∃ v, Delivers (.vcvt p g t u) s [t, u] v ∧ HasLanes v (Tag.ofNum g.toNat) fun k =>
      convert x y (modeOf s (Tag.ofNum g.toNat)) s.vsat (drawOf s r (Tag.ofNum g.toNat) a.tag.shape.1 k) (lane a k) := by
  obtain ⟨ha, ha0⟩ := cvtGroup_of_elem (T := a.tag) (by simp [hx])
  obtain ⟨ht, -⟩ := cvtGroup_of_elem (T := Tag.ofNum g.toNat) (by simp [hy])
  obtain ⟨hl, hk⟩ := convertAll_spec ready.run hx hy ((List.range a.tag.shape.1).map (lane a))
  have hbody : vcvtBody g [a] s = .res s (Reg.ofCodes (Tag.ofNum g.toNat)
      (s.convertAll a.tag (Tag.ofNum g.toNat) ((List.range a.tag.shape.1).map (lane a)))) := by
    rw [vcvtBody, if_neg (by rw [ha, ht]; omega), if_neg hne, lanes_eq_map_lane]
  refine ⟨_, delivers_of_done s ready rfl hbody rfl free,
    HasLanes.congr (hasLanes_ofCodes_of_length (by rw [hl, List.length_map, List.length_range, hs])) fun k h => ?_⟩
  rw [← hs] at h
  rw [hk k (by simpa using h), getD_map_range _ _ h, List.length_map, List.length_range]

theorem vcvt_same {t u : BitVec 7} {s : State} {r : Run} {p : BitVec 2} {g : BitVec 4} {a : Reg} (ready : Ready s (.vcvt p g t u) [a] r)
    (free : FreeTargets r [t, u]) (he : a.tag.elem ≠ none) (hs : a.tag = Tag.ofNum g.toNat) : Delivers (.vcvt p g t u) s [t, u] a :=
  delivers_of_done s ready rfl (by simp [vcvtBody, ← hs, (cvtGroup_of_elem he).2]; rfl) rfl free

theorem vunpk_delivers {t u : BitVec 7} {s : State} {r : Run} {p : BitVec 2} {f h : BitVec 1} {q : BitVec 2} {a : Reg} {T : Tag}
    {x y : Elem} (ready : Ready s (.vunpk p f h q t u) [a] r) (free : FreeTargets r [t, u]) (ha : a.tag.isNumV = true)
    (hw : T.shape.2 = a.tag.shape.2 * if f = 1#1 then 4 else 2) (hT : T.isNumV = true) (hi : T.isIntV = (h == 1#1))
    (hx : a.tag.elem = some x) (hy : T.elem = some y) :
    ∃ v, Delivers (.vunpk p f h q t u) s [t, u] v ∧ HasLanes v T fun k =>
      if q.toNat * T.shape.1 + k < a.tag.shape.1 then convert x y s.vmode s.vsat none (lane a (q.toNat * T.shape.1 + k)) else 0 := by
  have htag : unpkTag a.tag (f == 1#1) (h == 1#1) = some T :=
    unpkTag_eq ha (by simp [hx]) hT (by simpa using hw) hi (width_le_of_isNumV hT)
  refine ⟨_, delivers_of_done s ready rfl (by simp only [vunpkBody, htag, hx, hy]; rfl) rfl free,
    HasLanes.congr (hasLanes_ofCodes_of_length (by simp)) fun k hk => ?_⟩
  rw [lanes_eq_map_lane]
  split
  · next hin => simp [List.getD_eq_getElem?_getD, hk, hin]
  · next hout => simp [List.getD_eq_getElem?_getD, hk, hout]

theorem vpack_delivers {t u : BitVec 7} {s : State} {r : Run} {p : BitVec 2} {g : BitVec 4} {a b : Reg} {x y : Elem}
    (ready : Ready s (.vpack p g t u) [a, b] r) (free : FreeTargets r [t, u]) (hab : a.tag = b.tag) (ha : a.tag.isNumV = true)
    (hw : a.tag.shape.2 = 2 * (Tag.ofNum g.toNat).shape.2) (hx : a.tag.elem = some x) (hy : (Tag.ofNum g.toNat).elem = some y) :
    ∃ v, Delivers (.vpack p g t u) s [t, u] v ∧ HasLanes v (Tag.ofNum g.toNat) fun k =>
      convert x y (modeOf s (Tag.ofNum g.toNat)) s.vsat (drawOf s r (Tag.ofNum g.toNat) (Tag.ofNum g.toNat).shape.1 k)
        (if k < a.tag.shape.1 then lane a k else lane b (k - a.tag.shape.1)) := by
  let codes := (List.range a.tag.shape.1).map (lane a) ++ (List.range a.tag.shape.1).map (lane b)
  have hn : (Tag.ofNum g.toNat).shape.1 = 2 * a.tag.shape.1 := by
    have hA := Tag.lanes_mul_width ha
    have hB := shape_mul_of_elem (T := Tag.ofNum g.toNat) (by simp [hy]) (by have := width_le_of_isNumV ha; omega)
    rw [hw, ← hB, Nat.mul_left_comm, ← Nat.mul_assoc] at hA
    have hpos : 0 < (Tag.ofNum g.toNat).shape.2 := Nat.pos_of_ne_zero fun e => by rw [e, Nat.mul_zero] at hB; cases hB
    exact (Nat.eq_of_mul_eq_mul_right hpos hA).symm
  have hlen : codes.length = (Tag.ofNum g.toNat).shape.1 := by simp [codes, hn]; omega
  obtain ⟨hl, hk⟩ := convertAll_spec ready.run hx hy codes
  have hbody : vpackBody g [a, b] s = .res s (Reg.ofCodes (Tag.ofNum g.toNat) (s.convertAll a.tag (Tag.ofNum g.toNat) codes)) := by
    simp only [vpackBody]
    rw [if_neg (by rw [← hab]; simp [ha, hw]), lanes_eq_map_lane, hab, lanes_eq_map_lane, ← hab]
  refine ⟨_, delivers_of_done s ready rfl hbody rfl free, HasLanes.congr (hasLanes_ofCodes_of_length (by rw [hl, hlen])) fun k h => ?_⟩
  rw [hk k (by rwa [hlen]), hlen]
  congr 1
  split
  · next hin => simp [codes, List.getD_eq_getElem?_getD, List.getElem?_append, hin]
  · next hout => 
    have : k - a.tag.shape.1 < a.tag.shape.1 := by omega
    simp [codes, List.getD_eq_getElem?_getD, List.getElem?_append, hout, this]

/-! ### Q4N (R152, R153) -/

/-- A Q4N register with block b replaced. -/
theorem lane_setFld_block {old : Vec} {b k : Nat} (hb : b < 8) (l : List Nat) :
    lane { tag := .vq4n, bits := setFld old (256 * b) 256 (packLanes 4 l) } k =
      if k / 64 = b then l.getD (k % 64) 0 % 16 else fldN old (4 * k) 4 := by
  show fldN (setFld old (256 * b) 256 (packLanes 4 l)) (4 * k) 4 = _
  split
  · next e =>
    have hpos : 4 * k = 256 * b + 4 * (k % 64) := by omega
    rw [hpos, fldN_setFld_inside _ (by omega) (by omega), show l.getD (k % 64) 0 % 16 = _ from (packLanes_lane 4 l (k % 64)).symm]
    rw [show 256 = 4 * (k % 64) + (4 + (252 - 4 * (k % 64))) by omega, Nat.pow_add, Nat.mod_mul_right_div_self, Nat.pow_add,
      Nat.mod_mul_right_mod]
  · next e => exact fldN_setFld_outside _ (by omega) (by omega)

theorem getD_deqBlock {s : State} {m : Fmt} {q sc codes : Reg} {j : Nat} : (s.deqBlock m q sc codes j).length = 64 ∧
    ∀ k < 64, (s.deqBlock m q sc codes j).getD k 0 =
      m.round s.vmode s.vsat none (q4deq (fldN q.bits (256 * j + 4 * k) 4) (fldN codes.w (8 * j) 8) (fldN sc.bits 0 32)) := by
  simp only [State.deqBlock, lanes, lanesGo_eq_map, List.map_map]
  refine ⟨by simp, fun k hk => ?_⟩
  have hin : fldN q.bits (256 * j + 4 * k) 4 = (BitVec.ofNat 2048 (q.bits.toNat / 2 ^ (256 * j))).toNat / 2 ^ (4 * k) % 2 ^ 4 := by
    rw [BitVec.toNat_ofNat, Nat.mod_eq_of_lt (Nat.lt_of_le_of_lt (Nat.div_le_self _ _) q.bits.isLt), Nat.div_div_eq_div_mul, ← Nat.pow_add]
    rfl
  rw [getD_map_range _ _ hk, hin]; rfl

theorem hasLanes_deqBlock {s : State} {q sc codes : Reg} (j : Nat) : HasLanes (Reg.ofCodes .vf32 (s.deqBlock fp32 q sc codes j)) .vf32 fun k =>
    fp32.round s.vmode s.vsat none (q4deq (fldN q.bits (256 * j + 4 * k) 4) (fldN codes.w (8 * j) 8) (fldN sc.bits 0 32)) :=
  HasLanes.congr (hasLanes_ofCodes_of_length (Nat.le_of_eq getD_deqBlock.1)) getD_deqBlock.2

theorem hasLanes_deqBlocks {s : State} {q sc codes : Reg} (j : Nat) :
    HasLanes (Reg.ofCodes .vbf16 (s.deqBlock bf16 q sc codes j ++ s.deqBlock bf16 q sc codes (j + 1))) .vbf16 fun k =>
    bf16.round s.vmode s.vsat none
      (q4deq (fldN q.bits (256 * (j + k / 64) + 4 * (k % 64)) 4) (fldN codes.w (8 * (j + k / 64)) 8) (fldN sc.bits 0 32)) := by
  refine HasLanes.congr (hasLanes_ofCodes_of_length ?_) fun k hk => ?_
  · rw [List.length_append, getD_deqBlock.1, getD_deqBlock.1]; decide
  · replace hk : k < 128 := hk
    rcases Nat.lt_or_ge k 64 with h | h
    · rw [List.getD_append _ _ _ _ (by rwa [getD_deqBlock.1]), getD_deqBlock.2 k h, Nat.div_eq_of_lt h, Nat.mod_eq_of_lt h, Nat.add_zero]
    · rw [List.getD_append_right _ _ _ _ (by rwa [getD_deqBlock.1]), getD_deqBlock.1, getD_deqBlock.2 _ (by omega),
        show k / 64 = 1 by omega, show k % 64 = k - 64 by omega]

/-- Settles O9: conversions code by code, with their draws; the blocks of a Q4N register as fields of it. -/
theorem vectorConversionsAndBlocks : Obligations.VectorConversionsAndBlocks := by
  refine ⟨fun t u s r => ⟨?_, ?_, ?_, ?_⟩, fun t u s r free ht hu => ⟨?_, ?_⟩⟩
  · intro p g a x y ready free hx hy hne hs
    exact vcvt_delivers ready free hx hy hne hs
  · intro p g a ready free he hs
    exact vcvt_same ready free he hs
  · intro p f h q a T x y ready free ha hw hT hi hx hy
    exact vunpk_delivers ready free ha hw hT hi hx hy
  · intro p g a b x y ready free hab ha hw hx hy
    exact vpack_delivers ready free hab ha hw hx hy
  · intro b x sc prior ready hx hsc hprior
    have hdraws : (s.vdraws 64).filterMap id =
        if (s.ctx s.focus).round = 4 then drawList 64 ((s.ctx s.focus).drawState r s.index) else [] := by
      rw [vdraws_eq ready.run]; split <;> simp
    have hcodes : lanes 64 32 x.bits = (List.range 64).map fun k => lane x k := by
      have := lanes_eq_map_lane x; rwa [hx] at this
    have hp : ¬(x.tag ≠ .vf32 ∨ sc.tag ≠ .f32s ∨ (prior.tag ≠ .vq4n ∧ prior.tag ≠ .i64)) := by
      simp only [hx, hsc]; tauto
    refine ⟨_, ?_, exec_of_done_two ready rfl (by rw [vqntBody, if_neg hp, hdraws, hcodes]) rfl free ht hu, fun k hk => ?_⟩
    · rfl
    · rw [lane_setFld_block b.isLt]
      split
      · rfl
      · split
        · next hq => rw [lane, hq]; rfl
        · simp [fldN]
  · intro f b q sc codes ready hq hsc hc
    have hp : ¬(q.tag ≠ .vq4n ∨ sc.tag ≠ .f32s ∨ codes.tag ≠ .i64) := by simp [hq, hsc, hc]
    by_cases hf : f = 0#1
    · exact ⟨_, _, exec_of_done_two ready rfl (by rw [vdqntBody, if_neg hp, if_pos hf]) rfl free ht hu,
        fun _ => ⟨hasLanes_deqBlock _, hasLanes_deqBlock _⟩, fun h => absurd (hf.symm.trans h) (by decide)⟩
    · exact ⟨_, _, exec_of_done_two ready rfl (by rw [vdqntBody, if_neg hp, if_neg hf]) rfl free ht hu,
        fun h => absurd h hf, fun _ => ⟨hasLanes_deqBlocks _, hasLanes_deqBlocks _⟩⟩

end Sys2Proof.Machine
end

section
/-! PROOFS of local loads and stores, local atomics, landing and fences (10_be_local_memory.md R155 to R163). -/

namespace Sys2Proof.Machine

open Sys2Proof.Safety

/-! ### Numbers and their bytes (00_scope.md R2) -/

theorem leNat_map_range (f : Nat → Byte) : ∀ n, leNat ((List.range n).map f) = ((List.range n).map fun j => (f j).toNat * 256 ^ j).sum := by
  intro n
  induction n generalizing f with
  | zero => rfl
  | succ n ih =>
    rw [List.range_succ_eq_map, List.map_cons, List.map_map, leNat, ih, List.map_cons, List.map_map, List.sum_cons, Nat.pow_zero, Nat.mul_one,
      ← List.sum_map_mul_left]
    congr 2
    apply List.map_congr_left
    intro j _
    simp only [Function.comp_apply, Nat.pow_succ]
    ring

theorem leBytes_eq_map (n : Nat) : ∀ v, leBytes n v = (List.range n).map fun j => BitVec.ofNat 8 (v / 2 ^ (8 * j)) := by
  induction n with
  | zero => exact fun _ => rfl
  | succ n ih =>
    intro v
    rw [leBytes, ih, List.range_succ_eq_map, List.map_cons, List.map_map]
    refine congrArg₂ _ (by simp) (List.map_congr_left fun j _ => ?_)
    rw [Function.comp_apply, Nat.div_div_eq_div_mul, show 256 = 2 ^ 8 from rfl, ← Nat.pow_add, Nat.mul_succ, Nat.add_comm]

/-- The bytes of a word are its fields. -/
theorem leBytes_toNat {m : Nat} (x : BitVec m) (n : Nat) : leBytes n x.toNat = (List.range n).map fun j => fld x (8 * j) 8 :=
  leBytes_eq_map n _

theorem localNat_eq (s : State) (a n : Nat) :
    localNat s a n = leNat ((List.range n).map fun j => Memory.read s.mem (lsKey s.focus.die s.focus.tile (a + j))) :=
  (leNat_map_range _ n).symm

/-! ### The checks (R155) -/

section Checks

variable {ea : Int} {n align : Nat}

theorem localCheck_eq_none (h0 : 0 ≤ ea) (h1 : ea + n ≤ 0x200000) (h2 : ea % align = 0) : localCheck ea n align = none := by
  rw [localCheck, if_neg (by omega), if_neg (by omega)]

theorem localCheck_bounds (h : ea < 0 ∨ 0x200000 < ea + n) : localCheck ea n align = some (.fault .lsBounds (BitVec.ofInt 64 ea) 0#64) := by
  rw [localCheck, if_pos h]

theorem localCheck_align (h0 : 0 ≤ ea) (h1 : ea + n ≤ 0x200000) (h2 : ea % align ≠ 0) :
    localCheck ea n align = some (.fault .align (BitVec.ofInt 64 ea) 0#64) := by
  rw [localCheck, if_neg (by omega), if_pos h2]

/-- A ready instruction that answers as the check says, where the check fails. -/
theorem localFaults_of_check {s : State} {i : Instr} {vals : List Reg} {r : Run} {body : List Reg → State → Act} (ready : Ready s i vals r)
    (hexec : exec i s = .next (fire (shapeOf i s.index) body s)) (hbody : ∀ x, localCheck ea n align = some x → body vals s = x) :
    LocalFaults i s ea n align :=
  ⟨fun h => faults_of_fault s ready hexec (hbody _ (localCheck_bounds h)),
    fun h0 h1 h2 => faults_of_fault s ready hexec (hbody _ (localCheck_align h0 h1 h2))⟩

end Checks

/-! ### Which loads wait, and what they see (R156) -/

theorem gated_eq {s : State} {r : Run} {l : Nat} {tensor : Bool} (hr : (s.ctx s.focus).run = some r) (hg : s.loadGate r tensor l = true)
    (k : Run → State → Act) : gated tensor l k s = k r s := by
  rw [gated, hr]; exact if_pos hg

theorem loadGate_of_settled {s : State} {r : Run} {l : Nat} {tensor : Bool}
    (h : ∀ k < r.size, (r.shape k).lsid.getD 32 < l → (r.shape k).gate = .none ∨ r.settled k = true) : s.loadGate r tensor l = true := by
  simp only [State.loadGate, List.all_eq_true, Run.below, List.mem_filter, List.mem_map, List.mem_range, decide_eq_true_eq]
  rintro x ⟨⟨k, hk, rfl⟩, hl⟩
  rcases h k hk hl with h | h
  · simp [h]
  · simp [h]

theorem loadGate_of_unheld {s : State} {r : Run} {l : BitVec 5} {tensor : Bool} (h : Unheld r l) : s.loadGate r tensor l.toNat = true :=
  loadGate_of_settled fun k hk hl => .inl (h.2 k hk hl)

/-- A load with LSID l of the block sees f. -/
def Sees (s : State) (r : Run) (l : Nat) (f : Nat → Byte) : Prop :=
  ∀ a n, (∀ j < n, s.badAt (lsKey s.focus.die s.focus.tile (a + j)) 1 = false) →
    s.loadLocal r l a n = some ((List.range n).map fun j => f (a + j))

/-- A load sees what the stores forward to it, and memory elsewhere. -/
theorem sees_of_forward {s : State} {r : Run} {l : Nat} {fwd : Nat → Option Byte}
    (h : ∀ a n, ∀ j < n, (r.forward l a n).getD j none = fwd (a + j)) :
    Sees s r l fun b => (fwd b).getD (Memory.read s.mem (lsKey s.focus.die s.focus.tile b)) := by
  intro a n hbad
  have hany : ((List.range n).any fun i => ((r.forward l a n).getD i none).isNone && s.badAt (lsKey s.focus.die s.focus.tile (a + i)) 1) = false := by
    rw [List.any_eq_false]
    intro j hj
    rw [hbad j (List.mem_range.mp hj), Bool.and_false]
    exact Bool.false_ne_true
  rw [State.loadLocal, hany]
  refine congrArg some (List.map_congr_left fun j hj => ?_)
  dsimp only
  rw [h a n j (List.mem_range.mp hj)]
  cases fwd (a + j) <;> rfl

theorem sees_memory {s : State} {r : Run} {l : BitVec 5} (h : Unheld r l) :
    Sees s r l.toNat fun b => Memory.read s.mem (lsKey s.focus.die s.focus.tile b) :=
  sees_of_forward (fwd := fun _ => none) fun a n j hj => by simp [Run.forward, h.1, sortLsid, List.getD_eq_getElem?_getD, hj]

/-! ### Local loads (R157, R159, R160) -/

section Loads

variable {p : BitVec 2} {l : BitVec 5} {t : BitVec 7} {s : State} {r : Run} {f : Nat → Byte} {a off : Reg} {sg : BitVec 1} {z : BitVec 2}
  {i : BitVec 7} {g : BitVec 4}

theorem ldlBody_eq (hr : (s.ctx s.focus).run = some r) (hg : s.loadGate r false l.toNat = true) :
    ldlBody l sg z i [a] s = if a.tag ≠ .i64 then .flt .tagFault else
      localLoad l.toNat (a.w.toInt + i.toInt * (2 ^ z.toNat : Nat)) (2 ^ z.toNat) (2 ^ z.toNat) (fun bs => Reg.ofW
        (if sg = 1#1 then BitVec.ofInt 64 (sgnN (8 * 2 ^ z.toNat) (leNat bs)) else BitVec.ofNat 64 (leNat bs))) r s := by
  rw [ldlBody, gated_eq hr hg, sgnN_toNat (by decide)]; rfl

theorem vldlBody_eq (hr : (s.ctx s.focus).run = some r) (hg : s.loadGate r false l.toNat = true) :
    vldlBody l g i [a] s = if a.tag ≠ .i64 then .flt .tagFault else
      localLoad l.toNat (a.w.toInt + i.toInt * (vecBytes (Tag.ofNum g.toNat) : Nat)) (vecBytes (Tag.ofNum g.toNat))
        (vecAlign (Tag.ofNum g.toNat)) (fun bs => { tag := Tag.ofNum g.toNat, bits := BitVec.ofNat 2048 (leNat bs) }) r s := by
  rw [vldlBody, gated_eq hr hg, sgnN_toNat (by decide)]; rfl

theorem localLoad_ok {ea : Int} {n align : Nat} {mk : List Byte → Reg} (hs : Sees s r l.toNat f) (h : LocalOk s ea n align) :
    localLoad l.toNat ea n align mk r s = .res s (mk ((List.range n).map fun j => f (ea.toNat + j))) := by
  obtain ⟨h0, h1, h2, hb⟩ := h
  simp only [localLoad, localCheck_eq_none h0 h1 h2, hs _ n hb]

theorem vecAlign_eq (T : Tag) : vecAlign T = if T.isMask then vecBytes T else 32 := by
  unfold vecAlign vecBytes; cases T.isMask <;> rfl

theorem ldl_delivers {n : Nat} {ea : Int} (hg : s.loadGate r false l.toNat = true) (hs : Sees s r l.toNat f) (free : FreeTargets r [t])
    (ready : Ready s (.ldl p l sg z i t) [a] r) (ha : a.tag = .i64) (hn : 2 ^ z.toNat = n) (hea : a.w.toInt + i.toInt * (n : Nat) = ea)
    (ok : LocalOk s ea n n) : Delivers (.ldl p l sg z i t) s [t]
      (Reg.ofW (if sg = 1#1 then BitVec.ofInt 64 (sgnN (8 * n) (leNat ((List.range n).map fun j => f (ea.toNat + j))))
        else BitVec.ofNat 64 (leNat ((List.range n).map fun j => f (ea.toNat + j))))) := by
  subst hn hea
  exact delivers_of_done s ready rfl (by rw [ldlBody_eq ready.run hg, if_neg (not_not.mpr ha), localLoad_ok hs ok]; rfl) rfl free

theorem vldl_delivers {T : Tag} {n : Nat} {ea : Int} (hg : s.loadGate r false l.toNat = true) (hs : Sees s r l.toNat f)
    (free : FreeTargets r [t]) (ready : Ready s (.vldl p l g i t) [a] r) (ha : a.tag = .i64) (hT : Tag.ofNum g.toNat = T)
    (hn : vecBytes T = n) (hea : a.w.toInt + i.toInt * (n : Nat) = ea) (ok : LocalOk s ea n (if T.isMask then n else 32)) :
    Delivers (.vldl p l g i t) s [t]
      { tag := T, bits := BitVec.ofNat 2048 (leNat ((List.range n).map fun j => f (ea.toNat + j))) } := by
  subst hT hn hea
  rw [← vecAlign_eq] at ok
  exact delivers_of_done s ready rfl (by rw [vldlBody_eq ready.run hg, if_neg (not_not.mpr ha), localLoad_ok hs ok]; rfl) rfl free

theorem offTag_eq {O T : Tag} (hT : T.isNumV = true) (hO : O.isIntV = true) (hs : O.shape = T.shape) : O = offTag T := by
  rw [offTag, ← hs]
  revert hO; cases O <;> decide

theorem width_eq_bytes {T : Tag} (h : T.isNumV = true) : T.shape.2 = 8 * (T.shape.2 / 8) := by
  revert h; cases T <;> decide

/-- The addresses of a gather's or scatter's lanes. -/
theorem laneAddrs_eq {T : Tag} (b : Int) (hs : off.tag.shape = T.shape) :
    laneAddrs T b off = (List.range T.shape.1).map fun k => b + (lane off k * (T.shape.2 / 8) : Nat) := by
  rw [laneAddrs, ← hs, lanes_eq_map_lane, List.map_map]; rfl

theorem laneCheck_eq_none {T : Tag} {b : Int} {c : Nat → Int} {n : Nat} (hb : b % (T.shape.2 / 8 : Nat) = 0)
    (h : ∀ k < n, 0 ≤ c k ∧ c k + (T.shape.2 / 8 : Nat) ≤ 0x200000) : laneCheck T b ((List.range n).map c) = none := by
  have hf : ((List.range n).map c).find? (fun x : Int => decide (x < 0 ∨ 0x200000 < x + ((T.shape.2 / 8 : Nat) : Int))) = none := by
    rw [List.find?_eq_none]
    intro x hx
    obtain ⟨k, hk, rfl⟩ := List.mem_map.mp hx
    have := h k (List.mem_range.mp hk)
    simp only [decide_eq_true_eq]; omega
  simp only [laneCheck, hf]
  exact if_neg (not_not.mpr hb)

theorem vgtl_delivers (hg : s.loadGate r false l.toNat = true) (hs : Sees s r l.toNat f) (free : FreeTargets r [t])
    (ready : Ready s (.vgtl p l g i t) [a, off] r) (ha : a.tag = .i64) :
    let T := Tag.ofNum g.toNat
    let e := T.shape.2 / 8
    let base := a.w.toInt + i.toInt * 256
    T.isNumV = true → off.tag.isIntV = true → off.tag.shape = T.shape → base % (e : Nat) = 0 →
    (∀ k < T.shape.1, LocalOk s (base + (lane off k * e : Nat)) e 1) →
      ∃ v, Delivers (.vgtl p l g i t) s [t] v ∧ HasLanes v T fun k =>
        leNat ((List.range e).map fun j => f ((base + (lane off k * e : Nat)).toNat + j)) := by
  intro T e base hT hO hshape hbase ok
  have hcheck : laneCheck T base (laneAddrs T base off) = none := by
    rw [laneAddrs_eq base hshape]
    exact laneCheck_eq_none hbase fun k hk => ⟨(ok k hk).1, (ok k hk).2.1⟩
  have hload : (laneAddrs T base off).map (fun x => s.loadLocal r l.toNat x.toNat e) =
      (List.range T.shape.1).map fun k => some ((List.range e).map fun j => f ((base + (lane off k * e : Nat)).toNat + j)) := by
    rw [laneAddrs_eq base hshape, List.map_map]
    exact List.map_congr_left fun k hk => hs _ e (ok k (List.mem_range.mp hk)).2.2.2
  have hbody : vgtlBody l g i [a, off] s = .res s (Reg.ofCodes T ((List.range T.shape.1).map fun k =>
      leNat ((List.range e).map fun j => f ((base + (lane off k * e : Nat)).toNat + j)))) := by
    rw [vgtlBody, gated_eq ready.run hg, sgnN_toNat (by decide)]
    dsimp only [effAddr]
    rw [if_neg (not_or.mpr ⟨not_not.mpr ha, not_not.mpr (offTag_eq hT hO hshape)⟩), hcheck, hload]
    simp [Reg.ofCodes, Function.comp_def]; rfl
  exact ⟨_, delivers_of_done s ready rfl hbody rfl free, hasLanes_ofCodes_range _⟩

end Loads

/-- Settles O10: nothing is received before the load, which then sees memory. -/
theorem localLoads : Obligations.LocalLoads := by
  intro p l t s r free held
  refine ⟨fun sg z i a ready ha => ?_, fun g i a ready ha => ?_, fun g i a off ready ha => ?_⟩
  · intro n ea ok
    rw [localNat_eq]
    exact ldl_delivers (f := fun b => Memory.read s.mem (lsKey s.focus.die s.focus.tile b)) (loadGate_of_unheld held) (sees_memory held) free
      ready ha rfl rfl ok
  · intro T n ea ok
    rw [localNat_eq]
    exact vldl_delivers (f := fun b => Memory.read s.mem (lsKey s.focus.die s.focus.tile b)) (loadGate_of_unheld held) (sees_memory held) free
      ready ha rfl rfl rfl ok
  · intro T e base
    simp only [localNat_eq]
    exact vgtl_delivers (f := fun b => Memory.read s.mem (lsKey s.focus.die s.focus.tile b)) (loadGate_of_unheld held) (sees_memory held) free
      ready ha

/-! ### Local stores (R158 to R160) -/

/-- A store that passes its check is received with its bytes. -/
theorem localStore_eq {ea : Int} {n align : Nat} {bs : List Byte} {s : State} (hl : bs.length = n) (h0 : 0 ≤ ea) (h1 : ea + n ≤ 0x200000)
    (h2 : ea % align = 0) : localStore ea align bs s = .done [] (some (.storeLocal ea.toNat bs)) s := by
  rw [localStore, hl, localCheck_eq_none h0 h1 h2]

theorem localStore_fault {ea : Int} {n align : Nat} {bs : List Byte} {s : State} {x : Act} (hl : bs.length = n)
    (h : localCheck ea n align = some x) : localStore ea align bs s = x := by
  rw [localStore, hl, h]

section Stores

variable {p : BitVec 2} {l : BitVec 5} {s : State} {r : Run} {a v off : Reg} {i : BitVec 14}

theorem stlBody_eq {z : BitVec 2} (ha : a.tag = .i64) (hv : v.tag = .i64 ∨ (v.tag = .f32s ∧ 2 ^ z.toNat = 4) ∨ (v.tag = .hndl ∧ 2 ^ z.toNat = 8)) :
    stlBody z i [a, v] s = localStore (a.w.toInt + i.toInt * (2 ^ z.toNat : Nat)) (2 ^ z.toNat) (leBytes (2 ^ z.toNat) v.w.toNat) s := by
  have hk : stlTag v.tag (2 ^ z.toNat) = true := by simpa [stlTag, or_assoc] using hv
  rw [stlBody, sgnN_toNat (by decide)]
  exact if_neg (by simp [ha, szBytes, hk])

theorem vstlBody_eq (ha : a.tag = .i64) (h4 : 4 ≤ v.tag.num) (h14 : v.tag.num ≤ 14) :
    vstlBody i [a, v] s = localStore (a.w.toInt + i.toInt * (vecBytes v.tag : Nat)) (if v.tag.isMask then vecBytes v.tag else 32)
      (leBytes (vecBytes v.tag) v.bits.toNat) s := by
  rw [vstlBody, sgnN_toNat (by decide), if_neg (by simp [ha, vecTag, h4, h14]), vecAlign_eq]; rfl

theorem byte_of_lane {e : Nat} (hw : v.tag.shape.2 = 8 * e) {k j : Nat} (hj : j < e) :
    BitVec.ofNat 8 (lane v k / 2 ^ (8 * j)) = fld v.bits (8 * (k * e + j)) 8 := by
  apply BitVec.eq_of_toNat_eq
  obtain ⟨d, rfl⟩ := Nat.exists_eq_add_of_lt hj
  rw [lane, hw, fldN, fld, BitVec.toNat_ofNat, BitVec.toNat_ofNat, show 8 * (j + d + 1) = 8 * j + (8 + 8 * d) by omega, Nat.pow_add 2 (8 * j),
    Nat.mod_mul_right_div_self, Nat.pow_add 2 8, Nat.mod_mul_right_mod, Nat.div_div_eq_div_mul, ← Nat.pow_add]
  congr 3; ring

theorem vsclBody_eq (ha : a.tag = .i64) (hv : v.tag.isNumV = true) (hO : off.tag.isIntV = true) (hs : off.tag.shape = v.tag.shape) :
    let e := v.tag.shape.2 / 8
    let base := a.w.toInt + i.toInt * 256
    let ea (k : Nat) : Int := base + (lane off k * e : Nat)
    base % (e : Nat) = 0 → (∀ k < v.tag.shape.1, 0 ≤ ea k ∧ ea k + e ≤ 0x200000) →
      vsclBody i [a, v, off] s = .done [] (some (.scatterLocal ((List.range v.tag.shape.1).map fun k =>
        ((ea k).toNat, (List.range e).map fun j => fld v.bits (8 * (k * e + j)) 8)))) s := by
  intro e base ea hbase hin
  have hcheck : laneCheck v.tag base (laneAddrs v.tag base off) = none := by
    rw [laneAddrs_eq base hs]; exact laneCheck_eq_none hbase hin
  have hbytes (k : Nat) : leBytes e (lane v k) = (List.range e).map fun j => fld v.bits (8 * (k * e + j)) 8 := by
    rw [leBytes_eq_map]
    exact List.map_congr_left fun j hj => byte_of_lane (width_eq_bytes hv) (List.mem_range.mp hj)
  rw [vsclBody, sgnN_toNat (by decide), if_neg (by simp only [ha, hv, ← offTag_eq hv hO hs]; simp)]
  dsimp only [effAddr]
  rw [hcheck, laneAddrs_eq base hs, lanes_eq_map_lane]
  simp only [List.zip_map', List.map_map, Function.comp_def]
  simp only [← hbytes]; rfl

end Stores

/-! ### Forwarding (R156) -/

theorem getD_overlay {a w n : Nat} {h : List (Option Byte)} {bs : List Byte} (hl : h.length = n) {j : Nat} (hj : j < n) :
    (overlay a h w bs).getD j none = if w ≤ a + j ∧ a + j < w + bs.length then some (bs.getD (a + j - w) 0#8) else h.getD j none := by
  rw [overlay, hl, getD_map_range _ _ hj]
  split
  · next hin =>
    have : a + j - w < bs.length := by omega
    simp [List.getD_eq_getElem?_getD, this]
  · rfl

theorem sortLsid_pair {x y : Counted} (h : x.lsid < y.lsid) {l : List Counted} (hl : l = [x, y] ∨ l = [y, x]) : sortLsid l = [x, y] := by
  rcases hl with rfl | rfl
  · simp [sortLsid, insertLsid, Nat.le_of_lt h]
  · simp [sortLsid, insertLsid, h]

/-- What two received stores give a load of a higher LSID. -/
def forwarded (u v : Nat) (bs cs : List Byte) (b : Nat) : Option Byte :=
  if v ≤ b ∧ b < v + cs.length then some (cs.getD (b - v) 0#8) else if u ≤ b ∧ b < u + bs.length then some (bs.getD (b - u) 0#8) else none

theorem forward_pair {r : Run} {l m k : BitVec 5} {x y : Counted} {u v : Nat} {bs cs : List Byte} (hx : x.lsid = m.toNat)
    (hxo : x.op = .storeLocal u bs) (hy : y.lsid = k.toNat) (hyo : y.op = .storeLocal v cs) (hmk : m.toNat < k.toNat) (hkl : k.toNat < l.toNat)
    (hc : r.counted = [x, y] ∨ r.counted = [y, x]) (a n : Nat) : ∀ j < n, (r.forward l.toNat a n).getD j none = forwarded u v bs cs (a + j) := by
  intro j hj
  have hsort := sortLsid_pair (by rw [hx, hy]; exact hmk) hc
  have hml := Nat.lt_trans hmk hkl
  have hf : r.forward l.toNat a n = overlay a (overlay a (List.replicate n none) u bs) v cs := by
    simp [Run.forward, hsort, hx, hy, hkl, hml, hxo, hyo, CommitOp.over]
  rw [hf, getD_overlay (by simp [overlay]) hj, getD_overlay (by simp) hj, forwarded]
  simp [List.getD_eq_getElem?_getD, hj]

/-- Settles O11: the stores through `localStore`, the checks through `localCheck`, forwarding through what two stores lay over a load. -/
theorem localStoresAndChecks : Obligations.LocalStoresAndChecks := by
  refine ⟨fun p l s r => ⟨?_, ?_, ?_⟩, fun p l t s r a => ⟨?_, ?_, ?_, ?_⟩, ?_⟩
  · intro z i a v ready ha
    refine fun hv => ⟨fun h0 h1 h2 => ?_, localFaults_of_check ready rfl fun x hx => ?_⟩
    · rw [← leBytes_toNat]
      exact receives_of_done s ready rfl ((stlBody_eq ha hv).trans (localStore_eq (length_leBytes _ _) h0 h1 h2)) rfl rfl
    · exact (stlBody_eq ha hv).trans (localStore_fault (length_leBytes _ _) hx)
  · intro i a v ready ha h4 h14
    refine ⟨fun h0 h1 h2 => ?_, localFaults_of_check ready rfl fun x hx => ?_⟩
    · rw [← leBytes_toNat]
      exact receives_of_done s ready rfl ((vstlBody_eq ha h4 h14).trans (localStore_eq (length_leBytes _ _) h0 h1 h2)) rfl rfl
    · exact (vstlBody_eq ha h4 h14).trans (localStore_fault (length_leBytes _ _) hx)
  · intro i a v off ready ha hv e base ea hO hs hbase hin
    exact receives_of_done s ready rfl (vsclBody_eq ha hv hO hs hbase hin) rfl rfl
  · intro sg z i ready held
    have hbody := ldlBody_eq (sg := sg) (z := z) (i := i) (a := a) ready.run (loadGate_of_unheld (l := l) held)
    refine ⟨fun h => faults_of_fault s ready rfl (hbody.trans (if_pos h)), fun h => localFaults_of_check ready rfl fun x hx => ?_⟩
    rw [hbody, if_neg (not_not.mpr h), localLoad, hx]
  · intro g i ready held
    have hbody := vldlBody_eq (g := g) (i := i) (a := a) ready.run (loadGate_of_unheld (l := l) held)
    refine ⟨fun h => faults_of_fault s ready rfl (hbody.trans (if_pos h)), fun h => localFaults_of_check ready rfl fun x hx => ?_⟩
    have hx : localCheck (a.w.toInt + i.toInt * (vecBytes (Tag.ofNum g.toNat) : Nat)) (vecBytes (Tag.ofNum g.toNat))
        (vecAlign (Tag.ofNum g.toNat)) = some x := by rw [vecAlign_eq]; exact hx
    rw [hbody, if_neg (not_not.mpr h), localLoad, hx]
  · intro m o z b ready
    refine ⟨fun h => faults_of_fault s ready rfl (if_pos h), fun ha hb => localFaults_of_check ready rfl fun x hx => ?_⟩
    exact (if_neg (by simp [ha, hb])).trans (by rw [show localCheck a.w.toInt (amoSize z) (amoSize z) = _ from hx])
  · intro o z e n ready
    refine ⟨fun h => faults_of_fault s ready rfl (if_pos h), fun ha he hn => localFaults_of_check ready rfl fun x hx => ?_⟩
    exact (if_neg (by simp [ha, he, hn])).trans (by rw [show localCheck a.w.toInt (amoSize z) (amoSize z) = _ from hx])
  · intro p l m k t x y u v bs cs s r a hx hxo hy hyo hmk hkl hc free ha hgate sees value
    have gate : s.loadGate r false l.toNat = true := loadGate_of_settled fun j hj hl => (hgate j hj hl).imp id fun h => by rw [Run.settled, h.1, h.2]; rfl
    have hsees : Sees s r l.toNat sees := by
      have := sees_of_forward (s := s) (forward_pair hx hxo hy hyo hmk hkl hc)
      convert this using 2 with b
      simp only [sees, forwarded]
      split
      · rfl
      · split <;> rfl
    refine ⟨fun z i ready => ?_, fun g i ready => ?_, fun g i off ready => ?_⟩
    · intro n ea ok
      have := ldl_delivers gate hsees free ready ha rfl rfl ok
      rwa [if_neg (by decide)] at this
    · exact fun ok => vldl_delivers gate hsees free ready ha rfl rfl rfl ok
    · exact vgtl_delivers gate hsees free ready ha

end Sys2Proof.Machine
end

section
/-! PROOFS of local atomics, landing and fences (10_be_local_memory.md R161 to R163). -/

namespace Sys2Proof.Machine

open Sys2Proof.Safety

/-! ### Counted instructions (06_block_engine.md R91, R93) -/

theorem updRun_congr {s : State} {p : Place} {r : Run} (hr : (s.ctx p).run = some r) {f g : Run → Run} (h : f r = g r) :
    s.updRun p f = s.updRun p g := by
  simp only [State.updRun, State.updCtx, hr, Option.map_some, h]

/-- A ready counted instruction that sends nothing is received, in the state that its meaning leaves. -/
theorem exec_of_received {s t : State} {i : Instr} {vals : List Reg} {r : Run} {l : Nat} {op : CommitOp} {body : List Reg → State → Act}
    (ready : Ready s i vals r) (hexec : exec i s = .next (fire (shapeOf i s.index) body s)) (hbody : body vals s = .done [] (some op) t)
    (hc : (shapeOf i s.index).counted = true) (hl : (shapeOf i s.index).lsid = some l) :
    exec i s = .next (t.updRun s.focus fun r => fired r s.index [] [⟨l, s.index, op⟩]) := by
  rw [hexec, fire_ready ready, hbody]
  simp only [mark_receipt, receipt, hc, hl, if_true, Option.getD_some]
  cases (shapeOf i s.index).targets <;> rfl

/-- A ready counted instruction that sends one value. -/
theorem answers_of_done {s : State} {i : Instr} {vals : List Reg} {r : Run} {l : BitVec 5} {op : CommitOp} {ts : List (BitVec 7)} {v : Reg}
    {body : List Reg → State → Act} (ready : Ready s i vals r) (hexec : exec i s = .next (fire (shapeOf i s.index) body s))
    (hbody : body vals s = .done [.val v] (some op) s) (hc : (shapeOf i s.index).counted = true)
    (hl : (shapeOf i s.index).lsid = some l.toNat) (htargets : (shapeOf i s.index).targets = ts.map BitVec.toNat) (free : FreeTargets r ts) :
    Answers i s l ts v op := by
  have h7 : (ts.map BitVec.toNat).filter (fun t => t != 0x7F) = (ts.filter fun t => t != 0x7F#7).map BitVec.toNat := by
    rw [List.filter_map]; congr 1; apply List.filter_congr; intro t _
    simp [bne, BitVec.toNat_eq]
  rw [Answers, hexec, fire_ready ready, hbody, htargets]
  simp only [mark_receipt, receipt, hc, hl, if_true, Option.getD_some]
  rw [updRun_deliverAll _ _ _ ready.run, h7, sent, List.map_map]
  · rfl
  · rw [h7]; exact free.1.map fun a b h => BitVec.eq_of_toNat_eq h
  · intro t ht h0
    obtain ⟨u, hu, rfl⟩ := List.mem_map.mp ht
    exact free.2 u hu fun e => h0 (by rw [e]; rfl)

/-- A ready instruction that did not wait begins to. -/
theorem exec_of_wait {s : State} {i : Instr} {vals : List Reg} {r : Run} {k : WaitKind} {d : Word64} {body : List Reg → State → Act}
    (ready : Ready s i vals r) (hexec : exec i s = .next (fire (shapeOf i s.index) body s)) (hbody : body vals s = .wait k d)
    (hw : ∀ w ∈ r.waits, w.index ≠ s.index) : exec i s = .next (s.updRun s.focus fun r =>
      { r with waits := r.waits ++ [{ index := s.index, kind := k, detail := d, since := s.cycle }] }) := by
  have hany : (r.waits.any fun w => w.index == s.index && w.kind == k && w.detail == d) = false := by
    rw [List.any_eq_false]; intro w h; simp [hw w h]
  have hfilter : r.waits.filter (fun w => w.index != s.index) = r.waits := List.filter_eq_self.mpr fun w h => by simp [hw w h]
  rw [hexec, fire_ready ready, hbody]
  exact congrArg _ (updRun_congr ready.run (by simp only [Run.beginWait, hany, hfilter]; rfl))

/-- An instruction that reserves its target: it is received, and the target is reserved, unless it is 0x7F. -/
theorem reserves_of_body {s : State} {i : Instr} {vals : List Reg} {r : Run} {l : BitVec 5} {t : BitVec 7} {op : CommitOp}
    {body : List Reg → State → Act} (ready : Ready s i vals r) (hexec : exec i s = .next (fire (shapeOf i s.index) body s))
    (hbody : body vals s = s.reserve t.toNat op) (hc : (shapeOf i s.index).counted = true)
    (hl : (shapeOf i s.index).lsid = some l.toNat) : (t = 0x7F#7 → Receives i s l op) ∧
      (t ≠ 0x7F#7 → r.tok t.toNat = none → r.reserved.contains t.toNat = false → exec i s = .next (s.updRun s.focus fun r =>
        { fired r s.index [] [⟨l.toNat, s.index, op⟩] with reserved := r.reserved ++ [t.toNat] })) := by
  refine ⟨fun h => ?_, fun h htok hres => ?_⟩
  · exact receives_of_done s ready hexec (hbody.trans (by rw [State.reserve, ready.run, h]; rfl)) hc hl
  · have h7 : t.toNat ≠ 0x7F := fun e => h (BitVec.eq_of_toNat_eq e)
    rw [exec_of_received ready hexec (hbody.trans (by simp only [State.reserve, ready.run, if_neg h7, htok, hres]; rfl)) hc hl,
      State.updRun_updRun]
    rfl

/-! ### The new value of an atomic (R161) -/

/-- R161, operation by operation. -/
theorem amoValue_spec {n old b : Nat} (hn : 0 < n) (hold : old < 2 ^ (8 * n)) :
    let w := 8 * n
    let x : BitVec w := BitVec.ofNat w old
    let y : BitVec w := BitVec.ofNat w b
    amoValue 0 n old b = y.toNat ∧ amoValue 1 n old b = (x + y).toNat ∧ amoValue 2 n old b = (x &&& y).toNat ∧
     amoValue 3 n old b = (x ||| y).toNat ∧ amoValue 4 n old b = (x ^^^ y).toNat ∧
     amoValue 5 n old b = (if x.toInt ≤ y.toInt then x else y).toNat ∧
     amoValue 6 n old b = (if y.toInt ≤ x.toInt then x else y).toNat ∧
     amoValue 7 n old b = (if x.toNat ≤ y.toNat then x else y).toNat ∧
     amoValue 8 n old b = (if y.toNat ≤ x.toNat then x else y).toNat := by
  intro w x y
  have hx : x.toNat = old := by rw [BitVec.toNat_ofNat, Nat.mod_eq_of_lt hold]
  have hy : y.toNat = b % 2 ^ w := BitVec.toNat_ofNat ..
  have hsx : sgnN w old = x.toInt := sgnN_eq_toInt (by omega) old
  have hsy : sgnN w b = y.toInt := sgnN_eq_toInt (by omega) b
  refine ⟨hy.symm, ?_, ?_, ?_, ?_, ?_, ?_, ?_, ?_⟩
  · rw [BitVec.toNat_add, hx, hy, Nat.add_mod_mod]; rfl
  · rw [BitVec.toNat_and, hx, hy]; rfl
  · rw [BitVec.toNat_or, hx, hy]; rfl
  · rw [BitVec.toNat_xor, hx, hy]; rfl
  · rw [apply_ite BitVec.toNat, hx, hy, ← hsx, ← hsy]; rfl
  · rw [apply_ite BitVec.toNat, hx, hy, ← hsx, ← hsy]; rfl
  · rw [apply_ite BitVec.toNat, hx, hy]; rfl
  · rw [apply_ite BitVec.toNat, hx, hy]; rfl

/-! ### Landing (R162) -/

section Land

variable {n : BitVec 6} {s : State}

/-- No fault is recorded on what filled an entry. -/
theorem landFault_eq_none {c : Ctx} {p : Place} {e : Landing}
    (h : ∀ x, e.cmd = some x → x.1 = p → ∀ f ∈ c.recf, f.eng = x.2.1 → f.num ≠ x.2.2) : c.landFault p e = none := by
  unfold Ctx.landFault
  cases hx : e.cmd with
  | none => rfl
  | some x =>
    refine (?_ : (if x.1 = p then _ else none) = none)
    split
    · next hp =>
      rw [List.find?_eq_none]
      intro f hf
      have := h x hx hp f hf
      simpa using this
    · rfl

/-- `LAND` of a FULL entry on whose filling no fault is recorded. -/
theorem landBody_full {vals : List Reg} {e : Landing} (he : (s.tile s.focus.die s.focus.tile).lb n.toNat = e) (hfull : e.full = true)
    (hf : (s.ctx s.focus).landFault s.focus e = none) : landBody n vals s = if e.bad then .flt .uncorrectable else
      .done [.val { tag := e.tag, bits := e.tag.keep e.bits }] (some (.land n.toNat)) s := by
  simp only [landBody, he, hfull, hf]; rfl

end Land

/-! ### Fences (R163) -/

section Fences

variable {l : BitVec 5} {e : BitVec 3} {o c : BitVec 2} {s : State} {r : Run}

/-- The numbers of an engine that a fence names, as of the block's decode, are not all complete. -/
def FenceDue (x : Ctx) (r : Run) (e : BitVec 3) (g : Engine) : Prop := e.getLsbD g.num = true ∧ x.done.get g < r.issueAt.get g

/-- Some load below LSID l has not fired, or awaits its value. -/
theorem any_unsettled_iff : (((r.below l.toNat).filter fun k => !k.2.counted).any fun k => !r.settled k.1) = true ↔
    ¬∀ k < r.size, (r.shape k).lsid.getD 32 < l.toNat → (r.shape k).counted = false →
      (r.fired.contains k = true ∨ r.off.contains k = true) ∧ r.loading.contains k = false := by
  have hset (k : Nat) : r.settled k = true ↔ (r.fired.contains k = true ∨ r.off.contains k = true) ∧ r.loading.contains k = false := by
    rw [Run.settled, Bool.and_eq_true, Bool.or_eq_true, Bool.not_eq_true']
  simp only [← hset, List.any_eq_true, List.mem_filter, Run.below, List.mem_map, List.mem_range, Bool.not_eq_true', decide_eq_true_eq]
  push Not
  constructor
  · rintro ⟨x, ⟨⟨⟨k, hk, rfl⟩, hl⟩, hc⟩, hs⟩
    exact ⟨k, hk, hl, hc, by simpa using hs⟩
  · rintro ⟨k, hk, hl, hc, hs⟩
    exact ⟨_, ⟨⟨⟨k, hk, rfl⟩, hl⟩, hc⟩, by simpa using hs⟩

theorem lowestFault_nil {x : Ctx} (h : x.recf = []) (g : Engine) (n : Nat) : x.lowestFault g n = none := by
  rw [Ctx.lowestFault, h]; rfl

theorem mem_engines {g : Engine} : g ∈ engines e ↔ e.getLsbD g.num = true := by
  simp only [engines, List.mem_append, bit_eq_getLsbD]
  cases g <;> simp [Engine.num]

/-- Without recorded faults, the first engine of a list whose numbers are due stops the fence. -/
theorem fenceStop_due {x : Ctx} (h : x.recf = []) {g : Engine} (hg : x.done.get g < r.issueAt.get g) : ∀ {l : List Engine}, g ∈ l →
    l.Pairwise (fun a b => a.num < b.num) → (∀ a ∈ l, a.num < g.num → ¬x.done.get a < r.issueAt.get a) →
    fenceStop x r l = some (.wait .timeline (BitVec.ofNat 64 g.num))
  | a :: l, hm, hp, hlow => by
    rw [fenceStop]
    by_cases ha : a = g
    · rw [ha, if_pos hg]
    · have hml : g ∈ l := (List.mem_cons.mp hm).resolve_left (Ne.symm ha)
      have hag := (List.pairwise_cons.mp hp).1 g hml
      rw [if_neg (hlow a (by simp) hag), lowestFault_nil h]
      exact fenceStop_due h hg hml (List.pairwise_cons.mp hp).2 fun b hb => hlow b (by simp [hb])

theorem fenceStop_none {x : Ctx} (h : x.recf = []) : ∀ {l : List Engine}, (∀ a ∈ l, ¬x.done.get a < r.issueAt.get a) → fenceStop x r l = none
  | [], _ => rfl
  | a :: l, ha => by
    rw [fenceStop, if_neg (ha a (by simp)), lowestFault_nil h]
    exact fenceStop_none h fun b hb => ha b (by simp [hb])

theorem pairwise_engines (e : BitVec 3) : (engines e).Pairwise fun a b => a.num < b.num := by
  revert e; decide

end Fences

theorem toInt_of_local {x : Word64} {n : Nat} (h : x.toNat + n ≤ 0x200000) : x.toInt = x.toNat :=
  BitVec.toInt_eq_toNat_of_lt (by omega)

/-- Settles O12: reservations, `LAND` and fences by what their bodies answer; the values of atomics as bit vectors. -/
theorem localAtomics : Obligations.LocalAtomics := by
  refine ⟨fun p l t s r => ⟨?_, ?_, ?_, ?_⟩, fun n old b hn hold => amoValue_spec (by omega) hold⟩
  · intro m o z a b ready ha hb n hin halign
    have hi := toInt_of_local hin
    refine reserves_of_body ready rfl ?_ rfl rfl
    rw [amolBody, if_neg (by simp [ha, hb])]
    simp only [hi]
    rw [show amoSize z = n from rfl, localCheck_eq_none (by omega) (by omega) (by omega)]
  · intro o z a e v ready ha he hv n hin halign
    have hi := toInt_of_local hin
    refine reserves_of_body ready rfl ?_ rfl rfl
    rw [casLocalBody, if_neg (by simp [ha, he, hv])]
    simp only [hi]
    rw [show amoSize z = n from rfl, localCheck_eq_none (by omega) (by omega) (by omega)]
  · intro n ready free e sound
    refine ⟨fun h hw => exec_of_wait ready rfl (if_pos h) hw, fun h hs hbad => ?_, fun h hs hbad => ?_⟩
    · exact faults_of_fault s ready rfl ((landBody_full rfl h (landFault_eq_none hs)).trans (if_pos hbad))
    · exact answers_of_done ready rfl ((landBody_full rfl h (landFault_eq_none hs)).trans (if_neg (by rw [hbad]; decide))) rfl rfl rfl free
  · intro e o c ready passed loads due
    have hbody (x : Act) (hl : loads) (hx : (match fenceStop (s.ctx s.focus) r (engines e) with
        | some a => a | none => .done [] (some (.fence e o.toNat c.toNat)) s) = x) : fenceBody l e o c [] s = x := by
      have hany := mt any_unsettled_iff.mp (not_not.mpr hl)
      simp only [fenceBody, ready.run]
      rw [if_neg hany]; exact hx
    refine ⟨fun hl hw => exec_of_wait ready rfl ?_ hw, fun hl hrec => ⟨fun g hg hlow hw => ?_, fun hall => ?_⟩⟩
    · simp only [fenceBody, ready.run]
      exact if_pos (any_unsettled_iff.mpr hl)
    · refine exec_of_wait ready rfl (hbody _ hl ?_) hw
      rw [fenceStop_due hrec hg.2 (mem_engines.mpr hg.1) (pairwise_engines e) fun a ha hlt hd => hlow a hlt ⟨mem_engines.mp ha, hd⟩]
    · refine receives_of_done s ready rfl (hbody _ hl ?_) rfl rfl
      rw [fenceStop_none hrec fun a ha hd => hall a ⟨mem_engines.mp ha, hd⟩]

end Sys2Proof.Machine
end

section
/-! PROOFS of tensor loads, stores and atomics through a generator (12_tae_instructions.md R181 to R186). -/

namespace Sys2Proof.Machine

open Sys2Proof.Safety

/-! ### Through a generator (R181) -/

/-- The element of an access through a generator at the absolute coordinate x along d0, given the coordinate token. -/
def genEl (a : Ag) (w : Word64) (x : Int) : C4 := ⟨x.toNat, a.org.c1 + fldN w 32 16, a.org.c2 + fldN w 48 8, a.org.c3 + fldN w 56 8⟩

/-- The element lies in the generator's window. -/
def GenHas (a : Ag) (w : Word64) (x : Int) : Prop := 0 ≤ x ∧ boxHas a.org a.ext (genEl a w x) = true

section ViaGen

variable {g : Nat} {tags : Ag → Option Desc → Bool} {shape : Ag → Desc → Int → Bool} {w : Word64} {base : Ag → Int}
  {offs : Ag → Desc → List Int} {k : Ag → Obj → List C4 → State → Act} {s : State} {a : Ag}

/-- An access that passes the checks of R181 goes on to its elements. -/
theorem viaGen_ok {o : Obj} {xs : List Int} (ha : (s.tile s.focus.die s.focus.tile).ag g = a) (hb : a.bound = true) (ho : a.owner = s.focus.ctx)
    (hr : s.reach (s.ctx s.focus).region a.handle = some o) (htags : tags a (some (s.objOf (hobj a.handle)).desc) = true)
    (hshape : shape a (s.objOf (hobj a.handle)).desc (a.org.c0 + fldN w 0 32 + base a) = true)
    (hxs : (offs a (s.objOf (hobj a.handle)).desc).map (fun o => (a.org.c0 : Int) + fldN w 0 32 + base a + o) = xs)
    (hin : ∀ x ∈ xs, GenHas a w x) : viaGen g tags shape w base offs k s = k a o (xs.map (genEl a w)) s := by
  subst ha
  have hfind : xs.find? (fun x => !(decide (0 ≤ x) && boxHas ((s.tile s.focus.die s.focus.tile).ag g).org
      ((s.tile s.focus.die s.focus.tile).ag g).ext (genEl ((s.tile s.focus.die s.focus.tile).ag g) w x))) = none := by
    rw [List.find?_eq_none]
    intro x hx
    obtain ⟨h0, h1⟩ := hin x hx
    simp [h0, h1]
  simp only [genEl] at hfind
  simp only [viaGen, hb, if_true, ho, htags, hshape, hxs, hfind, hr]
  simp [htags]
  rfl

/-- The first three checks of R181, in their order. -/
theorem viaGen_faults (ha : (s.tile s.focus.die s.focus.tile).ag g = a) :
    (tags a (if a.bound then some (s.objOf (hobj a.handle)).desc else none) = false →
      viaGen g tags shape w base offs k s = genFault g .tagFault 0#64 0#64 s) ∧
    (tags a (if a.bound then some (s.objOf (hobj a.handle)).desc else none) = true →
      (a.bound = true → a.owner ≠ s.focus.ctx → viaGen g tags shape w base offs k s = genFault g .rights a.handle (s.tblIndex a.handle none) s) ∧
      (a.bound = false → viaGen g tags shape w base offs k s = genFault g .window 0#64 (s.tblIndex 0#64 none) s)) := by
  subst ha
  refine ⟨fun h => if_pos h, fun h => ⟨fun hb ho => ?_, fun hb => ?_⟩⟩
  · exact (if_neg (by rw [h]; decide)).trans (if_pos ⟨hb, ho⟩)
  · exact (if_neg (by rw [h]; decide)).trans ((if_neg (by rw [hb]; simp)).trans (if_pos hb))

end ViaGen

theorem forall_consecutive {P : Int → Prop} {n : Nat} {x : Int} (h : ∀ j < n, P (x + (j : Nat))) :
    ∀ y ∈ (consecutive n).map (fun o => x + o), P y := by
  simpa [consecutive] using h

theorem forall_mem_map_range {P : Int → Prop} {n : Nat} {x : Nat → Int} (h : ∀ j < n, P (x j)) : ∀ y ∈ (List.range n).map x, P y := by
  simpa using h

theorem consecutive_map (n : Nat) (f : Int → C4) (x : Int) :
    ((consecutive n).map fun o => x + o).map f = (List.range n).map fun j => f (x + (j : Nat)) := by
  simp [consecutive, Function.comp_def]

theorem laneOffsets_eq (a : Ag) (off : Reg) (h : Nat) :
    laneOffsets a off h = (List.range a.tag.lanes).map fun j => ((lane off j * 2 ^ h : Nat) : Int) := by
  rw [laneOffsets, lanes, lanesGo_eq_map, List.map_map]; rfl

/-! ### Loads (R183, R184) -/

/-- A ready load whose body reaches `tensorLoad` leaves as a request. -/
theorem exec_of_tensorLoad {s : State} {i : Instr} {vals : List Reg} {r : Run} {g l : Nat} {h : Holder} {t : BitVec 7} {sc : Option Nat}
    {a : Ag} {o : Obj} {els : List C4} {body : List Reg → State → Act} (ready : Ready s i vals r)
    (hexec : exec i s = .next (fire (shapeOf i s.index) body s)) (hbody : body vals s = tensorLoad g l h t sc r a o els s)
    (hcheck : o.check (s.owners s.focus) false (a.ord == 0 || a.ord == 2) (fun _ => 3#64) els = none) :
    exec i s = .next ((s.updTile s.focus.die s.focus.tile fun x => { x with reqs := x.reqs ++ [{
        ctx := s.focus.ctx, serial := r.serial, index := s.index, ag := g, h := a.handle, els := els
        size := Desc.bits o.desc, scalar := sc, tag := a.tag, target := t, lsid := l, tlb := h == .tlb }] }).updRun s.focus fun r =>
      { fired r s.index [] [] with loading := r.loading ++ [s.index] }) := by
  have hload : body vals s = _ := hbody.trans (by rw [tensorLoad, Ag.rlx, if_neg (by decide), hcheck])
  rw [exec_of_done_nil ready hexec hload, State.updRun_updRun]; rfl

/-- Settles O13: the checks of R181 pass one by one, or the first that fails is recorded in the generator. -/
theorem tensorLoads : Obligations.TensorLoads := by
  refine ⟨?_, ?_⟩
  · intro p l g t s r c o d n a x0 el inside loads hc hb ho hr
    refine ⟨?_, ?_, ?_⟩
    · intro k ready htag x hq hin
      refine fun hcheck hgate => ?_
      refine exec_of_tensorLoad (h := .gen g.toNat) ready rfl ((gated_eq ready.run hgate _).trans ?_) hcheck
      have hx : (a.org.c0 : Int) + fldN c.w 0 32 + sgnN 7 k.toNat * (a.tag.lanes : Nat) = x := by rw [sgnN_toNat (by decide)]
      rw [viaGen_ok (a := a) rfl hb ho hr (by simp [hc]) (by simp only [hx]; simpa [plainShape, htag, or_iff_not_imp_left] using hq) rfl
        (by rw [hx]; exact forall_consecutive hin), hx, consecutive_map]
      rfl
    · intro h i off ready htag hq hoff x hin
      refine fun hcheck hgate => ?_
      refine exec_of_tensorLoad (h := .tlb) ready rfl ((gated_eq ready.run hgate _).trans ?_) hcheck
      have hx : (a.org.c0 : Int) + fldN c.w 0 32 + sgnN 4 i.toNat = x0 + i.toInt := by rw [sgnN_toNat (by decide)]
      have hxs : (laneOffsets a off h.toNat).map (fun o => (a.org.c0 : Int) + fldN c.w 0 32 + sgnN 4 i.toNat + o) = (List.range a.tag.lanes).map x := by
        rw [hx, laneOffsets_eq, List.map_map]; rfl
      rw [viaGen_ok (a := a) rfl hb ho hr (by simp [hc, offsetTag, htag, hoff]) (by simp [offsetShape, htag, hq]) hxs
        (forall_mem_map_range hin), List.map_map]
      rfl
    · intro k ready hf hin
      refine fun hcheck hgate => ?_
      refine exec_of_tensorLoad (h := .gen g.toNat) ready rfl ((gated_eq ready.run hgate _).trans ?_) hcheck
      have hx : (a.org.c0 : Int) + fldN c.w 0 32 + sgnN 7 k.toNat = x0 + k.toInt := by rw [sgnN_toNat (by decide)]
      rw [viaGen_ok (a := a) (xs := [x0 + k.toInt]) rfl hb ho hr (by simp [hc]) (by simpa [scalarShape] using hf)
        (by rw [hx]; simp) (List.forall_mem_singleton.mpr hin)]
      rfl
  · intro p l g k t s r c i hi ready hgate a faults
    have hfault {cause : Cause} {d0 d1 : Word64} {body : List Reg → State → Act} (hexec : exec i s = .next (fire (shapeOf i s.index) body s))
        (hb : body [c] s = genFault g.toNat cause d0 d1 s) : faults cause d0 d1 := by
      show exec i s = _
      rw [hexec, fire_ready ready, hb]; rfl
    have key : ∃ (body : List Reg → State → Act) (shape : Ag → Desc → Int → Bool) (base : Ag → Int) (offs : Ag → Desc → List Int)
        (k : Run → Ag → Obj → List C4 → State → Act), exec i s = .next (fire (shapeOf i s.index) body s) ∧
          body [c] s = gated true l.toNat (fun r => viaGen g.toNat (fun _ _ => c.tag == .i64) shape c.w base offs (k r)) s := by
      rcases hi with rfl | rfl
      · exact ⟨_, _, _, _, _, rfl, rfl⟩
      · exact ⟨_, _, _, _, _, rfl, rfl⟩
    obtain ⟨body, shape, base, offs, k, hexec, hbody⟩ := key
    rw [gated_eq ready.run hgate] at hbody
    obtain ⟨htag, hrest⟩ := viaGen_faults (g := g.toNat) (tags := fun _ _ => c.tag == .i64) (shape := shape) (w := c.w) (base := base) (offs := offs)
      (k := k r) (s := s) (a := a) rfl
    refine ⟨fun hc => hfault hexec (hbody.trans (htag (by simpa using hc))), fun hc hb ho => ?_, fun hc hb => ?_⟩
    · exact hfault hexec (hbody.trans ((hrest (by simpa using hc)).1 hb ho))
    · exact hfault hexec (hbody.trans ((hrest (by simpa using hc)).2 hb))

/-! ### Stores and atomics (R183 to R186) -/

/-- A write of these elements is translated, passes its checks and has its frames duplicated, which leaves u. -/
def WriteAllowed (s u : State) (id : BitVec 32) (o : Obj) (holder : Holder) (rlx : Bool) (els : List C4) : Prop :=
  let js := Desc.indices o.desc els
  let m := s.translateAll s.focus.die s.focus.tile holder id js
  (∀ j ∈ js, s.canWalk s.focus.die s.focus.tile holder id j = true) ∧ o.check (s.owners s.focus) true rlx (look 0#64 m.1) els = none ∧
    m.2.cowAll id js = ((none, true), u)

theorem tensorWrite_ok {s u : State} {g : Nat} {h : Holder} {rlx : Bool} {a : Ag} {o : Obj} {els : List C4} {k : State → Act}
    (hw : WriteAllowed s u (hobj a.handle) o h rlx els) : tensorWrite g h rlx a o els k s = k u := by
  obtain ⟨hwalk, hcheck, hcow⟩ := hw
  have hall : ((Desc.indices o.desc els).all fun j => s.canWalk s.focus.die s.focus.tile h (hobj a.handle) j) = true := List.all_eq_true.mpr hwalk
  simp only [tensorWrite, hall, hcheck, hcow]; rfl

theorem storePieces_eq (a : Ag) (els : List C4) (v : Reg) : storePieces a els v = els.zip ((List.range a.tag.lanes).map fun j =>
    leBytes ((a.tag.shape.2 + 7) / 8) (fldN v.bits (a.tag.shape.2 * j) a.tag.shape.2)) := by
  rw [storePieces, lanes, lanesGo_eq_map, List.map_map]; rfl

/-- A store that its body passes on to u is received there. -/
theorem exec_of_received_in {s u : State} {i : Instr} {vals : List Reg} {r : Run} {l : Nat} {op : CommitOp} {body : List Reg → State → Act}
    (ready : Ready s i vals r) (hexec : exec i s = .next (fire (shapeOf i s.index) body s)) (hbody : body vals s = .done [] (some op) u)
    (hc : (shapeOf i s.index).counted = true) (hl : (shapeOf i s.index).lsid = some l) (hf : u.focus = s.focus) (hi : u.index = s.index) :
    exec i s = .next (u.updRun u.focus fun r => fired r u.index [] [⟨l, u.index, op⟩]) := by
  rw [hf, hi]; exact exec_of_received ready hexec hbody hc hl

/-- The same with the write entry reserved, none for 0x7F. -/
theorem exec_of_reserved_in {s u : State} {i : Instr} {vals : List Reg} {r r' : Run} {l : Nat} {t : BitVec 7} {op : CommitOp}
    {body : List Reg → State → Act} (ready : Ready s i vals r) (hexec : exec i s = .next (fire (shapeOf i s.index) body s))
    (hbody : body vals s = u.reserve t.toNat op) (hc : (shapeOf i s.index).counted = true) (hl : (shapeOf i s.index).lsid = some l)
    (hf : u.focus = s.focus) (hi : u.index = s.index) (hr : (u.ctx u.focus).run = some r') :
    (t = 0x7F#7 → exec i s = .next (u.updRun u.focus fun r => fired r u.index [] [⟨l, u.index, op⟩])) ∧
    (t ≠ 0x7F#7 → r'.tok t.toNat = none → r'.reserved.contains t.toNat = false → exec i s = .next (u.updRun u.focus fun r =>
      { fired r u.index [] [⟨l, u.index, op⟩] with reserved := r.reserved ++ [t.toNat] })) := by
  refine ⟨fun h => exec_of_received_in ready hexec (hbody.trans (by rw [State.reserve, hr, h]; rfl)) hc hl hf hi, fun h htok hres => ?_⟩
  have h7 : t.toNat ≠ 0x7F := fun e => h (BitVec.eq_of_toNat_eq e)
  have hdone : body vals s = .done [] (some op) (u.updRun u.focus fun r => { r with reserved := r.reserved ++ [t.toNat] }) :=
    hbody.trans (by simp only [State.reserve, hr, if_neg h7, htok, hres]; rfl)
  rw [exec_of_received_in ready hexec hdone hc hl hf hi, State.updRun_focus, State.updRun_index, State.updRun_updRun]; rfl

/-- Settles O14: the checks of R181 pass one by one, then translation and duplication leave u. -/
theorem tensorStoresAndAtomics : Obligations.TensorStoresAndAtomics := by
  intro p l g t s u r c o d n a id x0 el inside allowed plain codes receives reserves hfocus hindex hc hb ho hr hobj
  have hallowed {holder : Holder} {rlx : Bool} {els : List C4} (h : allowed holder rlx els) : WriteAllowed s u id o holder rlx els := h
  have hone {y : Int} (hy : inside y) : ∀ x ∈ [y], GenHas a c.w x := List.forall_mem_singleton.mpr hy
  have h0 : (0 : Int) ≤ x0 := by show (0 : Int) ≤ (a.org.c0 : Int) + (fldN c.w 0 32 : Nat); omega
  refine ⟨?_, ?_, ?_, ?_, ?_, ?_⟩
  · intro k v ready htag hv x els hq hin hw
    refine exec_of_received_in ready rfl ?_ rfl rfl hfocus hindex
    have hx : (a.org.c0 : Int) + fldN c.w 0 32 + sgnN 14 k.toNat * (a.tag.lanes : Nat) = x := by rw [sgnN_toNat (by decide)]
    refine (viaGen_ok (a := a) rfl hb ho hr (by simp [hc, storeTag, htag, hv])
      (by simp only [hx]; simpa [plainShape, htag, or_iff_not_imp_left] using hq) rfl (by rw [hx]; exact forall_consecutive hin)).trans ?_
    rw [hx, consecutive_map]
    exact (tensorWrite_ok (hallowed hw)).trans (by rw [storePieces_eq]; rfl)
  · intro h i v off ready htag hq hoff hv x els hin hw
    refine exec_of_received_in ready rfl ?_ rfl rfl hfocus hindex
    have hx : (a.org.c0 : Int) + fldN c.w 0 32 + sgnN 4 i.toNat = x0 + i.toInt := by rw [sgnN_toNat (by decide)]
    have hxs : (laneOffsets a off h.toNat).map (fun o => (a.org.c0 : Int) + fldN c.w 0 32 + sgnN 4 i.toNat + o) = (List.range a.tag.lanes).map x := by
      rw [hx, laneOffsets_eq, List.map_map]; rfl
    refine (viaGen_ok (a := a) rfl hb ho hr (by simp [hc, offsetTag, storeTag, htag, hoff, hv]) (by simp [offsetShape, htag, hq]) hxs
      (forall_mem_map_range hin)).trans ?_
    rw [List.map_map]
    exact (tensorWrite_ok (hallowed hw)).trans (by rw [storePieces_eq]; rfl)
  · intro k v ready hf hv hin hw
    refine exec_of_received_in ready rfl ?_ rfl rfl hfocus hindex
    have hx : (a.org.c0 : Int) + fldN c.w 0 32 + sgnN 14 k.toNat = x0 + k.toInt := by rw [sgnN_toNat (by decide)]
    refine (viaGen_ok (a := a) (xs := [x0 + k.toInt]) rfl hb ho hr (by rw [hobj]; simpa [hc, tstsTag, and_comm, or_assoc] using hv)
      (by rw [hobj]; simpa [scalarShape] using hf) (by rw [hx]; simp) (hone hin)).trans ?_
    exact tensorWrite_ok (hallowed hw)
  · intro m od z b ready hbt hf hbits hin hw hrun
    refine exec_of_reserved_in ready rfl ?_ rfl rfl hfocus hindex hrun
    refine (viaGen_ok (a := a) (xs := [x0]) rfl hb ho hr (by simp [hc, hbt]) (by rw [hobj]; simp [atomicShape, hf, hbits, amoSize])
      (by rw [hobj, atomicOffs, if_neg hf]; simp [x0]) (hone hin)).trans ?_
    exact tensorWrite_ok (hallowed hw)
  · intro od z e v ready het hvt hf hbits hin hw hrun
    refine exec_of_reserved_in ready rfl ?_ rfl rfl hfocus hindex hrun
    refine (viaGen_ok (a := a) (xs := [x0]) rfl hb ho hr (by simp [hc, het, hvt]) (by rw [hobj]; simp [atomicShape, hf, hbits, amoSize])
      (by rw [hobj, atomicOffs, if_neg hf]; simp [x0]) (hone hin)).trans ?_
    exact tensorWrite_ok (hallowed hw)
  · intro od v ready htag hv hf htile hoff els hin hw
    refine exec_of_received_in ready rfl ?_ rfl rfl hfocus hindex
    have hx : (a.org.c0 : Int) + fldN c.w 0 32 + 0 = x0 := Int.add_zero _
    have hrow : (⟨a.org.c0 + fldN c.w 0 32, a.org.c1 + fldN c.w 32 16, a.org.c2 + fldN c.w 48 8, a.org.c3 + fldN c.w 56 8⟩ : C4) = el x0 := by
      simp only [el, C4.mk.injEq, and_true]
      show _ = ((a.org.c0 : Int) + (fldN c.w 0 32 : Nat)).toNat
      omega
    refine (viaGen_ok (a := a) rfl hb ho hr (by simp [hc, vamotTag, htag, hv])
      (by simp only [hx]; rw [hobj, hrow]; simpa [vamotShape, hoff] using ⟨hf, htile⟩) rfl (by rw [hx]; exact forall_consecutive hin)).trans ?_
    rw [hx, consecutive_map]
    refine (tensorWrite_ok (hallowed hw)).trans ?_
    rw [lanes, lanesGo_eq_map]; rfl

end Sys2Proof.Machine
end

section
/-! PROOFS of the ENGINE-T and ENGINE-M instructions (12_tae_instructions.md R187 to R198, 14_me_instructions.md R210 to R220). -/

namespace Sys2Proof.Machine

open Sys2Proof.Safety

/-! ### Commands take their number (01_machine.md R17) -/

theorem numberOf_eq (c : Ctx) (r : Run) (e : Engine) (l : Nat) : c.numberOf r e l = c.issue.get e + 1 +
    ((List.range r.size).filter fun k => (r.shape k).eng == some e && decide ((r.shape k).lsid.getD 32 < l)).length := by
  simp only [Ctx.numberOf, Run.shapes, List.filter_map, List.length_map, Function.comp_def]

/-- A ready instruction whose body issues a command is received and sends its number. -/
theorem commands_of_body {s : State} {i : Instr} {vals : List Reg} {r : Run} {l : BitVec 5} {t : BitVec 7} {e : Engine} {c : Cmd}
    {body : List Reg → State → Act} (ready : Ready s i vals r) (free : FreeTargets r [t])
    (hexec : exec i s = .next (fire (shapeOf i s.index) body s)) (hbody : body vals s = command e l.toNat c s)
    (hc : (shapeOf i s.index).counted = true := by rfl) (hl : (shapeOf i s.index).lsid = some l.toNat := by rfl)
    (ht : (shapeOf i s.index).targets = [t].map BitVec.toNat := by rfl) : Commands i s r e l t c := by
  rw [Commands, ← numberOf_eq]
  exact answers_of_done ready hexec (hbody.trans (by simp only [command, ready.run])) hc hl ht free

/-! ### ENGINE-T (R187 to R198) -/

/-- Where every fault recorded on an engine has a higher number, a wait for n raises none. -/
theorem lowestFault_eq_none {c : Ctx} {e : Engine} {n : Nat} (h : ∀ f ∈ c.recf, f.eng = e → n < f.num) : c.lowestFault e n = none := by
  rw [Ctx.lowestFault]
  generalize c.recf = l at h
  induction l with
  | nil => rfl
  | cons x l ih =>
    have hx : ¬(x.eng = e ∧ x.num ≤ n) := fun hx => absurd (h x (by simp) hx.1) (by omega)
    rw [List.foldl_cons, if_neg hx]
    exact ih fun f hf => h f (by simp [hf])

/-- Asking a hub: the request leaves, the operation is kept for the reply, and the instruction waits. -/
theorem exec_of_askHub {s : State} {i : Instr} {vals : List Reg} {r : Run} {dst : Nat} {b : Body} {op : CommitOp} {k : WaitKind} {d : Word64}
    {body : List Reg → State → Act} (ready : Ready s i vals r) (hexec : exec i s = .next (fire (shapeOf i s.index) body s))
    (hbody : body vals s = askHub dst b op k d s) (hb : Calm b) (hasked : ∀ y ∈ r.asked, y.1 ≠ s.index) (hwaits : ∀ w ∈ r.waits, w.index ≠ s.index) :
    exec i s = .next (((s.send s.focus.die dst b).updRun s.focus fun r => { r with asked := r.asked ++ [(s.index, op)] }).updRun s.focus fun r =>
      { r with waits := (r.waits.filter fun w => w.index != s.index) ++ [{ index := s.index, kind := k, detail := d, since := s.cycle }] }) := by
  have hany : (r.asked.any fun x => x.1 == s.index) = false := by
    rw [List.any_eq_false]; intro y hy; simpa using hasked y hy
  have hw : (r.waits.any fun w => w.index == s.index && w.kind == k && w.detail == d) = false := by
    rw [List.any_eq_false]; intro w h; simp [hwaits w h]
  have hrun : (((s.send s.focus.die dst b).updRun s.focus fun r => { r with asked := r.asked ++ [(s.index, op)] }).ctx s.focus).run =
      some { r with asked := r.asked ++ [(s.index, op)] } := by
    rw [State.ctx_updRun, State.ctx_send _ _ _ hb]; simp [ready.run]
  rw [hexec, fire_ready ready, hbody]
  simp only [askHub, ready.run, hany]
  exact congrArg _ (updRun_congr hrun (by simp only [Run.beginWait, hw]; rfl))

theorem request_eq {s : State} {r : Run} (h : (s.ctx s.focus).run = some r) (k : ReqKind) : s.request k =
    { place := s.focus, serial := r.serial, index := s.index, region := (s.ctx s.focus).region, kind := k, since := s.cycle } := by
  simp only [State.request, h]; rfl

theorem gsetBody_ok {s : State} {g : Nat} {h n : Reg} {o : Obj} {c : BitVec 512} (hh : h.tag = .hndl) (hn : n.tag = .i64)
    (hfree : ((s.tile s.focus.die s.focus.tile).ag g).bound = false) (hr : s.reach (s.ctx s.focus).region h.w = some o) (hlt : n.w.toNat < 16)
    (hc : (s.tile s.focus.die s.focus.tile).cg n.w.toNat = c) (hfits : cgFits c o.desc = true) (hrw : bit c 264 = true → Desc.ro o.desc = false)
    (htag : fldN c 268 4 = 0 ∨ Tag.ofNum (fldN c 268 4) = Desc.tag o.desc) :
    gsetBody g [h, n] s = askHub (s.objHub (hobj h.w)) (.windowReq (s.request (.window g h.w
      { owner := s.owner s.focus, org := cgOrg c, ext := cgExt c, rw := bit c 264, sync := bit c 265, active := false })))
      (.cmd none (.gset g h.w c)) .tokens 0#64 s := by
  have hro : ¬(n.w.toNat < 16 ∧ bit c 264 = true ∧ Desc.ro o.desc = true) := fun ⟨_, hb, ho⟩ => by rw [hrw hb] at ho; cases ho
  have hwin : ¬(16 ≤ n.w.toNat ∨ cgFits c o.desc = false ∨ (fldN c 268 4 ≠ 0 ∧ Tag.ofNum (fldN c 268 4) ≠ Desc.tag o.desc)) := by
    rw [hfits]
    rintro (h | h | ⟨h0, h1⟩)
    · omega
    · cases h
    · exact htag.elim h0 h1
  simp only [gsetBody, hfree, hr, hc]
  rw [if_neg (by simp [hh, hn]), if_neg (by simp), if_neg hro, if_neg hwin]

/-- Settles O15: each instruction's checks pass, and it is received, sends its number, or asks. -/
theorem tensorEngineInstructions : Obligations.TensorEngineInstructions := by
  intro p l t s r x after issued
  have hissued {i : Instr} {c : Cmd} (h : Commands i s r .ce l t c) : exec i s = .next (issued c) := h
  refine ⟨?_, ?_, ?_, fun free => ⟨?_, ?_, ?_, ?_, ?_, ?_, ?_, ?_⟩⟩
  · intro g h n o ready hh hn hfree hr hlt hfits hasked hwaits c w hrw htag
    rw [← request_eq ready.run]
    exact exec_of_askHub ready rfl (gsetBody_ok hh hn hfree hr hlt rfl hfits hrw htag) (fun _ _ => nofun) hasked hwaits
  · intro n g ready hg
    refine ⟨fun h => exec_of_received ready rfl ?_ rfl rfl, fun h hb ho ht => exec_of_received ready rfl ?_ rfl rfl⟩
    · exact (if_neg (not_not.mpr hg)).trans (if_pos h)
    · refine (if_neg (not_not.mpr hg)).trans ((if_neg (by rw [h]; decide)).trans ((if_neg ?_).trans (if_neg ?_)))
      · exact fun hx => hx.2 ho
      · exact fun hx => hx.elim (fun hx => by rw [show x.ag _ = (s.tile s.focus.die s.focus.tile).ag _ from rfl] at hb; rw [hb] at hx; cases hx) ht
  · intro c a ready ha
    refine ⟨fun h0 h1 => exec_of_received ready rfl ?_ rfl rfl, fun h => faults_of_fault s ready rfl ?_⟩
    · exact (if_neg (not_not.mpr ha)).trans ((if_neg (not_not.mpr h0)).trans (if_neg (Nat.not_lt.mpr h1)))
    · exact (if_neg (not_not.mpr ha)).trans (if_pos h)
  · exact fun dir c h a ready hh ha => hissued (commands_of_body ready free rfl (if_neg (by simp [hh, ha])))
  · exact fun c h a ready hh ha => hissued (commands_of_body ready free rfl (if_neg (by simp [hh, ha])))
  · exact fun c h a ready hh ha => hissued (commands_of_body ready free rfl (if_neg (by simp [hh, ha])))
  · exact fun c h ready hh => hissued (commands_of_body ready free rfl (if_neg (by simp [hh])))
  · exact fun n h a ready hh ha => hissued (commands_of_body ready free rfl (if_neg (by simp [hh, ha])))
  · exact fun n h a ready hh ha => hissued (commands_of_body ready free rfl (if_neg (by simp [hh, ha])))
  · intro e n _ ready hn g done
    have hbody : twaitBody g [n] s = if r.issueAt.get g < n.w.toNat then .flt .blockStall
        else if done < n.w.toNat then .wait .timeline (BitVec.ofNat 64 g.num)
        else match (s.ctx s.focus).lowestFault g n.w.toNat with
          | some f => .async f
          | none => .done [.val (Reg.ofW (BitVec.ofNat 64 done))] (some (.cmd none .confirm)) s := by
      simp only [twaitBody, ready.run]
      exact if_neg (not_not.mpr hn)
    refine ⟨fun h => faults_of_fault s ready rfl (hbody.trans (if_pos h)), fun h0 h1 hw => ?_, fun h0 h1 hf => ?_⟩
    · exact exec_of_wait ready rfl (hbody.trans ((if_neg (Nat.not_lt.mpr h0)).trans (if_pos h1))) hw
    · rw [if_neg (Nat.not_lt.mpr h0), if_neg (Nat.not_lt.mpr h1), lowestFault_eq_none hf] at hbody
      exact answers_of_done ready rfl hbody rfl rfl rfl free
  · intro w e _ ready
    refine answers_of_done ready rfl ?_ rfl rfl rfl free
    by_cases hw : w = 1#1
    · simp only [if_pos hw]
    · simp only [if_neg hw]

/-! ### ENGINE-M (R210 to R220) -/

section Address

variable {a : Word64} {align n : Nat}

theorem meAddress_align (h : a.toNat % align ≠ 0) : meAddress a align n = some (.fault .align a 0#64) := if_pos h

theorem meAddress_bounds (h : a.toNat % align = 0) (hin : 0x200000 < a.toNat + n) : meAddress a align n = some (.fault .lsBounds a 0#64) :=
  (if_neg (not_not.mpr h)).trans (if_pos hin)

theorem meAddress_none (h : a.toNat % align = 0) (hin : a.toNat + n ≤ 0x200000) : meAddress a align n = none :=
  (if_neg (not_not.mpr h)).trans (if_neg (Nat.not_lt.mpr hin))

end Address

/-- What an ENGINE-M instruction does: tags, fields, alignment and bounds of its local address in this order, then its number. -/
def MeChecks (s : State) (r : Run) (l : BitVec 5) (t : BitVec 7) (i : Instr) (tags fields : Prop) (a : Word64) (align n : Nat) (c : Cmd) : Prop :=
  (¬tags → Faults i s .tagFault 0#64 0#64) ∧
  (tags → ¬fields → Faults i s .matrixGeometry 0#64 0#64) ∧
  (tags → fields → a.toNat % align ≠ 0 → Faults i s .align a 0#64) ∧
  (tags → fields → a.toNat % align = 0 → 0x200000 < a.toNat + n → Faults i s .lsBounds a 0#64) ∧
  (tags → fields → a.toNat % align = 0 → a.toNat + n ≤ 0x200000 → Commands i s r .me l t c)

/-- An instruction whose body is `meCommand` of what its operands are judged by. -/
theorem meChecks_of_body {s : State} {i : Instr} {vals : List Reg} {r : Run} {l : BitVec 5} {t : BitVec 7} {c : Cmd} {tags fields : Prop}
    {bt bf : Bool} {a : Word64} {align n : Nat} {addr : Option Act} {body : List Reg → State → Act} (ready : Ready s i vals r)
    (free : FreeTargets r [t]) (hexec : exec i s = .next (fire (shapeOf i s.index) body s)) (ht : bt = true ↔ tags) (hf : bf = true ↔ fields)
    (hbody : body vals s = meCommand l.toNat bt bf addr c s) (haddr : fields → addr = meAddress a align n)
    (hc : (shapeOf i s.index).counted = true := by rfl) (hl : (shapeOf i s.index).lsid = some l.toNat := by rfl)
    (htargets : (shapeOf i s.index).targets = [t].map BitVec.toNat := by rfl) : MeChecks s r l t i tags fields a align n c := by
  have hbt (h : tags) : bt = true := ht.mpr h
  refine ⟨fun h => faults_of_fault s ready hexec (hbody.trans (if_pos ?_)), fun h hn => faults_of_fault s ready hexec (hbody.trans ?_),
    fun h hx hal => faults_of_fault s ready hexec (hbody.trans ?_), fun h hx hal hin => faults_of_fault s ready hexec (hbody.trans ?_),
    fun h hx hal hin => commands_of_body ready free hexec (hbody.trans ?_) hc hl htargets⟩
  · exact Bool.eq_false_iff.mpr (mt ht.mp h)
  · rw [meCommand.eq_def, hbt h, Bool.eq_false_iff.mpr (mt hf.mp hn)]; rfl
  · rw [meCommand.eq_def, hbt h, hf.mpr hx, haddr hx, meAddress_align hal]; rfl
  · rw [meCommand.eq_def, hbt h, hf.mpr hx, haddr hx, meAddress_bounds hal hin]; rfl
  · rw [meCommand.eq_def, hbt h, hf.mpr hx, haddr hx, meAddress_none hal hin]; rfl

theorem bothI64_iff (a b : Reg) : bothI64 a.tag b.tag = true ↔ a.tag = .i64 ∧ b.tag = .i64 := by simp [bothI64]

theorem wClean_iff (w : Word64) : wClean w = true ↔ fldN w 1 39 = 0 := by simp [wClean]

theorem mstFields_iff (x : Word64) : mstFields x = true ↔
    if bit x 63 = true then fldN x 13 50 = 0 ∧ fldN x 6 2 = 0 else fldN x 21 42 = 0 := by
  rw [mstFields]; split <;> simp

/-- The address of an `MST` to the local store whose fields are zero is all of its operand. -/
theorem fld_of_mstFields {x : Word64} (h : bit x 63 = false) (hf : fldN x 21 42 = 0) : (fld x 0 21).setWidth 64 = x := by
  apply BitVec.eq_of_toNat_eq
  have hx := x.isLt
  have hb : ¬x.toNat / 2 ^ 63 % 2 = 1 := by simpa [bit] using h
  simp only [fldN] at hf
  rw [BitVec.toNat_setWidth, fld, BitVec.toNat_ofNat]
  omega

theorem seatFields_iff (x : Word64) : seatFields x = true ↔
    (fldN x 8 8 = 0 ∨ (fldN x 8 8 ≤ 144 ∧ fldN x 0 8 < fldN x 8 8 ∧ fldN x 16 8 ≤ 143 ∧ fldN x 24 8 ≤ 143 ∧ fldN x 32 5 = 0)) := by
  have h5 : fldN x 32 32 % 32 = fldN x 32 5 := by simp only [fldN]; omega
  simp [seatFields, h5]

/-- Settles O16: every body is `meCommand` of its operands' judgement. -/
theorem matrixInstructions : Obligations.MatrixInstructions := by
  intro p l t s r free clean checks
  refine ⟨?_, ?_, ?_, ?_, ?_, ?_, ?_, ?_, ?_⟩
  · exact fun g a ready => meChecks_of_body ready free rfl (by simp) (by simp) rfl fun _ => rfl
  · rintro g c a w i kind (⟨rfl, rfl⟩ | ⟨rfl, rfl⟩ | ⟨rfl, rfl⟩) ready
    · exact meChecks_of_body ready free rfl (bothI64_iff a w) (wClean_iff _) rfl fun _ => rfl
    · exact meChecks_of_body ready free rfl (bothI64_iff a w) (wClean_iff _) rfl fun _ => rfl
    · exact meChecks_of_body ready free rfl (bothI64_iff a w) (wClean_iff _) rfl fun _ => rfl
  · exact fun b a h ready => meChecks_of_body ready free rfl (bothI64_iff a h) decide_eq_true_iff rfl fun _ => rfl
  · exact fun b ready => commands_of_body ready free rfl rfl
  · exact fun b ready => commands_of_body ready free rfl rfl
  · intro g c x ready
    refine meChecks_of_body ready free rfl (by simp) (mstFields_iff x.w) rfl fun hf => ?_
    cases hb : bit x.w 63 with
    | true => rfl
    | false =>
      rw [hb] at hf
      exact congrArg (fun a => meAddress a 32 0) (fld_of_mstFields hb hf)
  · exact fun c a w ready => meChecks_of_body ready free rfl (bothI64_iff a w) (wClean_iff _) rfl fun _ => rfl
  · exact fun c w ready => meChecks_of_body ready free rfl (by simp) (by simp [wClean, clean]) rfl fun _ => rfl
  · intro x c ready n tags tile may fields
    have htags : ¬(x.tag ≠ .i64 ∨ (c.tag ≠ .hndl ∧ ¬(c.tag = .i64 ∧ fldN x.w 8 8 = 0))) ↔ tags := by
      simp only [tags, n]; tauto
    have hmay : ((s.focus.ctx = 0 ∧ (s.tile s.focus.die s.focus.tile).runTask.isSome) ∨ (s.ctx s.focus).super = true) ↔ may := by
      simp only [may, tile, Tile.runTask]
      cases (s.tile s.focus.die s.focus.tile).runs <;> simp [Option.isSome_iff_ne_none]
    refine ⟨fun ht hm => faults_of_fault s ready rfl ((if_neg (htags.mpr ht)).trans (if_pos (mt hmay.mp hm))), fun h => ?_⟩
    by_cases ht : tags
    · have hm : may := h.resolve_left (not_not.mpr ht)
      refine meChecks_of_body (bt := true) ready free rfl (by simp [ht]) (seatFields_iff x.w) ?_ fun _ => rfl
      exact (if_neg (htags.mpr ht)).trans (if_neg (not_not.mpr (hmay.mpr hm)))
    · exact ⟨fun _ => faults_of_fault s ready rfl (if_pos (by_contra fun h => ht (htags.mp h))), fun h => absurd h ht, fun h => absurd h ht,
        fun h => absurd h ht, fun h => absurd h ht⟩

end Sys2Proof.Machine
end

section
/-! PROOFS of the ENGINE-C instructions (18_msg_instructions.md R268 to R282). -/

namespace Sys2Proof.Machine

open Sys2Proof.Safety

/-! ### The checks of a sending instruction (R269, R270, R273) -/

section Checks

variable {s : State} {i : Instr} {vals : List Reg} {r : Run} {body : List Reg → State → Act} {d x a : Reg}

/-- Checks 1 to 3 of R269, then what follows. -/
def SendChecks (s : State) (i : Instr) (d : Reg) (payloadTag fixed : Prop) (cls : Nat) (rest : Prop) : Prop :=
  let tags : Prop := d.tag = .i64 ∧ payloadTag
  let fields : Prop := fldN d.w 4 12 = 0 ∧ fixed
  let named : Prop := fldN d.w 0 2 = cls ∧ fldN d.w 41 8 ≠ 255
  (¬tags → Faults i s .tagFault 0#64 0#64) ∧ (tags → ¬fields → Faults i s .reservedField 0#64 0#64) ∧
  (tags → fields → ¬named → Faults i s .rights 0#64 0#64) ∧ (tags → fields → named → rest)

/-- An instruction whose body begins with `sendCheck`. -/
theorem sendChecks_of_body {bp bx : Bool} {payloadTag fixed rest : Prop} {cls : Nat} (ready : Ready s i vals r)
    (hexec : exec i s = .next (fire (shapeOf i s.index) body s)) (hp : bp = true ↔ payloadTag) (hx : bx = true ↔ fixed)
    (hbody : ∀ f, sendCheck d bp bx cls = some f → body vals s = f) (hrest : sendCheck d bp bx cls = none → payloadTag → rest) :
    SendChecks s i d payloadTag fixed cls rest := by
  have htag : (d.tag ≠ .i64 ∨ bp = false) ↔ ¬(d.tag = .i64 ∧ payloadTag) := by rw [← hp, not_and_or, Bool.not_eq_true]
  have hfield : (fldN d.w 4 12 ≠ 0 ∨ bx = false) ↔ ¬(fldN d.w 4 12 = 0 ∧ fixed) := by rw [← hx, not_and_or, Bool.not_eq_true]
  have hname : (fldN d.w 0 2 ≠ cls ∨ fldN d.w 41 8 = 255) ↔ ¬(fldN d.w 0 2 = cls ∧ fldN d.w 41 8 ≠ 255) := by rw [not_and_or, not_not]
  refine ⟨fun h => faults_of_fault s ready hexec (hbody _ (if_pos (htag.mpr h))), fun h hf => faults_of_fault s ready hexec (hbody _ ?_),
    fun h hf hn => faults_of_fault s ready hexec (hbody _ ?_), fun h hf hn => hrest ?_ h.2⟩
  · exact (if_neg fun k => htag.mp k h).trans (if_pos (hfield.mpr hf))
  · exact (if_neg fun k => htag.mp k h).trans ((if_neg fun k => hfield.mp k hf).trans (if_pos (hname.mpr hn)))
  · exact (if_neg fun k => htag.mp k h).trans ((if_neg fun k => hfield.mp k hf).trans (if_neg fun k => hname.mp k hn))

/-- Checks 5 and 6 of R269 on the local source at a, then what follows. -/
def SourceChecks (s : State) (i : Instr) (a : Word64) (n align : Nat) (rest : Prop) : Prop :=
  (a.toNat % align ≠ 0 → Faults i s .align a 0#64) ∧
  (a.toNat % align = 0 → 0x200000 < a.toNat + n → Faults i s .lsBounds a 0#64) ∧
  (a.toNat % align = 0 → a.toNat + n ≤ 0x200000 → rest)

theorem sourceCheck_none {a n align : Nat} (h : a % align = 0) (hin : a + n ≤ 0x200000) : sourceCheck a n align = none :=
  (if_neg (not_not.mpr h)).trans (if_neg (Nat.not_lt.mpr hin))

theorem sourceChecks_of_body {a : Word64} {n align : Nat} {rest : Prop} (ready : Ready s i vals r)
    (hexec : exec i s = .next (fire (shapeOf i s.index) body s)) (hbody : ∀ f, sourceCheck a.toNat n align = some f → body vals s = f)
    (hrest : sourceCheck a.toNat n align = none → rest) : SourceChecks s i a n align rest := by
  have ha : BitVec.ofNat 64 a.toNat = a := by rw [BitVec.ofNat_toNat, BitVec.setWidth_eq]
  refine ⟨fun h => faults_of_fault s ready hexec (hbody _ ?_), fun h hin => faults_of_fault s ready hexec (hbody _ ?_),
    fun h hin => hrest (sourceCheck_none h hin)⟩
  · exact (if_pos h).trans (by rw [ha])
  · exact (if_neg (not_not.mpr h)).trans ((if_pos hin).trans (by rw [ha]))

/-- The same for a payload operand, which is no address where it is a register (R270). -/
def PayloadChecks (s : State) (i : Instr) (x : Reg) (n : Nat) (rest : Prop) : Prop :=
  (x.tag = .i64 → x.w.toNat % 16 ≠ 0 → Faults i s .align x.w 0#64) ∧
  (x.tag = .i64 → x.w.toNat % 16 = 0 → 0x200000 < x.w.toNat + n → Faults i s .lsBounds x.w 0#64) ∧
  (x.tag ≠ .i64 ∨ (x.w.toNat % 16 = 0 ∧ x.w.toNat + n ≤ 0x200000) → rest)

theorem payloadChecks_of_body {n : Nat} {rest : Prop} {o : Option Act} (ready : Ready s i vals r)
    (hexec : exec i s = .next (fire (shapeOf i s.index) body s)) (ho : o = if x.tag = .i64 then sourceCheck x.w.toNat n 16 else none)
    (hbody : ∀ f, o = some f → body vals s = f) (hrest : o = none → rest) : PayloadChecks s i x n rest := by
  by_cases hx : x.tag = .i64
  · rw [if_pos hx] at ho
    obtain ⟨h1, h2, h3⟩ := sourceChecks_of_body (rest := rest) ready hexec (fun f h => hbody f (ho.trans h)) fun h => hrest (ho.trans h)
    exact ⟨fun _ => h1, fun _ => h2, fun h => h.elim (absurd hx) fun h => h3 h.1 h.2⟩
  · exact ⟨fun h => absurd h hx, fun h => absurd h hx, fun _ => hrest (by rw [ho, if_neg hx])⟩

/-- Check 4 of R273: the record that the card is charged to, then what follows. -/
def AllowChecks (s : State) (i : Instr) (dw : Word64) (n : Nat) (rest : Nat → Prop) : Prop :=
  ((s.tile s.focus.die s.focus.tile).alwFor dw = none → Faults i s .rights 0#64 0#64) ∧
  ∀ j, (s.tile s.focus.die s.focus.tile).alwFor dw = some j →
    ((look {} (s.tile s.focus.die s.focus.tile).alw j).alw < cardSlots n → Faults i s .cardTooLong 0#64 0#64) ∧
    (cardSlots n ≤ (look {} (s.tile s.focus.die s.focus.tile).alw j).alw → rest j)

theorem allowChecks_of_body {dw : Word64} {n : Nat} {rest : Nat → Prop} (ready : Ready s i vals r)
    (hexec : exec i s = .next (fire (shapeOf i s.index) body s)) (hbody : ∀ f, allowCheck s dw n = .error f → body vals s = f)
    (hrest : ∀ j, allowCheck s dw n = .ok j → rest j) : AllowChecks s i dw n rest := by
  refine ⟨fun h => faults_of_fault s ready hexec (hbody _ ?_), fun j hj => ⟨fun h => faults_of_fault s ready hexec (hbody _ ?_), fun h => hrest j ?_⟩⟩
  · simp only [allowCheck, h]; rfl
  · simp only [allowCheck, hj, if_pos h]; rfl
  · simp only [allowCheck, hj, if_neg (Nat.not_lt.mpr h)]

end Checks

theorem payloadTag_iff (x : Reg) : payloadTag x.tag = true ↔ x.tag = .i64 ∨ (4 ≤ x.tag.num ∧ x.tag.num ≤ 14) := by
  simp [payloadTag, vecTag]

theorem payloadLen_iff (x : Reg) (n : BitVec 5) : payloadLen x n.toNat = true ↔ x.tag = .i64 ∨ n = 16#5 := by
  simp [payloadLen, BitVec.toNat_eq]

theorem sendCmd_eq (dw : Word64) (x : Reg) (n : Nat) (charged frame : Option Nat) (u : BitVec 1) : sendCmd dw x n charged frame u =
    if x.tag = .i64 then .send dw (some (x.w.toNat, 16 * n)) [] 0 charged frame (u == 1#1)
    else .send dw none ((List.range 256).map fun j => fld x.bits (8 * j) 8) x.tag.num charged frame (u == 1#1) := by
  rw [sendCmd, leBytes_toNat]

/-! ### `REQ` reserves a reply frame (R274) -/

/-- A ready instruction that issues a command in a state in which its block has kept its words. -/
theorem exec_of_command_in {s u : State} {i : Instr} {vals : List Reg} {r r' : Run} {l : BitVec 5} {t : BitVec 7} {e : Engine} {c : Cmd}
    {body : List Reg → State → Act} (ready : Ready s i vals r) (free : FreeTargets r [t])
    (hexec : exec i s = .next (fire (shapeOf i s.index) body s)) (hbody : body vals s = command e l.toNat c u) (hfocus : u.focus = s.focus)
    (hrun : (u.ctx s.focus).run = some r') (hissue : (u.ctx s.focus).issue = (s.ctx s.focus).issue) (hwords : r'.words = r.words)
    (htok : r'.tokens = r.tokens) (hres : r'.reserved = r.reserved) (hc : (shapeOf i s.index).counted = true)
    (hl : (shapeOf i s.index).lsid = some l.toNat) (ht : (shapeOf i s.index).targets = [t].map BitVec.toNat) :
    exec i s = .next (u.updRun s.focus fun y => fired y s.index
      (sent [t] (.val (Reg.ofW (BitVec.ofNat 64 ((s.ctx s.focus).numberOf r e l.toNat))))) [⟨l.toNat, s.index, .cmd (some e) c⟩]) := by
  have hnum : (u.ctx s.focus).numberOf r' e l.toNat = (s.ctx s.focus).numberOf r e l.toNat := by
    have hshape : r'.shape = r.shape := funext fun k => by simp only [Run.shape, Run.word, hwords]
    have hshapes : r'.shapes = r.shapes := by simp only [Run.shapes, Run.size, hshape, hwords]
    simp only [Ctx.numberOf, hissue, hshapes]
  have hdone : body vals s = .done [.val (Reg.ofW (BitVec.ofNat 64 ((s.ctx s.focus).numberOf r e l.toNat)))] (some (.cmd (some e) c)) u := by
    rw [hbody, ← hnum]; simp only [command, hfocus, hrun]
  have h7 : ([t].map BitVec.toNat).filter (fun t => t != 0x7F) = ([t].filter fun t => t != 0x7F#7).map BitVec.toNat := by
    rw [List.filter_map]; congr 1; apply List.filter_congr; intro t _
    simp [bne, BitVec.toNat_eq]
  rw [hexec, fire_ready ready, hdone, ht]
  simp only [mark_receipt, receipt, hc, hl, if_true, Option.getD_some]
  rw [updRun_deliverAll _ _ _ hrun, h7, sent, List.map_map]
  · rfl
  · rw [h7]; exact free.1.map fun a b h => BitVec.eq_of_toNat_eq h
  · intro k hk h0
    obtain ⟨v, hv, rfl⟩ := List.mem_map.mp hk
    obtain ⟨f1, f2⟩ := free.2 v hv fun e => h0 (by rw [e]; rfl)
    exact ⟨by rw [Run.tok, htok]; exact f1, by rw [hres]; exact f2⟩

/-- The command that a sending instruction with operands d and x issues. -/
def payloadCmd (x : Reg) (u : BitVec 1) (len : Nat) (w : Word64) (charged frame : Option Nat) : Cmd :=
  if x.tag = .i64 then .send w (some (x.w.toNat, len)) [] 0 charged frame (u == 1#1)
  else .send w none ((List.range 256).map fun j => fld x.bits (8 * j) 8) x.tag.num charged frame (u == 1#1)

section Sending

variable {p : BitVec 2} {l : BitVec 5} {u : BitVec 1} {n : BitVec 5} {t : BitVec 7} {s : State} {r : Run} {d x : Reg} {m j f : Nat}

theorem reqReserve_wait (h : (s.tile s.focus.die s.focus.tile).freeReply m = none ∨ s.replyQueue = true) :
    reqReserve l.toNat d.w x n.toNat u m j s = .wait .replySlot (BitVec.ofNat 64 m) := by
  rcases h with h | h
  · simp only [reqReserve, h]
  · simp only [reqReserve, h]
    cases (s.tile s.focus.die s.focus.tile).freeReply m <;> cases payloadSource x n.toNat <;> rfl

theorem reqReserve_ok (hf : (s.tile s.focus.die s.focus.tile).freeReply m = some f) (hq : s.replyQueue = false)
    (ho : payloadSource x n.toNat = none) : reqReserve l.toNat d.w x n.toNat u m j s =
      command .mse l.toNat (sendCmd (setFld (setFld d.w 16 15 f) 31 4 0) x n.toNat (some j)
        (some (((s.tile s.focus.die s.focus.tile).mb m).fbase + f)) u)
      ((s.updTile s.focus.die s.focus.tile fun t => t.setPr (((s.tile s.focus.die s.focus.tile).mb m).fbase + f)
          { t.pr (((s.tile s.focus.die s.focus.tile).mb m).fbase + f) with reserved := true }).updRun s.focus fun r =>
        { r with provs := r.provs ++ [(s.index, .frame (((s.tile s.focus.die s.focus.tile).mb m).fbase + f))] }) := by
  simp only [reqReserve, hf, hq, ho]

/-- A `REQ` that has passed its checks and is charged to record j. -/
theorem execReq_checked (ready : Ready s (.req p l u n t) [d, x] r) (free : FreeTargets r [t]) {body : List Reg → State → Act}
    (hexec : exec (.req p l u n t) s = .next (fire (shapeOf (.req p l u n t) s.index) body s))
    (hbody : body [d, x] s = reqReserve l.toNat d.w x n.toNat u m j s) :
    ((s.tile s.focus.die s.focus.tile).freeReply m = none ∨ s.replyQueue = true → (∀ w ∈ r.waits, w.index ≠ s.index) →
      exec (.req p l u n t) s = .next (s.updRun s.focus fun r =>
        { r with waits := r.waits ++ [{ index := s.index, kind := .replySlot, detail := BitVec.ofNat 64 m, since := s.cycle }] })) ∧
    ∀ f, (s.tile s.focus.die s.focus.tile).freeReply m = some f → s.replyQueue = false →
      let k := ((s.tile s.focus.die s.focus.tile).mb m).fbase + f
      let w := setFld (setFld d.w 16 15 f) 31 4 0
      PayloadChecks s (.req p l u n t) x (16 * n.toNat) (exec (.req p l u n t) s = .next ((s.updTile s.focus.die s.focus.tile fun x =>
          x.setPr k { x.pr k with reserved := true }).updRun s.focus fun y =>
        { fired y s.index (sent [t] (.val (Reg.ofW (BitVec.ofNat 64 ((s.ctx s.focus).numberOf r .mse l.toNat)))))
            [⟨l.toNat, s.index, .cmd (some .mse) (payloadCmd x u (16 * n.toNat) w (some j) (some k))⟩] with
          provs := y.provs ++ [(s.index, .frame k)] })) := by
  refine ⟨fun h hw => exec_of_wait ready hexec (hbody.trans (reqReserve_wait h)) hw, fun f hf hq =>
    payloadChecks_of_body ready hexec rfl (fun a ha => hbody.trans ?_) fun ho => ?_⟩
  · have ha : payloadSource x n.toNat = some a := ha
    simp only [reqReserve, hf, hq, ha]
  · have htile (k : Nat) (y : Tile → Pres) : (s.updTile s.focus.die s.focus.tile fun x => x.setPr k (y x)).ctx s.focus = s.ctx s.focus :=
      State.ctx_updTile s _ _ (fun x => x.setPr k (y x)) (fun _ => rfl) _
    rw [exec_of_command_in (r' := { r with provs := r.provs ++ [(s.index, .frame (((s.tile s.focus.die s.focus.tile).mb m).fbase + f))] })
      ready free hexec (hbody.trans (reqReserve_ok hf hq ho)) rfl (by rw [State.ctx_updRun, htile]; simp [ready.run])
      (by rw [State.ctx_updRun, htile]) rfl rfl rfl rfl rfl rfl, State.updRun_updRun]
    exact congrArg _ (congrArg _ (funext fun y => by rw [sendCmd_eq]; rfl))

end Sending

/-- Tags, then fields, then what follows (R278 to R282). -/
def FieldChecks (s : State) (i : Instr) (tags fields rest : Prop) : Prop :=
  (¬tags → Faults i s .tagFault 0#64 0#64) ∧ (tags → ¬fields → Faults i s .reservedField 0#64 0#64) ∧ (tags → fields → rest)

theorem fieldChecks_of_body {s : State} {i : Instr} {vals : List Reg} {r : Run} {body : List Reg → State → Act} {k : Act} {P Q tags fields rest : Prop}
    [Decidable P] [Decidable Q] (ready : Ready s i vals r) (hexec : exec i s = .next (fire (shapeOf i s.index) body s))
    (hbody : body vals s = if P then .flt .tagFault else if Q then .flt .reservedField else k) (hP : P ↔ ¬tags) (hQ : Q ↔ ¬fields)
    (hrest : body vals s = k → tags → fields → rest) : FieldChecks s i tags fields rest := by
  refine ⟨fun h => faults_of_fault s ready hexec (hbody.trans (if_pos (hP.mpr h))),
    fun h hf => faults_of_fault s ready hexec (hbody.trans ((if_neg fun hp => hP.mp hp h).trans (if_pos (hQ.mpr hf)))),
    fun h hf => hrest (hbody.trans ((if_neg fun hp => hP.mp hp h).trans (if_neg fun hq => hQ.mp hq hf))) h hf⟩

theorem mbxKind_ok (k : BitVec 2) (w : Word64) : (mbxKind k.toNat w).2.2 = true ↔
    (k = 0#2 ∧ fldN w 6 58 = 0) ∨ (k = 1#2 ∧ fldN w 4 60 = 0) ∨ (k = 2#2 ∧ w.toNat ≤ 64) := by
  have hk : k = 0#2 ∨ k = 1#2 ∨ k = 2#2 ∨ k = 3#2 := by revert k; decide
  rcases hk with rfl | rfl | rfl | rfl <;> simp [mbxKind]

theorem mbxKind_size (k : BitVec 2) (w : Word64) : (mbxKind k.toNat w).1 = (if k = 0#2 then 96 else 16) ∧
    (mbxKind k.toNat w).2.1 = if k = 0#2 then 32 else 16 := by
  have hk : k = 0#2 ∨ k = 1#2 ∨ k = 2#2 ∨ k = 3#2 := by revert k; decide
  rcases hk with rfl | rfl | rfl | rfl <;> exact ⟨rfl, rfl⟩

theorem selClean_iff (w : Word64) : selClean w = true ↔ fldN w 6 10 = 0 ∧ fldN w 31 33 = 0 := by simp [selClean]

theorem frputCount_iff (m : Mbx) (n : Word64) : frputCount m n = true ↔ (m.mode = 1 → n = 0#64) ∧ (m.mode = 2 → 1 ≤ n.toNat ∧ n.toNat ≤ 255) := by
  unfold frputCount
  split
  · next h => simp [h]
  · next h =>
    split
    · next h2 => simp [h2]
    · next h2 => simp [h, h2]

/-- Settles O17: each check fails in its order, or all pass and the command is received. -/
theorem messageInstructions : Obligations.MessageInstructions := by
  refine ⟨fun p l u n t s r d x free => ?_, fun p l t s r x a free => ?_⟩
  · intro tile len payload carries sized checks source allowed send sendq req reply xput long
    have issues {i : Instr} {body : List Reg → State → Act} (ready : Ready s i [d, x] r)
        (hexec : exec i s = .next (fire (shapeOf i s.index) body s)) {w : Word64} {j : Option Nat}
        (hbody : body [d, x] s = command .mse l.toNat (sendCmd w x n.toNat j none u) s) (hc : (shapeOf i s.index).counted = true)
        (hl : (shapeOf i s.index).lsid = some l.toNat) (ht : (shapeOf i s.index).targets = [t].map BitVec.toNat) :
        Commands i s r .mse l t (payload w j none) :=
      commands_of_body ready free hexec (hbody.trans (by rw [sendCmd_eq])) hc hl ht
    refine ⟨fun ready => ?_, fun ready => ?_, fun ready => ?_, fun ready => ?_, fun ready => ?_, fun o ready => ?_⟩
    · refine sendChecks_of_body ready rfl (payloadTag_iff x) (payloadLen_iff x n) (fun f h => by simp only [h]) fun h _ => ?_
      refine payloadChecks_of_body ready rfl rfl (fun f ho => ?_) fun ho => issues ready rfl ?_ rfl rfl rfl
      · simp only [h, show payloadSource x n.toNat = _ from ho]
      · simp only [h, show payloadSource x n.toNat = _ from ho]
    · refine sendChecks_of_body ready rfl (payloadTag_iff x) (payloadLen_iff x n) (fun f h => by simp only [h]) fun h _ => ?_
      refine allowChecks_of_body (n := 16 * n.toNat) ready rfl (fun f ha => by simp only [h, ha]) fun j ha => ?_
      refine payloadChecks_of_body ready rfl rfl (fun f ho => ?_) fun ho => issues ready rfl ?_ rfl rfl rfl
      · simp only [h, ha, show payloadSource x n.toNat = _ from ho]
      · simp only [h, ha, show payloadSource x n.toNat = _ from ho]
    · refine sendChecks_of_body ready rfl (payloadTag_iff x) (payloadLen_iff x n) (fun f h => by simp only [h]) fun h _ => ?_
      refine ⟨fun hs => faults_of_fault s ready rfl (by simp only [h, if_pos hs]; rfl), fun hs => ⟨fun hm => ?_, fun m hm => ?_⟩⟩
      · exact faults_of_fault s ready rfl (by simp only [h, hs, show (s.tile s.focus.die s.focus.tile).replyMb = _ from hm]; rfl)
      · refine allowChecks_of_body (n := 16 * n.toNat) ready rfl (fun f ha => ?_) fun j ha => ?_
        · simp only [h, hs, show (s.tile s.focus.die s.focus.tile).replyMb = _ from hm, ha]; rfl
        · refine execReq_checked ready free rfl ?_
          simp only [h, hs, show (s.tile s.focus.die s.focus.tile).replyMb = _ from hm, ha]; rfl
    · refine sendChecks_of_body ready rfl (payloadTag_iff x) (bx := payloadLen x n.toNat && fldN d.w 35 6 == 0)
        (by rw [Bool.and_eq_true, payloadLen_iff, beq_iff_eq]) (fun f h => by simp only [h]) fun h _ => ?_
      refine payloadChecks_of_body ready rfl rfl (fun f ho => ?_) fun ho => issues ready rfl ?_ rfl rfl rfl
      · simp only [h, show payloadSource x n.toNat = _ from ho]
      · simp only [h, show payloadSource x n.toNat = _ from ho]
    · refine sendChecks_of_body (bx := true) ready rfl beq_iff_eq (by simp) (fun f h => by simp only [h]) fun h hx => ?_
      refine ⟨fun hlong => faults_of_fault s ready rfl (by simp only [h]; exact if_pos hlong), fun hlong => ?_⟩
      refine payloadChecks_of_body (o := sourceCheck x.w.toNat long 16) ready rfl (if_pos hx).symm (fun f ho => ?_)
        fun ho => commands_of_body ready free rfl ?_
      · simp only [h, show sourceCheck x.w.toNat (64 * (n.toNat + 1)) 16 = _ from ho]; exact if_neg (Nat.not_lt.mpr hlong)
      · simp only [h, show sourceCheck x.w.toNat (64 * (n.toNat + 1)) 16 = _ from ho]; exact if_neg (Nat.not_lt.mpr hlong)
    · refine sendChecks_of_body (bx := fldN d.w 34 7 == 0) ready rfl beq_iff_eq beq_iff_eq (fun f h => by simp only [h]) fun h _ => ?_
      exact commands_of_body ready free rfl (by simp only [h])
  · intro tile clean checks source two
    have htwo : (x.tag ≠ .i64 ∨ a.tag ≠ .i64) ↔ ¬two := by simp only [two]; tauto
    have hclean : selClean x.w = true ↔ clean := selClean_iff x.w
    refine ⟨fun k ready => ?_, fun w ready => ?_, fun ready => ?_, fun ready => ?_, fun ready => ?_⟩
    · obtain ⟨hsize, halign⟩ := mbxKind_size k x.w
      refine fieldChecks_of_body (Q := (mbxKind k.toNat x.w).2.2 = false) (k := match sourceCheck a.w.toNat (mbxKind k.toNat x.w).1
          (mbxKind k.toNat x.w).2.1 with | some f => f | none => command .mse l.toNat (.mbxset k.toNat x.w a.w) s) ready rfl rfl htwo
        (by rw [← mbxKind_ok, Bool.not_eq_true]) fun hb _ _ => ?_
      rw [hsize, halign] at hb
      refine sourceChecks_of_body ready rfl (fun f h => hb.trans (by rw [h])) fun h => commands_of_body ready free rfl (hb.trans (by rw [h]))
    · refine fieldChecks_of_body (Q := selClean x.w = false) ready rfl rfl Iff.rfl
        (by rw [← hclean, Bool.not_eq_true]) fun hb _ _ => ⟨fun hw => ?_, fun hw hd hwaits => ?_⟩
      · refine answers_of_done ready rfl (hb.trans (if_neg fun h => ?_)) rfl rfl rfl free
        exact hw.elim (fun h0 => absurd (h0.symm.trans h.1) (by decide)) fun h1 => absurd (h1.symm.trans h.2) (by decide)
      · exact exec_of_wait ready rfl (hb.trans (if_pos ⟨hw, hd⟩)) hwaits
    · intro m
      refine fieldChecks_of_body ready rfl rfl htwo ?_ fun hb _ _ => commands_of_body ready free rfl hb
      have hcount : frputCount (tile.mb (fldN x.w 0 6)) a.w = true ↔ (m = 1 → a.w = 0#64) ∧ (m = 2 → 1 ≤ a.w.toNat ∧ a.w.toNat ≤ 255) :=
        frputCount_iff _ _
      rw [← hclean, ← hcount, not_and_or, Bool.not_eq_true, Bool.not_eq_true]
    · refine fieldChecks_of_body ready rfl rfl htwo Iff.rfl fun hb _ _ => ?_
      exact sourceChecks_of_body ready rfl (fun f h => hb.trans (by rw [show sourceCheck _ (XDest.rsz _) _ = _ from h]))
        fun h => commands_of_body ready free rfl (hb.trans (by rw [show sourceCheck _ (XDest.rsz _) _ = _ from h]))
    · refine fieldChecks_of_body ready rfl rfl htwo Iff.rfl fun hb _ _ => ?_
      exact sourceChecks_of_body ready rfl (fun f h => hb.trans (by rw [h])) fun h => commands_of_body ready free rfl (hb.trans (by rw [h]))

end Sys2Proof.Machine
end

section
/-! PROOFS of the ENGINE-D, ENGINE-N and SYS instructions (23_td_instructions.md R313 to R320, 26_nd_instructions.md R338 to R348,
28_traps_preemption.md R359 to R365). -/

namespace Sys2Proof.Machine

open Sys2Proof.Safety

/-! ### Hubs change no tile -/

@[simp] theorem State.tiles_updDie (s : State) (d : Nat) (f : Die → Die) : (s.updDie d f).tiles = s.tiles := rfl
@[simp] theorem State.tiles_updNd (s : State) (d : Nat) (f : Nd → Nd) : (s.updNd d f).tiles = s.tiles := rfl
@[simp] theorem State.tiles_updTd (s : State) (d : Nat) (f : Td → Td) : (s.updTd d f).tiles = s.tiles := rfl
@[simp] theorem State.tiles_setObj (s : State) (id : BitVec 32) (o : Obj) : (s.setObj id o).tiles = s.tiles := rfl
@[simp] theorem State.tiles_hold (s : State) (id : BitVec 32) : (s.hold id).tiles = s.tiles := rfl
@[simp] theorem State.tiles_updTxn (s : State) (d t : Nat) (f : Txn → Txn) : (s.updTxn d t f).tiles = s.tiles := rfl

theorem State.tiles_foldl {α : Type} {f : State → α → State} (hf : ∀ s x, (f s x).tiles = s.tiles) (l : List α) (s : State) :
    (l.foldl f s).tiles = s.tiles := by
  induction l generalizing s with
  | nil => rfl
  | cons x l ih => rw [List.foldl_cons, ih, hf]

theorem State.tiles_claim {s t : State} {d n r a : Nat} (h : s.claim d n r = some (a, t)) : t.tiles = s.tiles := by
  unfold State.claim at h
  simp only at h
  split at h
  · cases h
  · split at h <;> cases h
    exact State.tiles_foldl (f := fun t i => t.setSlot d (a + i) { kind := .succ, region := r }) (fun _ _ => rfl) _ _

theorem State.tiles_claimEach {r : Nat} : ∀ {l : List Nat} {s t : State} {a : List (Nat × Nat)}, s.claimEach r l = some (a, t) → t.tiles = s.tiles
  | [], s, t, a, h => by cases h; rfl
  | d :: l, s, t, a, h => by
    unfold State.claimEach at h
    split at h
    · cases h
    next ha =>
      split at h
      · cases h
      next hb =>
        cases h
        exact (State.tiles_claimEach hb).trans (State.tiles_claim ha)

theorem tiles_claimRuns (r : Nat) (l : List (Nat × Nat)) : ∀ {s : State} {a b : List (Nat × Nat × Nat)} {t : State},
    l.foldl (claimRun r) (some (a, s)) = some (b, t) → t.tiles = s.tiles := by
  induction l with
  | nil => intro s a b t h; cases h; rfl
  | cons x l ih =>
    intro s a b t h
    rw [List.foldl_cons] at h
    cases hc : s.claim x.1 x.2 r with
    | none =>
      rw [show claimRun r (some (a, s)) x = none by simp [claimRun, hc], foldl_claimRun_none] at h
      cases h
    | some q =>
      rw [show claimRun r (some (a, s)) x = some (a ++ [(x.1, q.1, x.2)], q.2) by simp [claimRun, hc]] at h
      exact (ih h).trans (State.tiles_claim hc)

theorem State.tiles_claimInst {s t : State} {d r : Nat} {id : BitVec 32} {tab : List Word64} {q : Option (Nat × Nat)} {i : Inst}
    (h : s.claimInst d r id tab q = some (i, t)) : t.tiles = s.tiles := by
  unfold State.claimInst at h
  simp only at h
  split at h
  · cases h
  split at h
  · cases h
  next h1 =>
  split at h
  · cases h
  next h2 =>
  split at h
  · cases h
  next h3 =>
  cases h
  exact (tiles_claimRuns r _ h3).trans ((State.tiles_claimEach h2).trans (State.tiles_claimEach h1))

theorem State.tiles_makeFrames {x : Desc} {r : Nat} : ∀ {l : List Nat} {s t : State} {a : List (Nat × Word64)},
    s.makeFrames x r l = some (a, t) → t.tiles = s.tiles
  | [], s, t, a, h => by cases h; rfl
  | j :: l, s, t, a, h => by
    unfold State.makeFrames at h
    split at h
    · cases h
    next ha =>
      split at h
      · cases h
      next hb =>
        cases h
        refine (State.tiles_makeFrames hb).trans ?_
        unfold State.takeFrame at ha
        simp only at ha
        split at ha
        · cases ha
        · split at ha <;> cases ha
          rfl

theorem State.tiles_makeObj {s t : State} {d r : Nat} {x : Desc} {id : BitVec 32} (h : s.makeObj d r x = .ok (id, t)) : t.tiles = s.tiles := by
  unfold State.makeObj at h
  split at h
  · cases h
  split at h
  · cases h
  next hf =>
  split at h
  · cases h
  next ho =>
  cases h
  refine Eq.trans ?_ (State.tiles_makeFrames hf)
  unfold State.freeObj at ho
  simp only [Option.map_eq_some_iff] at ho
  obtain ⟨_, _, ho⟩ := ho
  cases ho
  rfl

theorem tiles_txnClaim (s : State) : (txnClaim s).2.2.tiles = s.tiles := by
  unfold txnClaim
  simp only
  split <;> rfl

/-! ### Asking a hub (26_nd_instructions.md R339) -/

/-- The instruction in focus is asking: the operation with which the reply will receive it is kept. -/
def State.asking (s : State) (op : CommitOp) : State :=
  s.updRun s.focus fun r => { r with asked := r.asked ++ [(s.index, op)] }

theorem any_asked {r : Run} {k : Nat} (h : ∀ x ∈ r.asked, x.1 ≠ k) : (r.asked.any fun x => x.1 == k) = false := by
  rw [List.any_eq_false]; intro y hy; simpa using h y hy

/-- An instruction whose body asks its own hub: what the hub answers and leaves is that. -/
theorem asks_of_askNow {s : State} {i : Instr} {vals : List Reg} {r r' : Run} {op : CommitOp} {act : State → Result × Option Prov × State}
    {res : Result} {prov : Option Prov} {change : State → State} {body : List Reg → State → Act} (ready : Ready s i vals r)
    (hexec : exec i s = .next (fire (shapeOf i s.index) body s))
    (hbody : (∀ x ∈ r.asked, x.1 ≠ s.index) → body vals s = askNow op act s)
    (hact : act (s.asking op) = (res, prov, change (s.asking op)))
    (hrun : ((change (s.asking op)).ctx s.focus).run = some r') (hw' : r'.waits = r.waits) : Asks i s r op res prov change := by
  intro hasked hwaits
  have hw : (r'.waits.any fun w => w.index == s.index && w.kind == WaitKind.tokens && w.detail == 0#64) = false := by
    rw [List.any_eq_false, hw']; intro w h; simp [hwaits w h]
  rw [hexec, fire_ready ready, hbody hasked]
  simp only [askNow, ready.run, any_asked hasked]
  rw [show s.updRun s.focus (fun r => { r with asked := r.asked ++ [(s.index, op)] }) = s.asking op from rfl, hact]
  refine congrArg _ (updRun_congr (r := r') ?_ (by simp only [Run.beginWait, hw]; rfl))
  rw [State.ctx_send (x := .reply _) _ _ _ (fun _ _ => nofun), hrun]

theorem State.run_asking {s : State} {r : Run} (h : (s.ctx s.focus).run = some r) (op : CommitOp) :
    ((s.asking op).ctx s.focus).run = some { r with asked := r.asked ++ [(s.index, op)] } := by
  rw [State.asking, State.ctx_updRun]; simp [h]

/-- The same, where the hub's answering changes no tile. -/
theorem asks_of_askNow_tiles {s : State} {i : Instr} {vals : List Reg} {r : Run} {op : CommitOp} {act : State → Result × Option Prov × State}
    {res : Result} {prov : Option Prov} {change : State → State} {body : List Reg → State → Act} (ready : Ready s i vals r)
    (hexec : exec i s = .next (fire (shapeOf i s.index) body s))
    (hbody : (∀ x ∈ r.asked, x.1 ≠ s.index) → body vals s = askNow op act s)
    (hact : act (s.asking op) = (res, prov, change (s.asking op))) (htiles : (change (s.asking op)).tiles = (s.asking op).tiles) :
    Asks i s r op res prov change :=
  asks_of_askNow ready hexec hbody hact ((congrArg Ctx.run (State.ctx_of_tiles htiles _)).trans (State.run_asking ready.run op)) rfl

/-- An instruction whose body sends a request to a hub. -/
theorem requests_of_askHub {s : State} {i : Instr} {vals : List Reg} {r : Run} {dst : Nat} {b : Body} {op : CommitOp} {k : WaitKind} {d : Word64}
    {body : List Reg → State → Act} (ready : Ready s i vals r) (hexec : exec i s = .next (fire (shapeOf i s.index) body s))
    (hbody : (∀ x ∈ r.asked, x.1 ≠ s.index) → body vals s = askHub dst b op k d s) (hb : Calm b) : Requests i s r dst b op k d :=
  fun hasked hwaits => exec_of_askHub ready hexec (hbody hasked) hb hasked hwaits

theorem request_of_run {s : State} {r : Run} (h : (s.ctx s.focus).run = some r) (k : ReqKind) : s.request k = request s r k := request_eq h k

/-- An instruction whose body asks the hub of die d, which answers alike in this state and once the asking is noted. -/
theorem asksAt_of_askAt {s : State} {i : Instr} {vals : List Reg} {r : Run} {d : Nat} {k : ReqKind} {op : CommitOp}
    {res : Result} {prov : Option Prov} {change : State → State} {body : List Reg → State → Act} (ready : Ready s i vals r)
    (hexec : exec i s = .next (fire (shapeOf i s.index) body s))
    (hbody : (∀ x ∈ r.asked, x.1 ≠ s.index) → body vals s = askAt d op k s)
    (hnow : s.answerAsk d (request s r k) = (res, prov, change s))
    (hact : (s.asking op).answerAsk d (request s r k) = (res, prov, change (s.asking op)))
    (htiles : (change (s.asking op)).tiles = (s.asking op).tiles) : AsksAt i s r d k op res prov change := by
  have hreq := request_of_run ready.run k
  refine ⟨hnow, fun hd => asks_of_askNow_tiles (act := fun t => t.answerAsk d (request s r k)) ready hexec (fun ha => ?_) hact htiles,
    fun hd => requests_of_askHub ready hexec (fun ha => ?_) (fun _ _ => nofun)⟩
  · rw [hbody ha, askAt, if_pos hd, hreq]
  · rw [hbody ha, askAt, if_neg hd, hreq]

/-! ### Checks of task and join IDs (23_td_instructions.md R313) -/

theorem State.mine_iff (s : State) (g : Nat) : s.mine g = true ↔
    g = (s.ctx s.focus).region ∨ ((s.ctx s.focus).super = true ∧ s.isAncestor (s.ctx s.focus).region g = true) := by
  simp [State.mine]

theorem State.moduleKnown_iff (s : State) (m : Nat) : s.moduleKnown m = true ↔ m = s.moduleId % 1024 ∨ ∃ q ∈ s.requesters, q.2 = m := by
  simp [State.moduleKnown]

theorem State.idForm_task_iff (s : State) (w : Word64) : s.idForm false w = true ↔ fldN w 31 33 = 0 ∧ s.moduleKnown (fldN w 21 10) = true := by
  have hw : (fldN w 32 32 = 0 ∧ bit w 31 = false) ↔ fldN w 31 33 = 0 := by
    have := w.isLt
    simp only [fldN, bit, beq_eq_false_iff_ne]
    omega
  simp only [State.idForm, Bool.and_eq_true, beq_iff_eq, hw]

theorem State.idForm_join_iff (s : State) (w : Word64) : s.idForm true w = true ↔
    fldN w 32 32 = 0 ∧ bit w 31 = true ∧ s.moduleKnown (fldN w 21 10) = true := by
  simp only [State.idForm, Bool.and_eq_true, beq_iff_eq, and_assoc]

theorem State.taskMine_iff (s : State) (id : BitVec 32) : s.taskMine id = true ↔ s.stateOf (s.taskHub id) (idSlot id) = 0 ∨
    s.mine (Rec.region (s.slot (s.taskHub id) (idSlot id)).raw) = true := by
  simp [State.taskMine]

theorem taskCheck_none {s : State} {x : Reg} (ht : x.tag = .i64) (hform : s.idForm false x.w = true) (hmine : s.taskMine (fld x.w 0 32) = true) :
    taskCheck x true s = none :=
  (if_neg (by simp [ht])).trans (if_neg (by simp [hform, hmine]))

theorem taskCheck_rights {s : State} {x : Reg} (ht : x.tag = .i64) (h : s.idForm false x.w = false) : taskCheck x true s = some (.flt .rights) :=
  (if_neg (by simp [ht])).trans (if_pos (.inl h))

theorem fldN_fld_low (w : Word64) {i n : Nat} (h : i + n ≤ 32) : fldN (fld w 0 32 : BitVec 32) i n = fldN w i n := by
  have h32 : 2 ^ 32 = 2 ^ i * 2 ^ (32 - i) := by rw [← pow_add]; congr 1; omega
  simp only [fldN, fld, BitVec.toNat_ofNat, pow_zero, Nat.div_one]
  rw [h32, Nat.mod_mul_right_div_self, Nat.mod_mod_of_dvd _ (pow_dvd_pow 2 (by omega))]

/-! ### The words of a record (23_td_instructions.md R319) -/

/-- A bit of a word whose field is cleared. -/
theorem getLsbD_setFld_zero {m : Nat} (x : BitVec m) {lo n : Nat} (h : lo + n ≤ m) (k : Nat) :
    (setFld x lo n 0).getLsbD k = (x.getLsbD k && !(decide (lo ≤ k) && decide (k < lo + n))) := by
  have hbit (y : BitVec m) : y.getLsbD k = (fldN y k 1 == 1) := (bit_eq_getLsbD y k).symm
  rw [hbit, hbit]
  by_cases hk : lo ≤ k ∧ k < lo + n
  · obtain ⟨j, rfl⟩ := Nat.exists_eq_add_of_le hk.1
    rw [fldN_setFld_inside 0 h (by omega)]
    simp [hk.2]
  · rw [fldN_setFld_outside 0 h (by omega)]
    rcases not_and_or.mp hk with hk | hk
    · simp [hk]
    · simp [hk]

/-- Clearing a field of a word is masking it. -/
theorem setFld_zero_eq_and (w : Word64) {lo n : Nat} {mask : Word64} (h : lo + n ≤ 64)
    (hm : ∀ k < 64, mask.getLsbD k = !(decide (lo ≤ k) && decide (k < lo + n))) : setFld w lo n 0 = w &&& mask := by
  apply BitVec.eq_of_getLsbD_eq
  intro k hk
  rw [getLsbD_setFld_zero w h, BitVec.getLsbD_and, hm k hk]

theorem State.statWord_eq (s : State) (d n : Nat) (k : BitVec 2) : s.statWord d n k.toNat =
    let y := (s.slot d n).raw
    if s.stateOf d n = 0 then 0#64 else if k = 0#2 then fld y 0 64 &&& 0xFFFFFFFFFFFFF03F#64
      else if k = 1#2 then Rec.status y &&& 0xFFFFC000FFFFFFFF#64 else fld y 384 64 := by
  have h0 : k.toNat = 0 ↔ k = 0#2 := by simp [← BitVec.toNat_inj]
  have h1 : k.toNat = 1 ↔ k = 1#2 := by simp [← BitVec.toNat_inj]
  simp only [State.statWord, h0, h1]
  rw [setFld_zero_eq_and (mask := 0xFFFFFFFFFFFFF03F#64) _ (by decide) (by decide),
    setFld_zero_eq_and (mask := 0xFFFFC000FFFFFFFF#64) _ (by decide) (by decide)]

/-- Settles O18: the checks of an ID pass, and each command is received, asks its hub, or waits. -/
theorem taskInstructions : Obligations.TaskInstructions := by
  intro p l t s r x a id hub here theirs known mine hx
  have hknown : s.moduleKnown (fldN x.w 21 10) = true ↔ known := s.moduleKnown_iff _
  have htheirs (g : Nat) : s.mine g = true ↔ theirs g := s.mine_iff g
  have hcheck (h : mine) : taskCheck x true s = none := by
    obtain ⟨h0, hk, hm⟩ := h
    exact taskCheck_none hx ((s.idForm_task_iff _).mpr ⟨h0, hknown.mpr hk⟩) ((s.taskMine_iff _).mpr (hm.imp_right (htheirs _).mpr))
  refine ⟨?_, ?_, ?_, ?_, ?_, ?_, ?_, ?_⟩
  · intro ready ha hmine
    have hc : taskCheck x (a.tag == .i64) s = none := by rw [ha]; exact hcheck hmine
    refine ⟨fun h => exec_of_received ready rfl ?_ rfl rfl, fun h => faults_of_fault s ready rfl ?_⟩
    · simp only [hc]; exact if_neg (by omega)
    · simp only [hc]; exact if_pos (by omega)
  · intro k ready hmine
    exact exec_of_received ready rfl (by simp only [hcheck hmine]; rfl) rfl rfl
  · intro k ready h
    refine faults_of_fault s ready rfl ?_
    have hform : s.idForm false x.w = false := Bool.eq_false_iff.mpr fun hf => by
      obtain ⟨h0, hk⟩ := (s.idForm_task_iff _).mp hf
      exact h.elim (absurd h0) (absurd (hknown.mp hk))
    simp only [taskCheck_rights hx hform]; rfl
  · intro k ready hmine _ y
    have hslot : fldN x.w 0 16 = idSlot id := (fldN_fld_low x.w (by decide)).symm
    have hstat := congrArg Result.w ((congrArg (fun n => s.statWord hub n k.toNat) hslot).trans (s.statWord_eq hub (idSlot id) k))
    refine asksAt_of_askAt ready rfl (fun _ => ?_) (congrArg (fun w => (w, none, s)) hstat)
      (congrArg (fun w => (w, none, s.asking (.cmd none .confirm))) hstat) rfl
    simp only [hcheck hmine]; rfl
  · intro ready hc
    exact faults_of_fault s ready rfl ((if_neg (not_not.mpr hx)).trans (if_pos hc))
  · intro ready hc h32 hb hhub hlive j free hj
    have hform : s.idForm true x.w = true := by
      refine (s.idForm_join_iff _).mpr ⟨h32, hb, hknown.mpr (.inl ?_)⟩
      have hm : s.moduleId = fldN x.w 21 10 := by
        rw [← fldN_fld_low x.w (i := 21) (n := 10) (by decide)]
        by_contra hne
        have : hub = 32 + 32 * fldN (fld x.w 0 32 : BitVec 32) 21 10 + fldN (fld x.w 0 32 : BitVec 32) 16 5 := if_neg (Ne.symm hne)
        omega
      rw [hm]; exact (Nat.mod_eq_of_lt (Nat.mod_lt _ (by decide))).symm
    have hmine : s.joinMine id = true := by
      by_cases hk : j.kind = .join
      · simp only [State.joinMine, Bool.or_eq_true]; exact .inr ((htheirs _).mpr (hj hk))
      · simp only [State.joinMine, Bool.or_eq_true, bne_iff_ne]; exact .inl hk
    have hrights : ¬(s.idForm true x.w = false ∨ s.joinMine id = false) := by rw [hform, hmine]; decide
    refine ⟨fun hfired => answers_of_done ready rfl ?_ rfl rfl rfl free, fun hk hfired hw => exec_of_wait ready rfl ?_ hw⟩
    · refine (if_neg (not_not.mpr hx)).trans ((if_neg (not_not.mpr hc)).trans ((if_neg hrights).trans (if_neg ?_)))
      rintro (h | h | ⟨hk, h⟩)
      · exact absurd hhub (Nat.not_lt.mpr h)
      · rw [hlive] at h; cases h
      · rw [hfired hk] at h; cases h
    · exact (if_neg (not_not.mpr hx)).trans ((if_neg (not_not.mpr hc)).trans ((if_neg hrights).trans (if_pos (.inr (.inr ⟨hk, hfired⟩)))))
  · intro ready ha halign hin hd hasked hgate bs hbs image hok d written s1
    have hbody (hn : ∀ y ∈ r.asked, y.1 ≠ s.index) : tspawnBody l.toNat [x, a] s = askAt d (.cmd none .confirm) (.spawn image) s := by
      rw [tspawnBody, gated_eq ready.run hgate, if_neg (by simp [hx, ha]), if_neg (not_not.mpr halign),
        if_neg (show ¬lsSize < _ from Nat.not_lt.mpr hin), if_neg (not_not.mpr hd), if_neg (by simp [any_asked hn]), hbs]
      simp only [image] at hok ⊢
      rw [hok]
    refine ⟨fun hne => requests_of_askHub ready rfl (fun hn => ?_) (fun _ _ => nofun), fun n u hclaim heq => ?_⟩
    · rw [hbody hn, askAt, if_neg hne, request_eq ready.run]; rfl
    · refine asks_of_askNow_tiles (act := fun t => t.answerAsk d (s.request (.spawn image))) ready rfl (fun hn => ?_) ?_ (State.tiles_claim hclaim)
      · rw [hbody hn, askAt, if_pos heq]
      · show spawnClaim d image s1 = _
        rw [spawnClaim, hclaim]; rfl
  · intro y hy ready hok hreach n halign hin hasked hgate bs hbs table htable s1 inst u hclaim
    refine asks_of_askNow_tiles (act := instClaim s.focus.die here.region (hobj y.w) table) ready rfl (fun hn => ?_) ?_ (State.tiles_claimInst hclaim)
    · have htab : ¬(table.any fun h => (s.reach here.region h).isNone) = true := by
        simp only [List.any_eq_true, not_exists, not_and]
        exact fun h hm hnone => by simp [Option.isSome_iff_ne_none.mp (htable h hm)] at hnone
      have hreach' : ¬(s.reach here.region y.w).isNone = true := by simpa [← Option.isSome_iff_ne_none] using hreach
      rw [ginstBody, gated_eq ready.run hgate]
      refine (if_neg (by simp [hx, hy])).trans ((if_neg hreach').trans ((if_neg (by simp [hok])).trans ((if_neg (not_not.mpr halign)).trans
        ((if_neg (Nat.not_lt.mpr hin)).trans ((if_neg (by simp [any_asked hn])).trans ?_)))))
      rw [hbs]
      exact if_neg htab
    · rw [instClaim]
      rw [show (s.asking (.cmd none .confirm)).claimInst s.focus.die here.region (hobj y.w) table none = some (inst, u) from hclaim]
      rfl

/-! ### ENGINE-N (R338 to R348) -/

/-- The key's entry of a slice that a bind has kept. -/
def State.keptName (s : State) (home : Nat) (entry : Name) : State :=
  s.updNd home fun n => n.putName { entry with claims := entry.claims + 1 }

theorem bindAnswer_some {s : State} {d r : Nat} {key h : Word64} (hr : (s.reach r h).isSome = true) (hf : (s.nd d).fullFor key = false) :
    bindAnswer d key (some h) r s = (.tokens .null none, some (.bind key (some (hobj h)) r),
      (s.keptName d (((s.nd d).name? key).getD { key := key })).hold (hobj h)) := by
  have hs : ¬((some h).any fun h => (s.reach r h).isNone) = true := by simpa [← Option.isSome_iff_ne_none] using hr
  rw [bindAnswer]
  exact (if_neg hs).trans (if_neg (by simp [hf]))

theorem bindAnswer_none {s : State} {d r : Nat} {key : Word64} (hf : (s.nd d).fullFor key = false) :
    bindAnswer d key none r s = (.tokens .null none, some (.bind key none r), s.keptName d (((s.nd d).name? key).getD { key := key })) := by
  rw [bindAnswer]
  exact (if_neg (by simp)).trans (if_neg (by simp [hf]))

theorem State.ancGo_asking (s : State) (op : CommitOp) (a : Nat) : ∀ n r, (s.asking op).ancGo a n r = s.ancGo a n r
  | 0, _ => rfl
  | n + 1, r => by
    have ih := State.ancGo_asking s op a n
    simp only [State.ancGo, ih]
    rfl

theorem State.reach_asking (s : State) (op : CommitOp) (r : Nat) (h : Word64) : (s.asking op).reach r h = s.reach r h := by
  have hanc (a b : Nat) : (s.asking op).isAncestor a b = s.isAncestor a b := State.ancGo_asking s op a 4096 b
  simp only [State.reach, hanc]
  rfl

theorem txnForm_iff (w : Word64) : txnForm w = true ↔ fldN w 32 32 = 0 ∧ fldN w 6 11 = 0 := by simp [txnForm]

theorem State.ownTxn_asking (s : State) (op : CommitOp) (w : Word64) : (s.asking op).ownTxn w = s.ownTxn w := by
  have hc : ((s.asking op).ctx s.focus).runNo = (s.ctx s.focus).runNo := by rw [State.asking, State.ctx_updRun]
  rw [State.ownTxn, State.ownTxn]
  show (if _ then none else List.find? (fun x : Txn => _ && x.begunBy s.focus ((s.asking op).ctx s.focus).runNo) _) = _
  rw [hc]; rfl

theorem addAnswer_ok {s : State} {t key : Word64} {h : Reg} {z : Txn} (hz : s.ownTxn t = some z)
    (hlt : ((z.entries.map (·.1) ++ z.asked).eraseDups).length < 64) : addAnswer t key h s =
      (.tokens .null none, some (.txnAdd z.id s.focus z.runNo key (txnHandle h)),
        let s1 := s.updTxn s.focus.die z.id fun y => { y with asked := y.asked ++ [key] }
        if (s.obj? (txnHandle h)).isSome then s1.hold (hobj (txnHandle h)) else s1) := by
  rw [addAnswer, hz]
  exact if_neg fun hx => absurd hx.2 (Nat.not_le.mpr hlt)

/-- The coordinator's answer to an `NTXC`, whose write entry is reserved with it (R346). -/
def endReserving (w : Word64) (t : BitVec 7) (s : State) : Result × Option Prov × State :=
  let (a, b, u) := endAnswer w s
  (a, b, if t = 0x7F#7 then u else u.updRun u.focus fun r => { r with reserved := r.reserved ++ [t.toNat] })

theorem endReserving_ok {s : State} {w : Word64} {t : BitVec 7} {z : Txn} (hz : s.ownTxn w = some z) (ht : t ≠ 0x7F#7) :
    endReserving w t s = (.tokens .null none, none, s.updRun s.focus fun r => { r with reserved := r.reserved ++ [t.toNat] }) := by
  simp only [endReserving, endAnswer, hz, if_neg ht]

/-- Settles O19: each instruction's checks pass, and it asks its home, its own hub, or the object's. -/
theorem nameInstructions : Obligations.NameInstructions := by
  intro p l t s r x h here home owner clean
  refine ⟨?_, ?_, ?_, ⟨?_, ?_⟩, ?_, ?_, ?_, ?_, ?_, ?_, ?_, ?_⟩
  · intro w n ready hx
    refine ⟨fun hw hc => faults_of_fault s ready rfl ((if_neg (not_not.mpr hx)).trans (if_pos ⟨hw, hc⟩)),
      fun hw => requests_of_askHub ready rfl (fun _ => ?_) (fun _ _ => nofun)⟩
    rw [← request_of_run ready.run]
    exact (if_neg (not_not.mpr hx)).trans (if_neg fun hc => hc.2 (hw hc.1))
  · intro o ready hx ho hopen
    have hclose (u : State) (hu : u.obj? x.w = some o) : closeAnswer x.w here.region u = (.tokens .null none, some (.close (hobj x.w) here.region),
        u.setObj (hobj x.w) { o with opens := put o.opens here.region (look 0 o.opens here.region - 1) }) := by
      rw [closeAnswer, hu]; exact if_neg hopen
    exact asksAt_of_askAt ready rfl (fun _ => if_neg (not_not.mpr hx)) (hclose s ho) (hclose _ ho) rfl
  · intro ready hx ho
    have hclose (u : State) (hu : u.obj? x.w = none) : closeAnswer x.w here.region u = (.refused .rights, none, u) := by rw [closeAnswer, hu]
    exact asksAt_of_askAt ready rfl (fun _ => if_neg (not_not.mpr hx)) (hclose s ho) (hclose _ ho) rfl
  · intro ready hx hh hreach hfull
    have hnow := bindAnswer_some hreach hfull
    have hask := bindAnswer_some (s := s.asking (.cmd none (.nbind x.w h.w))) ((congrArg _ (State.reach_asking ..)).trans hreach) hfull
    refine asksAt_of_askAt ready rfl (fun _ => (if_neg ?_).trans ?_) hnow hask rfl
    · simp [hx, bindTag, hh]
    · rw [if_pos hh, if_pos hh]
  · intro ready hx hh h0 hfull
    have hne : ¬h.tag = .hndl := by rw [hh]; decide
    refine asksAt_of_askAt ready rfl (fun _ => (if_neg ?_).trans ?_) (bindAnswer_none hfull)
      (bindAnswer_none (s := s.asking (.cmd none (.nbind x.w 0#64))) hfull) rfl
    · simp [hx, bindTag, hh, h0]
    · rw [if_neg hne, if_neg hne]
  · intro k ready asks
    have hasks {d : Nat} {w : Word64} (hd : (if k = 2#2 then owner else home) = d) (htag : x.tag = if k = 2#2 then Tag.hndl else Tag.i64)
        (hq : queryAnswer d k.toNat x.w s = Result.w w) : asks d w := by
      refine asksAt_of_askAt ready rfl (fun _ => (if_neg (not_not.mpr htag)).trans (congrArg (fun d => askAt d _ _ s) hd))
        (congrArg (fun q => (q, none, s)) hq) (congrArg (fun q => (q, none, s.asking (.cmd none .confirm))) hq) rfl
    refine ⟨?_, ?_, ?_, ?_⟩
    · rintro rfl hx o ho
      exact hasks rfl hx (by simp only [queryAnswer, ho]; rfl)
    · rintro rfl hx n hn
      exact hasks rfl hx (by simp only [queryAnswer, hn]; rfl)
    · rintro rfl hx n hn
      exact hasks rfl hx (by simp only [queryAnswer, hn]; rfl)
    · rintro (rfl | rfl) hx hn
      · exact hasks rfl hx (by simp only [queryAnswer, hn]; rfl)
      · exact hasks rfl hx (by simp only [queryAnswer, hn]; rfl)
  · intro ready s1 hkept res prov u hclaim
    refine asks_of_askNow_tiles (act := txnClaim) ready rfl (fun _ => if_neg (by simp [hkept])) hclaim ?_
    have := tiles_txnClaim s1
    rw [hclaim] at this
    exact this
  · intro y z ready hclean hx hy hz hlt asks
    have hasks {w : Word64} {held : State → State} (htag : bindTag h = true) (hw : txnHandle h = w)
        (hheld : ∀ u : State, (if (s.obj? w).isSome = true then u.hold (hobj w) else u) = held u) : asks w held := by
      have hadd := addAnswer_ok (s := s.asking (.cmd none (.ntxa (x.w.toNat % 64) y.w w))) (key := y.w) (h := h)
        ((State.ownTxn_asking _ _ _).trans hz) hlt
      rw [hw] at hadd
      refine asks_of_askNow_tiles (act := addAnswer x.w y.w h) ready rfl (fun _ => ?_) (hadd.trans ?_) ?_
      · rw [← hw]
        exact (if_neg (by simp [hx, hy, htag])).trans (if_neg (by simp [(txnForm_iff _).mpr hclean]))
      · exact congrArg (fun u => (_, _, u)) (hheld _)
      · rw [← hheld]; split <;> rfl
    refine ⟨fun hh h0 ho => ?_, fun hh h0 ho => ?_, fun hh h0 ho => ?_⟩
    · exact hasks (by simp [bindTag, hh]) (by simp [txnHandle, hh, h0]) fun u => if_pos ho
    · exact hasks (by simp [bindTag, hh]) (by simp [txnHandle, hh, h0]) fun u => if_neg (by simp [ho])
    · exact hasks (by simp [bindTag, hh, h0]) (by simp [txnHandle, hh]) fun u => if_neg (by simp [ho])
  · intro z ready hclean hx ht htok hres hz
    have htaken : ¬((r.asked.any fun y => y.1 == s.index) = false ∧ t ≠ 0x7F#7 ∧ ((r.tok t.toNat).isSome || r.reserved.contains t.toNat) = true) := by
      rw [htok, hres]; simp
    refine asks_of_askNow (act := endReserving x.w t) ready rfl (fun _ => ?_) (endReserving_ok ((State.ownTxn_asking ..).trans hz) ht) ?_ rfl
      (r' := { r with asked := r.asked ++ [(s.index, .cmd none (.ntxc (x.w.toNat % 64) t))], reserved := r.reserved ++ [t.toNat] })
    · simp only [ready.run]
      exact (if_neg (not_not.mpr hx)).trans ((if_neg (by simp [(txnForm_iff _).mpr hclean])).trans (if_neg htaken))
    · exact (congrArg Ctx.run (State.ctx_updRun _ s.focus _)).trans (by simp [State.run_asking ready.run])
  · intro i hi ready hx hclean
    have hform : txnForm x.w = false := Bool.eq_false_iff.mpr (mt (txnForm_iff _).mp hclean)
    rcases hi with rfl | rfl
    · refine faults_of_fault s ready rfl ?_
      simp only [ready.run]
      exact (if_neg (not_not.mpr hx)).trans (if_pos hform)
    · exact faults_of_fault s ready rfl ((if_neg (not_not.mpr hx)).trans (if_pos hform))
  · intro z ready hclean hx hz
    refine asks_of_askNow_tiles (act := endAnswer x.w) ready rfl (fun _ => ?_) ?_ rfl
    · exact (if_neg (not_not.mpr hx)).trans (if_neg (by simp [(txnForm_iff _).mpr hclean]))
    · rw [endAnswer, State.ownTxn_asking, hz]; rfl
  · intro ready hx
    refine requests_of_askHub ready rfl (fun _ => ?_) (fun _ _ => nofun)
    rw [← request_of_run ready.run]
    exact if_neg (not_not.mpr hx)
  · intro ready hx halign hin hasked hgate bs hbs s1 made u hmake
    refine asks_of_askNow_tiles (act := makeAnswer s.focus.die here.region (BitVec.ofNat 512 (leNat bs))) ready rfl (fun hn => ?_) ?_
      (State.tiles_makeObj hmake)
    · rw [nmakeBody, gated_eq ready.run hgate]
      refine (if_neg (not_not.mpr hx)).trans ((if_neg (not_not.mpr halign)).trans ((if_neg (Nat.not_lt.mpr hin)).trans
        ((if_neg (by simp [any_asked hn])).trans ?_)))
      rw [hbs]
    · rw [makeAnswer]
      rw [show (s.asking (.cmd none .confirm)).makeObj s.focus.die here.region (BitVec.ofNat 512 (leNat bs)) = .ok (made, u) from hmake]

/-! ### SYS (R359 to R365) -/

/-- What a SYS instruction does: tags, fields and rights in this order, then the rest. -/
def SysChecks (s : State) (i : Instr) (tags fields rights rest : Prop) : Prop :=
  (¬tags → Faults i s .tagFault 0#64 0#64) ∧ (tags → ¬fields → Faults i s .reservedField 0#64 0#64) ∧
  (tags → fields → ¬rights → Faults i s .rights 0#64 0#64) ∧ (tags → fields → rights → rest)

/-- An instruction whose body judges tags, fields and rights, then goes on with k. -/
theorem sysChecks_of_body {s : State} {i : Instr} {vals : List Reg} {r : Run} {body : List Reg → State → Act} {k : Act}
    {P Q R tags fields rights rest : Prop} [Decidable P] [Decidable Q] [Decidable R] (ready : Ready s i vals r)
    (hexec : exec i s = .next (fire (shapeOf i s.index) body s))
    (hbody : body vals s = if P then .flt .tagFault else if Q then .flt .reservedField else if R then .flt .rights else k)
    (hP : P ↔ ¬tags) (hQ : Q ↔ ¬fields) (hR : R ↔ ¬rights) (hrest : body vals s = k → tags → fields → rights → rest) :
    SysChecks s i tags fields rights rest := by
  have pass (h : tags) : ¬P := fun hp => hP.mp hp h
  have passQ (h : fields) : ¬Q := fun hq => hQ.mp hq h
  have passR (h : rights) : ¬R := fun hr => hR.mp hr h
  refine ⟨fun h => faults_of_fault s ready hexec (hbody.trans (if_pos (hP.mpr h))),
    fun h hn => faults_of_fault s ready hexec (hbody.trans ((if_neg (pass h)).trans (if_pos (hQ.mpr hn)))),
    fun h hf hn => faults_of_fault s ready hexec (hbody.trans ((if_neg (pass h)).trans ((if_neg (passQ hf)).trans (if_pos (hR.mpr hn))))),
    fun h hf hr => hrest (hbody.trans ((if_neg (pass h)).trans ((if_neg (passQ hf)).trans (if_neg (passR hr))))) h hf hr⟩

/-- The address of a context image is judged, then the rest. -/
def ImagePlace (s : State) (i : Instr) (a : Word64) (n : Nat) (rest : Prop) : Prop :=
  (a.toNat % 32 ≠ 0 → Faults i s .align a 0#64) ∧
  (a.toNat % 32 = 0 → 0x200000 < a.toNat + imageSize n → Faults i s .lsBounds a 0#64) ∧
  (a.toNat % 32 = 0 → a.toNat + imageSize n ≤ 0x200000 → rest)

theorem imagePlace_of_body {s : State} {i : Instr} {vals : List Reg} {r : Run} {body : List Reg → State → Act} {a : Word64} {n : Nat} {k : Act}
    {rest : Prop} (ready : Ready s i vals r) (hexec : exec i s = .next (fire (shapeOf i s.index) body s))
    (hbody : body vals s = match imageCheck n a with | some f => f | none => k) (hrest : body vals s = k → rest) :
    ImagePlace s i a n rest := by
  refine ⟨fun h => faults_of_fault s ready hexec ?_, fun h hb => faults_of_fault s ready hexec ?_, fun h hb => hrest ?_⟩
  · rw [hbody, imageCheck, if_pos h]
  · rw [hbody, imageCheck, if_neg (not_not.mpr h), if_pos (show lsSize < _ from hb)]
  · rw [hbody, imageCheck, if_neg (not_not.mpr h), if_neg (show ¬lsSize < _ from Nat.not_lt.mpr hb)]

/-- The lowest engine whose commands are not complete. -/
theorem find_incomplete {x : Ctx} {g : Engine} (hg : x.done.get g ≠ x.issue.get g)
    (hlow : ∀ h : Engine, h.num < g.num → x.done.get h = x.issue.get h) :
    ([Engine.ce, .me, .mse].find? fun e => x.done.get e != x.issue.get e) = some g := by
  have hg' : (x.done.get g != x.issue.get g) = true := by simpa using hg
  have hl (h : Engine) (hn : h.num < g.num) : (x.done.get h != x.issue.get h) = false := by simpa using hlow h hn
  cases g with
  | ce => simp [hg']
  | me => simp [hg', hl .ce (by decide)]
  | mse => simp [hg', hl .ce (by decide), hl .me (by decide)]

/-- What `CTXRS` does once its operands and its address are judged: the image is read and judged (R362). -/
def ctxrsJudge (l n : Nat) (a : Word64) (r : Run) (s : State) : Act :=
  match s.loadLocal r l a.toNat (imageSize n) with
  | none => .flt .uncorrectable
  | some b =>
    if imageOk n b = false then .flt .reservedField
    else if n = 0 ∧ fld (imageWord b 0) 32 32 ≠ s.taskOn s.focus then .flt .rights
    else .done [] (some (.cmd none (.ctxrs n b))) s

theorem ctxrsBody_gated {s : State} {r : Run} {l : Nat} {c a : Reg} (hr : (s.ctx s.focus).run = some r) (hg : s.loadGate r false l = true) :
    ctxrsBody l [c, a] s = if c.tag ≠ .i64 ∨ a.tag ≠ .i64 then .flt .tagFault
      else if 8 ≤ c.w.toNat ∨ c.w.toNat = s.focus.ctx then .flt .reservedField
      else if ¬((s.ctx { s.focus with ctx := c.w.toNat }).phase = .faulted ∨
        (c.w.toNat ≠ 0 ∧ (s.ctx { s.focus with ctx := c.w.toNat }).phase = .idle)) then .flt .rights
      else match imageCheck c.w.toNat a.w with
        | some f => f
        | none => ctxrsJudge l c.w.toNat a.w r s := by
  rw [ctxrsBody, gated_eq hr hg]; rfl

theorem bindTag_iff (h : Reg) : bindTag h = true ↔ h.tag = .hndl ∨ (h.tag = .i64 ∧ h.w = 0#64) := by simp [bindTag]

/-- Settles O20: each body judges tags, fields and rights, then its address, then what is its own. -/
theorem systemInstructions : Obligations.SystemInstructions := by
  intro p l t s r c a n other size words checks place another
  have htags : (c.tag ≠ .i64 ∨ a.tag ≠ .i64) ↔ ¬words := by simp only [words]; tauto
  have hanother : (8 ≤ n ∨ n = s.focus.ctx) ↔ ¬another := by simp only [another]; omega
  have hsize : imageSize n = size := by simp only [imageSize, size]; rfl
  refine ⟨fun ready => ?_, fun ready => ?_, fun ready hgate => ?_, fun k ready => ?_⟩
  · have hn16 : fldN c.w 16 48 ≠ 0 ↔ ¬n < 2 ^ 16 := by
      have := c.w.isLt
      simp only [fldN, n]; omega
    refine ⟨fun h => faults_of_fault s ready rfl ?_, fun h hn => faults_of_fault s ready rfl ?_, fun _ _ h => absurd trivial h, fun hw hn _ =>
      ⟨fun h0 h1 => faults_of_fault s ready rfl ?_, fun h w hservice => asks_of_askNow_tiles (act := fun u => (Result.w w, none, u))
        ready rfl (fun hasked => ?_) rfl rfl⟩⟩ <;> simp only [svcBody, ready.run]
    · exact if_pos (htags.mpr h)
    · exact (if_neg (mt htags.mp (not_not.mpr h))).trans (if_pos (hn16.mpr hn))
    · exact (if_neg (mt htags.mp (not_not.mpr hw))).trans ((if_neg (mt hn16.mp (not_not.mpr hn))).trans (if_pos ⟨h0, h1⟩))
    · have hwait : ¬(s.focus.ctx ≠ 0 ∧ (s.ctx s.focus).super = false) := by rintro ⟨h0, h1⟩; simp [h0, h1] at h
      refine (if_neg (mt htags.mp (not_not.mpr hw))).trans ((if_neg (mt hn16.mp (not_not.mpr hn))).trans ((if_neg hwait).trans
        ((if_neg (by simp [any_asked hasked])).trans ?_)))
      rw [hservice]
  · refine sysChecks_of_body (R := other.phase ≠ .faulted) ready rfl rfl htags hanother Iff.rfl fun hb _ _ _ => ?_
    refine imagePlace_of_body ready rfl hb fun hb => ⟨fun hd => exec_of_received ready rfl ?_ rfl rfl, fun g hg hlow hw => exec_of_wait ready rfl ?_ hw⟩
    · have hnone : ([Engine.ce, .me, .mse].find? fun e => other.done.get e != other.issue.get e) = none := by simp [hd]
      simp only [other, n] at hnone
      rw [hb, hnone]
    · have hsome := find_incomplete hg hlow
      simp only [other, n] at hsome
      rw [hb, hsome]
  · refine sysChecks_of_body ready rfl (ctxrsBody_gated ready.run hgate) htags hanother Iff.rfl fun hb _ _ _ => ?_
    refine imagePlace_of_body ready rfl hb fun hb image himage => ?_
    intro its
    have hb' : ctxrsBody l.toNat [c, a] s = if imageOk n image = false then .flt .reservedField
        else if n = 0 ∧ fld (imageWord image 0) 32 32 ≠ s.taskOn s.focus then .flt .rights
        else .done [] (some (.cmd none (.ctxrs n image))) s := by
      rw [hb, ctxrsJudge, show s.loadLocal r l.toNat a.w.toNat (imageSize c.w.toNat) = some image from himage]
    have hits : (n = 0 ∧ fld (imageWord image 0) 32 32 ≠ s.taskOn s.focus) ↔ ¬its := by simp only [its]; tauto
    refine ⟨fun h => faults_of_fault s ready rfl (hb'.trans (if_pos h)), fun h hi => faults_of_fault s ready rfl (hb'.trans ((if_neg ?_).trans
      (if_pos (hits.mpr hi)))), fun h hi => exec_of_received ready rfl (hb'.trans ((if_neg ?_).trans (if_neg (mt hits.mp (not_not.mpr hi))))) rfl rfl⟩
    · simp [h]
    · simp [h]
  · refine sysChecks_of_body ready rfl rfl ?_ ?_ ?_ fun hb _ _ _ => exec_of_received ready rfl hb rfl rfl
    · rw [← bindTag_iff, not_and_or, Bool.not_eq_true]
    · rw [not_le]
    · simp

end Sys2Proof.Machine
end

section
/-! PROOFS of the fetch and the decode of blocks (04_encoding.md R55 to R66, 06_block_engine.md R86 to R89, R98). -/

namespace Sys2Proof.Machine

open Sys2Proof.Safety

/-! ### Fetch (R84, R88) -/

theorem State.mayBegin_eq {s : State} {p : Place} (h1 : (s.ctx p).phase = .running) (h2 : (s.ctx p).frozen = false)
    (h3 : (s.ctx p).atBarrier = none) (h4 : (s.die p.die).halt = none) (h5 : (s.die p.die).stopped = false)
    (h6 : s.saving p.die p.tile = false) : s.mayBegin p = true := by
  simp [State.mayBegin, h1, h2, h3, h4, h5, h6]

theorem objOf_of_reach {s : State} {r : Nat} {h : Word64} {o : Obj} (hr : s.reach r h = some o) : o = s.objOf (hobj h) := by
  unfold State.reach at hr
  split at hr
  next ho =>
    split at hr <;> cases hr
    unfold State.obj? at ho
    simp only at ho
    split at ho <;> cases ho
    rfl
  · cases hr

theorem execBlockFetch_fails {s : State} (hb : s.mayBegin s.focus = true) (hrun : (s.ctx s.focus).run = none) (hopen : s.fetchOpen s.focus = true)
    {k : Cause} (hf : s.fetchBlock (s.tile s.focus.die s.focus.tile) (s.ctx s.focus).region (s.ctx s.focus).code (s.ctx s.focus).block.toNat = .error k) :
    exec .blockFetch s = .next (s.raiseFault s.focus { cause := k, fetch := true, d0 := (s.ctx s.focus).block.setWidth 64 }) := by
  show execBlockFetch s = _
  rw [execBlockFetch, if_neg (by simp [hb, hrun, hopen]), hf]

/-- Settles O21: what may be fetched is, and the first check that fails gives the cause. -/
theorem blockFetch : Obligations.BlockFetch := by
  intro s p c fails h1 h2 h3 hrun h4 h5 h6
  have hb : s.mayBegin p = true := State.mayBegin_eq h1 h2 h3 h4 h5 h6
  refine ⟨fun ws hws hopen => ?_, fun hclosed => congrArg _ (if_pos (.inr (.inr hclosed))), fun hr => ?_, fun o ho => ⟨fun hcode => ?_,
    fun hcode hal => ?_, fun hcode hal hlen => ?_⟩⟩
  · show execBlockFetch s = _
    rw [execBlockFetch, if_neg (by simp [show s.mayBegin s.focus = true from hb, show (s.ctx s.focus).run = none from hrun,
      show s.fetchOpen s.focus = true from hopen]), show s.fetchBlock (s.tile s.focus.die s.focus.tile) _ _ _ = _ from hws]
  · exact execBlockFetch_fails hb hrun (by rw [State.fetchOpen, hr]) (by rw [State.fetchBlock, hr])
  · refine execBlockFetch_fails hb hrun ?_ ?_
    · rw [State.fetchOpen, ho]; exact if_pos (.inl hcode)
    · rw [State.fetchBlock, ho]; exact if_pos hcode
  · refine execBlockFetch_fails hb hrun ?_ ?_
    · rw [State.fetchOpen, ho]; exact if_pos (.inr (.inl hal))
    · rw [State.fetchBlock, ho]; exact (if_neg (by simp [hcode])).trans (if_pos hal)
  · refine execBlockFetch_fails hb hrun ?_ ?_
    · rw [State.fetchOpen, ho]; exact if_pos (.inr (.inr (objOf_of_reach ho ▸ hlen)))
    · have hpart : s.fetchPart (s.tile p.die p.tile) c.code c.block.toNat 32 = .error .window := if_pos hlen
      rw [State.fetchBlock, ho]
      refine (if_neg (by simp [hcode])).trans ((if_neg (not_not.mpr hal)).trans ?_)
      rw [hpart]

/-! ### Read entries (R87, R89, R98) -/

/-- What a list of read entries delivers from the register file: tokens at their targets. -/
def Ctx.deliveries (c : Ctx) (r : Run) (l : List Nat) : List (Nat × Token) :=
  (l.filter fun j => r.rdTarget j != 0x7F).map fun j => (r.rdTarget j, c.readToken r j)

theorem look?_append_of_none {α : Type} (l m : List (Nat × α)) (k : Nat) (h : look? l k = none) : look? (l ++ m) k = look? m k := by
  induction l with
  | nil => rfl
  | cons x l ih =>
    obtain ⟨j, v⟩ := x
    by_cases hj : j = k
    · simp [look?, hj] at h
    · simp only [look?, hj, if_false, List.cons_append] at h ⊢
      exact ih h

/-- A list in which a key stands with one value gives that. -/
theorem look?_of_mem {α : Type} {k : Nat} {v : α} : ∀ {l : List (Nat × α)}, (k, v) ∈ l → (∀ x ∈ l, x.1 = k → x.2 = v) → look? l k = some v
  | (j, w) :: l, hm, hu => by
    rw [look?]
    split
    next h => exact congrArg some (hu (j, w) (by simp) h)
    next h =>
      refine look?_of_mem ((List.mem_cons.mp hm).resolve_left fun e => h ?_) fun x hx => hu x (by simp [hx])
      cases e; rfl

/-- A read entry of a free target that is no stream port delivers. -/
theorem readEntries_cons {s : State} {p : Place} {r : Run} {j : Nat} (l : List Nat) (hr : (s.ctx p).run = some r)
    (hport : (s.ctx p).port (r.rdReg j) = none) :
    s.readEntries p (j :: l) = ((s.deliver p none (r.rdTarget j) ((s.ctx p).readToken r j)).updRun p fun r =>
      { r with reads := r.reads ++ [j] }).readEntries p l := by
  rw [State.readEntries, hr]
  simp only [hport]

/-- The context after a read entry that has delivered. -/
theorem ctx_readEntry {s : State} {p : Place} {r : Run} {j : Nat} (hr : (s.ctx p).run = some r)
    (hfree : r.rdTarget j ≠ 0x7F → r.tok (r.rdTarget j) = none ∧ r.reserved.contains (r.rdTarget j) = false) :
    ((s.deliver p none (r.rdTarget j) ((s.ctx p).readToken r j)).updRun p fun r => { r with reads := r.reads ++ [j] }).ctx p =
      { s.ctx p with run := some { r with tokens := r.tokens ++ (s.ctx p).deliveries r [j], reads := r.reads ++ [j] } } := by
  rw [deliver_free _ _ _ hr hfree, Ctx.deliveries]
  split
  next h => simp [hr, h]
  next h => simp [hr, h]

/-- Read entries of distinct free targets, none of a stream port: all deliver, and nothing else changes. -/
theorem readEntries_spec : ∀ {l : List Nat} {s : State} {r : Run}, (s.ctx s.focus).run = some r →
    (∀ j ∈ l, (s.ctx s.focus).port (r.rdReg j) = none) →
    (∀ j ∈ l, r.rdTarget j ≠ 0x7F → r.tok (r.rdTarget j) = none ∧ r.reserved.contains (r.rdTarget j) = false) →
    l.Pairwise (fun i j => r.rdTarget i = r.rdTarget j → r.rdTarget i = 0x7F) →
    (s.readEntries s.focus l).ctx s.focus =
      { s.ctx s.focus with run := some { r with tokens := r.tokens ++ (s.ctx s.focus).deliveries r l, reads := r.reads ++ l } } ∧
    FiringStep s (s.readEntries s.focus l)
  | [], s, r, hr, _, _, _ => by
    refine ⟨?_, FiringStep.refl s⟩
    rw [State.readEntries, Ctx.deliveries]
    simp [← hr]
  | j :: l, s, r, hr, hport, hfree, hpair => by
    obtain ⟨hj, hl⟩ := List.pairwise_cons.mp hpair
    have hctx := ctx_readEntry hr (hfree j (by simp))
    rw [readEntries_cons l hr (hport j (by simp))]
    have hstep : FiringStep s ((s.deliver s.focus none (r.rdTarget j) ((s.ctx s.focus).readToken r j)).updRun s.focus fun r =>
      { r with reads := r.reads ++ [j] }) := ((FiringStep.refl s).deliver none _ _).updRun _
    generalize (s.deliver s.focus none (r.rdTarget j) ((s.ctx s.focus).readToken r j)).updRun s.focus (fun r =>
      { r with reads := r.reads ++ [j] }) = t at hctx hstep ⊢
    have hfocus := hstep.focus
    have hport' : ∀ i ∈ l, (t.ctx t.focus).port (r.rdReg i) = none := fun i hi => by
      rw [hfocus, hctx]; exact hport i (by simp [hi])
    have hfree' : ∀ i ∈ l, r.rdTarget i ≠ 0x7F → Run.tok { r with tokens := r.tokens ++ (s.ctx s.focus).deliveries r [j], reads := r.reads ++ [j] }
        (r.rdTarget i) = none ∧ r.reserved.contains (r.rdTarget i) = false := fun i hi hne => by
      refine ⟨?_, (hfree i (by simp [hi]) hne).2⟩
      have hnot : ¬(r.rdTarget j != 0x7F) = true ∨ r.rdTarget j ≠ r.rdTarget i := by
        by_cases h : r.rdTarget j = r.rdTarget i
        · exact .inl (by simp [hj i hi h])
        · exact .inr h
      rw [Run.tok, look?_append_of_none _ _ _ (hfree i (by simp [hi]) hne).1, Ctx.deliveries]
      rcases hnot with h | h
      · simp [h, look?]
      · by_cases h7 : r.rdTarget j = 0x7F <;> simp [h7, h, look?]
    obtain ⟨ih, ihstep⟩ := readEntries_spec (l := l) (s := t)
      (r := { r with tokens := r.tokens ++ (s.ctx s.focus).deliveries r [j], reads := r.reads ++ [j] })
      (by rw [hfocus]; exact congrArg Ctx.run hctx) hport' hfree' hl
    rw [hfocus] at ih ihstep
    refine ⟨ih.trans ?_, hstep.trans ihstep⟩
    have hcat : (s.ctx s.focus).deliveries r (j :: l) = (s.ctx s.focus).deliveries r [j] ++ (s.ctx s.focus).deliveries r l := by
      rw [Ctx.deliveries, Ctx.deliveries, Ctx.deliveries, ← List.map_append, ← List.filter_append]; rfl
    rw [hctx, hcat, ← List.append_assoc, List.append_cons r.reads j l]
    rfl

/-- The first token of a list of deliveries to distinct targets. -/
theorem look?_deliveries {c : Ctx} {r : Run} {l : List Nat} {j : Nat} (hj : j ∈ l) (h7 : r.rdTarget j ≠ 0x7F)
    (hpair : ∀ i ∈ l, r.rdTarget i = r.rdTarget j → i = j) : look? (c.deliveries r l) (r.rdTarget j) = some (c.readToken r j) := by
  refine look?_of_mem (List.mem_map.mpr ⟨j, List.mem_filter.mpr ⟨hj, by simp [h7]⟩, rfl⟩) fun x hx hk => ?_
  obtain ⟨i, hi, rfl⟩ := List.mem_map.mp hx
  rw [hpair i (List.mem_of_mem_filter hi) hk]

/-! ### Decode (R66, R89) -/

theorem State.tile_updCtx (s : State) (p : Place) (f : Ctx → Ctx) : (s.updCtx p f).tile p.die p.tile =
    { s.tile p.die p.tile with ctxs := put (s.tile p.die p.tile).ctxs p.ctx (f (s.ctx p)) } := by
  rw [State.updCtx, State.setCtx, State.tile_updTile]

/-- The block r has been decoded. -/
def State.decoded (s : State) (r : Run) : State :=
  s.updCtx s.focus fun c => { c with
    kind := none
    run := some { r with live := true, serial := s.cycle, decodedAt := s.cycle, issueAt := c.issue } }

theorem execBlockDecode_ok {s : State} {r : Run} (hr : (s.ctx s.focus).run = some r) (hlive : r.live = false) (hb : s.mayBegin s.focus = true)
    (hh : s.handlesDue s.focus = false) (hd : r.decodeFault s.focus.ctx (s.ctx s.focus).super (s.ctx s.focus).kind = none) :
    exec .blockDecode s = .next ((s.decoded r).readEntries s.focus (List.range r.nrd)) := by
  show execBlockDecode s = _
  rw [execBlockDecode, hr]
  simp only [hlive, hd]
  exact congrArg _ (if_neg (show ¬(s.mayBegin s.focus = false ∨ s.handlesDue s.focus = true) by simp [hb, hh]))

theorem pairwise_range_of_distinct {f : Nat → Nat} {n : Nat} (h : ∀ i < n, ∀ j < n, f i = f j → f i = 0x7F ∨ i = j) :
    (List.range n).Pairwise fun i j => f i = f j → f i = 0x7F :=
  List.pairwise_lt_range.imp_of_mem fun hi hj hlt he =>
    (h _ (List.mem_range.mp hi) _ (List.mem_range.mp hj) he).resolve_right (Nat.ne_of_lt hlt)

/-- A decoded block whose read entries all deliver. -/
theorem decode_delivers {s : State} {r : Run} (hr : (s.ctx s.focus).run = some r) (hlive : r.live = false) (hb : s.mayBegin s.focus = true)
    (hh : s.handlesDue s.focus = false) (hd : r.decodeFault s.focus.ctx (s.ctx s.focus).super (s.ctx s.focus).kind = none)
    (htok : r.tokens = []) (hres : r.reserved = []) (hport : ∀ j < r.nrd, (s.ctx s.focus).port (r.rdReg j) = none)
    (hdist : ∀ i < r.nrd, ∀ j < r.nrd, r.rdTarget i = r.rdTarget j → r.rdTarget i = 0x7F ∨ i = j) :
    ∃ t r', exec .blockDecode s = .next t ∧ (t.ctx s.focus).run = some r' ∧ r'.words = r.words ∧ r'.live = true ∧ r'.decodedAt = s.cycle ∧
      r'.issueAt = (s.ctx s.focus).issue ∧ r'.fired = r.fired ∧
      (∀ j < r.nrd, r.rdTarget j ≠ 0x7F → r'.tok (r.rdTarget j) = some ((s.ctx s.focus).readToken r j)) ∧
      t.mem = s.mem ∧ ∀ q, SameRegisters (s.ctx q) (t.ctx q) := by
  have hstep : FiringStep s (s.decoded r) := frame_updCtx _ fun c => by simp [SameRegisters]
  have hctx : (s.decoded r).ctx (s.decoded r).focus = { s.ctx s.focus with
      kind := none
      run := some { r with live := true, serial := s.cycle, decodedAt := s.cycle, issueAt := (s.ctx s.focus).issue } } := State.ctx_updCtx ..
  obtain ⟨hc, hf⟩ := readEntries_spec (s := s.decoded r) (l := List.range r.nrd) (congrArg Ctx.run hctx)
    (fun j hj => by rw [hctx]; exact hport j (List.mem_range.mp hj))
    (fun j _ _ => by constructor <;> simp [Run.tok, htok, hres])
    (pairwise_range_of_distinct hdist)
  refine ⟨_, _, execBlockDecode_ok hr hlive hb hh hd, congrArg Ctx.run hc, rfl, rfl, rfl, rfl, rfl, fun j hj h7 => ?_, ?_, fun q => (hstep.trans hf).regs q⟩
  · rw [Run.tok, htok, hctx]
    exact look?_deliveries (c := s.ctx s.focus) (r := r) (List.mem_range.mpr hj) h7 fun i hi he =>
      (hdist i (List.mem_range.mp hi) j hj he).resolve_left fun h => h7 (he ▸ h)
  · rw [State.readEntries_mem]; rfl

/-- A read entry of a stream port takes the element that has been read ahead. -/
theorem run_readEntries_pop {s : State} {p : Place} {r : Run} {j g : Nat} {e : Reg} {l : List Reg} (hr : (s.ctx p).run = some r)
    (hport : (s.ctx p).port (r.rdReg j) = some g) (hahead : ((s.tile p.die p.tile).ag g).ahead = e :: l) (hpops : r.pops = [])
    (h7 : r.rdTarget j ≠ 0x7F) (htok : r.tokens = []) (hres : r.reserved = []) :
    ((s.readEntries p [j]).ctx p).run = some { r with tokens := [(r.rdTarget j, .val e)], reads := r.reads ++ [j], pops := [g] } := by
  have hopen : s.popOpen p.die p.tile g (((s.tile p.die p.tile).ag g).pos + (r.pops.filter fun x => x == g).length) = true := by
    simp [State.popOpen, hpops, hahead]
  have hpop : s.popEntry p g (r.rdTarget j) r =
      (s.updRun p fun r => { r with pops := r.pops ++ [g] }).deliver p none (r.rdTarget j) (.val e) := by
    simp [State.popEntry, hpops, hahead]
  have hrun : ((s.updRun p fun r => { r with pops := r.pops ++ [g] }).ctx p).run = some { r with pops := r.pops ++ [g] } := by simp [hr]
  rw [State.readEntries, hr]
  simp only [hport, hopen, hpop]
  rw [deliver_free _ _ _ hrun fun _ => by simp [Run.tok, htok, hres, look?]]
  simp [State.readEntries, h7, hr, htok, hpops]

/-- A decoded block whose one read entry takes an element that a stream has read ahead. -/
theorem decode_pops {s : State} {r : Run} {g : Nat} {e : Reg} {l : List Reg} (hr : (s.ctx s.focus).run = some r) (hlive : r.live = false)
    (hb : s.mayBegin s.focus = true) (hh : s.handlesDue s.focus = false)
    (hd : r.decodeFault s.focus.ctx (s.ctx s.focus).super (s.ctx s.focus).kind = none)
    (htok : r.tokens = []) (hres : r.reserved = []) (hpops : r.pops = []) (hn : r.nrd = 1) (h7 : r.rdTarget 0 ≠ 0x7F)
    (hport : (s.ctx s.focus).port (r.rdReg 0) = some g) (hahead : ((s.tile s.focus.die s.focus.tile).ag g).ahead = e :: l) :
    ∃ t r', exec .blockDecode s = .next t ∧ (t.ctx s.focus).run = some r' ∧ r'.live = true ∧ r'.tok (r.rdTarget 0) = some (.val e) ∧ r'.pops = [g] := by
  have hctx : (s.decoded r).ctx s.focus = { s.ctx s.focus with
      kind := none
      run := some { r with live := true, serial := s.cycle, decodedAt := s.cycle, issueAt := (s.ctx s.focus).issue } } := State.ctx_updCtx ..
  have hrun := run_readEntries_pop (s := s.decoded r) (p := s.focus) (j := 0) (g := g) (e := e) (l := l) (congrArg Ctx.run hctx)
    (by rw [hctx]; exact hport) (by rw [State.decoded, State.tile_updCtx]; exact hahead) hpops h7 htok hres
  refine ⟨_, _, execBlockDecode_ok hr hlive hb hh hd, by rw [hn]; exact hrun, rfl, ?_, rfl⟩
  exact if_pos rfl

/-! ### The checks of a block (04_encoding.md R66) -/

theorem length_eraseDups_le {α : Type} [BEq α] [LawfulBEq α] : ∀ (n : Nat) (l : List α), l.length ≤ n → l.eraseDups.length ≤ l.length
  | _, [], _ => by simp
  | n + 1, a :: l, h => by
    have hf := List.length_filter_le (fun b => !b == a) l
    have := length_eraseDups_le n (l.filter fun b => !b == a) (by simp at h; omega)
    rw [List.eraseDups_cons]
    simp only [List.length_cons]
    omega

/-- No element of a list is dropped as a duplicate just where all differ. -/
theorem length_eraseDups_eq_iff {α : Type} [BEq α] [LawfulBEq α] : ∀ l : List α, l.eraseDups.length = l.length ↔ l.Nodup
  | [] => by simp
  | a :: l => by
    have ih := length_eraseDups_eq_iff l
    have hf := List.length_filter_le (fun b => !b == a) l
    have hle := length_eraseDups_le _ (l.filter fun b => !b == a) le_rfl
    rw [List.eraseDups_cons, List.nodup_cons, List.length_cons, List.length_cons, Nat.add_right_cancel_iff, ← ih]
    by_cases ha : a ∈ l
    · have hlt : (l.filter fun b => !b == a).length < l.length := by
        refine lt_of_le_of_ne hf fun he => ?_
        simpa using List.length_filter_eq_length_iff.mp he a ha
      simp only [ha, not_true_eq_false, false_and, iff_false]
      omega
    · rw [List.filter_eq_self.mpr fun b hb => by simpa using fun e : b = a => ha (e ▸ hb)]
      simp [ha]

theorem nodup_filterMap_range_iff {f : Nat → Option Nat} (n : Nat) : ((List.range n).filterMap f).Nodup ↔
    ∀ j < n, ∀ k < n, ∀ l, f j = some l → f k = some l → j = k := by
  induction n with
  | zero => simp
  | succ n ih =>
    rw [List.range_succ, List.filterMap_append, List.nodup_append, ih]
    constructor
    · rintro ⟨hn, -, hd⟩ j hj k hk l hfj hfk
      have hmem (i : Nat) (hi : i < n) (h : f i = some l) : l ∈ (List.range n).filterMap f :=
        List.mem_filterMap.mpr ⟨i, List.mem_range.mpr hi, h⟩
      rcases Nat.lt_succ_iff_lt_or_eq.mp hj with hj | rfl
      · rcases Nat.lt_succ_iff_lt_or_eq.mp hk with hk | rfl
        · exact hn j hj k hk l hfj hfk
        · exact absurd rfl (hd l (hmem j hj hfj) l (by simp [hfk]))
      · rcases Nat.lt_succ_iff_lt_or_eq.mp hk with hk | rfl
        · exact absurd rfl (hd l (hmem k hk hfk) l (by simp [hfj]))
        · rfl
    · intro h
      refine ⟨fun j hj k hk => h j (by omega) k (by omega), by cases hn : f n <;> simp [hn], fun a ha b hb e => ?_⟩
      obtain ⟨j, hj, hfj⟩ := List.mem_filterMap.mp ha
      obtain ⟨k, hk, hfk⟩ := List.mem_filterMap.mp hb
      have hj := List.mem_range.mp hj
      have hk := List.mem_singleton.mp hk
      exact absurd (h j (by omega) k (by omega) a hfj (e ▸ hfk)) (by omega)

/-- The lowest index of a range at which a check fails. -/
theorem find?_range_eq_some {p : Nat → Bool} {n k : Nat} (hk : k < n) (hp : p k = true) (hlow : ∀ j < k, p j = false) :
    (List.range n).find? p = some k := by
  rw [List.find?_range_eq_some]
  exact ⟨hp, List.mem_range.mpr hk, fun j hj => by simp [hlow j hj]⟩

theorem find?_range_eq_none {p : Nat → Bool} {n : Nat} (h : ∀ k < n, p k = false) : (List.range n).find? p = none := by
  simpa using h

/-- Check 7 of R66: LSIDs unique, as many counted instructions as NCNT says, every slot named, every read entry at a slot that its instruction
takes, an exit. -/
theorem Run.wholeOk_iff (r : Run) : r.wholeOk = true ↔
    (∀ j < r.size, ∀ k < r.size, ∀ l, (r.shape j).lsid = some l → (r.shape k).lsid = some l → j = k) ∧
    r.ncnt = ((List.range r.size).filter fun k => (r.shape k).counted).length ∧
    (∀ k < r.size, ∀ n < 3, (r.shape k).takes n = true → 32 * n + k ∈ r.allTargets) ∧
    (∀ j < r.nrd, r.rdTarget j ≠ 0x7F → (r.shape (r.rdTarget j % 32)).takes (r.rdTarget j / 32) = true) ∧
    ∃ k < r.size, (r.shape k).isExit = true := by
  have hlsid : (r.shapes.filterMap Shape.lsid).eraseDups.length = (r.shapes.filterMap Shape.lsid).length ↔
      ∀ j < r.size, ∀ k < r.size, ∀ l, (r.shape j).lsid = some l → (r.shape k).lsid = some l → j = k := by
    rw [length_eraseDups_eq_iff, Run.shapes, List.filterMap_map, nodup_filterMap_range_iff]
    rfl
  have hcount : (r.shapes.filter Shape.counted).length = ((List.range r.size).filter fun k => (r.shape k).counted).length := by
    rw [Run.shapes, List.filter_map, List.length_map]; rfl
  have hnamed (k : Nat) : ([0, 1, 2].all fun n => !(r.shape k).takes n || r.allTargets.contains (32 * n + k)) = true ↔
      ∀ n < 3, (r.shape k).takes n = true → 32 * n + k ∈ r.allTargets := by
    rw [show [0, 1, 2] = List.range 3 from rfl]
    simp only [List.all_eq_true, List.mem_range, Bool.or_eq_true, Bool.not_eq_true', List.contains_iff_mem, ← Bool.not_eq_true]
    exact forall₂_congr fun n _ => imp_iff_not_or.symm
  have hreads : ((List.range r.nrd).all fun j => r.rdTarget j == 0x7F || (r.shape (r.rdTarget j % 32)).takes (r.rdTarget j / 32)) = true ↔
      ∀ j < r.nrd, r.rdTarget j ≠ 0x7F → (r.shape (r.rdTarget j % 32)).takes (r.rdTarget j / 32) = true := by
    simp only [List.all_eq_true, List.mem_range, Bool.or_eq_true, beq_iff_eq]
    exact forall₂_congr fun j _ => or_iff_not_imp_left
  have hexit : r.shapes.any Shape.isExit = true ↔ ∃ k < r.size, (r.shape k).isExit = true := by
    simp [Run.shapes]
  simp only [Run.wholeOk, Bool.and_eq_true, beq_iff_eq, hlsid, hcount, List.all_eq_true (l := List.range r.size), List.mem_range, hnamed, hreads,
    hexit, and_assoc]

/-- The opcode of body word k is undefined. -/
def Run.illegalAt (r : Run) (k : Nat) : Bool := match decodeWord (r.word k) with
  | .error .illegalOpcode => true
  | _ => false

theorem Run.illegalAt_iff (r : Run) (k : Nat) : r.illegalAt k = true ↔ decodeWord (r.word k) = .error .illegalOpcode := by
  unfold Run.illegalAt
  split <;> simp_all

/-- Body word k is for supervisors and the context is not one. -/
def Run.privAt (r : Run) (super : Bool) (k : Nat) : Bool := !super && ((r.instr k).map supervisorOnly).getD false

theorem Run.privAt_iff (r : Run) (super : Bool) (k : Nat) : r.privAt super k = true ↔
    super = false ∧ ∃ i, r.instr k = some i ∧ supervisorOnly i = true := by
  unfold Run.privAt
  cases r.instr k <;> simp

section Checks

variable {r : Run} {ctx : Nat} {super : Bool}

theorem decodeFault_header (h : r.headerOk = false ∨ r.entriesOk ctx = false) :
    r.decodeFault ctx super none = some (.reservedField, none, true) :=
  if_pos (h.imp_right .inr)

variable (hh : r.headerOk = true) (he : r.entriesOk ctx = true)
include hh he

theorem decodeFault_body : r.decodeFault ctx super none = match (List.range r.size).find? r.illegalAt with
    | some k => some (.illegalOpcode, some k, false)
    | none => match (List.range r.size).find? fun k => !r.wordOk ctx k with
      | some k => some (.reservedField, some k, false)
      | none => match (List.range r.size).find? (r.privAt super) with
        | some k => some (.privileged, some k, false)
        | none => if r.wholeOk then none else some (.reservedField, none, true) :=
  if_neg (by simp [hh, he])

theorem decodeFault_illegal {k : Nat} (hk : k < r.size) (hi : r.illegalAt k = true) (hlow : ∀ j < k, r.illegalAt j = false) :
    r.decodeFault ctx super none = some (.illegalOpcode, some k, false) := by
  rw [decodeFault_body hh he, find?_range_eq_some hk hi hlow]

variable (hlegal : ∀ k < r.size, r.illegalAt k = false)
include hlegal

theorem decodeFault_reserved {k : Nat} (hk : k < r.size) (hi : r.wordOk ctx k = false) (hlow : ∀ j < k, r.wordOk ctx j = true) :
    r.decodeFault ctx super none = some (.reservedField, some k, false) := by
  rw [decodeFault_body hh he, find?_range_eq_none hlegal]
  simp only
  rw [find?_range_eq_some hk (by simp [hi]) fun j hj => by simp [hlow j hj]]

variable (hwords : ∀ k < r.size, r.wordOk ctx k = true)
include hwords

theorem decodeFault_words : r.decodeFault ctx super none = match (List.range r.size).find? (r.privAt super) with
    | some k => some (.privileged, some k, false)
    | none => if r.wholeOk then none else some (.reservedField, none, true) := by
  rw [decodeFault_body hh he, find?_range_eq_none hlegal]
  simp only
  rw [find?_range_eq_none fun k hk => by simp [hwords k hk]]

theorem decodeFault_privileged {k : Nat} (hk : k < r.size) (hi : r.privAt super k = true) (hlow : ∀ j < k, r.privAt super j = false) :
    r.decodeFault ctx super none = some (.privileged, some k, false) := by
  rw [decodeFault_words hh he hlegal hwords, find?_range_eq_some hk hi hlow]

theorem decodeFault_whole (hpriv : ∀ k < r.size, r.privAt super k = false) :
    r.decodeFault ctx super none = if r.wholeOk then none else some (.reservedField, none, true) := by
  rw [decodeFault_words hh he hlegal hwords, find?_range_eq_none hpriv]

end Checks

/-- A recorded token stands for a register only where it was recorded for it. -/
theorem readToken_of_unrecorded {c : Ctx} {r : Run} {j : Nat} (h : ∀ x ∈ c.reuse, x.2.2.2.1 ≠ r.rdReg j) :
    c.readToken r j = .val (c.reg (r.rdReg j)) := by
  have hnone : (c.reuse.find? fun x => x.1 == c.code && x.2.1 == c.block && x.2.2.1 == j && x.2.2.2.1 == r.rdReg j) = none := by
    rw [List.find?_eq_none]; intro x hx; simp [h x hx]
  rw [Ctx.readToken]
  simp only [hnone, ite_self]

/-- Settles O22: the checks in their order, and what a block that passes them reads. -/
theorem blockDecoding : Obligations.BlockDecoding := by
  refine ⟨?_, fun c r j => ⟨fun h => ?_, readToken_of_unrecorded⟩, fun r ctx super => ⟨decodeFault_header, fun hh he => ⟨?_, ?_⟩, fun b => ⟨?_, ?_⟩⟩⟩
  · intro s r p c hrun hlive h1 h2 h3 h4 h5 h6
    have hb : s.mayBegin p = true := State.mayBegin_eq h1 h2 h3 h4 h5 h6
    refine ⟨fun hdue => ?_, fun hdue => ⟨fun k i h hf => ?_, fun hd htok hres hport hdist => decode_delivers hrun hlive hb hdue hd htok hres hport hdist,
      fun g e l hd htok hres hpops hn h7 hport hahead => decode_pops hrun hlive hb hdue hd htok hres hpops hn h7 hport hahead⟩⟩
    · show execBlockDecode s = _
      rw [execBlockDecode, show (s.ctx s.focus).run = some r from hrun]
      simp only [hlive]
      exact congrArg _ (if_pos (show s.mayBegin s.focus = false ∨ s.handlesDue s.focus = true from .inr hdue))
    · show execBlockDecode s = _
      rw [execBlockDecode, show (s.ctx s.focus).run = some r from hrun]
      simp only [hlive, show r.decodeFault s.focus.ctx (s.ctx s.focus).super (s.ctx s.focus).kind = _ from hf]
      exact congrArg _ (if_neg (show ¬(s.mayBegin s.focus = false ∨ s.handlesDue s.focus = true) by
        simp [show s.mayBegin s.focus = true from hb, show s.handlesDue s.focus = false from hdue]))
  · rw [Ctx.readToken]
    simp only [h]
    rfl
  · intro k hk hi hlow
    exact decodeFault_illegal hh he hk ((r.illegalAt_iff k).mpr hi) fun j hj => Bool.eq_false_iff.mpr (mt (r.illegalAt_iff j).mp (hlow j hj))
  · intro hlegal
    have hlegal' : ∀ k < r.size, r.illegalAt k = false := fun k hk => Bool.eq_false_iff.mpr (mt (r.illegalAt_iff k).mp (hlegal k hk))
    refine ⟨fun k hk hi hlow => decodeFault_reserved hh he hlegal' hk hi hlow, fun hwords => ⟨?_, ?_⟩⟩
    · intro k hk i hi hs hlow hu
      refine decodeFault_privileged hh he hlegal' hwords hk ((r.privAt_iff super k).mpr ⟨hu, i, hi, hs⟩) fun j hj => ?_
      rw [Bool.eq_false_iff, ne_eq, Run.privAt_iff]
      rintro ⟨-, i', hi', hs'⟩
      rw [hlow j hj i' hi'] at hs'
      cases hs'
    · intro hpriv whole
      have hpriv' : ∀ k < r.size, r.privAt super k = false := fun k hk => by
        rw [Bool.eq_false_iff, ne_eq, Run.privAt_iff]
        rintro ⟨hu, i, hi, hs⟩
        rcases hpriv with h | h
        · rw [h] at hu; cases hu
        · rw [h k hk i hi] at hs; cases hs
      have hwhole : r.wholeOk = true ↔ whole := r.wholeOk_iff
      rw [decodeFault_whole hh he hlegal' hwords hpriv']
      exact ⟨fun h => if_neg (mt hwhole.mp h), fun h => if_pos (hwhole.mpr h)⟩
  · exact fun h => if_pos (.inr (.inl (by simpa using h)))
  · intro h
    simp only [Run.decodeFault, h, beq_self_eq_true]

end Sys2Proof.Machine
end

section
/-! PROOFS of the commit of blocks (06_block_engine.md R93 to R97, 07_be_control.md R103 to R111). -/

namespace Sys2Proof.Machine

open Sys2Proof.Safety

/-! ### Write entries (R57, R94) -/

/-- The context as the write entries of its block leave it. -/
def Ctx.written (c : Ctx) (r : Run) : Ctx := (List.range r.nwr).foldl (fun c j => c.writeBack r j) (c.record r)

/-- A context that differs from c in registers and recorded tokens alone. -/
def Ctx.SameButRegs (c d : Ctx) : Prop := d = { c with regs := d.regs, reuse := d.reuse }

theorem Ctx.sameButRegs_trans {a b c : Ctx} (h : a.SameButRegs b) (g : b.SameButRegs c) : a.SameButRegs c := by
  rw [Ctx.SameButRegs] at *
  rw [g, h]

theorem Ctx.sameButRegs_writeBack (c : Ctx) (r : Run) (j : Nat) : c.SameButRegs (c.writeBack r j) := by
  unfold Ctx.writeBack
  dsimp only
  split <;> rfl

theorem Ctx.sameButRegs_foldl (r : Run) : ∀ (l : List Nat) (c : Ctx), c.SameButRegs (l.foldl (fun c j => c.writeBack r j) c)
  | [], _ => rfl
  | j :: l, c => Ctx.sameButRegs_trans (c.sameButRegs_writeBack r j) (Ctx.sameButRegs_foldl r l _)

theorem Ctx.sameButRegs_written (c : Ctx) (r : Run) : c.SameButRegs (c.written r) :=
  Ctx.sameButRegs_trans (b := c.record r) rfl (Ctx.sameButRegs_foldl r _ _)

theorem Ctx.port_of_ports {c : Ctx} (h : c.ports = []) (g : Nat) : c.port g = none := by
  simp [Ctx.port, h]

theorem Ctx.ports_of_sameButRegs {c d : Ctx} (h : c.SameButRegs d) : d.ports = c.ports := by rw [h]

/-- A register that no write entry of a list gives a value keeps its own. -/
theorem Ctx.reg_foldl_writeBack_of_not {r : Run} {g : Nat} : ∀ {l : List Nat} {c : Ctx}, (∀ j ∈ l, r.wrReg j = g → ∀ v, r.tok (0x60 + j) ≠ some (.val v)) →
    (l.foldl (fun c j => c.writeBack r j) c).reg g = c.reg g
  | [], _, _ => rfl
  | j :: l, c, h => by
    rw [List.foldl_cons, Ctx.reg_foldl_writeBack_of_not fun i hi => h i (by simp [hi])]
    unfold Ctx.writeBack
    dsimp only
    split
    next v _ hv =>
      have hne : g ≠ r.wrReg j := fun e => h j (by simp) e.symm v hv
      exact look_put_ne _ _ _ hne
    · rfl

theorem Ctx.reg_writeBack {c : Ctx} {r : Run} {j : Nat} {v : Reg} (hp : c.ports = []) (hv : r.tok (0x60 + j) = some (.val v)) :
    (c.writeBack r j).reg (r.wrReg j) = v.clean := by
  rw [Ctx.writeBack]
  simp only [Ctx.port_of_ports hp, hv]
  exact look_put _ _ _ _

/-- A write entry of a list, whose register no other of the list names, writes it. -/
theorem Ctx.reg_foldl_writeBack {r : Run} {j : Nat} {v : Reg} (hv : r.tok (0x60 + j) = some (.val v)) (l : List Nat) (c : Ctx) (hp : c.ports = [])
    (hj : j ∈ l) (hn : l.Nodup) (hu : ∀ i ∈ l, r.wrReg i = r.wrReg j → i = j) :
    (l.foldl (fun c j => c.writeBack r j) c).reg (r.wrReg j) = v.clean := by
  induction l generalizing c with
  | nil => cases hj
  | cons i l ih =>
    obtain ⟨hi, hn⟩ := List.nodup_cons.mp hn
    rw [List.foldl_cons]
    by_cases e : i = j
    · have hlater (k : Nat) (hk : k ∈ l) (he : r.wrReg k = r.wrReg j) (w : Reg) : r.tok (0x60 + k) ≠ some (.val w) :=
        absurd ((hu k (by simp [hk]) he).trans e.symm ▸ hk) hi
      rw [Ctx.reg_foldl_writeBack_of_not hlater, e, Ctx.reg_writeBack hp hv]
    · exact ih _ ((Ctx.ports_of_sameButRegs (c.sameButRegs_writeBack r i)).trans hp) ((List.mem_cons.mp hj).resolve_left (Ne.symm e)) hn
        fun k hk => hu k (by simp [hk])

theorem Ctx.reg_written {c : Ctx} {r : Run} {j : Nat} {v : Reg} (hp : c.ports = []) (hj : j < r.nwr) (hv : r.tok (0x60 + j) = some (.val v))
    (hu : ∀ i < r.nwr, r.wrReg i = r.wrReg j → i = j) : (c.written r).reg (r.wrReg j) = v.clean :=
  Ctx.reg_foldl_writeBack hv _ (c.record r) hp (List.mem_range.mpr hj) List.nodup_range fun i hi => hu i (List.mem_range.mp hi)

theorem Ctx.reg_written_of_null {c : Ctx} {r : Run} {g : Nat} (h : ∀ j < r.nwr, r.wrReg j = g → r.tok (0x60 + j) = some .null) :
    (c.written r).reg g = c.reg g :=
  Ctx.reg_foldl_writeBack_of_not (c := c.record r) fun j hj he v hv => by
    rw [h j (List.mem_range.mp hj) he] at hv; cases hv

/-! ### The end of a commit (R94 steps 2 to 4) -/

/-- The state once the write entries of the block r are written and its streams have moved on, for a block without ports. -/
def State.closing (s : State) (p : Place) (r : Run) : State :=
  ((s.updCtx p fun c => c.written r).updTile p.die p.tile fun t => t.moveStreams p.ctx []).progress p.die (s.ctx p).region

theorem State.appends_of_ports {s : State} {p : Place} (h : (s.ctx p).ports = []) (r : Run) : s.appends p r = [] := by
  rw [State.appends]
  generalize List.range r.nwr = l
  induction l with
  | nil => rfl
  | cons j l ih =>
    rw [List.foldl_cons]
    simp only [Ctx.port_of_ports h] at ih ⊢
    exact ih

theorem Ctx.popsOf_of_ports {c : Ctx} (h : c.ports = []) (r : Run) : c.popsOf r = [] := by
  simp [Ctx.popsOf, Ctx.port_of_ports h]

theorem State.ctx_closing (s : State) (p : Place) (r : Run) : (s.closing p r).ctx p = (s.ctx p).written r := by
  show ((s.updCtx p fun c => c.written r).updTile p.die p.tile fun t => t.moveStreams p.ctx []).ctx p = _
  rw [State.ctx_updTile _ _ _ (fun t => t.moveStreams p.ctx []) (fun _ => rfl), State.ctx_updCtx]

theorem State.ctx_closing_ne (s : State) {p q : Place} (r : Run) (hp : p.tile < 144) (hq : q.tile < 144) (h : q ≠ p) :
    (s.closing p r).ctx q = s.ctx q := by
  show ((s.updCtx p fun c => c.written r).updTile p.die p.tile fun t => t.moveStreams p.ctx []).ctx q = _
  rw [State.ctx_updTile _ _ _ (fun t => t.moveStreams p.ctx []) (fun _ => rfl), State.updCtx, State.ctx_setCtx_ne _ _ hp hq h]

@[simp] theorem State.closing_mem (s : State) (p : Place) (r : Run) : (s.closing p r).mem = s.mem := rfl

theorem foldl_rebindPorts {p : Place} : ∀ {l : List Counted}, (∀ x ∈ l, ∀ t : State, t.rebindPorts p x.op = t) → ∀ t : State,
    l.foldl (fun t x => t.rebindPorts p x.op) t = t
  | [], _, _ => rfl
  | x :: l, h, t => by
    rw [List.foldl_cons, h x (by simp)]
    exact foldl_rebindPorts (fun y hy => h y (by simp [hy])) t

theorem mem_insertLsid {x y : Counted} {l : List Counted} : y ∈ insertLsid x l ↔ y = x ∨ y ∈ l := by
  induction l with
  | nil => simp [insertLsid]
  | cons z l ih =>
    rw [insertLsid]
    split
    · simp
    · simp only [List.mem_cons, ih]; tauto

theorem mem_sortLsid {y : Counted} {l : List Counted} : y ∈ sortLsid l ↔ y ∈ l := by
  induction l with
  | nil => simp [sortLsid]
  | cons x l ih => rw [sortLsid, mem_insertLsid, ih, List.mem_cons]

/-- The end of a commit without ports: its writes, then its exit. -/
theorem commitEnd_eq {s : State} {p : Place} {r : Run} {e : FiredExit} (hr : (s.ctx p).run = some r) (hp : (s.ctx p).ports = [])
    (hreb : ∀ x ∈ r.counted, ∀ t : State, t.rebindPorts p x.op = t) (he : r.exits = [e]) :
    s.commitEnd p = ((s.closing p r).exitEffect p r.size e).see p := by
  have hctx : (s.updCtx p fun c => c.written r).ctx p = (s.ctx p).written r := State.ctx_updCtx ..
  have hports : ((s.ctx p).written r).ports = [] := (Ctx.ports_of_sameButRegs (Ctx.sameButRegs_written _ r)).trans hp
  have hregion : ((s.ctx p).written r).region = (s.ctx p).region := by rw [Ctx.sameButRegs_written (s.ctx p) r]
  have hmoved : ((s.updCtx p fun c => c.written r).updTile p.die p.tile fun t => t.moveStreams p.ctx []).ctx p = (s.ctx p).written r :=
    State.ctx_closing s p r
  rw [State.commitEnd, hr]
  simp only [State.appends_of_ports hp, List.foldl_nil, List.map_nil, List.append_nil, he]
  have hpops : ((s.updCtx p fun c => c.written r).ctx p).popsOf r = [] := by rw [hctx, Ctx.popsOf_of_ports hports]
  have hfold := foldl_rebindPorts (p := p) (l := sortLsid r.counted) (fun x hx => hreb x (mem_sortLsid.mp hx))
    ((s.updCtx p fun c => c.written r).updTile p.die p.tile fun t => t.moveStreams p.ctx [])
  have hend : (List.foldl (fun t x => t.rebindPorts p x.op) ((s.updCtx p fun c => c.written r).updTile p.die p.tile fun t =>
      t.moveStreams p.ctx (((s.updCtx p fun c => c.written r).ctx p).popsOf r)) (sortLsid r.counted)) =
      (s.updCtx p fun c => c.written r).updTile p.die p.tile fun t => t.moveStreams p.ctx [] := by rw [hpops, hfold]
  rw [State.closing, ← hregion, ← hmoved, ← hend]
  rfl

theorem perform_nil {s : State} {p : Place} {r : Run} (hr : (s.ctx p).run = some r) (hp : (s.ctx p).ports = []) : s.perform p [] = s.commitEnd p := by
  rw [State.perform, hr]
  simp only [State.appends_of_ports hp, State.appendsReady]

/-! ### The start of a commit (R93) -/

/-- The block r has begun its commit, with the counted operations l still to be performed. -/
def State.begun (s : State) (p : Place) (r : Run) (l : List Counted) : State :=
  (s.updCtx p fun c => c.drawn r).updRun p fun r => { r with committing := true, rest := l }

theorem checkOps_eq_ready {s : State} {p : Place} : ∀ {l : List Counted}, (∀ x ∈ l, ∀ t : State, x.op.writes t = none) →
    s.checkOps p l false = .ready s
  | [], _ => rfl
  | x :: l, h => by
    rw [State.checkOps, h x (by simp)]
    exact checkOps_eq_ready fun y hy => h y (by simp [hy])

theorem complete_of_committable {s : State} {r : Run} {e : FiredExit} (h : Committable s r e) : r.complete = some e := by
  have hw : ((List.range r.nwr).all fun j => (r.tok (0x60 + j)).isSome || r.reserved.contains (0x60 + j)) = true := by
    simpa using h.written
  rw [Run.complete, h.exit]
  simp only [hw, h.received]
  simp

/-- A block whose conditions hold, and whose checks pass, begins its commit. -/
theorem execBlockCommit_begun {s : State} {r : Run} {e : FiredExit} (h : Committable s r e) (hp : (s.ctx s.focus).ports = [])
    (hras : s.rasFault s.focus ((s.ctx s.focus).afterMts s.focus.ctx r.counted) e.kind = none) (hops : ∀ x ∈ r.counted, ∀ t : State, x.op.writes t = none) :
    exec .blockCommit s = .next ((s.begun s.focus r (freeOnce [] (sortLsid r.counted))).perform s.focus (freeOnce [] (sortLsid r.counted))) := by
  have hcheck : s.checkBlock s.focus r e = .ready s := by
    rw [State.checkBlock, hras]
    simp only [checkOps_eq_ready fun x hx => hops x (mem_sortLsid.mp hx), State.appends_of_ports hp]
    rfl
  show execBlockCommit s = _
  rw [execBlockCommit]
  simp only [h.run, h.dispatching, h.kept, h.running, h.unfrozen, h.live, h.uncommitted, complete_of_committable h, hcheck]
  rfl

/-- A block that a check of its exit refuses faults at the exit. -/
theorem execBlockCommit_rasFault {s : State} {r : Run} {e : FiredExit} {c : Cause} {a : Word64} (h : Committable s r e)
    (hras : s.rasFault s.focus ((s.ctx s.focus).afterMts s.focus.ctx r.counted) e.kind = some (c, a)) :
    exec .blockCommit s = .next (s.faultAt s.focus (some e.index) c a 0#64) := by
  have hcheck : s.checkBlock s.focus r e = .stop (s.faultAt s.focus (some e.index) c a 0#64) := by rw [State.checkBlock, hras]
  show execBlockCommit s = _
  rw [execBlockCommit]
  simp only [h.run, h.dispatching, h.kept, h.running, h.unfrozen, h.live, h.uncommitted, complete_of_committable h, hcheck]
  rfl

/-! ### Blocks without counted operations -/

theorem Ctx.drawn_eq (c : Ctx) (r : Run) : ∃ x, c.drawn r = { c with srseed := x } ∧ (c.round ≠ 4 → x = c.srseed) := by
  unfold Ctx.drawn
  dsimp only
  split
  next h => exact ⟨c.srseed, rfl, fun _ => rfl⟩
  next h => exact ⟨_, rfl, fun h4 => absurd (.inl h4) h⟩

theorem State.ctx_begun (s : State) {p : Place} {r : Run} (l : List Counted) (hr : (s.ctx p).run = some r) :
    (s.begun p r l).ctx p = { (s.ctx p).drawn r with run := some { r with committing := true, rest := l } } := by
  obtain ⟨x, hx, -⟩ := (s.ctx p).drawn_eq r
  rw [State.begun, State.ctx_updRun, State.ctx_updCtx, hx]
  simp [hr]

theorem State.ctx_updCtx_ne (s : State) {p q : Place} (f : Ctx → Ctx) (hp : p.tile < 144) (hq : q.tile < 144) (h : q ≠ p) :
    (s.updCtx p f).ctx q = s.ctx q := State.ctx_setCtx_ne _ _ hp hq h

theorem State.ctx_begun_ne (s : State) {p q : Place} (r : Run) (l : List Counted) (hp : p.tile < 144) (hq : q.tile < 144) (h : q ≠ p) :
    (s.begun p r l).ctx q = s.ctx q := by
  rw [State.begun, State.updRun, State.ctx_updCtx_ne _ _ hp hq h, State.ctx_updCtx_ne _ _ hp hq h]

@[simp] theorem State.begun_mem (s : State) (p : Place) (r : Run) (l : List Counted) : (s.begun p r l).mem = s.mem := rfl

/-- The state in which the exit of a block without counted operations takes effect. -/
def State.beforeExit (s : State) (p : Place) (r : Run) : State :=
  (s.begun p r []).closing p { r with committing := true, rest := [] }

theorem State.beforeExit_mem (s : State) (p : Place) (r : Run) : (s.beforeExit p r).mem = s.mem := by
  rw [State.beforeExit, State.closing_mem, State.begun_mem]

theorem execBlockCommit_plain {s : State} {r : Run} {e : FiredExit} (h : Committable s r e) (hplain : Plain s r) (hc : r.counted = [])
    (hras : s.rasFault s.focus (s.ctx s.focus) e.kind = none) :
    exec .blockCommit s = .next (((s.beforeExit s.focus r).exitEffect s.focus r.size e).see s.focus) := by
  have hports := hplain.2.2
  have hctx := s.ctx_begun [] h.run
  obtain ⟨x, hx, -⟩ := (s.ctx s.focus).drawn_eq r
  rw [execBlockCommit_begun h hports (by rw [hc]; exact hras) (by rw [hc]; exact fun _ h => nomatch h), hc]
  show Host.Outcome.next ((s.begun s.focus r []).perform s.focus []) = _
  have hp' : ((s.begun s.focus r []).ctx s.focus).ports = [] := by rw [hctx, hx]; exact hports
  rw [perform_nil (congrArg Ctx.run hctx) hp', commitEnd_eq (e := e) (congrArg Ctx.run hctx) hp' (by rw [hc]; exact fun _ h => nomatch h) h.exit]
  rfl

/-- What the context is before its exit takes effect: its registers written, and its stochastic generator drawn from. -/
theorem State.ctx_beforeExit (s : State) {p : Place} {r : Run} (hr : (s.ctx p).run = some r) : ∃ c1 : Ctx,
    (s.beforeExit p r).ctx p = { s.ctx p with regs := c1.regs, reuse := c1.reuse, srseed := c1.srseed, run := c1.run } ∧
    c1 = ({ (s.ctx p).drawn r with run := some { r with committing := true, rest := [] } } : Ctx).written { r with committing := true, rest := [] } ∧
    ((s.ctx p).round ≠ 4 → c1.srseed = (s.ctx p).srseed) := by
  obtain ⟨x, hx, hround⟩ := (s.ctx p).drawn_eq r
  have hw := Ctx.sameButRegs_written ({ (s.ctx p).drawn r with run := some { r with committing := true, rest := [] } } : Ctx)
    { r with committing := true, rest := [] }
  refine ⟨_, ?_, rfl, fun h => ?_⟩
  · rw [State.beforeExit, State.ctx_closing, State.ctx_begun s [] hr, hw, hx]
  · rw [hw, hx]; exact hround h

theorem State.ctx_beforeExit_ne (s : State) {p q : Place} (r : Run) (hp : p.tile < 144) (hq : q.tile < 144) (h : q ≠ p) :
    (s.beforeExit p r).ctx q = s.ctx q := by
  rw [State.beforeExit, State.ctx_closing_ne _ _ hp hq h, State.ctx_begun_ne _ _ _ hp hq h]

theorem Place.tile_lt {p : Place} (h : p.ok = true) : p.tile < 144 := by
  simp only [Place.ok, decide_eq_true_eq] at h
  exact h.2.1

/-- Settles O23: the write entries, then the branch. -/
theorem commitRegisters : Obligations.CommitRegisters := by
  intro s r e b p c placed hcom hplain hcounted hkind hdist
  obtain ⟨c1, hctx, hc1, hround⟩ := s.ctx_beforeExit hcom.run
  have hports : ({ (s.ctx p).drawn r with run := some { r with committing := true, rest := [] } } : Ctx).ports = [] := by
    obtain ⟨x, hx, -⟩ := (s.ctx p).drawn_eq r
    rw [hx]; exact hplain.2.2
  have hexec := execBlockCommit_plain hcom hplain hcounted (by rw [hkind]; rfl)
  have heff : (s.beforeExit p r).exitEffect p r.size e = ((s.beforeExit p r).updCtx p fun c =>
      { c with lastExit := BitVec.ofNat 3 e.num, run := none, bkptSkip := false }).updCtx p fun c => { c with block := b } := by
    rw [State.exitEffect, hkind]
  have ht : (((s.beforeExit p r).exitEffect p r.size e).see p).ctx p = { s.ctx p with
      regs := c1.regs, reuse := c1.reuse, srseed := c1.srseed, lastExit := BitVec.ofNat 3 e.num, run := none, bkptSkip := false, block := b
      seen := ((s.beforeExit p r).exitEffect p r.size e).statusWords p } := by
    rw [State.see, State.ctx_updCtx, heff, State.ctx_updCtx, State.ctx_updCtx, hctx]
  refine ⟨_, hexec, ?_⟩
  rw [show s.focus = p from rfl, ht]
  refine ⟨rfl, rfl, rfl, hcom.running, fun j hj v hv => ?_, fun g hg => ?_, hround, rfl, rfl, rfl, rfl, rfl, rfl, rfl, rfl, rfl, rfl, rfl, rfl,
    rfl, rfl, rfl, rfl, rfl, ?_, fun q hq hne => ?_⟩
  · show c1.reg (r.wrReg j) = _
    rw [hc1]
    exact Ctx.reg_written (r := { r with committing := true, rest := [] }) hports hj hv fun i hi he => hdist i hi j hj he
  · show c1.reg g = _
    rw [hc1]
    refine (Ctx.reg_written_of_null (r := { r with committing := true, rest := [] }) hg).trans ?_
    obtain ⟨x, hx, -⟩ := (s.ctx p).drawn_eq r
    rw [hx]; rfl
  · rw [State.see_mem, heff, State.updCtx_mem, State.updCtx_mem, State.beforeExit_mem]
  · have hp := Place.tile_lt placed
    have hq := Place.tile_lt hq
    rw [State.see, State.ctx_updCtx_ne _ _ hp hq hne, heff, State.ctx_updCtx_ne _ _ hp hq hne, State.ctx_updCtx_ne _ _ hp hq hne,
      State.ctx_beforeExit_ne _ _ hp hq hne]
    exact sameRegisters_refl _

end Sys2Proof.Machine
end

section
/-! PROOFS of the exits' effects at the commit (06_block_engine.md R94 to R96, 07_be_control.md R105 to R111). -/

namespace Sys2Proof.Machine

open Sys2Proof.Safety

/-! ### The state in which an exit takes effect -/

/-- The block r of the context at p has left it by the exit e, whose effect on the context is still to come. -/
def State.exiting (s : State) (p : Place) (r : Run) (e : FiredExit) : State :=
  (s.beforeExit p r).updCtx p fun c => { c with lastExit := BitVec.ofNat 3 e.num, run := none, bkptSkip := false }

theorem State.ctx_exiting (s : State) {p : Place} {r : Run} (e : FiredExit) (hr : (s.ctx p).run = some r) : ∃ c1 : Ctx,
    (s.exiting p r e).ctx p = { s.ctx p with regs := c1.regs, reuse := c1.reuse, srseed := c1.srseed, lastExit := BitVec.ofNat 3 e.num
                                             run := none, bkptSkip := false } := by
  obtain ⟨c1, h, -⟩ := s.ctx_beforeExit hr
  exact ⟨c1, by rw [State.exiting, State.ctx_updCtx, h]⟩

@[simp] theorem State.exiting_mem (s : State) (p : Place) (r : Run) (e : FiredExit) : (s.exiting p r e).mem = s.mem := by
  rw [State.exiting, State.updCtx_mem, State.beforeExit_mem]

/-- A context written leaves the others of its tile. -/
theorem State.ctx_updCtx_sibling (s : State) (p : Place) (f : Ctx → Ctx) {n : Nat} (h : n ≠ p.ctx) :
    (s.updCtx p f).ctx { p with ctx := n } = s.ctx { p with ctx := n } := by
  simp only [State.ctx, State.tile_updCtx]
  exact look_put_ne _ _ _ h

theorem State.ctx_exiting_sibling (s : State) (p : Place) (r : Run) (e : FiredExit) {n : Nat} (h : n ≠ p.ctx) :
    (s.exiting p r e).ctx { p with ctx := n } = s.ctx { p with ctx := n } := by
  rw [State.exiting, State.ctx_updCtx_sibling _ _ _ h]
  show ((((s.begun p r []).updCtx p _).updTile p.die p.tile fun t => t.moveStreams p.ctx []).ctx { p with ctx := n }) = _
  rw [State.ctx_updTile _ _ _ (fun t => t.moveStreams p.ctx []) (fun _ => rfl), State.ctx_updCtx_sibling _ _ _ h, State.begun, State.updRun,
    State.ctx_updCtx_sibling _ _ _ h, State.ctx_updCtx_sibling _ _ _ h]

/-! ### Handlers end (R110, R111, 28_traps_preemption.md R356) -/

theorem Tile.ctxs_endSource (t : Tile) (x : Source) : (t.endSource x).ctxs = t.ctxs := by
  unfold Tile.endSource
  split
  · rfl
  · dsimp only
    split
    · rfl
    · split
      · rfl
      · split <;> rfl

theorem State.ctx_releaseAgs (s : State) (p q : Place) (hd : q.die = p.die) (ht : q.tile = p.tile) : ∃ ports,
    (s.releaseAgs p).ctx q = { s.ctx q with ports := ports } := by
  refine ⟨(s.ctx q).ports.filter fun b => !(((s.tile p.die p.tile).ag b.2).bound && ((s.tile p.die p.tile).ag b.2).owner == p.ctx), ?_⟩
  simp only [State.ctx, State.releaseAgs, hd, ht, State.tile_setTile]
  exact look_map ({} : Ctx) (fun (_ : Nat) (c : Ctx) => { c with ports := c.ports.filter fun b =>
    !(((s.tile p.die p.tile).ag b.2).bound && ((s.tile p.die p.tile).ag b.2).owner == p.ctx) }) (fun _ => rfl) _ _

/-- The end of a run makes its context IDLE. -/
theorem State.ctx_endRun (s : State) (p : Place) : ((s.endRun p).ctx p).phase = .idle ∧ ((s.endRun p).ctx p).run = none := by
  rw [State.endRun, State.idleHandler, State.ctx_updCtx]
  exact ⟨rfl, rfl⟩

/-- The end of a run leaves the other contexts of its tile, but ports of its generators. -/
theorem State.ctx_endRun_sibling (s : State) (p : Place) {n : Nat} (h : n ≠ p.ctx) : ∃ ports,
    (s.endRun p).ctx { p with ctx := n } = { s.ctx { p with ctx := n } with ports := ports } := by
  obtain ⟨ports, hports⟩ := s.ctx_releaseAgs p { p with ctx := n } rfl rfl
  refine ⟨ports, ?_⟩
  rw [State.endRun, State.idleHandler, State.ctx_updCtx_sibling _ _ _ h, State.ctx_updTile _ _ _ _ (fun t => Tile.ctxs_endSource t _), ← hports]
  rfl

theorem State.ctx_see (s : State) (p : Place) : ∃ seen, (s.see p).ctx p = { s.ctx p with seen := seen } :=
  ⟨_, State.ctx_updCtx ..⟩

@[simp] theorem State.die_see (s : State) (p : Place) (d : Nat) : (s.see p).die d = s.die d := rfl

theorem State.settleTrap_eq {s : State} {p : Place} (h : (s.ctx p).trapRun = false ∨ (s.ctx { p with ctx := (s.ctx p).fctx.toNat }).phase ≠ .faulted) :
    s.settleTrap p = s := by
  refine if_neg fun ⟨ht, _, hf⟩ => ?_
  rcases h with h | h
  · rw [h] at ht; cases ht
  · exact h hf

/-! ### Barriers (R107) -/

theorem State.beforeExit_cycle (s : State) (p : Place) (r : Run) : (s.beforeExit p r).cycle = s.cycle := rfl

theorem State.taskOn_updCtx (s : State) (p : Place) (f : Ctx → Ctx) : (s.updCtx p f).taskOn p = s.taskOn p := by
  rw [State.taskOn, State.tile_updCtx]; rfl

theorem State.taskOn_exiting (s : State) (p : Place) (r : Run) (e : FiredExit) : (s.exiting p r e).taskOn p = s.taskOn p := by
  have h (u : State) : (u.updTile p.die p.tile fun t => t.moveStreams p.ctx []).taskOn p = u.taskOn p := by
    rw [State.taskOn, State.tile_updTile]; rfl
  rw [State.exiting, State.taskOn_updCtx]
  show ((((s.begun p r []).updCtx p _).updTile p.die p.tile fun t => t.moveStreams p.ctx []).taskOn p) = _
  rw [h, State.taskOn_updCtx, State.begun, State.updRun, State.taskOn_updCtx, State.taskOn_updCtx]

theorem State.die_exiting (s : State) (p : Place) (r : Run) (e : FiredExit) : ∃ progress,
    (s.exiting p r e).die p.die = { s.die p.die with td := { (s.die p.die).td with progress := progress } } := by
  have h : (s.beforeExit p r).die p.die = { s.die p.die with td := { (s.die p.die).td with
      progress := put (s.die p.die).td.progress ((s.begun p r []).ctx p).region s.cycle } } := State.die_updDie ..
  exact ⟨_, h⟩

/-! ### Each exit -/

section Exits

variable {s : State} {r : Run} {e : FiredExit} {p : Place}

theorem exitEffect_call {b : BitVec 32} {n : Nat} (h : e.kind = .call b) : (s.beforeExit p r).exitEffect p n e =
    ((s.exiting p r e).rasPush p (((s.beforeExit p r).ctx p).block + BitVec.ofNat 32 (32 + 4 * n))).updCtx p fun c => { c with block := b } := by
  rw [State.exitEffect, h]; rfl

theorem exitEffect_ret {n : Nat} (h : e.kind = .ret) : (s.beforeExit p r).exitEffect p n e =
    ((s.exiting p r e).rasPop p).2.updCtx p fun c => { c with block := ((s.exiting p r e).rasPop p).1 } := by
  rw [State.exitEffect, h]; rfl

theorem exitEffect_texit {k n : Nat} (h : e.kind = .texit k) : (s.beforeExit p r).exitEffect p n e =
    (s.exiting p r e).updCtx p fun c => { c with phase := .draining, texit := k } := by
  rw [State.exitEffect, h]; rfl

theorem exitEffect_hret {n : Nat} (h : e.kind = .hret) : (s.beforeExit p r).exitEffect p n e = (s.exiting p r e).endHandler p := by
  rw [State.exitEffect, h]; rfl

theorem exitEffect_eret {n : Nat} (h : e.kind = .eret) : (s.beforeExit p r).exitEffect p n e =
    ((s.exiting p r e).resumeFaulted p).endHandler p := by
  rw [State.exitEffect, h]; rfl

/-- The context at p has arrived at barrier k of task n, its tile of that rank, and goes on with block b once it is released. -/
def State.arrived (s : State) (p : Place) (b : BitVec 32) (n k rank now : Nat) : State :=
  (((s.updCtx p fun c => { c with block := b }).updCtx p fun c => { c with barriers := k }).updTd p.die fun d =>
    { d with arrivals := d.arrivals ++ [(n, k, rank)] }).updCtx p fun c => { c with atBarrier := some (k, now) }

theorem State.ctx_arrived (s : State) (p : Place) (b : BitVec 32) (n k rank now : Nat) :
    (s.arrived p b n k rank now).ctx p = { s.ctx p with block := b, barriers := k, atBarrier := some (k, now) } := by
  rw [State.arrived, State.ctx_updCtx, State.updTd, State.ctx_updDie, State.ctx_updCtx, State.ctx_updCtx]

theorem State.arrivals_arrived (s : State) (p : Place) (b : BitVec 32) (n k rank now : Nat) :
    ((s.arrived p b n k rank now).die p.die).td.arrivals = (s.die p.die).td.arrivals ++ [(n, k, rank)] := by
  rw [State.arrived, State.die_updCtx, State.updTd, State.die_updDie]; rfl

/-- The barrier's arrival of several tiles, at the next block. -/
theorem exitEffect_barrier {b : BitVec 32} {n : Nat} {x : Rect} (h : e.kind = .barrier b)
    (hrect : ((s.exiting p r e).slot p.die (idSlot ((s.exiting p r e).taskOn p))).rect = some x)
    (hlive : 1 < ((s.exiting p r e).liveTiles p.die x).length) : (s.beforeExit p r).exitEffect p n e =
      (s.exiting p r e).arrived p b (idSlot ((s.exiting p r e).taskOn p)) (((s.exiting p r e).ctx p).barriers + 1) (x.rank p.tile)
        (s.beforeExit p r).cycle := by
  rw [State.exitEffect, h]
  simp only
  rw [show (s.beforeExit p r).updCtx p (fun c => { c with lastExit := BitVec.ofNat 3 e.num, run := none, bkptSkip := false }) =
    s.exiting p r e from rfl, hrect]
  exact if_neg (Nat.not_le.mpr hlive)

variable (hrun : (s.ctx p).run = some r)
include hrun

theorem call_spec {b : BitVec 32} {n : Nat} (hkind : e.kind = .call b) (hlen : (s.ctx p).ras.length < 16) :
    let t := ((s.beforeExit p r).exitEffect p n e).see p
    (t.ctx p).block = b ∧ (t.ctx p).ras = (s.ctx p).ras ++ [(s.ctx p).block + BitVec.ofNat 32 (32 + 4 * n)] ∧ t.mem = s.mem := by
  obtain ⟨c1, hctx⟩ := s.ctx_exiting e hrun
  obtain ⟨c2, hbefore, -⟩ := s.ctx_beforeExit hrun
  obtain ⟨w, hsee⟩ := ((s.beforeExit p r).exitEffect p n e).ctx_see p
  have hpush (a : BitVec 32) : (s.exiting p r e).rasPush p a = (s.exiting p r e).updCtx p fun c => { c with ras := c.ras ++ [a] } :=
    if_pos (by rw [hctx]; exact hlen)
  intro t
  rw [hsee, State.see_mem, exitEffect_call hkind, hpush, State.ctx_updCtx, State.ctx_updCtx, hctx, hbefore,
    State.updCtx_mem, State.updCtx_mem, State.exiting_mem]
  exact ⟨rfl, rfl, rfl⟩

theorem ret_spec {a : BitVec 32} {l : List (BitVec 32)} {n : Nat} (hkind : e.kind = .ret) (hras : (s.ctx p).ras = l ++ [a]) :
    let t := ((s.beforeExit p r).exitEffect p n e).see p
    (t.ctx p).block = a ∧ (t.ctx p).ras = l ∧ t.mem = s.mem := by
  obtain ⟨c1, hctx⟩ := s.ctx_exiting e hrun
  obtain ⟨w, hsee⟩ := ((s.beforeExit p r).exitEffect p n e).ctx_see p
  have hpop : (s.exiting p r e).rasPop p = (a, (s.exiting p r e).updCtx p fun c => { c with ras := l }) := by
    have hrev : ((s.exiting p r e).ctx p).ras.reverse = a :: l.reverse := by
      rw [hctx, hras]; simp
    rw [State.rasPop]
    simp only [hrev, List.reverse_reverse]
  intro t
  rw [hsee, State.see_mem, exitEffect_ret hkind, hpop, State.ctx_updCtx, State.ctx_updCtx, State.updCtx_mem, State.updCtx_mem, State.exiting_mem]
  exact ⟨rfl, rfl, rfl⟩

omit hrun in
theorem texit_spec {k n : Nat} (hkind : e.kind = .texit k) :
    let t := ((s.beforeExit p r).exitEffect p n e).see p
    (t.ctx p).phase = .draining ∧ (t.ctx p).texit = k ∧ t.mem = s.mem := by
  obtain ⟨w, hsee⟩ := ((s.beforeExit p r).exitEffect p n e).ctx_see p
  intro t
  rw [hsee, State.see_mem, exitEffect_texit hkind, State.ctx_updCtx, State.updCtx_mem, State.exiting_mem]
  exact ⟨rfl, rfl, rfl⟩

theorem hret_spec {n : Nat} (hkind : e.kind = .hret) (htrap : (s.ctx p).trapRun = false) :
    let t := ((s.beforeExit p r).exitEffect p n e).see p
    (t.ctx p).phase = .idle ∧ (t.ctx p).run = none ∧ t.mem = s.mem := by
  obtain ⟨c1, hctx⟩ := s.ctx_exiting e hrun
  obtain ⟨w, hsee⟩ := ((s.beforeExit p r).exitEffect p n e).ctx_see p
  have hsettle : (s.exiting p r e).settleTrap p = s.exiting p r e := State.settleTrap_eq (.inl (by rw [hctx]; exact htrap))
  obtain ⟨h1, h2⟩ := (s.exiting p r e).ctx_endRun p
  intro t
  rw [hsee, State.see_mem, exitEffect_hret hkind, State.endHandler, hsettle, State.endRun_mem, State.exiting_mem]
  exact ⟨h1, h2, rfl⟩

/-- The context q resumes from its fault at the block that the trap handler has named. -/
def Ctx.resumed (c : Ctx) (block : BitVec 32) (now : Nat) : Ctx :=
  { c with phase := .running, block := block, run := none, kind := none, fault := none
           atBarrier := if c.block = block then c.atBarrier.map fun b => (b.1, now) else none }

theorem resumeFaulted_eq (hfended : (s.ctx p).fended.contains (s.ctx p).fctx = false) (hne : (s.ctx p).fctx.toNat ≠ p.ctx)
    (hfaulted : (s.ctx { p with ctx := (s.ctx p).fctx.toNat }).phase = .faulted) : (s.exiting p r e).resumeFaulted p =
      (s.exiting p r e).updCtx { p with ctx := (s.ctx p).fctx.toNat } fun c => c.resumed (s.ctx p).fresume (s.exiting p r e).cycle := by
  obtain ⟨c1, hctx⟩ := s.ctx_exiting e hrun
  rw [State.resumeFaulted]
  simp only [hctx]
  exact if_pos ⟨by rw [s.ctx_exiting_sibling p r e hne]; exact hfaulted, hfended⟩

theorem eret_spec {n : Nat} (hkind : e.kind = .eret) (hfended : (s.ctx p).fended.contains (s.ctx p).fctx = false)
    (hne : (s.ctx p).fctx.toNat ≠ p.ctx) (hfaulted : (s.ctx { p with ctx := (s.ctx p).fctx.toNat }).phase = .faulted) :
    let q : Place := { p with ctx := (s.ctx p).fctx.toNat }
    let t := ((s.beforeExit p r).exitEffect p n e).see p
    (t.ctx p).phase = .idle ∧ (t.ctx q).phase = .running ∧ (t.ctx q).block = (s.ctx p).fresume ∧ (t.ctx q).regs = (s.ctx q).regs ∧ (t.ctx q).run = none := by
  intro q t
  obtain ⟨c1, hctx⟩ := s.ctx_exiting e hrun
  obtain ⟨w, hsee⟩ := ((s.beforeExit p r).exitEffect p n e).ctx_see p
  have hseeq : t.ctx q = ((s.beforeExit p r).exitEffect p n e).ctx q := State.ctx_updCtx_sibling _ _ _ hne
  have hresume := resumeFaulted_eq (e := e) hrun hfended hne hfaulted
  generalize hu : (s.exiting p r e).updCtx { p with ctx := (s.ctx p).fctx.toNat } (fun c => c.resumed (s.ctx p).fresume (s.exiting p r e).cycle) = u
    at hresume
  have hup : u.ctx p = (s.exiting p r e).ctx p := by
    rw [← hu]; exact (s.exiting p r e).ctx_updCtx_sibling q _ (n := p.ctx) (Ne.symm hne)
  have huq : u.ctx q = (s.ctx q).resumed (s.ctx p).fresume (s.exiting p r e).cycle := by
    rw [← hu, State.ctx_updCtx, s.ctx_exiting_sibling p r e hne]
  have hsettle : u.settleTrap p = u := State.settleTrap_eq (.inr (by
    rw [hup, hctx]
    show (u.ctx q).phase ≠ .faulted
    rw [huq]; exact fun h => nomatch h))
  obtain ⟨ports, hq⟩ := u.ctx_endRun_sibling p hne
  have hq : (u.endRun p).ctx q = { u.ctx q with ports := ports } := hq
  rw [hseeq, hsee, exitEffect_eret hkind, hresume, State.endHandler, hsettle, hq, huq]
  exact ⟨(u.ctx_endRun p).1, rfl, rfl, rfl, rfl⟩

theorem barrier_spec {b : BitVec 32} {n : Nat} {x : Rect} (hkind : e.kind = .barrier b)
    (hrect : (s.slot p.die (idSlot (s.taskOn p))).rect = some x) (hlive : 1 < (s.liveTiles p.die x).length) :
    let t := ((s.beforeExit p r).exitEffect p n e).see p
    (t.ctx p).block = b ∧ (t.ctx p).barriers = (s.ctx p).barriers + 1 ∧ (t.ctx p).atBarrier = some ((s.ctx p).barriers + 1, s.cycle) ∧
      (t.die p.die).td.arrivals = (s.die p.die).td.arrivals ++ [(idSlot (s.taskOn p), (s.ctx p).barriers + 1, x.rank p.tile)] := by
  obtain ⟨c1, hctx⟩ := s.ctx_exiting e hrun
  obtain ⟨w, hsee⟩ := ((s.beforeExit p r).exitEffect p n e).ctx_see p
  obtain ⟨progress, hdie⟩ := s.die_exiting p r e
  have hslot : ((s.exiting p r e).slot p.die (idSlot ((s.exiting p r e).taskOn p))).rect = some x := by
    rw [State.taskOn_exiting, State.slot, hdie]; exact hrect
  have htiles : 1 < ((s.exiting p r e).liveTiles p.die x).length := by
    rw [State.liveTiles]
    simp only [State.defective, hdie]
    exact hlive
  have hbar : ((s.exiting p r e).ctx p).barriers = (s.ctx p).barriers := by rw [hctx]
  intro t
  have heff := exitEffect_barrier (n := n) hkind hslot htiles
  rw [State.taskOn_exiting, hbar, State.beforeExit_cycle] at heff
  rw [hsee, State.die_see, heff, State.ctx_arrived, State.arrivals_arrived, hdie, hctx]
  exact ⟨rfl, rfl, rfl, rfl⟩

end Exits

section RasFault

variable (s : State) (p : Place) (c : Ctx)

theorem rasFault_call (b : BitVec 32) (h : c.ras.length < 16) : s.rasFault p c (.call b) = none := if_pos h

theorem rasFault_ret_none {l : List (BitVec 32)} {a : BitVec 32} (h : c.ras = l ++ [a]) : s.rasFault p c .ret = none :=
  (if_neg (show ¬c.ras.length + c.spilled = 0 by simp [h])).trans (if_pos (show c.ras ≠ [] by simp [h]))

theorem rasFault_ret_empty (h : c.ras = []) (h0 : c.spilled = 0) : s.rasFault p c .ret = some (.rasUnderflow, 0#64) :=
  if_pos (show c.ras.length + c.spilled = 0 by simp [h, h0])

/-- The exits that neither push nor pop. -/
theorem rasFault_other (k : ExitKind) (h1 : ∀ b, k ≠ .call b) (h2 : k ≠ .ret) : s.rasFault p c k = none := by
  cases k with
  | call b => exact absurd rfl (h1 b)
  | ret => exact absurd rfl h2
  | _ => rfl

end RasFault

/-- Settles O25: each exit, in the state that the end of the block leaves. -/
theorem exitEffects : Obligations.ExitEffects := by
  intro s r e p c hcom hplain hcounted hnwr
  have hexec (h : s.rasFault p c e.kind = none) : exec .blockCommit s = .next (((s.beforeExit p r).exitEffect p r.size e).see p) :=
    execBlockCommit_plain hcom hplain hcounted h
  have hother {k : ExitKind} (hk : e.kind = k) (h1 : ∀ b, k ≠ .call b) (h2 : k ≠ .ret) : s.rasFault p c e.kind = none :=
    hk ▸ rasFault_other s p c k h1 h2
  have hrun : (s.ctx p).run = some r := hcom.run
  refine ⟨fun b hk hlen => ?_, fun a l hk hras => ?_, fun hk hras hspilled => ?_, fun n hk => ?_, fun hk htrap => ?_, fun hk _ hfended hne => ?_,
    fun b x hk hrect hlive => ?_⟩
  · exact ⟨_, hexec (hk ▸ rasFault_call s p c b hlen), call_spec hrun hk hlen⟩
  · exact ⟨_, hexec (hk ▸ rasFault_ret_none s p c hras), ret_spec hrun hk hras⟩
  · refine execBlockCommit_rasFault hcom ?_
    rw [hcounted, hk]
    exact rasFault_ret_empty s p c hras hspilled
  · exact ⟨_, hexec (hother hk (fun _ => nofun) nofun), texit_spec hk⟩
  · exact ⟨_, hexec (hother hk (fun _ => nofun) nofun), hret_spec hrun hk htrap⟩
  · intro q hf
    exact ⟨_, hexec (hother hk (fun _ => nofun) nofun), eret_spec hrun hk hfended hne hf⟩
  · exact ⟨_, hexec (hother hk (fun _ => nofun) nofun), barrier_spec hrun hk hrect hlive⟩

end Sys2Proof.Machine
end

section
/-! PROOFS of the counted operations that a commit performs (06_block_engine.md R94, R99, 10_be_local_memory.md R155 to R161). -/

namespace Sys2Proof.Machine

open Sys2Proof.Safety

/-! ### Memory -/

theorem sameOutside_refl (m : List Host.Cell) (l : List (Nat × Nat)) : SameOutside m m l := fun _ _ => rfl

theorem SameOutside.append {m m' m'' : List Host.Cell} {a b : List (Nat × Nat)} (h : SameOutside m m' a) (g : SameOutside m' m'' b) :
    SameOutside m m'' (a ++ b) := fun k hk =>
  (g k fun r hr => hk r (by simp [hr])).trans (h k fun r hr => hk r (by simp [hr]))

theorem SameOutside.mono {m m' : List Host.Cell} {a b : List (Nat × Nat)} (h : SameOutside m m' a) (hab : ∀ r ∈ a, r ∈ b) : SameOutside m m' b :=
  fun k hk => h k fun r hr => hk r (hab r hr)

theorem sameOutside_writeN (m : List Host.Cell) (k : Nat) (bs : List Byte) : SameOutside m (Memory.writeN m k bs) [(k, bs.length)] :=
  fun j hj => Memory.read_writeN_out bs m k j (hj (k, bs.length) (by simp))

theorem holds_writeN (m : List Host.Cell) (k : Nat) (bs : List Byte) : Holds (Memory.writeN m k bs) k bs :=
  fun j hj => Memory.read_writeN_in bs m k j hj

/-! ### What a local operation leaves -/

/-- What a local operation of the context at p leaves: its ports, and its block but for tokens that it sends. -/
structure KeepsRun (p : Place) (s t : State) : Prop where
  focus : t.focus = s.focus
  ports : (t.ctx p).ports = (s.ctx p).ports
  run : ∃ toks, (t.ctx p).run = (s.ctx p).run.map fun r => { r with tokens := r.tokens ++ toks }

section Keeps

variable {p : Place} {s t u : State}

theorem KeepsRun.of_ctx (hf : t.focus = s.focus) (h : t.ctx p = s.ctx p) : KeepsRun p s t :=
  ⟨hf, by rw [h], [], by rw [h]; cases (s.ctx p).run <;> simp⟩

theorem KeepsRun.trans (h : KeepsRun p s t) (g : KeepsRun p t u) : KeepsRun p s u := by
  obtain ⟨hf, hp, x, hx⟩ := h
  obtain ⟨gf, gp, y, hy⟩ := g
  refine ⟨gf.trans hf, gp.trans hp, x ++ y, ?_⟩
  rw [hy, hx]
  cases (s.ctx p).run <;> simp

theorem keepsRun_setEntry (s : State) (p : Place) (dst : BitVec 7) (v : Reg) : KeepsRun p s (s.setEntry p dst v) := by
  unfold State.setEntry
  split
  · exact .of_ctx rfl rfl
  · exact ⟨rfl, by simp, _, by rw [State.ctx_updRun]⟩

theorem mem_setEntry (s : State) (p : Place) (dst : BitVec 7) (v : Reg) : (s.setEntry p dst v).mem = s.mem := by
  unfold State.setEntry
  split <;> rfl

theorem keepsRun_amoLs (s : State) (p : Place) (a n : Nat) (f : Nat → Option Nat) (dst : BitVec 7) : KeepsRun p s (s.amoLs p a n f dst) ∧
    SameOutside s.mem (s.amoLs p a n f dst).mem [(lsKey p.die p.tile a, n)] := by
  unfold State.amoLs
  split
  · exact ⟨KeepsRun.trans (t := s.report p) (.of_ctx rfl rfl) (keepsRun_setEntry (s.report p) p dst _), by rw [mem_setEntry]; exact sameOutside_refl _ _⟩
  · dsimp only
    rw [mem_setEntry]
    split
    next v _ =>
      have hlen : (leBytes n v).length = n := by rw [leBytes_eq_map]; simp
      refine ⟨KeepsRun.trans (t := s.writeLs p a (leBytes n v)) (.of_ctx rfl rfl) (keepsRun_setEntry _ p dst _), ?_⟩
      have := sameOutside_writeN s.mem (lsKey p.die p.tile a) (leBytes n v)
      rw [hlen] at this
      exact this
    · exact ⟨keepsRun_setEntry s p dst _, sameOutside_refl _ _⟩

theorem keepsRun_scatter (p : Place) : ∀ (l : List (Nat × List Byte)) (s : State), KeepsRun p s (l.foldl (fun s b => s.writeLs p b.1 b.2) s) ∧
    SameOutside s.mem (l.foldl (fun s b => s.writeLs p b.1 b.2) s).mem (l.map fun x => (lsKey p.die p.tile x.1, x.2.length))
  | [], s => ⟨.of_ctx rfl rfl, sameOutside_refl _ _⟩
  | b :: l, s => by
    obtain ⟨h1, h2⟩ := keepsRun_scatter p l (s.writeLs p b.1 b.2)
    have h3 : SameOutside s.mem (s.writeLs p b.1 b.2).mem [(lsKey p.die p.tile b.1, b.2.length)] := sameOutside_writeN _ _ _
    exact ⟨KeepsRun.trans (t := s.writeLs p b.1 b.2) (.of_ctx rfl rfl) h1, SameOutside.append h3 h2⟩

theorem keeps_ite {q : Prop} [Decidable q] {c a b : Ctx} (ha : a.ports = c.ports ∧ a.run = c.run) (hb : b.ports = c.ports ∧ b.run = c.run) :
    (if q then a else b).ports = c.ports ∧ (if q then a else b).run = c.run := by
  split
  · exact ha
  · exact hb

theorem setSreg_keeps (c : Ctx) (k n : Nat) (v : Word64) : (c.setSreg k n v).ports = c.ports ∧ (c.setSreg k n v).run = c.run :=
  have h {d : Ctx} (hp : d.ports = c.ports := by rfl) (hr : d.run = c.run := by rfl) : d.ports = c.ports ∧ d.run = c.run := ⟨hp, hr⟩
  keeps_ite h (keeps_ite h (keeps_ite h (keeps_ite h (keeps_ite h (keeps_ite h (keeps_ite h (keeps_ite h (keeps_ite (keeps_ite h h) (keeps_ite h h)))))))))

theorem keepsRun_mts (s : State) (p : Place) (n : Nat) (v : Word64) : KeepsRun p s (s.updCtx p fun c => c.setSreg p.ctx n v) := by
  obtain ⟨h1, h2⟩ := setSreg_keeps (s.ctx p) p.ctx n v
  refine ⟨rfl, ?_, [], ?_⟩
  · rw [State.ctx_updCtx, h1]
  · rw [State.ctx_updCtx, h2]
    cases (s.ctx p).run <;> simp

end Keeps

theorem performOne_amoLocal (s : State) (p : Place) (a n op : Nat) (b : Word64) (dst : BitVec 7) : s.performOne p (.amoLocal a n op b dst) =
    (true, s.amoLs p a n (fun old => some (amoValue op n old b.toNat)) dst) := rfl

/-- A local operation is performed at once, and stores where it says. -/
theorem performOne_local (s : State) {x : CommitOp} (h : isLocal x = true) : (s.performOne s.focus x).1 = true ∧
    KeepsRun s.focus s (s.performOne s.focus x).2 ∧ SameOutside s.mem (s.performOne s.focus x).2.mem (localStores s x) := by
  cases x with
  | idle o => cases o with
    | none => exact ⟨rfl, .of_ctx rfl rfl, sameOutside_refl _ _⟩
    | some e => cases h
  | storeLocal a bs => exact ⟨rfl, .of_ctx rfl rfl, sameOutside_writeN _ _ _⟩
  | scatterLocal l => exact ⟨rfl, keepsRun_scatter s.focus l s⟩
  | amoLocal a n op b dst => rw [performOne_amoLocal]; exact ⟨rfl, keepsRun_amoLs s s.focus a n (fun old => some (amoValue op n old b.toNat)) dst⟩
  | casLocal a n e v dst => exact ⟨rfl, keepsRun_amoLs ..⟩
  | land k =>
    exact ⟨rfl, .of_ctx rfl (State.ctx_updTile _ _ _ (fun t => t.setLb k { t.lb k with full := false }) (fun _ => rfl) _), sameOutside_refl _ _⟩
  | mts n v => exact ⟨rfl, keepsRun_mts s s.focus n v, sameOutside_refl _ _⟩
  | _ => cases h

theorem localStores_of_focus {s t : State} (h : t.focus = s.focus) (x : CommitOp) : localStores t x = localStores s x := by
  unfold localStores
  rw [h]

/-! ### The counted operations in their order -/

/-- The block r, which has fired the exit e, asks for nothing that hubs or streams hold, and is in its commit. -/
structure Performing (s : State) (e : FiredExit) (l : List Counted) (r : Run) : Prop where
  run : (s.ctx s.focus).run = some r
  ports : (s.ctx s.focus).ports = []
  exit : r.exits = [e]
  counted : r.counted = l
  provs : r.provs = []
  kept : r.cut = false

/-- The state once the operations of a list have been performed, none of which waits. -/
def State.performed (s : State) (p : Place) : List Counted → State
  | [] => s
  | x :: l => ((s.performOne p x.op).2.updRun p fun r => { r with rest := l }).performed p l

theorem confirmAt_eq {s : State} {p : Place} {r : Run} (hr : (s.ctx p).run = some r) (h : r.provs = []) (i : Nat) : s.confirmAt p i = s := by
  rw [State.confirmAt, hr]
  simp [h]

theorem Performing.step {s t : State} {e : FiredExit} {l : List Counted} {r : Run} (h : Performing s e l r) (k : KeepsRun s.focus s t) :
    ∃ r', Performing t e l r' := by
  obtain ⟨toks, hrun⟩ := k.run
  rw [h.run] at hrun
  exact ⟨{ r with tokens := r.tokens ++ toks }, by rw [k.focus]; exact hrun, by rw [k.focus, k.ports]; exact h.ports, h.exit, h.counted, h.provs, h.kept⟩

/-- The operations of a list that never waits are performed, and the commit ends. -/
theorem perform_local {e : FiredExit} {c : List Counted} : ∀ {l : List Counted} {s : State} {r : Run}, Performing s e c r → (∀ x ∈ l, isLocal x.op = true) →
    s.perform s.focus l = (s.performed s.focus l).commitEnd s.focus ∧ (∃ r', Performing (s.performed s.focus l) e c r') ∧
      (s.performed s.focus l).focus = s.focus ∧ SameOutside s.mem (s.performed s.focus l).mem (l.flatMap fun x => localStores s x.op)
  | [], s, r, h, _ => ⟨perform_nil h.run h.ports, ⟨r, h⟩, rfl, sameOutside_refl _ _⟩
  | x :: l, s, r, h, hl => by
    obtain ⟨hdone, hkeeps, hmem⟩ := performOne_local s (hl x (by simp))
    obtain ⟨r1, h1⟩ := h.step hkeeps
    have hfocus := hkeeps.focus
    generalize hp : s.performOne s.focus x.op = q at hdone hkeeps hmem h1 hfocus
    obtain ⟨done, t⟩ := q
    cases hdone
    have hrun : (t.ctx s.focus).run = some r1 := hfocus ▸ h1.run
    have h2 : Performing (t.updRun s.focus fun r => { r with rest := l }) e c { r1 with rest := l } := by
      rw [← hfocus]
      exact ⟨by rw [State.updRun_focus, State.ctx_updRun, h1.run]; rfl, by rw [State.updRun_focus, State.ctx_updRun]; exact h1.ports, h1.exit, h1.counted,
        h1.provs, h1.kept⟩
    obtain ⟨ih1, ih2, ih3, ih4⟩ := perform_local (l := l) h2 fun y hy => hl y (by simp [hy])
    have hf : (t.updRun s.focus fun r => { r with rest := l }).focus = s.focus := hfocus
    rw [hf] at ih1 ih2 ih3 ih4
    have hper : s.performed s.focus (x :: l) = (t.updRun s.focus fun r => { r with rest := l }).performed s.focus l := by
      rw [State.performed, hp]
    have hstores : l.flatMap (fun x => localStores (t.updRun s.focus fun r => { r with rest := l }) x.op) = l.flatMap fun x => localStores s x.op :=
      congrArg l.flatMap (funext fun x => localStores_of_focus hf x.op)
    rw [hper]
    refine ⟨?_, ih2, ih3, ?_⟩
    · rw [State.perform, h.run]
      simp only [Option.any_some, h.kept, hp]
      show ((t.confirmAt s.focus x.index).updRun s.focus fun r => { r with rest := l }).perform s.focus l = _
      rw [confirmAt_eq hrun h1.provs]
      exact ih1
    · rw [List.flatMap_cons, ← hstores]
      exact SameOutside.append hmem ih4

/-! ### A block whose counted operations are local -/

/-- An entry that an earlier `LAND` freed is not freed again; every other operation stays. -/
theorem mem_freeOnce {y : Counted} : ∀ {l : List Counted} {freed : List Nat}, y ∈ freeOnce freed l → y.op = .idle none ∨ y ∈ l
  | [], _, h => nomatch h
  | x :: l, freed, h => by
    rw [freeOnce] at h
    split at h
    · rcases List.mem_cons.mp h with rfl | h
      · split <;> simp
      · exact (mem_freeOnce h).imp id (List.mem_cons_of_mem x)
    · rcases List.mem_cons.mp h with rfl | h
      · simp
      · exact (mem_freeOnce h).imp id (List.mem_cons_of_mem x)

theorem rebindPorts_local {x : CommitOp} (h : isLocal x = true) (p : Place) (t : State) : t.rebindPorts p x = t := by
  cases x with
  | cmd e c => cases h
  | _ => rfl

theorem writes_local {x : CommitOp} (h : isLocal x = true) (t : State) : x.writes t = none := by
  cases x with
  | storeTensor | amoTensor | casTensor | vamot => cases h
  | _ => rfl

/-- The counted operations of the block r in their order. -/
def Run.order (r : Run) : List Counted := freeOnce [] (sortLsid r.counted)

theorem local_of_mem_order {r : Run} (h : ∀ x ∈ r.counted, isLocal x.op = true) {x : Counted} (hx : x ∈ r.order) : isLocal x.op = true := by
  rcases mem_freeOnce hx with h0 | h0
  · rw [h0]; rfl
  · exact h x (mem_sortLsid.mp h0)

theorem localStores_order (s : State) (r : Run) {k : Nat × Nat} (hk : k ∈ r.order.flatMap fun x => localStores s x.op) :
    k ∈ r.counted.flatMap fun x => localStores s x.op := by
  obtain ⟨x, hx, hkx⟩ := List.mem_flatMap.mp hk
  rcases mem_freeOnce hx with h0 | h0
  · rw [h0] at hkx; cases hkx
  · exact List.mem_flatMap.mpr ⟨x, mem_sortLsid.mp h0, hkx⟩

/-- The state once the counted operations of the block r have been performed. -/
def State.counted (s : State) (p : Place) (r : Run) : State := (s.begun p r r.order).performed p r.order

/-- A block whose counted operations are local performs them and leaves by its exit. -/
theorem execBlockCommit_local {s : State} {r : Run} {e : FiredExit} {b : BitVec 32} (h : Committable s r e) (hplain : Plain s r)
    (hk : e.kind = .branch b) (hl : ∀ x ∈ r.counted, isLocal x.op = true) : ∃ r', Performing (s.counted s.focus r) e r.counted r' ∧
    (s.counted s.focus r).focus = s.focus ∧ SameOutside s.mem (s.counted s.focus r).mem (r.counted.flatMap fun x => localStores s x.op) ∧
    exec .blockCommit s = .next ((((s.counted s.focus r).closing s.focus r').exitEffect s.focus r'.size e).see s.focus) := by
  obtain ⟨hprovs, -, hports⟩ := hplain
  obtain ⟨x, hx, -⟩ := (s.ctx s.focus).drawn_eq r
  have hctx := s.ctx_begun r.order h.run
  have hstart : Performing (s.begun s.focus r r.order) e r.counted { r with committing := true, rest := r.order } :=
    ⟨congrArg Ctx.run hctx, (congrArg Ctx.ports hctx).trans (by rw [hx]; exact hports), h.exit, rfl, hprovs, h.kept⟩
  obtain ⟨hperform, ⟨r', hend⟩, hfocus, hmem⟩ := perform_local hstart fun x hx => local_of_mem_order hl hx
  have hf : (s.begun s.focus r r.order).focus = s.focus := rfl
  rw [hf] at hperform hend hfocus hmem
  have hcounted : (s.begun s.focus r r.order).performed s.focus r.order = s.counted s.focus r := rfl
  rw [hcounted] at hperform hend hfocus hmem
  refine ⟨r', hend, hfocus, SameOutside.mono hmem fun k hk => localStores_order s r ?_, ?_⟩
  · have hstores : (fun x : Counted => localStores (s.begun s.focus r r.order) x.op) = fun x => localStores s x.op :=
      funext fun x => localStores_of_focus hf x.op
    rw [← hstores]
    exact hk
  · have hrun := hend.run
    have hp := hend.ports
    rw [hfocus] at hrun hp
    rw [execBlockCommit_begun h hports (by rw [hk]; rfl) fun x hx => writes_local (hl x hx)]
    refine congrArg _ (hperform.trans (commitEnd_eq hrun hp (fun x hx => rebindPorts_local (hl x ?_) s.focus) hend.exit))
    rw [← hend.counted]
    exact hx

/-- What a branch leaves of the context. -/
theorem ctx_branched {s : State} {p : Place} {n : Nat} {e : FiredExit} {b : BitVec 32} (hk : e.kind = .branch b) :
    ((s.exitEffect p n e).see p).ctx p = { s.ctx p with
      lastExit := BitVec.ofNat 3 e.num, run := none, bkptSkip := false, block := b, seen := (s.exitEffect p n e).statusWords p } := by
  have heff : s.exitEffect p n e = (s.updCtx p fun c => { c with lastExit := BitVec.ofNat 3 e.num, run := none, bkptSkip := false }).updCtx p fun c =>
      { c with block := b } := by rw [State.exitEffect, hk]
  rw [State.see, State.ctx_updCtx, heff, State.ctx_updCtx, State.ctx_updCtx]

theorem mem_branched {s : State} {p : Place} {n : Nat} {e : FiredExit} {b : BitVec 32} (hk : e.kind = .branch b) :
    ((s.exitEffect p n e).see p).mem = s.mem := by
  rw [State.see_mem, State.exitEffect, hk]
  rfl

theorem lb_updCtx (s : State) (p : Place) (f : Ctx → Ctx) (n : Nat) : ((s.updCtx p f).tile p.die p.tile).lb n = (s.tile p.die p.tile).lb n := by
  rw [State.tile_updCtx]
  rfl

theorem lb_branched {s : State} {p : Place} {r : Run} {n k : Nat} {e : FiredExit} {b : BitVec 32} (hk : e.kind = .branch b) :
    (((((s.closing p r).exitEffect p n e).see p)).tile p.die p.tile).lb k = (s.tile p.die p.tile).lb k := by
  have hclosing : ((s.closing p r).tile p.die p.tile).lb k = (s.tile p.die p.tile).lb k := by
    show (((s.updCtx p fun c => c.written r).updTile p.die p.tile fun t => t.moveStreams p.ctx []).tile p.die p.tile).lb k = _
    rw [State.tile_updTile]
    exact lb_updCtx s p _ k
  rw [State.see, lb_updCtx, State.exitEffect, hk]
  rw [lb_updCtx, lb_updCtx, hclosing]

/-! ### One counted operation (R94) -/

theorem readN_of_holds {m : List Host.Cell} : ∀ {bs : List Byte} {k : Nat}, Holds m k bs → Memory.readN m k bs.length = bs
  | [], _, _ => rfl
  | b :: bs, k, h => by
    have h0 := h 0 (by simp)
    have ht : Holds m (k + 1) bs := fun j hj => by
      have := h (j + 1) (by simpa using hj)
      rwa [Nat.add_assoc, Nat.add_comm 1 j]
    show Memory.read m k :: Memory.readN m (k + 1) bs.length = _
    rw [readN_of_holds ht]
    simpa using h0

theorem readLs_of_mem {s t : State} (h : t.mem = s.mem) (p : Place) (a n : Nat) : t.readLs p a n = s.readLs p a n :=
  congrArg (Memory.readN · _ n) h

theorem leNat_readLs_writeLs (s : State) (p : Place) (a n v : Nat) : leNat ((s.writeLs p a (leBytes n v)).readLs p a n) = v % 2 ^ (8 * n) := by
  have hlen : (leBytes n v).length = n := by rw [leBytes_eq_map]; simp
  have := readN_of_holds (holds_writeN s.mem (lsKey p.die p.tile a) (leBytes n v))
  rw [hlen] at this
  show leNat (Memory.readN (Memory.writeN s.mem (lsKey p.die p.tile a) (leBytes n v)) (lsKey p.die p.tile a) n) = _
  rw [this, leNat_leBytes, Nat.pow_mul]

section Atomic

variable {s : State} {p : Place} {a n : Nat} {dst : BitVec 7} (hbad : s.badAt (lsKey p.die p.tile a) n = false)
include hbad

theorem amoLs_of_some {f : Nat → Option Nat} {v : Nat} (hf : f (leNat (s.readLs p a n)) = some v) : s.amoLs p a n f dst =
    (s.writeLs p a (leBytes n v)).setEntry p dst (amoResult n (leNat (s.readLs p a n))) := by
  rw [State.amoLs, hbad]
  simp only [hf]
  rfl

theorem amoLs_of_none {f : Nat → Option Nat} (hf : f (leNat (s.readLs p a n)) = none) : s.amoLs p a n f dst =
    s.setEntry p dst (amoResult n (leNat (s.readLs p a n))) := by
  rw [State.amoLs, hbad]
  simp only [hf]
  rfl

theorem readLs_amoLs_of_some {f : Nat → Option Nat} {v : Nat} (hf : f (leNat (s.readLs p a n)) = some v) :
    leNat ((s.amoLs p a n f dst).readLs p a n) = v % 2 ^ (8 * n) := by
  rw [amoLs_of_some hbad hf, readLs_of_mem (mem_setEntry ..), leNat_readLs_writeLs]

theorem readLs_amoLs_of_none {f : Nat → Option Nat} (hf : f (leNat (s.readLs p a n)) = none) :
    leNat ((s.amoLs p a n f dst).readLs p a n) = leNat (s.readLs p a n) := by
  rw [amoLs_of_none hbad hf, readLs_of_mem (mem_setEntry ..)]

theorem run_amoLs_of_some {f : Nat → Option Nat} {v : Nat} (hf : f (leNat (s.readLs p a n)) = some v) (hd : dst ≠ 0x7F#7) {r : Run}
    (hr : (s.ctx p).run = some r) : ((s.amoLs p a n f dst).ctx p).run =
    some { r with tokens := r.tokens ++ [(dst.toNat, .val (amoResult n (leNat (s.readLs p a n))))] } := by
  rw [amoLs_of_some hbad hf, State.setEntry, if_neg hd, State.ctx_updRun]
  show (((s.writeLs p a (leBytes n v)).ctx p).run.map _) = _
  rw [show (s.writeLs p a (leBytes n v)).ctx p = s.ctx p from rfl, hr]
  rfl

end Atomic

theorem readLs_casLocal {s : State} {p : Place} {a n : Nat} {ex v : Word64} {dst : BitVec 7} (hbad : s.badAt (lsKey p.die p.tile a) n = false) :
    leNat ((s.amoLs p a n (casWrite n ex v) dst).readLs p a n) =
      if leNat (s.readLs p a n) = ex.toNat % 2 ^ (8 * n) then v.toNat % 2 ^ (8 * n) else leNat (s.readLs p a n) := by
  split
  next h => rw [readLs_amoLs_of_some hbad (v := v.toNat % 2 ^ (8 * n)) (by rw [casWrite, if_pos h]), Nat.mod_mod]
  next h => rw [readLs_amoLs_of_none hbad (by rw [casWrite, if_neg h])]

theorem performOne_fence (s : State) (p : Place) (e : BitVec 3) (o sc : Nat) : (s.performOne p (.fence e o sc)).1 = true ↔
    ∀ g : Engine, e.getLsbD g.num = true → (s.ctx p).issue.get g ≤ (s.ctx p).done.get g := by
  show ((engines e).all fun e => decide ((s.ctx p).issue.get e ≤ (s.ctx p).done.get e)) = true ↔ _
  simp only [List.all_eq_true, decide_eq_true_eq, mem_engines]

theorem cgs_csetg {s : State} {p : Place} {n a : Nat} (h : s.badAt (lsKey p.die p.tile a) 64 = false) :
    look 0#512 ((s.performOne p (.cmd none (.csetg n a))).2.tile p.die p.tile).cgs n = BitVec.ofNat 512 (leNat (s.readLs p a 64)) := by
  show look 0#512 ((if s.badAt (lsKey p.die p.tile a) 64 then s.report p else s.updTile p.die p.tile fun t =>
    { t with cgs := put t.cgs n (BitVec.ofNat 512 (leNat (s.readLs p a 64))) }).tile p.die p.tile).cgs n = _
  rw [h, if_neg Bool.false_ne_true, State.tile_updTile, look_put]

theorem full_land (s : State) (p : Place) (k : Nat) :
    (((s.updTile p.die p.tile fun t => t.setLb k { t.lb k with full := false }).tile p.die p.tile).lb k).full = false := by
  rw [State.tile_updTile, Tile.lb, Tile.setLb, look_put]

theorem round_setSreg (c : Ctx) (k : Nat) (v : Word64) : (c.setSreg k 0x010 v).round = if v.toNat % 8 < 5 then v.toNat % 8 else 0 := by
  rw [Ctx.setSreg, if_pos rfl]
  simp only [fldN, Nat.pow_zero, Nat.div_one]
  rfl

/-- Settles O24: the counted operations in their order, and what each of them does. -/
theorem commitOperations : Obligations.CommitOperations := by
  refine ⟨fun s r e b hcom hplain hk hl => ?_, fun s p => ⟨?_, ?_, ?_, ?_, ?_, ?_, ?_, ?_⟩⟩
  · obtain ⟨r', hend, hfocus, hmem, hexec⟩ := execBlockCommit_local hcom hplain hk hl
    have hctx := ctx_branched (s := (s.counted s.focus r).closing s.focus r') (p := s.focus) (n := r'.size) hk
    have hm : ((((s.counted s.focus r).closing s.focus r').exitEffect s.focus r'.size e).see s.focus).mem = (s.counted s.focus r).mem := mem_branched hk
    refine ⟨_, hexec, congrArg Ctx.run hctx, congrArg Ctx.block hctx, by rw [hm]; exact hmem, ?_, ?_, ?_, ?_⟩
    · intro l k a bs hc
      have horder : r.order = [⟨l, k, .storeLocal a bs⟩] := by rw [Run.order, hc]; rfl
      rw [hm, State.counted, horder]
      exact holds_writeN _ _ _
    · intro l m k j a xs ys hlt hlen hc
      have horder : r.order = [⟨l, j, .storeLocal a xs⟩, ⟨m, k, .storeLocal a ys⟩] := by
        rw [Run.order, hc]
        simp [sortLsid, insertLsid, freeOnce, Nat.not_le.mpr hlt]
      rw [hm, State.counted, horder]
      exact holds_writeN _ _ _
    · intro l k n v hc hn
      have horder : r.order = [⟨l, k, .mts n v⟩] := by rw [Run.order, hc]; rfl
      rw [hctx]
      show (((s.counted s.focus r).closing s.focus r').ctx s.focus).round = _
      rw [State.ctx_closing, Ctx.sameButRegs_written, State.counted, horder]
      show ((((s.begun s.focus r [⟨l, k, .mts n v⟩]).updCtx s.focus fun c => c.setSreg s.focus.ctx n v).updRun s.focus fun r =>
        { r with rest := [] }).ctx s.focus).round = _
      rw [State.ctx_updRun, State.ctx_updCtx, hn]
      exact round_setSreg ((s.begun s.focus r [⟨l, k, .mts n v⟩]).ctx s.focus) s.focus.ctx v
    · intro l k n hc
      have horder : r.order = [⟨l, k, .land n⟩] := by rw [Run.order, hc]; rfl
      rw [lb_branched hk, State.counted, horder]
      show (((((s.begun s.focus r [⟨l, k, .land n⟩]).updTile s.focus.die s.focus.tile fun t => t.setLb n { t.lb n with full := false }).updRun s.focus fun r =>
        { r with rest := [] }).tile s.focus.die s.focus.tile).lb n).full = false
      rw [State.updRun, lb_updCtx]
      exact full_land _ _ n
  · exact fun a bs => ⟨rfl, holds_writeN _ _ _, sameOutside_writeN _ _ _, rfl, rfl⟩
  · intro a n op v dst _ hbad hd
    rw [performOne_amoLocal]
    exact ⟨readLs_amoLs_of_some hbad rfl, (keepsRun_amoLs ..).2, fun r hr => run_amoLs_of_some (f :=
      fun old => some (amoValue op n old v.toNat)) hbad rfl hd hr⟩
  · exact fun a n ex v dst _ hbad => ⟨readLs_casLocal hbad, (keepsRun_amoLs ..).2⟩
  · exact full_land s p
  · exact fun n v => rfl
  · exact fun e => rfl
  · exact performOne_fence s p
  · exact fun n a h => cgs_csetg h

end Sys2Proof.Machine
end

section
/-! PROOFS of faults, their records, and the starts of handlers and trap handlers (28_traps_preemption.md R352 to R361, 06_block_engine.md R100, R101). -/

namespace Sys2Proof.Machine

open Sys2Proof.Safety

/-! ### Taking a fault (R95, R352, R367) -/

section Fault

variable (s : State) (p : Place) (r : FaultRec)

theorem State.ctx_abandon_ne {q : Place} (hp : p.tile < 144) (hq : q.tile < 144) (h : q ≠ p) : (s.abandon p).ctx q = s.ctx q := by
  obtain ⟨u, hu, e⟩ : ∃ u, Quiet s u ∧ s.abandon p = u.updCtx p fun c => { c with run := none } :=
    ⟨_, (quiet_foldl _ (fun s (v : Nat × Prov) => withdraw_quiet s p v.2) _ s).trans
      (quiet_foldl _ (fun s k => dropOpen_quiet s p _ k) _ _), rfl⟩
  rw [e, State.ctx_updCtx_ne _ _ hp hq h, hu.2.2 q]

/-- The record that a fault of the context at p leaves. -/
def State.faulted : FaultRec :=
  { r with ctx := p.ctx, block := (s.ctx p).block, code := (s.ctx p).code, priv := (s.ctx p).super, region := (s.ctx p).region, cycle := s.cycle
           task := s.taskOn p, noTrap := r.cause == Cause.bkpt && (s.die p.die).dbgen }

theorem State.ctx_raiseFault : (s.raiseFault p r).ctx p = { s.ctx p with
    run := none, phase := .faulted, pend := (s.ctx p).pend ++ [s.faulted p r], fault := some (s.faulted p r), faultRec := (s.faulted p r).special
    atBarrier := if r.bar then (s.ctx p).atBarrier else none } := by
  have e : ({ s.abandon p with freeCtr := s.freeCtr + 1 } : State).ctx p = (s.abandon p).ctx p := rfl
  rw [State.raiseFault, (noteError_quiet _ _ _).2.2, State.ctx_updCtx, e, (abandon_spec s p).2.2]
  rfl

theorem State.ctx_raiseFault_ne {q : Place} (hp : p.tile < 144) (hq : q.tile < 144) (h : q ≠ p) : (s.raiseFault p r).ctx q = s.ctx q := by
  rw [State.raiseFault, (noteError_quiet _ _ _).2.2, State.ctx_updCtx_ne _ _ hp hq h]
  exact s.ctx_abandon_ne p hp hq h

theorem FaultRec.special_eq : r.special =
    BitVec.ofNat 64 (r.block.toNat * 2 ^ 32 + b2n r.index.isSome * 2 ^ 15 + r.index.getD 0 % 32 * 2 ^ 8 + r.cause.code) := by
  rw [FaultRec.special, FaultRec.word0, Nat.zero_mod, Nat.zero_mul, Nat.add_zero]

end Fault

/-! ### The record in the landing entry (R353 to R355) -/

theorem fld_ofLanes {l : List Nat} {k : Nat} (hl : l.length ≤ 32) : (fld (ofLanes 64 l) (64 * k) 64 : Word64) = BitVec.ofNat 64 (l.getD k 0) := by
  have hlt : packLanes 64 l < 2 ^ 2048 := lt_of_lt_of_le (packLanes_lt 64 l) (Nat.pow_le_pow_right (by norm_num) (by omega))
  apply BitVec.eq_of_toNat_eq
  rw [fld, ofLanes, BitVec.toNat_ofNat, BitVec.toNat_ofNat, BitVec.toNat_ofNat, Nat.mod_eq_of_lt hlt, packLanes_lane]

theorem fld_ofLanes_words {ws : List Word64} {k : Nat} (hl : ws.length ≤ 32) :
    (fld (ofLanes 64 (ws.map BitVec.toNat)) (64 * k) 64 : Word64) = ws.getD k 0#64 := by
  rw [fld_ofLanes (by simpa using hl)]
  by_cases h : k < ws.length
  · simp [List.getD, h]
  · simp [List.getD, h]

theorem FaultRec.words_reg (r : FaultRec) (w : Word64) :
    let word (k : Nat) : Word64 := fld (r.reg w).bits (64 * k) 64
    word 0 = r.word0 ∧ word 1 = r.word1 ∧ word 2 = r.code ∧ word 3 = r.d0 ∧ word 4 = r.d1 ∧ word 5 = BitVec.ofNat 64 r.cycle ∧ word 6 = w ∧
      word 7 = BitVec.ofNat 64 (r.region % 4096) := by
  have h (k : Nat) := fld_ofLanes_words (ws := [r.word0, r.word1, r.code, r.d0, r.d1, BitVec.ofNat 64 r.cycle, w,
    BitVec.ofNat 64 (r.region % 4096)]) (k := k) (by simp)
  exact ⟨h 0, h 1, h 2, h 3, h 4, h 5, h 6, h 7⟩

/-- The oldest record of the context at p, v its register, fills the context's landing entry. -/
def State.recorded (s : State) (p : Place) (rest : List FaultRec) (v : Reg) : State :=
  (s.updCtx p fun c => { c with pend := rest }).updTile p.die p.tile fun t => t.setLb (48 + p.ctx) { bits := v.bits, tag := v.tag, full := true }

theorem State.ctx_recorded (s : State) (p : Place) (rest : List FaultRec) (v : Reg) : (s.recorded p rest v).ctx p = { s.ctx p with pend := rest } := by
  rw [State.recorded, State.ctx_updTile _ _ _ (fun t => t.setLb (48 + p.ctx) { bits := v.bits, tag := v.tag, full := true }) (fun _ => rfl), State.ctx_updCtx]

theorem State.tile_recorded (s : State) (p : Place) (rest : List FaultRec) (v : Reg) :
    ((s.recorded p rest v).tile p.die p.tile).lb (48 + p.ctx) = { bits := v.bits, tag := v.tag, full := true } ∧
      ((s.recorded p rest v).tile p.die p.tile).trapQ = (s.tile p.die p.tile).trapQ := by
  rw [State.recorded, State.tile_updTile, State.tile_updCtx]
  exact ⟨look_put _ _ _ _, rfl⟩

section Record

variable {s : State} {r : FaultRec} {rest : List FaultRec}

/-- A record that is due and finds its landing entry FREE fills it. -/
theorem execFaultRecordWrite_due (hpend : (s.ctx s.focus).pend = r :: rest) (hstopped : (s.die s.focus.die).stopped = false)
    (hserved : s.unservedFault s.focus = none) (hcycle : r.cycle + 4 ≤ s.cycle) (hfree : ((s.tile s.focus.die s.focus.tile).lb (48 + s.focus.ctx)).full = false)
    (htrap : (!r.noTrap && !s.unserved (s.ctx s.focus) r) = true → ∀ y ∈ (s.tile s.focus.die s.focus.tile).trapQ, y.ctx ≠ s.focus.ctx) :
    exec .faultRecordWrite s = .next (if (!r.noTrap && !s.unserved (s.ctx s.focus) r) = true then
      (s.recorded s.focus rest (r.reg (tileWord s.moduleId s.focus.die s.focus.tile))).updTile s.focus.die s.focus.tile fun t =>
        { t with trapQ := t.trapQ ++ [⟨s.focus.ctx, r⟩] }
      else s.recorded s.focus rest (r.reg (tileWord s.moduleId s.focus.die s.focus.tile))) := by
  have hgate : ¬ (s.cycle < r.cycle + 4 ∨ ((s.tile s.focus.die s.focus.tile).lb (48 + s.focus.ctx)).full = true ∨
      ((!r.noTrap && !s.unserved (s.ctx s.focus) r) = true ∧ ((s.tile s.focus.die s.focus.tile).trapQ.any fun x => x.ctx == s.focus.ctx) = true)) := by
    rintro (h | h | ⟨h, h1⟩)
    · omega
    · rw [hfree] at h; cases h
    · obtain ⟨y, hy, he⟩ := List.any_eq_true.mp h1
      exact htrap h y hy (by simpa using he)
  show execFaultRecordWrite s = _
  rw [execFaultRecordWrite]
  simp only [hstopped, hserved, hpend, if_neg hgate, Bool.false_eq_true, if_false, State.recorded]

theorem unservedFault_of_served (hfault : (s.ctx s.focus).phase = .faulted → (s.ctx s.focus).fault = some r)
    (h : r.noTrap = true ∨ s.unserved (s.ctx s.focus) r = false) : s.unservedFault s.focus = none := by
  rw [State.unservedFault]
  refine Option.filter_eq_none_iff.mpr fun f hf => ?_
  by_cases hphase : (s.ctx s.focus).phase = .faulted
  · rw [hfault hphase] at hf
    cases hf
    rcases h with h | h <;> simp [h]
  · simp [hphase]

theorem unserved_iff {c : Ctx} (h : c.trapRun = false) : s.unserved c r = true ↔
    rcbWord (s.eff r.region 13) 4 = 0#64 ∨ (s.obj? (rcbWord (s.eff r.region 13) 4)).isSome = false := by
  simp [State.unserved, h]

/-- A record written where a trap start is queued for it. -/
theorem record_queued (hpend : (s.ctx s.focus).pend = r :: rest) (hstopped : (s.die s.focus.die).stopped = false)
    (hfault : (s.ctx s.focus).phase = .faulted → (s.ctx s.focus).fault = some r)
    (hcycle : r.cycle + 4 ≤ s.cycle) (hfree : ((s.tile s.focus.die s.focus.tile).lb (48 + s.focus.ctx)).full = false) (hno : r.noTrap = false)
    (hun : s.unserved (s.ctx s.focus) r = false) (htrap : ∀ y ∈ (s.tile s.focus.die s.focus.tile).trapQ, y.ctx ≠ s.focus.ctx) :
    exec .faultRecordWrite s = .next ((s.recorded s.focus rest (r.reg (tileWord s.moduleId s.focus.die s.focus.tile))).updTile s.focus.die s.focus.tile
      fun t => { t with trapQ := t.trapQ ++ [⟨s.focus.ctx, r⟩] }) := by
  rw [execFaultRecordWrite_due hpend hstopped (unservedFault_of_served hfault (.inr hun)) hcycle hfree fun _ => htrap, if_pos (by simp [hno, hun])]

theorem record_unqueued (hpend : (s.ctx s.focus).pend = r :: rest) (hstopped : (s.die s.focus.die).stopped = false)
    (hfault : (s.ctx s.focus).phase = .faulted → (s.ctx s.focus).fault = some r)
    (hcycle : r.cycle + 4 ≤ s.cycle) (hfree : ((s.tile s.focus.die s.focus.tile).lb (48 + s.focus.ctx)).full = false) (hno : r.noTrap = true) :
    exec .faultRecordWrite s = .next (s.recorded s.focus rest (r.reg (tileWord s.moduleId s.focus.die s.focus.tile))) := by
  have h : ¬ ((!r.noTrap && !s.unserved (s.ctx s.focus) r) = true) := by simp [hno]
  rw [execFaultRecordWrite_due hpend hstopped (unservedFault_of_served hfault (.inl hno)) hcycle hfree fun h1 => absurd h1 h, if_neg h]

end Record

theorem Tile.trapQ_endSource (t : Tile) (x : Source) : (t.endSource x).trapQ = t.trapQ := by
  unfold Tile.endSource
  split
  · rfl
  · dsimp only
    split
    · rfl
    · split
      · rfl
      · split <;> rfl

theorem State.trapQ_updCtx (s : State) (p : Place) (f : Ctx → Ctx) : ((s.updCtx p f).tile p.die p.tile).trapQ = (s.tile p.die p.tile).trapQ := by
  rw [State.tile_updCtx]

theorem State.trapQ_endRun (s : State) (p : Place) : ((s.endRun p).tile p.die p.tile).trapQ = (s.tile p.die p.tile).trapQ := by
  rw [State.endRun, State.idleHandler, State.trapQ_updCtx, State.tile_updTile, Tile.trapQ_endSource]
  show ((s.releaseAgs p).tile p.die p.tile).trapQ = _
  rw [State.releaseAgs, State.tile_setTile]

/-- The end of a run keeps the records that wait to be written. -/
theorem State.pend_endRun (s : State) (p : Place) {x : FaultRec} (h : x ∈ (s.ctx p).pend) : x ∈ ((s.endRun p).ctx p).pend := by
  obtain ⟨ports, hports⟩ := s.ctx_releaseAgs p p rfl rfl
  have hctx : ((((s.releaseAgs p).dropWindows (.handler p (s.ctx p).runNo)).dropTxns p).updTile p.die p.tile fun t => t.endSource (s.ctx p).src).ctx p =
      { s.ctx p with ports := ports } := by
    rw [State.ctx_updTile _ _ _ _ (fun t => Tile.ctxs_endSource t _), ← hports]
    rfl
  rw [State.endRun, State.idleHandler, State.ctx_updCtx, hctx]
  exact List.mem_append_left _ h

/-- A fault of a handler that no trap handler serves ends its context, and its record is kept to be written. -/
theorem record_unserved {s : State} {r : FaultRec} {rest : List FaultRec} (hpend : (s.ctx s.focus).pend = r :: rest)
    (hstopped : (s.die s.focus.die).stopped = false) (hfault : (s.ctx s.focus).fault = some r) (hno : r.noTrap = false)
    (htrap : (s.ctx s.focus).trapRun = false) (hun : s.unserved (s.ctx s.focus) r = true) (hctx : s.focus.ctx ≠ 0) (hphase : (s.ctx s.focus).phase = .faulted) :
    exec .faultRecordWrite s = .next ((s.updCtx s.focus fun c => { c with pend := c.pend.map fun x => if x = r then { x with noTrap := true } else x }).endRun
      s.focus) := by
  have hunserved : s.unservedFault s.focus = some r := by
    rw [State.unservedFault, hfault]
    simp [hphase, hpend, hno, hun]
  show execFaultRecordWrite s = _
  rw [execFaultRecordWrite]
  simp only [hstopped, hunserved, Bool.false_eq_true, if_false]
  rw [State.endUnserved, if_pos htrap, State.endFaulted, if_neg fun h => hctx h.1]

/-- Settles O26: what taking a fault leaves, and what becomes of its record. -/
theorem faultEntry : Obligations.FaultEntry := by
  refine ⟨fun s p r hp _ => ?_, fun s r rest => ?_⟩
  · intro c t f
    have hctx := s.ctx_raiseFault p r
    refine ⟨congrArg Ctx.phase hctx, congrArg Ctx.run hctx, congrArg Ctx.fault hctx, congrArg Ctx.pend hctx,
      (congrArg Ctx.faultRec hctx).trans (FaultRec.special_eq _), ?_, fun q hq hne => s.ctx_raiseFault_ne p r (Place.tile_lt hp) (Place.tile_lt hq) hne,
      (raiseFault_spec s p r).1⟩
    exact (raiseFault_spec s p r).2.2.2.1
  · intro p c x code due written hpend hstopped hfault word
    have hctx (v : Reg) := s.ctx_recorded p rest v
    refine ⟨r.words_reg _, fun ⟨hcycle, hfree⟩ hno htrap hcode hobj hq => ?_, fun ⟨hcycle, hfree⟩ hno => ?_, fun hno htrap hcode hp0 hphase => ?_⟩
    · have hun : s.unserved c r = false := by
        rw [Bool.eq_false_iff]
        intro h
        rcases (unserved_iff htrap).mp h with h | h
        · exact hcode h
        · rw [hobj] at h; cases h
      refine ⟨_, record_queued hpend hstopped hfault hcycle hfree hno hun hq, ⟨?_, rfl, ?_⟩, ?_⟩
      · rw [State.ctx_updTile _ _ _ (fun t => { t with trapQ := t.trapQ ++ [⟨s.focus.ctx, r⟩] }) (fun _ => rfl)]
        exact congrArg Ctx.pend (hctx _)
      · rw [State.tile_updTile]
        show ((State.tile _ _ _).lb _).full = true ∧ ((State.tile _ _ _).lb _).tag = _ ∧ ((State.tile _ _ _).lb _).bits = _
        rw [(s.tile_recorded p rest _).1]
        exact ⟨rfl, rfl, rfl⟩
      · rw [State.tile_updTile]
        show (State.tile _ _ _).trapQ ++ _ = _
        rw [(s.tile_recorded p rest _).2]
    · refine ⟨_, record_unqueued hpend hstopped hfault hcycle hfree hno, ⟨congrArg Ctx.pend (hctx _), rfl, ?_⟩, (s.tile_recorded p rest _).2⟩
      rw [(s.tile_recorded p rest _).1]
      exact ⟨rfl, rfl, rfl⟩
    · have hun : s.unserved c r = true := (unserved_iff htrap).mpr (.inl hcode)
      refine ⟨_, record_unserved hpend hstopped (hfault hphase) hno htrap hun hp0 hphase, (State.ctx_endRun _ _).1, State.pend_endRun _ _ ?_, ?_, ?_⟩
      · rw [State.ctx_updCtx, hpend]
        simp
      · rw [State.trapQ_endRun, State.trapQ_updCtx]
      · rw [State.endRun_mem, State.updCtx_mem]

/-! ### Starts (R100, R101, R354) -/

theorem idleCtx_spec {x : Tile} {n : Nat} (h : x.idleCtx = some n) : 1 ≤ n ∧ n ≤ 7 ∧ (look {} x.ctxs n).phase = .idle ∧
    ∀ k, 1 ≤ k → k < n → (look {} x.ctxs k).phase ≠ .idle := by
  have hl : [1, 2, 3, 4, 5, 6, 7] = (List.range 7).map (· + 1) := rfl
  rw [Tile.idleCtx, hl, List.find?_map, Option.map_eq_some_iff] at h
  obtain ⟨m, hm, rfl⟩ := h
  obtain ⟨hidle, hlt, hlow⟩ := List.find?_range_eq_some.mp hm
  refine ⟨by omega, by have := List.mem_range.mp hlt; omega, by simpa using hidle, fun k h1 hk => ?_⟩
  have := hlow (k - 1) (by omega)
  simpa [Nat.sub_add_cancel h1] using this

theorem effGo_of_regions {s t : State} (h : t.regions = s.regions) (ovr : Nat) : ∀ n r, t.effGo ovr n r = s.effGo ovr n r
  | 0, _ => rfl
  | n + 1, r => by
    rw [State.effGo, State.effGo, State.rcb, State.rcb, h]
    simp only [effGo_of_regions h ovr n]

theorem eff_of_regions {s t : State} (h : t.regions = s.regions) (hr : t.readings = s.readings) (r ovr : Nat) : t.eff r ovr = s.eff r ovr := by
  rw [State.eff, State.eff, hr, effGo_of_regions h]

theorem eff_updTile (s : State) (d t : Nat) (f : Tile → Tile) (r ovr : Nat) : (s.updTile d t f).eff r ovr = s.eff r ovr :=
  eff_of_regions (s := s) (t := s.updTile d t f) rfl rfl r ovr

theorem tile_of_tiles {s t : State} (h : t.tiles = s.tiles) (d i : Nat) : t.tile d i = s.tile d i := by rw [State.tile, h]; rfl

theorem ctx_of_tiles {s t : State} (h : t.tiles = s.tiles) (p : Place) : t.ctx p = s.ctx p := by rw [State.ctx, tile_of_tiles h]; rfl

theorem opensWindow_fields (s t : State) (d r : Nat) : (s.opensWindow t d r).tiles = t.tiles ∧ (s.opensWindow t d r).mem = t.mem := by
  unfold State.opensWindow
  split <;> exact ⟨rfl, rfl⟩

/-- What a start leaves of the context at p. -/
theorem ctx_started (s : State) (p : Place) (q : Start) (super : Bool) : (s.startHandler p q super).ctx p = { s.ctx p with
    phase := .running, super := super, trapRun := super, regs := [(0, Reg.ofW q.g0), (1, Reg.ofW q.g1)], ras := [], spilled := 0, lastExit := 0#3
    reuse := [], base := (s.ctx p).issue, hops := q.hops.getD (s.ctx p).hops, code := q.code, block := q.block, region := q.region, run := none
    kind := some 2#2, atBarrier := none, src := q.src, runNo := s.cycle + 1, bkptSkip := false } := State.ctx_updCtx ..

theorem reg_started {c : Ctx} {a b : Reg} (h : c.regs = [(0, a), (1, b)]) : c.reg 0 = a ∧ c.reg 1 = b ∧ ∀ g, 2 ≤ g → c.reg g = {} := by
  refine ⟨by rw [Ctx.reg, h]; rfl, by rw [Ctx.reg, h]; rfl, fun g hg => ?_⟩
  have h0 : ¬ (0 = g) := by omega
  have h1 : ¬ (1 = g) := by omega
  rw [Ctx.reg, h]
  simp [look, h0, h1]

/-- What the start of a trap handler leaves of its context. -/
theorem ctx_trapStarted (s : State) (p : Place) (r : FaultRec) : ∃ c : Ctx, (s.startTrap p r).ctx p = c ∧ c.phase = .running ∧ c.super = true ∧
    c.code = rcbWord (s.eff r.region 13) 4 ∧ c.block = fld (s.eff r.region 13) (5 * 64 + 32) 32 ∧
    c.regs = [(0, Reg.ofW (BitVec.ofNat 64 (0x1000000 + 256 * (48 + r.ctx)))), (1, Reg.ofW r.word0)] ∧ c.fctx = BitVec.ofNat 3 r.ctx ∧ c.fresume = r.block := by
  refine ⟨_, State.ctx_updCtx .., ?_⟩
  rw [ctx_started]
  exact ⟨rfl, rfl, rfl, rfl, rfl, rfl, rfl⟩

section Start

variable {s : State} {n : Nat}

theorem execHandlerStart_eq {q : Start} {rest : List Start} (hidle : (s.tile s.focus.die s.focus.tile).idleCtx = some n)
    (hmay : s.mayStart s.focus.die s.focus.tile = true) (hq : (s.tile s.focus.die s.focus.tile).startQ = q :: rest)
    (htrap : (s.tile s.focus.die s.focus.tile).trapQ = []) : exec .handlerStart s = .next (s.opensWindow
      (((s.updTile s.focus.die s.focus.tile fun y => { y with startQ := rest }).startHandler ⟨s.focus.die, s.focus.tile, n⟩ q false).see
        ⟨s.focus.die, s.focus.tile, n⟩) s.focus.die q.region) := by
  show execHandlerStart s = _
  rw [execHandlerStart]
  simp [hidle, hmay, hq, htrap]

theorem execTrapStart_eq {a : TrapStart} (hidle : (s.tile s.focus.die s.focus.tile).idleCtx = some n)
    (hmay : s.mayStart s.focus.die s.focus.tile = true) (htrap : (s.tile s.focus.die s.focus.tile).trapQ = [a]) : exec .trapStart s = .next (s.opensWindow
      (((s.updTile s.focus.die s.focus.tile fun y => { y with trapQ := y.trapQ.filter fun z => z != a }).startTrap ⟨s.focus.die, s.focus.tile, n⟩ a.rec_).see
        ⟨s.focus.die, s.focus.tile, n⟩) s.focus.die a.rec_.region) := by
  show execTrapStart s = _
  rw [execTrapStart]
  simp [hidle, hmay, htrap, firstTrap]

end Start

/-- Settles O27: the lowest idle context takes the oldest start, a trap start first. -/
theorem handlerAndTrapStarts : Obligations.HandlerAndTrapStarts := by
  intro s n d x p hidle hstopped hhalt hsaving
  have hmay : s.mayStart d s.focus.tile = true := by simp [State.mayStart, hstopped, hhalt, hsaving]
  obtain ⟨h1, h7, hphase, hlow⟩ := idleCtx_spec hidle
  refine ⟨⟨h1, h7, hphase, hlow⟩, fun q rest hq htrap => ?_, fun a ha => ?_⟩
  · obtain ⟨htiles, hmem⟩ := opensWindow_fields s (((s.updTile d s.focus.tile fun y => { y with startQ := rest }).startHandler p q false).see p) d q.region
    obtain ⟨w, hsee⟩ := ((s.updTile d s.focus.tile fun y => { y with startQ := rest }).startHandler p q false).ctx_see p
    have hctx := (ctx_of_tiles htiles p).trans (hsee.trans (by rw [ctx_started]))
    obtain ⟨h0, h1, h2⟩ := reg_started (congrArg Ctx.regs hctx)
    refine ⟨_, execHandlerStart_eq hidle hmay hq htrap, ?_, congrArg Ctx.phase hctx, congrArg Ctx.super hctx, congrArg Ctx.code hctx,
      congrArg Ctx.block hctx, congrArg Ctx.region hctx, h0, h1, h2, congrArg Ctx.ras hctx, by rw [hmem]; rfl⟩
    rw [tile_of_tiles htiles]
    show ((State.updCtx _ p _).tile p.die p.tile).startQ = _
    rw [State.tile_updCtx]
    show ((State.updCtx _ p _).tile p.die p.tile).startQ = _
    rw [State.tile_updCtx]
    show ((s.updTile d s.focus.tile _).tile d s.focus.tile).startQ = _
    rw [State.tile_updTile]
  · obtain ⟨htiles, hmem⟩ := opensWindow_fields s
      (((s.updTile d s.focus.tile fun y => { y with trapQ := y.trapQ.filter fun z => z != a }).startTrap p a.rec_).see p) d a.rec_.region
    obtain ⟨w, hsee⟩ := ((s.updTile d s.focus.tile fun y => { y with trapQ := y.trapQ.filter fun z => z != a }).startTrap p a.rec_).ctx_see p
    obtain ⟨c, hc, hrunning, hsuper, hcode, hblock, hregs, hfctx, hfresume⟩ :=
      ctx_trapStarted (s.updTile d s.focus.tile fun y => { y with trapQ := y.trapQ.filter fun z => z != a }) p a.rec_
    have hctx := (ctx_of_tiles htiles p).trans (hsee.trans (by rw [hc]))
    have heff : (s.updTile d s.focus.tile fun y => { y with trapQ := y.trapQ.filter fun z => z != a }).eff a.rec_.region 13 = s.eff a.rec_.region 13 :=
      eff_updTile ..
    rw [heff] at hcode hblock
    obtain ⟨h0, h1, -⟩ := reg_started ((congrArg Ctx.regs hctx).trans hregs)
    intro b
    refine ⟨_, execTrapStart_eq hidle hmay ha, ?_, (congrArg Ctx.phase hctx).trans hrunning, (congrArg Ctx.super hctx).trans hsuper,
      (congrArg Ctx.code hctx).trans hcode, (congrArg Ctx.block hctx).trans hblock, h0, h1, (congrArg Ctx.fctx hctx).trans hfctx,
      (congrArg Ctx.fresume hctx).trans hfresume, by rw [hmem]; rfl⟩
    rw [tile_of_tiles htiles]
    rw [State.see, show d = p.die from rfl, show s.focus.tile = p.tile from rfl, State.trapQ_updCtx, State.startTrap, State.trapQ_updCtx, State.startHandler,
      State.trapQ_updCtx, State.tile_updTile]
    show List.filter _ x.trapQ = _
    rw [ha]
    simp

end Sys2Proof.Machine
end

section
/-! PROOFS of the limits of blocks and waits, of barriers and of drained contexts (06_block_engine.md R84, R95, 07_be_control.md R107 to R109). -/

namespace Sys2Proof.Machine

open Sys2Proof.Safety

/-! ### Limits (R95, R108) -/

section Limits

variable {s : State} {p : Place} {r : Run}

theorem stalled_iff (hrun : (s.ctx p).run = some r) : s.stalled p = true ↔ (s.ctx p).phase = .running ∧ r.live = true ∧ r.committing = false ∧
    r.decodedAt + (s.ctx p).tmoBlock.toNat ≤ s.cycle := by
  rw [State.stalled, hrun]
  simp [and_assoc]

theorem not_stalled (hrun : (s.ctx p).run = some r) (h : s.cycle < r.decodedAt + (s.ctx p).tmoBlock.toNat) : s.stalled p = false := by
  rw [Bool.eq_false_iff]
  intro hs
  obtain ⟨-, -, -, h1⟩ := (stalled_iff hrun).mp hs
  omega

theorem execBlockStallTimeout_of_not (h : s.stalled s.focus = false) : exec .blockStallTimeout s = .next s := by
  show execBlockStallTimeout s = _
  rw [execBlockStallTimeout]
  simp [h]

theorem execBlockStallTimeout_stalled (h : s.stalled s.focus = true) (hstopped : (s.die s.focus.die).stopped = false)
    (hhalt : s.haltCovers s.focus.die (s.ctx s.focus).region = false) :
    exec .blockStallTimeout s = .next (s.faultAt s.focus none .blockStall 0#64 0#64) := by
  show execBlockStallTimeout s = _
  rw [execBlockStallTimeout]
  simp only [h, hstopped, hhalt, and_self, if_true]

section Wait

variable (hphase : (s.ctx s.focus).phase = .running) (hstopped : (s.die s.focus.die).stopped = false)
  (hhalt : s.haltCovers s.focus.die (s.ctx s.focus).region = false) (hsaving : s.saving s.focus.die s.focus.tile = false)
include hphase hstopped hhalt hsaving

/-- The wait of an instruction for anything but tokens and an open, past its limit, faults. -/
theorem execWaitTimeoutExpiry_wait {w : Wait} (hrun : (s.ctx s.focus).run = some r) (hkept : r.committing = false) (hnot : s.stalled s.focus = false)
    (hwaits : r.waits = [w]) (hindex : w.index = s.index) (htokens : w.kind ≠ .tokens) (hopn : w.kind ≠ .opn)
    (hpast : w.since + (s.ctx s.focus).tmoWait.toNat < s.cycle) : exec .waitTimeoutExpiry s =
      .next ((s.dropWindowReq s.focus r.serial w.index).faultAt s.focus (some w.index) .waitTimeout (BitVec.ofNat 64 w.kind.num) w.detail) := by
  have htimed : s.timed s.focus r w = true := by simp [State.timed, htokens]
  have hover : s.waitOver s.focus r w = (s.dropWindowReq s.focus r.serial w.index).faultAt s.focus (some w.index) .waitTimeout (BitVec.ofNat 64 w.kind.num)
      w.detail := if_neg hopn
  have hfind : (r.waits.find? fun x => x.index == s.index) = some w := by simp [hwaits, hindex]
  show execWaitTimeoutExpiry s = _
  rw [execWaitTimeoutExpiry, ← hover]
  simp [hphase, hstopped, hhalt, hsaving, hrun, hfind, hkept, hpast, htimed, hnot]

/-- The wait of a context at a barrier, past its limit, faults. -/
theorem execWaitTimeoutExpiry_barrier {k since : Nat} (hrun : (s.ctx s.focus).run = none) (hbar : (s.ctx s.focus).atBarrier = some (k, since))
    (hpast : since + (s.ctx s.focus).tmoWait.toNat < s.cycle) : exec .waitTimeoutExpiry s =
      .next (s.raiseFault s.focus { cause := .waitTimeout, bar := true, d0 := 4#64, d1 := BitVec.ofNat 64 k }) := by
  show execWaitTimeoutExpiry s = _
  rw [execWaitTimeoutExpiry]
  simp [hphase, hstopped, hhalt, hsaving, hrun, hbar, hpast]

end Wait

end Limits

/-! ### Barriers (R107) -/

theorem slot_updTd (s : State) (d n : Nat) (f : Td → Td) : (s.updTd d f).slot d n = look {} (f (s.die d).td).slots n := by
  rw [State.slot, State.updTd, State.die_updDie]

theorem td_updTd (s : State) (d : Nat) (f : Td → Td) : ((s.updTd d f).die d).td = f (s.die d).td := by
  rw [State.updTd, State.die_updDie]

theorem liveTiles_updTd (s : State) (d : Nat) (f : Td → Td) (r : Rect) : (s.updTd d f).liveTiles d r = s.liveTiles d r := by
  have h : ((s.updTd d f).die d).defects = (s.die d).defects := by rw [State.updTd, State.die_updDie]
  simp only [State.liveTiles, State.defective, h]

theorem gangTiles_updTd {s : State} {d : Nat} {f : Td → Td} (h : (f (s.die d).td).slots = (s.die d).td.slots) (n : Nat) :
    (s.updTd d f).gangTiles d n = s.gangTiles d n := by
  have hslot : (s.updTd d f).slot d n = s.slot d n := by rw [slot_updTd, h]; rfl
  simp only [State.gangTiles, hslot, liveTiles_updTd]
  rfl

/-- The barriers of task n that all its tiles have reached. -/
def State.passed (s : State) (d n : Nat) (r : Rect) : List (Nat × Nat × List Nat) :=
  (s.die d).td.barriers.filter fun b => b.1 == n && (s.gangTiles d n).all fun t =>
    b.2.2.contains (r.rank t) || (s.slot d n).reported.any fun e => e.1 == r.rank t

/-- One barrier is passed by its tiles. -/
def State.passOne (s : State) (d : Nat) (ts : List Nat) (b : Nat × Nat × List Nat) : State :=
  ts.foldl (fun s t => s.updTile d t fun y => y.leaveBarrier b.2.1) (s.updTd d fun t => { t with barriers := t.barriers.filter fun e => e != b })

theorem passBarriers_eq {s : State} {d n : Nat} {r : Rect} (hstate : s.stateOf d n = 5) (hrect : (s.slot d n).rect = some r) :
    s.passBarriers d n = (s.passed d n r).foldl (fun s' b => s'.passOne d (s.gangTiles d n) b) s := by
  rw [State.passBarriers]
  simp only [hstate, if_true, hrect]
  rfl

theorem passBarriers_of_none {s : State} {d : Nat} (h : (s.die d).td.barriers = []) (n : Nat) : s.passBarriers d n = s := by
  rw [State.passBarriers]
  simp only [h, List.filter_nil, List.foldl_nil]
  split <;> rfl

theorem td_foldl_updTile (d : Nat) (f : Tile → Tile) : ∀ (l : List Nat) (s : State), (l.foldl (fun s t => s.updTile d t f) s).die d = s.die d
  | [], _ => rfl
  | t :: l, s => td_foldl_updTile d f l (s.updTile d t f)

theorem tile_updTile_ne (s : State) {d t u : Nat} (f : Tile → Tile) (h : u ≠ t) : (s.updTile d t f).tile d u = s.tile d u :=
  State.tile_setTile_ne _ _ (by omega)

theorem atBarrier_leaveBarrier (t : Tile) (k : Nat) : (look {} (t.leaveBarrier k).ctxs 0).atBarrier =
    if ((look {} t.ctxs 0).atBarrier.any fun w => w.1 == k) = true then none else (look {} t.ctxs 0).atBarrier := by
  unfold Tile.leaveBarrier
  dsimp only
  split
  · rw [look_put]
  · rfl

/-- A tile's context 0 that waits at no barrier still waits at none when tiles leave one. -/
theorem atBarrier_foldl_of_none {d u k : Nat} : ∀ {l : List Nat} {s : State}, (s.ctx ⟨d, u, 0⟩).atBarrier = none →
    ((l.foldl (fun s t => s.updTile d t fun y => y.leaveBarrier k) s).ctx ⟨d, u, 0⟩).atBarrier = none
  | [], _, h => h
  | t :: l, s, h => by
    refine atBarrier_foldl_of_none (l := l) (s := s.updTile d t fun y => y.leaveBarrier k) ?_
    by_cases hu : u = t
    · subst hu
      rw [State.ctx, State.tile_updTile, atBarrier_leaveBarrier]
      split
      · rfl
      · exact h
    · rw [State.ctx, tile_updTile_ne _ _ hu]
      exact h

/-- A tile that leaves barrier k waits there no more. -/
theorem atBarrier_foldl {d u k since : Nat} : ∀ {l : List Nat} {s : State}, u ∈ l → (s.ctx ⟨d, u, 0⟩).atBarrier = some (k, since) →
    ((l.foldl (fun s t => s.updTile d t fun y => y.leaveBarrier k) s).ctx ⟨d, u, 0⟩).atBarrier = none
  | t :: l, s, hu, h => by
    by_cases he : u = t
    · subst he
      refine atBarrier_foldl_of_none (l := l) (s := s.updTile d u fun y => y.leaveBarrier k) ?_
      rw [State.ctx, State.tile_updTile, atBarrier_leaveBarrier]
      have h' : (look {} (s.tile d u).ctxs 0).atBarrier = some (k, since) := h
      rw [h']
      simp
    · refine atBarrier_foldl (since := since) (l := l) (s := s.updTile d t fun y => y.leaveBarrier k) ((List.mem_cons.mp hu).resolve_left he) ?_
      rw [State.ctx, tile_updTile_ne _ _ he]
      exact h

/-- One more tile, of the rank given, has arrived at barrier k of task n, where those of l have. -/
def State.arrival (s : State) (d n k : Nat) (l : List Nat) (rank : Nat) : State := s.updTd d fun t =>
  { t with arrivals := dropAt t.arrivals s.index, barriers := [(n, k, l ++ [rank])] }

theorem execBarrierArrival_eq {s : State} {n k rank : Nat} {l : List Nat} (harr : (s.die s.focus.die).td.arrivals[s.index]? = some (n, k, rank))
    (hbar : (s.die s.focus.die).td.barriers = [(n, k, l)]) :
    exec .barrierArrival s = .next ((s.arrival s.focus.die n k l rank).passBarriers s.focus.die n) := by
  have hone : (s.updTd s.focus.die fun t => { t with
      arrivals := dropAt t.arrivals s.index
      barriers :=
        if t.barriers.any fun b => b.1 == n && b.2.1 == k then
          t.barriers.map fun b => if b.1 = n ∧ b.2.1 = k then (n, k, b.2.2 ++ [rank]) else b
        else t.barriers ++ [(n, k, [rank])] }) = s.arrival s.focus.die n k l rank := by
    rw [State.arrival, State.updTd, State.updTd, State.updDie, State.updDie, hbar]
    simp
  show execBarrierArrival s = _
  rw [execBarrierArrival]
  simp only [harr, hone]

theorem passed_arrival {s : State} {d n k rank : Nat} {l : List Nat} {r : Rect} (hrep : (s.slot d n).reported = []) :
    (s.arrival d n k l rank).passed d n r = if ∀ t ∈ s.gangTiles d n, r.rank t ∈ l ++ [rank] then [(n, k, l ++ [rank])] else [] := by
  have hslot : (s.arrival d n k l rank).slot d n = s.slot d n := slot_updTd ..
  have hgang : (s.arrival d n k l rank).gangTiles d n = s.gangTiles d n := gangTiles_updTd rfl n
  have hbar : ((s.arrival d n k l rank).die d).td.barriers = [(n, k, l ++ [rank])] := by rw [State.arrival, td_updTd]
  rw [State.passed, hslot, hgang, hbar, hrep]
  simp only [List.filter_cons, List.filter_nil, beq_self_eq_true, Bool.true_and, List.any_nil, Bool.or_false, List.all_eq_true, List.contains_iff_mem]

/-! ### Drained contexts (R84, R109, R179) -/

/-- The drained context 0 at p of the task in slot n has reported its part. -/
def State.drainedOf (s : State) (p : Place) (n : Nat) : State :=
  (((s.releaseAgs p).dropTxns p).updCtx p fun c => { c with phase := .idle }).setSlot p.die n { s.slot p.die n with
    reported := (s.slot p.die n).reported ++ [(((s.slot p.die n).rect.map fun r => r.rank p.tile).getD 0, (s.ctx p).texit)] }

theorem td_drainedOf (s : State) (p : Place) (n : Nat) : ((s.drainedOf p n).die p.die).td.barriers = (s.die p.die).td.barriers := by
  rw [State.drainedOf, State.setSlot, td_updTd]
  show (((s.releaseAgs p).dropTxns p).die p.die).td.barriers = _
  rw [State.dropTxns, State.dropTxnsOf, State.updNd, State.die_updDie]
  rfl

theorem lowestFault_of_nil {c : Ctx} (h : c.recf = []) (e : Engine) (n : Nat) : c.lowestFault e n = none := by rw [Ctx.lowestFault, h]; rfl

theorem execContextDrained_eq {s : State} {id : BitVec 32} (hphase : (s.ctx { s.focus with ctx := 0 }).phase = .draining)
    (hdone : (s.ctx { s.focus with ctx := 0 }).done = (s.ctx { s.focus with ctx := 0 }).issue) (hsaving : s.saving s.focus.die s.focus.tile = false)
    (hstopped : (s.die s.focus.die).stopped = false) (hrecf : (s.ctx { s.focus with ctx := 0 }).recf = [])
    (htask : (s.tile s.focus.die s.focus.tile).task = some id) (hbar : (s.die s.focus.die).td.barriers = []) :
    exec .contextDrained s = .next (s.drainedOf { s.focus with ctx := 0 } (idSlot id)) := by
  have hpass : (s.drainedOf { s.focus with ctx := 0 } (idSlot id)).passBarriers s.focus.die (idSlot id) = s.drainedOf { s.focus with ctx := 0 } (idSlot id) :=
    passBarriers_of_none ((td_drainedOf s { s.focus with ctx := 0 } (idSlot id)).trans hbar) _
  show execContextDrained s = _
  rw [execContextDrained, ← hpass]
  simp [hphase, hdone, hsaving, hstopped, lowestFault_of_nil hrecf, htask]
  rfl

/-- Settles O28: the limits, the barriers, and the drained context. -/
theorem contextLimitsAndBarriers : Obligations.ContextLimitsAndBarriers := by
  refine fun s => ⟨fun r hrun hphase hstopped hhalt hlive hkept hlim => ?_, fun r hrun hlim => ?_,
    fun r w hrun hphase hstopped hhalt hsaving hlive hkept hlim hwaits hindex htokens hopn hpast => ?_,
    fun k since hrun hbar hphase hstopped hhalt hsaving hpast => ?_, fun n k rank l r harr hrect hbar hrep hstate => ?_, fun id => ?_⟩
  · exact execBlockStallTimeout_stalled ((stalled_iff hrun).mpr ⟨hphase, hlive, hkept, hlim⟩) hstopped hhalt
  · exact execBlockStallTimeout_of_not (not_stalled hrun hlim)
  · exact execWaitTimeoutExpiry_wait hphase hstopped hhalt hsaving hrun hkept (not_stalled hrun hlim) hwaits hindex htokens hopn hpast
  · exact execWaitTimeoutExpiry_barrier hphase hstopped hhalt hsaving hrun hbar hpast
  · have hslot : (s.arrival s.focus.die n k l rank).slot s.focus.die n = s.slot s.focus.die n := slot_updTd ..
    have hgang : (s.arrival s.focus.die n k l rank).gangTiles s.focus.die n = s.gangTiles s.focus.die n := gangTiles_updTd rfl n
    have hpass := passBarriers_eq (s := s.arrival s.focus.die n k l rank) (d := s.focus.die) (n := n) (r := r)
      (by rw [← hstate, State.stateOf, hslot]; rfl) (by rw [hslot, hrect])
    rw [passed_arrival hrep, hgang] at hpass
    refine ⟨_, execBarrierArrival_eq harr hbar, ?_⟩
    rw [hpass]
    split
    next hall =>
      have htd := td_foldl_updTile s.focus.die (fun y => y.leaveBarrier k) (s.gangTiles s.focus.die n)
        ((s.arrival s.focus.die n k l rank).updTd s.focus.die fun t => { t with barriers := t.barriers.filter fun e => e != (n, k, l ++ [rank]) })
      have htd' : (((s.arrival s.focus.die n k l rank).passOne s.focus.die (s.gangTiles s.focus.die n) (n, k, l ++ [rank])).die s.focus.die).td =
          { (s.die s.focus.die).td with arrivals := dropAt (s.die s.focus.die).td.arrivals s.index, barriers := [] } := by
        rw [State.passOne, htd, td_updTd, State.arrival, td_updTd]
        simp
      refine ⟨by rw [List.foldl_cons, List.foldl_nil, htd'], fun _ => ⟨by rw [List.foldl_cons, List.foldl_nil, htd'], fun tl htl since hat => ?_⟩,
        fun ⟨tl, htl, hnot⟩ => absurd (hall tl htl) hnot⟩
      exact atBarrier_foldl (since := since) htl hat
    next hall =>
      have htd : ((s.arrival s.focus.die n k l rank).die s.focus.die).td = _ := td_updTd ..
      refine ⟨by rw [List.foldl_nil, htd], fun h => absurd h hall, fun _ => ⟨by rw [List.foldl_nil, htd], rfl⟩⟩
  · intro q hphase hdone hsaving hstopped hrecf htask hbar
    refine ⟨_, execContextDrained_eq hphase hdone hsaving hstopped hrecf htask hbar, ?_, ?_⟩
    · rw [State.drainedOf, State.setSlot, State.updTd, State.ctx_updDie, State.ctx_updCtx]
    · rw [State.drainedOf, State.setSlot, slot_updTd, look_put]

end Sys2Proof.Machine
end

section
/-! PROOFS of tensor requests at their home, of stream read-ahead and of the ends of frame copies (11_tensor_access.md R172 to R177, R387). -/

namespace Sys2Proof.Machine

open Sys2Proof.Safety

/-! ### Routes depend on the links alone (01_machine.md R8) -/

section Routes

variable {s t : State} (h : t.links = s.links)
include h

theorem spread_of_links : ∀ n l, t.spread n l = s.spread n l
  | 0, _ => rfl
  | n + 1, l => by
    have hlink (k : Nat) : t.link k = s.link k := by rw [State.link, h]; rfl
    simp only [State.spread, hlink, spread_of_links n]

theorem routed_of_links (d m : Nat) : t.routed d m = s.routed d m := by
  rw [State.routed, State.routed, h, spread_of_links h]

end Routes

theorem routed_of_up {s : State} (h : ∀ l ∈ s.links, l.2 ≠ .down) (d m : Nat) : s.routed d m = true := by
  have : (s.links.any fun l => l.2 == .down) = false := by
    simpa using h
  rw [State.routed, this]
  rfl

/-! ### Walks (R172) -/

theorem Tile.reqs_hold (t : Tile) (h : Holder) (x : Tr) : (t.hold h x).reqs = t.reqs := by cases h <;> rfl

theorem indices_single (d : Desc) (c : C4) : Desc.indices d [c] = [(Desc.locate d c).1] := rfl

/-- The state once a walk has found the entry e. -/
def State.walked (s : State) (d t : Nat) (h : Holder) (obj : BitVec 32) (j : Nat) (e : Word64) : State :=
  (s.updDie d fun y => { y with tableCache := touch 4096 ⟨obj, j, e⟩ y.tableCache }).updTile d t fun y => y.hold h ⟨obj, j, e⟩

theorem walk_of_uncached {s : State} {d : Nat} {obj : BitVec 32} {j : Nat} (h : findTr (s.die d).tableCache obj j = none) (t : Nat) (x : Holder) :
    s.walk d t x obj j = ((s.objOf obj).entry j, s.walked d t x obj j ((s.objOf obj).entry j)) := by
  rw [State.walk, h]
  rfl

theorem reqs_walked (s : State) (d t : Nat) (h : Holder) (obj : BitVec 32) (j : Nat) (e : Word64) :
    ((s.walked d t h obj j e).tile d t).reqs = (s.tile d t).reqs := by
  rw [State.walked, State.tile_updTile, Tile.reqs_hold, State.tile_updDie]

theorem canWalk_of_routed {s : State} {d : Nat} {obj : BitVec 32} (h : s.routed d (objDie obj) = true) (t : Nat) (x : Holder) (j : Nat) :
    s.canWalk d t x obj j = true := by
  rw [State.canWalk, h, Bool.or_true]

theorem reqs_setReq {s : State} {d t i : Nat} {q : TReq} (h : (s.tile d t).reqs[i]? = some q) (q' : TReq) :
    ((s.updTile d t fun x => x.setReq i q').tile d t).reqs[i]? = some q' := by
  rw [State.tile_updTile]
  exact List.getElem?_set_self (List.getElem?_eq_some_iff.mp h).1

theorem absorb_go {q : TReq} {js : List Nat} (h : ∀ j ∈ js, (q.entries.any fun e => e.1 == j) = true) (t : Tile) (obj : BitVec 32) :
    t.absorb q obj js = (q, t) := by
  induction js with
  | nil => rfl
  | cons j js ih => rw [Tile.absorb, if_pos (h j (by simp)), ih fun i hi => h i (by simp [hi])]

/-- A request that lacks no entry takes none. -/
theorem absorb_of_found {q : TReq} {js : List Nat} (h : q.missing js = none) (t : Tile) (obj : BitVec 32) : t.absorb q obj js = (q, t) :=
  absorb_go (fun j hj => by simpa using List.find?_eq_none.mp h j hj) t obj

theorem sTurn_of_not_sPage {s : State} {q : TReq} (h : s.sPage q = false) {d t : Nat} : s.sTurn d t q = true := by
  rw [State.sTurn, h]
  rfl

section Requests

variable {s : State} {q : TReq} (hreq : (s.tile s.focus.die s.focus.tile).reqs[s.index]? = some q)
  (hserves : s.serves s.focus.die s.focus.tile q = true)
include hreq hserves

/-- A walk finds the entry that the table at the object's home holds. -/
theorem execTableWalk_single {c : C4} {j : Nat} (hj : (Desc.locate (s.objOf (hobj q.h)).desc c).1 = j) (hels : q.els = [c]) (hentries : q.entries = [])
    (hholder : (s.tile s.focus.die s.focus.tile).trFor q.holder (hobj q.h) j = none)
    (hcache : findTr (s.die s.focus.die).tableCache (hobj q.h) j = none)
    (hrouted : s.routed s.focus.die (objDie (hobj q.h)) = true) :
    exec .tableWalk s = .next (((s.setTile s.focus.die s.focus.tile (s.tile s.focus.die s.focus.tile)).walked s.focus.die s.focus.tile q.holder (hobj q.h) j
      ((s.objOf (hobj q.h)).entry j)).updTile s.focus.die s.focus.tile fun x =>
        x.setReq s.index { q with entries := [(j, (s.objOf (hobj q.h)).entry j)] }) := by
  have hindices : Desc.indices (s.objOf (hobj q.h)).desc q.els = [j] := by rw [hels, indices_single, hj]
  have habsorb : (s.tile s.focus.die s.focus.tile).absorb q (hobj q.h) [j] = (q, s.tile s.focus.die s.focus.tile) := by
    rw [Tile.absorb, hholder, hentries]; rfl
  have hmissing : q.missing [j] = some j := by rw [TReq.missing, hentries]; rfl
  have hcan := canWalk_of_routed ((routed_of_links (t := s.setTile s.focus.die s.focus.tile (s.tile s.focus.die s.focus.tile)) rfl
    s.focus.die (objDie (hobj q.h))).trans hrouted) s.focus.tile q.holder j
  have hwalk := walk_of_uncached (s := s.setTile s.focus.die s.focus.tile (s.tile s.focus.die s.focus.tile)) hcache s.focus.tile q.holder
  have hobj : (s.setTile s.focus.die s.focus.tile (s.tile s.focus.die s.focus.tile)).objOf (hobj q.h) = s.objOf (hobj q.h) := rfl
  rw [hobj] at hwalk
  show execTableWalk s = _
  rw [execTableWalk]
  simp only [hreq, hserves, Bool.true_eq_false, if_false, hindices, habsorb, hmissing, hcan, hwalk, hentries, List.nil_append]

/-- A load whose entries are all found, none of them in an S page, is answered. -/
theorem execTensorRequest_found {r : Run} (hrun : (s.ctx ⟨s.focus.die, s.focus.tile, q.ctx⟩).run = some r) (hvalue : q.value = none)
    (hmissing : q.missing (Desc.indices (s.objOf (hobj q.h)).desc q.els) = none) (hs : s.sPage q = false) (hup : ∀ l ∈ s.links, l.2 ≠ .down) :
    exec .tensorRequest s = .next (((s.setTile s.focus.die s.focus.tile (s.tile s.focus.die s.focus.tile)).updTile s.focus.die s.focus.tile fun x =>
      x.setReq s.index q).updTile s.focus.die s.focus.tile fun x => x.setReq s.index { q with value := some (s.answer r q) }) := by
  have habsorb := absorb_of_found hmissing (s.tile s.focus.die s.focus.tile) (hobj q.h)
  have hgate : ¬ (q.value.isSome = true ∨ (q.missing (Desc.indices (s.objOf (hobj q.h)).desc q.els)).isSome = true ∨
      (((s.setTile s.focus.die s.focus.tile (s.tile s.focus.die s.focus.tile)).updTile s.focus.die s.focus.tile fun x => x.setReq s.index q).sTurn
        s.focus.die s.focus.tile q = false) ∨
      (q.entries.all fun e => !entV e.2 || s.routed s.focus.die (entStack e.2)) = false) := by
    have hturn : ((s.setTile s.focus.die s.focus.tile (s.tile s.focus.die s.focus.tile)).updTile s.focus.die s.focus.tile fun x => x.setReq s.index q).sTurn
        s.focus.die s.focus.tile q = true := by
      refine sTurn_of_not_sPage ?_
      exact hs
    simp [hvalue, hmissing, hturn, routed_of_up hup]
  show execTensorRequest s = _
  rw [execTensorRequest]
  simp only [hreq, hrun, hserves, Bool.true_eq_false, if_false, habsorb, if_neg hgate]
  rfl

/-- The value of a reply reaches the load's target. -/
theorem execTensorReply_value {r : Run} {v : Reg} (hrun : (s.ctx ⟨s.focus.die, s.focus.tile, q.ctx⟩).run = some r) (hvalue : q.value = some (.value v))
    (h7 : q.target ≠ 0x7F#7) (hfree : r.tok q.target.toNat = none) (hres : r.reserved.contains q.target.toNat = false) :
    exec .tensorReply s = .next (((s.updTile s.focus.die s.focus.tile fun x => { x with reqs := dropAt x.reqs s.index }).updRun
      ⟨s.focus.die, s.focus.tile, q.ctx⟩ fun r => { r with loading := r.loading.filter (· != q.index) }).updRun
      ⟨s.focus.die, s.focus.tile, q.ctx⟩ fun r => { r with tokens := r.tokens ++ [(q.target.toNat, .val v)] }) := by
  have hne : q.target.toNat ≠ 0x7F := fun h => h7 (BitVec.eq_of_toNat_eq h)
  have hrun1 : (((s.updTile s.focus.die s.focus.tile fun x => { x with reqs := dropAt x.reqs s.index }).updRun
      ⟨s.focus.die, s.focus.tile, q.ctx⟩ fun r => { r with loading := r.loading.filter (· != q.index) }).ctx ⟨s.focus.die, s.focus.tile, q.ctx⟩).run =
      some { r with loading := r.loading.filter (· != q.index) } := by
    rw [State.ctx_updRun, State.ctx_updTile _ _ _ (fun x => { x with reqs := dropAt x.reqs s.index }) fun _ => rfl, hrun]
    rfl
  have hdeliver := deliver_free (some q.index) q.target.toNat (.val v) hrun1 fun _ => ⟨hfree, hres⟩
  rw [if_neg hne] at hdeliver
  show execTensorReply s = _
  rw [execTensorReply]
  simp only [hreq, hvalue, hserves, Bool.true_eq_false, if_false, hdeliver]

theorem execTensorReply_refused {c : Cause} {j : Word64} (hvalue : q.value = some (.refused c j)) :
    exec .tensorReply s = .next (((s.updTile s.focus.die s.focus.tile fun y => { y with reqs := dropAt y.reqs s.index }).updTile s.focus.die s.focus.tile fun y =>
      y.setAg q.ag { y.ag q.ag with cause := some c }).faultAt ⟨s.focus.die, s.focus.tile, q.ctx⟩ (some q.index) c q.h j) := by
  show execTensorReply s = _
  rw [execTensorReply]
  simp only [hreq, hvalue, hserves, Bool.true_eq_false, if_false]

end Requests

/-! ### At the home (R177) -/

theorem forwardEl_of_none {r : Run} (h : r.counted = []) (l : Nat) (obj : BitVec 32) (c : C4) : r.forwardEl l obj c = none := by
  rw [Run.forwardEl, h]
  rfl

/-- What the home answers a scalar load of one element, of a block that has stored nothing. -/
theorem answer_single {s : State} {r : Run} {q : TReq} {c : C4} {f : Nat} (hels : q.els = [c]) (hscalar : q.scalar = some f) (hc : r.counted = []) :
    s.answer r q =
      let l := Desc.locate (s.objOf (hobj q.h)).desc c
      let e := look 0#64 q.entries l.1
      if entV e = false then .refused .tensorNotPresent (BitVec.ofNat 64 l.1)
      else if s.badEl e l.2 q.size = true then .refused .uncorrectable (BitVec.ofNat 64 l.1)
      else .value (scalarResult f (s.peek e l.2 q.size)) := by
  rw [State.answer]
  simp only [hels, hscalar, forwardEl_of_none hc, List.find?_cons, List.find?_nil, List.map_cons, List.map_nil]
  cases entV (look 0#64 q.entries (Desc.locate (s.objOf (hobj q.h)).desc c).1)
  · rfl
  · cases s.badEl (look 0#64 q.entries (Desc.locate (s.objOf (hobj q.h)).desc c).1) (Desc.locate (s.objOf (hobj q.h)).desc c).2 q.size <;> rfl

/-! ### Read-ahead (R174) -/

theorem execStreamReadahead_open {s : State} (hb : ((s.tile s.focus.die s.focus.tile).ag s.index).bound = true)
    (hl : ((s.tile s.focus.die s.focus.tile).ag s.index).ahead.length < 4) (hi : s.index < 8)
    (hat : (s.ctx ⟨s.focus.die, s.focus.tile, ((s.tile s.focus.die s.focus.tile).ag s.index).owner⟩).atBarrier = none)
    (hopen : s.popOpen s.focus.die s.focus.tile s.index
      (((s.tile s.focus.die s.focus.tile).ag s.index).pos + ((s.tile s.focus.die s.focus.tile).ag s.index).ahead.length) = true)
    {x : Popped} {u : State} (hpop : s.popAt s.focus.die s.focus.tile s.index
      (((s.tile s.focus.die s.focus.tile).ag s.index).pos + ((s.tile s.focus.die s.focus.tile).ag s.index).ahead.length) = (x, u)) :
    exec .streamReadahead s = .next (match x with
      | .fault _ _ => u
      | .elem r => u.updTile s.focus.die s.focus.tile fun y => y.setAg s.index { y.ag s.index with ahead := (y.ag s.index).ahead ++ [r] }) := by
  have hgate : ¬ (((s.tile s.focus.die s.focus.tile).ag s.index).bound = false ∨ aheadLimit ≤ ((s.tile s.focus.die s.focus.tile).ag s.index).ahead.length ∨
      8 ≤ s.index ∨ (s.ctx ⟨s.focus.die, s.focus.tile, ((s.tile s.focus.die s.focus.tile).ag s.index).owner⟩).atBarrier.isSome = true ∨
      s.popOpen s.focus.die s.focus.tile s.index
        (((s.tile s.focus.die s.focus.tile).ag s.index).pos + ((s.tile s.focus.die s.focus.tile).ag s.index).ahead.length) = false) := by
    have h4 : ¬ aheadLimit ≤ ((s.tile s.focus.die s.focus.tile).ag s.index).ahead.length := Nat.not_le.mpr hl
    have h8 : ¬ 8 ≤ s.index := by omega
    simp [hb, h4, h8, hat, hopen]
  show execStreamReadahead s = _
  rw [execStreamReadahead]
  simp only [if_neg hgate, hpop]
  cases x <;> rfl

/-! ### Frame copies (R176) -/

theorem look_eq_getD {α : Type} (d : α) : ∀ (l : List (Nat × α)) (k : Nat), look d l k = (look? l k).getD d
  | [], _ => rfl
  | (j, v) :: l, k => by
    rw [look, look?]
    split
    · rfl
    · exact look_eq_getD d l k

theorem look?_of_wfFrom {k : Nat} : ∀ {l : List Host.Cell} {n : Nat}, Memory.wfFrom n l = true → k < n → look? l k = none
  | [], _, _, _ => rfl
  | (j, b) :: l, n, h, hk => by
    simp only [Memory.wfFrom, Bool.and_eq_true, decide_eq_true_eq] at h
    obtain ⟨⟨hn, -⟩, hl⟩ := h
    rw [look?, if_neg (by omega), look?_of_wfFrom hl (by omega)]

/-- Cells of canonical memory, from the key src on, written from the key dst on. -/
theorem read_foldl_moved {src dst j : Nat} : ∀ {l : List Host.Cell} {n : Nat} {m : List Host.Cell}, Memory.wfFrom n l = true → (∀ c ∈ l, src ≤ c.1) →
    Memory.read (l.foldl (fun m c => Memory.write m (c.1 - src + dst) c.2) m) (dst + j) = (look? l (src + j)).getD (Memory.read m (dst + j))
  | [], _, _, _, _ => rfl
  | (k, b) :: l, n, m, h, hsrc => by
    simp only [Memory.wfFrom, Bool.and_eq_true, decide_eq_true_eq] at h
    obtain ⟨⟨-, -⟩, hl⟩ := h
    have hk : src ≤ k := hsrc (k, b) (by simp)
    rw [List.foldl_cons, read_foldl_moved hl fun c hc => hsrc c (by simp [hc]), look?]
    split
    next he =>
      rw [look?_of_wfFrom hl (by omega), show dst + j = k - src + dst by omega]
      exact Memory.read_write ..
    next he => rw [Memory.read_write_ne _ _ (show dst + j ≠ k - src + dst by omega)]

theorem read_zeroAt (s : State) (k n j : Nat) : Memory.read (s.zeroAt k n).mem j = if k ≤ j ∧ j < k + n then 0#8 else Memory.read s.mem j := by
  have h := Memory.read_filter s.mem (fun c => !decide (k ≤ c ∧ c < k + n)) j
  refine h.trans ?_
  by_cases hj : k ≤ j ∧ j < k + n <;> simp [hj]

/-- The new frame holds what the old one holds. -/
theorem read_copyFrame_in {s : State} (hm : MemOk s) {src dst n j : Nat} (hj : j < n) :
    Memory.read (s.copyFrame src dst n).mem (dst + j) = Memory.read s.mem (src + j) := by
  have hread := Memory.read_filter s.mem (fun k => decide (src ≤ k ∧ k < src + n)) (src + j)
  rw [if_pos (by simp [hj])] at hread
  have hz : Memory.read (s.zeroAt dst n).mem (dst + j) = 0#8 := by rw [read_zeroAt, if_pos ⟨by omega, by omega⟩]
  have hmoved := read_foldl_moved (src := src) (dst := dst) (j := j) (m := (s.zeroAt dst n).mem)
    (Memory.wf_filter (fun c => decide (src ≤ c.1 ∧ c.1 < src + n)) hm) fun c hc => by
      have := (List.mem_filter.mp hc).2
      simp only [decide_eq_true_eq] at this
      exact this.1
  rw [hz] at hmoved
  rw [← hread]
  exact hmoved.trans (look_eq_getD ..).symm

theorem sameOutside_copyFrame (s : State) (src dst n : Nat) : SameOutside s.mem (s.copyFrame src dst n).mem [(dst, n)] := by
  intro k hk
  have hk : k < dst ∨ dst + n ≤ k := hk (dst, n) (by simp)
  refine (read_foldl_write (fun c => c - src + dst) (s.mem.filter fun c => decide (src ≤ c.1 ∧ c.1 < src + n)) (fun c hc => ?_) _).trans ?_
  · have := (List.mem_filter.mp hc).2
    simp only [decide_eq_true_eq] at this
    show k ≠ c.1 - src + dst
    omega
  · rw [read_zeroAt, if_neg (by omega)]

theorem objOf_setObj (s : State) (id : BitVec 32) (o : Obj) : (s.setObj id o).objOf id = o := by
  rw [State.objOf, State.setObj, State.updNd, State.die_updDie]
  exact look_put ..

theorem objOf_invalidate (s : State) (obj id : BitVec 32) (j : Option Nat) : (s.invalidate obj j).objOf id = s.objOf id := by
  have h : (s.invalidate obj j).die (objDie id) = (s.die (objDie id)).invalidate (some obj) j :=
    look_map ({} : Die) (fun _ x => x.invalidate (some obj) j) (fun _ => rfl) s.dies (objDie id)
  rw [State.objOf, h]
  rfl

theorem entry_put (o : Obj) (i j : Nat) (e : Word64) : ({ o with table := put o.table i e } : Obj).entry j = if j = i then e else o.entry j := by
  rw [Obj.entry]
  split
  next h => rw [h, look_put]
  next h => exact look_put_ne _ _ _ h

/-- The state once the copy c has ended and the object names the new frame. -/
def State.cowDone (s : State) (c : Cow) : State :=
  ((({ s with cow := dropAt s.cow s.index } : State).copyFrame (entKey ((s.objOf c.obj).entry c.index) 0) (hbmKey c.frame.stack (c.frame.no * 65536))
    (c.frame.units * 65536)).setObj c.obj { s.objOf c.obj with
      table := put (s.objOf c.obj).table c.index (setFld (setFld ((s.objOf c.obj).entry c.index) 32 24 c.frame.no) 2 1 0) }).invalidate c.obj (some c.index)

theorem execCowComplete_eq {s : State} {c : Cow} (hcow : s.cow[s.index]? = some c) (hlive : (s.objOf c.obj).live = true) (hinc : (s.objOf c.obj).inc = c.inc) :
    exec .cowComplete s = .next ((s.cowDone c).dropFrame (entStack ((s.objOf c.obj).entry c.index)) (entFrame ((s.objOf c.obj).entry c.index))) := by
  have hobj : ({ s with cow := dropAt s.cow s.index } : State).objOf c.obj = s.objOf c.obj := rfl
  have hgate : ¬ ((s.objOf c.obj).live = false ∨ (s.objOf c.obj).inc ≠ c.inc) := by simp [hlive, hinc]
  show execCowComplete s = _
  rw [execCowComplete]
  simp only [hcow, State.finishCow, hobj, if_neg hgate]
  rfl

theorem execCowComplete_gone {s : State} {c : Cow} (hcow : s.cow[s.index]? = some c) (hgone : (s.objOf c.obj).live = false ∨ (s.objOf c.obj).inc ≠ c.inc) :
    exec .cowComplete s = .next (({ s with cow := dropAt s.cow s.index } : State).dropFrame c.frame.stack c.frame.no) := by
  have hobj : ({ s with cow := dropAt s.cow s.index } : State).objOf c.obj = s.objOf c.obj := rfl
  show execCowComplete s = _
  rw [execCowComplete]
  simp only [hcow, State.finishCow, hobj, if_pos hgone]

theorem objOf_finished (s : State) (c : Cow) (a b : Nat) : ((s.cowDone c).dropFrame a b).objOf c.obj = { s.objOf c.obj with
    table := put (s.objOf c.obj).table c.index (setFld (setFld ((s.objOf c.obj).entry c.index) 32 24 c.frame.no) 2 1 0) } := by
  show (s.cowDone c).objOf c.obj = _
  rw [State.cowDone, objOf_invalidate, objOf_setObj]

theorem reqs_updRun (s : State) (p : Place) (f : Run → Run) : ((s.updRun p f).tile p.die p.tile).reqs = (s.tile p.die p.tile).reqs := by
  rw [State.updRun, State.tile_updCtx]

/-- Settles O29: walks, answers, replies, read-ahead, and the ends of frame copies. -/
theorem tensorRequestsAndCopyEnds : Obligations.TensorRequestsAndCopyEnds := by
  refine ⟨fun s q => ⟨fun hreq hserves => ⟨fun c hels hentries hholder hcache hrouted => ?_, fun r hrun hvalue hmissing hfound htable hup => ?_,
    fun r v hrun hvalue h7 hfree hres => ?_, fun c j hvalue => execTensorReply_refused hreq hserves hvalue⟩, fun r c f hels hscalar hc => ?_, rfl,
    fun hb hl hi hat hopen => ⟨fun e u hpop => ?_, fun c j u hpop => ?_⟩⟩, fun s c => ?_⟩
  · refine ⟨_, execTableWalk_single hreq hserves rfl hels hentries hholder hcache hrouted, reqs_setReq (q := q) ?_ _, rfl⟩
    rw [reqs_walked, State.tile_setTile, hreq]
  · have hs : s.sPage q = false := by
      rw [State.sPage]
      simpa using ⟨fun a b h => hfound (a, b) h, htable⟩
    refine ⟨_, execTensorRequest_found hreq hserves hrun hvalue hmissing hs hup, reqs_setReq (q := q) (reqs_setReq (q := q) ?_ _) _, rfl⟩
    rw [State.tile_setTile, hreq]
  · refine ⟨_, execTensorReply_value hreq hserves hrun hvalue h7 hfree hres, ?_, rfl, ?_⟩
    · rw [show s.focus.die = (⟨s.focus.die, s.focus.tile, q.ctx⟩ : Place).die from rfl, show s.focus.tile = (⟨s.focus.die, s.focus.tile, q.ctx⟩ : Place).tile from rfl,
        reqs_updRun, reqs_updRun, State.tile_updTile]
    · rw [State.ctx_updRun, State.ctx_updRun, State.ctx_updTile _ _ _ (fun x => { x with reqs := dropAt x.reqs s.index }) fun _ => rfl, hrun]
      rfl
  · rw [answer_single hels hscalar hc]
    exact ⟨fun h => if_pos h, fun h h1 => by simp only [h, h1]; rfl, fun h h1 => by simp only [h, h1]; rfl⟩
  · exact execStreamReadahead_open hb hl hi hat hopen hpop
  · exact execStreamReadahead_open hb hl hi hat hopen hpop
  · intro o e dst n hcow hm
    refine ⟨fun hlive hinc => ?_, fun hgone => ?_⟩
    · have hentry (j : Nat) := (congrArg (Obj.entry · j) (objOf_finished s c (entStack e) (entFrame e))).trans (entry_put ..)
      refine ⟨_, execCowComplete_eq hcow hlive hinc, rfl, (hentry _).trans (if_pos rfl), fun j hj => (hentry j).trans (if_neg hj), fun j hj => ?_, ?_⟩
      · exact read_copyFrame_in (s := { s with cow := dropAt s.cow s.index }) hm hj
      · exact sameOutside_copyFrame { s with cow := dropAt s.cow s.index } _ _ _
    · exact execCowComplete_gone hcow hgone

end Sys2Proof.Machine
end

section
/-! PROOFS of the copy engine, the Dealer and the landing buffer (11_tensor_access.md R179, R180, 12_tae_instructions.md R191 to R196,
06_block_engine.md R99, R102). -/

namespace Sys2Proof.Machine

open Sys2Proof.Safety

/-! ### The next number in turn completes (R18) -/

section Next

variable {s : State} {p : Place} {e : Engine} {n : Nat} (hp : p.ctx < 8) (hn : (s.ctx p).done.get e + 1 = n) (hout : (s.ctx p).doneOut = [])
include hn hout

theorem advance_next (recf : List RecFault) : advance e ((s.ctx p).doneOut.length + 1) { s.ctx p with doneOut := (s.ctx p).doneOut ++ [(e, n)], recf := recf } =
    { s.ctx p with done := (s.ctx p).done.set e n, doneOut := [], recf := recf } := by
  rw [hout, List.length_nil, Nat.zero_add, advance]
  simp [hn, advance]

include hp

theorem ctx_complete_none : (s.complete p e n none).ctx p = { s.ctx p with done := (s.ctx p).done.set e n, doneOut := [] } := by
  have hadv := advance_next (e := e) hn hout (s.ctx p).recf
  have hctx : (s.completeIn p e n none).ctx p = _ := (State.ctx_updDie ..).trans (State.ctx_setCtx ..)
  rw [State.complete, if_neg (by omega), (noteError_quiet _ _ _).2.2, hctx]
  exact hadv

theorem done_complete (f : Option Cause) : ((s.complete p e n f).ctx p).done = (s.ctx p).done.set e n := by
  have hadv := advance_next (e := e) hn hout (s.ctx p).recf
  have hctx : (s.completeIn p e n f).ctx p = _ := (State.ctx_updDie ..).trans (State.ctx_setCtx ..)
  have hdone := congrArg Ctx.done hadv
  rw [State.complete, if_neg (by omega), (noteError_quiet _ _ _).2.2, hctx]
  cases f with
  | none => exact hdone
  | some k =>
    dsimp only
    split <;> exact hdone

end Next

/-! ### Starts and ends of copies (R179, R196) -/

section Copy

variable {s : State} {e : CopyEntry}

section Start

variable (hfree : (s.tile s.focus.die s.focus.tile).copyFrozen = false)
  (hfew : ((s.tile s.focus.die s.focus.tile).copyQ.filter CopyEntry.running).length < 4)
  (hnext : ((s.tile s.focus.die s.focus.tile).copyQ.find? fun y => !y.running) = some e)
include hfree hfew hnext

theorem execCopyStart_cpy {out : Bool} {c : BitVec 512} {h : Word64} {a : Nat} (hcmd : e.cmd = .cpy out c h a) : exec .copyStart s =
    .next (s.updTile s.focus.die s.focus.tile fun y => { y with copyQ := y.copyQ.map fun z =>
      if z.ctx = e.ctx ∧ z.num = e.num then { z with running := true, sent := false } else z }) := by
  show execCopyStart s = _
  rw [execCopyStart]
  simp only [hfree, hnext, hcmd, copyRunning, Nat.not_le.mpr hfew, Bool.false_eq_true, or_self, if_false]

theorem execCopyStart_freezes {dst a : Word64} {n : Nat} (hcmd : e.cmd = .cpyt dst a n) (hfate : s.cpytFate s.focus.die dst n e.super = .freezes) :
    exec .copyStart s = .next ((s.updTile s.focus.die s.focus.tile fun y => { y with copyFrozen := true }).freeze (.copyQueue s.focus.die s.focus.tile) []
      e.region dst) := by
  show execCopyStart s = _
  rw [execCopyStart]
  simp only [hfree, hnext, hcmd, copyRunning, Nat.not_le.mpr hfew, Bool.false_eq_true, or_self, if_false, hfate, if_true]

theorem execCopyStart_fails {dst a : Word64} {g : Nat} {c : Cause} (hcmd : e.cmd = .cpytLand dst a g) (hentry : s.cpytEntry s.focus.die dst = .error c) :
    exec .copyStart s = .next (s.copyDone s.focus.die s.focus.tile e (some c)) := by
  show execCopyStart s = _
  rw [execCopyStart]
  simp only [hfree, hnext, hcmd, copyRunning, Nat.not_le.mpr hfew, Bool.false_eq_true, or_self, if_false, hentry]

end Start

section Complete

variable (hcopy : (s.tile s.focus.die s.focus.tile).copyQ[s.index]? = some e)
include hcopy

theorem execCopyComplete_waits (h : s.copyOpen s.focus.die s.focus.tile e = false ∨ (e.boxes = true ∧ (s.die s.focus.die).stopped = true)) :
    exec .copyComplete s = .next s := by
  show execCopyComplete s = _
  rw [execCopyComplete]
  simp only [hcopy, if_pos (Or.inr (Or.inr h))]

variable (hrunning : e.running = true) (hsent : e.sent = false) (hopen : s.copyOpen s.focus.die s.focus.tile e = true)
  (hboxes : e.boxes = true → (s.die s.focus.die).stopped = false)
include hrunning hsent hopen hboxes

theorem execCopyComplete_ready {f : Option (Option Cause)} {v : State} (h : s.copyEffect s.focus.die s.focus.tile e = (f, v)) : exec .copyComplete s = .next
    (f.elim v fun f => v.copyDone s.focus.die s.focus.tile e f) := by
  have hgate : ¬ (e.running = false ∨ e.sent = true ∨ s.copyOpen s.focus.die s.focus.tile e = false ∨
      (e.boxes = true ∧ (s.die s.focus.die).stopped = true)) := by
    rintro (h | h | h | ⟨h, h1⟩)
    · rw [hrunning] at h; cases h
    · rw [hsent] at h; cases h
    · rw [hopen] at h; cases h
    · rw [hboxes h] at h1; cases h1
  show execCopyComplete s = _
  rw [execCopyComplete]
  simp only [hcopy, if_neg hgate, h]
  cases f <;> rfl

end Complete

theorem mapRange_store {k : Nat} (h : k < 0x200000) : mapRange k = (.store, k, 0x200000 - k) := if_pos h

theorem boxes_of_store {dst a : Word64} {n u k : Nat} (hcmd : e.cmd = .cpyt dst a n) (hmap : mapTile dst.toNat = some (u, k)) (hk : k < 0x200000) :
    e.boxes = false := by
  simp only [CopyEntry.boxes, hcmd, hmap, mapRange_store hk]
  rfl

theorem copyOpen_cpyt {dst a : Word64} {n : Nat} (hcmd : e.cmd = .cpyt dst a n) (d t : Nat) : s.copyOpen d t e = true := by
  rw [State.copyOpen, hcmd]

theorem copyEffect_store {dst a : Word64} {n u k d t : Nat} (hcmd : e.cmd = .cpyt dst a n) (hmap : mapTile dst.toNat = some (u, k)) (hk : k < 0x200000)
    (hbad : s.badAt (lsKey d t a.toNat) n = false) :
    s.copyEffect d t e = (some none, s.writeLs ⟨d, u, 0⟩ k (s.readLs ⟨d, t, 0⟩ a.toNat n)) := by
  simp only [State.copyEffect, hcmd, hmap, hbad, mapRange_store hk, Bool.false_eq_true, if_false]

theorem copyEffect_cpy {c : BitVec 512} {h : Word64} {a d t : Nat} {l : List (C4 × Nat)} {f : Option Cause} {v : State} (hcmd : e.cmd = .cpy false c h a)
    (hread : s.readWindow d t e.owners e.region h (boxCoords (cgOrg c) (cgExt c)) = ((l, f), v)) :
    s.copyEffect d t e = (some f, v.image d t a (Desc.bits (s.objOf (hobj h)).desc) (l.map (·.2))) := by
  simp only [State.copyEffect, hcmd, hread]

theorem boxes_cpy {c : BitVec 512} {h : Word64} {a : Nat} {out : Bool} (hcmd : e.cmd = .cpy out c h a) : e.boxes = false := by
  rw [CopyEntry.boxes, hcmd]

theorem ctx_copyDone_none {d t : Nat} (hctx : e.ctx < 8) (hn : (s.ctx ⟨d, t, e.ctx⟩).done.ce + 1 = e.num) (hout : (s.ctx ⟨d, t, e.ctx⟩).doneOut = []) :
    (s.copyDone d t e none).ctx ⟨d, t, e.ctx⟩ = { s.ctx ⟨d, t, e.ctx⟩ with done := (s.ctx ⟨d, t, e.ctx⟩).done.set .ce e.num, doneOut := [] } := by
  have h : (s.updTile d t fun x => { x with copyQ := x.copyQ.filter fun y => !(y.ctx == e.ctx && y.num == e.num) }).ctx ⟨d, t, e.ctx⟩ = s.ctx ⟨d, t, e.ctx⟩ :=
    State.ctx_updTile _ _ _ (fun x => { x with copyQ := x.copyQ.filter fun y => !(y.ctx == e.ctx && y.num == e.num) }) (fun _ => rfl) _
  rw [State.copyDone, ctx_complete_none (e := .ce) hctx (by rw [h]; exact hn) (by rw [h]; exact hout), h]

theorem copyDone_mem (d t : Nat) (f : Option Cause) : (s.copyDone d t e f).mem = s.mem := by
  rw [State.copyDone, State.complete_mem]
  rfl

theorem execDealerRun_ready {u : Nat} {f : Option Cause} {v : State} (hdeal : (s.die s.focus.die).deals[s.index]? = some (u, e))
    (hopen : s.copyOpen s.focus.die u e = true) (h : s.copyEffect s.focus.die u e = (some f, v)) : exec .dealerRun s =
      .next ((v.updDie s.focus.die fun y => { y with deals := dropAt y.deals s.index }).complete ⟨s.focus.die, u, e.ctx⟩ .ce e.num f) := by
  show execDealerRun s = _
  rw [execDealerRun]
  simp only [hdeal, hopen, h, Bool.true_eq_false, if_false]

end Copy

/-! ### The landing buffer (R99, R102) -/

/-- The transfer f has filled its landing entry. -/
def State.filled (s : State) (d t i : Nat) (f : Fill) : State := s.updTile d t fun x =>
  { x.setLb f.entry { bits := f.reg.clean.bits, tag := f.reg.tag, full := true, cmd := f.command } with fills := dropAt x.fills i }

theorem tile_filled (s : State) (d t i : Nat) (f : Fill) : (s.filled d t i f).tile d t =
    { (s.tile d t).setLb f.entry { bits := f.reg.clean.bits, tag := f.reg.tag, full := true, cmd := f.command } with fills := dropAt (s.tile d t).fills i } :=
  State.tile_updTile ..

theorem lb_setLb (t : Tile) (k j : Nat) (l : Landing) : (t.setLb k l).lb j = if j = k then l else t.lb j := by
  rw [Tile.lb, Tile.setLb]
  split
  next h => rw [h, look_put]
  next h => exact look_put_ne _ _ _ h

section Fill

variable {s : State} {f : Fill} (hstopped : (s.die s.focus.die).stopped = false) (hfill : (s.tile s.focus.die s.focus.tile).fills[s.index]? = some f)
  (hfree : ((s.tile s.focus.die s.focus.tile).lb f.entry).full = false)
  (hfirst : ∀ g ∈ (s.tile s.focus.die s.focus.tile).fills.take s.index, g.entry ≠ f.entry)
include hstopped hfill hfree hfirst

omit hfill in
theorem landingFill_gate : ¬ ((s.die s.focus.die).stopped = true ∨ ((s.tile s.focus.die s.focus.tile).lb f.entry).full = true ∨
    (((s.tile s.focus.die s.focus.tile).fills.take s.index).any fun g => g.entry == f.entry) = true) := by
  rintro (h | h | h)
  · rw [hstopped] at h; cases h
  · rw [hfree] at h; cases h
  · obtain ⟨g, hg, he⟩ := List.any_eq_true.mp h
    exact hfirst g hg (by simpa using he)

theorem execLandingFill_plain (hdone : f.done = none) (hcard : f.card = none) :
    exec .landingFill s = .next (s.filled s.focus.die s.focus.tile s.index f) := by
  show execLandingFill s = _
  rw [execLandingFill]
  simp only [hfill, if_neg (landingFill_gate hstopped hfree hfirst), hdone, hcard]
  rfl

theorem execLandingFill_done {p : Place} {e : Engine} {n : Nat} (hdone : f.done = some (p, e, n)) :
    exec .landingFill s = .next (((s.filled s.focus.die s.focus.tile s.index f).updTile p.die p.tile fun y =>
      { y with copyQ := y.copyQ.filter fun c => !(e == .ce && c.ctx == p.ctx && c.num == n) }).complete p e n none) := by
  show execLandingFill s = _
  rw [execLandingFill]
  simp only [hfill, if_neg (landingFill_gate hstopped hfree hfirst), hdone]
  rfl

end Fill

theorem landing_complete (s : State) (p : Place) (e : Engine) (n : Nat) (f : Option Cause) :
    ((s.complete p e n f).tile p.die p.tile).landing = (s.tile p.die p.tile).landing := by
  have h (u : State) : ((u.noteError p.die f).tile p.die p.tile) = u.tile p.die p.tile := by
    unfold State.noteError
    split <;> rfl
  have hset (c : Ctx) : ((s.setCtx p c).tile p.die p.tile).landing = (s.tile p.die p.tile).landing := by
    rw [State.setCtx, State.tile_updTile]
  unfold State.complete
  split
  · rfl
  · rw [h]
    exact hset _

theorem execLbTagStateWrite_open {s : State} (b : BitVec 8) (h : s.index < 48 ∨ (56 ≤ s.index ∧ s.index < 64)) : exec (.lbTagStateWrite b) s =
    .next (s.updTile s.focus.die s.focus.tile fun t => t.setLb s.index { t.lb s.index with tag := Tag.ofNum (b.toNat % 16), full := true }) :=
  congrArg Host.Outcome.next (if_pos h)

theorem execLbTagStateWrite_kept {s : State} (b : BitVec 8) (h : ¬ (s.index < 48 ∨ (56 ≤ s.index ∧ s.index < 64))) :
    exec (.lbTagStateWrite b) s = .next s := congrArg Host.Outcome.next (if_neg h)

/-- Settles O30: the copy queue, the Dealer, and the landing buffer. -/
theorem copyEngineRuns : Obligations.CopyEngineRuns := by
  intro s e d t x p hctx
  refine ⟨fun hfree hfew hnext => ⟨fun out c h a hcmd => ?_, fun dst a n hcmd hfate => ?_, fun dst a g c hcmd hentry => ?_⟩,
    fun hcopy hrunning hsent => ⟨fun dst a n u k hcmd hmap hk hbad hn hout => ?_, fun c h a l f v hcmd hopen hread => ?_, fun v hopen hboxes heff => ?_,
      fun f v hopen hboxes heff => ?_, execCopyComplete_waits hcopy⟩,
    fun u f v hdeal hopen heff => execDealerRun_ready hdeal hopen heff, fun f hstopped hfill hfree hfirst => ⟨fun hdone hcard => ?_, fun n hdone hn hout => ?_⟩,
    fun b hlt => ⟨fun hi => ?_, fun h48 h56 => ?_⟩⟩
  · exact execCopyStart_cpy hfree hfew hnext hcmd
  · exact execCopyStart_freezes hfree hfew hnext hcmd hfate
  · exact execCopyStart_fails hfree hfew hnext hcmd hentry
  · have hexec : exec .copyComplete s = .next ((s.writeLs ⟨d, u, 0⟩ k (s.readLs ⟨d, t, 0⟩ a.toNat n)).copyDone d t e none) :=
    execCopyComplete_ready hcopy hrunning hsent (copyOpen_cpyt hcmd d t) (fun h => absurd h (by rw [boxes_of_store hcmd hmap hk]; simp))
      (copyEffect_store hcmd hmap hk hbad)
    have hctx := ctx_copyDone_none (s := s.writeLs ⟨d, u, 0⟩ k (s.readLs ⟨d, t, 0⟩ a.toNat n)) (d := d) (t := t) hctx hn hout
    have hlen : (s.readLs ⟨d, t, 0⟩ a.toNat n).length = n := Memory.length_readN ..
    refine ⟨_, hexec, ?_, ?_, by rw [hctx]; rfl, by rw [hctx]; rfl⟩
    · rw [copyDone_mem]
      exact holds_writeN _ _ _
    · rw [copyDone_mem]
      have := sameOutside_writeN s.mem (lsKey d u k) (s.readLs ⟨d, t, 0⟩ a.toNat n)
      rw [hlen] at this
      exact this
  · exact execCopyComplete_ready hcopy hrunning hsent hopen (fun h1 => absurd h1 (by rw [boxes_cpy hcmd]; simp)) (copyEffect_cpy hcmd hread)
  · exact execCopyComplete_ready hcopy hrunning hsent hopen hboxes heff
  · exact execCopyComplete_ready hcopy hrunning hsent hopen hboxes heff
  · refine ⟨_, execLandingFill_plain hstopped hfill hfree hfirst hdone hcard, ?_, ?_, fun k hk => ?_, rfl⟩
    · rw [Tile.lb, tile_filled]
      refine (look_put ..).trans ?_
      rw [Fill.command, hdone, hcard]
      rfl
    · rw [tile_filled]
    · rw [Tile.lb, tile_filled]
      exact look_put_ne _ _ _ hk
  · have hctx1 : ((s.filled d t s.index f).updTile d t fun y =>
        { y with copyQ := y.copyQ.filter fun c => !(Engine.ce == .ce && c.ctx == p.ctx && c.num == n) }).ctx p = s.ctx p := by
      rw [State.ctx_updTile _ _ _ (fun y => { y with copyQ := y.copyQ.filter fun c => !(Engine.ce == .ce && c.ctx == p.ctx && c.num == n) }) fun _ => rfl,
        State.filled, State.ctx_updTile _ _ _ (fun x => { x.setLb f.entry { bits := f.reg.clean.bits, tag := f.reg.tag, full := true, cmd := f.command } with
          fills := dropAt x.fills s.index }) fun _ => rfl]
    refine ⟨_, execLandingFill_done hstopped hfill hfree hfirst hdone, ?_, ?_⟩
    · rw [Tile.lb, landing_complete _ p, State.tile_updTile]
      show (look {} ((s.filled d t s.index f).tile d t).landing f.entry).full = true
      rw [tile_filled]
      exact congrArg Landing.full (look_put ..)
    · rw [ctx_complete_none (p := p) hctx (by rw [hctx1]; exact hn) (by rw [hctx1]; exact hout)]
      rfl
  · refine ⟨_, execLbTagStateWrite_open b (by omega), ?_⟩
    rw [State.tile_updTile, lb_setLb, if_pos rfl]
    exact ⟨rfl, rfl, rfl, rfl⟩
  · exact execLbTagStateWrite_kept b (by omega)

end Sys2Proof.Machine
end

section
/-! PROOFS of cards on their way, their acknowledgements and allowances (16_message_engine.md R226, R233, 18_msg_instructions.md R271). -/

namespace Sys2Proof.Machine

open Sys2Proof.Safety

/-! ### A message to another hub waits at its own (R253) -/

/-- What waits at a hub for a body sent to another one. -/
def State.message (s : State) (src dst : Nat) (b : Body) : Msg :=
  { src := src, dst := dst, cls := b.kind.2.1, ordered := b.kind.2.2, mtype := b.kind.1, body := b
    bytes := match b with
      | .card x => x.payload
      | _ => []
    dest := (s.bodyWords src dst b).1, srcw := (s.bodyWords src dst b).2 }

theorem send_other {s : State} {src dst : Nat} (h : dst ≠ src) (b : Body) :
    s.send src dst b = s.updFab src fun f => { f with outbox := f.outbox ++ [s.message src dst b] } := if_neg h

theorem send_self {s : State} {src dst : Nat} (h : dst = src) (b : Body) : s.send src dst b = s.accept src none b := by
  subst h
  exact if_pos rfl

theorem fab_updFab (s : State) (d : Nat) (f : Fab → Fab) : ((s.updFab d f).die d).fab = f (s.die d).fab := by
  rw [State.updFab, State.die_updDie]

/-! ### The last card of a command completes its number (R226, R271) -/

theorem mse_updCtx (s : State) (p : Place) (f : Ctx → Ctx) : ((s.updCtx p f).tile p.die p.tile).mse = (s.tile p.die p.tile).mse := by
  rw [State.tile_updCtx]

theorem tile_complete (s : State) (p : Place) (e : Engine) (n : Nat) (f : Option Cause) : ∃ ctxs,
    (s.complete p e n f).tile p.die p.tile = { s.tile p.die p.tile with ctxs := ctxs } := by
  have h (u : State) : ((u.noteError p.die f).tile p.die p.tile) = u.tile p.die p.tile := by
    unfold State.noteError
    split <;> rfl
  have hset (c : Ctx) : (s.setCtx p c).tile p.die p.tile = { s.tile p.die p.tile with ctxs := put (s.tile p.die p.tile).ctxs p.ctx c } := State.tile_updTile ..
  unfold State.complete
  split
  · exact ⟨_, rfl⟩
  · rw [h]
    exact ⟨_, hset _⟩

theorem complete_of_ctx {s : State} {p : Place} (hp : p.ctx < 8) (e : Engine) (n : Nat) {f : Option Cause} (hf : f ≠ some .uncorrectable) :
    s.complete p e n f = s.completeIn p e n f := by
  rw [State.complete, if_neg (by omega), State.noteError, if_neg hf]

/-- A fault of the next number of context 0 is recorded on it. -/
theorem recf_complete_zero {s : State} {p : Place} {e : Engine} {n : Nat} {k : Cause} (hp : p.ctx = 0) (hk : k ≠ .uncorrectable)
    (hn : (s.ctx p).done.get e + 1 = n) (hout : (s.ctx p).doneOut = []) :
    ((s.complete p e n (some k)).ctx p).recf = (s.ctx p).recf ++ [⟨e, n, k, false⟩] := by
  have hadv := advance_next (e := e) hn hout (s.ctx p).recf
  have hctx : (s.completeIn p e n (some k)).ctx p = _ := (State.ctx_updDie ..).trans (State.ctx_setCtx ..)
  rw [complete_of_ctx (by omega) _ _ (by simpa using hk), hctx]
  dsimp only
  rw [if_neg (by simp [hp])]
  exact congrArg (·.recf ++ [⟨e, n, k, false⟩]) hadv

section Done

variable {s : State} {p : Place} {e : MseEntry} {n : Nat}

/-- The state once the only command of a tile's card unit has left it. -/
def State.mseEmpty (s : State) (p : Place) : State := s.updTile p.die p.tile fun t => { t with mse := [] }

theorem mseDone_single (hmse : (s.tile p.die p.tile).mse = [e]) (hctx : e.ctx = p.ctx) (hnum : e.num = n) (hframe : e.frame = none) (f : Option Cause) :
    s.mseDone p n f = (s.mseEmpty p).complete p .mse n f := by
  have hfind : ((s.tile p.die p.tile).mse.find? fun x => x.ctx == p.ctx && x.num == n) = some e := by simp [hmse, hctx, hnum]
  have hleft : (s.updTile p.die p.tile fun t => { t with mse := t.mse.filter fun x => !(x.ctx == p.ctx && x.num == n) }) = s.mseEmpty p := by
    rw [State.mseEmpty, State.updTile, State.updTile, hmse]
    simp [hctx, hnum]
  rw [State.mseDone, hfind]
  simp only [hframe]
  rw [← hleft]

theorem cardDone_last (hmse : (s.tile p.die p.tile).mse = [e]) (hctx : e.ctx = p.ctx) (hnum : e.num = n) (hout : e.out = 1) (hunsent : e.unsent = false)
    (hfault : e.fault = none) (hframe : e.frame = none) (f : Option Cause) : s.cardDone p n f = (s.mseEmpty p).complete p .mse n f := by
  have hfind : ((s.tile p.die p.tile).mse.find? fun x => x.ctx == p.ctx && x.num == n) = some e := by simp [hmse, hctx, hnum]
  have hlast : ({ e with out := e.out - 1, fault := e.fault.or f } : MseEntry).out = 0 ∧
      ({ e with out := e.out - 1, fault := e.fault.or f } : MseEntry).unsent = false := ⟨by simp [hout], hunsent⟩
  rw [State.cardDone, hfind]
  dsimp only
  rw [if_pos hlast, hfault]
  exact mseDone_single hmse hctx hnum hframe f

theorem ctx_mseEmpty (s : State) (p : Place) : (s.mseEmpty p).ctx p = s.ctx p :=
  State.ctx_updTile _ _ _ (fun t => { t with mse := [] }) (fun _ => rfl) _

theorem mse_done (s : State) (p : Place) (n : Nat) (f : Option Cause) : (((s.mseEmpty p).complete p .mse n f).tile p.die p.tile).mse = [] := by
  obtain ⟨ctxs, h⟩ := tile_complete (s.mseEmpty p) p .mse n f
  rw [h, State.mseEmpty, State.tile_updTile]

end Done

/-! ### Sending (R226, R233) -/

/-- The first command's next card has left the unit of the tile d, t: what is left of the command is e1. -/
def State.mseLeft (s : State) (d t : Nat) (e1 : MseEntry) (l : List MseEntry) : State := s.updTile d t fun x => { x with mse := e1 :: l }

theorem set_mse {s : State} {d t i : Nat} {e e1 : MseEntry} {l : List MseEntry} (h : (s.tile d t).mse = e :: l) (hi : i = 0) :
    (s.updTile d t fun x => { x with mse := x.mse.set i e1 }) = s.mseLeft d t e1 l := by
  rw [State.mseLeft, State.updTile, State.updTile, h, hi]
  rfl

section Send

variable {s : State} {e : MseEntry} {l : List MseEntry} (hmse : (s.tile s.focus.die s.focus.tile).mse = e :: l) (hi : s.index = 0)
include hmse hi

theorem execCardSend_held (h : (s.tile s.focus.die s.focus.tile).held = true ∨ (s.die s.focus.die).stopped = true ∨
    s.holdsBack ⟨s.focus.die, s.focus.tile, e.ctx⟩ = true) : exec .cardSend s = .next s := by
  have hgate : (((((s.tile s.focus.die s.focus.tile).mse.take s.index).any fun x => x.ctx == e.ctx && x.unsent) || (s.tile s.focus.die s.focus.tile).held ||
      (s.die s.focus.die).stopped) || s.holdsBack ⟨s.focus.die, s.focus.tile, e.ctx⟩) = true := by
    rcases h with h | h | h <;> simp [h]
  have hget : (s.tile s.focus.die s.focus.tile).mse[s.index]? = some e := by rw [hmse, hi]; rfl
  show execCardSend s = _
  rw [execCardSend]
  simp only [hget, hgate]

variable (hheld : (s.tile s.focus.die s.focus.tile).held = false) (hstopped : (s.die s.focus.die).stopped = false)
  (hback : s.holdsBack ⟨s.focus.die, s.focus.tile, e.ctx⟩ = false)
include hheld hstopped hback

omit hmse in
theorem cardSend_gate : (((((s.tile s.focus.die s.focus.tile).mse.take s.index).any fun x => x.ctx == e.ctx && x.unsent) ||
    (s.tile s.focus.die s.focus.tile).held || (s.die s.focus.die).stopped) || s.holdsBack ⟨s.focus.die, s.focus.tile, e.ctx⟩) = false := by
  simp [hi, hheld, hstopped, hback]

theorem execCardSend_free {c : Card} {m : List Card} (hcmd : e.cmd = .cards (c :: m) none) : exec .cardSend s =
    .next ((s.mseLeft s.focus.die s.focus.tile { e with cmd := .cards m none, out := e.out + 1 } l).leave ⟨s.focus.die, s.focus.tile, e.ctx⟩ c) := by
  have hget : (s.tile s.focus.die s.focus.tile).mse[s.index]? = some e := by rw [hmse, hi]; rfl
  have hnext : s.nextCard ⟨s.focus.die, s.focus.tile, e.ctx⟩ e = some (some c, .cards m none) := by rw [State.nextCard, hcmd]
  have hleft := set_mse (e1 := { e with cmd := .cards m none, out := e.out + 1 }) hmse hi
  show execCardSend s = _
  rw [execCardSend]
  simp only [hget, cardSend_gate hi hheld hstopped hback, hnext, hcmd, hleft]

theorem execCardSend_blocked {c : Card} {m : List Card} {i : Nat} (hcmd : e.cmd = .cards (c :: m) (some i))
    (hallow : (s.tile s.focus.die s.focus.tile).allowed i c = false) :
    exec .cardSend s = .next (s.updTile s.focus.die s.focus.tile fun y => y.block i s.cycle) := by
  have hget : (s.tile s.focus.die s.focus.tile).mse[s.index]? = some e := by rw [hmse, hi]; rfl
  have hnext : s.nextCard ⟨s.focus.die, s.focus.tile, e.ctx⟩ e = some (some c, .cards m (some i)) := by rw [State.nextCard, hcmd]
  show execCardSend s = _
  rw [execCardSend]
  simp only [hget, cardSend_gate hi hheld hstopped hback, hnext, hcmd, hallow, Bool.false_eq_true, if_false]

theorem execCardSend_charged {c : Card} {m : List Card} {i : Nat} (hcmd : e.cmd = .cards (c :: m) (some i))
    (hallow : (s.tile s.focus.die s.focus.tile).allowed i c = true) : exec .cardSend s =
    .next (((s.updTile s.focus.die s.focus.tile fun x => x.charge i (cardSlots c.len)).mseLeft s.focus.die s.focus.tile
      { e with cmd := .cards m (some i), out := e.out + 1 } l).leave ⟨s.focus.die, s.focus.tile, e.ctx⟩ c) := by
  have hget : (s.tile s.focus.die s.focus.tile).mse[s.index]? = some e := by rw [hmse, hi]; rfl
  have hnext : s.nextCard ⟨s.focus.die, s.focus.tile, e.ctx⟩ e = some (some c, .cards m (some i)) := by rw [State.nextCard, hcmd]
  have hmse1 : ((s.updTile s.focus.die s.focus.tile fun x => x.charge i (cardSlots c.len)).tile s.focus.die s.focus.tile).mse = e :: l := by
    rw [State.tile_updTile]
    exact hmse
  have hleft := set_mse (e1 := { e with cmd := .cards m (some i), out := e.out + 1 }) hmse1 hi
  show execCardSend s = _
  rw [execCardSend]
  simp only [hget, cardSend_gate hi hheld hstopped hback, hnext, hcmd, hallow, if_true, hleft]

end Send

theorem tile_mseLeft (s : State) (d t : Nat) (e : MseEntry) (l : List MseEntry) : (s.mseLeft d t e l).tile d t = { s.tile d t with mse := e :: l } :=
  State.tile_updTile ..

theorem ctx_mseLeft (s : State) (d t : Nat) (e : MseEntry) (l : List MseEntry) (q : Place) : (s.mseLeft d t e l).ctx q = s.ctx q :=
  State.ctx_updTile _ _ _ (fun x => { x with mse := e :: l }) (fun _ => rfl) _

theorem execCardAck_eq {s : State} {u c n : Nat} {f : Option Cause} (h : (s.die s.focus.die).acks[s.index]? = some (u, c, n, f)) : exec .cardAck s =
    .next ((s.updDie s.focus.die fun x => { x with acks := dropAt x.acks s.index }).cardDone ⟨s.focus.die, u, c⟩ n f) := by
  show execCardAck s = _
  rw [execCardAck]
  simp only [h]

section Leave

variable {s : State} {p : Place} {c : Card}

theorem leave_here (hdst : s.hub (fldN c.hw0 54 10) (fldN c.hw0 49 5) = p.die) (htile : s.noTile p.die (fldN c.hw0 41 8) = false)
    (hjoined : (s.die p.die).joined p.tile (fldN c.hw0 41 8) = true) : s.leave p c = s.updDie p.die fun x =>
      { x with mesh := x.mesh ++ [{ tile := fldN c.hw0 41 8, card := s.enterMesh p.die p.die p.tile c, msg := none }] } := by
  have hhw0 : (s.enterMesh p.die p.die p.tile c).hw0 = c.hw0 := rfl
  rw [State.leave, if_pos hdst, if_neg (by simp [htile, hjoined]), State.accept, hhw0]

theorem leave_nowhere (hdst : s.hub (fldN c.hw0 54 10) (fldN c.hw0 49 5) = p.die) (htile : s.noTile p.die (fldN c.hw0 41 8) = true) :
    s.leave p c = s.cardDone p c.num (some .rights) := by
  rw [State.leave, if_pos hdst, if_pos (by simp [htile])]

theorem leave_other (hdst : s.hub (fldN c.hw0 54 10) (fldN c.hw0 49 5) ≠ p.die) : s.leave p c =
    s.updFab p.die fun f => { f with outbox := f.outbox ++ [s.message p.die (s.hub (fldN c.hw0 54 10) (fldN c.hw0 49 5)) (.card c)] } := by
  rw [State.leave, if_neg hdst, send_other hdst]

end Leave

theorem acks_complete (s : State) (p : Place) (e : Engine) (n : Nat) : ((s.complete p e n none).die p.die).acks = (s.die p.die).acks := by
  have hset (c : Ctx) (r : Nat) : (((s.setCtx p c).progress p.die r).die p.die).acks = (s.die p.die).acks := by
    rw [State.progress, State.updTd, State.die_updDie]
    rfl
  unfold State.complete
  split
  · rfl
  · rw [State.noteError, if_neg (by simp)]
    exact hset _ _

/-! ### Allowances (R233) -/

theorem allowIn_returnCons {s : State} {d t m i : Nat}
    (hhub : s.hub (((s.tile d t).mb m).f (4 + i) 54 10) (((s.tile d t).mb m).f (4 + i) 49 5) = d) : ((s.returnCons d t m i).die d).allowIn =
      (s.die d).allowIn ++ [(((s.tile d t).mb m).f (4 + i) 41 8, BitVec.ofNat 64 (s.tileBits d t + m * 2 ^ 35), look 0 ((s.tile d t).mb m).cons i)] := by
  have h (u : State) (x : Nat × Word64 × Nat) : ((u.accept d none (.allow x.1 x.2.1 x.2.2)).die d).allowIn = (u.die d).allowIn ++ [x] := by
    rw [State.accept, State.die_updDie]
  rw [State.returnCons, send_self hhub]
  exact h _ (_, _, _)

section Allowance

variable {s : State} {u n m : Nat} {w : Word64}

theorem execAllowanceReturnArrival_known {i : Nat} (hin : (s.die s.focus.die).allowIn[s.index]? = some (u, w, n))
    (halw : (s.tile s.focus.die u).alwFor w = some i) (hless : (n + 2 ^ 32 - (look {} (s.tile s.focus.die u).alw i : Allow).c) % 2 ^ 32 < 2 ^ 31) :
    exec .allowanceReturnArrival s = .next ((s.updDie s.focus.die fun x => { x with allowIn := dropAt x.allowIn s.index }).updTile s.focus.die u fun x =>
      { x with alw := put x.alw i { (look {} x.alw i : Allow) with c := n } }) := by
  show execAllowanceReturnArrival s = _
  rw [execAllowanceReturnArrival]
  simp only [hin]
  rw [State.updTile, State.updTile, State.tile_updDie]
  simp only [halw, hless, if_true]

theorem execRefreshTimer_due {c : Nat} (hblocked : (look {} (s.tile s.focus.die s.focus.tile).alw s.index : Allow).blockedSince = some c)
    (hdue : c + 1024 ≤ s.cycle) (hhub : s.hub (fldN (look {} (s.tile s.focus.die s.focus.tile).alw s.index : Allow).dw 54 10)
      (fldN (look {} (s.tile s.focus.die s.focus.tile).alw s.index : Allow).dw 49 5) = s.focus.die) : exec .refreshTimer s =
    .next ((s.updTile s.focus.die s.focus.tile fun x => { x with
      alw := put x.alw s.index { (look {} (s.tile s.focus.die s.focus.tile).alw s.index : Allow) with blockedSince := some s.cycle } }).updDie s.focus.die
        fun x => { x with refreshIn := x.refreshIn ++ [(fldN (look {} (s.tile s.focus.die s.focus.tile).alw s.index : Allow).dw 41 8,
          fldN (look {} (s.tile s.focus.die s.focus.tile).alw s.index : Allow).dw 35 6, BitVec.ofNat 64 (s.tileBits s.focus.die s.focus.tile))] }) := by
  show execRefreshTimer s = _
  rw [execRefreshTimer]
  simp only [hblocked, if_neg (Nat.not_lt.mpr hdue), send_self hhub, State.accept]

theorem execRefreshRequestArrival_known {i : Nat} (hin : (s.die s.focus.die).refreshIn[s.index]? = some (u, m, w))
    (hmode : ((s.tile s.focus.die u).mb m).mode = 2) (hsender : ((s.tile s.focus.die u).mb m).senderOf w = some i) : exec .refreshRequestArrival s =
      .next ((s.updDie s.focus.die fun z => { z with refreshIn := dropAt z.refreshIn s.index }).returnCons s.focus.die u m i) := by
  show execRefreshRequestArrival s = _
  rw [execRefreshRequestArrival]
  simp only [hin, hmode, if_true, hsender]

theorem execRefreshRequestArrival_other (hin : (s.die s.focus.die).refreshIn[s.index]? = some (u, m, w))
    (hmode : ((s.tile s.focus.die u).mb m).mode ≠ 2) : exec .refreshRequestArrival s =
      .next (s.updDie s.focus.die fun z => { z with refreshIn := dropAt z.refreshIn s.index }) := by
  show execRefreshRequestArrival s = _
  rw [execRefreshRequestArrival]
  simp only [hin, if_neg hmode]

end Allowance

/-- Settles O31: cards leave, are charged and acknowledged, and allowances come back. -/
theorem cardSending : Obligations.CardSending := by
  intro s d t x
  refine ⟨fun e l hmse hi hheld hstopped hback => ?_, fun e l hmse hi h => execCardSend_held hmse hi h, ?_, ?_, ?_, ?_, ?_, ?_⟩
  · intro p
    refine ⟨fun c m hcmd => ?_, fun c m i hcmd => ⟨execCardSend_blocked hmse hi hheld hstopped hback hcmd, fun hallow hdst => ?_⟩⟩
    · have hexec := execCardSend_free hmse hi hheld hstopped hback hcmd
      intro dst n
      refine ⟨fun hdst htile hjoined => ?_, fun hdst => ?_, fun hdst htile hm hl hout hfault hframe hctx hnum hn hdone => ?_⟩
      · rw [leave_here (s := s.mseLeft d t { e with cmd := .cards m none, out := e.out + 1 } l) (p := p) hdst htile hjoined] at hexec
        refine ⟨_, hexec, ?_, ?_, rfl⟩
        · rw [State.tile_updDie, tile_mseLeft]
        · rw [State.die_updDie]
          rfl
      · rw [leave_other (s := s.mseLeft d t { e with cmd := .cards m none, out := e.out + 1 } l) (p := p) hdst] at hexec
        refine ⟨_, hexec, ?_, _, congrArg Fab.outbox (fab_updFab ..), rfl, rfl, rfl⟩
        rw [State.updFab, State.tile_updDie, tile_mseLeft]
      · subst hm hl
        have hp0 : p.ctx = 0 := hctx
        rw [leave_nowhere (s := s.mseLeft d t { e with cmd := .cards [] none, out := e.out + 1 } []) (p := p) hdst htile,
          cardDone_last (s := s.mseLeft d t { e with cmd := .cards [] none, out := e.out + 1 } []) (p := p) (congrArg Tile.mse (tile_mseLeft s d t _ _)) rfl hnum.symm (by simp [hout]) rfl hfault hframe] at hexec
        have hctx1 : ((s.mseLeft d t { e with cmd := .cards [] none, out := e.out + 1 } []).mseEmpty p).ctx p = s.ctx p :=
          (ctx_mseEmpty ..).trans (ctx_mseLeft ..)
        refine ⟨_, hexec, mse_done .., ?_, ?_⟩
        · rw [hnum, done_complete (e := .mse) (by omega) (by rw [hctx1]; exact hn) (by rw [hctx1]; exact hdone)]
          rfl
        · rw [hnum, recf_complete_zero (e := .mse) hp0 (by simp) (by rw [hctx1]; exact hn) (by rw [hctx1]; exact hdone), hctx1]
    · have hexec := execCardSend_charged hmse hi hheld hstopped hback hcmd hallow
      rw [leave_other (s := (s.updTile d t fun x => x.charge i (cardSlots c.len)).mseLeft d t { e with cmd := .cards m (some i), out := e.out + 1 } l)
        (p := p) hdst] at hexec
      refine ⟨_, hexec, ?_, ?_⟩
      · rw [State.updFab, State.tile_updDie, tile_mseLeft]
      · rw [State.updFab, State.tile_updDie, tile_mseLeft, State.tile_updTile]
        exact congrArg Allow.sent (look_put ..)
  · intro u c n e hc hack hmse hctx hnum hout hunsent hfault hframe hn hdone
    have hexec := execCardAck_eq hack
    rw [cardDone_last (p := ⟨d, u, c⟩) (s := s.updDie d fun x => { x with acks := dropAt x.acks s.index }) hmse hctx hnum hout hunsent hfault hframe none] at hexec
    have hctx1 : ((s.updDie d fun x => { x with acks := dropAt x.acks s.index }).mseEmpty ⟨d, u, c⟩).ctx ⟨d, u, c⟩ = s.ctx ⟨d, u, c⟩ := ctx_mseEmpty ..
    have hend := ctx_complete_none (s := (s.updDie d fun x => { x with acks := dropAt x.acks s.index }).mseEmpty ⟨d, u, c⟩) (p := ⟨d, u, c⟩) (e := .mse) (n := n) hc
      (by rw [hctx1]; exact hn) (by rw [hctx1]; exact hdone)
    rw [hctx1] at hend
    refine ⟨_, hexec, ?_, mse_done _ ⟨d, u, c⟩ .., by rw [hend]; rfl, by rw [hend]⟩
    rw [acks_complete]
    show ((s.updDie d fun x => { x with acks := dropAt x.acks s.index }).die d).acks = _
    rw [State.die_updDie]
  · intro i c hgrown
    constructor
    · intro h
      show execAllowanceReturnTimer i s = _
      rw [execAllowanceReturnTimer]
      simp only [show look? ((s.tile s.focus.die s.focus.tile).mb s.index).grownAt i = some c from hgrown, if_pos h]
      rfl
    · intro h
      show execAllowanceReturnTimer i s = _
      rw [execAllowanceReturnTimer]
      simp only [show look? ((s.tile s.focus.die s.focus.tile).mb s.index).grownAt i = some c from hgrown, if_neg (Nat.not_le.mpr h)]
  · intro m i b hhub
    exact allowIn_returnCons hhub
  · intro u w n i hin halw hless
    refine ⟨_, execAllowanceReturnArrival_known hin halw hless, ?_, ?_⟩
    · rw [State.die_updTile, State.die_updDie]
    · rw [State.tile_updTile]
      exact look_put ..
  · intro a c hblocked hdue hhub
    refine ⟨_, execRefreshTimer_due hblocked hdue hhub, ?_, ?_⟩
    · rw [State.tile_updDie, State.tile_updTile]
      exact look_put ..
    · rw [State.die_updDie]
      rfl
  · intro u m w hin y
    exact ⟨fun i hmode hsender => execRefreshRequestArrival_known hin hmode hsender, fun hmode => execRefreshRequestArrival_other hin hmode⟩

end Sys2Proof.Machine
end

section
/-! PROOFS of mailboxes: their configuration, their handlers' starts, and the cards that reach them (16_message_engine.md R226 to R237). -/

namespace Sys2Proof.Machine

open Sys2Proof.Safety

/-! ### Mailboxes and presence records of a tile -/

theorem Tile.mb_setMb (t : Tile) {m : Nat} (h : m ≠ 63) (b : Mbx) : (t.setMb m b).mb m = b := by
  rw [Tile.mb, if_neg h, Tile.setMb, look_put]

theorem Tile.pr_setPr (t : Tile) (n : Nat) (p : Pres) : (t.setPr n p).pr n = p := look_put ..

theorem mode_mb63 : ({ words := mb63 } : Mbx).mode = 1 :=
  (fldN_ofNat _ (by norm_num)).trans (by norm_num)

theorem ne_63_of_mode {t : Tile} {m : Nat} (h : (t.mb m).mode ≠ 1) : m ≠ 63 := by
  rintro rfl
  exact h mode_mb63

/-! ### Configurations (R227, R228, R278) -/

theorem execMailboxConfigApply_eq {s : State} {e : MseEntry} {k : Nat} {sel : Word64} {bs : List Byte} (hstopped : (s.die s.focus.die).stopped = false)
    (hmse : (s.tile s.focus.die s.focus.tile).mse[s.index]? = some e) (hconfig : e.config = some (k, sel, bs))
    (hfirst : ∀ y ∈ (s.tile s.focus.die s.focus.tile).mse.take s.index, y.config = none) : exec .mailboxConfigApply s =
      .next (((s.tile s.focus.die s.focus.tile).configure k sel bs).elim (s.mseDone ⟨s.focus.die, s.focus.tile, e.ctx⟩ e.num (some .reservedField))
        fun y => (s.setTile s.focus.die s.focus.tile y).mseDone ⟨s.focus.die, s.focus.tile, e.ctx⟩ e.num none) := by
  have hgate : ((s.die s.focus.die).stopped || ((s.tile s.focus.die s.focus.tile).mse.take s.index).any fun y => y.config.isSome) = false := by
    rw [hstopped, Bool.false_or, List.any_eq_false]
    intro y hy
    simp [hfirst y hy]
  show execMailboxConfigApply s = _
  rw [execMailboxConfigApply]
  simp only [hmse, hconfig, hgate]
  cases (s.tile s.focus.die s.focus.tile).configure k sel bs <;> rfl

theorem execMailboxMapWrite_eq (s : State) (w : BitVec 768) : exec (.mailboxMapWrite w) s =
    .next (if s.index < 63 ∧ (s.tile s.focus.die s.focus.tile).mbxOk s.index { words := mbxKeep w } = true then
      s.updTile s.focus.die s.focus.tile fun x => x.writeMb s.index w else s) := rfl

theorem mb_writeMb (t : Tile) {m : Nat} (h : m ≠ 63) (w : BitVec 768) : (t.writeMb m w).mb m = { words := mbxKeep w, busy := (t.mb m).busy } := by
  unfold Tile.writeMb
  rw [Tile.mb, if_neg h]
  exact look_put ..

/-! ### Queue mailboxes start their handlers (R230, R232) -/

theorem startFull_of_room {t : Tile} (h : t.startQ.length < 16) : t.startFull = false := decide_eq_false (Nat.not_le.mpr h)

/-- The start of a queue mailbox's handler on the card at RD. -/
def State.queueStart (s : State) (d t m : Nat) : Start :=
  s.mbxStart d t m (((s.tile d t).mb m).slotAddr ((s.tile d t).mb m).rd)
    (BitVec.ofNat 64 (fldN (s.ringHead d t m ((s.tile d t).mb m).rd).2 41 23 * 2 ^ 41 + m * 2 ^ 35 + ((s.tile d t).mb m).rd))
    (look 0#64 ((s.tile d t).mb m).hops ((s.tile d t).mb m).rd) (2 ^ 15) (fldN (s.ringHead d t m ((s.tile d t).mb m).rd).1 0 2)

section Queue

variable {s : State}

theorem execQueueMailboxFire_fires (hmode : ((s.tile s.focus.die s.focus.tile).mb s.index).mode = 2)
    (hhv : ((s.tile s.focus.die s.focus.tile).mb s.index).hv = true)
    (hcard : ((s.tile s.focus.die s.focus.tile).mb s.index).rd ≠ ((s.tile s.focus.die s.focus.tile).mb s.index).wr)
    (hbusy : ((s.tile s.focus.die s.focus.tile).mb s.index).busy = false) (hroom : (s.tile s.focus.die s.focus.tile).startQ.length < 16)
    (hstopped : (s.die s.focus.die).stopped = false) : exec .queueMailboxFire s = .next (s.updTile s.focus.die s.focus.tile fun y =>
      { y.setMb s.index { (s.tile s.focus.die s.focus.tile).mb s.index with busy := true } with
        startQ := (y.setMb s.index { (s.tile s.focus.die s.focus.tile).mb s.index with busy := true }).startQ ++
          [s.queueStart s.focus.die s.focus.tile s.index] }) := by
  have hfull : (s.tile s.focus.die s.focus.tile).startFull = false := startFull_of_room hroom
  have hgate : ¬ (((s.tile s.focus.die s.focus.tile).mb s.index).mode ≠ 2 ∨ ((s.tile s.focus.die s.focus.tile).mb s.index).hv = false ∨
      ((s.tile s.focus.die s.focus.tile).mb s.index).rd = ((s.tile s.focus.die s.focus.tile).mb s.index).wr ∨
      ((s.tile s.focus.die s.focus.tile).mb s.index).busy = true ∨ (s.tile s.focus.die s.focus.tile).startFull = true ∨
      (s.die s.focus.die).stopped = true) := by
    simp [hmode, hhv, hcard, hbusy, hfull, hstopped]
  show execQueueMailboxFire s = _
  rw [execQueueMailboxFire]
  simp only [if_neg hgate]
  rfl

theorem execQueueMailboxFire_waits (h : ((s.tile s.focus.die s.focus.tile).mb s.index).rd = ((s.tile s.focus.die s.focus.tile).mb s.index).wr ∨
    ((s.tile s.focus.die s.focus.tile).mb s.index).busy = true ∨ ((s.tile s.focus.die s.focus.tile).mb s.index).hv = false) :
    exec .queueMailboxFire s = .next s := by
  have hgate : ((s.tile s.focus.die s.focus.tile).mb s.index).mode ≠ 2 ∨ ((s.tile s.focus.die s.focus.tile).mb s.index).hv = false ∨
      ((s.tile s.focus.die s.focus.tile).mb s.index).rd = ((s.tile s.focus.die s.focus.tile).mb s.index).wr ∨
      ((s.tile s.focus.die s.focus.tile).mb s.index).busy = true ∨ (s.tile s.focus.die s.focus.tile).startFull = true ∨
      (s.die s.focus.die).stopped = true := by
    tauto
  show execQueueMailboxFire s = _
  rw [execQueueMailboxFire]
  simp only [if_pos hgate]

end Queue

/-! ### Cards that arrive (R226) -/

/-- The card in focus has left the mesh. -/
def State.cardTaken (s : State) : State := s.updDie s.focus.die fun x => { x with mesh := dropAt x.mesh s.index }

theorem arrival_of_arrives {s : State} {kind : Taken} {m : MeshCard} (h : Arrives s kind m) (k : Nat → MeshCard → State → State) :
    arrival kind k s = .next (k s.focus.die m s.cardTaken) := by
  obtain ⟨hmesh, hstopped, hturn, hheld, hsaved, htakes⟩ := h
  have hgate : ¬ ((s.tile s.focus.die m.tile).held = true ∨ (s.die s.focus.die).stopped = true ∨ (s.die s.focus.die).turn s.index m = false ∨
      (s.tile s.focus.die m.tile).takes m.card ≠ kind) := by
    simp [hheld, hstopped, hturn, htakes]
  have hsave : ¬ ((s.tile s.focus.die m.tile).savedFlag = true ∧ (s.tile s.focus.die m.tile).task = none) := by
    simp [hsaved]
  rw [arrival]
  simp only [hmesh, if_neg hgate, if_neg hsave]
  rfl

theorem cardFinish_of_none {m : MeshCard} (h : m.msg = none) (s : State) (d : Nat) : s.cardFinish d m =
    s.updDie d fun x => { x with acks := x.acks ++ [(m.card.src.tile, m.card.src.ctx, m.card.num, none)] } := by
  rw [State.cardFinish, h]

theorem cls_of_takes {t : Tile} {c : Card} (h : t.takes c = .frame) : c.cls ≠ 1 := by
  intro hc
  simp only [Tile.takes, hc, if_true] at h
  split at h <;> cases h

/-! ### Frames (R229, R230) -/

/-- The presence record of the frame of a card, once the card is in it. -/
def Tile.presWith (t : Tile) (m : Nat) (c : Card) : Pres :=
  { t.pr ((t.mb m).fbase + c.frame) with
    present := (t.pr ((t.mb m).fbase + c.frame)).present ||| BitVec.ofNat 16 (2 ^ c.slot)
    fof := (t.pr ((t.mb m).fbase + c.frame)).fof || bit c.hw0 3 }

/-- The card starts the handler of mailbox m. -/
def Tile.firesOn (t : Tile) (m : Nat) (c : Card) : Bool :=
  !(t.pr ((t.mb m).fbase + c.frame)).fired && (t.mb m).hv &&
    (if bit c.hw0 3 then (t.presWith m c).count == (t.mb m).slots else (t.presWith m c).count == (t.mb m).fire)

/-- The presence record that the card leaves. -/
def Tile.presAfter (t : Tile) (m : Nat) (c : Card) : Pres :=
  { t.presWith m c with
    fired := (t.presWith m c).fired || t.firesOn m c
    filled := (t.presWith m c).filled || (c.cls == 1 && (!(t.mb m).hv || !(t.pr ((t.mb m).fbase + c.frame)).fired)) }

/-- Where the frame of a card begins in the local store. -/
def Tile.frameAt (t : Tile) (m : Nat) (c : Card) : Nat := (t.mb m).base + c.frame * ((t.mb m).slots * (t.mb m).slotSize)

/-- The start that the card of a frame queues. -/
def State.frameStart (s : State) (d m : Nat) (c : MeshCard) : Start :=
  s.mbxStart d c.tile m ((s.tile d c.tile).frameAt m c.card)
    (BitVec.ofNat 64 (fldN c.card.hw1 41 23 * 2 ^ 41 + m * 2 ^ 35 + c.card.slot * 2 ^ 31 + c.card.frame * 2 ^ 16 +
      ((s.tile d c.tile).presAfter m c.card).present.toNat)) (s.cardHops c.card) c.card.frame c.card.cls

/-- The card is in its frame. -/
def State.framed (s : State) (d m : Nat) (c : MeshCard) : State :=
  (s.writeLs ⟨d, c.tile, 0⟩ ((s.tile d c.tile).frameAt m c.card + c.card.slot * ((s.tile d c.tile).mb m).slotSize) c.card.payload).updTile d c.tile fun x =>
    if (s.tile d c.tile).firesOn m c.card then
      { x.setPr (((s.tile d c.tile).mb m).fbase + c.card.frame) ((s.tile d c.tile).presAfter m c.card) with startQ := x.startQ ++ [s.frameStart d m c] }
    else x.setPr (((s.tile d c.tile).mb m).fbase + c.card.frame) ((s.tile d c.tile).presAfter m c.card)

section Frame

variable {s : State} {d m : Nat} {c : MeshCard} (hframe : c.card.frame < ((s.tile d c.tile).mb m).nframe) (hslot : c.card.slot < ((s.tile d c.tile).mb m).slots)
  (hlen : c.card.len ≤ ((s.tile d c.tile).mb m).slotSize)
  (hreply : ¬ (((s.tile d c.tile).mb m).reply = true ∧ ((s.tile d c.tile).pr (((s.tile d c.tile).mb m).fbase + c.card.frame)).reserved = false ∧
    c.card.cls = 1))
  (hnew : bit ((s.tile d c.tile).pr (((s.tile d c.tile).mb m).fbase + c.card.frame)).present c.card.slot = false)
include hframe hslot hlen hreply hnew

theorem frameTake_framed (back : State) (hroom : ¬ ((s.tile d c.tile).firesOn m c.card = true ∧ (s.tile d c.tile).startFull = true)) :
    frameTake back m d c s = (s.framed d m c).cardFinish d c := by
  have hfit : ¬ (((s.tile d c.tile).mb m).nframe ≤ c.card.frame ∨ ((s.tile d c.tile).mb m).slots ≤ c.card.slot ∨
      ((s.tile d c.tile).mb m).slotSize < c.card.len) := by omega
  rw [frameTake]
  simp only [if_neg hfit, if_neg hreply, hnew, Bool.false_eq_true, if_false]
  exact if_neg hroom

theorem frameTake_refused (back : State) (hfires : (s.tile d c.tile).firesOn m c.card = true) (hfull : (s.tile d c.tile).startFull = true) :
    frameTake back m d c s = back.updDie d fun x => { x with mesh := x.mesh.map fun y => if y = c then { y with refused := true } else y } := by
  have hfit : ¬ (((s.tile d c.tile).mb m).nframe ≤ c.card.frame ∨ ((s.tile d c.tile).mb m).slots ≤ c.card.slot ∨
      ((s.tile d c.tile).mb m).slotSize < c.card.len) := by omega
  rw [frameTake]
  simp only [if_neg hfit, if_neg hreply, hnew, Bool.false_eq_true, if_false]
  simp only [beq_iff_eq]
  exact if_pos ⟨hfires, hfull⟩

end Frame

theorem tile_framed (s : State) (d m : Nat) (c : MeshCard) :
    ((s.framed d m c).tile d c.tile).pr (((s.tile d c.tile).mb m).fbase + c.card.frame) = (s.tile d c.tile).presAfter m c.card ∧
    ((s.framed d m c).tile d c.tile).startQ =
      if (s.tile d c.tile).firesOn m c.card then (s.tile d c.tile).startQ ++ [s.frameStart d m c] else (s.tile d c.tile).startQ := by
  rw [State.framed, State.tile_updTile]
  split
  · exact ⟨look_put .., rfl⟩
  · exact ⟨look_put .., rfl⟩

theorem mem_framed (s : State) (d m : Nat) (c : MeshCard) : (s.framed d m c).mem = Memory.writeN s.mem
    (lsKey d c.tile ((s.tile d c.tile).frameAt m c.card + c.card.slot * ((s.tile d c.tile).mb m).slotSize)) c.card.payload := rfl

theorem firesOn_iff {t : Tile} {m : Nat} {c : Card} (hhv : (t.mb m).hv = true) : t.firesOn m c = true ↔
    (t.pr ((t.mb m).fbase + c.frame)).fired = false ∧
      ((List.range 16).filter fun i => bit ((t.pr ((t.mb m).fbase + c.frame)).present ||| BitVec.ofNat 16 (2 ^ c.slot)) i).length =
        if bit c.hw0 3 = true then (t.mb m).slots else (t.mb m).fire := by
  rw [Tile.firesOn, hhv]
  cases bit c.hw0 3 <;> simp [Pres.count, Tile.presWith]

/-- Settles O32: configurations, and the cards that start handlers. -/
theorem queueMailboxes : Obligations.QueueMailboxes := by
  refine ⟨fun s => ⟨fun e k sel bs hstopped hmse hconfig hfirst => ?_, fun w hi => ?_⟩, fun s => ⟨fun hmode hhv hcard hbusy hroom hstopped => ?_, fun h => ?_⟩,
    fun s m => ?_⟩
  · have hexec := execMailboxConfigApply_eq hstopped hmse hconfig hfirst
    exact ⟨fun y hy => by rw [hexec, hy]; rfl, fun hno => by rw [hexec, hno]; rfl⟩
  · have hexec := execMailboxMapWrite_eq s w
    refine ⟨fun hok => ?_, fun hno => ?_⟩
    · rw [if_pos ⟨hi, hok⟩] at hexec
      refine ⟨_, hexec, rfl, ?_⟩
      rw [State.tile_updTile, mb_writeMb _ (by omega)]
      exact ⟨rfl, rfl, rfl, rfl⟩
    · rw [hexec, if_neg (by simp [hno])]
  · refine ⟨_, s.queueStart s.focus.die s.focus.tile s.index, execQueueMailboxFire_fires hmode hhv hcard hbusy hroom hstopped, ?_, ?_, rfl, rfl, rfl,
    rfl, rfl, rfl⟩
    · rw [State.tile_updTile]
      rfl
    · rw [State.tile_updTile]
      exact congrArg Mbx.busy (Tile.mb_setMb _ (ne_63_of_mode (by rw [hmode]; decide)) _)
  · exact execQueueMailboxFire_waits h
  · intro d x c b n frame present count enough hmsg harr h63 hmode hhv hreply hframe hslot hlen hnew
    have hreply' : ¬ (b.reply = true ∧ (x.pr n).reserved = false ∧ c.cls = 1) := by simp [hreply]
    have hexec : exec .frameCardArrival s = .next (frameTake s c.mailbox d m s.cardTaken) := by
      have h := arrival_of_arrives harr fun d c u =>
        if c.card.mailbox = 63 ∨ ((s.tile d c.tile).mb c.card.mailbox).mode ≠ 1 then u.discard d c 1 false else frameTake s c.card.mailbox d c u
      refine h.trans ?_
      rw [if_neg (by simp [h63, hmode, c, b, x, d])]
    have hiff := firesOn_iff (t := x) (m := c.mailbox) (c := c) hhv
    have hplain (hroom : ¬ (x.firesOn c.mailbox c = true ∧ x.startFull = true)) :=
      frameTake_framed (s := s.cardTaken) (d := d) (m := c.mailbox) (c := m) hframe hslot hlen hreply' hnew s hroom
    have hacks := cardFinish_of_none hmsg (s.cardTaken.framed d c.mailbox m) d
    obtain ⟨hpr, hq⟩ := tile_framed s.cardTaken d c.mailbox m
    refine ⟨fun hfired henough hroom => ?_, fun hnot => ?_, fun hfired henough hfull => ?_⟩
    · have hfires : x.firesOn c.mailbox c = true := hiff.mpr ⟨hfired, henough⟩
      rw [hplain fun h => Bool.false_ne_true ((startFull_of_room hroom).symm.trans h.2), hacks] at hexec
      refine ⟨_, s.cardTaken.frameStart d c.mailbox m, hexec, ?_, ?_, ?_, holds_writeN _ _ _, rfl, rfl, rfl, rfl, rfl⟩
      · rw [State.tile_updDie]
        refine (congrArg Pres.fired hpr).trans ?_
        show (_ || x.firesOn c.mailbox c) = true
        rw [hfires, Bool.or_true]
      · rw [State.tile_updDie]
        exact congrArg Pres.present hpr
      · rw [State.tile_updDie]
        exact hq.trans (if_pos hfires)
    · have hfires : x.firesOn c.mailbox c = false := by
        rw [Bool.eq_false_iff]
        intro h
        obtain ⟨h1, h2⟩ := hiff.mp h
        rcases hnot with h3 | h3
        · have h3 : (x.pr ((x.mb c.mailbox).fbase + c.frame)).fired = true := h3
          rw [h1] at h3; cases h3
        · exact h3 h2
      rw [hplain fun h => Bool.false_ne_true (hfires.symm.trans h.1), hacks] at hexec
      refine ⟨_, hexec, ?_, ?_, ?_⟩
      · rw [State.tile_updDie]
        refine (congrArg Pres.fired hpr).trans ?_
        show ((x.pr n).fired || x.firesOn c.mailbox c) = _
        rw [hfires, Bool.or_false]
      · rw [State.tile_updDie]
        exact congrArg Pres.present hpr
      · rw [State.tile_updDie]
        exact hq.trans (if_neg (by rw [show (s.cardTaken.tile d m.tile).firesOn c.mailbox m.card = false from hfires]; simp))
    · have hfires : x.firesOn c.mailbox c = true := hiff.mpr ⟨hfired, henough⟩
      rw [frameTake_refused (s := s.cardTaken) (d := d) (m := c.mailbox) (c := m) hframe hslot hlen hreply' hnew s hfires (decide_eq_true hfull)] at hexec
      exact ⟨_, hexec, by rw [State.die_updDie], rfl, rfl⟩

/-! ### What becomes of a card (R229 to R237, R277) -/

theorem acks_updDie (s : State) (d : Nat) (x : Nat × Nat × Nat × Option Cause) :
    ((s.updDie d fun y => { y with acks := y.acks ++ [x] }).die d).acks = (s.die d).acks ++ [x] ∧
      ((s.updDie d fun y => { y with acks := y.acks ++ [x] }).die d).mesh = (s.die d).mesh := by
  rw [State.die_updDie]
  exact ⟨rfl, rfl⟩

theorem die_cardTaken (s : State) : (s.cardTaken.die s.focus.die).mesh = dropAt (s.die s.focus.die).mesh s.index ∧
    (s.cardTaken.die s.focus.die).acks = (s.die s.focus.die).acks := by
  rw [State.cardTaken, State.die_updDie]
  exact ⟨rfl, rfl⟩

section Taken

variable {s : State} {m : MeshCard} (hmsg : m.msg = none)
include hmsg

/-- A card whose handling leaves the dies alone has left the mesh, and its acknowledgement has started back. -/
theorem finished_spec {u : State} (hu : u.dies = s.cardTaken.dies) :
    ((u.cardFinish s.focus.die m).die s.focus.die).mesh = dropAt (s.die s.focus.die).mesh s.index ∧
    ((u.cardFinish s.focus.die m).die s.focus.die).acks = (s.die s.focus.die).acks ++ [(m.card.src.tile, m.card.src.ctx, m.card.num, none)] ∧
    (u.cardFinish s.focus.die m).tiles = u.tiles ∧ (u.cardFinish s.focus.die m).mem = u.mem := by
  have hd : u.die s.focus.die = s.cardTaken.die s.focus.die := by rw [State.die, hu]; rfl
  obtain ⟨hmesh, hacks⟩ := die_cardTaken s
  rw [cardFinish_of_none hmsg]
  obtain ⟨h1, h2⟩ := acks_updDie u s.focus.die (m.card.src.tile, m.card.src.ctx, m.card.num, none)
  exact ⟨by rw [h2, hd, hmesh], by rw [h1, hd, hacks], rfl, rfl⟩

/-- A card in its frame has set its presence bit and written its bytes. -/
theorem frame_spec (k : Nat) :
    let x := s.tile s.focus.die m.tile
    let t := (s.cardTaken.framed s.focus.die k m).cardFinish s.focus.die m
    let a := lsKey s.focus.die m.tile (x.frameAt k m.card + m.card.slot * (x.mb k).slotSize)
    Holds t.mem a m.card.payload ∧ SameOutside s.mem t.mem [(a, m.card.payload.length)] ∧
      ((t.tile s.focus.die m.tile).pr ((x.mb k).fbase + m.card.frame)).present =
        (x.pr ((x.mb k).fbase + m.card.frame)).present ||| BitVec.ofNat 16 (2 ^ m.card.slot) ∧
      (t.die s.focus.die).mesh = dropAt (s.die s.focus.die).mesh s.index ∧
      (t.die s.focus.die).acks = (s.die s.focus.die).acks ++ [(m.card.src.tile, m.card.src.ctx, m.card.num, none)] := by
  intro x t a
  obtain ⟨hmesh, hacks, htiles, hmem⟩ := finished_spec (s := s) (u := s.cardTaken.framed s.focus.die k m) hmsg rfl
  refine ⟨?_, ?_, ?_, hmesh, hacks⟩
  · rw [hmem]
    exact holds_writeN _ _ _
  · rw [hmem]
    exact sameOutside_writeN _ _ _
  · rw [tile_of_tiles htiles]
    exact congrArg Pres.present (tile_framed s.cardTaken s.focus.die k m).1

end Taken

theorem firesOn_of_not_hv {t : Tile} {m : Nat} {c : Card} (h : (t.mb m).hv = false) : t.firesOn m c = false := by
  rw [Tile.firesOn, h]
  simp

section Ring

variable {s : State} {d t m : Nat} {w0 w1 : Word64} {payload : List Byte} {hops : Word64}

/-- A header and its payload stand in the ring at WR, and WR has moved. -/
def State.ringWritten (s : State) (d t m : Nat) (w0 w1 : Word64) (payload : List Byte) (hops : Word64) : State :=
  (s.writeLs ⟨d, t, 0⟩ (((s.tile d t).mb m).slotAddr ((s.tile d t).mb m).wr) (wordsBytes [w0, w1] ++ payload)).updTile d t fun x =>
    x.setMb m { x.mb m with
      wr := (((s.tile d t).mb m).wr + cardSlots payload.length) % ((s.tile d t).mb m).cap
      hops := put (x.mb m).hops ((s.tile d t).mb m).wr hops }

theorem ringPlace_fits (h : ((s.tile d t).mb m).wr + cardSlots payload.length ≤ ((s.tile d t).mb m).cap) :
    s.ringPlace d t m w0 w1 payload hops = (s.ringWritten d t m w0 w1 payload hops).skipPad d t m := by
  rw [State.ringPlace]
  exact if_pos (Nat.le_sub_of_add_le (by omega))

theorem skipPad_spec (s : State) (d t : Nat) {m : Nat} (hm : m ≠ 63) : (s.skipPad d t m).mem = s.mem ∧ (s.skipPad d t m).dies = s.dies ∧
    (((s.skipPad d t m).tile d t).mb m).wr = ((s.tile d t).mb m).wr := by
  unfold State.skipPad
  dsimp only
  split
  · refine ⟨rfl, rfl, ?_⟩
    rw [State.tile_updTile, Tile.mb_setMb _ hm]
  · exact ⟨rfl, rfl, rfl⟩

theorem wr_ringWritten (hm : m ≠ 63) : (((s.ringWritten d t m w0 w1 payload hops).tile d t).mb m).wr =
    (((s.tile d t).mb m).wr + cardSlots payload.length) % ((s.tile d t).mb m).cap := by
  rw [State.ringWritten, State.tile_updTile, Tile.mb_setMb _ hm]

end Ring

theorem length_wordsBytes_two (a b : Word64) : (wordsBytes [a, b]).length = 16 := by
  simp [wordsBytes]

theorem queue_mode {t : Tile} {c : Card} (h : t.takes c = .queue) : (t.mb c.mailbox).mode ≠ 1 := by
  intro h1
  simp only [Tile.takes, h1] at h
  split at h
  · cases h
  · split at h <;> cases h

section Arrival

variable {s : State} {m : MeshCard}

theorem execLandingCardArrival_fills (harr : Arrives s .landing m)
    (he : ((s.tile s.focus.die m.tile).mb m.card.mailbox).f 2 6 6 + m.card.slot < 48 ∨
      56 ≤ ((s.tile s.focus.die m.tile).mb m.card.mailbox).f 2 6 6 + m.card.slot ∧
        ((s.tile s.focus.die m.tile).mb m.card.mailbox).f 2 6 6 + m.card.slot ≤ 63)
    (hlen : m.card.len = 256) (h4 : 4 ≤ m.card.ptag) (h14 : m.card.ptag ≤ 14) : exec .landingCardArrival s =
      .next (s.cardTaken.fill s.focus.die m.tile
        { entry := ((s.tile s.focus.die m.tile).mb m.card.mailbox).f 2 6 6 + m.card.slot
          reg := Reg.clean { tag := Tag.ofNum m.card.ptag, bits := BitVec.ofNat 2048 (leNat m.card.payload) }, card := some m }) := by
  refine (arrival_of_arrives harr fun d c u =>
    let b := (s.tile d c.tile).mb c.card.mailbox
    let e := b.f 2 6 6 + c.card.slot
    if 63 < e ∨ (48 ≤ e ∧ e ≤ 55) ∨ c.card.len ≠ 256 ∨ c.card.ptag < 4 ∨ 14 < c.card.ptag then u.discard d c 2 false
    else u.fill d c.tile
      { entry := e, reg := Reg.clean { tag := Tag.ofNum c.card.ptag, bits := BitVec.ofNat 2048 (leNat c.card.payload) }, card := some c }).trans ?_
  exact congrArg _ (if_neg (by omega))

theorem execAtomicCardArrival_good (harr : Arrives s .atomic m) (hbad : s.badAt (lsKey s.focus.die m.tile (fldN m.card.hw0 16 18 * 8)) 8 = false) :
    exec .atomicCardArrival s = .next ((s.cardTaken.writeLs ⟨s.focus.die, m.tile, 0⟩ (fldN m.card.hw0 16 18 * 8)
      (leBytes 8 (amoValue (m.card.op + 1) 8 (leNat (s.readLs ⟨s.focus.die, m.tile, 0⟩ (fldN m.card.hw0 16 18 * 8) 8)) (leNat m.card.payload)))).cardFinish
        s.focus.die m) := by
  refine (arrival_of_arrives harr fun d c u =>
    let p : Place := ⟨d, c.tile, 0⟩
    let a := fldN c.card.hw0 16 18 * 8
    let old := leNat (s.readLs p a 8)
    if s.badAt (lsKey d c.tile a) 8 then (u.updDie d fun x => { x with checks := x.checks ++ [c.tile] }).cardFinish d c
    else (u.writeLs p a (leBytes 8 (amoValue (c.card.op + 1) 8 old (leNat c.card.payload)))).cardFinish d c).trans ?_
  exact congrArg _ (if_neg (by simp [hbad]))

theorem execQueueCardArrival_placed (harr : Arrives s .queue m) (hbit : bit m.card.hw0 4 = true)
    (hsender : ((s.tile s.focus.die m.tile).mb m.card.mailbox).senderOf m.card.hw1 ≠ none) (h17 : cardSlots m.card.len ≤ 17)
    (hcap : cardSlots m.card.len + 15 ≤ ((s.tile s.focus.die m.tile).mb m.card.mailbox).cap) : exec .queueCardArrival s =
      .next ((s.cardTaken.ringPlace s.focus.die m.tile m.card.mailbox m.card.hw0 m.card.hw1 m.card.payload (s.cardHops m.card)).cardFinish s.focus.die m) := by
  refine (arrival_of_arrives harr fun d c u =>
    let k := c.card.mailbox
    let b := (s.tile d c.tile).mb k
    let n := cardSlots c.card.len
    if bit c.card.hw0 4 = false ∨ b.senderOf c.card.hw1 = none then u.discard d c 2 false
    else if 17 < n ∨ b.cap - 15 < n then (u.consume d c.tile k c.card.hw1 n).discard d c 2 false
    else (u.ringPlace d c.tile k c.card.hw0 c.card.hw1 c.card.payload (s.cardHops c.card)).cardFinish d c).trans ?_
  exact congrArg _ ((if_neg (by simp [hbit, hsender])).trans (if_neg (by omega)))

end Arrival

/-- Settles O33: what becomes of a card that arrives. -/
theorem cardArrivals : Obligations.CardArrivals := by
  intro s m d x c mesh acks hmsg
  refine ⟨fun i k hi => ?_, fun harr hmode => ?_, fun harr hno => ?_, fun harr => ?_, fun harr => ?_, fun harr => ?_⟩
  · intro b n a hmode hframe hslot hlen hnew hhv
    have hexec : exec i s = .next (frameTake s k d m s.cardTaken) ∧ ¬ (b.reply = true ∧ (x.pr n).reserved = false ∧ c.cls = 1) := by
      rcases hi with ⟨rfl, harr, rfl, h63⟩ | ⟨rfl, harr, hmb, hres⟩
      · have h := arrival_of_arrives harr fun d c u =>
          if c.card.mailbox = 63 ∨ ((s.tile d c.tile).mb c.card.mailbox).mode ≠ 1 then u.discard d c 1 false else frameTake s c.card.mailbox d c u
        exact ⟨h.trans (by rw [if_neg (by simp only [not_or, not_not]; exact ⟨h63, hmode⟩)]), fun h1 => cls_of_takes harr.2.2.2.2.2 h1.2.2⟩
      · have h := arrival_of_arrives harr fun d c u =>
          match (s.tile d c.tile).replyMb with
          | none => u.discard d c 1 false
          | some m => frameTake s m d c u
        refine ⟨h.trans ?_, fun h1 => Bool.false_ne_true (h1.2.1.symm.trans hres)⟩
        rw [show (s.tile s.focus.die m.tile).replyMb = some k from hmb]
    have hroom : ¬ ((s.cardTaken.tile d m.tile).firesOn k m.card = true ∧ (s.cardTaken.tile d m.tile).startFull = true) :=
      fun h => Bool.false_ne_true ((firesOn_of_not_hv (t := x) hhv).symm.trans h.1)
    exact ⟨_, hexec.1.trans (congrArg _ (frameTake_framed (s := s.cardTaken) (d := d) (m := k) (c := m) hframe hslot hlen hexec.2 hnew s hroom)),
      frame_spec hmsg k⟩
  · refine (arrival_of_arrives harr fun d c u =>
      if c.card.mailbox = 63 ∨ ((s.tile d c.tile).mb c.card.mailbox).mode ≠ 1 then u.discard d c 1 false else frameTake s c.card.mailbox d c u).trans ?_
    rw [if_pos (.inr hmode)]
    rfl
  · refine (arrival_of_arrives harr fun d c u =>
      match (s.tile d c.tile).replyMb with
      | none => u.discard d c 1 false
      | some m => frameTake s m d c u).trans ?_
    rw [show (s.tile s.focus.die m.tile).replyMb = none from hno]
    rfl
  · intro e he hlen h4 h14
    refine ⟨_, execLandingCardArrival_fills harr he hlen h4 h14, ?_, rfl, ?_⟩
    · rw [State.fill, State.die_updTile]
      exact (die_cardTaken s).1
    · rw [State.fill, State.tile_updTile]
      rfl
  · intro a p hbad
    obtain ⟨hmesh, hacks, -, hmem⟩ := finished_spec (s := s) (m := m) hmsg (u := s.cardTaken.writeLs p a
      (leBytes 8 (amoValue (c.op + 1) 8 (leNat (s.readLs p a 8)) (leNat c.payload)))) rfl
    refine ⟨_, execAtomicCardArrival_good harr hbad, hmesh, hacks, ?_, ?_⟩
    · rw [readLs_of_mem hmem]
      exact leNat_readLs_writeLs s.cardTaken p a 8 _
    · rw [hmem]
      have h := sameOutside_writeN s.mem (lsKey d m.tile a) (leBytes 8 (amoValue (c.op + 1) 8 (leNat (s.readLs p a 8)) (leNat c.payload)))
      rwa [length_leBytes] at h
  · intro b n hbit hsender h17 hcap hlen hfits
    have h63 : c.mailbox ≠ 63 := ne_63_of_mode (t := x) fun h1 => queue_mode harr.2.2.2.2.2 h1
    have hplace := ringPlace_fits (s := s.cardTaken) (d := d) (t := m.tile) (m := c.mailbox) (w0 := c.hw0) (w1 := c.hw1) (payload := c.payload)
      (hops := s.cardHops c) (by rw [← hlen]; exact hfits)
    obtain ⟨hskip, hdies, hwr⟩ := skipPad_spec (s.cardTaken.ringWritten d m.tile c.mailbox c.hw0 c.hw1 c.payload (s.cardHops c)) d m.tile h63
    obtain ⟨hmesh, hacks, htiles, hmem⟩ := finished_spec (s := s) (m := m) hmsg (u := (s.cardTaken.ringWritten d m.tile c.mailbox c.hw0 c.hw1 c.payload
      (s.cardHops c)).skipPad d m.tile c.mailbox) hdies
    have hexec := execQueueCardArrival_placed harr hbit hsender h17 hcap
    rw [hplace] at hexec
    refine ⟨_, hexec, hmesh, hacks, ?_, ?_, ?_⟩
    · rw [hmem, hskip]
      exact holds_writeN _ _ _
    · rw [hmem, hskip]
      have h := sameOutside_writeN s.mem (lsKey d m.tile (b.slotAddr b.wr)) (wordsBytes [c.hw0, c.hw1] ++ c.payload)
      rwa [List.length_append, length_wordsBytes_two] at h
    · rw [tile_of_tiles htiles, hwr, wr_ringWritten h63, ← hlen]
      rfl

end Sys2Proof.Machine
end

section
/-! PROOFS of the matrix engine and the table (13_matrix_engine.md R205 to R209, 14_me_instructions.md R213 to R220). -/

namespace Sys2Proof.Machine

open Sys2Proof.Safety

/-! ### The engine of a tile -/

section Engine

variable (s : State) (d t : Nat)

theorem me_updMe (f : Me → Me) : ((s.updMe d t f).tile d t).me = f (s.tile d t).me := by
  rw [State.updMe, State.tile_updTile]

theorem me_updMe_ne (f : Me → Me) {u : Nat} (h : u ≠ t) : ((s.updMe d t f).tile d u).me = (s.tile d u).me := by
  rw [State.updMe, tile_updTile_ne _ _ h]

theorem ctx_updMe (f : Me → Me) (q : Place) : (s.updMe d t f).ctx q = s.ctx q :=
  State.ctx_updTile _ _ _ (fun x => { x with me := f x.me }) (fun _ => rfl) _

/-- A completion leaves every tile but contexts. -/
theorem tile_complete_any (p : Place) (e : Engine) (n : Nat) (f : Option Cause) : ∃ ctxs,
    (s.complete p e n f).tile d t = { s.tile d t with ctxs := ctxs } := by
  by_cases h : d * 144 + t = p.die * 144 + p.tile
  · have hkey (u : State) : u.tile d t = u.tile p.die p.tile := by rw [State.tile, State.tile, h]
    rw [hkey, hkey]
    exact tile_complete s p e n f
  · refine ⟨(s.tile d t).ctxs, ?_⟩
    have hnote (u : State) : (u.noteError p.die f).tile d t = u.tile d t := by
      unfold State.noteError
      split <;> rfl
    unfold State.complete
    split
    · rfl
    · rw [hnote]
      exact State.tile_setTile_ne _ _ h

theorem me_complete (p : Place) (e : Engine) (n : Nat) (f : Option Cause) : ((s.complete p e n f).tile d t).me = (s.tile d t).me := by
  obtain ⟨ctxs, h⟩ := tile_complete_any s d t p e n f
  rw [h]

theorem latch_setLatch (m : Me) (l k : Nat) (x : Latch) : (m.setLatch l x).latch k = if k = l then x else m.latch k := by
  rw [Me.latch, Me.setLatch]
  split
  next h => rw [h, look_put]
  next h => exact look_put_ne _ _ _ h

theorem acc_setAcc (m : Me) (a b : Nat) (x : Acc) : (m.setAcc a x).acc b = if b = a then x else m.acc b := by
  rw [Me.acc, Me.setAcc]
  split
  next h => rw [h, look_put]
  next h => exact look_put_ne _ _ _ h

variable (e : MeEntry) (f : Option Cause)

theorem me_meDone : ((s.meDone d t e f).tile d t).me =
    { (s.tile d t).me with store := (s.tile d t).me.store.filter fun x => !(x.ctx == e.ctx && x.num == e.num) } := by
  rw [State.meDone, me_complete, me_updMe]

theorem latch_meDone (u k : Nat) : ((s.meDone d t e f).tile d u).me.latch k = (s.tile d u).me.latch k := by
  rw [State.meDone, me_complete]
  by_cases h : u = t
  · rw [h, me_updMe]; rfl
  · rw [me_updMe_ne _ _ _ _ h]

theorem meDone_mem : (s.meDone d t e f).mem = s.mem := by
  rw [State.meDone, State.complete_mem]
  rfl

variable {s d t e} (hctx : e.ctx < 8) (hn : (s.ctx ⟨d, t, e.ctx⟩).done.me + 1 = e.num) (hout : (s.ctx ⟨d, t, e.ctx⟩).doneOut = [])
include hn hout

include hctx in
theorem done_meDone : ((s.meDone d t e f).ctx ⟨d, t, e.ctx⟩).done.me = e.num := by
  rw [State.meDone, done_complete (p := ⟨d, t, e.ctx⟩) (e := .me) hctx (by rw [ctx_updMe]; exact hn) (by rw [ctx_updMe]; exact hout)]
  rfl

theorem recf_meDone {k : Cause} (h0 : e.ctx = 0) (hk : k ≠ .uncorrectable) :
    ((s.meDone d t e (some k)).ctx ⟨d, t, e.ctx⟩).recf = (s.ctx ⟨d, t, e.ctx⟩).recf ++ [⟨.me, e.num, k, false⟩] := by
  rw [State.meDone, recf_complete_zero (p := ⟨d, t, e.ctx⟩) (e := .me) h0 hk (by rw [ctx_updMe]; exact hn) (by rw [ctx_updMe]; exact hout), ctx_updMe]

end Engine

/-! ### The oldest ready entry (R207) -/

theorem find?_zip_range {α : Type} {p : Nat → α → Bool} {x : α} {r : List α} : ∀ (l : List α) (n : Nat), (∀ k y, l[k]? = some y → p (n + k) y = false) →
    p (n + l.length) x = true → ((List.range' n (l ++ x :: r).length).zip (l ++ x :: r)).find? (fun y => p y.1 y.2) = some (n + l.length, x)
  | [], n, _, hx => by
    rw [List.nil_append, List.length_cons, List.range'_succ, List.zip_cons_cons, List.find?_cons_of_pos (by simpa using hx)]
    rfl
  | y :: l, n, hl, hx => by
    have h0 : p n y = false := hl 0 y rfl
    rw [List.cons_append, List.length_cons, List.range'_succ, List.zip_cons_cons, List.find?_cons_of_neg (by simp [h0]), List.length_cons,
      show n + (l.length + 1) = n + 1 + l.length by omega]
    exact find?_zip_range l (n + 1) (fun k z hz => by rw [show n + 1 + k = n + (k + 1) by omega]; exact hl (k + 1) z hz)
      (by rw [show n + 1 + l.length = n + (l.length + 1) by omega]; exact hx)

theorem execMeEntryStart_running {s : State} (h : (s.tile s.focus.die s.focus.tile).me.running.isSome = true) : exec .meEntryStart s = .next s := by
  show execMeEntryStart s = _
  rw [execMeEntryStart]
  simp only [h, if_true]

theorem execMeEntryStart_first {s : State} {e : MeEntry} {l r : List MeEntry} (hrun : (s.tile s.focus.die s.focus.tile).me.running = none)
    (hstore : (s.tile s.focus.die s.focus.tile).me.store = l ++ e :: r)
    (hl : ∀ k x, l[k]? = some x → (s.tile s.focus.die s.focus.tile).me.ready (s.deaf s.focus.die s.focus.tile) k x = false)
    (he : (s.tile s.focus.die s.focus.tile).me.ready (s.deaf s.focus.die s.focus.tile) l.length e = true)
    (hsaving : s.saving s.focus.die s.focus.tile = false) : exec .meEntryStart s = .next (s.meStart s.focus.die s.focus.tile e) := by
  have hfind := find?_zip_range (r := r) (x := e) (p := fun k x => (s.tile s.focus.die s.focus.tile).me.ready (s.deaf s.focus.die s.focus.tile) k x &&
    (x.granted.isSome || !s.saving s.focus.die s.focus.tile)) l 0 (fun k y hy => by rw [Nat.zero_add, hl k y hy, Bool.false_and])
      (by rw [Nat.zero_add, he, hsaving]; simp)
  rw [← List.range_eq_range', ← hstore] at hfind
  show execMeEntryStart s = _
  rw [execMeEntryStart]
  simp only [hrun, Option.isSome_none, Bool.false_eq_true, if_false, hfind]

/-! ### Rows of a store (R218) -/

theorem holds_foldl_rows {d t base stride len : Nat} {row : Nat → List Byte} (hlen : ∀ i, (row i).length = len) (hs : len ≤ stride) : ∀ (n : Nat) (s : State),
    ∀ i < n, Holds ((List.range n).foldl (fun s i => s.writeLs ⟨d, t, 0⟩ (base + i * stride) (row i)) s).mem (lsKey d t (base + i * stride)) (row i)
  | 0, _, i, hi => absurd hi (Nat.not_lt_zero i)
  | n + 1, s, i, hi => by
    rw [List.range_succ, List.foldl_append]
    by_cases h : i = n
    · subst h
      exact holds_writeN _ _ _
    · intro j hj
      have ih := holds_foldl_rows (d := d) (t := t) (base := base) hlen hs n s i (by omega) j hj
      refine (Memory.read_writeN_out _ _ _ _ (.inl ?_)).trans ih
      have hj : j < len := by rwa [hlen] at hj
      have hi : i + 1 ≤ n := by omega
      have hmul : (i + 1) * stride ≤ n * stride := Nat.mul_le_mul_right _ hi
      have hkey (a b : Nat) : lsKey d t (a + b) = lsKey d t a + b := by simp only [lsKey]; omega
      rw [hkey base, hkey base]
      rw [Nat.add_mul] at hmul
      omega

theorem length_row (n size : Nat) (v : Nat → Nat) : ((List.range n).flatMap fun j => leBytes size (v j)).length = n * size := by
  simp [List.length_flatMap]

/-! ### Starts (R213 to R220) -/

section Start

variable {s : State} {d t : Nat} {e : MeEntry}

/-- The entry e runs. -/
def State.meRun (s : State) (d t : Nat) (e : MeEntry) : State := s.updMe d t fun m =>
  { m with store := m.store.filter (fun x => !(x.ctx == e.ctx && x.num == e.num)), running := some e }

theorem running_meRun (s : State) (d t : Nat) (e : MeEntry) : ((s.meRun d t e).tile d t).me.running = some e := by
  rw [State.meRun, me_updMe]

theorem meStart_seat {w k : Word64} (h : e.cmd = .seat w k) :
    s.meStart d t e = (s.updMe d t fun m => { m with seat := seatOf m.seat w k }).meDone d t e none := by
  rw [State.meStart, h]

theorem meStart_rls {l : Nat} (h : e.cmd = .rls l) : s.meStart d t e = (s.updMe d t fun m =>
    if (m.latch l).st = .full then m.setLatch l { m.latch l with st := .free } else m).meDone d t e none := by
  rw [State.meStart, h]

theorem meStart_setg (h : e.cmd = .setg) : s.meStart d t e = s.meDone d t e none := by
  rw [State.meStart, h]

theorem meStart_zero {a : Nat} {w : Word64} (h : e.cmd = .zero a w) : s.meStart d t e = s.meRun d t e := by
  rw [State.meStart, h]
  rfl

theorem meStart_ldb {l : Nat} {y h : Word64} (hc : e.cmd = .ldb l y h) (hbad : s.badAt (lsKey d t y.toNat) 2048 = false) : ∃ hw0,
    s.meStart d t e = (s.updMe d t fun m => m.setLatch l { st := .full, data := s.readLs ⟨d, t, 0⟩ y.toNat 2048, hw0 := hw0 }).meDone d t e none := by
  refine ⟨BitVec.ofNat 64 (fldN h 40 24 * 2 ^ 40 + (if (s.tile d t).me.seat.v then (s.tile d t).me.seat.seat else 0) * 2 ^ 32 + t * 2 ^ 24
    + fldN h 20 4 * 2 ^ 20), ?_⟩
  rw [State.meStart, hc]
  simp only [List.any_cons, List.any_nil, hbad, Bool.or_false, Bool.false_eq_true, if_false, List.flatMap_cons, List.flatMap_nil, List.append_nil]

theorem meStart_st_mismatch {a : Nat} {g0 g1 y : Word64} {sat : Bool} (h : e.cmd = .st a g0 g1 y sat)
    (hint : ((s.tile d t).me.acc a).int ≠ decide (4 ≤ mgO g0)) : s.meStart d t e = s.meDone d t e (some .matrixGeometry) := by
  rw [State.meStart, h]
  exact if_pos hint

/-- A row that a store of accumulator a gives. -/
def Me.row (m : Me) (a : Nat) (g0 : Word64) (sat : Bool) (i : Nat) : List Byte :=
  (List.range (mgN g0)).flatMap fun j => leBytes (outBytes g0) (mstValue m a g0 sat i j)

theorem meStart_st_rows {a : Nat} {g0 g1 y : Word64} {sat : Bool} (h : e.cmd = .st a g0 g1 y sat)
    (hint : ((s.tile d t).me.acc a).int = decide (4 ≤ mgO g0)) (hbit : bit y 63 = false) : s.meStart d t e =
      ((List.range (mgM g0)).foldl (fun s' i => s'.writeLs ⟨d, t, 0⟩ (fldN y 0 21 + i * mgAstride g0) ((s.tile d t).me.row a g0 sat i)) s).meDone
        d t e none := by
  rw [State.meStart, h]
  simp only [hint, ne_eq, not_true_eq_false, if_false, hbit, if_true]
  rfl

theorem meStart_st_landing {a : Nat} {g0 g1 y : Word64} {sat : Bool} (h : e.cmd = .st a g0 g1 y sat)
    (hint : ((s.tile d t).me.acc a).int = decide (4 ≤ mgO g0)) (hbit : bit y 63 = true) : s.meStart d t e =
      (s.updMe d t fun m => { m with store := m.store.filter fun x => !(x.ctx == e.ctx && x.num == e.num) }).fill d t
        { entry := fldN y 0 6, done := some (⟨d, t, e.ctx⟩, .me, e.num)
          reg := Reg.clean { tag := meOutTag (mgO g0), bits := BitVec.ofNat 2048 (leNat ((List.range (8 / outBytes g0)).flatMap fun i =>
            (s.tile d t).me.row a g0 sat (fldN y 8 5 + i))) } } := by
  rw [State.meStart, h]
  simp only [hint, ne_eq, not_true_eq_false, if_false, hbit, Bool.true_eq_false]
  rfl

theorem meStart_play_unfull {k : Nat} (h : e.cmd = .play k) (hfull : ((s.tile d t).me.latch k).st ≠ .full) :
    s.meStart d t e = s.playFails d t e .matrixGeometry := by
  rw [State.meStart, h]
  exact if_pos hfull

theorem meStart_play_seatless {k : Nat} (h : e.cmd = .play k) (hfull : ((s.tile d t).me.latch k).st = .full)
    (hno : e.seat.or (s.tile d t).me.seat.number = none ∨ e.granted = none) : s.meStart d t e = s.playFails d t e .rights := by
  rw [State.meStart, h]
  simp only [hfull, ne_eq, not_true_eq_false, if_false]
  exact if_pos hno

theorem meStart_play_runs {k : Nat} (h : e.cmd = .play k) (hfull : ((s.tile d t).me.latch k).st = .full)
    (hseat : e.seat.or (s.tile d t).me.seat.number ≠ none) (hgrant : e.granted ≠ none) :
    s.meStart d t e = s.meRun d t { e with seat := e.seat.or (s.tile d t).me.seat.number } := by
  rw [State.meStart, h]
  simp only [hfull, ne_eq, not_true_eq_false, if_false]
  exact if_neg (not_or.mpr ⟨hseat, hgrant⟩)

/-- A play that fails changes no context before it completes. -/
theorem playFails_eq (s : State) (d t : Nat) (e : MeEntry) (c : Cause) : ∃ u : State, s.playFails d t e c = u.meDone d t e (some c) ∧ (∀ q, u.ctx q = s.ctx q) ∧
    (e.granted = none → u = s) ∧ ∀ v k, e.granted = some (v, k) → ((u.tile d v).me.latch k).st = .free := by
  rw [State.playFails]
  rcases hg : e.granted with _ | ⟨v, k⟩
  · exact ⟨s, rfl, fun _ => rfl, fun _ => rfl, nofun⟩
  · refine ⟨_, rfl, fun q => ctx_updMe _ _ _ _ q, nofun, fun v' k' h => ?_⟩
    cases h
    rw [me_updMe, latch_setLatch, if_pos rfl]

end Start

/-! ### The end of a command (R207, R215 to R219) -/

section Apply

variable {s : State} {e : MeEntry} (hrun : (s.tile s.focus.die s.focus.tile).me.running = some e)

/-- Accumulator a takes x and the command that ran is complete. -/
def State.meApplied (s : State) (e : MeEntry) (a : Nat) (x : Acc) : State :=
  ((s.updMe s.focus.die s.focus.tile fun m => { m with running := none }).updMe s.focus.die s.focus.tile fun m => m.setAcc a x).complete
    ⟨s.focus.die, s.focus.tile, e.ctx⟩ .me e.num none

theorem me_meApplied (s : State) (e : MeEntry) (a : Nat) (x : Acc) : ((s.meApplied e a x).tile s.focus.die s.focus.tile).me =
    { (s.tile s.focus.die s.focus.tile).me with running := none, accs := put (s.tile s.focus.die s.focus.tile).me.accs a x } := by
  rw [State.meApplied, me_complete, me_updMe, me_updMe]
  rfl

theorem meApplied_mem (s : State) (e : MeEntry) (a : Nat) (x : Acc) : (s.meApplied e a x).mem = s.mem := by
  rw [State.meApplied, State.complete_mem]
  rfl

theorem acc_meApplied (s : State) (e : MeEntry) (a b : Nat) (x : Acc) : ((s.meApplied e a x).tile s.focus.die s.focus.tile).me.acc b =
    if b = a then x else (s.tile s.focus.die s.focus.tile).me.acc b := by
  rw [me_meApplied]
  exact acc_setAcc _ _ _ _

theorem done_meApplied (a : Nat) (x : Acc) (hctx : e.ctx < 8) (hn : (s.ctx ⟨s.focus.die, s.focus.tile, e.ctx⟩).done.me + 1 = e.num)
    (hout : (s.ctx ⟨s.focus.die, s.focus.tile, e.ctx⟩).doneOut = []) :
    ((s.meApplied e a x).ctx ⟨s.focus.die, s.focus.tile, e.ctx⟩).done.me = e.num := by
  rw [State.meApplied, done_complete (p := ⟨s.focus.die, s.focus.tile, e.ctx⟩) (e := .me) hctx (by rw [ctx_updMe, ctx_updMe]; exact hn)
    (by rw [ctx_updMe, ctx_updMe]; exact hout)]
  rfl

/-- Without entries that wait there is none to refuse. -/
theorem meRecheck_of_empty {u : State} {d t : Nat} (h : (u.tile d t).me.store = []) : u.meRecheck d t = u := by
  rw [State.meRecheck, h]
  rfl

variable (hstore : (s.tile s.focus.die s.focus.tile).me.store = [])

theorem meRecheck_meApplied {s : State} (e : MeEntry) (a : Nat) (x : Acc) (hstore : (s.tile s.focus.die s.focus.tile).me.store = []) :
    (s.meApplied e a x).meRecheck s.focus.die s.focus.tile = s.meApplied e a x :=
  meRecheck_of_empty (by rw [me_meApplied]; exact hstore)

include hrun

include hstore in
theorem execMeCommandApply_zero {a : Nat} {w : Word64} (h : e.cmd = .zero a w) :
    exec .meCommandApply s = .next (s.meApplied e a { int := bit w 0, atag := fldN w 40 8 }) := by
  rw [← meRecheck_meApplied e a _ hstore]
  show execMeCommandApply s = _
  rw [execMeCommandApply]
  simp only [hrun, h]
  rfl

include hstore in
theorem execMeCommandApply_mma {k a : Nat} {g0 g1 x w : Word64} (h : e.cmd = .mma k a g0 g1 x w) : exec .meCommandApply s =
    .next (s.meApplied e a (mmaApply k g0 w e.loaded e.latched ((s.tile s.focus.die s.focus.tile).me.acc a))) := by
  rw [← meRecheck_meApplied e a _ hstore]
  show execMeCommandApply s = _
  rw [execMeCommandApply]
  simp only [hrun, h]
  rfl

include hstore in
theorem execMeCommandApply_lda {a : Nat} {x w : Word64} (h : e.cmd = .lda a x w) : exec .meCommandApply s =
    .next (s.meApplied e a { elems := (List.range 1024).map fun k => (k, BitVec.ofNat 32 (codeAt e.loaded 32 k))
                             int := bit w 0, atag := fldN w 40 8, nseq := fldN w 48 16 }) := by
  rw [← meRecheck_meApplied e a _ hstore]
  show execMeCommandApply s = _
  rw [execMeCommandApply]
  simp only [hrun, h]
  rfl

/-- The cards of a play as they leave: with the seat that it had, or has, and its tile. -/
def State.playOf (s : State) (e : MeEntry) (x : Latch) (k : Nat) : Play :=
  { latch := k, data := x.data, hw0 := setFld (setFld x.hw0 32 8 (e.seat.getD 0)) 24 8 s.focus.tile, bad := x.bad
    src := ⟨s.focus.die, s.focus.tile, e.ctx⟩, num := e.num, entry := s.cycle }

theorem execMeCommandApply_play {l v k : Nat} (h : e.cmd = .play l) (hg : e.granted = some (v, k)) : exec .meCommandApply s =
    .next (((s.updMe s.focus.die s.focus.tile fun m => { m with running := none }).updMe s.focus.die s.focus.tile fun m =>
        m.setLatch l { (s.tile s.focus.die s.focus.tile).me.latch l with st := .free }).updMe s.focus.die v fun m =>
      { m with plays := m.plays ++ [s.playOf e ((s.tile s.focus.die s.focus.tile).me.latch l) k] }) := by
  show execMeCommandApply s = _
  rw [execMeCommandApply]
  simp only [hrun, h, hg]
  rfl

end Apply

/-- An element of the list of a whole accumulator. -/
theorem look_range_map {α : Type} (dflt : α) (f : Nat → α) {n k : Nat} (h : k < n) : look dflt ((List.range n).map fun k => (k, f k)) k = f k := by
  have hmem : (k, f k) ∈ (List.range n).map fun k => (k, f k) := List.mem_map.mpr ⟨k, List.mem_range.mpr h, rfl⟩
  rw [look_eq_getD, look?_of_mem hmem]
  · rfl
  · intro x hx hk
    obtain ⟨j, -, rfl⟩ := List.mem_map.mp hx
    exact congrArg f hk

/-! ### The table (R205, R206, R217) -/

/-- A change of the engine of tile w leaves a part of another tile's engine, and one that does not touch the part leaves it everywhere. -/
theorem part_updMe {α : Type} (s : State) (d w : Nat) (f : Me → Me) (part : Me → α) (h : ∀ m, part (f m) = part m) (u : Nat) :
    part ((s.updMe d w f).tile d u).me = part (s.tile d u).me := by
  by_cases huw : u = w
  · rw [huw, me_updMe, h]
  · rw [me_updMe_ne _ _ _ _ huw]

section Table

variable {s : State}

theorem execPlayRequest_deaf {e : MeEntry} (he : (s.tile s.focus.die s.focus.tile).me.store[s.index]? = some e) {l : Nat} (hc : e.cmd = .play l)
    (hdeaf : s.deaf s.focus.die s.focus.tile = true) : exec .playRequest s = .next s := by
  show execPlayRequest s = _
  rw [execPlayRequest]
  simp only [he, hc, hdeaf, or_true, if_true]

theorem execPlayRequest_asks {e : MeEntry} (he : (s.tile s.focus.die s.focus.tile).me.store[s.index]? = some e) {l : Nat} (hc : e.cmd = .play l)
    (hasked : e.asked = false) (hsaving : s.saving s.focus.die s.focus.tile = false)
    (holder : (s.tile s.focus.die s.focus.tile).me.olderReads e l = false) (hdeaf : s.deaf s.focus.die s.focus.tile = false) :
    exec .playRequest s = .next ((s.updMe s.focus.die s.focus.tile fun m => { m with store := m.store.set s.index { e with asked := true } }).updMe
      s.focus.die (s.tile s.focus.die s.focus.tile).me.seat.next fun m => { m with asks := m.asks ++ [(s.focus.tile, e.ctx, e.num)] }) := by
  show execPlayRequest s = _
  rw [execPlayRequest]
  simp only [he, hc, hasked, hsaving, holder, hdeaf, Bool.false_eq_true, or_self, if_false]

theorem ready_of_deaf {m : Me} {e : MeEntry} {k l : Nat} (hc : e.cmd = .play l) (hasked : e.asked = false)
    (holder : (m.store.take k).any (fun y => y.cmd.reads l) = false) : m.ready true k e = true := by
  simp only [Me.ready, hc, hasked, holder, Bool.not_false, Bool.and_self, Bool.or_true]

theorem olderReads_eq_false {m : Me} {e : MeEntry} {l : Nat} (h : ∀ y ∈ m.store ++ m.running.toList, y.stamp < e.stamp → y.cmd.reads l = false) :
    m.olderReads e l = false := by
  rw [Me.olderReads, List.any_eq_false]
  intro y hy
  by_cases hs : y.stamp < e.stamp
  · simp only [h y hy hs, Bool.and_false, Bool.false_eq_true, not_false_iff]
  · simp only [hs, decide_false, Bool.false_and, Bool.false_eq_true, not_false_iff]

section Grant

variable {v c n : Nat} {e : MeEntry} (hask : (s.tile s.focus.die s.focus.tile).me.asks[s.index]? = some (v, c, n))
  (he : ((s.tile s.focus.die v).me.store.find? fun y => y.ctx == c && y.num == n) = some e) (hv : (s.tile s.focus.die s.focus.tile).me.seat.v = true)
include hask he hv

theorem execPlayGrant_full (hl : ([0, 1].find? fun k => ((s.tile s.focus.die s.focus.tile).me.latch k).st == .free) = none) :
    exec .playGrant s = .next s := by
  show execPlayGrant s = _
  rw [execPlayGrant]
  simp only [hask, he, hv, Bool.true_eq_false, if_false, hl]

theorem execPlayGrant_reserves {l : Nat} (hl : ([0, 1].find? fun k => ((s.tile s.focus.die s.focus.tile).me.latch k).st == .free) = some l) :
    exec .playGrant s = .next (((s.updMe s.focus.die s.focus.tile fun m => { m with asks := dropAt m.asks s.index }).updMe s.focus.die s.focus.tile
        fun m => m.setLatch l { m.latch l with st := .reserved }).updMe s.focus.die v fun m => { m with store := m.store.map fun x =>
          if x.ctx = c ∧ x.num = n then { x with granted := some (s.focus.tile, l), seat := (s.tile s.focus.die v).me.seat.number } else x }) := by
  show execPlayGrant s = _
  rw [execPlayGrant]
  simp only [hask, he, hv, Bool.true_eq_false, if_false, hl]

end Grant

section Arrival

variable {q : Play} (hq : (s.tile s.focus.die s.focus.tile).me.plays[s.index]? = some q) (hheld : (s.tile s.focus.die s.focus.tile).held = false)
include hq hheld

theorem execLatchArrival_card (hsent : q.sent < 8) : exec .latchArrival s = .next (s.updMe s.focus.die s.focus.tile fun y =>
    { y with plays := y.plays.set s.index { q with sent := q.sent + 1 } }) := by
  show execLatchArrival s = _
  rw [execLatchArrival]
  simp only [hq, hheld, Bool.false_eq_true, if_false, hsent, if_true]

/-- The start of the seat's handler on a play that takes `lat` cycles. -/
def State.latchStart (s : State) (q : Play) (lat : Nat) : Start :=
  { code := (s.tile s.focus.die s.focus.tile).me.seat.code, block := (s.tile s.focus.die s.focus.tile).me.seat.off
    g0 := BitVec.ofNat 64 q.latch, g1 := q.hw0, region := (s.tile s.focus.die s.focus.tile).region
    hops := some (hopsWord q.src.tile (lat % 2 ^ 16) ((s.die s.focus.die).hops q.src.tile s.focus.tile)) }

/-- The seat's latch is full with the data of play number i, and its handler's start is queued. -/
def Tile.latchFilled (y : Tile) (i : Nat) (q : Play) (st : Start) : Tile :=
  { y with startQ := y.startQ ++ [st]
           me := { y.me.setLatch q.latch { st := .full, data := q.data, hw0 := q.hw0, bad := q.bad } with plays := dropAt y.me.plays i } }

theorem execLatchArrival_last (hsent : 8 ≤ q.sent) (hlatch : q.latch ≠ 2) (hroom : (s.tile s.focus.die s.focus.tile).startQ.length < 16) :
    exec .latchArrival s = .next (((s.draw (s.cycle - q.entry + 1)).2.updTile s.focus.die s.focus.tile
      (Tile.latchFilled · s.index q (s.latchStart q (s.draw (s.cycle - q.entry + 1)).1))).complete q.src .me q.num none) := by
  show execLatchArrival s = _
  rw [execLatchArrival]
  simp only [hq, hheld, Bool.false_eq_true, if_false, Nat.not_lt.mpr hsent, hlatch, startFull_of_room hroom]
  rfl

end Arrival

end Table

/-! ### What a start leaves -/

section Starts

variable {s : State} {d t : Nat} {e : MeEntry} (hctx : e.ctx < 8)
  (hturn : (s.ctx ⟨d, t, e.ctx⟩).done.me + 1 = e.num ∧ (s.ctx ⟨d, t, e.ctx⟩).doneOut = [])

include hctx hturn in
theorem done_updMe_meDone (f : Me → Me) (c : Option Cause) : (((s.updMe d t f).meDone d t e c).ctx ⟨d, t, e.ctx⟩).done.me = e.num :=
  done_meDone _ hctx (by rw [ctx_updMe]; exact hturn.1) (by rw [ctx_updMe]; exact hturn.2)

theorem meStart_rls_spec {l : Nat} (h : e.cmd = .rls l) (hfull : ((s.tile d t).me.latch l).st = .full) :
    (((s.meStart d t e).tile d t).me.latch l).st = .free := by
  rw [meStart_rls h, latch_meDone, me_updMe, if_pos hfull, latch_setLatch, if_pos rfl]

theorem ctx_foldl_writeLs (q : Place) (place : Place) (addr : Nat → Nat) (row : Nat → List Byte) : ∀ (l : List Nat) (s : State),
    (l.foldl (fun s i => s.writeLs place (addr i) (row i)) s).ctx q = s.ctx q
  | [], _ => rfl
  | _ :: l, _ => ctx_foldl_writeLs q place addr row l _

include hctx hturn in
/-- A play that fails completes with its cause. -/
theorem playFails_spec (c : Cause) : ((s.playFails d t e c).ctx ⟨d, t, e.ctx⟩).done.me = e.num ∧
    (e.ctx = 0 → c ≠ .uncorrectable → ((s.playFails d t e c).ctx ⟨d, t, e.ctx⟩).recf = (s.ctx ⟨d, t, e.ctx⟩).recf ++ [⟨.me, e.num, c, false⟩]) ∧
    (e.granted = none → ∀ k, ((s.playFails d t e c).tile d t).me.latch k = (s.tile d t).me.latch k) ∧
    ∀ v k, e.granted = some (v, k) → (((s.playFails d t e c).tile d v).me.latch k).st = .free := by
  obtain ⟨u, hu, huctx, hnone, hsome⟩ := playFails_eq s d t e c
  have hn : (u.ctx ⟨d, t, e.ctx⟩).done.me + 1 = e.num := by rw [huctx]; exact hturn.1
  have hout : (u.ctx ⟨d, t, e.ctx⟩).doneOut = [] := by rw [huctx]; exact hturn.2
  rw [hu]
  refine ⟨done_meDone _ hctx hn hout, fun h0 hc => ?_, fun h k => ?_, fun v k h => ?_⟩
  · rw [recf_meDone hn hout h0 hc, huctx]
  · rw [hnone h, latch_meDone]
  · rw [latch_meDone, hsome v k h]

end Starts

/-- Settles O34. -/
theorem matrixEngineAndPlays : Obligations.MatrixEngineAndPlays := by
  refine ⟨?_, ?_⟩
  · intro s e d t m p inTurn hctx
    refine ⟨fun h => execMeEntryStart_running h, ?_, ?_⟩
    · intro hrun l r hstore hl he hsaving
      refine ⟨execMeEntryStart_first hrun hstore hl he hsaving, ?_, ?_, ?_, ?_, ?_, ?_, ?_⟩
      · intro w k h hturn
        rw [meStart_seat h]
        exact ⟨by rw [me_meDone, me_updMe], fun h0 => if_pos h0, done_updMe_meDone hctx hturn _ _⟩
      · intro k h hfull hturn
        refine ⟨meStart_rls_spec h hfull, ?_⟩
        rw [meStart_rls h]
        exact done_updMe_meDone hctx hturn _ _
      · intro k a h hc hbad hturn
        obtain ⟨hw0, heq⟩ := meStart_ldb (d := d) (t := t) hc hbad
        rw [heq]
        have hlatch := (latch_meDone (s.updMe d t fun m => m.setLatch k
          { st := .full, data := s.readLs ⟨d, t, 0⟩ a.toNat 2048, hw0 := hw0 }) d t e none t k).trans
            ((congrArg (Me.latch · k) (me_updMe ..)).trans ((latch_setLatch ..).trans (if_pos rfl)))
        exact ⟨by rw [hlatch], by rw [hlatch], done_updMe_meDone hctx hturn _ _⟩
      · intro h hturn
        rw [meStart_setg h]
        exact ⟨done_meDone _ hctx hturn.1 hturn.2, meDone_mem ..⟩
      · intro a g0 g1 y sat h hturn
        refine ⟨fun hint h0 => ?_, fun hint hbit hstride _ => ?_, fun hint hbit => ?_⟩
        · rw [meStart_st_mismatch h hint]
          exact ⟨meDone_mem .., done_meDone _ hctx hturn.1 hturn.2, recf_meDone hturn.1 hturn.2 h0 nofun⟩
        · rw [meStart_st_rows h hint hbit, meDone_mem]
          refine ⟨done_meDone _ hctx ?_ ?_, fun i hi => ?_⟩
          · rw [ctx_foldl_writeLs]; exact hturn.1
          · rw [ctx_foldl_writeLs]; exact hturn.2
          · exact holds_foldl_rows (fun i => length_row _ _ _) hstride _ s i hi
        · rw [meStart_st_landing h hint hbit, State.fill, State.tile_updTile]
          show ((s.updMe d t _).tile d t).fills ++ _ = _
          rw [State.updMe, State.tile_updTile]
          rfl
      · intro a w h
        rw [meStart_zero h, running_meRun]
      · intro k h seat
        refine ⟨fun hfull hs hg => ?_, fun hfull hno hturn h0 => ?_, fun u b hg hfull hturn => ?_⟩
        · rw [meStart_play_runs h hfull hs hg, running_meRun]
        · rw [meStart_play_seatless h hfull hno]
          obtain ⟨hdone, hrecf, hlatch, -⟩ := playFails_spec hctx hturn .rights
          exact ⟨hdone, hrecf h0 nofun, fun hg => hlatch hg k⟩
        · rw [meStart_play_unfull h hfull]
          obtain ⟨hdone, -, -, hfree⟩ := playFails_spec hctx hturn .matrixGeometry
          exact ⟨hfree u b hg, hdone⟩
    · intro hrun hstore hturn
      obtain ⟨hn, hout⟩ := hturn
      refine ⟨fun a w h => ?_, fun k a g0 g1 x w h => ?_, fun a x w h => ?_⟩
      · exact ⟨_, execMeCommandApply_zero hrun hstore h, by rw [me_meApplied], done_meApplied _ _ hctx hn hout,
          by rw [acc_meApplied, if_pos rfl], meApplied_mem ..⟩
      · exact ⟨_, execMeCommandApply_mma hrun hstore h, by rw [me_meApplied], done_meApplied _ _ hctx hn hout,
          by rw [acc_meApplied, if_pos rfl], fun b hb => by rw [acc_meApplied, if_neg hb], meApplied_mem ..⟩
      · refine ⟨_, execMeCommandApply_lda hrun hstore h, done_meApplied _ _ hctx hn hout, by rw [acc_meApplied, if_pos rfl], fun i hi j hj => ?_⟩
        rw [acc_meApplied, if_pos rfl]
        rw [Acc.el, look_range_map _ (fun k => BitVec.ofNat 32 (codeAt e.loaded 32 k)) (by omega)]
  · intro s d t x m next
    refine ⟨?_, ?_, ?_, ?_⟩
    · intro e l he hc hasked hsaving holder
      refine ⟨fun hno => ?_, fun hv hnext hjoin => ?_⟩
      · have hdeaf : s.deaf d t = true := by
          rw [State.deaf]
          rcases hno with h | h | h
          · rw [h]; rfl
          · rw [h, Bool.or_true, Bool.true_or]
          · rw [h, Bool.not_false, Bool.or_true]
        refine ⟨execPlayRequest_deaf he hc hdeaf, fun k hk => ?_⟩
        rw [hdeaf]
        exact ready_of_deaf hc hasked hk
      · have hdeaf : s.deaf d t = false := by
          rw [State.deaf, hv, hnext, hjoin]
          rfl
        refine ⟨_, execPlayRequest_asks he hc hasked hsaving (olderReads_eq_false holder) hdeaf, ?_, ?_⟩
        · rw [me_updMe]
          refine congrArg (· ++ _) ?_
          rw [part_updMe _ _ _ _ Me.asks]
          exact fun _ => rfl
        · have hlt : s.index < m.store.length := (List.getElem?_eq_some_iff.mp he).1
          rw [part_updMe _ _ _ _ Me.store, me_updMe]
          · exact List.getElem?_set_self hlt
          · exact fun _ => rfl
    · intro v c n e hask he
      refine ⟨fun hv l hl => ⟨_, execPlayGrant_reserves hask he hv hl, ?_, ?_, ?_⟩, fun hv h0 h1 => execPlayGrant_full hask he hv ?_⟩
      · rw [part_updMe _ _ _ _ (Me.latch · l), me_updMe, latch_setLatch, if_pos rfl]
        exact fun _ => rfl
      · rw [part_updMe _ _ _ _ Me.asks, me_updMe, me_updMe]
        · rfl
        · exact fun _ => rfl
      · rw [me_updMe]
        refine congrArg (List.map _) ?_
        rw [part_updMe _ _ _ _ Me.store, part_updMe _ _ _ _ Me.store] <;> exact fun _ => rfl
      · rw [List.find?_cons_of_neg (by simpa using h0), List.find?_cons_of_neg (by simpa using h1), List.find?_nil]
    · intro e l v k hrun hc hg
      refine ⟨_, s.playOf e (m.latch l) k, execMeCommandApply_play hrun hc hg, ?_, ?_, ?_, rfl, rfl, rfl, rfl, rfl⟩
      · rw [part_updMe _ _ _ _ (Me.latch · l), me_updMe, latch_setLatch, if_pos rfl]
        exact fun _ => rfl
      · rw [part_updMe _ _ _ _ Me.running, part_updMe _ _ _ _ Me.running, me_updMe] <;> exact fun _ => rfl
      · rw [me_updMe]
        refine congrArg (· ++ _) ?_
        rw [part_updMe _ _ _ _ Me.plays, part_updMe _ _ _ _ Me.plays] <;> exact fun _ => rfl
    · intro q hq hheld
      refine ⟨fun hsent => execLatchArrival_card hq hheld hsent, fun hsent hlatch hroom hctx hn hout => ?_⟩
      refine ⟨_, s.latchStart q (s.draw (s.cycle - q.entry + 1)).1, execLatchArrival_last hq hheld hsent hlatch hroom, ?_, ?_, ?_, rfl, rfl, rfl, rfl, ?_⟩
      · rw [me_complete, State.tile_updTile]
        exact (latch_setLatch ..).trans (if_pos rfl)
      · rw [me_complete, State.tile_updTile]
        rfl
      · obtain ⟨ctxs, h⟩ := tile_complete_any ((s.draw (s.cycle - q.entry + 1)).2.updTile d t
          (Tile.latchFilled · s.index q (s.latchStart q (s.draw (s.cycle - q.entry + 1)).1))) d t q.src .me q.num none
        rw [h, State.tile_updTile]
        rfl
      · have hkeep (r : Place) : ((s.draw (s.cycle - q.entry + 1)).2.updTile d t
            (Tile.latchFilled · s.index q (s.latchStart q (s.draw (s.cycle - q.entry + 1)).1))).ctx r = s.ctx r :=
          State.ctx_updTile _ _ _ (Tile.latchFilled · s.index q (s.latchStart q (s.draw (s.cycle - q.entry + 1)).1)) (fun _ => rfl) _
        rw [done_complete (e := .me) hctx (by rw [hkeep]; exact hn) (by rw [hkeep]; exact hout)]
        rfl

end Sys2Proof.Machine
end

section
/-! PROOFS of the exchange unit (16_message_engine.md R247 to R250, R389, 18_msg_instructions.md R278, R281, R282). -/

namespace Sys2Proof.Machine

open Sys2Proof.Safety

/-! ### Parts of a die that a change leaves -/

/-- A change of die e that leaves a part of it leaves that part of every die. -/
theorem part_updDie {α : Type} (part : Die → α) {s : State} {e : Nat} {f : Die → Die} (h : ∀ x, part (f x) = part x) (d : Nat) :
    part ((s.updDie e f).die d) = part (s.die d) := by
  by_cases hd : d = e
  · rw [hd, State.die_updDie, h]
  · rw [State.die_updDie_ne _ _ hd]

/-- A completion changes its die's count of errors and the progress of a region. -/
theorem part_complete {α : Type} (part : Die → α) (herr : ∀ x n, part { x with errors := n } = part x) (htd : ∀ x t, part { x with td := t } = part x)
    (s : State) (p : Place) (e : Engine) (n : Nat) (f : Option Cause) (d : Nat) : part ((s.complete p e n f).die d) = part (s.die d) := by
  have hin : part ((s.completeIn p e n f).die d) = part (s.die d) := part_updDie part (fun x => htd x _) d
  rw [State.complete]
  split
  · rfl
  · rw [State.noteError]
    split
    · exact (part_updDie part (fun x => herr x _) d).trans hin
    · exact hin

theorem xu_complete (s : State) (p : Place) (e : Engine) (n : Nat) (f : Option Cause) (d : Nat) : ((s.complete p e n f).die d).xu = (s.die d).xu :=
  part_complete Die.xu (fun _ _ => rfl) (fun _ _ => rfl) s p e n f d

theorem xu_mseDone (s : State) (p : Place) (n : Nat) (f : Option Cause) (d : Nat) : ((s.mseDone p n f).die d).xu = (s.die d).xu := by
  rw [State.mseDone]
  split
  · rfl
  · rw [xu_complete]
    rfl

theorem xu_updXu (s : State) (d : Nat) (f : Xu → Xu) : ((s.updXu d f).die d).xu = f (s.die d).xu := by
  rw [State.updXu, State.die_updDie]

theorem die_writeLs (s : State) (p : Place) (a : Nat) (bs : List Byte) (d : Nat) : (s.writeLs p a bs).die d = s.die d := rfl

theorem xu_updFab (s : State) (e : Nat) (f : Fab → Fab) (d : Nat) : ((s.updFab e f).die d).xu = (s.die d).xu :=
  part_updDie Die.xu (f := fun x => { x with fab := f x.fab }) (fun _ => rfl) d

/-! ### Lists and flushes (R249 step 1) -/

section Lists

variable (s : State) (d n : Nat)

theorem dest_updDest (f : XDest → XDest) (k : Nat) :
    ((s.updDest d n f).die d).xu.dest k = if k = n then f ((s.die d).xu.dest n) else (s.die d).xu.dest k := by
  rw [State.updDest, xu_updXu]
  split
  next h => rw [h]; exact look_put ..
  next h => exact look_put_ne _ _ _ h

theorem xu_send_flush (h : Nat) (f : FlushIn) : ∃ l, ((s.send d h (.flush f)).die d).xu = { (s.die d).xu with flushIn := l } := by
  by_cases hd : h = d
  · subst hd
    rw [send_self rfl]
    exact ⟨_, xu_updXu ..⟩
  · rw [send_other hd]
    exact ⟨(s.die d).xu.flushIn, xu_updFab ..⟩

theorem xflush_of_empty {s : State} {d n : Nat} (h : ((s.die d).xu.dest n).list = []) : s.xflush d n = s := if_pos h

theorem xflush_of_records {s : State} {d n : Nat} (h : ((s.die d).xu.dest n).list ≠ []) : ∃ l, ((s.xflush d n).die d).xu =
    { (s.die d).xu with flushes := (s.die d).xu.flushes ++ [{ n := (s.die d).xu.nextFlush, dest := n, recs := ((s.die d).xu.dest n).list }]
                        nextFlush := (s.die d).xu.nextFlush + 1
                        dests := put (s.die d).xu.dests n { (s.die d).xu.dest n with list := [] }, flushIn := l } := by
  obtain ⟨l, hl⟩ := xu_send_flush ((s.updXu d fun x => { x with
    flushes := x.flushes ++ [{ n := (s.die d).xu.nextFlush, dest := n, recs := ((s.die d).xu.dest n).list }], nextFlush := x.nextFlush + 1 }).updDest
      d n fun e => { e with list := [] }) d (s.hubOf ((s.die d).xu.dest n).dest)
        { src := d, n := (s.die d).xu.nextFlush, dest := ((s.die d).xu.dest n).dest, size := ((s.die d).xu.dest n).rsz, recs := ((s.die d).xu.dest n).list }
  refine ⟨l, ?_⟩
  rw [State.xflush]
  simp only [h, if_false]
  rw [hl, State.updDest, xu_updXu, xu_updXu]
  rfl

theorem dest_xflush (k : Nat) : ((s.xflush d n).die d).xu.dest k =
    if k = n then { (s.die d).xu.dest n with list := [] } else (s.die d).xu.dest k := by
  by_cases h : ((s.die d).xu.dest n).list = []
  · rw [xflush_of_empty h]
    split
    next hk => rw [hk, ← h]
    next => rfl
  · obtain ⟨l, hl⟩ := xflush_of_records h
    rw [hl]
    split
    next hk => rw [hk]; exact look_put ..
    next hk => exact look_put_ne _ _ _ hk

theorem configs_xflush : ((s.xflush d n).die d).xu.configs = (s.die d).xu.configs := by
  by_cases h : ((s.die d).xu.dest n).list = []
  · rw [xflush_of_empty h]
  · obtain ⟨l, hl⟩ := xflush_of_records h
    rw [hl]

/-- A list that has just been flushed holds no record. -/
theorem xflush_xflush : (s.xflush d n).xflush d n = s.xflush d n :=
  xflush_of_empty (by rw [dest_xflush, if_pos rfl])

/-- A record appended to a list leaves with the list, whether the list is flushed at once or next. -/
theorem xflush_xappend (r : XRec) : (s.xappend d n r).xflush d n = (s.updDest d n fun e => { e with list := e.list ++ [r] }).xflush d n := by
  simp only [State.xappend]
  split
  · exact xflush_xflush ..
  · rfl

end Lists

/-! ### Receiving (R249 step 2, R250) -/

theorem receive_eq_none_iff (s : State) (d src : Nat) (dest : Word64) (r : XRec) : s.receive d src dest r = none ↔
    s.noTile d (fldN dest 41 8) = true ∨ ((s.tile d (fldN dest 41 8)).savedFlag = true ∧ (s.tile d (fldN dest 41 8)).task = none) ∨
      ((s.tile d (fldN dest 41 8)).mb (fldN dest 35 6)).mode ≠ 2 ∨
      ((s.tile d (fldN dest 41 8)).mb (fldN dest 35 6)).rcap ≤ ((s.tile d (fldN dest 41 8)).mb (fldN dest 35 6)).rcount ∨
      r.bytes.length ≠ ((s.tile d (fldN dest 41 8)).mb (fldN dest 35 6)).rsize := by
  rw [State.receive]
  dsimp only
  split
  next h => exact ⟨fun _ => h, fun _ => rfl⟩
  next h => exact ⟨nofun, fun h' => absurd h' h⟩

section Events

variable {s : State}

theorem execExchangeFlushArrival_takes {f : FlushIn} {no : List XRec} {v : State} (hstop : (s.die s.focus.die).stopped = false)
    (hf : (s.die s.focus.die).xu.flushIn[s.index]? = some f) (hheld : (s.tile s.focus.die (fldN f.dest 41 8)).held = false)
    (hfirst : ∀ g ∈ (s.die s.focus.die).xu.flushIn.take s.index, fldN g.dest 35 14 ≠ fldN f.dest 35 14)
    (hrec : (s.updXu s.focus.die fun y => { y with flushIn := dropAt y.flushIn s.index }).receiveAll s.focus.die f.src f.dest f.recs = (no, v)) :
    exec .exchangeFlushArrival s = .next (v.send s.focus.die f.src (.xreturn f.n no)) := by
  have hany : ((s.die s.focus.die).xu.flushIn.take s.index).any (fun g => fldN g.dest 35 14 == fldN f.dest 35 14) = false := by
    rw [List.any_eq_false]
    exact fun g hg => by simpa using hfirst g hg
  show execExchangeFlushArrival s = _
  rw [execExchangeFlushArrival]
  simp only [hf, hheld, hstop, hany, Bool.false_eq_true, or_self, if_false, hrec]

theorem execOverflowRecordArrival_takes {o : XOvf} (hstop : (s.die s.focus.die).stopped = false)
    (ho : (s.die s.focus.die).xu.overflow[s.index]? = some o) (hheld : (s.tile s.focus.die (fldN o.dest 41 8)).held = false) :
    exec .overflowRecordArrival s = .next ((((s.updXu s.focus.die fun z => { z with overflow := dropAt z.overflow s.index }).receive s.focus.die
      o.rec_.src.die o.dest o.rec_).getD (s.updXu s.focus.die fun z => { z with overflow := dropAt z.overflow s.index })).recordFinal
        o.rec_.src.die o.rec_ none) := by
  show execOverflowRecordArrival s = _
  rw [execOverflowRecordArrival]
  simp only [ho, hheld, hstop, Bool.false_eq_true, or_self, if_false]

/-! ### Answers (R249) -/

/-- The counters of a destination whose flush has been answered. -/
def XDest.answered (e : XDest) (yes no : Nat) : XDest := { e with sent := count32 e.sent yes, overflowed := count32 e.overflowed no }

/-- The unit once answer `index`, to flush n of list k, is read: `yes` records were taken and `no` refused. -/
def State.xanswered (s : State) (n k yes no : Nat) : State :=
  ((s.updXu s.focus.die fun x => { x with returns := dropAt x.returns s.index }).updXu s.focus.die fun x =>
    { x with flushes := x.flushes.filter fun g => g.n != n }).updDest s.focus.die k fun e => e.answered yes no

theorem xu_xanswered (s : State) (n k yes no : Nat) : ((s.xanswered n k yes no).die s.focus.die).xu =
    { (s.die s.focus.die).xu with returns := dropAt (s.die s.focus.die).xu.returns s.index
                                  flushes := (s.die s.focus.die).xu.flushes.filter fun g => g.n != n
                                  dests := put (s.die s.focus.die).xu.dests k (((s.die s.focus.die).xu.dest k).answered yes no) } := by
  rw [State.xanswered, State.updDest, xu_updXu, xu_updXu, xu_updXu]
  rfl

theorem dest_xanswered (s : State) (n k yes no j : Nat) : ((s.xanswered n k yes no).die s.focus.die).xu.dest j =
    if j = k then ((s.die s.focus.die).xu.dest k).answered yes no else (s.die s.focus.die).xu.dest j := by
  rw [xu_xanswered]
  split
  next h => rw [h]; exact look_put ..
  next h => exact look_put_ne _ _ _ h

theorem XRec.same_self (r : XRec) : r.same r = true := by simp [XRec.same]

section Answer

variable {n : Nat} {f : Flush} {r : XRec} (hflush : (s.die s.focus.die).xu.flushes = [f]) (hn : f.n = n) (hrecs : f.recs = [r])

include hflush hn in
theorem flushes_xanswered (k yes no : Nat) : ((s.xanswered n k yes no).die s.focus.die).xu.flushes = [] := by
  rw [xu_xanswered, hflush]
  simp [hn]

include hflush hn hrecs

theorem execExchangeReturnArrival_taken (hret : (s.die s.focus.die).xu.returns[s.index]? = some (n, [])) :
    exec .exchangeReturnArrival s = .next ((s.xanswered n f.dest 1 0).recordFinal s.focus.die r none) := by
  show execExchangeReturnArrival s = _
  rw [execExchangeReturnArrival]
  have hfind : ((s.die s.focus.die).xu.flushes.find? fun f => f.n == n) = some f := by simp [hflush, hn]
  simp only [hret, hfind, hrecs]
  rfl

theorem execExchangeReturnArrival_second (hret : (s.die s.focus.die).xu.returns[s.index]? = some (n, [r])) (hst : r.st = 0) (hch : r.ch2 ≠ r.ch1)
    (hv : ((s.die s.focus.die).xu.dest r.ch2).v = true) : exec .exchangeReturnArrival s =
      .next (((s.xanswered n f.dest 0 1).updDest s.focus.die r.ch2 fun e => { e with list := e.list ++ [r.setSt 1] }).xflush s.focus.die r.ch2) := by
  have hfind : ((s.die s.focus.die).xu.flushes.find? fun f => f.n == n) = some f := by simp [hflush, hn]
  have hsecond : (s.die s.focus.die).xu.second r = true := by simp [Xu.second, hst, hch, hv]
  have hagain : ((s.xanswered n f.dest 0 1).die s.focus.die).xu.second r = true := by
    have hv' : (((s.xanswered n f.dest 0 1).die s.focus.die).xu.dest r.ch2).v = true := by
      rw [dest_xanswered]
      split
      next h => rw [h] at hv; exact hv
      next => exact hv
    simp [Xu.second, hst, hch, hv']
  have hyes : (f.recs.filter fun x => !([r].any x.same)) = [] := by simp [hrecs, XRec.same_self]
  have hno : (([r].filter (s.die s.focus.die).xu.second).map XRec.ch2).eraseDups = [r.ch2] := by
    rw [List.filter_cons_of_pos hsecond]
    rfl
  have hreturned : (s.xanswered n f.dest 0 1).returned s.focus.die r = (s.xanswered n f.dest 0 1).xappend s.focus.die r.ch2 (r.setSt 1) := if_pos hagain
  rw [← xflush_xappend, ← hreturned]
  show execExchangeReturnArrival s = _
  rw [execExchangeReturnArrival]
  simp only [hret, hfind, hyes, hno]
  rfl

end Answer

/-! ### Configurations (R247, R278, R389) -/

section Config

variable {c : XConf} (hc : (s.die s.focus.die).xu.configs[s.index]? = some c)
  (hfirst : ∀ y ∈ (s.die s.focus.die).xu.configs.take s.index, y.sel ≠ c.sel)

/-- The first two words of a configuration. -/
def XConf.w0 (c : XConf) : Word64 := BitVec.ofNat 64 (leNat c.bytes)

@[inherit_doc XConf.w0]
def XConf.w1 (c : XConf) : Word64 := BitVec.ofNat 64 (leNat (c.bytes.drop 8))

/-- Configuration `index` has left its queue. -/
def State.xconfigured (s : State) : State := s.updXu s.focus.die fun x => { x with configs := dropAt x.configs s.index }

include hc hfirst

theorem execExchangeConfigApply_eq : exec .exchangeConfigApply s = .next (
    if c.sel = 64 then
      if ovfOk s c.w0 c.w1 then (s.xconfigured.updXu s.focus.die fun x => { x with ovf := c.w0, ovfV := bit c.w1 56 }).mseDone c.place c.num none
      else s.xconfigured.mseDone c.place c.num (some .reservedField)
    else if xchgOk c.w0 c.w1 then
      ((s.xconfigured.xflush s.focus.die c.sel).updDest s.focus.die c.sel fun e => { e with dest := c.w0, w1 := c.w1 }).mseDone c.place c.num none
    else s.xconfigured.mseDone c.place c.num (some .reservedField)) := by
  have hany : ((s.die s.focus.die).xu.configs.take s.index).any (fun y => y.sel == c.sel) = false := by
    rw [List.any_eq_false]
    exact fun y hy => by simpa using hfirst y hy
  show execExchangeConfigApply s = _
  rw [execExchangeConfigApply]
  simp only [hc, hany, Bool.false_eq_true, if_false]
  rfl

end Config

/-! ### `XFLUSH` (R282) -/

/-- The counters of a destination as `XFLUSH` writes them. -/
def XDest.counters (e : XDest) : List Byte := leBytes 4 e.sent ++ leBytes 4 e.overflowed ++ leBytes 4 e.dropped ++ leBytes 4 0

theorem XDest.length_counters (e : XDest) : e.counters.length = 16 := by simp [XDest.counters, length_leBytes]

theorem execXflushCounterWrite_one {w : XWait} (hw : (s.die s.focus.die).xu.xflush[s.index]? = some w) (hawait : w.await = [])
    (hone : bit w.lists 63 = false) : exec .xflushCounterWrite s =
      .next (((s.updXu s.focus.die fun x => { x with xflush := dropAt x.xflush s.index }).writeLs w.place w.addr
        ((s.die s.focus.die).xu.dest (fldN w.lists 0 6)).counters).mseDone w.place w.num none) := by
  have hblock : (flushLists w.lists).flatMap (fun n => ((s.die s.focus.die).xu.dest n).counters) =
      ((s.die s.focus.die).xu.dest (fldN w.lists 0 6)).counters := by
    rw [flushLists, hone]
    simp
  rw [← hblock]
  show execXflushCounterWrite s = _
  rw [execXflushCounterWrite]
  simp only [hw, hawait, ne_eq, not_true_eq_false, if_false]
  rfl

end Events

/-- Settles O35. -/
theorem exchangeUnit : Obligations.ExchangeUnit := by
  intro s d x
  refine ⟨fun f no v hstop hf hheld hfirst hrec => execExchangeFlushArrival_takes hstop hf hheld hfirst hrec,
    fun src dest r => receive_eq_none_iff s d src dest r, ?_, ?_, fun o hstop ho hheld => execOverflowRecordArrival_takes hstop ho hheld, ?_, ?_⟩
  · intro n f r e hret hflush hn hrecs hmse hectx henum hframe hctx hdone hout
    let u := (s.xanswered n f.dest 1 0).updXu d fun x => { x with
      dropping := x.dropping.filter fun y => !r.same y
      xflush := x.xflush.map fun w => { w with await := w.await.filter fun y => !(y.1 == r.src && y.2 == r.num) } }
    have hxu : (((s.xanswered n f.dest 1 0).recordFinal d r none).die d).xu = (u.die d).xu := xu_mseDone ..
    have hsingle : (s.xanswered n f.dest 1 0).recordFinal d r none = (u.mseEmpty r.src).complete r.src .mse r.num none :=
      mseDone_single (s := u) (p := r.src) hmse hectx henum hframe none
    refine ⟨_, execExchangeReturnArrival_taken hflush hn hrecs hret, ?_, ?_, ?_, ?_, ?_⟩
    · rw [hxu, xu_updXu]
      exact flushes_xanswered hflush hn ..
    · rw [hxu, xu_updXu, xu_xanswered]
    · rw [hxu, xu_updXu]
      show (((s.xanswered n f.dest 1 0).die d).xu.dest f.dest).sent = _
      rw [dest_xanswered, if_pos rfl]
      rfl
    · rw [hsingle]
      exact mse_done ..
    · rw [hsingle, done_complete (e := .mse) hctx (by rw [ctx_mseEmpty]; exact hdone) (by rw [ctx_mseEmpty]; exact hout)]
      rfl
  · intro n f r hret hflush hn hrecs hst hch hv
    let u := (s.xanswered n f.dest 0 1).updDest d r.ch2 fun e => { e with list := e.list ++ [r.setSt 1] }
    have hdest (k : Nat) : (u.die d).xu.dest k = if k = r.ch2 then
        { (s.xanswered n f.dest 0 1).die d |>.xu.dest r.ch2 with list := (((s.xanswered n f.dest 0 1).die d).xu.dest r.ch2).list ++ [r.setSt 1] }
      else ((s.xanswered n f.dest 0 1).die d).xu.dest k := dest_updDest ..
    have hlist : ((u.die d).xu.dest r.ch2).list = (x.dest r.ch2).list ++ [r.setSt 1] := by
      rw [hdest, if_pos rfl, dest_xanswered]
      split
      next h => rw [h]; rfl
      next => rfl
    obtain ⟨l, hl⟩ := xflush_of_records (s := u) (d := d) (n := r.ch2) (by rw [hlist]; simp)
    have hflushes : (u.die d).xu.flushes = [] := (congrArg Xu.flushes (xu_updXu ..)).trans (flushes_xanswered hflush hn ..)
    refine ⟨_, { n := (u.die d).xu.nextFlush, dest := r.ch2, recs := ((u.die d).xu.dest r.ch2).list },
      execExchangeReturnArrival_second hflush hn hrecs hret hst hch hv, ?_, rfl, hlist, ?_⟩
    · exact (congrArg Xu.flushes hl).trans (by rw [hflushes]; rfl)
    · have hover : ((u.die d).xu.dest f.dest).overflowed = count32 (x.dest f.dest).overflowed 1 := by
        rw [hdest]
        split
        next h =>
          show (((s.xanswered n f.dest 0 1).die d).xu.dest r.ch2).overflowed = _
          rw [dest_xanswered, if_pos h.symm]
          rfl
        next => rw [dest_xanswered, if_pos rfl]; rfl
      refine Eq.trans ?_ hover
      rw [dest_xflush]
      split
      next h => exact congrArg (fun k => ((u.die d).xu.dest k).overflowed) h.symm
      next => rfl
  · intro c hc hfirst w0 w1 y
    rw [execExchangeConfigApply_eq hc hfirst]
    refine ⟨fun hsel hok => ?_, fun hsel hok => ?_, ?_⟩
    · have hok : ovfOk s c.w0 c.w1 = true := hok
      rw [if_pos hsel, if_pos hok]
      refine ⟨_, rfl, ?_⟩
      rw [xu_mseDone, xu_updXu, State.xconfigured, xu_updXu]
      exact ⟨rfl, rfl, rfl⟩
    · have hok : xchgOk c.w0 c.w1 = true := hok
      rw [if_neg hsel, if_pos hok]
      refine ⟨_, rfl, ?_⟩
      rw [xu_mseDone]
      have hdest := dest_updDest (s.xconfigured.xflush d c.sel) d c.sel (fun e => { e with dest := c.w0, w1 := c.w1 }) c.sel
      rw [if_pos rfl, dest_xflush, if_pos rfl] at hdest
      refine ⟨congrArg XDest.dest hdest, congrArg XDest.w1 hdest, congrArg XDest.list hdest, ?_⟩
      rw [State.updDest, xu_updXu]
      exact (configs_xflush ..).trans (congrArg Xu.configs (xu_updXu ..))
    · rintro (⟨hsel, hok⟩ | ⟨hsel, hok⟩)
      · have hok : ¬ ovfOk s c.w0 c.w1 = true := Bool.eq_false_iff.mp hok
        rw [if_pos hsel, if_neg hok]
        rfl
      · have hok : ¬ xchgOk c.w0 c.w1 = true := Bool.eq_false_iff.mp hok
        rw [if_neg hsel, if_neg hok]
        rfl
  · intro w hw hawait hone e
    refine ⟨_, execXflushCounterWrite_one hw hawait hone, ?_, ?_, ?_⟩
    · rw [xu_mseDone]
      rw [die_writeLs, xu_updXu]
    · rw [State.mseDone_mem]
      exact holds_writeN _ _ _
    · rw [State.mseDone_mem, ← e.length_counters]
      exact sameOutside_writeN _ _ _

end Sys2Proof.Machine
end

section
/-! PROOFS of messages that leave, their timers, and link control (17_erasure_coding.md R257 to R259, R261 to R265). -/

namespace Sys2Proof.Machine

open Sys2Proof.Safety

/-! ### The fabric interface of a hub -/

section Interface

variable (s : State) (d : Nat)

theorem fab_tally (g : Counters → Counters) : ((s.tally d g).die d).fab = { (s.die d).fab with counters := g (s.die d).fab.counters } := by
  rw [State.tally, fab_updFab]

theorem fab_updRet (dst cls seq : Nat) (g : Ret → Ret) : ((s.updRet d dst cls seq g).die d).fab = { (s.die d).fab with
    retained := (s.die d).fab.retained.map fun r => if r.msg.dst = dst ∧ r.msg.cls = cls ∧ r.msg.seq = seq then g r else r } := by
  rw [State.updRet, fab_updFab]

theorem fab_complete (p : Place) (e : Engine) (n : Nat) (f : Option Cause) : ((s.complete p e n f).die d).fab = (s.die d).fab :=
  part_complete Die.fab (fun _ _ => rfl) (fun _ _ => rfl) s p e n f d

theorem die_foldl_count {α : Type} (i : α → Nat) : ∀ (l : List α) (s : State), (l.foldl (fun s x => s.count (i x)) s).die d = s.die d
  | [], _ => rfl
  | x :: l, s => die_foldl_count i l (s.count (i x))

/-- The chords or planes to a hub are those of the die's chord table and of the links. -/
theorem spray_congr {s u : State} {d : Nat} (hchords : (u.die d).fab.chords = (s.die d).fab.chords) (hlinks : u.links = s.links) (dst : Nat) :
    u.spray d dst = s.spray d dst := by
  have hchord (c : Nat) : (u.die d).fab.chord dst c = (s.die d).fab.chord dst c := by rw [Fab.chord, Fab.chord, hchords]
  have hopen : u.chordOpen d dst = s.chordOpen d dst := funext fun c => by rw [State.chordOpen, State.chordOpen, hchord]
  have hsites : u.sites d = s.sites d := by
    have hlinks' : ({ u with links := u.links.map fun l => (l.1, if l.2 = LinkState.up then LinkState.up else .down) } : State).links =
        ({ s with links := s.links.map fun l => (l.1, if l.2 = LinkState.up then LinkState.up else .down) } : State).links :=
      congrArg (List.map fun l => (l.1, if l.2 = LinkState.up then LinkState.up else .down)) hlinks
    rw [State.sites, State.sites, spread_of_links hlinks', hlinks]
  have hplanes (m : Nat) : u.planes d m = s.planes d m := by rw [State.planes, State.planes, State.rims, State.rims, hsites]
  simp only [State.spray, State.chordLinks, hchord, hopen, hplanes]

end Interface

/-! ### Sending (R257, R258, R261, R263) -/

theorem length_sendOrder (k m : Nat) : (sendOrder k m).length = k + m := by simp [sendOrder]

theorem length_emit (m : Msg) (k n : Nat) {order : List Nat} (h : order ≠ []) (idxs : List Nat) : (m.emit k n order idxs).1.length = idxs.length := by
  rw [Msg.emit]
  simp [h]

theorem lastSeq_of_seqs {f : Fab} {dst cls seq : Nat} {l : List (Nat × Nat × Nat)}
    (h : f.seqs = l.filter (fun x => !(x.1 == dst && x.2.1 == cls)) ++ [(dst, cls, seq)]) : f.lastSeq dst cls = seq := by
  have hnone : (l.filter fun x => !(x.1 == dst && x.2.1 == cls)).find? (fun x => x.1 == dst && x.2.1 == cls) = none := by
    rw [List.find?_eq_none]
    intro x hx
    simpa [or_iff_not_imp_left] using (List.mem_filter.mp hx).2
  rw [Fab.lastSeq, h, List.find?_append, hnone]
  simp

section Send

variable {s : State}

/-- A message under the next sequence number of its destination and class. -/
def Fab.numbered (f : Fab) (m : Msg) : Msg := { m with seq := f.lastSeq m.dst m.cls + 1 }

/-- A message of k data and n parity fragments as it is retained when it leaves. -/
def State.retain (s : State) (d : Nat) (m : Msg) (k n : Nat) (used : List (Nat × Nat)) : Ret :=
  { msg := m, k := k, sent := k + n, parity := n, par := n, tmo := (s.die d).fab.timeout m.dst, limit := (s.die d).fab.repairLimit
    timer := s.cycle, used := used }

/-- The fragments of a message and the chords they take. -/
def State.sprayed (s : State) (d : Nat) (m : Msg) (k n : Nat) : List Frag × List (Nat × Nat) := m.emit k 0 (s.spray d m.dst) (sendOrder k n)

theorem execMessageSend_first {m : Msg} (hm : (s.die s.focus.die).fab.outbox[s.index]? = some m)
    (hfirst : ∀ y ∈ (s.die s.focus.die).fab.outbox.take s.index, y.dst ≠ m.dst ∨ y.cls ≠ m.cls) (hret : (s.die s.focus.die).fab.retained = [])
    {k n : Nat} (hk : dataCount m.coded.length = k) (hn : (s.die s.focus.die).fab.parityCount m.dst m.cls k = n) (hroom : 64 * k ≤ 2 ^ 21) :
    exec .messageSend s = .next (({ s with frags := s.frags ++ (s.sprayed s.focus.die ((s.die s.focus.die).fab.numbered m) k n).1 } : State).updFab
      s.focus.die fun f => { f with
        outbox := dropAt f.outbox s.index
        retained := f.retained ++ [s.retain s.focus.die ((s.die s.focus.die).fab.numbered m) k n
          (s.sprayed s.focus.die ((s.die s.focus.die).fab.numbered m) k n).2]
        seqs := f.seqs.filter (fun x => !(x.1 == m.dst && x.2.1 == m.cls)) ++ [(m.dst, m.cls, (s.die s.focus.die).fab.lastSeq m.dst m.cls + 1)] }) := by
  have hbefore : ((s.die s.focus.die).fab.outbox.take s.index).any (fun x => x.dst == m.dst && x.cls == m.cls) = false := by
    rw [List.any_eq_false]
    intro y hy h
    obtain ⟨h1, h2⟩ := (Bool.and_eq_true ..).mp h
    exact (hfirst y hy).elim (fun hne => hne (eq_of_beq h1)) (fun hne => hne (eq_of_beq h2))
  have hgate : ¬ (false = true ∨ flightLimit ≤ 0 ∨ retentionBytes < 0 + 64 * k) := by
    rintro (h | h | h)
    · exact absurd h nofun
    · exact absurd h (by decide)
    · have hlimit : retentionBytes = 2 ^ 21 := rfl
      omega
  have hcoded : ((s.die s.focus.die).fab.numbered m).coded = m.coded := rfl
  subst hk hn
  show execMessageSend s = _
  rw [execMessageSend]
  simp only [hm, hbefore, hret, List.filter_nil, List.length_nil, List.map_nil, List.sum_nil]
  exact congrArg Host.Outcome.next (if_neg hgate)

end Send

/-! ### Timers (R259, R263 to R265) -/

section Timers

variable {s : State}

section Resend

variable {r : Ret} (hr : (s.die s.focus.die).fab.retained[s.index]? = some r)
include hr

theorem execBusyResendTimer_eq {c : Nat} (hc : r.resendAt = some c) :
    exec .busyResendTimer s = .next (if c ≤ s.cycle then s.resend s.focus.die r else s) := by
  show execBusyResendTimer s = _
  rw [execBusyResendTimer]
  simp only [hr, hc]

theorem execSourceTimerExpiry_eq (htime : r.timer + 2 * r.tmo ≤ s.cycle) (hrun : s.timersRun s.focus.die = true) : exec .sourceTimerExpiry s =
    .next (if r.attempts < r.limit then
      ((s.resend s.focus.die r).updRet s.focus.die r.msg.dst r.msg.cls r.msg.seq fun y => { y with timer := s.cycle, attempts := y.attempts + 1 }).tally
        s.focus.die fun c => { c with attempts := c.attempts + 1#32 }
    else s.giveUp s.focus.die r) := by
  show execSourceTimerExpiry s = _
  rw [execSourceTimerExpiry]
  simp only [hr, Nat.not_lt.mpr htime, hrun, Bool.true_eq_false, or_self, if_false]

end Resend

theorem execAckTimer_eq {y : Filter} (hy : (s.die s.focus.die).fab.filters[s.index]? = some y) {c : Nat} (hc : y.grownAt = some c) :
    exec .ackTimer s = .next (if c + 1024 ≤ s.cycle ∧ s.timersRun s.focus.die = true then s.ack s.focus.die y.src y.cls else s) := by
  show execAckTimer s = _
  rw [execAckTimer]
  simp only [hy, hc]

section Meld

variable {b : Meld} (hb : (s.die s.focus.die).fab.melds[s.index]? = some b) (hshort : b.frags.length < b.k)
  (htime : b.opened + b.tmo * (b.repairs + 1) ≤ s.cycle) (hrun : s.timersRun s.focus.die = true) (hstop : (s.die s.focus.die).stopped = false)

/-- Meld buffer number i has asked for repair. -/
def State.repairAsked (s : State) (d i : Nat) (b : Meld) : State :=
  (s.updFab d fun f => { f with melds := f.melds.set i { b with repairs := b.repairs + 1 } }).tally d fun c => { c with repairs := c.repairs + 1#32 }

theorem fab_repairAsked (s : State) (d i : Nat) (b : Meld) : ((s.repairAsked d i b).die d).fab =
    { (s.die d).fab with melds := (s.die d).fab.melds.set i { b with repairs := b.repairs + 1 }
                         counters := { (s.die d).fab.counters with repairs := (s.die d).fab.counters.repairs + 1#32 } } := by
  rw [State.repairAsked, fab_tally, fab_updFab]

/-- What leaves once a meld buffer has asked for repair is what the hub would have sent before. -/
theorem frags_repairAsked (s : State) (d i : Nat) (b : Meld) (dst cls : Nat) (l : Link) : ((s.repairAsked d i b).control d dst cls l).frags =
    s.frags ++ ((s.controlMsg d dst cls l).emit 1 0 (s.spray d dst) (sendOrder 1 ((s.die d).fab.parityCount dst 2 1))).1 := by
  have hfab := fab_repairAsked s d i b
  have hlinks : (s.repairAsked d i b).links = s.links := rfl
  have hspray : (s.repairAsked d i b).spray d dst = s.spray d dst := spray_congr (by rw [hfab]) hlinks _
  have hpar : ((s.repairAsked d i b).die d).fab.parityCount dst 2 1 = (s.die d).fab.parityCount dst 2 1 := by rw [hfab]; rfl
  rw [← hspray, ← hpar]
  rfl

include hb hshort htime hrun hstop

theorem execMeldTimeout_eq : exec .meldTimeout s = .next (
    if b.repairs < b.limit then (s.repairAsked s.focus.die s.index b).control s.focus.die b.msg.src b.msg.cls
      (.repair b.msg.seq (BitVec.ofNat 24 (b.frags.map fun e => 2 ^ e.1).sum))
    else s.giveUpHere s.focus.die b.msg.src b.msg.cls b.msg.seq) := by
  show execMeldTimeout s = _
  rw [execMeldTimeout]
  simp only [hb, Nat.not_le.mpr hshort, Nat.not_lt.mpr htime, hrun, hstop, Bool.true_eq_false, Bool.false_eq_true, or_self, if_false]
  rfl

end Meld

end Timers

/-! ### Link control (R263 to R265) -/

section LinkControl

variable {s : State} {src dst cls : Nat} {b : Link} {holds : Bool} {kind : Link → Bool} {k : Nat → Nat → Nat → Link → State → State}

/-- Link control message `index` has left its queue. -/
def State.linkRead (s : State) : State := { s with linkMsgs := dropAt s.linkMsgs s.index }

/-- The message is noted as the last of its kind and source that was acted on. -/
def State.acting (s : State) (kind : Link → Bool) (src dst cls : Nat) (b : Link) : State :=
  s.linkRead.updFab dst fun f => { f with
    acted := f.acted.filter (fun x => !(x.1 == src && kind x.2.2.2)) ++ [(src, cls, s.cycle, b)] }

theorem fab_acting (s : State) (kind : Link → Bool) (src dst cls : Nat) (b : Link) : ((s.acting kind src dst cls b).die dst).fab =
    { (s.die dst).fab with acted := (s.die dst).fab.acted.filter (fun x => !(x.1 == src && kind x.2.2.2)) ++ [(src, cls, s.cycle, b)] } :=
  fab_updFab ..

section Read

variable (hmsg : s.linkMsgs[s.index]? = some (src, dst, cls, b))
include hmsg

theorem controlArrival_of_other_kind (hkind : kind b = false) : controlArrival holds kind k s = .next s := by
  rw [controlArrival]
  simp only [hmsg, hkind, true_or, if_true]

variable (hdst : dst < 32) (hlive : (s.die dst).live = true) (hstop : (s.die dst).stopped = false) (hkind : kind b = true)
include hdst hlive hstop hkind

theorem controlArrival_repeat {t : Nat} (hacted : (src, cls, t, b) ∈ (s.die dst).fab.acted)
    (htime : s.cycle < t + (s.die dst).fab.timeout src / 2) : controlArrival holds kind k s = .next s.linkRead := by
  have hpanel : onPanel dst = true := decide_eq_true hdst
  have hagain : ((s.die dst).fab.acted.any fun x => x.1 == src && x.2.1 == cls && x.2.2.2 == b
      && decide (s.cycle < x.2.2.1 + (s.die dst).fab.timeout src / 2)) = true :=
    List.any_eq_true.mpr ⟨_, hacted, by simpa using htime⟩
  rw [controlArrival]
  simp only [hmsg, hkind, hstop, hpanel, hlive, Bool.true_eq_false, Bool.false_eq_true, and_false, or_self, if_false, hagain, if_true]
  rfl

theorem controlArrival_acts (hacted : (s.die dst).fab.acted = []) :
    controlArrival holds kind k s = .next (k src dst cls b (s.acting kind src dst cls b)) := by
  have hpanel : onPanel dst = true := decide_eq_true hdst
  have hagain : ((s.die dst).fab.acted.any fun x => x.1 == src && x.2.1 == cls && x.2.2.2 == b
      && decide (s.cycle < x.2.2.1 + (s.die dst).fab.timeout src / 2)) = false := by rw [hacted]; rfl
  rw [controlArrival]
  simp only [hmsg, hkind, hstop, hpanel, hlive, Bool.true_eq_false, Bool.false_eq_true, and_false, or_self, if_false, hagain]
  rfl

end Read

/-! ### What each control message leaves -/

theorem fab_setFilter (s : State) (d : Nat) (x : Filter) : ((s.updFab d fun f => f.setFilter x).die d).fab = { (s.die d).fab with
    filters := (s.die d).fab.filters.filter (fun y => !(y.src == x.src && y.cls == x.cls)) ++ [x] } := fab_updFab ..

theorem fab_ack (s : State) (d src cls : Nat) : ∃ l, ((s.ack d src cls).die d).fab = { (s.die d).fab with filters := l } :=
  ⟨_, fab_setFilter s d { (s.die d).fab.filter src cls with acked := ((s.die d).fab.filter src cls).h, grownAt := none }⟩

/-- The filter of a source and class once a sequence is completed (R261). -/
def State.filterNext (s : State) (d src cls seq : Nat) : Filter :=
  let x := (s.die d).fab.filter src cls
  let y := Filter.advance 257 { x with done := if seq ≤ x.h then x.done else x.done ++ [seq] }
  { y with grownAt := if y.h = x.h then x.grownAt else x.grownAt.or (some s.cycle) }

theorem completed_eq (s : State) (d src cls seq : Nat) : s.completed d src cls seq =
    if (s.filterNext d src cls seq).acked + 16 ≤ (s.filterNext d src cls seq).h then
      (s.updFab d fun f => f.setFilter (s.filterNext d src cls seq)).ack d src cls
    else s.updFab d fun f => f.setFilter (s.filterNext d src cls seq) := rfl

theorem fab_completed (s : State) (d src cls seq : Nat) : ∃ l, ((s.completed d src cls seq).die d).fab = { (s.die d).fab with filters := l } := by
  rw [completed_eq]
  split
  · obtain ⟨l, hl⟩ := fab_ack (s.updFab d fun f => f.setFilter (s.filterNext d src cls seq)) d src cls
    exact ⟨l, by rw [hl, fab_setFilter]⟩
  · exact ⟨_, fab_setFilter ..⟩

/-- What a message that is given up leaves at its destination. -/
theorem fab_giveUpHere {s : State} {d src cls seq : Nat} (hlate : ((s.die d).fab.filter src cls).late seq = false) :
    ((s.giveUpHere d src cls seq).die d).fab.melds = (s.die d).fab.melds.filter (fun b => !(b.msg.src == src && b.msg.cls == cls && b.msg.seq == seq)) ∧
    ((s.giveUpHere d src cls seq).die d).fab.counters.givenup = (s.die d).fab.counters.givenup + 1#32 := by
  simp only [State.giveUpHere, hlate, Bool.false_eq_true, if_false]
  obtain ⟨l, hl⟩ := fab_completed ((s.updFab d fun f => { f with melds := f.melds.filter fun b =>
    !(b.msg.src == src && b.msg.cls == cls && b.msg.seq == seq) }.mark src cls seq).tally d fun c => { c with givenup := c.givenup + 1#32 }) d src cls seq
  rw [hl]
  dsimp only
  rw [fab_tally, fab_updFab]
  exact ⟨rfl, rfl⟩

/-- The retained message of a hub that holds one, once it has been changed. -/
theorem retained_updRet {s : State} {d : Nat} {r : Ret} (hret : (s.die d).fab.retained = [r]) (g : Ret → Ret) :
    ((s.updRet d r.msg.dst r.msg.cls r.msg.seq g).die d).fab.retained = [g r] := by
  rw [fab_updRet, hret, List.map_singleton, if_pos ⟨rfl, rfl, rfl⟩]

theorem fab_answerRepair {s : State} {d : Nat} {r : Ret} (hret : (s.die d).fab.retained = [r]) (present : BitVec 24) :
    ∃ y, ((s.answerRepair d r present).die d).fab.retained = [y] ∧ y.attempts = r.attempts + 1 ∧ y.timer = r.timer ∧ y.msg = r.msg ∧
      ((s.answerRepair d r present).die d).fab.counters.attempts = (s.die d).fab.counters.attempts + 1#32 := by
  simp only [State.answerRepair, die_foldl_count, fab_tally]
  refine ⟨_, retained_updRet (s := { s with frags := _ }) hret _, rfl, rfl, rfl, ?_⟩
  rw [fab_updRet]
  rfl

/-- The kinds of link control. -/
def Link.isAck : Link → Bool
  | .ack _ => true
  | _ => false

@[inherit_doc Link.isAck]
def Link.isBusy : Link → Bool
  | .busy _ => true
  | _ => false

@[inherit_doc Link.isAck]
def Link.isRepair : Link → Bool
  | .repair _ _ => true
  | _ => false

@[inherit_doc Link.isAck]
def Link.isGiveup : Link → Bool
  | .giveup _ => true
  | _ => false

/-- What an ACK, a BUSY, a REPAIR and a GIVEUP do. -/
def ackActs (src dst cls : Nat) (b : Link) (s : State) : State :=
  match b with
  | .ack h => ((s.die dst).fab.retained.filter fun r => r.msg.dst == src && r.msg.cls == cls && decide (r.msg.seq ≤ h)).foldl
      (fun s r => s.release dst r none) (s.updFab dst fun f => { f with
        retained := f.retained.filter fun r => !(r.msg.dst == src && r.msg.cls == cls && decide (r.msg.seq ≤ h)) })
  | _ => s

@[inherit_doc ackActs]
def busyActs (src dst cls : Nat) (b : Link) (s : State) : State :=
  match b with
  | .busy q => s.updRet dst src cls q fun r => { r with resendAt := some (s.cycle + 1250) }
  | _ => s

@[inherit_doc ackActs]
def repairActs (src dst cls : Nat) (b : Link) (s : State) : State :=
  match b with
  | .repair q present =>
    let s1 := s.updRet dst src cls q fun r => { r with timer := s.cycle }
    match (s1.die dst).fab.retained.find? fun r => r.msg.dst == src && r.msg.cls == cls && r.msg.seq == q with
    | none => s1
    | some r => if r.attempts < r.limit then s1.answerRepair dst r present else s1
  | _ => s

@[inherit_doc ackActs]
def giveupActs (src dst cls : Nat) (b : Link) (s : State) : State :=
  match b with
  | .giveup q => s.giveUpHere dst src cls q
  | _ => s

theorem exec_ackArrival (s : State) : exec .ackArrival s = controlArrival false Link.isAck ackActs s := rfl

theorem exec_busyArrival (s : State) : exec .busyArrival s = controlArrival false Link.isBusy busyActs s := rfl

theorem exec_repairArrival (s : State) : exec .repairArrival s = controlArrival false Link.isRepair repairActs s := rfl

theorem exec_giveupArrival (s : State) : exec .giveupArrival s = controlArrival true Link.isGiveup giveupActs s := rfl

section Arrival

variable (hdst : dst < 32) (hlive : (s.die dst).live = true) (hstop : (s.die dst).stopped = false) (hacted : (s.die dst).fab.acted = [])
  {r : Ret} (hret : (s.die dst).fab.retained = [r]) (hto : r.msg.dst = src) (hcls : r.msg.cls = cls)
include hdst hlive hstop hacted

include hret hto hcls in
/-- An ACK that covers the only retained message frees it. -/
theorem execAckArrival_covers {h : Nat} (hmsg : s.linkMsgs[s.index]? = some (src, dst, cls, .ack h)) (hseq : r.msg.seq ≤ h) : ∃ v : State,
    exec .ackArrival s = .next (v.release dst r none) ∧ (v.die dst).fab.retained = [] ∧ v.linkMsgs = dropAt s.linkMsgs s.index ∧ v.tiles = s.tiles := by
  have hcov : (r.msg.dst == src && r.msg.cls == cls && decide (r.msg.seq ≤ h)) = true := by simp [hto, hcls, hseq]
  have hheld : ((s.acting Link.isAck src dst cls (.ack h)).die dst).fab.retained = [r] := by rw [fab_acting]; exact hret
  refine ⟨(s.acting Link.isAck src dst cls (.ack h)).updFab dst fun f => { f with
    retained := f.retained.filter fun r => !(r.msg.dst == src && r.msg.cls == cls && decide (r.msg.seq ≤ h)) }, ?_, ?_, rfl, rfl⟩
  · have hgone : [r].filter (fun r => r.msg.dst == src && r.msg.cls == cls && decide (r.msg.seq ≤ h)) = [r] := List.filter_cons_of_pos hcov
    rw [exec_ackArrival, controlArrival_acts hmsg hdst hlive hstop rfl hacted, ackActs, hheld, hgone]
    rfl
  · rw [fab_updFab]
    dsimp only
    rw [hheld, List.filter_cons_of_neg (by simp only [hcov]; exact nofun)]
    rfl

include hret hto hcls in
theorem execBusyArrival_resends {q : Nat} (hmsg : s.linkMsgs[s.index]? = some (src, dst, cls, .busy q)) (hseq : r.msg.seq = q) :
    ∃ u, exec .busyArrival s = .next u ∧ (u.die dst).fab.retained = [{ r with resendAt := some (s.cycle + 1250) }] := by
  subst hto hcls hseq
  rw [exec_busyArrival]
  refine ⟨_, controlArrival_acts hmsg hdst hlive hstop rfl hacted, ?_⟩
  exact retained_updRet (s := s.acting Link.isBusy r.msg.dst dst r.msg.cls (.busy r.msg.seq)) (by rw [fab_acting]; exact hret) _

include hret hto hcls in
theorem execRepairArrival_answers {q : Nat} {present : BitVec 24} (hmsg : s.linkMsgs[s.index]? = some (src, dst, cls, .repair q present))
    (hseq : r.msg.seq = q) (hleft : r.attempts < r.limit) : ∃ u y, exec .repairArrival s = .next u ∧ (u.die dst).fab.retained = [y] ∧
      y.attempts = r.attempts + 1 ∧ y.timer = s.cycle ∧ y.msg = r.msg ∧
      (u.die dst).fab.counters.attempts = (s.die dst).fab.counters.attempts + 1#32 := by
  subst hto hcls hseq
  let v := s.acting Link.isRepair r.msg.dst dst r.msg.cls (.repair r.msg.seq present)
  let w := v.updRet dst r.msg.dst r.msg.cls r.msg.seq fun r => { r with timer := s.cycle }
  have htimed : (w.die dst).fab.retained = [{ r with timer := s.cycle }] := retained_updRet (by rw [fab_acting]; exact hret) _
  obtain ⟨y, hy, hattempts, htimer, hym, hcount⟩ := fab_answerRepair htimed present
  refine ⟨w.answerRepair dst { r with timer := s.cycle } present, y, ?_, hy, hattempts, htimer, hym, hcount.trans ?_⟩
  · have hfind : ((w.die dst).fab.retained.find? fun x => x.msg.dst == r.msg.dst && x.msg.cls == r.msg.cls && x.msg.seq == r.msg.seq) =
        some { r with timer := s.cycle } := by rw [htimed]; simp
    rw [exec_repairArrival, controlArrival_acts hmsg hdst hlive hstop rfl hacted, repairActs]
    refine congrArg Host.Outcome.next ?_
    show (match (w.die dst).fab.retained.find? fun x => x.msg.dst == r.msg.dst && x.msg.cls == r.msg.cls && x.msg.seq == r.msg.seq with
      | none => w
      | some r => if r.attempts < r.limit then w.answerRepair dst r present else w) = _
    rw [hfind]
    exact if_pos hleft
  · rw [fab_updRet, fab_acting]

theorem execGiveupArrival_drops {q : Nat} (hmsg : s.linkMsgs[s.index]? = some (src, dst, cls, .giveup q))
    (hlate : ((s.die dst).fab.filter src cls).late q = false) {m : Meld} (hmeld : (s.die dst).fab.melds = [m]) (hsrc : m.msg.src = src)
    (hmcls : m.msg.cls = cls) (hseq : m.msg.seq = q) : ∃ u, exec .giveupArrival s = .next u ∧ (u.die dst).fab.melds = [] ∧
      (u.die dst).fab.counters.givenup = (s.die dst).fab.counters.givenup + 1#32 := by
  have hlate' : (((s.acting Link.isGiveup src dst cls (.giveup q)).die dst).fab.filter src cls).late q = false := by rw [fab_acting]; exact hlate
  obtain ⟨hmelds, hcount⟩ := fab_giveUpHere hlate'
  rw [exec_giveupArrival]
  refine ⟨_, controlArrival_acts hmsg hdst hlive hstop rfl hacted, hmelds.trans ?_, hcount.trans ?_⟩
  · rw [fab_acting]
    simp [hmeld, hsrc, hmcls, hseq]
  · rw [fab_acting]

end Arrival

end LinkControl

/-- Settles O36. -/
theorem messagesLeaveAndLinkControl : Obligations.MessagesLeaveAndLinkControl := by
  refine ⟨?_, ?_⟩
  · intro s d f
    refine ⟨?_, ?_, ?_, ?_, ?_⟩
    · intro m hm hfirst hret k n hroom hspray
      refine ⟨_, s.retain d (f.numbered m) k n (s.sprayed d (f.numbered m) k n).2, execMessageSend_first hm hfirst hret rfl rfl hroom,
        ?_, ?_, rfl, rfl, rfl, rfl, ?_, ?_, rfl⟩
      · rw [fab_updFab]
        rfl
      · rw [fab_updFab]
        exact congrArg (· ++ _) hret
      · rw [fab_updFab]
        exact lastSeq_of_seqs rfl
      · show (s.frags ++ (s.sprayed d (f.numbered m) k n).1).length = _
        have hlen : (s.sprayed d (f.numbered m) k n).1.length = (sendOrder k n).length := length_emit _ _ _ hspray _
        rw [List.length_append, hlen, length_sendOrder, Nat.add_assoc]
    · intro r c hr hc
      rw [execBusyResendTimer_eq hr hc]
      exact ⟨fun h => by rw [if_pos h], fun h => by rw [if_neg (Nat.not_le.mpr h)]⟩
    · intro r hr htime hrun
      rw [execSourceTimerExpiry_eq hr htime hrun]
      exact ⟨fun h => by rw [if_pos h], fun h => by rw [if_neg (Nat.not_lt.mpr h)]⟩
    · intro y c hy hc
      rw [execAckTimer_eq hy hc]
      exact ⟨fun h hrun => by rw [if_pos ⟨h, hrun⟩], fun h => by rw [if_neg fun h' => absurd h'.1 (Nat.not_le.mpr h)]⟩
    · intro b hb hshort htime hrun hstop
      rw [execMeldTimeout_eq hb hshort htime hrun hstop]
      refine ⟨fun h => ?_, fun h => by rw [if_neg (Nat.not_lt.mpr h)]⟩
      rw [if_pos h]
      exact ⟨_, rfl, congrArg Fab.melds (fab_repairAsked s d s.index b), congrArg (fun x : Fab => x.counters.repairs) (fab_repairAsked s d s.index b),
        frags_repairAsked s d s.index b _ _ _⟩
  · intro s src dst cls b f kind hmsg hdst hlive hstop
    refine ⟨fun t hacted htime => ?_, fun hacted => ⟨?_, ?_, ?_, ?_, ?_⟩⟩
    · cases b with
      | ack h => exact controlArrival_repeat (kind := Link.isAck) (k := ackActs) hmsg hdst hlive hstop rfl hacted htime
      | busy q => exact controlArrival_repeat (kind := Link.isBusy) (k := busyActs) hmsg hdst hlive hstop rfl hacted htime
      | repair q present => exact controlArrival_repeat (kind := Link.isRepair) (k := repairActs) hmsg hdst hlive hstop rfl hacted htime
      | giveup q => exact controlArrival_repeat (kind := Link.isGiveup) (k := giveupActs) hmsg hdst hlive hstop rfl hacted htime
    · intro h r hb hret hto hcls hseq
      subst hb
      obtain ⟨v, hexec, hfree, hlink, htiles⟩ := execAckArrival_covers hdst hlive hstop hacted hret hto hcls hmsg hseq
      refine ⟨fun y hy => ?_, ?_⟩
      · rw [State.release, hy] at hexec
        exact ⟨v, hexec, hfree, hlink⟩
      · intro c e p hbody hctx hmse hectx henum heout heunsent hefault heframe hdone hdoneOut
        rw [State.release, hbody] at hexec
        have hvtile : v.tile dst p.tile = s.tile dst p.tile := tile_of_tiles htiles _ _
        have hvctx : v.ctx p = s.ctx p := ctx_of_tiles htiles _
        have hcard := cardDone_last (s := v) (p := p) (by rw [hvtile]; exact hmse) hectx henum heout heunsent hefault heframe none
        have hfab : (((v.mseEmpty p).complete p .mse c.num none).die dst).fab = (v.die dst).fab := fab_complete ..
        refine ⟨_, hexec.trans (congrArg _ hcard), by rw [hfab]; exact hfree, mse_done v p _ _, ?_⟩
        rw [done_complete (e := .mse) hctx (by rw [ctx_mseEmpty, hvctx]; exact hdone) (by rw [ctx_mseEmpty, hvctx]; exact hdoneOut)]
        rfl
    · intro q r hb hret hto hcls hseq
      subst hb
      exact execBusyArrival_resends hdst hlive hstop hacted hret hto hcls hmsg hseq
    · intro q present r hb hret hto hcls hseq hleft
      subst hb
      exact execRepairArrival_answers hdst hlive hstop hacted hret hto hcls hmsg hseq hleft
    · intro q m hb hlate hmeld hsrc hmcls hseq
      subst hb
      exact execGiveupArrival_drops hdst hlive hstop hacted hmsg hlate hmeld hsrc hmcls hseq
    · rintro c ⟨h, rfl⟩ -
      split
      · exact controlArrival_of_other_kind (kind := Link.isBusy) (k := busyActs) hmsg rfl
      · exact controlArrival_of_other_kind (kind := Link.isRepair) (k := repairActs) hmsg rfl

end Sys2Proof.Machine
end

section
/-! PROOFS of fragments, melds and the delivery of messages (17_erasure_coding.md R254, R255, R259 to R263). -/

namespace Sys2Proof.Machine

open Sys2Proof.Safety

theorem part_updFab {α : Type} (part : Die → α) (h : ∀ x f, part { x with fab := f } = part x) (s : State) (e : Nat) (g : Fab → Fab) (d : Nat) :
    part ((s.updFab e g).die d) = part (s.die d) :=
  part_updDie part (f := fun x => { x with fab := g x.fab }) (fun x => h x _) d

/-! ### Completed-ID filters (R261) -/

section Filters

variable (f : Fab) (src cls : Nat)

theorem src_cls_filter : (f.filter src cls).src = src ∧ (f.filter src cls).cls = cls := by
  rcases h : f.filters.find? fun x => x.src == src && x.cls == cls with _ | x
  · rw [Fab.filter, h]
    exact ⟨rfl, rfl⟩
  · have hx := List.find?_some h
    simp only [Bool.and_eq_true, beq_iff_eq] at hx
    rw [Fab.filter, h]
    exact hx

theorem filter_setFilter {x : Filter} (hsrc : x.src = src) (hcls : x.cls = cls) : (f.setFilter x).filter src cls = x := by
  subst hsrc hcls
  have hnone : (f.filters.filter fun y => !(y.src == x.src && y.cls == x.cls)).find? (fun y => y.src == x.src && y.cls == x.cls) = none := by
    rw [List.find?_eq_none]
    intro y hy
    simpa [or_iff_not_imp_left] using (List.mem_filter.mp hy).2
  rw [Fab.filter, Fab.setFilter, List.find?_append, hnone]
  simp

theorem filter_mark (seq : Nat) : (f.mark src cls seq).filter src cls = { f.filter src cls with marked := (f.filter src cls).marked ++ [seq] } :=
  filter_setFilter f src cls (src_cls_filter f src cls).1 (src_cls_filter f src cls).2

theorem late_mark (seq : Nat) : ((f.mark src cls seq).filter src cls).late seq = true := by
  rw [filter_mark, Filter.late]
  simp

/-- H advances by one over the one sequence that is DONE. -/
theorem advance_one {x : Filter} (n : Nat) (h : x.done = [x.h + 1]) : (Filter.advance (n + 2) x).h = x.h + 1 := by
  rw [Filter.advance, if_pos (by simp [h]), Filter.advance, if_neg (by simp [h])]

theorem advance_keeps : ∀ (n : Nat) (x : Filter), (Filter.advance n x).src = x.src ∧ (Filter.advance n x).cls = x.cls
  | 0, x => ⟨rfl, rfl⟩
  | n + 1, x => by
    rw [Filter.advance]
    split
    · exact advance_keeps n _
    · exact ⟨rfl, rfl⟩

end Filters

section Completed

variable {s : State} {d src cls seq : Nat}

theorem src_cls_filterNext (s : State) (d src cls seq : Nat) : (s.filterNext d src cls seq).src = src ∧ (s.filterNext d src cls seq).cls = cls := by
  have hkeep := advance_keeps 257 { (s.die d).fab.filter src cls with
    done := if seq ≤ ((s.die d).fab.filter src cls).h then ((s.die d).fab.filter src cls).done else ((s.die d).fab.filter src cls).done ++ [seq] }
  have hf := src_cls_filter (s.die d).fab src cls
  exact ⟨hkeep.1.trans hf.1, hkeep.2.trans hf.2⟩

/-- H of a filter once a sequence is completed, whether or not an ACK leaves. -/
theorem h_completed (s : State) (d src cls seq : Nat) :
    (((s.completed d src cls seq).die d).fab.filter src cls).h = (s.filterNext d src cls seq).h := by
  have hset : ((s.updFab d fun f => f.setFilter (s.filterNext d src cls seq)).die d).fab.filter src cls = s.filterNext d src cls seq := by
    rw [fab_updFab]
    exact filter_setFilter _ _ _ (src_cls_filterNext ..).1 (src_cls_filterNext ..).2
  rw [completed_eq]
  split
  · have hack (t : State) : ((t.ack d src cls).die d).fab = (t.die d).fab.setFilter
        { (t.die d).fab.filter src cls with acked := ((t.die d).fab.filter src cls).h, grownAt := none } :=
      fab_updFab t d fun f => f.setFilter { (t.die d).fab.filter src cls with acked := ((t.die d).fab.filter src cls).h, grownAt := none }
    rw [hack, filter_setFilter _ _ _ (by exact (src_cls_filter ..).1) (by exact (src_cls_filter ..).2), hset]
  · rw [hset]

theorem h_filterNext (hseq : ((s.die d).fab.filter src cls).h + 1 = seq) (hdone : ((s.die d).fab.filter src cls).done = []) :
    (s.filterNext d src cls seq).h = seq := by
  have hadv := advance_one (x := { (s.die d).fab.filter src cls with done := [seq] }) 255 (by rw [← hseq])
  rw [State.filterNext]
  simp only [show ¬ seq ≤ ((s.die d).fab.filter src cls).h by omega, if_false, hdone, List.nil_append]
  rw [hadv]
  exact hseq

end Completed

/-! ### Fragments (R254, R255, R259, R263) -/

section Fragments

variable {s : State}

/-- Fragment `index` has arrived. -/
def State.fragTaken (s : State) : State := { s with frags := dropAt s.frags s.index }

section Arrives

variable {x : Frag} (hx : s.frags[s.index]? = some x)
include hx

theorem execFragmentArrival_pod (hdst : 32 ≤ x.msg.dst) : exec .fragmentArrival s = .next { s.fragTaken with podOut := s.podOut ++ [x.write] } := by
  have hpanel : onPanel x.msg.dst = false := decide_eq_false (Nat.not_lt.mpr hdst)
  show execFragmentArrival s = _
  rw [execFragmentArrival]
  simp only [hx, hpanel, if_true]
  rfl

variable (hdst : x.msg.dst < 32) (hlive : (s.die x.msg.dst).live = true) (hstop : (s.die x.msg.dst).stopped = false)
  (hsound : s.chordSound x.msg.src x.msg.dst x.chord = true)
include hdst hlive hstop hsound

theorem execFragmentArrival_panel : exec .fragmentArrival s = .next (
    if 6 ≤ x.msg.mtype ∧ x.msg.mtype ≤ 9 then s.fragTaken.takeLink x.msg.dst x x.msg.mtype (decodeFrags 1 [(x.idx, x.payload)])
    else s.fragTaken.takeFrag x.msg.dst x) := by
  have hpanel : onPanel x.msg.dst = true := decide_eq_true hdst
  show execFragmentArrival s = _
  rw [execFragmentArrival]
  simp only [hx, hpanel, hlive, hsound, hstop, Bool.true_eq_false, Bool.false_eq_true, if_false]
  rfl

end Arrives

section Taken

variable {d : Nat} {x : Frag}

theorem takeFrag_refused (h : x.refused = true) : s.takeFrag d x =
    (s.tally d fun c => { c with fragBad := c.fragBad + 1#32 }).count (lossCounter x.msg.src d x.chord) := if_pos (.inl h)

variable (hok : x.refused = false) (hnear : x.msg.seq ≤ ((s.die d).fab.filter x.msg.src x.msg.cls).h + 256)
include hok hnear

theorem takeFrag_of_sound : s.takeFrag d x = if ((s.die d).fab.filter x.msg.src x.msg.cls).late x.msg.seq then
    (s.tally d fun c => { c with lateFrag := c.lateFrag + 1#32 }).ack d x.msg.src x.msg.cls else s.toMeld d x := by
  have hgate : ¬ (x.refused = true ∨ ((s.die d).fab.filter x.msg.src x.msg.cls).h + 256 < x.msg.seq) :=
    not_or.mpr ⟨Bool.eq_false_iff.mp hok, Nat.not_lt.mpr hnear⟩
  exact if_neg hgate

end Taken

theorem melds_toMeld_opens {d : Nat} {x : Frag} (hmelds : (s.die d).fab.melds = []) : ((s.toMeld d x).die d).fab.melds =
    [{ msg := x.msg, k := x.k, frags := [(x.idx, x.payload)], opened := s.cycle, tmo := (s.die d).fab.timeout x.msg.src, limit :=
      (s.die d).fab.repairLimit }] := by
  have hroom : ¬ ((if x.msg.cls = 2 then meldLimit else meldLimit - meldReserve) ≤
      (if x.msg.cls = 2 then ([] : List Meld).length else (([] : List Meld).filter fun b => b.msg.cls != 2).length) ∨ meldLimit ≤ ([] : List Meld).length) := by
    split <;> decide
  rw [State.toMeld]
  simp only [hmelds, List.find?_nil]
  rw [if_neg hroom, fab_updFab]
  simp [hmelds]

theorem melds_toMeld_joins {d : Nat} {x : Frag} {b : Meld} (hmelds : (s.die d).fab.melds = [b]) (hholds : b.holds x.msg = true)
    (hnew : ∀ e ∈ b.frags, e.1 ≠ x.idx) : ((s.toMeld d x).die d).fab.melds = [{ b with frags := b.frags ++ [(x.idx, x.payload)] }] := by
  have hany : (b.frags.any fun e => e.1 == x.idx) = false := by
    rw [List.any_eq_false]
    exact fun e he => by simpa using hnew e he
  have hfind : [b].find? (fun b => b.holds x.msg) = some b := List.find?_cons_of_pos hholds
  rw [State.toMeld]
  simp only [hmelds, hfind, hany, Bool.false_eq_true, if_false]
  rw [fab_updFab]
  simp [hmelds, hholds]

end Fragments

/-! ### Delivery (R260 to R262) -/

section Delivery

variable {s : State} {b : Meld} (hb : (s.die s.focus.die).fab.melds[s.index]? = some b) (hstop : (s.die s.focus.die).stopped = false)

/-- Meld buffer `index` is freed, its message marked and its decoding counted. -/
def State.melded (s : State) (b : Meld) : State :=
  (s.updFab s.focus.die fun f => { f with melds := dropAt f.melds s.index }.mark b.msg.src b.msg.cls b.msg.seq).tally s.focus.die fun c =>
    { c with decodes := if (b.frags.take b.k).any fun e => decide (16 ≤ e.1) then c.decodes + 1#32 else c.decodes }

theorem fab_melded (s : State) (b : Meld) : ∃ c, ((s.melded b).die s.focus.die).fab =
    { ({ (s.die s.focus.die).fab with melds := dropAt (s.die s.focus.die).fab.melds s.index }.mark b.msg.src b.msg.cls b.msg.seq) with counters := c } := by
  rw [State.melded, fab_tally, fab_updFab]
  exact ⟨_, rfl⟩

/-- Freeing a meld buffer changes nothing of a die but its fabric. -/
theorem part_melded {α : Type} (part : Die → α) (h : ∀ x f, part { x with fab := f } = part x) (s : State) (b : Meld) (d : Nat) :
    part ((s.melded b).die d) = part (s.die d) := by
  rw [State.melded, State.tally, part_updFab part h, part_updFab part h]

include hb

theorem execMeldDelivery_waits (h : b.frags.length < b.k ∨ (b.msg.ordered = true ∧
    ((s.die s.focus.die).fab.filter b.msg.src b.msg.cls).h + 1 ≠ b.msg.seq)) : exec .meldDelivery s = .next s := by
  show execMeldDelivery s = _
  rw [execMeldDelivery]
  simp only [hb]
  exact congrArg Host.Outcome.next (if_pos (h.imp_right .inr))

include hstop

section Whole

variable (hwhole : b.k ≤ b.frags.length) (hturn : b.msg.ordered = false ∨ ((s.die s.focus.die).fab.filter b.msg.src b.msg.cls).h + 1 = b.msg.seq)
  (hsrc : b.msg.src < 32)
include hwhole hturn hsrc

omit hb hsrc in
theorem not_waits : ¬ (b.frags.length < b.k ∨ (s.die s.focus.die).stopped = true ∨ (b.msg.ordered = true ∧
    ((s.die s.focus.die).fab.filter b.msg.src b.msg.cls).h + 1 ≠ b.msg.seq)) := by
  rintro (h | h | ⟨h1, h2⟩)
  · omega
  · exact Bool.false_ne_true (hstop.symm.trans h)
  · exact hturn.elim (fun h => Bool.false_ne_true (h.symm.trans h1)) h2

theorem execMeldDelivery_dec {y : Dec} (hbody : b.msg.body = .dec y) : exec .meldDelivery s =
    .next ((((s.melded b).accept s.focus.die none (.dec y)).serveAsks s.focus.die).updFab s.focus.die fun f =>
      { f with finishing := f.finishing ++ [(b.msg.src, b.msg.cls, b.msg.seq)] }) := by
  have hpanel : onPanel b.msg.src = true := decide_eq_true hsrc
  show execMeldDelivery s = _
  rw [execMeldDelivery]
  simp only [hb, if_neg (not_waits hstop hwhole hturn), State.received, hpanel, if_true, hbody]
  rfl

theorem execMeldDelivery_card {c : Card} (hbody : b.msg.body = .card c) : exec .meldDelivery s =
    .next ((s.melded b).deliverCard s.focus.die b.msg { c with payload := (decodeFrags b.k (b.frags.take b.k)).take c.payload.length }) := by
  have hpanel : onPanel b.msg.src = true := decide_eq_true hsrc
  show execMeldDelivery s = _
  rw [execMeldDelivery]
  simp only [hb, if_neg (not_waits hstop hwhole hturn), State.received, hpanel, if_true, hbody]
  rfl

end Whole

end Delivery

theorem serveAsks_of_none {s : State} {d : Nat} (h : (s.die d).nd.asks = []) : s.serveAsks d = s.updNd d fun n => { n with asks := [] } := by
  have hasks : (s.nd d).asks = [] := h
  rw [State.serveAsks, hasks]
  rfl

theorem decodeFrags_one (p : List Byte) : decodeFrags 1 [(0, p)] = p := by
  simp [decodeFrags, List.range_succ]

/-! ### What a delivery leaves -/

section Delivered

variable {s : State} {b : Meld}

/-- The decrement of a message, once it is delivered. -/
theorem delivered_dec (y : Dec) (hasks : (s.die s.focus.die).nd.asks = []) : ∃ u : State,
    (((s.melded b).accept s.focus.die none (.dec y)).serveAsks s.focus.die).updFab s.focus.die (fun f =>
      { f with finishing := f.finishing ++ [(b.msg.src, b.msg.cls, b.msg.seq)] }) = u ∧
    (u.die s.focus.die).td.decs = (s.die s.focus.die).td.decs ++ [y] ∧ (u.die s.focus.die).fab.melds = dropAt (s.die s.focus.die).fab.melds s.index ∧
    ((u.die s.focus.die).fab.filter b.msg.src b.msg.cls).late b.msg.seq = true ∧
    (u.die s.focus.die).fab.finishing = (s.die s.focus.die).fab.finishing ++ [(b.msg.src, b.msg.cls, b.msg.seq)] := by
  have haccept : (s.melded b).accept s.focus.die none (.dec y) = (s.melded b).updTd s.focus.die fun x => { x with decs := x.decs ++ [y] } := rfl
  have hserve : ((s.melded b).updTd s.focus.die fun x => { x with decs := x.decs ++ [y] }).serveAsks s.focus.die =
      ((s.melded b).updTd s.focus.die fun x => { x with decs := x.decs ++ [y] }).updNd s.focus.die fun n => { n with asks := [] } := by
    refine serveAsks_of_none ?_
    rw [State.updTd, State.die_updDie]
    exact (part_melded (fun x => x.nd.asks) (fun _ _ => rfl) s b _).trans hasks
  have hdie : ((((s.melded b).updTd s.focus.die fun x => { x with decs := x.decs ++ [y] }).updNd s.focus.die fun n => { n with asks := [] }).die s.focus.die) =
      { (s.melded b).die s.focus.die with
          td := { ((s.melded b).die s.focus.die).td with decs := ((s.melded b).die s.focus.die).td.decs ++ [y] }
          nd := { ((s.melded b).die s.focus.die).nd with asks := [] } } := by
    rw [State.updNd, State.die_updDie, State.updTd, State.die_updDie]
  obtain ⟨c, hfab⟩ := fab_melded s b
  refine ⟨_, rfl, ?_, ?_, ?_, ?_⟩
  · rw [part_updFab (fun x => x.td.decs), haccept, hserve, hdie]
    · exact congrArg (· ++ [y]) (part_melded (fun x => x.td.decs) (fun _ _ => rfl) s b _)
    · exact fun _ _ => rfl
  · rw [fab_updFab, haccept, hserve, hdie, hfab]
    rfl
  · rw [fab_updFab, haccept, hserve, hdie, hfab]
    exact late_mark ..
  · rw [fab_updFab, haccept, hserve, hdie, hfab]
    rfl

/-- The card of a message, once it is delivered to the mesh. -/
theorem delivered_card {c : Card} (htile : s.noTile s.focus.die (fldN c.hw0 41 8) = false) :
    (s.melded b).deliverCard s.focus.die b.msg c = ({ s.melded b with freeCtr := (s.melded b).freeCtr + 1 } : State).updDie s.focus.die fun x =>
      { x with mesh := x.mesh ++ [{ tile := fldN c.hw0 41 8, card := (s.melded b).enterMesh b.msg.src s.focus.die 0 c
                                    msg := some (b.msg.src, b.msg.cls, b.msg.seq) }] } := by
  have htile' : (s.melded b).noTile s.focus.die (fldN c.hw0 41 8) = false := by
    rw [← htile, State.noTile, State.noTile, State.defective, State.defective, part_melded Die.defects fun _ _ => rfl]
  rw [State.deliverCard]
  simp only [htile', Bool.false_eq_true, if_false]
  rfl

end Delivered

theorem execMessageCompleted_eq {s : State} {src cls seq : Nat} (hfin : (s.die s.focus.die).fab.finishing[s.index]? = some (src, cls, seq)) :
    exec .messageCompleted s = .next ((s.updFab s.focus.die fun f => { f with finishing := dropAt f.finishing s.index }).completed
      s.focus.die src cls seq) := by
  show execMessageCompleted s = _
  rw [execMessageCompleted]
  simp only [hfin]

/-- Settles O37. -/
theorem messageDelivery : Obligations.MessageDelivery := by
  intro s d f
  refine ⟨?_, fun x hx hdst => execFragmentArrival_pod hx hdst, ?_, ?_, ?_, decodeFrags_one⟩
  · intro x hx hdst hlive hstop hsound u
    rw [execFragmentArrival_panel hx hdst hlive hstop hsound]
    refine ⟨fun h => ?_, fun h6 h9 hok hk => ?_⟩
    · rw [if_neg (by omega)]
      rfl
    · rw [if_pos ⟨h6, h9⟩, State.takeLink, if_neg (by simp [hok, hk])]
      rfl
  · intro x y
    refine ⟨fun h => takeFrag_refused h, fun hok hnear hlate => ?_, fun hok hnear hlate hmelds => ?_, fun b hok hnear hlate hmelds hholds hnew => ?_⟩
    · rw [takeFrag_of_sound hok hnear, if_pos hlate]
    · rw [takeFrag_of_sound hok hnear, if_neg (Bool.eq_false_iff.mp hlate)]
      exact melds_toMeld_opens hmelds
    · rw [takeFrag_of_sound hok hnear, if_neg (Bool.eq_false_iff.mp hlate)]
      exact melds_toMeld_joins hmelds hholds hnew
  · intro b hb hstop m
    refine ⟨fun h => execMeldDelivery_waits hb h, fun hsrc hwhole hturn => ⟨fun y hbody hasks => ?_, fun c hbody htile => ?_⟩⟩
    · obtain ⟨u, hu, hspec⟩ := delivered_dec (b := b) y hasks
      exact ⟨u, hu ▸ execMeldDelivery_dec hb hstop hwhole hturn hsrc hbody, hspec⟩
    · let c1 : Card := { c with payload := (decodeFrags b.k (b.frags.take b.k)).take c.payload.length }
      obtain ⟨n, hfab⟩ := fab_melded s b
      refine ⟨_, { tile := fldN c.hw0 41 8, card := (s.melded b).enterMesh m.src d 0 c1, msg := some (m.src, m.cls, m.seq) },
        (execMeldDelivery_card hb hstop hwhole hturn hsrc hbody).trans (congrArg Host.Outcome.next (delivered_card (c := c1) htile)), ?_, ?_, rfl,
          rfl, rfl, rfl⟩
      · rw [State.die_updDie]
        exact congrArg Fab.melds hfab
      · rw [State.die_updDie]
        exact congrArg (· ++ _) (part_melded Die.mesh (fun _ _ => rfl) s b _)
  · intro src cls seq hfin hseq hdone
    let v := s.updFab d fun f => { f with finishing := dropAt f.finishing s.index }
    have hvfab : (v.die d).fab = { f with finishing := dropAt f.finishing s.index } := fab_updFab ..
    refine ⟨_, execMessageCompleted_eq hfin, ?_, ?_⟩
    · obtain ⟨l, hl⟩ := fab_completed v d src cls seq
      exact (congrArg Fab.finishing hl).trans (congrArg Fab.finishing hvfab)
    · refine (h_completed v d src cls seq).trans (h_filterNext ?_ ?_)
      · rw [hvfab]; exact hseq
      · rw [hvfab]; exact hdone

end Sys2Proof.Machine
end

section
/-! PROOFS of links, chord news, heartbeats, stopped dies and router tables (16_message_engine.md R240, R242 to R246, R251, R252). -/

namespace Sys2Proof.Machine

open Sys2Proof.Safety

/-! ### Chords that are marked unavailable (R244) -/

/-- The chords of a list are unavailable. -/
def downChords (l : List (Nat × Nat)) (m : List (Nat × Chord)) : List (Nat × Chord) :=
  l.foldl (fun m x => put m (4 * x.1 + x.2) { look {} m (4 * x.1 + x.2) with up := false }) m

theorem look_downChords (k : Nat) : ∀ (l : List (Nat × Nat)) (m : List (Nat × Chord)), look {} (downChords l m) k =
      if k ∈ l.map (fun x => 4 * x.1 + x.2) then { look {} m k with up := false } else look {} m k
  | [], _ => rfl
  | x :: l, m => by
    rw [downChords, List.foldl_cons, ← downChords, look_downChords k l, List.map_cons]
    by_cases hk : k = 4 * x.1 + x.2
    · rw [hk, look_put, if_pos (List.mem_cons_self ..)]
      split <;> rfl
    · rw [look_put_ne _ _ _ hk]
      simp only [List.mem_cons, hk, false_or]

section Chords

variable (s : State) (d l : Nat)

theorem mem_chordsOver (x : Nat × Nat) : x ∈ s.chordsOver d l ↔ x.1 < 32 ∧ x.2 < 4 ∧ l ∈ s.chordLinks d x.1 x.2 := by
  simp only [State.chordsOver, List.mem_filter, List.mem_flatMap, List.mem_map, List.mem_range, List.contains_iff_mem]
  constructor
  · rintro ⟨⟨e, he, c, hc, rfl⟩, hl⟩
    exact ⟨he, hc, hl⟩
  · rintro ⟨he, hc, hl⟩
    exact ⟨⟨x.1, he, x.2, hc, rfl⟩, hl⟩

theorem fab_markChords : ((s.markChords d l).die d).fab = { (s.die d).fab with chords := downChords (s.chordsOver d l) (s.die d).fab.chords } := by
  rw [State.markChords, fab_updFab]
  rfl

variable {s d l}

theorem chord_markChords_over {a k : Nat} (ha : a < 32) (hk : k < 4) (hl : l ∈ s.chordLinks d a k) :
    ((s.markChords d l).die d).fab.chord a k = { (s.die d).fab.chord a k with up := false } := by
  rw [Fab.chord, fab_markChords, look_downChords, if_pos]
  · rfl
  · exact List.mem_map.mpr ⟨(a, k), (mem_chordsOver ..).mpr ⟨ha, hk, hl⟩, rfl⟩

theorem chord_markChords_clear {a k : Nat} (hk : k < 4) (hl : l ∉ s.chordLinks d a k) :
    ((s.markChords d l).die d).fab.chord a k = (s.die d).fab.chord a k := by
  rw [Fab.chord, fab_markChords, look_downChords, if_neg]
  · rfl
  · intro h
    obtain ⟨x, hx, hkey⟩ := List.mem_map.mp h
    obtain ⟨-, h2, h3⟩ := (mem_chordsOver ..).mp hx
    have hx1 : x.1 = a := by omega
    have hx2 : x.2 = k := by omega
    exact hl (hx1 ▸ hx2 ▸ h3)

/-- Marking changes no chord of any die but that it may become unavailable. -/
theorem chord_markChords (e a : Nat) {k : Nat} (ha : a < 32) (hk : k < 4) : ((s.markChords d l).die e).fab.chord a k = (s.die e).fab.chord a k ∨
    ((s.markChords d l).die e).fab.chord a k = { (s.die e).fab.chord a k with up := false } := by
  by_cases he : e = d
  · subst he
    by_cases hl : l ∈ s.chordLinks e a k
    · exact .inr (chord_markChords_over ha hk hl)
    · exact .inl (chord_markChords_clear hk hl)
  · left
    rw [State.markChords, State.updFab, State.die_updDie_ne _ _ he]

theorem links_foldl_markChords : ∀ (es : List Nat) (s : State), (es.foldl (fun u e => u.markChords e l) s).links = s.links
  | [], _ => rfl
  | _ :: es, _ => links_foldl_markChords es _

/-- A chord that is unavailable stays so while dies mark chords. -/
theorem down_foldl_markChords {e a k : Nat} (ha : a < 32) (hk : k < 4) : ∀ (es : List Nat) (s : State), ((s.die e).fab.chord a k).up = false →
    (((es.foldl (fun u e => u.markChords e l) s).die e).fab.chord a k).up = false
  | [], _, h => h
  | x :: es, s, h => by
    refine down_foldl_markChords ha hk es _ ?_
    rcases chord_markChords (s := s) (d := x) (l := l) e a ha hk with h' | h' <;> rw [h']
    exact h

/-- Each die of a list marks its chords that cross a link. -/
theorem down_of_mem {e a k : Nat} (ha : a < 32) (hk : k < 4) : ∀ (es : List Nat) (s : State), e ∈ es → l ∈ s.chordLinks e a k →
    (((es.foldl (fun u e => u.markChords e l) s).die e).fab.chord a k).up = false
  | x :: es, s, hmem, hl => by
    rw [List.foldl_cons]
    by_cases hx : e = x
    · subst hx
      refine down_foldl_markChords ha hk es _ ?_
      rw [chord_markChords_over ha hk hl]
    · refine down_of_mem ha hk es _ ((List.mem_cons.mp hmem).resolve_left hx) ?_
      rw [State.chordLinks]
      rcases chord_markChords (s := s) (d := x) (l := l) e a ha hk with h' | h' <;> rw [h'] <;> exact hl

end Chords

/-! ### One message to each of a list of hubs (R253) -/

section Sends

theorem die_foldl_send (h : Nat) (b : Nat → Body) : ∀ (es : List Nat) (s : State), (∀ e ∈ es, e ≠ h) →
    ((es.foldl (fun u e => u.send h e (b e)) s).die h) =
      { s.die h with fab := { (s.die h).fab with outbox := (s.die h).fab.outbox ++ es.map fun e => s.message h e (b e) } }
  | [], s, _ => by rw [List.map_nil, List.append_nil]; rfl
  | x :: es, s, hne => by
    rw [List.foldl_cons, die_foldl_send h b es _ fun e he => hne e (List.mem_cons_of_mem _ he), send_other (hne x (List.mem_cons_self ..)),
      State.updFab, State.die_updDie]
    dsimp only
    rw [List.map_cons, List.append_assoc]
    rfl

theorem die_foldl_send_ne {h d : Nat} (hd : d ≠ h) (b : Nat → Body) : ∀ (es : List Nat) (s : State), (∀ e ∈ es, e ≠ h) →
    (es.foldl (fun u e => u.send h e (b e)) s).die d = s.die d
  | [], _, _ => rfl
  | x :: es, s, hne => by
    rw [List.foldl_cons, die_foldl_send_ne hd b es _ fun e he => hne e (List.mem_cons_of_mem _ he), send_other (hne x (List.mem_cons_self ..)),
      State.updFab, State.die_updDie_ne _ _ hd]

theorem links_foldl_news (h l : Nat) : ∀ (es : List Nat) (s : State), (es.foldl (fun u e => u.send h e (.news h l)) s).links = s.links
  | [], _ => rfl
  | x :: es, s => by
    rw [List.foldl_cons, links_foldl_news h l es]
    by_cases hx : x = h
    · rw [send_self hx, State.accept]
      split <;> rfl
    · rw [send_other hx]
      rfl

end Sends

/-! ### Links (R243, R244) -/

section Links

variable {s : State}

theorem link_setLink (s : State) (l : Nat) (x : LinkState) : (s.setLink l x).link l = x := look_put ..

theorem link_setLink_ne (s : State) {l k : Nat} (x : LinkState) (h : k ≠ l) : (s.setLink l x).link k = s.link k := look_put_ne _ _ _ h

theorem link_of_links {s t : State} (h : t.links = s.links) (l : Nat) : t.link l = s.link l := by rw [State.link, State.link, h]

/-- The link in question starts to retrain; fragments on chords that cross it are lost. -/
theorem execLinkLossOfLock_up (hindex : s.index < 112) (hup : s.link s.index = .up) : exec .linkLossOfLock s =
    .next { (s.setLink s.index (.retraining s.cycle)).count (retrainCounter s.index) with
      frags := s.frags.filter fun x => !(onPanel x.msg.dst && (s.chordLinks x.msg.src x.msg.dst x.chord).contains s.index) } := by
  show execLinkLossOfLock s = _
  rw [execLinkLossOfLock, if_neg (by rw [hup]; simp [hindex])]
  rfl

/-- The dies at the ends of the link that is declared down. -/
def State.downEnds (s : State) : List Nat := (linkDies s.index).filter fun e => (s.die e).live

/-- The dies at the ends of the link have marked their chords. -/
def State.downMarked (s : State) : State :=
  s.downEnds.foldl (fun u e => u.markChords e s.index) ((s.setLink s.index .down).count (downCounter s.index))

/-- The other dies that are live. -/
def State.downTold (s : State) : List Nat := (List.range 32).filter fun e => (s.die e).live && !s.downEnds.contains e

section Down

variable {c : Nat} (hlink : s.link s.index = .retraining c)
include hlink

theorem execLinkDownDeclare_early (h : s.cycle < c + 12500) : exec .linkDownDeclare s = .next s := by
  show execLinkDownDeclare s = _
  rw [execLinkDownDeclare]
  simp only [hlink, h, if_true]

theorem execLinkDownDeclare_declares (h : c + 12500 ≤ s.cycle) : exec .linkDownDeclare s =
    .next (s.downTold.foldl (fun u e => u.send ((s.downEnds.head?.or s.presiding).getD 0) e
      (.news ((s.downEnds.head?.or s.presiding).getD 0) s.index)) s.downMarked) := by
  show execLinkDownDeclare s = _
  rw [execLinkDownDeclare]
  simp only [hlink, Nat.not_lt.mpr h, if_false]
  rfl

end Down

/-- The chords that cross the link are unavailable at its ends, whatever news is sent. -/
theorem chords_told {e a k : Nat} (he : e ∈ s.downEnds) (ha : a < 32) (hk : k < 4) (hl : s.index ∈ s.chordLinks e a k) (h : Nat)
    (htold : ∀ x ∈ s.downTold, x ≠ h) : (((s.downTold.foldl (fun u e => u.send h e (.news h s.index)) s.downMarked).die e).fab.chord a k).up = false := by
  have hmarked : ((s.downMarked.die e).fab.chord a k).up = false := down_of_mem ha hk _ _ he hl
  by_cases heh : e = h
  · subst heh
    rw [die_foldl_send e (fun _ => .news e s.index) _ _ htold]
    exact hmarked
  · rw [die_foldl_send_ne heh (fun _ => .news h s.index) _ _ htold]
    exact hmarked

theorem ne_of_told {h : Nat} (hh : h ∈ s.downEnds) : ∀ x ∈ s.downTold, x ≠ h := by
  rintro x hx rfl
  have := (List.mem_filter.mp hx).2
  simp [hh] at this

end Links

/-! ### Writes of stations (R245, R255) -/

section Pod

variable {s : State} {q n : Nat} {a : Word64} {w : BitVec 512}

theorem execUalinkInboundWrite_outside (h : a.toNat < s.aperture.toNat ∨ s.aperture.toNat + 2 ^ 55 ≤ a.toNat) :
    exec (.ualinkInboundWrite q n a w) s = .next s := by
  have hgate : a.toNat < s.aperture.toNat ∨ apertureSize ≤ a.toNat - s.aperture.toNat := by
    have hsize : apertureSize = 2 ^ 55 := rfl
    omega
  show execUalinkInboundWrite q n a w s = _
  rw [execUalinkInboundWrite]
  simp only [hgate, if_true]

section Inside

variable (hlow : s.aperture.toNat ≤ a.toNat) (hhigh : a.toNat < s.aperture.toNat + 2 ^ 55)
include hlow hhigh

theorem not_outside : ¬ (a.toNat < s.aperture.toNat ∨ apertureSize ≤ a.toNat - s.aperture.toNat) := by
  have hsize : apertureSize = 2 ^ 55 := rfl
  omega

theorem execUalinkInboundWrite_unbound (hq : look? s.requesters q = none) : exec (.ualinkInboundWrite q n a w) s =
    .next (s.holdMaster (.peer q) (a :: BitVec.ofNat 64 n :: (List.range 8).map fun i => fld w (64 * i) 64) 0 a) := by
  show execUalinkInboundWrite q n a w s = _
  rw [execUalinkInboundWrite]
  simp only [if_neg (not_outside hlow hhigh), hq]

theorem execUalinkInboundWrite_bound {k : Nat} (hq : look? s.requesters q = some k) (hfrozen : s.frozen = []) : exec (.ualinkInboundWrite q n a w) s =
    .next (s.podWrite n k (a.toNat - s.aperture.toNat) (leBytes 64 w.toNat)) := by
  show execUalinkInboundWrite q n a w s = _
  rw [execUalinkInboundWrite]
  simp only [if_neg (not_outside hlow hhigh), hq, hfrozen, List.any_nil, Bool.false_eq_true, if_false]

end Inside

end Pod

/-! ### Heartbeats (R251) -/

section Beats

variable {s : State}

/-- The misses that a die counts in a round. -/
def State.misses (s : State) (d : Nat) : List (Nat × Nat) := (List.range 32).filterMap fun e =>
  if e = d then none else some (e, if (s.die d).heard.contains e then 0 else look 0 (s.die d).missed e + 1)

theorem look_misses {d e : Nat} (he : e < 32) (hne : e ≠ d) : look 0 (s.misses d) e =
    if (s.die d).heard.contains e then 0 else look 0 (s.die d).missed e + 1 := by
  have hmem : (e, if (s.die d).heard.contains e then 0 else look 0 (s.die d).missed e + 1) ∈ s.misses d :=
    List.mem_filterMap.mpr ⟨e, List.mem_range.mpr he, if_neg hne⟩
  rw [look_eq_getD, look?_of_mem hmem]
  · rfl
  · intro x hx hkey
    obtain ⟨j, -, hj⟩ := List.mem_filterMap.mp hx
    split at hj
    next => exact absurd hj nofun
    next =>
      cases hj
      cases hkey
      rfl

/-- The die has counted the misses of its round. -/
def State.roundCounted (s : State) : State := s.updDie s.focus.die fun y =>
  { y with beat := s.cycle, heard := [], missed := s.misses s.focus.die }

/-- A die whose group may not preside has stopped. -/
def State.judged (s : State) : State :=
  if s.roundCounted.mayPreside (s.roundCounted.groupOf s.focus.die) then s.roundCounted else s.roundCounted.updDie s.focus.die fun y =>
    { y with stopped := true, stoppedAt := if y.stopped then y.stoppedAt else s.cycle }

/-- A group that may preside and whose dies have all heard each other is the membership agreed. -/
def State.agreed (s : State) : State :=
  if s.roundCounted.mayPreside (s.roundCounted.groupOf s.focus.die) && (s.roundCounted.groupOf s.focus.die).all fun a =>
      (s.roundCounted.groupOf s.focus.die).all fun b => a == b || look 0 (s.judged.die a).missed b == 0 then
    { s.judged with members := s.roundCounted.groupOf s.focus.die }
  else s.judged

theorem die_agreed (s : State) (d : Nat) : s.agreed.die d = s.judged.die d := by
  rw [State.agreed]
  split <;> rfl

/-- What a round leaves of the die, before its heartbeats leave. -/
theorem die_judged (s : State) : (s.judged.die s.focus.die).beat = s.cycle ∧ (s.judged.die s.focus.die).heard = [] ∧
    (s.judged.die s.focus.die).missed = s.misses s.focus.die ∧
    (s.roundCounted.mayPreside (s.roundCounted.groupOf s.focus.die) = false → (s.judged.die s.focus.die).stopped = true) := by
  have hdie : s.roundCounted.die s.focus.die = { s.die s.focus.die with beat := s.cycle, heard := [], missed := s.misses s.focus.die } := State.die_updDie ..
  rw [State.judged]
  split
  next h => exact ⟨by rw [hdie], by rw [hdie], by rw [hdie], fun h' => absurd h (Bool.eq_false_iff.mp h')⟩
  next h =>
    rw [State.die_updDie]
    exact ⟨congrArg Die.beat hdie, congrArg Die.heard hdie, congrArg Die.missed hdie, fun _ => rfl⟩

/-- The hubs to which a heartbeat goes. -/
def State.beaten (s : State) : List Nat := (List.range 32).filter fun e => e != s.focus.die && (s.die e).live

theorem mem_beaten {e : Nat} : e ∈ s.beaten ↔ e < 32 ∧ e ≠ s.focus.die ∧ (s.die e).live = true := by
  simp [State.beaten]

theorem execHeartbeatTimer_round (hlive : (s.die s.focus.die).live = true) (htime : (s.die s.focus.die).beat + 12500 ≤ s.cycle) :
    exec .heartbeatTimer s = .next (s.beaten.foldl (fun u e => u.send s.focus.die e (.beat s.focus.die)) s.agreed) := by
  have hgate : ¬ ((s.die s.focus.die).live = false ∨ s.cycle < (s.die s.focus.die).beat + beatPeriod) := by
    have hperiod : beatPeriod = 12500 := rfl
    rintro (h | h)
    · exact Bool.false_ne_true (h.symm.trans hlive)
    · omega
  show execHeartbeatTimer s = _
  rw [execHeartbeatTimer]
  exact congrArg Host.Outcome.next (if_neg hgate)

theorem execHeartbeatArrival_received {e : Nat} (he : (s.die s.focus.die).beatIn[s.index]? = some e) : exec .heartbeatArrival s =
    .next (s.updDie s.focus.die fun y => { y with beatIn := dropAt y.beatIn s.index, heard := y.heard ++ [e] }) := by
  show execHeartbeatArrival s = _
  rw [execHeartbeatArrival]
  simp only [he]

/-- The die resumes with the chord table of its group. -/
def Die.rejoined (s : State) (d : Nat) (x : Die) : Die :=
  { x with stopped := false
           td := { x.td with progress := x.td.progress.map fun p => (p.1, p.2 + (s.cycle - x.stoppedAt)) }
           fab := { x.fab with chords :=
    ((List.range 32).flatMap fun e => (List.range 4).map fun c => (e, c)).foldl (fun l y =>
      let links := (chordTable d y.1).getD y.2 []
      let c : Chord := look {} l (4 * y.1 + y.2)
      put l (4 * y.1 + y.2) { c with links := links, up := links.all fun k => s.link k == .up }) x.fab.chords } }

theorem execRejoin_eq (s : State) : exec .rejoin s = .next (
    if (s.die s.focus.die).stopped = false ∨ (s.dies.any fun e => e.2.nd.names.any fun n => n.doubt) = true ∨
      s.mayPreside (s.groupOf s.focus.die) = false then s
    else s.updDie s.focus.die (Die.rejoined s s.focus.die)) := rfl

theorem execRouterTableWrite_eq (s : State) (l : List (Nat × Nat × Port)) :
    let x := s.die s.focus.die
    let y := { x with routers := l.map fun e => ((e.1, e.2.1), e.2.2) }
    exec (.routerTableWrite l) s = .next (if (x.stopped || x.halt.isSome) && x.mesh == [] && y.tablesOk then s.setDie s.focus.die y else s) := rfl

end Beats

section Accept

variable {s : State} {d : Nat}

theorem accept_news {a l : Nat} (ha : a < 32) (hl : l ∉ (s.die d).news) :
    s.accept d none (.news a l) = s.updDie d fun y => { y with news := y.news ++ [l] } := by
  have hnot : (s.die d).news.contains l = false := by simpa using hl
  rw [State.accept, if_pos ha, State.updDie, State.updDie, hnot]
  rfl

theorem execChordNewsArrival_heard (h : s.index ∈ (s.die s.focus.die).news) : exec .chordNewsArrival s =
    .next ((s.updDie s.focus.die fun x => { x with news := x.news.filter (· != s.index) }).markChords s.focus.die s.index) := by
  have hin : (s.die s.focus.die).news.contains s.index = true := by simpa using h
  show execChordNewsArrival s = _
  rw [execChordNewsArrival, hin]
  rfl

end Accept

/-- Settles O38. -/
theorem linksAndMembership : Obligations.LinksAndMembership := by
  intro s d x
  refine ⟨?_, ?_, fun a l ha hl => accept_news ha hl, ?_, ?_, fun _ _ => rfl, ?_, ?_, fun e he => if_pos he,
    fun e he => execHeartbeatArrival_received he, ?_, ?_, ?_⟩
  · intro hindex hup
    refine ⟨_, execLinkLossOfLock_up hindex hup, link_setLink .., fun l hl => link_setLink_ne _ _ hl, fun y hy hdst hmem => ?_⟩
    have hkept := (List.mem_filter.mp hy).2
    have hpanel : onPanel y.msg.dst = true := decide_eq_true hdst
    rw [hpanel] at hkept
    simp [hmem] at hkept
  · intro c hlink
    refine ⟨fun h => ?_, fun h => execLinkDownDeclare_early hlink h⟩
    have hlinks : ∀ k : Nat, (s.downTold.foldl (fun u e => u.send k e (.news k s.index)) s.downMarked).links = (s.setLink s.index .down).links :=
      fun k => (links_foldl_news ..).trans (links_foldl_markChords ..)
    refine ⟨_, execLinkDownDeclare_declares hlink h, ?_, ?_, ?_⟩
    · exact (link_of_links (hlinks _) _).trans (link_setLink ..)
    · exact fun l hl => (link_of_links (hlinks _) _).trans (link_setLink_ne _ _ hl)
    · intro ends
      have hends : ends = s.downEnds := rfl
      have hhead (h : Nat) (hh : ends.head? = some h) : (s.downEnds.head?.or s.presiding).getD 0 = h ∧ h ∈ s.downEnds := by
        rw [hends] at hh
        exact ⟨by rw [hh]; rfl, List.mem_of_mem_head? hh⟩
      refine ⟨fun e he a ha k hk hl => ?_, fun e he hlive hne h hh => ?_⟩
      · have hh : ends.head? = some (ends.head (List.ne_nil_of_mem he)) := List.head?_eq_some_head _
        obtain ⟨hfrom, hmem⟩ := hhead _ hh
        rw [hfrom]
        exact chords_told he ha hk hl _ (ne_of_told hmem)
      · obtain ⟨hfrom, hmem⟩ := hhead h hh
        rw [hfrom, die_foldl_send h (fun _ => .news h s.index) _ _ (ne_of_told hmem)]
        refine ⟨s.downMarked.message h e (.news h s.index), List.mem_append_right _ (List.mem_map.mpr ⟨e, ?_, rfl⟩), rfl, rfl, rfl⟩
        exact List.mem_filter.mpr ⟨List.mem_range.mpr he, by simpa [hlive, hends] using hne⟩
  · intro h
    let v := s.updDie d fun x => { x with news := x.news.filter (· != s.index) }
    have hfab : (v.die d).fab = x.fab := part_updDie Die.fab (f := fun x => { x with news := x.news.filter (· != s.index) }) (fun _ => rfl) d
    have hlinks (e c : Nat) : v.chordLinks d e c = s.chordLinks d e c := by rw [State.chordLinks, hfab]; rfl
    refine ⟨v.markChords d s.index, execChordNewsArrival_heard h, ?_, fun e he c hc => ⟨fun hl => ?_, fun hl => ?_⟩⟩
    · rw [State.markChords, part_updFab Die.news fun _ _ => rfl, State.die_updDie]
      simp
    · rw [chord_markChords_over he hc ((hlinks e c).symm ▸ hl)]
    · rw [chord_markChords_clear hc ((hlinks e c).symm ▸ hl), hfab]
  · intro h
    exact ⟨_, congrArg Host.Outcome.next (if_neg (Nat.not_le.mpr h)), link_setLink ..⟩
  · intro q n a w words
    exact ⟨fun h => execUalinkInboundWrite_outside h, fun hlow hhigh => ⟨fun hq => execUalinkInboundWrite_unbound hlow hhigh hq,
      fun k hq hfrozen => execUalinkInboundWrite_bound hlow hhigh hq hfrozen⟩⟩
  · intro hd hlive htime
    have hne : ∀ e ∈ s.beaten, e ≠ d := fun e he => (mem_beaten.mp he).2.1
    obtain ⟨hbeat, hheard, hmissed, hstopped⟩ := die_judged s
    have hdie := die_foldl_send d (fun _ => .beat d) s.beaten s.agreed hne
    rw [die_agreed] at hdie
    refine ⟨_, execHeartbeatTimer_round hlive htime, (congrArg Die.beat hdie).trans hbeat, (congrArg Die.heard hdie).trans hheard,
      fun e he hed => ?_, fun e he hed hlive => ?_, fun h => (congrArg Die.stopped hdie).trans (hstopped h)⟩
    · rw [(congrArg Die.missed hdie).trans hmissed]
      exact look_misses he hed
    · rw [congrArg (fun y : Die => y.fab.outbox) hdie]
      exact ⟨s.agreed.message d e (.beat d), List.mem_append_right _ (List.mem_map.mpr ⟨e, mem_beaten.mpr ⟨he, hed, hlive⟩, rfl⟩), rfl, rfl, rfl, rfl⟩
  · intro hstop hdoubt hmay
    have hnone : (s.dies.any fun e => e.2.nd.names.any fun n => n.doubt) = false := by
      simpa using hdoubt
    rw [execRejoin_eq, if_neg (by simp [d, x] at hstop hmay; simp [hstop, hnone, hmay])]
    refine ⟨_, rfl, ?_, ?_⟩
    · rw [State.die_updDie]
      rfl
    · rw [State.die_updDie]
      rfl
  · intro hmay
    rw [execRejoin_eq, if_pos (.inr (.inr hmay))]
  · intro l y
    rw [execRouterTableWrite_eq]
    refine ⟨fun hstop hmesh hok => ?_, fun hno => ?_⟩
    · have hstop : ((s.die s.focus.die).stopped || (s.die s.focus.die).halt.isSome) = true := by
        rw [Bool.or_eq_true]
        exact hstop
      have hmesh : ((s.die s.focus.die).mesh == []) = true := by
        rw [show (s.die s.focus.die).mesh = [] from hmesh]
        rfl
      rw [hstop, hmesh, hok]
      rfl
    · refine congrArg Host.Outcome.next (if_neg fun hgate => ?_)
      simp only [Bool.and_eq_true, Bool.or_eq_true] at hgate
      obtain ⟨⟨hstop, hmesh⟩, hok⟩ := hgate
      rcases hno with ⟨h1, h2⟩ | h | h
      · rcases hstop with h' | h'
        · exact Bool.false_ne_true (h1.symm.trans h')
        · rw [show (s.die s.focus.die).halt = none from h2] at h'
          exact absurd h' nofun
      · exact h (by simpa using hmesh)
      · exact Bool.false_ne_true (h.symm.trans hok)

end Sys2Proof.Machine
end

section
/-! PROOFS of the replies of hubs, of confirmations and of withdrawals (26_nd_instructions.md R339, R342). -/

namespace Sys2Proof.Machine

open Sys2Proof.Safety

/-! ### The Name Directory of a die -/

section Directory

theorem part_updNd {α : Type} (part : Nd → α) {s : State} {e : Nat} {g : Nd → Nd} (h : ∀ x, part (g x) = part x) (d : Nat) :
    part ((s.updNd e g).nd d) = part (s.nd d) :=
  part_updDie (fun x => part x.nd) (f := fun x => { x with nd := g x.nd }) (fun x => h x.nd) d

theorem nd_updNd (s : State) (d : Nat) (g : Nd → Nd) : (s.updNd d g).nd d = g (s.nd d) := by
  rw [State.nd, State.updNd, State.die_updDie]
  rfl

theorem objOf_updNd {s : State} {e : Nat} {g : Nd → Nd} (h : ∀ x, (g x).objs = x.objs) (id : BitVec 32) : (s.updNd e g).objOf id = s.objOf id := by
  have hobjs : ((s.updNd e g).nd (objDie id)).objs = (s.nd (objDie id)).objs := part_updNd Nd.objs h _
  exact congrArg (fun l => look {} l (fldN id 0 17)) hobjs

theorem part_setObj {α : Type} (part : Nd → α) (h : ∀ x l, part { x with objs := l } = part x) (s : State) (id : BitVec 32) (o : Obj) (d : Nat) :
    part ((s.setObj id o).nd d) = part (s.nd d) :=
  part_updNd part (g := fun n => { n with objs := put n.objs (fldN id 0 17) o }) (fun x => h x _) d

end Directory

/-! ### Replies (R339) -/

section Reply

variable {s : State} {r : Reply} (hr : (s.nd s.focus.die).replies[s.index]? = some r)

/-- Reply `index` has left its queue. -/
def State.replied (s : State) : State := s.updNd s.focus.die fun z => { z with replies := dropAt z.replies s.index }

theorem replies_replied (s : State) : (s.replied.nd s.focus.die).replies = dropAt (s.nd s.focus.die).replies s.index :=
  congrArg Nd.replies (nd_updNd ..)

include hr

theorem execHubReplyArrival_gone (hrun : (s.ctx r.place).run = none) :
    exec .hubReplyArrival s = .next (r.prov.elim s.replied fun v => s.replied.withdraw r.place v) := by
  have hrun' : ((s.updNd s.focus.die fun n => { n with replies := dropAt n.replies s.index }).ctx r.place).run = none := hrun
  show execHubReplyArrival s = _
  rw [execHubReplyArrival]
  simp only [hr, hrun']
  cases r.prov <;> rfl

section Asked

variable {b : Run} {op : CommitOp} (hrun : (s.ctx r.place).run = some b) (hasked : (b.asked.find? fun z => z.1 == r.index) = some (r.index, op))
  (hserial : b.serial = r.serial) (hfired : b.fired.contains r.index = false)
include hrun hasked hserial hfired

theorem execHubReplyArrival_refused {c : Cause} (hc : r.result = .refused c) :
    exec .hubReplyArrival s = .next (s.replied.faultAt r.place (some r.index) c 0#64 0#64) := by
  have hrun' : ((s.updNd s.focus.die fun n => { n with replies := dropAt n.replies s.index }).ctx r.place).run = some b := hrun
  have hgate : ¬ (b.serial ≠ r.serial ∨ b.fired.contains r.index = true) := not_or.mpr ⟨not_not.mpr hserial, Bool.eq_false_iff.mp hfired⟩
  show execHubReplyArrival s = _
  rw [execHubReplyArrival]
  simp only [hr, hrun', hasked, if_neg hgate, hc]
  rfl

/-- The block of the instruction that asked, of shape h, once its reply is received. -/
def Run.answered (b : Run) (h : Shape) (r : Reply) (op : CommitOp) : Run :=
  { b.mark r.index h (some op) with provs := b.provs ++ r.prov.toList.map fun v => (r.index, v) }

theorem execHubReplyArrival_tokens {k : Token} (hk : r.result = .tokens k none) (hop : ∀ u v, op ≠ .cmd none (.ntxc u v)) : exec .hubReplyArrival s =
    .next ((s.replied.updRun r.place fun x => x.answered (b.shape r.index) r op).deliverAll r.place (some r.index) (b.shape r.index).targets [k]) := by
  have hrun' : ((s.updNd s.focus.die fun n => { n with replies := dropAt n.replies s.index }).ctx r.place).run = some b := hrun
  have hgate : ¬ (b.serial ≠ r.serial ∨ b.fired.contains r.index = true) := not_or.mpr ⟨not_not.mpr hserial, Bool.eq_false_iff.mp hfired⟩
  show execHubReplyArrival s = _
  rw [execHubReplyArrival]
  simp only [hr, hrun', hasked, if_neg hgate, hk]
  rfl

theorem execHubReplyArrival_delivers {k : Token} {g : Nat} (hk : r.result = .tokens k none) (hop : ∀ u v, op ≠ .cmd none (.ntxc u v))
    (hg : (b.shape r.index).targets = [g]) (hg' : g ≠ 0x7F) (htok : b.tok g = none) (hres : b.reserved.contains g = false) :
    ∃ u, exec .hubReplyArrival s = .next u ∧ (u.nd s.focus.die).replies = dropAt (s.nd s.focus.die).replies s.index ∧ u.mem = s.mem ∧
      (u.ctx r.place).run = some { b.answered (b.shape r.index) r op with tokens := b.tokens ++ [(g, k)] } := by
  have hexec := execHubReplyArrival_tokens hr hrun hasked hserial hfired hk hop
  have hrun' : ((s.replied.updRun r.place fun x => x.answered (b.shape r.index) r op).ctx r.place).run = some (b.answered (b.shape r.index) r op) := by
    rw [State.ctx_updRun]
    exact congrArg (Option.map _) hrun
  rw [hg, deliverAll_free r.place (some r.index) k [g] _ _ hrun' (by simp [hg']) (by
    intro t ht _
    rw [List.mem_singleton.mp ht]
    exact ⟨htok, hres⟩), List.filter_cons_of_pos (by simpa using hg'), List.filter_nil, if_neg (by simp)] at hexec
  refine ⟨_, hexec, replies_replied s, rfl, ?_⟩
  rw [State.ctx_updRun]
  exact congrArg (Option.map _) hrun'

end Asked

end Reply

/-! ### Confirmations and withdrawals (R339, R342) -/

section Events

variable {s : State}

section Confirm

variable {c : Conf} (hc : (s.nd s.focus.die).confirms[s.index]? = some c)

/-- Confirmation `index` has left its queue. -/
def State.confirmed (s : State) : State := s.updNd s.focus.die fun n => { n with confirms := dropAt n.confirms s.index }

include hc

theorem execConfirmationArrival_close {o : BitVec 32} {r : Nat} (h : c.prov = .close o r) :
    exec .confirmationArrival s = .next (s.confirmed.letGo o) := by
  show execConfirmationArrival s = _
  rw [execConfirmationArrival, hc]
  dsimp only
  rw [h]
  rfl

theorem execConfirmationArrival_stands {o : BitVec 32} {r : Nat} (h : c.prov = .openRef o r ∨ c.prov = .made o r) :
    exec .confirmationArrival s = .next s.confirmed := by
  show execConfirmationArrival s = _
  rw [execConfirmationArrival, hc]
  dsimp only
  rcases h with h | h <;> rw [h] <;> rfl

end Confirm

variable {c : Conf} (hc : (s.nd s.focus.die).withdraws[s.index]? = some c)

/-- Withdrawal `index` has left its queue. -/
def State.withdrawn (s : State) : State := s.updNd s.focus.die fun n => { n with withdraws := dropAt n.withdraws s.index }

theorem objOf_withdrawn (s : State) (o : BitVec 32) : s.withdrawn.objOf o = s.objOf o :=
  objOf_updNd (g := fun n => { n with withdraws := dropAt n.withdraws s.index }) (fun _ => rfl) o

include hc

theorem withdrawEvent_other {w : Bool} (h : c.prov.isWindow ≠ w) : withdrawEvent w s = .next s := by
  rw [withdrawEvent]
  simp only [hc, h, ne_eq, not_false_iff, if_true]

theorem withdrawEvent_own {w : Bool} (h : c.prov.isWindow = w) : withdrawEvent w s = .next ((s.withdrawn.undo c.prov).undoTxn s.focus.die c.prov) := by
  rw [withdrawEvent]
  simp only [hc, h, ne_eq, not_true_eq_false, if_false]
  rfl

end Events

/-- Settles O39. -/
theorem hubReplies : Obligations.HubReplies := by
  intro s d n
  refine ⟨?_, ?_, ?_, ?_⟩
  · intro r hr y
    refine ⟨fun b op hrun hasked hserial hfired => ⟨fun c hc => execHubReplyArrival_refused hr hrun hasked hserial hfired hc,
      fun k g hk hop hg hg' htok hres => execHubReplyArrival_delivers hr hrun hasked hserial hfired hk hop hg hg' htok hres⟩, fun hrun => ?_⟩
    rw [execHubReplyArrival_gone hr hrun]
    exact ⟨fun h => by rw [h]; rfl, fun v h => by rw [h]; rfl⟩
  · intro c hc y
    exact ⟨fun o r h => execConfirmationArrival_close hc h, fun o r h => execConfirmationArrival_stands hc h⟩
  · intro c o w hc hprov
    refine ⟨withdrawEvent_other (w := false) hc (by rw [hprov]; exact nofun), _, withdrawEvent_own (w := true) hc (by rw [hprov]; rfl), ?_⟩
    rw [hprov]
    refine ⟨?_, ?_⟩
    · exact (part_setObj Nd.withdraws (fun _ _ => rfl) ..).trans (congrArg Nd.withdraws (nd_updNd ..))
    · refine (congrArg Obj.wins (objOf_setObj ..)).trans ?_
      rw [objOf_withdrawn]
  · intro c o r hc hprov
    refine ⟨withdrawEvent_other (w := true) hc (by rcases hprov with h | h <;> rw [h] <;> exact nofun), _,
      withdrawEvent_own (w := false) hc (by rcases hprov with h | h <;> rw [h] <;> rfl), ?_⟩
    have hundo : (s.withdrawn.undo c.prov).undoTxn d c.prov = s.withdrawn.setObj o { s.withdrawn.objOf o with
        refs := (s.withdrawn.objOf o).refs - 1, opens := put (s.withdrawn.objOf o).opens r (look 0 (s.withdrawn.objOf o).opens r - 1) } := by
      rcases hprov with h | h <;> rw [h] <;> rfl
    rw [hundo]
    refine ⟨?_, ?_, ?_⟩
    · exact (part_setObj Nd.withdraws (fun _ _ => rfl) ..).trans (congrArg Nd.withdraws (nd_updNd ..))
    · rw [objOf_setObj, objOf_withdrawn]
    · rw [objOf_setObj, objOf_withdrawn]
      exact look_put ..

end Sys2Proof.Machine
end

section
/-! PROOFS of windows at their homes, snapshots and reclaims (03_memory_model.md R49 to R51, 25_name_directory.md R328, R336, R337, R347). -/

namespace Sys2Proof.Machine

open Sys2Proof.Safety

/-! ### Objects of different entries -/

theorem objOf_setObj_ne (s : State) {id x : BitVec 32} (o : Obj) (h : objDie x ≠ objDie id ∨ fldN x 0 17 ≠ fldN id 0 17) :
    (s.setObj id o).objOf x = s.objOf x := by
  rw [State.objOf, State.objOf, State.setObj, State.updNd]
  by_cases hd : objDie x = objDie id
  · rw [hd, State.die_updDie]
    exact look_put_ne _ _ _ (h.resolve_left (not_not.mpr hd))
  · rw [State.die_updDie_ne _ _ hd]

/-- An answer changes no more of a directory than its replies. -/
theorem part_answerReq {α : Type} (part : Nd → α) (h : ∀ x l, part { x with replies := l } = part x) (s : State) (d : Nat) (p : Place) (n k : Nat)
    (r : Result) (v : Option Prov) (e : Nat) : part ((s.answerReq d p n k r v).nd e) = part (s.nd e) := by
  rw [State.answerReq]
  by_cases hp : p.die = d
  · rw [send_self hp]
    exact part_updNd part (g := fun x => { x with replies := x.replies ++ [_] }) (fun x => h x _) e
  · rw [send_other hp]
    exact part_updFab (fun x => part x.nd) (fun _ _ => rfl) s d _ e

theorem objOf_answerReq (s : State) (d : Nat) (p : Place) (n k : Nat) (r : Result) (v : Option Prov) (id : BitVec 32) :
    (s.answerReq d p n k r v).objOf id = s.objOf id :=
  congrArg (fun l => look ({} : Obj) l (fldN id 0 17)) (part_answerReq Nd.objs (fun _ _ => rfl) s d p n k r v (objDie id))

/-! ### Windows (R49 to R51, R188) -/

section Windows

theorem conflict_spec {o : Obj} {a b : Win} (h : o.conflict a b = true) :
    a.owner ≠ b.owner ∧ (a.rw = true ∨ b.rw = true) ∧ (a.sync = false ∨ b.sync = false) := by
  simp only [Obj.conflict, Bool.and_eq_true, Bool.or_eq_true, bne_iff_ne, ne_eq, Bool.not_eq_true', Bool.and_eq_false_iff] at h
  obtain ⟨⟨⟨⟨howner, -⟩, hrw⟩, hsync⟩, -⟩ := h
  exact ⟨howner, hrw, hsync⟩

variable {o : Obj} {w : Win}

theorem grant_full (h : 16384 ≤ o.wins.length) : o.grant w = none := if_pos h

theorem grant_race (h : o.wins.length < 16384) (hrace : o.wins.any (fun x => o.conflict x w) = true) : o.grant w = some none := by
  have hroom : ¬ winLimit ≤ o.wins.length := Nat.not_le.mpr h
  rw [Obj.grant, if_neg hroom, if_pos hrace]

theorem grant_given (h : o.wins.length < 16384) (hrace : o.wins.any (fun x => o.conflict x w) = false) :
    o.grant w = some (some { o with wins := o.wins ++ [w] }) := by
  have hroom : ¬ winLimit ≤ o.wins.length := Nat.not_le.mpr h
  rw [Obj.grant, if_neg hroom, if_neg (Bool.eq_false_iff.mp hrace)]

variable {s : State} {r : Req} (hr : (s.nd s.focus.die).windows[s.index]? = some r) {id : BitVec 32} (hid : r.winObj = some id)
  (hfirst : ∀ q ∈ (s.nd s.focus.die).windows.take s.index, q.winObj ≠ some id)

/-- The request for a window has left its queue. -/
def State.windowTaken (s : State) : State := s.updNd s.focus.die fun z => { z with windows := dropAt z.windows s.index }

include hid hfirst in
theorem window_first : ¬ (r.winObj.isNone = true ∨ (((s.nd s.focus.die).windows.take s.index).any fun q => q.winObj == r.winObj) = true) := by
  rw [hid]
  rintro (h | h)
  · exact absurd h nofun
  · obtain ⟨q, hq, he⟩ := List.any_eq_true.mp h
    exact hfirst q hq (by simpa using he)

include hr hid hfirst

theorem execWindowRequest_gset {g : Nat} {h : Word64} {w : Win} (hk : r.kind = .window g h w) : exec .windowRequest s = .next (
    (s.reach r.region h).elim (s.windowTaken.answerReq s.focus.die r.place r.serial r.index (.refused .rights) none) fun o =>
      (o.grant w).elim s fun x => x.elim (s.windowTaken.answerReq s.focus.die r.place r.serial r.index (.refused .mmRace) none) fun o1 =>
        (s.windowTaken.setObj (hobj h) o1).answerReq s.focus.die r.place r.serial r.index (Result.w (BitVec.ofNat 64 (windowLen o.desc w)))
          (some (.window (hobj h) w))) := by
  show execWindowRequest s = _
  rw [execWindowRequest]
  simp only [hr, if_neg (window_first hid hfirst), hk]
  rcases s.reach r.region h with _ | o
  · rfl
  · dsimp only [Option.elim_some]
    rcases o.grant w with _ | _ | o1 <;> rfl

theorem execWindowRequest_place {t k : Nat} {w : Win} (hk : r.kind = .place t k id w) : exec .windowRequest s = .next (
    if (s.objOf id).live = false then s.windowTaken.send s.focus.die r.place.die (.granted t k id w false)
    else ((s.objOf id).grant w).elim s fun x => x.elim (s.windowTaken.send s.focus.die r.place.die (.granted t k id w false)) fun o1 =>
      (s.windowTaken.setObj id o1).send s.focus.die r.place.die (.granted t k id w true)) := by
  show execWindowRequest s = _
  rw [execWindowRequest]
  simp only [hr, if_neg (window_first hid hfirst), hk]
  rcases (s.objOf id).grant w with _ | _ | o1 <;> rfl

end Windows

/-! ### Snapshots (R336, R347) -/

section Snapshots

theorem entry_map (o : Obj) (f : Word64 → Word64) (h : f 0#64 = 0#64) (j : Nat) :
    look 0#64 (o.table.map fun e => (e.1, f e.2)) j = f (o.entry j) :=
  look_map (0#64) (fun _ e => f e) (fun _ => h) o.table j

/-- A valid entry is marked for copying. -/
def cowMark (e : Word64) : Word64 := if entV e then setFld e 2 1 1 else e

theorem entC_cowMark {e : Word64} (h : entV e = true) : entC (cowMark e) = true := by
  rw [cowMark, if_pos h]
  show (fldN (setFld e 2 1 1) (2 + 0) 1 == 1) = true
  rw [fldN_setFld_inside 1 (by omega) (by omega)]
  rfl

/-- The table of an object of which a snapshot is taken, and of the snapshot. -/
def Obj.marked (o : Obj) : List (Nat × Word64) := o.table.map fun e => (e.1, cowMark e.2)

theorem entC_marked {o : Obj} {j : Nat} (h : entV (o.entry j) = true) : entC (look 0#64 o.marked j) = true := by
  rw [Obj.marked, entry_map o cowMark (by decide) j]
  exact entC_cowMark h

theorem freeObj_mem {s s1 : State} {d i : Nat} (h : s.freeObj d = some (i, s1)) : s1.mem = s.mem := by
  obtain ⟨j, -, hj⟩ := Option.map_eq_some_iff.mp h
  obtain ⟨-, rfl⟩ := Prod.mk.inj hj
  rfl

theorem snapshot_spec {s : State} {d r : Nat} {h : Word64} {o : Obj} {id : BitVec 32} {v : State} (ho : s.reach r h = some o)
    (hv : s.snapshot d r h = .ok (id, v)) : ∃ u : State, u.mem = s.mem ∧ v = ((u.setObj (hobj h) { o with table := o.marked, refs := o.refs + 1 }).setObj id
      { live := true, inc := (s.objOf id).inc, desc := o.desc, region := r, table := o.marked, refs := 1, opens := [(r, 1)]
        source := some (hobj h) }).invalidate (hobj h) none := by
  rw [State.snapshot, ho] at hv
  rcases hf : s.freeObj d with _ | ⟨i, s1⟩
  · rw [hf] at hv
    exact absurd hv nofun
  · rw [hf] at hv
    obtain ⟨rfl, rfl⟩ := Prod.mk.inj (Except.ok.inj hv)
    have hmem := freeObj_mem hf
    refine ⟨_, ?_, rfl⟩
    exact hmem

variable {s : State} {r : Req} (hr : (s.nd s.focus.die).snaps[s.index]? = some r) {h : Word64} (hk : r.kind = .snap h) (hhost : r.host = none)

/-- The request for a snapshot has left its queue. -/
def State.snapTaken (s : State) : State := s.updNd s.focus.die fun z => { z with snaps := dropAt z.snaps s.index }

include hr hk hhost

theorem execSnapshotRequest_refused {c : Cause} (hc : s.snapTaken.snapshot s.focus.die r.region h = .error c) :
    exec .snapshotRequest s = .next (s.snapTaken.answerReq s.focus.die r.place r.serial r.index (.refused c) none) := by
  have hc' : (s.updNd s.focus.die fun n => { n with snaps := dropAt n.snaps s.index }).snapshot s.focus.die r.region h = .error c := hc
  show execSnapshotRequest s = _
  rw [execSnapshotRequest]
  simp only [hr, hk, hhost, hc']
  rfl

theorem execSnapshotRequest_made {id : BitVec 32} {v : State} (hv : s.snapTaken.snapshot s.focus.die r.region h = .ok (id, v)) :
    exec .snapshotRequest s = .next (v.answerReq s.focus.die r.place r.serial r.index
      (.tokens (.val (Reg.ofH (handleOf id (v.objOf id).inc))) none) (some (.made id r.region))) := by
  have hv' : (s.updNd s.focus.die fun n => { n with snaps := dropAt n.snaps s.index }).snapshot s.focus.die r.region h = .ok (id, v) := hv
  show execSnapshotRequest s = _
  rw [execSnapshotRequest]
  simp only [hr, hk, hhost, hv']

end Snapshots

/-! ### Reclaims (R328) -/

section Reclaims

variable {s : State}

/-- The object of entry `index` of the die, whose entry is free again. -/
def State.reclaimed (s : State) : State :=
  let id := s.objId s.focus.die s.index
  (((s.objOf id).table.filter fun e => entV e.2).foldl (fun s e => s.dropFrame (entStack e.2) (entFrame e.2)) (s.invalidate id none)).setObj id
    { inc := (s.objOf id).inc + 1 }

theorem execReclaim_eq (s : State) : exec .reclaim s = .next (
    let id := s.objId s.focus.die s.index
    let o := s.objOf id
    if o.live = false ∨ o.refs ≠ 0 ∨ o.wins ≠ [] ∨ s.runsCode id = true then s
    else match o.source with
      | some x => (s.reclaimed.post o.region 7 (id.setWidth 64) 0#64 0#64).letGo x
      | none => s.reclaimed.post o.region 7 (id.setWidth 64) 0#64 0#64) := rfl

end Reclaims

/-- Settles O40. -/
theorem windowsSnapshotsReclaims : Obligations.WindowsSnapshotsReclaims := by
  refine ⟨?_, ?_⟩
  · intro s d n
    refine ⟨?_, ?_, fun o a b h => conflict_spec h⟩
    · intro r g h w hr hk hfirst y
      have hid : r.winObj = some (hobj h) := by rw [Req.winObj, hk]
      rw [execWindowRequest_gset hr hid hfirst hk]
      refine ⟨fun hreach => by rw [hreach]; rfl, fun o hreach => ?_⟩
      rw [hreach, Option.elim_some]
      refine ⟨fun hfull => by rw [grant_full hfull]; rfl, fun hroom hrace => by rw [grant_race hroom hrace]; rfl, fun hroom hrace => ?_⟩
      rw [grant_given hroom hrace, Option.elim_some, Option.elim_some]
      refine ⟨_, rfl, ?_, ?_, ?_⟩
      · rw [objOf_answerReq, objOf_setObj]
      · rw [part_answerReq Nd.windows fun _ _ => rfl, part_setObj Nd.windows fun _ _ => rfl]
        exact congrArg Nd.windows (nd_updNd ..)
      · rw [State.answerReq_mem]
        rfl
    · intro r t k id w hr hk hfirst y o
      have hid : r.winObj = some id := by rw [Req.winObj, hk]
      rw [execWindowRequest_place hr hid hfirst hk]
      refine ⟨fun hlive hfull => ?_, fun h => ?_, fun hlive hroom hrace => ?_⟩
      · have hlive : ¬ (s.objOf id).live = false := by rw [show (s.objOf id).live = true from hlive]; exact nofun
        rw [if_neg hlive, grant_full hfull]
        rfl
      · by_cases hlive : (s.objOf id).live = false
        · rw [if_pos hlive]
          rfl
        · obtain ⟨hroom, hrace⟩ := h.resolve_left hlive
          rw [if_neg hlive, grant_race hroom hrace]
          rfl
      · have hlive : ¬ (s.objOf id).live = false := by rw [show (s.objOf id).live = true from hlive]; exact nofun
        rw [if_neg hlive, grant_given hroom hrace]
        rfl
  · intro s d n
    refine ⟨?_, ?_, ?_⟩
    · intro r h hr hk hhost y
      exact ⟨fun c hc => execSnapshotRequest_refused hr hk hhost hc, fun id v hv => execSnapshotRequest_made hr hk hhost hv⟩
    · intro r h o id v ho hv hne
      obtain ⟨u, hmem, rfl⟩ := snapshot_spec ho hv
      have hnew (o1 o2 : Obj) : (((u.setObj (hobj h) o1).setObj id o2).invalidate (hobj h) none).objOf id = o2 := by
        rw [objOf_invalidate, objOf_setObj]
      have hold (o1 o2 : Obj) : (((u.setObj (hobj h) o1).setObj id o2).invalidate (hobj h) none).objOf (hobj h) = o1 := by
        rw [objOf_invalidate, objOf_setObj_ne _ _ (hne.imp Ne.symm Ne.symm), objOf_setObj]
      rw [hnew, hold]
      exact ⟨rfl, rfl, rfl, rfl, rfl, hmem, fun j hj => ⟨entC_marked hj, entC_marked hj⟩⟩
    · intro id o
      rw [execReclaim_eq]
      refine ⟨fun h => congrArg Host.Outcome.next (if_pos h), fun hlive hrefs hwins hruns => ?_⟩
      have hgate : ¬ (o.live = false ∨ o.refs ≠ 0 ∨ o.wins ≠ [] ∨ s.runsCode id = true) := by
        simp [hlive, hrefs, hwins, hruns]
      intro v
      have hv : v.objOf id = { inc := o.inc + 1 } := objOf_setObj ..
      refine ⟨by rw [hv], by rw [hv], fun hsource => ?_, fun x hsource => ?_⟩
      · refine congrArg Host.Outcome.next ((if_neg hgate).trans ?_)
        rw [show (s.objOf (s.objId s.focus.die s.index)).source = none from hsource]
        rfl
      · refine congrArg Host.Outcome.next ((if_neg hgate).trans ?_)
        rw [show (s.objOf (s.objId s.focus.die s.index)).source = some x from hsource]
        rfl

end Sys2Proof.Machine
end

section
/-! PROOFS of opens and binds at the homes of names (25_name_directory.md R324, R325, R329 to R331, 26_nd_instructions.md R341, R343). -/

namespace Sys2Proof.Machine

open Sys2Proof.Safety

/-! ### Names of a slice (R324) -/

section Slice

variable {n : Nd} {x y : Name} {key : Word64}

theorem key_of_name? (h : n.name? key = some x) : x.key = key := by
  simpa using List.find?_some h

/-- Putting an entry changes the names alone. -/
theorem putName_frame (n : Nd) (x : Name) : n.putName x = { n with names := (n.putName x).names } := by
  rw [Nd.putName]
  split <;> rfl

theorem names_putName_single (h : n.names = [y]) (hkey : y.key = x.key) : (n.putName x).names = [x] := by
  have hsome : (n.name? x.key).isSome = true := by
    rw [Nd.name?, h, List.find?_cons_of_pos (by simpa using hkey)]
    rfl
  rw [Nd.putName, if_pos hsome, h]
  simp [hkey]

theorem find?_map_key : ∀ (l : List Name), (l.find? fun y => y.key == x.key).isSome = true →
    (l.map fun y => if y.key = x.key then x else y).find? (fun y => y.key == x.key) = some x
  | [], h => absurd h nofun
  | y :: l, h => by
    rw [List.map_cons]
    by_cases hy : y.key = x.key
    · rw [if_pos hy, List.find?_cons_of_pos (by simp)]
    · rw [List.find?_cons_of_neg (by simpa using hy)] at h
      rw [if_neg hy, List.find?_cons_of_neg (by simpa using hy)]
      exact find?_map_key l h

theorem name?_putName (n : Nd) (x : Name) : (n.putName x).name? x.key = some x := by
  rw [Nd.putName]
  split
  next h => exact find?_map_key n.names h
  next h =>
    have hnone : n.names.find? (fun y => y.key == x.key) = none := Option.not_isSome_iff_eq_none.mp h
    rw [Nd.name?, List.find?_append, hnone]
    simp

/-- Every entry of a key is the one that has been put. -/
theorem eq_of_mem_putName (hy : y ∈ (n.putName x).names) (hkey : y.key = x.key) : y = x := by
  rw [Nd.putName] at hy
  split at hy
  next =>
    obtain ⟨z, -, rfl⟩ := List.mem_map.mp hy
    by_cases hz : z.key = x.key
    · rw [if_pos hz]
    · rw [if_neg hz] at hkey
      exact absurd hkey hz
  next h =>
    have hnone : n.names.find? (fun y => y.key == x.key) = none := Option.not_isSome_iff_eq_none.mp h
    rcases List.mem_append.mp hy with hy | hy
    · exact absurd hkey (by simpa using List.find?_eq_none.mp hnone y hy)
    · exact List.mem_singleton.mp hy

/-- Nothing but the key keeps the entry: it is free and none waits for it. -/
def Name.spent (x : Name) : Bool := x.state == .unbound && x.waiters == [] && x.held == [] && x.claims == 0

theorem names_tidy (n : Nd) (key : Word64) : (n.tidy key).names = n.names.filter fun x => !(x.key == key && x.spent) := by
  simp only [Nd.tidy, Name.spent, Bool.and_assoc]

theorem name?_tidy_of_kept (h : n.name? key = some x) (hkept : x.spent = false) : (n.tidy key).name? key = some x := by
  rw [Nd.name?, names_tidy, List.find?_filter]
  obtain ⟨hx, l, r, hl, hbefore⟩ := List.find?_eq_some_iff_append.mp h
  rw [List.find?_eq_some_iff_append]
  exact ⟨by simpa [hkept] using hx, l, r, hl, fun y hy => by
    have hne : (y.key == key) = false := by simpa using hbefore y hy
    simp [hne]⟩

theorem name?_tidy_putName (hspent : x.spent = true) : ((n.putName x).tidy x.key).name? x.key = none := by
  rw [Nd.name?, List.find?_eq_none]
  intro y hy hkey
  rw [names_tidy, List.mem_filter] at hy
  have hyx := eq_of_mem_putName hy.1 (by simpa using hkey)
  subst hyx
  simp [hspent] at hy

theorem name?_tidy_none (h : n.name? key = none) : (n.tidy key).name? key = none := by
  rw [Nd.name?, List.find?_eq_none] at h ⊢
  intro y hy
  rw [names_tidy] at hy
  exact h y (List.mem_filter.mp hy).1

end Slice

/-! ### Reach (R326) -/

theorem ancGo_of_regions {s t : State} (h : t.regions = s.regions) (a : Nat) : ∀ n r, t.ancGo a n r = s.ancGo a n r
  | 0, _ => rfl
  | n + 1, r => by
    rw [State.ancGo, State.ancGo, State.rcb, State.rcb, h]
    simp only [ancGo_of_regions h a n]

theorem reach_congr {s t : State} (hobj : ∀ id, t.objOf id = s.objOf id) (hregions : t.regions = s.regions) (hmodule : t.moduleId = s.moduleId)
    (r : Nat) (h : Word64) : t.reach r h = s.reach r h := by
  have hanc (a b : Nat) : t.isAncestor a b = s.isAncestor a b := ancGo_of_regions hregions a 4096 b
  have hobj? : t.obj? h = s.obj? h := by rw [State.obj?, State.obj?, hobj, hmodule]
  simp only [State.reach, hobj?, hanc]

theorem reach_updNd {s : State} {e : Nat} {g : Nd → Nd} (h : ∀ x, (g x).objs = x.objs) (r : Nat) (k : Word64) : (s.updNd e g).reach r k = s.reach r k :=
  reach_congr (t := s.updNd e g) (objOf_updNd h) rfl rfl r k

/-! ### Opens (R329, R330, R341) -/

section Bound

variable {s : State} {d : Nat} {obj : BitVec 32} {w : Opener}

theorem openBound_reached {o : Obj} (h : s.reach w.region (handleOf obj (s.objOf obj).inc) = some o) : s.openBound d obj w =
    (s.ref w.region (handleOf obj (s.objOf obj).inc)).answerReq d w.place w.serial w.index
      (.tokens (.val (Reg.ofH (handleOf obj (s.objOf obj).inc))) (some (.val (Reg.ofW 0#64)))) (some (.openRef obj w.region)) := by
  rw [State.openBound_def]
  beta_reduce
  rw [h]

theorem openBound_unreached (h : s.reach w.region (handleOf obj (s.objOf obj).inc) = none) :
    s.openBound d obj w = s.answerReq d w.place w.serial w.index (.refused .rights) none := by
  rw [State.openBound_def]
  beta_reduce
  rw [h]

end Bound

section Opens

variable {s : State} {r : Req} {key : Word64} {wait : Bool} (hr : (s.nd s.focus.die).opens[s.index]? = some r) (hk : r.kind = .opn key wait)
  (hearly : (s.nd s.focus.die).early r.stamp [key] = false)

/-- Open `index` has left its queue. -/
def State.openTaken (s : State) : State := s.updNd s.focus.die fun z => { z with opens := dropAt z.opens s.index }

/-- Who opens. -/
def Req.opener (r : Req) (wait : Bool) : Opener :=
  { place := r.place, serial := r.serial, index := r.index, region := r.region, wait := wait, since := r.since }

theorem objOf_openTaken (s : State) (id : BitVec 32) : s.openTaken.objOf id = s.objOf id :=
  objOf_updNd (g := fun z => { z with opens := dropAt z.opens s.index }) (fun _ => rfl) id

theorem reach_openTaken (s : State) (r : Nat) (h : Word64) : s.openTaken.reach r h = s.reach r h :=
  reach_updNd (g := fun z => { z with opens := dropAt z.opens s.index }) (fun _ => rfl) r h

include hr hk hearly

theorem execOpenRequest_bound {x : Name} (hx : (s.nd s.focus.die).name? key = some x) (hst : x.state = .bound) :
    exec .openRequest s = .next (s.openTaken.openBound s.focus.die x.obj (r.opener wait)) := by
  show execOpenRequest s = _
  rw [execOpenRequest]
  simp only [hr, hk, hearly, Bool.false_eq_true, if_false, hx, Option.getD_some, hst]
  rfl

theorem execOpenRequest_unbound (hx : (s.nd s.focus.die).name? key = none) (hwait : wait = false) :
    exec .openRequest s = .next (s.openTaken.openNone s.focus.die (r.opener wait) 1) := by
  subst hwait
  show execOpenRequest s = _
  rw [execOpenRequest]
  simp only [hr, hk, hearly, Bool.false_eq_true, if_false, hx, Option.getD_none]
  rfl

/-- The open waits at its home. -/
theorem execOpenRequest_waits (hst : ((s.nd s.focus.die).name? key).elim (wait = true) fun x => x.state = .prepared)
    (hroom : (s.nd s.focus.die).fullFor key = false) (hwaiting : (s.nd s.focus.die).waiting < 4096)
    (hpending : s.pending r.place r.serial r.index = true) : exec .openRequest s = .next (s.openTaken.updNd s.focus.die fun n =>
      n.putName { ((s.nd s.focus.die).name? key).getD { key := key } with
        waiters := (((s.nd s.focus.die).name? key).getD { key := key }).waiters ++ [r.opener wait] }) := by
  have hgone : s.openTaken.openGone (r.opener wait) = false := by
    rw [State.openGone]
    have : s.openTaken.pending (r.opener wait).place (r.opener wait).serial (r.opener wait).index = true := hpending
    rw [this]
    simp
  have hlimit : ¬ waiterLimit ≤ (s.nd s.focus.die).waiting := Nat.not_le.mpr hwaiting
  show execOpenRequest s = _
  rw [execOpenRequest]
  have hgone' : (s.updNd s.focus.die fun n => { n with opens := dropAt n.opens s.index }).openGone
    { place := r.place, serial := r.serial, index := r.index, region := r.region, wait := wait, since := r.since } = false := hgone
  simp only [hr, hk, hearly, Bool.false_eq_true, if_false, hgone', hroom, hlimit]
  rcases hx : (s.nd s.focus.die).name? key with _ | x
  · rw [hx] at hst
    subst hst
    rfl
  · rw [hx] at hst
    have hst : x.state = .prepared := hst
    simp only [Option.getD_some, hst]
    rfl

end Opens

section Represent

variable {s : State} {c serial k since : Nat} {key : Word64} {wait : Bool}
  (hq : (s.tile s.focus.die s.focus.tile).represent[s.index]? = some (c, serial, k, key, wait, since))

/-- The open that waits at its tile has left it. -/
def State.representTaken (s : State) : State := s.updTile s.focus.die s.focus.tile fun x => { x with represent := dropAt x.represent s.index }

theorem pending_representTaken (s : State) (p : Place) (a b : Nat) : s.representTaken.pending p a b = s.pending p a b := by
  have hctx : s.representTaken.ctx p = s.ctx p :=
    State.ctx_updTile _ _ _ (fun x => { x with represent := dropAt x.represent s.index }) (fun _ => rfl) _
  rw [State.pending, State.pending, hctx]

include hq

theorem execOpenRepresentTimer_again (hpending : s.pending ⟨s.focus.die, s.focus.tile, c⟩ serial k = true) (htime : since + 1024 ≤ s.cycle) :
    exec .openRepresentTimer s = .next (s.representTaken.send s.focus.die (s.nameHub key) (.openReq
      { place := ⟨s.focus.die, s.focus.tile, c⟩, serial := serial, index := k, region := (s.ctx ⟨s.focus.die, s.focus.tile, c⟩).region
        kind := .opn key wait, since := s.cycle })) := by
  show execOpenRepresentTimer s = _
  rw [execOpenRepresentTimer]
  simp only [hq, hpending, Bool.true_eq_false, if_false, Nat.not_lt.mpr htime]
  rfl

theorem execOpenRepresentTimer_gone (hpending : s.pending ⟨s.focus.die, s.focus.tile, c⟩ serial k = false) :
    exec .openRepresentTimer s = .next s.representTaken := by
  show execOpenRepresentTimer s = _
  rw [execOpenRepresentTimer]
  simp only [hq, hpending, if_true]
  rfl

end Represent

/-! ### Binds (R329, R331, R343) -/

section Binds

variable {s : State} {d : Nat}

/-- The entry x once it is bound to an object, or unbound. -/
def Name.rebound (x : Name) (obj : Option (BitVec 32)) (region : Nat) : Name :=
  match obj with
  | some o => { x with state := .bound, obj := o, gen := nextGen x.gen, region := region, txn := 0#32, newobj := 0#32 }
  | none => { x with state := .unbound, obj := 0#32, gen := if x.state = .bound then nextGen x.gen else x.gen, region := region
                     txn := 0#32, newobj := 0#32 }

/-- What serving an entry leaves of a slice. -/
structure ServesOnly (y : Name) (g : Nd → Nd) : Prop where
  frame : ∀ n, g n = { n with names := (g n).names }
  bound : y.state = .bound → ∀ n, (g n).name? y.key = some y
  spent : y.spent = true → ∀ n, (g n).name? y.key = none
  single : y.state = .bound → ∀ n z, n.names = [z] → z.key = y.key → (g n).names = [y]

/-- An entry that none waits for is served by being put again. -/
theorem serve_of_no_waiters {u : State} {y : Name} (hy : (u.nd d).name? y.key = some y) (hw : y.waiters = []) (hst : y.state ≠ .prepared) :
    ∃ g : Nd → Nd, u.serve d y.key = u.updNd d g ∧ ServesOnly y g := by
  rcases hs : y.state with _ | _ | _
  · have hnot : ¬ y.state = .bound := by rw [hs]; exact nofun
    refine ⟨fun n => (n.putName y).tidy y.key, ?_, fun n => ?_, fun h => absurd h hnot, fun h n => name?_tidy_putName h, fun h => absurd h hnot⟩
    · obtain ⟨key, state, gen, obj, txn, newobj, region, before, since, newRegion, doubt, waiters, held, claims⟩ := y
      dsimp only at hw hs
      subst hw hs
      rw [State.serve, hy]
      rfl
    · exact (congrArg (Nd.tidy · y.key) (putName_frame n y)).trans rfl
  · refine ⟨fun n => n.putName y, ?_, fun n => putName_frame n y, fun _ n => name?_putName n y, fun h => absurd h (by simp [Name.spent, hs]),
      fun _ n z h hkey => names_putName_single h hkey⟩
    obtain ⟨key, state, gen, obj, txn, newobj, region, before, since, newRegion, doubt, waiters, held, claims⟩ := y
    dsimp only at hw hs
    subst hw hs
    rw [State.serve, hy]
    rfl
  · exact absurd hs hst

theorem rebound_keeps (x : Name) (obj : Option (BitVec 32)) (region : Nat) : (x.rebound obj region).key = x.key ∧
    (x.rebound obj region).waiters = x.waiters ∧ (x.rebound obj region).state ≠ .prepared := by
  cases obj <;> exact ⟨rfl, rfl, nofun⟩

theorem spent_of_bound {y : Name} (h : y.state = .bound) : y.spent = false := by
  rw [Name.spent, h]
  rfl

theorem names_tidy_single {n : Nd} {y : Name} (h : n.names = [y]) (hkept : y.spent = false) (key : Word64) : (n.tidy key).names = [y] := by
  rw [names_tidy, h]
  simp [hkept]

/-- What the bind or unbind of an entry that none waits for leaves. -/
structure Rebinds (s : State) (d : Nat) (x y : Name) (u : State) : Prop where
  frame : ∃ l o, u.nd d = { s.nd d with names := l, objs := o }
  objs : ∀ id, u.objOf id = (if x.state = .bound then s.letGo x.obj else s).objOf id
  bound : y.state = .bound → (u.nd d).name? x.key = some y
  spent : y.spent = true → (u.nd d).name? x.key = none
  single : y.state = .bound → ∀ z, (s.nd d).names = [z] → z.key = x.key → (u.nd d).names = [y]

theorem nd_letGo (s : State) (id : BitVec 32) (d : Nat) : ∃ o, (s.letGo id).nd d = { s.nd d with objs := o } := by
  rw [State.letGo, State.setObj]
  by_cases h : d = objDie id
  · rw [h, nd_updNd]
    exact ⟨_, rfl⟩
  · refine ⟨(s.nd d).objs, ?_⟩
    rw [State.nd, State.updNd, State.die_updDie_ne _ _ h]
    rfl

theorem rebind_spec (s : State) (d : Nat) {x : Name} (hw : x.waiters = []) (obj : Option (BitVec 32)) (region : Nat) :
    Rebinds s d x (x.rebound obj region) (s.rebind d x obj region) := by
  let s1 := if x.state = .bound then s.letGo x.obj else s
  let y := x.rebound obj region
  obtain ⟨hkey, hwaiters, hst⟩ := rebound_keeps x obj region
  have hput : ((s1.updNd d fun n => n.putName y).nd d).name? y.key = some y := by
    rw [nd_updNd]
    exact name?_putName _ _
  obtain ⟨g, hg, hframe, hbound, hspent, hsingle⟩ := serve_of_no_waiters hput (hwaiters.trans hw) hst
  have heq : s.rebind d x obj region = ((s1.updNd d fun n => n.putName y).updNd d g).updNd d fun n => n.tidy x.key := by
    rw [← hg, hkey]
    cases obj <;> rfl
  have hnd : (s.rebind d x obj region).nd d = (g ((s1.nd d).putName y)).tidy x.key := by rw [heq, nd_updNd, nd_updNd, nd_updNd]
  have hs1 : ∃ o, s1.nd d = { s.nd d with objs := o } := by
    show ∃ o, (if x.state = .bound then s.letGo x.obj else s).nd d = _
    split
    · exact nd_letGo ..
    · exact ⟨_, rfl⟩
  obtain ⟨o, ho⟩ := hs1
  refine ⟨⟨((g ((s1.nd d).putName y)).tidy x.key).names, o, hnd.trans ?_⟩, fun id => ?_, fun h => ?_, fun h => ?_, fun h z hz hzkey => ?_⟩
  · let named (l : List Name) (n : Nd) : Nd := { n with names := l }
    calc (g ((s1.nd d).putName y)).tidy x.key
        = named ((g ((s1.nd d).putName y)).tidy x.key).names (g ((s1.nd d).putName y)) := rfl
      _ = named ((g ((s1.nd d).putName y)).tidy x.key).names ((s1.nd d).putName y) := (congrArg (named _) (hframe _)).trans rfl
      _ = named ((g ((s1.nd d).putName y)).tidy x.key).names (s1.nd d) := (congrArg (named _) (putName_frame _ _)).trans rfl
      _ = named ((g ((s1.nd d).putName y)).tidy x.key).names { s.nd d with objs := o } := congrArg (named _) ho
  · have hput' := objOf_updNd (s := s1) (e := d) (g := fun n => n.putName y) (fun n => (congrArg Nd.objs (putName_frame n y)).trans rfl) id
    have hg' := objOf_updNd (s := s1.updNd d fun n => n.putName y) (e := d) (g := g) (fun n => (congrArg Nd.objs (hframe n)).trans rfl) id
    have htidy := objOf_updNd (s := (s1.updNd d fun n => n.putName y).updNd d g) (e := d) (g := fun n => n.tidy x.key) (fun _ => rfl) id
    rw [heq]
    exact htidy.trans (hg'.trans hput')
  · rw [hnd]
    exact name?_tidy_of_kept (hkey ▸ hbound h _) (spent_of_bound h)
  · rw [hnd]
    exact name?_tidy_none (hkey ▸ hspent h _)
  · rw [hnd]
    have hz' : (s1.nd d).names = [z] := by rw [ho]; exact hz
    exact names_tidy_single (hsingle h _ y (names_putName_single hz' (hzkey.trans hkey.symm)) rfl) (spent_of_bound h) _

variable {b : Bind} (hb : (s.nd s.focus.die).binds[s.index]? = some b) (hfirst : ∀ c ∈ (s.nd s.focus.die).binds.take s.index, c.key ≠ b.key)
  (hearly : (s.nd s.focus.die).early b.stamp [b.key] = false)

/-- Bind `index` has left its queue. -/
def State.bindTaken (s : State) : State := s.updNd s.focus.die fun n => { n with binds := dropAt n.binds s.index }

theorem nd_bindTaken (s : State) : s.bindTaken.nd s.focus.die = { s.nd s.focus.die with binds := dropAt (s.nd s.focus.die).binds s.index } := nd_updNd ..

theorem objOf_bindTaken (s : State) (id : BitVec 32) : s.bindTaken.objOf id = s.objOf id :=
  objOf_updNd (g := fun n => { n with binds := dropAt n.binds s.index }) (fun _ => rfl) id

include hb hfirst hearly in
theorem execBindApply_applies : exec .bindApply s = .next (s.bindTaken.applyBind s.focus.die b) := by
  have hany : ((s.nd s.focus.die).binds.take s.index).any (fun c => c.key == b.key) = false := by
    rw [List.any_eq_false]
    exact fun c hc => by simpa using hfirst c hc
  show execBindApply s = _
  rw [execBindApply]
  simp only [hb, hany, hearly, Bool.false_eq_true, or_self, if_false]
  rfl

/-- The entry of a bind's name, one claim less. -/
def Nd.claimed (n : Nd) (key : Word64) : Name :=
  { (n.name? key).getD { key := key } with claims := ((n.name? key).getD { key := key }).claims - 1 }

theorem applyBind_held {x : Name} (hx : (s.nd d).name? b.key = some x) (hst : x.state = .prepared) :
    s.applyBind d b = s.updNd d fun n => n.putName { x with held := x.held ++ [b] } := by
  rw [State.applyBind, hx]
  exact if_pos hst

theorem applyBind_applies (hst : ((s.nd d).name? b.key).elim True fun x => x.state ≠ .prepared) (hroom : (s.nd d).fullFor b.key = false)
    (hhost : b.host = none) : s.applyBind d b = s.rebind d ((s.nd d).claimed b.key) b.obj b.region := by
  have hst' : (((s.nd d).name? b.key).getD { key := b.key }).state ≠ .prepared := by
    rcases h : (s.nd d).name? b.key with _ | x
    · exact nofun
    · rw [h] at hst
      exact hst
  rw [State.applyBind]
  simp only [hst', if_false, hroom, Bool.false_eq_true, hhost]
  rfl

theorem fullFor_of_some {n : Nd} {key : Word64} {x : Name} (h : n.name? key = some x) : n.fullFor key = false := by
  rw [Nd.fullFor, h]
  rfl

theorem fullFor_of_room {n : Nd} (h : n.names.length < 65536) (key : Word64) : n.fullFor key = false := by
  have hlimit : nameLimit = 65536 := rfl
  rw [Nd.fullFor, decide_eq_false (by omega), Bool.and_false]

end Binds

/-- Settles O41. -/
theorem opensAndBinds : Obligations.OpensAndBinds := by
  intro s d n
  refine ⟨?_, ?_, ?_⟩
  · intro r key wait hr hk hearly y w
    refine ⟨?_, fun hx hwait => execOpenRequest_unbound hr hk hearly hx hwait, fun hx hwait hroom hwaiting hpending => ?_,
      fun x hx hst hwaiting hpending => ?_⟩
    · intro x hx hst h
      have hexec := execOpenRequest_bound hr hk hearly hx hst
      refine ⟨fun hreach => ?_, fun hreach => ?_⟩
      · obtain ⟨o, ho⟩ := Option.isSome_iff_exists.mp hreach
        have hgiven := openBound_reached (d := d) (w := r.opener wait) (obj := x.obj) (by rw [reach_openTaken, objOf_openTaken]; exact ho)
        rw [objOf_openTaken] at hgiven
        exact hexec.trans (congrArg Host.Outcome.next hgiven)
      · have hrefused := openBound_unreached (d := d) (w := r.opener wait) (obj := x.obj) (by rw [reach_openTaken, objOf_openTaken]; exact hreach)
        exact hexec.trans (congrArg Host.Outcome.next hrefused)
    · refine ⟨_, execOpenRequest_waits hr hk hearly (by rw [show (s.nd s.focus.die).name? key = none from hx]; exact hwait)
        (fullFor_of_room hroom _) hwaiting hpending, ?_, ?_⟩
      · rw [nd_updNd, putName_frame]
        exact congrArg Nd.opens (nd_updNd ..)
      · rw [nd_updNd, show (s.nd s.focus.die).name? key = none from hx]
        exact name?_putName _ { key := key, waiters := [w] }
    · refine ⟨_, execOpenRequest_waits hr hk hearly (by rw [show (s.nd s.focus.die).name? key = some x from hx]; exact hst)
        (fullFor_of_some hx) hwaiting hpending, ?_⟩
      rw [nd_updNd, show (s.nd s.focus.die).name? key = some x from hx, ← key_of_name? hx]
      exact name?_putName _ { x with waiters := x.waiters ++ [w] }
  · intro t c serial k key wait since hq y
    exact ⟨fun hpending htime => execOpenRepresentTimer_again hq hpending htime, fun hpending => execOpenRepresentTimer_gone hq hpending⟩
  · intro b hb hfirst hearly hhost
    have hname : (s.bindTaken.nd d).name? b.key = n.name? b.key := by rw [nd_bindTaken]; rfl
    have hfull : (s.bindTaken.nd d).fullFor b.key = n.fullFor b.key := by rw [nd_bindTaken]; rfl
    have hclaimed : (s.bindTaken.nd d).claimed b.key = n.claimed b.key := by rw [nd_bindTaken]; rfl
    have hbinds : (s.bindTaken.nd d).binds = dropAt n.binds s.index := by rw [nd_bindTaken]
    have hexec := execBindApply_applies hb hfirst hearly
    refine ⟨fun o hx hroom hobj => ?_, fun x o hx hst hw hobj => ?_, fun x hx hst hw hheld hclaims hobj => ?_, fun x hx hst => ?_⟩
    · have happly := applyBind_applies (s := s.bindTaken) (d := d) (by rw [hname, hx]; trivial) (by rw [hfull]; exact fullFor_of_room hroom _) hhost
      have hc : n.claimed b.key = { key := b.key } := by rw [Nd.claimed, hx]; rfl
      rw [hclaimed, hc, hobj] at happly
      obtain ⟨⟨l, o', hframe⟩, -, hbound, -, -⟩ := rebind_spec s.bindTaken d (x := { key := b.key }) rfl (some o) b.region
      exact ⟨_, _, hexec.trans (congrArg Host.Outcome.next happly), (congrArg Nd.binds hframe).trans hbinds, hbound rfl, rfl, rfl, rfl, rfl⟩
    · have happly := applyBind_applies (s := s.bindTaken) (d := d) (by rw [hname, hx]; exact fun h => by rw [hst] at h; exact absurd h nofun)
        (by rw [hfull]; exact fullFor_of_some hx) hhost
      have hc : n.claimed b.key = { x with claims := x.claims - 1 } := by rw [Nd.claimed, hx]; rfl
      rw [hclaimed, hc, hobj] at happly
      obtain ⟨-, hobjs, hbound, -, -⟩ := rebind_spec s.bindTaken d (x := { x with claims := x.claims - 1 }) hw (some o) b.region
      refine ⟨_, ({ x with claims := x.claims - 1 } : Name).rebound (some o) b.region, hexec.trans (congrArg Host.Outcome.next happly), ?_,
        rfl, rfl, rfl, ?_⟩
      · rw [← key_of_name? hx]
        exact hbound rfl
      rw [hobjs, if_pos hst, State.letGo, objOf_setObj, objOf_bindTaken]
    · have happly := applyBind_applies (s := s.bindTaken) (d := d) (by rw [hname, hx]; exact fun h => by rw [hst] at h; exact absurd h nofun)
        (by rw [hfull]; exact fullFor_of_some hx) hhost
      have hc : n.claimed b.key = { x with claims := x.claims - 1 } := by rw [Nd.claimed, hx]; rfl
      rw [hclaimed, hc, hobj] at happly
      obtain ⟨-, hobjs, -, hspent, -⟩ := rebind_spec s.bindTaken d (x := { x with claims := x.claims - 1 }) hw none b.region
      refine ⟨_, hexec.trans (congrArg Host.Outcome.next happly), ?_, ?_⟩
      · have hzero : x.claims - 1 = 0 := by omega
        rw [← key_of_name? hx]
        refine hspent ?_
        simp [Name.spent, Name.rebound, hw, hheld, hzero]
      · rw [hobjs, if_pos hst, State.letGo, objOf_setObj, objOf_bindTaken]
    · have happly := applyBind_held (s := s.bindTaken) (d := d) (hname.trans hx) hst
      refine ⟨_, hexec.trans (congrArg Host.Outcome.next happly), ?_⟩
      rw [nd_updNd, ← key_of_name? hx]
      exact name?_putName _ { x with held := x.held ++ [b] }

end Sys2Proof.Machine
end

section
/-! PROOFS of name transactions: prepares, votes, decisions, acknowledgements and doubt (25_name_directory.md R332 to R334, 26_nd_instructions.md R346). -/

namespace Sys2Proof.Machine

open Sys2Proof.Safety

/-! ### What writes of the firmware to objects leave (22_task_dispatcher.md R296) -/

/-- Objects, their frames and bytes, and what is remembered of their translations may change from s to t, and nothing else. -/
structure ObjectsOnly (s t : State) : Prop where
  rest : ∃ c m b ti di fr cw ms, t = { s with freeCtr := c, mem := m, bad := b, tiles := ti, dies := di, frames := fr, cow := cw, msix := ms }
  die : ∀ d, ∃ o c v, t.die d = { s.die d with nd := { (s.die d).nd with objs := o }, tableCache := c, td := { (s.die d).td with saved := v } }
  tile : ∀ d i, ∃ a b c, t.tile d i = { s.tile d i with tlb := a, ags := b, reqs := c }

section Objects

variable {s t u : State}

theorem ObjectsOnly.refl (s : State) : ObjectsOnly s s :=
  ⟨⟨_, _, _, _, _, _, _, _, rfl⟩, fun _ => ⟨_, _, _, rfl⟩, fun _ _ => ⟨_, _, _, rfl⟩⟩

theorem ObjectsOnly.trans (h : ObjectsOnly s t) (g : ObjectsOnly t u) : ObjectsOnly s u := by
  refine ⟨?_, fun d => ?_, fun d i => ?_⟩
  · obtain ⟨c, m, b, ti, di, fr, cw, ms, rfl⟩ := h.rest
    obtain ⟨c', m', b', ti', di', fr', cw', ms', rfl⟩ := g.rest
    exact ⟨_, _, _, _, _, _, _, _, rfl⟩
  · obtain ⟨o, c, v, hd⟩ := h.die d
    obtain ⟨o', c', v', hd'⟩ := g.die d
    exact ⟨o', c', v', by rw [hd', hd]⟩
  · obtain ⟨a, b, c, ht⟩ := h.tile d i
    obtain ⟨a', b', c', ht'⟩ := g.tile d i
    exact ⟨a', b', c', by rw [ht', ht]⟩

/-- A change of fields of the state that are neither tiles nor dies. -/
theorem ObjectsOnly.of_same (htiles : t.tiles = s.tiles) (hdies : t.dies = s.dies)
    (h : ∃ c m b fr cw ms, t = { s with freeCtr := c, mem := m, bad := b, frames := fr, cow := cw, msix := ms }) : ObjectsOnly s t := by
  refine ⟨?_, fun d => ⟨(s.die d).nd.objs, (s.die d).tableCache, (s.die d).td.saved, ?_⟩, fun d i => ⟨(s.tile d i).tlb, (s.tile d i).ags, (s.tile d i).reqs, ?_⟩⟩
  · obtain ⟨c, m, b, fr, cw, ms, rfl⟩ := h
    exact ⟨_, _, _, _, _, _, _, _, rfl⟩
  · rw [State.die, hdies]
    rfl
  · exact tile_of_tiles htiles d i

theorem objectsOnly_setObj (s : State) (id : BitVec 32) (o : Obj) : ObjectsOnly s (s.setObj id o) := by
  refine ⟨⟨_, _, _, _, _, _, _, _, rfl⟩, fun d => ?_, fun d i => ⟨_, _, _, rfl⟩⟩
  by_cases h : d = objDie id
  · rw [h, State.setObj, State.updNd, State.die_updDie]
    exact ⟨_, (s.die (objDie id)).tableCache, (s.die (objDie id)).td.saved, rfl⟩
  · rw [State.setObj, State.updNd, State.die_updDie_ne _ _ h]
    exact ⟨(s.die d).nd.objs, (s.die d).tableCache, (s.die d).td.saved, rfl⟩

theorem objectsOnly_invalidate (s : State) (id : BitVec 32) (j : Option Nat) : ObjectsOnly s (s.invalidate id j) := by
  refine ⟨⟨_, _, _, _, _, _, _, _, rfl⟩, fun d => ?_, fun d i => ?_⟩
  · have h : (s.invalidate id j).die d = (s.die d).invalidate (some id) j :=
      look_map ({} : Die) (fun _ x => x.invalidate (some id) j) (fun _ => rfl) s.dies d
    exact ⟨(s.die d).nd.objs, _, _, h⟩
  · have h : (s.invalidate id j).tile d i = ((s.tile d i).invalidate (some id) j).forget id j :=
      look_map ({} : Tile) (fun _ x => (x.invalidate (some id) j).forget id j) (fun _ => rfl) s.tiles (d * 144 + i)
    exact ⟨_, _, _, h⟩

theorem objectsOnly_writeAt (s : State) (k : Nat) (bs : List Byte) : ObjectsOnly s (s.writeAt k bs) := .of_same rfl rfl ⟨_, _, _, _, _, _, rfl⟩

theorem objectsOnly_dropFrame (s : State) (a n : Nat) : ObjectsOnly s (s.dropFrame a n) := .of_same rfl rfl ⟨_, _, _, _, _, _, rfl⟩

theorem objectsOnly_copyFrame (s : State) (a b n : Nat) : ObjectsOnly s (s.copyFrame a b n) := .of_same rfl rfl ⟨_, _, _, _, _, _, rfl⟩

theorem objectsOnly_cow (s : State) (l : List Cow) : ObjectsOnly s { s with cow := l } := .of_same rfl rfl ⟨_, _, _, _, _, _, rfl⟩

theorem objectsOnly_takeFrame {a n r : Nat} {f : Frame} (h : s.takeFrame a n r = some (f, t)) : ObjectsOnly s t := by
  unfold State.takeFrame at h
  simp only at h
  split at h
  · cases h
  · split at h <;> cases h
    exact .of_same rfl rfl ⟨_, _, _, _, _, _, rfl⟩

theorem objectsOnly_cowIndex (s : State) (id : BitVec 32) (j : Nat) : ObjectsOnly s (s.cowIndex id j).2 := by
  unfold State.cowIndex
  simp only
  split
  next => exact .refl s
  next =>
    split
    next => exact (objectsOnly_setObj ..).trans (objectsOnly_invalidate ..)
    next =>
      split
      next => exact .refl s
      next =>
        split
        next => exact .refl s
        next h => exact (objectsOnly_takeFrame h).trans (objectsOnly_cow ..)

theorem objectsOnly_finishCow (s : State) (c : Cow) : ObjectsOnly s (s.finishCow c) := by
  unfold State.finishCow
  simp only
  split
  next => exact objectsOnly_dropFrame ..
  next => exact (((objectsOnly_copyFrame ..).trans (objectsOnly_setObj ..)).trans (objectsOnly_invalidate ..)).trans (objectsOnly_dropFrame ..)

theorem objectsOnly_unshare {id : BitVec 32} {i : Nat} (h : s.unshare id i = some t) : ObjectsOnly s t := by
  have hcow := objectsOnly_cowIndex s id
    (Desc.locate (s.objOf id).desc (rasterAt {} ⟨Desc.ext (s.objOf id).desc 0, Desc.ext (s.objOf id).desc 1, Desc.ext (s.objOf id).desc 2,
      Desc.ext (s.objOf id).desc 3⟩ (i * 8 / Desc.bits (s.objOf id).desc))).1
  unfold State.unshare at h
  simp only at h
  split at h
  next v e =>
    rw [e] at hcow
    split at h <;> cases h
    · exact hcow.trans ((objectsOnly_cow ..).trans (objectsOnly_finishCow ..))
    · exact hcow
  next => cases h
  next v e =>
    rw [e] at hcow
    cases h
    exact hcow

theorem objectsOnly_objWrite (id : BitVec 32) : ∀ (bs : List Byte) (s : State) (a : Nat), ObjectsOnly s (s.objWrite id a bs)
  | [], s, _ => .refl s
  | b :: bs, s, a => by
    refine ObjectsOnly.trans ?_ (objectsOnly_objWrite id bs _ (a + 1))
    split
    next => exact .refl s
    next t ht =>
      split
      next => exact (objectsOnly_unshare ht).trans (objectsOnly_writeAt ..)
      next => exact objectsOnly_unshare ht

theorem objectsOnly_post (s : State) (r k : Nat) (a b c : Word64) : ObjectsOnly s (s.post r k a b c) := by
  unfold State.post
  split
  next => exact .refl s
  next => exact ((objectsOnly_objWrite ..).trans (objectsOnly_objWrite ..)).trans (.of_same rfl rfl ⟨_, _, _, _, _, _, rfl⟩)

theorem ObjectsOnly.moduleId (h : ObjectsOnly s t) : t.moduleId = s.moduleId := by
  obtain ⟨c, m, b, ti, di, fr, cw, ms, rfl⟩ := h.rest
  rfl

end Objects

/-! ### Prepares (R333) -/

section Prepares

variable {s : State} {d : Nat} {p : Prepare} {key h : Word64}

theorem prepareName_held {x : Name} (hx : (s.nd d).name? key = some x) (hst : x.state = .prepared) : s.prepareName d p key h = .error 1 := by
  rw [State.prepareName, hx]
  exact if_pos hst

section Absent

variable (hx : (s.nd d).name? key = none) (hroom : (s.nd d).names.length < 65536)
include hx hroom

theorem prepareName_stale (hh : h ≠ 0#64) (hreach : s.reach p.region h = none) : s.prepareName d p key h = .error 6 := by
  have hfull := fullFor_of_room hroom key
  rw [State.prepareName, hx]
  exact (if_neg nofun).trans ((if_neg (Bool.eq_false_iff.mp hfull)).trans (if_pos ⟨hh, by rw [hreach]; rfl⟩))

theorem prepareName_unbinds (hh : h = 0#64) : s.prepareName d p key h = .ok (s.updNd d fun n => n.putName
    { key := key, state := .prepared, txn := p.txn, since := s.cycle, newRegion := p.region }) := by
  have hfull := fullFor_of_room hroom key
  subst hh
  rw [State.prepareName, hx]
  exact (if_neg nofun).trans ((if_neg (Bool.eq_false_iff.mp hfull)).trans (if_neg fun h => h.1 rfl))

end Absent

section Request

variable (hp : (s.nd s.focus.die).prepares[s.index]? = some p) (hearly : (s.nd s.focus.die).early p.stamp (p.entries.map (·.1)) = false)

/-- Prepare `index` has left its queue. -/
def State.prepareTaken (s : State) : State := s.updNd s.focus.die fun z => { z with prepares := dropAt z.prepares s.index }

include hp hearly

theorem execPrepareRequest_yes {v : State} (hv : s.prepareTaken.prepareNames s.focus.die p p.entries = (none, v)) :
    exec .prepareRequest s = .next (v.send s.focus.die p.coord (.vote (fldN p.txn 0 6) s.focus.die true 0)) := by
  have hv' : (s.updNd s.focus.die fun n => { n with prepares := dropAt n.prepares s.index }).prepareNames s.focus.die p p.entries = (none, v) := hv
  show execPrepareRequest s = _
  rw [execPrepareRequest]
  simp only [hp, hearly, Bool.false_eq_true, if_false, hv']

theorem execPrepareRequest_no {c : Nat} {v : State} (hv : s.prepareTaken.prepareNames s.focus.die p p.entries = (some c, v)) :
    exec .prepareRequest s = .next ((v.applyDecision s.focus.die p.txn false).send s.focus.die p.coord
      (.vote (fldN p.txn 0 6) s.focus.die false c)) := by
  have hv' : (s.updNd s.focus.die fun n => { n with prepares := dropAt n.prepares s.index }).prepareNames s.focus.die p p.entries = (some c, v) := hv
  show execPrepareRequest s = _
  rw [execPrepareRequest]
  simp only [hp, hearly, Bool.false_eq_true, if_false, hv']

end Request

end Prepares

/-! ### Votes (R333) -/

section Votes

variable {s : State}

/-- Vote `index` has left its queue. -/
def State.voteTaken (s : State) : State := s.updNd s.focus.die fun z => { z with voteIn := dropAt z.voteIn s.index }

theorem txn?_voteTaken (s : State) (t : Nat) : (s.voteTaken.nd s.focus.die).txn? t = (s.nd s.focus.die).txn? t := by
  rw [State.voteTaken, nd_updNd]
  rfl

variable {t h c : Nat} {yes : Bool} {x : Txn} (hv : (s.nd s.focus.die).voteIn[s.index]? = some (t, h, yes, c))
  (hx : (s.nd s.focus.die).txn? t = some x) (hphase : x.phase = .preparing) (hh : h ∈ x.votes)
include hv hx hphase hh

theorem execPrepareReplyArrival_counts : exec .prepareReplyArrival s = .next (
    if yes = false then s.voteTaken.txnDecide s.focus.die t false c ((s.txnHomes x).filter fun k => k != h)
    else if (x.votes.filter fun k => k != h) = [] then s.voteTaken.txnDecide s.focus.die t true 0 (s.txnHomes x)
    else s.voteTaken.updTxn s.focus.die t fun z => { z with votes := x.votes.filter fun k => k != h }) := by
  have hx' : ((s.updNd s.focus.die fun n => { n with voteIn := dropAt n.voteIn s.index }).nd s.focus.die).txn? t = some x :=
    (txn?_voteTaken s t).trans hx
  have hgate : ¬ (x.phase ≠ .preparing ∨ x.votes.contains h = false) := by simp [hphase, hh]
  show execPrepareReplyArrival s = _
  rw [execPrepareReplyArrival]
  simp only [hv, hx', if_neg hgate]
  rfl

end Votes

theorem execVoteLimitExpiry_eq {s : State} {x : Txn} (hx : (s.nd s.focus.die).txn? s.index = some x) (h : Nat) : exec (.voteLimitExpiry h) s =
    .next (if x.phase = .preparing ∧ x.votes.contains h = true ∧ x.sentAt + s.voteLimit s.focus.die h ≤ s.cycle then
      s.txnDecide s.focus.die x.id false 2 (s.txnHomes x) else s) := by
  show execVoteLimitExpiry h s = _
  rw [execVoteLimitExpiry]
  simp only [hx]

/-! ### Decisions (R333) -/

section Decisions

variable {s : State} {d : Nat}

theorem txns_updTxn_single {x : Txn} (h : (s.nd d).txns = [x]) (f : Txn → Txn) :
    (s.updTxn d x.id f).nd d = { s.nd d with txns := [f x] } := by
  rw [State.updTxn, nd_updNd, h]
  simp

theorem txn?_single {n : Nd} {x : Txn} (h : n.txns = [x]) : n.txn? x.id = some x := by
  rw [Nd.txn?, h]
  simp

/-- A transaction that a home has still to acknowledge has no outcome yet. -/
theorem txnSettled_of_acks {x : Txn} {t : Nat} (hx : (s.nd d).txn? t = some x) (hacks : x.acks ≠ []) : s.txnSettled d t = s := by
  rw [State.txnSettled, hx]
  exact if_pos (.inl hacks)

theorem txnSettled_committed {x : Txn} {t : Nat} (hx : (s.nd d).txn? t = some x) (hacks : x.acks = []) (hphase : x.phase = .committed)
    (htaken : x.taken = false) (hhost : x.host = none) :
    s.txnSettled d t = s.updTxn d t fun y => { y with outcome := some (shownCode (x.outcome.getD x.code)) } := by
  rw [State.txnSettled, hx]
  simp only [hacks, hphase, htaken, hhost, ne_eq, not_true_eq_false, false_and, or_self, if_false, Bool.false_eq_true]

/-- A transaction once it is decided, with its homes still to acknowledge. -/
def Txn.decided (x : Txn) (now : Nat) (commit : Bool) (code : Nat) (homes : List Nat) : Txn :=
  { x with phase := if commit then .committed else .aborted, votes := [], acks := homes, decidedAt := now, code := code }

/-- The decision on the only transaction of a coordinator that is its only home. -/
theorem nd_txnDecide_own {x : Txn} (h : (s.nd d).txns = [x]) (commit : Bool) (code : Nat) : (s.txnDecide d x.id commit code [d]).nd d =
    { s.nd d with txns := [x.decided s.cycle commit code [d]]
                  decisions := (s.nd d).decisions ++ [⟨s.txnId d x.id, d, commit, (s.nd d).arrived⟩], arrived := (s.nd d).arrived + 1 } := by
  let s1 := s.updTxn d x.id fun x => x.decided s.cycle commit code [d]
  have hs1 : s1.nd d = { s.nd d with txns := [x.decided s.cycle commit code [d]] } := txns_updTxn_single h _
  let s2 := s1.send d d (.decision (s.txnId d x.id) d commit)
  have hs2 : s2.nd d = { s1.nd d with
      decisions := (s1.nd d).decisions ++ [⟨s.txnId d x.id, d, commit, (s1.nd d).arrived⟩], arrived := (s1.nd d).arrived + 1 } :=
    (congrArg (State.nd · d) (send_self (s := s1) rfl (.decision (s.txnId d x.id) d commit))).trans (nd_updNd ..)
  rw [hs1] at hs2
  have htxn : (s2.nd d).txn? x.id = some (x.decided s.cycle commit code [d]) :=
    txn?_single (x := x.decided s.cycle commit code [d]) (by rw [hs2])
  have hdecide : s.txnDecide d x.id commit code [d] = s2.txnSettled d x.id := rfl
  rw [hdecide, txnSettled_of_acks htxn (by exact List.cons_ne_nil _ _), hs2]

theorem execDecisionArrival_applies {id : BitVec 32} {coord k : Nat} {commit : Bool} (hx : (s.nd s.focus.die).decisions[s.index]? = some ⟨id, coord, commit, k⟩)
    (hearly : (s.nd s.focus.die).early k ((s.nd s.focus.die).keysOf id) = false) : exec .decisionArrival s =
      .next (((s.updNd s.focus.die fun n => { n with decisions := dropAt n.decisions s.index }).applyDecision s.focus.die id commit).send
        s.focus.die coord (.decisionAck (fldN id 0 6) s.focus.die)) := by
  show execDecisionArrival s = _
  rw [execDecisionArrival]
  simp only [hx, hearly, Bool.false_eq_true, if_false]

/-- A PREPARED entry as it was before, without its transaction. -/
def Name.restored (x : Name) : Name := { x with state := x.before, txn := 0#32, newobj := 0#32, held := [], doubt := false }

/-- The decision on the only name of a slice, which its transaction holds. -/
theorem applyDecision_single {x : Name} {id : BitVec 32} {commit : Bool} (hnames : (s.nd d).names = [x]) (hst : x.state = .prepared) (htxn : x.txn = id)
    (hheld : x.held = []) : s.applyDecision d id commit =
      (if commit then s.rebind d x.restored (if x.newobj = 0#32 then none else some x.newobj) x.newRegion
        else ((if x.newobj = 0#32 then s else s.letGo x.newobj).updNd d fun n => n.putName x.restored).serve d x.key).updNd d fun n => n.tidy x.key := by
  have hfilter : ((s.nd d).names.filter fun x => x.state == .prepared && x.txn == id) = [x] := by
    rw [hnames]
    simp [hst, htxn]
  rw [State.applyDecision, hfilter, List.foldl_cons, List.foldl_nil, State.leavePrepared, hheld]
  rfl

/-- What a decision leaves of a slice whose only name was unbound, or bound, before. -/
structure Decides (s : State) (d : Nat) (y : Name) (u : State) : Prop where
  names : (u.nd d).names = [y]
  ackIn : (u.nd d).ackIn = (s.nd d).ackIn
  decisions : (u.nd d).decisions = (s.nd d).decisions

section Applied

variable {x : Name} (hnames : (s.nd d).names = [x]) (hst : x.state = .prepared) (hw : x.waiters = []) (hheld : x.held = [])
include hnames hst hw hheld

theorem applyDecision_commits (hbefore : x.before = .unbound) (hobj : x.newobj ≠ 0#32) :
    Decides s d (x.restored.rebound (some x.newobj) x.newRegion) (s.applyDecision d x.txn true) := by
  obtain ⟨⟨l, o, hframe⟩, -, -, -, hsingle⟩ := rebind_spec s d (x := x.restored) hw (some x.newobj) x.newRegion
  have heq := applyDecision_single (commit := true) hnames hst rfl hheld
  rw [if_pos rfl, if_neg hobj] at heq
  have hsingle' := hsingle rfl x hnames rfl
  rw [heq]
  refine ⟨?_, ?_, ?_⟩
  · rw [nd_updNd]
    exact names_tidy_single hsingle' rfl _
  · have hkept := congrArg Nd.ackIn hframe
    rw [nd_updNd]
    exact hkept
  · have hkept := congrArg Nd.decisions hframe
    rw [nd_updNd]
    exact hkept

theorem applyDecision_aborts (hbefore : x.before = .bound) (hobj : x.newobj = 0#32) : Decides s d x.restored (s.applyDecision d x.txn false) := by
  have hput : ((s.updNd d fun n => n.putName x.restored).nd d).name? x.restored.key = some x.restored := by
    rw [nd_updNd]
    exact name?_putName _ _
  obtain ⟨g, hg, hframe, -, -, hsingle⟩ := serve_of_no_waiters hput hw (by rw [show x.restored.state = x.before from rfl, hbefore]; exact nofun)
  have heq := applyDecision_single (commit := false) hnames hst rfl hheld
  rw [if_neg nofun, if_pos hobj] at heq
  have hnd : (s.applyDecision d x.txn false).nd d = (g ((s.nd d).putName x.restored)).tidy x.key := by
    rw [heq, show x.key = x.restored.key from rfl, hg, nd_updNd, nd_updNd, nd_updNd]
  refine ⟨?_, ?_, ?_⟩
  · rw [hnd]
    exact names_tidy_single (hsingle hbefore _ x.restored (names_putName_single hnames rfl) rfl) (spent_of_bound hbefore) _
  · have hserved := congrArg Nd.ackIn (hframe ((s.nd d).putName x.restored))
    have hput := congrArg Nd.ackIn (putName_frame (s.nd d) x.restored)
    rw [hnd]
    exact hserved.trans hput
  · have hserved := congrArg Nd.decisions (hframe ((s.nd d).putName x.restored))
    have hput := congrArg Nd.decisions (putName_frame (s.nd d) x.restored)
    rw [hnd]
    exact hserved.trans hput

end Applied

theorem nd_send_decisionAck (s : State) (d t : Nat) : (s.send d d (.decisionAck t d)).nd d = { s.nd d with ackIn := (s.nd d).ackIn ++ [(t, d)] } :=
  (congrArg (State.nd · d) (send_self (s := s) rfl (.decisionAck t d))).trans (nd_updNd ..)

end Decisions

/-! ### Outcomes and doubt (R333, R334, R346) -/

section Outcomes

variable {s : State}

theorem execDecisionAckArrival_eq {t h : Nat} (ha : (s.nd s.focus.die).ackIn[s.index]? = some (t, h)) : exec .decisionAckArrival s =
    .next (((s.updNd s.focus.die fun n => { n with ackIn := dropAt n.ackIn s.index }).updTxn s.focus.die t fun x =>
      { x with acks := x.acks.filter fun k => k != h }).txnSettled s.focus.die t) := by
  show execDecisionAckArrival s = _
  rw [execDecisionAckArrival]
  simp only [ha]

theorem execNtxcAckTimer_committed {x : Txn} (hx : (s.nd s.focus.die).txn? s.index = some x) (hphase : x.phase = .committed) (hout : x.outcome = none)
    (hhost : x.host = none) : exec .ntxcAckTimer s =
      .next (if s.cycle < x.decidedAt + 1250000 then s else s.updTxn s.focus.die x.id fun y => { y with outcome := some 5 }) := by
  show execNtxcAckTimer s = _
  rw [execNtxcAckTimer]
  simp only [hx, hphase, hout, hhost, true_or, not_true_eq_false, Option.isSome_none, Bool.false_eq_true, false_or, if_true]
  rfl

section Doubt

variable {key : Word64} {x : Name} (hx : (s.nd s.focus.die).name? key = some x) (hst : x.state = .prepared)
include hx hst

theorem execTxnIndoubt_early (h : s.cycle < x.since + 1250000) : exec (.txnIndoubt key) s = .next s := by
  show execTxnIndoubt key s = _
  rw [execTxnIndoubt]
  simp only [hx, h, or_true, if_true]

/-- The region is told once of a name in doubt, and its coordinator is asked. -/
theorem execTxnIndoubt_asks (h : x.since + 1250000 ≤ s.cycle) : exec (.txnIndoubt key) s =
    .next (((if x.doubt then s else s.post x.region 10 (x.txn.setWidth 64) key 0#64).updNd s.focus.die fun z =>
      z.putName { x with since := s.cycle, doubt := true }).send s.focus.die (s.txnHub x.txn) (.inquiry { txn := x.txn, home := s.focus.die, key := key })) := by
  have hmodule (u : State) (hu : ObjectsOnly s u) : u.txnHub x.txn = s.txnHub x.txn := by
    rw [State.txnHub, State.txnHub, State.hub, State.hub, hu.moduleId]
  have hold : ObjectsOnly s (if x.doubt then s else s.post x.region 10 (x.txn.setWidth 64) key 0#64) := by
    split
    · exact .refl s
    · exact objectsOnly_post ..
  have hgate : ¬ (x.state ≠ .prepared ∨ s.cycle < x.since + 1250000) := not_or.mpr ⟨not_not.mpr hst, Nat.not_lt.mpr h⟩
  rw [← hmodule _ hold]
  show execTxnIndoubt key s = _
  rw [execTxnIndoubt]
  simp only [hx, if_neg hgate]
  rw [← key_of_name? hx]
  rfl

theorem execTxnSettle_home (hinq : (s.nd s.focus.die).inquiries = []) :
    exec (.txnSettle key) s = .next (if x.doubt = true then s.askCoordinator s.focus.die x else s) := by
  show execTxnSettle key s = _
  rw [execTxnSettle]
  simp only [hinq, List.find?_nil, hx, hst, true_and]

end Doubt

/-- The coordinator answers the only question that has come. -/
theorem execTxnSettle_answers {q : Inquiry} (hq : (s.nd s.focus.die).inquiries = [q]) : exec (.txnSettle q.key) s = .next (
    (s.verdict s.focus.die q.txn).elim (s.updNd s.focus.die fun z => { z with inquiries := [] }) fun c =>
      (s.updNd s.focus.die fun z => { z with inquiries := [] }).send s.focus.die q.home (.decision q.txn s.focus.die c)) := by
  have hfind : ((s.nd s.focus.die).inquiries.find? fun x => x.key == q.key) = some q := by
    rw [hq]
    simp
  have hleft : (s.updNd s.focus.die fun n => { n with inquiries := eraseOne q n.inquiries }) = s.updNd s.focus.die fun z => { z with inquiries := [] } := by
    have hone : eraseOne q (s.die s.focus.die).nd.inquiries = [] := by
      rw [show (s.die s.focus.die).nd.inquiries = [q] from hq]
      exact if_pos rfl
    rw [State.updNd, State.updDie, State.updNd, State.updDie, hone]
  show execTxnSettle q.key s = _
  rw [execTxnSettle]
  simp only [hfind, hleft]
  cases s.verdict s.focus.die q.txn <;> rfl

end Outcomes

/-- Settles O42. -/
theorem transactions : Obligations.Transactions := by
  intro s d n
  refine ⟨?_, ?_, ?_, ?_, ?_, ?_, ?_, ?_, ?_, ?_⟩
  · intro p hp hearly y
    exact ⟨fun v hv => execPrepareRequest_yes hp hearly hv, fun c v hv => execPrepareRequest_no hp hearly hv⟩
  · intro p key h
    refine ⟨fun x hx hst => prepareName_held hx hst, fun hx hroom hh hreach => ⟨prepareName_stale hx hroom hh hreach, rfl⟩,
      fun hx hroom hh => ⟨_, prepareName_unbinds hx hroom hh, ?_⟩⟩
    rw [nd_updNd]
    exact name?_putName _ { key := key, state := .prepared, txn := p.txn, since := s.cycle, newRegion := p.region }
  · intro t h yes c x hv hx hphase hh y
    rw [execPrepareReplyArrival_counts hv hx hphase hh]
    refine ⟨fun hno => by rw [if_pos hno]; rfl, fun hyes hlast => ?_, fun hyes hmore => ?_⟩
    · rw [if_neg (by rw [hyes]; exact nofun), if_pos (by rw [hlast]; simp)]
      rfl
    · obtain ⟨k, hk, hne⟩ := hmore
      have hrest : (x.votes.filter fun k => k != h) ≠ [] := List.ne_nil_of_mem (List.mem_filter.mpr ⟨hk, by simpa using hne⟩)
      rw [if_neg (by rw [hyes]; exact nofun), if_neg hrest]
      rfl
  · intro h x hx
    rw [execVoteLimitExpiry_eq hx h]
    refine ⟨fun hphase hh htime => ?_, fun htime => ?_⟩
    · rw [if_pos ⟨hphase, by simpa using hh, htime⟩]
    · rw [if_neg fun h' => absurd h'.2.2 (Nat.not_le.mpr htime)]
  · intro x commit code hx
    rw [nd_txnDecide_own hx]
    exact ⟨rfl, rfl⟩
  · intro id commit k x hdec hearly hnames hst htxn hw hheld
    subst htxn
    let v := s.updNd d fun n => { n with decisions := dropAt n.decisions s.index }
    have hv : v.nd d = { n with decisions := dropAt n.decisions s.index } := nd_updNd ..
    have hvnames : (v.nd d).names = [x] := by rw [hv]; exact hnames
    have hack : (v.nd d).ackIn = (s.nd d).ackIn := by rw [hv]
    have hexec := execDecisionArrival_applies hdec hearly
    refine ⟨fun hcommit hbefore hobj => ?_, fun hcommit hbefore hobj => ?_⟩
    · subst hcommit
      obtain ⟨hn, ha, hd'⟩ := applyDecision_commits hvnames hst hw hheld hbefore hobj
      refine ⟨_, x.restored.rebound (some x.newobj) x.newRegion, hexec, ?_, rfl, rfl, rfl, ?_, ?_⟩
      · rw [nd_send_decisionAck]
        exact hn
      · rw [nd_send_decisionAck]
        exact congrArg (· ++ _) (ha.trans hack)
      · rw [nd_send_decisionAck]
        exact hd'.trans (congrArg Nd.decisions hv)
    · subst hcommit
      obtain ⟨hn, ha, -⟩ := applyDecision_aborts hvnames hst hw hheld hbefore hobj
      refine ⟨_, x.restored, hexec, ?_, hbefore, rfl, rfl, ?_⟩
      · rw [nd_send_decisionAck]
        exact hn
      · rw [nd_send_decisionAck]
        exact congrArg (· ++ _) (ha.trans hack)
  · intro t h x ha htxns hid hacks hphase htaken hhost
    subst hid
    let v := s.updNd d fun n => { n with ackIn := dropAt n.ackIn s.index }
    have hv : v.nd d = { n with ackIn := dropAt n.ackIn s.index } := nd_updNd ..
    have hvtxns : (v.nd d).txns = [x] := by rw [hv]; exact htxns
    let w := v.updTxn d x.id fun x => { x with acks := x.acks.filter fun k => k != h }
    have hw : w.nd d = { v.nd d with txns := [{ x with acks := [] }] } := by
      refine (txns_updTxn_single hvtxns _).trans ?_
      rw [hacks]
      simp
    have hwtxn : (w.nd d).txn? x.id = some { x with acks := [] } := txn?_single (x := { x with acks := [] }) (by rw [hw])
    have hsettled := txnSettled_committed hwtxn rfl hphase htaken hhost
    have hnd := txns_updTxn_single (s := w) (d := d) (x := { x with acks := [] }) (by rw [hw]) fun y => { y with outcome := some (shownCode (x.outcome.getD x.code)) }
    refine ⟨_, (execDecisionAckArrival_eq ha).trans (congrArg Host.Outcome.next hsettled), ?_, ?_⟩
    · refine (congrArg Nd.ackIn hnd).trans ?_
      rw [hw, hv]
    · exact congrArg Nd.txns hnd
  · intro x hx hphase hout hhost
    rw [execNtxcAckTimer_committed hx hphase hout hhost]
    exact ⟨fun h => by rw [if_neg (Nat.not_lt.mpr h)], fun h => by rw [if_pos h]⟩
  · intro key x hx hst
    refine ⟨fun h => execTxnIndoubt_early hx hst h, fun h => execTxnIndoubt_asks hx hst h, fun hinq hdoubt => ?_, fun hinq hdoubt => ?_⟩
    · rw [execTxnSettle_home hx hst hinq, if_pos hdoubt]
    · rw [execTxnSettle_home hx hst hinq, if_neg (Bool.eq_false_iff.mp hdoubt)]
  · intro q hq y
    rw [execTxnSettle_answers hq]
    refine ⟨fun c hc => by rw [hc]; rfl, fun hc => by rw [hc]; rfl, fun hx => ?_, fun x hx => ⟨fun hphase => ?_, fun hphase => ?_, fun hphase => ?_⟩⟩
    · rw [State.verdict, show (s.nd d).txn? (fldN q.txn 0 6) = none from hx]
    · rw [State.verdict, show (s.nd d).txn? (fldN q.txn 0 6) = some x from hx]
      simp only [hphase, if_true]
    · rw [State.verdict, show (s.nd d).txn? (fldN q.txn 0 6) = some x from hx]
      simp only [hphase]
      rfl
    · rw [State.verdict, show (s.nd d).txn? (fldN q.txn 0 6) = some x from hx]
      rcases hphase with hphase | hphase <;> simp only [hphase] <;> rfl

end Sys2Proof.Machine
end

section
/-! PROOFS of task records: decrements, kills, completions and the ends of tasks (22_task_dispatcher.md R290 to R292, R301, R302,
23_td_instructions.md R313, R320). -/

namespace Sys2Proof.Machine

open Sys2Proof.Safety

/-! ### Fields of a task record -/

section Fields

variable (r : Vec)

theorem count_setFld_count {c : Nat} (h : c < 65536) : Rec.count (setFld r 24 16 c) = c := by
  refine (fldN_setFld_inside (k := 0) (w := 16) c (by decide) (by decide)).trans ?_
  simp only [Nat.pow_zero, Nat.div_one, Nat.mod_mod]
  exact Nat.mod_eq_of_lt h

theorem state_setFld_count (c : Nat) : Rec.state (setFld r 24 16 c) = Rec.state r :=
  fldN_setFld_outside c (by decide) (Or.inr (by decide))

theorem state_setFld_state {st : Nat} (h : st < 16) : Rec.state (setFld r 60 4 st) = st := by
  refine (fldN_setFld_inside (k := 0) (w := 4) st (by decide) (by decide)).trans ?_
  simp only [Nat.pow_zero, Nat.div_one, Nat.mod_mod]
  exact Nat.mod_eq_of_lt h

theorem count_lt : Rec.count r < 65536 := Nat.mod_lt _ (by decide)

/-- What a record holds outside its STATE and its STATUS word stays when a task ends. -/
theorem fldN_ended {k w st : Nat} {v : Nat} (h : k + w ≤ 60 ∨ 64 ≤ k ∧ k + w ≤ 320 ∨ 384 ≤ k) :
    fldN (setFld (setFld r 320 64 v) 60 4 st) k w = fldN r k w := by
  rw [fldN_setFld_outside st (by decide) (by omega), fldN_setFld_outside v (by decide) (by omega)]

/-- The STATUS word of a record, as it was written. -/
theorem status_ended (v : Word64) (st : Nat) : fld (setFld (setFld r 320 64 v.toNat) 60 4 st) 320 64 = v := by
  apply BitVec.eq_of_toNat_eq
  rw [fld, BitVec.toNat_ofNat]
  show fldN _ 320 64 = _
  rw [fldN_setFld_outside st (by decide) (Or.inr (by decide))]
  refine (fldN_setFld_inside (k := 0) (w := 64) v.toNat (by decide) (by decide)).trans ?_
  simp only [Nat.pow_zero, Nat.div_one, Nat.mod_mod]
  exact Nat.mod_eq_of_lt v.isLt

/-- The bits of STATUS above 46 are all kept when it is read. -/
theorem status_field (r : Vec) {k w : Nat} (hk : 48 ≤ k) : fldN (Rec.status r) k w = fldN (fld r 320 64) k w := by
  have h : (Rec.status r).toNat / 2 ^ 48 = (fld r 320 64).toNat / 2 ^ 48 := by
    have hb : Rec.status r >>> 48 = fld r 320 64 >>> 48 := by
      rw [Rec.status, BitVec.ushiftRight_and_distrib]
      apply BitVec.eq_of_getLsbD_eq
      intro i hi
      rw [BitVec.getLsbD_and]
      by_cases h16 : i < 16
      · have : ∀ i < 16, ((0xFFFFC000FFFFFFFF#64) >>> 48).getLsbD i = true := by decide
        rw [this i h16, Bool.and_true]
      · rw [BitVec.getLsbD_ushiftRight, BitVec.getLsbD_of_ge _ _ (by omega), Bool.false_and]
    have hn := congrArg BitVec.toNat hb
    rwa [BitVec.toNat_ushiftRight, BitVec.toNat_ushiftRight, Nat.shiftRight_eq_div_pow, Nat.shiftRight_eq_div_pow] at hn
  obtain ⟨j, rfl⟩ := Nat.exists_eq_add_of_le hk
  rw [fldN, fldN, Nat.pow_add, ← Nat.div_div_eq_div_mul, ← Nat.div_div_eq_div_mul, h]

/-- CAUSE and EXIT of a task that has ended (R302). -/
theorem endStatus_fields (x : Slot) {cause exit : Nat} (hc : cause < 256) (he : (x.reported.map (·.2)).foldl max exit < 256) :
    fldN (x.endStatus cause exit) 56 8 = cause ∧ fldN (x.endStatus cause exit) 48 8 = (x.reported.map (·.2)).foldl max exit := by
  constructor
  · rw [Slot.endStatus, fldN_setFld_outside _ (by decide) (Or.inr (by decide))]
    refine (fldN_setFld_inside (k := 0) (w := 8) cause (by decide) (by decide)).trans ?_
    simp only [Nat.pow_zero, Nat.div_one, Nat.mod_mod]
    exact Nat.mod_eq_of_lt hc
  · refine (fldN_setFld_inside (k := 0) (w := 8) _ (by decide) (by decide)).trans ?_
    simp only [Nat.pow_zero, Nat.div_one, Nat.mod_mod]
    exact Nat.mod_eq_of_lt he

end Fields

/-! ### Slots -/

section Slots

variable (s : State) (d n : Nat)

theorem slot_setSlot (x : Slot) : (s.setSlot d n x).slot d n = x := by
  rw [State.setSlot, slot_updTd]
  exact look_put ..

theorem stateOf_setSlot (x : Slot) : (s.setSlot d n x).stateOf d n = if x.kind = .task then Rec.state x.raw else 0 := by
  rw [State.stateOf, slot_setSlot]

theorem td_setSlot (x : Slot) : ((s.setSlot d n x).die d).td = { (s.die d).td with slots := put (s.die d).td.slots n x } := td_updTd ..

theorem slot_of_td {s t : State} {d : Nat} (h : (t.die d).td = (s.die d).td) (n : Nat) : t.slot d n = s.slot d n := by
  rw [State.slot, h]
  rfl

theorem stateOf_of_td {s t : State} {d : Nat} (h : (t.die d).td = (s.die d).td) (n : Nat) : t.stateOf d n = s.stateOf d n := by
  simp only [State.stateOf, slot_of_td h]

theorem kind_of_stateOf (h : s.stateOf d n ≠ 0) : (s.slot d n).kind = .task := by
  by_contra hk
  exact h (if_neg hk)

theorem state_of_stateOf (h : s.stateOf d n ≠ 0) : Rec.state (s.slot d n).raw = s.stateOf d n := (if_pos (kind_of_stateOf s d n h)).symm

end Slots

/-- Nothing of any die's task dispatcher, of memory or of the module's number changes from s to t. -/
structure RecordsKept (s t : State) : Prop where
  td : ∀ e, (t.die e).td = (s.die e).td
  mem : t.mem = s.mem
  moduleId : t.moduleId = s.moduleId

section Kept

variable {s t u : State}

theorem RecordsKept.refl (s : State) : RecordsKept s s := ⟨fun _ => rfl, rfl, rfl⟩

theorem RecordsKept.trans (h : RecordsKept s t) (g : RecordsKept t u) : RecordsKept s u :=
  ⟨fun e => (g.td e).trans (h.td e), g.mem.trans h.mem, g.moduleId.trans h.moduleId⟩

theorem recordsKept_foldl {α : Type} {f : State → α → State} (h : ∀ s x, RecordsKept s (f s x)) : ∀ (l : List α) (s : State), RecordsKept s (l.foldl f s)
  | [], s => .refl s
  | x :: l, s => (h s x).trans (recordsKept_foldl h l (f s x))

theorem recordsKept_updTile (s : State) (d t : Nat) (f : Tile → Tile) : RecordsKept s (s.updTile d t f) := ⟨fun _ => rfl, rfl, rfl⟩

theorem recordsKept_updCtx (s : State) (p : Place) (f : Ctx → Ctx) : RecordsKept s (s.updCtx p f) := ⟨fun _ => rfl, rfl, rfl⟩

theorem recordsKept_updNd (s : State) (d : Nat) (g : Nd → Nd) : RecordsKept s (s.updNd d g) :=
  ⟨part_updDie Die.td (f := fun x => { x with nd := g x.nd }) fun _ => rfl, rfl, rfl⟩

theorem recordsKept_updFab (s : State) (d : Nat) (g : Fab → Fab) : RecordsKept s (s.updFab d g) :=
  ⟨part_updDie Die.td (f := fun x => { x with fab := g x.fab }) fun _ => rfl, rfl, rfl⟩

theorem look_cons {α : Type} (z : α) (x : Nat × α) (l : List (Nat × α)) (k : Nat) : look z (x :: l) k = if x.1 = k then x.2 else look z l k := rfl

/-- A part of an entry that a change of every entry keeps. -/
theorem part_look_map {α β : Type} (part : α → β) (z : α) {f : Nat × α → Nat × α} (hkey : ∀ x, (f x).1 = x.1) (hpart : ∀ x, part (f x).2 = part x.2) (k : Nat) :
    ∀ l : List (Nat × α), part (look z (l.map f) k) = part (look z l k)
  | [] => rfl
  | x :: l => by
    have hmap : look z ((x :: l).map f) k = if (f x).1 = k then (f x).2 else look z (l.map f) k := look_cons ..
    rw [hmap, look_cons, hkey]
    split_ifs
    · exact hpart x
    · exact part_look_map part z hkey hpart k l

/-- Every die changes, but for its dispatcher. -/
theorem recordsKept_of_dies {s t : State} {f : Nat × Die → Nat × Die} (hdies : t.dies = s.dies.map f) (hkey : ∀ x, (f x).1 = x.1)
    (htd : ∀ x, (f x).2.td = x.2.td) (hmem : t.mem = s.mem) (hid : t.moduleId = s.moduleId) : RecordsKept s t :=
  ⟨fun e => (congrArg (fun l => (look ({} : Die) l e).td) hdies).trans (part_look_map Die.td {} hkey htd e s.dies), hmem, hid⟩

theorem recordsKept_sendWithdraw (s : State) (a b : Nat) (c : Conf) : RecordsKept s (s.send a b (.withdraw c)) := by
  by_cases h : b = a
  · rw [send_self h]
    exact recordsKept_updNd s a fun x => { x with withdraws := x.withdraws ++ [c] }
  · rw [send_other h]
    exact recordsKept_updFab s a _

theorem recordsKept_withdraw (s : State) (p : Place) (v : Prov) : RecordsKept s (s.withdraw p v) := by
  cases v with
  | frame f => exact ⟨fun _ => rfl, rfl, rfl⟩
  | joined x => exact .refl s
  | _ => exact recordsKept_sendWithdraw ..

theorem recordsKept_dropOpen (s : State) (p : Place) (serial index : Nat) : RecordsKept s (s.dropOpen p serial index) :=
  recordsKept_of_dies (t := s.dropOpen p serial index) rfl (fun _ => rfl) (fun _ => rfl) rfl rfl

theorem recordsKept_abandon (s : State) (p : Place) : RecordsKept s (s.abandon p) := by
  obtain ⟨u, hu, e⟩ : ∃ u, RecordsKept s u ∧ s.abandon p = u.updCtx p fun c => { c with run := none } :=
    ⟨_, (recordsKept_foldl (fun s (v : Nat × Prov) => recordsKept_withdraw s p v.2) _ s).trans
      (recordsKept_foldl (fun s k => recordsKept_dropOpen s p _ k) _ _), rfl⟩
  rw [e]
  exact hu.trans (recordsKept_updCtx _ _ _)

theorem recordsKept_cutRuns (s : State) (d n : Nat) : RecordsKept s (s.cutRuns d n) := by
  refine recordsKept_foldl (fun s p => ?_) _ s
  by_cases h : (s.ctx p).run.any Run.committing = true
  · rw [if_pos h]
    exact recordsKept_updCtx ..
  · rw [if_neg h]
    exact recordsKept_abandon s p

theorem recordsKept_dropWindows (s : State) (o : Owner) : RecordsKept s (s.dropWindows o) :=
  recordsKept_of_dies (t := s.dropWindows o) rfl (fun _ => rfl) (fun _ => rfl) rfl rfl

theorem recordsKept_dropRun (s : State) (p : Place) (run : Nat) : RecordsKept s (s.dropRun p run) := by
  rw [State.dropRun, State.dropTxnsOf]
  exact (recordsKept_dropWindows s _).trans (recordsKept_updNd _ _ _)

theorem recordsKept_dropSaved (s : State) (d n : Nat) : RecordsKept s (s.dropSaved d n) := by
  rw [State.dropSaved]
  refine recordsKept_foldl (fun s v => recordsKept_foldl (fun s x => recordsKept_foldl (fun s c => ?_) _ s) _ s) _ s
  exact recordsKept_dropRun s _ _

theorem recordsKept_tearDown (s : State) (d n : Nat) : RecordsKept s (s.tearDown d n) := by
  rw [State.tearDown]
  cases (s.slot d n).rect with
  | none => exact .refl s
  | some r =>
    refine recordsKept_foldl (fun s c => ?_) _ s
    dsimp only
    split_ifs <;> exact ⟨fun _ => rfl, rfl, rfl⟩

theorem recordsKept_releaseTiles (s : State) (d : Nat) (id : BitVec 32) : RecordsKept s (s.releaseTiles d id) := by
  refine recordsKept_foldl (fun s t => ?_) _ s
  by_cases h : (s.tile d t).task = some id
  · rw [if_pos h]
    exact recordsKept_updTile ..
  · rw [if_neg h]
    exact .refl s

end Kept

/-! ### The blocks of a task that is ended while they commit (R164) -/

section Cut

variable {s : State} {p q : Place}

/-- A context written leaves every other context of its die. -/
theorem ctx_updCtx_ne_of_die (s : State) (f : Ctx → Ctx) (hd : q.die = p.die) (h : q ≠ p) : (s.updCtx p f).ctx q = s.ctx q := by
  simp only [State.updCtx, State.ctx, State.setCtx, State.updTile]
  by_cases hk : q.die * 144 + q.tile = p.die * 144 + p.tile
  · have ht : q.tile = p.tile := by omega
    have hc : q.ctx ≠ p.ctx := fun hc => h (by cases p; cases q; simp_all)
    rw [hd, ht, State.tile_setTile]
    exact look_put_ne _ _ _ hc
  · rw [State.tile_setTile_ne s _ hk]

theorem ctx_abandon_ne_of_die (hd : q.die = p.die) (h : q ≠ p) : (s.abandon p).ctx q = s.ctx q := by
  obtain ⟨u, hu, e⟩ : ∃ u, Quiet s u ∧ s.abandon p = u.updCtx p fun c => { c with run := none } :=
    ⟨_, (quiet_foldl _ (fun s (v : Nat × Prov) => withdraw_quiet s p v.2) _ s).trans
      (quiet_foldl _ (fun s k => dropOpen_quiet s p _ k) _ _), rfl⟩
  rw [e, ctx_updCtx_ne_of_die _ _ hd h, hu.2.2 q]

/-- One step of cutRuns, at the context p. -/
def State.cutRun (s : State) (p : Place) : State :=
  if (s.ctx p).run.any Run.committing then s.updRun p fun r => { r with cut := true } else s.abandon p

theorem cutRun_of_committing {b : Run} (hb : (s.ctx q).run = some b) (hc : b.committing = true) (hd : q.die = p.die) :
    ((s.cutRun p).ctx q).run = some (if q = p then { b with cut := true } else b) := by
  by_cases hqp : q = p
  · subst hqp
    rw [State.cutRun, if_pos (by rw [hb]; exact hc), State.ctx_updRun, if_pos rfl, hb]
    rfl
  · rw [if_neg hqp, ← hb, State.cutRun]
    by_cases h : (s.ctx p).run.any Run.committing = true
    · rw [if_pos h]
      exact congrArg Ctx.run (ctx_updCtx_ne_of_die s _ hd hqp)
    · rw [if_neg h, ctx_abandon_ne_of_die hd hqp]

/-- A block that commits is marked where its context is among those that are cut, and is left as it is elsewhere. -/
theorem cutRuns_of_committing (l : List Place) : ∀ (s : State) (b : Run), (s.ctx q).run = some b → b.committing = true → (∀ p ∈ l, q.die = p.die) →
    ((l.foldl State.cutRun s).ctx q).run = some (if q ∈ l then { b with cut := true } else b) := by
  induction l with
  | nil => exact fun s b hb _ _ => hb
  | cons p l ih =>
    intro s b hb hc hd
    have hstep := cutRun_of_committing hb hc (hd p List.mem_cons_self)
    have hrest := ih (s.cutRun p) _ hstep (by split_ifs <;> exact hc) fun p' h => hd p' (List.mem_cons_of_mem _ h)
    rw [List.foldl_cons, hrest]
    by_cases hqp : q = p
    · rw [if_pos hqp, if_pos (show q ∈ p :: l from hqp ▸ List.mem_cons_self)]
      split_ifs <;> rfl
    · rw [if_neg hqp]
      simp only [List.mem_cons, hqp, false_or]

/-- The blocks that commit on a task's tiles go on to the end of their commits. -/
theorem cut_of_gang {d n : Nat} {b : Run} (hq : q ∈ s.gangCtxs d n) (hb : (s.ctx q).run = some b) (hc : b.committing = true) :
    ((s.cutRuns d n).ctx q).run = some { b with cut := true } := by
  have hdie (p : Place) (h : p ∈ s.gangCtxs d n) : p.die = d := by
    obtain ⟨t, -, ht⟩ := List.mem_flatMap.mp h
    obtain ⟨c, -, rfl⟩ := List.mem_map.mp ht
    rfl
  refine (cutRuns_of_committing (s.gangCtxs d n) s b hb hc fun p h => (hdie q hq).trans (hdie p h).symm).trans ?_
  rw [if_pos hq]

end Cut

/-! ### Decrements (R290, R292) -/

section Decrements

variable {s : State} {d : Nat} {x : Dec}

theorem objOf_updTd (s : State) (d : Nat) (f : Td → Td) (id : BitVec 32) : (s.updTd d f).objOf id = s.objOf id :=
  congrArg (fun l => look ({} : Obj) l (fldN id 0 17)) (part_updDie (fun y => y.nd.objs) (f := fun y => { y with td := f y.td }) (fun _ => rfl) (objDie id))

/-- What a record's check reads is none of the dispatcher's state. -/
theorem recordFault_updTd (s : State) (d : Nat) (f : Td → Td) (r : Vec) : (s.updTd d f).recordFault r = s.recordFault r := by
  have h (a : Nat) (k : Word64) : (s.updTd d f).reach a k = s.reach a k := reach_congr (t := s.updTd d f) (objOf_updTd s d f) rfl rfl a k
  simp only [State.recordFault, h]

/-- The state once a decrement has been taken. -/
def State.decTaken (s : State) : State := s.updTd s.focus.die fun t => { t with decs := dropAt t.decs s.index }

theorem execDecrementApply_takes (hx : (s.die s.focus.die).td.decs[s.index]? = some x)
    (hfirst : ∀ y ∈ (s.die s.focus.die).td.decs.take s.index, y.target ≠ x.target) :
    exec .decrementApply s = .next (s.decTaken.applyDec s.focus.die x) := by
  have hany : ((s.die s.focus.die).td.decs.take s.index).any (fun y => y.target == x.target) = false := by
    rw [List.any_eq_false]
    exact fun y hy => by simpa using hfirst y hy
  show execDecrementApply s = _
  rw [execDecrementApply]
  simp only [hx, hany]
  rfl

theorem slot_decTaken (s : State) (n : Nat) : s.decTaken.slot s.focus.die n = s.slot s.focus.die n := by
  rw [State.decTaken, slot_updTd]
  rfl

theorem stateOf_decTaken (s : State) (n : Nat) : s.decTaken.stateOf s.focus.die n = s.stateOf s.focus.die n := by
  simp only [State.stateOf, slot_decTaken]

theorem applyDec_waiting (hfinal : x.final = false) (hst : s.stateOf d (idSlot x.target) = 1) :
    s.applyDec d x = if Rec.count (s.slot d (idSlot x.target)).raw - x.n = 0
      then (s.updRaw d (idSlot x.target) fun r => setFld r 24 16 (Rec.count (s.slot d (idSlot x.target)).raw - x.n)).arm d (idSlot x.target)
      else s.updRaw d (idSlot x.target) fun r => setFld r 24 16 (Rec.count (s.slot d (idSlot x.target)).raw - x.n) := by
  have hdone : s.decDone x = s := by
    rw [State.decDone]
    exact if_pos (Or.inl hfinal)
  rw [State.applyDec, hdone]
  simp only [hst, if_true]

theorem applyDec_other (hfinal : x.final = false) (hst : s.stateOf d (idSlot x.target) ≠ 1) :
    s.applyDec d x = s.post (if s.stateOf d (idSlot x.target) = 0 then x.region else Rec.region (s.slot d (idSlot x.target)).raw) 5
      (x.target.setWidth 64) (x.source.setWidth 64) (BitVec.ofNat 64 (s.stateOf d (idSlot x.target))) := by
  have hdone : s.decDone x = s := by
    rw [State.decDone]
    exact if_pos (Or.inl hfinal)
  rw [State.applyDec, hdone]
  simp only [if_neg hst]

theorem stateOf_updRaw {n : Nat} (s : State) (d : Nat) {f : Vec → Vec} (h : s.stateOf d n ≠ 0) :
    (s.updRaw d n f).stateOf d n = Rec.state (f (s.slot d n).raw) := by
  rw [State.updRaw, stateOf_setSlot]
  exact if_pos (kind_of_stateOf s d n h)

theorem raw_updRaw (s : State) (d n : Nat) (f : Vec → Vec) : ((s.updRaw d n f).slot d n).raw = f (s.slot d n).raw := by
  rw [State.updRaw, slot_setSlot]

/-- A record that nothing refuses arms. -/
theorem arm_accepted {n : Nat} (hbad : n ∉ (s.die d).td.bad) (hrec : s.recordFault (s.slot d n).raw = none) (hkind : (s.slot d n).kind = .task) :
    (s.arm d n).stateOf d n = 2 ∧ ((s.arm d n).slot d n).armedAt = s.cycle ∧ (s.arm d n).mem = s.mem := by
  have heq : s.arm d n = (s.setStateOf d n 2).setSlot d n { (s.setStateOf d n 2).slot d n with armedAt := s.cycle } := by
    rw [State.arm, if_neg (by simpa using hbad)]
    simp only [hrec]
  rw [heq]
  refine ⟨?_, by rw [slot_setSlot], rfl⟩
  have hslot : (s.setStateOf d n 2).slot d n = { s.slot d n with raw := setFld (s.slot d n).raw 60 4 2 } := by
    rw [State.setStateOf, State.updRaw, slot_setSlot]
  rw [stateOf_setSlot, hslot]
  exact (if_pos hkind).trans (state_setFld_state _ (by decide))

end Decrements

/-! ### The end of a task (R301, R302) -/

section Ends

variable {s : State} {d n : Nat}

/-- No tile of the die runs the task once its tiles are released. -/
theorem releaseTiles_frees (s : State) (d : Nat) (id : BitVec 32) : ∀ t < 144, ((s.releaseTiles d id).tile d t).task ≠ some id := by
  have step (s : State) (t u : Nat) : ((if (s.tile d t).task = some id then
      s.updTile d t fun y => { y with task := none, runs := false, me := { y.me with seat := { y.me.seat with v := false } } }
      else s).tile d u).task = if u = t ∧ (s.tile d t).task = some id then none else (s.tile d u).task := by
    by_cases h : (s.tile d t).task = some id
    · rw [if_pos h]
      by_cases hu : u = t
      · rw [if_pos ⟨hu, h⟩, hu, State.tile_updTile]
      · rw [if_neg fun h' => hu h'.1, tile_updTile_ne s _ hu]
    · rw [if_neg h, if_neg fun h' => h h'.2]
  have all (l : List Nat) : ∀ (s : State) (u : Nat), (u ∈ l ∨ (s.tile d u).task ≠ some id) → ((l.foldl (fun s t => if (s.tile d t).task = some id then
      s.updTile d t fun y => { y with task := none, runs := false, me := { y.me with seat := { y.me.seat with v := false } } }
      else s) s).tile d u).task ≠ some id := by
    induction l with
    | nil => exact fun s u h => h.resolve_left List.not_mem_nil
    | cons t l ih =>
      intro s u h
      refine ih _ u ?_
      by_cases hl : u ∈ l
      · exact Or.inl hl
      · right
        rw [step]
        split_ifs with hc
        · exact nofun
        · rcases h with h | h
          · rcases List.mem_cons.mp h with hut | hul
            · exact fun he => hc ⟨hut, hut ▸ he⟩
            · exact absurd hul hl
          · exact h
  exact fun t ht => all (List.range 144) s t (Or.inl (List.mem_range.mpr ht))

/-- The record of a task that has ended. -/
def Slot.ended (x : Slot) (st cause exit : Nat) : Slot :=
  { x with raw := setFld (setFld x.raw 320 64 (x.endStatus cause exit).toNat) 60 4 st
           rect := none, restoring := false, staging := [], reported := [], saving := none, savers := [], asking := none, ending := none }

/-- The state once the tiles and windows of task id, in slot n, are free. -/
def State.taskFreed (s : State) (d n : Nat) (id : BitVec 32) : State := (((s.dropSaved d n).tearDown d n).releaseTiles d id).dropWindows (.task id)

theorem recordsKept_taskFreed (s : State) (d n : Nat) (id : BitVec 32) : RecordsKept s (s.taskFreed d n id) :=
  (((recordsKept_dropSaved s d n).trans (recordsKept_tearDown _ d n)).trans (recordsKept_releaseTiles _ d id)).trans (recordsKept_dropWindows _ _)

theorem tile_dropWindows (s : State) (o : Owner) (d t : Nat) : (s.dropWindows o).tile d t = s.tile d t := rfl

theorem task_taskFreed (s : State) (d n : Nat) (id : BitVec 32) {t : Nat} (ht : t < 144) : ((s.taskFreed d n id).tile d t).task ≠ some id := by
  rw [State.taskFreed, tile_dropWindows]
  exact releaseTiles_frees ((s.dropSaved d n).tearDown d n) d id t ht

/-- The record x of an ended task is written, and what its die keeps for the task goes. -/
def State.recordEnded (s : State) (d n : Nat) (x : Slot) : State :=
  (s.setSlot d n x).updTd d fun t =>
    { t with saved := t.saved.filter (fun v => v.slot != n)
             barriers := t.barriers.filter (fun b => b.1 != n), arrivals := t.arrivals.filter (fun b => b.1 != n)
             reservation := t.reservation.filter fun r => r.1 != n }

theorem slot_recordEnded (s : State) (d n : Nat) (x : Slot) : (s.recordEnded d n x).slot d n = x := by
  rw [State.recordEnded, slot_updTd]
  exact slot_setSlot s d n x

theorem decs_recordEnded (s : State) (d n : Nat) (x : Slot) : ((s.recordEnded d n x).die d).td.decs = (s.die d).td.decs := by
  rw [State.recordEnded, td_updTd, td_setSlot]

/-- The successors of a DONE task, or none, are sent a decrement each. -/
def State.decrements (s : State) (d n : Nat) (id : BitVec 32) (reg : Nat) (succs : List (BitVec 32)) : State :=
  succs.foldl (fun s t => s.sendDec d id reg t 1 true) (s.setSlot d n { s.slot d n with owing := succs.length })

variable {st cause exit : Nat} {own : Bool}

/-- The state once a task's tiles and windows are free and its record says that it has ended. -/
def State.taskEnded (s : State) (d n st cause exit : Nat) : State :=
  (s.taskFreed d n (s.taskId d n)).recordEnded d n ((s.slot d n).ended st cause exit)

/-- The successors of a DONE task are told, and the ladders that waited for it. -/
def State.told (v : State) (d n st : Nat) (id : BitVec 32) (reg : Nat) (succs : List (BitVec 32)) : State :=
  State.settleLadders (if st = 6 then v.decrements d n id reg succs else v)

theorem dropRefs_nil (s : State) (reg : Nat) : s.dropRefs reg [] = s := rfl

/-- A record holds no reference any more. -/
def State.unreferenced (s : State) (d n : Nat) : State := s.setSlot d n { s.slot d n with refs := [] }

/-- The end of a task that belongs to no graph, has no join or references, and resets no tile. -/
theorem endTaskNow_quiet (hreset : Rec.state (s.slot d n).raw ≠ 5 ∨ own = true) (hst : st = 6 ∨ st = 8) (hinst : (s.slot d n).inst = none)
    (hrefs : (s.slot d n).refs = []) (hjoin : Rec.join (s.slot d n).raw = 0#32) :
    s.endTaskNow d n st cause exit own false =
      ((s.taskEnded d n st cause exit).told d n st (s.taskId d n) (Rec.region (s.slot d n).raw) (s.succsOf d (s.slot d n).raw)).unreferenced d n := by
  have hnot : ¬ (Rec.state (s.slot d n).raw = 5 ∧ own = false) := fun h => hreset.elim (fun g => g h.1) fun g => absurd (g.symm.trans h.2) nofun
  have hj : Rec.join ((s.slot d n).ended st cause exit).raw = 0#32 := by
    rw [← hjoin, Rec.join, Rec.join]
    apply BitVec.eq_of_toNat_eq
    rw [fld, fld, BitVec.toNat_ofNat, BitVec.toNat_ofNat]
    exact fldN_ended _ (k := 128) (w := 32) (Or.inr (Or.inl ⟨by decide, by decide⟩))
  have hsucc : s.succsOf d ((s.slot d n).ended st cause exit).raw = s.succsOf d (s.slot d n).raw := by
    have h1 : Rec.nsucc ((s.slot d n).ended st cause exit).raw = Rec.nsucc (s.slot d n).raw := fldN_ended _ (Or.inr (Or.inl ⟨by decide, by decide⟩))
    have h2 : Rec.succ ((s.slot d n).ended st cause exit).raw = Rec.succ (s.slot d n).raw := fldN_ended _ (Or.inr (Or.inl ⟨by decide, by decide⟩))
    rw [State.succsOf, State.succsOf, h1, h2]
  delta State.endTaskNow
  extract_lets x id reg old s1 s2 s2' status raw s3 s4 pol succs s5 y s6 j s7 s8 z
  have hs1 : s1 = s.dropSaved d n := congrArg (fun s => State.dropSaved s d n) (if_neg hnot)
  clear_value s1
  have hs2 : s2' = s.taskFreed d n id := by
    rw [State.taskFreed, ← hs1]
  clear_value s2 s2'
  have hs4 : s4 = s.taskEnded d n st cause exit := by
    have h : s4 = s2'.recordEnded d n ((s.slot d n).ended st cause exit) := rfl
    rw [h, hs2, State.taskEnded]
  clear_value s3 s4
  have hs5 : s5 = s4 := if_neg (by omega)
  have hs6 : s6 = if st = 6 then s4.decrements d n id reg (s.succsOf d (s.slot d n).raw) else s4 := by
    have h : s6 = if st = 6 ∨ (st = 7 ∧ pol = 3) then s5.decrements d n id reg (s.succsOf d ((s.slot d n).ended st cause exit).raw)
      else if (st = 7 ∧ pol = 1) ∨ false = true then succs.foldl (fun s t => s.sendKill d t true true) s5 else s5 := rfl
    rw [h, hs5, hsucc]
    rcases hst with rfl | rfl
    · rw [if_pos (Or.inl rfl), if_pos rfl]
    · rw [if_neg (by omega), if_neg (by simp), if_neg (by decide)]
  clear_value s6
  have h7 : s7 = s6 := if_pos hj
  have hs8 : s8 = (s.taskEnded d n st cause exit).told d n st id reg (s.succsOf d (s.slot d n).raw) := by
    have h : s8 = s7.settleLadders := rfl
    rw [h, h7, hs6, hs4, State.told]
  have hz : z = s8.slot d n := rfl
  refine Eq.trans ?_ (congrArg (fun w => State.unreferenced w d n) hs8)
  rw [State.unreferenced, ← hz]
  have hinst' : x.inst = none := hinst
  have hrefs' : x.refs = [] := hrefs
  rw [hinst', hrefs']
  exact congrArg (fun w : State => w.setSlot d n { z with refs := [] }) (dropRefs_nil s8 reg)

theorem slot_settleLadders (s : State) (d n : Nat) : s.settleLadders.slot d n = s.slot d n := rfl

theorem slot_taskEnded (s : State) (d n st cause exit : Nat) : (s.taskEnded d n st cause exit).slot d n = (s.slot d n).ended st cause exit := by
  rw [State.taskEnded, slot_recordEnded]

theorem decs_taskEnded (s : State) (d n st cause exit : Nat) : ((s.taskEnded d n st cause exit).die d).td.decs = (s.die d).td.decs := by
  rw [State.taskEnded, decs_recordEnded, (recordsKept_taskFreed s d n _).td]

theorem tile_recordEnded (s : State) (d n : Nat) (x : Slot) (t : Nat) : (s.recordEnded d n x).tile d t = s.tile d t := rfl

theorem mem_recordEnded (s : State) (d n : Nat) (x : Slot) : (s.recordEnded d n x).mem = s.mem := rfl

theorem moduleId_recordEnded (s : State) (d n : Nat) (x : Slot) : (s.recordEnded d n x).moduleId = s.moduleId := rfl

/-- Without successors a record stays as it is, but for how many it owes; no tile and no byte of memory changes. -/
theorem told_nil (v : State) (d n st : Nat) (id : BitVec 32) (reg : Nat) :
    (∃ o, (v.told d n st id reg []).slot d n = { v.slot d n with owing := o }) ∧ (v.told d n st id reg []).mem = v.mem ∧
      ∀ t, (v.told d n st id reg []).tile d t = v.tile d t := by
  have hdec : v.decrements d n id reg [] = v.setSlot d n { v.slot d n with owing := 0 } := rfl
  rw [State.told, slot_settleLadders, hdec]
  by_cases h : st = 6
  · rw [if_pos h, slot_setSlot]
    exact ⟨⟨_, rfl⟩, rfl, fun _ => rfl⟩
  · rw [if_neg h]
    exact ⟨⟨_, rfl⟩, rfl, fun _ => rfl⟩

/-- The one successor of a DONE task, at its own die, is sent a decrement. -/
theorem told_single {v : State} {d n : Nat} {id k : BitVec 32} {reg : Nat} (hk : v.taskHub k = d) :
    (∃ o, (v.told d n 6 id reg [k]).slot d n = { v.slot d n with owing := o }) ∧
      ((v.told d n 6 id reg [k]).die d).td.decs = (v.die d).td.decs ++ [{ target := k, n := 1, source := id, region := reg, final := true }] := by
  have hdec : v.decrements d n id reg [k] = (v.setSlot d n { v.slot d n with owing := 1 }).updTd d fun x =>
      { x with decs := x.decs ++ [{ target := k, n := 1, source := id, region := reg, final := true }] } := by
    have hhub : (v.setSlot d n { v.slot d n with owing := 1 }).taskHub k = d := hk
    show (v.setSlot d n { v.slot d n with owing := 1 }).sendDec d id reg k 1 true = _
    rw [State.sendDec, send_self hhub]
    rfl
  have hslot : (v.told d n 6 id reg [k]).slot d n = (v.decrements d n id reg [k]).slot d n := rfl
  have htd : ((v.told d n 6 id reg [k]).die d).td = ((v.decrements d n id reg [k]).die d).td := rfl
  constructor
  · rw [hslot, hdec, slot_updTd]
    exact ⟨_, slot_setSlot v d n _⟩
  · rw [htd, hdec, td_updTd, td_setSlot]

section Quiet

variable (hst : st = 6 ∨ st = 8) (hrun : Rec.state (s.slot d n).raw ≠ 5 ∨ st = 6)
  (hinst : (s.slot d n).inst = none) (hrefs : (s.slot d n).refs = []) (hjoin : Rec.join (s.slot d n).raw = 0#32)

include hst hrun hinst hrefs hjoin

/-- A task that ends DONE, or KILLED before it ran, ends at once. -/
theorem endTask_quiet (hkind : (s.slot d n).kind = .task) : s.endTask d n st cause exit (st == 6) false =
    ((s.taskEnded d n st cause exit).told d n st (s.taskId d n) (Rec.region (s.slot d n).raw) (s.succsOf d (s.slot d n).raw)).unreferenced d n := by
  have hreset : Rec.state (s.slot d n).raw ≠ 5 ∨ (st == 6) = true := hrun.imp id fun h => by rw [h]; rfl
  have hnow : ¬ (s.stateOf d n = 5 ∧ (st == 6) = false ∧ s.midCommit d n = true) := by
    rintro ⟨h5, hown, -⟩
    rw [State.stateOf, if_pos hkind] at h5
    exact hreset.elim (fun h => h h5) fun h => absurd (h.symm.trans hown) nofun
  have heq : s.endTask d n st cause exit (st == 6) false = s.endTaskNow d n st cause exit (st == 6) false := by
    exact if_neg hnow
  exact heq.trans (endTaskNow_quiet hreset hst hinst hrefs hjoin)

end Quiet

theorem stateOf_unreferenced (s : State) (d n : Nat) : (s.unreferenced d n).stateOf d n = s.stateOf d n := by
  rw [State.unreferenced, stateOf_setSlot]
  rfl

theorem slot_unreferenced (s : State) (d n : Nat) : (s.unreferenced d n).slot d n = { s.slot d n with refs := [] } := by
  rw [State.unreferenced, slot_setSlot]

theorem tile_unreferenced (s : State) (d n t : Nat) : (s.unreferenced d n).tile d t = s.tile d t := rfl

theorem mem_unreferenced (s : State) (d n : Nat) : (s.unreferenced d n).mem = s.mem := rfl

theorem decs_unreferenced (s : State) (d n : Nat) : ((s.unreferenced d n).die d).td.decs = (s.die d).td.decs := by
  rw [State.unreferenced, td_setSlot]

/-- The record of an ended task, whatever it owes. -/
theorem state_ended {x : Slot} (hkind : x.kind = .task) (hst : st < 16) {s : State} {o : Nat} (h : s.slot d n = { x.ended st cause exit with owing := o }) :
    s.stateOf d n = st := by
  have hraw : Rec.state (x.ended st cause exit).raw = st := by
    rw [Slot.ended]
    exact state_setFld_state _ hst
  have hkind' : (x.ended st cause exit).kind = .task := by rw [Slot.ended, hkind]
  rw [State.stateOf, h]
  generalize x.ended st cause exit = y at hraw hkind'
  simp only [hkind', if_true, hraw]

end Ends

/-! ### Kills and completions (R291, R302) -/

section Kills

variable {s : State} {x : Kill}

/-- The state once a kill has been taken. -/
def State.killTaken (s : State) : State := s.updTd s.focus.die fun t => { t with kills := dropAt t.kills s.index }

theorem execKillApply_takes (hx : (s.die s.focus.die).td.kills[s.index]? = some x)
    (hfirst : ∀ y ∈ (s.die s.focus.die).td.kills.take s.index, y.target ≠ x.target) :
    exec .killApply s = .next (s.killTaken.applyKill s.focus.die x) := by
  have hany : ((s.die s.focus.die).td.kills.take s.index).any (fun y => y.target == x.target) = false := by
    rw [List.any_eq_false]
    exact fun y hy => by simpa using hfirst y hy
  show execKillApply s = _
  rw [execKillApply]
  simp only [hx, hany]
  rfl

theorem stateOf_killTaken (s : State) (n : Nat) : s.killTaken.stateOf s.focus.die n = s.stateOf s.focus.die n := by
  have hslot : s.killTaken.slot s.focus.die n = s.slot s.focus.die n := by
    rw [State.killTaken, slot_updTd]
    rfl
  simp only [State.stateOf, hslot]

/-- Whether a kill ends a record in a state (R291, R320). -/
def Kill.ends (x : Kill) (st : Nat) : Prop := st ≠ 0 ∧ terminal st = false ∧ (x.policy = true → st = 1 ∨ st = 2)

theorem applyKill_ends {d : Nat} (h : x.ends (s.stateOf d (idSlot x.target))) : s.applyKill d x = s.endTask d (idSlot x.target) 8 0 0 false x.sub := by
  obtain ⟨h0, hterm, hpol⟩ := h
  rw [State.applyKill]
  rw [if_neg (by simp [h0, hterm]), if_neg fun h => (hpol h.1).elim h.2.1 h.2.2]

theorem applyKill_ignored {d : Nat} (h : ¬ x.ends (s.stateOf d (idSlot x.target))) : s.applyKill d x = s := by
  rw [State.applyKill]
  by_cases h1 : s.stateOf d (idSlot x.target) = 0 ∨ terminal (s.stateOf d (idSlot x.target)) = true
  · exact if_pos h1
  · refine (if_neg h1).trans (if_pos ?_)
    by_contra h2
    refine h ⟨fun h0 => h1 (Or.inl h0), Bool.eq_false_iff.mpr fun ht => h1 (Or.inr ht), fun hp => ?_⟩
    by_contra h3
    exact h2 ⟨hp, fun h => h3 (Or.inl h), fun h => h3 (Or.inr h)⟩

end Kills

section Completion

variable {s : State} {r : Rect}

/-- Every live tile of the task has reported its part. -/
def State.allReported (s : State) (d n : Nat) (r : Rect) : Bool :=
  (s.liveTiles d r).all fun t => (s.slot d n).reported.any fun e => e.1 == r.rank t

theorem execTaskCompletion_eq (hrect : (s.slot s.focus.die s.index).rect = some r) :
    exec .taskCompletion s = .next (if s.stateOf s.focus.die s.index ≠ 5 ∨ s.allReported s.focus.die s.index r = false ∨
        (s.slot s.focus.die s.index).ending.isSome = true then s
      else s.endTask s.focus.die s.index (if ((s.slot s.focus.die s.index).reported.map (·.2)).foldl max 0 = 0 then 6 else 7) 0
        (((s.slot s.focus.die s.index).reported.map (·.2)).foldl max 0) true false) := by
  show execTaskCompletion s = _
  rw [execTaskCompletion]
  simp only [hrect]
  rfl

end Completion

/-- Settles O43: a decrement and a kill meet the record as it stands; a completion needs the report of every live tile; a task that ends frees
its tiles before its record says so, so that no tile holds it then. -/
theorem recordsAndTheirEnds : Obligations.RecordsAndTheirEnds := by
  unfold Obligations.RecordsAndTheirEnds
  refine ⟨fun s => ⟨fun x hx hfirst => ?_, fun x hx hfirst => ?_⟩, fun s => ⟨fun r hst hend hrect hall => ?_, fun r hrect hmiss => ?_, ?_, ?_⟩⟩
  · have hexec := execDecrementApply_takes hx hfirst
    refine ⟨hexec, fun hst hfinal => ⟨fun hlt => ?_, fun heq hbad hrec => ?_⟩, fun hst hfinal => ?_⟩
    · have hst' : s.decTaken.stateOf s.focus.die (idSlot x.target) = 1 := (stateOf_decTaken s _).trans hst
      have happly := applyDec_waiting hfinal hst'
      rw [slot_decTaken, if_neg (by omega)] at happly
      rw [happly] at hexec
      refine ⟨_, hexec, ?_, ?_, ?_, rfl⟩
      · rw [State.updRaw, td_setSlot, State.decTaken, td_updTd]
      · rw [stateOf_updRaw _ _ (by rw [hst']; decide), state_setFld_count, state_of_stateOf _ _ _ (by rw [hst']; decide), hst']
      · rw [raw_updRaw]
        exact count_setFld_count _ (by have := count_lt (s.slot s.focus.die (idSlot x.target)).raw; omega)
    · have hst' : s.decTaken.stateOf s.focus.die (idSlot x.target) = 1 := (stateOf_decTaken s _).trans hst
      have happly := applyDec_waiting hfinal hst'
      rw [slot_decTaken, if_pos (by omega)] at happly
      have hslot : (s.decTaken.updRaw s.focus.die (idSlot x.target) fun r => setFld r 24 16 (Rec.count (s.slot s.focus.die (idSlot x.target)).raw - x.n)).slot
          s.focus.die (idSlot x.target) = { s.slot s.focus.die (idSlot x.target) with raw := setFld (s.slot s.focus.die (idSlot x.target)).raw 24 16 0 } := by
        rw [State.updRaw, slot_setSlot, slot_decTaken, heq, Nat.sub_self]
      obtain ⟨h2, h3, h4⟩ := arm_accepted (s := s.decTaken.updRaw s.focus.die (idSlot x.target) fun r => setFld r 24 16 (Rec.count (s.slot s.focus.die (idSlot x.target)).raw - x.n))
        (d := s.focus.die) (n := idSlot x.target) (by rw [State.updRaw, td_setSlot, State.decTaken, td_updTd]; exact hbad)
        (by rw [hslot, State.updRaw, State.setSlot, recordFault_updTd, State.decTaken, recordFault_updTd]; exact hrec)
        (by rw [hslot]; exact kind_of_stateOf _ _ _ (by rw [hst]; decide))
      exact ⟨_, hexec.trans (congrArg Host.Outcome.next happly), h2, h3, h4⟩
    · have hst' : s.decTaken.stateOf s.focus.die (idSlot x.target) ≠ 1 := fun h => hst ((stateOf_decTaken s _).symm.trans h)
      have happly := applyDec_other hfinal hst'
      rw [slot_decTaken, stateOf_decTaken] at happly
      exact hexec.trans (congrArg Host.Outcome.next happly)
  · have hexec := execKillApply_takes hx hfirst
    refine ⟨fun h => hexec.trans (congrArg Host.Outcome.next (applyKill_ignored ?_)), fun h => hexec.trans (congrArg Host.Outcome.next (applyKill_ends ?_))⟩
    · rw [stateOf_killTaken]
      rintro ⟨h0, hterm, hpol⟩
      rcases h with h | h | ⟨hp, h1, h2⟩
      · exact h0 h
      · exact absurd (h.symm.trans hterm) nofun
      · exact (hpol hp).elim h1 h2
    · rw [stateOf_killTaken]
      rcases h with h | h | ⟨hp, h0, hterm⟩
      · exact ⟨by rw [h]; decide, by rw [h]; rfl, fun _ => Or.inl h⟩
      · exact ⟨by rw [h]; decide, by rw [h]; rfl, fun _ => Or.inr h⟩
      · exact ⟨h0, hterm, fun h => absurd (h.symm.trans hp) nofun⟩
  · have hrep : s.allReported s.focus.die s.index r = true := by
      rw [State.allReported, List.all_eq_true]
      intro t ht
      obtain ⟨e, he, hr⟩ := hall t ht
      exact List.any_eq_true.mpr ⟨e, he, by simpa using hr⟩
    rw [execTaskCompletion_eq hrect, if_neg]
    rintro (h | h | h)
    · exact h hst
    · exact absurd (hrep.symm.trans h) nofun
    · rw [hend] at h
      exact absurd h nofun
  · have hrep : s.allReported s.focus.die s.index r = false := by
      obtain ⟨t, ht, hne⟩ := hmiss
      rw [State.allReported, List.all_eq_false]
      refine ⟨t, ht, fun h => ?_⟩
      obtain ⟨e, he, hr⟩ := List.any_eq_true.mp h
      exact hne e he (by simpa using hr)
    rw [execTaskCompletion_eq hrect, if_pos (Or.inr (Or.inl hrep))]
  · intro st cause exit sub hst hmid hend
    have hkeep := recordsKept_cutRuns s s.focus.die s.index
    have heq : s.endTask s.focus.die s.index st cause exit false sub = (s.cutRuns s.focus.die s.index).setSlot s.focus.die s.index
        { (s.cutRuns s.focus.die s.index).slot s.focus.die s.index with ending := some ⟨st, cause, exit, sub⟩ } := by
      rw [State.endTask, if_pos ⟨hst, rfl, hmid⟩, if_neg (by rw [hend]; exact nofun)]
    rw [heq]
    refine ⟨?_, by rw [slot_setSlot], fun p hp b hb hc => cut_of_gang hp hb hc⟩
    rw [stateOf_setSlot, slot_of_td (hkeep.td _)]
    exact hst
  · intro st cause exit x hkind hst hrun hcause hexit hinst hrefs hjoin
    have heq := endTask_quiet (cause := cause) (exit := exit) hst hrun hinst hrefs hjoin hkind
    intro u
    have hu : u = _ := heq
    refine ⟨fun hn => ?_, fun k hk hsucc hhub => ?_⟩
    · have hsucc : s.succsOf s.focus.die (s.slot s.focus.die s.index).raw = [] := by
        rw [State.succsOf, hn]
        rfl
      rw [hsucc] at hu
      obtain ⟨⟨o, hslot⟩, hmem, htile⟩ := told_nil (s.taskEnded s.focus.die s.index st cause exit) s.focus.die s.index st (s.taskId s.focus.die s.index)
        (Rec.region (s.slot s.focus.die s.index).raw)
      rw [slot_taskEnded] at hslot
      obtain ⟨hc, he⟩ := endStatus_fields x hcause hexit
      have hraw : (u.slot s.focus.die s.index).raw = (x.ended st cause exit).raw := by
        rw [hu, slot_unreferenced, hslot]
      have hstatus (k w : Nat) (hk : 48 ≤ k) : fldN (Rec.status (u.slot s.focus.die s.index).raw) k w = fldN (x.endStatus cause exit) k w := by
        rw [hraw, status_field _ hk, Slot.ended, status_ended]
      refine ⟨?_, (hstatus 56 8 (by decide)).trans hc, (hstatus 48 8 (by decide)).trans he, ?_, ?_, fun t ht => ?_⟩
      · rw [hu, stateOf_unreferenced]
        exact state_ended hkind (by omega) hslot
      · rw [hu, slot_unreferenced, hslot]
        rfl
      · rw [hu]
        rw [mem_unreferenced, hmem, State.taskEnded, mem_recordEnded, (recordsKept_taskFreed s s.focus.die s.index _).mem]
      · rw [hu]
        refine fun h => task_taskFreed s s.focus.die s.index (s.taskId s.focus.die s.index) ht (Eq.trans ?_ h)
        rw [tile_unreferenced, htile, State.taskEnded, tile_recordEnded]
    · subst hk
      rw [hsucc] at hu
      have hhub' : (s.taskEnded s.focus.die s.index 6 cause exit).taskHub k = s.focus.die := by
        have hid : (s.taskEnded s.focus.die s.index 6 cause exit).moduleId = s.moduleId := by
          rw [State.taskEnded, moduleId_recordEnded, (recordsKept_taskFreed s s.focus.die s.index _).moduleId]
        rw [State.taskHub, State.hub, hid]
        exact hhub
      obtain ⟨⟨o, hslot⟩, hdecs⟩ := told_single (v := s.taskEnded s.focus.die s.index 6 cause exit) (d := s.focus.die) (n := s.index) (id :=
        s.taskId s.focus.die s.index)
        (reg := Rec.region (s.slot s.focus.die s.index).raw) hhub'
      rw [slot_taskEnded] at hslot
      rw [decs_taskEnded] at hdecs
      refine ⟨?_, ?_⟩
      · rw [hu, stateOf_unreferenced]
        exact state_ended hkind (by decide) hslot
      · rw [hu, decs_unreferenced, hdecs]

end Sys2Proof.Machine
end

section
/-! PROOFS of placement, staging and starts (22_task_dispatcher.md R292, R298, R299, R304, 03_memory_model.md R50, R51). -/

namespace Sys2Proof.Machine

open Sys2Proof.Safety

/-! ### Changes of a die's tiles, one after the other -/

section Tiles

variable {d : Nat} {step : State → Nat → State}

/-- A tile that no step is made for stays. -/
theorem tile_foldl_ne (hne : ∀ s t u, u ≠ t → (step s t).tile d u = s.tile d u) {u : Nat} :
    ∀ (l : List Nat) (s : State), u ∉ l → (l.foldl step s).tile d u = s.tile d u
  | [], _, _ => rfl
  | t :: l, s, h => (tile_foldl_ne hne l (step s t) fun h' => h (List.mem_cons_of_mem _ h')).trans (hne s t u fun h' => h (h' ▸ List.mem_cons_self))

/-- Every tile keeps what a step keeps (Q), and has what a step gives it (P) where one is made for it. -/
theorem tile_foldl {I : State → Prop} {Q P : Nat → Tile → Prop} (hI : ∀ s t, I s → I (step s t))
    (hne : ∀ s t u, u ≠ t → (step s t).tile d u = s.tile d u) (hstep : ∀ s t, I s → Q t (s.tile d t) → P t ((step s t).tile d t))
    (hPQ : ∀ t y, P t y → Q t y) :
    ∀ (l : List Nat) (s : State), I s → (∀ t, Q t (s.tile d t)) → ∀ t ∈ l, P t ((l.foldl step s).tile d t) := by
  intro l
  induction l with
  | nil => exact fun _ _ _ t ht => absurd ht List.not_mem_nil
  | cons t l ih =>
    intro s hs hq u hu
    have hq' (v : Nat) : Q v ((step s t).tile d v) := by
      by_cases hv : v = t
      · rw [hv]
        exact hPQ _ _ (hstep s t hs (hq t))
      · rw [hne s t v hv]
        exact hq v
    by_cases hul : u ∈ l
    · exact ih (step s t) (hI s t hs) hq' u hul
    · rw [List.foldl_cons, tile_foldl_ne hne l _ hul]
      obtain rfl : u = t := (List.mem_cons.mp hu).resolve_right hul
      exact hstep s u hs (hq u)

/-- What every step keeps, all of them keep. -/
theorem part_foldl {α β : Type} (part : State → β) {f : State → α → State} (h : ∀ s x, part (f s x) = part s) : ∀ (l : List α) (s : State),
    part (l.foldl f s) = part s
  | [], _ => rfl
  | x :: l, s => (part_foldl part h l (f s x)).trans (h s x)

end Tiles

/-! ### Requests of placements (R50) -/

theorem recordsKept_sendWindowReq (s : State) (a b : Nat) (r : Req) : RecordsKept s (s.send a b (.windowReq r)) := by
  by_cases h : b = a
  · rw [send_self h]
    exact recordsKept_updNd s a fun x => { x with windows := x.windows ++ [r] }
  · rw [send_other h]
    exact recordsKept_updFab s a _

theorem tiles_sendWindowReq (s : State) (a b : Nat) (r : Req) : (s.send a b (.windowReq r)).tiles = s.tiles := by
  by_cases h : b = a
  · rw [send_self h]
    rfl
  · rw [send_other h]
    rfl

/-! ### Staging (R292, R298) -/

section Stage

variable (s : State) (d n : Nat) (r : Rect)

/-- Seating a gang changes the matrix engines of tiles. -/
theorem seatGang_tile (raw : Vec) (ts : List Nat) (t : Nat) : ∃ m, (s.seatGang d raw ts).tile d t = { s.tile d t with me := m } := by
  rw [State.seatGang]
  generalize (List.range ts.length).zip ts = l
  induction l generalizing s with
  | nil => exact ⟨_, rfl⟩
  | cons x l ih =>
    obtain ⟨m, hm⟩ := ih (s.updMe d x.2 fun m => { m with seat := if Rec.table raw then seatAt raw ts x.1 else { m.seat with v := false } })
    rw [List.foldl_cons, hm]
    by_cases h : t = x.2
    · rw [h, State.updMe, State.tile_updTile]
      exact ⟨_, rfl⟩
    · rw [State.updMe, tile_updTile_ne _ _ h]
      exact ⟨_, rfl⟩

theorem seatGang_kept (raw : Vec) (ts : List Nat) : RecordsKept s (s.seatGang d raw ts) :=
  recordsKept_foldl (fun s _ => recordsKept_updTile s _ _ _) _ s

theorem gangWord_updTd (s : State) (d : Nat) (f : Td → Td) (r : Rect) (t : Nat) : (s.updTd d f).gangWord d r t = s.gangWord d r t := by
  have h : ((s.updTd d f).die d).defects = (s.die d).defects := by rw [State.updTd, State.die_updDie]
  simp only [State.gangWord, State.defective, h]

/-- The record of a task that is STAGING. -/
def State.stagingRaw (s : State) (d n : Nat) (r : Rect) : Vec :=
  let mask := ((s.liveTiles d r).map fun t => 2 ^ r.rank t).sum
  setFld (setFld (setFld (setFld (s.slot d n).raw 60 4 3) 384 128 mask) 272 16 (mask / 2 ^ 128)) 320 32 s.cycle

theorem state_stagingRaw : Rec.state (s.stagingRaw d n r) = 3 := by
  rw [State.stagingRaw, Rec.state, fldN_setFld_outside _ (by decide) (Or.inl (by decide)), fldN_setFld_outside _ (by decide) (Or.inl (by decide)),
    fldN_setFld_outside _ (by decide) (Or.inl (by decide))]
  exact state_setFld_state _ (by decide)

/-- The state once a STAGING task's record is written. -/
def State.stagingRecord (s : State) (d n : Nat) (r : Rect) (staged : List Nat) : State :=
  s.setSlot d n { s.slot d n with raw := s.stagingRaw d n r, asking := none, staging := staged }

/-- The state once the tiles of a STAGING task are its own. -/
def State.stagingTiles (s : State) (d : Nat) (r : Rect) (ts : List Nat) : State :=
  ts.foldl (fun s t => s.updTile d t fun y => y.placed (s.gangWord d r t)) s

theorem stage_eq : ∃ staged merged, s.stage d n r =
    (merged : List Nat).foldl (fun s j => s.merge d n j)
      (((s.stagingRecord d n r staged).stagingTiles d r (s.liveTiles d r)).seatGang d (s.stagingRaw d n r) (s.liveTiles d r)) :=
  ⟨_, _, rfl⟩

/-- A merge changes the merged reads of its die alone. -/
theorem merge_keeps (j : Nat) : (∀ k, (s.merge d n j).slot d k = s.slot d k) ∧ (s.merge d n j).tiles = s.tiles ∧ (s.merge d n j).mem = s.mem := by
  refine ⟨fun k => ?_, rfl, rfl⟩
  rw [State.merge, slot_updTd]
  split_ifs <;> rfl

theorem merges_keep (l : List Nat) : (∀ k, (l.foldl (fun s j => s.merge d n j) s).slot d k = s.slot d k) ∧
    (l.foldl (fun s j => s.merge d n j) s).tiles = s.tiles ∧ (l.foldl (fun s j => s.merge d n j) s).mem = s.mem :=
  ⟨fun k => part_foldl (fun s => s.slot d k) (fun s j => (merge_keeps s d n j).1 k) l s,
    part_foldl State.tiles (fun s j => (merge_keeps s d n j).2.1) l s, part_foldl State.mem (fun s j => (merge_keeps s d n j).2.2) l s⟩

theorem stagingTiles_kept (ts : List Nat) : RecordsKept s (s.stagingTiles d r ts) :=
  recordsKept_foldl (fun s _ => recordsKept_updTile s _ _ _) _ s

/-- What a tile of a STAGING task holds: its gang word, no landing entry, no flag, and its task as before. -/
def Tile.StagedFrom (y z : Tile) (gang : Word64) : Prop :=
  y.task = z.task ∧ y.runs = z.runs ∧ y.region = z.region ∧ y.gang = gang ∧ y.landing = [] ∧ y.mbx = z.mbx ∧ y.savedFlag = false

theorem dies_updTile (s : State) (d t : Nat) (f : Tile → Tile) : (s.updTile d t f).dies = s.dies := rfl

theorem gangWord_of_dies {u : State} (h : u.dies = s.dies) (t : Nat) : u.gangWord d r t = s.gangWord d r t := by
  have hdef (t : Nat) : u.defective d t = s.defective d t := by rw [State.defective, State.defective, State.die, State.die, h]
  simp only [State.gangWord, hdef]

theorem stagedFrom_placed {y z : Tile} (htask : y.task = z.task) (hruns : y.runs = z.runs) (hregion : y.region = z.region) (hmbx : y.mbx = z.mbx) (gang : Word64) :
    (y.placed gang).StagedFrom z gang := ⟨htask, hruns, hregion, rfl, rfl, hmbx, rfl⟩

theorem stagedFrom_kept {y z : Tile} {gang : Word64} (h : y.StagedFrom z gang) :
    y.task = z.task ∧ y.runs = z.runs ∧ y.region = z.region ∧ y.mbx = z.mbx := by
  obtain ⟨htask, hruns, hregion, -, -, hmbx, -⟩ := h
  exact ⟨htask, hruns, hregion, hmbx⟩

theorem stagingTiles_tile (ts : List Nat) : ∀ t ∈ ts, Tile.StagedFrom ((s.stagingTiles d r ts).tile d t) (s.tile d t) (s.gangWord d r t) := by
  refine tile_foldl (step := fun s t => s.updTile d t fun y => y.placed (s.gangWord d r t)) (I := fun u => u.dies = s.dies) (Q :=
    fun t y => y.task = (s.tile d t).task ∧ y.runs = (s.tile d t).runs ∧ y.region = (s.tile d t).region ∧ y.mbx = (s.tile d t).mbx)
    (P := fun t y => Tile.StagedFrom y (s.tile d t) (s.gangWord d r t)) (fun u t h => (dies_updTile u d t _).trans h) (fun u t v h => tile_updTile_ne u _ h) (fun u t hu hq => ?_)
    (fun t y h => stagedFrom_kept h) ts s rfl (fun t => ⟨rfl, rfl, rfl, rfl⟩)
  obtain ⟨htask, hruns, hregion, hmbx⟩ := hq
  rw [State.tile_updTile, gangWord_of_dies s d r hu]
  exact stagedFrom_placed htask hruns hregion hmbx _

/-- A task becomes STAGING on the rectangle that it holds. -/
theorem stage_spec (hkind : (s.slot d n).kind = .task) : (s.stage d n r).stateOf d n = 3 ∧ ((s.stage d n r).slot d n).asking = none ∧
    ((s.stage d n r).slot d n).rect = (s.slot d n).rect ∧ (s.stage d n r).mem = s.mem ∧
    ∀ t ∈ s.liveTiles d r, Tile.StagedFrom ((s.stage d n r).tile d t) (s.tile d t) (s.gangWord d r t) := by
  obtain ⟨staged, merged, heq⟩ := stage_eq s d n r
  have hrec : RecordsKept (s.stagingRecord d n r staged)
      (((s.stagingRecord d n r staged).stagingTiles d r (s.liveTiles d r)).seatGang d (s.stagingRaw d n r) (s.liveTiles d r)) :=
    (stagingTiles_kept _ d r _).trans (seatGang_kept _ d _ _)
  obtain ⟨hslots, htiles, hmem⟩ := merges_keep
    (((s.stagingRecord d n r staged).stagingTiles d r (s.liveTiles d r)).seatGang d (s.stagingRaw d n r) (s.liveTiles d r)) d n merged
  have hslot : (s.stage d n r).slot d n = { s.slot d n with raw := s.stagingRaw d n r, asking := none, staging := staged } := by
    rw [heq, hslots, slot_of_td (hrec.td d), State.stagingRecord, slot_setSlot]
  refine ⟨?_, by rw [hslot], by rw [hslot], ?_, fun t ht => ?_⟩
  · rw [State.stateOf, hslot]
    simp only [hkind, if_true, state_stagingRaw]
  · rw [heq, hmem, hrec.mem]
    rfl
  · have htile : (s.stage d n r).tile d t =
        (((s.stagingRecord d n r staged).stagingTiles d r (s.liveTiles d r)).seatGang d (s.stagingRaw d n r) (s.liveTiles d r)).tile d t := by
      rw [heq]
      exact congrArg (fun l => look ({} : Tile) l (d * 144 + t)) htiles
    obtain ⟨m, hm⟩ := seatGang_tile ((s.stagingRecord d n r staged).stagingTiles d r (s.liveTiles d r)) d (s.stagingRaw d n r) (s.liveTiles d r) t
    obtain ⟨h1, h2, h3, h4, h5, h6, h7⟩ := stagingTiles_tile (s.stagingRecord d n r staged) d r (s.liveTiles d r) t ht
    rw [htile, hm]
    exact ⟨h1, h2, h3, h4.trans (gangWord_updTd s d _ r t), h5, h6, h7⟩

end Stage

/-! ### Placing (R50, R51, R299) -/

section Place

variable (s : State) (d n : Nat) (r : Rect)

/-- The windows with which the task in a slot is placed. -/
def State.placeWindows (s : State) (d n : Nat) : List (BitVec 32 × Win) := (((s.die d).td.savedOf n).map Saved.wins).getD (s.declared d n)

/-- A window of a placement is sent to its home. -/
def State.askWindow (s : State) (d n reg : Nat) (w : BitVec 32 × Win) : State := s.send d (s.objHub w.1) (.windowReq
  { place := ⟨d, 0, 0⟩, serial := s.cycle, index := n, region := reg, kind := .place n s.cycle w.1 w.2, since := s.cycle })

/-- A rectangle's tiles are taken for the task in a slot. -/
def State.takeTiles (s : State) (d n reg : Nat) (ts : List Nat) : State := ts.foldl (fun s t => s.updTile d t fun y => y.taken (s.taskId d n) reg) s

/-- A rectangle is held for a task, k windows being awaited. -/
def State.placing (s : State) (d n : Nat) (r : Rect) (k : Nat) : State :=
  ((s.setSlot d n { s.slot d n with rect := some r, asking := some { serial := s.cycle, left := k } }).takeTiles d n (Rec.region (s.slot d n).raw)
    (s.liveTiles d r)).updTd d fun t => { t with reservation := t.reservation.filter fun v => v.1 != n }

theorem place_eq : s.place d n r = if s.placeWindows d n = [] then (s.placing d n r (s.placeWindows d n).length).stage d n r
    else (s.placeWindows d n).foldl (fun u w => u.askWindow d n (Rec.region (s.slot d n).raw) w) (s.placing d n r (s.placeWindows d n).length) := rfl

theorem takeTiles_kept (reg : Nat) (ts : List Nat) : RecordsKept s (s.takeTiles d n reg ts) :=
  recordsKept_foldl (fun s _ => recordsKept_updTile s _ _ _) _ s

/-- A tile that is held for a task. -/
def Tile.HeldFor (y : Tile) (id : BitVec 32) (reg : Nat) : Prop := y.task = some id ∧ y.region = reg ∧ y.runs = false ∧ y.mbx = []

theorem takeTiles_tile (reg : Nat) (ts : List Nat) : ∀ t ∈ ts, ((s.takeTiles d n reg ts).tile d t).HeldFor (s.taskId d n) reg := by
  refine tile_foldl (step := fun s t => s.updTile d t fun y => y.taken (s.taskId d n) reg) (I := fun u => u.taskId d n = s.taskId d n) (Q := fun _ _ => True)
    (P := fun _ y => y.HeldFor (s.taskId d n) reg) (fun u t h => h) (fun u t v h => tile_updTile_ne u _ h) (fun u t hu _ => ?_) (fun _ _ _ => trivial) ts s rfl
    (fun _ => trivial)
  rw [State.tile_updTile, hu]
  exact ⟨rfl, rfl, rfl, rfl⟩

theorem slot_placing (k : Nat) : (s.placing d n r k).slot d n = { s.slot d n with rect := some r, asking := some { serial := s.cycle, left := k } } := by
  rw [State.placing, slot_updTd]
  refine (slot_of_td ((takeTiles_kept _ d n _ _).td d) n).trans ?_
  rw [slot_setSlot]

theorem mem_placing (k : Nat) : (s.placing d n r k).mem = s.mem := by
  rw [State.placing, State.updTd_mem, (takeTiles_kept _ d n _ _).mem, State.setSlot_mem]

theorem tile_updTd (s : State) (d : Nat) (f : Td → Td) (e t : Nat) : (s.updTd d f).tile e t = s.tile e t := rfl

theorem tile_placing (k : Nat) {t : Nat} (ht : t ∈ s.liveTiles d r) : ((s.placing d n r k).tile d t).HeldFor (s.taskId d n) (Rec.region (s.slot d n).raw) := by
  rw [State.placing, tile_updTd]
  exact takeTiles_tile (s.setSlot d n { s.slot d n with rect := some r, asking := some { serial := s.cycle, left := k } }) d n _ _ t ht

theorem takeTiles_dies (reg : Nat) (ts : List Nat) : (s.takeTiles d n reg ts).dies = s.dies :=
  part_foldl State.dies (fun u t => dies_updTile u d t _) ts s

theorem liveTiles_of_dies {s u : State} (h : u.dies = s.dies) (d : Nat) (r : Rect) : u.liveTiles d r = s.liveTiles d r := by
  simp only [State.liveTiles, State.defective, State.die, h]

theorem liveTiles_placing (k : Nat) : (s.placing d n r k).liveTiles d r = s.liveTiles d r := by
  rw [State.placing, liveTiles_updTd]
  refine (liveTiles_of_dies (takeTiles_dies _ d n _ _) d r).trans ?_
  rw [State.setSlot, liveTiles_updTd]

theorem askWindow_keeps (reg : Nat) (w : BitVec 32 × Win) : RecordsKept s (s.askWindow d n reg w) ∧ (s.askWindow d n reg w).tiles = s.tiles := by
  rw [State.askWindow]
  exact ⟨recordsKept_sendWindowReq .., tiles_sendWindowReq ..⟩

theorem askWindows_keep (reg : Nat) (l : List (BitVec 32 × Win)) : RecordsKept s (l.foldl (fun u w => u.askWindow d n reg w) s) ∧
    (l.foldl (fun u w => u.askWindow d n reg w) s).tiles = s.tiles :=
  ⟨recordsKept_foldl (fun s w => (askWindow_keeps s d n reg w).1) l s, part_foldl State.tiles (fun s w => (askWindow_keeps s d n reg w).2) l s⟩

/-- What a placement on a rectangle leaves. -/
structure Placed (s u : State) (d n : Nat) (r : Rect) (wins : List (BitVec 32 × Win)) : Prop where
  rect : (u.slot d n).rect = some r
  mem : u.mem = s.mem
  tile : ∀ t ∈ s.liveTiles d r, (u.tile d t).HeldFor (s.taskId d n) (Rec.region (s.slot d n).raw)
  asks : wins ≠ [] → u.stateOf d n = s.stateOf d n ∧ (u.slot d n).asking = some { serial := s.cycle, left := wins.length }
  stages : wins = [] → u.stateOf d n = 3 ∧ (u.slot d n).asking = none

theorem place_spec (hkind : (s.slot d n).kind = .task) : Placed s (s.place d n r) d n r (s.placeWindows d n) := by
  rw [place_eq]
  have hslot := slot_placing s d n r (s.placeWindows d n).length
  by_cases hw : s.placeWindows d n = []
  · rw [if_pos hw]
    obtain ⟨hstate, hasking, hrect, hmem, htile⟩ := stage_spec (s.placing d n r (s.placeWindows d n).length) d n r (by rw [hslot]; exact hkind)
    refine ⟨by rw [hrect, hslot], hmem.trans (mem_placing ..), fun t ht => ?_, fun h => absurd hw h, fun _ => ⟨hstate, hasking⟩⟩
    obtain ⟨htask, hruns, hregion, -, -, hmbx, -⟩ := htile t (by rw [liveTiles_placing]; exact ht)
    obtain ⟨gtask, gregion, gruns, gmbx⟩ := tile_placing s d n r (s.placeWindows d n).length ht
    exact ⟨htask.trans gtask, hregion.trans gregion, hruns.trans gruns, hmbx.trans gmbx⟩
  · rw [if_neg hw]
    obtain ⟨hkeep, htiles⟩ := askWindows_keep (s.placing d n r (s.placeWindows d n).length) d n (Rec.region (s.slot d n).raw) (s.placeWindows d n)
    have hslot' := (slot_of_td (hkeep.td d) n).trans hslot
    refine ⟨by rw [hslot'], hkeep.mem.trans (mem_placing ..), fun t ht => ?_, fun _ => ⟨?_, by rw [hslot']⟩, fun h => absurd h hw⟩
    · rw [tile_of_tiles htiles]
      exact tile_placing s d n r _ ht
    · rw [stateOf_of_td (hkeep.td d), State.stateOf, hslot]
      rfl

end Place

/-! ### Passes (R299) -/

section Pass

variable {s z : State} {d n : Nat}

/-- The ARMED tasks of a die, by slot. -/
def State.armedSlots (s : State) (d : Nat) : List Nat := ((s.die d).td.slots.map (·.1)).filter fun n => s.stateOf d n == 2

theorem length_insertBy {α : Type} (before : α → α → Bool) (x : α) : ∀ l : List α, (insertBy before x l).length = l.length + 1
  | [] => rfl
  | y :: l => by
    rw [insertBy]
    split_ifs
    · rfl
    · rw [List.length_cons, length_insertBy before x l, List.length_cons]

theorem length_foldl_insertBy {α : Type} (before : α → α → Bool) : ∀ (l m : List α), (l.foldl (fun m x => insertBy before x m) m).length = m.length + l.length
  | [], m => rfl
  | x :: l, m => by
    rw [List.foldl_cons, length_foldl_insertBy before l, length_insertBy, List.length_cons]
    omega

theorem armedTasks_eq (s : State) (d : Nat) : ∃ before : Nat → Nat → Bool,
    s.armedTasks d = (s.armedSlots d).foldl (fun l n => insertBy before n l) [] := ⟨_, rfl⟩

/-- One ARMED task is alone in the order too. -/
theorem armedTasks_single : s.armedTasks d = [n] ↔ s.armedSlots d = [n] := by
  obtain ⟨before, heq⟩ := armedTasks_eq s d
  rw [heq]
  constructor
  · intro h
    have hlen := congrArg List.length h
    rw [length_foldl_insertBy, List.length_singleton, List.length_nil, Nat.zero_add] at hlen
    obtain ⟨m, hm⟩ := List.length_eq_one_iff.mp hlen
    rw [hm] at h ⊢
    exact h
  · intro h
    rw [h]
    rfl

/-- Two states that a pass on a die tells apart by the regions' readings at most. -/
structure SameForPass (s z : State) (d : Nat) : Prop where
  td : (z.die d).td = (s.die d).td
  defects : (z.die d).defects = (s.die d).defects
  tiles : z.tiles = s.tiles
  regions : z.regions = s.regions
  ladders : z.ladders = s.ladders
  mem : z.mem = s.mem
  cycle : z.cycle = s.cycle
  moduleId : z.moduleId = s.moduleId

theorem SameForPass.slot (h : SameForPass s z d) (n : Nat) : z.slot d n = s.slot d n := slot_of_td h.td n

theorem SameForPass.stateOf (h : SameForPass s z d) (n : Nat) : z.stateOf d n = s.stateOf d n := stateOf_of_td h.td n

theorem SameForPass.tile (h : SameForPass s z d) (t : Nat) : z.tile d t = s.tile d t := tile_of_tiles h.tiles d t

theorem SameForPass.defective (h : SameForPass s z d) (t : Nat) : z.defective d t = s.defective d t := by rw [State.defective, State.defective, h.defects]

theorem SameForPass.liveTiles (h : SameForPass s z d) (r : Rect) : z.liveTiles d r = s.liveTiles d r := by
  simp only [State.liveTiles, h.defective]

theorem SameForPass.taskId (h : SameForPass s z d) (n : Nat) : z.taskId d n = s.taskId d n := by rw [State.taskId, State.taskId, h.moduleId]

theorem SameForPass.armedSlots (h : SameForPass s z d) : z.armedSlots d = s.armedSlots d := by
  simp only [State.armedSlots, h.td, h.stateOf]

theorem SameForPass.choices (h : SameForPass s z d) (n : Nat) : z.choices d n = s.choices d n := by
  simp only [State.choices, h.slot]

theorem SameForPass.fits (h : SameForPass s z d) (n : Nat) : z.fits d n = s.fits d n := by
  funext r
  simp only [State.fits, State.holesOk, h.slot, h.tile, h.defective, h.td]

theorem SameForPass.isAncestor (h : SameForPass s z d) (a r : Nat) : z.isAncestor a r = s.isAncestor a r := ancGo_of_regions h.regions a 4096 r

theorem SameForPass.ladderHolds (h : SameForPass s z d) (n : Nat) : z.ladderHolds d n = s.ladderHolds d n := by
  simp only [State.ladderHolds, State.covers, h.ladders, h.slot, h.isAncestor]

theorem SameForPass.placeWindows (h : SameForPass s z d) (n : Nat) : z.placeWindows d n = s.placeWindows d n := by
  simp only [State.placeWindows, State.declared, h.slot, h.td, h.taskId]

/-- A dispatcher's state written as it stands changes nothing that a pass sees. -/
theorem sameForPass_updTd {f : Td → Td} (h : f (s.die d).td = (s.die d).td) (l : List Nat) : SameForPass s ((s.updTd d f).readBlocks l) d :=
  have hdef : ((s.updTd d f).die d).defects = (s.die d).defects := part_updDie Die.defects (f := fun x => { x with td := f x.td }) (fun _ => rfl) d
  ⟨(td_updTd s d f).trans h, hdef, rfl, rfl, rfl, rfl, rfl, rfl⟩

/-- The reading of regions' blocks does not see the dispatchers' state. -/
theorem readings_updTd (s : State) (d : Nat) (f : Td → Td) (l : List Nat) : ((s.updTd d f).readBlocks l).readings = (s.readBlocks l).readings := by
  have hnow (r : Nat) : (s.updTd d f).effNow r = s.effNow r := by
    simp only [State.effNow, effGo_of_regions (s := s) (t := s.updTd d f) rfl]
  simp only [State.readBlocks, hnow]
  rfl

/-- TILES budgets depend on the regions' readings, the regions and the tiles. -/
theorem tilesFit_congr {s z : State} (htiles : z.tiles = s.tiles) (hregions : z.regions = s.regions) (hread : z.readings = s.readings) (r k : Nat) :
    z.tilesFit r k = s.tilesFit r k := by
  have hanc (a b : Nat) : z.isAncestor a b = s.isAncestor a b := ancGo_of_regions hregions a 4096 b
  have heff (a ovr : Nat) : z.eff a ovr = s.eff a ovr := by
    rw [State.eff, State.eff, hread]
    simp only [effGo_of_regions hregions]
  simp only [State.tilesFit, State.tilesHeld, htiles, hregions, hanc, heff]
  rfl

/-- A task's turn in a pass: it is placed on the first rectangle that fits. -/
theorem passTask_places {r : Rect} (hst : s.stateOf d n = 2) (hask : (s.slot d n).asking = none) (hladder : s.ladderHolds d n = false)
    (hfit : s.tilesFit (Rec.region (s.slot d n).raw) (Rec.w (s.slot d n).raw * Rec.h (s.slot d n).raw) = true)
    (hr : (s.choices d n).find? (s.fits d n) = some r) : s.passTask d n = s.place d n r := by
  rw [State.passTask]
  simp only [hr, hfit, hst, hask, hladder]
  rfl

/-- A pass on a die with one ARMED task and no answer to take. -/
theorem pass_single {r : Rect} (hstop : (s.die d).stopped = false) (hhalt : (s.die d).halt = none) (hgrants : (s.die d).td.grants = []) (harmed : s.armedTasks d = [n])
    (hst : s.stateOf d n = 2) (hask : (s.slot d n).asking = none) (hladder : s.ladderHolds d n = false)
    (hfit : (s.readBlocks [Rec.region (s.slot d n).raw]).tilesFit (Rec.region (s.slot d n).raw) (Rec.w (s.slot d n).raw * Rec.h (s.slot d n).raw) = true)
    (hr : (s.choices d n).find? (s.fits d n) = some r) : ∃ z, SameForPass s z d ∧ s.pass d = z.place d n r := by
  have hgone : { (s.die d).td with grants := [] } = (s.die d).td := by rw [← hgrants]
  have hsame (l : List Nat) := sameForPass_updTd (s := s) (d := d) (f := fun t => { t with grants := [] }) hgone l
  have htake : s.takeGrants d = s.updTd d fun t => { t with grants := [] } := by rw [State.takeGrants, hgrants]; rfl
  have hslots := armedTasks_single.mp harmed
  have hz := hsame [Rec.region (s.slot d n).raw]
  refine ⟨_, hz, ?_⟩
  have harmed1 : (s.updTd d fun t => { t with grants := [] }).armedTasks d = [n] := armedTasks_single.mpr ((hsame []).armedSlots.trans hslots)
  have hslot1 : (s.updTd d fun t => { t with grants := [] }).slot d n = s.slot d n := (hsame []).slot n
  have hread : (([n].map fun n => Rec.region ((s.updTd d fun t => { t with grants := [] }).slot d n).raw).eraseDups) = [Rec.region (s.slot d n).raw] := by
    rw [List.map_singleton, hslot1]
    rfl
  rw [State.pass, if_pos (by rw [State.dispatches, hstop, hhalt]; rfl)]
  simp only [htake, harmed1, hread]
  rw [armedTasks_single.mpr (hz.armedSlots.trans hslots), List.foldl_cons, List.foldl_nil]
  refine passTask_places ((hz.stateOf n).trans hst) (by rw [hz.slot]; exact hask) ((hz.ladderHolds n).trans hladder) ?_ ?_
  · rw [hz.slot]
    exact (tilesFit_congr (s := s.readBlocks [Rec.region (s.slot d n).raw]) hz.tiles hz.regions (readings_updTd s d _ _) _ _).trans hfit
  · rw [hz.choices, hz.fits]
    exact hr

end Pass

/-! ### Starts (R292, R304, 06_block_engine.md R83) -/

section Start

variable {s : State} {d n : Nat}

theorem fillNow_keeps (t : Tile) (k : Nat) (r : Reg) : (t.fillNow k r).gang = t.gang ∧ (t.fillNow k r).ctxs = t.ctxs := by
  rw [Tile.fillNow]
  split_ifs <;> exact ⟨rfl, rfl⟩

/-- Handles that fill landing entries leave the tile's gang word and its contexts. -/
theorem fillAll_keeps (f : Nat → Reg) : ∀ (l : List Nat) (t : Tile), (l.foldl (fun y j => y.fillNow (56 + j) (f j)) t).gang = t.gang ∧
    (l.foldl (fun y j => y.fillNow (56 + j) (f j)) t).ctxs = t.ctxs
  | [], _ => ⟨rfl, rfl⟩
  | j :: l, t => by
    obtain ⟨hgang, hctxs⟩ := fillAll_keeps f l (t.fillNow (56 + j) (f j))
    obtain ⟨hg, hc⟩ := fillNow_keeps t (56 + j) (f j)
    exact ⟨hgang.trans hg, hctxs.trans hc⟩

/-- A tile of a gang that starts from its record. -/
def Tile.started (y : Tile) (raw : Vec) (cycle : Nat) (id : BitVec 32) (n : Nat) : Tile :=
  let y1 := (Rec.valid raw).foldl (fun y j => y.fillNow (56 + j) (Reg.ofH (Rec.opnd raw j 0))) y
  let c := (look {} y1.ctxs 0).startTask (cycle + 1) (Rec.code raw) (Rec.entry raw) (Rec.region raw)
    [id.setWidth 64, y.gang, BitVec.ofNat 64 (256 * n), (Rec.join raw).setWidth 64]
  { y1 with ctxs := put y1.ctxs 0 c, runs := true }

/-- A context 0 as a task's start leaves it, but for the words that it has seen. -/
def Ctx.StartedAs (c : Ctx) (raw : Vec) (id : BitVec 32) (gang : Word64) (n : Nat) : Prop :=
  ∃ c0 run seen, c = { Ctx.startTask c0 run (Rec.code raw) (Rec.entry raw) (Rec.region raw)
    [id.setWidth 64, gang, BitVec.ofNat 64 (256 * n), (Rec.join raw).setWidth 64] with seen := seen }

theorem started_spec (y : Tile) (raw : Vec) (cycle : Nat) (id : BitVec 32) (n : Nat) :
    (y.started raw cycle id n).gang = y.gang ∧ (look {} (y.started raw cycle id n).ctxs 0).StartedAs raw id y.gang n := by
  obtain ⟨hgang, hctxs⟩ := fillAll_keeps (fun j => Reg.ofH (Rec.opnd raw j 0)) (Rec.valid raw) y
  refine ⟨hgang, ?_⟩
  rw [Tile.started, look_put]
  exact ⟨_, _, _, rfl⟩

/-- The tiles of a gang are started. -/
def State.startTiles (s : State) (d n : Nat) (raw : Vec) (ts : List Nat) : State :=
  ts.foldl (fun s t => s.updTile d t fun y => y.started raw s.cycle (s.taskId d n) n) s

theorem startFresh_eq (s : State) (d n : Nat) :
    s.startFresh d n = (s.seatGang d (s.slot d n).raw (s.gangTiles d n)).startTiles d n (s.slot d n).raw (s.gangTiles d n) := rfl

theorem startTiles_tile (s : State) (d n : Nat) (raw : Vec) (ts : List Nat) : ∀ t ∈ ts,
    (look {} ((s.startTiles d n raw ts).tile d t).ctxs 0).StartedAs raw (s.taskId d n) (s.tile d t).gang n := by
  have h := tile_foldl (step := fun s t => s.updTile d t fun y => y.started raw s.cycle (s.taskId d n) n) (I := fun u => u.taskId d n = s.taskId d n)
    (Q := fun t y => y.gang = (s.tile d t).gang)
    (P := fun t y => y.gang = (s.tile d t).gang ∧ (look {} y.ctxs 0).StartedAs raw (s.taskId d n) (s.tile d t).gang n)
    (fun u t h => h) (fun u t v h => tile_updTile_ne u _ h) (fun u t hu hq => ?_) (fun _ _ h => h.1) ts s rfl (fun _ => rfl)
  · exact fun t ht => (h t ht).2
  · rw [State.tile_updTile, hu]
    obtain ⟨hgang, hctx⟩ := started_spec (u.tile d t) raw u.cycle (s.taskId d n) n
    rw [hq] at hgang hctx
    exact ⟨hgang, hctx⟩

/-- Seeing changes what a context has seen alone. -/
theorem startedAs_see {c : Ctx} {raw : Vec} {id : BitVec 32} {gang : Word64} {n : Nat} (h : c.StartedAs raw id gang n) (w : List Word64) :
    Ctx.StartedAs { c with seen := w } raw id gang n := by
  obtain ⟨c0, run, seen, rfl⟩ := h
  exact ⟨c0, run, w, rfl⟩

/-- The contexts 0 of the tiles see their status words. -/
def State.seeAll (s : State) (d : Nat) (ts : List Nat) : State := ts.foldl (fun s t => s.see ⟨d, t, 0⟩) s

theorem seeAll_started {raw : Vec} {id : BitVec 32} {n : Nat} {gang : Nat → Word64} (ts : List Nat) : ∀ (s : State) (t : Nat),
    (s.ctx ⟨d, t, 0⟩).StartedAs raw id (gang t) n → ((s.seeAll d ts).ctx ⟨d, t, 0⟩).StartedAs raw id (gang t) n := by
  induction ts with
  | nil => exact fun s t h => h
  | cons u ts ih =>
    intro s t h
    refine ih (s.see ⟨d, u, 0⟩) t ?_
    by_cases hu : t = u
    · obtain ⟨seen, hsee⟩ := State.ctx_see s ⟨d, u, 0⟩
      rw [hu] at h ⊢
      rw [hsee]
      exact startedAs_see h seen
    · rw [State.see, ctx_updCtx_ne_of_die (p := ⟨d, u, 0⟩) (q := ⟨d, t, 0⟩) s _ rfl fun h => hu (congrArg Place.tile h)]
      exact h

theorem seeAll_kept (s : State) (ts : List Nat) : RecordsKept s (s.seeAll d ts) :=
  recordsKept_foldl (fun s _ => recordsKept_updCtx s _ _) ts s

theorem startTiles_kept (s : State) (d n : Nat) (raw : Vec) (ts : List Nat) : RecordsKept s (s.startTiles d n raw ts) :=
  recordsKept_foldl (fun s _ => recordsKept_updTile s _ _ _) ts s

/-- The gang of a task without a saved image starts. -/
def State.gangStarted (s : State) (d n : Nat) : State := (s.startFresh d n).seeAll d (s.gangTiles d n)

theorem gangStarted_kept (s : State) (d n : Nat) : RecordsKept s (s.gangStarted d n) := by
  rw [State.gangStarted, startFresh_eq]
  exact ((seatGang_kept s d _ _).trans (startTiles_kept _ d n _ _)).trans (seeAll_kept _ _)

theorem gangStarted_ctx (s : State) (d n : Nat) : ∀ t ∈ s.gangTiles d n,
    ((s.gangStarted d n).ctx ⟨d, t, 0⟩).StartedAs (s.slot d n).raw (s.taskId d n) (s.tile d t).gang n := by
  intro t ht
  have h := startTiles_tile (s.seatGang d (s.slot d n).raw (s.gangTiles d n)) d n (s.slot d n).raw (s.gangTiles d n) t ht
  obtain ⟨m, hm⟩ := seatGang_tile s d (s.slot d n).raw (s.gangTiles d n) t
  have hid : (s.seatGang d (s.slot d n).raw (s.gangTiles d n)).taskId d n = s.taskId d n := by
    rw [State.taskId, State.taskId, (seatGang_kept s d _ _).moduleId]
  rw [hm, hid] at h
  rw [State.gangStarted, startFresh_eq]
  exact seeAll_started (gang := fun t => (s.tile d t).gang) (s.gangTiles d n) _ t h

/-- A started task's record, and the window of its region where none of its contexts was active. -/
def State.startRecord (s z : State) (d n : Nat) : State :=
  s.opensWindow (z.setSlot d n { z.slot d n with raw := setFld (z.slot d n).raw 60 4 5, restoring := false }) d (Rec.region (z.slot d n).raw)

theorem startTask_fresh (hsaved : (s.die d).td.savedOf n = none) : s.startTask d n = s.startRecord (s.gangStarted d n) d n := by
  rw [State.startTask, hsaved]
  rfl

theorem opensWindow_keeps (s t : State) (d r : Nat) : (∀ n, (s.opensWindow t d r).slot d n = t.slot d n) ∧ (s.opensWindow t d r).tiles = t.tiles ∧
    (s.opensWindow t d r).mem = t.mem := by
  rw [State.opensWindow]
  split_ifs
  · exact ⟨fun n => by rw [State.progress, slot_updTd]; rfl, rfl, rfl⟩
  · exact ⟨fun _ => rfl, rfl, rfl⟩

theorem startRecord_spec (s z : State) (d n : Nat) (hkind : (z.slot d n).kind = .task) : (s.startRecord z d n).stateOf d n = 5 ∧
    (s.startRecord z d n).mem = z.mem ∧
    ∀ p, (s.startRecord z d n).ctx p = z.ctx p := by
  obtain ⟨hslot, htiles, hmem⟩ := opensWindow_keeps s (z.setSlot d n { z.slot d n with raw := setFld (z.slot d n).raw 60 4 5, restoring := false }) d
    (Rec.region (z.slot d n).raw)
  refine ⟨?_, hmem, fun p => ctx_of_tiles htiles p⟩
  rw [State.stateOf, State.startRecord, hslot, slot_setSlot]
  exact (if_pos hkind).trans (state_setFld_state _ (by decide))

end Start

/-- A register beyond the four that a start writes. -/
theorem look_four {g : Nat} (a b c e : Reg) (h : 4 ≤ g) : look ({} : Reg) [(0, a), (1, b), (2, c), (3, e)] g = {} := by
  rw [look_cons, if_neg (by omega), look_cons, if_neg (by omega), look_cons, if_neg (by omega), look_cons, if_neg (by omega)]
  rfl

section Events

variable {s : State} {d n : Nat}

theorem dispatches_iff : s.dispatches d = true ↔ (s.die d).stopped = false ∧ (s.die d).halt = none := by
  rw [State.dispatches, Bool.and_eq_true, Bool.not_eq_true', Option.isNone_iff_eq_none]

theorem pass_still (h : (s.die d).stopped = true ∨ (s.die d).halt.isSome = true) : s.pass d = s := by
  rw [State.pass, if_neg]
  rw [dispatches_iff]
  rintro ⟨hstop, hhalt⟩
  rcases h with h | h
  · exact absurd (h.symm.trans hstop) nofun
  · rw [hhalt] at h
    exact absurd h nofun

/-- An answer of a home to a placement that awaits it. -/
theorem takeGrant_awaited {a : Asking} {r : Rect} {k : Nat} {o : BitVec 32} {w : Win} (ok : Bool) (ha : (s.slot d n).asking = some a) (hk : a.serial = k)
    (hr : (s.slot d n).rect = some r) :
    let t := s.setSlot d n { s.slot d n with asking := some { a with left := a.left - 1, granted := a.granted ++ [(o, w)] } }
    s.takeGrant d (n, k, o, w, ok) = if ok = false then s.endTask d n 7 Cause.mmRace.code 0 false false
      else if 1 < a.left then t else if t.ladderHolds d n then t.retract d n false else t.stage d n r := by
  have hfilter : (s.slot d n).asking.filter (fun a => a.serial == k) = some a := by
    rw [ha]
    simp [hk]
  rw [State.takeGrant]
  simp only [hfilter, hr]

/-- An answer of a home that no placement awaits. -/
theorem takeGrant_over {k : Nat} {o : BitVec 32} {w : Win} (ok : Bool) (ha : (s.slot d n).asking = none) :
    s.takeGrant d (n, k, o, w, ok) = if ok then s.send d (s.objHub o) (.withdraw ⟨.window o w⟩) else s := by
  rw [State.takeGrant]
  simp only [ha, Option.filter_none]

theorem execStagingMergeClose_eq {m : Merge} (hm : (s.die s.focus.die).td.merges[s.index]? = some m) : exec .stagingMergeClose s = .next (
    if s.cycle < m.opened + 256 then s
    else m.users.foldl (fun t u => t.stageOne s.focus.die u.1 u.2) (s.updTd s.focus.die fun t => { t with merges := dropAt t.merges s.index })) := by
  show execStagingMergeClose s = _
  rw [execStagingMergeClose]
  simp only [hm]

theorem execStagingComplete_done (hst : s.stateOf s.focus.die s.index = 3) (hstaging : (s.slot s.focus.die s.index).staging = []) :
    exec .stagingComplete s = .next (s.setStateOf s.focus.die s.index 4) := by
  show execStagingComplete s = _
  rw [execStagingComplete]
  simp only [hst, hstaging, List.filter_nil, List.foldl_nil]
  rfl

theorem execTaskStart_eq : exec .taskStart s = .next (if s.stateOf s.focus.die s.index = 4 ∧ s.dispatches s.focus.die = true ∧
    s.ladderHolds s.focus.die s.index = false ∧
    s.isStage s.focus.die s.index = false ∧ s.mayRun s.focus.die s.index = true then s.startTask s.focus.die s.index else s) := rfl

/-- The one stage of a pipeline that has no channel. -/
theorem execPipelineStart_single {i : Inst} {k : Nat} (hinsts : (s.die s.focus.die).td.insts = [i]) (hn : i.n = s.index) (horder : i.order = [(s.focus.die, k)])
    (hinst : (s.slot s.focus.die k).inst = some (s.focus.die, s.index)) (hstage : s.isStage s.focus.die k = true) (hchans : (s.die s.focus.die).td.chans = []) :
    exec .pipelineStart s = .next (if (s.stateOf s.focus.die k == 4 && s.dispatches s.focus.die && !s.ladderHolds s.focus.die k && s.mayRun s.focus.die k) = false then s
      else s.startTask s.focus.die k) := by
  show execPipelineStart s = _
  rw [execPipelineStart]
  have hfind : [i].find? (fun i => i.n == s.index) = some i := by simp [hn]
  have hone : (List.range [(s.focus.die, k)].length).filter (fun j =>
      (s.slot ([(s.focus.die, k)].getD j (0, 0)).1 ([(s.focus.die, k)].getD j (0, 0)).2).inst == some (s.focus.die, s.index) &&
        s.isStage ([(s.focus.die, k)].getD j (0, 0)).1 ([(s.focus.die, k)].getD j (0, 0)).2) = [0] := by
    show [0].filter _ = [0]
    rw [List.filter_cons_of_pos (by simp [hinst, hstage]), List.filter_nil]
  simp only [hinsts, hfind, horder, hchans, hone]
  by_cases h : (s.stateOf s.focus.die k == 4 && s.dispatches s.focus.die && !s.ladderHolds s.focus.die k && s.mayRun s.focus.die k) = false
  · rw [if_pos h, if_pos (Or.inr (by simpa using h))]
  · rw [if_neg h, if_neg (by simpa using h)]
    rfl

end Events

/-- Settles O44: a pass with one ARMED task places it on the first rectangle that fits; the tiles are the task's own from then on, and its
contexts are written at its start alone. -/
theorem placementAndStarts : Obligations.PlacementAndStarts := by
  unfold Obligations.PlacementAndStarts
  refine ⟨fun s n => ⟨fun h => ?_, fun hstop hhalt hgrants harmed hst hask hladder hfit r hr => ?_, fun r hkind => ?_, fun r k => ?_,
    fun k o w => ?_, fun hst hlate => ?_, fun hst => ?_⟩,
    fun s => ⟨fun m a hm => ⟨fun h => ?_, fun h husers => ?_⟩, fun hst hstaging => ?_, fun hst => ?_,
      fun hst hstop hhalt hladder hstage hrun hsaved => ?_, fun hst => ?_,
      fun i k hinsts hn horder hinst hstage hchans => ?_⟩⟩
  · exact congrArg Host.Outcome.next (pass_still h)
  · obtain ⟨z, hz, hpass⟩ := pass_single hstop hhalt hgrants harmed hst hask hladder hfit hr
    have hkind : (z.slot s.focus.die n).kind = .task := by
      rw [hz.slot]
      exact kind_of_stateOf _ _ _ (by rw [hst]; decide)
    have hp := place_spec z s.focus.die n r hkind
    rw [hz.placeWindows] at hp
    refine ⟨_, congrArg Host.Outcome.next hpass, hp.rect, hp.mem.trans hz.mem, fun t ht => ?_, fun hw => ?_, fun hw => hp.stages hw⟩
    · have h := hp.tile t (by rw [hz.liveTiles]; exact ht)
      rw [hz.taskId, hz.slot] at h
      exact h
    · obtain ⟨hstate, hasking⟩ := hp.asks hw
      rw [hz.cycle] at hasking
      exact ⟨hstate.trans ((hz.stateOf n).trans hst), hasking⟩
  · obtain ⟨hstate, hasking, -, hmem, htile⟩ := stage_spec s s.focus.die n r hkind
    refine ⟨hstate, hasking, hmem, fun t ht => ?_⟩
    obtain ⟨htask, -, hregion, hgang, hlanding, hmbx, hflag⟩ := htile t ht
    exact ⟨htask, hregion, hgang, hlanding, hmbx, hflag⟩
  · rw [State.tilesFit, List.all_eq_true]
    refine forall₂_congr fun a _ => ?_
    simp only [Bool.or_eq_true, Bool.not_eq_true', beq_iff_eq, decide_eq_true_eq]
    cases ((s.readBlocks [Rec.region (s.slot s.focus.die n).raw]).isAncestor a.1 r) <;> simp
  · refine ⟨fun a r ha hk hr => ⟨takeGrant_awaited false ha hk hr, fun h => ?_, fun h hladder => ?_⟩, fun ha => ⟨takeGrant_over true ha,
    takeGrant_over false ha⟩⟩
    · exact (takeGrant_awaited true ha hk hr).trans ((if_neg nofun).trans (if_pos h))
    · exact (takeGrant_awaited true ha hk hr).trans ((if_neg nofun).trans ((if_neg (Nat.not_lt.mpr h)).trans (if_neg (by rw [hladder]; exact nofun))))
  · exact congrArg Host.Outcome.next (if_pos ⟨hst, hlate⟩)
  · exact congrArg Host.Outcome.next (if_neg fun h => hst h.1)
  · exact (execStagingMergeClose_eq hm).trans (congrArg Host.Outcome.next (if_pos h))
  · refine (execStagingMergeClose_eq hm).trans (congrArg Host.Outcome.next ((if_neg (Nat.not_lt.mpr h)).trans ?_))
    rw [husers]
    rfl
  · refine ⟨_, execStagingComplete_done hst hstaging, ?_, rfl, rfl⟩
    rw [State.setStateOf, stateOf_updRaw _ _ (by rw [hst]; decide)]
    exact state_setFld_state _ (by decide)
  · exact congrArg Host.Outcome.next (if_pos hst)
  · have hexec : exec .taskStart s = .next (s.startTask s.focus.die s.index) :=
      execTaskStart_eq.trans (congrArg Host.Outcome.next (if_pos ⟨hst, dispatches_iff.mpr ⟨hstop, hhalt⟩, hladder, hstage, hrun⟩))
    rw [startTask_fresh hsaved] at hexec
    have hkept := gangStarted_kept s s.focus.die s.index
    obtain ⟨hstate, hmem, hctx⟩ := startRecord_spec s (s.gangStarted s.focus.die s.index) s.focus.die s.index
      (by rw [slot_of_td (hkept.td _)]; exact kind_of_stateOf _ _ _ (by rw [hst]; decide))
    refine ⟨_, hexec, hstate, hmem.trans hkept.mem, fun t ht => ?_⟩
    obtain ⟨c0, run, seen, hc⟩ := gangStarted_ctx s s.focus.die s.index t ht
    intro c
    have heq : c = _ := (hctx _).trans hc
    rw [heq]
    exact ⟨rfl, rfl, rfl, rfl, rfl, rfl, rfl, rfl, rfl, fun g hg => look_four _ _ _ _ hg, rfl, rfl, rfl, rfl⟩
  · exact congrArg Host.Outcome.next (if_neg fun h => hst h.1)
  · refine ⟨fun hst hstop hhalt hladder hrun => ?_, fun hst => ?_⟩
    · rw [execPipelineStart_single hinsts hn horder hinst hstage hchans, if_neg]
      rw [hst, dispatches_iff.mpr ⟨hstop, hhalt⟩, hladder, hrun]
      exact nofun
    · rw [execPipelineStart_single hinsts hn horder hinst hstage hchans, if_pos]
      rw [beq_false_of_ne hst]
      rfl

end Sys2Proof.Machine
end

section
/-! PROOFS of the pre-emption ladder and of saves (22_task_dispatcher.md R305, R307, R308, 12_tae_instructions.md R199). -/

namespace Sys2Proof.Machine

open Sys2Proof.Safety

/-! ### Rungs (R305, R308) -/

section Rungs

variable {s : State} {l : Ladder}

theorem execLadderT1Expiry_eq (hl : s.ladders[s.index]? = some l) : exec .ladderT1Expiry s = .next (
    if l.phase ≠ 1 ∨ l.rung ≠ 1 ∨ s.cycle < l.started + l.t1 ∨ s.haltFreezes l.region = true then s else s.rungSave l.scope) := by
  show execLadderT1Expiry s = _
  rw [execLadderT1Expiry]
  simp only [hl]

theorem execLadderT2Expiry_eq (hl : s.ladders[s.index]? = some l) : exec .ladderT2Expiry s = .next (
    if l.phase ≠ 1 ∨ l.rung ≠ 2 ∨ s.cycle < l.started + l.t2 ∨ s.haltFreezes l.region = true then s else s.rungReset l.scope) := by
  show execLadderT2Expiry s = _
  rw [execLadderT2Expiry]
  simp only [hl]

/-- What a ladder covers depends on its scope, the records and the regions. -/
theorem coveredBy_congr {z : State} {m : Ladder} (hdies : z.dies = s.dies) (hregions : z.regions = s.regions) (hscope : m.scope = l.scope) :
    z.coveredBy m = s.coveredBy l := by
  have hslot (d n : Nat) : z.slot d n = s.slot d n := by rw [State.slot, State.slot, State.die, State.die, hdies]
  have hanc (a r : Nat) : z.isAncestor a r = s.isAncestor a r := ancGo_of_regions hregions a 4096 r
  simp only [State.coveredBy, State.taskSlots, State.covers, hdies, hslot, hanc, hscope]

theorem ladder?_single {z : State} (hl : z.ladders = [l]) : z.ladder? l.scope = some l := by
  rw [State.ladder?, hl]
  simp

theorem updLadder_single {z : State} (hl : z.ladders = [l]) (f : Ladder → Ladder) : z.updLadder l.scope f = { z with ladders := [f l] } := by
  rw [State.updLadder, hl]
  simp

/-- A region without a ring is told nothing. -/
theorem post_of_no_ring {r : Nat} (h : s.ring r = none) (k : Nat) (a b c : Word64) : s.post r k a b c = s := by
  rw [State.post]
  simp only [h]

theorem ring_ladders (s : State) (l : List Ladder) (r : Nat) : ({ s with ladders := l } : State).ring r = s.ring r := by
  have heff : ({ s with ladders := l } : State).eff r 16 = s.eff r 16 := by
    rw [State.eff, State.eff]
    simp only [effGo_of_regions (s := s) (t := { s with ladders := l }) rfl]
  rw [State.ring, State.ring, heff]
  rfl

/-- The ladder of a scope that covers no task, once rung k has begun. -/
def Ladder.begun (l : Ladder) (k cycle : Nat) : Ladder := { l with rung := k, started := cycle, run := 0 }

theorem covered_begun (s : State) (l : Ladder) (k : Nat) :
    ({ s with ladders := [l.begun k s.cycle] } : State).coveredBy (l.begun k s.cycle) = s.coveredBy l :=
  coveredBy_congr (z := { s with ladders := [l.begun k s.cycle] }) (s := s) (m := l.begun k s.cycle) rfl rfl rfl

variable (hl : s.ladders = [l]) (hcov : s.coveredBy l = []) (hring : s.ring l.region = none)

include hl hcov hring

theorem beginRung_idle (k : Nat) : s.beginRung l.scope k = { s with ladders := [l.begun k s.cycle] } := by
  have hrun : s.runningIn l = 0 := by rw [State.runningIn, hcov]; rfl
  have hlive : s.liveIn l = [] := by rw [State.liveIn, hcov]; rfl
  rw [State.beginRung]
  simp only [ladder?_single hl, hrun, hlive, List.foldl_nil]
  rw [updLadder_single hl]
  exact post_of_no_ring ((ring_ladders s _ _).trans hring) _ _ _ _

theorem rungSave_idle (hphase : l.phase = 1) : (s.rungSave l.scope).ladders = [{ l with rung := 2, started := s.cycle, run := 0, phase := 2 }] := by
  have hbegin := beginRung_idle hl hcov hring 2
  have hlad : ({ s with ladders := [l.begun 2 s.cycle] } : State).ladder? l.scope = some (l.begun 2 s.cycle) := ladder?_single (l := l.begun 2 s.cycle) rfl
  have hcov' : ({ s with ladders := [l.begun 2 s.cycle] } : State).coveredBy (l.begun 2 s.cycle) = [] := (covered_begun s l _).trans hcov
  have hrun : ({ s with ladders := [l.begun 2 s.cycle] } : State).runningIn (l.begun 2 s.cycle) = 0 := by rw [State.runningIn, hcov']; rfl
  have hlive : ({ s with ladders := [l.begun 2 s.cycle] } : State).liveIn (l.begun 2 s.cycle) = [] := by rw [State.liveIn, hcov']; rfl
  rw [State.rungSave, hbegin]
  simp only [hlad, hlive, List.foldl_nil, hrun]
  rw [if_neg fun h => absurd h.2 (by decide), State.settleLadders, List.map_singleton]
  simp only [hrun]
  rw [if_pos ⟨hphase, rfl, trivial⟩]
  rfl

theorem rungReset_idle : (s.rungReset l.scope).ladders = [{ l with rung := 3, started := s.cycle, run := 0, phase := 2 }] := by
  have hbegin := beginRung_idle hl hcov hring 3
  have hlad : ({ s with ladders := [l.begun 3 s.cycle] } : State).ladder? l.scope = some (l.begun 3 s.cycle) := ladder?_single (l := l.begun 3 s.cycle) rfl
  have hcov' : ({ s with ladders := [l.begun 3 s.cycle] } : State).coveredBy (l.begun 3 s.cycle) = [] := (covered_begun s l _).trans hcov
  have hlive : ({ s with ladders := [l.begun 3 s.cycle] } : State).liveIn (l.begun 3 s.cycle) = [] := by rw [State.liveIn, hcov']; rfl
  rw [State.rungReset, hbegin]
  simp only [hlad, hlive, List.foldl_nil]
  exact congrArg State.ladders (updLadder_single (l := l.begun 3 s.cycle) (z := { s with ladders := [l.begun 3 s.cycle] }) rfl _)

end Rungs

theorem stateOf_settleLadders (s : State) (d n : Nat) : s.settleLadders.stateOf d n = s.stateOf d n := rfl

theorem stateOf_updLadder (s : State) (x : Scope) (f : Ladder → Ladder) (d n : Nat) : (s.updLadder x f).stateOf d n = s.stateOf d n := rfl

/-! ### Saves (R199, R307) -/

section Saves

variable {s : State} {d n : Nat}

/-- The state in which a task's tiles are about to be released, its image being written. -/
def State.imageKept (s : State) (d n : Nat) (h : Word64) (off : Nat) : State :=
  let ts := s.gangTiles d n
  let bytes := ts.flatMap fun t => s.saveBytes d n t
  ((s.objWrite (hobj h) off bytes).updTd d fun t => { t with saved := t.saved ++ [{
    slot := n, wins := s.windowsOf (.task (s.taskId d n)), area := h, off := off, len := bytes.length
    tiles := ts.map fun t => (t, (s.tile d t).toSave d t, s.saveLocal d n t) }] }).tearDown d n

/-- The tiles of a saved task are released. -/
def State.releaseSaved (s : State) (d : Nat) (ts : List Nat) : State := ts.foldl (fun s t => s.updTile d t fun y => y.afterSave d t) s

/-- A tile's requests for latches, but for those of some tiles. -/
def forgetAsks (d : Nat) (ts : List Nat) (y : Nat × Tile) : Nat × Tile :=
  if y.1 / 144 = d then (y.1, { y.2 with me := { y.2.me with asks := y.2.me.asks.filter fun a => !ts.contains a.1 } }) else y

theorem saveTask_eq (s : State) (d n : Nat) (h : Word64) (off : Nat) : s.saveTask d n h off =
    State.dropWindows { (s.imageKept d n h off).releaseSaved d (s.gangTiles d n) with
      tiles := ((s.imageKept d n h off).releaseSaved d (s.gangTiles d n)).tiles.map (forgetAsks d (s.gangTiles d n)) } (.task (s.taskId d n)) := rfl

theorem releaseSaved_kept (s : State) (d : Nat) (ts : List Nat) : RecordsKept s (s.releaseSaved d ts) :=
  recordsKept_foldl (fun s _ => recordsKept_updTile s _ _ _) ts s

theorem releaseSaved_tile (s : State) (d : Nat) (ts : List Nat) : ∀ t ∈ ts, ((s.releaseSaved d ts).tile d t).task = none ∧
    ((s.releaseSaved d ts).tile d t).savedFlag = true :=
  tile_foldl (step := fun s t => s.updTile d t fun y => y.afterSave d t) (I := fun _ => True) (Q := fun _ _ => True) (P := fun _ y => y.task = none ∧
    y.savedFlag = true)
    (fun _ _ _ => trivial) (fun u _ _ h => tile_updTile_ne u _ h) (fun u t _ _ => by rw [State.tile_updTile]; exact ⟨rfl,
      rfl⟩) (fun _ _ _ => trivial) ts s trivial (fun _ => trivial)

/-- The records of a die stay while a task's image is kept. -/
theorem slot_imageKept (s : State) (d n : Nat) (h : Word64) (off k : Nat) : (s.imageKept d n h off).slot d k = s.slot d k := by
  obtain ⟨o, c, v, hdie⟩ := (objectsOnly_objWrite (hobj h) ((s.gangTiles d n).flatMap fun t => s.saveBytes d n t) s off).die d
  rw [State.imageKept]
  refine (slot_of_td ((recordsKept_tearDown _ d n).td d) k).trans ?_
  rw [slot_updTd, State.slot, hdie]

theorem saveTask_spec (s : State) (d n : Nat) (h : Word64) (off : Nat) : (s.saveTask d n h off).slot d n = s.slot d n ∧
    ∀ t ∈ s.gangTiles d n, ((s.saveTask d n h off).tile d t).task = none ∧ ((s.saveTask d n h off).tile d t).savedFlag = true := by
  rw [saveTask_eq]
  generalize hz : s.imageKept d n h off = z
  have hslot : z.slot d n = s.slot d n := by rw [← hz, slot_imageKept]
  constructor
  · refine (slot_of_td ((recordsKept_dropWindows _ _).td d) n).trans ?_
    exact (slot_of_td ((releaseSaved_kept z d _).td d) n).trans hslot
  · intro t ht
    have hrel := releaseSaved_tile z d (s.gangTiles d n) t ht
    generalize z.releaseSaved d (s.gangTiles d n) = w at hrel
    rw [tile_dropWindows]
    have hpart : (look {} (w.tiles.map (forgetAsks d (s.gangTiles d n))) (d * 144 + t)).task = (look {} w.tiles (d * 144 + t)).task ∧
        (look {} (w.tiles.map (forgetAsks d (s.gangTiles d n))) (d * 144 + t)).savedFlag = (look {} w.tiles (d * 144 + t)).savedFlag := by
      constructor
      · exact part_look_map Tile.task {} (fun x => by rw [forgetAsks]; split_ifs <;> rfl) (fun x => by rw [forgetAsks]; split_ifs <;> rfl) _ _
      · exact part_look_map Tile.savedFlag {} (fun x => by rw [forgetAsks]; split_ifs <;> rfl) (fun x => by rw [forgetAsks]; split_ifs <;> rfl) _ _
    exact ⟨hpart.1.trans hrel.1, hpart.2.trans hrel.2⟩

variable (hst : s.stateOf s.focus.die s.index = 5) (hsaving : (s.slot s.focus.die s.index).saving.isSome = true)

/-- The bytes of the image of a task. -/
def State.saveLength (s : State) (d n : Nat) : Nat := ((s.gangTiles d n).map fun t => (s.saveBytes d n t).length).sum

section Quiesced

variable (hq : (s.gangTiles s.focus.die s.index).all (s.quiesced s.focus.die) = true)

include hst hsaving hq

theorem execTaskSaveComplete_ladder {l : Ladder} (hl : s.ladders = [l]) (hphase : l.phase = 1) (hrung : l.rung = 2) (hcov : s.covers l s.focus.die s.index = true) :
    (∀ off, s.areaRoom l.save (s.saveLength s.focus.die s.index) = some off → exec .taskSaveComplete s = .next
      (((s.saveTask s.focus.die s.index l.save off).setSlot s.focus.die s.index { (s.saveTask s.focus.die s.index l.save off).slot s.focus.die s.index with
        raw := setFld ((s.saveTask s.focus.die s.index l.save off).slot s.focus.die s.index).raw 60 4 9, saving := none, savers := [] }).updLadder l.scope
          fun l => { l with susp := l.susp + 1 }).settleLadders) ∧
    (s.areaRoom l.save (s.saveLength s.focus.die s.index) = none → exec .taskSaveComplete s = .next (s.rungReset l.scope)) := by
  have hsome : (s.slot s.focus.die s.index).saving.isNone = false := by rw [Option.isNone_eq_false_iff]; exact hsaving
  have hfind : s.ladders.find? (fun l => l.phase == 1 && l.rung == 2 && s.covers l s.focus.die s.index) = some l := by
    rw [hl]
    simp [hphase, hrung, hcov]
  have hgate : ¬ (s.stateOf s.focus.die s.index ≠ 5 ∨ (s.slot s.focus.die s.index).saving.isNone = true ∨
      (s.gangTiles s.focus.die s.index).all (s.quiesced s.focus.die) = false) := by
    rw [hst, hsome, hq]
    simp
  constructor
  · intro off hoff
    rw [State.saveLength] at hoff
    show execTaskSaveComplete s = _
    rw [execTaskSaveComplete]
    simp only [if_neg hgate, hfind, Option.map_some, Option.getD_some, hoff]
  · intro hnone
    rw [State.saveLength] at hnone
    show execTaskSaveComplete s = _
    rw [execTaskSaveComplete]
    simp only [if_neg hgate, hfind, Option.map_some, Option.getD_some, hnone]

theorem execTaskSaveComplete_reserved (hl : s.ladders = [])
    (hroom : s.areaRoom (rcbWord (s.eff (Rec.region (s.slot s.focus.die s.index).raw) 14) 6) (s.saveLength s.focus.die s.index) = none) :
    exec .taskSaveComplete s = .next ((s.markRung s.focus.die s.index 3).resetKill s.focus.die s.index) := by
  have hsome : (s.slot s.focus.die s.index).saving.isNone = false := by rw [Option.isNone_eq_false_iff]; exact hsaving
  have hgate : ¬ (s.stateOf s.focus.die s.index ≠ 5 ∨ (s.slot s.focus.die s.index).saving.isNone = true ∨
      (s.gangTiles s.focus.die s.index).all (s.quiesced s.focus.die) = false) := by
    rw [hst, hsome, hq]
    simp
  rw [State.saveLength] at hroom
  show execTaskSaveComplete s = _
  rw [execTaskSaveComplete]
  simp only [if_neg hgate, hl, List.find?_nil, Option.map_none, Option.getD_none, hroom]

end Quiesced

/-- A task's save waits for every one of its tiles. -/
theorem execTaskSaveComplete_waits (h : ∃ t ∈ s.gangTiles s.focus.die s.index, s.quiesced s.focus.die t = false) : exec .taskSaveComplete s = .next s := by
  have hall : (s.gangTiles s.focus.die s.index).all (s.quiesced s.focus.die) = false := by
    obtain ⟨t, ht, hq⟩ := h
    rw [List.all_eq_false]
    exact ⟨t, ht, by rw [hq]; exact nofun⟩
  exact congrArg Host.Outcome.next (if_pos (Or.inr (Or.inr hall)))

end Saves

/-- Settles O45: each rung begins at its time and not before; a ladder that covers no task is complete with it; a saved task's tiles are free and flagged. -/
theorem ladderAndSaves : Obligations.LadderAndSaves := by
  unfold Obligations.LadderAndSaves
  refine fun s => ⟨fun l hl hphase hfree => ⟨fun hrung htime => ?_, fun hrung htime => ?_, fun hrung htime => ?_, fun hrung htime => ?_⟩,
    fun l hl hphase hcov hring => ⟨rungSave_idle hl hcov hring hphase, rungReset_idle hl hcov hring⟩, fun hst hsaving hq => ?_, execTaskSaveComplete_waits⟩
  · rw [execLadderT1Expiry_eq hl, if_neg (by rw [hphase, hrung, hfree]; simpa using htime)]
  · rw [execLadderT1Expiry_eq hl, if_pos (Or.inr (Or.inr (Or.inl htime)))]
  · rw [execLadderT2Expiry_eq hl, if_neg (by rw [hphase, hrung, hfree]; simpa using htime)]
  · rw [execLadderT2Expiry_eq hl, if_pos (Or.inr (Or.inr (Or.inl htime)))]
  · have hall : (s.gangTiles s.focus.die s.index).all (s.quiesced s.focus.die) = true := List.all_eq_true.mpr hq
    refine ⟨fun l off hl hphase hrung hcov hoff => ?_, fun l hl hphase hrung hcov hnone => (execTaskSaveComplete_ladder hst hsaving hall hl hphase hrung hcov).2 hnone,
      execTaskSaveComplete_reserved hst hsaving hall⟩
    obtain ⟨hslot, htile⟩ := saveTask_spec s s.focus.die s.index l.save off
    refine ⟨_, (execTaskSaveComplete_ladder hst hsaving hall hl hphase hrung hcov).1 off hoff, ?_, fun t ht => htile t ht⟩
    rw [stateOf_settleLadders, stateOf_updLadder]
    rw [stateOf_setSlot, hslot]
    simp only [kind_of_stateOf s s.focus.die s.index (by rw [hst]; decide), if_true]
    exact state_setFld_state _ (by decide)

end Sys2Proof.Machine
end

section
/-! PROOFS of hang detection, debug halts and writes of region control blocks (22_task_dispatcher.md R295, R309, R311). -/

namespace Sys2Proof.Machine

open Sys2Proof.Safety

/-! ### Every context of a die -/

/-- The contexts of a die change by g. -/
def State.mapCtxs (s : State) (d : Nat) (g : Ctx → Ctx) : State :=
  { s with tiles := s.tiles.map fun y => if y.1 / 144 = d then (y.1, { y.2 with ctxs := y.2.ctxs.map fun c => (c.1, g c.2) }) else y }

theorem ctx_mapCtxs (s : State) (d : Nat) {g : Ctx → Ctx} (hg : g {} = {}) {p : Place} (hp : p.tile < 144) :
    (s.mapCtxs d g).ctx p = if p.die = d then g (s.ctx p) else s.ctx p := by
  have hkey : (p.die * 144 + p.tile) / 144 = p.die := by omega
  have htile : (s.mapCtxs d g).tile p.die p.tile = if p.die = d then { s.tile p.die p.tile with ctxs := (s.tile p.die p.tile).ctxs.map fun c => (c.1, g c.2) }
      else s.tile p.die p.tile := by
    have h := look_map ({} : Tile) (fun k y => if k / 144 = d then { y with ctxs := y.ctxs.map fun c => (c.1, g c.2) } else y)
      (fun k => by split_ifs <;> rfl) s.tiles (p.die * 144 + p.tile)
    rw [hkey] at h
    have hmap : (s.tiles.map fun y => (y.1, if y.1 / 144 = d then { y.2 with ctxs := y.2.ctxs.map fun c => (c.1, g c.2) } else y.2)) = (s.mapCtxs d g).tiles := by
      refine List.map_congr_left fun y _ => ?_
      split_ifs <;> rfl
    rw [hmap] at h
    exact h
  rw [State.ctx, htile]
  split_ifs
  · exact look_map ({} : Ctx) (fun _ c => g c) (fun _ => hg) (s.tile p.die p.tile).ctxs p.ctx
  · rfl

/-! ### Hangs (R309) -/

section Hang

variable {s : State}

/-- The last cycle in which a region made progress on any die. -/
def State.lastProgress (s : State) (r : Nat) : Nat := (s.dies.map fun e => look 0 e.2.td.progress r).foldl max 0

theorem execHangProgressReport_eq (hpres : s.presiding.isSome = true) (hrcb : (s.rcb s.index).isSome = true) (hctxs : s.regionCtxs s.index ≠ [])
    (hlive : ∀ p ∈ s.regionCtxs s.index, (s.die p.die).stopped = false) (hfree : s.haltFreezes s.index = false) :
    exec .hangProgressReport s = .next (if s.cycle < s.lastProgress s.index + 1024 * fldN ((s.readBlocks [s.index]).eff s.index 10) 128 32
      then s.readBlocks [s.index] else (s.readBlocks [s.index]).hang s.index) := by
  have hoff : (s.regionCtxs s.index).any (fun p => (s.die p.die).stopped) = false := by
    rw [List.any_eq_false]
    exact fun p hp => by rw [hlive p hp]; exact nofun
  have hgate : ¬ (s.presiding.isNone = true ∨ (s.rcb s.index).isNone = true ∨ s.regionCtxs s.index = [] ∨
      (s.regionCtxs s.index).any (fun p => (s.die p.die).stopped) = true ∨ s.haltFreezes s.index = true) := by
    rw [hoff, hfree, Option.isNone_eq_false_iff.mpr hpres, Option.isNone_eq_false_iff.mpr hrcb]
    simpa using hctxs
  show execHangProgressReport s = _
  rw [execHangProgressReport]
  simp only [if_neg hgate]
  rfl

end Hang

/-! ### Halts begin (R311) -/

section Halts

variable {s : State} {d : Nat}

theorem accept_halt (s : State) (d : Nat) {e : Nat} (he : e < 32) (q : List Nat) :
    s.accept d none (.halt e true q) = s.haltHeard d e q ∧ s.accept d none (.halt e false q) = s.haltOver d e := by
  rw [State.accept, State.accept, if_pos he, if_pos he]
  exact ⟨rfl, rfl⟩

theorem sendHalt_keeps (s : State) (a b e : Nat) (q : List Nat) : (s.send a b (.halt e true q)).tiles = s.tiles ∧ (s.send a b (.halt e true q)).mem = s.mem ∧
    (s.send a b (.halt e true q)).cycle = s.cycle := by
  by_cases h : b = a
  · rw [send_self h]
    by_cases he : e < 32
    · rw [(accept_halt s a he q).1]
      exact ⟨rfl, rfl, rfl⟩
    · rw [State.accept, if_neg he]
      exact ⟨rfl, rfl, rfl⟩
  · rw [send_other h]
    exact ⟨rfl, rfl, rfl⟩

/-- What a die does when its own halt begins, hub by hub: the others are told, itself notes the halt once. -/
structure HaltTold (s u : State) (d : Nat) (q : List Nat) (es : List Nat) : Prop where
  notes : d < 32 → (s.die d).halts = [] → (u.die d).halts = if d ∈ es then [⟨d, s.cycle, q⟩] else []
  noted : d < 32 → (s.die d).halts = [⟨d, s.cycle, q⟩] → (u.die d).halts = [⟨d, s.cycle, q⟩]
  kept : ∀ m ∈ (s.die d).fab.outbox, m ∈ (u.die d).fab.outbox
  told : ∀ e ∈ es, e ≠ d → ∃ m ∈ (u.die d).fab.outbox, m.dst = e ∧ m.body = .halt d true q ∧ m.mtype = 10

theorem haltTold_foldl (d : Nat) (q : List Nat) : ∀ (es : List Nat) (s : State), HaltTold s (es.foldl (fun s e => s.send d e (.halt d true q)) s) d q es := by
  intro es
  induction es with
  | nil => exact fun s => ⟨fun _ h => h, fun _ h => h, fun _ h => h, fun e he => absurd he List.not_mem_nil⟩
  | cons e es ih =>
    intro s
    obtain ⟨hnotes, hnoted, hkept, htold⟩ := ih (s.send d e (.halt d true q))
    have hcycle := (sendHalt_keeps s d e d q).2.2
    rw [hcycle] at hnotes hnoted
    by_cases hed : e = d
    · have hsend (h32 : d < 32) : (s.send d e (.halt d true q)).die d = if ((s.die d).halts.any fun h => h.die == d) then s.die d
          else { s.die d with halts := (s.die d).halts ++ [⟨d, s.cycle, q⟩] } := by
        rw [send_self hed, (accept_halt s d h32 q).1, State.haltHeard, State.die_updDie]
      refine ⟨fun h32 h => ?_, fun h32 h => ?_, fun m hm => ?_, fun x hx hne => ?_⟩
      · have hdie := hsend h32
        rw [h, List.any_nil, if_neg nofun] at hdie
        rw [if_pos (hed ▸ List.mem_cons_self)]
        exact hnoted h32 (by rw [hdie, List.nil_append])
      · have hdie := hsend h32
        rw [h, List.any_cons, beq_self_eq_true, Bool.true_or, if_pos rfl] at hdie
        exact hnoted h32 (by rw [hdie, h])
      · refine hkept m ?_
        by_cases h32 : d < 32
        · rw [hsend h32]
          split_ifs <;> exact hm
        · rw [send_self hed, State.accept, if_neg h32]
          exact hm
      · exact htold x ((List.mem_cons.mp hx).resolve_left fun h => hne (h.trans hed)) hne
    · have hdie : (s.send d e (.halt d true q)).die d = { s.die d with
          fab := { (s.die d).fab with outbox := (s.die d).fab.outbox ++ [s.message d e (.halt d true q)] } } := by
        rw [send_other hed, State.updFab, State.die_updDie]
      have hbox : ((s.send d e (.halt d true q)).die d).fab.outbox = (s.die d).fab.outbox ++ [s.message d e (.halt d true q)] := by rw [hdie]
      refine ⟨fun h32 h => ?_, fun h32 h => hnoted h32 (by rw [hdie]; exact h), fun m hm => hkept m (by rw [hbox]; exact List.mem_append_left _ hm), fun x hx hne => ?_⟩
      · rw [List.foldl_cons, hnotes h32 (by rw [hdie]; exact h)]
        simp only [List.mem_cons, show ¬ d = e from fun h => hed h.symm, false_or]
      · rcases List.mem_cons.mp hx with rfl | hx
        · exact ⟨_, hkept _ (by rw [hbox]; exact List.mem_append_right _ (List.mem_singleton.mpr rfl)), rfl, rfl, rfl⟩
        · exact htold x hx hne

theorem tellHalt_keeps (s : State) (d : Nat) (q : List Nat) : (s.tellHalt d true q).tiles = s.tiles ∧ (s.tellHalt d true q).mem = s.mem :=
  ⟨part_foldl State.tiles (fun u e => (sendHalt_keeps u d e d q).1) _ s, part_foldl State.mem (fun u e => (sendHalt_keeps u d e d q).2.1) _ s⟩

theorem debugHalt_keeps (s : State) (d : Nat) : (s.debugHalt d).tiles = s.tiles ∧ (s.debugHalt d).mem = s.mem := by
  rw [State.debugHalt]
  split_ifs
  · exact ⟨rfl, rfl⟩
  · obtain ⟨htiles, hmem⟩ := tellHalt_keeps (s.updDie d fun x => { x with halt := some s.cycle }) d (s.die d).regions
    exact ⟨htiles, hmem⟩

/-- A halt that begins is noted at its die and told to every other die that runs. -/
theorem debugHalt_tells (hhalt : (s.die d).halt = none) (h32 : d < 32) (hhalts : (s.die d).halts = []) :
    ((s.debugHalt d).die d).halts = [⟨d, s.cycle, (s.die d).regions⟩] ∧
      ∀ e < 32, e ≠ d → (s.die e).live = true → ∃ m ∈ ((s.debugHalt d).die d).fab.outbox, m.dst = e ∧ m.body = .halt d true (s.die d).regions ∧ m.mtype = 10 := by
  have heq : s.debugHalt d = (s.updDie d fun x => { x with halt := some s.cycle }).tellHalt d true (s.die d).regions := by
    rw [State.debugHalt, hhalt]
    rfl
  have hlive (e : Nat) : ((s.updDie d fun x => { x with halt := some s.cycle }).die e).live = (s.die e).live :=
    part_updDie Die.live (f := fun x => { x with halt := some s.cycle }) (fun _ => rfl) e
  have hnil : ((s.updDie d fun x => { x with halt := some s.cycle }).die d).halts = [] := by rw [State.die_updDie]; exact hhalts
  obtain ⟨hnotes, -, -, htold⟩ := haltTold_foldl d (s.die d).regions
    ((List.range 32).filter fun e => ((s.updDie d fun x => { x with halt := some s.cycle }).die e).live || e == d) (s.updDie d fun x => { x with halt := some s.cycle })
  rw [heq]
  constructor
  · refine (hnotes h32 hnil).trans (if_pos ?_)
    exact List.mem_filter.mpr ⟨List.mem_range.mpr h32, by simp⟩
  · intro e he hne hl
    refine htold e (List.mem_filter.mpr ⟨List.mem_range.mpr he, ?_⟩) hne
    rw [hlive, hl]
    rfl

end Halts

/-! ### Halts end (R311) -/

section Releases

variable {s : State} {d e : Nat}

/-- A count of region r that the halt of die e froze, as it goes on from its frozen value. -/
def State.thawOn (s : State) (d e : Nat) (h : HaltNote) (r start : Nat) : Nat :=
  if h.regions.contains r then
    thawed h.since (((((s.die d).halts.filter fun g => g.die != e).filter fun g => g.regions.contains r).map HaltNote.since).foldl min s.cycle) start
  else start

theorem ctx_haltOver {h : HaltNote} (hfind : (s.die d).halts.find? (fun h => h.die == e) = some h) (p : Place) :
    (s.haltOver d e).ctx p = (s.mapCtxs d fun c => c.thaw (s.thawOn d e h c.region)).ctx p := by
  rw [State.haltOver]
  simp only [hfind]
  rfl

theorem halts_haltOver {h : HaltNote} (hfind : (s.die d).halts.find? (fun h => h.die == e) = some h) :
    ((s.haltOver d e).die d).halts = (s.die d).halts.filter fun g => g.die != e := by
  rw [State.haltOver]
  simp only [hfind, State.die_updDie]

theorem haltOver_none (hfind : (s.die d).halts.find? (fun h => h.die == e) = none) : s.haltOver d e = s := by
  rw [State.haltOver]
  simp only [hfind]

/-- The halt that a die knows of alone is over. -/
theorem haltOver_single {h : HaltNote} (hh : (s.die d).halts = [h]) {p : Place} (hp : p.die = d) (hok : p.tile < 144) {b : Run} (hb : (s.ctx p).run = some b) :
    ((s.haltOver d h.die).die d).halts = [] ∧ ((s.haltOver d h.die).ctx p).run = some { b with
      decodedAt := if h.regions.contains (s.ctx p).region then b.decodedAt + (s.cycle - max h.since b.decodedAt) else b.decodedAt
      waits := b.waits.map fun w => { w with
        since := if h.regions.contains (s.ctx p).region then w.since + (s.cycle - max h.since w.since) else w.since } } := by
  have hfind : (s.die d).halts.find? (fun g => g.die == h.die) = some h := by
    rw [hh]
    simp
  have hrest : (s.die d).halts.filter (fun g => g.die != h.die) = [] := by
    rw [hh]
    simp
  have hon (start : Nat) : s.thawOn d h.die h (s.ctx p).region start =
      if h.regions.contains (s.ctx p).region then start + (s.cycle - max h.since start) else start := by
    rw [State.thawOn, hrest]
    rfl
  refine ⟨(halts_haltOver hfind).trans hrest, ?_⟩
  rw [ctx_haltOver hfind, ctx_mapCtxs _ _ rfl hok, if_pos hp, Ctx.thaw, hb]
  simp only [Option.map_some, hon]

/-- What the end of a halt leaves of a context: all but its counts of time. -/
structure TimesOnly (c u : Ctx) : Prop where
  regs : u.regs = c.regs
  phase : u.phase = c.phase
  skip : u.bkptSkip = c.bkptSkip
  run : c.run = none → u.run = none

theorem TimesOnly.refl (c : Ctx) : TimesOnly c c := ⟨rfl, rfl, rfl, id⟩

theorem TimesOnly.trans {c u v : Ctx} (h : TimesOnly c u) (g : TimesOnly u v) : TimesOnly c v :=
  ⟨g.regs.trans h.regs, g.phase.trans h.phase, g.skip.trans h.skip, fun hr => g.run (h.run hr)⟩

theorem timesOnly_thaw (c : Ctx) (f : Nat → Nat) : TimesOnly c (c.thaw f) := ⟨rfl, rfl, rfl, fun h => by rw [Ctx.thaw, h]; rfl⟩

theorem timesOnly_haltOver (s : State) (d e : Nat) {p : Place} (hp : p.tile < 144) : TimesOnly (s.ctx p) ((s.haltOver d e).ctx p) := by
  cases hfind : (s.die d).halts.find? (fun h => h.die == e) with
  | none =>
    rw [haltOver_none hfind]
    exact .refl _
  | some h =>
    rw [ctx_haltOver hfind, ctx_mapCtxs _ _ rfl hp]
    split_ifs
    · exact timesOnly_thaw ..
    · exact .refl _

theorem haltOver_keeps (s : State) (d e : Nat) : (s.haltOver d e).mem = s.mem ∧ ((s.haltOver d e).die d).halt = (s.die d).halt := by
  cases hfind : (s.die d).halts.find? (fun h => h.die == e) with
  | none =>
    rw [haltOver_none hfind]
    exact ⟨rfl, rfl⟩
  | some h =>
    rw [State.haltOver]
    simp only [hfind, State.die_updDie]
    exact ⟨rfl, rfl⟩

/-- The news that its halt is over, as a die sends it. -/
theorem sendOver_keeps (s : State) (d b : Nat) : (s.send d b (.halt d false [])).mem = s.mem ∧ ((s.send d b (.halt d false [])).die d).halt = (s.die d).halt ∧
    ∀ p : Place, p.tile < 144 → TimesOnly (s.ctx p) ((s.send d b (.halt d false [])).ctx p) := by
  by_cases h : b = d
  · rw [send_self h]
    by_cases hd : d < 32
    · rw [(accept_halt s d hd []).2]
      obtain ⟨hmem, hhalt⟩ := haltOver_keeps s d d
      exact ⟨hmem, hhalt, fun p hp => timesOnly_haltOver s d d hp⟩
    · rw [State.accept, if_neg hd]
      exact ⟨rfl, rfl, fun p _ => .refl _⟩
  · rw [send_other h]
    refine ⟨rfl, ?_, fun p _ => .refl _⟩
    rw [State.updFab, State.die_updDie]

theorem tellOver_keeps (s : State) (d : Nat) : (s.tellHalt d false []).mem = s.mem ∧ ((s.tellHalt d false []).die d).halt = (s.die d).halt ∧
    ∀ p : Place, p.tile < 144 → TimesOnly (s.ctx p) ((s.tellHalt d false []).ctx p) := by
  rw [State.tellHalt]
  generalize (List.range 32).filter (fun e => (s.die e).live || e == d) = es
  refine ⟨part_foldl State.mem (fun u e => (sendOver_keeps u d e).1) es s, part_foldl (fun u => (u.die d).halt) (fun u e => (sendOver_keeps u d e).2.1) es s, fun p hp => ?_⟩
  induction es generalizing s with
  | nil => exact .refl _
  | cons e es ih => exact ((sendOver_keeps s d e).2.2 p hp).trans (ih _)

theorem haltRelease_eq (hhalt : (s.die d).halt.isSome = true) :
    s.haltRelease d = ((s.mapCtxs d Ctx.goOn).updDie d fun y => { y with halt := none }).tellHalt d false [] := by
  rw [State.haltRelease, if_neg (by rw [Option.isNone_eq_false_iff.mpr hhalt]; exact nofun)]
  rfl

theorem goOn_regs (c : Ctx) : c.goOn.regs = c.regs := by
  rw [Ctx.goOn]
  split_ifs <;> rfl

theorem goOn_halted {c : Ctx} {f : FaultRec} (hphase : c.phase = .faulted) (hf : c.fault = some f) (hnoTrap : f.noTrap = true) :
    c.goOn = { c with phase := .running, fault := none, run := none, bkptSkip := true } := by
  rw [Ctx.goOn, if_pos ⟨hphase, by rw [hf]; exact hnoTrap⟩]

theorem haltRelease_ctx (hhalt : (s.die d).halt.isSome = true) {p : Place} (hp : p.tile < 144) :
    TimesOnly (if p.die = d then (s.ctx p).goOn else s.ctx p) ((s.haltRelease d).ctx p) := by
  rw [haltRelease_eq hhalt, ← ctx_mapCtxs s d (g := Ctx.goOn) rfl hp]
  exact (tellOver_keeps ((s.mapCtxs d Ctx.goOn).updDie d fun y => { y with halt := none }) d).2.2 p hp

end Releases

/-! ### Region control blocks (R295) -/

section Blocks

variable {s : State} {k : Nat} {b : BitVec 1024}

/-- A region's block is accepted: it names its region, and its chain of parents ends at region 0. -/
def State.blockGood (s : State) (k : Nat) (b : BitVec 1024) : Prop :=
  fldN b 40 12 = k ∧ (k ≠ 0 ∨ fldN b 52 12 = 0) ∧ ({ s with regions := put s.regions k b } : State).chainOk 4097 [] k = true

theorem regions_keyFor (s : State) (b : BitVec 1024) : (s.keyFor b).regions = s.regions := by
  rw [State.keyFor]
  split_ifs <;> rfl

theorem execRegionBlockWrite_good (h : s.blockGood k b) : ∃ u, exec (.regionBlockWrite k b) s = .next u ∧ u.regions = put s.regions k b := by
  refine ⟨_, congrArg Host.Outcome.next (if_pos h), ?_⟩
  split_ifs
  · rfl
  · exact regions_keyFor _ _

theorem execRegionBlockWrite_bad (h : ¬ s.blockGood k b) : exec (.regionBlockWrite k b) s = .next s := congrArg Host.Outcome.next (if_neg h)

end Blocks

/-- Settles O46: a region's hang check counts from its last progress; a halt changes no tile, and its release goes on from the frozen counts. -/
theorem hangsHaltsRegions : Obligations.HangsHaltsRegions := by
  unfold Obligations.HangsHaltsRegions
  intro s
  refine ⟨fun hpres hrcb hctxs hlive hfree => ?_, ?_, fun e q he => accept_halt s _ he q, fun h q hh => ⟨?_, fun p hp hok b hb => ?_⟩, fun hhalt => ?_, fun hhalt => ?_, fun k b => ?_⟩
  · have hexec := execHangProgressReport_eq hpres hrcb hctxs hlive hfree
    exact ⟨fun h => hexec.trans (congrArg Host.Outcome.next (if_neg (Nat.not_lt.mpr h))), fun h => hexec.trans (congrArg Host.Outcome.next (if_pos h))⟩
  · obtain ⟨htiles, hmem⟩ := debugHalt_keeps s s.focus.die
    exact ⟨_, rfl, State.halt_debugHalt s _, htiles, hmem, fun hhalt h32 hhalts => debugHalt_tells hhalt h32 hhalts⟩
  · rw [State.haltCovers, hh, List.any_cons, List.any_nil, Bool.or_false]
  · exact haltOver_single hh hp (Place.tile_lt hok) hb
  · exact congrArg Host.Outcome.next (if_pos (by rw [hhalt]; rfl))
  · have heq := haltRelease_eq hhalt
    obtain ⟨hmem, hnone, -⟩ := tellOver_keeps ((s.mapCtxs s.focus.die Ctx.goOn).updDie s.focus.die fun y => { y with halt := none }) s.focus.die
    rw [State.die_updDie, ← heq] at hnone
    rw [← heq] at hmem
    refine ⟨_, rfl, hnone, hmem, fun p hok => ?_, fun p f hok hp hphase hf hnoTrap => ?_⟩
    · rw [(haltRelease_ctx hhalt (Place.tile_lt hok)).regs]
      split_ifs
      · exact goOn_regs _
      · rfl
    · have hctx := haltRelease_ctx hhalt (Place.tile_lt hok)
      rw [if_pos hp, goOn_halted hphase hf hnoTrap] at hctx
      exact ⟨hctx.phase, hctx.run rfl, hctx.skip⟩
  · intro t good
    refine ⟨fun h => ?_, fun h => execRegionBlockWrite_bad fun hg => decide_eq_false_iff_not.mp h hg⟩
    have hgood : s.blockGood k b := by
      simp only [good, decide_eq_true_eq] at h
      exact h
    obtain ⟨u, hexec, hregions⟩ := execRegionBlockWrite_good hgood
    refine ⟨u, hexec, ?_, fun j hj => ?_⟩
    · rw [State.rcb, hregions, look?_put]
    · rw [State.rcb, State.rcb, hregions, look?_put_ne _ _ hj]

end Sys2Proof.Machine
end

section
/-! PROOFS of the host's command queues: acceptance, completion records, queue registers (29_host_firmware.md R374 to R378). -/

namespace Sys2Proof.Machine

open Sys2Proof.Safety

section Queues

variable {s : State} {fn q : Nat}

theorem queueOf_setQueue (s : State) (fn q : Nat) (x : Queue) : (s.setQueue fn q x).queueOf fn q = x := by
  have hnone : (s.queues.filter fun y => y.1 != (fn, q)).find? (fun y => y.1 == (fn, q)) = none := by
    rw [List.find?_eq_none]
    intro y hy
    simpa using (List.mem_filter.mp hy).2
  rw [State.queueOf, State.setQueue, List.find?_append, hnone]
  simp

theorem queueOf_updQueue (s : State) (fn q : Nat) (f : Queue → Queue) : (s.updQueue fn q f).queueOf fn q = f (s.queueOf fn q) := queueOf_setQueue ..

/-! ### Acceptance (R375, R376) -/

section Accept

/-- The words of the packet that a queue expects next. -/
def State.packet (s : State) (fn q : Nat) : List Word64 :=
  bytesWords 8 (s.hostRead ((s.queueOf fn q).rbase.toNat + 64 * ((s.queueOf fn q).expect.toNat % 64)) 64)

/-- The queue takes a turn: it runs, TAIL is ahead, and the completion ring has room. -/
def State.takesTurn (s : State) (fn q : Nat) : Prop :=
  s.presiding.isSome = true ∧ (s.queueOf fn q).state = .running ∧ (s.queueOf fn q).en = true ∧
    seqDist (s.queueOf fn q).tail (s.queueOf fn q).expect < 2 ^ 31 ∧ seqDist (s.queueOf fn q).expect (s.queueOf fn q).lastComp ≤ 64

/-- The packet expected is accepted. -/
def State.accepted (s : State) (fn q : Nat) : State :=
  let w0 := (s.packet fn q).getD 0 0#64
  let ok := packetOk w0 ((s.packet fn q).drop 1)
  State.setQueue { s with cmds := s.cmds ++ [{
    fn := fn, q := q, seq := (s.queueOf fn q).expect, kind := fldN w0 24 8, flags := fldN w0 16 8, args := (s.packet fn q).drop 1
    phase := if ok then .accepted else .completed, status := if ok then 0 else Cause.reservedField.code }] } fn q
      { s.queueOf fn q with lastAcc := (s.queueOf fn q).expect, expect := (s.queueOf fn q).expect + 1#32 }

variable (hturn : s.takesTurn fn q)

include hturn

theorem execQueueAccept_eq : exec (.queueAccept fn q) s = .next (
    if 64 < seqDist (s.queueOf fn q).tail (s.queueOf fn q).lastAcc then s.setQueue fn q { s.queueOf fn q with state := .error, err := 2 }
    else if fld ((s.packet fn q).getD 0 0#64) 32 32 ≠ (s.queueOf fn q).expect then s.setQueue fn q { s.queueOf fn q with state := .error, err := 1 }
    else s.accepted fn q) := by
  obtain ⟨hpres, hstate, hen, htail, hroom⟩ := hturn
  have hgate : ¬ (s.presiding = none ∨ (s.queueOf fn q).state ≠ .running ∨ (s.queueOf fn q).en = false ∨
      2 ^ 31 ≤ seqDist (s.queueOf fn q).tail (s.queueOf fn q).expect ∨ 64 < seqDist (s.queueOf fn q).expect (s.queueOf fn q).lastComp) := by
    rintro (h | h | h | h | h)
    · rw [h] at hpres
      exact absurd hpres nofun
    · exact h hstate
    · exact absurd (hen.symm.trans h) nofun
    · exact absurd htail (Nat.not_lt.mpr h)
    · exact absurd hroom (Nat.not_le.mpr h)
  exact congrArg Host.Outcome.next (if_neg hgate)

end Accept

/-! ### Completion records (R378) -/

/-- The record of a completed command is posted. -/
def State.posted (s : State) (fn q : Nat) (c : HostCmd) : State :=
  let x := s.queueOf fn q
  let s1 := s.hostWriteAt (x.cbase.toNat + 32 * (c.seq.toNat % 128))
    (wordsBytes [BitVec.ofNat 64 (c.seq.toNat * 2 ^ 32 + c.status % 256 * 2 ^ 24 + c.kind % 256 * 2 ^ 16), c.w1, c.w2, 0#64])
  State.setQueue { s1 with
    cmds := s1.cmds.filter fun y => !(y.fn == fn && y.q == q && y.seq == c.seq)
    msix := if c.status = 0 then s1.msix else s1.msix ++ [(fn, q)] } fn q { x with lastComp := c.seq }

theorem execCompletionPost_eq {c : HostCmd} (hc : (s.cmds.find? fun y => y.fn == fn && y.q == q) = some c) : exec (.completionPost fn q) s = .next (
    if s.answersHost c.kind = false ∨ c.phase ≠ .completed ∨ 128 < seqDist c.seq (s.queueOf fn q).cdone then s else s.posted fn q c) := by
  show execCompletionPost fn q s = _
  rw [execCompletionPost]
  simp only [hc]
  rfl

theorem mem_posted (s : State) (fn q : Nat) (c : HostCmd) : (s.posted fn q c).mem =
    Memory.writeN s.mem (hostKey ((s.queueOf fn q).cbase.toNat + 32 * (c.seq.toNat % 128)))
      (wordsBytes [BitVec.ofNat 64 (c.seq.toNat * 2 ^ 32 + c.status % 256 * 2 ^ 24 + c.kind % 256 * 2 ^ 16), c.w1, c.w2, 0#64]) := rfl

/-! ### Queue registers (R374) -/

theorem hostWrite_ready (hfrozen : s.fnFrozen fn = false) (what : Nat) (v : Word64) : s.hostWrite fn what q v = s.queueWrite fn what q v := by
  rw [State.hostWrite, hfrozen]
  rfl

theorem fld_setWidth_low (v : BitVec 32) : fld (v.setWidth 64) 0 32 = v := by
  rw [fld_zero_eq]
  apply BitVec.eq_of_toNat_eq
  simp only [BitVec.toNat_setWidth]
  have := v.isLt
  omega

theorem queueWrite_tail (hready : s.boot.step = .ready) (v : Word64) : s.queueWrite fn 0 q v = s.updQueue fn q fun x => { x with tail := fld v 0 32 } := by
  rw [State.queueWrite, if_neg (not_not.mpr hready), if_pos rfl]

theorem queueWrite_cdone (hready : s.boot.step = .ready) (v : Word64) : s.queueWrite fn 1 q v = s.updQueue fn q fun x => { x with cdone := fld v 0 32 } := by
  rw [State.queueWrite, if_neg (not_not.mpr hready), if_neg (by decide), if_pos rfl]

theorem queueWrite_en (hready : s.boot.step = .ready) (hpres : s.presiding.isSome = true) (v : Word64) : s.queueWrite fn 2 q v =
    s.updQueue fn q fun x => if v = 0#64 then { x with en := false, state := .off }
      else { x with en := true, state := .running, err := if x.state = .running then x.err else 0 } := by
  rw [State.queueWrite, if_neg (not_not.mpr hready), if_neg (by decide), if_neg (by decide), if_pos rfl,
    if_neg (by rw [Option.isNone_eq_false_iff.mpr hpres]; exact nofun)]

end Queues

/-- Settles O47: a turn of acceptance ends in error 2, error 1 or with the packet accepted, in this order of its checks; a record goes to the place of
its sequence number. -/
theorem hostQueues : Obligations.HostQueues := by
  unfold Obligations.HostQueues
  refine fun s fn q => ⟨fun hpres hstate hen htail hroom => ?_, fun c hc => ⟨fun hans hphase hdist => ?_, fun h => ?_⟩, fun p hp hstop k => ?_,
    fun hfrozen hready => ?_, fun v hfrozen => ?_⟩
  · have hexec := execQueueAccept_eq (s := s) (fn := fn) (q := q) ⟨hpres, hstate, hen, htail, hroom⟩
    refine ⟨fun hfar => ⟨_, hexec.trans (congrArg Host.Outcome.next (if_pos hfar)), ?_, ?_, rfl⟩, fun hnear hgap => ⟨_,
      hexec.trans (congrArg Host.Outcome.next ((if_neg (Nat.not_lt.mpr hnear)).trans (if_pos hgap))), ?_, ?_, rfl⟩,
      fun hnear hseq hok => ⟨_, hexec.trans (congrArg Host.Outcome.next ((if_neg (Nat.not_lt.mpr hnear)).trans (if_neg (not_not.mpr hseq)))), ?_, ?_, ?_⟩⟩
    · rw [queueOf_setQueue]
    · rw [queueOf_setQueue]
    · rw [queueOf_setQueue]
    · rw [queueOf_setQueue]
    · rw [State.accepted, queueOf_setQueue]
    · rw [State.accepted, queueOf_setQueue]
    · have hok' : packetOk ((s.packet fn q).getD 0 0#64) ((s.packet fn q).drop 1) = true := hok
      rw [State.accepted]
      simp only [hok', if_true]
      rfl
  · have hexec := (execCompletionPost_eq hc).trans (congrArg Host.Outcome.next (if_neg (by rw [hans]; simpa [hphase] using hdist)))
    refine ⟨_, hexec, ?_, fun y hy => ?_, ?_, ?_, rfl⟩
    · rw [State.posted, queueOf_setQueue]
    · have h : y ∈ s.cmds.filter fun y => !(y.fn == fn && y.q == q && y.seq == c.seq) := hy
      rintro ⟨hfn, hq, hseq⟩
      simpa [hfn, hq, hseq] using (List.mem_filter.mp h).2
    · rw [mem_posted]
      exact holds_writeN _ _ _
    · rw [mem_posted]
      have h := sameOutside_writeN s.mem (hostKey ((s.queueOf fn q).cbase.toNat + 32 * (c.seq.toNat % 128)))
        (wordsBytes [BitVec.ofNat 64 (c.seq.toNat * 2 ^ 32 + c.status % 256 * 2 ^ 24 + c.kind % 256 * 2 ^ 16), c.w1, c.w2, 0#64])
      rw [length_wordsBytes] at h
      exact h
  · exact (execCompletionPost_eq hc).trans (congrArg Host.Outcome.next (if_pos h))
  · rw [State.answersHost, hp]
    simp [hstop]
  · refine ⟨fun v => ⟨_, congrArg Host.Outcome.next ((hostWrite_ready hfrozen 0 _).trans (queueWrite_tail hready _)), ?_⟩,
      fun v => ⟨_, congrArg Host.Outcome.next ((hostWrite_ready hfrozen 1 _).trans (queueWrite_cdone hready _)), ?_⟩, fun hpres =>
      ⟨⟨_, congrArg Host.Outcome.next ((hostWrite_ready hfrozen 2 _).trans (queueWrite_en hready hpres _)), ?_⟩,
        ⟨_, congrArg Host.Outcome.next ((hostWrite_ready hfrozen 2 _).trans (queueWrite_en hready hpres _)), ?_⟩⟩⟩
    · rw [queueOf_updQueue]
      exact fld_setWidth_low v
    · rw [queueOf_updQueue]
      exact fld_setWidth_low v
    · rw [queueOf_updQueue, if_neg (by decide)]
      exact ⟨rfl, rfl, fun h => if_neg h⟩
    · rw [queueOf_updQueue, if_pos (by decide)]
      exact ⟨rfl, rfl⟩
  · have h : s.hostWrite fn 0 q (v.setWidth 64) = s.holdMaster (.function fn) [BitVec.ofNat 64 q, v.setWidth 64] 0 (v.setWidth 64) := by
      rw [State.hostWrite, hfrozen, if_pos rfl, Nat.mul_zero, Nat.zero_add]
    exact congrArg Host.Outcome.next h

end Sys2Proof.Machine
end

section
/-! PROOFS of the host's commands (29_host_firmware.md R377, R379). -/

namespace Sys2Proof.Machine

open Sys2Proof.Safety

section Start

variable {s : State} {fn q : Nat} {c : HostCmd}

/-- A command that starts, its region existing, does what its kind does. -/
theorem startCmd_acts {p kind : Nat} {act : HostCmd → Nat → Nat → State → State} (hnext : s.nextCmd fn q kind = some c) (hrcb : (s.rcb (s.queueOf fn q).region).isSome = true)
    (hpres : s.presiding = some p) : startCmd fn q kind act s = .next (act c (s.queueOf fn q).region p s) := by
  have hsome : (s.rcb (s.queueOf fn q).region).isNone = false := Option.isNone_eq_false_iff.mpr hrcb
  rw [startCmd]
  simp only [hnext, hsome, hpres, Option.getD_some]
  rfl

/-- The command that may start is of the kind asked for. -/
theorem kind_of_nextCmd {kind : Nat} (hnext : s.nextCmd fn q kind = some c) : c.kind = kind := by
  rw [State.nextCmd] at hnext
  dsimp only at hnext
  split at hnext
  · exact absurd hnext nofun
  · split at hnext
    · exact absurd hnext nofun
    · next h =>
      cases hnext
      by_contra hk
      exact h (Or.inr (Or.inl hk))

/-! ### FENCE (R377) -/

/-- A command becomes started. -/
def HostCmd.begun (c : HostCmd) : HostCmd := { c with phase := .started }

/-- The commands of a queue, one of them changed. -/
theorem cmds_updCmd (s : State) (c : HostCmd) (f : HostCmd → HostCmd) (hf : ∀ x, (f x).fn = x.fn ∧ (f x).q = x.q) (fn q : Nat) :
    (s.updCmd c f).cmds.filter (fun y => y.fn == fn && y.q == q) =
      (s.cmds.filter fun y => y.fn == fn && y.q == q).map fun x => if x.fn = c.fn ∧ x.q = c.q ∧ x.seq = c.seq then f x else x := by
  rw [State.updCmd, List.filter_map]
  congr 1
  refine List.filter_congr fun y _ => ?_
  rw [Function.comp_apply]
  split_ifs
  · rw [(hf y).1, (hf y).2]
  · rfl

/-- A FENCE that is the queue's first command is complete as it starts. -/
theorem execHostFence_first {l : List HostCmd} (hnext : s.nextCmd fn q 7 = some c) (hl : (s.cmds.filter fun y => y.fn == fn && y.q == q) = c :: l) :
    exec (.hostFence fn q) s = .next ((s.updCmd c HostCmd.begun).finish c 0 0#64 0#64) := by
  have hfind : ((s.updCmd c HostCmd.begun).cmds.filter fun y => y.fn == fn && y.q == q).find? (fun c => c.phase != .completed) = some c.begun := by
    rw [cmds_updCmd s c HostCmd.begun (fun _ => ⟨rfl, rfl⟩), hl, List.map_cons, if_pos ⟨rfl, rfl, rfl⟩]
    rfl
  have hkind : c.begun.kind = 7 := (kind_of_nextCmd hnext : c.kind = 7)
  show execHostFence fn q s = _
  rw [execHostFence]
  simp only [hnext]
  show Host.Outcome.next _ = _
  have hbegun : (fun c : HostCmd => { c with phase := CmdPhase.started }) = HostCmd.begun := rfl
  simp only [hbegun, hfind, hkind]
  rfl

end Start

section Commands

variable {s : State} {fn q p : Nat} {c : HostCmd} (hrcb : (s.rcb (s.queueOf fn q).region).isSome = true) (hpres : s.presiding = some p)

include hrcb hpres

/-! ### KICK -/

theorem execKick_refused (hnext : s.nextCmd fn q 1 = some c)
    (h : s.reach (s.queueOf fn q).region (c.arg 2) = none ∨ 144 ≤ fldN (c.arg 1) 0 8 ∨ s.defective (fldN (c.arg 1) 8 5) (fldN (c.arg 1) 0 8) = true) :
    exec (.kick fn q) s = .next (s.finish c Cause.rights.code 0#64 0#64) := by
  show execKick fn q s = _
  rw [execKick, startCmd_acts hnext hrcb hpres]
  exact congrArg Host.Outcome.next (if_pos (h.imp_left fun h => by rw [h]; rfl))

/-- The start request of a KICK. -/
def HostCmd.kick (c : HostCmd) (r : Nat) : Kick where
  tile := fldN (c.arg 1) 0 8
  host := (c.fn, c.q, c.seq.toNat)
  start := { code := c.arg 2, block := fld (c.arg 3) 0 32, g0 := c.arg 4, g1 := c.arg 5, region := r }

theorem execKick_queued (hnext : s.nextCmd fn q 1 = some c) (hreach : (s.reach (s.queueOf fn q).region (c.arg 2)).isSome = true) (ht : fldN (c.arg 1) 0 8 < 144)
    (hdef : s.defective (fldN (c.arg 1) 8 5) (fldN (c.arg 1) 0 8) = false) : exec (.kick fn q) s = .next (
      (s.updCmd c HostCmd.begun).updTd (fldN (c.arg 1) 8 5) fun x => { x with kicks := x.kicks ++ [c.kick (s.queueOf fn q).region] }) := by
  have hgate : ¬ ((s.reach (s.queueOf fn q).region (c.arg 2)).isNone = true ∨ 144 ≤ fldN (c.arg 1) 0 8 ∨
      s.defective (fldN (c.arg 1) 8 5) (fldN (c.arg 1) 0 8) = true) := by
    rw [Option.isNone_eq_false_iff.mpr hreach, hdef]
    simpa using ht
  show execKick fn q s = _
  rw [execKick, startCmd_acts hnext hrcb hpres]
  exact congrArg Host.Outcome.next (if_neg hgate)

/-! ### LAUNCH -/

/-- The handles of a LAUNCH's table. -/
def HostCmd.launchTable (c : HostCmd) : List Word64 := (List.range (fldN (c.arg 2) 8 8)).map fun i => c.arg (3 + i)

/-- What a LAUNCH claims at the hub, where it can. -/
def State.launchClaim (s : State) (c : HostCmd) (r : Nat) : Option (Inst × State) :=
  s.claimInst (fldN (c.arg 2) 0 5) r (hobj (c.arg 1)) c.launchTable (some (c.fn, c.q))

/-- The effect of a LAUNCH on a hub's claim. -/
def State.launched (s : State) (c : HostCmd) (x : Inst × State) : State :=
  let w := (s.instId x.1).setWidth 64
  let t1 := if bit (c.arg 2) 63 = true ∧ x.1.joins ≠ [] then
      x.2.updCmd c fun c => { c with phase := .started, w1 := w, join := some (s.instId x.1) }
    else x.2.finish c 0 w 0#64
  t1.commitInst (fldN (c.arg 2) 0 5) x.1.n

theorem execLaunch_eq (hnext : s.nextCmd fn q 2 = some c) : exec (.launch fn q) s = .next (
    if (s.reach (s.queueOf fn q).region (c.arg 1)).isNone then s.finish c Cause.rights.code 0#64 0#64
    else if s.tmplOk (hobj (c.arg 1)) = false ∨ fldN (s.tmplRec (hobj (c.arg 1)) 0) 40 8 ≠ fldN (c.arg 2) 8 8 then s.finish c Cause.reservedField.code 0#64 0#64
    else if c.launchTable.any fun h => (s.reach (s.queueOf fn q).region h).isNone then s.finish c Cause.rights.code 0#64 0#64
    else (s.launchClaim c (s.queueOf fn q).region).elim (s.finish c 0 0#64 0#64) (s.launched c)) := by
  show execLaunch fn q s = _
  rw [execLaunch, startCmd_acts hnext hrcb hpres]
  refine congrArg Host.Outcome.next ?_
  rw [State.launchClaim]
  cases h : s.claimInst (fldN (c.arg 2) 0 5) (s.queueOf fn q).region (hobj (c.arg 1)) c.launchTable (some (c.fn, c.q)) with
  | none =>
    rw [HostCmd.launchTable] at h ⊢
    simp only [h, Option.elim]
  | some x =>
    rw [HostCmd.launchTable] at h ⊢
    simp only [h, Option.elim]
    rfl

omit hrcb hpres in
/-- A LAUNCH whose template and handles are good comes to the hub's claim. -/
theorem launch_checks {r : Nat} (hreach : (s.reach r (c.arg 1)).isSome = true) (hok : s.tmplOk (hobj (c.arg 1)) = true)
    (hn : fldN (s.tmplRec (hobj (c.arg 1)) 0) 40 8 = fldN (c.arg 2) 8 8) (htab : ∀ h ∈ c.launchTable, (s.reach r h).isSome = true) {a b x y : State} :
    (if (s.reach r (c.arg 1)).isNone then a
      else if s.tmplOk (hobj (c.arg 1)) = false ∨ fldN (s.tmplRec (hobj (c.arg 1)) 0) 40 8 ≠ fldN (c.arg 2) 8 8 then b
      else if c.launchTable.any fun h => (s.reach r h).isNone then x else y) = y := by
  have hany : c.launchTable.any (fun h => (s.reach r h).isNone) = false := by
    rw [List.any_eq_false]
    exact fun h hh => by rw [Option.isNone_eq_false_iff.mpr (htab h hh)]; exact nofun
  rw [if_neg (by rw [Option.isNone_eq_false_iff.mpr hreach]; exact nofun), if_neg (by rw [hok]; simpa using hn), hany]
  rfl

/-! ### MAKEOBJ -/

/-- The object that a MAKEOBJ makes. -/
def State.hostObject (s : State) (c : HostCmd) (r : Nat) : Except Cause (BitVec 32 × State) :=
  s.makeObj (fldN (c.arg 3) 0 5) r (BitVec.ofNat 512 (leNat (s.hostRead (c.arg 2).toNat 64)))

theorem execMakeobj_refused {e : Cause} (hnext : s.nextCmd fn q 3 = some c) (h : s.hostObject c (s.queueOf fn q).region = .error e) :
    exec (.makeobj fn q) s = .next (s.finish c e.code 0#64 0#64) := by
  show execMakeobj fn q s = _
  rw [execMakeobj, startCmd_acts hnext hrcb hpres]
  refine congrArg Host.Outcome.next ?_
  rw [State.hostObject] at h
  simp only [h]

theorem execMakeobj_made {id : BitVec 32} {t : State} (hnext : s.nextCmd fn q 3 = some c) (h : s.hostObject c (s.queueOf fn q).region = .ok (id, t)) :
    exec (.makeobj fn q) s = .next ((t.updCmd c HostCmd.begun).hostBind (fldN (c.arg 3) 0 5) c.fn c.q c.seq.toNat (c.arg 1) id (s.queueOf fn q).region) := by
  show execMakeobj fn q s = _
  rw [execMakeobj, startCmd_acts hnext hrcb hpres]
  refine congrArg Host.Outcome.next ?_
  rw [State.hostObject] at h
  simp only [h]
  rfl

/-! ### BINDN -/

theorem execBindn_none (hnext : s.nextCmd fn q 4 = some c) (h : c.pairs = []) : exec (.bindn fn q) s = .next (s.finish c 0 0#64 0#64) := by
  show execBindn fn q s = _
  rw [execBindn, startCmd_acts hnext hrcb hpres]
  refine congrArg Host.Outcome.next ?_
  simp only [h]

theorem execBindn_one {k h : Word64} (hnext : s.nextCmd fn q 4 = some c) (hp : c.pairs = [(k, h)]) (hh : h ≠ 0#64) : exec (.bindn fn q) s = .next (
    if (s.reach (s.queueOf fn q).region h).isNone = true then s.finish c Cause.rights.code 0#64 0#64
    else ((s.hold (hobj h)).updCmd c HostCmd.begun).send p (s.nameHub k)
      (.bind { key := k, obj := some (hobj h), region := (s.queueOf fn q).region, host := some (c.fn, c.q, c.seq.toNat) })) := by
  show execBindn fn q s = _
  rw [execBindn, startCmd_acts hnext hrcb hpres]
  refine congrArg Host.Outcome.next ?_
  simp only [hp, if_neg hh]
  by_cases hr : (s.reach (s.queueOf fn q).region h).isNone = true
  · rw [if_pos hr, if_pos ⟨hh, hr⟩]
  · rw [if_neg hr, if_neg fun h => hr h.2]
    rfl

theorem execBindn_txn (hnext : s.nextCmd fn q 4 = some c) (hlen : 2 ≤ c.pairs.length)
    (hreach : ∀ x ∈ c.pairs, x.2 = 0#64 ∨ (s.reach (s.queueOf fn q).region x.2).isSome = true) :
    exec (.bindn fn q) s = .next (s.hostTxn p c (s.queueOf fn q).region) := by
  show execBindn fn q s = _
  rw [execBindn, startCmd_acts hnext hrcb hpres]
  refine congrArg Host.Outcome.next ?_
  have hany : c.pairs.any (fun x => x.2 != 0#64 && (s.reach (s.queueOf fn q).region x.2).isNone) = false := by
    rw [List.any_eq_false]
    intro x hx
    rcases hreach x hx with h | h
    · simp [h]
    · rw [Option.isNone_eq_false_iff.mpr h]
      simp
  match hc : c.pairs with
  | [] => rw [hc] at hlen; exact absurd hlen (by decide)
  | [_] => rw [hc] at hlen; exact absurd hlen (Nat.not_le.mpr Nat.one_lt_two)
  | x :: y :: l =>
    rw [hc] at hany
    simp only [if_neg (Bool.eq_false_iff.mp hany)]

/-! ### Copies -/

theorem execCopyin_starts (hnext : s.nextCmd fn q 5 = some c) (h0 : s.index = 0) : exec (.copyin fn q) s = .next (s.beginCopy c (s.queueOf fn q).region) :=
  (if_pos h0).trans (startCmd_acts hnext hrcb hpres)

theorem execCopyout_starts (hnext : s.nextCmd fn q 6 = some c) (h0 : s.index = 0) : exec (.copyout fn q) s = .next (s.beginCopy c (s.queueOf fn q).region) :=
  (if_pos h0).trans (startCmd_acts hnext hrcb hpres)

omit hrcb in
/-- A started copy is performed at the presiding controller. -/
theorem copyEvent_ends {kind k : Nat} (hlive : (s.die p).stopped = false) (hk : s.index = k + 1)
    (hc : (s.cmds.filter fun c => c.fn == fn && c.q == q && c.kind == kind && c.phase == .started)[k]? = some c) :
    copyEvent fn q kind s = .next (s.endCopy c (s.queueOf fn q).region p) := by
  have hans : s.answersHost kind = true := by
    rw [State.answersHost, hpres]
    simp [hlive]
  have hidx : ¬ s.index = 0 := by omega
  rw [copyEvent, if_neg hidx, hk, Nat.add_sub_cancel]
  simp only [hc, hpres, hans, if_true]

/-! ### Status, pre-emption and snapshots -/

theorem execQstat_eq (hnext : s.nextCmd fn q 8 = some c) : exec (.qstat fn q) s = .next
    (s.finish c 0 (BitVec.ofNat 64 ((s.queueOf fn q).lastAcc.toNat * 2 ^ 32 + (s.queueOf fn q).lastComp.toNat)) (s.queueWord fn q)) := by
  show execQstat fn q s = _
  rw [execQstat, startCmd_acts hnext hrcb hpres]

theorem execPartstat_eq (hnext : s.nextCmd fn q 12 = some c) : exec (.partstat fn q) s = .next (s.finish c 0 s.liveWord s.partWord) := by
  show execPartstat fn q s = _
  rw [execPartstat, startCmd_acts hnext hrcb hpres]

theorem execPreempt_eq (hnext : s.nextCmd fn q 9 = some c) : exec (.preempt fn q) s = .next ((s.scopeOf c (s.queueOf fn q).region).elim
    (s.finish c Cause.rights.code 0#64 0#64) fun x => (s.preempt x.1 x.2 (fn, q)).finish c 0 ((s.preempt x.1 x.2 (fn, q)).queueWord fn q) 0#64) := by
  show execPreempt fn q s = _
  rw [execPreempt, startCmd_acts hnext hrcb hpres]
  refine congrArg Host.Outcome.next ?_
  cases s.scopeOf c (s.queueOf fn q).region <;> rfl

theorem execResume_eq (hnext : s.nextCmd fn q 10 = some c) : exec (.resume fn q) s = .next ((s.scopeOf c (s.queueOf fn q).region).elim
    (s.finish c Cause.rights.code 0#64 0#64) fun x => (s.resume x.1).finish c 0 ((s.resume x.1).queueWord fn q) 0#64) := by
  show execResume fn q s = _
  rw [execResume, startCmd_acts hnext hrcb hpres]
  refine congrArg Host.Outcome.next ?_
  cases s.scopeOf c (s.queueOf fn q).region <;> rfl

theorem execSnapshot_eq (hnext : s.nextCmd fn q 11 = some c) : exec (.snapshot fn q) s = .next (
    if (s.reach (s.queueOf fn q).region (c.arg 1)).isNone then s.finish c Cause.rights.code 0#64 0#64
    else (s.updCmd c HostCmd.begun).send p (s.objHub (hobj (c.arg 1))) (.snapReq
      { place := {}, serial := 0, index := 0, region := (s.queueOf fn q).region, kind := .snap (c.arg 1), since := s.cycle, host := some (c.fn, c.q, c.seq.toNat) })) := by
  show execSnapshot fn q s = _
  rw [execSnapshot, startCmd_acts hnext hrcb hpres]
  rfl

end Commands

/-! ### Windows of copies (R379, 03_memory_model.md R51) -/

section Copies

variable {s : State} {c : HostCmd} {r : Nat} {h : Word64} {o : Obj}

theorem beginCopy_reached (hh : s.copyHandle c = some (.ok h)) (ho : s.reach r h = some o) : s.beginCopy c r =
    if c.window.within o.desc = false then s.finish c Cause.window.code 0#64 0#64
    else (o.grant c.window).elim s fun x => x.elim (s.finish c Cause.mmRace.code 0#64 0#64) fun o1 =>
      (s.setObj (hobj h) o1).updCmd c fun c => { c with phase := .started, obj := some (hobj h) } := by
  rw [State.beginCopy]
  simp only [hh, ho]
  rcases o.grant c.window with _ | _ | o1 <;> rfl

theorem beginCopy_granted (hh : s.copyHandle c = some (.ok h)) (ho : s.reach r h = some o) (hin : c.window.within o.desc = true) (hroom : o.wins.length < 16384)
    (hfree : ∀ w ∈ o.wins, o.conflict w c.window = false) : ((s.beginCopy c r).objOf (hobj h)).wins = o.wins ++ [c.window] := by
  have hrace : o.wins.any (fun x => o.conflict x c.window) = false := by
    rw [List.any_eq_false]
    exact fun w hw => by rw [hfree w hw]; exact nofun
  have heq : s.beginCopy c r = (s.setObj (hobj h) { o with wins := o.wins ++ [c.window] }).updCmd c fun c => { c with phase := .started, obj := some (hobj h) } := by
    rw [beginCopy_reached hh ho, hin, grant_given hroom hrace]
    rfl
  have hobj : (s.beginCopy c r).objOf (hobj h) = { o with wins := o.wins ++ [c.window] } := by
    rw [heq]
    exact objOf_setObj s (hobj h) _
  rw [hobj]

end Copies

/-! ### The delivery of a KICK (06_block_engine.md R101) -/

section Delivery

variable {s : State} {k : Kick}

/-- The state once a held KICK is queued at its tile. -/
def State.kicked (s : State) (k : Kick) : State :=
  ((s.updTd s.focus.die fun x => { x with kicks := dropAt x.kicks s.index }).updTile s.focus.die k.tile fun x =>
    { x with startQ := x.startQ ++ [k.start] }).hostDone k.host.1 k.host.2.1 k.host.2.2 0 0#64 0#64

theorem execKickDelivery_eq (hk : (s.die s.focus.die).td.kicks[s.index]? = some k) (hfirst : ∀ x ∈ (s.die s.focus.die).td.kicks.take s.index, x.tile ≠ k.tile) :
    exec .kickDelivery s = .next (if (s.tile s.focus.die k.tile).startFull = true then s else s.kicked k) := by
  have hany : ((s.die s.focus.die).td.kicks.take s.index).any (fun x => x.tile == k.tile) = false := by
    rw [List.any_eq_false]
    exact fun x hx => by simpa using hfirst x hx
  show execKickDelivery s = _
  rw [execKickDelivery]
  simp only [hk, hany, Bool.false_eq_true, or_false]
  rfl

theorem kicked_spec (s : State) (k : Kick) : ((s.kicked k).tile s.focus.die k.tile).startQ = (s.tile s.focus.die k.tile).startQ ++ [k.start] ∧
    ((s.kicked k).die s.focus.die).td.kicks = dropAt (s.die s.focus.die).td.kicks s.index := by
  constructor
  · exact congrArg Tile.startQ (State.tile_updTile (s.updTd s.focus.die fun x => { x with kicks := dropAt x.kicks s.index }) s.focus.die k.tile
      fun x => { x with startQ := x.startQ ++ [k.start] })
  · exact congrArg Td.kicks (td_updTd s s.focus.die fun x => { x with kicks := dropAt x.kicks s.index })

end Delivery

/-- Settles O48: a command that starts acts in its queue's region at the presiding controller, each kind with its checks in order. -/
theorem hostCommands : Obligations.HostCommands := by
  unfold Obligations.HostCommands
  intro s fn q p c r rights begun hrcb hpres hlive
  refine ⟨fun hc => ?_, fun hnext l hl => execHostFence_first hnext hl, fun hnext => ⟨fun h => execKick_refused hrcb hpres hnext h, fun hreach ht hdef => execKick_queued hrcb hpres hnext hreach ht hdef⟩,
    fun hnext => ⟨fun hreach => ?_, fun hreach => ⟨fun hbad => ?_, fun hok hn htab => ⟨fun hclaim => ?_, fun i t hclaim hwait => ?_⟩⟩⟩,
    fun hnext => ⟨fun e h => execMakeobj_refused hrcb hpres hnext h, fun id t h => execMakeobj_made hrcb hpres hnext h⟩,
    fun hnext => ⟨fun h => execBindn_none hrcb hpres hnext h, fun k h hp hh => ⟨fun hreach => ?_, fun hreach => ?_⟩, fun hlen hreach => execBindn_txn hrcb hpres hnext hlen hreach⟩,
    ⟨rfl, rfl, rfl, rfl⟩, fun hnext h0 => execCopyin_starts hrcb hpres hnext h0, fun hnext h0 => execCopyout_starts hrcb hpres hnext h0,
    fun k hk => ⟨fun hc => copyEvent_ends hpres hlive hk hc, fun hc => copyEvent_ends hpres hlive hk hc⟩,
    fun h o hh ho => ⟨fun hin => ?_, fun hin hroom hfree => beginCopy_granted hh ho hin hroom hfree⟩,
    fun hnext => execQstat_eq hrcb hpres hnext, fun hnext => ⟨fun h => ?_, fun x k h => ?_⟩, fun hnext => ⟨fun h => ?_, fun x k h => ?_⟩,
    fun hnext => ⟨fun h => ?_, fun h => ?_⟩, fun hnext => execPartstat_eq hrcb hpres hnext, fun k => ?_⟩
  · show execHostNop fn q s = _
    rw [execHostNop]
    simp only [hc]
  · exact (execLaunch_eq hrcb hpres hnext).trans (congrArg Host.Outcome.next (if_pos (by rw [hreach]; rfl)))
  · refine (execLaunch_eq hrcb hpres hnext).trans (congrArg Host.Outcome.next ((if_neg (by rw [Option.isNone_eq_false_iff.mpr hreach]; exact nofun)).trans (if_pos hbad)))
  · rw [execLaunch_eq hrcb hpres hnext, launch_checks hreach hok hn htab, show s.launchClaim c (s.queueOf fn q).region = none from hclaim]
    rfl
  · rw [execLaunch_eq hrcb hpres hnext, launch_checks hreach hok hn htab, show s.launchClaim c (s.queueOf fn q).region = some (i, t) from hclaim, Option.elim_some,
      State.launched, if_neg fun h => Bool.false_ne_true (hwait.symm.trans h.1)]
  · exact (execBindn_one hrcb hpres hnext hp hh).trans (congrArg Host.Outcome.next (if_pos (by rw [hreach]; rfl)))
  · exact (execBindn_one hrcb hpres hnext hp hh).trans (congrArg Host.Outcome.next (if_neg (by rw [Option.isNone_eq_false_iff.mpr hreach]; exact nofun)))
  · exact (beginCopy_reached hh ho).trans (if_pos hin)
  · rw [execPreempt_eq hrcb hpres hnext, show s.scopeOf c (s.queueOf fn q).region = none from h]
    rfl
  · rw [execPreempt_eq hrcb hpres hnext, show s.scopeOf c (s.queueOf fn q).region = some (x, k) from h]
    rfl
  · rw [execResume_eq hrcb hpres hnext, show s.scopeOf c (s.queueOf fn q).region = none from h]
    rfl
  · rw [execResume_eq hrcb hpres hnext, show s.scopeOf c (s.queueOf fn q).region = some (x, k) from h]
    rfl
  · exact (execSnapshot_eq hrcb hpres hnext).trans (congrArg Host.Outcome.next (if_pos (by rw [h]; rfl)))
  · exact (execSnapshot_eq hrcb hpres hnext).trans (congrArg Host.Outcome.next (if_neg (by rw [Option.isNone_eq_false_iff.mpr h]; exact nofun)))
  · intro d hk hfirst
    have hexec := execKickDelivery_eq hk hfirst
    refine ⟨fun hroom => ⟨_, hexec.trans (congrArg Host.Outcome.next (if_neg (by rw [startFull_of_room hroom]; exact nofun))), kicked_spec s k⟩, fun hfull => ?_⟩
    exact hexec.trans (congrArg Host.Outcome.next (if_pos (decide_eq_true hfull)))

end Sys2Proof.Machine
end

section
/-! PROOFS of power-up, resets, boot, attestation and the election (29_host_firmware.md R370 to R373, R382, R384, 06_block_engine.md R83). -/

namespace Sys2Proof.Machine

open Sys2Proof.Safety

/-! ### Resets of the device (R371, R382) -/

section Device

variable (s : State)

theorem ctx_cold (m : List Host.Cell) (b : List Nat) (p : Place) : (s.cold m b).ctx p = {} := rfl

/-- Bytes from an address on, whatever lies below. -/
theorem read_from (m : List Host.Cell) (a k : Nat) : Memory.read (m.filter fun c => decide (a ≤ c.1)) k = if a ≤ k then Memory.read m k else 0#8 := by
  rw [Memory.read_filter m (fun j => decide (a ≤ j)) k]
  simp only [decide_eq_true_eq]

theorem coldDies_defects (l : List (Nat × Die)) : ∀ e ∈ coldDies l, ∃ x, (e.1, x) ∈ l ∧ e.2 = { defects := x.defects } := by
  intro e he
  obtain ⟨y, hy, rfl⟩ := List.mem_map.mp he
  exact ⟨y.2, (List.mem_filter.mp hy).1, rfl⟩

/-- The epoch that is appended now. -/
def State.epoch (s : State) : Epoch :=
  { seconds := s.cycle / 1250000000, svn := s.boot.svn, counts := (s.counts ++ s.grownCounts).filter fun c => c.2 != 0, hists := s.hists }

/-- A log that fits its store is not merged. -/
theorem fitLog_fits {n : Nat} {l : List Epoch} (h : (l.map Epoch.size).sum ≤ 2 ^ 20) : fitLog (n + 1) l = l := if_pos h

theorem lifeLog_appendEpoch (h : (s.lifeLog.map Epoch.size).sum + s.epoch.size ≤ 2 ^ 20) : s.appendEpoch.lifeLog = s.lifeLog ++ [s.epoch] := by
  have hlen : (s.lifeLog ++ [s.epoch]).length = s.lifeLog.length + 1 := by simp
  have heq : s.appendEpoch.lifeLog = fitLog (s.lifeLog ++ [s.epoch]).length (s.lifeLog ++ [s.epoch]) := rfl
  rw [heq, hlen]
  refine fitLog_fits ?_
  rw [List.map_append, List.sum_append, List.map_singleton, List.sum_singleton]
  exact h

theorem die_appendEpoch (e : Nat) : s.appendEpoch.die e = { s.die e with errors := 0 } :=
  look_map ({} : Die) (fun _ x => { x with errors := 0 }) (fun _ => rfl) s.dies e

end Device

/-! ### The reset of a die (R83; log 76) -/

section DieReset

variable {s : State} {d : Nat}

/-- What a die keeps of its messages with hub d starts again. -/
def Die.cut (y : Die) (d : Nat) : Die :=
  { y with
    mesh := y.mesh.map fun m => if m.msg.any fun k => k.1 == d then { m with msg := none, card := { m.card with src := ⟨d, 0, 8⟩ } } else m
    fab := { y.fab with
      retained := y.fab.retained.filter fun r => r.msg.dst != d
      seqs := y.fab.seqs.filter fun x => x.1 != d
      melds := y.fab.melds.filter fun b => b.msg.src != d
      filters := y.fab.filters.filter fun x => x.src != d
      finishing := y.fab.finishing.filter fun x => x.1 != d
      acted := y.fab.acted.filter fun x => x.1 != d } }

/-- The die knows of no halt and retains no message for hub d. -/
def Die.QuietFor (y : Die) (d : Nat) : Prop := y.halts = [] ∧ ∀ r ∈ y.fab.retained, r.msg.dst ≠ d

theorem filter_retained {y : Die} (h : y.QuietFor d) : (y.fab.retained.filter fun r => r.msg.dst != d) = y.fab.retained :=
  List.filter_eq_self.mpr fun r hr => by simpa using h.2 r hr

theorem cutPeer_quiet {e : Nat} (h : (s.die e).QuietFor d) : (s.haltOver e d).cutPeer e d = s.updDie e fun y => y.cut d := by
  have hover : s.haltOver e d = s := haltOver_none (by rw [h.1]; rfl)
  have hgone : ((s.die e).fab.retained.filter fun r => r.msg.dst == d) = [] := by
    rw [List.filter_eq_nil_iff]
    exact fun r hr => by simpa using h.2 r hr
  rw [hover, State.cutPeer]
  simp only [hgone, List.foldl_nil]
  rfl

theorem quietFor_cut {y : Die} (h : y.QuietFor d) : (y.cut d).QuietFor d := ⟨h.1, fun r hr => h.2 r (List.mem_filter.mp hr).1⟩

/-- The dies of a list are cut from hub d, where each is quiet. -/
theorem foldl_cutPeer : ∀ (es : List Nat) (s : State), (∀ e ∈ es, (s.die e).QuietFor d) →
    es.foldl (fun s e => (s.haltOver e d).cutPeer e d) s = es.foldl (fun s e => s.updDie e fun y => y.cut d) s
  | [], _, _ => rfl
  | e :: es, s, h => by
    rw [List.foldl_cons, List.foldl_cons, cutPeer_quiet (h e List.mem_cons_self)]
    refine foldl_cutPeer es _ fun x hx => ?_
    by_cases hxe : x = e
    · rw [hxe, State.die_updDie]
      exact quietFor_cut (h e List.mem_cons_self)
    · rw [State.die_updDie_ne _ _ hxe]
      exact h x (List.mem_cons_of_mem _ hx)

theorem die_foldl_updDie (f : Die → Die) : ∀ (es : List Nat) (s : State), es.Nodup → ∀ e,
    (es.foldl (fun s e => s.updDie e f) s).die e = if e ∈ es then f (s.die e) else s.die e
  | [], _, _, _ => rfl
  | x :: es, s, hnd, e => by
    obtain ⟨hx, hes⟩ := List.nodup_cons.mp hnd
    rw [List.foldl_cons, die_foldl_updDie f es _ hes]
    by_cases he : e = x
    · rw [he, if_neg hx, if_pos List.mem_cons_self, State.die_updDie]
    · rw [State.die_updDie_ne _ _ he]
      simp only [List.mem_cons, he, false_or]

theorem lastSeq_cut (y : Die) (d c : Nat) : (y.cut d).fab.lastSeq d c = 0 := by
  have hnone : (y.fab.seqs.filter fun x => x.1 != d).find? (fun x => x.1 == d && x.2.1 == c) = none := by
    rw [List.find?_eq_none]
    intro x hx
    have := (List.mem_filter.mp hx).2
    simp only [bne_iff_ne, ne_eq] at this
    simp [this]
  have heq : (y.cut d).fab.lastSeq d c = (((y.fab.seqs.filter fun x => x.1 != d).find? fun x => x.1 == d && x.2.1 == c).map fun x => x.2.2).getD 0 := rfl
  rw [heq, hnone]
  rfl

/-- The state in which the other dies have heard of the reset. -/
def State.peersCut (s : State) (d : Nat) : State := ((List.range 32).filter fun e => e != d).foldl (fun s e => (s.haltOver e d).cutPeer e d) s

/-- The die's own part of its reset. -/
def State.dieCleared (s : State) (d : Nat) (x : Die) : State :=
  let inLs (k : Nat) : Bool := decide (lsKey d 0 0 ≤ k ∧ k < lsKey (d + 1) 0 0)
  State.setDie { s with
    frags := s.frags.filter fun f => f.msg.src != d && f.msg.dst != d
    linkMsgs := s.linkMsgs.filter fun l => l.1 != d && l.2.1 != d
    tiles := s.tiles.filter fun y => y.1 / 144 != d
    mem := s.mem.filter fun c => !inLs c.1
    bad := s.bad.filter fun w => !inLs (w * 8)
    epochBase := s.epochBase.filter fun b => b.1.1 != d } d { defects := x.defects, fab := { chords := x.fab.chords } }

theorem execDieReset_eq (s : State) : exec .dieReset s = .next ((s.peersCut s.focus.die).dieCleared s.focus.die (s.die s.focus.die)) := rfl

theorem tile_dieCleared (s : State) (d : Nat) (x : Die) {p : Place} (hp : p.tile < 144) :
    (s.dieCleared d x).tile p.die p.tile = if p.die = d then {} else s.tile p.die p.tile := by
  have hkey : (p.die * 144 + p.tile) / 144 = p.die := by omega
  have h := look_filter ({} : Tile) (fun k => k / 144 != d) s.tiles (p.die * 144 + p.tile)
  rw [hkey] at h
  refine Eq.trans h ?_
  by_cases hd : p.die = d
  · simp [hd]
  · simp only [bne_iff_ne, ne_eq, hd, not_false_eq_true, if_true, if_false]
    rfl

theorem die_dieCleared (s : State) (d : Nat) (x : Die) : (s.dieCleared d x).die d = { defects := x.defects, fab := { chords := x.fab.chords } } := look_put ..

theorem die_dieCleared_ne (s : State) (x : Die) {d e : Nat} (h : e ≠ d) : (s.dieCleared d x).die e = s.die e := look_put_ne _ _ _ h

theorem read_dieCleared (s : State) (d : Nat) (x : Die) (k : Nat) :
    Memory.read (s.dieCleared d x).mem k = if lsKey d 0 0 ≤ k ∧ k < lsKey (d + 1) 0 0 then 0#8 else Memory.read s.mem k := by
  refine (Memory.read_filter s.mem (fun k => !decide (lsKey d 0 0 ≤ k ∧ k < lsKey (d + 1) 0 0)) k).trans ?_
  by_cases h : lsKey d 0 0 ≤ k ∧ k < lsKey (d + 1) 0 0
  · rw [if_pos h, decide_eq_true h]
    rfl
  · rw [if_neg h, decide_eq_false h]
    rfl

/-- The dies but d, each quiet for it. -/
theorem peersCut_quiet (h : ∀ e < 32, e ≠ d → (s.die e).QuietFor d) : s.peersCut d = ((List.range 32).filter fun e => e != d).foldl (fun s e => s.updDie e fun y => y.cut d) s :=
  foldl_cutPeer _ s fun e he => h e (List.mem_range.mp (List.mem_filter.mp he).1) (by simpa using (List.mem_filter.mp he).2)

theorem peersCut_keeps (h : ∀ e < 32, e ≠ d → (s.die e).QuietFor d) : (s.peersCut d).tiles = s.tiles ∧ (s.peersCut d).mem = s.mem := by
  rw [peersCut_quiet h]
  exact ⟨part_foldl State.tiles (f := fun s e => s.updDie e fun y => y.cut d) (fun _ _ => rfl) _ s, part_foldl State.mem (f :=
    fun s e => s.updDie e fun y => y.cut d) (fun _ _ => rfl) _ s⟩

theorem die_peersCut (h : ∀ e < 32, e ≠ d → (s.die e).QuietFor d) {e : Nat} (he : e < 32) (hne : e ≠ d) : (s.peersCut d).die e = (s.die e).cut d := by
  rw [peersCut_quiet h, die_foldl_updDie _ _ _ (List.nodup_range.filter _)]
  exact if_pos (List.mem_filter.mpr ⟨List.mem_range.mpr he, by simpa using hne⟩)

end DieReset

/-! ### Boot (R370, R371) -/

section Boot

variable {s : State} {n : BitVec 32}

theorem execBootGoWrite_eq (hlink : s.hostLinks.contains s.index = true) (hfree : s.fnFrozen (17 * s.index) = false) :
    exec (.bootGoWrite n) s = .next (s.bootGo n.toNat) := by
  have hlink' : ¬ s.hostLinks.contains s.index = false := by rw [hlink]; exact nofun
  have hfree' : ¬ s.fnFrozen (linkFn s.index) = true := Bool.eq_false_iff.mp hfree
  exact congrArg Host.Outcome.next ((if_neg hlink').trans (if_neg hfree'))

theorem bootGo_still (h : s.boot.step = .ready ∨ s.loader = none) (len : Nat) : s.bootGo len = s := by
  rw [State.bootGo]
  cases hl : s.loader with
  | none => rfl
  | some d => exact if_pos (h.resolve_right (by rw [hl]; exact nofun))

theorem bootGo_checks {l : Nat} (hstep : s.boot.step ≠ .ready) (hl : s.loader = some l) (len : Nat) :
    s.bootGo len = if s.boot.passes len then s.ready l len else { s with boot := { s.boot with step := .failed 4 } } := by
  rw [State.bootGo]
  simp only [hl, if_neg hstep]

/-- A chord at boot: its links are those of the table. -/
def State.bootChord (s : State) (d c : Nat) : Chord :=
  let l := (chordTable d (c / 4)).getD (c % 4) []
  { valid := true, up := l.all fun k => s.link k == .up, links := l }

/-- A die as firmware finds it at boot. -/
def State.bootDie (s : State) (ld len d : Nat) : Die :=
  let x := s.die d
  { x with
    fab := { x.fab with chords := (List.range 128).map fun c => (c, s.bootChord d c) }
    ctl := if x.live && (s.sites ld).contains (dieSite d) then { x.ctl with firmware := s.boot.bytes 0 (headerSize + len) } else x.ctl }

theorem dies_ready (s : State) (ld len : Nat) : (s.ready ld len).dies = (List.range 32).map fun d => (d, s.bootDie ld len d) := by
  simp only [State.ready, State.bootDie, State.bootChord]

theorem die_ready (s : State) (ld len : Nat) {d : Nat} (hd : d < 32) : (s.ready ld len).die d = s.bootDie ld len d := by
  rw [State.die, dies_ready]
  exact look_range_map ({} : Die) (s.bootDie ld len) hd

theorem mem_ready (s : State) (ld len a : Nat) : Memory.read (s.ready ld len).mem a = if 2 ^ 34 ≤ a ∧ a < 2 ^ 42 then 0#8 else Memory.read s.mem a := by
  refine (Memory.read_filter s.mem (fun k => !decide (2 ^ 34 ≤ k ∧ k < 2 ^ 42)) a).trans ?_
  by_cases h : 2 ^ 34 ≤ a ∧ a < 2 ^ 42
  · rw [if_pos h, decide_eq_true h]
    rfl
  · rw [if_neg h, decide_eq_false h]
    rfl

theorem firmware_ready (s : State) (ld len : Nat) {d : Nat} (hd : d < 32) (hlive : (s.die d).live = true) (hsite : dieSite d ∈ s.sites ld) :
    ((s.ready ld len).die d).ctl.firmware = s.boot.bytes 0 (256 + len) := by
  have hgate : ((s.die d).live && (s.sites ld).contains (dieSite d)) = true := by
    rw [hlive, List.contains_iff_mem.mpr hsite]
    rfl
  rw [die_ready s ld len hd, State.bootDie]
  simp only [hgate, if_true]
  rfl

theorem chord_ready (s : State) (ld len : Nat) {d e c : Nat} (hd : d < 32) (he : e < 32) (hc : c < 4) :
    ((s.ready ld len).die d).fab.chord e c = s.bootChord d (4 * e + c) := by
  rw [die_ready s ld len hd]
  exact look_range_map (n := 128) (k := 4 * e + c) {} (s.bootChord d) (by omega)

theorem bootChord_spec (s : State) (d : Nat) {e c : Nat} (hc : c < 4) : (s.bootChord d (4 * e + c)).valid = true ∧
    (s.bootChord d (4 * e + c)).links = (chordTable d e).getD c [] ∧
    ((s.bootChord d (4 * e + c)).up = true ↔ ∀ y ∈ (s.bootChord d (4 * e + c)).links, s.link y = .up) := by
  refine ⟨rfl, ?_, ?_⟩
  · rw [State.bootChord, show (4 * e + c) / 4 = e by omega, show (4 * e + c) % 4 = c by omega]
  · rw [State.bootChord]
    simp only [List.all_eq_true, beq_iff_eq]

/-- A controller's boot with an image that passes. -/
theorem ready_spec (s : State) (ld : Nat) (len : Nat) : (s.ready ld len).boot.step = .ready ∧ (s.ready ld len).regions = [(0, rootBlock)] ∧
    (s.ready ld len).keys = [(0, keyPair s.freeCtr)] ∧ (s.ready ld len).frames = [] ∧ (s.ready ld len).boot.digest = Config.sm3 (s.boot.bytes 0 (256 + len)) :=
  ⟨rfl, rfl, rfl, rfl, rfl⟩

end Boot

/-! ### The election (R373) -/

section Election

variable {s : State}

theorem find?_map_pair {α : Type} {l : List (Nat × Nat)} {k : Nat × Nat} (h : k ∈ l) (f : Nat × Nat → α) :
    (l.map fun j => (j, f j)).find? (fun x => x.1 == k) = some (k, f k) := by
  induction l with
  | nil => exact absurd h List.not_mem_nil
  | cons j l ih =>
    rw [List.map_cons, List.find?_cons]
    by_cases hj : j = k
    · rw [hj]
      simp
    · have hne : (j == k) = false := by simpa using hj
      rw [hne]
      exact ih ((List.mem_cons.mp h).resolve_left fun h => hj h.symm)

theorem mem_everyQueue {fn q : Nat} (hfn : fn < 34) (hq : q < 8) : (fn, q) ∈ everyQueue :=
  List.mem_flatMap.mpr ⟨fn, List.mem_range.mpr hfn, List.mem_map.mpr ⟨q, List.mem_range.mpr hq, rfl⟩⟩

/-- A queue as the election leaves it. -/
def Queue.afterElection (x : Queue) (new : Option Nat) : Queue := if new.isSome then { x with state := .error, err := 4 } else { x with state := .off }

theorem elect_changes (h : s.elected ≠ s.presiding) :
    s.elect = { s with presiding := s.elected, queues := everyQueue.map fun k => (k, (s.queueOf k.1 k.2).afterElection s.elected) } := if_neg h

theorem queueOf_elect (h : s.elected ≠ s.presiding) {fn q : Nat} (hfn : fn < 34) (hq : q < 8) : s.elect.queueOf fn q = (s.queueOf fn q).afterElection s.elected := by
  rw [elect_changes h, State.queueOf]
  have hfind := find?_map_pair (mem_everyQueue hfn hq) fun k => (s.queueOf k.1 k.2).afterElection s.elected
  rw [hfind]
  rfl

/-- The answer of a controller over the DOE of a link. -/
def State.spdmAnswer (s : State) (w : SpdmReq) : List Byte :=
  let signed (l : List Byte) : List Byte := l ++ leBytes 64 (Config.sm2Sign l).toNat
  match w with
  | .identity => Config.spdmIdentity
  | .certificate => Config.spdmCertificate
  | .measurement k => signed (leBytes 1 k ++ leBytes 32 (s.measure k).toNat)

theorem execSpdmRequest_answers (w : SpdmReq) (hready : s.boot.step = .ready) (hlink : s.hostLinks.contains s.index = true) :
    exec (.spdmRequest w) s = .next { s with doe := put s.doe s.index (s.spdmAnswer w) } := by
  have hgate : ¬ (s.boot.step ≠ .ready ∨ s.hostLinks.contains s.index = false) := by
    rw [hready, hlink]
    simp
  cases w <;> exact congrArg Host.Outcome.next (if_neg hgate)

end Election

/-- Settles O49: a reset keeps what lies outside what it resets; a die that no other knows as halted and that no other retains a message for leaves the
other dies' contexts, records and directories as they are. -/
theorem resetsBootElection : Obligations.ResetsBootElection := by
  unfold Obligations.ResetsBootElection
  refine ⟨fun s => ⟨?_, ?_, ?_, fun a b => ⟨fun h => ?_, fun ha hb => ?_⟩, fun h => ?_, fun h => ?_⟩, fun s n =>
    ⟨fun hlink => ?_, fun hlink hfrozen => ?_, fun hlink hfree => ⟨fun h => ?_, fun l hstep hl => ?_⟩, fun hstep => ?_, fun hstep he => ?_,
      fun hstep he => ?_, fun w h => ?_, fun hready hlink => ?_⟩⟩
  · exact ⟨_, rfl, fun p => ctx_cold _ _ _ p, rfl, rfl, rfl, rfl, fun k => read_from s.mem (2 ^ 42) k, coldDies_defects s.dies⟩
  · refine ⟨_, rfl, fun p => ctx_cold _ _ _ p, rfl, rfl, rfl, rfl, fun k => read_from s.mem (2 ^ 34) k, ?_⟩
    intro grown h
    exact lifeLog_appendEpoch s ((congrArg (_ + ·) rfl).trans_le h)
  · refine ⟨_, execDieReset_eq s, fun p hok hp => ?_, ?_, ?_, fun hquiet => ?_⟩
    · rw [State.ctx, tile_dieCleared _ _ _ (Place.tile_lt hok), if_pos hp]
      rfl
    · rw [State.nd, die_dieCleared]
    · rw [die_dieCleared]
    · have hq : ∀ e < 32, e ≠ s.focus.die → (s.die e).QuietFor s.focus.die := hquiet
      obtain ⟨htiles, hmem⟩ := peersCut_keeps hq
      refine ⟨fun p hok hp => ?_, fun e he hne => ?_, fun k => ?_⟩
      · rw [State.ctx, tile_dieCleared _ _ _ (Place.tile_lt hok), if_neg hp, tile_of_tiles htiles]
        rfl
      · have hdie := (die_dieCleared_ne (s.peersCut s.focus.die) (s.die s.focus.die) hne).trans (die_peersCut hq he hne)
        rw [State.nd, hdie]
        refine ⟨rfl, rfl, filter_retained (hq e he hne), fun x hx => ?_, fun c => lastSeq_cut _ _ c⟩
        simpa using (List.mem_filter.mp hx).2
      · rw [read_dieCleared, hmem]
  · exact congrArg Host.Outcome.next (if_pos h)
  · exact congrArg Host.Outcome.next (if_neg (by omega))
  · exact congrArg Host.Outcome.next (if_pos h)
  · exact ⟨_, congrArg Host.Outcome.next (if_neg (Nat.not_lt.mpr h)), rfl, rfl, rfl, rfl, rfl, die_appendEpoch s⟩
  · exact congrArg Host.Outcome.next (if_pos hlink)
  · exact congrArg Host.Outcome.next ((if_neg (by rw [hlink]; exact nofun)).trans (if_pos hfrozen))
  · exact (execBootGoWrite_eq hlink hfree).trans (congrArg Host.Outcome.next (bootGo_still h _))
  · have hexec := execBootGoWrite_eq (n := n) hlink hfree
    rw [bootGo_checks hstep hl] at hexec
    by_cases hpass : s.boot.passes n.toNat = true
    · obtain ⟨h1, h2, h3, h4, h5⟩ := ready_spec s l n.toNat
      rw [if_pos hpass] at hexec
      refine ⟨s.ready l n.toNat, keyPair s.freeCtr, hexec, ?_⟩
      rw [if_pos hpass]
      refine ⟨h1, h2, h3, h4, h5, fun d hd hlive hsite => firmware_ready s l _ hd hlive hsite, fun d hd e he c hc => ?_, fun a => mem_ready s l _ a⟩
      intro x
      have hx : x = s.bootChord d (4 * e + c) := chord_ready s l n.toNat hd he hc
      rw [hx]
      exact bootChord_spec s d hc
    · rw [if_neg hpass] at hexec
      refine ⟨_, keyPair s.freeCtr, hexec, ?_⟩
      rw [if_neg hpass]
  · exact congrArg Host.Outcome.next (if_neg hstep)
  · exact congrArg Host.Outcome.next ((if_pos hstep).trans (if_pos he))
  · refine ⟨_, congrArg Host.Outcome.next (if_pos hstep), ?_, fun fn hfn q hq => ⟨fun hsome => ?_, fun hnone => ?_⟩⟩
    · rw [elect_changes he]
    · rw [queueOf_elect he hfn hq, Queue.afterElection, if_pos hsome]
      exact ⟨rfl, rfl⟩
    · rw [queueOf_elect he hfn hq, Queue.afterElection, hnone]
      rfl
  · exact congrArg Host.Outcome.next (if_pos h)
  · exact ⟨execSpdmRequest_answers .identity hready hlink, execSpdmRequest_answers .certificate hready hlink,
      fun k => execSpdmRequest_answers (.measurement k) hready hlink, rfl⟩

end Sys2Proof.Machine
end

section
/-! PROOFS of the register writes (00_scope.md R6, 11_tensor_access.md R176, 16_message_engine.md R261, 17_erasure_coding.md R262, R267,
29_host_firmware.md R368, R370, R374). -/

namespace Sys2Proof.Machine

open Sys2Proof.Safety

/-! ### Fields written one after the other -/

section Fields
variable {m : Nat} (x : BitVec m) {lo n k : Nat}

theorem setFld_empty (v : Nat) (h : lo ≤ m) : setFld x lo 0 v = x := by
  apply BitVec.eq_of_toNat_eq
  rw [toNat_setFld v (show lo + 0 ≤ m from h), Nat.pow_zero, Nat.mod_one, Nat.zero_add, Nat.one_mul, Nat.add_zero, Nat.mod_add_div]

/-- Two adjacent fields, the lower one written first, are one field. -/
theorem setFld_setFld_above (v : Nat) (h : lo + (n + k) ≤ m) :
    setFld (setFld x lo n v) (lo + n) k (v / 2 ^ n) = setFld x lo (n + k) v := by
  have hlow : lo + n ≤ m := by omega
  have hdiv (j : Nat) : (x.toNat / 2 ^ (lo + n)) / 2 ^ j = x.toNat / 2 ^ (lo + n + j) := by rw [Nat.div_div_eq_div_mul, ← Nat.pow_add]
  apply BitVec.eq_of_toNat_eq
  have hmod : (setFld x lo n v).toNat % 2 ^ (lo + n) = x.toNat % 2 ^ lo + 2 ^ lo * (v % 2 ^ n) := by
    rw [toNat_setFld v hlow, Nat.mul_add, ← Nat.mul_assoc, ← Nat.pow_add, ← Nat.add_assoc, Nat.add_mul_mod_self_left]
    apply Nat.mod_eq_of_lt
    rw [Nat.pow_add]
    have hin : x.toNat % 2 ^ lo < 2 ^ lo := Nat.mod_lt _ (Nat.two_pow_pos _)
    have hval : v % 2 ^ n + 1 ≤ 2 ^ n := Nat.mod_lt _ (Nat.two_pow_pos _)
    calc x.toNat % 2 ^ lo + 2 ^ lo * (v % 2 ^ n)
      _ < 2 ^ lo + 2 ^ lo * (v % 2 ^ n) := Nat.add_lt_add_right hin _
      _ = 2 ^ lo * (v % 2 ^ n + 1) := by ring
      _ ≤ 2 ^ lo * 2 ^ n := Nat.mul_le_mul_left _ hval
  have habove : (setFld x lo n v).toNat / 2 ^ (lo + n + k) = x.toNat / 2 ^ (lo + (n + k)) := by
    rw [Nat.add_assoc, setFld_div v hlow, Nat.pow_add 2 n k, ← Nat.div_div_eq_div_mul, Nat.add_mul_div_left _ _ (Nat.two_pow_pos _),
      Nat.div_eq_of_lt (Nat.mod_lt _ (Nat.two_pow_pos _)), Nat.zero_add, hdiv, Nat.add_assoc]
  rw [toNat_setFld (x := setFld x lo n v) _ (by omega), hmod, habove, toNat_setFld v h, Nat.pow_add 2 n k, Nat.mod_mul, Nat.pow_add 2 lo n]
  ring

theorem setFld_mod (v : Nat) : setFld x lo n (v % 2 ^ n) = setFld x lo n v := by rw [setFld, Nat.mod_mod, setFld]

end Fields

/-! ### Eight bytes written one after the other -/

/-- Consecutive keys, written from the lowest. -/
theorem look_foldl_put {α : Type} (d : α) (f : Nat → α) (a n : Nat) (l : List (Nat × α)) (k : Nat) :
    look d (((List.range n).map fun i => (a + i, f i)).foldl (fun l x => put l x.1 x.2) l) k =
      if a ≤ k ∧ k < a + n then f (k - a) else look d l k := by
  induction n with
  | zero => exact (if_neg (by omega)).symm
  | succ n ih =>
    rw [List.range_succ, List.map_append, List.foldl_append, List.map_singleton, List.foldl_cons, List.foldl_nil]
    by_cases hk : k = a + n
    · rw [hk, look_put, if_pos ⟨Nat.le_add_right .., by omega⟩, Nat.add_sub_cancel_left]
    · rw [look_put_ne _ _ _ hk, ih]
      exact if_congr (by omega) rfl rfl

/-- A landing entry with one field of its bits replaced. -/
def Landing.setBits (l : Landing) (lo n v : Nat) : Landing := { l with bits := setFld l.bits lo n v }

theorem Landing.setBits_empty (l : Landing) {lo : Nat} (v : Nat) (h : lo ≤ 2048) : l.setBits lo 0 v = l :=
  congrArg (fun b => ({ l with bits := b } : Landing)) (setFld_empty l.bits v h)

theorem Landing.setBits_setBits (l : Landing) {lo n k : Nat} (v : Nat) (h : lo + (n + k) ≤ 2048) :
    (l.setBits lo n v).setBits (lo + n) k (v / 2 ^ n) = l.setBits lo (n + k) v :=
  congrArg (fun b => ({ l with bits := b } : Landing)) (setFld_setFld_above l.bits v h)

theorem Landing.setBits_byte (l : Landing) (lo v : Nat) : l.setBits lo 8 (BitVec.ofNat 8 v).toNat = l.setBits lo 8 v := by
  rw [Landing.setBits, BitVec.toNat_ofNat, setFld_mod, ← Landing.setBits]

/-- What a byte written to the landing data leaves. -/
def Tile.landingByte (a v : Nat) (t : Tile) (i : Nat) : Tile :=
  t.setLb ((a + i) / 256) ((t.lb ((a + i) / 256)).setBits ((a + i) % 256 * 8) 8 (BitVec.ofNat 8 (v / 2 ^ (8 * i))).toNat)

theorem writeLanding_leBytes (t : Tile) (a n v : Nat) : t.writeLanding a (leBytes n v) = (List.range n).foldl (Tile.landingByte a v) t := by
  rw [Tile.writeLanding, length_leBytes, leBytes_eq_map, ← List.map_prod_left_eq_zip, List.foldl_map]
  rfl

section Landing
variable {t : Tile} {a v : Nat}

/-- Bytes that stay in one landing entry are one field of it. -/
theorem lb_landingBytes (ha : a % 8 = 0) {n : Nat} (hn : n ≤ 8) (k : Nat) :
    ((List.range n).foldl (Tile.landingByte a v) t).lb k =
      if k = a / 256 then (t.lb k).setBits (a % 256 * 8) (8 * n) v else t.lb k := by
  induction n with
  | zero => rw [Landing.setBits_empty _ v (by omega), ite_self]; rfl
  | succ n ih =>
    have hentry : (a + n) / 256 = a / 256 := by omega
    have hplace : (a + n) % 256 * 8 = a % 256 * 8 + 8 * n := by omega
    rw [List.range_succ, List.foldl_append, List.foldl_cons, List.foldl_nil, Tile.landingByte, lb_setLb, hentry, hplace, Landing.setBits_byte]
    by_cases hk : k = a / 256
    · rw [if_pos hk, if_pos hk, ← hk, ih (by omega), if_pos hk, Landing.setBits_setBits _ v (by omega)]
      rfl
    · rw [if_neg hk, if_neg hk, ih (by omega), if_neg hk]

theorem lb_writeLanding (ha : a % 8 = 0) (k : Nat) : (t.writeLanding a (leBytes 8 v)).lb k =
    if k = a / 256 then (t.lb k).setBits (a % 256 * 8) 64 v else t.lb k := by
  rw [writeLanding_leBytes]
  exact lb_landingBytes ha (Nat.le_refl 8) k

end Landing

/-! ### Registers (R6) -/

section Registers
variable {s : State} {v : Word64}

theorem queueWrite_rbase (hready : s.boot.step = .ready) (fn q : Nat) :
    s.queueWrite fn 3 q v = s.updQueue fn q fun x => { x with rbase := setFld v 0 12 0 } := by
  rw [State.queueWrite, if_neg (not_not.mpr hready), if_neg (by decide), if_neg (by decide), if_neg (by decide), if_pos rfl]

theorem queueWrite_cbase (hready : s.boot.step = .ready) (fn q : Nat) :
    s.queueWrite fn 4 q v = s.updQueue fn q fun x => { x with cbase := setFld v 0 12 0 } := by
  rw [State.queueWrite, if_neg (not_not.mpr hready), if_neg (by decide), if_neg (by decide), if_neg (by decide), if_neg (by decide), if_pos rfl]

theorem queueWrite_expect (hready : s.boot.step = .ready) (fn q : Nat) :
    s.queueWrite fn 5 q v = s.updQueue fn q fun x => if x.en then x else { x with expect := fld v 0 32 } := by
  rw [State.queueWrite, if_neg (not_not.mpr hready), if_neg (by decide), if_neg (by decide), if_neg (by decide), if_neg (by decide), if_neg (by decide),
    if_pos rfl]

theorem execRegisterWrite_queue {fn q : Nat} (hfrozen : s.fnFrozen fn = false) (hready : s.boot.step = .ready) :
    (∃ u, exec (.registerWrite (.queueRbase fn q) v) s = .next u ∧ (u.queueOf fn q).rbase = setFld v 0 12 0) ∧
    (∃ u, exec (.registerWrite (.queueCbase fn q) v) s = .next u ∧ (u.queueOf fn q).cbase = setFld v 0 12 0) ∧
    ((s.queueOf fn q).en = false → ∃ u, exec (.registerWrite (.queueExpect fn q) v) s = .next u ∧ (u.queueOf fn q).expect = fld v 0 32) := by
  refine ⟨⟨_, congrArg Host.Outcome.next ((hostWrite_ready hfrozen ..).trans (queueWrite_rbase hready ..)), ?_⟩,
    ⟨_, congrArg Host.Outcome.next ((hostWrite_ready hfrozen ..).trans (queueWrite_cbase hready ..)), ?_⟩, fun hen =>
    ⟨_, congrArg Host.Outcome.next ((hostWrite_ready hfrozen ..).trans (queueWrite_expect hready ..)), ?_⟩⟩
  · rw [queueOf_updQueue]
  · rw [queueOf_updQueue]
  · rw [queueOf_updQueue, hen]
    rfl

theorem execRegisterWrite_queueRegion (fn q : Nat) :
    ((s.rcb (fldN v 0 12)).isSome = true →
      ∃ u, exec (.registerWrite (.queueRegion fn q) v) s = .next u ∧ (u.queueOf fn q).region = fldN v 0 12) ∧
    (s.rcb (fldN v 0 12) = none → exec (.registerWrite (.queueRegion fn q) v) s = .next s) := by
  refine ⟨fun hregion => ⟨_, congrArg Host.Outcome.next (if_pos hregion), ?_⟩, fun hnone => congrArg Host.Outcome.next (if_neg ?_)⟩
  · rw [queueOf_updQueue]
  · rw [hnone]; exact nofun

theorem execRegisterWrite_tileTable {o : BitVec 32} {j : Nat} (hlive : (s.objOf o).live = true) (hj : j < Desc.entries (s.objOf o).desc) :
    ∃ u, exec (.registerWrite (.tileTable o j) v) s = .next u ∧ (u.objOf o).entry j = setFld (setFld (setFld v 56 3 0) 16 16 0) 5 3 0 ∧
      ∀ k, k ≠ j → (u.objOf o).entry k = (s.objOf o).entry k := by
  refine ⟨_, congrArg Host.Outcome.next (if_pos ⟨hlive, hj⟩), ?_, fun k hk => ?_⟩
  · rw [objOf_setObj, entry_put, if_pos rfl]
  · rw [objOf_setObj, entry_put, if_neg hk]

theorem rate_put (f : Fab) (k : Nat) (r : Nat × Nat) : ({ f with coderate := put f.coderate k r } : Fab).rate k = r := look_put ..

theorem execRegisterWrite_fabric (d k : Nat) :
    (∃ u, exec (.registerWrite (.meldcfg d) v) s = .next u ∧ (u.die d).fab.tmoPod = max 1024 (fldN v 40 24) ∧
      (u.die d).fab.tmoPanel = max 1024 (fldN v 16 24) ∧ (u.die d).fab.repairLimit = min 8 (fldN v 0 4)) ∧
    ∃ u, exec (.registerWrite (.coderate d k) v) s = .next u ∧ (u.die d).fab.rate k = (min 8 (fldN v 4 4), min 8 (fldN v 0 4)) := by
  refine ⟨⟨_, rfl, ?_⟩, _, rfl, ?_⟩
  · rw [fab_updFab]
    exact ⟨rfl, rfl, rfl⟩
  · rw [fab_updFab, rate_put]

theorem chord_put (f : Fab) (e c : Nat) (x : Chord) : ({ f with chords := put f.chords (4 * e + c) x } : Fab).chord e c = x := look_put ..

theorem execRegisterWrite_chordValid (d e c : Nat) :
    ∃ u, exec (.registerWrite (.chordValid d e c) v) s = .next u ∧ ((u.die d).fab.chord e c).valid = bit v 0 ∧
      ((u.die d).fab.chord e c).links = ((s.die d).fab.chord e c).links ∧
      (((u.die d).fab.chord e c).up = true ↔ ∀ y ∈ ((s.die d).fab.chord e c).links, s.link y ≠ .down) := by
  refine ⟨_, rfl, ?_⟩
  rw [fab_updFab, chord_put]
  refine ⟨rfl, rfl, List.all_eq_true.trans (forall₂_congr fun y _ => bne_iff_ne)⟩

/-! ### The boot window (R368, R370) -/

theorem execRegisterWrite_bootWindow_held (hlink : s.hostLinks.contains s.index = true) (hfrozen : s.fnFrozen (17 * s.index) = true) (a : Nat) :
    exec (.registerWrite (.bootWindow a) v) s = .next (s.holdMaster (.function (17 * s.index)) [BitVec.ofNat 64 (1024 + a), v] 0 v) :=
  congrArg Host.Outcome.next <| (if_neg (by rw [hlink]; exact nofun)).trans (if_pos hfrozen)

theorem execRegisterWrite_bootWindow (hlink : s.hostLinks.contains s.index = true) (hfrozen : s.fnFrozen (17 * s.index) = false)
    (hloader : s.loader ≠ none) (hstep : s.boot.step ≠ .ready) (a : Nat) :
    ∃ u, exec (.registerWrite (.bootWindow a) v) s = .next u ∧ (∀ i < 8, look 0#8 u.boot.image (a + i) = fld v (8 * i) 8) ∧
      ∀ k, k < a ∨ a + 8 ≤ k → look 0#8 u.boot.image k = look 0#8 s.boot.image k := by
  have himage (k : Nat) := look_foldl_put 0#8 (fun i => (fld v (8 * i) 8 : Byte)) a 8 s.boot.image k
  refine ⟨_, congrArg Host.Outcome.next <| (if_neg (by rw [hlink]; exact nofun)).trans <|
    (if_neg (by rw [linkFn, hfrozen]; exact nofun)).trans (if_neg (not_or.mpr ⟨hstep, hloader⟩)), fun i hi => ?_, fun k hk => ?_⟩
  · exact (himage (a + i)).trans (by rw [if_pos ⟨Nat.le_add_right .., by omega⟩, Nat.add_sub_cancel_left])
  · exact (himage k).trans (if_neg (by omega))

/-! ### The die map (R104, R176) -/

theorem execRegisterWrite_mapStore (d t a : Nat) :
    ∃ u, exec (.registerWrite (.mapStore d t a) v) s = .next u ∧ Holds u.mem (lsKey d t a) (leBytes 8 v.toNat) ∧
      SameOutside s.mem u.mem [(lsKey d t a, 8)] :=
  ⟨_, rfl, holds_writeN s.mem (lsKey d t a) (leBytes 8 v.toNat), sameOutside_writeN s.mem (lsKey d t a) (leBytes 8 v.toNat)⟩

theorem execRegisterWrite_mapLanding (d t : Nat) {a : Nat} (ha : a % 8 = 0) :
    ∃ u, exec (.registerWrite (.mapLanding d t a) v) s = .next u ∧ u.mem = s.mem ∧
      (u.tile d t).lb (a / 256) = { (s.tile d t).lb (a / 256) with bits := setFld ((s.tile d t).lb (a / 256)).bits (a % 256 * 8) 64 v.toNat } ∧
      ∀ k, k ≠ a / 256 → (u.tile d t).lb k = (s.tile d t).lb k := by
  refine ⟨_, rfl, State.updTile_mem .., ?_, fun k hk => ?_⟩
  · rw [State.tile_updTile, lb_writeLanding ha, if_pos rfl]
    rfl
  · rw [State.tile_updTile, lb_writeLanding ha, if_neg hk]

end Registers

/-- Settles O50: per register, the field that its write stores; the boot window byte by byte, a landing entry as one field of 64 bits. -/
theorem registerWrites : Obligations.RegisterWrites := by
  intro s v
  refine ⟨fun _ => rfl, rfl, fun k => ⟨_, rfl, (look?_put ..).trans (congrArg some ?_)⟩, fun d => (execRegisterWrite_fabric d 0).1,
    fun d k => (execRegisterWrite_fabric d k).2, fun _ _ => execRegisterWrite_queue, execRegisterWrite_queueRegion, fun _ _ => execRegisterWrite_tileTable,
    fun a hlink hfrozen => execRegisterWrite_bootWindow_held hlink hfrozen a,
    fun a hlink hfrozen hloader hstep => execRegisterWrite_bootWindow hlink hfrozen hloader hstep a, execRegisterWrite_chordValid,
    execRegisterWrite_mapStore, fun d t _ => execRegisterWrite_mapLanding d t⟩
  exact congrArg (· % 1024) (Nat.div_one _)

end Sys2Proof.Machine
end

section
/-! PROOFS of frozen masters, halted contexts, machine checks, key slots and throttling (28_traps_preemption.md R355, R361, R368, R369,
29_host_firmware.md R380, R384). -/

namespace Sys2Proof.Machine

open Sys2Proof.Safety

/-! ### Frozen masters (R368) -/

/-- The state once the frozen master in turn is off the list. -/
def State.unlisted (s : State) : State := { s with frozen := dropAt s.frozen s.index }

/-- The state once the copy queue c, t has thawed and the command n of context 0 has left it. -/
def State.copyThawed (s : State) (c t n : Nat) : State :=
  (s.updTile c t fun x => { x with copyFrozen := false }).updTile c t fun x => { x with copyQ := x.copyQ.filter fun y => !(y.ctx == 0 && y.num == n) }

theorem ctx_copyThawed (s : State) (c t n : Nat) (p : Place) : (s.copyThawed c t n).ctx p = s.ctx p :=
  (State.ctx_updTile _ _ _ (fun x => { x with copyQ := x.copyQ.filter fun y => !(y.ctx == 0 && y.num == n) }) (fun _ => rfl) _).trans
    (State.ctx_updTile _ _ _ (fun x => { x with copyFrozen := false }) (fun _ => rfl) _)

theorem tile_copyThawed {s : State} {c t n : Nat} {e : CopyEntry} (hqueue : (s.tile c t).copyQ = [e]) (hctx : e.ctx = 0) (hnum : e.num = n) :
    ((s.copyThawed c t n).tile c t).copyFrozen = false ∧ ((s.copyThawed c t n).tile c t).copyQ = [] := by
  rw [State.copyThawed, State.tile_updTile, State.tile_updTile]
  simp [hqueue, hctx, hnum]

/-- The end of a run leaves a context frozen or not, as it is. -/
theorem State.frozen_endRun (s : State) (p : Place) : ((s.endRun p).ctx p).frozen = (s.ctx p).frozen := by
  obtain ⟨ports, hports⟩ := s.ctx_releaseAgs p p rfl rfl
  rw [State.endRun, State.idleHandler, State.ctx_updCtx, State.ctx_updTile _ _ _ _ (fun t => Tile.ctxs_endSource t _)]
  have hkept := congrArg Ctx.frozen hports
  exact hkept

section Frozen
variable {s : State} {f : Frozen} (hf : s.frozen[s.index]? = some f)
include hf

theorem execMasterUnfreeze_of : exec .masterUnfreeze s = .next (s.unlisted.thaw f) := by
  show execMasterUnfreeze s = _
  rw [execMasterUnfreeze, hf]
  rfl

theorem execMasterReset_of : exec .masterReset s = .next (s.unlisted.resetMaster f) := by
  show execMasterReset s = _
  rw [execMasterReset, hf]
  rfl

theorem execMasterUnfreeze_context {p : Place} (hwho : f.who = .context p) (hheld : f.held = []) :
    ∃ u, exec .masterUnfreeze s = .next u ∧ u.frozen = dropAt s.frozen s.index ∧ u.ctx p = { s.ctx p with frozen := false } := by
  have hthaw : s.unlisted.thaw f = s.unlisted.updCtx p fun c => { c with frozen := false } := by
    rw [State.thaw, hwho]
    simp only [hheld]
  refine ⟨_, execMasterUnfreeze_of hf, ?_⟩
  rw [hthaw]
  exact ⟨rfl, State.ctx_updCtx ..⟩

theorem master_function {fn : Nat} (hwho : f.who = .function fn) :
    exec .masterUnfreeze s = .next (s.unlisted.replayFn fn f.held) ∧ exec .masterReset s = .next s.unlisted := by
  rw [execMasterUnfreeze_of hf, execMasterReset_of hf, State.thaw, State.resetMaster, hwho]
  exact ⟨rfl, rfl⟩

theorem master_peer {k : Nat} (hwho : f.who = .peer k) :
    exec .masterUnfreeze s = .next (s.unlisted.replayPeer k f.held.length f.held) ∧ exec .masterReset s = .next s.unlisted := by
  rw [execMasterUnfreeze_of hf, execMasterReset_of hf, State.thaw, State.resetMaster, hwho]
  exact ⟨rfl, rfl⟩

theorem execMasterUnfreeze_copyQueue {c t : Nat} (hwho : f.who = .copyQueue c t) (hempty : (s.tile c t).copyQ = []) :
    ∃ u, exec .masterUnfreeze s = .next u ∧ (u.tile c t).copyFrozen = false := by
  have hthaw : s.unlisted.thaw f = s.unlisted.updTile c t fun x => { x with copyFrozen := false } := by
    have hnone : ((s.unlisted.tile c t).copyQ.find? fun e => !e.running) = none := by
      rw [show (s.unlisted.tile c t).copyQ = [] from hempty]; rfl
    rw [State.thaw, hwho]
    simp only [hnone]
  refine ⟨_, execMasterUnfreeze_of hf, ?_⟩
  rw [hthaw, State.tile_updTile]

/-- The queued command of a frozen copy queue that is reset completes with `RIGHTS`. -/
theorem execMasterReset_copyQueue {c t : Nat} {e : CopyEntry} (hwho : f.who = .copyQueue c t) (hfrozen : (s.tile c t).copyFrozen = true)
    (hqueue : (s.tile c t).copyQ = [e]) (hrun : e.running = false) (hctx : e.ctx = 0) (hnext : (s.ctx ⟨c, t, 0⟩).done.ce + 1 = e.num)
    (hout : (s.ctx ⟨c, t, 0⟩).doneOut = []) :
    ∃ u, exec .masterReset s = .next u ∧ (u.tile c t).copyFrozen = false ∧ (u.tile c t).copyQ = [] ∧ (u.ctx ⟨c, t, 0⟩).done.ce = e.num ∧
      (u.ctx ⟨c, t, 0⟩).recf = (s.ctx ⟨c, t, 0⟩).recf ++ [⟨.ce, e.num, .rights, false⟩] := by
  have hreset : s.unlisted.resetMaster f = (s.unlisted.copyThawed c t e.num).complete ⟨c, t, 0⟩ .ce e.num (some .rights) := by
    have hheld : (s.unlisted.tile c t).copyQ.filter (fun e => !e.running) = [e] := by
      rw [show (s.unlisted.tile c t).copyQ = [e] from hqueue]; simp [hrun]
    have hthawed : ¬ (s.unlisted.tile c t).copyFrozen = false := by
      rw [show (s.unlisted.tile c t).copyFrozen = true from hfrozen]; exact nofun
    rw [State.resetMaster, hwho]
    simp only [if_neg hthawed, hheld, List.foldl_cons, List.foldl_nil, State.copyDone, hctx, State.copyThawed]
  have hw : (s.unlisted.copyThawed c t e.num).ctx ⟨c, t, 0⟩ = s.ctx ⟨c, t, 0⟩ := ctx_copyThawed ..
  obtain ⟨hthawed, hleft⟩ := tile_copyThawed (s := s.unlisted) (n := e.num) hqueue hctx rfl
  obtain ⟨ctxs, htile⟩ := tile_complete (s.unlisted.copyThawed c t e.num) ⟨c, t, 0⟩ .ce e.num (some .rights)
  have hnext : ((s.unlisted.copyThawed c t e.num).ctx ⟨c, t, 0⟩).done.get .ce + 1 = e.num := by rw [hw]; exact hnext
  have hout : ((s.unlisted.copyThawed c t e.num).ctx ⟨c, t, 0⟩).doneOut = [] := by rw [hw]; exact hout
  have hcause : Cause.rights ≠ .uncorrectable := by decide
  have htile : ((s.unlisted.copyThawed c t e.num).complete ⟨c, t, 0⟩ .ce e.num (some .rights)).tile c t = _ := htile
  refine ⟨_, execMasterReset_of hf, ?_⟩
  rw [hreset, htile]
  refine ⟨hthawed, hleft, ?_, ?_⟩
  · rw [done_complete (show (0 : Nat) < 8 by decide) hnext hout]
    rfl
  · rw [recf_complete_zero rfl hcause hnext hout, hw]

/-- A frozen handler's context that is reset ends. -/
theorem execMasterReset_context {p : Place} (hwho : f.who = .context p) (hfrozen : (s.ctx p).frozen = true) (hp : p.ctx ≠ 0)
    (htrap : (s.ctx p).trapRun = false) :
    ∃ u, exec .masterReset s = .next u ∧ (u.ctx p).phase = .idle ∧ (u.ctx p).frozen = false ∧ (u.ctx p).run = none := by
  let v := (s.unlisted.abandon p).updCtx p fun c => { c with frozen := false }
  have hv : v.ctx p = { s.ctx p with run := none, frozen := false } := by
    rw [State.ctx_updCtx, (abandon_spec s.unlisted p).2.2]
    rfl
  have hsettle : v.settleTrap p = v := State.settleTrap_eq (.inl (hv ▸ htrap))
  have hreset : s.unlisted.resetMaster f = v.endRun p := by
    have hthawed : ¬ (s.unlisted.ctx p).frozen = false := by
      rw [show (s.unlisted.ctx p).frozen = true from hfrozen]; exact nofun
    rw [State.resetMaster, hwho]
    simp only [if_neg hthawed, if_neg hp]
    rw [State.endHandler, hsettle]
  refine ⟨_, execMasterReset_of hf, ?_⟩
  rw [hreset]
  exact ⟨(v.ctx_endRun p).1, (v.frozen_endRun p).trans (by rw [hv]), (v.ctx_endRun p).2⟩

end Frozen

/-! ### The contexts of a halted die (R368) -/

section Halted
variable {s : State}

theorem execHaltedContextWrite_running (h : (s.die s.focus.die).halt = none) (b : Option (List Byte)) : exec (.haltedContextWrite b) s = .next s :=
  congrArg Host.Outcome.next (if_pos (.inl (by rw [h]; rfl)))

variable (h : (s.die s.focus.die).halt.isSome = true)
include h

theorem execHaltedContextWrite_read : exec (.haltedContextWrite none) s =
    .next (s.updDie s.focus.die fun x => { x with image := (s.ctx s.focus).image s.focus.ctx (s.taskOn s.focus) }) := by
  have hgo : ¬ ((s.die s.focus.die).halt.isNone = true ∨ ((s.ctx s.focus).run.any Run.committing) = true ∧ (none : Option (List Byte)).isSome = true) := by
    rw [Option.isNone_eq_false_iff.mpr h]
    exact fun g => g.elim nofun fun g => absurd g.2 nofun
  exact congrArg Host.Outcome.next (if_neg hgo)

theorem execHaltedContextWrite_image {b : List Byte} (hlen : b.length = imageSize s.focus.ctx) (hok : imageOk s.focus.ctx b = true) (hctx : s.focus.ctx ≠ 0)
    (hrun : (s.ctx s.focus).run.any Run.committing = false) :
    exec (.haltedContextWrite (some b)) s = .next ((s.abandon s.focus).restoreCtx s.focus s.focus.ctx b) := by
  have hgo : ¬ ((s.die s.focus.die).halt.isNone = true ∨ ((s.ctx s.focus).run.any Run.committing) = true ∧ (some b).isSome = true) := by
    rw [Option.isNone_eq_false_iff.mpr h, hrun]
    exact fun g => g.elim nofun fun g => absurd g.1 nofun
  exact congrArg Host.Outcome.next ((if_neg hgo).trans (if_pos ⟨hlen, hok, fun g => absurd g hctx⟩))

omit h in
theorem execHaltedContextWrite_refused {b : List Byte} (hbad : b.length ≠ imageSize s.focus.ctx ∨ imageOk s.focus.ctx b = false) :
    exec (.haltedContextWrite (some b)) s = .next s := by
  have hnot : ¬ (b.length = imageSize s.focus.ctx ∧ imageOk s.focus.ctx b = true ∧
      (s.focus.ctx = 0 → fld (imageWord b 0) 32 32 = s.taskOn s.focus)) := fun ⟨hlen, hok, _⟩ =>
    hbad.elim (fun g => g hlen) fun g => absurd (g.symm.trans hok) nofun
  show execHaltedContextWrite (some b) s = _
  rw [execHaltedContextWrite]
  show Host.Outcome.next (ite _ _ (ite _ _ _)) = _
  rw [if_neg hnot, ite_self]

end Halted

/-! ### Machine checks (R355) -/

section Checks
variable {s : State} {t : Nat} (ht : (s.die s.focus.die).checks[s.index]? = some t)
include ht

/-- The state once the report in turn is counted. -/
def State.checked (s : State) : State :=
  (s.updDie s.focus.die fun x => { x with checks := dropAt x.checks s.index }).count (checkCounter s.focus.die)

/-- The regions of the fault domain of a tile. -/
def State.sameDomain (s : State) (d t : Nat) : List Nat :=
  (s.regions.map (·.1)).filter fun r => fldN (s.eff r 4) 10 8 == fldN (s.eff (s.tile d t).region 4) 10 8

theorem execMachineCheck_free (htask : (s.tile s.focus.die t).task = none) (htold : s.sameDomain s.focus.die t = []) :
    exec .machineCheck s = .next s.checked := by
  show execMachineCheck s = _
  rw [execMachineCheck]
  simp only [ht, htask]
  rw [← State.sameDomain, htold]
  rfl

theorem execMachineCheck_task {id : BitVec 32} (htask : (s.tile s.focus.die t).task = some id)
    (htold : s.sameDomain s.focus.die t = [Rec.region (s.slot s.focus.die (idSlot id)).raw]) :
    exec .machineCheck s = .next (s.checked.endTask s.focus.die (idSlot id) 7 0x3F 0 false false) := by
  show execMachineCheck s = _
  rw [execMachineCheck]
  simp only [ht, htask]
  rw [← State.sameDomain, htold]
  have hnone : [Rec.region (s.slot s.focus.die (idSlot id)).raw].filter (fun r => r != Rec.region (s.slot s.focus.die (idSlot id)).raw) = [] := by simp
  rw [hnone]
  rfl

end Checks

/-! ### Keys and throttling (R380, R384) -/

theorem execKeySlotLoad_used {s : State} {k : Nat} (h : s.slotUsed k = true) (a b : BitVec 128) : exec (.keySlotLoad k a b) s = .next s :=
  congrArg Host.Outcome.next (if_pos h)

theorem execKeySlotLoad_free {s : State} {k : Nat} (h : s.slotUsed k = false) (a b : BitVec 128) :
    ∃ u, exec (.keySlotLoad k a b) s = .next u ∧ look? u.keys k = some (a, b) ∧ ∀ j, j ≠ k → look? u.keys j = look? s.keys j :=
  ⟨_, congrArg Host.Outcome.next (if_neg (by rw [h]; exact nofun)), look?_put .., fun _ hj => look?_put_ne _ _ hj⟩

section Throttle
variable {s : State} {r : Reading}

theorem execThrottleStepUp_enter (h : s.throttle ≤ throttleStep r) :
    ∃ u, exec (.throttleStepUp r) s = .next u ∧ u.throttle = throttleStep r ∧ u.coolSince = none ∧ u.reading = some r :=
  ⟨_, congrArg Host.Outcome.next (if_pos h), rfl, rfl, rfl⟩

theorem execThrottleStepUp_below (h : throttleStep r < s.throttle) :
    ∃ u, exec (.throttleStepUp r) s = .next u ∧ u.throttle = s.throttle ∧ u.coolSince = some (s.coolSince.getD s.cycle) ∧ u.reading = some r :=
  ⟨_, congrArg Host.Outcome.next (if_neg (Nat.not_le.mpr h)), rfl, rfl, rfl⟩

/-- Each step has its own thresholds. -/
theorem throttleStep_iff (r : Reading) : (throttleStep r = 3 ↔ 16400 < r.watts ∨ 105 < r.dieC) ∧
    (2 ≤ throttleStep r ↔ 16000 < r.watts ∨ 100 < r.dieC) ∧ (1 ≤ throttleStep r ↔ 15500 < r.watts ∨ 95 < r.dieC) := by
  unfold throttleStep
  split_ifs <;> simp <;> omega

theorem execThrottleStepDown_none (h : s.coolSince = none) : exec .throttleStepDown s = .next s := by
  show execThrottleStepDown s = _
  rw [execThrottleStepDown, h]

variable {c : Nat} (hcool : s.coolSince = some c) (hread : s.reading = some r)
include hcool hread

theorem execThrottleStepDown_due (h : c + 12500000 ≤ s.cycle) :
    ∃ u, exec .throttleStepDown s = .next u ∧ u.throttle = s.throttle - 1 ∧ u.mem = s.mem := by
  have heq : exec .throttleStepDown s =
      .next { s with throttle := s.throttle - 1, coolSince := if throttleStep r < s.throttle - 1 then some s.cycle else none } := by
    show execThrottleStepDown s = _
    rw [execThrottleStepDown, hcool, hread]
    exact congrArg Host.Outcome.next (if_neg (Nat.not_lt.mpr h))
  exact ⟨_, heq, rfl, rfl⟩

theorem execThrottleStepDown_early (h : s.cycle < c + 12500000) : exec .throttleStepDown s = .next s := by
  show execThrottleStepDown s = _
  rw [execThrottleStepDown, hcool, hread]
  exact congrArg Host.Outcome.next (if_pos h)

end Throttle

/-- Settles O51: a frozen master by its kind, the contexts of a halted die, and one rule for each service of firmware. -/
theorem protectionAndService : Obligations.ProtectionAndService := by
  intro s d
  refine ⟨fun _ _ => rfl, fun f hf => ?_, ?_, fun t ht => ⟨?_, ?_⟩, fun k a b => ⟨fun h => execKeySlotLoad_used h a b, fun h => execKeySlotLoad_free h a b⟩,
    fun r => ⟨execThrottleStepUp_enter, execThrottleStepUp_below, throttleStep_iff r⟩,
    fun c r hcool hread => ⟨execThrottleStepDown_due hcool hread, execThrottleStepDown_early hcool hread⟩, execThrottleStepDown_none⟩
  · exact ⟨fun _ => execMasterUnfreeze_context hf, fun _ => master_function hf, fun _ => master_peer hf, fun _ _ => execMasterUnfreeze_copyQueue hf,
      fun _ _ _ => execMasterReset_copyQueue hf, fun _ hwho hfrozen hp htrap _ => execMasterReset_context hf hwho hfrozen hp htrap⟩
  · exact ⟨execHaltedContextWrite_running, fun h => ⟨execHaltedContextWrite_read h, fun _ => execHaltedContextWrite_image h,
      fun _ => execHaltedContextWrite_refused⟩⟩
  · exact execMachineCheck_free ht
  · exact fun _ => execMachineCheck_task ht

end Sys2Proof.Machine
end
